-- ==== Sys2Proof/Word.lean ====
section
/-! DEFINITION. Words and bytes (R4: bit 0 is the least significant, bytes are little-endian). -/

namespace Sys2Proof

/-- A 64-bit register or address. -/
abbrev Word := BitVec 64
/-- One byte. -/
abbrev Byte := BitVec 8
/-- One vector, queue entry or granule: 32 bytes, byte 0 in bits [7:0] (R4, R189). -/
abbrev V256 := BitVec 256

end Sys2Proof
end

