-- ==== Sys2Proof/Machine/Bits.lean ====
section
/-! DEFINITION. Bit fields, sign extension and byte order (R4). -/

namespace Sys2Proof

/-- Bits [hi:lo] of a natural number. -/
def bits (x hi lo : Nat) : Nat := (x >>> lo) % 2 ^ (hi + 1 - lo)

/-- Whether bit k of a natural number is set. -/
def bit (x k : Nat) : Bool := (x >>> k) % 2 == 1

/-- The two's-complement value of the low w bits of x (R130). -/
def sintOf (w x : Nat) : Int :=
  let y := x % 2 ^ w
  if w = 0 then 0 else if y < 2 ^ (w - 1) then (y : Int) else (y : Int) - (2 ^ w : Nat)

/-- The w-bit code of an integer, modulo 2^w. -/
def wrapInt (w : Nat) (x : Int) : Nat := (x % ((2 ^ w : Nat) : Int)).toNat

/-- A 64-bit word from a natural number, modulo 2^64. -/
def word (n : Nat) : Word := BitVec.ofNat 64 n

/-- ⌈a / b⌉ for b > 0. -/
def ceilDiv (a b : Nat) : Nat := (a + b - 1) / b

/-- The n low bytes of a value, lowest byte first (R4). -/
def bytesOf : Nat → Nat → List Byte
  | 0, _ => []
  | n + 1, x => BitVec.ofNat 8 x :: bytesOf n (x / 256)

/-- The value of a list of bytes, lowest byte first (R4). -/
def natOfBytes : List Byte → Nat
  | [] => 0
  | b :: bs => b.toNat + 256 * natOfBytes bs

/-- 1 for true, 0 for false. -/
def natOfBool (b : Bool) : Nat := if b then 1 else 0

/-- The parity (XOR) of the n low bits of x (R37). -/
def parity : Nat → Nat → Bool
  | 0, _ => false
  | n + 1, x => (x % 2 == 1) != parity n (x / 2)

/-- Insert the w-bit value y at bit lo of x. -/
def putBits (x lo w y : Nat) : Nat := x - bits x (lo + w - 1) lo * 2 ^ lo + (y % 2 ^ w) * 2 ^ lo

end Sys2Proof
end

