-- ==== Sys2Proof/Machine/Ecdsa.lean ====
section
/-! DEFINITION. The signatures of the Logbook and of firmware records: ECDSA over brainpoolP384r1 with SHA-384 and the nonce
of RFC 6979 (R381, R405). The numbers are those of RFC 5639, which R381 names. -/

namespace Sys2Proof.Machine.Ecdsa

/-- The field of the curve y² = x³ + A·x + B. -/
def fieldP : Nat := 0x8CB91E82A3386D280F5D6F7E50E641DF152F7109ED5456B412B1DA197FB71123ACD3A729901D1A71874700133107EC53
def coeffA : Nat := 0x7BC382C63D8C150C3C72080ACE05AFA0C2BEA28E4FB22787139165EFBA91F90F8AA5814A503AD4EB04A8C7DD22CE2826
def coeffB : Nat := 0x04A8C7DD22CE28268B39B55416F0447C2FB77DE107DCD2A62E880EA53EEB62D57CB4390295DBC9943AB78696FA504C11
def baseX : Nat := 0x1D1C64F068CF45FFA2A63A81B7C13F6B8847A3E77EF14FE3DB7FCAFE0CBD10E8E826E03436D646AAEF87B2E247D4AF1E
def baseY : Nat := 0x8ABE1D7520F9C2A45CB1EB8E95CFD55262B70B29FEEC5864E19C054FF99129280E4646217791811142820341263C5315
/-- The order of the base point. -/
def orderQ : Nat := 0x8CB91E82A3386D280F5D6F7E50E641DF152F7109ED5456B31F166E6CAC0425A7CF3AB6AF6B7FC3103B883202E9046565

/-- x to the e modulo m, over the low bits of e. -/
def powMod (m : Nat) : Nat → Nat → Nat → Nat
  | 0, _, _ => 1
  | n + 1, x, e => (if e % 2 = 1 then x else 1) * powMod m n (x * x % m) (e / 2) % m

/-- The inverse modulo a prime of 384 bits. -/
def invMod (m x : Nat) : Nat := powMod m 384 (x % m) (m - 2)
def subMod (m a b : Nat) : Nat := (a + (m - b % m)) % m

/-- A point of the curve; none stands for the point at infinity. -/
abbrev Point := Option (Nat × Nat)

def basePoint : Point := some (baseX, baseY)

/-- The third point of the line of slope k through (x, y) and one at x', reflected. -/
def chord (k x y x' : Nat) : Nat × Nat :=
  let u := subMod fieldP (subMod fieldP (k * k) x) x'
  (u, subMod fieldP (k * subMod fieldP x u) y)

/-- The sum of two points. -/
def Point.plus : Point → Point → Point
  | none, b => b
  | a, none => a
  | some (x, y), some (x', y') =>
    if x ≠ x' then some (chord (subMod fieldP y' y * invMod fieldP (subMod fieldP x' x) % fieldP) x y x')
    else if (y + y') % fieldP = 0 then none
    else some (chord ((3 * x * x + coeffA) * invMod fieldP (2 * y) % fieldP) x y x)

/-- n times a point, over the low bits of n. -/
def Point.times : Nat → Nat → Point → Point
  | 0, _, _ => none
  | b + 1, n, a => (if n % 2 = 1 then a else none).plus (Point.times b (n / 2) (a.plus a))

/-- n times the base point. -/
def ofScalar (n : Nat) : Point := Point.times 384 n basePoint

/-- HMAC of RFC 2104 with SHA-384, whose block is 128 bytes, under a key of 48. -/
def hmac (key data : List Byte) : List Byte :=
  let pad (b : Byte) : List Byte := (key.map (· ^^^ b)) ++ List.replicate 80 b
  Sha.sha384 (pad 0x5C ++ Sha.sha384 (pad 0x36 ++ data))

/-- The generator state of RFC 6979 after one update with a suffix. -/
def stir (k v suffix : List Byte) : List Byte × List Byte :=
  let k := hmac k (v ++ suffix)
  (k, hmac k v)

/-- The private key that seed data gives: 1 to q − 1. -/
def privateKey (seed : Nat) : Nat := seed % (orderQ - 1) + 1

/-- A signature with the nonces the generator gives, the first that serves. -/
def trySign (d e : Nat) : Nat → List Byte × List Byte → Nat × Nat
  | 0, _ => (0, 0)
  | n + 1, (k, v) =>
    let v := hmac k v
    let t := Sha.beNat v
    let r := match ofScalar t with | some (x, _) => x % orderQ | none => 0
    let s := invMod orderQ t * (e + d * r) % orderQ
    if t = 0 ∨ orderQ ≤ t ∨ r = 0 ∨ s = 0 then trySign d e n (stir k v [0]) else (r, s)

/-- The signature (r, s) of a message under a private key. -/
def sign (d : Nat) (message : List Byte) : List Byte :=
  let e := Sha.beNat (Sha.sha384 message) % orderQ
  let seed := Sha.beBytes 48 d ++ Sha.beBytes 48 e
  let (k, v) := stir (List.replicate 48 0) (List.replicate 48 1) (0 :: seed)
  let (k, v) := stir k v (1 :: seed)
  let (r, s) := trySign d e 256 (k, v)
  Sha.beBytes 48 r ++ Sha.beBytes 48 s

/-- The public key (x, y) of a private key. -/
def publicKey (d : Nat) : List Byte :=
  match ofScalar d with
  | some (x, y) => Sha.beBytes 48 x ++ Sha.beBytes 48 y
  | none => List.replicate 96 0

/-- A signature (r, s) of a message verifies against a public key. -/
def verifies (key : Point) (message signature : List Byte) : Bool :=
  let e := Sha.beNat (Sha.sha384 message)
  let r := Sha.beNat (signature.take 48)
  let s := Sha.beNat ((signature.drop 48).take 48)
  let w := invMod orderQ s
  0 < r && r < orderQ && 0 < s && s < orderQ &&
  match (ofScalar (e * w % orderQ)).plus (Point.times 384 (r * w % orderQ) key) with
  | some (x, _) => x % orderQ == r
  | none => false

end Sys2Proof.Machine.Ecdsa
end

