-- ==== Sys2Proof/Syntax.lean ====
section
/-! DEFINITION. The instructions of the SK-A9 (R34, R59) and the machine's own acts that spec/opcode_table.json
lists beside them: one constructor per row. Operand records follow the format classes of R53 to R58. -/

namespace Sys2Proof

/-- Element formats (R51). -/
inductive Fmt
  | none | f64 | f32 | f16 | bf16 | e4m3 | e5m2 | m4
  | i8 | i16 | i32 | i64 | n8 | n16 | n32 | n64
  deriving DecidableEq, Repr

/-- What a ten-bit register field names (R48). The reserved codes have no constructor. -/
inductive Reg
  | g (k : BitVec 5)
  | p (k : BitVec 3)
  | q (k : BitVec 3)
  | t (k : BitVec 6)
  | z (k : BitVec 4)
  | v (k : BitVec 8)
  | sys (k : Fin 510)
  | win
  | lit
  deriving DecidableEq, Repr

/-- The fields every class shares below OP and FN (R47). -/
structure Hd where
  rm : BitVec 3
  pg : BitVec 3
  d : Reg
  s1 : Reg
  s2 : Reg
  s3 : Reg
  deriving DecidableEq, Repr

/-- Classes A and B, and LDC: EXT as one field (R53, R55, R183). -/
structure AOps where
  h : Hd
  ext : BitVec 36
  deriving DecidableEq, Repr

/-- Class M (R54). EXT[24] is reserved and not held. -/
structure MOps where
  h : Hd
  fmt : Fmt
  v : Bool
  ord : BitVec 2
  scope : BitVec 3
  zf : Bool
  off : BitVec 24
  deriving DecidableEq, Repr

/-- Class X (R56). -/
structure XOps where
  h : Hd
  g1 : BitVec 2
  g2 : BitVec 2
  g3 : BitVec 2
  fmt1 : Fmt
  fmt2 : Fmt
  tz : Bool
  tv : Bool
  w : BitVec 20
  deriving DecidableEq, Repr

/-- Class T (R57). -/
structure TOps where
  h : Hd
  fmt1 : Fmt
  fmt2 : Fmt
  opt : BitVec 8
  w : BitVec 20
  deriving DecidableEq, Repr

/-- Class E, command layout (R58). -/
structure EOps where
  h : Hd
  f : Bool
  ch : BitVec 4
  scope : BitVec 3
  opt : BitVec 4
  fmt : Fmt
  w : BitVec 20
  deriving DecidableEq, Repr

/-- Class E, target layout (R58): each target holds a signed line offset [17:3] and a slot [2:0]. -/
structure FOps where
  h : Hd
  t1 : BitVec 18
  t2 : BitVec 18
  deriving DecidableEq, Repr

/-- One constructor per row of spec/opcode_table.json. The rows from LINK_ENABLE on are acts of the machine and of
its surroundings; they have no encoding, and `step` chooses among those that can happen. -/
inductive Instr
  /-- R59: No operation; the all-zero word. -/
  | nop (o : AOps)
  /-- R264: Raises a trap with a software-chosen cause and TVAL, with TPC at its successor. -/
  | trapc (o : AOps)
  /-- R263: Returns from a trap handler, restarting at the region entry, TNEXT or TPC, or abandoning the firing. -/
  | trapret (o : AOps)
  /-- R349: Creates a region from an RCB template under a parent and returns a code and the region number. -/
  | rgnNew (o : EOps)
  /-- R350: Sets or clears the override of one RCB field and returns a code. -/
  | rgnSet (o : EOps)
  /-- R351: Kills a region and its descendants, deepest first, in four ordered steps. -/
  | rgnKill (o : EOps)
  /-- R353: Performs a bind operation from S mode on a target core and returns a code. -/
  | bind (o : EOps)
  /-- R360: Mode 0: pre-empts the firing on a named context into the core's frame store. -/
  | preemptFiring (o : EOps)
  /-- R361: Mode 1: switches a whole region out to its save area. -/
  | preemptRegion (o : EOps)
  /-- R361: Mode 2: restores a saved region onto its rebound cores and makes it LIVE. -/
  | preemptResume (o : EOps)
  /-- R163: 64-bit wrapping add. -/
  | add (o : AOps)
  /-- R163: 64-bit wrapping subtract. -/
  | sub (o : AOps)
  /-- R163: Low 64 bits of a product. -/
  | mul (o : AOps)
  /-- R163: High 64 bits of the signed 128-bit product. -/
  | mulhI64 (o : AOps)
  /-- R163: High 64 bits of the unsigned 128-bit product. -/
  | mulhN64 (o : AOps)
  /-- R164: Signed quotient truncated toward zero; zero divisor faults. -/
  | quoI64 (o : AOps)
  /-- R164: Unsigned quotient; zero divisor faults. -/
  | quoN64 (o : AOps)
  /-- R164: Signed remainder with the sign of the dividend. -/
  | remI64 (o : AOps)
  /-- R164: Unsigned remainder. -/
  | remN64 (o : AOps)
  /-- R163: Bitwise AND. -/
  | andBits (o : AOps)
  /-- R163: Bitwise OR. -/
  | orBits (o : AOps)
  /-- R163: Bitwise XOR. -/
  | xorBits (o : AOps)
  /-- R163: a AND NOT b. -/
  | andn (o : AOps)
  /-- R165: Left shift, zero for counts of 64 or more. -/
  | shl (o : AOps)
  /-- R165: Logical right shift. -/
  | shr (o : AOps)
  /-- R165: Arithmetic right shift. -/
  | sra (o : AOps)
  /-- R165: Rotate left by b mod 64. -/
  | rot (o : AOps)
  /-- R163: Count of leading zeros. -/
  | clz (o : AOps)
  /-- R163: Count of trailing zeros. -/
  | ctz (o : AOps)
  /-- R163: Count of ones. -/
  | popc (o : AOps)
  /-- R166: Compares two values into a predicate under the RM condition. -/
  | cmp (o : AOps)
  /-- R166: Selects one of two values by a predicate. -/
  | sel (o : AOps)
  /-- R163: Signed minimum. -/
  | minI64 (o : AOps)
  /-- R163: Unsigned minimum. -/
  | minN64 (o : AOps)
  /-- R163: Signed maximum. -/
  | maxI64 (o : AOps)
  /-- R163: Unsigned maximum. -/
  | maxN64 (o : AOps)
  /-- R163: Copies a register, literal or window word. -/
  | mov (o : AOps)
  /-- R167: Forms a + (b << c). -/
  | lea (o : AOps)
  /-- R168: Builds a pool address of another core from coordinate fields. -/
  | gaddr (o : AOps)
  /-- R169: Extracts a bit field, sign-extended. -/
  | bfxI64 (o : AOps)
  /-- R169: Extracts a bit field, zero-extended. -/
  | bfxN64 (o : AOps)
  /-- R169: Inserts a bit field. -/
  | bfi (o : AOps)
  /-- R75: Direct branch to a tested target. -/
  | br (o : AOps)
  /-- R75: Direct branch with link. -/
  | brl (o : AOps)
  /-- R75: Branch to the address in a register. -/
  | jmp (o : AOps)
  /-- R75: Indirect branch with link, target read before link write. -/
  | jmpl (o : AOps)
  /-- R75: Branch to g31. -/
  | ret (o : AOps)
  /-- R75: Decrements a counter and branches while it is non-zero. -/
  | loop (o : AOps)
  /-- R73: Predicate AND. -/
  | pand (o : AOps)
  /-- R73: Predicate OR. -/
  | por (o : AOps)
  /-- R73: Predicate XOR. -/
  | pxor (o : AOps)
  /-- R73: Predicate NOT. -/
  | pnot (o : AOps)
  /-- R72: Address of an in port's oldest unconsumed entry plus K. -/
  | phead (o : AOps)
  /-- R72: Address of an out port's next free entry plus K. -/
  | ptail (o : AOps)
  /-- R72: Entries present in an in port or free in an out port. -/
  | pcnt (o : AOps)
  /-- R69: Ends the firing after its waits and commits consumption and production, or abandons it in S mode. -/
  | endFiring (o : AOps)
  /-- R70: Ends the firing without commit and makes the actor READY with wait age 0. -/
  | yield (o : AOps)
  /-- R80: Starts an idempotent region, recording its entry, live-in mask and predicate snapshot. -/
  | idem (o : AOps)
  /-- R78: Makes the X-half repeat the next n dispatched X entries c times with strides. -/
  | xloop (o : AOps)
  /-- R174: Loads into a g register or q0, local or remote. -/
  | ld (o : MOps)
  /-- R174: Stores from a g register or q1, posted when not performed at issue. -/
  | st (o : MOps)
  /-- R182: Loads up to 8 consecutive g registers. -/
  | ldm (o : MOps)
  /-- R182: Stores up to 8 consecutive g registers. -/
  | stm (o : MOps)
  /-- R183: Reads a window word at a run-time offset. -/
  | ldc (o : AOps)
  /-- R184: Asks for a line to be filled into the cache role; never faults. -/
  | pref (o : MOps)
  /-- R185: Writes back dirty sectors of a range in this core's cache role. -/
  | flush (o : MOps)
  /-- R185: Writes back and invalidates the lines of a range in this core's cache role. -/
  | inv (o : MOps)
  /-- R186: Gathers into q0 by an index list. -/
  | iget (o : MOps)
  /-- R186: Scatters from q1 by an index list as posted stores. -/
  | iput (o : MOps)
  /-- R180: Reads the three unacknowledged-store counts. -/
  | scnt (o : MOps)
  /-- R187: Passes the writer capability of an OW page to another core. -/
  | handover (o : MOps)
  /-- R188: Changes a page's coherence class through the transition protocol. -/
  | reclass (o : MOps)
  /-- R181: Waits for earlier loads and the store counts of its scope, then checks the store-error record. -/
  | fence (o : MOps)
  /-- R296: Atomic add without return. -/
  | amoAdd (o : MOps)
  /-- R296: Atomic AND without return. -/
  | amoAnd (o : MOps)
  /-- R296: Atomic OR without return. -/
  | amoOr (o : MOps)
  /-- R296: Atomic XOR without return. -/
  | amoXor (o : MOps)
  /-- R296: Atomic signed minimum without return. -/
  | amoMin (o : MOps)
  /-- R296: Atomic signed maximum without return. -/
  | amoMax (o : MOps)
  /-- R296: Atomic unsigned minimum without return. -/
  | amoUmin (o : MOps)
  /-- R296: Atomic unsigned maximum without return. -/
  | amoUmax (o : MOps)
  /-- R296: Atomic swap without return. -/
  | amoSwap (o : MOps)
  /-- R296: Atomic floating-point add without return. -/
  | amoFadd (o : MOps)
  /-- R296: Atomic add returning the old value. -/
  | amofAdd (o : MOps)
  /-- R296: Atomic AND returning the old value. -/
  | amofAnd (o : MOps)
  /-- R296: Atomic OR returning the old value. -/
  | amofOr (o : MOps)
  /-- R296: Atomic XOR returning the old value. -/
  | amofXor (o : MOps)
  /-- R296: Atomic signed minimum returning the old value. -/
  | amofMin (o : MOps)
  /-- R296: Atomic signed maximum returning the old value. -/
  | amofMax (o : MOps)
  /-- R296: Atomic unsigned minimum returning the old value. -/
  | amofUmin (o : MOps)
  /-- R296: Atomic unsigned maximum returning the old value. -/
  | amofUmax (o : MOps)
  /-- R296: Atomic swap returning the old value. -/
  | amofSwap (o : MOps)
  /-- R296: Atomic floating-point add returning the old value. -/
  | amofFadd (o : MOps)
  /-- R290: Commutative add into the update-only delta. -/
  | amoUAdd (o : MOps)
  /-- R290: Commutative AND into the update-only delta. -/
  | amoUAnd (o : MOps)
  /-- R290: Commutative OR into the update-only delta. -/
  | amoUOr (o : MOps)
  /-- R290: Commutative XOR into the update-only delta. -/
  | amoUXor (o : MOps)
  /-- R290: Commutative signed minimum into the update-only delta. -/
  | amoUMin (o : MOps)
  /-- R290: Commutative signed maximum into the update-only delta. -/
  | amoUMax (o : MOps)
  /-- R290: Commutative unsigned minimum into the update-only delta. -/
  | amoUUmin (o : MOps)
  /-- R290: Commutative unsigned maximum into the update-only delta. -/
  | amoUUmax (o : MOps)
  /-- R290: Floating-point add into the update-only delta. -/
  | amoUFadd (o : MOps)
  /-- R296: Compare-and-swap of 4 or 8 bytes. -/
  | cas (o : MOps)
  /-- R296: Compare-and-swap of 16 bytes on register pairs. -/
  | casw (o : MOps)
  /-- R300: Initialises a barrier cell. -/
  | bari (o : MOps)
  /-- R300: Arrives at a barrier cell, releasing waiters on the last arrival. -/
  | bar (o : MOps)
  /-- R300: Waits until a barrier's generation changes. -/
  | barw (o : MOps)
  /-- R377: Arrives at the deterministic round and waits for it to close, returning its status. -/
  | dmclose (o : EOps)
  /-- R364: Invalidates translations at a scope, counted down on a counter by each target. -/
  | tlbi (o : EOps)
  /-- R302: Pushes a task record onto this core's deque. -/
  | fork (o : FOps)
  /-- R304: Decrements a join counter; the last arm continues, others end as END. -/
  | join (o : FOps)
  /-- R302: Reads the deque's occupancy. -/
  | dqcnt (o : EOps)
  /-- R308: Takes a free future entry and returns its handle. -/
  | futNew (o : EOps)
  /-- R307: Resolves a future after a system fence, completing its waiters. -/
  | futSet (o : EOps)
  /-- R307: Reads a resolved future or waits on a pending one. -/
  | futGet (o : EOps)
  /-- R307: Frees a future entry and advances its generation. -/
  | futFree (o : EOps)
  /-- R311: Binds a mailbox of this core to a handler and returns a code. -/
  | mbxBind (o : EOps)
  /-- R311: Unbinds an empty idle mailbox and returns a code. -/
  | mbxFree (o : EOps)
  /-- R311: Reads a word of the message that launched the handler. -/
  | mbxrd (o : EOps)
  /-- R312: After a fence, posts a message entry to a mailbox or host queue. -/
  | send (o : EOps)
  /-- R313: Sends an event to named contexts of a core. -/
  | evt (o : EOps)
  /-- R256: Waits until the event latch differs from a value or a limit expires. -/
  | wfe (o : EOps)
  /-- R314: Makes the context the core's gang member if none is. -/
  | gangOn (o : EOps)
  /-- R314: Ends the context's gang membership. -/
  | gangOff (o : EOps)
  /-- R358: Splits a trip count into shares on recruited or logical cores through a counting join cell. -/
  | rfork (o : FOps)
  /-- R352: Hands a launch record to the Almanac firmware and returns the all-or-nothing result. -/
  | launch (o : EOps)
  /-- R113: Checks and, if allowed, moves banks between two pool roles, returning a code. -/
  | poolset (o : AOps)
  /-- R11: As POOLSET but waits through BUSY_FILL and IN_PROGRESS refusals. -/
  | poolsetWait (o : AOps)
  /-- R110: Reads a role's bank count. -/
  | poolrd (o : AOps)
  /-- R109: Sets the SCR high-water mark. -/
  | hwmSet (o : AOps)
  /-- R103: Sets a view register after waiting for the pool and its users. -/
  | viewSet (o : AOps)
  /-- R103: Ends a view's life. -/
  | viewClr (o : AOps)
  /-- R118: Defines a tile-table entry. -/
  | tset (o : AOps)
  /-- R118: Reads a tile's state, error bit and reader count. -/
  | tstat (o : AOps)
  /-- R118: Returns an idle tile to EMPTY or reports TILE_BUSY. -/
  | tclr (o : AOps)
  /-- R93: Pops the oldest q1 entry into a g register. -/
  | qpop (o : AOps)
  /-- R93: Reads a queue's occupancy. -/
  | qcnt (o : AOps)
  /-- R95: Binds a stream head to an affine pattern record. -/
  | streamBind (o : AOps)
  /-- R99: Drains or discards a stream and unbinds it. -/
  | streamEnd (o : AOps)
  /-- R121: Sets a constant-window base and invalidates its cache. -/
  | winSet (o : AOps)
  /-- R123: Reads a system register, waiting where the register requires. -/
  | srd (o : AOps)
  /-- R123: Writes the writable fields of a system register that has no row of its own. -/
  | swr (o : AOps)
  /-- R382: Reads a Logbook word, signing the manifest first if needed. -/
  | logrd (o : AOps)
  /-- R383: Extends a manifest component or sets the challenge. -/
  | logext (o : AOps)
  /-- R197: Lane add. -/
  | vadd (o : XOps)
  /-- R197: Lane subtract. -/
  | vsub (o : XOps)
  /-- R197: Lane multiply. -/
  | vmul (o : XOps)
  /-- R197: Lane minimum. -/
  | vmin (o : XOps)
  /-- R197: Lane maximum. -/
  | vmax (o : XOps)
  /-- R197: Lane magnitude. -/
  | vabs (o : XOps)
  /-- R197: Lane negation. -/
  | vneg (o : XOps)
  /-- R197: Fused a × b + c. -/
  | vfma (o : XOps)
  /-- R197: Fused a × b − c. -/
  | vfms (o : XOps)
  /-- R197: Fused c − a × b. -/
  | vfnma (o : XOps)
  /-- R200: Compares lanes into a mask. -/
  | vcmp (o : XOps)
  /-- R201: Selects lanes by a mask. -/
  | vsel (o : XOps)
  /-- R201: Classifies floating-point lanes. -/
  | vclass (o : XOps)
  /-- R202: Converts lanes between formats. -/
  | vcvt (o : XOps)
  /-- R203: Sums lanes by the fixed pairwise tree. -/
  | vrsum (o : XOps)
  /-- R203: Maximum over lanes by the fixed tree. -/
  | vrmax (o : XOps)
  /-- R203: Minimum over lanes by the fixed tree. -/
  | vrmin (o : XOps)
  /-- R204: Bitwise AND of vectors. -/
  | vand (o : XOps)
  /-- R204: Bitwise OR of vectors. -/
  | vor (o : XOps)
  /-- R204: Bitwise XOR of vectors. -/
  | vxor (o : XOps)
  /-- R204: a AND NOT b of vectors. -/
  | vandn (o : XOps)
  /-- R204: Lane left shift. -/
  | vshl (o : XOps)
  /-- R204: Lane logical right shift. -/
  | vshr (o : XOps)
  /-- R204: Lane arithmetic right shift. -/
  | vsra (o : XOps)
  /-- R198: Saturating lane add. -/
  | vadds (o : XOps)
  /-- R198: Saturating lane subtract. -/
  | vsubs (o : XOps)
  /-- R198: High half of lane products. -/
  | vmulh (o : XOps)
  /-- R205: Permutes lanes by an index vector. -/
  | vperm (o : XOps)
  /-- R205: Broadcasts a lane or a scalar to every lane. -/
  | vbcast (o : XOps)
  /-- R205: Rotates lanes. -/
  | vrot (o : XOps)
  /-- R206: Interleaves halves of two vectors. -/
  | vzip (o : XOps)
  /-- R206: Deinterleaves two vectors. -/
  | vunzip (o : XOps)
  /-- R206: Compresses lanes by a mask. -/
  | vcomp (o : XOps)
  /-- R207: Moves a lane to a g register. -/
  | vext (o : XOps)
  /-- R207: Inserts a scalar into a lane. -/
  | vins (o : XOps)
  /-- R207: Copies a vector. -/
  | vmov (o : XOps)
  /-- R208: Packs lane sign bits into a g register. -/
  | vsign (o : XOps)
  /-- R209: Draws one block from the context's random stream. -/
  | vrand (o : XOps)
  /-- R210: Correctly rounded lane quotient. -/
  | div (o : XOps)
  /-- R210: Correctly rounded lane square root. -/
  | sqrt (o : XOps)
  /-- R210: Lane reciprocal. -/
  | rcp (o : XOps)
  /-- R210: Lane reciprocal square root. -/
  | rsq (o : XOps)
  /-- R210: Lane e to the power a. -/
  | exp (o : XOps)
  /-- R210: Lane 2 to the power a. -/
  | expB2 (o : XOps)
  /-- R210: Lane natural logarithm. -/
  | log (o : XOps)
  /-- R210: Lane base-2 logarithm. -/
  | logB2 (o : XOps)
  /-- R210: Lane sine. -/
  | sin (o : XOps)
  /-- R210: Lane cosine. -/
  | cos (o : XOps)
  /-- R210: Lane hyperbolic tangent. -/
  | tanh (o : XOps)
  /-- R210: Lane logistic function. -/
  | tanhSig (o : XOps)
  /-- R210: Lane error function. -/
  | erf (o : XOps)
  /-- R218: Dense block product into an accumulator view. -/
  | mma (o : TOps)
  /-- R219: 2:4 structured-sparse block product. -/
  | mmaS (o : TOps)
  /-- R218: FP64 block product fused in ascending k. -/
  | dmma (o : TOps)
  /-- R220: Applies block and tensor scales into an accumulator. -/
  | mscale (o : TOps)
  /-- R221: Clears an accumulator and its ZFLAGS entry. -/
  | mzero (o : TOps)
  /-- R222: Reads to q1 and clears bits of a ZFLAGS entry. -/
  | mflags (o : TOps)
  /-- R223: Remote-writes an accumulator's rows to a scratchpad. -/
  | mdrain (o : TOps)
  /-- R224: Fills a tile from memory rows. -/
  | mload (o : TOps)
  /-- R224: Writes a tile to memory rows as posted writes. -/
  | mstore (o : TOps)
  /-- R225: Transposes a tile. -/
  | mxpose (o : TOps)
  /-- R226: Converts an accumulator into a tile format. -/
  | mcvt (o : TOps)
  /-- R235: Attaches an edge between a variable and a factor. -/
  | gatt (o : XOps)
  /-- R235: Closes an edge. -/
  | gdet (o : XOps)
  /-- R238: Sums the prior and live slots into the belief. -/
  | gbel (o : XOps)
  /-- R238: Combines joint or prior with incoming messages except one edge. -/
  | gcomb (o : XOps)
  /-- R239: Marginalises a joint onto one position. -/
  | gmarg (o : XOps)
  /-- R240: Damps a message against the last one sent. -/
  | gdamp (o : XOps)
  /-- R242: Writes an out-slot and posts it to the peer in-slot. -/
  | gsend (o : XOps)
  /-- R241: Computes a residual and updates the convergence registers. -/
  | gres (o : XOps)
  /-- R243: Turns a belief into a mean and covariance. -/
  | gmean (o : XOps)
  /-- R250: Starts a marker cut of the region's graph. -/
  | gcut (o : XOps)
  /-- R253: Reads a graph actor's snapshot for the last cut. -/
  | gcutrd (o : XOps)
  /-- R248: Reads, and optionally clears, a convergence register or RCONV. -/
  | cvrd (o : XOps)
  /-- R333: Defines or undefines a catalogue from a record. -/
  | cdef (o : EOps)
  /-- R340: Exchanges two catalogue numbers in one act. -/
  | cswap (o : EOps)
  /-- R341: Reads, and optionally clears, a catalogue counter. -/
  | cstat (o : EOps)
  /-- R334: Inserts an entry into each table of a catalogue. -/
  | cins (o : EOps)
  /-- R334: Deletes an entry from each table of a catalogue. -/
  | cdel (o : EOps)
  /-- R336: LSH probe writing a sorted candidate list. -/
  | cprobe (o : EOps)
  /-- R337: Exact-key lookup. -/
  | clook (o : EOps)
  /-- R338: Starts or steps a catalogue migration to a new geometry. -/
  | crehash (o : EOps)
  /-- R335: Waits for the core's earlier catalogue updates and raises a recorded failure. -/
  | cfence (o : EOps)
  /-- R319: Queues a copy to a tile or address, with optional smoothing fold and follow-on. -/
  | hcopy (o : EOps)
  /-- R320: Queues a row gather into a tile by list. -/
  | hgath (o : EOps)
  /-- R320: Queues a row scatter from a tile by list. -/
  | hscat (o : EOps)
  /-- R321: Queues packing of a tile into row-pointer form. -/
  | hpack (o : EOps)
  /-- R321: Queues unpacking of row-pointer form into a tile. -/
  | hunpk (o : EOps)
  /-- R322: Waits for a tile's or channel's commands and returns the status. -/
  | hwait (o : EOps)
  /-- R323: Cancels the context's uncompleted commands on a channel. -/
  | hcancel (o : EOps)
  /-- R123: An SWR of VWV, VWT or VWZ, with the checks and faults of VIEW.SET. -/
  | viewRegisterWrite (o : AOps)
  /-- R215: An SWR of SCLBASE that waits until no entry still has to read scale memory. -/
  | sclbaseWrite (o : AOps)
  /-- R154: An SWR of FFLAGS, VSAT, RNGSTR or RNGCTR that waits for earlier X entries. -/
  | flagRegisterWrite (o : AOps)
  /-- R393: Setting LINKCTL.EN moves a DISABLED port to auto-negotiation. -/
  | linkEnable (pkg : Nat) (port : Nat)
  /-- R393: Clearing LINKCTL.EN moves a port to DISABLED. -/
  | linkDisable (pkg : Nat) (port : Nat)
  /-- R393: Writing LINKCTL.RETRAIN restarts bring-up at AN. -/
  | linkRetrain (pkg : Nat) (port : Nat)
  /-- R45: A fetched line arrives and its parity is checked before decode. -/
  | lineFetch (core : Nat) (fc : Nat) (flips : BitVec 512)
  /-- R45: The refetched copy of a line arrives; a second failure raises MACHINE_FETCH. -/
  | lineRefetch (core : Nat) (fc : Nat) (flips : BitVec 512)
  /-- R260: After earlier X entries complete or stall, records the trap and enters the handler or the default action. -/
  | trapEntry (core : Nat) (fc : Nat)
  /-- R356: The Firing Scheduler chooses a ready actor, saved firing or deque record for a free context. -/
  | firingStart (core : Nat)
  /-- R83: Pre-emption by region discard after the X-half and stores drain. -/
  | regionDiscard (core : Nat) (fc : Nat)
  /-- R84: Pre-emption at a stall point writing a whole-save frame. -/
  | wholeSave (core : Nat) (fc : Nat)
  /-- R63: The transfer unit forwards one committed out-ring entry and raises the target count. -/
  | portForward (core : Nat) (slot : Nat) (port : Nat)
  /-- R91: A load's data lands in its reserved q0 entry or g register. -/
  | loadDataReturn (txn : Nat)
  /-- R96: The transfer unit loads the next entry of a read stream. -/
  | streamReadFetch (core : Nat) (fc : Nat) (queue : Nat)
  /-- R97: The transfer unit stores a pushed write-stream entry as a posted store. -/
  | streamWriteStore (core : Nat) (fc : Nat) (queue : Nat)
  /-- R78: The sequencer runs one further pass of an XLOOP body. -/
  | xloopPass (core : Nat) (fc : Nat)
  /-- R179: An acknowledgement or refusal frees a posted-store entry and lowers its count. -/
  | storeAck (txn : Nat)
  /-- R171: A remote access arrives and is performed at the target core's bank. -/
  | remoteAccessPerform (txn : Nat)
  /-- R116: A waiting POOLSET.wait re-evaluates its checks after a pool, tile or ring change. -/
  | poolMoveRecheck (core : Nat) (fc : Nat)
  /-- R114: After handshake and zeroing, the banks join the gaining role and gD becomes OK. -/
  | poolMoveDone (core : Nat)
  /-- R217: A matrix entry completes, writing its accumulator and ZFLAGS together and releasing readers. -/
  | matrixEntryComplete (core : Nat) (fc : Nat)
  /-- R227: The engine issues the follow-on product once its destination tile is READY. -/
  | followOnProduct (cmd : Nat)
  /-- R315: A queued command starts on its channel. -/
  | heliostatCommandStart (cluster : Nat) (channel : Nat)
  /-- R318: A command ends and writes its completion status and tile state. -/
  | heliostatCommandComplete (cmd : Nat)
  /-- R224: The last row of an MLOAD lands and the tile turns READY, or an error empties it. -/
  | mloadFillComplete (core : Nat) (tile : Nat)
  /-- R224: The last row of an MSTORE is read and the tile returns to READY. -/
  | mstoreDrainComplete (core : Nat) (fc : Nat)
  /-- R223: After all rows are acknowledged, MDRAIN sends its wake. -/
  | mdrainWake (core : Nat) (fc : Nat)
  /-- R125: After IDLE quiet cycles the core enters its retention depth. -/
  | coreRetentionEntry (core : Nat)
  /-- R125: A wake event brings a retained core back to issue. -/
  | coreWake (core : Nat)
  /-- R274: Every LADV cycles each context's CTS rises by one. -/
  | ctsAdvance (core : Nat)
  /-- R269: A line fill lands in the cache role. -/
  | cacheFillComplete (txn : Nat)
  /-- R270: The home slice decides one request for a line. -/
  | homeRequest (txn : Nat)
  /-- R275: The grant of an EXCLUSIVE line arrives and the waiting store is performed. -/
  | hcExclusiveGrant (txn : Nat)
  /-- R276: The EXCLUSIVE owner returns the line's dirty sectors and timestamps. -/
  | hcRecall (line : Nat)
  /-- R290: The update-only grant arrives and pending updates apply to the delta. -/
  | uGrant (txn : Nat)
  /-- R291: The home recalls every U copy and merges the deltas. -/
  | uRecall (line : Nat)
  /-- R285: The home rewrites the capability word and sends the grant. -/
  | owHandoverAtHome (page : Nat)
  /-- R285: The capability grant arrives as an event to every context of the new holder. -/
  | owGrant (page : Nat)
  /-- R286: Every TLB confirms the mark and the old class's drain step runs. -/
  | reclassTlbsConfirmed (page : Nat)
  /-- R286: The page is clean and its writes performed; the new class is set and held accesses resume. -/
  | reclassDrained (page : Nat)
  /-- R312: A message entry reaches a mailbox and is appended, held or refused. -/
  | mailboxEntryArrival (txn : Nat)
  /-- R312: A held entry is appended when an entry of the full mailbox frees. -/
  | mailboxHeldAppend (core : Nat) (mailbox : Nat)
  /-- R313: An event adds one to the event latch of each named context holding a firing. -/
  | eventDelivery (event : Nat)
  /-- R256: The limit of a waiting WFE expires. -/
  | wfeTimeout (core : Nat) (fc : Nat)
  /-- R357: An idle core sends one steal request in its fixed order. -/
  | stealRequest (core : Nat)
  /-- R236: A sent message reaches an in-slot and is accepted or discarded. -/
  | gsendArrival (txn : Nat)
  /-- R250: A cut-start reaches a core and acts as a marker for its graph actors. -/
  | cutStartArrival (event : Nat)
  /-- R251: A marker reaches an actor on an edge. -/
  | markerArrival (event : Nat)
  /-- R247: The firmware makes a pass over the region's cores and sets or clears QUIET. -/
  | almanacQuietPass (rcb : Nat)
  /-- R335: The unit applies a posted update, recording any failure. -/
  | catalogueUpdateApply (cluster : Nat)
  /-- R363: The walker completes a walk and fills the TLBs or reports a fault. -/
  | pageWalk (quad : Nat) (root : Nat) (ea : Nat)
  /-- R364: A target drops matching entries, waits for their accesses and decrements the counter. -/
  | tlbiTarget (event : Nat)
  /-- R352: The Almanac firmware answers a launch with placement and binds. -/
  | launchFirmwareReply (launch : Nat)
  /-- R352: No firmware answer within 2^20 cycles refuses the launch with NOFIRM. -/
  | launchNofirmTimeout (launch : Nat)
  /-- R353: A bind record of OPC BIND places an actor, doing a first bind of the region if needed. -/
  | bindOpcBind (core : Nat) (record : List Word)
  /-- R353: A bind record of OPC UNBIND unbinds an actor. -/
  | unbind (core : Nat) (record : List Word)
  /-- R353: A bind record of OPC HOLD sends an actor to HELD. -/
  | hold (core : Nat) (record : List Word)
  /-- R353: A bind record of OPC RELEASE returns a HELD actor to IDLE or READY. -/
  | release (core : Nat) (record : List Word)
  /-- R374: A DM atomic becomes an entry in a line buffer or spill log and is acknowledged. -/
  | mergeEntryArrival (txn : Nat)
  /-- R378: Every line is released, DMSEQ advances and waiting DMCLOSEs complete. -/
  | dmRoundComplete (rcb : Nat)
  /-- R384: The module runs its seven bring-up steps in order. -/
  | powerUp (pkg : Nat)
  /-- R385: A die above 105 °C gets issue-free cycles inserted. -/
  | thermalThrottle (pkg : Nat) (die : Nat)
  /-- R385: Module power above 4.2 kW over 10 ms throttles issue. -/
  | powerThrottle (pkg : Nat) (die : Nat)
  /-- R385: A die at 115 °C shuts down the module. -/
  | thermalShutdown (pkg : Nat) (die : Nat)
  /-- R370: A stack transfer failing its CRC is retried. -/
  | dramCrcRetry (pkg : Nat) (site : Nat)
  /-- R370: A stack scrubs and corrects a row in the background. -/
  | dramScrub (pkg : Nat) (site : Nat)
  /-- R386: An uncorrectable dirty sector found at write-back is dropped and a fault record sent. -/
  | writebackUe (core : Nat) (line : Nat) (sector : Nat)
  /-- R393: Auto-negotiation resolves 800G with RS-FEC. -/
  | linkAnResolved (pkg : Nat) (port : Nat)
  /-- R393: Auto-negotiation exceeds 500 ms. -/
  | linkAnTimeout (pkg : Nat) (port : Nat)
  /-- R393: Every lane completes link training. -/
  | linkTrainDone (pkg : Nat) (port : Nat)
  /-- R393: Training exceeds 500 ms. -/
  | linkTrainTimeout (pkg : Nat) (port : Nat)
  /-- R393: FEC and PCS lock on all four lanes. -/
  | linkLock (pkg : Nat) (port : Nat)
  /-- R393: Lock is not reached within 10 ms. -/
  | linkLockTimeout (pkg : Nat) (port : Nat)
  /-- R393: Transport association completes and the port is UP. -/
  | linkAssocDone (pkg : Nat) (port : Nat)
  /-- R393: The link partner refuses association. -/
  | linkAssocRefused (pkg : Nat) (port : Nat)
  /-- R393: Association exceeds 100 ms. -/
  | linkAssocTimeout (pkg : Nat) (port : Nat)
  /-- R393: An UP port loses lock or exceeds the FEC error rate. -/
  | linkFail (pkg : Nat) (port : Nat)
  /-- R393: One second after failure the port returns to AN. -/
  | linkFailedRetry (pkg : Nat) (port : Nat)
  /-- R392: A fabric packet arrives and is performed at most once and acknowledged. -/
  | fabricPacketArrival (txn : Nat)
  /-- R395: Unacknowledged packets are resent on other ports. -/
  | fabricResend (txn : Nat)
  /-- R399: A packet unacknowledged within the fabric limit stops being resent and fails. -/
  | fabricTimeout (txn : Nat)
  /-- R401: A kind-0 inbound entry is appended to the bound mailbox. -/
  | hostQueueMessage (pkg : Nat) (queue : Nat) (endpoint : Nat) (entry : List Word)
  /-- R401: A kind-1 inbound entry runs a launch and posts its result. -/
  | hostQueueLaunch (pkg : Nat) (queue : Nat) (endpoint : Nat) (entry : List Word)
  /-- R401: A kind-2 inbound entry verifies a firmware record and posts its result. -/
  | hostQueueFirmware (pkg : Nat) (queue : Nat) (endpoint : Nat) (entry : List Word)
  /-- R402: The E-die appends an entry to a host's outbound ring when there is room. -/
  | outboundAppend (pkg : Nat) (queue : Nat)
  /-- R403: A host read through a window is checked and performed at the home. -/
  | hostWindowRead (pkg : Nat) (window : Nat) (endpoint : Nat) (offset : Nat) (length : Nat)
  /-- R403: A host write through a window is checked, performed and acknowledged. -/
  | hostWindowWrite (pkg : Nat) (window : Nat) (endpoint : Nat) (offset : Nat) (data : List Byte)
  /-- R332: The Catalogue Unit applies an accepted non-posted command (CDEF, CSWAP, CSTAT, CPROBE, CLOOK, CREHASH, or CINS/CDEL with gD) and writes its answer, with any list and word 3, to the pending gD. -/
  | catalogueCommandAnswer (cluster : Nat)
  deriving DecidableEq, Repr

end Sys2Proof
end

