-- ==== Sys2Proof/Machine/Legal.lean ====
section
/-! DEFINITION. The decode checks of R49 to R60: which field values each instruction accepts. -/

namespace Sys2Proof

/-- The streams of R34, and none for the machine's own acts. -/
inductive Stream
  | a | x | e | none
  deriving DecidableEq, Repr

def Reg.isG : Reg → Bool | .g _ => true | _ => false
def Reg.isP : Reg → Bool | .p _ => true | _ => false
def Reg.isQ : Reg → Bool | .q _ => true | _ => false
def Reg.isT : Reg → Bool | .t _ => true | _ => false
def Reg.isZ : Reg → Bool | .z _ => true | _ => false
def Reg.isV : Reg → Bool | .v _ => true | _ => false
def Reg.isWin : Reg → Bool | .win => true | _ => false
def Reg.isLit : Reg → Bool | .lit => true | _ => false
/-- An unused field holds 0x000, the code of g0 (R49). -/
def Reg.isZero : Reg → Bool | .g k => k == 0 | _ => false
/-- p1 to p7: p0 is never a destination (R17, R73, R161). -/
def Reg.isPDest : Reg → Bool | .p k => k != 0 | _ => false
/-- A scalar source (R161). -/
def Reg.isScalar : Reg → Bool | .g _ => true | .p _ => true | .win => true | .lit => true | _ => false
/-- q0, or q6 and q7, which fault when the instruction executes (R49, R90). -/
def Reg.isQ0 : Reg → Bool | .q k => k == 0 || k == 6 || k == 7 | _ => false
/-- q1, or q6 and q7 (R49, R90). -/
def Reg.isQ1 : Reg → Bool | .q k => k == 1 || k == 6 || k == 7 | _ => false
/-- q1 alone (R93: any other S1 code of QPOP is an ILLEGAL_OP). -/
def Reg.isQ1Only : Reg → Bool | .q k => k == 1 | _ => false
/-- q2 to q5 (R95). -/
def Reg.isStream : Reg → Bool | .q k => decide (2 ≤ k.toNat) && decide (k.toNat ≤ 5) | _ => false
/-- A vector destination: v, q1, a stream, or q6 and q7 (R49, R90, R190). -/
def Reg.isVecDest : Reg → Bool | .v _ => true | .q k => k != 0 | _ => false
/-- A vector source: v, q0, a stream, or q6 and q7 (R49, R90, R190). -/
def Reg.isVecSrc : Reg → Bool | .v _ => true | .q k => k != 1 | _ => false
/-- A source read as lanes: a vector, or a scalar that R192 broadcasts. -/
def Reg.isLane : Reg → Bool | .v _ => true | .q k => k != 1 | .g _ => true | .win => true | .lit => true | _ => false
/-- A message or joint operand: a v register whose number is a multiple of 4 (R233). -/
def Reg.isMessage : Reg → Bool | .v k => k.toNat % 4 == 0 | _ => false
def Reg.index : Reg → Nat
  | .g k => k.toNat | .p k => k.toNat | .q k => k.toNat | .t k => k.toNat
  | .z k => k.toNat | .v k => k.toNat | .sys k => k.val | .win => 0 | .lit => 0
/-- gD of CASW: even, g2 to g30 (R293). -/
def Reg.isEvenPair : Reg → Bool | .g k => k.toNat % 2 == 0 && decide (2 ≤ k.toNat) | _ => false
/-- gN of CASW: even, g0 to g30 (R293). -/
def Reg.isEven : Reg → Bool | .g k => k.toNat % 2 == 0 | _ => false

/-- The system registers that exist, by number (R102, R108, R109, R124, R142, R150, R152, R199, R215, R245, R255,
R257, R281, R325, R327, R355, R373, R387, R394, R396, R399). -/
def sysExists (n : Nat) : Bool :=
  decide (0x010 ≤ n ∧ n ≤ 0x020) || decide (0x030 ≤ n ∧ n ≤ 0x038) || decide (0x040 ≤ n ∧ n ≤ 0x042) ||
  decide (0x050 ≤ n ∧ n ≤ 0x051) || decide (0x060 ≤ n ∧ n ≤ 0x06F) || decide (0x080 ≤ n ∧ n ≤ 0x0FF) ||
  decide (0x100 ≤ n ∧ n ≤ 0x130) || decide (0x140 ≤ n ∧ n ≤ 0x181)

def Reg.isSysReg : Reg → Bool | .sys k => sysExists k.val | _ => false

/-- Which row of the opcode table an SWR belongs to by its register: 1 a view register (R123), 2 SCLBASE (R215),
3 FFLAGS, VSAT, RNGSTR or RNGCTR (R154, R199), 0 any other. -/
def Reg.writeKind : Reg → Nat
  | .sys k =>
    if k.val = 0x012 ∨ k.val = 0x013 ∨ k.val = 0x014 then 1
    else if k.val = 0x01B then 2
    else if k.val = 0x016 ∨ k.val = 0x018 ∨ k.val = 0x019 ∨ k.val = 0x01A then 3
    else 0
  | _ => 0

def Fmt.isF : Fmt → Bool | .f64 => true | .f32 => true | .f16 => true | .bf16 => true | _ => false
def Fmt.isFloat : Fmt → Bool
  | .f64 => true | .f32 => true | .f16 => true | .bf16 => true | .e4m3 => true | .e5m2 => true | _ => false
def Fmt.isSigned : Fmt → Bool | .i8 => true | .i16 => true | .i32 => true | .i64 => true | _ => false
def Fmt.isUnsigned : Fmt → Bool | .n8 => true | .n16 => true | .n32 => true | .n64 => true | _ => false
def Fmt.isInteger (f : Fmt) : Bool := f.isSigned || f.isUnsigned
/-- i32, i64, n32, n64: the integer formats of atomics (R294). -/
def Fmt.isInt : Fmt → Bool | .i32 => true | .i64 => true | .n32 => true | .n64 => true | _ => false
/-- m4, e4m3, e5m2, f16 and bf16: the formats MMA and MMA.S sum exactly (R145, R218). -/
def Fmt.isNarrowProduct : Fmt → Bool
  | .m4 => true | .e4m3 => true | .e5m2 => true | .f16 => true | .bf16 => true | _ => false
/-- MCVT's tile formats: codes 1 to 6 and 8 (R226). -/
def Fmt.isMcvt : Fmt → Bool
  | .f64 => true | .f32 => true | .f16 => true | .bf16 => true | .e4m3 => true | .e5m2 => true | .i8 => true
  | _ => false
/-- The width of an element in bits; m4 has 4 (R51, R189). -/
def Fmt.width : Fmt → Nat
  | .none => 0 | .f64 => 64 | .f32 => 32 | .f16 => 16 | .bf16 => 16 | .e4m3 => 8 | .e5m2 => 8 | .m4 => 4
  | .i8 => 8 | .i16 => 16 | .i32 => 32 | .i64 => 64 | .n8 => 8 | .n16 => 16 | .n32 => 32 | .n64 => 64

/-- The four register fields hold the kinds the instruction accepts. -/
def Hd.kinds (h : Hd) (d s1 s2 s3 : Reg → Bool) : Bool := d h.d && s1 h.s1 && s2 h.s2 && s3 h.s3

def Reg.isMarker (r : Reg) : Bool := r.isWin || r.isLit

/-- At most one source field holds a marker (R49). -/
def Hd.oneMarker (h : Hd) : Bool :=
  decide (natOfBool h.s1.isMarker + natOfBool h.s2.isMarker + natOfBool h.s3.isMarker ≤ 1)

def Hd.hasLit (h : Hd) : Bool := h.s1.isLit || h.s2.isLit || h.s3.isLit
def Hd.hasWin (h : Hd) : Bool := h.s1.isWin || h.s2.isWin || h.s3.isWin

/-- F ≤ L and L − F ≤ 7 (R182). -/
def Hd.range (_ : Hd) (f l : Reg) : Bool := decide (f.index ≤ l.index) && decide (l.index - f.index ≤ 7)

/-- EXT under the marker rules of class A (R53). -/
def AOps.extFits (o : AOps) : Bool :=
  if o.h.hasLit then true else if o.h.hasWin then decide (o.ext.toNat < 2 ^ 20) else o.ext == 0

/-- EXT has no set bit outside a mask. -/
def AOps.extMask (o : AOps) (m : Nat) : Bool := o.ext.toNat &&& (2 ^ 36 - 1 - m) == 0

/-- A scalar form (R161, R163). -/
def AOps.scalar (o : AOps) (s1 s2 s3 : Reg → Bool) : Bool :=
  o.h.kinds Reg.isG s1 s2 s3 && o.h.oneMarker && o.extFits && o.h.rm == 0

/-- Register kinds with RM zero. -/
def AOps.plain (o : AOps) (d s1 s2 s3 : Reg → Bool) : Bool := o.h.kinds d s1 s2 s3 && o.h.rm == 0

/-- POOLSET's roles and count (R111). -/
def AOps.poolRoles (o : AOps) : Bool :=
  decide (bits o.ext.toNat 11 9 < 5) && decide (bits o.ext.toNat 8 6 < 5) &&
  decide (bits o.ext.toNat 11 9 ≠ bits o.ext.toNat 8 6) && decide (bits o.ext.toNat 5 0 ≠ 0)

/-- The limits of R102 on a view's COUNT, SHAPE and BASE; `which` is 0 VWV, 1 VWT, 2 VWZ. -/
def viewLegal (which shape count base : Nat) : Bool :=
  match which with
  | 0 => decide (1 ≤ count ∧ count ≤ 256 ∧ shape = 0)
  | 1 => decide (1 ≤ count ∧ count ≤ 64 ∧ 1 ≤ shape ∧ shape ≤ 8)
  | 2 => decide (1 ≤ count ∧ count ≤ 16 ∧ shape ≤ 1 ∧ base % 256 = 0)
  | _ => false

/-- VIEW.SET's fields (R103). -/
def AOps.viewFits (o : AOps) : Bool :=
  let e := o.ext.toNat
  viewLegal (bits e 35 34) (bits e 33 30) (bits e 29 21) (bits e 13 0)

/-- TSET's fields (R118). -/
def AOps.tileFits (o : AOps) : Bool :=
  let e := o.ext.toNat
  decide (bits e 35 34 < 3) && decide (1 ≤ bits e 33 30) && decide (bits e 33 30 ≤ 8) &&
  (decide (bits e 35 34 ≠ 2) || bit e 29)

/-- FMT, V, ORD, SCOPE, ZF and RM all zero (class M). -/
def MOps.bare (o : MOps) : Bool :=
  o.h.rm == 0 && o.fmt == Fmt.none && !o.v && o.ord == 0 && o.scope == 0 && !o.zf

/-- SCOPE 001 to 100 (R54). -/
def MOps.scoped (o : MOps) : Bool := decide (1 ≤ o.scope.toNat) && decide (o.scope.toNat ≤ 4)

def MOps.sized (o : MOps) : Bool := o.fmt != Fmt.none && o.fmt != Fmt.m4 && !o.v

/-- LD (R174). -/
def MOps.load (o : MOps) : Bool :=
  o.h.rm == 0 && o.scope == 0 && !o.zf && (o.ord == 0 || o.ord == 1) &&
  (o.h.kinds (fun r => r.isG || r.isQ0) Reg.isG Reg.isG Reg.isZero && o.sized ||
   o.h.kinds Reg.isQ0 Reg.isG Reg.isG Reg.isZero && o.v && o.fmt == Fmt.none)

/-- ST (R174). -/
def MOps.store (o : MOps) : Bool :=
  o.h.rm == 0 && o.scope == 0 && !o.zf && (o.ord == 0 || o.ord == 2) &&
  (o.h.kinds Reg.isZero Reg.isG Reg.isG (fun r => r.isG || r.isQ1) && o.sized ||
   o.h.kinds Reg.isZero Reg.isG Reg.isG Reg.isQ1 && o.v && o.fmt == Fmt.none)

/-- IGET and IPUT (R186): any format but none and m4; the form .v, which names no format, has none too (log entry 144). -/
def MOps.indexed (o : MOps) : Bool :=
  o.h.rm == 0 && o.ord == 0 && o.scope == 0 && !o.zf && o.fmt != Fmt.m4 && (o.v || o.fmt != Fmt.none)

def MOps.amoFmt (o : MOps) (fadd : Bool) : Bool :=
  if fadd then (o.fmt == Fmt.f32 || o.fmt == Fmt.f64) && o.h.rm != 5 && o.h.rm != 7
  else o.fmt.isInt && o.h.rm == 0

/-- AMO (R293, R294). -/
def MOps.amo (o : MOps) (fadd add : Bool) : Bool :=
  o.h.kinds Reg.isZero Reg.isG Reg.isG Reg.isG && o.scoped && !o.v && (o.ord == 0 || o.ord == 2) && o.amoFmt fadd &&
  (!o.zf || add && (o.fmt == Fmt.i64 || o.fmt == Fmt.n64))

/-- AMOF (R293, R294). -/
def MOps.amof (o : MOps) (fadd : Bool) : Bool :=
  o.h.kinds Reg.isG Reg.isG Reg.isG Reg.isG && o.scoped && !o.v && o.ord != 3 && o.amoFmt fadd && !o.zf

/-- AMO.U (R293, R294). -/
def MOps.amoU (o : MOps) (fadd : Bool) : Bool :=
  o.h.kinds Reg.isZero Reg.isG Reg.isG Reg.isG && o.scope == 0 && !o.v && o.ord == 0 && o.amoFmt fadd && o.h.rm == 0 &&
  !o.zf

/-- CAS and CASW but for their formats and register pairs (R293). -/
def MOps.casForm (o : MOps) : Bool :=
  o.h.kinds Reg.isG Reg.isG Reg.isG Reg.isG && o.scoped && !o.v && o.ord != 3 && !o.zf && o.h.rm == 0

/-- SCOPE 001 to 100 (R58). -/
def EOps.scopeNamed (o : EOps) : Bool := decide (1 ≤ o.scope.toNat) && decide (o.scope.toNat ≤ 4)

/-- HCOPY (R316, R319): F only with a tile destination, gK and RM only with SMOOTH. -/
def EOps.hcopy (o : EOps) : Bool :=
  o.h.kinds (fun r => r.isT || r.isG && !o.f) Reg.isG Reg.isG (fun r => if o.opt == 1 then r.isG else r.isZero) &&
  decide (o.opt.toNat < 2) && (if o.opt == 1 then o.h.rm != 5 && o.h.rm != 7 else o.h.rm == 0) &&
  o.scope == 0 && o.fmt == Fmt.none && decide (o.w.toNat < 64)

/-- A direct SLOT of 5 to 7 is an ILLEGAL_OP (R43, R60). -/
def FOps.t1Slot (o : FOps) : Bool := decide (o.t1.toNat % 8 < 5)
def FOps.t2Slot (o : FOps) : Bool := decide (o.t2.toNat % 8 < 5)

/-- A vector form: kinds, one marker, gang offsets on v sources only, and W zero without a marker (R49, R56). -/
def XOps.lanes (o : XOps) (d s1 s2 s3 : Reg → Bool) : Bool :=
  o.h.kinds d s1 s2 s3 && o.h.oneMarker && (o.g1 == 0 || o.h.s1.isV) && (o.g2 == 0 || o.h.s2.isV) &&
  (o.g3 == 0 || o.h.s3.isV) && (o.h.hasLit || o.h.hasWin || o.w == 0)

/-- The form rounds: RM 0b111 is reserved (R52). -/
def XOps.rounds (o : XOps) : Bool := o.h.rm != 7
def XOps.fixed (o : XOps) : Bool := o.h.rm == 0
/-- No literal on a source read as floating-point lanes (R192). -/
def XOps.noLit (o : XOps) : Bool := !o.h.hasLit
/-- TZ and TV only where floating-point lanes are read (R193). -/
def XOps.noTrap (o : XOps) : Bool := !o.tz && !o.tv
/-- Any format but none and m4, with RM zero (R201, R205). -/
def XOps.anyLane (o : XOps) : Bool :=
  o.fmt1 != Fmt.none && o.fmt1 != Fmt.m4 && o.fmt2 == Fmt.none && o.fixed

/-- The pairs of VCVT that can never round (R202). -/
def convExact (d s : Fmt) : Bool :=
  (s.isFloat && d.isFloat && decide (s.width < d.width)) || (s.isInteger && d.isInteger) ||
  ((s == .i8 || s == .n8) && (d == .f16 || d == .bf16 || d == .f32 || d == .f64)) ||
  ((s == .i16 || s == .n16) && (d == .f32 || d == .f64)) ||
  ((s == .i32 || s == .n32) && d == .f64)

/-- VCVT's formats, rounding mode and trap bits (R193, R202). A literal source is legal only for integer lanes; the
part number in S2 may be a literal. -/
def XOps.convFits (o : XOps) : Bool :=
  o.fmt1 != Fmt.none && o.fmt1 != Fmt.m4 && o.fmt2 != Fmt.none && o.fmt2 != Fmt.m4 && o.fmt1 != o.fmt2 &&
  (if convExact o.fmt1 o.fmt2 then o.fixed else o.rounds) && (o.fmt2.isFloat || o.noTrap) &&
  (!o.h.s1.isLit || o.fmt2.isInteger)

/-- A graph form (R237): no gang offset, kinds as its row, and W within its limit. -/
def XOps.graph (o : XOps) (d s1 s2 : Reg → Bool) (wMax : Nat) : Bool :=
  o.h.kinds d s1 s2 Reg.isZero && o.g1 == 0 && o.g2 == 0 && o.g3 == 0 && o.fmt2 == Fmt.none &&
  decide (o.w.toNat ≤ wMax)
def XOps.noFmt (o : XOps) : Bool := o.fmt1 == Fmt.none && o.fixed && o.noTrap
def XOps.gfmt (o : XOps) : Bool := o.fmt1 == Fmt.f64 || o.fmt1 == Fmt.f32
def XOps.groundsTo (o : XOps) : Bool := o.h.rm != 5 && o.h.rm != 7

/-- MCVT's rounding mode (R226): zero where the conversion cannot round. -/
def TOps.mcvtRm (o : TOps) : Bool :=
  if o.fmt1 == Fmt.f64 || (o.fmt1 == Fmt.f32 && o.fmt2 == Fmt.f32) then o.h.rm == 0 else o.h.rm != 7

/-- The decode checks of R60, rows 6 and 7, for each instruction, as its own section states them. The machine's acts
have no encoding and are never legal as instruction words. -/
def Instr.legal : Instr → Bool
  | .nop o => o.plain Reg.isZero Reg.isZero Reg.isZero Reg.isZero && o.ext == 0
  | .trapc o => o.plain Reg.isZero Reg.isG Reg.isZero Reg.isZero && o.extMask 0x7F
  | .trapret o => o.plain Reg.isZero Reg.isZero Reg.isZero Reg.isZero && o.ext == 0
  | .rgnNew o => o.h.kinds Reg.isG Reg.isG Reg.isG Reg.isZero && o.h.rm == 0 && !o.f && o.ch == 0 && o.scope == 0 && o.opt == 0 && o.fmt == Fmt.none && o.w == 0
  | .rgnSet o => o.h.kinds Reg.isG Reg.isG Reg.isG Reg.isZero && o.h.rm == 0 && !o.f && o.ch == 0 && o.scope == 0 && decide (o.opt.toNat < 2) && o.fmt == Fmt.none && decide (o.w.toNat < 16)
  | .rgnKill o => o.h.kinds Reg.isG Reg.isG Reg.isZero Reg.isZero && o.h.rm == 0 && !o.f && o.ch == 0 && o.scope == 0 && o.opt == 0 && o.fmt == Fmt.none && o.w == 0
  | .bind o => o.h.kinds Reg.isG Reg.isG Reg.isG Reg.isZero && o.h.rm == 0 && !o.f && o.ch == 0 && o.scope == 0 && o.opt == 0 && o.fmt == Fmt.none && o.w == 0
  | .preemptFiring o => o.h.kinds Reg.isG Reg.isG Reg.isZero Reg.isZero && o.h.rm == 0 && !o.f && o.ch == 0 && o.scope == 0 && o.opt == 0 && o.fmt == Fmt.none && o.w == 0
  | .preemptRegion o => o.h.kinds Reg.isG Reg.isG Reg.isZero Reg.isZero && o.h.rm == 0 && !o.f && o.ch == 0 && o.scope == 0 && o.opt == 1 && o.fmt == Fmt.none && o.w == 0
  | .preemptResume o => o.h.kinds Reg.isG Reg.isG Reg.isZero Reg.isZero && o.h.rm == 0 && !o.f && o.ch == 0 && o.scope == 0 && o.opt == 2 && o.fmt == Fmt.none && o.w == 0
  | .add o => o.scalar Reg.isScalar Reg.isScalar Reg.isZero
  | .sub o => o.scalar Reg.isScalar Reg.isScalar Reg.isZero
  | .mul o => o.scalar Reg.isScalar Reg.isScalar Reg.isZero
  | .mulhI64 o => o.scalar Reg.isScalar Reg.isScalar Reg.isZero
  | .mulhN64 o => o.scalar Reg.isScalar Reg.isScalar Reg.isZero
  | .quoI64 o => o.scalar Reg.isScalar Reg.isScalar Reg.isZero
  | .quoN64 o => o.scalar Reg.isScalar Reg.isScalar Reg.isZero
  | .remI64 o => o.scalar Reg.isScalar Reg.isScalar Reg.isZero
  | .remN64 o => o.scalar Reg.isScalar Reg.isScalar Reg.isZero
  | .andBits o => o.scalar Reg.isScalar Reg.isScalar Reg.isZero
  | .orBits o => o.scalar Reg.isScalar Reg.isScalar Reg.isZero
  | .xorBits o => o.scalar Reg.isScalar Reg.isScalar Reg.isZero
  | .andn o => o.scalar Reg.isScalar Reg.isScalar Reg.isZero
  | .shl o => o.scalar Reg.isScalar Reg.isScalar Reg.isZero
  | .shr o => o.scalar Reg.isScalar Reg.isScalar Reg.isZero
  | .sra o => o.scalar Reg.isScalar Reg.isScalar Reg.isZero
  | .rot o => o.scalar Reg.isScalar Reg.isScalar Reg.isZero
  | .clz o => o.scalar Reg.isScalar Reg.isZero Reg.isZero
  | .ctz o => o.scalar Reg.isScalar Reg.isZero Reg.isZero
  | .popc o => o.scalar Reg.isScalar Reg.isZero Reg.isZero
  | .cmp o => o.h.kinds Reg.isPDest Reg.isScalar Reg.isScalar Reg.isZero && o.h.oneMarker && o.extFits && decide (o.h.rm.toNat < 6)
  | .sel o => o.h.kinds Reg.isG Reg.isP Reg.isScalar Reg.isScalar && o.h.oneMarker && o.extFits && decide (o.h.rm.toNat < 2)
  | .minI64 o => o.scalar Reg.isScalar Reg.isScalar Reg.isZero
  | .minN64 o => o.scalar Reg.isScalar Reg.isScalar Reg.isZero
  | .maxI64 o => o.scalar Reg.isScalar Reg.isScalar Reg.isZero
  | .maxN64 o => o.scalar Reg.isScalar Reg.isScalar Reg.isZero
  | .mov o => o.scalar Reg.isScalar Reg.isZero Reg.isZero
  | .lea o => o.scalar Reg.isG Reg.isG (fun r => r.isG || r.isLit)
  | .gaddr o => o.scalar Reg.isScalar Reg.isScalar Reg.isScalar
  | .bfxI64 o => o.scalar Reg.isScalar Reg.isScalar Reg.isZero
  | .bfxN64 o => o.scalar Reg.isScalar Reg.isScalar Reg.isZero
  | .bfi o => o.scalar Reg.isScalar Reg.isScalar Reg.isScalar
  | .br o => o.plain Reg.isZero Reg.isZero Reg.isZero Reg.isZero && decide (o.ext.toNat % 8 < 5)
  | .brl o => o.plain Reg.isG Reg.isZero Reg.isZero Reg.isZero && decide (o.ext.toNat % 8 < 5)
  | .jmp o => o.plain Reg.isZero Reg.isG Reg.isZero Reg.isZero && o.ext == 0
  | .jmpl o => o.plain Reg.isG Reg.isG Reg.isZero Reg.isZero && o.ext == 0
  | .ret o => o.plain Reg.isZero Reg.isZero Reg.isZero Reg.isZero && o.ext == 0
  | .loop o => o.plain (fun r => r.isG && !r.isZero) Reg.isZero Reg.isZero Reg.isZero && decide (o.ext.toNat % 8 < 5)
  | .pand o => o.plain Reg.isPDest Reg.isP Reg.isP Reg.isZero && o.ext == 0
  | .por o => o.plain Reg.isPDest Reg.isP Reg.isP Reg.isZero && o.ext == 0
  | .pxor o => o.plain Reg.isPDest Reg.isP Reg.isP Reg.isZero && o.ext == 0
  | .pnot o => o.plain Reg.isPDest Reg.isP Reg.isZero Reg.isZero && o.ext == 0
  | .phead o => o.plain Reg.isG Reg.isZero Reg.isZero Reg.isZero && o.extMask 0xFF7
  | .ptail o => o.plain Reg.isG Reg.isZero Reg.isZero Reg.isZero && o.extMask 0xFFF && bit o.ext.toNat 3
  | .pcnt o => o.plain Reg.isG Reg.isZero Reg.isZero Reg.isZero && o.extMask 0xF
  | .endFiring o => o.plain Reg.isZero Reg.isZero Reg.isZero Reg.isZero && o.ext == 0
  | .yield o => o.plain Reg.isZero Reg.isZero Reg.isZero Reg.isZero && o.ext == 0
  | .idem o => o.plain Reg.isZero Reg.isZero Reg.isZero Reg.isZero && o.extMask 0xFFFFFFFE
  | .xloop o => o.plain Reg.isZero Reg.isG Reg.isZero Reg.isZero && o.extMask 0xFFFFF0000
  | .ld o => o.load
  | .st o => o.store
  | .ldm o => o.bare && o.h.kinds Reg.isG Reg.isG Reg.isG Reg.isZero && o.h.range o.h.d o.h.s2
  | .stm o => o.bare && o.h.kinds Reg.isZero Reg.isG Reg.isG Reg.isG && o.h.range o.h.s3 o.h.s2
  | .ldc o => o.h.kinds Reg.isG Reg.isWin Reg.isG Reg.isZero && o.h.rm == 0 && o.extMask 0xFFFFF
  | .pref o => o.bare && o.h.kinds Reg.isZero Reg.isG Reg.isG Reg.isZero
  | .flush o => o.bare && o.h.kinds Reg.isZero Reg.isG Reg.isG Reg.isG
  | .inv o => o.bare && o.h.kinds Reg.isZero Reg.isG Reg.isG Reg.isG
  | .iget o => o.indexed && o.h.kinds Reg.isQ0 Reg.isG Reg.isG Reg.isZero
  | .iput o => o.indexed && o.h.kinds Reg.isZero Reg.isG Reg.isG Reg.isQ1
  | .scnt o => o.bare && o.h.kinds Reg.isG Reg.isZero Reg.isZero Reg.isZero && o.off == 0
  | .handover o => o.bare && o.h.kinds Reg.isZero Reg.isG Reg.isG Reg.isG
  | .reclass o => o.bare && o.h.kinds Reg.isZero Reg.isG Reg.isG Reg.isG
  | .fence o => o.scoped && o.h.rm == 0 && o.fmt == Fmt.none && !o.v && o.ord == 0 && !o.zf && o.off == 0 && o.h.kinds Reg.isZero Reg.isZero Reg.isZero Reg.isZero
  | .amoAdd o => o.amo false true
  | .amoAnd o => o.amo false false
  | .amoOr o => o.amo false false
  | .amoXor o => o.amo false false
  | .amoMin o => o.amo false false
  | .amoMax o => o.amo false false
  | .amoUmin o => o.amo false false
  | .amoUmax o => o.amo false false
  | .amoSwap o => o.amo false false
  | .amoFadd o => o.amo true false
  | .amofAdd o => o.amof false
  | .amofAnd o => o.amof false
  | .amofOr o => o.amof false
  | .amofXor o => o.amof false
  | .amofMin o => o.amof false
  | .amofMax o => o.amof false
  | .amofUmin o => o.amof false
  | .amofUmax o => o.amof false
  | .amofSwap o => o.amof false
  | .amofFadd o => o.amof true
  | .amoUAdd o => o.amoU false
  | .amoUAnd o => o.amoU false
  | .amoUOr o => o.amoU false
  | .amoUXor o => o.amoU false
  | .amoUMin o => o.amoU false
  | .amoUMax o => o.amoU false
  | .amoUUmin o => o.amoU false
  | .amoUUmax o => o.amoU false
  | .amoUFadd o => o.amoU true
  | .cas o => o.casForm && o.fmt.isInt
  | .casw o => o.casForm && o.fmt == Fmt.n64 && o.h.d.isEvenPair && o.h.s3.isEven && !o.h.d.isZero
  | .bari o => o.bare && o.h.kinds Reg.isZero Reg.isG Reg.isG Reg.isG
  | .bar o => o.scoped && o.h.rm == 0 && o.fmt == Fmt.none && !o.v && o.ord == 0 && !o.zf && o.h.kinds Reg.isG Reg.isG Reg.isG Reg.isZero
  | .barw o => o.bare && o.h.kinds Reg.isZero Reg.isG Reg.isG Reg.isG
  | .dmclose o => o.h.kinds Reg.isG Reg.isZero Reg.isZero Reg.isZero && o.h.rm == 0 && !o.f && o.ch == 0 && o.scope == 0 && o.opt == 0 && o.fmt == Fmt.none && o.w == 0
  | .tlbi o => o.h.kinds Reg.isZero Reg.isG Reg.isG Reg.isG && o.h.rm == 0 && !o.f && o.ch == 0 && o.scopeNamed && o.opt == 0 && o.fmt == Fmt.none && o.w == 0
  | .fork o => o.h.kinds Reg.isZero Reg.isG Reg.isZero Reg.isZero && o.h.rm == 0 && o.t1Slot && o.t2 == 0
  | .join o => o.h.kinds Reg.isZero Reg.isG Reg.isZero Reg.isZero && o.h.rm == 0 && o.t1Slot && o.t2 == 0
  | .dqcnt o => o.h.kinds Reg.isG Reg.isZero Reg.isZero Reg.isZero && o.h.rm == 0 && !o.f && o.ch == 0 && o.scope == 0 && o.opt == 0 && o.fmt == Fmt.none && o.w == 0
  | .futNew o => o.h.kinds Reg.isG Reg.isZero Reg.isZero Reg.isZero && o.h.rm == 0 && !o.f && o.ch == 0 && o.scope == 0 && o.opt == 0 && o.fmt == Fmt.none && o.w == 0
  | .futSet o => o.h.kinds Reg.isZero Reg.isG Reg.isG Reg.isZero && o.h.rm == 0 && !o.f && o.ch == 0 && o.scope == 0 && o.opt == 0 && o.fmt == Fmt.none && o.w == 0
  | .futGet o => o.h.kinds Reg.isG Reg.isG Reg.isZero Reg.isZero && o.h.rm == 0 && !o.f && o.ch == 0 && o.scope == 0 && o.opt == 0 && o.fmt == Fmt.none && o.w == 0
  | .futFree o => o.h.kinds Reg.isZero Reg.isG Reg.isZero Reg.isZero && o.h.rm == 0 && !o.f && o.ch == 0 && o.scope == 0 && o.opt == 0 && o.fmt == Fmt.none && o.w == 0
  | .mbxBind o => o.h.kinds Reg.isG Reg.isG Reg.isZero Reg.isZero && o.h.rm == 0 && !o.f && o.ch == 0 && o.scope == 0 && o.opt == 0 && o.fmt == Fmt.none && decide (o.w.toNat < 0x2000) && decide (bits o.w.toNat 12 5 ≠ 0)
  | .mbxFree o => o.h.kinds Reg.isG Reg.isZero Reg.isZero Reg.isZero && o.h.rm == 0 && !o.f && o.ch == 0 && o.scope == 0 && o.opt == 0 && o.fmt == Fmt.none && decide (o.w.toNat < 32)
  | .mbxrd o => o.h.kinds Reg.isG Reg.isZero Reg.isZero Reg.isZero && o.h.rm == 0 && !o.f && o.ch == 0 && o.scope == 0 && o.opt == 0 && o.fmt == Fmt.none && decide (o.w.toNat < 8)
  | .send o => o.h.kinds Reg.isZero Reg.isG Reg.isG Reg.isG && o.h.rm == 0 && !o.f && o.ch == 0 && o.scopeNamed && o.opt == 0 && o.fmt == Fmt.none && o.w == 0 && decide (o.h.s2.index ≤ o.h.s3.index) && decide (o.h.s3.index - o.h.s2.index ≤ 6)
  | .evt o => o.h.kinds Reg.isZero Reg.isG Reg.isZero Reg.isZero && o.h.rm == 0 && !o.f && o.ch == 0 && o.scope == 0 && o.opt == 0 && o.fmt == Fmt.none && o.w == 0
  | .wfe o => o.h.kinds Reg.isG Reg.isG Reg.isG Reg.isZero && o.h.rm == 0 && !o.f && o.ch == 0 && o.scope == 0 && o.opt == 0 && o.fmt == Fmt.none && o.w == 0
  | .gangOn o => o.h.kinds Reg.isG Reg.isZero Reg.isZero Reg.isZero && o.h.rm == 0 && !o.f && o.ch == 0 && o.scope == 0 && o.opt == 0 && o.fmt == Fmt.none && o.w == 0
  | .gangOff o => o.h.kinds Reg.isG Reg.isZero Reg.isZero Reg.isZero && o.h.rm == 0 && !o.f && o.ch == 0 && o.scope == 0 && o.opt == 0 && o.fmt == Fmt.none && o.w == 0
  | .rfork o => o.h.kinds Reg.isZero Reg.isG Reg.isG Reg.isZero && o.h.rm == 0 && o.t1Slot && o.t2Slot
  | .launch o => o.h.kinds Reg.isG Reg.isG Reg.isZero Reg.isZero && o.h.rm == 0 && !o.f && o.ch == 0 && o.scope == 0 && o.opt == 0 && o.fmt == Fmt.none && o.w == 0
  | .poolset o => o.plain Reg.isG Reg.isZero Reg.isZero Reg.isZero && o.extMask 0xFFF && o.poolRoles
  | .poolsetWait o => o.plain Reg.isG Reg.isZero Reg.isZero Reg.isZero && o.extMask 0xFFF && o.poolRoles
  | .poolrd o => o.plain Reg.isG Reg.isZero Reg.isZero Reg.isZero && o.extMask 0xE00 && decide (bits o.ext.toNat 11 9 < 5)
  | .hwmSet o => o.plain Reg.isZero (fun r => r.isG || r.isLit) Reg.isZero Reg.isZero && o.extFits
  | .viewSet o => o.plain Reg.isZero Reg.isZero Reg.isZero Reg.isZero && o.extMask 0xFFFE03FFF && o.viewFits
  | .viewClr o => o.plain Reg.isZero Reg.isZero Reg.isZero Reg.isZero && o.extMask 0xC00000000 && decide (bits o.ext.toNat 35 34 < 3)
  | .tset o => o.plain Reg.isT Reg.isG Reg.isZero Reg.isZero && o.extMask 0xFF0000000 && o.tileFits
  | .tstat o => o.plain Reg.isG Reg.isT Reg.isZero Reg.isZero && o.ext == 0
  | .tclr o => o.plain Reg.isG Reg.isT Reg.isZero Reg.isZero && o.ext == 0
  | .qpop o => o.plain Reg.isG Reg.isQ1Only Reg.isZero Reg.isZero && o.ext == 0
  | .qcnt o => o.plain Reg.isG Reg.isQ Reg.isZero Reg.isZero && o.ext == 0
  | .streamBind o => o.plain Reg.isStream Reg.isG Reg.isZero Reg.isZero && o.extMask 0xFFFFFF
  | .streamEnd o => o.plain Reg.isStream Reg.isZero Reg.isZero Reg.isZero && o.ext == 0
  | .winSet o => o.plain Reg.isZero Reg.isG Reg.isZero Reg.isZero && o.extMask 7
  | .srd o => o.plain Reg.isG Reg.isSysReg Reg.isZero Reg.isZero && o.ext == 0
  | .swr o => o.plain (fun r => r.isSysReg && r.writeKind == 0) (fun r => r.isG || r.isLit) Reg.isZero Reg.isZero && o.extFits
  | .logrd o => o.plain Reg.isG (fun r => r.isG || r.isLit) Reg.isG Reg.isZero && o.extFits
  | .logext o => o.plain Reg.isG Reg.isG Reg.isG Reg.isG && o.ext == 0
  | .vadd o => o.lanes Reg.isVecDest Reg.isLane Reg.isLane Reg.isZero && o.fmt2 == Fmt.none && (o.fmt1.isF && o.rounds && o.noLit || o.fmt1.isInteger && o.fixed && o.noTrap)
  | .vsub o => o.lanes Reg.isVecDest Reg.isLane Reg.isLane Reg.isZero && o.fmt2 == Fmt.none && (o.fmt1.isF && o.rounds && o.noLit || o.fmt1.isInteger && o.fixed && o.noTrap)
  | .vmul o => o.lanes Reg.isVecDest Reg.isLane Reg.isLane Reg.isZero && o.fmt2 == Fmt.none && (o.fmt1.isF && o.rounds && o.noLit || o.fmt1.isInteger && o.fixed && o.noTrap)
  | .vmin o => o.lanes Reg.isVecDest Reg.isLane Reg.isLane Reg.isZero && o.fmt2 == Fmt.none && o.fixed && (o.fmt1.isF && o.noLit || o.fmt1.isInteger && o.noTrap)
  | .vmax o => o.lanes Reg.isVecDest Reg.isLane Reg.isLane Reg.isZero && o.fmt2 == Fmt.none && o.fixed && (o.fmt1.isF && o.noLit || o.fmt1.isInteger && o.noTrap)
  | .vabs o => o.lanes Reg.isVecDest Reg.isLane Reg.isZero Reg.isZero && o.fmt2 == Fmt.none && o.fixed && (o.fmt1.isF && o.noLit || o.fmt1.isSigned && o.noTrap)
  | .vneg o => o.lanes Reg.isVecDest Reg.isLane Reg.isZero Reg.isZero && o.fmt2 == Fmt.none && o.fixed && (o.fmt1.isF && o.noLit || o.fmt1.isSigned && o.noTrap)
  | .vfma o => o.lanes Reg.isVecDest Reg.isLane Reg.isLane Reg.isLane && o.fmt2 == Fmt.none && o.fmt1.isF && o.rounds && o.noLit
  | .vfms o => o.lanes Reg.isVecDest Reg.isLane Reg.isLane Reg.isLane && o.fmt2 == Fmt.none && o.fmt1.isF && o.rounds && o.noLit
  | .vfnma o => o.lanes Reg.isVecDest Reg.isLane Reg.isLane Reg.isLane && o.fmt2 == Fmt.none && o.fmt1.isF && o.rounds && o.noLit
  | .vcmp o => o.lanes Reg.isVecDest Reg.isLane Reg.isLane Reg.isZero && o.fmt2 == Fmt.none && (o.fmt1.isF && decide (o.h.rm.toNat < 5) && o.noLit || o.fmt1.isInteger && decide (o.h.rm.toNat < 6) && o.noTrap)
  | .vsel o => o.lanes Reg.isVecDest Reg.isLane Reg.isLane Reg.isLane && o.anyLane && o.noTrap
  | .vclass o => o.lanes Reg.isVecDest Reg.isLane Reg.isZero Reg.isZero && o.fmt2 == Fmt.none && o.fmt1.isF && o.fixed && o.noLit
  | .vcvt o => o.lanes Reg.isVecDest Reg.isLane (fun r => r.isG || r.isLit) Reg.isZero && o.convFits
  | .vrsum o => o.lanes Reg.isVecDest Reg.isLane Reg.isZero Reg.isZero && o.fmt2 == Fmt.none && o.fmt1.isF && o.rounds && o.noLit
  | .vrmax o => o.lanes Reg.isVecDest Reg.isLane Reg.isZero Reg.isZero && o.fmt2 == Fmt.none && o.fmt1.isF && o.fixed && o.noLit
  | .vrmin o => o.lanes Reg.isVecDest Reg.isLane Reg.isZero Reg.isZero && o.fmt2 == Fmt.none && o.fmt1.isF && o.fixed && o.noLit
  | .vand o => o.lanes Reg.isVecDest Reg.isLane Reg.isLane Reg.isZero && o.fmt1 == Fmt.none && o.fmt2 == Fmt.none && o.fixed && o.noTrap
  | .vor o => o.lanes Reg.isVecDest Reg.isLane Reg.isLane Reg.isZero && o.fmt1 == Fmt.none && o.fmt2 == Fmt.none && o.fixed && o.noTrap
  | .vxor o => o.lanes Reg.isVecDest Reg.isLane Reg.isLane Reg.isZero && o.fmt1 == Fmt.none && o.fmt2 == Fmt.none && o.fixed && o.noTrap
  | .vandn o => o.lanes Reg.isVecDest Reg.isLane Reg.isLane Reg.isZero && o.fmt1 == Fmt.none && o.fmt2 == Fmt.none && o.fixed && o.noTrap
  | .vshl o => o.lanes Reg.isVecDest Reg.isLane Reg.isLane Reg.isZero && o.fmt2 == Fmt.none && o.fmt1.isInteger && o.fixed && o.noTrap
  | .vshr o => o.lanes Reg.isVecDest Reg.isLane Reg.isLane Reg.isZero && o.fmt2 == Fmt.none && o.fmt1.isInteger && o.fixed && o.noTrap
  | .vsra o => o.lanes Reg.isVecDest Reg.isLane Reg.isLane Reg.isZero && o.fmt2 == Fmt.none && o.fmt1.isInteger && o.fixed && o.noTrap
  | .vadds o => o.lanes Reg.isVecDest Reg.isLane Reg.isLane Reg.isZero && o.fmt2 == Fmt.none && o.fmt1.isInteger && o.fixed && o.noTrap
  | .vsubs o => o.lanes Reg.isVecDest Reg.isLane Reg.isLane Reg.isZero && o.fmt2 == Fmt.none && o.fmt1.isInteger && o.fixed && o.noTrap
  | .vmulh o => o.lanes Reg.isVecDest Reg.isLane Reg.isLane Reg.isZero && o.fmt2 == Fmt.none && o.fmt1.isInteger && o.fixed && o.noTrap
  | .vperm o => o.lanes Reg.isVecDest Reg.isLane Reg.isLane Reg.isZero && o.anyLane && o.noTrap
  | .vbcast o => o.lanes Reg.isVecDest Reg.isLane (fun r => r.isG || r.isLit) Reg.isZero && o.anyLane && o.noTrap && (o.h.s1.isVecSrc || o.h.s2.isZero)
  | .vrot o => o.lanes Reg.isVecDest Reg.isLane (fun r => r.isG || r.isLit) Reg.isZero && o.anyLane && o.noTrap
  | .vzip o => o.lanes Reg.isVecDest Reg.isLane Reg.isLane (fun r => r.isG || r.isLit) && o.anyLane && o.noTrap
  | .vunzip o => o.lanes Reg.isVecDest Reg.isLane Reg.isLane (fun r => r.isG || r.isLit) && o.anyLane && o.noTrap
  | .vcomp o => o.lanes Reg.isVecDest Reg.isLane Reg.isLane Reg.isZero && o.anyLane && o.noTrap
  | .vext o => o.lanes Reg.isG Reg.isLane (fun r => r.isG || r.isLit) Reg.isZero && o.anyLane && o.noTrap
  | .vins o => o.lanes Reg.isV (fun r => r.isG || r.isWin || r.isLit) (fun r => r.isG || r.isLit) Reg.isZero && o.anyLane && o.noTrap
  | .vmov o => o.lanes Reg.isVecDest Reg.isVecSrc Reg.isZero Reg.isZero && o.fmt1 == Fmt.none && o.fmt2 == Fmt.none && o.fixed && o.noTrap
  | .vsign o => o.lanes Reg.isG Reg.isLane Reg.isZero Reg.isZero && o.anyLane && o.noTrap
  | .vrand o => o.lanes Reg.isVecDest Reg.isZero Reg.isZero Reg.isZero && (o.fmt1 == Fmt.none || o.fmt1 == Fmt.f32 || o.fmt1 == Fmt.f64) && o.fmt2 == Fmt.none && o.fixed && o.noTrap
  | .div o => o.lanes Reg.isVecDest Reg.isLane Reg.isLane Reg.isZero && o.fmt2 == Fmt.none && o.fmt1.isF && o.fixed && o.noLit
  | .sqrt o => o.lanes Reg.isVecDest Reg.isLane Reg.isZero Reg.isZero && o.fmt2 == Fmt.none && o.fmt1.isF && o.fixed && o.noLit
  | .rcp o => o.lanes Reg.isVecDest Reg.isLane Reg.isZero Reg.isZero && o.fmt2 == Fmt.none && o.fmt1.isF && o.fixed && o.noLit
  | .rsq o => o.lanes Reg.isVecDest Reg.isLane Reg.isZero Reg.isZero && o.fmt2 == Fmt.none && o.fmt1.isF && o.fixed && o.noLit
  | .exp o => o.lanes Reg.isVecDest Reg.isLane Reg.isZero Reg.isZero && o.fmt2 == Fmt.none && o.fmt1.isF && o.fixed && o.noLit
  | .expB2 o => o.lanes Reg.isVecDest Reg.isLane Reg.isZero Reg.isZero && o.fmt2 == Fmt.none && o.fmt1.isF && o.fixed && o.noLit
  | .log o => o.lanes Reg.isVecDest Reg.isLane Reg.isZero Reg.isZero && o.fmt2 == Fmt.none && o.fmt1.isF && o.fixed && o.noLit
  | .logB2 o => o.lanes Reg.isVecDest Reg.isLane Reg.isZero Reg.isZero && o.fmt2 == Fmt.none && o.fmt1.isF && o.fixed && o.noLit
  | .sin o => o.lanes Reg.isVecDest Reg.isLane Reg.isZero Reg.isZero && o.fmt2 == Fmt.none && o.fmt1.isF && o.fixed && o.noLit
  | .cos o => o.lanes Reg.isVecDest Reg.isLane Reg.isZero Reg.isZero && o.fmt2 == Fmt.none && o.fmt1.isF && o.fixed && o.noLit
  | .tanh o => o.lanes Reg.isVecDest Reg.isLane Reg.isZero Reg.isZero && o.fmt2 == Fmt.none && o.fmt1.isF && o.fixed && o.noLit && (o.fmt1 == Fmt.f32 || o.fmt1 == Fmt.bf16)
  | .tanhSig o => o.lanes Reg.isVecDest Reg.isLane Reg.isZero Reg.isZero && o.fmt2 == Fmt.none && o.fmt1.isF && o.fixed && o.noLit && (o.fmt1 == Fmt.f32 || o.fmt1 == Fmt.bf16)
  | .erf o => o.lanes Reg.isVecDest Reg.isLane Reg.isZero Reg.isZero && o.fmt2 == Fmt.none && o.fmt1.isF && o.fixed && o.noLit && o.fmt1 == Fmt.f32
  | .mma o => o.h.kinds Reg.isZ Reg.isT Reg.isT Reg.isZero && o.h.rm != 7 && (o.fmt1.isNarrowProduct || o.fmt1 == Fmt.f32) && o.fmt2 == Fmt.none && o.opt == 0 && o.w == 0
  | .mmaS o => o.h.kinds Reg.isZ Reg.isT Reg.isT Reg.isZero && o.h.rm != 7 && o.fmt1.isNarrowProduct && o.fmt2 == Fmt.none && decide (o.opt.toNat < 2) && o.w == 0
  | .dmma o => o.h.kinds Reg.isZ Reg.isT Reg.isT Reg.isZero && o.h.rm != 7 && o.fmt1 == Fmt.f64 && o.fmt2 == Fmt.none && decide (o.opt.toNat < 2) && o.w == 0
  | .mscale o => o.h.kinds Reg.isZ Reg.isZ (fun r => r.isG || r.isWin) (fun r => r.isG || r.isWin) && o.h.rm != 7 && o.fmt1 == Fmt.none && o.fmt2 == Fmt.none && decide (o.opt.toNat < 4) && (o.h.s2.isWin || o.h.s3.isWin || o.w == 0) && o.h.oneMarker
  | .mzero o => o.h.kinds Reg.isZ Reg.isZero Reg.isZero Reg.isZero && o.h.rm == 0 && o.fmt1 == Fmt.none && o.fmt2 == Fmt.none && o.opt == 0 && o.w == 0
  | .mflags o => o.h.kinds Reg.isZ Reg.isZero Reg.isZero Reg.isZero && o.h.rm == 0 && o.fmt1 == Fmt.none && o.fmt2 == Fmt.none && decide (o.opt.toNat < 2) && decide (o.w.toNat < 16)
  | .mdrain o => o.h.kinds Reg.isZero Reg.isZ Reg.isG Reg.isZero && o.h.rm == 0 && o.fmt1 == Fmt.none && o.fmt2 == Fmt.none && o.opt == 0 && decide (o.w.toNat < 32)
  | .mload o => o.h.kinds Reg.isT Reg.isG Reg.isG Reg.isZero && o.h.rm == 0 && o.fmt1 == Fmt.none && o.fmt2 == Fmt.none && o.opt == 0 && o.w == 0
  | .mstore o => o.h.kinds Reg.isZero Reg.isG Reg.isG Reg.isT && o.h.rm == 0 && o.fmt1 == Fmt.none && o.fmt2 == Fmt.none && o.opt == 0 && o.w == 0
  | .mxpose o => o.h.kinds Reg.isT Reg.isT Reg.isZero Reg.isZero && o.h.rm == 0 && o.fmt1 == Fmt.none && o.fmt2 == Fmt.none && o.opt == 0 && o.w == 0
  | .mcvt o => o.h.kinds Reg.isT Reg.isZ Reg.isZero Reg.isZero && o.mcvtRm && o.fmt1.isMcvt && (o.fmt2 == Fmt.f32 || o.fmt2 == Fmt.f64) && decide (o.opt.toNat < 2) && o.w == 0
  | .gatt o => o.graph Reg.isG Reg.isG Reg.isZero 0 && o.noFmt
  | .gdet o => o.graph Reg.isG Reg.isG Reg.isZero 0 && o.noFmt
  | .gbel o => o.graph Reg.isMessage Reg.isG Reg.isZero 0 && o.gfmt && o.groundsTo
  | .gcomb o => o.graph Reg.isMessage Reg.isG Reg.isLit 255 && o.gfmt && o.groundsTo
  | .gmarg o => o.graph Reg.isMessage Reg.isMessage Reg.isLit 3 && o.gfmt && o.groundsTo
  | .gdamp o => o.graph Reg.isMessage Reg.isMessage Reg.isG 0 && o.gfmt && o.groundsTo
  | .gsend o => o.graph Reg.isZero Reg.isG Reg.isMessage 0 && o.gfmt && o.fixed && o.noTrap
  | .gres o => o.graph Reg.isG Reg.isMessage Reg.isG 0 && o.gfmt && o.fixed && o.noTrap
  | .gmean o => o.graph Reg.isMessage Reg.isMessage Reg.isZero 0 && o.gfmt && o.groundsTo
  | .gcut o => o.graph Reg.isG Reg.isG Reg.isLit 31 && o.noFmt
  | .gcutrd o => o.graph Reg.isG Reg.isG Reg.isG 0 && o.noFmt
  | .cvrd o => o.graph Reg.isG Reg.isZero Reg.isLit 7 && o.noFmt && decide (o.w.toNat < 6)
  | .cdef o => o.h.kinds Reg.isG Reg.isG Reg.isZero Reg.isZero && o.h.rm == 0 && !o.f && true && o.scope == 0 && o.opt == 0 && o.fmt == Fmt.none && o.w == 0
  | .cswap o => o.h.kinds Reg.isG Reg.isZero Reg.isZero Reg.isZero && o.h.rm == 0 && !o.f && true && o.scope == 0 && o.opt == 0 && o.fmt == Fmt.none && decide (o.w.toNat < 16) && decide (o.w.toNat ≠ o.ch.toNat)
  | .cstat o => o.h.kinds Reg.isG Reg.isZero Reg.isZero Reg.isZero && o.h.rm == 0 && !o.f && true && o.scope == 0 && decide (o.opt.toNat < 2) && o.fmt == Fmt.none && decide (o.w.toNat < 8) && !(o.opt == 1 && (o.w == 0 || o.w == 6 || o.w == 7))
  | .cins o => o.h.kinds Reg.isG Reg.isG Reg.isG Reg.isZero && o.h.rm == 0 && !o.f && true && o.scope == 0 && o.opt == 0 && o.fmt == Fmt.none && o.w == 0
  | .cdel o => o.h.kinds Reg.isG Reg.isG Reg.isG Reg.isZero && o.h.rm == 0 && !o.f && true && o.scope == 0 && o.opt == 0 && o.fmt == Fmt.none && o.w == 0
  | .cprobe o => o.h.kinds Reg.isG Reg.isG Reg.isG Reg.isZero && o.h.rm == 0 && !o.f && o.ch == 0 && o.scope == 0 && o.opt == 0 && o.fmt == Fmt.none && o.w == 0
  | .clook o => o.h.kinds Reg.isG Reg.isG Reg.isZero Reg.isZero && o.h.rm == 0 && !o.f && true && o.scope == 0 && o.opt == 0 && o.fmt == Fmt.none && o.w == 0
  | .crehash o => o.h.kinds Reg.isG Reg.isG Reg.isG Reg.isZero && o.h.rm == 0 && !o.f && true && o.scope == 0 && o.opt == 0 && o.fmt == Fmt.none && o.w == 0
  | .cfence o => o.h.kinds Reg.isZero Reg.isZero Reg.isZero Reg.isZero && o.h.rm == 0 && !o.f && o.ch == 0 && o.scope == 0 && o.opt == 0 && o.fmt == Fmt.none && o.w == 0
  | .hcopy o => o.hcopy
  | .hgath o => o.h.kinds Reg.isT Reg.isG Reg.isG Reg.isZero && o.h.rm == 0 && true && true && o.scope == 0 && o.opt == 0 && o.fmt == Fmt.none && decide (o.w.toNat < 64)
  | .hscat o => o.h.kinds Reg.isZero Reg.isG Reg.isG Reg.isT && o.h.rm == 0 && !o.f && true && o.scope == 0 && o.opt == 0 && o.fmt == Fmt.none && decide (o.w.toNat < 64)
  | .hpack o => o.h.kinds Reg.isZero Reg.isG Reg.isZero Reg.isT && o.h.rm == 0 && !o.f && true && o.scope == 0 && o.opt == 0 && o.fmt == Fmt.none && decide (o.w.toNat < 64)
  | .hunpk o => o.h.kinds Reg.isT Reg.isG Reg.isZero Reg.isZero && o.h.rm == 0 && true && true && o.scope == 0 && o.opt == 0 && o.fmt == Fmt.none && decide (o.w.toNat < 64)
  | .hwait o => o.h.kinds Reg.isG (fun r => if bit o.opt.toNat 0 then r.isZero else r.isT) Reg.isZero Reg.isZero && o.h.rm == 0 && !o.f && true && o.scope == 0 && decide (o.opt.toNat < 2) && o.fmt == Fmt.none && o.w == 0
  | .hcancel o => o.h.kinds Reg.isG Reg.isZero Reg.isZero Reg.isZero && o.h.rm == 0 && !o.f && true && o.scope == 0 && o.opt == 0 && o.fmt == Fmt.none && o.w == 0
  | .viewRegisterWrite o => o.plain (fun r => r.isSysReg && r.writeKind == 1) (fun r => r.isG || r.isLit) Reg.isZero Reg.isZero && o.extFits
  | .sclbaseWrite o => o.plain (fun r => r.isSysReg && r.writeKind == 2) (fun r => r.isG || r.isLit) Reg.isZero Reg.isZero && o.extFits
  | .flagRegisterWrite o => o.plain (fun r => r.isSysReg && r.writeKind == 3) (fun r => r.isG || r.isLit) Reg.isZero Reg.isZero && o.extFits
  | .linkEnable _ _ => false
  | .linkDisable _ _ => false
  | .linkRetrain _ _ => false
  | .lineFetch _ _ _ => false
  | .lineRefetch _ _ _ => false
  | .trapEntry _ _ => false
  | .firingStart _ => false
  | .regionDiscard _ _ => false
  | .wholeSave _ _ => false
  | .portForward _ _ _ => false
  | .loadDataReturn _ => false
  | .streamReadFetch _ _ _ => false
  | .streamWriteStore _ _ _ => false
  | .xloopPass _ _ => false
  | .storeAck _ => false
  | .remoteAccessPerform _ => false
  | .poolMoveRecheck _ _ => false
  | .poolMoveDone _ => false
  | .matrixEntryComplete _ _ => false
  | .followOnProduct _ => false
  | .heliostatCommandStart _ _ => false
  | .heliostatCommandComplete _ => false
  | .mloadFillComplete _ _ => false
  | .mstoreDrainComplete _ _ => false
  | .mdrainWake _ _ => false
  | .coreRetentionEntry _ => false
  | .coreWake _ => false
  | .ctsAdvance _ => false
  | .cacheFillComplete _ => false
  | .homeRequest _ => false
  | .hcExclusiveGrant _ => false
  | .hcRecall _ => false
  | .uGrant _ => false
  | .uRecall _ => false
  | .owHandoverAtHome _ => false
  | .owGrant _ => false
  | .reclassTlbsConfirmed _ => false
  | .reclassDrained _ => false
  | .mailboxEntryArrival _ => false
  | .mailboxHeldAppend _ _ => false
  | .eventDelivery _ => false
  | .wfeTimeout _ _ => false
  | .stealRequest _ => false
  | .gsendArrival _ => false
  | .cutStartArrival _ => false
  | .markerArrival _ => false
  | .almanacQuietPass _ => false
  | .catalogueUpdateApply _ => false
  | .pageWalk _ _ _ => false
  | .tlbiTarget _ => false
  | .launchFirmwareReply _ => false
  | .launchNofirmTimeout _ => false
  | .bindOpcBind _ _ => false
  | .unbind _ _ => false
  | .hold _ _ => false
  | .release _ _ => false
  | .mergeEntryArrival _ => false
  | .dmRoundComplete _ => false
  | .powerUp _ => false
  | .thermalThrottle _ _ => false
  | .powerThrottle _ _ => false
  | .thermalShutdown _ _ => false
  | .dramCrcRetry _ _ => false
  | .dramScrub _ _ => false
  | .writebackUe _ _ _ => false
  | .linkAnResolved _ _ => false
  | .linkAnTimeout _ _ => false
  | .linkTrainDone _ _ => false
  | .linkTrainTimeout _ _ => false
  | .linkLock _ _ => false
  | .linkLockTimeout _ _ => false
  | .linkAssocDone _ _ => false
  | .linkAssocRefused _ _ => false
  | .linkAssocTimeout _ _ => false
  | .linkFail _ _ => false
  | .linkFailedRetry _ _ => false
  | .fabricPacketArrival _ => false
  | .fabricResend _ => false
  | .fabricTimeout _ => false
  | .hostQueueMessage _ _ _ _ => false
  | .hostQueueLaunch _ _ _ _ => false
  | .hostQueueFirmware _ _ _ _ => false
  | .outboundAppend _ _ => false
  | .hostWindowRead _ _ _ _ _ => false
  | .hostWindowWrite _ _ _ _ _ => false
  | .catalogueCommandAnswer _ => false

/-- The S-mode instructions (R34, column Priv). -/
def Instr.privileged : Instr → Bool
  | .nop _ => false
  | .trapc _ => false
  | .trapret _ => true
  | .rgnNew _ => true
  | .rgnSet _ => true
  | .rgnKill _ => true
  | .bind _ => true
  | .preemptFiring _ => true
  | .preemptRegion _ => true
  | .preemptResume _ => true
  | .add _ => false
  | .sub _ => false
  | .mul _ => false
  | .mulhI64 _ => false
  | .mulhN64 _ => false
  | .quoI64 _ => false
  | .quoN64 _ => false
  | .remI64 _ => false
  | .remN64 _ => false
  | .andBits _ => false
  | .orBits _ => false
  | .xorBits _ => false
  | .andn _ => false
  | .shl _ => false
  | .shr _ => false
  | .sra _ => false
  | .rot _ => false
  | .clz _ => false
  | .ctz _ => false
  | .popc _ => false
  | .cmp _ => false
  | .sel _ => false
  | .minI64 _ => false
  | .minN64 _ => false
  | .maxI64 _ => false
  | .maxN64 _ => false
  | .mov _ => false
  | .lea _ => false
  | .gaddr _ => false
  | .bfxI64 _ => false
  | .bfxN64 _ => false
  | .bfi _ => false
  | .br _ => false
  | .brl _ => false
  | .jmp _ => false
  | .jmpl _ => false
  | .ret _ => false
  | .loop _ => false
  | .pand _ => false
  | .por _ => false
  | .pxor _ => false
  | .pnot _ => false
  | .phead _ => false
  | .ptail _ => false
  | .pcnt _ => false
  | .endFiring _ => false
  | .yield _ => false
  | .idem _ => false
  | .xloop _ => false
  | .ld _ => false
  | .st _ => false
  | .ldm _ => false
  | .stm _ => false
  | .ldc _ => false
  | .pref _ => false
  | .flush _ => false
  | .inv _ => false
  | .iget _ => false
  | .iput _ => false
  | .scnt _ => false
  | .handover _ => false
  | .reclass _ => true
  | .fence _ => false
  | .amoAdd _ => false
  | .amoAnd _ => false
  | .amoOr _ => false
  | .amoXor _ => false
  | .amoMin _ => false
  | .amoMax _ => false
  | .amoUmin _ => false
  | .amoUmax _ => false
  | .amoSwap _ => false
  | .amoFadd _ => false
  | .amofAdd _ => false
  | .amofAnd _ => false
  | .amofOr _ => false
  | .amofXor _ => false
  | .amofMin _ => false
  | .amofMax _ => false
  | .amofUmin _ => false
  | .amofUmax _ => false
  | .amofSwap _ => false
  | .amofFadd _ => false
  | .amoUAdd _ => false
  | .amoUAnd _ => false
  | .amoUOr _ => false
  | .amoUXor _ => false
  | .amoUMin _ => false
  | .amoUMax _ => false
  | .amoUUmin _ => false
  | .amoUUmax _ => false
  | .amoUFadd _ => false
  | .cas _ => false
  | .casw _ => false
  | .bari _ => false
  | .bar _ => false
  | .barw _ => false
  | .dmclose _ => false
  | .tlbi _ => true
  | .fork _ => false
  | .join _ => false
  | .dqcnt _ => false
  | .futNew _ => false
  | .futSet _ => false
  | .futGet _ => false
  | .futFree _ => false
  | .mbxBind _ => false
  | .mbxFree _ => false
  | .mbxrd _ => false
  | .send _ => false
  | .evt _ => false
  | .wfe _ => false
  | .gangOn _ => false
  | .gangOff _ => false
  | .rfork _ => false
  | .launch _ => false
  | .poolset _ => false
  | .poolsetWait _ => false
  | .poolrd _ => false
  | .hwmSet _ => false
  | .viewSet _ => false
  | .viewClr _ => false
  | .tset _ => false
  | .tstat _ => false
  | .tclr _ => false
  | .qpop _ => false
  | .qcnt _ => false
  | .streamBind _ => false
  | .streamEnd _ => false
  | .winSet _ => false
  | .srd _ => false
  | .swr _ => false
  | .logrd _ => false
  | .logext _ => true
  | .vadd _ => false
  | .vsub _ => false
  | .vmul _ => false
  | .vmin _ => false
  | .vmax _ => false
  | .vabs _ => false
  | .vneg _ => false
  | .vfma _ => false
  | .vfms _ => false
  | .vfnma _ => false
  | .vcmp _ => false
  | .vsel _ => false
  | .vclass _ => false
  | .vcvt _ => false
  | .vrsum _ => false
  | .vrmax _ => false
  | .vrmin _ => false
  | .vand _ => false
  | .vor _ => false
  | .vxor _ => false
  | .vandn _ => false
  | .vshl _ => false
  | .vshr _ => false
  | .vsra _ => false
  | .vadds _ => false
  | .vsubs _ => false
  | .vmulh _ => false
  | .vperm _ => false
  | .vbcast _ => false
  | .vrot _ => false
  | .vzip _ => false
  | .vunzip _ => false
  | .vcomp _ => false
  | .vext _ => false
  | .vins _ => false
  | .vmov _ => false
  | .vsign _ => false
  | .vrand _ => false
  | .div _ => false
  | .sqrt _ => false
  | .rcp _ => false
  | .rsq _ => false
  | .exp _ => false
  | .expB2 _ => false
  | .log _ => false
  | .logB2 _ => false
  | .sin _ => false
  | .cos _ => false
  | .tanh _ => false
  | .tanhSig _ => false
  | .erf _ => false
  | .mma _ => false
  | .mmaS _ => false
  | .dmma _ => false
  | .mscale _ => false
  | .mzero _ => false
  | .mflags _ => false
  | .mdrain _ => false
  | .mload _ => false
  | .mstore _ => false
  | .mxpose _ => false
  | .mcvt _ => false
  | .gatt _ => false
  | .gdet _ => false
  | .gbel _ => false
  | .gcomb _ => false
  | .gmarg _ => false
  | .gdamp _ => false
  | .gsend _ => false
  | .gres _ => false
  | .gmean _ => false
  | .gcut _ => false
  | .gcutrd _ => false
  | .cvrd _ => false
  | .cdef _ => false
  | .cswap _ => false
  | .cstat _ => false
  | .cins _ => false
  | .cdel _ => false
  | .cprobe _ => false
  | .clook _ => false
  | .crehash _ => false
  | .cfence _ => false
  | .hcopy _ => false
  | .hgath _ => false
  | .hscat _ => false
  | .hpack _ => false
  | .hunpk _ => false
  | .hwait _ => false
  | .hcancel _ => false
  | .viewRegisterWrite _ => false
  | .sclbaseWrite _ => false
  | .flagRegisterWrite _ => false
  | .linkEnable _ _ => false
  | .linkDisable _ _ => false
  | .linkRetrain _ _ => false
  | .lineFetch _ _ _ => false
  | .lineRefetch _ _ _ => false
  | .trapEntry _ _ => false
  | .firingStart _ => false
  | .regionDiscard _ _ => false
  | .wholeSave _ _ => false
  | .portForward _ _ _ => false
  | .loadDataReturn _ => false
  | .streamReadFetch _ _ _ => false
  | .streamWriteStore _ _ _ => false
  | .xloopPass _ _ => false
  | .storeAck _ => false
  | .remoteAccessPerform _ => false
  | .poolMoveRecheck _ _ => false
  | .poolMoveDone _ => false
  | .matrixEntryComplete _ _ => false
  | .followOnProduct _ => false
  | .heliostatCommandStart _ _ => false
  | .heliostatCommandComplete _ => false
  | .mloadFillComplete _ _ => false
  | .mstoreDrainComplete _ _ => false
  | .mdrainWake _ _ => false
  | .coreRetentionEntry _ => false
  | .coreWake _ => false
  | .ctsAdvance _ => false
  | .cacheFillComplete _ => false
  | .homeRequest _ => false
  | .hcExclusiveGrant _ => false
  | .hcRecall _ => false
  | .uGrant _ => false
  | .uRecall _ => false
  | .owHandoverAtHome _ => false
  | .owGrant _ => false
  | .reclassTlbsConfirmed _ => false
  | .reclassDrained _ => false
  | .mailboxEntryArrival _ => false
  | .mailboxHeldAppend _ _ => false
  | .eventDelivery _ => false
  | .wfeTimeout _ _ => false
  | .stealRequest _ => false
  | .gsendArrival _ => false
  | .cutStartArrival _ => false
  | .markerArrival _ => false
  | .almanacQuietPass _ => false
  | .catalogueUpdateApply _ => false
  | .pageWalk _ _ _ => false
  | .tlbiTarget _ => false
  | .launchFirmwareReply _ => false
  | .launchNofirmTimeout _ => false
  | .bindOpcBind _ _ => false
  | .unbind _ _ => false
  | .hold _ _ => false
  | .release _ _ => false
  | .mergeEntryArrival _ => false
  | .dmRoundComplete _ => false
  | .powerUp _ => false
  | .thermalThrottle _ _ => false
  | .powerThrottle _ _ => false
  | .thermalShutdown _ _ => false
  | .dramCrcRetry _ _ => false
  | .dramScrub _ _ => false
  | .writebackUe _ _ _ => false
  | .linkAnResolved _ _ => false
  | .linkAnTimeout _ _ => false
  | .linkTrainDone _ _ => false
  | .linkTrainTimeout _ _ => false
  | .linkLock _ _ => false
  | .linkLockTimeout _ _ => false
  | .linkAssocDone _ _ => false
  | .linkAssocRefused _ _ => false
  | .linkAssocTimeout _ _ => false
  | .linkFail _ _ => false
  | .linkFailedRetry _ _ => false
  | .fabricPacketArrival _ => false
  | .fabricResend _ => false
  | .fabricTimeout _ => false
  | .hostQueueMessage _ _ _ _ => false
  | .hostQueueLaunch _ _ _ _ => false
  | .hostQueueFirmware _ _ _ _ => false
  | .outboundAppend _ _ => false
  | .hostWindowRead _ _ _ _ _ => false
  | .hostWindowWrite _ _ _ _ _ => false
  | .catalogueCommandAnswer _ => false

/-- The stream of each instruction (R34). -/
def Instr.stream : Instr → Stream
  | .nop _ => .a
  | .trapc _ => .a
  | .trapret _ => .a
  | .rgnNew _ => .a
  | .rgnSet _ => .a
  | .rgnKill _ => .a
  | .bind _ => .a
  | .preemptFiring _ => .a
  | .preemptRegion _ => .a
  | .preemptResume _ => .a
  | .add _ => .a
  | .sub _ => .a
  | .mul _ => .a
  | .mulhI64 _ => .a
  | .mulhN64 _ => .a
  | .quoI64 _ => .a
  | .quoN64 _ => .a
  | .remI64 _ => .a
  | .remN64 _ => .a
  | .andBits _ => .a
  | .orBits _ => .a
  | .xorBits _ => .a
  | .andn _ => .a
  | .shl _ => .a
  | .shr _ => .a
  | .sra _ => .a
  | .rot _ => .a
  | .clz _ => .a
  | .ctz _ => .a
  | .popc _ => .a
  | .cmp _ => .a
  | .sel _ => .a
  | .minI64 _ => .a
  | .minN64 _ => .a
  | .maxI64 _ => .a
  | .maxN64 _ => .a
  | .mov _ => .a
  | .lea _ => .a
  | .gaddr _ => .a
  | .bfxI64 _ => .a
  | .bfxN64 _ => .a
  | .bfi _ => .a
  | .br _ => .a
  | .brl _ => .a
  | .jmp _ => .a
  | .jmpl _ => .a
  | .ret _ => .a
  | .loop _ => .a
  | .pand _ => .a
  | .por _ => .a
  | .pxor _ => .a
  | .pnot _ => .a
  | .phead _ => .a
  | .ptail _ => .a
  | .pcnt _ => .a
  | .endFiring _ => .a
  | .yield _ => .a
  | .idem _ => .a
  | .xloop _ => .x
  | .ld _ => .a
  | .st _ => .a
  | .ldm _ => .a
  | .stm _ => .a
  | .ldc _ => .a
  | .pref _ => .a
  | .flush _ => .a
  | .inv _ => .a
  | .iget _ => .a
  | .iput _ => .a
  | .scnt _ => .a
  | .handover _ => .a
  | .reclass _ => .a
  | .fence _ => .a
  | .amoAdd _ => .a
  | .amoAnd _ => .a
  | .amoOr _ => .a
  | .amoXor _ => .a
  | .amoMin _ => .a
  | .amoMax _ => .a
  | .amoUmin _ => .a
  | .amoUmax _ => .a
  | .amoSwap _ => .a
  | .amoFadd _ => .a
  | .amofAdd _ => .a
  | .amofAnd _ => .a
  | .amofOr _ => .a
  | .amofXor _ => .a
  | .amofMin _ => .a
  | .amofMax _ => .a
  | .amofUmin _ => .a
  | .amofUmax _ => .a
  | .amofSwap _ => .a
  | .amofFadd _ => .a
  | .amoUAdd _ => .a
  | .amoUAnd _ => .a
  | .amoUOr _ => .a
  | .amoUXor _ => .a
  | .amoUMin _ => .a
  | .amoUMax _ => .a
  | .amoUUmin _ => .a
  | .amoUUmax _ => .a
  | .amoUFadd _ => .a
  | .cas _ => .a
  | .casw _ => .a
  | .bari _ => .a
  | .bar _ => .a
  | .barw _ => .a
  | .dmclose _ => .a
  | .tlbi _ => .a
  | .fork _ => .a
  | .join _ => .a
  | .dqcnt _ => .a
  | .futNew _ => .a
  | .futSet _ => .a
  | .futGet _ => .a
  | .futFree _ => .a
  | .mbxBind _ => .a
  | .mbxFree _ => .a
  | .mbxrd _ => .a
  | .send _ => .a
  | .evt _ => .a
  | .wfe _ => .a
  | .gangOn _ => .a
  | .gangOff _ => .a
  | .rfork _ => .a
  | .launch _ => .a
  | .poolset _ => .a
  | .poolsetWait _ => .a
  | .poolrd _ => .a
  | .hwmSet _ => .a
  | .viewSet _ => .a
  | .viewClr _ => .a
  | .tset _ => .a
  | .tstat _ => .a
  | .tclr _ => .a
  | .qpop _ => .a
  | .qcnt _ => .a
  | .streamBind _ => .a
  | .streamEnd _ => .a
  | .winSet _ => .a
  | .srd _ => .a
  | .swr _ => .a
  | .logrd _ => .a
  | .logext _ => .a
  | .vadd _ => .x
  | .vsub _ => .x
  | .vmul _ => .x
  | .vmin _ => .x
  | .vmax _ => .x
  | .vabs _ => .x
  | .vneg _ => .x
  | .vfma _ => .x
  | .vfms _ => .x
  | .vfnma _ => .x
  | .vcmp _ => .x
  | .vsel _ => .x
  | .vclass _ => .x
  | .vcvt _ => .x
  | .vrsum _ => .x
  | .vrmax _ => .x
  | .vrmin _ => .x
  | .vand _ => .x
  | .vor _ => .x
  | .vxor _ => .x
  | .vandn _ => .x
  | .vshl _ => .x
  | .vshr _ => .x
  | .vsra _ => .x
  | .vadds _ => .x
  | .vsubs _ => .x
  | .vmulh _ => .x
  | .vperm _ => .x
  | .vbcast _ => .x
  | .vrot _ => .x
  | .vzip _ => .x
  | .vunzip _ => .x
  | .vcomp _ => .x
  | .vext _ => .x
  | .vins _ => .x
  | .vmov _ => .x
  | .vsign _ => .x
  | .vrand _ => .x
  | .div _ => .x
  | .sqrt _ => .x
  | .rcp _ => .x
  | .rsq _ => .x
  | .exp _ => .x
  | .expB2 _ => .x
  | .log _ => .x
  | .logB2 _ => .x
  | .sin _ => .x
  | .cos _ => .x
  | .tanh _ => .x
  | .tanhSig _ => .x
  | .erf _ => .x
  | .mma _ => .x
  | .mmaS _ => .x
  | .dmma _ => .x
  | .mscale _ => .x
  | .mzero _ => .x
  | .mflags _ => .x
  | .mdrain _ => .x
  | .mload _ => .x
  | .mstore _ => .x
  | .mxpose _ => .x
  | .mcvt _ => .x
  | .gatt _ => .a
  | .gdet _ => .a
  | .gbel _ => .x
  | .gcomb _ => .x
  | .gmarg _ => .x
  | .gdamp _ => .x
  | .gsend _ => .x
  | .gres _ => .x
  | .gmean _ => .x
  | .gcut _ => .a
  | .gcutrd _ => .a
  | .cvrd _ => .a
  | .cdef _ => .e
  | .cswap _ => .e
  | .cstat _ => .e
  | .cins _ => .e
  | .cdel _ => .e
  | .cprobe _ => .e
  | .clook _ => .e
  | .crehash _ => .e
  | .cfence _ => .e
  | .hcopy _ => .e
  | .hgath _ => .e
  | .hscat _ => .e
  | .hpack _ => .e
  | .hunpk _ => .e
  | .hwait _ => .e
  | .hcancel _ => .e
  | .viewRegisterWrite _ => .a
  | .sclbaseWrite _ => .a
  | .flagRegisterWrite _ => .a
  | .linkEnable _ _ => .none
  | .linkDisable _ _ => .none
  | .linkRetrain _ _ => .none
  | .lineFetch _ _ _ => .none
  | .lineRefetch _ _ _ => .none
  | .trapEntry _ _ => .none
  | .firingStart _ => .none
  | .regionDiscard _ _ => .none
  | .wholeSave _ _ => .none
  | .portForward _ _ _ => .none
  | .loadDataReturn _ => .none
  | .streamReadFetch _ _ _ => .none
  | .streamWriteStore _ _ _ => .none
  | .xloopPass _ _ => .none
  | .storeAck _ => .none
  | .remoteAccessPerform _ => .none
  | .poolMoveRecheck _ _ => .none
  | .poolMoveDone _ => .none
  | .matrixEntryComplete _ _ => .none
  | .followOnProduct _ => .none
  | .heliostatCommandStart _ _ => .none
  | .heliostatCommandComplete _ => .none
  | .mloadFillComplete _ _ => .none
  | .mstoreDrainComplete _ _ => .none
  | .mdrainWake _ _ => .none
  | .coreRetentionEntry _ => .none
  | .coreWake _ => .none
  | .ctsAdvance _ => .none
  | .cacheFillComplete _ => .none
  | .homeRequest _ => .none
  | .hcExclusiveGrant _ => .none
  | .hcRecall _ => .none
  | .uGrant _ => .none
  | .uRecall _ => .none
  | .owHandoverAtHome _ => .none
  | .owGrant _ => .none
  | .reclassTlbsConfirmed _ => .none
  | .reclassDrained _ => .none
  | .mailboxEntryArrival _ => .none
  | .mailboxHeldAppend _ _ => .none
  | .eventDelivery _ => .none
  | .wfeTimeout _ _ => .none
  | .stealRequest _ => .none
  | .gsendArrival _ => .none
  | .cutStartArrival _ => .none
  | .markerArrival _ => .none
  | .almanacQuietPass _ => .none
  | .catalogueUpdateApply _ => .none
  | .pageWalk _ _ _ => .none
  | .tlbiTarget _ => .none
  | .launchFirmwareReply _ => .none
  | .launchNofirmTimeout _ => .none
  | .bindOpcBind _ _ => .none
  | .unbind _ _ => .none
  | .hold _ _ => .none
  | .release _ _ => .none
  | .mergeEntryArrival _ => .none
  | .dmRoundComplete _ => .none
  | .powerUp _ => .none
  | .thermalThrottle _ _ => .none
  | .powerThrottle _ _ => .none
  | .thermalShutdown _ _ => .none
  | .dramCrcRetry _ _ => .none
  | .dramScrub _ _ => .none
  | .writebackUe _ _ _ => .none
  | .linkAnResolved _ _ => .none
  | .linkAnTimeout _ _ => .none
  | .linkTrainDone _ _ => .none
  | .linkTrainTimeout _ _ => .none
  | .linkLock _ _ => .none
  | .linkLockTimeout _ _ => .none
  | .linkAssocDone _ _ => .none
  | .linkAssocRefused _ _ => .none
  | .linkAssocTimeout _ _ => .none
  | .linkFail _ _ => .none
  | .linkFailedRetry _ _ => .none
  | .fabricPacketArrival _ => .none
  | .fabricResend _ => .none
  | .fabricTimeout _ => .none
  | .hostQueueMessage _ _ _ _ => .none
  | .hostQueueLaunch _ _ _ _ => .none
  | .hostQueueFirmware _ _ _ _ => .none
  | .outboundAppend _ _ => .none
  | .hostWindowRead _ _ _ _ _ => .none
  | .hostWindowWrite _ _ _ _ _ => .none
  | .catalogueCommandAnswer _ => .none

end Sys2Proof
end

