-- ==== Sys2Proof/Machine/Float.lean ====
section
/-! DEFINITION. Number formats, rounding, exact sums and the conditions they raise (R126 to R149). -/

namespace Sys2Proof.Machine

/-- Conditions in FFLAGS order: NV 4, DZ 3, OF 2, UF 1, NX 0 (R150). -/
abbrev Flags := BitVec 5
def fNV : Flags := 0b10000
def fDZ : Flags := 0b01000
def fOF : Flags := 0b00100
def fUF : Flags := 0b00010
def fNX : Flags := 0b00001

/-- The value of a floating-point code: a NaN (signalling or not), an infinity, or an exact signed magnitude. -/
inductive FV
  | nan (signalling : Bool)
  | inf (neg : Bool)
  | fin (neg : Bool) (mag : Rat)
  deriving DecidableEq, Repr

/-- Exponent bits (R126). -/
def Fmt.expBits : Fmt → Nat
  | .f64 => 11 | .f32 => 8 | .f16 => 5 | .bf16 => 8 | .e4m3 => 4 | .e5m2 => 5 | _ => 8
/-- Fraction bits (R126). -/
def Fmt.fracBits : Fmt → Nat
  | .f64 => 52 | .f32 => 23 | .f16 => 10 | .bf16 => 7 | .e4m3 => 3 | .e5m2 => 2 | _ => 23
def Fmt.bias (f : Fmt) : Nat := 2 ^ (Fmt.expBits f - 1) - 1
/-- The exponent of the smallest normal value. -/
def Fmt.emin (f : Fmt) : Int := 1 - (Fmt.bias f : Int)

/-- 2^e. -/
def pow2 (e : Int) : Rat := if 0 ≤ e then ((2 ^ e.toNat : Nat) : Rat) else 1 / ((2 ^ (-e).toNat : Nat) : Rat)

/-- ⌊log2 x⌋ for x > 0. -/
def floorLog2 (x : Rat) : Int :=
  let e : Int := (Nat.log2 x.num.toNat : Int) - (Nat.log2 x.den : Int)
  if pow2 e ≤ x then e else e - 1

/-- ⌊x⌋ for x ≥ 0. -/
def floorNat (x : Rat) : Nat := x.num.toNat / x.den

/-- The magnitude code of the infinities, where the format has them. -/
def infCode (f : Fmt) : Nat := (2 ^ Fmt.expBits f - 1) * 2 ^ Fmt.fracBits f
/-- The magnitude code of the largest finite value (R126, R128). -/
def maxCode (f : Fmt) : Nat := if f = .e4m3 then 0x7E else infCode f - 1
/-- The canonical NaN (R129). -/
def canonNaN : Fmt → Nat
  | .f64 => 0x7FF8000000000000 | .f32 => 0x7FC00000 | .f16 => 0x7E00 | .bf16 => 0x7FC0 | .e4m3 => 0x7F | .e5m2 => 0x7E
  | _ => 0
def signBit (f : Fmt) (neg : Bool) : Nat := if neg then 2 ^ (Fmt.width f - 1) else 0

/-- The meaning of a code (R127, R128). -/
def decodeF (f : Fmt) (code : Nat) : FV :=
  let p := Fmt.fracBits f
  let neg := bit code (Fmt.width f - 1)
  let m := code % 2 ^ (Fmt.width f - 1)
  let e := m / 2 ^ p
  let fr := m % 2 ^ p
  if f = .e4m3 ∧ m = 0x7F then .nan false
  else if f ≠ .e4m3 ∧ e = 2 ^ Fmt.expBits f - 1 then
    if fr = 0 then .inf neg else .nan (decide (f ≠ .e5m2) && !bit fr (p - 1))
  else if e = 0 then .fin neg ((fr : Rat) * pow2 (Fmt.emin f - p))
  else .fin neg (((2 ^ p + fr : Nat) : Rat) * pow2 ((e : Int) - Fmt.bias f - p))

/-- Whether a rounding mode takes the larger magnitude k + 1 over k, given the fraction between them (R135, R139);
u is the element's random integer of w bits. -/
def takesUp (rm : Nat) (neg : Bool) (k : Nat) (frac : Rat) (u w : Nat) : Bool :=
  if frac = 0 then false
  else match rm with
    | 0 => decide (1 / 2 < frac) || (decide (frac = 1 / 2) && k % 2 == 1)
    | 1 => false
    | 2 => neg
    | 3 => !neg
    | 4 => decide (1 / 2 ≤ frac)
    | 5 => decide (u < floorNat (frac * (2 ^ w : Nat)))
    | _ => k % 2 == 0

/-- Round an exact non-zero magnitude at a quantum 2^q: the count of quanta and whether it is exact. -/
def roundQuanta (rm : Nat) (neg : Bool) (mag : Rat) (q : Int) (u w : Nat) : Nat × Bool :=
  let x := mag * pow2 (-q)
  let k := floorNat x
  let frac := x - (k : Rat)
  (if takesUp rm neg k frac u w then k + 1 else k, decide (frac = 0))

/-- What a rounding mode gives beyond the largest finite value (R135). -/
def overflowCode (f : Fmt) (rm : Nat) (neg : Bool) : Nat :=
  if f = .e4m3 then maxCode f
  else match rm with
    | 1 => maxCode f
    | 2 => if neg then infCode f else maxCode f
    | 3 => if neg then maxCode f else infCode f
    | 6 => maxCode f
    | _ => infCode f

/-- RoundTo(format, y, RM) of an exact finite value, with the conditions of R135, R139 and R151. -/
def roundFin (f : Fmt) (rm : Nat) (u : Nat) (neg : Bool) (mag : Rat) : Nat × Flags :=
  if mag = 0 then (signBit f neg, 0)
  else
    let p := Fmt.fracBits f
    let w := Fmt.width f
    let e := floorLog2 mag
    let q := max e (Fmt.emin f) - p
    let (k, exact) := roundQuanta rm neg mag q u w
    let m := if e < Fmt.emin f then k else (e + Fmt.bias f).toNat * 2 ^ p + (k - 2 ^ p)
    if f = .e4m3 ∧ rm = 5 ∧ m = maxCode f + 1 ∧ k = floorNat (mag * pow2 (-q)) + 1 then (signBit f neg + maxCode f, fNX)
    else if maxCode f < m then (signBit f neg + overflowCode f rm neg, fOF ||| fNX)
    else
      let tiny := decide (e < Fmt.emin f) &&
        (let (k', _) := roundQuanta rm neg mag (e - p) u w
         decide ((k' : Rat) * pow2 (e - p) < pow2 (Fmt.emin f)))
      (signBit f neg + m, if exact then 0 else if tiny then fUF ||| fNX else fNX)

/-- RoundTo of any exact value. An infinity that reaches E4M3 gives NaN and raises invalid (R137). -/
def roundFV (f : Fmt) (rm : Nat) (u : Nat) : FV → Nat × Flags
  | .nan s => (canonNaN f, if s then fNV else 0)
  | .inf neg => if f = .e4m3 then (canonNaN f, fNV) else (signBit f neg + infCode f, 0)
  | .fin neg m => roundFin f rm u neg m

/-- A term of an exact sum, and whether forming it was invalid. -/
structure Term where
  v : FV
  invalid : Bool
  deriving DecidableEq, Repr

def FV.term (v : FV) : Term := ⟨v, match v with | .nan s => s | _ => false⟩
def FV.neg : FV → FV | .nan s => .nan s | .inf b => .inf !b | .fin b m => .fin (!b) m
def FV.isNeg : FV → Bool | .nan _ => false | .inf b => b | .fin b _ => b

/-- An exact product (R147): infinity × 0 is invalid, and so is a signalling NaN. -/
def mulFV (a b : FV) : Term :=
  match a, b with
  | .nan s, .nan t => ⟨.nan false, s || t⟩
  | .nan s, _ => ⟨.nan false, s⟩
  | _, .nan t => ⟨.nan false, t⟩
  | .inf x, .inf y => ⟨.inf (x != y), false⟩
  | .inf x, .fin y m => if m = 0 then ⟨.nan false, true⟩ else ⟨.inf (x != y), false⟩
  | .fin x m, .inf y => if m = 0 then ⟨.nan false, true⟩ else ⟨.inf (x != y), false⟩
  | .fin x m, .fin y n => ⟨.fin (x != y) (m * n), false⟩

/-- The signed value of a finite term. -/
def FV.signed : FV → Rat
  | .fin neg m => if neg then -m else m
  | _ => 0

def Term.isNaN (t : Term) : Bool := match t.v with | .nan _ => true | _ => false
def Term.isInf (t : Term) (neg : Bool) : Bool := match t.v with | .inf b => b == neg | _ => false

/-- The exact sum of terms under R136 and R147: the value and whether it is invalid. -/
def sumTerms (rm : Nat) (l : List Term) : FV × Bool :=
  let pos := l.any (·.isInf false)
  let neg := l.any (·.isInf true)
  let invalid := l.any (·.invalid) || (pos && neg)
  if invalid || l.any (·.isNaN) then (.nan false, invalid)
  else if pos then (.inf false, false)
  else if neg then (.inf true, false)
  else
    let x := (l.map (fun t => t.v.signed)).foldl (· + ·) 0
    if x = 0 then
      let zeros := l.all (fun t => t.v.signed == 0)
      if zeros && l.all (fun t => t.v.isNeg) then (.fin true 0, false)
      else if zeros && l.all (fun t => !t.v.isNeg) then (.fin false 0, false)
      else (.fin (rm == 2) 0, false)
    else if x < 0 then (.fin true (-x), false) else (.fin false x, false)

/-- Round an exact sum once. -/
def roundSum (f : Fmt) (rm u : Nat) (l : List Term) : Nat × Flags :=
  let (v, invalid) := sumTerms rm l
  let (c, fl) := roundFV f rm u v
  (c, if invalid then fl ||| fNV else fl)

def addF (f : Fmt) (rm u a b : Nat) : Nat × Flags := roundSum f rm u [(decodeF f a).term, (decodeF f b).term]
def subF (f : Fmt) (rm u a b : Nat) : Nat × Flags := roundSum f rm u [(decodeF f a).term, (decodeF f b).neg.term]
def mulF (f : Fmt) (rm u a b : Nat) : Nat × Flags := roundSum f rm u [mulFV (decodeF f a) (decodeF f b)]
/-- RoundTo(±(a × b) ± c). -/
def fmaF (f : Fmt) (rm u : Nat) (negProd negC : Bool) (a b c : Nat) : Nat × Flags :=
  let a' := decodeF f a
  let c' := decodeF f c
  roundSum f rm u [mulFV (if negProd then a'.neg else a') (decodeF f b), (if negC then c'.neg else c').term]

/-- Order of two non-NaN values, −0 below +0 (R138). -/
def ltF (a b : FV) : Bool :=
  match a, b with
  | .inf x, .inf y => x && !y
  | .inf x, _ => x
  | _, .inf y => !y
  | .fin x m, .fin y n => if m = 0 ∧ n = 0 then x && !y else decide ((FV.fin x m).signed < (FV.fin y n).signed)
  | _, _ => false

def FV.isNaN : FV → Bool | .nan _ => true | _ => false
def FV.isSNaN : FV → Bool | .nan s => s | _ => false

/-- MIN and MAX (R138). -/
def minmaxF (f : Fmt) (isMax : Bool) (a b : Nat) : Nat × Flags :=
  let x := decodeF f a
  let y := decodeF f b
  if x.isNaN || y.isNaN then (canonNaN f, if x.isSNaN || y.isSNaN then fNV else 0)
  else if isMax then (if ltF x y then b else a, 0)
  else (if ltF y x then b else a, 0)

/-- IEEE comparison: less, and equal with −0 = +0 (R200). -/
def eqF (a b : FV) : Bool :=
  match a, b with
  | .inf x, .inf y => x == y
  | .fin x m, .fin y n => decide ((FV.fin x m).signed = (FV.fin y n).signed)
  | _, _ => false
def ltIeee (a b : FV) : Bool := ltF a b && !eqF a b

/-- A floating-point value to an integer of w bits (R137): NaN gives 0, a value out of range its nearest bound. -/
def toIntF (signed : Bool) (w rm u : Nat) (v : FV) : Nat × Flags :=
  let hi : Int := if signed then 2 ^ (w - 1) - 1 else 2 ^ w - 1
  let lo : Int := if signed then -(2 ^ (w - 1)) else 0
  match v with
  | .nan _ => (0, fNV)
  | .inf neg => (wrapInt w (if neg then lo else hi), fNV)
  | .fin neg m =>
    if m = 0 then (0, 0)
    else
      let (k, exact) := roundQuanta rm neg m 0 u w
      let x : Int := if neg then -(k : Int) else k
      if x < lo then (wrapInt w lo, fNV)
      else if hi < x then (wrapInt w hi, fNV)
      else (wrapInt w x, if exact then 0 else fNX)

/-- The exact value of an integer. -/
def intFV (x : Int) : FV := .fin (decide (x < 0)) ((x.natAbs : Nat) : Rat)

/-- The value of an m4 code under a block TYPE (R133). -/
def m4Value (ty code : Nat) : FV :=
  if ty % 4 = 0 then intFV (sintOf 4 code)
  else
    let c := code % 8
    let mag : Rat := match ty % 4 with
      | 1 => match c with | 0 => 0 | 1 => 1 / 2 | 2 => 1 | 3 => 3 / 2 | 4 => 2 | 5 => 3 | 6 => 4 | _ => 6
      | 2 => if c = 0 then 0 else pow2 ((c : Int) - 4)
      | _ => match c with | 0 => 0 | 1 => 1 | 2 => 2 | 3 => 3 | 4 => 4 | 5 => 6 | 6 => 8 | _ => 12
    .fin (bit code 3) mag

/-- Rotl of R141. -/
def rotl64 (x n : Nat) : Nat := (x * 2 ^ n) % 2 ^ 64 + x / 2 ^ (64 - n)

def rotA : List Nat := [13, 41, 27, 7, 50, 19, 35, 60]
def rotB : List Nat := [29, 11, 54, 45, 3, 38, 21, 17]

/-- One round of Block (R141). -/
def blockRound (i : Nat) (t : Nat × Nat × Nat × Nat) : Nat × Nat × Nat × Nat :=
  let (s0, s1, s2, s3) := t
  let s0 := (s0 + s1) % 2 ^ 64
  let s1 := Nat.xor (rotl64 s1 (rotA.getD (i % 8) 0)) s0
  let s2 := (s2 + s3) % 2 ^ 64
  let s3 := Nat.xor (rotl64 s3 (rotB.getD (i % 8) 0)) s2
  ((s0 + (i + 1) * 0x9E3779B97F4A7C15) % 2 ^ 64, s3, s2, s1)

/-- Block(ctr) under a seed, a logical core and a stream (R141). -/
def randBlock (ctr seed lcore stream : Nat) : Nat :=
  let (s0, s1, s2, s3) := (List.range 20).foldl (fun t i => blockRound i t) (ctr, seed, lcore, stream)
  s3 * 2 ^ 192 + s2 * 2 ^ 128 + s1 * 2 ^ 64 + s0

/-- Element e's w random bits when a step starts at counter c0 (R140). -/
def randBits (seed lcore stream c0 w e : Nat) : Nat :=
  (randBlock (c0 + e * w / 256) seed lcore stream >>> (e * w % 256)) % 2 ^ w

end Sys2Proof.Machine
end

