-- ==== Sys2Proof/Config.lean ====
section
/-! DEFINITION. What the spec leaves open, as constants with no body: nothing can evaluate them, so a claim holds
whatever they are. Each is named by a row of the assumption log. -/

namespace Sys2Proof.Config

/-- A free value: the n-th value the spec leaves open in a run (a TVAL no rule states, a duration, an undefined
result). -/
opaque freeValue : Nat → Word

/-- Which of the enabled agents acts in step n: any interleaving that no rule forbids (R88, R171, R267). -/
opaque pick : Nat → Nat

/-- How many cycles pass in step n (R7): the spec gives times, which change timing only. -/
opaque cycles : Nat → Nat

/-- The victim among k lines of a full CCH role at draw n: the spec gives no replacement rule for CCH. -/
opaque victim : Nat → Nat → Nat

/-- The special functions whose result the spec bounds but does not fix (R157, R158): the value the hardware gives
for (function, format code, input bits). Kept only when it lies within the bound. -/
opaque special : Nat → Nat → Nat → Nat

/-- What the start-up function of a package's E-die 0 gives its device key (R381). -/
opaque deviceKey : Nat → Nat

/-- What the Delweyr firmware key was made from (R405): the private key is not in the machine. -/
opaque firmwareKey : Nat

/-- The source IP address of a package's fabric endpoint, 16 bytes (R409): the network gives it. -/
opaque address : Nat → List Byte

/-- The placement the Almanac firmware chooses for entry a of the n-th launch: a coordinate word and a split
(R352); the firmware is a program the spec does not give. -/
opaque placement : Nat → Nat → Nat

/-- Whether, at step n, the fabric limit of an access of another package that a unit makes whole has passed (R399). -/
opaque farLimit : Nat → Bool

/-- Whether draw n of a free choice is taken. -/
opaque choice : Nat → Bool

end Sys2Proof.Config
end

