-- ==== Sys2Proof/WellFormed.lean ====
section
/-! DEFINITION. Well-formed instructions: the ones the decoder accepts (R49 to R60). -/

namespace Sys2Proof

/-- An operand record of any class. -/
inductive Body
  | a (o : AOps)
  | m (o : MOps)
  | x (o : XOps)
  | t (o : TOps)
  | e (o : EOps)
  | f (o : FOps)
  deriving DecidableEq, Repr

/-- OP, FN (R59) and operands; none for the machine's own acts. -/
def Instr.parts : Instr → Option (Nat × Nat × Body)
  | .nop o => some (0x00, 0x00, .a o)
  | .trapc o => some (0x00, 0x01, .a o)
  | .trapret o => some (0x00, 0x02, .a o)
  | .rgnNew o => some (0x00, 0x03, .e o)
  | .rgnSet o => some (0x00, 0x04, .e o)
  | .rgnKill o => some (0x00, 0x05, .e o)
  | .bind o => some (0x00, 0x06, .e o)
  | .preemptFiring o => some (0x00, 0x07, .e o)
  | .preemptRegion o => some (0x00, 0x07, .e o)
  | .preemptResume o => some (0x00, 0x07, .e o)
  | .add o => some (0x01, 0x00, .a o)
  | .sub o => some (0x01, 0x01, .a o)
  | .mul o => some (0x01, 0x02, .a o)
  | .mulhI64 o => some (0x01, 0x03, .a o)
  | .mulhN64 o => some (0x01, 0x04, .a o)
  | .quoI64 o => some (0x01, 0x05, .a o)
  | .quoN64 o => some (0x01, 0x06, .a o)
  | .remI64 o => some (0x01, 0x07, .a o)
  | .remN64 o => some (0x01, 0x08, .a o)
  | .andBits o => some (0x02, 0x00, .a o)
  | .orBits o => some (0x02, 0x01, .a o)
  | .xorBits o => some (0x02, 0x02, .a o)
  | .andn o => some (0x02, 0x03, .a o)
  | .shl o => some (0x02, 0x04, .a o)
  | .shr o => some (0x02, 0x05, .a o)
  | .sra o => some (0x02, 0x06, .a o)
  | .rot o => some (0x02, 0x07, .a o)
  | .clz o => some (0x02, 0x08, .a o)
  | .ctz o => some (0x02, 0x09, .a o)
  | .popc o => some (0x02, 0x0A, .a o)
  | .cmp o => some (0x03, 0x00, .a o)
  | .sel o => some (0x03, 0x01, .a o)
  | .minI64 o => some (0x03, 0x02, .a o)
  | .minN64 o => some (0x03, 0x03, .a o)
  | .maxI64 o => some (0x03, 0x04, .a o)
  | .maxN64 o => some (0x03, 0x05, .a o)
  | .mov o => some (0x20, 0x00, .a o)
  | .lea o => some (0x20, 0x01, .a o)
  | .gaddr o => some (0x20, 0x02, .a o)
  | .bfxI64 o => some (0x20, 0x03, .a o)
  | .bfxN64 o => some (0x20, 0x04, .a o)
  | .bfi o => some (0x20, 0x05, .a o)
  | .br o => some (0x30, 0x00, .a o)
  | .brl o => some (0x30, 0x01, .a o)
  | .jmp o => some (0x30, 0x02, .a o)
  | .jmpl o => some (0x30, 0x03, .a o)
  | .ret o => some (0x30, 0x04, .a o)
  | .loop o => some (0x30, 0x05, .a o)
  | .pand o => some (0x31, 0x00, .a o)
  | .por o => some (0x31, 0x01, .a o)
  | .pxor o => some (0x31, 0x02, .a o)
  | .pnot o => some (0x31, 0x03, .a o)
  | .phead o => some (0x32, 0x00, .a o)
  | .ptail o => some (0x32, 0x01, .a o)
  | .pcnt o => some (0x32, 0x02, .a o)
  | .endFiring o => some (0x33, 0x00, .a o)
  | .yield o => some (0x33, 0x01, .a o)
  | .idem o => some (0x33, 0x02, .a o)
  | .xloop o => some (0x34, 0x00, .a o)
  | .ld o => some (0x40, 0x00, .m o)
  | .st o => some (0x40, 0x01, .m o)
  | .ldm o => some (0x40, 0x02, .m o)
  | .stm o => some (0x40, 0x03, .m o)
  | .ldc o => some (0x40, 0x04, .a o)
  | .pref o => some (0x41, 0x00, .m o)
  | .flush o => some (0x41, 0x01, .m o)
  | .inv o => some (0x41, 0x02, .m o)
  | .iget o => some (0x42, 0x00, .m o)
  | .iput o => some (0x42, 0x01, .m o)
  | .scnt o => some (0x43, 0x00, .m o)
  | .handover o => some (0x43, 0x01, .m o)
  | .reclass o => some (0x43, 0x02, .m o)
  | .fence o => some (0x50, 0x00, .m o)
  | .amoAdd o => some (0x51, 0x00, .m o)
  | .amoAnd o => some (0x51, 0x01, .m o)
  | .amoOr o => some (0x51, 0x02, .m o)
  | .amoXor o => some (0x51, 0x03, .m o)
  | .amoMin o => some (0x51, 0x04, .m o)
  | .amoMax o => some (0x51, 0x05, .m o)
  | .amoUmin o => some (0x51, 0x06, .m o)
  | .amoUmax o => some (0x51, 0x07, .m o)
  | .amoSwap o => some (0x51, 0x08, .m o)
  | .amoFadd o => some (0x51, 0x09, .m o)
  | .amofAdd o => some (0x52, 0x00, .m o)
  | .amofAnd o => some (0x52, 0x01, .m o)
  | .amofOr o => some (0x52, 0x02, .m o)
  | .amofXor o => some (0x52, 0x03, .m o)
  | .amofMin o => some (0x52, 0x04, .m o)
  | .amofMax o => some (0x52, 0x05, .m o)
  | .amofUmin o => some (0x52, 0x06, .m o)
  | .amofUmax o => some (0x52, 0x07, .m o)
  | .amofSwap o => some (0x52, 0x08, .m o)
  | .amofFadd o => some (0x52, 0x09, .m o)
  | .amoUAdd o => some (0x53, 0x00, .m o)
  | .amoUAnd o => some (0x53, 0x01, .m o)
  | .amoUOr o => some (0x53, 0x02, .m o)
  | .amoUXor o => some (0x53, 0x03, .m o)
  | .amoUMin o => some (0x53, 0x04, .m o)
  | .amoUMax o => some (0x53, 0x05, .m o)
  | .amoUUmin o => some (0x53, 0x06, .m o)
  | .amoUUmax o => some (0x53, 0x07, .m o)
  | .amoUFadd o => some (0x53, 0x09, .m o)
  | .cas o => some (0x54, 0x00, .m o)
  | .casw o => some (0x54, 0x01, .m o)
  | .bari o => some (0x55, 0x00, .m o)
  | .bar o => some (0x55, 0x01, .m o)
  | .barw o => some (0x55, 0x02, .m o)
  | .dmclose o => some (0x55, 0x03, .e o)
  | .tlbi o => some (0x56, 0x00, .e o)
  | .fork o => some (0x60, 0x00, .f o)
  | .join o => some (0x60, 0x01, .f o)
  | .dqcnt o => some (0x60, 0x02, .e o)
  | .futNew o => some (0x61, 0x00, .e o)
  | .futSet o => some (0x61, 0x01, .e o)
  | .futGet o => some (0x61, 0x02, .e o)
  | .futFree o => some (0x61, 0x03, .e o)
  | .mbxBind o => some (0x62, 0x00, .e o)
  | .mbxFree o => some (0x62, 0x01, .e o)
  | .mbxrd o => some (0x62, 0x02, .e o)
  | .send o => some (0x62, 0x03, .e o)
  | .evt o => some (0x63, 0x00, .e o)
  | .wfe o => some (0x63, 0x01, .e o)
  | .gangOn o => some (0x63, 0x02, .e o)
  | .gangOff o => some (0x63, 0x03, .e o)
  | .rfork o => some (0x64, 0x00, .f o)
  | .launch o => some (0x64, 0x01, .e o)
  | .poolset o => some (0x70, 0x00, .a o)
  | .poolsetWait o => some (0x70, 0x01, .a o)
  | .poolrd o => some (0x70, 0x02, .a o)
  | .hwmSet o => some (0x70, 0x03, .a o)
  | .viewSet o => some (0x71, 0x00, .a o)
  | .viewClr o => some (0x71, 0x01, .a o)
  | .tset o => some (0x72, 0x00, .a o)
  | .tstat o => some (0x72, 0x01, .a o)
  | .tclr o => some (0x72, 0x02, .a o)
  | .qpop o => some (0x73, 0x00, .a o)
  | .qcnt o => some (0x73, 0x01, .a o)
  | .streamBind o => some (0x73, 0x02, .a o)
  | .streamEnd o => some (0x73, 0x03, .a o)
  | .winSet o => some (0x74, 0x00, .a o)
  | .srd o => some (0x74, 0x01, .a o)
  | .swr o => some (0x74, 0x02, .a o)
  | .logrd o => some (0x74, 0x03, .a o)
  | .logext o => some (0x74, 0x04, .a o)
  | .vadd o => some (0x80, 0x00, .x o)
  | .vsub o => some (0x80, 0x01, .x o)
  | .vmul o => some (0x80, 0x02, .x o)
  | .vmin o => some (0x80, 0x03, .x o)
  | .vmax o => some (0x80, 0x04, .x o)
  | .vabs o => some (0x80, 0x05, .x o)
  | .vneg o => some (0x80, 0x06, .x o)
  | .vfma o => some (0x81, 0x00, .x o)
  | .vfms o => some (0x81, 0x01, .x o)
  | .vfnma o => some (0x81, 0x02, .x o)
  | .vcmp o => some (0x82, 0x00, .x o)
  | .vsel o => some (0x82, 0x01, .x o)
  | .vclass o => some (0x82, 0x02, .x o)
  | .vcvt o => some (0x83, 0x00, .x o)
  | .vrsum o => some (0x84, 0x00, .x o)
  | .vrmax o => some (0x84, 0x01, .x o)
  | .vrmin o => some (0x84, 0x02, .x o)
  | .vand o => some (0xA0, 0x00, .x o)
  | .vor o => some (0xA0, 0x01, .x o)
  | .vxor o => some (0xA0, 0x02, .x o)
  | .vandn o => some (0xA0, 0x03, .x o)
  | .vshl o => some (0xA0, 0x04, .x o)
  | .vshr o => some (0xA0, 0x05, .x o)
  | .vsra o => some (0xA0, 0x06, .x o)
  | .vadds o => some (0xA1, 0x00, .x o)
  | .vsubs o => some (0xA1, 0x01, .x o)
  | .vmulh o => some (0xA1, 0x02, .x o)
  | .vperm o => some (0xA2, 0x00, .x o)
  | .vbcast o => some (0xA2, 0x01, .x o)
  | .vrot o => some (0xA2, 0x02, .x o)
  | .vzip o => some (0xA2, 0x03, .x o)
  | .vunzip o => some (0xA2, 0x04, .x o)
  | .vcomp o => some (0xA2, 0x05, .x o)
  | .vext o => some (0xA3, 0x00, .x o)
  | .vins o => some (0xA3, 0x01, .x o)
  | .vmov o => some (0xA3, 0x02, .x o)
  | .vsign o => some (0xA3, 0x03, .x o)
  | .vrand o => some (0xA3, 0x04, .x o)
  | .div o => some (0xB0, 0x00, .x o)
  | .sqrt o => some (0xB0, 0x01, .x o)
  | .rcp o => some (0xB1, 0x00, .x o)
  | .rsq o => some (0xB1, 0x01, .x o)
  | .exp o => some (0xB2, 0x00, .x o)
  | .expB2 o => some (0xB2, 0x01, .x o)
  | .log o => some (0xB2, 0x02, .x o)
  | .logB2 o => some (0xB2, 0x03, .x o)
  | .sin o => some (0xB3, 0x00, .x o)
  | .cos o => some (0xB3, 0x01, .x o)
  | .tanh o => some (0xB4, 0x00, .x o)
  | .tanhSig o => some (0xB4, 0x01, .x o)
  | .erf o => some (0xB4, 0x02, .x o)
  | .mma o => some (0xC0, 0x00, .t o)
  | .mmaS o => some (0xC0, 0x01, .t o)
  | .dmma o => some (0xC0, 0x02, .t o)
  | .mscale o => some (0xC1, 0x00, .t o)
  | .mzero o => some (0xC1, 0x01, .t o)
  | .mflags o => some (0xC1, 0x02, .t o)
  | .mdrain o => some (0xC2, 0x00, .t o)
  | .mload o => some (0xC3, 0x00, .t o)
  | .mstore o => some (0xC3, 0x01, .t o)
  | .mxpose o => some (0xC3, 0x02, .t o)
  | .mcvt o => some (0xC3, 0x03, .t o)
  | .gatt o => some (0xD0, 0x00, .x o)
  | .gdet o => some (0xD0, 0x01, .x o)
  | .gbel o => some (0xD1, 0x00, .x o)
  | .gcomb o => some (0xD1, 0x01, .x o)
  | .gmarg o => some (0xD1, 0x02, .x o)
  | .gdamp o => some (0xD1, 0x03, .x o)
  | .gsend o => some (0xD2, 0x00, .x o)
  | .gres o => some (0xD2, 0x01, .x o)
  | .gmean o => some (0xD2, 0x02, .x o)
  | .gcut o => some (0xD3, 0x00, .x o)
  | .gcutrd o => some (0xD3, 0x01, .x o)
  | .cvrd o => some (0xD3, 0x02, .x o)
  | .cdef o => some (0xE0, 0x00, .e o)
  | .cswap o => some (0xE0, 0x01, .e o)
  | .cstat o => some (0xE0, 0x02, .e o)
  | .cins o => some (0xE1, 0x00, .e o)
  | .cdel o => some (0xE1, 0x01, .e o)
  | .cprobe o => some (0xE2, 0x00, .e o)
  | .clook o => some (0xE2, 0x01, .e o)
  | .crehash o => some (0xE3, 0x00, .e o)
  | .cfence o => some (0xE3, 0x01, .e o)
  | .hcopy o => some (0xE8, 0x00, .e o)
  | .hgath o => some (0xE9, 0x00, .e o)
  | .hscat o => some (0xE9, 0x01, .e o)
  | .hpack o => some (0xEA, 0x00, .e o)
  | .hunpk o => some (0xEA, 0x01, .e o)
  | .hwait o => some (0xEB, 0x00, .e o)
  | .hcancel o => some (0xEB, 0x01, .e o)
  | .viewRegisterWrite o => some (0x74, 0x02, .a o)
  | .sclbaseWrite o => some (0x74, 0x02, .a o)
  | .flagRegisterWrite o => some (0x74, 0x02, .a o)
  | .linkEnable _ _ => none
  | .linkDisable _ _ => none
  | .linkRetrain _ _ => none
  | .lineFetch _ _ _ => none
  | .lineRefetch _ _ _ => none
  | .trapEntry _ _ => none
  | .firingStart _ => none
  | .regionDiscard _ _ => none
  | .wholeSave _ _ => none
  | .portForward _ _ _ => none
  | .loadDataReturn _ => none
  | .streamReadFetch _ _ _ => none
  | .streamWriteStore _ _ _ => none
  | .xloopPass _ _ => none
  | .storeAck _ => none
  | .remoteAccessPerform _ => none
  | .poolMoveRecheck _ _ => none
  | .poolMoveDone _ => none
  | .matrixEntryComplete _ _ => none
  | .followOnProduct _ => none
  | .heliostatCommandStart _ _ => none
  | .heliostatCommandComplete _ => none
  | .mloadFillComplete _ _ => none
  | .mstoreDrainComplete _ _ => none
  | .mdrainWake _ _ => none
  | .coreRetentionEntry _ => none
  | .coreWake _ => none
  | .ctsAdvance _ => none
  | .cacheFillComplete _ => none
  | .homeRequest _ => none
  | .hcExclusiveGrant _ => none
  | .hcRecall _ => none
  | .uGrant _ => none
  | .uRecall _ => none
  | .owHandoverAtHome _ => none
  | .owGrant _ => none
  | .reclassTlbsConfirmed _ => none
  | .reclassDrained _ => none
  | .mailboxEntryArrival _ => none
  | .mailboxHeldAppend _ _ => none
  | .eventDelivery _ => none
  | .wfeTimeout _ _ => none
  | .stealRequest _ => none
  | .gsendArrival _ => none
  | .cutStartArrival _ => none
  | .markerArrival _ => none
  | .almanacQuietPass _ => none
  | .catalogueUpdateApply _ => none
  | .pageWalk _ _ _ => none
  | .tlbiTarget _ => none
  | .launchFirmwareReply _ => none
  | .launchNofirmTimeout _ => none
  | .bindOpcBind _ _ => none
  | .unbind _ _ => none
  | .hold _ _ => none
  | .release _ _ => none
  | .mergeEntryArrival _ => none
  | .dmRoundComplete _ => none
  | .powerUp _ => none
  | .thermalThrottle _ _ => none
  | .powerThrottle _ _ => none
  | .thermalShutdown _ _ => none
  | .dramCrcRetry _ _ => none
  | .dramScrub _ _ => none
  | .writebackUe _ _ _ => none
  | .linkAnResolved _ _ => none
  | .linkAnTimeout _ _ => none
  | .linkTrainDone _ _ => none
  | .linkTrainTimeout _ _ => none
  | .linkLock _ _ => none
  | .linkLockTimeout _ _ => none
  | .linkAssocDone _ _ => none
  | .linkAssocRefused _ _ => none
  | .linkAssocTimeout _ _ => none
  | .linkFail _ _ => none
  | .linkFailedRetry _ _ => none
  | .fabricPacketArrival _ => none
  | .fabricResend _ => none
  | .fabricTimeout _ => none
  | .hostQueueMessage _ _ _ _ => none
  | .hostQueueLaunch _ _ _ _ => none
  | .hostQueueFirmware _ _ _ _ => none
  | .outboundAppend _ _ => none
  | .hostWindowRead _ _ _ _ _ => none
  | .hostWindowWrite _ _ _ _ _ => none
  | .catalogueCommandAnswer _ => none

/-- An instruction whose fields pass every decode check of its section. -/
abbrev Instr.WellFormed (i : Instr) : Prop := i.legal = true

end Sys2Proof
end

