-- ==== Sys2Proof/Decode.lean ====
section
/-! DEFINITION. The decoder, total on any bytes and rejecting by name, and the encoder (R47 to R60). -/

namespace Sys2Proof

def Fmt.code : Fmt → BitVec 4
  | .none => 0 | .f64 => 1 | .f32 => 2 | .f16 => 3 | .bf16 => 4 | .e4m3 => 5 | .e5m2 => 6 | .m4 => 7
  | .i8 => 8 | .i16 => 9 | .i32 => 10 | .i64 => 11 | .n8 => 12 | .n16 => 13 | .n32 => 14 | .n64 => 15

/-- The format of a code (R51). -/
def Fmt.ofCode (c : BitVec 4) : Fmt :=
  match c.toNat with
  | 0 => .none | 1 => .f64 | 2 => .f32 | 3 => .f16 | 4 => .bf16 | 5 => .e4m3 | 6 => .e5m2 | 7 => .m4
  | 8 => .i8 | 9 => .i16 | 10 => .i32 | 11 => .i64 | 12 => .n8 | 13 => .n16 | 14 => .n32 | _ => .n64

def Reg.code : Reg → BitVec 10
  | .g k => BitVec.ofNat 10 k.toNat
  | .p k => BitVec.ofNat 10 (0x020 + k.toNat)
  | .q k => BitVec.ofNat 10 (0x028 + k.toNat)
  | .t k => BitVec.ofNat 10 (0x040 + k.toNat)
  | .z k => BitVec.ofNat 10 (0x080 + k.toNat)
  | .v k => BitVec.ofNat 10 (0x100 + k.toNat)
  | .sys k => BitVec.ofNat 10 (0x200 + k.val)
  | .win => 0x3FE
  | .lit => 0x3FF

/-- The register of a code; none for the reserved codes (R48). -/
def Reg.ofCode (c : BitVec 10) : Option Reg :=
  let n := c.toNat
  if n < 0x020 then some (.g (BitVec.ofNat 5 n))
  else if n < 0x028 then some (.p (BitVec.ofNat 3 n))
  else if n < 0x030 then some (.q (BitVec.ofNat 3 n))
  else if n < 0x040 then none
  else if n < 0x080 then some (.t (BitVec.ofNat 6 n))
  else if n < 0x090 then some (.z (BitVec.ofNat 4 n))
  else if n < 0x100 then none
  else if n < 0x200 then some (.v (BitVec.ofNat 8 n))
  else if h : n - 0x200 < 510 then some (.sys ⟨n - 0x200, h⟩)
  else if n = 0x3FE then some .win
  else some .lit

/-- A word whose register fields have been read, with its EXT still one field. -/
structure Raw where
  h : Hd
  ext : BitVec 36
  deriving DecidableEq, Repr

def Raw.toA (b : Raw) : AOps := ⟨b.h, b.ext⟩
def Raw.toM (b : Raw) : MOps :=
  ⟨b.h, Fmt.ofCode (b.ext.extractLsb' 32 4), b.ext.getLsbD 31, b.ext.extractLsb' 29 2, b.ext.extractLsb' 26 3,
    b.ext.getLsbD 25, b.ext.extractLsb' 0 24⟩
def Raw.toX (b : Raw) : XOps :=
  ⟨b.h, b.ext.extractLsb' 34 2, b.ext.extractLsb' 32 2, b.ext.extractLsb' 30 2, Fmt.ofCode (b.ext.extractLsb' 26 4),
    Fmt.ofCode (b.ext.extractLsb' 22 4), b.ext.getLsbD 21, b.ext.getLsbD 20, b.ext.extractLsb' 0 20⟩
def Raw.toT (b : Raw) : TOps :=
  ⟨b.h, Fmt.ofCode (b.ext.extractLsb' 32 4), Fmt.ofCode (b.ext.extractLsb' 28 4), b.ext.extractLsb' 20 8,
    b.ext.extractLsb' 0 20⟩
def Raw.toE (b : Raw) : EOps :=
  ⟨b.h, b.ext.getLsbD 35, b.ext.extractLsb' 31 4, b.ext.extractLsb' 28 3, b.ext.extractLsb' 24 4,
    Fmt.ofCode (b.ext.extractLsb' 20 4), b.ext.extractLsb' 0 20⟩
def Raw.toF (b : Raw) : FOps := ⟨b.h, b.ext.extractLsb' 18 18, b.ext.extractLsb' 0 18⟩

/-- OP 0x00 of R59. -/
def decodeOp00 (b : Raw) : Nat → Option Instr
  | 0x00 => some (.nop (b.toA))
  | 0x01 => some (.trapc (b.toA))
  | 0x02 => some (.trapret (b.toA))
  | 0x03 => some (.rgnNew (b.toE))
  | 0x04 => some (.rgnSet (b.toE))
  | 0x05 => some (.rgnKill (b.toE))
  | 0x06 => some (.bind (b.toE))
  | 0x07 => if bits b.ext.toNat 25 24 = 0 then some (.preemptFiring (b.toE)) else if bits b.ext.toNat 25 24 = 1 then some (.preemptRegion (b.toE)) else some (.preemptResume (b.toE))
  | _ => none

/-- OP 0x01 of R59. -/
def decodeOp01 (b : Raw) : Nat → Option Instr
  | 0x00 => some (.add (b.toA))
  | 0x01 => some (.sub (b.toA))
  | 0x02 => some (.mul (b.toA))
  | 0x03 => some (.mulhI64 (b.toA))
  | 0x04 => some (.mulhN64 (b.toA))
  | 0x05 => some (.quoI64 (b.toA))
  | 0x06 => some (.quoN64 (b.toA))
  | 0x07 => some (.remI64 (b.toA))
  | 0x08 => some (.remN64 (b.toA))
  | _ => none

/-- OP 0x02 of R59. -/
def decodeOp02 (b : Raw) : Nat → Option Instr
  | 0x00 => some (.andBits (b.toA))
  | 0x01 => some (.orBits (b.toA))
  | 0x02 => some (.xorBits (b.toA))
  | 0x03 => some (.andn (b.toA))
  | 0x04 => some (.shl (b.toA))
  | 0x05 => some (.shr (b.toA))
  | 0x06 => some (.sra (b.toA))
  | 0x07 => some (.rot (b.toA))
  | 0x08 => some (.clz (b.toA))
  | 0x09 => some (.ctz (b.toA))
  | 0x0A => some (.popc (b.toA))
  | _ => none

/-- OP 0x03 of R59. -/
def decodeOp03 (b : Raw) : Nat → Option Instr
  | 0x00 => some (.cmp (b.toA))
  | 0x01 => some (.sel (b.toA))
  | 0x02 => some (.minI64 (b.toA))
  | 0x03 => some (.minN64 (b.toA))
  | 0x04 => some (.maxI64 (b.toA))
  | 0x05 => some (.maxN64 (b.toA))
  | _ => none

/-- OP 0x20 of R59. -/
def decodeOp20 (b : Raw) : Nat → Option Instr
  | 0x00 => some (.mov (b.toA))
  | 0x01 => some (.lea (b.toA))
  | 0x02 => some (.gaddr (b.toA))
  | 0x03 => some (.bfxI64 (b.toA))
  | 0x04 => some (.bfxN64 (b.toA))
  | 0x05 => some (.bfi (b.toA))
  | _ => none

/-- OP 0x30 of R59. -/
def decodeOp30 (b : Raw) : Nat → Option Instr
  | 0x00 => some (.br (b.toA))
  | 0x01 => some (.brl (b.toA))
  | 0x02 => some (.jmp (b.toA))
  | 0x03 => some (.jmpl (b.toA))
  | 0x04 => some (.ret (b.toA))
  | 0x05 => some (.loop (b.toA))
  | _ => none

/-- OP 0x31 of R59. -/
def decodeOp31 (b : Raw) : Nat → Option Instr
  | 0x00 => some (.pand (b.toA))
  | 0x01 => some (.por (b.toA))
  | 0x02 => some (.pxor (b.toA))
  | 0x03 => some (.pnot (b.toA))
  | _ => none

/-- OP 0x32 of R59. -/
def decodeOp32 (b : Raw) : Nat → Option Instr
  | 0x00 => some (.phead (b.toA))
  | 0x01 => some (.ptail (b.toA))
  | 0x02 => some (.pcnt (b.toA))
  | _ => none

/-- OP 0x33 of R59. -/
def decodeOp33 (b : Raw) : Nat → Option Instr
  | 0x00 => some (.endFiring (b.toA))
  | 0x01 => some (.yield (b.toA))
  | 0x02 => some (.idem (b.toA))
  | _ => none

/-- OP 0x34 of R59. -/
def decodeOp34 (b : Raw) : Nat → Option Instr
  | 0x00 => some (.xloop (b.toA))
  | _ => none

/-- OP 0x40 of R59. -/
def decodeOp40 (b : Raw) : Nat → Option Instr
  | 0x00 => some (.ld (b.toM))
  | 0x01 => some (.st (b.toM))
  | 0x02 => some (.ldm (b.toM))
  | 0x03 => some (.stm (b.toM))
  | 0x04 => some (.ldc (b.toA))
  | _ => none

/-- OP 0x41 of R59. -/
def decodeOp41 (b : Raw) : Nat → Option Instr
  | 0x00 => some (.pref (b.toM))
  | 0x01 => some (.flush (b.toM))
  | 0x02 => some (.inv (b.toM))
  | _ => none

/-- OP 0x42 of R59. -/
def decodeOp42 (b : Raw) : Nat → Option Instr
  | 0x00 => some (.iget (b.toM))
  | 0x01 => some (.iput (b.toM))
  | _ => none

/-- OP 0x43 of R59. -/
def decodeOp43 (b : Raw) : Nat → Option Instr
  | 0x00 => some (.scnt (b.toM))
  | 0x01 => some (.handover (b.toM))
  | 0x02 => some (.reclass (b.toM))
  | _ => none

/-- OP 0x50 of R59. -/
def decodeOp50 (b : Raw) : Nat → Option Instr
  | 0x00 => some (.fence (b.toM))
  | _ => none

/-- OP 0x51 of R59. -/
def decodeOp51 (b : Raw) : Nat → Option Instr
  | 0x00 => some (.amoAdd (b.toM))
  | 0x01 => some (.amoAnd (b.toM))
  | 0x02 => some (.amoOr (b.toM))
  | 0x03 => some (.amoXor (b.toM))
  | 0x04 => some (.amoMin (b.toM))
  | 0x05 => some (.amoMax (b.toM))
  | 0x06 => some (.amoUmin (b.toM))
  | 0x07 => some (.amoUmax (b.toM))
  | 0x08 => some (.amoSwap (b.toM))
  | 0x09 => some (.amoFadd (b.toM))
  | _ => none

/-- OP 0x52 of R59. -/
def decodeOp52 (b : Raw) : Nat → Option Instr
  | 0x00 => some (.amofAdd (b.toM))
  | 0x01 => some (.amofAnd (b.toM))
  | 0x02 => some (.amofOr (b.toM))
  | 0x03 => some (.amofXor (b.toM))
  | 0x04 => some (.amofMin (b.toM))
  | 0x05 => some (.amofMax (b.toM))
  | 0x06 => some (.amofUmin (b.toM))
  | 0x07 => some (.amofUmax (b.toM))
  | 0x08 => some (.amofSwap (b.toM))
  | 0x09 => some (.amofFadd (b.toM))
  | _ => none

/-- OP 0x53 of R59. -/
def decodeOp53 (b : Raw) : Nat → Option Instr
  | 0x00 => some (.amoUAdd (b.toM))
  | 0x01 => some (.amoUAnd (b.toM))
  | 0x02 => some (.amoUOr (b.toM))
  | 0x03 => some (.amoUXor (b.toM))
  | 0x04 => some (.amoUMin (b.toM))
  | 0x05 => some (.amoUMax (b.toM))
  | 0x06 => some (.amoUUmin (b.toM))
  | 0x07 => some (.amoUUmax (b.toM))
  | 0x09 => some (.amoUFadd (b.toM))
  | _ => none

/-- OP 0x54 of R59. -/
def decodeOp54 (b : Raw) : Nat → Option Instr
  | 0x00 => some (.cas (b.toM))
  | 0x01 => some (.casw (b.toM))
  | _ => none

/-- OP 0x55 of R59. -/
def decodeOp55 (b : Raw) : Nat → Option Instr
  | 0x00 => some (.bari (b.toM))
  | 0x01 => some (.bar (b.toM))
  | 0x02 => some (.barw (b.toM))
  | 0x03 => some (.dmclose (b.toE))
  | _ => none

/-- OP 0x56 of R59. -/
def decodeOp56 (b : Raw) : Nat → Option Instr
  | 0x00 => some (.tlbi (b.toE))
  | _ => none

/-- OP 0x60 of R59. -/
def decodeOp60 (b : Raw) : Nat → Option Instr
  | 0x00 => some (.fork (b.toF))
  | 0x01 => some (.join (b.toF))
  | 0x02 => some (.dqcnt (b.toE))
  | _ => none

/-- OP 0x61 of R59. -/
def decodeOp61 (b : Raw) : Nat → Option Instr
  | 0x00 => some (.futNew (b.toE))
  | 0x01 => some (.futSet (b.toE))
  | 0x02 => some (.futGet (b.toE))
  | 0x03 => some (.futFree (b.toE))
  | _ => none

/-- OP 0x62 of R59. -/
def decodeOp62 (b : Raw) : Nat → Option Instr
  | 0x00 => some (.mbxBind (b.toE))
  | 0x01 => some (.mbxFree (b.toE))
  | 0x02 => some (.mbxrd (b.toE))
  | 0x03 => some (.send (b.toE))
  | _ => none

/-- OP 0x63 of R59. -/
def decodeOp63 (b : Raw) : Nat → Option Instr
  | 0x00 => some (.evt (b.toE))
  | 0x01 => some (.wfe (b.toE))
  | 0x02 => some (.gangOn (b.toE))
  | 0x03 => some (.gangOff (b.toE))
  | _ => none

/-- OP 0x64 of R59. -/
def decodeOp64 (b : Raw) : Nat → Option Instr
  | 0x00 => some (.rfork (b.toF))
  | 0x01 => some (.launch (b.toE))
  | _ => none

/-- OP 0x70 of R59. -/
def decodeOp70 (b : Raw) : Nat → Option Instr
  | 0x00 => some (.poolset (b.toA))
  | 0x01 => some (.poolsetWait (b.toA))
  | 0x02 => some (.poolrd (b.toA))
  | 0x03 => some (.hwmSet (b.toA))
  | _ => none

/-- OP 0x71 of R59. -/
def decodeOp71 (b : Raw) : Nat → Option Instr
  | 0x00 => some (.viewSet (b.toA))
  | 0x01 => some (.viewClr (b.toA))
  | _ => none

/-- OP 0x72 of R59. -/
def decodeOp72 (b : Raw) : Nat → Option Instr
  | 0x00 => some (.tset (b.toA))
  | 0x01 => some (.tstat (b.toA))
  | 0x02 => some (.tclr (b.toA))
  | _ => none

/-- OP 0x73 of R59. -/
def decodeOp73 (b : Raw) : Nat → Option Instr
  | 0x00 => some (.qpop (b.toA))
  | 0x01 => some (.qcnt (b.toA))
  | 0x02 => some (.streamBind (b.toA))
  | 0x03 => some (.streamEnd (b.toA))
  | _ => none

/-- OP 0x74 of R59. -/
def decodeOp74 (b : Raw) : Nat → Option Instr
  | 0x00 => some (.winSet (b.toA))
  | 0x01 => some (.srd (b.toA))
  | 0x02 => match b.h.d.writeKind with
    | 1 => some (.viewRegisterWrite (b.toA))
    | 2 => some (.sclbaseWrite (b.toA))
    | 3 => some (.flagRegisterWrite (b.toA))
    | _ => some (.swr (b.toA))
  | 0x03 => some (.logrd (b.toA))
  | 0x04 => some (.logext (b.toA))
  | _ => none

/-- OP 0x80 of R59. -/
def decodeOp80 (b : Raw) : Nat → Option Instr
  | 0x00 => some (.vadd (b.toX))
  | 0x01 => some (.vsub (b.toX))
  | 0x02 => some (.vmul (b.toX))
  | 0x03 => some (.vmin (b.toX))
  | 0x04 => some (.vmax (b.toX))
  | 0x05 => some (.vabs (b.toX))
  | 0x06 => some (.vneg (b.toX))
  | _ => none

/-- OP 0x81 of R59. -/
def decodeOp81 (b : Raw) : Nat → Option Instr
  | 0x00 => some (.vfma (b.toX))
  | 0x01 => some (.vfms (b.toX))
  | 0x02 => some (.vfnma (b.toX))
  | _ => none

/-- OP 0x82 of R59. -/
def decodeOp82 (b : Raw) : Nat → Option Instr
  | 0x00 => some (.vcmp (b.toX))
  | 0x01 => some (.vsel (b.toX))
  | 0x02 => some (.vclass (b.toX))
  | _ => none

/-- OP 0x83 of R59. -/
def decodeOp83 (b : Raw) : Nat → Option Instr
  | 0x00 => some (.vcvt (b.toX))
  | _ => none

/-- OP 0x84 of R59. -/
def decodeOp84 (b : Raw) : Nat → Option Instr
  | 0x00 => some (.vrsum (b.toX))
  | 0x01 => some (.vrmax (b.toX))
  | 0x02 => some (.vrmin (b.toX))
  | _ => none

/-- OP 0xA0 of R59. -/
def decodeOpA0 (b : Raw) : Nat → Option Instr
  | 0x00 => some (.vand (b.toX))
  | 0x01 => some (.vor (b.toX))
  | 0x02 => some (.vxor (b.toX))
  | 0x03 => some (.vandn (b.toX))
  | 0x04 => some (.vshl (b.toX))
  | 0x05 => some (.vshr (b.toX))
  | 0x06 => some (.vsra (b.toX))
  | _ => none

/-- OP 0xA1 of R59. -/
def decodeOpA1 (b : Raw) : Nat → Option Instr
  | 0x00 => some (.vadds (b.toX))
  | 0x01 => some (.vsubs (b.toX))
  | 0x02 => some (.vmulh (b.toX))
  | _ => none

/-- OP 0xA2 of R59. -/
def decodeOpA2 (b : Raw) : Nat → Option Instr
  | 0x00 => some (.vperm (b.toX))
  | 0x01 => some (.vbcast (b.toX))
  | 0x02 => some (.vrot (b.toX))
  | 0x03 => some (.vzip (b.toX))
  | 0x04 => some (.vunzip (b.toX))
  | 0x05 => some (.vcomp (b.toX))
  | _ => none

/-- OP 0xA3 of R59. -/
def decodeOpA3 (b : Raw) : Nat → Option Instr
  | 0x00 => some (.vext (b.toX))
  | 0x01 => some (.vins (b.toX))
  | 0x02 => some (.vmov (b.toX))
  | 0x03 => some (.vsign (b.toX))
  | 0x04 => some (.vrand (b.toX))
  | _ => none

/-- OP 0xB0 of R59. -/
def decodeOpB0 (b : Raw) : Nat → Option Instr
  | 0x00 => some (.div (b.toX))
  | 0x01 => some (.sqrt (b.toX))
  | _ => none

/-- OP 0xB1 of R59. -/
def decodeOpB1 (b : Raw) : Nat → Option Instr
  | 0x00 => some (.rcp (b.toX))
  | 0x01 => some (.rsq (b.toX))
  | _ => none

/-- OP 0xB2 of R59. -/
def decodeOpB2 (b : Raw) : Nat → Option Instr
  | 0x00 => some (.exp (b.toX))
  | 0x01 => some (.expB2 (b.toX))
  | 0x02 => some (.log (b.toX))
  | 0x03 => some (.logB2 (b.toX))
  | _ => none

/-- OP 0xB3 of R59. -/
def decodeOpB3 (b : Raw) : Nat → Option Instr
  | 0x00 => some (.sin (b.toX))
  | 0x01 => some (.cos (b.toX))
  | _ => none

/-- OP 0xB4 of R59. -/
def decodeOpB4 (b : Raw) : Nat → Option Instr
  | 0x00 => some (.tanh (b.toX))
  | 0x01 => some (.tanhSig (b.toX))
  | 0x02 => some (.erf (b.toX))
  | _ => none

/-- OP 0xC0 of R59. -/
def decodeOpC0 (b : Raw) : Nat → Option Instr
  | 0x00 => some (.mma (b.toT))
  | 0x01 => some (.mmaS (b.toT))
  | 0x02 => some (.dmma (b.toT))
  | _ => none

/-- OP 0xC1 of R59. -/
def decodeOpC1 (b : Raw) : Nat → Option Instr
  | 0x00 => some (.mscale (b.toT))
  | 0x01 => some (.mzero (b.toT))
  | 0x02 => some (.mflags (b.toT))
  | _ => none

/-- OP 0xC2 of R59. -/
def decodeOpC2 (b : Raw) : Nat → Option Instr
  | 0x00 => some (.mdrain (b.toT))
  | _ => none

/-- OP 0xC3 of R59. -/
def decodeOpC3 (b : Raw) : Nat → Option Instr
  | 0x00 => some (.mload (b.toT))
  | 0x01 => some (.mstore (b.toT))
  | 0x02 => some (.mxpose (b.toT))
  | 0x03 => some (.mcvt (b.toT))
  | _ => none

/-- OP 0xD0 of R59. -/
def decodeOpD0 (b : Raw) : Nat → Option Instr
  | 0x00 => some (.gatt (b.toX))
  | 0x01 => some (.gdet (b.toX))
  | _ => none

/-- OP 0xD1 of R59. -/
def decodeOpD1 (b : Raw) : Nat → Option Instr
  | 0x00 => some (.gbel (b.toX))
  | 0x01 => some (.gcomb (b.toX))
  | 0x02 => some (.gmarg (b.toX))
  | 0x03 => some (.gdamp (b.toX))
  | _ => none

/-- OP 0xD2 of R59. -/
def decodeOpD2 (b : Raw) : Nat → Option Instr
  | 0x00 => some (.gsend (b.toX))
  | 0x01 => some (.gres (b.toX))
  | 0x02 => some (.gmean (b.toX))
  | _ => none

/-- OP 0xD3 of R59. -/
def decodeOpD3 (b : Raw) : Nat → Option Instr
  | 0x00 => some (.gcut (b.toX))
  | 0x01 => some (.gcutrd (b.toX))
  | 0x02 => some (.cvrd (b.toX))
  | _ => none

/-- OP 0xE0 of R59. -/
def decodeOpE0 (b : Raw) : Nat → Option Instr
  | 0x00 => some (.cdef (b.toE))
  | 0x01 => some (.cswap (b.toE))
  | 0x02 => some (.cstat (b.toE))
  | _ => none

/-- OP 0xE1 of R59. -/
def decodeOpE1 (b : Raw) : Nat → Option Instr
  | 0x00 => some (.cins (b.toE))
  | 0x01 => some (.cdel (b.toE))
  | _ => none

/-- OP 0xE2 of R59. -/
def decodeOpE2 (b : Raw) : Nat → Option Instr
  | 0x00 => some (.cprobe (b.toE))
  | 0x01 => some (.clook (b.toE))
  | _ => none

/-- OP 0xE3 of R59. -/
def decodeOpE3 (b : Raw) : Nat → Option Instr
  | 0x00 => some (.crehash (b.toE))
  | 0x01 => some (.cfence (b.toE))
  | _ => none

/-- OP 0xE8 of R59. -/
def decodeOpE8 (b : Raw) : Nat → Option Instr
  | 0x00 => some (.hcopy (b.toE))
  | _ => none

/-- OP 0xE9 of R59. -/
def decodeOpE9 (b : Raw) : Nat → Option Instr
  | 0x00 => some (.hgath (b.toE))
  | 0x01 => some (.hscat (b.toE))
  | _ => none

/-- OP 0xEA of R59. -/
def decodeOpEA (b : Raw) : Nat → Option Instr
  | 0x00 => some (.hpack (b.toE))
  | 0x01 => some (.hunpk (b.toE))
  | _ => none

/-- OP 0xEB of R59. -/
def decodeOpEB (b : Raw) : Nat → Option Instr
  | 0x00 => some (.hwait (b.toE))
  | 0x01 => some (.hcancel (b.toE))
  | _ => none

/-- The instruction of an (OP, FN) pair, before its fields are checked (R59). -/
def decodePair (b : Raw) (op fn : Nat) : Option Instr :=
  match op with
  | 0x00 => decodeOp00 b fn
  | 0x01 => decodeOp01 b fn
  | 0x02 => decodeOp02 b fn
  | 0x03 => decodeOp03 b fn
  | 0x20 => decodeOp20 b fn
  | 0x30 => decodeOp30 b fn
  | 0x31 => decodeOp31 b fn
  | 0x32 => decodeOp32 b fn
  | 0x33 => decodeOp33 b fn
  | 0x34 => decodeOp34 b fn
  | 0x40 => decodeOp40 b fn
  | 0x41 => decodeOp41 b fn
  | 0x42 => decodeOp42 b fn
  | 0x43 => decodeOp43 b fn
  | 0x50 => decodeOp50 b fn
  | 0x51 => decodeOp51 b fn
  | 0x52 => decodeOp52 b fn
  | 0x53 => decodeOp53 b fn
  | 0x54 => decodeOp54 b fn
  | 0x55 => decodeOp55 b fn
  | 0x56 => decodeOp56 b fn
  | 0x60 => decodeOp60 b fn
  | 0x61 => decodeOp61 b fn
  | 0x62 => decodeOp62 b fn
  | 0x63 => decodeOp63 b fn
  | 0x64 => decodeOp64 b fn
  | 0x70 => decodeOp70 b fn
  | 0x71 => decodeOp71 b fn
  | 0x72 => decodeOp72 b fn
  | 0x73 => decodeOp73 b fn
  | 0x74 => decodeOp74 b fn
  | 0x80 => decodeOp80 b fn
  | 0x81 => decodeOp81 b fn
  | 0x82 => decodeOp82 b fn
  | 0x83 => decodeOp83 b fn
  | 0x84 => decodeOp84 b fn
  | 0xA0 => decodeOpA0 b fn
  | 0xA1 => decodeOpA1 b fn
  | 0xA2 => decodeOpA2 b fn
  | 0xA3 => decodeOpA3 b fn
  | 0xB0 => decodeOpB0 b fn
  | 0xB1 => decodeOpB1 b fn
  | 0xB2 => decodeOpB2 b fn
  | 0xB3 => decodeOpB3 b fn
  | 0xB4 => decodeOpB4 b fn
  | 0xC0 => decodeOpC0 b fn
  | 0xC1 => decodeOpC1 b fn
  | 0xC2 => decodeOpC2 b fn
  | 0xC3 => decodeOpC3 b fn
  | 0xD0 => decodeOpD0 b fn
  | 0xD1 => decodeOpD1 b fn
  | 0xD2 => decodeOpD2 b fn
  | 0xD3 => decodeOpD3 b fn
  | 0xE0 => decodeOpE0 b fn
  | 0xE1 => decodeOpE1 b fn
  | 0xE2 => decodeOpE2 b fn
  | 0xE3 => decodeOpE3 b fn
  | 0xE8 => decodeOpE8 b fn
  | 0xE9 => decodeOpE9 b fn
  | 0xEA => decodeOpEA b fn
  | 0xEB => decodeOpEB b fn
  | _ => none

/-- Why a word is no instruction (R60). -/
inductive DecodeError
  /-- OP 0xFF. -/
  | permanentlyIllegal
  /-- A register field holds a reserved code. -/
  | reservedRegister
  /-- (OP, FN) is not in the opcode map. -/
  | unassigned
  /-- A field breaks the instruction's own limits. -/
  | badField
  /-- Fewer than twelve bytes. -/
  | short
  deriving DecidableEq, Repr

/-- Class M's reserved bit (R54). -/
def Instr.usesClassM (i : Instr) : Bool :=
  match i.parts with
  | some (_, _, .m _) => true
  | _ => false

/-- Decode a 96-bit instruction word (R47, R60 rows 3, 4, 6 and 7). -/
def decode (w : BitVec 96) : Except DecodeError Instr :=
  if w.extractLsb' 88 8 = 0xFF then .error .permanentlyIllegal
  else
    match Reg.ofCode (w.extractLsb' 66 10), Reg.ofCode (w.extractLsb' 56 10), Reg.ofCode (w.extractLsb' 46 10),
        Reg.ofCode (w.extractLsb' 36 10) with
    | some d, some s1, some s2, some s3 =>
      let b : Raw := ⟨⟨w.extractLsb' 79 3, w.extractLsb' 76 3, d, s1, s2, s3⟩, w.extractLsb' 0 36⟩
      match decodePair b (w.extractLsb' 88 8).toNat (w.extractLsb' 82 6).toNat with
      | none => .error .unassigned
      | some i =>
        if i.legal && !(i.usesClassM && w.getLsbD 24) then .ok i else .error .badField
    | _, _, _, _ => .error .reservedRegister

/-- The twelve bytes of a slot as one word: byte 0 holds bits [7:0] (R4, R35). -/
def wordOfBytes (l : List Byte) : BitVec 96 := BitVec.ofNat 96 (natOfBytes (l.take 12))

/-- Decode the bytes of a slot. -/
def decodeBytes (l : List Byte) : Except DecodeError Instr :=
  if l.length < 12 then .error .short else decode (wordOfBytes l)

/-- The EXT field of an operand record (R53 to R58). -/
def Body.ext : Body → BitVec 36
  | .a o => o.ext
  | .m o => (((o.fmt.code ++ BitVec.ofBool o.v) ++ (o.ord ++ o.scope)) ++ ((BitVec.ofBool o.zf ++ 0#1) ++ o.off) : BitVec 36)
  | .x o => ((((o.g1 ++ o.g2) ++ (o.g3 ++ o.fmt1.code)) ++ o.fmt2.code) ++
      ((BitVec.ofBool o.tz ++ BitVec.ofBool o.tv) ++ o.w) : BitVec 36)
  | .t o => ((o.fmt1.code ++ o.fmt2.code) ++ (o.opt ++ o.w) : BitVec 36)
  | .e o => (((BitVec.ofBool o.f ++ o.ch) ++ (o.scope ++ o.opt)) ++ (o.fmt.code ++ o.w) : BitVec 36)
  | .f o => (o.t1 ++ o.t2 : BitVec 36)

def Body.hd : Body → Hd
  | .a o => o.h | .m o => o.h | .x o => o.h | .t o => o.h | .e o => o.h | .f o => o.h

/-- The fields an instruction's word has in common with every other's (R47). -/
def Instr.hd (i : Instr) : Option Hd := i.parts.map (fun p => p.2.2.hd)

/-- The word of an instruction (R47); zero for the machine's own acts, which have none. -/
def encode (i : Instr) : BitVec 96 :=
  match i.parts with
  | none => 0
  | some (op, fn, b) =>
    let h := b.hd
    ((((BitVec.ofNat 8 op ++ BitVec.ofNat 6 fn) ++ (h.rm ++ h.pg)) ++ ((h.d.code ++ h.s1.code) ++ (h.s2.code ++ h.s3.code)))
      ++ b.ext : BitVec 96)

/-- The twelve bytes of an instruction, lowest address first (R4, R35). -/
def encodeBytes (i : Instr) : List Byte := bytesOf 12 (encode i).toNat

/-- What the decoder reads from an instruction whose bits are w, bit 0 the least significant. An SK-A9 instruction is
one 96-bit word, stored as twelve little-endian bytes. -/
def decodeTableWord (nbits w : Nat) : Option Instr :=
  match decodeBytes (bytesOf 12 (w % 2 ^ nbits)) with
  | .ok i => some i
  | .error _ => none

end Sys2Proof
end

