-- ==== Sys2Proof/Machine/State.lean ====
section
/-! DEFINITION. The machine's state as plain data, and the state after reset. Every field is state the spec names; a
field marked MODEL'S OWN belongs to the model (log entry 1). -/

namespace Sys2Proof.Machine

/-- A table keyed by a number, keys rising; an absent key stands for the default record. -/
abbrev Table (α : Type) := List (Nat × α)

/-- Privilege modes (R67, R260). -/
inductive Mode
  | u | s
  deriving DecidableEq, Repr

/-- Coherence classes (R272). -/
inductive Cls
  | hc | sc | cp | ow
  deriving DecidableEq, Repr

/-- The operations of atomics (R59). -/
inductive AmoOp
  | add | and | or | xor | min | max | umin | umax | swap | fadd
  deriving DecidableEq, Repr

/-- Where a posted write is counted (R178). -/
inductive Count
  | clu | pkg | sys
  deriving DecidableEq, Repr

/-- A data error that waits for its consumer (R96, R97, R174): its cause, its TVAL, and the pc of the memory instruction that
met it, which TVAL2 reports (R173); none where the transfer unit made the access. -/
structure DataError where
  cause : Nat
  tval : Word
  pc : Option Word
  deriving DecidableEq, Repr

/-- Whether a g register holds its value, waits for one, or holds a load's data error (R162, R174, R191). -/
inductive Pend
  | ready
  | load
  | xhalf
  | error (e : DataError)
  deriving DecidableEq, Repr

/-- What a firing runs for (R61, R66, R305, R358, R254). -/
inductive FiringKind
  | actor
  | handler (mailbox : Nat)
  | forkTask
  | share (cell : Nat) (issuer : Nat)
  | afterTask
  /-- The core and slot of its factor: the task may be stolen. -/
  | relin (factorCore factorSlot : Nat)
  deriving DecidableEq, Repr

/-- One firing: what its context needs of its actor or record besides its registers. -/
structure Firing where
  kind : FiringKind
  /-- The actor number within the region, where the firing has one (R143, R262). -/
  act : Option Nat
  /-- The Bind Table slot of its actor. -/
  slot : Nat
  /-- Global address of the region's RCB. -/
  rcb : Nat
  entry : Word
  stateBlock : Word
  cls : Nat
  prio : Nat
  /-- TRAPPED (R66): a handler runs. -/
  trapped : Bool
  /-- The message entry that launched it (R310). -/
  msg : List Word
  deriving DecidableEq, Repr

/-- A q0 or read-stream entry (R91, R96, R174): how many of its elements have not landed, its bytes, and a data error. -/
structure QEntry where
  id : Nat
  need : Nat
  v : V256
  err : Option DataError
  deriving DecidableEq, Repr

/-- A pattern record as bound (R94). -/
structure Pattern where
  base : Word
  c0 : Nat
  c1 : Nat
  c2 : Nat
  s0 : Word
  s1 : Word
  s2 : Word
  write : Bool
  deriving DecidableEq, Repr

/-- One stream head q2 to q5 (R95 to R99). -/
structure Stream where
  pat : Option Pattern
  /-- Entries popped (read) or pushed (write). -/
  pos : Nat
  /-- Entries fetched (read) or stored (write). -/
  moved : Nat
  /-- Fetched entries not yet popped. -/
  rd : List QEntry
  /-- Pushed entries not yet stored. -/
  wr : List V256
  /-- A fault met by a stored entry (R97). -/
  err : Option DataError
  /-- The unacknowledged stores of this stream (R99). -/
  unacked : List Nat
  deriving DecidableEq, Repr

/-- One sequencer entry (R87, R191, R213, R214). -/
structure XEntry where
  i : Instr
  pc : Word
  /-- Whether the predicate held at dispatch (R78). -/
  live : Bool
  /-- The scalar sources read at dispatch. -/
  s1 : Word
  s2 : Word
  s3 : Word
  /-- Which idempotent region dispatched it (R263). -/
  region : Nat
  /-- Scale entries read at dispatch (R214). -/
  scales : List Nat
  /-- Posted-table entries taken at dispatch (R223, R224). -/
  taken : List Nat
  /-- The tiles whose reader count includes the entry (R213). -/
  held : List Nat
  /-- A row of the entry was refused (R223). -/
  refused : Bool
  /-- MODEL'S OWN: the order of dispatch in the core. -/
  seq : Nat
  /-- TRAPRET with SKIP: it pops its queue sources and writes nothing (R263). -/
  skip : Bool := false
  /-- It waited for a tile whose banks a pool move has taken (R115). -/
  lost : Bool := false
  deriving DecidableEq, Repr

/-- An XLOOP in the sequencer (R77, R78). -/
structure XLoop where
  /-- Which idempotent region dispatched it (R263). -/
  region : Nat
  n : Nat
  count : Nat
  sd : Int
  s1 : Int
  s2 : Int
  s3 : Int
  body : List XEntry
  pass : Nat
  idx : Nat
  deriving DecidableEq, Repr

inductive XItem
  | entry (e : XEntry)
  | loop (l : XLoop)
  deriving DecidableEq, Repr

/-- A write of the posted-store table (R178). -/
structure Posted where
  id : Nat
  ga : Nat
  size : Nat
  count : Count
  deriving DecidableEq, Repr

/-- A fetched line in a context's decoder: its address and its 512 bits (R35, R45). -/
structure Line where
  addr : Word
  raw : BitVec 512
  deriving DecidableEq, Repr

/-- A record that raising its fault clears: the store-error record (R179), the catalogue's (R335), the data error of a g
register (R174), or the fault of a write stream (R97). -/
inductive Clear
  | storeErr
  | catErr
  | register (k : Nat)
  | stream (q : Nat)
  deriving DecidableEq, Repr

/-- A trap whose entry waits for the X-half (R260). -/
structure PendingTrap where
  cause : Nat
  tval : Word
  tval2 : Word
  tpc : Word
  tnext : Word
  origin : Nat
  sw : Bool
  /-- The pc of the slot or entry that raised it (R261). -/
  source : Word
  /-- The records its entry clears: a trap that another one replaces clears none (R259). -/
  clears : List Clear
  /-- The trap registers are written and the default action has begun (R262). -/
  acting : Bool
  /-- The default action has sent its record and waits for the posted writes (R262). -/
  leaving : Bool
  deriving DecidableEq, Repr

/-- Why a context issues nothing (R85 and the waits that are not stall points); `tileMove` waits for the pool move that takes a
tile's banks (R115). -/
inductive StallWhy
  | queue | sequencer | wfe | future (handle : Word) | tile | pool | tileMove (tile : Nat) | barrier | ending
  | register | fence | memory | answer
  /-- A page in transition or a held line holds the access back, and a pre-emption request with it (R287, R376). -/
  | transition
  deriving DecidableEq, Repr

structure Stall where
  why : StallWhy
  /-- A stall point of R85. -/
  point : Bool
  since : Nat
  deriving DecidableEq, Repr

/-- An instruction that has begun and whose completion an answer brings: the answer writes gD and moves the pc. -/
inductive Awaited
  | poolMove (d : Reg)
  | reclass (page : Nat)
  | launch (id : Nat) (d : Reg)
  | dmclose (d : Reg)
  | preempt (d : Reg) (core fc : Nat)
  | regionSave (d : Reg) (rcb : Nat)
  | regionKill (d : Reg) (rcb : Nat)
  deriving DecidableEq, Repr

/-- A cached translation (R362, R363). -/
structure Tlb where
  root : Nat
  va : Nat
  level : Nat
  ga : Nat
  u : Bool
  dm : Bool
  cls : Cls
  x : Bool
  w : Bool
  r : Bool
  owner : Nat
  deriving DecidableEq, Repr

/-- Where an access goes: its effective and global addresses, and its page when it was translated. -/
structure Phys where
  ea : Nat
  ga : Nat
  page : Option Tlb
  deriving DecidableEq, Repr

/-- Where a returned value goes (R174, R186, R224, R296). -/
inductive Dest
  | none
  | g (k : Nat) (fmt : Fmt)
  | pair (k : Nat)
  | q0 (id : Nat) (lo size : Nat)
  | stream (q : Nat) (id : Nat)
  deriving DecidableEq, Repr

/-- One access of an instruction that makes several: a load or store of n bytes, or a CCH line to write back, and with `inv`
to drop (R182, R185, R186), or the write of gD after them (R237, R253). The store of an engine has a number, under which its
line is claimed (R288). -/
inductive Piece
  | load (p : Phys) (n : Nat) (engine : Bool) (d : Dest)
  | store (p : Phys) (n x : Nat) (claim : Option Nat)
  | flush (line page : Nat) (inv : Bool)
  | result (d : Reg) (v : Word)
  deriving DecidableEq, Repr

/-- The current idempotent region (R80, R81). -/
structure Idem where
  entry : Word
  gmask : BitVec 32
  preds : Vector Bool 8
  committed : Bool
  serial : Nat
  /-- Before the first IDEM the live-in state is the whole start state (R81). -/
  start : Bool
  startG : Vector Word 32
  startWin : Vector Word 7
  deriving DecidableEq, Repr

/-- A firing context (R67, R68). -/
structure Ctx where
  firing : Option Firing
  pc : Word
  mode : Mode
  g : Vector Word 32
  p : Vector Bool 8
  pend : Vector Pend 32
  win : Vector Word 7
  /-- Words the constant cache holds for this context (R122). -/
  constCache : List (Nat × Word)
  fflags : BitVec 5
  vsat : Bool
  rngstr : Word
  rngctr : Word
  evlatch : BitVec 32
  tcause : BitVec 7
  tpc : Word
  tval : Word
  tval2 : Word
  tregn : Bool
  tskip : Bool
  tsw : Bool
  torigin : BitVec 2
  tnext : Word
  tscratch : Word
  q0 : List QEntry
  q1 : List V256
  streams : Vector Stream 4
  xseq : List XItem
  /-- The head entry of the sequencer is in the matrix array or in another unit that completes it later (R217). -/
  xbusy : Bool
  /-- The head entry faulted and is frozen with its successors (R258). -/
  xfrozen : Bool
  /-- TRAPRET with SKIP: the X slot at the pc faulted at its dispatch and is dispatched as skipped (R263). -/
  xskip : Bool
  posted : List Posted
  countClu : Nat
  countPkg : Nat
  countSys : Nat
  /-- The store-error record (R179). -/
  storeErr : Option (Word × Nat)
  /-- Catalogue updates not yet applied, and the catalogue error record (R335). -/
  updates : Nat
  catErr : Option (Nat × Nat)
  idem : Idem
  /-- HCTS (R281). -/
  cts : Nat
  line : Option Line
  /-- The refetch of R45 has been made for the line being fetched. -/
  refetch : Bool
  /-- The pc was reached by a taken transfer at this address (R44, R76). -/
  xfer : Option Word
  stall : Option Stall
  awaited : Option Awaited
  trap : Option PendingTrap
  /-- A pre-emption asked for and not yet made (R83, R84, R360); true for the frame store, false for a region's save area. -/
  preempt : Option Bool
  /-- A firing whose region is committed has met a trap while a pre-emption was asked for: it applies when the handler has
  returned (R83, R84). -/
  preemptDue : Bool
  /-- The pc of a JOIN that was not last: it has decremented its counter and ends its firing (R304). -/
  joined : Option Word
  /-- The accesses an LDM, STM, IGET, IPUT, FLUSH or INV that has begun has still to make, in order (R182, R185, R186,
  R277). -/
  moving : List Piece
  /-- Status of the last completed Heliostat command on each channel, with its HC timestamp (R322). -/
  channels : Table (Word × Nat)
  deriving DecidableEq, Repr

/-- A port ring in the MSG role (R63). -/
structure Ring where
  base : Nat
  size : Nat
  depth : Nat
  rate : Nat
  head : Nat
  count : Nat
  tact : Nat
  tport : Nat
  deriving DecidableEq, Repr

/-- An actor descriptor (R61, R62). -/
structure Desc where
  entry : Word
  state : Word
  nout : Nat
  nin : Nat
  prio : Nat
  cls : Nat
  rcb : Nat
  ins : List Nat
  outs : List Nat
  deriving DecidableEq, Repr

/-- The life of a bound actor (R66); STALLED is RUNNING with a stall, DONE the end of an actor of class task. -/
inductive Life
  | idle | ready | running | saved | trapped | held | done
  deriving DecidableEq, Repr

/-- A Bind Table record with the actor it binds (R353). -/
structure Bound where
  act : Nat
  desc : Nat
  launch : Nat
  rcb : Nat
  abase : Nat
  /-- The pool split of its record (R353). -/
  split : Nat
  d : Desc
  ins : List Ring
  outs : List Ring
  life : Life
  since : Nat
  /-- PRES, an FP32 pattern (R244). -/
  pres : Nat
  /-- A relinearisation task of the factor is queued or running (R254). -/
  relin : Bool
  /-- The task is due and waits for room in the deque. -/
  relinDue : Bool
  /-- The mailbox a handler serves (R311). -/
  mailbox : Option Nat
  deriving DecidableEq, Repr

/-- A deque record (R301, R358). -/
structure Task where
  kind : FiringKind
  prio : Nat
  pc : Word
  preds : BitVec 7
  rcb : Nat
  g : Vector Word 32
  /-- The core that the recruitment tree claimed for it (R359). -/
  claim : Option Nat := none
  /-- An uncorrectable error stands in the record (R386). -/
  bad : Bool := false
  deriving DecidableEq, Repr

/-- An entry held for a full mailbox, with the transaction that carried it (R312). -/
structure HeldMsg where
  txn : Option Nat
  entry : List Word
  deriving DecidableEq, Repr

/-- A mailbox (R309, R311). -/
structure Mailbox where
  slot : Nat
  depth : Nat
  msgs : List (List Word)
  held : List HeldMsg
  /-- The head entry has a firing. -/
  taken : Bool
  /-- An uncorrectable error stands in the head entry (R386). -/
  bad : Bool := false
  deriving DecidableEq, Repr

/-- A saved firing (R83, R84). -/
structure Frame where
  ctx : Ctx
  since : Nat
  gang : Bool
  /-- An uncorrectable error stands in the frame (R386). -/
  bad : Bool := false
  deriving DecidableEq, Repr

inductive TileRole
  | mat | scr | csm
  deriving DecidableEq, Repr

inductive TileState
  | empty | filling | ready | draining
  deriving DecidableEq, Repr

/-- A valid tile-table entry (R117, R118, R224, R318). -/
structure Tile where
  role : TileRole
  fmt : Fmt
  wide : Bool
  base : Nat
  state : TileState
  readers : Nat
  inVwt : Bool
  err : Option (Nat × Word)
  /-- The ticket: the last command that named the tile, its status once completed, and its HC timestamp. -/
  ticket : Option Nat
  status : Word
  statusTs : Nat
  deriving DecidableEq, Repr

/-- A view register (R102). -/
structure View where
  base : Nat
  count : Nat
  shape : Nat
  deriving DecidableEq, Repr

/-- Pool roles (R107). -/
inductive Role
  | reg | mat | scr | msg | cch
  deriving DecidableEq, Repr

/-- A pool move in MOVING (R114, R116). -/
structure Move where
  gain : Role
  give : Role
  n : Nat
  fc : Nat
  deriving DecidableEq, Repr

/-- A line of the CCH role (R272, R275). -/
structure CchLine where
  addr : Nat
  data : BitVec 512
  dirty : BitVec 4
  cls : Cls
  wts : Nat
  rts : Nat
  excl : Bool
  deriving DecidableEq, Repr

/-- A line held in the update-only state with its deltas by offset (R290). -/
structure ULine where
  addr : Nat
  op : AmoOp
  fmt : Fmt
  deltas : Table Nat
  deriving DecidableEq, Repr

/-- The bytes of one row within one line, with the row's address and where they go in the row (R224). -/
structure Part where
  row : Nat
  off : Nat
  ea : Nat
  ga : Nat
  size : Nat
  cls : Cls
  page : Nat
  deriving DecidableEq, Repr

/-- An MLOAD whose rows are landing (R224). -/
structure Fill where
  /-- The place of its MLOAD in the order of issue. -/
  id : Nat
  tile : Nat
  fc : Nat
  rcb : Nat
  todo : List Part
  /-- CTS at issue (R288). -/
  cts : Nat
  deriving DecidableEq, Repr

/-- An event counter (R387). -/
structure Counter where
  en : Bool
  src : BitVec 16
  count : Word
  /-- The cycle from which a counter of cycles counts. -/
  since : Nat
  deriving DecidableEq, Repr

/-- What a launch gives its firings (R8, R67, R121, R352): LCOUNT, the arguments and the window bases. -/
structure LaunchPage where
  lcount : Nat
  args : List Word
  wins : Vector Word 7
  deriving DecidableEq, Repr

/-- A core (R87 to R125, R213 to R215, R244 to R246, R281, R301, R309, R353 to R360, R373, R387). -/
structure Core where
  ctx : Vector Ctx 4
  aptr : BitVec 2
  xptr : BitVec 2
  banks : Vector Nat 5
  move : Option Move
  scrhwm : Nat
  vwv : View
  vwt : View
  vwz : View
  depth : BitVec 2
  idleLimit : BitVec 10
  cur : BitVec 2
  quietSince : Nat
  zflags : Word
  sclbase : BitVec 6
  cveps : BitVec 32
  cvmax : BitVec 32
  cvcnt : BitVec 32
  epoch : Nat
  infl : Nat
  /-- The cycle of the last age reset; none while AGE still saturates from reset. -/
  ageFrom : Option Nat
  qwin : BitVec 32
  tvecEn : Bool
  tvecPc : Word
  repen : Bool
  ladv : BitVec 16
  lease : BitVec 16
  agelim : BitVec 32
  steal : Bool
  maxsh : BitVec 16
  grain : BitVec 32
  round : BitVec 32
  cnt : BitVec 32
  ev : Vector Counter 8
  tiles : Table Tile
  deque : List Task
  binds : Table Bound
  /-- The region whose records the core holds: RCB address (R353). -/
  region : Option Nat
  lcore : Nat
  /-- RGN of the identity page, and the page of the first bind's launch, which a firing of no actor reads (R8, R353). -/
  rgn : Nat
  page : LaunchPage
  mailboxes : Table Mailbox
  frames : List Frame
  gang : Option Nat
  lines : List CchLine
  ulines : List ULine
  utlb : List Tlb
  fills : List Fill
  lastSlot : Nat
  stealPos : Nat
  /-- Claimed by the recruitment tree until its share starts (R359). -/
  claimed : Bool
  /-- The cycle of the last CTS step (R274). -/
  ctsAt : Nat
  deriving DecidableEq, Repr

/-- A quad: its TLB, its slice's lines and its counters (R269, R280, R363, R387). Of a home line the slice holds, the data is
that of the home. -/
structure Quad where
  tlb : List Tlb
  replicas : List CchLine
  /-- A home line with the sectors it holds (R269). -/
  homeLines : List (Nat × BitVec 4)
  ev : Vector Counter 16
  deriving DecidableEq, Repr

inductive FutState
  | free | pending | resolved
  deriving DecidableEq, Repr

/-- A future-table entry (R306); each waiter is (core, context, destination). -/
structure Future where
  gen : Nat
  st : FutState
  val : Word
  rcb : Nat
  waiters : List (Nat × Nat × Reg)
  deriving DecidableEq, Repr

/-- A catalogue geometry (R326, R338). -/
structure Geometry where
  b : Nat
  cbase : Nat
  seeds : List Word
  deriving DecidableEq, Repr

/-- A defined catalogue (R325, R326, R338, R341). -/
structure Catalogue where
  rcb : Nat
  lsh : Bool
  l : Nat
  k : Nat
  family : Nat
  policy : Nat
  geo : Geometry
  /-- The new geometry of a migration, and CUR. -/
  migrating : Option Geometry
  /-- The record that began the migration (R380). -/
  record : List Nat
  cur : Nat
  entries : Nat
  inserts : Nat
  drops : Nat
  evicts : Nat
  truncs : Nat
  errs : Nat
  deriving DecidableEq, Repr

/-- A hash-family register (R327). -/
structure Family where
  valid : Bool
  exact : Bool
  k : Nat
  lm1 : Nat
  b : Nat
  seeds : Vector Word 8
  deriving DecidableEq, Repr

/-- How far the Catalogue Unit has come with a command: a table of an update or a probe, and a primary of a migration, is one
act (R334, R336, R338). -/
structure CatWork where
  done : Nat
  /-- What an update's answer says of the tables done, and whether it has appended an entry (R334, R341). -/
  mask : Nat
  grew : Bool
  /-- The candidates of the tables a probe has read (R336). -/
  rows : List Nat
  deriving DecidableEq, Repr

def CatWork.reset : CatWork := ⟨0, 0, false, []⟩

/-- A command the Catalogue Unit has accepted (R332, R335, R340, R342). -/
structure CatCmd where
  id : Nat
  core : Nat
  fc : Nat
  rcb : Nat
  mode : Mode
  i : Instr
  /-- The number under which its catalogue now stands (R340). -/
  cat : Nat
  a : Word
  b : Word
  /-- The words of a record or descriptor, read at issue. -/
  words : List Nat
  /-- The firing that waits for its answer still holds its context. -/
  live : Bool
  work : CatWork
  deriving DecidableEq, Repr

/-- `made`: its follow-on product has been made, and only its record is missing (R12, R323). -/
inductive CmdStage
  | queued | running | moved | made
  deriving DecidableEq, Repr

/-- A Heliostat command (R315 to R324). -/
structure Cmd where
  id : Nat
  core : Nat
  fc : Nat
  i : Instr
  rcb : Nat
  mode : Mode
  a : Word
  b : Word
  c : Word
  dst : Word
  /-- The follow-on product still to be made (R227): whether its checks have been made, the scale entries they read, and the
  tiles whose reader count includes it. -/
  follow : Option Instr
  checked : Bool
  scales : List Nat
  held : List Nat
  stage : CmdStage
  /-- The next unit to move, and the addresses its descriptor gave. -/
  pos : Nat
  rows : List Word
  cts : Nat
  status : Word
  ts : Nat
  deriving DecidableEq, Repr

/-- A cluster (R306, R315, R325, R327). -/
structure Cluster where
  futures : Table Future
  cats : Table Catalogue
  fams : Vector Family 16
  catsp : Nat
  catq : List CatCmd
  chans : Vector (List Cmd) 16
  deriving DecidableEq, Repr

/-- A DM atomic stored at a merge unit (R374, R375). -/
structure DmEntry where
  issuer : Nat
  seq : Nat
  ga : Nat
  op : AmoOp
  fmt : Fmt
  rm : BitVec 3
  val : Word
  spilled : Bool
  /-- An uncorrectable error stands in the entry (R386). -/
  bad : Bool := false
  deriving DecidableEq, Repr

/-- A whole-region save of one logical core (R361). -/
structure SavedCore where
  core : Core
  /-- MODEL'S OWN: the number of the first free value of its words in the block (log entry 16). -/
  words : Nat
  deriving DecidableEq, Repr

/-- What the hardware keeps of a live region besides its RCB in memory (R250, R349, R361, R377 to R382). -/
structure Region where
  rnum : Nat
  depth : Nat
  ordinal : Nat
  /-- The children the region has made so far (R380). -/
  made : Nat
  /-- The six manifest components, the challenge, and the extension count (R380 to R382). -/
  comps : Vector (List Byte) 6
  chal : List Byte
  extensions : Nat
  signedOver : Option (List Byte)
  /-- Where the active cut's message goes: mailbox name (R250). -/
  cutTo : Word
  /-- The EPOCHs the last complete quiet pass saw (R247). -/
  quietPass : Option (List (Nat × Nat))
  entries : List DmEntry
  arrived : List Nat
  refused : Bool
  round : Nat
  saved : List SavedCore
  /-- RGN.KILL has named it, and its subtree ends region by region (R351). -/
  doomed : Bool
  /-- The highest timestamp a firing of each actor has ended with: its next firing observes every store of theirs (R65). -/
  actorCts : Table Nat
  /-- What each launch gives its firings, by its ABASE (R8, R67, R352). -/
  pages : Table LaunchPage
  /-- The task actors that are DONE, which no later bind fires again (R66). -/
  doneActs : List Nat
  /-- NEXTACT has reached 2^24, which its field cannot hold (R352). -/
  spent : Bool
  deriving DecidableEq, Repr

/-- A claim of an engine on a line, or the agent of a request at a home: the number of the command or access, and the
context that issued it (R288). -/
structure Claim where
  id : Nat
  core : Nat
  fc : Nat
  deriving DecidableEq, Repr

/-- The home's record of a line (R274, R275, R288, R290). -/
structure Home where
  wts : Nat
  rts : Nat
  owner : Option Nat
  us : List Nat
  /-- The engines' claims on the line, oldest first: the first is held (R288). -/
  claims : List Claim
  deriving DecidableEq, Repr

/-- An OW capability word: the holder, or in passage to a core (R284, R285). -/
structure Capability where
  holder : Option Nat
  heading : Option Nat
  /-- The home has rewritten the word, and the grant is on its way. -/
  granted : Bool
  deriving DecidableEq, Repr

/-- A class change under way (R286). -/
structure Reclass where
  size : Nat
  newCls : Cls
  oldCls : Cls
  core : Nat
  fc : Nat
  pte : Nat
  draining : Bool
  /-- MODEL'S OWN: its number; commands and accesses with a lower one were issued before it. -/
  seq : Nat
  deriving DecidableEq, Repr

inductive LinkState
  | disabled | an | train | align | assoc | up | failed
  deriving DecidableEq, Repr

/-- A port (R393, R394). -/
structure Port where
  st : LinkState
  en : Bool
  flaps : Nat
  lanes : Nat
  cause : Nat
  /-- A write of LINKCTL.RETRAIN that has not acted yet. -/
  retrain : Bool
  /-- The cycle at which the port came to its state: the time limits of R393 count from it. -/
  since : Nat
  deriving DecidableEq, Repr

/-- A firmware record in module flash (R405). -/
structure FlashRec where
  svn : Nat
  payload : List Byte
  /-- The record as it was taken, which the next power-up verifies again (R384, R405). -/
  whole : List Byte
  deriving DecidableEq, Repr

/-- A launch that waits for the firmware's answer (R352, R401). -/
structure Launch where
  rcb : Nat
  core : Option (Nat × Nat)
  cluster : Nat
  /-- A host's queue and tag, for a kind-1 entry. -/
  host : Option (Nat × Word)
  gl : Nat
  since : Nat
  deriving DecidableEq, Repr

/-- A package (R387, R394, R396, R399, R409). -/
structure Package where
  /-- Brought up by the steps of R384. -/
  on : Bool
  /-- Shut down at 115 °C (R385). -/
  off : Bool
  /-- The management port reports cause FIRMWARE (R384). -/
  firmwareFault : Bool
  pkgid : BitVec 12
  ports : Vector Port 32
  tmo : BitVec 32
  flash : Table FlashRec
  /-- The endpoint table in use (R409). -/
  endpoints : List Byte
  regions : Table Region
  caps : Table Capability
  reclass : Table Reclass
  homes : Table Home
  outq : Table (List HeldMsg)
  launches : Table Launch
  deriving DecidableEq, Repr

/-- What a transaction does at its target. -/
inductive TxnOp
  | load
  | store (data : List Byte)
  | amo (op : AmoOp) (fmt : Fmt) (rm : BitVec 3) (v : Word) (zf : Bool)
  | amoU (op : AmoOp) (fmt : Fmt) (v : Word)
  | cas (fmt : Fmt) (e v : Word)
  | casw (e v : Word × Word)
  | message (entry : List Word)
  | hostMessage (entry : List Word)
  | slot (rcb act slot : Nat) (msg : List Byte) (above : Bool)
  | dm (e : DmEntry)
  | fill
  /-- A write-back of FLUSH or INV (R185). -/
  | flush (inv : Bool)
  deriving DecidableEq, Repr

inductive TxnStage
  | travelling | held | granted | done | failed (cause : Nat)
  deriving DecidableEq, Repr

/-- How the target treats a transaction. -/
inductive Target
  | pool | dram (cls : Cls) | mailbox | host | merge
  deriving DecidableEq, Repr

/-- What a write of several lines has still to store beyond the line it is at. -/
structure Rest where
  ga : Nat
  page : Nat
  target : Target
  data : List Byte
  deriving DecidableEq, Repr

/-- An access under way between a context and its target (R171, R178, R179, R270, R392). -/
structure Txn where
  core : Nat
  fc : Nat
  rcb : Nat
  op : TxnOp
  target : Target
  ga : Nat
  /-- The address as the program gave it, which a PERM_DENIED of a load reports (R173). -/
  ea : Nat
  size : Nat
  /-- The base of its DRAM page; 0 for a pool. -/
  page : Nat
  dest : Dest
  count : Option Count
  acq : Bool
  stage : TxnStage
  value : List Byte
  cts : Nat
  /-- WTS and RTS of a granted line (R275). -/
  lease : Nat × Nat
  priv : Bool
  /-- The cycle of its first send (R399). -/
  sent : Nat
  rest : List Rest
  /-- The pc of the instruction that made it (R173); 0 where the transfer unit did. -/
  pc : Word := 0
  /-- An engine made it: it is served at the home and no CCH takes its line (R288). -/
  engine : Bool := false
  /-- The actor whose firing made it (R65). -/
  act : Option Nat := none
  /-- The cell whose counter sent it as its wake: its package is the source, and answers the access (R298, R391, R392). -/
  cell : Option Nat := none
  deriving DecidableEq, Repr

/-- An event, marker, cut-start or TLBI on its way (R250, R251, R313, R364). -/
inductive Flight
  | event (core : Nat) (mask : BitVec 4)
  | cutStart (core rcb id : Nat)
  | marker (rcb act slot id : Nat)
  | tlbi (quad root va len gc : Nat)
  deriving DecidableEq, Repr

/-- Who raises a fault of the model, and why: nothing does. Every behaviour the spec describes is a next state, and a
shut-down module stays as it is. -/
inductive Fault
  /-- Raised by nothing: kept so that the outcome type has a named reason. Safe. -/
  | none
  deriving DecidableEq, Repr

/-- Why an instruction is refused. -/
inductive Refusal
  /-- Raised by `exec` for an instruction the model gives no meaning. Safe: nothing is claimed of it. -/
  | notModelled (mnemonic : String)
  deriving DecidableEq, Repr

/-- The whole machine. -/
structure State where
  /-- Space bytes by key: a global address, a register-space byte, or a catalogue byte (log entry 2). -/
  mem : List Host.Cell
  /-- The 8-byte words that an uncorrectable error has hit, by key (R332, R370, R386). -/
  errs : List Nat
  /-- Dirty words found uncorrectable at their write-back and not yet reported: core and ga (R386). -/
  ues : List (Nat × Nat)
  cores : Table Core
  quads : Table Quad
  clusters : Table Cluster
  packages : Table Package
  txns : Table Txn
  flights : Table Flight
  /-- MODEL'S OWN: the context whose instruction `exec` runs: core key and context number. -/
  core : Nat
  fc : Nat
  /-- MODEL'S OWN: the X-half runs the head entry of that context's sequencer; else its A-half issues. -/
  half : Bool
  /-- MODEL'S OWN: a context whose A-half issues in the next step, whatever else could act. -/
  turn : Option (Nat × Nat)
  /-- Cycles since reset (R7). -/
  now : Nat
  /-- MODEL'S OWN: the number of the next free value, of the next identifier, and of the step. -/
  fresh : Nat
  nextId : Nat
  tick : Nat
  /-- MODEL'S OWN: what the surroundings do next, oldest first: links, hosts, heat, errors, firmware. -/
  inputs : List Instr
  deriving DecidableEq, Repr

def Stream.reset : Stream := ⟨none, 0, 0, [], [], none, []⟩

def Idem.reset : Idem := ⟨0, 0, Vector.replicate 8 false, false, 0, true, Vector.replicate 32 0, Vector.replicate 7 0⟩

/-- A context with no firing: every register field map's reset value, and zero where the spec gives none. -/
def Ctx.reset : Ctx where
  firing := none
  pc := 0
  mode := .u
  g := Vector.replicate 32 0
  p := Vector.replicate 8 false
  pend := Vector.replicate 32 .ready
  win := Vector.replicate 7 0
  constCache := []
  fflags := 0
  vsat := false
  rngstr := 0
  rngctr := 0
  evlatch := 0
  tcause := 0
  tpc := 0
  tval := 0
  tval2 := 0
  tregn := false
  tskip := false
  tsw := false
  torigin := 0
  tnext := 0
  tscratch := 0
  q0 := []
  q1 := []
  streams := Vector.replicate 4 Stream.reset
  xseq := []
  xbusy := false
  xfrozen := false
  xskip := false
  posted := []
  countClu := 0
  countPkg := 0
  countSys := 0
  storeErr := none
  updates := 0
  catErr := none
  idem := Idem.reset
  cts := 0
  line := none
  refetch := false
  xfer := none
  stall := none
  awaited := none
  trap := none
  preempt := none
  preemptDue := false
  joined := none
  moving := []
  channels := []

def View.reset : View := ⟨0, 0, 0⟩
def Counter.reset : Counter := ⟨false, 0, 0, 0⟩

/-- A core after reset: POOLOCC's split 16, 16, 16, 8, 8 (R108), PWRCTL (R124), CVEPS and QWIN (R245), HCCTL (R281),
AGELIM and RFCTL (R355), AGE saturated (R245), and every other register zero. -/
def Core.reset : Core where
  ctx := Vector.replicate 4 Ctx.reset
  aptr := 0
  xptr := 0
  banks := #v[16, 16, 16, 8, 8]
  move := none
  scrhwm := 0
  vwv := View.reset
  vwt := View.reset
  vwz := View.reset
  depth := 1
  idleLimit := 64
  cur := 0
  quietSince := 0
  zflags := 0
  sclbase := 0
  cveps := 0x34000000
  cvmax := 0
  cvcnt := 0
  epoch := 0
  infl := 0
  ageFrom := none
  qwin := 0x00010000
  tvecEn := false
  tvecPc := 0
  repen := true
  ladv := 16
  lease := 64
  agelim := 4096
  steal := true
  maxsh := 576
  grain := 64
  round := 0
  cnt := 0
  ev := Vector.replicate 8 Counter.reset
  tiles := []
  deque := []
  binds := []
  region := none
  lcore := 0
  rgn := 0
  page := ⟨0, [], Vector.replicate 7 0⟩
  mailboxes := []
  frames := []
  gang := none
  lines := []
  ulines := []
  utlb := []
  fills := []
  lastSlot := 0
  stealPos := 0
  claimed := false
  ctsAt := 0

def Quad.reset : Quad := ⟨[], [], [], Vector.replicate 16 Counter.reset⟩

def Family.reset : Family := ⟨false, false, 0, 0, 0, Vector.replicate 8 0⟩

def Cluster.reset : Cluster := ⟨[], [], Vector.replicate 16 Family.reset, 0, [], Vector.replicate 16 []⟩

/-- At power-up every port starts in DISABLED with EN = 1 (R394). -/
def Port.reset : Port := ⟨.disabled, true, 0, 0, 0, false, 0⟩

/-- FABCTL.TMO is 0x4000 (R399); PKGID comes from a configuration record and is 0 before one is applied (R396). -/
def Package.reset : Package where
  on := false
  off := false
  firmwareFault := false
  pkgid := 0
  ports := Vector.replicate 32 Port.reset
  tmo := 0x4000
  flash := []
  endpoints := []
  regions := []
  caps := []
  reclass := []
  homes := []
  outq := []
  launches := []

/-- A future-table entry before its first use: FREE, generation 1 (R306). -/
def Future.reset : Future := ⟨1, .free, 0, 0, []⟩

def Home.reset : Home := ⟨0, 0, none, [], []⟩

/-- The machine right after reset: memory zero (R384 steps 4 and 5), every core free, nothing under way. -/
def State.reset : State where
  mem := []
  errs := []
  ues := []
  cores := []
  quads := []
  clusters := []
  packages := []
  txns := []
  flights := []
  core := 0
  fc := 0
  half := false
  turn := none
  now := 0
  fresh := 0
  nextId := 0
  tick := 0
  inputs := []

end Sys2Proof.Machine
end

