-- ==== Sys2Proof/Machine/Mem.lean ====
section
/-! DEFINITION. Tables and memory: the named operations every other file goes through. -/

namespace Sys2Proof.Machine

/-- The record of key n, if listed. -/
def tfind {α : Type} : Table α → Nat → Option α
  | [], _ => none
  | (k, v) :: t, n => if n = k then some v else tfind t n

/-- The record of key n, or the default. -/
def tget {α : Type} (d : α) (t : Table α) (n : Nat) : α := (tfind t n).getD d

/-- Store a record under key n, keeping the keys rising. -/
def tset {α : Type} : Table α → Nat → α → Table α
  | [], n, v => [(n, v)]
  | (k, w) :: t, n, v =>
    if n = k then (n, v) :: t
    else if n < k then (n, v) :: (k, w) :: t
    else (k, w) :: tset t n v

/-- Drop the record of key n. -/
def tdel {α : Type} : Table α → Nat → Table α
  | [], _ => []
  | (k, w) :: t, n => if n = k then t else (k, w) :: tdel t n

/-- A byte of memory. A byte that nothing has written reads as zero: DRAM, the pools, CSM and the catalogue areas are
zeroed at power-up (R384), and the fabric tables are zero (R396). -/
def Memory.read (m : List Host.Cell) (a : Nat) : Byte := tget 0 m a

/-- Write a byte, keeping the canonical form: zero is not listed. -/
def Memory.write (m : List Host.Cell) (a : Nat) (b : Byte) : List Host.Cell :=
  if b = 0 then tdel m a else tset m a b

/-- The canonical form: keys strictly rising, no byte listed as zero. -/
def Memory.wf : List Host.Cell → Bool
  | [] => true
  | (_, b) :: [] => b != 0
  | (k, b) :: (k', b') :: t => b != 0 && decide (k < k') && Memory.wf ((k', b') :: t)

/-- n bytes from address a upward. -/
def Memory.readBytes (m : List Host.Cell) : Nat → Nat → List Byte
  | _, 0 => []
  | a, n + 1 => Memory.read m a :: Memory.readBytes m (a + 1) n

/-- Write a list of bytes from address a upward. -/
def Memory.writeBytes (m : List Host.Cell) : Nat → List Byte → List Host.Cell
  | _, [] => m
  | a, b :: bs => Memory.writeBytes (Memory.write m a b) (a + 1) bs

/-- The little-endian value of n bytes at a (R4). -/
def Memory.readNat (m : List Host.Cell) (a n : Nat) : Nat := natOfBytes (Memory.readBytes m a n)

/-- Store the n low bytes of a value at a, little-endian (R4). -/
def Memory.writeNat (m : List Host.Cell) (a n x : Nat) : List Host.Cell := Memory.writeBytes m a (bytesOf n x)

/-- Drop every byte from address a to a + n - 1. -/
def Memory.clear (m : List Host.Cell) (a n : Nat) : List Host.Cell :=
  m.filter (fun c => !(decide (a ≤ c.1) && decide (c.1 < a + n)))

/-- The key of byte `off` of a core's register space, REG half then MAT half (R101). -/
def regSpaceKey (core off : Nat) : Nat := 2 ^ 64 + core * 2 ^ 19 + off

/-- The key of byte `off` of a cluster's catalogue space (R325). -/
def catalogueKey (cluster off : Nat) : Nat := 2 ^ 65 + cluster * 2 ^ 48 + off

/-- The global address of byte `off` in a pool space of a core: space 1 SCR, 2 MSG, 3 CSM (R19). A core key is
package × 2^14 + coordinate word. -/
def poolAddr (space core off : Nat) : Nat :=
  (core / 2 ^ 14) * 2 ^ 52 + space * 2 ^ 48 + (core % 2 ^ 14) * 2 ^ 34 + off

/-- The fields of a global address (R19). -/
def gaPkg (ga : Nat) : Nat := bits ga 63 52
def gaSpace (ga : Nat) : Nat := bits ga 51 48
/-- The core a pool address names. -/
def gaCore (ga : Nat) : Nat := gaPkg ga * 2 ^ 14 + bits ga 47 34
def gaOff (ga : Nat) : Nat := bits ga 18 0

/-- The fields of a core key: package, die, quad row, quad column, core within the quad (R168). -/
def corePkg (k : Nat) : Nat := k / 2 ^ 14
def coreCoord (k : Nat) : Nat := k % 2 ^ 14
def coreDie (k : Nat) : Nat := bits k 13 10
def coreQrow (k : Nat) : Nat := bits k 9 6
def coreQcol (k : Nat) : Nat := bits k 5 2
def coreIdx (k : Nat) : Nat := k % 4
/-- The quad of a core: its key without the core number. -/
def quadOf (k : Nat) : Nat := k / 4
/-- The package cluster number 6 × die + k (R266), with the package: package × 96 + cluster. -/
def clusterOf (k : Nat) : Nat := corePkg k * 96 + 6 * coreDie k + coreQrow k / 2
def clusterNo (k : Nat) : Nat := 6 * coreDie k + coreQrow k / 2
/-- A coordinate word names a core: quad row and column at most 11 (R168). -/
def coordOk (c : Nat) : Bool := decide (bits c 9 6 ≤ 11) && decide (bits c 5 2 ≤ 11)

/-- The line of an address: 64 bytes (R269). -/
def lineOf (ga : Nat) : Nat := ga / 64 * 64

/-- The DRAM site of a space-0 offset (R369). -/
def siteOf (a : Nat) : Nat := Nat.xor (bits a 12 8) (bits a 20 16)
/-- The die that carries the site. -/
def dieOf (a : Nat) : Nat := siteOf a / 2
/-- The home quad's index on that die (R270). -/
def homeIndex (a : Nat) : Nat := Nat.xor (Nat.xor (bits a 17 6) (bits a 29 18)) (bits a 41 30) % 144

/-- The home quad of a DRAM line (R270). -/
def homeQuad (line : Nat) : Nat :=
  let a := bits line 41 0
  gaPkg line * 2 ^ 12 + dieOf a * 2 ^ 8 + homeIndex a / 12 * 2 ^ 4 + homeIndex a % 12
/-- The set of a slice that a line falls into (R269). -/
def sliceSet (line : Nat) : Nat := bits line 15 6

/-- The spill-log offsets of space 0, which no program reaches (R369). -/
def inSpillLog (ga : Nat) : Bool := decide (gaSpace ga = 0) && decide (bits ga 41 30 = 0xFFF)

end Sys2Proof.Machine
end

