-- ==== Sys2Proof/Machine/Regs.lean ====
section
/-! DEFINITION. Reading and writing the parts of the state: cores, contexts, registers, free values. -/

namespace Sys2Proof.Machine

/-- A trap a unit asks for: the cause, its TVAL and TVAL2 where a rule gives them, and the records it clears. -/
structure Trap where
  cause : Nat
  tval : Option Word := none
  tval2 : Option Word := none
  /-- A load's data error found at its consumer (ORIGIN 2, R174, R258). -/
  deferred : Bool := false
  /-- From TRAPC (R264). -/
  sw : Bool := false
  /-- The records its entry clears (R97, R174, R179, R335). -/
  clears : List Clear := []
  deriving DecidableEq, Repr

/-- How an instruction ends without its effect: it traps, or it waits and will be tried again. -/
inductive Stop
  | trap (t : Trap)
  | wait (why : StallWhy) (point : Bool)
  deriving DecidableEq, Repr

/-- An act of the machine: it changes the state, or stops and changes nothing (Fault of "Pseudocode" in 00_scope). -/
abbrev Act (α : Type) := StateT State (Except Stop) α

/-- Raise a trap. -/
def raiseTrap {α : Type} (t : Trap) : Act α := throw (.trap t)

def fault {α : Type} (cause : Nat) (tval : Option Word) (tval2 : Option Word := none) : Act α :=
  throw (.trap { cause := cause, tval := tval, tval2 := tval2 })

/-- Wait: `point` says whether the wait is a stall point of R85. -/
def waitFor {α : Type} (why : StallWhy) (point : Bool := false) : Act α := throw (.wait why point)

/-- Wait until a condition holds. -/
def waitUntil (c : Bool) (why : StallWhy) (point : Bool := false) : Act Unit :=
  if c then pure () else waitFor why point

/-- Raise a cause unless a condition holds. -/
def unlessFault (c : Bool) (cause : Nat) (tval : Option Word := none) : Act Unit :=
  if c then pure () else fault cause tval

/-- The cause codes of R265. -/
def cILLEGAL_OP : Nat := 0
def cILLEGAL_OPERAND : Nat := 1
def cPRIV_OP : Nat := 2
def cSYSREG_ACCESS : Nat := 3
def cBRANCH_TARGET : Nat := 4
def cFETCH_NO_PAGE : Nat := 5
def cFETCH_PERM : Nat := 6
def cXLOOP_OPEN : Nat := 7
def cSTREAM_OVERRUN : Nat := 8
def cINT_DIVZERO : Nat := 9
def cNO_PAGE : Nat := 16
def cPERM_DENIED : Nat := 17
def cMISALIGNED : Nat := 18
def cSPACE_BAD : Nat := 19
def cOW_NOCAP : Nat := 20
def cPOOL_RANGE : Nat := 21
def cSTORE_NACK : Nat := 22
def cWALK_ERROR : Nat := 23
def cAMO_CLASS : Nat := 24
def cHOSTQ_DENIED : Nat := 25
def cVIEW_RANGE : Nat := 32
def cTILE_STATE : Nat := 33
def cTILE_RANGE : Nat := 34
def cTILE_FORMAT : Nat := 35
def cFP_NV : Nat := 44
def cFP_DZ : Nat := 45
def cRNG_WRAP : Nat := 46
def cSCALE_RESERVED : Nat := 47
def cSPARSE_PATTERN : Nat := 48
def cSPARSE_ROWPTR : Nat := 49
def cGRAPH_CLASS : Nat := 56
def cGRAPH_SLOT : Nat := 57
def cCAT_UNDEF : Nat := 58
def cCAT_MODE : Nat := 59
def cCAT_LIST : Nat := 60
def cFUT_STALE : Nat := 68
def cFUT_STATE : Nat := 69
def cGANG_INACTIVE : Nat := 70
def cMBX_UNBOUND : Nat := 71
def cDEQUE_FULL : Nat := 72
def cJOIN_CELL : Nat := 73
def cBAR_STATE : Nat := 74
def cDM_OUTSIDE : Nat := 75
def cLINK_DOWN : Nat := 80
def cFABRIC_TIMEOUT : Nat := 81
def cPKG_UNREACHABLE : Nat := 82
def cMACHINE_FETCH : Nat := 88
def cMACHINE_UE : Nat := 89
def cDOUBLE_TRAP : Nat := 90
def cFIRMWARE : Nat := 91
def cMACHINE_INTERNAL : Nat := 92

/-- Codes R265 marks reserved. -/
def causeReserved (c : Nat) : Bool :=
  decide (10 ≤ c ∧ c ≤ 15) || decide (26 ≤ c ∧ c ≤ 31) || decide (36 ≤ c ∧ c ≤ 43) || decide (50 ≤ c ∧ c ≤ 55) ||
  decide (61 ≤ c ∧ c ≤ 67) || decide (76 ≤ c ∧ c ≤ 79) || decide (83 ≤ c ∧ c ≤ 87) || decide (93 ≤ c)

def State.coreAt (s : State) (k : Nat) : Core := tget Core.reset s.cores k
def State.setCore (s : State) (k : Nat) (c : Core) : State := { s with cores := tset s.cores k c }
def State.modCore (s : State) (k : Nat) (f : Core → Core) : State := s.setCore k (f (s.coreAt k))
def State.quadAt (s : State) (q : Nat) : Quad := tget Quad.reset s.quads q
def State.modQuad (s : State) (q : Nat) (f : Quad → Quad) : State :=
  { s with quads := tset s.quads q (f (s.quadAt q)) }
def State.clusterAt (s : State) (k : Nat) : Cluster := tget Cluster.reset s.clusters k
def State.modCluster (s : State) (k : Nat) (f : Cluster → Cluster) : State :=
  { s with clusters := tset s.clusters k (f (s.clusterAt k)) }
def State.pkgAt (s : State) (p : Nat) : Package := tget Package.reset s.packages p
def State.modPkg (s : State) (p : Nat) (f : Package → Package) : State :=
  { s with packages := tset s.packages p (f (s.pkgAt p)) }

/-- A context by number, modulo 4. -/
def Core.ctxAt (c : Core) (fc : Nat) : Ctx := c.ctx[fc % 4]'(Nat.mod_lt _ (by decide))
def Core.setCtx (c : Core) (fc : Nat) (x : Ctx) : Core :=
  { c with ctx := c.ctx.set (fc % 4) x (Nat.mod_lt _ (by decide)) }
def State.ctxOf (s : State) (k fc : Nat) : Ctx := (s.coreAt k).ctxAt fc
def State.modCtxOf (s : State) (k fc : Nat) (f : Ctx → Ctx) : State :=
  s.modCore k (fun c => c.setCtx fc (f (c.ctxAt fc)))

/-- The core and context whose instruction runs. -/
def State.here (s : State) : Core := s.coreAt s.core
def State.ctx (s : State) : Ctx := s.ctxOf s.core s.fc
def State.modCtx (s : State) (f : Ctx → Ctx) : State := s.modCtxOf s.core s.fc f
def State.modHere (s : State) (f : Core → Core) : State := s.modCore s.core f

/-- The state with another current context. -/
def State.at (s : State) (core fc : Nat) (half : Bool := false) : State := { s with core := core, fc := fc % 4, half := half }

def getCtx : Act Ctx := do return (← get).ctx
def getCore : Act Core := do return (← get).here
def modCtx (f : Ctx → Ctx) : Act Unit := modify (·.modCtx f)
def modCore (f : Core → Core) : Act Unit := modify (·.modHere f)

/-- The number of the next free value is taken. -/
def State.takeFresh (s : State) : Word × State := (Config.freeValue s.fresh, { s with fresh := s.fresh + 1 })
def freeWord : Act Word := do
  let s ← get
  set { s with fresh := s.fresh + 1 }
  return Config.freeValue s.fresh
/-- A new identifier. -/
def newId : Act Nat := do
  let s ← get
  set { s with nextId := s.nextId + 1 }
  return s.nextId

/-- g0 reads as zero (R17). -/
def Ctx.rg (c : Ctx) (k : Nat) : Word := if k % 32 = 0 then 0 else c.g[k % 32]'(Nat.mod_lt _ (by decide))
/-- A write to g0 is discarded (R17). -/
def Ctx.wg (c : Ctx) (k : Nat) (v : Word) : Ctx :=
  if k % 32 = 0 then c
  else { c with g := c.g.set (k % 32) v (Nat.mod_lt _ (by decide)),
                pend := c.pend.set (k % 32) .ready (Nat.mod_lt _ (by decide)) }
def Ctx.pendOf (c : Ctx) (k : Nat) : Pend := if k % 32 = 0 then .ready else c.pend[k % 32]'(Nat.mod_lt _ (by decide))
def Ctx.setPend (c : Ctx) (k : Nat) (p : Pend) : Ctx :=
  if k % 32 = 0 then c else { c with pend := c.pend.set (k % 32) p (Nat.mod_lt _ (by decide)) }
/-- p0 reads as true (R73). -/
def Ctx.rp (c : Ctx) (k : Nat) : Bool := if k % 8 = 0 then true else c.p[k % 8]'(Nat.mod_lt _ (by decide))
/-- p0 is never written (R73). -/
def Ctx.wp (c : Ctx) (k : Nat) (b : Bool) : Ctx :=
  if k % 8 = 0 then c else { c with p := c.p.set (k % 8) b (Nat.mod_lt _ (by decide)) }
def Ctx.stream (c : Ctx) (q : Nat) : Stream := c.streams[(q - 2) % 4]'(Nat.mod_lt _ (by decide))
def Ctx.setStream (c : Ctx) (q : Nat) (t : Stream) : Ctx :=
  { c with streams := c.streams.set ((q - 2) % 4) t (Nat.mod_lt _ (by decide)) }

def readG (k : Nat) : Act Word := do return (← getCtx).rg k
def writeG (k : Nat) (v : Word) : Act Unit := modCtx (·.wg k v)
/-- Write the g register a field names. -/
def writeD (r : Reg) (v : Word) : Act Unit := writeG r.index v

def Role.code : Role → Nat | .reg => 0 | .mat => 1 | .scr => 2 | .msg => 3 | .cch => 4
def Role.ofCode : Nat → Role | 0 => .reg | 1 => .mat | 2 => .scr | 3 => .msg | _ => .cch
/-- The banks a role holds (R108). -/
def Core.bankCount (c : Core) (r : Role) : Nat :=
  c.banks[r.code % 5]'(Nat.mod_lt _ (by decide))
def Core.setBanks (c : Core) (r : Role) (n : Nat) : Core :=
  { c with banks := c.banks.set (r.code % 5) n (Nat.mod_lt _ (by decide)) }

/-- The pool layout word of POOLOCC (R108). -/
def Core.poolocc (c : Core) : Nat :=
  c.bankCount .reg + c.bankCount .mat * 2 ^ 8 + c.bankCount .scr * 2 ^ 16 + c.bankCount .msg * 2 ^ 24 +
  c.bankCount .cch * 2 ^ 32

/-- The bank count of a role in a POOLOCC-layout word (R108). -/
def poolField (w : Nat) (r : Role) : Nat := bits w (8 * r.code + 6) (8 * r.code)

/-- Memory by key. -/
def State.rdNat (s : State) (a n : Nat) : Nat := Memory.readNat s.mem a n
/-- The words with an uncorrectable error that a write of n bytes at a does not replace whole (R386). -/
def errsAfter (l : List Nat) (a n : Nat) : List Nat := l.filter (fun k => !(decide (a ≤ k) && decide (k + 8 ≤ a + n)))
def State.wrNat (s : State) (a n x : Nat) : State :=
  { s with mem := Memory.writeNat s.mem a n x, errs := errsAfter s.errs a n }
def State.wrBytes (s : State) (a : Nat) (l : List Byte) : State :=
  { s with mem := Memory.writeBytes s.mem a l, errs := errsAfter s.errs a l.length }
/-- n bytes at a become 0. -/
def State.zero (s : State) (a n : Nat) : State := { s with mem := Memory.clear s.mem a n, errs := errsAfter s.errs a n }
/-- Uncorrectable data stands among n bytes at a (R386). -/
def State.bad (s : State) (a n : Nat) : Bool := s.errs.any (fun k => decide (a < k + 8) && decide (k < a + n))

def Core.findLine (c : Core) (line : Nat) : Option CchLine := c.lines.find? (·.addr == line)
/-- The n bytes at ga of a line's image. -/
def CchLine.get (l : CchLine) (ga n : Nat) : Nat :=
  bits l.data.toNat (8 * (ga - l.addr) + 8 * n - 1) (8 * (ga - l.addr))

/-- A copy of a line that is newer than its home: EXCLUSIVE or dirty. -/
def State.newerCopy (s : State) (line : Nat) : Option CchLine :=
  s.cores.findSome? (fun c => (c.2.findLine line).filter (fun l => l.excl || l.dirty != 0))

/-- One event for the counters of a core that count its source (R387). -/
def Core.count (c : Core) (src : Nat) : Core :=
  { c with ev := c.ev.map (fun e => if e.en && e.src.toNat == src then { e with count := e.count + 1 } else e) }

/-- The same for a quad. -/
def Quad.count (q : Quad) (src : Nat) : Quad :=
  { q with ev := q.ev.map (fun e => if e.en && e.src.toNat == src then { e with count := e.count + 1 } else e) }

/-- A core spends d cycles, `stalled` with a context at a stall point, and `busy` with its array at work (R387). -/
def Core.spend (c : Core) (d : Nat) (stalled busy : Bool) : Core :=
  { c with ev := c.ev.map (fun e =>
      if e.en && ((stalled && e.src == 0x003) || (busy && e.src == 0x00A)) then { e with count := e.count + word d } else e) }

/-- The value an access would read now, n bytes within one line; it changes nothing. -/
def State.peek (s : State) (ga n : Nat) : Nat :=
  if 1 ≤ gaSpace ga ∧ gaSpace ga ≤ 3 then s.rdNat ga n
  else match s.newerCopy (lineOf ga) with
    | some l => l.get ga n
    | none => s.rdNat ga n

/-- The effective value of an RCB word's field: the region's own when its OVR bit is set, else its parent's (R347);
fuel bounds the walk up the tree. -/
def effWord (s : State) : Nat → Nat → Nat → Nat → Nat
  | 0, rcb, _, off => s.peek (rcb + off) 8
  | fuel + 1, rcb, f, off =>
    let parent := s.peek (rcb + 0x08) 8
    if bit (s.peek rcb 8) (24 + f) || parent == 0 then s.peek (rcb + off) 8 else effWord s fuel parent f off

/-- Region numbers run to 4 095 (R346), so no tree is deeper. -/
def State.eff (s : State) (rcb f off : Nat) : Nat := effWord s 4096 rcb f off

def State.effPrio (s : State) (rcb : Nat) : Nat := bits (s.eff rcb 0 0x10) 5 3
def State.effPolicy (s : State) (rcb : Nat) : Nat := bits (s.eff rcb 1 0x10) 2 1
def State.effDm (s : State) (rcb : Nat) : Bool := bit (s.eff rcb 2 0x10) 0
def State.effFmbx (s : State) (rcb : Nat) : Nat := s.eff rcb 3 0x18
def State.effPtroot (s : State) (rcb : Nat) : Nat := s.eff rcb 4 0x20
def State.effSeed (s : State) (rcb : Nat) : Nat := s.eff rcb 5 0x28
def State.effLcount (s : State) (rcb : Nat) : Nat := bits (s.eff rcb 6 0x30) 13 0
def State.effTvecv (s : State) (rcb : Nat) : Nat := s.eff rcb 7 0x38
def State.effFtt (s : State) (rcb : Nat) : Nat := s.eff rcb 8 0x40
def State.effQwin (s : State) (rcb : Nat) : Nat := s.eff rcb 9 0x48
def State.effSplit (s : State) (rcb : Nat) : Nat := s.eff rcb 10 0x50
def State.effBanks (s : State) (rcb : Nat) : Nat := s.eff rcb 11 0x58
def State.effCores (s : State) (rcb : Nat) : Nat := bits (s.eff rcb 12 0x60) 13 0
def State.effMsgb (s : State) (rcb : Nat) : Nat := bits (s.eff rcb 13 0x68) 39 0
def State.effFut (s : State) (rcb : Nat) : Nat := bits (s.eff rcb 14 0x70) 32 16
def State.effDeq (s : State) (rcb : Nat) : Nat := bits (s.eff rcb 14 0x70) 6 0
def State.effCatb (s : State) (rcb : Nat) : Nat := bits (s.eff rcb 15 0x78) 31 0

/-- The region whose own value of field f is used, which holds the charge (R347). -/
def ownerOf (s : State) : Nat → Nat → Nat → Nat
  | 0, rcb, _ => rcb
  | fuel + 1, rcb, f =>
    let parent := s.peek (rcb + 0x08) 8
    if bit (s.peek rcb 8) (24 + f) || parent == 0 then rcb else ownerOf s fuel parent f

/-- The root of a region's tree (R171). -/
def rootOf (s : State) : Nat → Nat → Nat
  | 0, rcb => rcb
  | fuel + 1, rcb => let parent := s.peek (rcb + 0x08) 8; if parent == 0 then rcb else rootOf s fuel parent

/-- Whether `anc` is the region or one of its ancestors. -/
def isUnder (s : State) : Nat → Nat → Nat → Bool
  | 0, rcb, anc => rcb == anc
  | fuel + 1, rcb, anc =>
    rcb == anc || (let parent := s.peek (rcb + 0x08) 8; parent != 0 && isUnder s fuel parent anc)

/-- STATE of an RCB: 0 LIVE, 1 SAVING, 2 SAVED, 3 RESTORING, 4 KILLED (R346). -/
def State.rcbState (s : State) (rcb : Nat) : Nat := bits (s.peek (rcb + 0x10) 8) 10 8
/-- The hardware's record of a region: its package is the RCB's number of the package that created it. -/
def State.regionAt (s : State) (pkg rcb : Nat) : Option Region := tfind (s.pkgAt pkg).regions rcb
/-- The package in which a region was created, found among those that list it. -/
def State.regionPkg (s : State) (rcb : Nat) : Nat :=
  match s.packages.find? (fun p => (tfind p.2.regions rcb).isSome) with
  | some p => p.1
  | none => gaPkg rcb
def State.isLive (s : State) (rcb : Nat) : Bool :=
  (s.regionAt (s.regionPkg rcb) rcb).isSome && s.rcbState rcb == 0
def State.modRegion (s : State) (rcb : Nat) (f : Region → Region) : State :=
  let p := s.regionPkg rcb
  match s.regionAt p rcb with
  | some r => s.modPkg p (fun q => { q with regions := tset q.regions rcb (f r) })
  | none => s

/-- The region of the firing on the current context; 0 with no firing. -/
def Ctx.rcb (c : Ctx) : Nat := match c.firing with | some f => f.rcb | none => 0

/-- The actor of the current firing, as bound: none for a firing without one. -/
def State.ownBound (s : State) : Option Bound :=
  match s.ctx.firing with
  | some f => if f.act.isSome then tfind s.here.binds f.slot else none
  | none => none

/-- The page of a firing's launch (R8, R67): that of its actor's ABASE, or the core's for a firing of no actor. -/
def State.pageOf (s : State) (core : Nat) (b : Option Bound) : LaunchPage :=
  ((b.bind (fun b => (s.regionAt (s.regionPkg b.rcb) b.rcb).bind (fun r => tfind r.pages b.abase)))).getD
    (s.coreAt core).page

/-- AGE: cycles since the last age reset, saturating (R245). -/
def State.age (s : State) (c : Core) : Nat :=
  match c.ageFrom with
  | none => 0xFFFFFFFF
  | some t => min (s.now - t) 0xFFFFFFFF

/-- AgeReset (R246). -/
def Core.ageReset (c : Core) (now : Nat) : Core := { c with ageFrom := some now, epoch := (c.epoch + 1) % 2 ^ 23 }

/-- The number of posted writes not yet acknowledged. -/
def Ctx.unacked (c : Ctx) : Nat := c.countClu + c.countPkg + c.countSys
def Ctx.countOf (c : Ctx) : Count → Nat
  | .clu => c.countClu | .pkg => c.countPkg | .sys => c.countSys
def Ctx.addCount (c : Ctx) (k : Count) (n : Int) : Ctx :=
  match k with
  | .clu => { c with countClu := (c.countClu + n).toNat }
  | .pkg => { c with countPkg := (c.countPkg + n).toNat }
  | .sys => { c with countSys := (c.countSys + n).toNat }

/-- The entries a sequencer item takes. -/
def XItem.size : XItem → Nat | .entry _ => 1 | .loop l => l.body.length
/-- A record is cleared by the entry of the trap that reports it (R97, R174, R179, R335). -/
def Ctx.clear (c : Ctx) (k : Clear) : Ctx :=
  match k with
  | .storeErr => { c with storeErr := none }
  | .catErr => { c with catErr := none }
  | .register k => { c with pend := c.pend.set (k % 32) .ready (Nat.mod_lt _ (by decide)) }
  | .stream q => c.setStream q { c.stream q with err := none }

/-- The data error of a g register's load (R174). A load into g0 keeps its error there. -/
def Ctx.dataError (c : Ctx) : Option (Nat × DataError) :=
  (List.range 32).findSome? (fun k => match c.pend[k % 32]'(Nat.mod_lt _ (by decide)) with
    | .error e => some (k, e)
    | _ => none)

/-- The trap of a data error at its consumer (R173, R174): TVAL2 is the memory instruction's pc where one is known. -/
def DataError.trap (e : DataError) (deferred : Bool) (clears : List Clear) : Trap :=
  { cause := e.cause, tval := some e.tval, tval2 := e.pc, deferred := deferred, clears := clears }

/-- The 56 bits of a program counter that TPC and TNEXT hold (R257). -/
def pcField (pc : Word) : Word := word (bits pc.toNat 55 0)

/-- The entries held in the sequencer (R87). -/
def Ctx.xcount (c : Ctx) : Nat := (c.xseq.map XItem.size).sum
/-- An XLOOP whose body is not yet whole stands last (R79). -/
def Ctx.bodyOpen (c : Ctx) : Bool :=
  match c.xseq.getLast? with
  | some (.loop l) => decide (l.body.length < l.n)
  | _ => false
/-- The entry that runs next: the head, or the entry of a loop at its position; later passes wait for the whole body
(R78). -/
def Ctx.xhead (c : Ctx) : Option XEntry :=
  match c.xseq with
  | .entry e :: _ => some e
  | .loop l :: _ =>
    if l.count = 0 then none
    else if l.pass = 0 ∨ l.body.length = l.n then l.body[l.idx]? else none
  | [] => none

/-- The entries at the head of a list whose data has landed. -/
def landed : List QEntry → Nat
  | [] => 0
  | e :: es => if e.need = 0 then landed es + 1 else 0

/-- n pops of a queue would wait (R91, R92, R96). -/
def Ctx.popStalls (c : Ctx) (q n : Nat) : Bool :=
  if q = 0 then decide (landed c.q0 < n)
  else if q = 1 then decide (c.q1.length < n)
  else
    let t := c.stream q
    match t.pat with
    | some p => !p.write && decide (landed t.rd < min n (p.c0 * p.c1 * p.c2 - t.pos))
    | none => false

/-- A push to a queue would wait (R90, R92, R97). -/
def Ctx.pushStalls (c : Ctx) (q : Nat) : Bool :=
  if q = 1 then decide (16 ≤ c.q1.length)
  else if q = 0 then false
  else
    let t := c.stream q
    match t.pat with
    | some p => p.write && decide (16 ≤ t.wr.length) && decide (t.pos < p.c0 * p.c1 * p.c2)
    | none => false

/-- A queue register that exists: q6 and q7 fault (R49). -/
def queueOf : Reg → Option Nat
  | .q k => if k.toNat < 6 then some k.toNat else none
  | _ => none

/-- The X entry with these fields would wait on a queue (R92). -/
def Ctx.fieldsStall (c : Ctx) (d s1 s2 s3 : Reg) : Bool :=
  let pops := [s1, s2, s3].filterMap queueOf
  pops.any (fun q => c.popStalls q (pops.count q)) || (match queueOf d with | some q => c.pushStalls q | none => false)

end Sys2Proof.Machine
end

