-- ==== Sys2Proof/Machine/Access.lean ====
section
/-! DEFINITION. Addresses, translation, and the lines of DRAM at their homes and in the CCH roles (R170 to R173, R270
to R292, R362, R363, R372, R397, R398). -/

namespace Sys2Proof.Machine

/-- What an access does with a page (R362). -/
inductive Kind
  | r | w | x
  deriving DecidableEq, Repr

/-- Why a walk gives no page (R363): no page, or a malformed entry at a global address. -/
inductive WalkEnd
  | noPage
  | malformed (pte : Nat)
  deriving DecidableEq, Repr

def Cls.ofCode (n : Nat) : Cls := match n % 4 with | 0 => .hc | 1 => .sc | 2 => .cp | _ => .ow
def Cls.code : Cls → Nat | .hc => 0 | .sc => 1 | .cp => 2 | .ow => 3

/-- log2 of the bytes a leaf maps at each level (R362). -/
def leafBits (level : Nat) : Nat := match level with | 1 => 30 | 2 => 21 | 3 => 16 | _ => 43

/-- log2 of the size of the table a level's NEXT names (R362). -/
def nextBits (level : Nat) : Nat := match level with | 0 => 17 | 1 => 13 | _ => 9

/-- A leaf breaks R362, R363, R369, R372 or R398. -/
def leafBad (pkg level w0 w1 : Nat) : Bool :=
  let ga := bits w0 63 16 * 2 ^ 16
  let cls := bits w0 6 5
  level == 0 || bits w0 15 9 != 0 || (cls != 2 && w1 != 0) || bits w1 63 26 != 0 ||
  decide (ga % 2 ^ leafBits level ≠ 0) || decide (7 ≤ gaSpace ga) ||
  (cls == 2 && !coordOk (bits w1 13 0)) ||
  (gaSpace ga == 0 && decide (2 ^ 42 - 2 ^ 30 < bits ga 41 0 + 2 ^ leafBits level)) ||
  (bit w0 7 && (decide (2 ≤ cls) || gaSpace ga != 0 || gaPkg ga != pkg)) ||
  (gaPkg ga != pkg && (decide (2 ≤ cls) || bit w0 7))

/-- A line is held while any region has DM entries in it (R375, R376, R379). -/
def State.lineHeld (s : State) (line : Nat) : Bool :=
  (s.pkgAt (gaPkg line)).regions.any (fun r => r.2.entries.any (fun e => lineOf e.ga == line))

/-- [a, a + n) and [b, b + m) share a byte. -/
def overlap (a n b m : Nat) : Bool := decide (a < b + m) && decide (b < a + n) && decide (0 < n) && decide (0 < m)

/-- The result of an atomic operation on values of a format, with the conditions of .fadd (R294, R296). -/
def amoApply (op : AmoOp) (f : Fmt) (rm : Nat) (old v : Nat) : Nat × Flags :=
  let w := Fmt.width f
  match op with
  | .add => ((old + v) % 2 ^ w, 0)
  | .and => (Nat.land old v, 0)
  | .or => (Nat.lor old v, 0)
  | .xor => (Nat.xor old v, 0)
  | .min => (if sintOf w v < sintOf w old then v else old, 0)
  | .max => (if sintOf w old < sintOf w v then v else old, 0)
  | .umin => (min old v, 0)
  | .umax => (max old v, 0)
  | .swap => (v, 0)
  | .fadd => addF f rm 0 old v

/-- The identity a U delta starts from (R290). -/
def amoIdentity (op : AmoOp) (f : Fmt) : Nat :=
  let w := Fmt.width f
  match op with
  | .and => 2 ^ w - 1
  | .min => 2 ^ (w - 1) - 1
  | .max => 2 ^ (w - 1)
  | .umin => 2 ^ w - 1
  | .fadd => 2 ^ (w - 1)
  | _ => 0

def valOf (f : Fmt) (v : Word) : Nat := v.toNat % 2 ^ Fmt.width f

/-! ### Homes -/

def State.homeAt (s : State) (line : Nat) : Home := tget Home.reset (s.pkgAt (gaPkg line)).homes line
def State.setHome (s : State) (line : Nat) (h : Home) : State :=
  s.modPkg (gaPkg line) (fun p => { p with homes := tset p.homes line h })

/-- An entry's word as its home slice serves it to the walker (R276, R291, R363): the EXCLUSIVE owner's copy holds the latest
performed store of an HC line, and the updates of U copies are merged. -/
def State.walkWord (s : State) (ga : Nat) : Nat :=
  let line := lineOf ga
  let base := match s.cores.findSome? (fun c => (c.2.findLine line).filter (·.excl)) with
    | some l => l.get ga 8
    | none => s.rdNat ga 8
  (s.homeAt line).us.foldl (fun x k =>
    match (s.coreAt k).ulines.find? (·.addr == line) with
    | none => x
    | some u =>
      let n := Fmt.width u.fmt / 8
      u.deltas.foldl (fun x d =>
        let o := 8 * (line + d.1 - ga)
        if ga ≤ line + d.1 ∧ line + d.1 + n ≤ ga + 8 then
          putBits x o (8 * n) (amoApply u.op u.fmt 0 (bits x (o + 8 * n - 1) o) d.2).1
        else x) x) base

/-- The k-th of n lines of a set goes, home lines first. -/
def Quad.dropNth (q : Quad) (set k : Nat) : Quad :=
  let hs := (q.homeLines.map (·.1)).filter (sliceSet · == set)
  let rs := q.replicas.filter (sliceSet ·.addr == set)
  if k < hs.length then { q with homeLines := q.homeLines.filter (fun l => some l.1 != hs[k]?) }
  else { q with replicas := q.replicas.filter (fun r => some r.addr != (rs[k - hs.length]?).map (·.addr)) }

/-- The lines of a set (R269). -/
def Quad.inSet (q : Quad) (set : Nat) : Nat :=
  (q.homeLines.filter (sliceSet ·.1 == set)).length + (q.replicas.filter (sliceSet ·.addr == set)).length

/-- The sectors that n bytes at ga lie in (R269). -/
def sectorsOf (ga n : Nat) : BitVec 4 :=
  BitVec.ofNat 4 ((List.range 4).map (fun k => if overlap (lineOf ga + 16 * k) 16 ga n then 2 ^ k else 0)).sum

/-- The home slice holds the sectors it serves, n bytes at ga (R269): it fills those it lacks. A line it has no way for takes
one of its 16, and a full set gives one up, a replica silently (R280). Which one pseudo-LRU names is free. -/
def State.sliceFill (s : State) (ga n : Nat) : State :=
  let line := lineOf ga
  let q := s.quadAt (homeQuad line)
  let m := sectorsOf ga n
  match q.homeLines.find? (·.1 == line) with
  | some l =>
    if m &&& l.2 == m then s.modQuad (homeQuad line) (·.count 0x100)
    else s.modQuad (homeQuad line) (fun q =>
      Quad.count { q with homeLines := q.homeLines.map (fun x => if x.1 == line then (line, l.2 ||| m) else x) } 0x101)
  | none =>
    let set := sliceSet line
    let (q, k) := if q.inSet set < 16 then (q, 0) else (q.dropNth set (Config.victim 16 s.fresh % 16), 1)
    { (s.modQuad (homeQuad line) (fun _ => Quad.count { q with homeLines := (line, m) :: q.homeLines } 0x101)) with
      fresh := s.fresh + k }

/-! ### Translation -/

/-- One level of a walk and those below it (R363): the walker reads the entries at their home slices, never through a
CCH. V is tested first; then the entry's form. -/
def walkFrom (s : State) (pkg root ea : Nat) : Nat → List (Nat × Nat × Nat) → Except WalkEnd Tlb
  | _, [] => .error .noPage
  | table, (level, hi, lo) :: rest =>
    let pte := table + 16 * bits ea hi lo
    let w0 := s.walkWord pte
    let w1 := s.walkWord (pte + 8)
    if !bit w0 0 then .error .noPage
    else if bit w0 1 then
      if leafBad pkg level w0 w1 then .error (.malformed pte)
      else .ok { root := root, va := ea / 2 ^ lo * 2 ^ lo, level := level, ga := bits w0 63 16 * 2 ^ 16, u := bit w0 8,
                 dm := bit w0 7, cls := Cls.ofCode (bits w0 6 5), x := bit w0 4, w := bit w0 3, r := bit w0 2,
                 owner := bits w1 25 0 }
    else
      let next := bits w0 63 9 * 2 ^ 9
      if level == 3 || bits w0 8 2 != 0 || w1 != 0 || gaSpace next != 0 || decide (next % 2 ^ nextBits level ≠ 0)
      then .error (.malformed pte)
      else walkFrom s pkg root ea next rest

/-- The levels of a walk: the index bits of each (R362). -/
def walkLevels : List (Nat × Nat × Nat) := [(0, 55, 43), (1, 42, 30), (2, 29, 21), (3, 20, 16)]

/-- The walk of an address under a root (R362, R363). -/
def walk (s : State) (pkg root ea : Nat) : Except WalkEnd Tlb := walkFrom s pkg root ea root walkLevels

/-- The addresses of the entries that a walk reads from a table downward. -/
def walkEntries (s : State) (ea : Nat) : Nat → List (Nat × Nat × Nat) → List Nat
  | _, [] => []
  | table, (_, hi, lo) :: rest =>
    let pte := table + 16 * bits ea hi lo
    let w0 := s.walkWord pte
    pte :: (if bit w0 0 && !bit w0 1 then walkEntries s ea (bits w0 63 9 * 2 ^ 9) rest else [])

/-- A cached translation covers an address under a root (R363). -/
def Tlb.covers (t : Tlb) (root ea : Nat) : Bool :=
  t.root == root && decide (t.va ≤ ea) && decide (ea < t.va + 2 ^ leafBits t.level)

/-- Whose TLBs serve a translation: a core's micro-TLB and then its quad's TLB, or for an engine the TLB of the quad it
attaches to (R363). -/
inductive Via
  | core (k : Nat)
  | quad (q : Nat)
  deriving DecidableEq, Repr

def Via.quadKey : Via → Nat | .core k => quadOf k | .quad q => q
def Via.pkg : Via → Nat | .core k => corePkg k | .quad q => q / 2 ^ 12

/-- Keep a translation in a core's 32-entry micro-TLB. -/
def State.fillMicro (s : State) (v : Via) (t : Tlb) : State :=
  match v with
  | .core k => s.modCore k (fun c => { c with utlb := (t :: c.utlb).take 32 })
  | .quad _ => s

/-- Keep a translation in the micro-TLB and the quad's 1 024-entry TLB (R363). -/
def State.fillTlb (s : State) (v : Via) (t : Tlb) : State :=
  (s.fillMicro v t).modQuad v.quadKey (fun q => if q.tlb.contains t then q else { q with tlb := (t :: q.tlb).take 1024 })

/-- The cached translation of an address, if any: the micro-TLB's first (R363). -/
def State.cachedTlb (s : State) (v : Via) (root ea : Nat) : Option Tlb :=
  let micro : List Tlb := match v with | .core k => (s.coreAt k).utlb | .quad _ => []
  (micro ++ (s.quadAt v.quadKey).tlb).find? (·.covers root ea)

/-- A walk for an address has been made (R363, R387): it counts as a quad TLB miss, and reads its entries at their slices. -/
def State.walked (s : State) (v : Via) (root ea : Nat) : State :=
  (walkEntries s ea root walkLevels).foldl (fun s p => s.sliceFill p 16) (s.modQuad v.quadKey (·.count 0x104))

/-- An access of an address refused with a cause has made a walk (R170, R363). -/
def walkRefused (cause ea : Nat) : Bool :=
  (cause == cNO_PAGE || cause == cFETCH_NO_PAGE || cause == cWALK_ERROR) && decide (gaSpace ea = 0 ∨ 3 < gaSpace ea) &&
  bits ea 63 56 == 0

/-- The walk that ended in a trap is counted (R387). -/
def State.countWalk (s : State) (v : Via) (root cause : Nat) (tval : Option Word) : State :=
  match tval with
  | some w => if walkRefused cause w.toNat then s.walked v root w.toNat else s
  | none => s

/-- A translation from the TLBs, or from a walk that fills them (R363). -/
def lookup (s : State) (v : Via) (root ea : Nat) : Except WalkEnd (Tlb × State) :=
  match s.cachedTlb v root ea with
  | some t => .ok (t, if (match v with | .core k => (s.coreAt k).utlb.any (·.covers root ea) | .quad _ => true)
      then s else s.fillMicro v t)
  | none =>
    match walk s v.pkg root ea with
    | .ok t => .ok (t, (s.walked v root ea).fillTlb v t)
    | .error e => .error e

/-- An ea that names a pool byte directly (R170). -/
def isDirect (ea : Nat) : Bool := decide (1 ≤ gaSpace ea ∧ gaSpace ea ≤ 3)

/-- A translation that needs a walk waits while an entry's line is held (R376). -/
def State.walkWaits (s : State) (v : Via) (root ea : Nat) : Bool :=
  !isDirect ea && bits ea 63 56 == 0 && (s.cachedTlb v root ea).isNone &&
  (walkEntries s ea root walkLevels).any (fun p => s.lineHeld (lineOf p))

/-- The class under which an address is accessed; direct pool addresses behave as an SC page (R171). -/
def Phys.cls (p : Phys) : Cls := match p.page with | some t => t.cls | none => .sc
def Phys.dm (p : Phys) : Bool := match p.page with | some t => t.dm | none => false
def Tlb.pageGa (t : Tlb) : Nat := t.ga
def Phys.pageGa (p : Phys) : Nat := match p.page with | some t => t.pageGa | none => 0

/-- The package table entry of package q in package p, word 0 (R396). -/
def State.pkgEntry (s : State) (p q : Nat) : Nat := s.rdNat (p * 2 ^ 52 + 6 * 2 ^ 48 + 0x80000000 + 16 * q) 8

/-- Ports of package p in UP, as a mask (R393). -/
def State.portsUp (s : State) (p : Nat) : Nat :=
  (List.range 32).foldl (fun m k =>
    if ((s.pkgAt p).ports[k % 32]'(Nat.mod_lt _ (by decide))).st == .up then m + 2 ^ k else m) 0

/-- A package that has shut down does nothing (R385). -/
def State.lives (s : State) (pkg : Nat) : Bool := !(s.pkgAt pkg).off

/-- The package runs. -/
def State.pkgRuns (s : State) (pkg : Nat) : Bool := (s.pkgAt pkg).on && !(s.pkgAt pkg).off

/-- Entry e of an endpoint table: its address (R409). -/
def endpointAddr (table : List Byte) (e : Nat) : List Byte := (table.drop (32 * e)).take 16
/-- The endpoint index of an address; an entry of zeros is empty. -/
def endpointOf (table a : List Byte) : Option Nat :=
  (List.range (table.length / 32)).find? (fun e => endpointAddr table e == a && a.any (· != 0))

/-- The target takes a packet: its source is the endpoint that the target's entry of the issuing package names (R409). -/
def State.sourceOk (s : State) (pkg issuer : Nat) : Bool :=
  let w1 := s.rdNat (pkg * 2 ^ 52 + 6 * 2 ^ 48 + 0x80000000 + 16 * issuer + 8) 8
  endpointOf (s.pkgAt pkg).endpoints (Config.address issuer) == some (bits w1 15 0)

/-- A packet of a package has a way to another: a port of its PORTS mask in UP, and at the target one in UP (R395). -/
def State.pathOpen (s : State) (src dst : Nat) : Bool :=
  Nat.land (bits (s.pkgEntry src dst) 31 0) (s.portsUp src) != 0 && s.portsUp dst != 0

/-- The answer to an access of a core has a path: within the package, or on an UP port that the target's entry of the
issuing package names (R392). -/
def State.answerOpen (s : State) (core ga : Nat) : Bool :=
  gaPkg ga == corePkg core || !(s.pkgAt (gaPkg ga)).off && Nat.land (bits (s.pkgEntry (gaPkg ga) (corePkg core)) 31 0) (s.portsUp (gaPkg ga)) != 0

/-- An access of another package, made whole by a unit of a core, is performed and answered now: its packet has a way, is taken,
and its answer has a path (R392, R395, R409). -/
def State.farOpen (s : State) (core ga : Nat) : Bool :=
  gaPkg ga == corePkg core ||
  (s.pkgRuns (gaPkg ga) && s.pathOpen (corePkg core) (gaPkg ga) && s.sourceOk (gaPkg ga) (corePkg core) && s.answerOpen core ga)

/-- The checks of R397 on an address of another package, and of R171 and R404 on its space. -/
def spaceCheck (s : State) (mode : Mode) (core ga : Nat) : Except Nat Unit :=
  let own := corePkg core
  let e := s.pkgEntry own (gaPkg ga)
  let sp := gaSpace ga
  if gaPkg ga != own && !bit e 63 then .error cPKG_UNREACHABLE
  else if gaPkg ga != own && Nat.land (bits e 31 0) (s.portsUp own) == 0 then .error cLINK_DOWN
  else if sp == 4 || decide (7 ≤ sp) then .error cSPACE_BAD
  else if sp == 5 then .error cHOSTQ_DENIED
  else if sp == 6 && (mode == .u || gaPkg ga != own) then .error cPERM_DENIED
  else .ok ()

/-- The core holds the writer capability of an OW page (R284). -/
def State.holds (s : State) (core pageGa : Nat) : Bool :=
  match tfind (s.pkgAt (gaPkg pageGa)).caps pageGa with
  | some c => c.holder == some core
  | none => false

/-- The page is in a class change (R286). -/
def State.inReclass (s : State) (pageGa : Nat) : Bool := (tfind (s.pkgAt (gaPkg pageGa)).reclass pageGa).isSome

/-- The page's bits permit an access of one kind in a mode (R363). -/
def Tlb.permits (t : Tlb) (mode : Mode) (kind : Kind) : Bool :=
  (t.u || mode == .s) && (match kind with | .r => t.r | .w => t.w | .x => t.x)

/-- The checks on a page for one kind of access (R273, R284, R363). -/
def pageCheck (s : State) (mode : Mode) (core : Nat) (kind : Kind) (t : Tlb) : Except Nat Unit :=
  if !t.permits mode kind then
    .error (if kind == .x then cFETCH_PERM else cPERM_DENIED)
  else if t.cls == .cp && t.owner != core then .error cPERM_DENIED
  else if t.cls == .ow && kind == .w && !s.holds core t.pageGa then .error cOW_NOCAP
  else .ok ()

/-- Why an address gives no access: the cause, TVAL and TVAL2. -/
abbrev Refused := Nat × Nat × Option Nat

/-- Classify and translate an address (R170, R363): where it leads, whatever the access may do there. -/
def translate (s : State) (v : Via) (root : Nat) (kind : Kind) (ea : Nat) : Except Refused (Phys × State) :=
  let noPage := if kind == .x then cFETCH_NO_PAGE else cNO_PAGE
  if isDirect ea then
    if bits ea 43 40 > 11 ∨ bits ea 39 36 > 11 ∨ bits ea 33 19 ≠ 0 then .error (cNO_PAGE, ea, none)
    else .ok (⟨ea, ea, none⟩, s)
  else if bits ea 63 56 = 0 then
    match lookup s v root ea with
    | .error .noPage => .error (noPage, ea, none)
    | .error (.malformed p) => .error (cWALK_ERROR, ea, some p)
    | .ok (t, s') => .ok (⟨ea, t.ga + (ea - t.va), some t⟩, s')
  else .error (noPage, ea, none)

/-- The checks on where an address leads, page apart (R171, R397, R404). -/
def Phys.reach (p : Phys) (s : State) (mode : Mode) (core : Nat) : Except Refused Unit :=
  match spaceCheck s mode core p.ga with
  | .ok _ => .ok ()
  | .error c => .error (c, if p.page.isNone || (c == cPERM_DENIED && gaPkg p.ga == corePkg core) then p.ea else p.ga, none)

/-- The checks on an access of one kind (R171, R273, R284, R363, R397). -/
def Phys.check (p : Phys) (s : State) (mode : Mode) (core : Nat) (kind : Kind) : Except Refused Unit :=
  match p.page.map (pageCheck s mode core kind) with
  | some (.error c) => .error (c, p.ea, none)
  | _ => p.reach s mode core

/-- Translate and check an address for the agent of a core and root (R170, R171, R363). -/
def locate (s : State) (v : Via) (mode : Mode) (core root : Nat) (kind : Kind) (ea : Nat) : Except Refused (Phys × State) :=
  match translate s v root kind ea with
  | .error e => .error e
  | .ok (p, s') =>
    match p.check s' mode core kind with
    | .error e => .error e
    | .ok _ => .ok (p, s')

/-- The page is in a class change (R287). -/
def Phys.inReclass (p : Phys) (s : State) : Bool :=
  match p.page with | some t => s.inReclass t.pageGa | none => false

/-- The page is in a class change that began before the access or command of a number was issued: one issued earlier goes on,
and the change waits for it (R286, R287). -/
def Phys.blocked (p : Phys) (s : State) (id : Nat) : Bool :=
  match p.page with
  | some t => (match tfind (s.pkgAt (gaPkg t.pageGa)).reclass t.pageGa with | some r => decide (r.seq ≤ id) | none => false)
  | none => false

def refuse {α : Type} (e : Refused) : Act α := fault e.1 (some (word e.2.1)) (e.2.2.map word)

/-- Where a memory operand of the current context leads: translated, and not in a page whose class is changing: every
access to such a page waits at issue (R287). -/
def whereTo (kind : Kind) (ea : Nat) : Act Phys := do
  let s ← get
  let root := s.effPtroot s.ctx.rcb
  waitUntil (!s.walkWaits (.core s.core) root ea) .transition
  match translate s (.core s.core) root kind ea with
  | .error e => refuse e
  | .ok (p, s') =>
    waitUntil (!p.inReclass s') .transition
    set s'
    return p

/-- The checks of an access of one kind by the current context in a mode. -/
def checked (mode : Mode) (kind : Kind) (p : Phys) : Act Unit := do
  let s ← get
  match p.check s mode s.core kind with
  | .error e => refuse e
  | .ok _ => pure ()

/-- A memory operand of the current context in a mode: aligned (R172), translated, and checked. -/
def resolveAs (mode : Mode) (kind : Kind) (ea size : Nat) : Act Phys := do
  if ea % size ≠ 0 then fault cMISALIGNED (some (word ea))
  let p ← whereTo kind ea
  checked mode kind p
  return p

def resolve (kind : Kind) (ea size : Nat) : Act Phys := do resolveAs (← getCtx).mode kind ea size

/-- The page of an address that HANDOVER or RECLASS names: an access of no kind, so no permission of a kind and no owner
refuses it; U mode needs the U bit (R187, R188, R363; log entry 112). -/
def resolvePage (ea : Nat) : Act Phys := do
  let p ← whereTo .r ea
  if (← getCtx).mode == .u && (match p.page with | some t => !t.u | none => false) then refuse (cPERM_DENIED, ea, none)
  return p

/-! ### Lines -/

/-- A line's 64 bytes at its home. -/
def State.homeData (s : State) (line : Nat) : BitVec 512 := BitVec.ofNat 512 (s.rdNat line 64)

/-- Write the sectors of a mask (16 bytes each) of a line at its home (R269). -/
def State.writeSectors (s : State) (line : Nat) (data : BitVec 512) (mask : BitVec 4) : State :=
  (List.range 4).foldl (fun s k =>
    if mask.getLsbD k then s.wrNat (line + 16 * k) 16 (bits data.toNat (128 * k + 127) (128 * k)) else s) s

def Core.dropLine (c : Core) (line : Nat) : Core := { c with lines := c.lines.filter (·.addr != line) }
def Core.putLine (c : Core) (l : CchLine) : Core := { c with lines := l :: (c.dropLine l.addr).lines }

/-- Store n bytes into a line's image, marking the sectors dirty. -/
def CchLine.put (l : CchLine) (ga n x : Nat) : CchLine :=
  let d := putBits l.data.toNat (8 * (ga - l.addr)) (8 * n) x
  let dirty := (List.range 4).foldl (fun m k =>
    if decide ((ga - l.addr) / 16 ≤ k) && decide (k ≤ (ga - l.addr + n - 1) / 16) then m ||| (1#4 <<< k) else m) l.dirty
  { l with data := BitVec.ofNat 512 d, dirty := dirty }

/-- The key under which `errs` names a word of a core's own copy of a line (R386). -/
def copyKey (core ga : Nat) : Nat := 2 ^ 67 + core * 2 ^ 64 + ga
/-- Dirty data of a core's copy is uncorrectable (R386): an error in clean data only drops the line. -/
def State.copyBad (s : State) (core ga n : Nat) : Bool := s.bad (copyKey core ga) n

/-- Dirty sectors found bad at their write-back are not written, and wait to be reported (R386). -/
def State.loseBad (s : State) (core : Nat) (l : CchLine) : BitVec 4 × State :=
  let lost := (List.range 4).filter (fun k => l.dirty.getLsbD k && s.copyBad core (l.addr + 16 * k) 16)
  (lost.foldl (fun m k => m &&& ~~~(1#4 <<< k)) l.dirty,
    { s with errs := errsAfter s.errs (copyKey core l.addr) 64, ues := s.ues ++ lost.map (fun k => (core, l.addr + 16 * k)) })

/-- Return a core's copy of a line to its home: dirty sectors, and for HC the timestamps (R276, R283). The copy stays,
clean and no longer EXCLUSIVE. -/
def State.writeBack (s : State) (core line : Nat) : State :=
  match (s.coreAt core).findLine line with
  | none =>
    let h := s.homeAt line
    if h.owner == some core then s.setHome line { h with owner := none } else s
  | some l =>
    let (sound, s) := s.loseBad core l
    let s := s.writeSectors line l.data sound
    let h := s.homeAt line
    let s := if l.excl then
        s.setHome line { h with wts := max h.wts l.wts, rts := max h.rts l.rts,
                                owner := if h.owner == some core then none else h.owner }
      else s
    s.modCore core (·.putLine { l with dirty := 0, excl := false })

end Sys2Proof.Machine
end

