-- ==== Sys2Proof/Machine/Pool.lean ====
section
/-! DEFINITION. The bank pool as memory: roles, tiles over its bytes, views and the register space (R101 to R120). -/

namespace Sys2Proof.Machine

/-- The bytes of a tile (R102, R117). -/
def tileBytesOf (f : Fmt) (cols : Nat) : Nat := 32 * cols * f.width / 8
def Tile.cols (t : Tile) : Nat := if t.wide then 64 else 32
def Tile.bytes (t : Tile) : Nat := tileBytesOf t.fmt t.cols
/-- Bytes of a row of a MAT or SCR tile (R117). -/
def Tile.rowBytes (t : Tile) : Nat := t.bytes / 32
/-- Bytes of a column of a CSM tile. -/
def Tile.colBytes (t : Tile) : Nat := 32 * t.fmt.width / 8

/-- The bytes of a memory row of a tile: COLS elements, 64 for CSM (R224). -/
def Tile.memRow (t : Tile) : Nat := (if t.role == .csm || t.wide then 64 else 32) * t.fmt.width / 8

def TileRole.code : TileRole → Nat | .mat => 0 | .scr => 1 | .csm => 2
def TileState.code : TileState → Nat | .empty => 0 | .filling => 1 | .ready => 2 | .draining => 3

/-- The bytes [off, off + n) of a pool space (1 SCR, 3 CSM; 0 stands for the register space) touch a tile. -/
def Tile.covers (t : Tile) (space off n : Nat) : Bool :=
  match t.role with
  | .mat => space == 0 && overlap (0x40000 + t.base) t.bytes off n
  | .scr => space == 1 && overlap t.base t.bytes off n
  | .csm => space == 3 && overlap t.base t.colBytes (off % 0x2000) n

/-- Bytes that a pool move takes away or is about to add: accesses to them wait (R115). -/
def Core.moving (c : Core) (r : Role) (off n : Nat) : Bool :=
  match c.move with
  | none => false
  | some m =>
    (m.give == r && overlap ((c.bankCount r - m.n) * 0x2000) (m.n * 0x2000) off n) ||
    (m.gain == r && overlap (c.bankCount r * 0x2000) (m.n * 0x2000) off n)

/-- A pool offset lies within its role (R107). -/
def Core.inRole (c : Core) (space off n : Nat) : Bool :=
  match space with
  | 1 => decide (off + n ≤ c.bankCount .scr * 0x2000)
  | 2 => decide (off + n ≤ c.bankCount .msg * 0x2000)
  | _ => decide (off + n ≤ 0x80000)

/-- An access to pool bytes waits: a move, a FILLING tile, or, for a store, a tile being read (R115, R120). Of the readers of
tile k, `own` lists it once for each that does not count: an X entry's write does not wait for its own context's entries,
which stand behind it (R89). -/
def Core.poolWaits (c : Core) (space off n : Nat) (store : Bool) (own : List Nat := []) : Bool :=
  (space == 1 && c.moving .scr off n) || (space == 2 && c.moving .msg off n) ||
  c.tiles.any (fun t => t.2.covers space off n &&
    (t.2.state == .filling || (store && (t.2.state == .draining || decide (own.count t.1 < t.2.readers)))))

/-- The register-space byte of v register k (R102). -/
def Core.vOff (c : Core) (k : Nat) : Nat := 32 * c.vwv.base + 32 * k
/-- The register-space byte of accumulator k (R102). -/
def Core.zOff (c : Core) (k : Nat) : Nat := 32 * c.vwz.base + 0x2000 * k

def State.readReg (s : State) (core off n : Nat) : Nat := s.rdNat (regSpaceKey core off) n
def State.writeReg (s : State) (core off n x : Nat) : State := s.wrNat (regSpaceKey core off) n x

/-- v register k of a core, as a value. -/
def State.readV (s : State) (core k : Nat) : V256 := BitVec.ofNat 256 (s.readReg core ((s.coreAt core).vOff k) 32)
def State.writeV (s : State) (core k : Nat) (v : V256) : State :=
  s.writeReg core ((s.coreAt core).vOff k) 32 v.toNat

/-- Element j of row i of accumulator k under VWZ.SHAPE: FP32 32 × 64 or FP64 32 × 32, rows 256 bytes apart (R102). -/
def State.readZ (s : State) (core k i j : Nat) : Nat :=
  let c := s.coreAt core
  if c.vwz.shape = 0 then s.readReg core (c.zOff k + 256 * i + 4 * j) 4
  else s.readReg core (c.zOff k + 256 * i + 8 * j) 8
def State.writeZ (s : State) (core k i j x : Nat) : State :=
  let c := s.coreAt core
  if c.vwz.shape = 0 then s.writeReg core (c.zOff k + 256 * i + 4 * j) 4 x
  else s.writeReg core (c.zOff k + 256 * i + 8 * j) 8 x

/-- The memory key of byte b of line r of a tile: row r of a MAT or SCR tile, column r of a CSM tile (R117). -/
def tileKey (core : Nat) (t : Tile) (r b : Nat) : Nat :=
  match t.role with
  | .mat => regSpaceKey core (0x40000 + t.base + r * t.rowBytes + b)
  | .scr => poolAddr 1 core (t.base + r * t.rowBytes + b)
  | .csm => poolAddr 3 core (r * 0x2000 + t.base + b)

/-- Element e of line r of a tile (4-bit elements two to a byte, R131). -/
def State.readTileLine (s : State) (core : Nat) (t : Tile) (r e : Nat) : Nat :=
  if t.fmt = .m4 then bits (s.rdNat (tileKey core t r (e / 2)) 1) (4 * (e % 2) + 3) (4 * (e % 2))
  else s.rdNat (tileKey core t r (e * t.fmt.width / 8)) (t.fmt.width / 8)
def State.writeTileLine (s : State) (core : Nat) (t : Tile) (r e x : Nat) : State :=
  if t.fmt = .m4 then
    let k := tileKey core t r (e / 2)
    s.wrNat k 1 (putBits (s.rdNat k 1) (4 * (e % 2)) 4 x)
  else s.wrNat (tileKey core t r (e * t.fmt.width / 8)) (t.fmt.width / 8) x

/-- Element (r, c) of a tile: row r, column c. -/
def State.readTile (s : State) (core : Nat) (t : Tile) (r c : Nat) : Nat :=
  if t.role = .csm then s.readTileLine core t c r else s.readTileLine core t r c
def State.writeTile (s : State) (core : Nat) (t : Tile) (r c x : Nat) : State :=
  if t.role = .csm then s.writeTileLine core t c r x else s.writeTileLine core t r c x

def Core.setTile (c : Core) (n : Nat) (f : Tile → Tile) : Core :=
  match tfind c.tiles n with
  | some t => { c with tiles := tset c.tiles n (f t) }
  | none => c

/-- The logical REG banks a view touches: the rename reserve counts them (R106). -/
def viewBytes (which : Nat) (v : View) : Nat × Nat :=
  if v.count = 0 then (0, 0)
  else match which with
    | 0 => (32 * v.base, 32 * v.count)
    | 1 => (32 * v.base, v.count * tileBytesOf (match v.shape with
        | 1 => .f64 | 2 => .f32 | 3 => .f16 | 4 => .bf16 | 5 => .e4m3 | 6 => .e5m2 | 7 => .m4 | _ => .i8) 32)
    | _ => (32 * v.base, 0x2000 * v.count)

def Core.views (c : Core) : List (Nat × Nat) := [viewBytes 0 c.vwv, viewBytes 1 c.vwt, viewBytes 2 c.vwz]

/-- How many logical REG banks a list of byte ranges touches. -/
def regFootprint (l : List (Nat × Nat)) : Nat :=
  ((List.range 32).filter (fun b => l.any (fun r => overlap r.1 r.2 (b * 0x2000) 0x2000))).length

/-- A live view reaches a logical bank of REG or MAT at or above a count. -/
def viewsReach (l : List (Nat × Nat)) (r : Role) (bank : Nat) : Bool :=
  match r with
  | .reg => l.any (fun v => overlap v.1 v.2 (bank * 0x2000) (0x40000 - bank * 0x2000))
  | .mat => l.any (fun v => overlap v.1 v.2 (0x40000 + bank * 0x2000) (0x40000 - bank * 0x2000))
  | _ => false

/-- The minimum and maximum of a role (R107); MAT and CCH may also hold none. -/
def roleMin (c : Core) (r : Role) (n : Nat) : Bool :=
  match r with
  | .reg => decide (2 ≤ n)
  | .mat => n == 0 || decide (8 ≤ n)
  | .scr => decide (ceilDiv c.scrhwm 0x2000 ≤ n)
  | .msg => true
  | .cch => n == 0 || decide (4 ≤ n)
def roleMax (r : Role) : Nat := match r with | .reg => 32 | .mat => 32 | _ => 64

/-- The declared occupancy of MSG in banks: every ring's size rounded up to 32 bytes (R112). -/
def ringBytes (r : Ring) : Nat := (r.size * r.depth + 31) / 32 * 32
def Core.msgBytes (c : Core) : Nat :=
  (c.binds.map (fun b => ((b.2.ins ++ b.2.outs).map ringBytes).sum)).sum
def Core.msgBanks (c : Core) : Nat := ceilDiv c.msgBytes 0x2000

/-- Address of entry k of a ring in the MSG role of a core (R72). -/
def ringEntry (core : Nat) (r : Ring) (k : Nat) : Nat := poolAddr 2 core (r.base + (k % max r.depth 1) * r.size)

end Sys2Proof.Machine
end

