-- ==== Sys2Proof/Machine/Txn.lean ====
section
/-! DEFINITION. Accesses under way: posting, performing at a pool, a home, a mailbox or a merge unit, and
acknowledging (R171 to R181, R270 to R292, R295 to R299, R312, R374 to R376, R392). -/

namespace Sys2Proof.Machine

/-- What an operation stores over an old value, if it stores. -/
def TxnOp.stores (op : TxnOp) (old : Nat) : Option Nat :=
  match op with
  | .store data => some (natOfBytes data)
  | .amo o f rm v _ => some (amoApply o f rm.toNat old (valOf f v)).1
  | .amoU o f v => some (amoApply o f 0 old (valOf f v)).1
  | .cas f e v => if old = valOf f e then some (valOf f v) else none
  | .casw e v => if old = e.1.toNat + e.2.toNat * 2 ^ 64 then some (v.1.toNat + v.2.toNat * 2 ^ 64) else none
  | _ => none

def TxnOp.isLoad : TxnOp → Bool | .load => true | .fill => true | _ => false

/-- Where a posted write is counted (R178). -/
def countFor (core ga : Nat) : Count :=
  if gaPkg ga ≠ corePkg core then .sys
  else if 1 ≤ gaSpace ga ∧ gaSpace ga ≤ 3 ∧ clusterOf (gaCore ga) = clusterOf core then .clu
  else .pkg

/-- Start an access of a context under a number; a counted one takes a posted-table entry (R178). The caller has found
room. -/
def State.launchAs (s : State) (id : Nat) (t : Txn) : State :=
  let s := { s with txns := tset s.txns id { t with sent := s.now } }
  match t.count with
  | none => s
  | some k => s.modCtxOf t.core t.fc (fun c =>
      { (c.addCount k 1) with posted := c.posted ++ [⟨id, t.ga, t.size, k⟩] })

/-- Start an access of a context under the next number. -/
def State.launch (s : State) (t : Txn) : State :=
  ({ s with nextId := s.nextId + 1 } : State).launchAs s.nextId t

def newTxn (s : State) (op : TxnOp) (target : Target) (ga size : Nat) (page : Nat := 0) : Txn :=
  { core := s.core, fc := s.fc % 4, rcb := s.ctx.rcb, op := op, target := target, ga := ga, ea := ga, size := size, page := page, dest := .none, count := none,
    acq := false, stage := .travelling, value := [], cts := s.ctx.cts, lease := (0, 0), priv := s.ctx.mode == .s, sent := s.now, rest := [],
    pc := s.ctx.pc, act := s.ctx.firing.bind (·.act) }

/-- Wait for room in the posted-store table (R178); not a stall point. -/
def needPosted (n : Nat := 1) : Act Unit := do
  waitUntil (decide ((← getCtx).posted.length + n ≤ 64)) .memory

/-- Post a counted write of the current context. -/
def post (op : TxnOp) (target : Target) (ga size : Nat) (page : Nat := 0) : Act Unit := do
  needPosted
  modify fun s => s.launch { newTxn s op target ga size page with count := some (countFor s.core ga) }

def State.setTxn (s : State) (id : Nat) (t : Txn) : State := { s with txns := tset s.txns id t }
def State.dropTxn (s : State) (id : Nat) : State := { s with txns := tdel s.txns id }

/-- The transactions of a context. -/
def State.ownTxns (s : State) (core fc : Nat) : Table Txn :=
  s.txns.filter (fun t => t.2.core == core && t.2.fc == fc % 4)

/-! ### Mailboxes -/

/-- A mailbox name: its core and number (R310). -/
def mailboxName (w : Nat) : Option (Nat × Nat) :=
  if gaSpace w = 2 ∧ bits w 33 5 = 0 ∧ coordOk (bits w 47 34) then some (gaCore w, bits w 4 0) else none

/-- Entry word 0 (R310): sender package, coordinate word and context, payload count, mailbox. -/
def entryWord0 (core fc n mbx : Nat) : Nat :=
  corePkg core * 2 ^ 52 + coreCoord core * 2 ^ 34 + (fc % 4) * 2 ^ 32 + n * 2 ^ 24 + mbx

/-- A message entry of eight words (R310). -/
def messageEntry (w0 : Nat) (payload : List Word) : List Word :=
  (word w0 :: payload ++ List.replicate 7 0).take 8

/-- The handler of a mailbox with a message that no firing has taken becomes ready (R64, R309). -/
def Core.wakeHandler (c : Core) (mb : Mailbox) (now : Nat) : Core :=
  match tfind c.binds mb.slot with
  | some b => if b.life == .idle && !mb.taken && !mb.msgs.isEmpty then
      { c with binds := tset c.binds mb.slot { b with life := .ready, since := now } } else c
  | none => c

inductive Delivery
  | refused | appended | held
  deriving DecidableEq, Repr

/-- Deliver an entry to a mailbox (R312): refused when unbound or its region is KILLED (R351), held when full, else
appended. -/
def State.deliver (s : State) (core m : Nat) (entry : List Word) (txn : Option Nat) : Delivery × State :=
  let c := s.coreAt core
  let killed := match c.region with | some r => s.rcbState r == 4 | none => false
  match (if killed then none else tfind c.mailboxes m) with
  | none => (.refused, s)
  | some mb =>
    if mb.msgs.length < mb.depth ∧ mb.held.isEmpty then
      let mb := { mb with msgs := mb.msgs ++ [entry] }
      (.appended, s.setCore core (({ c with mailboxes := tset c.mailboxes m mb } : Core).wakeHandler mb s.now))
    else
      (.held, s.setCore core
        { c with mailboxes := tset c.mailboxes m { mb with held := mb.held ++ [⟨txn, entry⟩] } })

/-- Append the oldest held entry of a mailbox that has room (R312); its transaction is then done. -/
def State.appendHeld (s : State) (core m : Nat) : State :=
  let c := s.coreAt core
  match tfind c.mailboxes m with
  | none => s
  | some mb =>
    match mb.held with
    | [] => s
    | h :: rest =>
      if mb.msgs.length < mb.depth then
        let mb := { mb with msgs := mb.msgs ++ [h.entry], held := rest }
        let s := s.setCore core (({ c with mailboxes := tset c.mailboxes m mb } : Core).wakeHandler mb s.now)
        match h.txn with
        | some id =>
          match tfind s.txns id with
          | some t => s.setTxn id { t with stage := .done }
          | none => s
        | none => s
      else s

/-! ### Merge units -/

/-- Lines of one region that a site holds in line buffers: not spilled (R375). -/
def bufferedLines (es : List DmEntry) (site : Nat) : List Nat :=
  ((es.filter (fun e => siteOf e.ga == site && !e.spilled)).map (fun e => lineOf e.ga)).dedup

/-- Store a DM entry at its merge unit (R374, R375): in the line's buffer, or in the spill log when no buffer is free
or the line already has 16 held entries or has spilled. False when the log is full. The entries of two regions to one line
are kept apart, each in a buffer of its own (R379). -/
def mergeEntry (all : List (List DmEntry)) (own : List DmEntry) (e : DmEntry) : List DmEntry × Bool :=
  let line := lineOf e.ga
  let site := siteOf e.ga
  let here := own.filter (fun x => lineOf x.ga == line)
  let spilledHere := here.any (·.spilled)
  let logged := (all.flatten.filter (fun x => siteOf x.ga == site && x.spilled)).length
  let buffers := (all.map (fun es => (bufferedLines es site).length)).sum
  let noBuffer := !(bufferedLines own site).contains line && decide (1024 ≤ buffers)
  if spilledHere || (here.isEmpty && noBuffer) then
    if 2 ^ 20 ≤ logged then (own, false) else (own ++ [{ e with spilled := true }], true)
  else if 16 ≤ here.length then
    if 2 ^ 20 < logged + 17 then (own, false)
    else (own.map (fun x => if lineOf x.ga == line then { x with spilled := true } else x) ++
      [{ e with spilled := true }], true)
  else (own ++ [{ e with spilled := false }], true)

/-! ### Performing at a pool -/

/-- The region condition on a pool access (R171, R397): the same region-tree root, or for another package a bound
target and the POOL bit. -/
def State.poolAllowed (s : State) (core rcb target : Nat) : Bool :=
  match (s.coreAt target).region with
  | none => false
  | some r =>
    if corePkg target = corePkg core then rootOf s 4096 r == rootOf s 4096 rcb
    else bit (s.pkgEntry (corePkg target) (corePkg core)) 62

/-- The bytes of an operation's access and what it leaves: the state after, the value read (old), and for a zero-fire
counter whether it went from non-zero to zero (R298). -/
def State.applyOp (s : State) (key size : Nat) (op : TxnOp) : State × Nat × Bool :=
  let old := s.rdNat key size
  match op.stores old with
  | none => (s, old, false)
  | some new =>
    let fired := match op with
      | .amo _ _ _ _ zf => zf && old != 0 && new == 0
      | _ => false
    (s.wrNat key size new, old, fired)

/-- A copy on which its core performs its stores and atomics: EXCLUSIVE, or of a page the core holds alone (R275, R283,
R284). -/
def CchLine.performs (l : CchLine) : Bool := l.excl || l.cls == Cls.cp || l.cls == Cls.ow

/-- Word 1 of a zero-fire cell as its counter's point of performance holds it: in the core's own copy of the line where it
performs stores there, else at the home or in the pool (R295, R298). -/
def State.wakeWord (s : State) (core ga : Nat) : Nat :=
  match ((s.coreAt core).findLine (lineOf ga)).filter CchLine.performs with
  | some l => l.get (ga + 8) 8
  | none => s.rdNat (ga + 8) 8

/-- The package a transaction comes from: that of its core, or for a wake that of its cell (R298, R391). -/
def Txn.source (t : Txn) : Nat := match t.cell with | some ga => gaPkg ga | none => corePkg t.core
/-- It has still to be performed on the n bytes at ga, in its part under way or in a later one. -/
def Txn.opens (t : Txn) (ga n : Nat) : Bool :=
  (overlap t.ga t.size ga n && (t.stage == .travelling || t.stage == .granted)) ||
  t.rest.any (fun r => overlap r.ga r.data.length ga n)
/-- The target was reached by a translation of one of these pages, whose base may be 0. -/
def Target.through (t : Target) (page : Nat) (pages : List Nat) : Bool :=
  pages.contains page && (page != 0 || (match t with | .dram _ => true | .merge => true | _ => false))
/-- It has still to be performed through a translation of one of these pages (R364). -/
def Txn.opensPage (t : Txn) (pages : List Nat) : Bool :=
  (t.target.through t.page pages && (t.stage == .travelling || t.stage == .granted)) ||
  t.rest.any (fun r => r.target.through r.page pages)

/-- Send the wake of a zero-fire cell (R298): word 1 of the cell names the mailbox, and the payload is the counter's ga. The
access that brought the counter to zero goes on as the wake, and its own target acknowledges it when the mailbox has
accepted it; a wake of another package is a packet (R391). The sender fields name the core and context of the access that
brought the counter to zero (log entry 145). -/
def State.zeroFire (s : State) (id : Nat) (t : Txn) : State :=
  let name := s.wakeWord t.core t.ga
  match mailboxName name with
  | none => s.setTxn id { t with stage := .failed cMBX_UNBOUND }
  | some (k, m) =>
    let entry := messageEntry (entryWord0 t.core t.fc 1 m) [word t.ga]
    if corePkg k ≠ gaPkg t.ga then
      s.setTxn id { t with
        op := .message entry, target := .mailbox, ga := name, ea := name, size := 64, stage := .travelling, sent := s.now,
        cell := some t.ga }
    else
      match s.deliver k m entry (some id) with
      | (.refused, s) => s.setTxn id { t with stage := .failed cMBX_UNBOUND }
      | (.appended, s) => s.setTxn id { t with stage := .done }
      | (.held, s) => s.setTxn id { t with stage := .held }

/-- The end of an access performed at its target: a zero-fire counter that has reached zero sends its wake first. -/
def State.performed (s : State) (id : Nat) (t : Txn) (fired : Bool) : State :=
  if fired then s.zeroFire id t else s.setTxn id { t with stage := .done }

/-- REMOTE_ACCESS_PERFORM: an access to another core's pool is performed at its bank, one at a time (R171, R295). -/
def State.performPool (s : State) (id : Nat) (t : Txn) : State :=
  let k := gaCore t.ga
  let c := s.coreAt k
  let sp := gaSpace t.ga
  if !s.poolAllowed t.core t.rcb k then s.setTxn id { t with stage := .failed cPERM_DENIED }
  else if c.poolWaits sp (gaOff t.ga) t.size (!t.op.isLoad) then s
  else if !c.inRole sp (gaOff t.ga) t.size then s.setTxn id { t with stage := .failed cPOOL_RANGE }
  else if s.bad t.ga t.size && !(match t.op with | .store _ => true | _ => false) then
    s.setTxn id { t with stage := .failed cMACHINE_UE }
  else
    let (s, old, fired) := s.applyOp t.ga t.size t.op
    s.performed id { t with value := bytesOf t.size old } fired

/-! ### Performing at a home -/

/-- A request waits at the home for an engine's claim (R288): not the claim's own, and not one that the same context issued
before the command, which its own order puts first (R175; log entry 117). -/
def State.claimed (s : State) (line : Nat) (me : Claim) : Bool :=
  match (s.homeAt line).claims with
  | [] => false
  | c :: _ => c.id != me.id && !(c.core == me.core && c.fc % 4 == me.fc % 4 && decide (me.id < c.id))

/-- Claims in the order of issue. -/
def insertClaim (c : Claim) : List Claim → List Claim
  | [] => [c]
  | d :: l => if c.id = d.id then d :: l else if c.id < d.id then c :: d :: l else d :: insertClaim c l

/-- An engine claims a line, behind the claims of earlier commands (R288). -/
def State.addClaim (s : State) (line : Nat) (c : Claim) : State :=
  let h := s.homeAt line
  s.setHome line { h with claims := insertClaim c h.claims }

/-- An engine has written the line, or will not (R288). -/
def State.dropClaim (s : State) (line id : Nat) : State :=
  let h := s.homeAt line
  if h.claims.any (·.id == id) then s.setHome line { h with claims := h.claims.filter (·.id != id) } else s

/-- A lease of an HC line is renewed at its home (R275, R387). -/
def State.renewed (s : State) (line : Nat) (hc : Bool) : State :=
  if hc then s.modQuad (homeQuad line) (·.count 0x102) else s

/-- A replica takes a way of the core's own slice (R269, R280): of at most 4 in its set, and of no home line's. -/
def State.keepReplica (s : State) (quad : Nat) (l : CchLine) : State :=
  let q := s.quadAt quad
  let set := sliceSet l.addr
  let q := { q with replicas := q.replicas.filter (·.addr != l.addr) }
  let rs := (q.replicas.filter (sliceSet ·.addr == set)).length
  let homes := (q.homeLines.filter (sliceSet ·.1 == set)).length
  if rs < 4 ∧ rs + homes < 16 then s.modQuad quad (fun _ => { q with replicas := l :: q.replicas })
  else if rs = 0 then s.modQuad quad (fun _ => q)
  else
    let q := q.dropNth set (homes + Config.victim rs s.fresh % rs)
    { (s.modQuad quad (fun _ => { q with replicas := l :: q.replicas })) with fresh := s.fresh + 1 }

/-- Merge one core's U delta of a line into the line at its home (R291). -/
def State.mergeDelta (s : State) (core line : Nat) : State :=
  match (s.coreAt core).ulines.find? (·.addr == line) with
  | none => s
  | some u =>
    let n := Fmt.width u.fmt / 8
    let s := u.deltas.foldl (fun s d =>
      s.wrNat (line + d.1) n (amoApply u.op u.fmt 0 (s.rdNat (line + d.1) n) d.2).1) s
    s.modCore core (fun c => { c with ulines := c.ulines.filter (·.addr != line) })

/-- The delta of one U copy arrives at the home and is merged (R291): any of them. The merged line is a new write above every
lease given (R275). -/
def State.recallOneU (s : State) (line : Nat) : State :=
  let h := s.homeAt line
  match h.us[Config.victim h.us.length s.fresh % h.us.length]? with
  | none => s
  | some k =>
    let s := s.mergeDelta k line
    { (s.setHome line { h with us := h.us.erase k, wts := h.rts + 1, rts := h.rts + 1 }) with fresh := s.fresh + 1 }

/-- Every U copy of a line is recalled and merged, in any order of arrival (R291). -/
def State.recallU (s : State) (line : Nat) : State :=
  (s.homeAt line).us.foldl (fun s _ => s.recallOneU line) s

/-- HC_RECALL: the EXCLUSIVE owner returns the line (R276). -/
def State.recallHc (s : State) (line : Nat) : State :=
  match (s.homeAt line).owner with
  | some k => s.writeBack k line
  | none => s

/-- A granted line of this core has not landed yet. -/
def State.grantPending (s : State) (core line id : Nat) : Bool :=
  s.txns.any (fun t => t.1 != id && t.2.core == core && lineOf t.2.ga == line && t.2.stage == .granted)

/-- An earlier access of the same context to the same bytes has not been performed (R175). -/
def State.earlierPending (s : State) (id : Nat) (t : Txn) : Bool :=
  s.txns.any (fun u => decide (u.1 < id) && u.2.core == t.core && u.2.fc == t.fc &&
    overlap u.2.ga u.2.size t.ga t.size && (u.2.stage == .travelling || u.2.stage == .granted))

/-- LEASE; 0 is read as 1 (R281). -/
def Core.leaseOf (c : Core) : Nat := max 1 c.lease.toNat

def Txn.isU (t : Txn) : Bool := match t.op with | .amoU _ _ _ => true | _ => false

/-- The state of a line that a request would need recalled first: an EXCLUSIVE owner other than the requester's own core,
or any owner before an engine's access or a grant of U; or U copies (R275, R288, R290, R291). -/
def State.needsRecall (s : State) (t : Txn) : Bool :=
  let h := s.homeAt (lineOf t.ga)
  (match h.owner with | some k => k != t.core || t.engine || t.isU | none => false) || (!h.us.isEmpty && !t.isU)

/-- An earlier request of the line waits for its U copies: a new one for U waits behind it (R270, R291). -/
def State.recallAhead (s : State) (id : Nat) (t : Txn) : Bool :=
  t.isU && !(s.homeAt (lineOf t.ga)).us.isEmpty && s.txns.any (fun u => decide (u.1 < id) && !u.2.isU &&
    lineOf u.2.ga == lineOf t.ga && u.2.stage == .travelling && (match u.2.target with | .dram _ => true | _ => false))

/-- A context's timestamp for a store at a line's home (R275, R398): above every lease given. -/
def storeStamp (cts rts : Nat) : Nat := max cts (rts + 1)

/-- Whether a core caches lines of a class it may hold (R271, R272, R284, R398). -/
def State.caches (s : State) (core : Nat) (cls : Cls) (ga pageGa : Nat) : Bool :=
  decide (gaPkg ga = corePkg core) && decide (gaSpace ga = 0) && decide (0 < (s.coreAt core).bankCount .cch) &&
  (match cls with | .ow => s.holds core pageGa | _ => true)

/-- A store or atomic performed at an SC line's home also updates its bytes in the issuing core's own copy (R282). -/
def State.updateCopy (s : State) (core ga n : Nat) : State :=
  match (s.coreAt core).findLine (lineOf ga) with
  | some l => if l.cls == Cls.sc then s.modCore core (·.putLine { l.put ga n (s.rdNat ga n) with dirty := l.dirty }) else s
  | none => s

/-- An AMO.U performed at the home, as of a core that takes no U copy (R271, R290): on an HC line it has a store's timestamp,
which an access of another package does not return to its context (R398). -/
def State.updateAtHome (s : State) (id : Nat) (t : Txn) (cls : Cls) : State :=
  let line := lineOf t.ga
  let h := s.homeAt line
  let foreign := decide (gaPkg t.ga ≠ corePkg t.core)
  let stamp := storeStamp (if foreign then h.rts else t.cts) h.rts
  let s := if cls == Cls.hc then s.setHome line { h with wts := stamp, rts := stamp } else s
  ((s.applyOp t.ga t.size t.op).1.updateCopy t.core t.ga t.size).setTxn id
    { t with stage := .done, cts := if cls == Cls.hc && !foreign then stamp else t.cts }

/-- The home decides one request (R270, R275, R282 to R284, R288, R290, R376). It waits for a claim, a held DM line and
recalls; then it serves the access at the home, or grants the line to a core that caches it; an engine's claim ends with the
access. Uncorrectable data is refused, and its line is not cached (R386). -/
def State.homeDecide (s : State) (id : Nat) (t : Txn) (cls : Cls) : State :=
  let line := lineOf t.ga
  if s.claimed line ⟨id, t.core, t.fc⟩ || s.lineHeld line || s.needsRecall t || s.recallAhead id t ||
    s.grantPending t.core line id || s.earlierPending id t then s
  else
    let cached := !t.engine && s.caches t.core cls t.ga t.page && !s.bad line 64
    let s := (s.dropClaim line id).sliceFill (if cached then line else t.ga) (if cached then 64 else t.size)
    let h := s.homeAt line
    let lease := (s.coreAt t.core).leaseOf
    let foreign := decide (gaPkg t.ga ≠ corePkg t.core)
    let cts := if foreign then h.rts else t.cts
    let data := bytesOf 64 (s.rdNat line 64)
    let reads := match t.op with | .store _ => false | .flush _ => false | _ => true
    if reads && s.bad t.ga t.size then s.setTxn id { t with stage := .failed cMACHINE_UE }
    else match t.op with
    | .amoU _ _ _ =>
      if cached && (cls == Cls.hc || cls == Cls.sc) then
        (s.setHome line { h with us := if h.us.contains t.core then h.us else h.us ++ [t.core] }).setTxn id
          { t with stage := .granted }
      else
        s.updateAtHome id t cls
    | op =>
      if op.isLoad then
        let h' := if cls == Cls.hc then { h with rts := max h.rts (max (cts + lease) (h.wts + lease)) } else h
        let s := (s.setHome line h').renewed line (cls == Cls.hc)
        let t := { t with cts := if cls == Cls.hc && !foreign then max t.cts h'.wts else t.cts }
        if cached then s.setTxn id { t with stage := .granted, value := data, lease := (h'.wts, h'.rts) }
        else s.setTxn id { t with stage := .done, value := bytesOf t.size (s.rdNat t.ga t.size) }
      else if cached && cls != Cls.sc then
        let s := if cls == Cls.hc then s.setHome line { h with owner := some t.core } else s
        s.setTxn id { t with stage := .granted, value := data }
      else
        let stamp := storeStamp cts h.rts
        let s := if cls == Cls.hc then s.setHome line { h with wts := stamp, rts := stamp } else s
        let (s, old, fired) := s.applyOp t.ga t.size op
        let s := if t.engine then s else s.updateCopy t.core t.ga t.size
        s.performed id { t with value := bytesOf t.size old, cts := if cls == Cls.hc && !foreign then stamp else t.cts } fired

/-- A line leaves a core's CCH (R280, R283): dirty sectors go home; an HC line homed on another die becomes a replica in
the quad's slice while REPEN is 1. -/
def State.evict (s : State) (core : Nat) (l : CchLine) : State :=
  let s := s.writeBack core l.addr
  let s := s.modCore core (·.dropLine l.addr)
  if l.cls == Cls.hc && (s.coreAt core).repen && decide (dieOf l.addr ≠ coreDie core) then
    s.keepReplica (quadOf core) { l with dirty := 0, excl := false }
  else s

/-- The lines the CCH role can take: 128 to a bank that does not depart (R114, R115). -/
def Core.cchRoom (c : Core) : Nat :=
  (c.bankCount .cch - (match c.move with | some m => if m.give == .cch then m.n else 0 | none => 0)) * 128

/-- An evicted U copy sends its delta home (R291). -/
def State.evictU (s : State) (core line : Nat) : State :=
  let s := s.mergeDelta core line
  let h := s.homeAt line
  s.setHome line { h with us := h.us.erase core, wts := h.rts + 1, rts := h.rts + 1 }

/-- The CCH role has room for a line: a full one evicts another, of either kind. Which one is free. -/
def State.makeRoom (s : State) (core line : Nat) : State :=
  let c := s.coreAt core
  let others := c.lines.filter (·.addr != line)
  let us := c.ulines.filter (·.addr != line)
  let n := others.length + us.length
  if n < c.cchRoom then s
  else
    let k := Config.victim n s.fresh % n
    let s : State := { s with fresh := s.fresh + 1 }
    match others[k]?, us[k - others.length]? with
    | some v, _ => s.evict core v
    | none, some u => s.evictU core u.addr
    | none, none => s

/-- Put a line into the CCH role (R115). -/
def State.install (s : State) (core : Nat) (l : CchLine) : State :=
  let s := (s.makeRoom core l.addr).modCore core (·.putLine l)
  if (s.coreAt core).cchRoom = 0 then s.evict core l else s

/-- Apply an operation to a line image a core may write, with the timestamp rule of R275 for HC; an atomic that stores
nothing takes its place with a timestamp as for a store (R297). -/
def lineOp (l : CchLine) (cts ga size : Nat) (op : TxnOp) : CchLine × Nat × Nat × Bool :=
  let old := l.get ga size
  match op.stores old with
  | none =>
    if l.cls == Cls.hc && !op.isLoad then
      let t := storeStamp cts l.rts
      ({ l with wts := t, rts := t }, old, t, false)
    else if l.excl then ({ l with rts := max l.rts cts }, old, max cts l.wts, false)
    else (l, old, max cts l.wts, false)
  | some new =>
    let fired := match op with | .amo _ _ _ _ zf => zf && old != 0 && new == 0 | _ => false
    let l := l.put ga size new
    if l.cls == Cls.hc then
      let t := storeStamp cts l.rts
      ({ l with wts := t, rts := t }, old, t, fired)
    else (l, old, cts, fired)

/-- A granted line lands (R269, R272, R275): it is placed in the CCH role and the waiting access is performed on it. A load
of an OW page whose capability has left the core meanwhile caches nothing (R284). -/
def State.landLine (s : State) (id : Nat) (t : Txn) (cls : Cls) (excl : Bool) : State :=
  let line := lineOf t.ga
  let h := s.homeAt line
  let s := if excl then s.setHome line { h with owner := some t.core } else s
  let data := if excl then s.homeData line else BitVec.ofNat 512 (natOfBytes t.value)
  let (wts, rts) := if excl then (h.wts, h.rts) else t.lease
  let l : CchLine := match (s.coreAt t.core).findLine line with
    | some l => if l.dirty != 0 || l.excl then { l with excl := l.excl || excl }
        else { l with data := data, wts := wts, rts := rts, excl := excl }
    | none => ⟨line, data, 0, cls, wts, rts, excl⟩
  let (l, old, cts, fired) := lineOp l t.cts t.ga t.size t.op
  let s := if cls == Cls.ow && t.op.isLoad && !s.holds t.core t.page then s else s.install t.core l
  let t := { t with value := bytesOf t.size old, cts := if cls == Cls.hc then cts else t.cts }
  if t.op == .fill then s.dropTxn id else s.performed id t fired

/-- Add an update to a core's delta of a line (R290); a line it does not hold in U takes a place of the CCH role. -/
def State.addDelta (s : State) (core ga : Nat) (op : AmoOp) (f : Fmt) (v : Nat) : State :=
  let line := lineOf ga
  let s := if (s.coreAt core).ulines.any (·.addr == line) then s else s.makeRoom core line
  s.modCore core (fun c =>
    let u := (c.ulines.find? (·.addr == line)).getD ⟨line, op, f, []⟩
    let d := (amoApply op f 0 (tget (amoIdentity op f) u.deltas (ga - line)) v).1
    { c with ulines := { u with deltas := tset u.deltas (ga - line) d } :: c.ulines.filter (·.addr != line) })

/-- The core holds a line in U for another operation or format: it first sends that delta home (R290). -/
def State.settleU (s : State) (core ga : Nat) (op : AmoOp) (f : Fmt) : State :=
  match (s.coreAt core).ulines.find? (·.addr == lineOf ga) with
  | some u => if u.op == op && u.fmt == f then s else s.mergeDelta core (lineOf ga)
  | none => s

/-- An update takes its place above every lease its home has given, so that a later load of its context observes it once
the deltas are merged (R278, R291; log entry 146). -/
def State.updateStamp (s : State) (ga : Nat) : Nat := (s.homeAt (lineOf ga)).rts + 1

/-- U_GRANT: the update-only grant arrives and the pending update applies to the delta (R290). The core enters, or stays, in
the home's list of U copies, and keeps no older copy of the line (R278). A core that has lost its CCH role takes no copy: the
update is performed at the home (R271). -/
def State.landU (s : State) (id : Nat) (t : Txn) : State :=
  match t.op, t.target with
  | .amoU op f v, .dram cls =>
    let line := lineOf t.ga
    if (s.coreAt t.core).cchRoom = 0 then
      let h := s.homeAt line
      (s.setHome line { h with us := h.us.erase t.core }).updateAtHome id t cls
    else
      let s := s.modCore t.core (·.dropLine line)
      let s := (s.settleU t.core t.ga op f).addDelta t.core t.ga op f (valOf f v)
      let h := s.homeAt line
      (s.setHome line { h with us := if h.us.contains t.core then h.us else h.us ++ [t.core] }).setTxn id
        { t with stage := .done, cts := if cls == Cls.hc then max t.cts (s.updateStamp t.ga) else t.cts }
  | _, _ => s

/-- An earlier entry of the context to the same mailbox or queue is still on its way (R312, R391). -/
def State.entryBehind (s : State) (id : Nat) (t : Txn) : Bool :=
  s.txns.any (fun u => (decide (u.2.sent < t.sent) || (u.2.sent == t.sent && decide (u.1 < id))) && u.2.core == t.core &&
    u.2.fc == t.fc && u.2.ga == t.ga && u.2.target == t.target && u.2.stage == .travelling)

/-- Word k of the descriptor of host queue q (R396, R400). -/
def State.queueWord (s : State) (pkg q k : Nat) : Nat :=
  s.rdNat (pkg * 2 ^ 52 + 6 * 2 ^ 48 + 0x80010000 + 32 * q + 8 * k) 8
def State.queueKind (s : State) (pkg q : Nat) : Nat := bits (s.queueWord pkg q 0) 62 61
/-- A queue is enabled: EN is 1 and its descriptor keeps R400. Of several that bind one mailbox the lowest has it (log entry
75). -/
def State.queueOn (s : State) (pkg q : Nat) : Bool :=
  let w0 := s.queueWord pkg q 0
  let kind := bits w0 62 61
  let name := s.queueWord pkg q 1
  let base := s.queueWord pkg q 2
  bit w0 63 && kind != 3 && bits w0 60 48 == 0 && bits w0 31 8 == 0 && bits w0 7 0 != 0 && gaSpace base == 0 &&
  base % 64 == 0 && s.queueWord pkg q 3 == 0 &&
  (match kind with
   | 0 => (mailboxName name).isSome && (List.range q).all (fun j =>
      !(bit (s.queueWord pkg j 0) 63 && s.queueKind pkg j == 0 && s.queueWord pkg j 1 == name))
   | 1 => (s.regionAt (s.regionPkg name) name).isSome
   | _ => name == 0)

/-- A mailbox or host-queue entry reaches its target (R312, R402). -/
def State.performMessage (s : State) (id : Nat) (t : Txn) : State :=
  if s.entryBehind id t then s
  else match t.op with
  | .message entry =>
    match mailboxName t.ga with
    | none => s.setTxn id { t with stage := .failed cMBX_UNBOUND }
    | some (k, m) =>
      let far := decide (corePkg k ≠ t.source)
      match s.deliver k m entry (if far then none else some id) with
      | (.refused, s) => s.setTxn id { t with stage := .failed cMBX_UNBOUND }
      | (.appended, s) => s.setTxn id { t with stage := .done }
      | (.held, s) => s.setTxn id { t with stage := if far then .done else .held }
  | .hostMessage entry =>
    let p := gaPkg t.ga
    let q := bits t.ga 21 8
    if !s.queueOn p q then s.setTxn id { t with stage := .failed cHOSTQ_DENIED }
    else
      (s.modPkg p (fun x => { x with outq := tset x.outq q (tget [] x.outq q ++ [⟨some id, entry⟩]) })).setTxn id
        { t with stage := .held }
  | _ => s

/-- MERGE_ENTRY_ARRIVAL: a DM atomic becomes an entry and is acknowledged, or is refused by a full log (R374, R375). -/
def State.performMerge (s : State) (id : Nat) (t : Txn) : State :=
  match t.op with
  | .dm e =>
    let p := gaPkg t.ga
    match s.regionAt p t.rcb with
    | none => s.setTxn id { t with stage := .done }
    | some r =>
      let all := (s.pkgAt p).regions.map (fun x => x.2.entries)
      let (es, ok) := mergeEntry all r.entries e
      let s := s.modRegion t.rcb (fun r => { r with entries := es, refused := r.refused || !ok })
      s.setTxn id { t with stage := if ok then .done else .failed cAMO_CLASS }
  | _ => s

/-! ### Acknowledgement -/

/-- An entry of the context's sequencer learns that one of its rows was refused (R223). -/
def XItem.refuse (id : Nat) (x : XItem) : XItem :=
  let mark (e : XEntry) : XEntry := if e.taken.contains id then { e with refused := true } else e
  match x with
  | .entry e => .entry (mark e)
  | .loop l => .loop { l with body := l.body.map mark }

/-- STORE_ACK: the acknowledgement frees the posted entry and lowers its count; a refusal sets the store-error record
when it is clear (R178, R179), and is a fault of the stream whose entry it stored (R97). -/
def State.ackStore (s : State) (id : Nat) (t : Txn) : State :=
  match t.stage, t.rest with
  | .done, r :: rs =>
    s.setTxn id { t with
      op := .store r.data, ga := r.ga, size := r.data.length, page := r.page, target := r.target, rest := rs,
      stage := .travelling, sent := s.now }
  | _, _ =>
  let s := if t.engine then (t.ga :: t.rest.map (·.ga)).foldl (fun s ga => s.dropClaim (lineOf ga) id) s else s
  let s := s.dropTxn id
  let s := s.modCtxOf t.core t.fc (fun c =>
    let c : Ctx := match t.stage with | .failed _ => { c with xseq := c.xseq.map (fun (x : XItem) => x.refuse id) } | _ => c
    let entry := c.posted.find? (·.id == id)
    let c := match entry with | some e => c.addCount e.count (-1) | none => c
    let ga := match entry, t.op with | some e, .message _ => e.ga | _, _ => t.ga
    let refusal : Option DataError := match t.stage with | .failed cause => some ⟨cause, word ga, none⟩ | _ => none
    let c := { c with posted := c.posted.filter (·.id != id),
                      streams := c.streams.map (fun q => { q with
                        unacked := q.unacked.filter (· != id)
                        err := if q.unacked.contains id then q.err.or refusal else q.err }) }
    let c := if t.target == Target.dram Cls.hc then { c with cts := max c.cts t.cts } else c
    match t.stage with
    | .failed cause => if c.storeErr.isNone && c.firing.isSome then { c with storeErr := some (word ga, cause) } else c
    | _ => c)
  match t.op with
  | .slot _ _ _ _ above => if above then s.modCore t.core (fun c => { c with infl := c.infl - 1 }) else s
  | _ => s

/-- One element of a queue entry lands: n bytes at byte lo, or an error (R91, R174). -/
def QEntry.land (q : QEntry) (err : Option DataError) (lo n x : Nat) : QEntry :=
  match err with
  | some e => { q with need := q.need - 1, err := q.err.or (some e) }
  | none => { q with need := q.need - 1, v := BitVec.ofNat 256 (putBits q.v.toNat (8 * lo) (8 * n) x) }

/-- The data error of a load waits for the consumer of its register (R174). One of a load into g0, whose value no
instruction consumes, waits for END, YIELD or a pre-emption (log entry 111). -/
def Ctx.setError (c : Ctx) (k : Nat) (e : DataError) : Ctx :=
  { c with pend := c.pend.set (k % 32) (.error e) (Nat.mod_lt _ (by decide)) }

/-- A returned value lands in its register, q0 entry or stream entry, or its error waits for the consumer (R91, R96,
R174). -/
def Ctx.land (c : Ctx) (d : Dest) (err : Option DataError) (x : Nat) : Ctx :=
  match d with
  | .none => c
  | .g k f =>
    match err with
    | some e => c.setError k e
    | none => c.wg k (if f.isSigned then word (wrapInt 64 (sintOf (Fmt.width f) x)) else word x)
  | .pair k =>
    match err with
    | some e => (c.setError k e).setPend (k + 1) .ready
    | none => (c.wg k (word x)).wg (k + 1) (word (x / 2 ^ 64))
  | .q0 e lo n => { c with q0 := c.q0.map (fun q => if q.id == e then q.land err lo n x else q) }
  | .stream k e =>
    let st := c.stream k
    c.setStream k { st with rd := st.rd.map (fun q => if q.id == e then q.land err 0 32 x else q) }

/-- The conditions an AMOF.fadd raises when its old value returns (R294). -/
def TxnOp.flags (op : TxnOp) (old : Nat) : Flags :=
  match op with
  | .amo o f rm v _ => (amoApply o f rm.toNat old (valOf f v)).2
  | _ => 0

/-- LOAD_DATA_RETURN. -/
def State.returnLoad (s : State) (id : Nat) (t : Txn) : State :=
  let s := s.dropTxn id
  let err : Option DataError := match t.stage with
    | .failed c => some ⟨c, word (if c = cPERM_DENIED then t.ea else t.ga), match t.dest with | .stream _ _ => none | _ => some t.pc⟩
    | _ => none
  let x := natOfBytes t.value
  s.modCtxOf t.core t.fc (fun c =>
    let c := if t.target == Target.dram Cls.hc then { c with cts := max c.cts t.cts } else c
    let c := if err.isNone && t.dest != .none then { c with fflags := c.fflags ||| t.op.flags x } else c
    c.land t.dest err x)

end Sys2Proof.Machine
end

