-- ==== Sys2Proof/Machine/Now.lean ====
section
/-! DEFINITION. Accesses made whole in one act by the units whose accesses no rule spreads over time: barrier and join
cells, Orrery slots, engines, the Catalogue Unit, fetches (R45, R235, R288, R289, R296, R300, R304; log entry 12). -/

namespace Sys2Proof.Machine

/-- n bytes from ga upward, line by line. -/
def State.peekBytes (s : State) : Nat → Nat → List Byte
  | _, 0 => []
  | ga, n + 1 => BitVec.ofNat 8 (s.peek ga 1) :: s.peekBytes (ga + 1) n

/-- A virtual or direct address as its agent would find it, with supervisor rights (the Orrery and the firmware). -/
def State.whereIs (s : State) (core rcb ea : Nat) : Option Nat :=
  match locate s (.core core) .s core (s.effPtroot rcb) .r ea with
  | .ok (p, _) => some p.ga
  | .error _ => none

/-- The word at a virtual address, 0 when it does not translate. -/
def State.peekVirt (s : State) (core rcb ea : Nat) : Nat :=
  match s.whereIs core rcb ea with
  | some ga => s.peek ga 8
  | none => 0

/-- What the home does before an engine or a merge unit touches a line: the EXCLUSIVE owner returns it and U copies are
merged (R276, R289, R291). -/
def State.settleLine (s : State) (line : Nat) : State := (s.recallHc line).recallU line

/-- The dirty bytes of a CP or OW line of one core go home (R283). -/
def State.settleOwn (s : State) (core line : Nat) : State :=
  match (s.coreAt core).findLine line with
  | some l => if l.dirty != 0 then s.writeBack core line else s
  | none => s

/-- The agent's own copy after a write at the home: an HC copy is no longer usable, any other takes the new bytes. -/
def State.refreshOwn (s : State) (core line : Nat) : State :=
  match (s.coreAt core).findLine line with
  | some l =>
    if l.cls == Cls.hc then s.modCore core (·.dropLine line)
    else s.modCore core (·.putLine { l with data := s.homeData line })
  | none => s

/-- A grant of the line has not landed (R276): of EXCLUSIVE or U, or the fill of a line its core will hold alone (R283,
R284). -/
def State.lineGranted (s : State) (line : Nat) : Bool :=
  s.txns.any (fun t => lineOf t.2.ga == line && t.2.stage == .granted &&
    (!t.2.op.isLoad || t.2.target == .dram .cp || t.2.target == .dram .ow))

/-- The home takes a request made whole now: no claim, held line or grant under way stands before it (R276, R288, R376). -/
def State.homeTakes (s : State) (ga : Nat) (me : Claim) : Bool :=
  !s.claimed (lineOf ga) me && !s.lineHeld (lineOf ga) && !s.lineGranted (lineOf ga)

/-- Why an access made whole stops: one of another package that finds no way waits, and ends with FABRIC_TIMEOUT once the
fabric limit has passed, whose time is a free choice (R399, R409; log entry 148). A held line holds it, and a claim or a grant
under way. -/
def State.stopsNow (s : State) (ga : Nat) (me : Claim) : Option Stop :=
  if !s.farOpen me.core ga then
    some (if Config.farLimit s.tick then .trap { cause := cFABRIC_TIMEOUT, tval := some (word ga) } else .wait .memory false)
  else if 1 ≤ gaSpace ga ∧ gaSpace ga ≤ 3 then none
  else if s.lineHeld (lineOf ga) then some (.wait .transition false)
  else if !s.homeTakes ga me then some (.wait .memory false)
  else none

/-- The same for an access of the current context. -/
def taken (ga : Nat) : Act Unit := do
  let s ← get
  match s.stopsNow ga ⟨s.nextId, s.core, s.fc % 4⟩ with
  | some e => throw e
  | none => pure ()

/-- A load renewed at the home (R275, R398): the value, the home's record after it, and the agent's timestamp. -/
def Home.load (h : Home) (hc far : Bool) (cts lease : Nat) : Home × Nat :=
  let at0 := if far then h.rts else cts
  if hc then ({ h with rts := max h.rts (max (at0 + lease) (h.wts + lease)) }, if far then cts else max cts h.wts)
  else (h, cts)

/-- A store or atomic applied at the home (R275, R297, R398): the record after it, and the agent's timestamp. -/
def Home.store (h : Home) (hc far : Bool) (cts : Nat) : Home × Nat :=
  let at0 := if far then h.rts else cts
  if hc then
    let t := storeStamp at0 h.rts
    ({ h with wts := t, rts := t }, if far then cts else t)
  else (h, cts)

/-- One access of n bytes within a line that an engine or another unit makes whole at the target for the agent `me` of a
region (R171, R288): the state after, the old value, and of an HC line the timestamp (R275, R289). `f` gives the value
it writes, if it writes. -/
def State.touch (s : State) (me : Claim) (rcb cts : Nat) (p : Phys) (n : Nat) (f : Nat → Option Nat) :
    Except Stop (State × Nat × Option Nat) :=
  let ga := p.ga
  let sp := gaSpace ga
  let core := me.core
  let writes := (f 0).isSome
  if let some e := s.stopsNow ga me then .error e
  else if 1 ≤ sp ∧ sp ≤ 3 then
    let k := gaCore ga
    if k ≠ core ∧ !s.poolAllowed core rcb k then .error (.trap { cause := cPERM_DENIED, tval := some (word ga) })
    else if (s.coreAt k).poolWaits sp (gaOff ga) n writes then .error (.wait .memory false)
    else if !(s.coreAt k).inRole sp (gaOff ga) n then .error (.trap { cause := cPOOL_RANGE, tval := some (word ga) })
    else if s.bad ga n && !writes then .error (.trap { cause := cMACHINE_UE, tval := some (word ga) })
    else
      let old := s.rdNat ga n
      match f old with
      | none => .ok (s, old, none)
      | some new => .ok (s.wrNat ga n new, old, none)
  else
    let line := lineOf ga
    if s.bad ga n && !writes then .error (.trap { cause := cMACHINE_UE, tval := some (word ga) })
    else
      let s := ((s.settleLine line).settleOwn core line).sliceFill ga n
      let h := s.homeAt line
      let far := gaPkg ga != corePkg core
      let hc := p.cls == Cls.hc
      let old := s.rdNat ga n
      match f old with
      | none =>
        let (h, t) := h.load hc far cts (s.coreAt core).leaseOf
        .ok ((s.setHome line h).renewed line hc, old, if hc then some t else none)
      | some new =>
        let (h, t) := h.store hc far cts
        let s := (s.setHome line h).wrNat ga n new
        let s := if p.cls == .cp || p.cls == .ow then s.modCore core (·.dropLine line) else s
        .ok (s, old, if hc && !far then some t else none)

/-! ### What an access of a context waits for -/

/-- The context's own accesses that a new access of the same bytes must follow (R175). -/
def State.ownPending (s : State) (ga n : Nat) : Bool :=
  (s.ownTxns s.core s.fc).any (fun t => overlap t.2.ga t.2.size ga n &&
    (t.2.stage == .travelling || t.2.stage == .granted))

/-- An acquire of the context has not returned (R176, R296). -/
def State.acqOut (s : State) : Bool := (s.ownTxns s.core s.fc).any (·.2.acq)
/-- An HC access of the context is unperformed or unacknowledged; one of another package takes no place in the context's
order (R277, R398). -/
def State.hcOut (s : State) : Bool :=
  (s.ownTxns s.core s.fc).any (fun t => t.2.target == .dram .hc && t.2.op != .fill && gaPkg t.2.ga == corePkg s.core)
/-- A posted write of the context that is not acknowledged shares a byte (R175). -/
def Ctx.postedOverlap (c : Ctx) (ga n : Nat) : Bool := c.posted.any (fun e => overlap e.ga e.size ga n)

def Phys.isDram (p : Phys) : Bool := !(decide (1 ≤ gaSpace p.ga) && decide (gaSpace p.ga ≤ 3))
def Phys.isHc (p : Phys) : Bool := p.isDram && p.cls == .hc
/-- The access has a place in the HC order of its context: its line is of this package (R277, R398). -/
def State.inHcOrder (s : State) (p : Phys) : Bool := p.isHc && gaPkg p.ga == corePkg s.core
/-- A pool address of the current core. -/
def State.isOwn (s : State) (p : Phys) : Bool := !p.isDram && gaCore p.ga == s.core

/-- An acquire holds back every later memory access of the context (R176). -/
def acquired : Act Unit := do waitUntil (!(← get).acqOut) .memory

/-- Where an address leads for an instruction that does not fault on one that does not translate (R184, R185); the page of
a class change waits (R287). -/
def whereIn (kind : Kind) (ea : Nat) : Act (Option Phys) := do
  let s ← get
  let root := s.effPtroot s.ctx.rcb
  waitUntil (!s.walkWaits (.core s.core) root ea) .transition
  match translate s (.core s.core) root kind ea with
  | .error e =>
    if walkRefused e.1 ea then modify (·.walked (.core s.core) root ea)
    return none
  | .ok (p, s') =>
    waitUntil (!p.inReclass s') .transition
    set s'
    return some p

/-- What every access waits for: acquires, and the HC order (R176, R277). -/
def gate (p : Phys) : Act Unit := do
  acquired
  let s ← get
  waitUntil (!s.inHcOrder p || !s.hcOut) .memory

/-- What a load waits for besides: the context's own accesses to its bytes (R175). -/
def gateLoad (p : Phys) (n : Nat) : Act Unit := do
  gate p
  let s ← get
  waitUntil (!s.ctx.postedOverlap p.ga n && !s.ownPending p.ga n) .memory

/-! ### Lines a core holds -/

/-- The copy of a line in this core's CCH, unless the core holds updates of it or the line is held (R291, R376). -/
def State.ownCopy (s : State) (core line : Nat) : Option CchLine :=
  if (s.coreAt core).ulines.any (·.addr == line) || s.lineHeld line then none else (s.coreAt core).findLine line

/-- A copy that serves a load at once (R275, R280, R282 to R284), and whether it is a replica. -/
def State.loadCopy (s : State) (p : Phys) (acq : Bool) : Option (CchLine × Bool) :=
  let line := lineOf p.ga
  let cts := s.ctx.cts
  let own := s.ownCopy s.core line
  match p.cls with
  | .hc =>
    match own.filter (fun l => l.excl || decide (cts ≤ l.rts)) with
    | some l => some (l, false)
    | none =>
      if s.here.ulines.any (·.addr == line) || s.lineHeld line then none
      else ((s.quadAt (quadOf s.core)).replicas.find? (fun l => l.addr == line && decide (cts ≤ l.rts))).map (·, true)
  | .sc => if acq then none else own.map (·, false)
  | .cp => own.map (·, false)
  | .ow => if s.holds s.core p.pageGa then own.map (·, false) else none

/-- A copy a store may be performed on at issue (R275, R283, R284). -/
def State.storeCopy (s : State) (p : Phys) : Option CchLine :=
  let own := s.ownCopy s.core (lineOf p.ga)
  match p.cls with
  | .hc => own.filter (·.excl)
  | .sc => none
  | .cp => own
  | .ow => if s.holds s.core p.pageGa then own else none

/-- The core's copy after a load by its holder (R275). -/
def CchLine.read (l : CchLine) (cts : Nat) : CchLine := if l.excl then { l with rts := max l.rts cts } else l

/-- A load of the context served by a copy (R275): the copy's lease and the context's CTS rise. -/
def State.loadHit (s : State) (p : Phys) (l : CchLine) (replica : Bool) : State :=
  let cts := s.ctx.cts
  let s := if replica then s.modQuad (quadOf s.core) (·.count 0x103)
    else s.modHere (fun c => (c.putLine (l.read cts)).count 0x004)
  if p.isHc then s.modCtx (fun c => { c with cts := max cts l.wts }) else s

/-- A line of a CP page of this core, or of an OW page it holds, filled if it is not in the CCH (R283, R284, R387). -/
def ownedLine (p : Phys) : Act (Option CchLine) := do
  let s ← get
  let line := lineOf p.ga
  match s.storeCopy p with
  | some l =>
    modCore (·.count 0x004)
    return some l
  | none =>
    taken p.ga
    if s.caches s.core p.cls p.ga p.pageGa then
      modify (fun s =>
        let s := (s.sliceFill line 64).modHere (·.count 0x005)
        let h := s.homeAt line
        s.install s.core ⟨line, s.homeData line, 0, p.cls, h.wts, h.rts, false⟩)
      return (← getCore).findLine line
    else return none

/-- The same for any address: none where the core does not hold its line alone. -/
def ownedFor (p : Phys) : Act (Option CchLine) :=
  if p.isDram && (p.cls == .cp || p.cls == .ow) then ownedLine p else pure none

/-! ### Accesses of a context made whole -/

/-- A load of the context made whole (log entry 12): from a copy that serves it, or at its target, whose line the CCH role
takes as it takes any other load's (R171, R175 to R177, R271 to R284). -/
def readNow (p : Phys) (n : Nat) : Act Nat := do
  gateLoad p n
  let s ← get
  match (if p.isDram then s.loadCopy p false else none) with
  | some (l, replica) =>
    unlessFault (replica || !s.copyBad s.core p.ga n) cMACHINE_UE (some (word p.ga))
    set (s.loadHit p l replica)
    return l.get p.ga n
  | none =>
    let me : Claim := ⟨s.nextId, s.core, s.fc % 4⟩
    if s.isOwn p || !p.isDram then
      match s.touch me s.ctx.rcb s.ctx.cts p n (fun _ => none) with
      | .error e => throw e
      | .ok (s, old, _) => set s; return old
    else
      let line := lineOf p.ga
      taken p.ga
      unlessFault (!s.bad p.ga n) cMACHINE_UE (some (word p.ga))
      let fills := s.caches s.core p.cls p.ga p.pageGa && !s.bad line 64
      let s := (s.settleLine line).sliceFill (if fills then line else p.ga) (if fills then 64 else n)
      let (h, cts) := (s.homeAt line).load p.isHc (gaPkg p.ga != corePkg s.core) s.ctx.cts s.here.leaseOf
      let s := (((s.setHome line h).renewed line p.isHc).modHere (·.count 0x005)).modCtx
        (fun c => { c with cts := max c.cts cts })
      let old := s.rdNat p.ga n
      if fills then
        set (s.install s.core ⟨line, s.homeData line, 0, p.cls, h.wts, h.rts, false⟩)
      else set s
      return old

/-- A store or atomic of the context made whole at its point of performance (R275, R282 to R284, R295, R297; log entry 12):
in the pool, in the owner's CCH of a CP or OW page, or at the home. It stores what `f` gives, if anything, and on an HC line
takes a store's timestamp in any case. -/
def touchNow (p : Phys) (n : Nat) (f : Nat → Option Nat) : Act Nat := do
  gateLoad p n
  let s ← get
  let me : Claim := ⟨s.nextId, s.core, s.fc % 4⟩
  let line := lineOf p.ga
  match (← ownedFor p) with
  | some l =>
    unlessFault (!s.copyBad s.core p.ga n) cMACHINE_UE (some (word p.ga))
    let old := l.get p.ga n
    match f old with
    | some new => modCore (·.putLine (l.put p.ga n new))
    | none => pure ()
    return old
  | none =>
    unlessFault (!s.bad p.ga n) cMACHINE_UE (some (word p.ga))
    if !p.isDram then
      match s.touch me s.ctx.rcb s.ctx.cts p n (fun x => some ((f x).getD x)) with
      | .error e => throw e
      | .ok (s, old, _) => set s; return old
    else
      taken p.ga
      let s := (s.settleLine line).sliceFill p.ga n
      let (h, cts) := (s.homeAt line).store p.isHc (gaPkg p.ga != corePkg s.core) s.ctx.cts
      let s := (s.setHome line h).modCtx (fun c => { c with cts := max c.cts cts })
      let old := s.rdNat p.ga n
      match f old with
      | some new => set ((s.wrNat p.ga n new).updateCopy s.core p.ga n)
      | none => set s
      return old

def writeNow (p : Phys) (n x : Nat) : Act Unit := do let _ ← touchNow p n (fun _ => some x)

/-- A word of a record read as a load of the context at ea (8 bytes). -/
def loadWord (ea : Nat) : Act Nat := do readNow (← resolve .r ea 8) 8
/-- n consecutive words. -/
def loadWords (ea : Nat) : Nat → Act (List Nat)
  | 0 => pure []
  | n + 1 => do
    let w ← loadWord ea
    let l ← loadWords (ea + 8) n
    return w :: l
def storeWord (ea x : Nat) : Act Unit := do writeNow (← resolve .w ea 8) 8 x
def storeWords (ea : Nat) : List Nat → Act Unit
  | [] => pure ()
  | w :: l => do storeWord ea w; storeWords (ea + 8) l

/-- Bytes at ea, one by one, as loads of the context. -/
def loadBytes (ea : Nat) : Nat → Act (List Byte)
  | 0 => pure []
  | n + 1 => do
    let b ← readNow (← resolve .r ea 1) 1
    let l ← loadBytes (ea + 1) n
    return BitVec.ofNat 8 b :: l

/-- A word written at the home alone: as a store of an agent whose CTS is the line's RTS (R275, R398, R403). -/
def State.pokeHome (s : State) (ga n x : Nat) : State :=
  let line := lineOf ga
  let s := s.settleLine line
  let h := s.homeAt line
  (s.setHome line { h with wts := h.rts + 1, rts := h.rts + 1 }).wrNat ga n x

/-- Words that a unit of the machine writes at a global address of space 0, whole (Orrery, firmware, RCB fields): in the CCH
of the core that holds the line alone, whose dirty sectors stay there (R283, R284), else at the home. The core whose
instruction asks for it keeps no older copy. -/
def State.poke (s : State) (ga n x : Nat) : State :=
  if 1 ≤ gaSpace ga ∧ gaSpace ga ≤ 3 then s.wrNat ga n x
  else
    let line := lineOf ga
    let owner := s.cores.find? (fun c => ((c.2.findLine line).filter (fun l => l.performs && !l.excl)).isSome)
    match owner.bind (fun c => (c.2.findLine line).map (c.1, ·)) with
    | some (k, l) => s.modCore k (·.putLine (l.put ga n x))
    | none => (s.pokeHome ga n x).refreshOwn s.core line

/-- Words at consecutive addresses. -/
def State.pokeBytes (s : State) : Nat → List Byte → State
  | _, [] => s
  | ga, b :: bs => (s.poke ga 1 b.toNat).pokeBytes (ga + 1) bs

/-- Write STATE of an RCB. -/
def State.setRcbState (s : State) (rcb st : Nat) : State :=
  s.poke (rcb + 0x10) 8 (putBits (s.peek (rcb + 0x10) 8) 8 3 st)

end Sys2Proof.Machine
end

