-- ==== Sys2Proof/Machine/Sched.lean ====
section
/-! DEFINITION. The life of actors and firings, the deque, and the Firing Scheduler's choice (R64 to R70, R244, R254,
R301 to R305, R356 to R358, R371). -/

namespace Sys2Proof.Machine

/-! ### Sequencer entries that will not run -/

/-- The tiles an X entry reads (R212). -/
def readTiles (i : Instr) : List Nat :=
  match i with
  | .mma o => [o.h.s1.index, o.h.s2.index]
  | .mmaS o => [o.h.s1.index, o.h.s2.index]
  | .dmma o => [o.h.s1.index, o.h.s2.index]
  | .mxpose o => [o.h.s1.index]
  | .mstore o => [o.h.s3.index]
  | _ => []

/-- The tile a started X entry fills until it completes (R225, R226). -/
def fillTile (i : Instr) : Option Nat :=
  match i with
  | .mxpose o => some o.h.d.index
  | .mcvt o => some o.h.d.index
  | _ => none

def Core.addReaders (c : Core) (l : List Nat) : Core :=
  l.foldl (fun c n => c.setTile n (fun t => { t with readers := t.readers + 1 })) c
def Core.dropReaders (c : Core) (l : List Nat) : Core :=
  l.foldl (fun c n => c.setTile n (fun t => { t with readers := t.readers - 1 })) c

/-- Release posted-table entries taken at dispatch and not used (R224). -/
def Ctx.releaseTaken (c : Ctx) (ids : List Nat) : Ctx :=
  ids.foldl (fun c id =>
    match c.posted.find? (·.id == id) with
    | some e => { (c.addCount e.count (-1)) with posted := c.posted.filter (·.id != id) }
    | none => c) c

/-- Drop a sequencer entry (R213, R224): its readers and unused table entries are released; a tile it was filling goes
EMPTY and one it was draining READY, and no register waits for it (R263). -/
def State.dropEntry (s : State) (core fc : Nat) (e : XEntry) (started : Bool) : State :=
  let s := s.modCore core (·.dropReaders e.held)
  let s := if started then
      match e.i, fillTile e.i with
      | _, some n => s.modCore core (·.setTile n (fun t => { t with state := .empty }))
      | .mstore o, none => s.modCore core (·.setTile o.h.s3.index (fun t => { t with state := .ready }))
      | _, none => s
    else s
  let waits (c : Ctx) : Ctx :=
    match e.i.hd with
    | some h => (match h.d with | .g k => if c.pendOf k.toNat == .xhalf then c.setPend k.toNat .ready else c | _ => c)
    | none => c
  s.modCtxOf core fc (fun c => waits (c.releaseTaken (e.taken.filter (fun id => (tfind s.txns id).isNone))))

def XItem.entries : XItem → List XEntry | .entry e => [e] | .loop l => l.body
def Ctx.entries (c : Ctx) : List XEntry := c.xseq.flatMap XItem.entries

/-- Drop every entry of a context's sequencer. -/
def State.dropSequencer (s : State) (core fc : Nat) : State :=
  let c := s.ctxOf core fc
  let head := c.xhead
  let s := c.entries.foldl (fun s e => s.dropEntry core fc e (c.xbusy && head == some e)) s
  s.modCtxOf core fc (fun c => { c with xseq := [], xbusy := false, xfrozen := false })

/-! ### Contexts -/

/-- A CINS or CDEL, which is counted until it has been applied (R335). -/
def CatCmd.isUpdate (c : CatCmd) : Bool := match c.i with | .cins _ => true | .cdel _ => true | _ => false

/-- An update has been applied, or never will be (R335). -/
def Ctx.updateDone (c : Ctx) : Ctx := { c with updates := c.updates - 1 }

/-- Loads, atomics and catalogue answers on their way for a context that no longer waits for them land nowhere. -/
def State.orphan (s : State) (core fc : Nat) : State :=
  let s := s.modCluster (clusterOf core) (fun (x : Cluster) => { x with catq := x.catq.map (fun (c : CatCmd) =>
    if c.core == core && c.fc == fc % 4 then { c with live := false } else c) })
  { s with txns := s.txns.map (fun t =>
      if t.2.core == core && t.2.fc == fc % 4 then (t.1, { t.2 with dest := .none, acq := false }) else t) }

/-- The context leaves every future's list of waiters (R308). -/
def State.leaveFutures (s : State) (core fc : Nat) : State :=
  { s with clusters := s.clusters.map (fun c => (c.1, { c.2 with futures := c.2.futures.map (fun f =>
      (f.1, { f.2 with waiters := f.2.waiters.filter (fun w => !(w.1 == core && w.2.1 == fc)) })) })) }

/-- A context without a firing. Its timestamp (R281), trap registers, channels' statuses, catalogue updates and writes
not yet acknowledged are the context's and stay. -/
def Ctx.freed (c : Ctx) : Ctx :=
  { Ctx.reset with
    cts := c.cts, tcause := c.tcause, tpc := c.tpc, tval := c.tval, tval2 := c.tval2, tregn := c.tregn,
    tskip := c.tskip, tsw := c.tsw, torigin := c.torigin, tnext := c.tnext, tscratch := c.tscratch,
    channels := c.channels, updates := c.updates, posted := c.posted, countClu := c.countClu,
    countPkg := c.countPkg, countSys := c.countSys }

/-- The timestamp an actor's firing ends with is kept for its next one (R65). -/
def State.keepCts (s : State) (c : Ctx) : State :=
  match c.firing with
  | some f => match f.act with
    | some a => s.modRegion f.rcb (fun r => { r with actorCts := tset r.actorCts a (max c.cts (tget 0 r.actorCts a)) })
    | none => s
  | none => s

/-- DiscardQueues, ClearContext and FreeContext of R69; gang membership ends (R314). -/
def State.freeCtx (s : State) (core fc : Nat) : State :=
  let s := s.keepCts (s.ctxOf core fc)
  let s := ((s.dropSequencer core fc).orphan core fc).leaveFutures core fc
  let s := s.modCtxOf core fc Ctx.freed
  s.modCore core (fun c => { c with gang := if c.gang == some (fc % 4) then none else c.gang })

/-- A context can take a firing. -/
def Ctx.isFree (c : Ctx) : Bool := c.firing.isNone && c.unacked == 0

/-! ### Readiness -/

def Bound.isHandler (b : Bound) : Bool := b.d.cls == 3
def Bound.isGraph (b : Bound) : Bool := b.d.cls == 1 || b.d.cls == 2

/-- Word 0 of an actor's GHDR (R231). -/
def State.ghdr (s : State) (core : Nat) (b : Bound) : Nat := s.peekVirt core b.rcb b.d.state.toNat
def State.linreq (s : State) (core : Nat) (b : Bound) : Bool := b.d.cls == 2 && bit (s.ghdr core b) 21

/-- The Factor Type Table entry a factor's TYPE selects (R234). -/
def State.fttAddr (s : State) (core : Nat) (b : Bound) : Nat :=
  s.effFtt b.rcb + 32 * (bits (s.ghdr core b) 15 8 % 64)

/-- The ready condition of R64, R254 and R309. -/
def State.actorReady (s : State) (core : Nat) (b : Bound) : Bool :=
  if b.isHandler then
    match b.mailbox with
    | some m => match tfind (s.coreAt core).mailboxes m with
      | some mb => !mb.taken && !mb.msgs.isEmpty
      | none => false
    | none => false
  else !s.linreq core b && b.ins.all (fun r => decide (r.rate ≤ r.count)) &&
    b.outs.all (fun r => decide (r.count + r.rate ≤ r.depth))

def State.setBound (s : State) (core slot : Nat) (f : Bound → Bound) : State :=
  s.modCore core (fun c => match tfind c.binds slot with
    | some b => { c with binds := tset c.binds slot (f b) }
    | none => c)

/-- An IDLE actor whose ready condition holds becomes READY, with wait age 0 (R66). -/
def State.refresh (s : State) (core slot : Nat) : State :=
  match tfind (s.coreAt core).binds slot with
  | some b => if b.life == .idle && s.actorReady core b then
      s.setBound core slot (fun b => { b with life := .ready, since := s.now }) else s
  | none => s

def State.refreshAll (s : State) (core : Nat) : State :=
  (s.coreAt core).binds.foldl (fun s b => s.refresh core b.1) s

/-- Push a record at the bottom of a core's deque (R301). -/
def State.pushTask (s : State) (core : Nat) (t : Task) : State :=
  s.modCore core (fun c => { c with deque := c.deque ++ [t] })

/-- The regions a charge on field f falls on: the owner of the effective value, then the owners above it (R347). -/
def budgetOwners (s : State) : Nat → Nat → Nat → List Nat
  | 0, _, _ => []
  | n + 1, rcb, f =>
    let o := ownerOf s 4096 rcb f
    let parent := s.peek (o + 0x08) 8
    o :: if parent == 0 then [] else budgetOwners s n parent f

def State.owners (s : State) (rcb f : Nat) : List Nat := budgetOwners s 4096 rcb f

/-- A region falls under an owner of a budget field. -/
def State.under (s : State) (rcb f o : Nat) : Bool := (s.owners rcb f).contains o

/-- Room for n more deque records of a region on a core (R302, R346, R347). -/
def State.dequeTakes (s : State) (core rcb n : Nat) : Bool :=
  let q := (s.coreAt core).deque
  decide (q.length + n ≤ 64) &&
  (s.owners rcb 14).all (fun o => decide ((q.filter (fun t => s.under t.rcb 14 o)).length + n ≤ s.effDeq o))

/-- Queue the relinearisation task of a factor (R254, R301, R305). -/
def State.queueRelin (s : State) (core slot : Nat) : State :=
  match tfind (s.coreAt core).binds slot with
  | none => s
  | some b =>
    if s.dequeTakes core b.rcb 1 then
      let lin := s.peek (s.fttAddr core b + 0x10) 8
      let t : Task := { kind := .relin core slot, prio := b.d.prio, pc := word (lin % 2 ^ 56), preds := 0, rcb := b.rcb,
                        g := (Vector.replicate 32 (0 : Word)).set 1 b.d.state }
      (s.pushTask core t).setBound core slot (fun b => { b with relin := true, relinDue := false })
    else s.setBound core slot (fun b => { b with relinDue := true })

/-- After a firing of a factor ends in any way (R254). -/
def State.afterFactor (s : State) (core slot : Nat) : State :=
  match tfind (s.coreAt core).binds slot with
  | some b => if s.linreq core b && !b.relin && !b.relinDue then s.queueRelin core slot else s
  | none => s

/-- A record has left the deque: a task that waits for room is queued. -/
def State.dequeRoom (s : State) (core : Nat) : State :=
  match (s.coreAt core).binds.find? (·.2.relinDue) with
  | some b => s.queueRelin core b.1
  | none => s

/-! ### The end of a firing -/

/-- Take the oldest entries of an in port; a graph actor's count is a debt (R69, R229). -/
def Ring.consume (r : Ring) (graph : Bool) : Ring :=
  { r with count := r.count - r.rate, head := if graph then r.head else (r.head + r.rate) % max r.depth 1 }
def Ring.commit (r : Ring) : Ring := { r with count := r.count + r.rate }

def Bound.commit (b : Bound) : Bound :=
  { b with ins := b.ins.map (·.consume b.isGraph), outs := b.outs.map Ring.commit }

/-- A handler's head entry is freed when its firing ends, in any way (R309). -/
def State.freeMessage (s : State) (core m : Nat) : State :=
  s.modCore core (fun c => match tfind c.mailboxes m with
    | some mb =>
      let mb := { mb with msgs := if mb.taken then mb.msgs.drop 1 else mb.msgs, taken := false, bad := mb.bad && !mb.taken }
      { c with mailboxes := tset c.mailboxes m mb }
    | none => c)

/-- The actor's side of a firing's end (R66): with a commit, or abandoned and HELD. -/
def State.endActor (s : State) (core : Nat) (f : Firing) (commit : Bool) : State :=
  match f.kind with
  | .handler m => ((s.freeMessage core m).setBound core f.slot (fun b => { b with life := .idle })).refresh core f.slot
  | .actor =>
    let s := s.setBound core f.slot (fun b =>
      if b.d.cls == 4 then { b with life := .done }
      else if commit then { b.commit with life := .idle } else { b with life := .held })
    (s.afterFactor core f.slot).refresh core f.slot
  | .relin k slot => (s.setBound k slot (fun b => { b with relin := false })).refresh k slot
  | _ => s

/-- A released actor (R66, R353, R354). -/
def State.releaseActor (s : State) (core slot : Nat) : State :=
  (s.setBound core slot (fun b => { b with life := .idle })).refresh core slot

/-- YIELD returns the actor to READY with wait age 0 (R70). -/
def State.yieldActor (s : State) (core : Nat) (f : Firing) : State :=
  match f.kind with
  | .actor => (s.setBound core f.slot (fun b => { b with life := .idle })).afterFactor core f.slot |>.refresh core f.slot
  | _ => s

/-! ### Shares -/

/-- The after record of a counting join cell, with the registers the cell holds (R358). -/
def State.afterRecord (s : State) (core rcb cell : Nat) : Task :=
  let w (k : Nat) := s.peekVirt core rcb (cell + 8 * k)
  { kind := .afterTask, prio := bits (w 1) 58 56, pc := word (bits (w 1) 55 0), preds := BitVec.ofNat 7 (bits (w 0) 38 32),
    rcb := rcb, g := Vector.ofFn (fun k => if 1 ≤ k.val ∧ k.val ≤ 29 then word (w (k.val + 1)) else 0) }

/-- The END of a share counts it off its cell (R358): the last one pushes the after record. It waits for room in that
deque. -/
def endShare : Act Unit := do
  let s ← get
  match s.ctx.firing with
  | none => pure ()
  | some f =>
    match f.kind with
    | .share cell issuer =>
      if s.ctx.mode == .u then
        let old ← touchNow (← resolve .w cell 4) 4 (fun old => if old = 0 then none else some (old - 1))
        unlessFault (old != 0) cJOIN_CELL
        if old = 1 then
          let k := if s.effDm f.rcb then issuer else s.core
          waitUntil (s.dequeTakes k f.rcb 1) .ending
          modify (fun s => s.pushTask k (s.afterRecord s.core f.rcb cell))
    | _ => pure ()

/-! ### The start of a firing -/

/-- The start state of R67, with registers and predicates as R305 gives them. A failed target test reports no branch, so
TVAL is a free value (R44). The clock is above the stores of the actor's earlier firings (R65), and the window bases are its launch's (R67). -/
def State.startCtx (s : State) (core fc : Nat) (f : Firing) (pc : Word) (g : Vector Word 32) (p : Vector Bool 8)
    (stream : Nat) : State :=
  let c := s.coreAt core
  let (w, s) := s.takeFresh
  let b := if f.act.isSome then tfind c.binds f.slot else none
  let page := s.pageOf core b
  let past := match f.act, s.regionAt (s.regionPkg f.rcb) f.rcb with
    | some a, some r => tget 0 r.actorCts a
    | _, _ => 0
  s.modCtxOf core fc (fun x =>
    { x.freed with
      cts := max x.cts past,
      firing := some f, pc := pc, g := g, p := p, win := page.wins, rngstr := word (stream * 2 ^ 32),
      catErr := none, xfer := some w,
      idem := { Idem.reset with entry := pc, start := true, startG := g, startWin := page.wins, preds := p } })

def predsOf (x : BitVec 7) : Vector Bool 8 :=
  #v[false, x.getLsbD 0, x.getLsbD 1, x.getLsbD 2, x.getLsbD 3, x.getLsbD 4, x.getLsbD 5, x.getLsbD 6]
def predBits (p : Vector Bool 8) : BitVec 7 :=
  BitVec.ofNat 7 (natOfBool p[1] + 2 * natOfBool p[2] + 4 * natOfBool p[3] + 8 * natOfBool p[4] + 16 * natOfBool p[5] +
    32 * natOfBool p[6] + 64 * natOfBool p[7])

/-- Start a firing of a READY actor (R66, R67, R143, R244, R305). -/
def State.startActor (s : State) (core fc slot : Nat) (b : Bound) : State :=
  let g1 := (Vector.replicate 32 (0 : Word)).set 1 b.d.state
  let base : Firing := { kind := .actor, act := some b.act, slot := slot, rcb := b.rcb, entry := b.d.entry,
                         stateBlock := b.d.state, cls := b.d.cls, prio := b.d.prio, trapped := false, msg := [] }
  let s := s.modCore core (fun c => { c with lastSlot := slot })
  match b.isHandler, b.mailbox with
  | true, some m =>
    let mb := tfind (s.coreAt core).mailboxes m
    let entry := match mb with | some mb => mb.msgs.headD [] | none => []
    let g := (List.range 8).foldl (fun g k => Vector.set! g (2 + k) (entry.getD k 0)) g1
    let s := s.modCore core (fun c => match mb with
      | some mb => { c with mailboxes := tset c.mailboxes m { mb with taken := true } } | none => c)
    (s.setBound core slot (fun b => { b with life := .running })).startCtx core fc
      { base with kind := .handler m, msg := entry } b.d.entry g (Vector.replicate 8 false) 0xFFFFFF
  | _, _ =>
    (s.setBound core slot (fun b => { b with life := .running, pres := 0 })).startCtx core fc base b.d.entry g1
      (Vector.replicate 8 false) (if b.d.cls == 4 then 0xFFFFFF else b.act)

/-- Start a deque record (R305, R358): word 31 of a record, its gJ, is not loaded. -/
def State.startTask (s : State) (core fc : Nat) (t : Task) : State :=
  let f : Firing := { kind := t.kind, act := none, slot := 0, rcb := t.rcb, entry := t.pc, stateBlock := 0, cls := 4,
                      prio := t.prio, trapped := false, msg := [] }
  let s := match t.claim with | some k => s.modCore k (fun c => { c with claimed := false }) | none => s
  s.startCtx core fc f t.pc (t.g.set 31 0) (predsOf t.preds) 0xFFFFFF

/-! ### The choice of R356 -/

/-- The residual bucket of R244, from PRES and EPS. -/
def bucketOf (pres eps : Nat) : Nat :=
  match decodeF .f32 pres, decodeF .f32 eps with
  | .nan _, _ => 7
  | .fin _ m, e =>
    if m = 0 then 0
    else match e with
      | .nan _ => 7
      | .inf neg => if neg then 7 else 0
      | .fin neg n =>
        if n = 0 ∨ neg then 7
        else if m ≤ n then 0
        else min 7 (max 0 (floorLog2 (m / n))).toNat
  | .inf _, e =>
    match e with
    | .inf false => 0
    | _ => 7

structure Candidate where
  /-- Bind Table slot; 32 for a saved task. -/
  slot : Nat
  /-- Position in the frame store, for a SAVED firing. -/
  frame : Option Nat
  base : Nat
  wait : Nat
  bucket : Nat
  deriving DecidableEq, Repr

/-- A class is capped by the region's PRIO (R346, R356). -/
def State.baseClass (s : State) (rcb prio : Nat) : Nat := min prio (s.effPrio rcb)

def Candidate.eff (c : Candidate) (limit : Nat) : Nat :=
  if limit = 0 then c.base else min 7 (c.base + c.wait / limit)
def Candidate.aged (c : Candidate) (limit : Nat) : Bool := limit != 0 && decide (limit ≤ c.wait)

/-- A store that a discarded firing of an actor posted has not been performed: its next firing, which observes it, waits
(R65). -/
def State.storesOut (s : State) (rcb act : Nat) : Bool :=
  s.txns.any (fun t => t.2.count.isSome && t.2.rcb == rcb && t.2.act == some act &&
    (match t.2.op with | .message _ => false | .hostMessage _ => false | .slot _ _ _ _ _ => false | _ => true) &&
    (t.2.stage == .travelling || t.2.stage == .granted || !t.2.rest.isEmpty))

/-- The candidates of a core whose region is LIVE (R353, R356). -/
def State.candidates (s : State) (core : Nat) : List Candidate :=
  let c := s.coreAt core
  let actors := (c.binds.filter (fun b => b.2.life == .ready && !s.storesOut b.2.rcb b.2.act)).map (fun b =>
    { slot := b.1, frame := none, base := s.baseClass b.2.rcb b.2.d.prio, wait := s.now - b.2.since,
      bucket := if b.2.isGraph then bucketOf b.2.pres c.cveps.toNat else 0 : Candidate })
  let saved := (List.range c.frames.length).filterMap (fun k => match c.frames[k]? with
    | some fr => match fr.ctx.firing with
      | some f =>
        let b := if f.act.isSome then tfind c.binds f.slot else none
        some { slot := if f.act.isSome then f.slot else 32, frame := some k, base := s.baseClass f.rcb f.prio,
               wait := s.now - fr.since,
               bucket := match b with | some b => if b.isGraph then bucketOf b.pres c.cveps.toNat else 0 | none => 0 }
      | none => none
    | none => none)
  match c.region with
  | some r => if s.isLive r then actors ++ saved else []
  | none => []

/-- Candidate a goes before b (R356). -/
def Candidate.before (limit last : Nat) (a b : Candidate) : Bool :=
  let rank (c : Candidate) := (c.slot + 33 - last - 1) % 33
  if a.eff limit ≠ b.eff limit then decide (b.eff limit < a.eff limit)
  else if a.aged limit != b.aged limit then a.aged limit
  else if !a.aged limit && a.bucket != b.bucket then decide (b.bucket < a.bucket)
  else if a.wait ≠ b.wait then decide (b.wait < a.wait)
  else decide (rank a < rank b)

def bestOf (limit last : Nat) : List Candidate → Option Candidate
  | [] => none
  | c :: cs => match bestOf limit last cs with
    | some d => some (if d.before limit last c then d else c)
    | none => some c

inductive Chosen
  | actor (slot : Nat)
  | saved (frame slot : Nat)
  | task
  deriving DecidableEq, Repr

/-- The Firing Scheduler's choice (R356). -/
def State.choose (s : State) (core : Nat) : Option Chosen :=
  let c := s.coreAt core
  let limit := c.agelim.toNat
  let best := bestOf limit c.lastSlot (s.candidates core)
  let task := match c.region with | some r => if s.isLive r then c.deque.getLast? else none | none => none
  match best, task with
  | none, none => none
  | none, some _ => some .task
  | some b, some t => if b.eff limit < t.prio then some .task
      else some (match b.frame with | some k => .saved k b.slot | none => .actor b.slot)
  | some b, none => some (match b.frame with | some k => .saved k b.slot | none => .actor b.slot)

/-- The lowest-numbered free context; only fc0 serves a DM region (R356, R371). -/
def State.freeContext (s : State) (core : Nat) : Option Nat :=
  let c := s.coreAt core
  let dm := match c.region with | some r => s.effDm r | none => false
  (if dm then [0] else [0, 1, 2, 3]).find? (fun k => (c.ctxAt k).isFree)

/-- Restore a frame on a context of its core (R68, R84, R314). -/
def State.restoreFrame (s : State) (core fc : Nat) (fr : Frame) : State :=
  let s := s.modCtxOf core fc (fun x =>
    { fr.ctx with cts := max x.cts fr.ctx.cts, updates := x.updates, channels := x.channels,
                  stall := none, preempt := none, preemptDue := false, line := none, refetch := false, posted := [] })
  s.modCore core (fun c => { c with gang := if fr.gang && c.gang.isNone then some fc else c.gang })

/-- Whether the scheduler can start a firing now. -/
def State.canStart (s : State) (core : Nat) : Bool := (s.freeContext core).isSome && (s.choose core).isSome

/-- The record, entry or frame the scheduler would start from is uncorrectable (R386). -/
def State.startsBad (s : State) (core : Nat) : Bool :=
  let c := s.coreAt core
  match s.choose core with
  | some (.actor slot) =>
    match (tfind c.binds slot).bind (·.mailbox) with
    | some m => (match tfind c.mailboxes m with | some mb => mb.bad | none => false)
    | none => false
  | some (.saved k _) => (match c.frames[k]? with | some fr => fr.bad | none => false)
  | some .task => (match c.deque.getLast? with | some t => t.bad | none => false)
  | none => false

/-- FIRING_START. -/
def State.startFiring (s : State) (core : Nat) : State :=
  match s.freeContext core, s.choose core with
  | some fc, some (.actor slot) =>
    match tfind (s.coreAt core).binds slot with
    | some b => s.startActor core fc slot b
    | none => s
  | some fc, some (.saved k slot) =>
    match (s.coreAt core).frames[k]? with
    | some fr =>
      let s := s.modCore core (fun c => { c with frames := c.frames.eraseIdx k, lastSlot := min slot 31 })
      let s := match fr.ctx.firing with
        | some f => if f.act.isSome then s.setBound core f.slot (fun b => { b with life := .running }) else s
        | none => s
      s.restoreFrame core fc fr
    | none => s
  | some fc, some .task =>
    match (s.coreAt core).deque.getLast? with
    | some t =>
      let s := s.modCore core (fun c => { c with deque := c.deque.dropLast })
      (s.startTask core fc t).dequeRoom core
    | none => s
  | _, _ => s

end Sys2Proof.Machine
end

