-- ==== Sys2Proof/Machine/Graph.lean ====
section
/-! DEFINITION. Message slots, arrivals and the marker cut: what the Orrery does for an actor outside its firings (R228 to
R237, R244, R246, R249 to R252). -/

namespace Sys2Proof.Machine

/-- A slot or joint header (R232). -/
def hdrLive (h : Nat) : Bool := bit h 38
def hdrClosed (h : Nat) : Bool := bit h 37
def hdrFmt (h : Nat) : Nat := bits h 36 36
def hdrDim (h : Nat) : Nat := bits h 35 32
def hdrVer (h : Nat) : Nat := bits h 31 16
def hdrEdge (h : Nat) : Nat := bits h 15 0

/-- The header a GATT writes (R235). -/
def mkHdr (fmt dim edge : Nat) : Nat := 2 ^ 38 + fmt * 2 ^ 36 + dim * 2 ^ 32 + edge

/-- A dimension fits a format (R232). -/
def dimOk (fmt dim : Nat) : Bool := if fmt = 0 then decide (1 ≤ dim ∧ dim ≤ 6) else decide (1 ≤ dim ∧ dim ≤ 3)

/-- The region has ended (R351). -/
def State.isGone (s : State) (rcb : Nat) : Bool := (s.regionAt (s.regionPkg rcb) rcb).isNone || s.rcbState rcb == 4

/-- The bound actor of a number in a region, wherever it is (R235, R236). -/
def State.findActor (s : State) (rcb act : Nat) : Option (Nat × Nat × Bound) :=
  s.cores.findSome? (fun c =>
    (c.2.binds.find? (fun b => b.2.act == act && b.2.rcb == rcb)).map (fun b => (c.1, b.1, b.2)))

/-- The ring of a graph actor: its slots (R228). -/
def Bound.ring0 (b : Bound) : Ring := b.ins.headD ⟨0, 128, 0, 1, 0, 0, 0, 0⟩
def Bound.depth (b : Bound) : Nat := b.ring0.depth
/-- Address of in-slot k. -/
def Bound.slotAt (b : Bound) (core k : Nat) : Nat := poolAddr 2 core (b.ring0.base + 128 * k)

/-- Write n bytes at a virtual address as the Orrery of a core does: the core's own copy of the line goes. -/
def State.pokeVirt (s : State) (core rcb ea n x : Nat) : State :=
  match s.whereIs core rcb ea with
  | some ga => (s.poke ga n x).refreshOwn core (lineOf ga)
  | none => s

/-- The virtual address of an actor's out-slot k (R230). -/
def Bound.outSlot (b : Bound) (k : Nat) : Nat :=
  b.d.state.toNat + (if b.d.cls == 1 then 0x1C0 else 0x240) + 128 * k

/-- A factor type's fields (R234). -/
def fttArity (w0 : Nat) : Nat := bits w0 2 0
def fttFmt (w0 : Nat) : Nat := bits w0 3 3
def fttDim (w0 k : Nat) : Nat := bits w0 (11 + 4 * k) (8 + 4 * k)
def fttKernel (w0 : Nat) : Nat := bits w0 49 48
def fttBeta (w0 : Nat) : Nat := bits w0 47 32
/-- off(k): the joint index at which position k starts. -/
def fttOff (w0 k : Nat) : Nat := ((List.range k).map (fttDim w0)).sum

/-- BETA is an FP16 value with 0 ≤ β < 1 (R231, R234). -/
def betaOk (code : Nat) : Bool :=
  match decodeF .f16 code with
  | .fin neg m => (!neg || decide (m = 0)) && decide (m < 1)
  | _ => false

/-- A Factor Type Table entry is valid (R234). -/
def fttValid (w0 w1 w2 w3 : Nat) : Bool :=
  let ar := fttArity w0
  bits w0 63 50 == 0 && bits w0 31 24 == 0 && bits w0 7 4 == 0 && decide (fttKernel w0 ≤ 1) && betaOk (fttBeta w0) &&
  decide (1 ≤ ar) && decide (ar ≤ 4) &&
  (List.range 4).all (fun k => if k < ar then dimOk (fttFmt w0) (fttDim w0 k) else fttDim w0 k == 0) &&
  decide (fttOff w0 4 ≤ if fttFmt w0 = 0 then 12 else 9) && bits w2 63 56 == 0 && w3 == 0 && decide (w1 < 2 ^ 64)

/-- Raise a firing debt (R229), and let the ready test see it. -/
def State.raiseDebt (s : State) (core slot : Nat) : State :=
  (s.setBound core slot (fun b =>
    let running := b.life == .running || b.life == .saved || b.life == .trapped
    { b with ins := match b.ins with
      | r :: rs => { r with count := if running then 2 else max r.count 1 } :: rs
      | [] => [] })).refresh core slot

/-- A residual exceeds a threshold, as FP32; a NaN never does (R241, R246). -/
def exceeds (res eps : Nat) : Bool :=
  match decodeF .f32 eps, decodeF .f32 res with
  | .nan _, _ => false
  | _, .nan _ => false
  | e, r => ltIeee e r

/-! ### The cut -/

/-- Send a marker on an edge, behind what was sent on it before (R236, R251). -/
def State.sendMarker (s : State) (rcb act slot id : Nat) : State :=
  { s with nextId := s.nextId + 1, flights := tset s.flights s.nextId (.marker rcb act slot id) }

/-- A message of the Orrery or the firmware, counted by no context: delivered, or dropped when unbound (R250, R262, R324). Its
sender is the core and context given, which for an engine's message no rule names: those of the command (log entry 145). -/
def State.notify (s : State) (core fc name : Nat) (payload : List Word) : State :=
  match mailboxName name with
  | some (k, m) => (s.deliver k m (messageEntry (entryWord0 core fc payload.length m) payload) none).2
  | none => s

/-- RCUT of a region (R249). -/
def State.rcut (s : State) (rcb : Nat) : Nat := s.peek (rcb + 0x98) 8

/-- REC reaches TOTAL: the cut ends and its message is sent (R250). -/
def State.countRecorded (s : State) (core rcb : Nat) : State :=
  let w := s.rcut rcb
  let w := putBits w 40 24 (bits w 63 40 + 1)
  let complete := bit w 8 && bits w 63 40 == bits w 39 16
  let w := if complete then putBits w 8 1 0 else w
  let s := s.poke (rcb + 0x98) 8 w
  if complete then
    match s.regionAt (s.regionPkg rcb) rcb with
    | some r => s.notify core 0 r.cutTo.toNat [word w]
    | none => s
  else s

/-- The slots of an actor that have an edge, with the peers their LINKs name. -/
def State.edges (s : State) (core : Nat) (b : Bound) : List (Nat × Nat) :=
  (List.range b.depth).filterMap (fun k =>
    let a := b.slotAt core k
    if hdrLive (s.rdNat a 8) then
      let link := s.rdNat (a + 120) 8
      some (bits link 55 32, bits link 7 0)
    else none)

/-- An actor records for cut id (R251); `counts` says whether it adds to REC, `copies` whether BELIEF goes to SNAP. -/
def State.record (s : State) (core slot id : Nat) (counts copies : Bool) : State :=
  match tfind (s.coreAt core).binds slot with
  | none => s
  | some b =>
    let st := b.d.state.toNat
    let s := if b.d.cls == 1 && copies then
        (List.range 16).foldl (fun s k =>
          s.pokeVirt core b.rcb (st + 0x140 + 8 * k) 8 (s.peekVirt core b.rcb (st + 0xC0 + 8 * k))) s
      else s
    let g := s.ghdr core b
    let s := s.pokeVirt core b.rcb st 8 (putBits (putBits g 24 8 id) 32 1 1)
    let s := (s.edges core b).foldl (fun s e => s.sendMarker b.rcb e.1 e.2 id) s
    if counts then s.countRecorded core b.rcb else s

/-- The actor has not yet recorded for cut id (R251). -/
def State.notRecorded (s : State) (core : Nat) (b : Bound) (id : Nat) : Bool :=
  let g := s.ghdr core b
  !bit g 32 || bits g 31 24 != id

/-- A marker or a cut-start reaches a graph actor (R251). -/
def State.marker (s : State) (core slot id : Nat) : State :=
  match tfind (s.coreAt core).binds slot with
  | some b => if b.isGraph && s.notRecorded core b id then s.record core slot id true true else s
  | none => s

/-- CUT_START_ARRIVAL (R250). -/
def State.cutStart (s : State) (core rcb id : Nat) : State :=
  (s.coreAt core).binds.foldl (fun s b => if b.2.rcb == rcb then s.marker core b.1 id else s) s

/-- The active cut of a region (R249). -/
def State.activeCut (s : State) (rcb : Nat) : Option Nat :=
  let w := s.rcut rcb
  if bit w 8 then some (bits w 7 0) else none

/-! ### Arrivals -/

/-- A message of 120 bytes reaches an in-slot (R236): accepted, or discarded and counted in DISC, which of an actor that is bound
and no graph actor is the same word of its STATE block (log entry 154). -/
def State.arrive (s : State) (rcb act slot : Nat) (msg : List Byte) : State :=
  match s.findActor rcb act with
  | none => s
  | some (core, bslot, b) =>
    let a := b.slotAt core slot
    let h := s.rdNat a 8
    let mh := natOfBytes (msg.take 8)
    if b.isGraph && decide (slot < b.depth) && hdrLive h && !hdrClosed h && hdrEdge h == hdrEdge mh then
      let res := natOfBytes ((msg.drop 116).take 4)
      let s := s.wrBytes a (msg.take 120)
      let s := s.setBound core bslot (fun b => { b with pres := (minmaxF .f32 true b.pres res).1 })
      let s := s.raiseDebt core bslot
      if exceeds res (s.coreAt core).cveps.toNat then s.modCore core (·.ageReset s.now) else s
    else
      let d := s.peekVirt core b.rcb (b.d.state.toNat + 0x10) % 2 ^ 32
      s.pokeVirt core b.rcb (b.d.state.toNat + 0x10) 4 (min (d + 1) 0xFFFFFFFF)

/-- Something sent earlier on the edge is still on its way, or, of a message, not yet acknowledged (R236). -/
def State.edgeBusy (s : State) (id rcb act slot : Nat) : Bool :=
  s.txns.any (fun t => decide (t.1 < id) && match t.2.op with
    | .slot r a k _ _ => r == rcb && a == act && k == slot | _ => false) ||
  s.flights.any (fun f => decide (f.1 < id) && match f.2 with
    | .marker r a k _ => r == rcb && a == act && k == slot | _ => false)

/-- A relocation of message banks, or a held line of the state block, holds what arrives for an actor (R236, R376). -/
def State.arrivalWaits (s : State) (core : Nat) (b : Bound) (slot : Nat) : Bool :=
  (s.coreAt core).poolWaits 2 (b.ring0.base + 128 * slot) 128 true ||
  (List.range 8).any (fun k => match s.whereIs core b.rcb (b.d.state.toNat + 64 * k) with
    | some ga => s.lineHeld (lineOf ga)
    | none => false)

/-- GSEND_ARRIVAL: a message for an actor that is not bound is held until it is; of a region that has ended it is refused
(R236, R351). -/
def State.performSlot (s : State) (id : Nat) (t : Txn) : State :=
  match t.op with
  | .slot rcb act slot msg _ =>
    if s.edgeBusy id rcb act slot then s
    else match s.findActor rcb act with
      | some (core, _, b) =>
        if s.arrivalWaits core b slot then s else (s.arrive rcb act slot msg).setTxn id { t with stage := .done }
      | none => if s.isGone rcb then s.setTxn id { t with stage := .failed cPERM_DENIED } else s
  | _ => s

/-- MARKER_ARRIVAL: held and dropped as a message is held and refused. -/
def State.performMarker (s : State) (id rcb act slot mark : Nat) : State :=
  if s.edgeBusy id rcb act slot then s
  else match s.findActor rcb act with
    | some (core, bslot, b) =>
      if s.arrivalWaits core b slot then s else ({ s with flights := tdel s.flights id } : State).marker core bslot mark
    | none => if s.isGone rcb then { s with flights := tdel s.flights id } else s

end Sys2Proof.Machine
end

