-- ==== Sys2Proof/Machine/Lines.lean ====
section
/-! DEFINITION. Fetch lines: slots, templates, parity, targets and sequential flow (R35 to R46). -/

namespace Sys2Proof.Machine

/-- What a template says of a slot (R38): its stream, and whether it is the first or the second of a pair. -/
inductive SlotKind
  | a | x | e
  /-- The X slot of an [A X] pair. -/
  | pairX
  /-- The E and X slots of an [E X] pair. -/
  | pairE
  | followX
  deriving DecidableEq, Repr

/-- The occupied slots of each template (R38). -/
def template : Nat → List SlotKind
  | 0 => [.a] | 1 => [.x] | 2 => [.e] | 3 => [.a, .a] | 4 => [.a, .a, .a] | 5 => [.a, .a, .a, .a]
  | 6 => [.a, .a, .a, .a, .a] | 7 => [.x, .x] | 8 => [.x, .x, .x] | 9 => [.x, .x, .x, .x]
  | 10 => [.x, .x, .x, .x, .x] | 11 => [.a, .pairX] | 12 => [.a, .pairX, .a] | 13 => [.a, .pairX, .a, .a]
  | 14 => [.a, .pairX, .a, .a, .a] | 15 => [.a, .a, .pairX] | 16 => [.a, .a, .a, .pairX]
  | 17 => [.a, .a, .a, .a, .pairX] | 18 => [.a, .pairX, .a, .pairX] | 19 => [.a, .pairX, .a, .a, .pairX]
  | 20 => [.x, .a] | 21 => [.x, .a, .a] | 22 => [.x, .a, .a, .a] | 23 => [.x, .x, .a]
  | 24 => [.pairE, .followX] | 25 => [.pairE, .followX, .a] | 26 => [.a, .pairE, .followX]
  | 27 => [.a, .a, .pairE, .followX] | 28 => [.a, .e] | 29 => [.a, .a, .e] | 30 => [.e, .a] | 31 => [.e, .a, .a]
  | _ => []

def SlotKind.stream : SlotKind → Sys2Proof.Stream
  | .a => .a | .x => .x | .e => .e | .pairX => .x | .pairE => .e | .followX => .x

/-- The line word (R36). -/
def Line.lineWord (l : Line) : Nat := (l.raw.extractLsb' 480 32).toNat
def Line.template (l : Line) : List SlotKind := Sys2Proof.Machine.template (Sys2Proof.bits l.lineWord 26 22)
def Line.tmask (l : Line) (k : Nat) : Bool := bit l.lineWord (27 + k)
/-- The 96 bits of slot k (R35). -/
def Line.slot (l : Line) (k : Nat) : BitVec 96 := l.raw.extractLsb' (96 * k) 96

/-- Every parity bit matches (R37). -/
def Line.parityOk (l : Line) : Bool :=
  let w := l.lineWord
  (bit w 15 == parity 16 (w / 2 ^ 16)) &&
  (List.range 5).all (fun k => (List.range 3).all (fun j =>
    bit w (3 * k + j) == parity 32 ((l.slot k).extractLsb' (32 * j) 32).toNat))

/-- The line and slot of a program counter (R41). -/
def pcLine (pc : Word) : Word := word (pc.toNat / 64 * 64)
def pcSlot (pc : Word) : Nat := pc.toNat % 8

/-- The sequential successor of a slot (R40, R42). -/
def Line.next (l : Line) (pc : Word) : Word :=
  let k := pcSlot pc
  let step := match l.template[k]? with | some .pairE => 2 | _ => 1
  if k + step < l.template.length then word (pc.toNat + step)
  else word ((pc.toNat / 64 * 64 + 64) % 2 ^ 56)

/-- The target test of R44 and R40. -/
def Line.targetOk (l : Line) (pc : Word) : Bool :=
  let k := pcSlot pc
  bits pc.toNat 5 3 == 0 && decide (k < 5) &&
  (match l.template[k]? with | some .followX => false | some _ => l.tmask k | none => false)

/-- A direct branch target (R43). -/
def directTarget (pc : Word) (ext : BitVec 36) : Word :=
  let line := (wrapInt 50 ((bits pc.toNat 55 6 : Int) + sintOf 33 (bits ext.toNat 35 3)))
  word (line * 64 + bits ext.toNat 2 0)

/-- A target of the E target layout: a signed line offset and a slot (R58). -/
def fieldTarget (pc : Word) (t : BitVec 18) : Word :=
  let line := (wrapInt 50 ((bits pc.toNat 55 6 : Int) + sintOf 15 (bits t.toNat 17 3)))
  word (line * 64 + bits t.toNat 2 0)

/-- The line word of five slots under a template, every occupied slot a target, with its parity bits (R36, R37). -/
def lineWordOf (tpl n : Nat) (slots : List (BitVec 96)) : Nat :=
  let top := tpl * 2 ^ 22 + (2 ^ n - 1) * 2 ^ 27
  let spar := ((List.range 5).map (fun k => ((List.range 3).map (fun j =>
    natOfBool (parity 32 (((slots.getD k 0).extractLsb' (32 * j) 32).toNat)) * 2 ^ (3 * k + j))).sum)).sum
  top + natOfBool (parity 16 (top / 2 ^ 16)) * 2 ^ 15 + spar

/-- The 512 bits of a line (R35). -/
def lineBits (tpl n : Nat) (slots : List (BitVec 96)) : BitVec 512 :=
  BitVec.ofNat 512 (((List.range 5).map (fun k => (slots.getD k 0).toNat * 2 ^ (96 * k))).sum +
    lineWordOf tpl n slots * 2 ^ 480)

/-- The instruction at the pc of a buffered line, if the word decodes. -/
def Line.instr (l : Line) (pc : Word) : Except DecodeError Instr := decode (l.slot (pcSlot pc))

/-- The follow-on command in the slot after the pc (R40). -/
def Line.follow (l : Line) (pc : Word) : Except DecodeError Instr := decode (l.slot (pcSlot pc + 1))

/-- The sequential successor of a context's instruction. -/
def Ctx.successor (c : Ctx) : Word :=
  match c.line with
  | some l => if l.addr == pcLine c.pc then l.next c.pc else word (c.pc.toNat + 1)
  | none => word (c.pc.toNat + 1)

/-- The context goes on to a pc. A skip of the slot it leaves is used up
(R263); the slots of a handler leave it. -/
def Ctx.goto (c : Ctx) (pc : Word) : Ctx :=
  { c with pc := pc, stall := none, xfer := none, xskip := c.xskip && c.mode == .s }
/-- The context goes on to the next slot, which is the TNEXT of a trap of the X-half that waits for its entry (R258). -/
def Ctx.advance (c : Ctx) : Ctx :=
  let c := c.goto c.successor
  { c with trap := c.trap.map (fun t => { t with tnext := pcField c.pc }) }

/-- An instruction that waited for its answer has completed and the context goes on. -/
def Ctx.resume (c : Ctx) : Ctx := { c.advance with awaited := none }

/-- The answer to an instruction that waited for it: gD is written and the context goes on. -/
def Ctx.answer (c : Ctx) (d : Reg) (v : Word) : Ctx := (c.wg d.index v).resume

end Sys2Proof.Machine
end

