-- ==== Sys2Proof/Machine/Region.lean ====
section
/-! DEFINITION. Regions: budgets, bind records, launches, kills, whole-region switching and manifests (R346 to R361,
R380, R381). -/

namespace Sys2Proof.Machine

/-! ### Manifests -/

/-- Extend(k, src, data) (R380). -/
def State.extend (s : State) (rcb k src : Nat) (data : List Byte) : State :=
  s.modRegion rcb (fun r =>
    let old := r.comps[k % 6]'(Nat.mod_lt _ (by decide))
    let tag := bytesOf 8 (data.length * 2 ^ 16 + src * 2 ^ 8 + k)
    { r with comps := r.comps.set (k % 6) (Sha.sha384 (old ++ tag ++ data)) (Nat.mod_lt _ (by decide)),
             extensions := (r.extensions + 1) % 2 ^ 32 })

/-- MD (R381). -/
def Region.digest (r : Region) : List Byte := Sha.sha384 (r.comps.toList.flatten ++ r.chal)

def State.extendMode (s : State) (rcb : Nat) : State :=
  s.extend rcb 1 1 (bytesOf 8 (natOfBool (s.effDm rcb) + s.effPolicy rcb * 2 + s.effPrio rcb * 8))
def State.extendSeeds (s : State) (rcb : Nat) : State := s.extend rcb 3 1 (bytesOf 8 (s.effSeed rcb))
def State.extendLcount (s : State) (rcb : Nat) : State := s.extend rcb 5 1 (bytesOf 8 (s.effLcount rcb))

/-- The region and its ancestors, nearest first. -/
def ancestors (s : State) : Nat → Nat → List Nat
  | 0, _ => []
  | n + 1, rcb => let parent := s.peek (rcb + 0x08) 8; rcb :: if parent == 0 then [] else ancestors s n parent

/-- The TREE extensions of a creation or a kill: the region itself at its creation, and every ancestor (R380). -/
def State.extendTree (s : State) (rcb : Nat) (kill : Bool) : State :=
  match s.regionAt (s.regionPkg rcb) rcb with
  | none => s
  | some r =>
    let data := bytesOf 8 (r.depth * 2 ^ 32 + r.ordinal + if kill then 2 ^ 63 else 0)
    (((ancestors s 4096 rcb).drop (if kill then 1 else 0)).reverse).foldl (fun s a => s.extend a 4 1 data) s

/-! ### Budgets -/

/-- COREU and MSGU (R346). -/
def State.coreu (s : State) (rcb : Nat) : Nat := bits (s.peek (rcb + 0x88) 8) 13 0
def State.msgu (s : State) (rcb : Nat) : Nat := bits (s.peek (rcb + 0x88) 8) 55 16
def State.chargeCores (s : State) (rcb : Nat) (n : Int) : State :=
  (s.owners rcb 12).foldl (fun s o =>
    s.poke (o + 0x88) 8 (putBits (s.peek (o + 0x88) 8) 0 14 ((s.coreu o : Int) + n).toNat)) s
def State.chargeMsg (s : State) (rcb : Nat) (n : Int) : State :=
  (s.owners rcb 13).foldl (fun s o =>
    s.poke (o + 0x88) 8 (putBits (s.peek (o + 0x88) 8) 16 40 ((s.msgu o : Int) + n).toNat)) s
def State.coresFit (s : State) (rcb n : Nat) : Bool :=
  (s.owners rcb 12).all (fun o => decide (s.coreu o + n ≤ s.effCores o))
def State.msgFits (s : State) (rcb n : Nat) : Bool :=
  (s.owners rcb 13).all (fun o => decide (s.msgu o + n ≤ s.effMsgb o))

/-- Room for one more deque record (R302, R346). -/
def State.dequeFits (s : State) (core rcb : Nat) : Bool := s.dequeTakes core rcb 1

/-- Room for one more future of a region in a cluster (R308). -/
def State.futureFits (s : State) (cluster rcb : Nat) : Bool :=
  (s.owners rcb 14).all (fun o => decide
    (((s.clusterAt cluster).futures.filter (fun f => f.2.st != .free && s.under f.2.rcb 14 o)).length < s.effFut o))

/-- Catalogue buckets of a region's budget in use in a cluster, migration areas included (R333, R338). -/
def Catalogue.buckets (c : Catalogue) : Nat :=
  c.l * 2 ^ c.geo.b + match c.migrating with | some g => c.l * 2 ^ g.b | none => 0
def State.bucketsFit (s : State) (cluster rcb n : Nat) : Bool :=
  (s.owners rcb 15).all (fun o => decide
    ((((s.clusterAt cluster).cats.filter (fun c => s.under c.2.rcb 15 o)).map (fun c => c.2.buckets)).sum + n ≤ s.effCatb o))

/-! ### Descriptors and rings -/

/-- A port word's fields (R62). -/
def portSize (w : Nat) : Nat := 8 * (bits w 7 0 + 1)
def portRate (w : Nat) : Nat := bits w 15 8
def portDepth (w : Nat) : Nat := bits w 23 16

/-- The descriptor at a global address (R61). -/
def State.readDesc (s : State) (ga : Nat) : Desc :=
  let w2 := s.peek (ga + 0x10) 8
  let nout := bits w2 13 10
  let nin := bits w2 9 6
  { entry := word (bits (s.peek ga 8) 55 0), state := word (s.peek (ga + 8) 8), nout := nout, nin := nin,
    prio := bits w2 5 3, cls := bits w2 2 0, rcb := s.peek (ga + 0x18) 8,
    ins := (List.range (min nin 8)).map (fun k => s.peek (ga + 0x20 + 4 * k) 4),
    outs := (List.range (min nout 8)).map (fun k => s.peek (ga + 0x40 + 8 * k) 8) }

/-- The limits of R61, R62 and R228 that one descriptor can break. -/
def State.descOk (s : State) (core ga : Nat) : Bool :=
  let d := s.readDesc ga
  let w0 := s.peek ga 8
  let w2 := s.peek (ga + 0x10) 8
  let ioOk (w : Nat) := decide (1 ≤ portRate w) && decide (portRate w ≤ portDepth w)
  let graph := d.cls == 1 || d.cls == 2
  let depth := portDepth (d.ins.headD 0)
  let ftype := bits (s.peekVirt core d.rcb d.state.toNat) 15 8
  let arity := fttArity (s.peek (s.effFtt d.rcb + 32 * (ftype % 64)) 8)
  ga % 128 == 0 && bits w0 63 56 == 0 && bits w2 63 14 == 0 && decide (d.nout ≤ 8) && decide (d.nin ≤ 8) && decide (d.cls ≤ 4) &&
  (decide (d.cls < 3) || (d.nin == 0 && d.nout == 0)) &&
  (List.range 8).all (fun k => let w := s.peek (ga + 0x20 + 4 * k) 4
    if k < d.nin then bits w 31 24 == 0 && ioOk w else w == 0) &&
  (List.range 8).all (fun k => let w := s.peek (ga + 0x40 + 8 * k) 8
    if k < d.nout then bits w 63 59 == 0 && bits w 31 24 == 0 && ioOk w else w == 0) &&
  (!graph || (d.nin == 1 && d.nout == 0 && bits (d.ins.headD 0) 7 0 == 15 && portRate (d.ins.headD 0) == 1 &&
    (d.cls == 1 || depth == arity)))

/-- Where a ring of n bytes fits among others in a MSG role: the lowest 32-byte granule (R63, log entry 13). -/
def placeRing (used : List (Nat × Nat)) (limit n : Nat) : Option Nat :=
  ((0 :: used.map (fun u => u.1 + u.2)).filter (fun a =>
    decide (a + n ≤ limit) && used.all (fun u => !overlap u.1 u.2 a n))).min?

def Core.rings (c : Core) : List Ring := c.binds.flatMap (fun b => b.2.ins ++ b.2.outs)
def Ring.span (r : Ring) : Nat × Nat := (r.base, ringBytes r)

/-- Place rings one after another. -/
def placeRings (limit : Nat) : List (Nat × Nat) → List Ring → Option (List Ring)
  | _, [] => some []
  | used, r :: rs =>
    match placeRing used limit (ringBytes r) with
    | none => none
    | some a => (placeRings limit ((a, ringBytes r) :: used) rs).map ({ r with base := a } :: ·)

def Desc.inRings (d : Desc) : List Ring :=
  d.ins.map (fun w => ⟨0, portSize w, portDepth w, portRate w, 0, if d.cls == 1 || d.cls == 2 then 1 else 0, 0, 0⟩)
def Desc.outRings (d : Desc) (abase : Nat) : List Ring :=
  d.outs.map (fun w => ⟨0, portSize w, portDepth w, portRate w, 0, 0, abase + bits w 55 32, bits w 58 56⟩)

/-! ### Bind operations -/

/-- The counts of a split keep R107, sum to 64, and stay within a budget word (R346, R353). -/
def splitOk (c : Core) (split budget : Nat) : Bool :=
  let n (r : Role) := poolField split r
  let all := [Role.reg, .mat, .scr, .msg, .cch]
  (all.map n).sum == 64 && all.all (fun r => roleMin { c with scrhwm := 0 } r (n r) && decide (n r ≤ roleMax r) &&
    decide (n r ≤ poolField budget r))

/-- Every line leaves a core's CCH, and every delta goes home (R280, R291, R353). -/
def State.flushAll (s : State) (core : Nat) : State :=
  let s := (s.coreAt core).lines.foldl (fun s l => match (s.coreAt core).findLine l.addr with
    | some l => s.evict core l | none => s) s
  (s.coreAt core).ulines.foldl (fun s u => s.evictU core u.addr) s

/-- The mailbox goes: its messages are dropped and its held entries refused (R311, R351). -/
def State.dropMailbox (s : State) (core m : Nat) : State :=
  match tfind (s.coreAt core).mailboxes m with
  | none => s
  | some mb =>
    let s := mb.held.foldl (fun s h => match h.txn with
      | some id => match tfind s.txns id with
        | some t => s.setTxn id { t with stage := .failed cMBX_UNBOUND }
        | none => s
      | none => s) s
    s.modCore core (fun c => { c with mailboxes := tdel c.mailboxes m })

/-- The firing of a slot, on a context or in the frame store, is discarded (R66), and with it the relinearisation task of
its factor, wherever that is. -/
def State.discardSlot (s : State) (core slot : Nat) : State :=
  let mine (k : Nat) (f : Option Firing) : Bool := match f with
    | some f => (k == core && f.act.isSome && f.slot == slot) || f.kind == .relin core slot
    | none => false
  s.cores.foldl (fun s k =>
    let k := k.1
    let s := (List.range 4).foldl (fun s fc => if mine k (s.ctxOf k fc).firing then s.freeCtx k fc else s) s
    s.modCore k (fun c => { c with frames := c.frames.filter (fun f => !mine k f.ctx.firing),
                                   deque := c.deque.filter (fun t => t.kind != .relin core slot) })) s

/-- The core holds no more records: it is freed (R353). -/
def State.freeCore (s : State) (core rcb : Nat) : State :=
  let s := (List.range 4).foldl (fun s fc => if (s.ctxOf core fc).firing.isSome then s.freeCtx core fc else s) s
  let s := (s.coreAt core).mailboxes.foldl (fun s m => s.dropMailbox core m.1) s
  let s := s.flushAll core
  let s := s.modCore core (fun c => { c with region := none, deque := [], frames := [], claimed := false })
  s.chargeCores rcb (-1)

/-- A graph actor that has not recorded and is unbound during a cut records first (R252). -/
def State.recordLast (s : State) (core slot : Nat) (b : Bound) : State :=
  match s.activeCut b.rcb with
  | some id => if b.isGraph && s.notRecorded core b id then s.record core slot id true true else s
  | none => s

/-- The old core's dirty sectors of an actor's state block go home (R65): those of the DRAM page that holds STATE, since no
rule gives the block of a plain actor a size (log entry 147). -/
def State.storeStateBlock (s : State) (core : Nat) (b : Bound) : State :=
  match locate s (.core core) .s core (s.effPtroot b.rcb) .r b.d.state.toNat with
  | .ok (⟨_, _, some t⟩, _) =>
    ((s.coreAt core).lines.filter (fun l => overlap l.addr 64 t.pageGa (2 ^ leafBits t.level))).foldl
      (fun s l => s.settleOwn core l.addr) s
  | _ => s

/-- The task actor has ended its one firing (R66). -/
def State.isDone (s : State) (rcb act : Nat) : Bool :=
  match s.regionAt (s.regionPkg rcb) rcb with
  | some r => r.doneActs.contains act
  | none => false

/-- UNBIND (R65, R66, R252, R353). The record of an actor in DONE goes, and the actor stays DONE (log entry 113). -/
def State.unbindActor (s : State) (core slot : Nat) : State :=
  match tfind (s.coreAt core).binds slot with
  | none => s
  | some b =>
    let s := s.recordLast core slot b
    let s := s.discardSlot core slot
    let s := match b.mailbox with | some m => s.dropMailbox core m | none => s
    let s := s.storeStateBlock core b
    let s := if b.life == .done then s.modRegion b.rcb (fun r => { r with doneActs := b.act :: r.doneActs }) else s
    let s := s.modCore core (fun c => { c with binds := tdel c.binds slot })
    let s := s.chargeMsg b.rcb (-((((b.ins ++ b.outs).map ringBytes).sum : Nat) : Int))
    if (s.coreAt core).binds.isEmpty then s.freeCore core b.rcb else s

/-- The bytes of a core's pool, register space and column slices. -/
def State.zeroCore (s : State) (core : Nat) : State :=
  [poolAddr 1 core 0, poolAddr 2 core 0, poolAddr 3 core 0].foldl (fun s k => s.zero k (2 ^ 19))
    (s.zero (regSpaceKey core 0) (2 ^ 19))

/-- The window bases of a launch: no rule says where they come from (R67, log entry 14); a base is a multiple of 8 below
2^56 (R121). -/
def launchWindows (fresh : Nat) : Vector Word 7 :=
  Vector.ofFn (fun k => word (Config.freeValue (fresh + k.val)).toNat &&& 0x00FFFFFFFFFFFFF8)

/-- Who hands over a launch's tables: the core and region whose mapping reads their addresses, or none for a host, whose
addresses are global ones (R352, R401). -/
abbrev Issuer := Option (Nat × Nat)

/-- The global address of a word of a launch's tables. -/
def State.launchAt (s : State) (who : Issuer) (ea : Nat) : Option Nat :=
  match who with
  | some (core, rcb) => s.whereIs core rcb ea
  | none => some ea

/-- A word of a launch's tables, 0 when it does not translate. -/
def State.launchWord (s : State) (who : Issuer) (ea : Nat) : Nat :=
  match s.launchAt who ea with | some ga => s.peek ga 8 | none => 0

/-- What the launch of an ABASE gives its firings: made once, at the first bind of that launch (R8, R67, R352). -/
def State.launchPage (s : State) (who : Issuer) (rcb launch abase : Nat) : LaunchPage × State :=
  match (s.regionAt (s.regionPkg rcb) rcb).bind (fun r => tfind r.pages abase) with
  | some p => (p, s)
  | none =>
    let narg := min (bits (s.peek (launch + 8) 8) 31 16) 496
    let args := s.peek (launch + 0x18) 8
    let p : LaunchPage := ⟨s.effLcount rcb, (List.range narg).map (fun k => word (s.launchWord who (args + 8 * k))),
      launchWindows s.fresh⟩
    (p, ({ s with fresh := s.fresh + 7 } : State).modRegion rcb (fun r => { r with pages := Sys2Proof.Machine.tset r.pages abase p }))

/-- The first bind of a region onto a core (R353, R373). -/
def State.firstBind (s : State) (core rcb lcore split : Nat) (page : LaunchPage) : State :=
  let s := s.zeroCore core
  let tv := s.effTvecv rcb
  let q := s.effQwin rcb
  let s := s.modCore core (fun c => { c with
    lines := [], ulines := [], vwv := View.reset, vwt := View.reset, vwz := View.reset, tiles := [], zflags := 0,
    scrhwm := 0, banks := #v[poolField split .reg, poolField split .mat, poolField split .scr, poolField split .msg,
      poolField split .cch], move := none, fills := [],
    tvecEn := bit tv 63, tvecPc := word (bits tv 55 6 * 2 ^ 6 + bits tv 2 0), rgn := bits (s.peek rcb 8) 11 0,
    cveps := BitVec.ofNat 32 q, qwin := BitVec.ofNat 32 (q / 2 ^ 32),
    round := 0, cnt := 0, region := some rcb, lcore := lcore, deque := [], frames := [], mailboxes := [], gang := none,
    claimed := false, page := page })
  s.chargeCores rcb 1

/-- ABASE of a bind record, which names an actor and a launch record: the entry that holds the descriptor tells it. Where
several do, the one that agrees with an actor already bound from that launch counts, else the first (R352; log entry 115). -/
def State.abaseOf (s : State) (who : Issuer) (rcb launch desc act : Nat) : Nat :=
  let nact := bits (s.peek (launch + 8) 8) 15 0
  let acts := s.peek (launch + 0x10) 8
  let fits := ((List.range nact).filter (fun a => decide (a ≤ act) && s.launchWord who (acts + 16 * a) == desc)).map (act - ·)
  let known := s.cores.flatMap (fun c => c.2.binds.filterMap (fun b =>
    if b.2.rcb == rcb && b.2.launch == launch then some b.2.abase else none))
  ((fits.find? (known.contains ·)).or fits.head?).getD act

/-- The bytes of a graph actor's slots: its bind leaves none live (R228, R232). -/
def State.clearSlots (s : State) (core : Nat) (b : Bound) : State :=
  if b.isGraph then s.zero (b.slotAt core 0) (128 * b.depth) else s

/-- BIND of an actor whose record has passed its checks. A core that held SC copies before it drops them: the actor's
earlier firings may have stored elsewhere (R65). -/
def State.placeActor (s : State) (who : Issuer) (abase : Option Nat) (core slot act desc launch lcore split : Nat) (d : Desc)
    (rings : List Ring) : State :=
  let s := match s.findActor d.rcb act with
    | some (k, sl, _) => s.unbindActor k sl
    | none => s
  let abase := abase.getD (s.abaseOf who d.rcb launch desc act)
  let (page, s) := s.launchPage who d.rcb launch abase
  let s := if (s.coreAt core).region.isNone then s.firstBind core d.rcb lcore split page
    else s.modCore core (fun c => { c with lines := c.lines.filter (·.cls != .sc) })
  let b : Bound := {
    act := act, desc := desc, launch := launch, rcb := d.rcb,
    abase := abase, split := split, d := d,
    ins := rings.take d.ins.length, outs := rings.drop d.ins.length,
    life := if s.isDone d.rcb act then .done else .idle, since := s.now, pres := 0,
    relin := false, relinDue := false, mailbox := none }
  let b := { b with outs := (b.outs.zip (d.outRings b.abase)).map (fun p => { p.1 with tact := p.2.tact }) }
  let s := (s.clearSlots core b).modCore core (fun c => { c with binds := tset c.binds slot b })
  let s := s.chargeMsg d.rcb ((rings.map ringBytes).sum : Nat)
  let s := match s.activeCut d.rcb with
    | some id => if b.isGraph && s.notRecorded core b id then s.record core slot id false false else s
    | none => s
  s.refresh core slot

/-- A bind record wakes a core that sleeps, whatever it leaves to start (R125). -/
def State.rouse (s : State) (core : Nat) : State :=
  s.modCore core (fun c => if c.cur = 0 then c else { c with cur := 0, quietSince := s.now })

/-- A bind operation on a core: its code and the state after (R353). A launch knows its ABASE. A mailbox handler and a task
are never HELD, so a HOLD of one answers STATE (R66; log entry 113). -/
def State.bindOp (s : State) (who : Issuer) (abase : Option Nat) (core : Nat) (w : List Nat) : Nat × State :=
  let w0 := w.getD 0 0
  let opc := bits w0 2 0
  let act := bits w0 55 32
  let slot := bits w0 12 8
  let lcore := w.getD 3 0
  let c := s.coreAt core
  let d := s.readDesc (w.getD 1 0)
  let rcb := if opc = 0 then d.rcb else c.region.getD 0
  let alive := (s.regionAt (corePkg core) rcb).isSome && (s.rcbState rcb == 0 || s.rcbState rcb == 2)
  let split := if w.getD 4 0 = 0 then s.effSplit rcb else w.getD 4 0
  let msg := if c.region.isNone then poolField split .msg else c.bankCount .msg
  let rings := d.inRings ++ d.outRings 0
  let used := if c.region.isNone then [] else c.rings.map Ring.span
  let bytes := (rings.map ringBytes).sum
  let held := tfind c.binds slot
  let here := match held with | some b => b.act == act | none => false
  if bits w0 63 56 ≠ 0 || bits w0 31 13 ≠ 0 || bits w0 7 3 ≠ 0 || decide (4 ≤ opc) || decide (2 ^ 14 ≤ lcore) ||
      (w.drop 5).any (· ≠ 0) || (alive && decide (s.effLcount rcb ≤ lcore)) then (1, s)
  else if (opc = 0 && !alive) || (opc ≠ 0 && c.region.isSome && !alive) ||
      (opc = 0 && c.region.isSome && c.region ≠ some rcb) then (3, s)
  else if (opc = 0 && held.isSome) || (opc ≠ 0 && !here) then (2, s)
  else match opc with
    | 0 =>
      if c.region.isNone && !s.coresFit rcb 1 then (7, s)
      else if (c.region.isNone && !(s.owners rcb 11).all (fun o => splitOk c split (s.effBanks o))) ||
          (c.region.isSome && w.getD 4 0 ≠ 0 && c.binds.any (fun b => b.2.split != w.getD 4 0)) then (4, s)
      else match placeRings (msg * 0x2000) used rings with
        | none => (5, s)
        | some rs =>
          if !s.msgFits rcb bytes then (5, s)
          else (0, (s.placeActor who abase core slot act (w.getD 1 0) (w.getD 2 0) lcore split d rs).rouse core)
    | 1 => (0, (s.unbindActor core slot).rouse core)
    | 2 =>
      match held with
      | some b => if (b.life == .idle || b.life == .ready) && decide (b.d.cls < 3) then
            (0, (s.setBound core slot (fun b => { b with life := .held })).rouse core)
          else (6, s)
      | none => (2, s)
    | _ =>
      match held with
      | some b => if b.life == .held then (0, (s.releaseActor core slot).rouse core) else (6, s)
      | none => (2, s)

/-! ### Launching -/

/-- Every core of a package, by key (R2). -/
def packageCores (pkg : Nat) : List Nat :=
  (List.range (2 ^ 14)).filterMap (fun c => if coordOk c then some (pkg * 2 ^ 14 + c) else none)

/-- The logical numbers the cores of a region hold. -/
def State.lcores (s : State) (rcb : Nat) : List Nat :=
  s.cores.filterMap (fun c => if c.2.region == some rcb then some c.2.lcore else none)

/-- The cores a placement may name: without records, or with records of the region, and with a free slot. -/
def State.usable (s : State) (rcb core : Nat) : Bool :=
  let c := s.coreAt core
  (c.region.isNone || c.region == some rcb) && decide (c.binds.length < 32) && (c.ctx.toList.all (fun x => x.unacked == 0))

/-- One actor of a launch on the core the firmware picks (R352, log entry 15): the bind code and the state. -/
def State.placeOne (s : State) (who : Issuer) (pkg rcb launch abase act desc pick : Nat) : Nat × State :=
  let cores := (packageCores pkg).filter (s.usable rcb)
  match cores[pick % max cores.length 1]? with
  | none => (7, s)
  | some core =>
    let c := s.coreAt core
    let slot := ((List.range 32).find? (fun k => (tfind c.binds k).isNone)).getD 0
    let lcore := if c.region.isSome then c.lcore
      else ((List.range (2 ^ 14)).find? (fun k => !(s.lcores rcb).contains k)).getD 0
    if s.effLcount rcb ≤ lcore then (7, s)
    else s.bindOp who (some abase) core [act * 2 ^ 32 + slot * 2 ^ 8, desc, launch, lcore, 0, 0, 0, 0]

/-- Bind the actors of a launch from entry a on; the first failing code with its entry. -/
def State.placeAll (s : State) (who : Issuer) (pkg rcb launch abase seq : Nat) : Nat → List Nat → Nat × Nat × State
  | _, [] => (0, 0, s)
  | a, desc :: rest =>
    match s.placeOne who pkg rcb launch abase (abase + a) desc (Config.placement seq a) with
    | (0, s) => s.placeAll who pkg rcb launch abase seq (a + 1) rest
    | (code, _) => (code, a, s)

/-- An out port of entry d fits the in port of its target (R352). -/
def State.outsOk (s : State) (descs : List Nat) (d : Desc) : Bool :=
  d.outs.all (fun w =>
    match descs[bits w 55 32]? with
    | none => false
    | some ga => let t := s.readDesc ga
      decide (bits w 58 56 < t.nin) && (match t.ins[bits w 58 56]? with
        | some iw => bits iw 7 0 == bits w 7 0 | none => false))

/-- LAUNCH at the firmware (R352): gD's value, and the state after. `issuer` is the issuing firing's region, or the BIND
of a host queue (R401). -/
def State.doLaunch (s : State) (who : Issuer) (core issuer gl seq : Nat) : Nat × State :=
  let pkg := corePkg core
  let at8 (ea : Nat) : Option Nat := (s.launchAt who ea).map (fun ga => s.peek ga 8)
  match s.launchAt who gl with
  | none => (6, s)
  | some launch =>
    let rcb := s.peek launch 8
    let w1 := s.peek (launch + 8) 8
    let nact := bits w1 15 0
    let narg := bits w1 31 16
    let acts := s.peek (launch + 0x10) 8
    let args := s.peek (launch + 0x18) 8
    let hints := (List.range nact).map (fun a => at8 (acts + 16 * a + 8))
    let descs := (List.range nact).map (fun a => at8 (acts + 16 * a))
    let spent := match s.regionAt (s.regionPkg rcb) rcb with | some r => r.spent | none => false
    let abase := if spent then 2 ^ 24 else bits (s.peek (rcb + 0xA0) 8) 23 0
    if gl % 64 ≠ 0 || bits w1 63 32 ≠ 0 || nact = 0 || decide (4096 < nact) || decide (496 < narg) ||
        (List.range 4).any (fun k => s.peek (launch + 0x20 + 8 * k) 8 ≠ 0) || descs.any (·.isNone) ||
        hints.any (fun h => match h with | some h => bits h 62 14 ≠ 0 | none => true) ||
        (List.range narg).any (fun k => (at8 (args + 8 * k)).isNone) ||
        (s.isLive rcb && decide (2 ^ 24 < abase + nact)) then (6, s)
    else if !s.isLive rcb || !isUnder s 4096 rcb issuer then (1, s)
    else
      let ds := descs.map (·.getD 0)
      match (List.range nact).find? (fun a => let ga := ds.getD a 0
          !s.descOk core ga || (s.readDesc ga).rcb != rcb || !s.outsOk ds (s.readDesc ga)) with
      | some a => (a * 256 + 2, s)
      | none =>
        match s.placeAll who pkg rcb launch abase seq 0 ds with
        | (0, _, s') => (abase * 256, (s'.poke (rcb + 0xA0) 8 ((abase + nact) % 2 ^ 24)).modRegion rcb
            (fun r => { r with spent := abase + nact == 2 ^ 24 }))
        | (4, _, _) => (4, s)
        | (5, a, _) => (a * 256 + 5, s)
        | _ => (3, s)

/-! ### Kills -/

/-- The live children of a region. -/
def State.childrenOf (s : State) (rcb : Nat) : List Nat :=
  s.packages.flatMap (fun p => p.2.regions.filterMap (fun r => if s.peek (r.1 + 8) 8 == rcb then some r.1 else none))

/-- The descendants of some regions, deepest first, then the regions (R351). -/
def subtreeOf (s : State) : Nat → List Nat → List Nat
  | 0, rs => rs
  | n + 1, rs => (match rs.flatMap s.childrenOf with | [] => [] | cs => subtreeOf s n cs) ++ rs
def subtree (s : State) (n rcb : Nat) : List Nat := subtreeOf s n [rcb]

def State.coresOf (s : State) (rcb : Nat) : List Nat :=
  s.cores.filterMap (fun c => if c.2.region == some rcb then some c.1 else none)

/-- Step 1 and the discard of step 2 of R351. -/
def State.markKilled (s : State) (rcb : Nat) : State :=
  let s := s.setRcbState rcb 4
  (s.coresOf rcb).foldl (fun s k =>
    let s := (List.range 4).foldl (fun s fc => if (s.ctxOf k fc).firing.isSome then s.freeCtx k fc else s) s
    s.modCore k (fun c => { c with frames := [] })) s

/-- Every context of the region has drained (R351 step 2). -/
def State.drained (s : State) (rcb : Nat) : Bool :=
  (s.coresOf rcb).all (fun k => (s.coreAt k).ctx.toList.all (fun x => x.unacked == 0))

/-- The status of a cancelled command, with the conditions of its fold and its TRUNC so far (R318, R323). -/
def Cmd.cancelledStatus (c : Cmd) (index : Nat) : Word :=
  word (index * 2 ^ 32 + bits c.status.toNat 12 9 * 2 ^ 9 + 0x100)

/-- The tile a command fills and the tile it reads, on its core (R316). -/
def cmdDest (i : Instr) : Option Nat :=
  match i with
  | .hcopy o => if o.h.d.isT then some o.h.d.index else none
  | .hgath o => some o.h.d.index
  | .hunpk o => some o.h.d.index
  | _ => none
def cmdSource (i : Instr) : Option Nat :=
  match i with
  | .hscat o => some o.h.s3.index
  | .hpack o => some o.h.s3.index
  | _ => none

/-- The completion record: the tile's ticket status and the channel's status (R318, R322). -/
def State.recordStatus (s : State) (c : Cmd) (status : Word) : State :=
  let named := [cmdDest c.i, cmdSource c.i].filterMap id
  let s := named.foldl (fun s n => s.modCore c.core (·.setTile n (fun t =>
    if t.ticket == some c.id then { t with status := status, statusTs := max t.statusTs c.ts } else t))) s
  s

def Cmd.channel (c : Cmd) : Nat :=
  match c.i with
  | .hcopy o => o.ch.toNat | .hgath o => o.ch.toNat | .hscat o => o.ch.toNat | .hpack o => o.ch.toNat
  | .hunpk o => o.ch.toNat | _ => 0

def State.dropCmd (s : State) (cl : Nat) (c : Cmd) : State :=
  s.modCluster cl (fun x => { x with chans := x.chans.map (fun q => q.filter (fun d => d.id != c.id)) })

/-- Write a command's channel status in the context that issued it (R322). -/
def State.channelStatus (s : State) (c : Cmd) (status : Word) : State :=
  s.modCtxOf c.core c.fc (fun x =>
    { x with channels := tset x.channels c.channel (status, max c.ts (tget (0, 0) x.channels c.channel).2) })

/-- The claims of a command on its destination lines end (R288). -/
def State.releaseClaims (s : State) (id : Nat) : State :=
  { s with packages := s.packages.map (fun p => (p.1, { p.2 with homes := p.2.homes.map (fun h =>
      (h.1, { h.2 with claims := h.2.claims.filter (·.id != id) })) })) }

/-- NOTIFY and its mailbox (R316). -/
def cmdW (i : Instr) : Nat :=
  match i with
  | .hcopy o => o.w.toNat | .hgath o => o.w.toNat | .hscat o => o.w.toNat | .hpack o => o.w.toNat
  | .hunpk o => o.w.toNat | _ => 0

/-- The destination a NOTIFY message names: a tile code, or HCOPY's address; of a scatter or a pack no rule says which
address, so it is a free value (R324). -/
def State.cmdTarget (s : State) (c : Cmd) : Word × State :=
  match cmdDest c.i, c.i with
  | some n, _ => ((Reg.code (.t (BitVec.ofNat 6 n))).setWidth 64, s)
  | none, .hcopy _ => (c.dst, s)
  | none, _ => s.takeFresh

/-- A command has ended: its records and its message (R318, R322, R324). -/
def State.endCmd (s : State) (cl : Nat) (c : Cmd) (status : Word) : State :=
  let s := (s.dropCmd cl c).releaseClaims c.id
  let s := (s.recordStatus c status).channelStatus c status
  if bit (cmdW c.i) 5 then
    let (target, s) := s.cmdTarget c
    s.notify c.core c.fc (poolAddr 2 c.core (bits (cmdW c.i) 4 0)) [status, target]
  else s

def tileUnits (t : Tile) : Nat := max 1 (t.memRow / 16)

/-- INDEX: the row a command is at, or its 16-byte unit for HCOPY (R318). -/
def State.cmdIndex (s : State) (c : Cmd) : Nat :=
  match c.i with
  | .hgath _ => match (cmdDest c.i).bind (tfind (s.coreAt c.core).tiles) with
    | some t => c.pos / tileUnits t | none => c.pos
  | .hscat _ => match (cmdSource c.i).bind (tfind (s.coreAt c.core).tiles) with
    | some t => c.pos / tileUnits t | none => c.pos
  | _ => c.pos

def State.setTileState (s : State) (core : Nat) (n : Option Nat) (st : TileState) : State :=
  match n with
  | some n => s.modCore core (·.setTile n (fun t => { t with state := st }))
  | none => s

/-- A fill that ends CANCELLED leaves no error of its own in its tile (R224). -/
def State.clearFillError (s : State) (c : Cmd) : State :=
  match cmdDest c.i with
  | some n => s.modCore c.core (·.setTile n (fun t => if t.ticket == some c.id then { t with err := none } else t))
  | none => s

/-- A command is cancelled (R323): a move stops, a follow-on that waits is withdrawn and gives up the tiles it holds, and a
failure that no record has reported yet is none. A command whose follow-on has been made ends as it would have. -/
def State.cancelCmd (s : State) (cl : Nat) (c : Cmd) : State :=
  let s := s.modCore c.core (·.dropReaders c.held)
  if c.stage == .running then
    (((s.setTileState c.core (cmdDest c.i) .empty).setTileState c.core (cmdSource c.i) .ready)).endCmd cl c
      (c.cancelledStatus (s.cmdIndex c))
  else if c.stage == .made then s.endCmd cl c c.status
  else if bit c.status.toNat 7 then (s.clearFillError c).endCmd cl c (c.cancelledStatus (bits c.status.toNat 63 32))
  else s.endCmd cl c (c.cancelledStatus 0)

def State.commandsOf (s : State) (rcb : Nat) : List (Nat × Cmd) :=
  s.clusters.flatMap (fun cl => (cl.2.chans.toList.flatten).filterMap (fun c => if c.rcb == rcb then some (cl.1, c) else none))

/-- A cluster after a region's end: its futures are FREE, its catalogues undefined and its commands on them dropped. A family
register that no defined catalogue is bound to any more keeps its other fields and is not VALID (R325, R327, R351). -/
def Cluster.dropRegion (cl : Cluster) (rcb : Nat) : Cluster :=
  let free (f : Future) : Future :=
    if f.rcb == rcb && f.st != .free then { f with st := .free, gen := f.gen % 255 + 1, waiters := [] } else f
  { cl with
    futures := cl.futures.map (fun f => (f.1, free f.2)),
    catq := cl.catq.filter (fun c => c.rcb != rcb),
    cats := cl.cats.filter (fun c => c.2.rcb != rcb),
    fams := Vector.ofFn (fun k =>
      let bound (dead : Bool) := cl.cats.any (fun c => c.2.family == k.val && (c.2.rcb == rcb) == dead)
      if bound true && !bound false then { cl.fams[k] with valid := false } else cl.fams[k]) }

/-- The updates of a region that its end drops are no longer counted (R335). -/
def State.dropUpdates (s : State) (rcb : Nat) : State :=
  (s.clusters.flatMap (fun cl => cl.2.catq.filter (fun q => q.isUpdate && q.rcb == rcb))).foldl
    (fun s q => s.modCtxOf q.core q.fc Ctx.updateDone) s

/-- The contexts that wait for one answer get it. -/
def Core.answerAll (c : Core) (a : Reg → Awaited) (v : Word) : Core :=
  { c with ctx := c.ctx.map (fun x =>
      match x.awaited with
      | some w =>
        match w with
        | .poolMove d => if a d = w then x.answer d v else x
        | .launch _ d => if a d = w then x.answer d v else x
        | .dmclose d => if a d = w then x.answer d v else x
        | .preempt d _ _ => if a d = w then x.answer d v else x
        | .regionSave d _ => if a d = w then x.answer d v else x
        | .regionKill d _ => if a d = w then x.answer d v else x
        | .reclass _ => x
      | none => x) }
def State.answerAll (s : State) (a : Reg → Awaited) (v : Word) : State :=
  { s with cores := s.cores.map (fun c => (c.1, c.2.answerAll a v)) }

/-- Steps 3 and 4 of R351. -/
def State.endKill (s : State) (rcb : Nat) : State :=
  let pkg := s.regionPkg rcb
  let s := (s.commandsOf rcb).foldl (fun s c => s.cancelCmd c.1 c.2) s
  let s := s.dropUpdates rcb
  let s : State := { s with clusters := s.clusters.map (fun cl => (cl.1, cl.2.dropRegion rcb)) }
  let s := s.poke (rcb + 0x98) 8 (putBits (s.rcut rcb) 8 1 0)
  let s := (s.coresOf rcb).foldl (fun s k =>
    (s.coreAt k).binds.foldl (fun s b => s.unbindActor k b.1) s) s
  let s := (s.coresOf rcb).foldl (fun s k => s.freeCore k rcb) s
  let s := s.extendTree rcb true
  let parent := s.peek (rcb + 8) 8
  let s := if parent == 0 then s
    else s.poke (parent + 0x10) 8 (putBits (s.peek (parent + 0x10) 8) 24 16 (bits (s.peek (parent + 0x10) 8) 39 24 - 1))
  let s := s.modPkg pkg (fun p => { p with regions := tdel p.regions rcb })
  s.answerAll (fun d => .regionKill d rcb) 0

/-- A PREEMPT whose firing ended before it could be saved has nothing to save: NONE (R86, R360, log entry 42). -/
def State.voidPreempts (s : State) : State :=
  s.cores.foldl (fun s c => (List.range 4).foldl (fun s fc =>
    match (s.ctxOf c.1 fc).awaited with
    | some (.preempt d k t) => if (s.ctxOf k t).preempt == some true then s else s.modCtxOf c.1 fc (·.answer d 1)
    | _ => s) s) s

/-- One region of a subtree that a kill ends: its steps 1 and 2, and when it has drained its steps 3 and 4. The regions
after it in the order wait for them (R351). -/
def State.killStep (x : State × Bool) (r : Nat) : State × Bool :=
  let (s, on) := x
  if !on || (s.regionAt (s.regionPkg r) r).isNone then x
  else
    let s := if s.rcbState r == 4 then s else s.markKilled r
    if s.drained r then (s.endKill r, true) else (s, false)

/-- Go on with the kills, each region by region, deepest first (R351). -/
def State.finishKills (s : State) : State :=
  let doomed := s.packages.flatMap (fun p => p.2.regions.filterMap (fun r => if r.2.doomed then some r.1 else none))
  (doomed.foldl (fun s r => ((subtree s 4096 r).foldl State.killStep (s, true)).1) s).voidPreempts

/-- RGN.KILL of a region and its descendants (R351). -/
def State.kill (s : State) (rcb : Nat) : State :=
  (s.modRegion rcb (fun r => { r with doomed := true })).finishKills

/-! ### Whole-region switching -/

/-- Copy n bytes of memory from one key range to another. -/
def Memory.copy (m : List Host.Cell) (src dst n : Nat) : List Host.Cell :=
  let cells := m.filter (fun c => decide (src ≤ c.1) && decide (c.1 < src + n))
  cells.foldl (fun m c => Memory.write m (c.1 - src + dst) c.2) (Memory.clear m dst n)

/-- The parts of a core's pool in the order of the save area: key of the first byte, bytes (R361). -/
def poolParts (core : Nat) (c : Core) : List (Nat × Nat) :=
  [(regSpaceKey core 0, c.bankCount .reg * 0x2000), (regSpaceKey core 0x40000, c.bankCount .mat * 0x2000),
   (poolAddr 1 core 0, c.bankCount .scr * 0x2000), (poolAddr 2 core 0, c.bankCount .msg * 0x2000)]

/-- No core caches a line of a range (R288). -/
def State.flushRange (s : State) (ga n : Nat) : State :=
  s.cores.foldl (fun s c => c.2.lines.foldl (fun s l =>
    if overlap l.addr 64 ga n then (s.writeBack c.1 l.addr).modCore c.1 (·.dropLine l.addr) else s) s) s

/-- The block of a logical core in the save area. -/
def blockAt (save lcore : Nat) : Nat := save + lcore * 0x10C000

def State.savePool (s : State) (core block : Nat) : State :=
  let c := s.coreAt core
  let (m, _) := (poolParts core c).foldl (fun (x : List Host.Cell × Nat) p =>
    (Memory.copy x.1 p.1 (block + x.2) p.2, x.2 + p.2)) (s.mem, 0)
  { s with mem := Memory.copy m (poolAddr 3 core 0) (block + 0x80000) 0x80000 }

def State.loadPool (s : State) (core block : Nat) : State :=
  let c := s.coreAt core
  let (m, _) := (poolParts core c).foldl (fun (x : List Host.Cell × Nat) p =>
    (Memory.copy x.1 (block + x.2) p.1 p.2, x.2 + p.2)) (s.mem, 0)
  { s with mem := Memory.copy m (block + 0x80000) (poolAddr 3 core 0) 0x80000 }

/-- The 32 words of a deque record (R301). -/
def State.recordWords (s : State) (t : Task) : List Nat :=
  let num := match s.regionAt (s.regionPkg t.rcb) t.rcb with | some r => r.rnum | none => 0
  (t.prio * 2 ^ 56 + t.pc.toNat) :: (num * 2 ^ 32 + t.preds.toNat) ::
    ((List.range 29).map (fun k => (t.g.toList.getD (k + 1) 0).toNat) ++ [(t.g.toList.getD 31 0).toNat])

/-- A deque record read back from its words. -/
def State.recordOf (s : State) (t : Task) (w : List Nat) : Task :=
  let num := bits (w.getD 1 0) 63 32
  { t with
    prio := bits (w.getD 0 0) 58 56, pc := word (bits (w.getD 0 0) 55 0), preds := BitVec.ofNat 7 (w.getD 1 0),
    rcb := match (s.pkgAt (s.regionPkg t.rcb)).regions.find? (fun r => r.2.rnum == num) with | some r => r.1 | none => t.rcb,
    g := Vector.ofFn (fun k => if k.val = 0 ∨ k.val = 30 then 0 else word (w.getD (if k.val = 31 then 31 else k.val + 1) 0)) }

/-- Where the deque records and the mailbox entries stand in a block (R301, R309, R310, R361): record k, the oldest first, and
the entries of each mailbox in turn, which owns DEPTH of them, the head first (log entry 16). -/
def recordAt (block k : Nat) : Nat := block + 0x104000 + 256 * k
def mailboxBases : Nat → Table Mailbox → List (Nat × Nat × Mailbox)
  | _, [] => []
  | n, m :: l => (n, m.1, m.2) :: mailboxBases (n + m.2.depth) l
def entryAt (block base k : Nat) : Nat := block + 0x108000 + 64 * ((base + k) % 256)

def State.putWords (s : State) (key : Nat) (l : List Nat) : State :=
  l.zipIdx.foldl (fun s w => s.wrNat (key + 8 * w.2) 8 w.1) s
def State.getWords (s : State) (key n : Nat) : List Nat := (List.range n).map (fun k => s.rdNat (key + 8 * k) 8)

/-- The state of a core in the bytes 0x10_0000 to 0x10_BFFF of a block (R361): its deque records and its mailbox store in the
layouts of R301 and R310; the registers, tables and frames, and the records and entries that hold none, in a form no rule gives:
free values (log entry 16). -/
def State.saveState (s : State) (block : Nat) (c : Core) : State :=
  let s' := s.putWords (block + 0x100000) ((List.range 0x1800).map (fun k => (Config.freeValue (s.fresh + k)).toNat))
  let s' := c.deque.zipIdx.foldl (fun s t => s.putWords (recordAt block t.2) (s.recordWords t.1)) s'
  let s' := (mailboxBases 0 c.mailboxes).foldl (fun s m => m.2.2.msgs.zipIdx.foldl (fun s e =>
    s.putWords (entryAt block m.1 e.2) (e.1.map (·.toNat))) s) s'
  { s' with fresh := s.fresh + 0x1800 }

/-- The deque and the mailboxes of a saved core as its block holds them. -/
def State.loadRecords (s : State) (block : Nat) (c : Core) : List Task × Table Mailbox :=
  (c.deque.zipIdx.map (fun t => s.recordOf t.1 (s.getWords (recordAt block t.2) 32)),
    (mailboxBases 0 c.mailboxes).map (fun m => (m.2.1, { m.2.2 with
      msgs := m.2.2.msgs.zipIdx.map (fun e => (s.getWords (entryAt block m.1 e.2) 8).map word) })))

/-- The firing that asked for the switch of its own region gets its answer and is saved whole (log entry 17). -/
def State.saveIssuer (s : State) (core rcb : Nat) : State :=
  (List.range 4).foldl (fun s fc =>
    let x := s.ctxOf core fc
    match x.awaited with
    | some (.regionSave d r) =>
      if r == rcb && x.firing.isSome then
        let s := match x.firing with
          | some f => if f.act.isSome then s.setBound core f.slot (fun b => { b with life := .saved }) else s | none => s
        let gang := (s.coreAt core).gang == some fc
        let s := s.modCore core (fun c => { c with frames := c.frames ++ [⟨x.answer d 0, s.now, gang, false⟩] })
        s.freeCtx core fc
      else s
    | _ => s) s

/-- Steps 4 and 5 of a whole-region switch (R361). -/
def State.endSave (s : State) (rcb : Nat) : State :=
  let save := s.peek (rcb + 0x80) 8
  let s := (s.coresOf rcb).foldl (fun s k => (s.saveIssuer k rcb).flushAll k) s
  let s := (s.coresOf rcb).foldl (fun s k =>
    let c := s.coreAt k
    let block := blockAt save c.lcore
    let s := s.flushRange block 0x10C000
    let s := s.modRegion rcb (fun r => { r with saved := r.saved ++ [⟨c, s.fresh⟩] })
    (s.savePool k block).saveState block c) s
  let s := (s.coresOf rcb).foldl (fun s k =>
    let s := (s.coreAt k).binds.foldl (fun s b => s.recordLast k b.1 b.2) s
    let bytes := ((s.coreAt k).rings.map ringBytes).sum
    let s := s.chargeMsg rcb (-(bytes : Int))
    let s := s.modCore k (fun c => { c with binds := [], mailboxes := [] })
    s.freeCore k rcb) s
  let s := s.setRcbState rcb 2
  s.answerAll (fun d => .regionSave d rcb) 0

/-- Every firing of the region is saved and its engine commands are complete (R361 steps 2 and 3). The firing that
issued the PREEMPT of its own region is saved when its answer comes. The fills of MLOAD land too (R224). -/
def State.saveReady (s : State) (rcb : Nat) : Bool :=
  (s.coresOf rcb).all (fun k => (s.coreAt k).ctx.toList.all (fun x => x.unacked == 0 && (x.firing.isNone ||
    match x.awaited with | some (.regionSave _ r) => r == rcb | _ => false))) &&
  (s.commandsOf rcb).isEmpty &&
  !(s.coresOf rcb).any (fun k => (s.coreAt k).move.isSome || !(s.coreAt k).fills.isEmpty)

/-- Go on with region switches that have become ready. -/
def State.finishSaves (s : State) : State :=
  let saving := s.packages.flatMap (fun p => p.2.regions.filterMap (fun r => if s.rcbState r.1 == 1 then some r.1 else none))
  (saving.foldl (fun s r => if s.saveReady r then s.endSave r else s) s).voidPreempts

/-- The words of a block's registers, tables and frames are those that a save wrote (log entry 16). -/
def State.holdsSaved (s : State) (block : Nat) (x : SavedCore) : Bool :=
  (List.range 0x800).all (fun k =>
    s.rdNat (block + 0x100000 + 8 * k) 8 == (Config.freeValue (x.words + k)).toNat)

/-- The registers, tables, frames, records and mailboxes of a core return from its block (R361). -/
def State.restoreCore (s : State) (k block : Nat) (sv : Core) : State :=
  let (deque, mailboxes) := s.loadRecords block sv
  s.modCore k (fun c => { c with
    banks := sv.banks, scrhwm := sv.scrhwm, sclbase := sv.sclbase, vwv := sv.vwv, vwt := sv.vwt, vwz := sv.vwz,
    tiles := sv.tiles, zflags := sv.zflags, round := sv.round, cnt := sv.cnt, cveps := sv.cveps, cvmax := sv.cvmax,
    cvcnt := sv.cvcnt, epoch := sv.epoch, infl := sv.infl, ageFrom := sv.ageFrom, qwin := sv.qwin, binds := sv.binds,
    frames := sv.frames, deque := deque, mailboxes := mailboxes, page := sv.page, tvecEn := sv.tvecEn, tvecPc := sv.tvecPc })

/-- RESUME (R361): each block returns to the core of its logical number: the pool and column-slice memory, and the state that
its words stand for. -/
def State.resumeRegion (s : State) (rcb : Nat) : State :=
  match s.regionAt (s.regionPkg rcb) rcb with
  | none => s
  | some r =>
    let save := s.peek (rcb + 0x80) 8
    let s := s.setRcbState rcb 3
    let s := (s.coresOf rcb).foldl (fun s k =>
      let block := blockAt save (s.coreAt k).lcore
      let s := s.flushRange block 0x10C000
      let s := match r.saved.find? (s.holdsSaved block) with
        | none => s
        | some sv => s.restoreCore k block sv.core
      s.loadPool k block) s
    let s := s.modRegion rcb (fun r => { r with saved := [] })
    let s := s.setRcbState rcb 0
    (s.coresOf rcb).foldl (fun s k => s.refreshAll k) s

end Sys2Proof.Machine
end

