-- ==== Sys2Proof/Machine/Operands.lean ====
section
/-! DEFINITION. Operand forms: scalar sources, constant windows, addresses, queues and vector sources (R8, R50, R53 to
R58, R90 to R99, R121, R122, R161, R170, R189 to R196). -/

namespace Sys2Proof.Machine

/-! ### Constant windows -/

/-- Word o of the identity page of the current context: from the page of its launch (R8, R67, R353). -/
def identityWord (s : State) (o : Nat) : Word :=
  let k := s.core
  let c := s.here
  let page := s.pageOf k s.ownBound
  match o with
  | 0 => (s.pkgAt (corePkg k)).pkgid.setWidth 64
  | 1 => word (coreDie k)
  | 2 => word (coreQrow k)
  | 3 => word (coreQcol k)
  | 4 => word (coreIdx k)
  | 5 => word (clusterNo k)
  | 6 => word c.rgn
  | 7 => word (s.fc % 4)
  | 8 => word c.lcore
  | 9 => word page.lcount
  | 10 => word (poolAddr 1 k 0)
  | _ => if 16 ≤ o then page.args.getD (o - 16) 0 else 0

/-- Read a window word (R50, R122): a word the constant cache holds may be used or read again; which, is free. -/
def readWindow (n o : Nat) : Act Word := do
  let s ← get
  if n % 8 = 7 then return identityWord s o
  let c := s.ctx
  let ea := ((c.win[n % 7]'(Nat.mod_lt _ (by decide))).toNat + 8 * o) % 2 ^ 64
  let key := n * 2 ^ 17 + o
  match tfind c.constCache key with
  | some w =>
    if Config.choice s.fresh then
      set { s with fresh := s.fresh + 1 }
      return w
    else
      set { s with fresh := s.fresh + 1 }
      let x := word (← loadWord ea)
      modCtx (fun c => { c with constCache := tset c.constCache key x })
      return x
  | none =>
    let x := word (← loadWord ea)
    modCtx (fun c => { c with constCache := tset c.constCache key x })
    return x

/-- The window operand of a 20-bit field (R50). -/
def readWindowField (w : Nat) : Act Word := readWindow (bits w 19 17) (bits w 16 0)

/-! ### Scalar sources -/

end Sys2Proof.Machine

namespace Sys2Proof
open Sys2Proof.Machine

/-- A source of class A or B (R53, R161). -/
def AOps.src (o : AOps) (r : Reg) : Act Word := do
  match r with
  | .g k => readG k.toNat
  | .p k => do return word (natOfBool ((← getCtx).rp k.toNat))
  | .lit => return word (wrapInt 64 (sintOf 36 o.ext.toNat))
  | .win => readWindowField o.ext.toNat
  | _ => return 0

end Sys2Proof

namespace Sys2Proof.Machine

/-- A scalar source of class X or T at dispatch: a g register, a window word, or the literal in W (R56, R57). -/
def srcW (w : BitVec 20) (signed : Bool) (r : Reg) : Act Word := do
  match r with
  | .g k => readG k.toNat
  | .lit => return word (if signed then wrapInt 64 (sintOf 20 w.toNat) else w.toNat)
  | .win => readWindowField w.toNat
  | _ => return 0

/-- The g register a field names, by number. -/
def readGReg (r : Reg) : Act Word := readG r.index
/-- The predicate a field names. -/
def readPReg (r : Reg) : Act Bool := do return (← getCtx).rp r.index
def writePReg (r : Reg) (b : Bool) : Act Unit := modCtx (·.wp r.index b)

/-! ### Addresses -/

end Sys2Proof.Machine

namespace Sys2Proof
open Sys2Proof.Machine

/-- S1 + S2 + SignExt(OFF) modulo 2^64 (R54, R170). -/
def MOps.ea (o : MOps) (c : Ctx) : Nat :=
  wrapInt 64 (((c.rg o.h.s1.index).toNat + (c.rg o.h.s2.index).toNat : Nat) + sintOf 24 o.off.toNat)
/-- S1 + SignExt(OFF) (R186). -/
def MOps.base (o : MOps) (c : Ctx) : Nat := wrapInt 64 (((c.rg o.h.s1.index).toNat : Int) + sintOf 24 o.off.toNat)

/-- The size of an access: 32 bytes for .v, else the format's (R174). -/
def MOps.size (o : MOps) : Nat := if o.v then 32 else o.fmt.width / 8

/-! ### The fields an instruction names -/

def gOf : Reg → List Nat | .g k => [k.toNat] | _ => []
def Hd.gs (h : Hd) : List Nat := gOf h.d ++ gOf h.s1 ++ gOf h.s2 ++ gOf h.s3
def Hd.qs (h : Hd) : List Reg := [h.d, h.s1, h.s2, h.s3].filter Reg.isQ
/-- f to l, both included. -/
def spanOf (f l : Nat) : List Nat := (List.range (l + 1 - f)).map (· + f)

/-- The g registers an instruction names or reads (R162, R174): its fields, ranges, pairs, g31 of RET, and the g1 to g29 of a
task record. -/
def Instr.gRegs (i : Instr) : List Nat :=
  (match i.hd with | some h => h.gs | none => []) ++
  match i with
  | .ldm o => spanOf o.h.d.index o.h.s2.index
  | .stm o => spanOf o.h.s3.index o.h.s2.index
  | .send o => spanOf o.h.s2.index o.h.s3.index
  | .casw o => [o.h.d.index + 1, o.h.s3.index + 1]
  | .fork _ => spanOf 1 29
  | .rfork _ => spanOf 1 29
  | .ret _ => [31]
  | _ => []

/-- Instructions that commit the idempotent region (R81), queue operands and .rsr rounding apart; MFLAGS with PUSH writes
q1 (R222). -/
def Instr.commitsByName (i : Instr) : Bool :=
  match i with
  | .qpop _ => true | .streamBind _ => true | .streamEnd _ => true
  | .amoAdd _ => true | .amoAnd _ => true | .amoOr _ => true | .amoXor _ => true | .amoMin _ => true
  | .amoMax _ => true | .amoUmin _ => true | .amoUmax _ => true | .amoSwap _ => true | .amoFadd _ => true
  | .amofAdd _ => true | .amofAnd _ => true | .amofOr _ => true | .amofXor _ => true | .amofMin _ => true
  | .amofMax _ => true | .amofUmin _ => true | .amofUmax _ => true | .amofSwap _ => true | .amofFadd _ => true
  | .amoUAdd _ => true | .amoUAnd _ => true | .amoUOr _ => true | .amoUXor _ => true | .amoUMin _ => true
  | .amoUMax _ => true | .amoUUmin _ => true | .amoUUmax _ => true | .amoUFadd _ => true
  | .cas _ => true | .casw _ => true | .bari _ => true | .bar _ => true | .barw _ => true | .dmclose _ => true
  | .fork _ => true | .join _ => true | .rfork _ => true | .launch _ => true | .futNew _ => true
  | .futSet _ => true | .futGet _ => true | .futFree _ => true | .mbxBind _ => true | .mbxFree _ => true
  | .send _ => true | .evt _ => true | .gangOn _ => true | .gangOff _ => true
  | .poolset _ => true | .poolsetWait _ => true | .hwmSet _ => true | .viewSet _ => true | .viewClr _ => true
  | .tset _ => true | .tclr _ => true | .mdrain _ => true
  | .gatt _ => true | .gdet _ => true | .gsend _ => true | .gres _ => true | .gcut _ => true
  | .vrand _ => true
  | .mflags o => o.opt.getLsbD 0
  | .inv _ => true | .handover _ => true | .reclass _ => true | .swr _ => true | .viewRegisterWrite _ => true
  | .sclbaseWrite _ => true | .flagRegisterWrite _ => true | .logext _ => true
  | _ => false

/-- Whether RM is a rounding mode of the instruction: it rounds, and 0b101 draws random bits (R52, R139). -/
def Instr.drawsRandom (i : Instr) : Bool :=
  match i with
  | .cmp _ => false | .sel _ => false | .vcmp _ => false
  | _ => match i.hd with | some h => h.rm == 5 | none => false

/-- An instruction that commits the current idempotent region (R81). QCNT, which reads a queue's count and no entry, is not
among the instructions the table names, and is revocable (log entry 110). -/
def Instr.commits (i : Instr) : Bool :=
  i.commitsByName || i.drawsRandom || i.stream == .e ||
  (match i with | .qcnt _ => false | _ => match i.hd with | some h => !h.qs.isEmpty | none => false)

end Sys2Proof

namespace Sys2Proof.Machine

/-! ### Queues -/

/-- The 32 bytes of entry n of a stream (R94). -/
def Pattern.addr (p : Pattern) (n : Nat) : Nat :=
  let i0 := n % p.c0
  let i1 := n / p.c0 % p.c1
  let i2 := n / (p.c0 * p.c1)
  wrapInt 64 ((p.base.toNat : Int) + i0 * sintOf 64 p.s0.toNat + i1 * sintOf 64 p.s1.toNat + i2 * sintOf 64 p.s2.toNat)
def Pattern.total (p : Pattern) : Nat := p.c0 * p.c1 * p.c2

/-- Pop one entry as an X source (R90, R91, R96, R98, R174). -/
def popX (q : Nat) : Act V256 := do
  let c ← getCtx
  if q = 0 then
    match c.q0 with
    | [] => waitFor .queue true
    | e :: rest =>
      waitUntil (e.need == 0) .queue true
      match e.err with
      | some x => raiseTrap (x.trap false [])
      | none => modCtx (fun c => { c with q0 := rest }); return e.v
  else
    let t := c.stream q
    match t.pat with
    | none => fault cILLEGAL_OPERAND (some (word q))
    | some p =>
      unlessFault (!p.write && decide (2 ≤ q ∧ q ≤ 5)) cILLEGAL_OPERAND (some (word q))
      unlessFault (decide (t.pos < p.total)) cSTREAM_OVERRUN (some (word q))
      match t.rd with
      | [] => waitFor .queue true
      | e :: rest =>
        waitUntil (e.need == 0) .queue true
        match e.err with
        | some x => raiseTrap (x.trap false [])
        | none => modCtx (fun c => c.setStream q { t with rd := rest, pos := t.pos + 1 }); return e.v

/-- Push one entry as an X destination (R90, R92, R97, R98). -/
def pushX (q : Nat) (v : V256) : Act Unit := do
  let c ← getCtx
  if q = 1 then
    waitUntil (decide (c.q1.length < 16)) .queue true
    modCtx (fun c => { c with q1 := c.q1 ++ [v] })
  else
    let t := c.stream q
    match t.pat with
    | none => fault cILLEGAL_OPERAND (some (word q))
    | some p =>
      unlessFault (p.write && decide (2 ≤ q ∧ q ≤ 5)) cILLEGAL_OPERAND (some (word q))
      match t.err with
      | some x => raiseTrap (x.trap false [.stream q])
      | none => pure ()
      unlessFault (decide (t.pos < p.total)) cSTREAM_OVERRUN (some (word q))
      waitUntil (decide (t.wr.length < 16)) .queue true
      modCtx (fun c => c.setStream q { t with wr := t.wr ++ [v], pos := t.pos + 1 })

/-- Pop the oldest q1 entry for the A-half (R93, R174). -/
def popQ1 : Act V256 := do
  match (← getCtx).q1 with
  | [] => waitFor .queue true
  | v :: rest => modCtx (fun c => { c with q1 := rest }); return v

end Sys2Proof.Machine
end

