-- ==== Sys2Proof/Machine/Flags.lean ====
section
/-! DEFINITION. The sticky flags: FFLAGS and VSAT of a context, ZFLAGS of a core, and trap requests (R150 to R155,
R199). -/

namespace Sys2Proof.Machine

/-- OR conditions into FFLAGS (R151). -/
def raiseFlags (f : Flags) : Act Unit := modCtx (fun c => { c with fflags := c.fflags ||| f })
/-- Set VSAT.SAT when a lane clamped (R199). -/
def raiseSat (b : Bool) : Act Unit := modCtx (fun c => { c with vsat := c.vsat || b })

/-- The FFLAGS bits that ZFLAGS keeps: NV, OF and NX at bits 2, 1 and 0 (R152, R153). -/
def zBits (f : Flags) : Nat := natOfBool (f.getLsbD 4) * 4 + natOfBool (f.getLsbD 2) * 2 + natOfBool (f.getLsbD 0)
/-- The ZFLAGS entry of an accumulator index (R152). -/
def Core.zEntry (c : Core) (k : Nat) : Nat := bits c.zflags.toNat (4 * (k % 16) + 3) (4 * (k % 16))
def Core.setZEntry (c : Core) (k x : Nat) : Core :=
  { c with zflags := word (putBits c.zflags.toNat (4 * (k % 16)) 4 x) }
/-- OR bits into the entry of index k (R153). -/
def Core.orZ (c : Core) (k x : Nat) : Core := c.setZEntry k (Nat.lor (c.zEntry k) x)

/-- The mask of R155 and R408: bit L for each lane that raised a requested condition; bit 63 for lane 63 and later. -/
def laneMask : Nat → List Bool → Nat
  | _, [] => 0
  | k, b :: bs => Nat.lor (if b then 2 ^ min k 63 else 0) (laneMask (k + 1) bs)

/-- The trap request of R155, tested before anything is written: FP_NV if a lane raised invalid under .tv, else FP_DZ. -/
def trapRequest (tz tv : Bool) (fl : List Flags) : Act Unit := do
  let nv := fl.map (fun f => tv && f.getLsbD 4)
  let dz := fl.map (fun f => tz && f.getLsbD 3)
  let both := fl.map (fun f => (tv && f.getLsbD 4) || (tz && f.getLsbD 3))
  if nv.any id then fault cFP_NV (some (word (laneMask 0 both)))
  else if dz.any id then fault cFP_DZ (some (word (laneMask 0 both)))
  else pure ()

/-- The conditions of all lanes together. -/
def orFlags (fl : List Flags) : Flags := fl.foldl (· ||| ·) 0

/-! ### Random bits -/

/-- Take G counter values of the context's stream for steps of rounding (R140, R144): RNG_WRAP when the stream is
spent. Gives the first counter value. -/
def takeCounters (g : Nat) : Act Nat := do
  let c ← getCtx
  let c0 := c.rngctr.toNat
  unlessFault (g == 0 || decide (c0 + g ≤ 2 ^ 64 - 1)) cRNG_WRAP
  modCtx (fun c => { c with rngctr := word (c0 + g) })
  return c0

/-- The random bits of element e in a step that starts at counter c0 (R140, R141). -/
def stepBits (s : State) (c0 w e : Nat) : Nat :=
  randBits (s.effSeed s.ctx.rcb) s.here.lcore s.ctx.rngstr.toNat c0 w e

/-- Random bits for one step of E elements of w bits when RM is .rsr, else none needed. -/
def drawStep (rm e w : Nat) : Act (Nat → Nat) := do
  if rm = 5 then
    let s ← get
    let c0 ← takeCounters (ceilDiv (e * w) 256)
    return stepBits s c0 w
  else return (fun _ => 0)

end Sys2Proof.Machine
end

