-- ==== Sys2Proof/Machine/Ops.lean ====
section
/-! DEFINITION. Issuing an A or E slot, dispatching and running an X entry, taking an exception and returning from one
(R60, R66, R69, R73, R78, R80, R81, R87 to R92, R193, R258 to R264, R354). -/

namespace Sys2Proof.Machine

/-- What the context does after an instruction's effect: go on, branch, or stay. -/
inductive Flow
  | next
  | jump (target : Word)
  | stay
  /-- It waits, with what its waiting has written; it has not issued. -/
  | hold
  deriving DecidableEq, Repr

/-! ### Taking an exception -/

/-- The head entry waits on a queue (R85, R92). -/
def Ctx.xStalled (c : Ctx) : Bool :=
  match c.xhead with
  | some e => e.live && !c.xbusy && (match e.i.hd with
    | some h => c.fieldsStall h.d h.s1 h.s2 h.s3 ||
        (match e.i with | .mflags o => o.opt.getLsbD 0 && c.pushStalls 1 | _ => false)
    | none => false)
  | none => false

/-- The loop at the head has a whole body and stands at the end of a pass, or runs none (R78). -/
def Ctx.passDue (c : Ctx) : Bool :=
  match c.xseq with
  | .loop l :: _ => l.body.length == l.n && (l.count == 0 || l.idx == l.n)
  | _ => false

/-- Every X entry dispatched before the reporting point has completed, or is stalled on a queue, or frozen (R260). An
open loop body that waits for its entries holds none that can run; in S mode every entry that stayed at the entry of the
first trap stays. -/
def Ctx.xQuiet (c : Ctx) : Bool :=
  !c.xbusy && (c.mode == .s || c.xseq.isEmpty || c.xfrozen || c.xStalled || (c.xhead.isNone && !c.passDue))

/-- A trap as it waits for its entry (R257, R258). TVAL2 is the pc of the slot or entry where no rule gives another value;
a TVAL no rule gives is free. TPC and TNEXT hold bits [55:0] of a program counter. A walk that the fault ended is counted
(R387). -/
def State.recordTrap (s : State) (t : Trap) (source tpc : Word) (origin : Nat) : State :=
  let s := s.countWalk (.core s.core) (s.effPtroot s.ctx.rcb) t.cause t.tval
  let (w, s) := match t.tval with | some v => (v, s) | none => s.takeFresh
  s.modCtx (fun c => { c with
    trap := some { cause := t.cause, tval := w, tval2 := t.tval2.getD source, tpc := pcField tpc, tnext := pcField c.pc,
                   origin := if t.deferred then 2 else origin, sw := t.sw, source := source, clears := t.clears,
                   acting := false, leaving := false } })

/-- The recorded trap of an A or E slot at the context's pc (R258); for TRAPC, TPC is its sequential successor (R264). -/
def State.raiseA (s : State) (t : Trap) : State :=
  s.recordTrap t s.ctx.pc (if t.sw then s.ctx.successor else s.ctx.pc) 0

/-- The recorded trap of an X entry: it freezes with its successors, and TNEXT is the A-half's next slot. It comes before
a trap of the A-half that has not been entered, which is not raised (R258, R259). -/
def State.raiseX (s : State) (pc : Word) (t : Trap) : State :=
  (s.recordTrap t pc pc 1).modCtx (fun c => { c with xfrozen := true })

/-- The recorded trap of an X slot at its dispatch: it is the entry's own fault, the entry is not in the sequencer, and
the slot is the A-half's next one (R258). A load's data error at its consumer keeps its own origin (R174). -/
def State.raiseD (s : State) (t : Trap) : State := s.recordTrap t s.ctx.pc s.ctx.pc 1

/-- Abandon the firing (R66, R262, R354): nothing is committed, and the region's policy acts. -/
def State.abandon (s : State) (core fc : Nat) : State :=
  match (s.ctxOf core fc).firing with
  | none => s
  | some f =>
    let s := s.freeCtx core fc
    let s := s.endActor core f false
    let s := match s.effPolicy f.rcb with
      | 1 => s.kill f.rcb
      | 2 => match f.kind with
        | .actor => match tfind (s.coreAt core).binds f.slot with
          | some b => if b.life == Life.held then s.releaseActor core f.slot else s
          | none => s
        | _ => s
      | _ => s
    s.finishSaves

/-- The fault record of R262. -/
def faultRecord (cause fc : Nat) (c : Ctx) (f : Firing) : List Word :=
  let act := match f.act with | some a => a | none => 0xFFFFFF
  [word (cause + c.torigin.toNat * 2 ^ 8 + (fc % 4) * 2 ^ 16 + act * 2 ^ 32), c.tpc, c.tval, c.tval2]

/-- The writes of every stream are stored and every posted write is acknowledged (R69, R100). -/
def Ctx.writesDone (c : Ctx) : Bool := c.unacked == 0 && c.streams.toList.all (fun t => t.wr.isEmpty)

/-- DefaultAction(cause) (R262): the record is posted when the table has room, and the firing is abandoned once its
writes are done. -/
def State.defaultAction (s : State) (core fc cause : Nat) : State :=
  let c := s.ctxOf core fc
  match c.firing, c.trap with
  | some f, some t =>
    if t.leaving then (if c.writesDone then s.abandon core fc else s)
    else
      let name := s.effFmbx f.rcb
      match mailboxName name with
      | none =>
        let s := s.modCtxOf core fc (fun c => { c with
          trap := some { t with acting := true, leaving := true, cause := cause } })
        if c.writesDone then s.abandon core fc else s
      | some (k, m) =>
        if 64 ≤ c.posted.length then
          s.modCtxOf core fc (fun c => { c with trap := some { t with acting := true, cause := cause } })
        else
          let entry := messageEntry (entryWord0 core fc 4 m) (faultRecord cause fc c f)
          let txn : Txn := {
            core := core, fc := fc % 4, rcb := f.rcb, op := .message entry, target := .mailbox, ga := name, ea := name, size := 64,
            page := 0, dest := .none, count := some (countFor core (poolAddr 1 k 0)), acq := false, stage := .travelling,
            value := [], cts := c.cts, lease := (0, 0), priv := true, sent := s.now, rest := [] }
          (s.launch txn).modCtxOf core fc (fun c => { c with
            trap := some { t with acting := true, leaving := true, cause := cause } })
  | _, _ => s

/-- The trap can be entered, or its default action can go on (R260, R262). -/
def Ctx.trapReady (c : Ctx) : Bool :=
  match c.trap with
  | some t =>
    if t.leaving then c.writesDone
    else if t.acting then decide (c.posted.length < 64)
    else c.xQuiet && c.awaited.isNone && c.moving.isEmpty
  | none => false

/-- What every trap entry does first (R257, R260): the registers of its record are written, and the records it reports
are cleared. In S mode TPC and TNEXT keep the first trap's point, the cause is DOUBLE_TRAP, TVAL is the nested cause and
TVAL2 its pc; a nested cause no rule gives is free (R261). -/
def Ctx.takeTrap (c : Ctx) (t : PendingTrap) : Ctx :=
  let c := t.clears.foldl Ctx.clear c
  let c := { c with
    torigin := BitVec.ofNat 2 t.origin, tsw := t.sw, tregn := false, tskip := false, stall := none, refetch := false }
  if c.mode == .s then
    { c with tcause := BitVec.ofNat 7 cDOUBLE_TRAP, tval2 := t.source,
             tval := if t.cause = cDOUBLE_TRAP then t.tval else word t.cause }
  else
    { c with tcause := BitVec.ofNat 7 t.cause, tval := t.tval, tval2 := t.tval2, tpc := t.tpc,
             tnext := if t.origin = 1 then t.tnext else c.tnext }

/-- Trap entry (R260, R261). -/
def State.enterTrap (s : State) (core fc : Nat) : State :=
  let c := s.ctxOf core fc
  match c.firing, c.trap with
  | some f, some t =>
    if !c.trapReady then s
    else
    if t.acting then s.defaultAction core fc t.cause
    else
    let s := (s.leaveFutures core fc).modCtxOf core fc (·.takeTrap t)
    if c.mode == .s then s.defaultAction core fc cDOUBLE_TRAP
    else
      let k := s.coreAt core
      if !k.tvecEn then s.defaultAction core fc t.cause
      else
        let s := s.modCtxOf core fc (fun c => { c with
          mode := .s, pc := k.tvecPc, trap := none, xfer := some t.tpc,
          firing := some { f with trapped := true } })
        if f.act.isSome then s.setBound core f.slot (fun b => { b with life := .trapped }) else s
  | _, _ => s

/-- Record a trap of the current instruction and enter it at once when nothing has to be waited for. -/
def State.takeTrapA (s : State) (t : Trap) : State := (s.raiseA t).enterTrap s.core s.fc
def State.takeTrapD (s : State) (t : Trap) : State := (s.raiseD t).enterTrap s.core s.fc
def State.takeTrapX (s : State) (pc : Word) (t : Trap) : State := (s.raiseX pc t).enterTrap s.core s.fc
/-- The answer to an instruction of the current context is a fault of it. An earlier fault of the X-half that waits for the
answer is the one reported, and the instruction issues again on resume (R259). -/
def State.takeTrapAnswer (s : State) (t : Trap) : State :=
  let s := s.modCtx (fun c => { c with awaited := none })
  if s.ctx.trap.isSome then s.enterTrap s.core s.fc else s.takeTrapA t

/-! ### Issuing an A or E slot -/

/-- A stall keeps the cycle at which it began (R256). -/
def Ctx.stallOn (c : Ctx) (why : StallWhy) (point : Bool) (now : Nat) : Ctx :=
  match c.stall with
  | some st => if st.why = why then { c with stall := some { st with point := point } }
      else { c with stall := some ⟨why, point, now⟩ }
  | none => { c with stall := some ⟨why, point, now⟩ }

/-- Wait for the pending registers an instruction names; a load's data error is raised here, once (R162, R174). -/
def pendingCheck (c : Ctx) : List Nat → Act Unit
  | [] => pure ()
  | k :: ks =>
    match c.pendOf k with
    | .ready => pendingCheck c ks
    | .load => waitFor .register
    | .xhalf => waitFor .register
    | .error e => raiseTrap (e.trap true [.register k])

/-- The cause that a slot which S mode does not issue raises in U mode too, where it has one: an XLOOP or IDEM with an open
body (R79), or a queue that does not exist (R49). -/
def usualCause (i : Instr) (h : Hd) (c : Ctx) : Option Nat :=
  if c.bodyOpen && (match i with | .idem _ => true | .xloop _ => true | _ => false) then some cXLOOP_OPEN
  else if h.qs.any (fun r => (queueOf r).isNone) then some cILLEGAL_OPERAND
  else none

/-- S mode issues only A and E slots that touch no queue; every breach is a DOUBLE_TRAP, whose nested cause is free where no
rule gives one (R261). -/
def modeCheck (i : Instr) (h : Hd) (c : Ctx) : Act Unit :=
  if c.mode == .s && (i.stream == .x || !h.qs.isEmpty || (match i with | .idem _ => true | _ => false)) then
    fault cDOUBLE_TRAP ((usualCause i h c).map word)
  else pure ()

def applyFlow (f : Flow) : Act Unit :=
  match f with
  | .next => modCtx Ctx.advance
  | .jump t => modCtx (fun c => { c.goto t with xfer := some c.pc })
  | .stay => pure ()
  | .hold => pure ()

/-- Mark the idempotent region committed (R81). A handler's slots in S mode belong to no region (log entry 18). -/
def Ctx.commitRegion (c : Ctx) (i : Instr) : Ctx :=
  if i.commits && c.mode == .u then { c with idem := { c.idem with committed := true } } else c

/-- The end of an act of the current context: its stop becomes a trap or a stall. -/
def finish (s : State) (r : Except Stop (Unit × State)) : State :=
  match r with
  | .ok (_, s') => s'
  | .error (.trap t) => s.takeTrapA t
  | .error (.wait why point) => s.modCtx (·.stallOn why point s.now)

/-- The same for the dispatch of an X slot. -/
def finishD (s : State) (r : Except Stop (Unit × State)) : State :=
  match r with
  | .ok (_, s') => s'
  | .error (.trap t) => s.takeTrapD t
  | .error (.wait why point) => s.modCtx (·.stallOn why point s.now)

/-- The slot has issued: it commits the region if it does (R81), the context goes on, and source 0x001 of R387 counts
it. -/
def issued (i : Instr) (f : Flow) : Act Unit := do
  if f != .hold then
    modCtx (·.commitRegion i)
    applyFlow f
    modCore (·.count 1)

/-- The steps of an A or E slot (R60, R73, R162, R261): privilege, predicate, mode, registers, effect. -/
def slotAct (i : Instr) (h : Hd) (body : Act Flow) : Act Unit := do
  let c ← getCtx
  if i.privileged && c.mode == .u then fault cPRIV_OP none
  else if !c.rp h.pg.toNat then
    applyFlow .next
    modCore (·.count 1)
  else
    modeCheck i h c
    pendingCheck c (if c.moving.isEmpty then i.gRegs else [])
    issued i (← body)

/-- The context holds a firing that can issue. An instruction that has begun its accesses makes them all before a trap of
the X-half is entered (R258, R260). -/
def Ctx.canIssue (c : Ctx) : Bool := c.firing.isSome && c.awaited.isNone && (c.trap.isNone || !c.moving.isEmpty)

/-- Issue an A or E slot on the current context. -/
def issue (i : Instr) (h : Hd) (body : Act Flow) (s : State) : Host.Outcome State Fault Refusal :=
  .next (if s.ctx.canIssue then finish s ((slotAct i h body).run s) else s)

/-- An instruction whose effect is one act and that goes on. -/
def issueNext (i : Instr) (h : Hd) (body : Act Unit) (s : State) : Host.Outcome State Fault Refusal :=
  issue i h (do body; return .next) s

/-! ### The sequencer -/

/-- What dispatch adds to an entry. -/
structure Prep where
  scales : List Nat := []
  taken : List Nat := []
  held : List Nat := []
  deriving DecidableEq, Repr

/-- Put an entry into the sequencer: into the open body, else at the end (R78). -/
def Ctx.pushEntry (c : Ctx) (e : XEntry) : Ctx :=
  match c.xseq.getLast? with
  | some (.loop l) =>
    if l.body.length < l.n then { c with xseq := c.xseq.dropLast ++ [.loop { l with body := l.body ++ [e] }] }
    else { c with xseq := c.xseq ++ [.entry e] }
  | _ => { c with xseq := c.xseq ++ [.entry e] }

/-- The head entry is done: it leaves, or the loop moves on to its next entry (R78). -/
def Ctx.popEntry (c : Ctx) : Ctx :=
  let c := { c with xbusy := false }
  match c.xseq with
  | .entry _ :: rest => { c with xseq := rest }
  | .loop l :: rest =>
    { c with xseq := .loop { l with
        idx := l.idx + 1,
        body := l.body.mapIdx (fun k e => if k = l.idx then { e with held := [], taken := [], refused := false, skip := false, lost := false } else e) } :: rest }
  | [] => c

/-- The next pass begins, or after the last one the loop leaves (R78). -/
def Ctx.nextPass (c : Ctx) : Ctx :=
  match c.xseq with
  | .loop l :: rest =>
    { c with xseq := if l.count ≤ l.pass + 1 then rest else .loop { l with idx := 0, pass := l.pass + 1 } :: rest }
  | _ => c

/-- Change the head entry. -/
def Ctx.mapHead (c : Ctx) (f : XEntry → XEntry) : Ctx :=
  match c.xseq with
  | .entry e :: rest => { c with xseq := .entry (f e) :: rest }
  | .loop l :: rest => { c with xseq := .loop { l with body := l.body.mapIdx (fun k e => if k = l.idx then f e else e) } :: rest }
  | [] => c

/-- The pass and strides of the head entry. -/
def Ctx.headPass (c : Ctx) : Nat := match c.xseq with | .loop l :: _ => l.pass | _ => 0
def Ctx.inLoop (c : Ctx) : Bool := match c.xseq with | .loop _ :: _ => true | _ => false

/-- A register index moved by i strides (R78). -/
def Reg.moved (r : Reg) (d : Int) : Reg :=
  match r with
  | .v k => .v (BitVec.ofInt 8 (k.toNat + d))
  | .t k => .t (BitVec.ofInt 6 (k.toNat + d))
  | .z k => .z (BitVec.ofInt 4 (k.toNat + d))
  | r => r

def Hd.moved (h : Hd) (d s1 s2 s3 : Int) : Hd :=
  { h with d := Reg.moved h.d d, s1 := Reg.moved h.s1 s1, s2 := Reg.moved h.s2 s2, s3 := Reg.moved h.s3 s3 }

/-- The fields of the head entry in its pass (R78). -/
def Ctx.passHd (c : Ctx) (h : Hd) : Hd :=
  match c.xseq with
  | .loop l :: _ =>
    let p : Int := l.pass
    Hd.moved h (p * l.sd) (p * l.s1) (p * l.s2) (p * l.s3)
  | _ => h

/-- A full sequencer stops dispatch (R85, R87). -/
def roomInSequencer (c : Ctx) : Act Unit := waitUntil (decide (c.xcount < 16)) .sequencer c.xStalled

/-- A second X entry whose source g register an earlier one has still to write (R191). -/
def pendingSource (c : Ctx) : List Reg → Act Unit
  | [] => pure ()
  | .g k :: rs =>
    if c.pendOf k.toNat == .xhalf then fault cILLEGAL_OPERAND (some ((Reg.code (.g k)).setWidth 64)) else pendingSource c rs
  | _ :: rs => pendingSource c rs

/-- The scalar of an entry whose own fault at dispatch is skipped (R263): later passes of its body use it. It waits for a load
under way; a source that has no value yet, or a load's error, is a free value. -/
def skipScalar (scalar : Reg → Act Word) (r : Reg) : Act Word := do
  match r with
  | .g k =>
    match (← getCtx).pendOf k.toNat with
    | .ready => pure ()
    | .load => waitFor .register
    | _ => return (← freeWord)
  | _ => pure ()
  let s ← get
  match (scalar r).run s with
  | .ok (w, s) => set s; return w
  | .error (.wait why point) => waitFor why point
  | .error (.trap _) => freeWord

/-- What a slot whose fault at dispatch is skipped waits for: its g destination (R162, R191). -/
def skipWaits (h : Hd) : Act Unit := do
  match h.d with
  | .g k => waitUntil (match (← getCtx).pendOf k.toNat with | .load => false | .xhalf => false | _ => true) .register
  | _ => pure ()

/-- Dispatch an X slot (R73, R78, R87, R191, R213): its scalars are read and its checks made. A slot whose predicate is
false enters only an open loop body, where it keeps its place. One that TRAPRET skips makes no check, and runs no pass but a
later one of its body (R263). -/
def dispatchAct (i : Instr) (h : Hd) (scalar : Reg → Act Word) (check : Word → Word → Word → Act Prep) : Act Unit := do
  let c ← getCtx
  modeCheck i h c
  let live := c.rp h.pg.toNat
  if !live && !c.bodyOpen then applyFlow .next
  else
    roomInSequencer c
    let skip := c.xskip
    if live && skip then skipWaits h
    else if live then
      pendingSource c [h.s1, h.s2, h.s3]
      pendingCheck c i.gRegs
    let read := if skip then skipScalar scalar else scalar
    let s1 ← if live then read h.s1 else pure 0
    let s2 ← if live then read h.s2 else pure 0
    let s3 ← if live then read h.s3 else pure 0
    let runs := live && (match c.xseq.getLast? with | some (.loop l) => l.body.length == l.n || l.count != 0 | _ => true)
    let p ← if runs && !skip then check s1 s2 s3 else pure {}
    modCore (·.addReaders p.held)
    let seq ← newId
    let c ← getCtx
    let e : XEntry := { i := i, pc := c.pc, live := live, s1 := s1, s2 := s2, s3 := s3, region := c.idem.serial,
                        scales := p.scales, taken := p.taken, held := p.held, refused := false, seq := seq,
                        skip := skip }
    modCtx (fun c =>
      let c := c.pushEntry e
      if runs then (match h.d with | .g k => c.setPend k.toNat .xhalf | _ => c) else c)
    modCtx (fun c => if live then c.commitRegion i else c)
    applyFlow .next

/-- The queue sources of an entry, one for each naming. -/
def XEntry.pops (e : XEntry) : List Nat :=
  match e.i.hd with | some h => [h.s1, h.s2, h.s3].filterMap queueOf | none => []

/-- The oldest entry of a queue is popped, where there is one. -/
def Ctx.dropHead (c : Ctx) (q : Nat) : Ctx :=
  if q = 0 then { c with q0 := c.q0.drop 1 }
  else
    let t := c.stream q
    match t.pat with
    | some p => if !p.write && decide (t.pos < p.c0 * p.c1 * p.c2) then
        c.setStream q { t with rd := t.rd.drop 1, pos := t.pos + 1 } else c
    | none => c

/-- The head entry runs its only or last pass. -/
def Ctx.lastPass (c : Ctx) : Bool := match c.xseq with | .loop l :: _ => l.pass + 1 == l.count | _ => true

/-- A skipped entry pops its queue sources and writes nothing (R263); its g destination waits for no later pass (R191). -/
def runSkipped (e : XEntry) : Act Unit := do
  let c ← getCtx
  waitUntil (!e.pops.any (fun q => c.popStalls q (e.pops.count q))) .queue true
  modCtx (fun c =>
    let c := e.pops.foldl Ctx.dropHead c
    (match e.i.hd with
      | some h => (match h.d with | .g k => if c.lastPass then c.setPend k.toNat .ready else c | _ => c)
      | none => c).popEntry)

/-- Run the head entry in the X-half (R88, R92, R193, R258). -/
def runAct (body : XEntry → Act Unit) (complete : Bool) : Act Unit := do
  match (← getCtx).xhead with
  | none => pure ()
  | some e =>
    if e.live && e.skip then runSkipped e
    else if e.live then
      body e
      modCore (·.count 2)
      if complete then
        modCore (·.dropReaders e.held)
        modCtx Ctx.popEntry
      else modCtx (fun c => { c with xbusy := true })
    else modCtx Ctx.popEntry

/-- A fault in an entry releases its reader counts and its posted-table entries (R213, R224). -/
def State.releaseHead (s : State) (e : XEntry) : State :=
  ((s.modHere (·.dropReaders e.held)).modCtx (·.releaseTaken e.taken)).modCtx
    (·.mapHead (fun e => { e with held := [], taken := [], refused := false }))

/-- The end of an X-half act: a trap freezes the entry, a wait leaves it at the head. -/
def finishX (s : State) (r : Except Stop (Unit × State)) : State :=
  match r with
  | .ok (_, s') => s'
  | .error (.trap t) =>
    match s.ctx.xhead with
    | some e => (s.releaseHead e).takeTrapX e.pc t
    | none => s
  | .error (.wait _ _) => s

/-- The default action of a trap has begun (R262). -/
def Ctx.acting (c : Ctx) : Bool := match c.trap with | some t => t.acting | none => false

/-- The X-half may run the head entry: it is not frozen, busy, or behind a handler or a default action (R258, R260,
R262). -/
def Ctx.canRun (c : Ctx) : Bool :=
  c.xhead.isSome && !c.xfrozen && !c.xbusy && c.mode == .u && c.firing.isSome && !c.acting

/-- An X instruction: the A-half dispatches it, and the X-half runs its entry later. `complete` says whether the run
ends the entry, or another act does. -/
def xslotWith (complete : Bool) (i : Instr) (h : Hd) (scalar : Reg → Act Word) (check : Word → Word → Word → Act Prep)
    (body : XEntry → Act Unit) (s : State) : Host.Outcome State Fault Refusal :=
  .next (
    if s.half then (if s.ctx.canRun then finishX s ((runAct body complete).run s) else s)
    else if s.ctx.canIssue then finishD s ((dispatchAct i h scalar check).run s) else s)

def xslot (i : Instr) (h : Hd) (scalar : Reg → Act Word) (check : Word → Word → Word → Act Prep) (body : XEntry → Act Unit) (s : State) :
    Host.Outcome State Fault Refusal := xslotWith true i h scalar check body s

/-! ### Ending and returning -/

/-- The wait of a fence (R181): earlier loads have returned and the counts of the scope are zero. -/
def Ctx.fenced (c : Ctx) (scope : Nat) : Bool :=
  match scope with
  | 2 => c.countClu == 0
  | 3 => c.countClu == 0 && c.countPkg == 0
  | 4 => c.unacked == 0
  | _ => true

/-- An update that its issuer does not wait for (R335). -/
def CatCmd.posted (c : CatCmd) : Bool :=
  match c.i with | .cins o => o.h.d.isZero | .cdel o => o.h.d.isZero | _ => false

/-- The context's loads that have not returned, and its catalogue commands other than updates that have no answer yet (R181,
R332). -/
def State.loadsOut (s : State) : Bool :=
  (s.ownTxns s.core s.fc).any (fun t => t.2.count.isNone && t.2.dest != .none) ||
  (s.clusterAt (clusterOf s.core)).catq.any (fun c => c.core == s.core && c.fc == s.fc % 4 && c.live && !c.isUpdate)

/-- STORE_NACK for an instruction that waits for a count (R179). -/
def storeCheck : Act Unit := do
  match (← getCtx).storeErr with
  | some (ga, cause) =>
    raiseTrap { cause := cSTORE_NACK, tval := some ga, tval2 := some (word cause), clears := [.storeErr] }
  | none => pure ()

/-- FENCE.scope: 1 core, 2 clu, 3 pkg, 4 sys (R181). -/
def fence (scope : Nat) : Act Unit := do
  let s ← get
  waitUntil (!s.loadsOut) .fence
  waitUntil (s.ctx.fenced scope) .fence
  storeCheck

/-- A load or atomic of the context into a g register has not returned (R174). -/
def State.registersOut (s : State) : Bool :=
  (s.ownTxns s.core s.fc).any (fun t => t.2.count.isNone && (match t.2.dest with | .g _ _ => true | .pair _ => true | _ => false))

/-- The waits before a firing ends (R69, R100, R174): the X-half, the writes, and the loads whose errors it would report. A
firing in S mode drops the entries that cannot run. -/
def quietWaits : Act Unit := do
  let s ← get
  let c := s.ctx
  waitUntil (c.mode == .s || c.xseq.isEmpty) .ending c.xStalled
  waitUntil (!c.xbusy) .ending
  waitUntil (!s.registersOut) .ending
  waitUntil c.writesDone .ending

/-- A write stream whose stored entry met a fault that nothing has reported yet, q2 to q5 (R97). -/
def Ctx.streamError (c : Ctx) : Option (Nat × DataError) :=
  [2, 3, 4, 5].findSome? (fun q => (c.stream q).err.map (fun e => (q, e)))

/-- What END and YIELD test and wait for, whatever the mode (R69, R70, R79, R100, R174, R179). -/
def endWaits : Act Unit := do
  unlessFault (!(← getCtx).bodyOpen) cXLOOP_OPEN
  quietWaits
  let c ← getCtx
  match c.streamError with
  | some (q, e) => raiseTrap (e.trap false [.stream q])
  | none => pure ()
  match c.dataError with
  | some (k, e) => raiseTrap (e.trap true [.register k])
  | none => pure ()
  storeCheck

/-- TRAPRET (R263). A pre-emption that waited for the handler applies at once, be the region committed or not (R83,
R84). -/
def trapReturn : Act Flow := do
  let c ← getCtx
  let abandons := c.torigin = 2 || (c.tregn && c.idem.committed)
  if abandons then quietWaits
  let s ← get
  let back (c : Ctx) (f : Firing) : Ctx :=
    { c with
      mode := .u, tskip := false, tregn := false, stall := none, xfer := none, refetch := false,
      preemptDue := c.preempt.isSome, firing := some { f with trapped := false } }
  let life (s : State) (f : Firing) : State :=
    if f.act.isSome then s.setBound s.core f.slot (fun b => { b with life := .running }) else s
  match c.firing with
  | none => return .stay
  | some f =>
    if abandons then
      set (s.abandon s.core s.fc)
      return .stay
    else if c.tregn then
      let gone := c.entries.filter (fun e => e.region == c.idem.serial)
      let s := gone.foldl (fun s e => s.dropEntry s.core s.fc e false) s
      set (life (s.modCtx (fun c =>
        { (back c f) with
          pc := c.idem.entry, p := c.idem.preds, xfrozen := false, xskip := false,
          xseq := c.xseq.filterMap (fun x => match x with
            | .entry e => if e.region == c.idem.serial then none else some x
            | .loop l => if l.region == c.idem.serial then none else some x) })) f)
      return .stay
    else if c.torigin = 1 then
      let s := if c.tskip then
          match c.xfrozen, c.xhead with
          | true, some e => (s.releaseHead e).modCtx (·.mapHead (fun e => { e with skip := true }))
          | _, _ => s.modCtx (fun c => { c with xskip := !c.xfrozen })
        else s
      set (life (s.modCtx (fun c => { (back c f) with pc := c.tnext, xfrozen := false })) f)
      return .stay
    else
      set (life (s.modCtx (fun c => { (back c f) with pc := c.tpc })) f)
      return .stay

end Sys2Proof.Machine
end

