-- ==== Sys2Proof/Machine/Fetch.lean ====
section
/-! DEFINITION. Fetching a line, and the checks an A-half makes before a slot's effect (R40, R44 to R46, R60, R76, R363,
R376). -/

namespace Sys2Proof.Machine

/-- A fault at the target of a taken transfer, or at a fetch (R44, R76): TVAL2 is the transfer's pc when there was
one. -/
def Ctx.fetchTrap (c : Ctx) (cause : Nat) (tval : Word) (tval2 : Option Word) : Trap :=
  { cause := cause, tval := some tval, tval2 := c.xfer.or tval2 }

/-- A failed target test: TVAL holds the transfer's pc (R44). -/
def Ctx.targetTrap (c : Ctx) : Trap := { cause := cBRANCH_TARGET, tval := c.xfer, tval2 := c.xfer }

/-- The context waits for its line. -/
def Ctx.needsLine (c : Ctx) : Bool :=
  c.canIssue && (match c.line with | some l => l.addr != pcLine c.pc | none => true)

/-- The line of the current context's pc arrives with some of its bits flipped (R45): it is kept, fetched again, or raises
MACHINE_FETCH. -/
def State.fetchLine (s : State) (flips : BitVec 512) : State :=
  let c := s.ctx
  let pc := c.pc.toNat
  if 2 ^ 56 ≤ pc ∨ bits pc 5 3 ≠ 0 ∨ 5 ≤ pc % 8 then s.takeTrapA c.targetTrap
  else
    let addr := pc / 64 * 64
    let root := s.effPtroot c.rcb
    let refuse (e : Refused) := s.takeTrapA (c.fetchTrap e.1 c.pc (e.2.2.map word))
    if s.walkWaits (.core s.core) root addr then s
    else match translate s (.core s.core) root .x addr with
    | .error e => refuse e
    | .ok (p, s') =>
      if p.inReclass s' || (gaSpace p.ga == 0 && s'.lineHeld p.ga) then s
      else match p.check s' c.mode s.core .x with
      | .error e => refuse e
      | .ok _ =>
      let s := s'
      if s.bad p.ga 64 then s.takeTrapA (c.fetchTrap cMACHINE_UE (word p.ga) none)
      else
        let s := if p.isDram then s.sliceFill p.ga 64 else s
        let data := (BitVec.ofNat 512 (s.peek p.ga 64)) ^^^ flips
        let line : Line := ⟨word addr, data⟩
        if line.parityOk then s.modCtx (fun c => { c with line := some line, refetch := false })
        else if !c.refetch then (s.modCtx (fun c => { c with refetch := true })).modHere (·.count 6)
        else (s.modCtx (fun c => { c with refetch := false })).takeTrapA (c.fetchTrap cMACHINE_FETCH (word addr) none)

/-- The follow-on rules of R40 and R227. -/
def followOk (i : Instr) (x : Except DecodeError Instr) : Bool :=
  let f := match i with | .hcopy o => o.f | .hgath o => o.f | .hunpk o => o.f | _ => false
  f && (match x with
    | .ok (.mma o) => o.h.pg == 0 && o.h.rm != 5
    | .ok (.mmaS o) => o.h.pg == 0 && o.h.rm != 5
    | .ok (.dmma o) => o.h.pg == 0 && o.h.rm != 5
    | _ => false)

/-- An engine command asks for a follow-on. -/
def hasFollow (i : Instr) : Bool :=
  match i with
  | .hcopy o => o.f | .hgath o => o.f | .hunpk o => o.f | .hscat o => o.f | .hpack o => o.f | _ => false

/-- ILLEGAL_OP at a slot (R60): TVAL is word bits [95:32], TVAL2 bits [31:0]. -/
def illegalOp (w : BitVec 96) : Trap :=
  { cause := cILLEGAL_OP, tval := some (w.extractLsb' 32 64), tval2 := some ((w.extractLsb' 0 32).setWidth 64) }

/-- What stands at the context's pc of its buffered line: a trap of the target test or of R60, or an instruction. -/
def slotAt (c : Ctx) (l : Line) : Except Trap Instr :=
  let k := pcSlot c.pc
  let w := l.slot k
  if c.xfer.isSome && !l.targetOk c.pc then .error c.targetTrap
  else if bits l.lineWord 21 16 ≠ 0 then .error (illegalOp w)
  else
    match l.template[k]?, l.instr c.pc with
    | some kind, .ok i =>
      if i.stream != kind.stream then .error (illegalOp w)
      else match kind with
        | .pairE => if followOk i (l.follow c.pc) then .ok i else .error (illegalOp w)
        | .followX => .error (illegalOp w)
        | _ => if hasFollow i then .error (illegalOp w) else .ok i
    | _, _ => .error (illegalOp w)

/-- The instruction a context's pc stands at, when its line is buffered. -/
def Ctx.current (c : Ctx) : Option Instr :=
  match c.line with
  | some l => if l.addr == pcLine c.pc then (match slotAt c l with | .ok i => some i | .error _ => none) else none
  | none => none

/-- The A-half has reached an END or YIELD that ends its firing. -/
def Ctx.atEnd (c : Ctx) : Bool :=
  match c.current with
  | some (.endFiring o) => c.rp o.h.pg.toNat
  | some (.yield o) => c.rp o.h.pg.toNat
  | _ => false

/-- The A-half waits at a stall point (R84, R85). -/
def Ctx.atStallPoint (c : Ctx) : Bool := match c.stall with | some st => st.point | none => false

/-- A point at which a pre-emption applies to a firing whose region is committed: a stall point, END or YIELD, or the
return from a trap (R83; log entry 38). IDEM begins a region that is not committed. -/
def Ctx.atPoint (c : Ctx) : Bool := c.atStallPoint || c.preemptDue || c.atEnd

/-- A page in transition or a held line holds the A-half's access (R287, R376). -/
def Ctx.inTransition (c : Ctx) : Bool := match c.stall with | some st => st.why == .transition | none => false

/-- A region that a pre-emption would discard or save holds its A-half back (R83, R84); an instruction that has begun its
accesses makes them all, and an access that waits for a page in transition or a held line is made first (R287, R376). -/
def Ctx.heldForPreempt (c : Ctx) : Bool :=
  c.preempt.isSome && c.mode == .u && c.moving.isEmpty && !c.inTransition && (!c.idem.committed || c.atPoint)

end Sys2Proof.Machine
end

