-- ==== Sys2Proof/Machine/Control.lean ====
section
/-! DEFINITION. Control flow, predicates, ports, the end of a firing, idempotent regions and XLOOP (R59, R69 to R81,
R263, R264). -/

namespace Sys2Proof.Machine

/-- NOP (R59). -/
def execNop (o : AOps) (s : State) := issueNext (.nop o) o.h (pure ()) s

/-! ### Traps by instruction -/

/-- TRAPC (R264): a trap with the cause and value software chose. -/
def execTrapc (o : AOps) (s : State) := issue (.trapc o) o.h (do
  let cause := o.ext.toNat % 128
  let v ← readGReg o.h.s1
  unlessFault (!causeReserved cause && decide (cause < 88)) cILLEGAL_OPERAND (some (word cause))
  throw (.trap { cause := cause, tval := some v, sw := true })) s

/-- TRAPRET (R263). -/
def execTrapret (o : AOps) (s : State) := issue (.trapret o) o.h trapReturn s

/-! ### Branches -/

/-- BR (R75). -/
def execBr (o : AOps) (s : State) := issue (.br o) o.h (do
  return .jump (directTarget (← getCtx).pc o.ext)) s

/-- BRL (R75): the link holds the sequential successor. -/
def execBrl (o : AOps) (s : State) := issue (.brl o) o.h (do
  let c ← getCtx
  writeD o.h.d c.successor
  return .jump (directTarget c.pc o.ext)) s

/-- JMP (R75). -/
def execJmp (o : AOps) (s : State) := issue (.jmp o) o.h (do
  return .jump (← readGReg o.h.s1)) s

/-- JMPL (R75): the target is read before the link is written. -/
def execJmpl (o : AOps) (s : State) := issue (.jmpl o) o.h (do
  let t ← readGReg o.h.s1
  writeD o.h.d (← getCtx).successor
  return .jump t) s

/-- RET (R75). -/
def execRet (o : AOps) (s : State) := issue (.ret o) o.h (do
  return .jump (← readG 31)) s

/-- LOOP (R75). -/
def execLoop (o : AOps) (s : State) := issue (.loop o) o.h (do
  let c ← getCtx
  let n := c.rg o.h.d.index - 1
  writeD o.h.d n
  return if n = 0 then .next else .jump (directTarget c.pc o.ext)) s

/-! ### Predicates -/

def predicate2 (i : Instr) (o : AOps) (f : Bool → Bool → Bool) (s : State) : Host.Outcome State Fault Refusal :=
  issueNext i o.h (do
    let a ← readPReg o.h.s1
    let b ← readPReg o.h.s2
    writePReg o.h.d (f a b)) s

def execPand (o : AOps) (s : State) := predicate2 (.pand o) o (· && ·) s
def execPor (o : AOps) (s : State) := predicate2 (.por o) o (· || ·) s
def execPxor (o : AOps) (s : State) := predicate2 (.pxor o) o (· != ·) s
def execPnot (o : AOps) (s : State) := issueNext (.pnot o) o.h (do
  let a ← readPReg o.h.s1
  writePReg o.h.d (!a)) s

/-! ### Ports -/

/-- Port k of a list of rings; a missing one is an ILLEGAL_OPERAND (R72). -/
def portOf (rings : List Ring) (k : Nat) : Act Ring :=
  match rings[k]? with
  | some r => return r
  | none => fault cILLEGAL_OPERAND none

/-- PHEAD and PTAIL: the address of entry K (R72). -/
def portEntry (i : Instr) (o : AOps) (out : Bool) (s : State) : Host.Outcome State Fault Refusal :=
  issueNext i o.h (do
    let s ← get
    let rings := match s.ownBound with | some b => if out then b.outs else b.ins | none => []
    let r ← portOf rings (o.ext.toNat % 8)
    let k := bits o.ext.toNat 11 4
    unlessFault (decide (k < r.rate)) cILLEGAL_OPERAND
    writeD o.h.d (word (ringEntry s.core r (r.head + (if out then r.count else 0) + k)))) s

def execPhead (o : AOps) (s : State) := portEntry (.phead o) o false s
def execPtail (o : AOps) (s : State) := portEntry (.ptail o) o true s

/-- PCNT (R72). -/
def execPcnt (o : AOps) (s : State) := issueNext (.pcnt o) o.h (do
  let s ← get
  let out := bit o.ext.toNat 3
  let rings := match s.ownBound with | some b => if out then b.outs else b.ins | none => []
  let r ← portOf rings (o.ext.toNat % 8)
  writeD o.h.d (word (if out then r.depth - r.count else r.count))) s

/-! ### The end of a firing -/

/-- The firing of the current context ends (R69): with its commit, or abandoned by a handler in S mode. -/
def State.endFiring (s : State) : State :=
  match s.ctx.firing with
  | none => s
  | some f =>
    if s.ctx.mode == .s then s.abandon s.core s.fc
    else ((s.freeCtx s.core s.fc).endActor s.core f true).finishSaves

/-- The waits of END, a share's count, and the end (R69, R358). -/
def endNow : Act Unit := do
  endWaits
  endShare
  modify State.endFiring

/-- END (R69). -/
def execEndFiring (o : AOps) (s : State) := issue (.endFiring o) o.h (do
  endNow
  return .stay) s

/-- YIELD is an instruction of plain and graph actors only (R70). -/
def Firing.yields (f : Firing) : Bool := f.kind == .actor && f.cls != 4

/-- YIELD (R70). -/
def execYield (o : AOps) (s : State) := issue (.yield o) o.h (do
  let c ← getCtx
  unlessFault (c.mode == .u && (match c.firing with | some f => f.yields | none => false)) cILLEGAL_OPERAND
  endWaits
  modify (fun s => match s.ctx.firing with
    | some f => ((s.freeCtx s.core s.fc).yieldActor s.core f).finishSaves
    | none => s)
  return .stay) s

/-! ### Idempotent regions and XLOOP -/

/-- IDEM (R79, R80). -/
def execIdem (o : AOps) (s : State) := issueNext (.idem o) o.h (do
  let c ← getCtx
  unlessFault (!c.bodyOpen) cXLOOP_OPEN
  modCtx (fun c => { c with
    idem := { c.idem with
      entry := c.pc, gmask := o.ext.setWidth 32, preds := c.p, committed := false, serial := c.idem.serial + 1,
      start := false } })) s

/-- A signed 4-bit stride (R77). -/
def stride (x lo : Nat) : Int := sintOf 4 (bits x (lo + 3) lo)

/-- The effect of XLOOP: the A-half reads the count as it dispatches it. The loop of an empty body of count 0 holds its
entries until the body is whole. A skipped XLOOP has none (R263). -/
def xloopAct (o : AOps) : Act Flow := do
  let c ← getCtx
  if c.xskip then return .next
  unlessFault (!c.bodyOpen) cXLOOP_OPEN
  roomInSequencer c
  let n ← readGReg o.h.s1
  let e := o.ext.toNat
  modCtx (fun c => { c with
    xseq := c.xseq ++ [.loop {
      region := c.idem.serial,
      n := bits e 35 32 + 1, count := n.toNat, sd := stride e 28, s1 := stride e 24, s2 := stride e 20,
      s3 := stride e 16, body := [], pass := 0, idx := 0 }] })
  return .next

/-- XLOOP (R77 to R79). -/
def execXloop (o : AOps) (s : State) : Host.Outcome State Fault Refusal :=
  .next (if s.ctx.canIssue then finishD s ((slotAct (.xloop o) o.h (xloopAct o)).run s) else s)

end Sys2Proof.Machine
end

