-- ==== Sys2Proof/Machine/Loads.lean ====
section
/-! DEFINITION. One load, store or atomic of a context: what it waits for, and where it is performed (R171 to R179, R271
to R292, R295 to R298, R374). -/

namespace Sys2Proof.Machine

/-! ### Loads -/

/-- Where a value goes becomes pending (R162, R174). -/
def Ctx.expect (c : Ctx) (d : Dest) : Ctx :=
  match d with
  | .g k _ => c.setPend k .load
  | .pair k => (c.setPend k .load).setPend (k + 1) .load
  | _ => c

/-- The pc that the error of a load reports (R173): that of its instruction, and none of a transfer unit's fetch. -/
def Dest.pc (d : Dest) (pc : Word) : Option Word := match d with | .stream _ _ => Option.none | _ => some pc

/-- The error of a load of the current context at an address (R173, R174). -/
def loadError (c : Ctx) (d : Dest) (ga cause : Nat) : DataError := ⟨cause, word ga, d.pc c.pc⟩

/-- What stops a load from this core's own pool: the role ends before it (R107), or the data is uncorrectable (R386). -/
def State.ownError (s : State) (d : Dest) (ga n : Nat) : Option DataError :=
  if !s.here.inRole (gaSpace ga) (gaOff ga) n then some (loadError s.ctx d ga cPOOL_RANGE)
  else if s.bad ga n then some (loadError s.ctx d ga cMACHINE_UE)
  else none

/-- The data of a copy that serves a load is uncorrectable (R386). -/
def State.copyError (s : State) (d : Dest) (ga n : Nat) (replica : Bool) : Option DataError :=
  if !replica && s.copyBad s.core ga n then some (loadError s.ctx d ga cMACHINE_UE) else none

/-- A load on its way to its target. -/
def sendLoad (p : Phys) (n : Nat) (acq engine : Bool) (d : Dest) : Act Unit :=
  modify (fun s => (s.launch { newTxn s .load (if p.isDram then .dram p.cls else .pool) p.ga n p.pageGa with
    ea := p.ea, dest := d, acq := acq, engine := engine }).modCtx (·.expect d))

/-- A load from this core's own pool is performed at issue (R171). -/
def ownLoad (p : Phys) (n : Nat) (d : Dest) : Act Unit := do
  let s ← get
  waitUntil (!s.here.poolWaits (gaSpace p.ga) (gaOff p.ga) n false) .memory
  modCtx (fun c => c.land d (s.ownError d p.ga n) (s.rdNat p.ga n))

/-- One load of n bytes at an address that has passed its checks. -/
def startLoad (p : Phys) (n : Nat) (acq : Bool) (d : Dest) : Act Unit := do
  let s ← get
  if p.isDram then
    match s.loadCopy p acq with
    | some (l, replica) =>
      modify (fun s => (s.loadHit p l replica).modCtx (fun c => c.land d (s.copyError d p.ga n replica) (l.get p.ga n)))
    | none =>
      modCore (·.count 0x005)
      sendLoad p n acq false d
  else if s.isOwn p then ownLoad p n d
  else sendLoad p n acq false d

/-- One load by an engine of the core (R288): its home serves it, and the core's own dirty sectors of a CP or OW line go
there first. -/
def engineLoad (p : Phys) (n : Nat) (d : Dest) : Act Unit := do
  let s ← get
  if s.isOwn p then ownLoad p n d
  else
    if p.isDram && (p.cls == .cp || p.cls == .ow) then modify (fun s => s.settleOwn s.core (lineOf p.ga))
    sendLoad p n false true d

/-! ### Stores -/

/-- A store beyond the role of this core's own pool raises POOL_RANGE at the instruction (R107, R173; log entry 33). -/
def ownRange (p : Phys) (n : Nat) : Act Unit := do
  let s ← get
  unlessFault (!s.isOwn p || s.here.inRole (gaSpace p.ga) (gaOff p.ga) n) cPOOL_RANGE (some (word p.ga))

/-- A store to this core's own pool is performed at issue (R177). -/
def ownStore (p : Phys) (n x : Nat) : Act Unit := do
  let s ← get
  waitUntil (!s.here.poolWaits (gaSpace p.ga) (gaOff p.ga) n true) .memory
  waitUntil (!s.ownPending p.ga n) .memory
  ownRange p n
  modify (fun s => s.wrNat p.ga n x)

/-- A store served by the core's own copy of a line: whole words it writes are sound again (R386). -/
def State.storeHit (s : State) (l : CchLine) (ga n : Nat) : State :=
  { (s.modHere (fun c => (c.putLine l).count 0x004)) with errs := errsAfter s.errs (copyKey s.core ga) n }

/-- One store of n bytes at an address that has passed its checks: performed at issue, or posted (R177, R178). -/
def startStore (p : Phys) (n x : Nat) : Act Unit := do
  let s ← get
  let data := bytesOf n x
  if p.isDram then
    match s.storeCopy p with
    | some l =>
      waitUntil (!s.ownPending p.ga n) .memory
      let (l, _, cts, _) := lineOp l s.ctx.cts p.ga n (.store data)
      modify (·.storeHit l p.ga n)
      modCtx (fun c => { c with cts := if p.isHc then cts else c.cts })
    | none =>
      modCore (·.count 0x005)
      post (.store data) (.dram p.cls) p.ga n p.pageGa
  else if s.isOwn p then ownStore p n x
  else post (.store data) .pool p.ga n p.pageGa

/-- What an engine does at its issue for one line it will write (R288): it claims an HC or SC line, and the issuing core
gives up its copy of a CP or OW line, dirty sectors first. -/
def State.claimFor (s : State) (id : Nat) (p : Phys) : State :=
  let line := lineOf p.ga
  if !p.isDram || gaPkg p.ga != corePkg s.core then s
  else if p.cls == .cp || p.cls == .ow then (s.writeBack s.core line).modHere (·.dropLine line)
  else s.addClaim line ⟨id, s.core, s.fc % 4⟩

/-- A posted write of an engine of the core, under the number of its claim (R178, R288). -/
def postEngine (id : Nat) (op : TxnOp) (p : Phys) (n : Nat) : Act Unit := do
  needPosted
  modify (fun s => s.launchAs id { newTxn s op (if p.isDram then .dram p.cls else .pool) p.ga n p.pageGa with
    count := some (countFor s.core p.ga), engine := true })

/-- One store by an engine of the core: posted, or performed at once on the core's own pool (R177, R178, R288). -/
def engineStore (id : Nat) (p : Phys) (n x : Nat) : Act Unit := do
  let s ← get
  if s.isOwn p then ownStore p n x else postEngine id (.store (bytesOf n x)) p n

/-! ### Instructions of several accesses -/

/-- One access of an instruction that makes several (R182, R185, R186, R253, R288). -/
def runPiece : Piece → Act Unit
  | .load p n engine d => do
    gateLoad p n
    if engine then engineLoad p n d else startLoad p n false d
  | .store p n x claim => do
    gate p
    match claim with
    | some id => engineStore id p n x
    | none => startStore p n x
  | .flush line page inv => do
    match (← getCore).findLine line with
    | none => pure ()
    | some l =>
      if l.dirty != 0 then post (.flush inv) (.dram l.cls) line 64 page
      else if inv then modify (fun s => s.evict s.core l)
  | .result d v => writeD d v

/-- The accesses in order, as far as none waits, and those left. A store that its own pool no longer takes when its turn
comes is refused as a posted one is (R107, R179). -/
def runPieces : List Piece → State → List Piece × State
  | [], s => ([], s)
  | p :: ps, s =>
    match (runPiece p).run s with
    | .ok (_, s) => runPieces ps s
    | .error (.wait _ _) => (p :: ps, s)
    | .error (.trap t) =>
      runPieces ps (s.modCtx (fun c => { c with storeErr := c.storeErr.or (some (t.tval.getD 0, t.cause)) }))

/-- An instruction of several accesses: `start` makes its checks and names the accesses, which are then made in order, over
as many acts as they need. -/
def movePieces (start : Act (List Piece)) : Act Flow := do
  let begun := (← getCtx).moving
  let ps ← if begun.isEmpty then start else pure begun
  let (left, s) := runPieces ps (← get)
  set (s.modCtx (fun c => { c with moving := left }))
  if left.isEmpty then return .next
  modCtx (·.stallOn .memory false s.now)
  return .hold

/-- A context of a core has still to make an access that it has begun, by a translation of the page. -/
def Core.movingOn (c : Core) (page : Nat) : Bool :=
  c.ctx.any (fun x => x.moving.any (fun p => match p with
    | .load p _ _ _ => p.page.any (·.ga == page)
    | .store p _ _ _ => p.page.any (·.ga == page)
    | .flush _ q _ => q == page
    | .result _ _ => false))

/-- A context of a core has still to make an access that it has begun to n bytes at ga. -/
def Core.movingTo (c : Core) (ga n : Nat) : Bool :=
  c.ctx.any (fun x => x.moving.any (fun p => match p with
    | .load p k _ _ => overlap p.ga k ga n
    | .store p k _ _ => overlap p.ga k ga n
    | .flush line _ _ => overlap line 64 ga n
    | .result _ _ => false))

/-! ### Atomics -/

/-- A zero-fire counter that a core's own agent brought to zero at issue: the AMO is counted until its wake is accepted
(R298). -/
def fireNow (op : TxnOp) (ga n : Nat) : Act Unit := do
  needPosted
  let s ← get
  let id := s.nextId
  let t := { newTxn s op .pool ga n with stage := .held, count := some (countFor s.core ga) }
  set ((s.launch t).zeroFire id { t with sent := s.now })

/-- The old value of an atomic performed at issue: it lands, and .fadd raises its conditions (R294, R296). -/
def landNow (op : TxnOp) (d : Dest) (err : Option DataError) (old : Nat) : Act Unit :=
  modCtx (fun c =>
    let c := if err.isNone && d != .none then { c with fflags := c.fflags ||| op.flags old } else c
    c.land d err old)

/-- One atomic on n bytes. An AMO gives no value back; the others have a destination (R295, R296). -/
def startAtomic (op : TxnOp) (p : Phys) (n : Nat) (acq : Bool) (d : Dest) : Act Unit := do
  gate p
  let send (target : Target) : Act Unit := do
    if d == .none then post op target p.ga n p.pageGa
    else
      modify (fun s => (s.launch { newTxn s op target p.ga n p.pageGa with ea := p.ea, dest := d, acq := acq }).modCtx (·.expect d))
  let onLine (l : CchLine) : Act Unit := do
    let s ← get
    waitUntil (!s.ownPending p.ga n && !s.ctx.postedOverlap p.ga n) .memory
    match s.copyError d p.ga n false with
    | some e => if d == .none then fault cMACHINE_UE (some (word p.ga)) else landNow op d (some e) 0
    | none =>
      let (l, old, cts, fired) := lineOp l s.ctx.cts p.ga n op
      modCore (·.putLine l)
      modCtx (fun c => { c with cts := if p.isHc then cts else c.cts })
      landNow op d none old
      if fired then fireNow op p.ga n
  let s ← get
  if p.isDram then
    if p.cls == .hc || p.cls == .sc then
      match s.storeCopy p with
      | some l =>
        modCore (·.count 0x004)
        onLine l
      | none =>
        modCore (·.count 0x005)
        send (.dram p.cls)
    else
      match (← ownedLine p) with
      | some l => onLine l
      | none =>
        waitUntil (!s.ctx.postedOverlap p.ga n) .memory
        let old ← touchNow p n op.stores
        landNow op d none old
        let fired := match op with
          | .amo o f rm v zf => zf && old != 0 && (amoApply o f rm.toNat old (valOf f v)).1 == 0
          | _ => false
        if fired then fireNow op p.ga n
  else if s.isOwn p then
    let sp := gaSpace p.ga
    waitUntil (!s.here.poolWaits sp (gaOff p.ga) n true) .memory
    waitUntil (!s.ownPending p.ga n) .memory
    match s.ownError d p.ga n with
    | some e => if d == .none then fault e.cause (some e.tval) else landNow op d (some e) 0
    | none =>
      let (s', old, fired) := s.applyOp p.ga n op
      set s'
      landNow op d none old
      if fired then fireNow op p.ga n
  else send .pool

/-- An AMO or AMO.U on a page with the DM bit goes to its merge unit with the key of R373 (R374). -/
def startDm (op : AmoOp) (f : Fmt) (rm : BitVec 3) (v : Word) (p : Phys) : Act Unit := do
  gate p
  let s ← get
  unlessFault (s.here.cnt != 0xFFFFFFFF) cILLEGAL_OPERAND (some (word p.ga))
  let e : DmEntry := {
    issuer := s.here.lcore, seq := s.here.cnt.toNat, ga := p.ga, op := op, fmt := f, rm := rm, val := v, spilled := false }
  post (.dm e) .merge p.ga (Fmt.width f / 8) p.pageGa
  modCore (fun c => ({ c with cnt := c.cnt + 1 } : Core).count 0x009)

/-- The address of an atomic (R295): of a space and a class that take it, then readable and writable. A form that a CP or OW
page refuses with AMO_CLASS says so before the page's owner or holder is asked for (R292, R358). -/
def resolveAtomic (ea n : Nat) (classes : Cls → Bool := fun _ => true) : Act Phys := do
  if ea % n ≠ 0 then fault cMISALIGNED (some (word ea))
  let p ← whereTo .w ea
  unlessFault (gaSpace p.ga != 3 && gaSpace p.ga != 5 && gaSpace p.ga != 6) cAMO_CLASS
  unlessFault (!p.isDram || classes p.cls) cAMO_CLASS
  let m := (← getCtx).mode
  checked m .r p
  checked m .w p
  return p

end Sys2Proof.Machine
end

