-- ==== Sys2Proof/Machine/Memory.lean ====
section
/-! DEFINITION. The memory instructions (R170 to R188) and the atomics (R293 to R299). -/

namespace Sys2Proof.Machine

/-! ### Queue entries -/

/-- Reserve the tail entry of q0 for a number of elements (R91, R174); a full q0 stalls (R92). -/
def reserveQ0 (need : Nat) : Act Nat := do
  let c ← getCtx
  waitUntil (decide (c.q0.length < 32)) .queue true
  let id ← newId
  modCtx (fun c => { c with q0 := c.q0 ++ [⟨id, need, 0, none⟩] })
  return id

/-- q6 and q7 do not exist (R49). -/
def queueExists (r : Reg) : Act Unit :=
  match r with
  | .q k => unlessFault (decide (k.toNat < 6)) cILLEGAL_OPERAND (some (word k.toNat))
  | _ => pure ()

/-! ### LD and ST -/

/-- LD (R174). -/
def execLd (o : MOps) (s : State) := issueNext (.ld o) o.h (do
  queueExists o.h.d
  let c ← getCtx
  let n := o.size
  let p ← resolve .r (o.ea c) n
  gateLoad p n
  let acq := o.ord == 1
  match o.h.d with
  | .q _ =>
    let id ← reserveQ0 1
    startLoad p n acq (.q0 id 0 n)
  | r => startLoad p n acq (.g r.index o.fmt)) s

/-- ST (R174, R176). -/
def execSt (o : MOps) (s : State) := issueNext (.st o) o.h (do
  queueExists o.h.s3
  let c ← getCtx
  let n := o.size
  let p ← resolve .w (o.ea c) n
  if o.ord == 2 then fence 4
  gate p
  match o.h.s3 with
  | .q _ =>
    let v ← popQ1
    startStore p n (v.toNat % 2 ^ (8 * n))
  | r => startStore p n ((c.rg r.index).toNat % 2 ^ (8 * n))) s

/-- The words of LDM and STM, every one translated and checked before any moves (R182). -/
def resolveWords (kind : Kind) (ea : Nat) : Nat → Act (List Phys)
  | 0 => pure []
  | n + 1 => do
    let p ← resolve kind ea 8
    let l ← resolveWords kind ((ea + 8) % 2 ^ 64) n
    return p :: l

/-- Every address of a store in this core's own pool lies within its role (R107). -/
def ownRanges (n : Nat) : List Phys → Act Unit
  | [] => pure ()
  | p :: ps => do ownRange p n; ownRanges n ps

/-- LDM: word k goes to register F + k (R182). -/
def execLdm (o : MOps) (s : State) := issue (.ldm o) o.h (movePieces (do
  let c ← getCtx
  let ps ← resolveWords .r (o.base c) (o.h.s2.index + 1 - o.h.d.index)
  return ps.mapIdx (fun k p => .load p 8 false (.g (o.h.d.index + k) .n64)))) s

/-- STM: word k is register F + k (R182). -/
def execStm (o : MOps) (s : State) := issue (.stm o) o.h (movePieces (do
  let c ← getCtx
  let ps ← resolveWords .w (o.base c) (o.h.s2.index + 1 - o.h.s3.index)
  ownRanges 8 ps
  return ps.mapIdx (fun k p => .store p 8 (c.rg (o.h.s3.index + k)).toNat none))) s

/-- LDC (R183). -/
def execLdc (o : AOps) (s : State) := issueNext (.ldc o) o.h (do
  let i ← readGReg o.h.s2
  let w := o.ext.toNat
  let x := bits w 16 0 + i.toNat
  unlessFault (decide (x ≤ 0x1FFFF)) cILLEGAL_OPERAND (some (word x))
  writeD o.h.d (← readWindow (bits w 19 17) x)) s

/-! ### Index lists -/

/-- The addresses an index list names: the words at gX are loads of the context, and every address is checked (R186). -/
def indexed (kind : Kind) (b s gx : Nat) : Nat → Nat → Act (List Phys)
  | 0, _ => pure []
  | n + 1, k => do
    let idx ← readNow (← resolve .r ((gx + 4 * k) % 2 ^ 64) 4) 4
    let p ← resolve kind ((b + s * idx) % 2 ^ 64) s
    let l ← indexed kind b s gx n (k + 1)
    return p :: l

def reserveAll : Nat → Act (List Nat)
  | 0 => pure []
  | n + 1 => do
    let id ← reserveQ0 1
    let l ← reserveAll n
    return id :: l

/-- IGET (R186). -/
def execIget (o : MOps) (s : State) := issue (.iget o) o.h (movePieces (do
  queueExists o.h.d
  let c ← getCtx
  let b := o.base c
  let gx := (c.rg o.h.s2.index).toNat
  let n := o.size
  let count := if o.v then 8 else 32 / n
  let ps ← indexed .r b n gx count 0
  if o.v then
    let ids ← reserveAll 8
    return (ids.zip ps).map (fun x => .load x.2 32 true (.q0 x.1 0 32))
  else
    let id ← reserveQ0 count
    return ps.mapIdx (fun k p => .load p n true (.q0 id (n * k) n)))) s

/-- n entries of q1, popped. -/
def popAll : Nat → Act (List V256)
  | 0 => pure []
  | n + 1 => do
    let v ← popQ1
    let l ← popAll n
    return v :: l

/-- An engine's stores of the values at the addresses, each with its claim (R288). -/
def claimAll (n : Nat) : List (Phys × Nat) → Act (List Piece)
  | [] => pure []
  | (p, x) :: l => do
    let id ← newId
    modify (·.claimFor id p)
    let ps ← claimAll n l
    return .store p n x (some id) :: ps

/-- IPUT (R186, R288). -/
def execIput (o : MOps) (s : State) := issue (.iput o) o.h (movePieces (do
  queueExists o.h.s3
  let c ← getCtx
  let b := o.base c
  let gx := (c.rg o.h.s2.index).toNat
  let n := o.size
  let ps ← indexed .w b n gx (if o.v then 8 else 32 / n) 0
  ownRanges n ps
  if o.v then
    let vs ← popAll 8
    claimAll n (ps.zip (vs.map (·.toNat)))
  else
    let v ← popQ1
    claimAll n (ps.mapIdx (fun k p => (p, bits v.toNat (8 * n * k + 8 * n - 1) (8 * n * k)))))) s

/-! ### The cache role -/

/-- PREF: it asks for the line and never faults (R184). -/
def execPref (o : MOps) (s : State) := issueNext (.pref o) o.h (do
  acquired
  let s ← get
  match (← whereIn .r (o.ea s.ctx)) with
  | none => pure ()
  | some p =>
    let s ← get
    let wanted := gaSpace p.ga == 0 && (p.page.map (pageCheck s s.ctx.mode s.core .r) matches some (.ok _)) &&
      s.caches s.core p.cls p.ga p.pageGa && (s.here.findLine (lineOf p.ga)).isNone
    if wanted then modify (fun s => s.launch (newTxn s .fill (.dram p.cls) (lineOf p.ga) 64 p.pageGa)) else pure ()) s

/-- The first address of each 64 KiB page of [ea, ea + n), with the bytes of the range in it. -/
def chunks (ea n : Nat) : List (Nat × Nat) :=
  let first := ea / 0x10000
  let last := (ea + n + 0xFFFF) / 0x10000
  if n = 0 then [] else (List.range (last - first)).map (fun k =>
    let a := max ea ((first + k) * 0x10000)
    (a, min (ea + n) ((first + k + 1) * 0x10000) - a))

/-- The scan of one chunk of FLUSH or INV: the lines of it that this core's CCH holds. The page must permit the kind of
access; one that does not translate holds no lines (R185). -/
def cacheChunk (inv : Bool) (kind : Kind) (a n : Nat) : Act (List Piece) := do
  match (← whereIn kind (a % 2 ^ 64)) with
  | none => pure []
  | some p =>
    match p.page with
    | none => pure []
    | some t =>
      let c ← getCtx
      unlessFault (t.permits c.mode kind) cPERM_DENIED (some (word (a % 2 ^ 64)))
      let lines := (← getCore).lines.filter (fun l => overlap l.addr 64 p.ga n)
      return lines.map (fun l => .flush l.addr t.pageGa inv)

def cacheChunks (inv : Bool) (kind : Kind) : List (Nat × Nat) → Act (List Piece)
  | [] => pure []
  | (a, n) :: l => do
    let x ← cacheChunk inv kind a n
    let y ← cacheChunks inv kind l
    return x ++ y

/-- The scan of FLUSH or INV: a dirty line's write-back is posted and counted, and INV drops the lines (R185). -/
def cacheScan (inv : Bool) (kind : Kind) (o : MOps) : Act Flow := movePieces (do
  acquired
  let c ← getCtx
  cacheChunks inv kind (chunks (o.ea c) (c.rg o.h.s3.index).toNat))

/-- FLUSH (R185). -/
def execFlush (o : MOps) (s : State) := issue (.flush o) o.h (cacheScan false .r o) s
/-- INV (R185). -/
def execInv (o : MOps) (s : State) := issue (.inv o) o.h (cacheScan true .w o) s

/-! ### Counts and fences -/

/-- SCNT (R180). -/
def execScnt (o : MOps) (s : State) := issueNext (.scnt o) o.h (do
  let c ← getCtx
  writeD o.h.d (word (c.countSys * 2 ^ 32 + c.countPkg * 2 ^ 16 + c.countClu))) s

/-- FENCE (R181). -/
def execFence (o : MOps) (s : State) := issueNext (.fence o) o.h (fence o.scope.toNat) s

/-! ### Capabilities and classes -/

/-- The lines of a page in a core's CCH. -/
def Core.linesOf (c : Core) (ga n : Nat) : List CchLine := c.lines.filter (fun l => overlap l.addr 64 ga n)

/-- Loads that the home has granted the core a line of an OW page for return their values and cache nothing: the core gives
the page up (R284). -/
def State.settleGrants (s : State) (core page : Nat) : State :=
  let mine (t : Txn) : Bool := t.core == core && t.page == page && t.target == .dram .ow && t.stage == .granted && t.op.isLoad
  { s with txns := (s.txns.filter (fun t => !(mine t.2 && t.2.op == .fill))).map (fun (t : Nat × Txn) =>
      if mine t.2 then (t.1, { t.2 with stage := .done, value := (t.2.value.drop (t.2.ga % 64)).take t.2.size }) else t) }

/-- HANDOVER (R187, R285). -/
def execHandover (o : MOps) (s : State) := issueNext (.handover o) o.h (do
  let c ← getCtx
  let ea := o.ea c
  let n := (c.rg o.h.s3.index).toNat
  let p ← resolvePage ea
  unlessFault (p.page.isSome && p.cls == .ow && bits n 63 26 == 0 && decide (bits n 9 6 ≤ 11) && decide (bits n 5 2 ≤ 11))
    cILLEGAL_OPERAND
  let s ← get
  unlessFault (s.holds s.core p.pageGa) cOW_NOCAP (some (word ea))
  let size := match p.page with | some t => 2 ^ leafBits t.level | none => 0
  waitUntil (!s.here.movingTo p.pageGa size) .fence
  waitUntil (!s.txns.any (fun t => t.2.core == s.core && !t.2.op.isLoad &&
    ((t.2.page == p.pageGa && t.2.target == .dram .ow) || t.2.rest.any (·.page == p.pageGa)))) .fence
  storeCheck
  modify (fun s =>
    let s := s.settleGrants s.core p.pageGa
    let s := (s.here.linesOf p.pageGa size).foldl (fun s l => (s.writeBack s.core l.addr).modHere (·.dropLine l.addr)) s
    s.modPkg (gaPkg p.pageGa) (fun x => { x with caps := Sys2Proof.Machine.tset x.caps p.pageGa ⟨none, some n, false⟩ }))) s

/-- OW_HANDOVER_AT_HOME: the home rewrites the capability word and sends the grant (R285). -/
def execOwHandoverAtHome (page : Nat) (s : State) : Host.Outcome State Fault Refusal :=
  .next (s.modPkg (gaPkg page) (fun x => match tfind x.caps page with
    | some c => if c.holder.isNone && c.heading.isSome && !c.granted then
        { x with caps := Sys2Proof.Machine.tset x.caps page { c with granted := true } } else x
    | none => x))

/-- An event adds one to the event latch of a context that holds a firing (R255, R313). -/
def Ctx.event (c : Ctx) : Ctx := if c.firing.isSome then { c with evlatch := c.evlatch + 1 } else c

/-- OW_GRANT: the new core holds the capability, and every context of it gets an event (R285). -/
def execOwGrant (page : Nat) (s : State) : Host.Outcome State Fault Refusal :=
  .next (match tfind (s.pkgAt (gaPkg page)).caps page with
    | some c =>
      match c.heading, c.granted with
      | some k, true =>
        let s := s.modPkg (gaPkg page) (fun x => { x with caps := Sys2Proof.Machine.tset x.caps page ⟨some k, none, false⟩ })
        s.modCore k (fun c => { c with ctx := c.ctx.map Ctx.event })
      | _, _ => s
    | none => s)

/-- The address of the leaf that maps an address, below a table (R362). -/
def leafFrom (s : State) (ea : Nat) : Nat → List (Nat × Nat) → Nat
  | table, [] => table
  | table, (hi, lo) :: rest =>
    let pte := table + 16 * bits ea hi lo
    let w0 := s.rdNat pte 8
    if bit w0 1 then pte else leafFrom s ea (bits w0 63 9 * 2 ^ 9) rest

/-- RECLASS (R188, R286). -/
def execReclass (o : MOps) (s : State) := issue (.reclass o) o.h (do
  let c ← getCtx
  let k := c.rg o.h.s3.index
  unlessFault (decide (k.toNat < 4)) cILLEGAL_OPERAND
  let ea := o.ea c
  let p ← resolvePage ea
  match p.page with
  | none => fault cILLEGAL_OPERAND none
  | some t =>
    if t.cls == Cls.ofCode k.toNat then return .next
    else
      modify (fun s =>
        let r : Reclass := {
          size := 2 ^ leafBits t.level, newCls := Cls.ofCode k.toNat, oldCls := t.cls, core := s.core, fc := s.fc % 4,
          pte := leafFrom s ea t.root [(55, 43), (42, 30), (29, 21), (20, 16)], draining := false,
          seq := s.nextId }
        (s.modPkg (gaPkg t.pageGa) (fun x => { x with reclass := Sys2Proof.Machine.tset x.reclass t.pageGa r })).modCtx
          (fun c => { c with awaited := some (.reclass t.pageGa), stall := none }))
      return .stay) s

/-- The step of the old class (R286). -/
def State.oldClassStep (s : State) (page : Nat) (r : Reclass) : State :=
  let s := s.cores.foldl (fun s c => (c.2.linesOf page r.size).foldl (fun s l =>
    (s.writeBack c.1 l.addr).modCore c.1 (·.dropLine l.addr)) s) s
  let s := s.cores.foldl (fun s c => (c.2.ulines.filter (fun u => overlap u.addr 64 page r.size)).foldl (fun s u =>
    s.mergeDelta c.1 u.addr) s) s
  let s : State := { s with quads := s.quads.map (fun q => (q.1, { q.2 with
    replicas := q.2.replicas.filter (fun l => !overlap l.addr 64 page r.size) })) }
  if r.oldCls == .ow then s.modPkg (gaPkg page) (fun x => { x with caps := tdel x.caps page }) else s

/-- RECLASS_TLBS_CONFIRMED: every TLB has confirmed the mark, and the page drains (R286). -/
def execReclassTlbsConfirmed (page : Nat) (s : State) : Host.Outcome State Fault Refusal :=
  .next (match tfind (s.pkgAt (gaPkg page)).reclass page with
    | some r =>
      if r.draining then s
      else
        let s := s.modPkg (gaPkg page) (fun x => { x with reclass := Sys2Proof.Machine.tset x.reclass page { r with draining := true } })
        s.oldClassStep page r
    | none => s)

/-- Nothing issued to the page is still unperformed, and no copy is dirty (R286): an engine that was issued before and has
still to write holds its claim. -/
def State.pageDrained (s : State) (page : Nat) (r : Reclass) : Bool :=
  !s.txns.any (fun t => t.2.opens page r.size) &&
  !s.cores.any (fun c => (c.2.linesOf page r.size).any (fun l => l.dirty != 0 || l.excl)) &&
  !s.cores.any (fun c => c.2.movingTo page r.size) &&
  !(s.pkgAt (gaPkg page)).homes.any (fun h => overlap h.1 64 page r.size && !h.2.claims.isEmpty)

/-- The step of the new class, and the new entry (R286). -/
def State.newClassStep (s : State) (page : Nat) (r : Reclass) : State :=
  let s := s.oldClassStep page r
  let w0 := putBits (s.peek r.pte 8) 5 2 r.newCls.code
  let s := s.poke r.pte 8 w0
  let s := s.poke (r.pte + 8) 8 (if r.newCls == .cp then r.core else 0)
  let fresh (h : Home) : Home :=
    if r.newCls == .hc then { h with wts := 0, rts := 0, owner := none, us := [] } else { h with owner := none, us := [] }
  let s := s.modPkg (gaPkg page) (fun x => { x with homes := x.homes.map (fun (h : Nat × Home) =>
    if overlap h.1 64 page r.size then (h.1, fresh h.2) else h) })
  let s : State := match r.newCls with
    | .ow => s.modPkg (gaPkg page) (fun x => { x with caps := Sys2Proof.Machine.tset x.caps page ⟨some r.core, none, false⟩ })
    | _ => s
  let gone (t : Tlb) : Bool := t.ga == page
  { s with
    cores := s.cores.map (fun (c : Nat × Core) => (c.1, { c.2 with utlb := c.2.utlb.filter (fun t => !gone t) })),
    quads := s.quads.map (fun (q : Nat × Quad) => (q.1, { q.2 with tlb := q.2.tlb.filter (fun t => !gone t) })) }

/-- RECLASS_DRAINED: the new class is set, and the RECLASS completes (R286). -/
def execReclassDrained (page : Nat) (s : State) : Host.Outcome State Fault Refusal :=
  .next (match tfind (s.pkgAt (gaPkg page)).reclass page with
    | some r =>
      if r.draining && s.pageDrained page r then
        let s := s.newClassStep page r
        let s := s.modPkg (gaPkg page) (fun x => { x with reclass := tdel x.reclass page })
        s.modCtxOf r.core r.fc (fun c => match c.awaited with
          | some (.reclass q) => if q = page then c.resume else c
          | _ => c)
      else s
    | none => s)

/-! ### Atomics -/

/-- The value of an AMO's source. -/
def MOps.value (o : MOps) (c : Ctx) : Word := c.rg o.h.s3.index

/-- AMO: no value returns (R296). -/
def amo (i : Instr) (op : AmoOp) (o : MOps) (s : State) : Host.Outcome State Fault Refusal := issueNext i o.h (do
  let c ← getCtx
  let n := o.size
  let p ← resolveAtomic (MOps.ea o c) n
  unlessFault (!(p.dm && o.zf)) cAMO_CLASS
  if o.ord == 2 then fence o.scope.toNat
  if p.dm then startDm op o.fmt o.h.rm (MOps.value o c) p
  else startAtomic (.amo op o.fmt o.h.rm (MOps.value o c) o.zf) p n false .none) s

/-- AMOF: the old value returns as a load's does (R296). -/
def amof (i : Instr) (op : AmoOp) (o : MOps) (s : State) : Host.Outcome State Fault Refusal := issueNext i o.h (do
  let c ← getCtx
  let n := o.size
  let p ← resolveAtomic (MOps.ea o c) n
  unlessFault (!p.dm) cAMO_CLASS
  if o.ord == 2 then fence o.scope.toNat
  startAtomic (.amo op o.fmt o.h.rm (MOps.value o c) false) p n (o.ord == 1) (.g o.h.d.index o.fmt)) s

/-- AMO.U: into the core's delta of an HC or SC line (R290 to R292). -/
def amoU (i : Instr) (op : AmoOp) (o : MOps) (s : State) : Host.Outcome State Fault Refusal := issueNext i o.h (do
  let c ← getCtx
  let n := o.size
  let p ← resolveAtomic (MOps.ea o c) n (· != .ow)
  let v := MOps.value o c
  if p.dm then startDm op o.fmt o.h.rm v p
  else if p.isDram && (p.cls == .hc || p.cls == .sc) then
    gate p
    let s ← get
    waitUntil (!s.ctx.postedOverlap p.ga n && !s.ownPending p.ga n) .memory
    let held := (s.here.ulines.any (fun u => u.addr == lineOf p.ga && u.op == op && u.fmt == o.fmt)) &&
      (s.homeAt (lineOf p.ga)).us.contains s.core
    if held then
      let stamp := if s.inHcOrder p then s.updateStamp p.ga else 0
      modify (fun s => (s.addDelta s.core p.ga op o.fmt (valOf o.fmt v)).modCtx (fun c => { c with cts := max c.cts stamp }))
    else post (.amoU op o.fmt v) (.dram p.cls) p.ga n p.pageGa
  else startAtomic (.amo op o.fmt 0 v false) p n false .none) s

def execAmoAdd (o : MOps) (s : State) := amo (.amoAdd o) .add o s
def execAmoAnd (o : MOps) (s : State) := amo (.amoAnd o) .and o s
def execAmoOr (o : MOps) (s : State) := amo (.amoOr o) .or o s
def execAmoXor (o : MOps) (s : State) := amo (.amoXor o) .xor o s
def execAmoMin (o : MOps) (s : State) := amo (.amoMin o) .min o s
def execAmoMax (o : MOps) (s : State) := amo (.amoMax o) .max o s
def execAmoUmin (o : MOps) (s : State) := amo (.amoUmin o) .umin o s
def execAmoUmax (o : MOps) (s : State) := amo (.amoUmax o) .umax o s
def execAmoSwap (o : MOps) (s : State) := amo (.amoSwap o) .swap o s
def execAmoFadd (o : MOps) (s : State) := amo (.amoFadd o) .fadd o s
def execAmofAdd (o : MOps) (s : State) := amof (.amofAdd o) .add o s
def execAmofAnd (o : MOps) (s : State) := amof (.amofAnd o) .and o s
def execAmofOr (o : MOps) (s : State) := amof (.amofOr o) .or o s
def execAmofXor (o : MOps) (s : State) := amof (.amofXor o) .xor o s
def execAmofMin (o : MOps) (s : State) := amof (.amofMin o) .min o s
def execAmofMax (o : MOps) (s : State) := amof (.amofMax o) .max o s
def execAmofUmin (o : MOps) (s : State) := amof (.amofUmin o) .umin o s
def execAmofUmax (o : MOps) (s : State) := amof (.amofUmax o) .umax o s
def execAmofSwap (o : MOps) (s : State) := amof (.amofSwap o) .swap o s
def execAmofFadd (o : MOps) (s : State) := amof (.amofFadd o) .fadd o s
def execAmoUAdd (o : MOps) (s : State) := amoU (.amoUAdd o) .add o s
def execAmoUAnd (o : MOps) (s : State) := amoU (.amoUAnd o) .and o s
def execAmoUOr (o : MOps) (s : State) := amoU (.amoUOr o) .or o s
def execAmoUXor (o : MOps) (s : State) := amoU (.amoUXor o) .xor o s
def execAmoUMin (o : MOps) (s : State) := amoU (.amoUMin o) .min o s
def execAmoUMax (o : MOps) (s : State) := amoU (.amoUMax o) .max o s
def execAmoUUmin (o : MOps) (s : State) := amoU (.amoUUmin o) .umin o s
def execAmoUUmax (o : MOps) (s : State) := amoU (.amoUUmax o) .umax o s
def execAmoUFadd (o : MOps) (s : State) := amoU (.amoUFadd o) .fadd o s

/-- CAS (R296). -/
def execCas (o : MOps) (s : State) := issueNext (.cas o) o.h (do
  let c ← getCtx
  let n := o.size
  let p ← resolveAtomic (o.ea c) n
  unlessFault (!p.dm) cAMO_CLASS
  if o.ord == 2 then fence o.scope.toNat
  startAtomic (.cas o.fmt (c.rg o.h.d.index) (MOps.value o c)) p n (o.ord == 1) (.g o.h.d.index o.fmt)) s

/-- CASW (R293, R296). -/
def execCasw (o : MOps) (s : State) := issueNext (.casw o) o.h (do
  let c ← getCtx
  let p ← resolveAtomic (o.ea c) 16
  unlessFault (!p.dm) cAMO_CLASS
  if o.ord == 2 then fence o.scope.toNat
  let d := o.h.d.index
  let k := o.h.s3.index
  startAtomic (.casw (c.rg d, c.rg (d + 1)) (c.rg k, c.rg (k + 1))) p 16 (o.ord == 1) (.pair d)) s

end Sys2Proof.Machine
end

