-- ==== Sys2Proof/Machine/Sync.lean ====
section
/-! DEFINITION. Barrier cells, tasks, futures, mailboxes, events, gangs, range fork and stealing (R255, R256, R300 to R314,
R357 to R359). -/

namespace Sys2Proof.Machine

/-! ### Barrier cells -/

/-- A cell of n bytes, in a location where an AMOF may be performed (R295, R300, R304). -/
def cellAt (ea n : Nat) : Act Phys := do
  let p ← resolveAtomic ea n
  unlessFault (!p.dm) cAMO_CLASS
  gate p
  return p

/-- The fields of a barrier cell (R300). -/
def barGen (x : Nat) : Nat := bits x 63 32
def barArr (x : Nat) : Nat := bits x 31 0
def barN (x : Nat) : Nat := bits x 95 64
def barCell (gen arr n : Nat) : Nat := gen % 2 ^ 32 * 2 ^ 32 + arr + n * 2 ^ 64

/-- BARI: the cell after, unless it refuses (R300). -/
def barInit (n old : Nat) : Option Nat :=
  if barArr old ≠ 0 ∨ n = 0 ∨ 2 ^ 32 ≤ n then none else some (barCell 0 0 n)

/-- BAR: the cell after an arrival, unless it refuses; the last arrival begins the next generation (R300). -/
def barArrive (old : Nat) : Option Nat :=
  if barN old = 0 ∨ barN old ≤ barArr old then none
  else if barArr old + 1 = barN old then some (barCell (barGen old + 1) 0 (barN old))
  else some (barCell (barGen old) (barArr old + 1) (barN old))

/-- A change of a cell that refuses raises BAR_STATE (R300). -/
def barChange (p : Phys) (f : Nat → Option Nat) : Act Nat := do
  let old ← touchNow p 16 f
  unlessFault (f old).isSome cBAR_STATE (some (word p.ga))
  return old

/-- BARI (R300). -/
def execBari (o : MOps) (s : State) := issueNext (.bari o) o.h (do
  let c ← getCtx
  let p ← cellAt (o.ea c) 16
  let _ ← barChange p (barInit (c.rg o.h.s3.index).toNat)) s

/-- BAR (R300). -/
def execBar (o : MOps) (s : State) := issueNext (.bar o) o.h (do
  let c ← getCtx
  waitUntil (c.xseq.isEmpty && !c.xbusy) .barrier
  let p ← cellAt (o.ea c) 16
  fence o.scope.toNat
  let old ← barChange p barArrive
  writeD o.h.d (word (barGen old))) s

/-- A cell of n bytes is read where its atomics are performed: one on an SC page at its home (R295, R300). -/
def readCell (p : Phys) (n : Nat) : Act Nat :=
  if p.isDram && p.cls == .sc then touchNow p n (fun _ => none) else readNow p n

/-- BARW (R300). -/
def execBarw (o : MOps) (s : State) := issueNext (.barw o) o.h (do
  let c ← getCtx
  let p ← cellAt (o.ea c) 16
  let old ← readCell p 16
  waitUntil (barGen old != (c.rg o.h.s3.index).toNat % 2 ^ 32) .barrier true) s

/-! ### Tasks -/

/-- The priority class a firing hands to its tasks (R301). -/
def Ctx.prio (c : Ctx) : Nat := match c.firing with | some f => f.prio | none => 0

/-- g1 to g29, and three further registers. -/
def taskRegs (c : Ctx) (last : Word) : Vector Word 32 :=
  Vector.ofFn (fun k => if k.val = 0 ∨ k.val = 30 then 0 else if k.val = 31 then last else c.rg k.val)

/-- FORK (R302). -/
def execFork (o : FOps) (s : State) := issueNext (.fork o) o.h (do
  let s ← get
  let c := s.ctx
  let j := c.rg o.h.s1.index
  unlessFault (j.toNat % 8 == 0) cILLEGAL_OPERAND (some j)
  unlessFault (s.dequeFits s.core c.rcb) cDEQUE_FULL (some j)
  modify (·.pushTask s.core {
    kind := .forkTask, prio := c.prio, pc := fieldTarget c.pc o.t1, preds := predBits c.p, rcb := c.rcb,
    g := taskRegs c j })) s

/-- DQCNT (R302). -/
def execDqcnt (o : EOps) (s : State) := issueNext (.dqcnt o) o.h (do
  writeD o.h.d (word (← getCore).deque.length)) s

/-- The JOIN at the context's pc has decremented its counter and ends its firing. -/
def Ctx.hasJoined (c : Ctx) : Bool := c.joined == some c.pc

/-- JOIN (R304): the decrement, and then the end exactly as END, or the last arm's branch. -/
def execJoin (o : FOps) (s : State) := issue (.join o) o.h (do
  let s ← get
  let c := s.ctx
  if c.hasJoined then
    endNow
    return .hold
  let j := c.rg o.h.s1.index
  unlessFault (j.toNat % 8 == 0) cILLEGAL_OPERAND
  let p ← cellAt j.toNat 8
  fence 4
  let old ← touchNow p 8 (fun x => if x = 0 then none else some (x - 1))
  unlessFault (old != 0) cJOIN_CELL (some j)
  if old = 1 then return .jump (fieldTarget c.pc o.t1)
  modCtx (fun c => { c with joined := some c.pc })
  return .stay) s

/-! ### Futures -/

/-- A handle and its parts (R306). -/
def futHandle (gen cluster idx : Nat) : Nat := gen * 2 ^ 24 + cluster * 2 ^ 17 + idx

/-- The cluster key of a package cluster number (R266). -/
def State.clusterKey (s : State) (n : Nat) : Nat := corePkg s.core * 96 + n

/-- The entry a handle names, with its cluster and index, when it is not stale for a region (R306). -/
def State.futureOf (s : State) (rcb h : Nat) : Option (Nat × Nat × Future) :=
  let cl := bits h 23 17
  let idx := bits h 16 0
  let f := tget Future.reset (s.clusterAt (s.clusterKey cl)).futures idx
  if bits h 63 32 ≠ 0 ∨ bits h 31 24 = 0 ∨ 95 < cl ∨ 65535 < idx ∨ bits h 31 24 ≠ f.gen ∨ f.st = .free ∨ f.rcb ≠ rcb
  then none else some (s.clusterKey cl, idx, f)

def State.setFuture (s : State) (cl idx : Nat) (f : Future) : State :=
  s.modCluster cl (fun c => { c with futures := Sys2Proof.Machine.tset c.futures idx f })

/-- The entry a handle names, or FUT_STALE (R306). -/
def future (h : Word) : Act (Nat × Nat × Future) := do
  let s ← get
  match s.futureOf s.ctx.rcb h.toNat with
  | some x => return x
  | none => fault cFUT_STALE (some h)

/-- A FREE entry of a cluster's table, searched from any index. -/
def freeFuture (t : Table Future) : Nat → Nat → Option Nat
  | 0, _ => none
  | n + 1, i => if (tget Future.reset t (i % 65536)).st = .free then some (i % 65536) else freeFuture t n (i + 1)

/-- FUT.NEW (R307, R308): which FREE entry it takes is a free choice. -/
def execFutNew (o : EOps) (s : State) := issueNext (.futNew o) o.h (do
  let w ← freeWord
  let s ← get
  let cl := clusterOf s.core
  let t := (s.clusterAt cl).futures
  match (if s.futureFits cl s.ctx.rcb then freeFuture t 65536 w.toNat else none) with
  | some idx =>
    let f := tget Future.reset t idx
    modify (·.setFuture cl idx { gen := f.gen, st := .pending, val := 0, rcb := s.ctx.rcb, waiters := [] })
    writeD o.h.d (word (futHandle f.gen (clusterNo s.core) idx))
  | none => writeD o.h.d 0) s

/-- A waiting FUT.GET completes (R307). -/
def State.answerFuture (s : State) (v : Word) (w : Nat × Nat × Reg) : State :=
  s.modCtxOf w.1 w.2.1 (fun (c : Ctx) =>
    let c : Ctx := { c with idem := { c.idem with committed := c.idem.committed || c.mode == Mode.u } }
    (c.wg w.2.2.index v).advance)

/-- FUT.SET (R307, R308). -/
def execFutSet (o : EOps) (s : State) := issueNext (.futSet o) o.h (do
  let c ← getCtx
  fence 4
  let h := c.rg o.h.s1.index
  let v := c.rg o.h.s2.index
  let (cl, idx, f) ← future h
  unlessFault (f.st == .pending) cFUT_STATE
  modify (fun s => f.waiters.foldl (fun s w => s.answerFuture v w)
    (s.setFuture cl idx { f with st := .resolved, val := v, waiters := [] }))) s

/-- FUT.GET (R307, R308): on a pending entry the context joins the waiters. -/
def execFutGet (o : EOps) (s : State) := issue (.futGet o) o.h (do
  let s ← get
  let h := s.ctx.rg o.h.s1.index
  let (cl, idx, f) ← future h
  waitUntil (!s.acqOut) .memory
  if f.st == .resolved then
    writeD o.h.d f.val
    return .next
  else
    let me := (s.core, s.fc % 4, o.h.d)
    waitUntil (!f.waiters.contains me) (.future h) true
    modify (fun s => (s.setFuture cl idx { f with waiters := f.waiters ++ [me] }).modCtx
      (·.stallOn (.future h) true s.now))
    return .hold) s

/-- FUT.FREE (R307). -/
def execFutFree (o : EOps) (s : State) := issueNext (.futFree o) o.h (do
  let h ← readGReg o.h.s1
  let (cl, idx, f) ← future h
  unlessFault (f.st == .resolved || f.waiters.isEmpty) cFUT_STATE
  modify (·.setFuture cl idx { f with gen := f.gen % 255 + 1, st := .free, waiters := [] })) s

/-! ### Mailboxes -/

/-- Entries of the message store that mailboxes own (R309). -/
def Core.storeUsed (c : Core) : Nat := (c.mailboxes.map (fun m => m.2.depth)).sum

/-- The bound actor of this core whose descriptor lies at a global address (R311, R353). DEDUCED: the operand is the
global address, as the bind record holds it. -/
def State.boundAt (s : State) (ga : Word) : Option (Nat × Bound) :=
  s.here.binds.find? (fun b => b.2.desc == ga.toNat)

/-- MBX.BIND (R311). -/
def execMbxBind (o : EOps) (s : State) := issueNext (.mbxBind o) o.h (do
  let s ← get
  let m := bits o.w.toNat 4 0
  let depth := bits o.w.toNat 12 5
  match s.boundAt (s.ctx.rg o.h.s1.index) with
  | some (slot, b) =>
    if !b.isHandler || b.rcb != s.ctx.rcb then writeD o.h.d 3
    else if (tfind s.here.mailboxes m).isSome || b.mailbox.isSome then writeD o.h.d 1
    else if 256 < s.here.storeUsed + depth then writeD o.h.d 2
    else
      modCore (fun c => { c with mailboxes := Sys2Proof.Machine.tset c.mailboxes m ⟨slot, depth, [], [], false, false⟩ })
      modify (·.setBound s.core slot (fun b => { b with mailbox := some m }))
      writeD o.h.d 0
  | none => writeD o.h.d 3) s

/-- MBX.FREE (R311). -/
def execMbxFree (o : EOps) (s : State) := issueNext (.mbxFree o) o.h (do
  let c ← getCore
  let m := bits o.w.toNat 4 0
  match tfind c.mailboxes m with
  | some mb =>
    if mb.taken || !mb.msgs.isEmpty then writeD o.h.d 1
    else
      modify (fun s => (s.dropMailbox s.core m).setBound s.core mb.slot (fun b => { b with mailbox := none }))
      writeD o.h.d 0
  | none => writeD o.h.d 0) s

/-- MBXRD (R311). -/
def execMbxrd (o : EOps) (s : State) := issueNext (.mbxrd o) o.h (do
  let c ← getCtx
  match c.firing with
  | some f =>
    match f.kind with
    | .handler _ => writeD o.h.d (f.msg.getD o.w.toNat 0)
    | _ => fault cILLEGAL_OPERAND none
  | none => pure ()) s

/-- A host queue address and its queue (R402). -/
def hostQueueName (w : Nat) : Option Nat :=
  if gaSpace w = 5 ∧ bits w 47 22 = 0 ∧ bits w 7 0 = 0 then some (bits w 21 8) else none

/-- The checks of R397 on a target in another package. -/
def reachCheck (ga : Word) : Act Unit := do
  let s ← get
  let own := corePkg s.core
  if gaPkg ga.toNat ≠ own then
    let e := s.pkgEntry own (gaPkg ga.toNat)
    unlessFault (bit e 63) cPKG_UNREACHABLE (some ga)
    unlessFault (Nat.land (bits e 31 0) (s.portsUp own) != 0) cLINK_DOWN (some ga)

/-- SEND (R312, R402). -/
def execSend (o : EOps) (s : State) := issueNext (.send o) o.h (do
  let c ← getCtx
  fence o.scope.toNat
  let t := c.rg o.h.s1.index
  let payload := (spanOf o.h.s2.index o.h.s3.index).map c.rg
  let s ← get
  match mailboxName t.toNat, hostQueueName t.toNat with
  | some (_, m), _ =>
    reachCheck t
    post (.message (messageEntry (entryWord0 s.core s.fc payload.length m) payload)) .mailbox t.toNat 64
  | none, some _ =>
    reachCheck t
    post (.hostMessage (messageEntry (entryWord0 s.core s.fc payload.length 0) payload)) .host t.toNat 64
  | none, none => fault cILLEGAL_OPERAND (some t)) s

/-! ### Events -/

def State.addFlight (s : State) (f : Flight) : State :=
  { s with nextId := s.nextId + 1, flights := Sys2Proof.Machine.tset s.flights s.nextId f }

/-- EVT (R313). -/
def execEvt (o : EOps) (s : State) := issueNext (.evt o) o.h (do
  let n ← readGReg o.h.s1
  let x := n.toNat
  unlessFault (bits x 51 48 == 0 && bits x 33 4 == 0 && coordOk (bits x 47 34)) cILLEGAL_OPERAND
  modify (·.addFlight (.event (gaCore x) (n.setWidth 4)))) s

/-- EVENT_DELIVERY (R313). -/
def execEventDelivery (event : Nat) (s : State) : Host.Outcome State Fault Refusal :=
  .next (match tfind s.flights event with
    | some (.event core mask) =>
      let s := { s with flights := tdel s.flights event }
      (List.range 4).foldl (fun s k => if mask.getLsbD k then s.modCtxOf core k Ctx.event else s) s
    | _ => s)

/-- WFE's effect (R256); its limit counts from the cycle its wait began. -/
def wfe (o : EOps) : Act Unit := do
  let s ← get
  let c := s.ctx
  let x := c.rg o.h.s1.index
  let limit := (c.rg o.h.s2.index).toNat
  let past := match c.stall with
    | some st => st.why == .wfe && limit != 0 && decide (limit ≤ s.now - st.since)
    | none => false
  waitUntil (c.evlatch != x.setWidth 32 || past) .wfe true
  writeD o.h.d (c.evlatch.setWidth 64)

/-- WFE (R256). -/
def execWfe (o : EOps) (s : State) := issueNext (.wfe o) o.h (wfe o) s

/-- The instruction at which a context waits for a reason. -/
def State.waitingAt (s : State) (core fc : Nat) (why : StallWhy) : Option Instr :=
  let c := s.ctxOf core fc
  match c.stall, c.line with
  | some st, some l =>
    if st.why == why && c.canIssue then (match l.instr c.pc with | .ok i => some i | .error _ => none) else none
  | _, _ => none

/-- The limit of a waiting WFE has passed. -/
def State.wfeOver (s : State) (core fc : Nat) : Bool :=
  let c := s.ctxOf core fc
  match s.waitingAt core fc .wfe, c.stall with
  | some (.wfe o), some st =>
    let limit := (c.rg o.h.s2.index).toNat
    limit != 0 && decide (limit ≤ s.now - st.since)
  | _, _ => false

/-- WFE_TIMEOUT (R256). -/
def execWfeTimeout (core fc : Nat) (s : State) : Host.Outcome State Fault Refusal :=
  match s.waitingAt core fc .wfe with
  | some (.wfe o) => if s.wfeOver core fc then issueNext (.wfe o) o.h (wfe o) (s.at core fc) else .next s
  | _ => .next s

/-! ### Gangs -/

/-- The cores of the current core's quad that have a gang member (R314). -/
def State.gangMask (s : State) : Nat :=
  ((List.range 4).map (fun k => if (s.coreAt (s.core / 4 * 4 + k)).gang.isSome then 2 ^ k else 0)).sum

/-- GANG.ON (R314). -/
def execGangOn (o : EOps) (s : State) := issueNext (.gangOn o) o.h (do
  let s ← get
  let me := s.fc % 4
  let ok := s.here.gang.isNone || s.here.gang == some me
  if ok then modCore (fun c => { c with gang := some me })
  let s ← get
  writeD o.h.d (word (s.gangMask * 2 ^ 8 + natOfBool (!ok)))) s

/-- GANG.OFF (R314). -/
def execGangOff (o : EOps) (s : State) := issueNext (.gangOff o) o.h (do
  let s ← get
  let ok := s.here.gang == some (s.fc % 4)
  if ok then modCore (fun c => { c with gang := none })
  let s ← get
  writeD o.h.d (word (s.gangMask * 2 ^ 8 + natOfBool (!ok)))) s

/-! ### Range fork and stealing -/

/-- The core waits for work in a region: it holds records of it, has a free context, no candidate and no task (R359). -/
def State.idleIn (s : State) (core rcb : Nat) : Bool :=
  let c := s.coreAt core
  c.region == some rcb && (s.freeContext core).isSome && (s.candidates core).isEmpty && c.deque.isEmpty && !c.claimed

/-- Any order of a list. -/
def anyOrder : Nat → Nat → List Nat → List Nat
  | 0, _, l => l
  | n + 1, k, l =>
    match l[Config.pick k % max l.length 1]? with
    | some x => x :: anyOrder n (k + 1) (l.filter (· != x))
    | none => l

/-- The idle cores the tree of the die gives out, nearest first; within a distance any order (R359). -/
def State.recruits (s : State) (rcb : Nat) : List Nat :=
  let me := s.core
  let idle := (s.cores.map (·.1)).filter (fun k => k != me && k / 2 ^ 10 == me / 2 ^ 10 && s.idleIn k rcb)
  let quad := idle.filter (fun k => quadOf k == quadOf me)
  let cluster := idle.filter (fun k => quadOf k != quadOf me && clusterOf k == clusterOf me)
  let die := idle.filter (fun k => clusterOf k != clusterOf me)
  let order (l : List Nat) := anyOrder l.length s.fresh l
  order quad ++ order cluster ++ order die

/-- The core that holds a logical number of a region. -/
def State.coreOfLcore (s : State) (rcb n : Nat) : Option Nat :=
  (s.cores.find? (fun c => c.2.region == some rcb && c.2.lcore == n)).map (·.1)

/-- The cores that take the shares of an RFORK, in order (R358). -/
def State.shareCores (s : State) (rcb n : Nat) : List Nat :=
  if s.effDm rcb then (List.range (s.effLcount rcb)).map (fun i => (s.coreOfLcore rcb i).getD s.core)
  else if n = 0 then []
  else
    let c := s.here
    let want := min (ceilDiv n (max 1 c.grain.toNat)) (max 1 c.maxsh.toNat)
    s.core :: (s.recruits rcb).take (want - 1)

/-- Share i of k (R358). -/
def shareTask (c : Ctx) (core : Nat) (pc cell : Word) (n k i : Nat) : Task :=
  let first := i * n / k
  { kind := .share cell.toNat core, prio := c.prio, pc := pc, preds := predBits c.p, rcb := c.rcb,
    g := ((((taskRegs c 0).set 2 (word first)).set 3 (word ((i + 1) * n / k - first))).set 4 (word i)).set 5 cell }

/-- The words of a counting join cell (R358). -/
def shareCell (c : Ctx) (k : Nat) (after : Word) (n : Word) : List Nat :=
  [(predBits c.p).toNat * 2 ^ 32 + k, c.prio * 2 ^ 56 + after.toNat] ++
  (spanOf 1 29).map (fun r => (c.rg r).toNat) ++ [n.toNat]

/-- RFORK (R358). A deque that has no room for its shares, or whose region's budget has none, delays it (R347). -/
def execRfork (o : FOps) (s : State) := issueNext (.rfork o) o.h (do
  let s ← get
  let c := s.ctx
  let j := c.rg o.h.s1.index
  let n := c.rg o.h.s2.index
  unlessFault (j.toNat % 256 == 0) cILLEGAL_OPERAND (some j)
  let p ← resolveAtomic j.toNat 8 (fun x => x == .hc || x == .sc)
  unlessFault (!p.dm) cAMO_CLASS
  unlessFault (s.dequeFits s.core c.rcb) cDEQUE_FULL (some j)
  gate p
  fence 4
  let cores := s.shareCores c.rcb n.toNat
  let k := cores.length
  waitUntil (cores.all (fun x => s.dequeTakes x c.rcb (cores.count x))) .answer
  storeWords j.toNat (shareCell c k (fieldTarget c.pc o.t2) n)
  modify (fun s => { s with fresh := s.fresh + s.cores.length })
  modify (fun s => (List.range k).foldl (fun s i =>
    let x := cores.getD i s.core
    (s.modCore x (fun d => { d with claimed := d.claimed || x != s.core })).pushTask x
      { shareTask c s.core (fieldTarget c.pc o.t1) j n.toNat k i with claim := if x = s.core then none else some x }) s)
  if k = 0 then modify (fun s => s.pushTask s.core (s.afterRecord s.core c.rcb j.toNat))) s

/-- The quads of a cluster in row-major order: quad rows 2k and 2k + 1 (R266, R357). -/
def clusterQuads (die cluster : Nat) : List Nat :=
  (List.range 24).map (fun i => die * 2 ^ 8 + (2 * cluster + i / 12) * 2 ^ 4 + i % 12)

/-- A list turned so that it starts after its first n elements. -/
def turned (l : List Nat) (n : Nat) : List Nat := l.drop n ++ l.take n

/-- The cores a thief asks, in order (R357). -/
def stealOrder (core : Nat) : List Nat :=
  let quad (q : Nat) := (List.range 4).map (fun i => q * 4 + i)
  let die := core / 2 ^ 10
  let own := coreQrow core / 2
  let qs := clusterQuads die own
  let pos := coreQrow core % 2 * 12 + coreQcol core
  (List.range 3).map (fun i => core / 4 * 4 + (core + i + 1) % 4) ++
  ((turned qs pos).drop 1).flatMap quad ++
  ((List.range 5).flatMap (fun i => (clusterQuads die ((own + 1 + i) % 6)).flatMap quad))

/-- The core steals now (R357). -/
def State.steals (s : State) (core : Nat) : Bool :=
  let c := s.coreAt core
  c.steal && (match c.region with
    | some r => s.isLive r && !s.effDm r && (s.freeContext core).isSome && (s.candidates core).isEmpty && c.deque.isEmpty
    | none => false)

/-- STEAL_REQUEST: one request, to the next core of the order (R303, R357). -/
def execStealRequest (core : Nat) (s : State) : Host.Outcome State Fault Refusal :=
  .next (
    if !s.steals core then s
    else
      let c := s.coreAt core
      let order := stealOrder core
      let victim := order.getD (c.stealPos % max order.length 1) core
      let s := s.modCore core (fun c => (c.count 8))
      match (s.coreAt victim).deque with
      | t :: rest =>
        if c.region == some t.rcb && !s.effDm t.rcb && victim != core then
          let s := s.modCore victim (fun v => { v with deque := rest })
          ((s.dequeRoom victim).modCore core (fun c => { c with stealPos := 0 })).pushTask core t
        else s.modCore core (fun c => { c with stealPos := (c.stealPos + 1) % max order.length 1 })
      | [] => s.modCore core (fun c => { c with stealPos := (c.stealPos + 1) % max order.length 1 }))

end Sys2Proof.Machine
end

