-- ==== Sys2Proof/Machine/Almanac.lean ====
section
/-! DEFINITION. The die's instructions and the Almanac: regions, binds, launches, pre-emption, translation, deterministic
rounds and the Logbook (R83, R84, R346 to R364, R371 to R383). RCB operands are global addresses (log entry 43). -/

namespace Sys2Proof.Machine

/-! ### Region control blocks -/

/-- The RCB word that holds a field (R346). -/
def rcbFieldOff (f : Nat) : Nat := if f < 3 then 0x10 else 8 * f
/-- A field's own value in an RCB word. -/
def rcbField (f w : Nat) : Nat :=
  match f with
  | 0 => bits w 5 3 | 1 => bits w 2 1 | 2 => bits w 0 0 | _ => w
/-- Put a value into a field's RCB word. -/
def putRcbField (f w v : Nat) : Nat :=
  match f with
  | 0 => putBits w 3 3 v | 1 => putBits w 1 2 v | 2 => putBits w 0 1 v | _ => v

/-- The bits a POOLOCC-layout word may have (R108). -/
def splitBits (v : Nat) : Bool := Nat.land v 0x7F7F7F7F7F == v

/-- A value lies in the range of a field (R346, R349, R350). -/
def rcbFieldOk (f v : Nat) : Bool :=
  match f with
  | 0 => decide (v < 8)
  | 1 => decide (v < 3)
  | 2 => decide (v < 2)
  | 6 => decide (1 ≤ v) && decide (v ≤ 9216)
  | 10 => splitBits v && ([Role.reg, .mat, .scr, .msg, .cch].map (poolField v)).sum == 64
  | 11 => splitBits v
  | 12 => decide (v < 2 ^ 14)
  | 13 => decide (v < 2 ^ 40)
  | 14 => bits v 63 33 == 0 && bits v 15 7 == 0 && decide (bits v 32 16 ≤ 65536) && decide (bits v 6 0 ≤ 64)
  | 15 => decide (v < 2 ^ 32)
  | _ => true

/-- Budget value v of field f does not exceed w (R347, R349). -/
def budgetLe (f v w : Nat) : Bool :=
  match f with
  | 11 => [Role.reg, .mat, .scr, .msg, .cch].all (fun r => decide (poolField v r ≤ poolField w r))
  | 14 => decide (bits v 32 16 ≤ bits w 32 16) && decide (bits v 6 0 ≤ bits w 6 0)
  | _ => decide (v ≤ w)

/-- The bits of a template that R346 marks zero are zero. -/
def zeroBitsOk (w : Nat → Nat) : Bool :=
  bits (w 0) 63 40 == 0 && bits (w 0) 23 12 == 0 && bits (w 2) 63 40 == 0 && bits (w 2) 23 11 == 0 && bits (w 2) 7 6 == 0 &&
  bits (w 6) 63 14 == 0 && bits (w 12) 63 14 == 0 && bits (w 13) 63 40 == 0 && bits (w 14) 63 33 == 0 &&
  bits (w 14) 15 7 == 0 && bits (w 15) 63 32 == 0 && bits (w 17) 63 56 == 0 && bits (w 17) 15 14 == 0 &&
  bits (w 20) 63 24 == 0 && ((List.range 11).all (fun k => w (21 + k) == 0))

/-- Region numbers in use in a package. -/
def Package.rnums (p : Package) : List Nat := p.regions.map (fun r => r.2.rnum)
def Package.freeRnum (p : Package) : Option Nat := ((List.range 4095).map (· + 1)).find? (fun n => !p.rnums.contains n)

def Region.fresh (rnum depth ordinal : Nat) : Region where
  rnum := rnum
  depth := depth
  ordinal := ordinal
  made := 0
  comps := Vector.replicate 6 (List.replicate 48 0)
  chal := List.replicate 48 0
  extensions := 0
  signedOver := none
  cutTo := 0
  quietPass := none
  entries := []
  arrived := []
  refused := false
  round := 0
  saved := []
  doomed := false
  actorCts := []
  pages := []
  doneActs := []
  spent := false

/-- The hardware's words of a new RCB, and the parent's NCHILD (R349). -/
def State.writeNewRcb (s : State) (rcb parent rnum : Nat) : State :=
  let s := s.poke rcb 8 (putBits (s.peek rcb 8) 0 12 rnum)
  let s := s.poke (rcb + 0x10) 8 (putBits (putBits (s.peek (rcb + 0x10) 8) 24 16 0) 8 3 0)
  let s := s.poke (rcb + 0x88) 8 0
  let s := s.poke (rcb + 0x90) 8 0
  let s := s.poke (rcb + 0x98) 8 0
  let s := s.poke (rcb + 0xA0) 8 0
  if parent = 0 then s
  else s.poke (parent + 0x10) 8 (putBits (s.peek (parent + 0x10) 8) 24 16 (bits (s.peek (parent + 0x10) 8) 39 24 + 1))

/-- RGN.NEW: gD's value and the state after (R349, R380). `root` says that gP is g0. -/
def State.newRegion (s : State) (pkg : Nat) (root : Bool) (parent rcb : Nat) : Nat × State :=
  let w (k : Nat) := s.peek (rcb + 8 * k) 8
  let set (f : Nat) : Bool := bit (w 0) (24 + f)
  let v (f : Nat) := rcbField f (w (rcbFieldOff f / 8))
  if !root && !s.isLive parent then (1, s)
  else if rcb % 256 ≠ 0 || gaSpace rcb ≠ 0 || !zeroBitsOk w ||
      (List.range 16).any (fun f => set f && !rcbFieldOk f (v f)) || (root && !(List.range 16).all set) ||
      (s.regionAt (s.regionPkg rcb) rcb).isSome then (2, s)
  else match (s.pkgAt pkg).freeRnum with
    | none => (3, s)
    | some n =>
      if !root && (List.range 5).any (fun k => set (11 + k) && !budgetLe (11 + k) (v (11 + k))
          (s.eff parent (11 + k) (rcbFieldOff (11 + k)))) then (4, s)
      else
        let up := if root then none else s.regionAt (s.regionPkg parent) parent
        let r := Region.fresh n (match up with | some p => p.depth + 1 | none => 0) (match up with | some p => p.made | none => 0)
        let s := if root then s else s.modRegion parent (fun p => { p with made := p.made + 1 })
        let s := s.writeNewRcb rcb (if root then 0 else parent) n
        let s := s.modPkg pkg (fun p => { p with regions := Sys2Proof.Machine.tset p.regions rcb r })
        (n * 2 ^ 8, (((s.extendMode rcb).extendSeeds rcb).extendTree rcb false).extendLcount rcb)

/-- RGN.NEW (R349). -/
def execRgnNew (o : EOps) (s : State) := issueNext (.rgnNew o) o.h (do
  let s ← get
  let c := s.ctx
  let (v, s) := s.newRegion (corePkg s.core) o.h.s1.isZero (c.rg o.h.s1.index).toNat (c.rg o.h.s2.index).toNat
  set s
  writeD o.h.d (word v)) s

/-- The cores, and the ring bytes, charged to a region that uses its own budget (R346, R347). -/
def State.coreCharge (s : State) (rcb : Nat) : Nat :=
  (s.cores.filter (fun c => match c.2.region with | some r => s.under r 12 rcb | none => false)).length
def State.msgCharge (s : State) (rcb : Nat) : Nat :=
  (s.cores.map (fun c => (c.2.binds.map (fun b =>
    if s.under b.2.rcb 13 rcb then ((b.2.ins ++ b.2.outs).map ringBytes).sum else 0)).sum)).sum

/-- A budget is not below what is charged to it (R350). -/
def State.chargeFits (s : State) (rcb f v : Nat) : Bool :=
  match f with
  | 11 => s.cores.all (fun c => match c.2.region with
      | some r => !s.under r 11 rcb ||
          [Role.reg, .mat, .scr, .msg, .cch].all (fun x => decide (c.2.bankCount x ≤ poolField v x))
      | none => true)
  | 12 => decide (s.coreCharge rcb ≤ v)
  | 13 => decide (s.msgCharge rcb ≤ v)
  | 14 =>
    s.clusters.all (fun cl => decide ((cl.2.futures.filter (fun x => x.2.st != .free && s.under x.2.rcb 14 rcb)).length
      ≤ bits v 32 16)) &&
    s.cores.all (fun c => decide ((c.2.deque.filter (fun t => s.under t.rcb 14 rcb)).length ≤ bits v 6 0))
  | 15 => s.clusters.all (fun cl => decide (((cl.2.cats.filter (fun c => s.under c.2.rcb 15 rcb)).map
      (fun c => c.2.buckets)).sum ≤ v))
  | _ => true

/-- The manifest extension a change of a field makes (R380). -/
def State.extendField (s : State) (rcb f : Nat) : State :=
  if f < 3 then s.extendMode rcb
  else if f = 5 then s.extendSeeds rcb
  else if f = 6 then s.extendLcount rcb
  else s

/-- RGN.SET: its code and the state after (R350). A charge is held where the budget in use is set (R347). -/
def State.setField (s : State) (rcb f v : Nat) (clr : Bool) : Nat × State :=
  let w0 := s.peek rcb 8
  let parent := s.peek (rcb + 8) 8
  let known := (s.regionAt (s.regionPkg rcb) rcb).isSome
  let charge (s : State) (on : Bool) : State :=
    if f = 12 then s.poke (rcb + 0x88) 8 (putBits (s.peek (rcb + 0x88) 8) 0 14 (if on then s.coreCharge rcb else 0))
    else if f = 13 then s.poke (rcb + 0x88) 8 (putBits (s.peek (rcb + 0x88) 8) 16 40 (if on then s.msgCharge rcb else 0))
    else s
  if !known || (s.rcbState rcb ≠ 0 && s.rcbState rcb ≠ 2) then (1, s)
  else if clr then
    if parent = 0 then (2, s)
    else (0, (charge (s.poke rcb 8 (putBits w0 (24 + f) 1 0)) false).extendField rcb f)
  else if !rcbFieldOk f v then (2, s)
  else
    let off := rcb + rcbFieldOff f
    let t := (s.poke rcb 8 (putBits w0 (24 + f) 1 1)).poke off 8 (putRcbField f (s.peek off 8) v)
    if 11 ≤ f && (!t.chargeFits rcb f v || (parent ≠ 0 && !budgetLe f v (s.eff parent f (rcbFieldOff f)))) then (3, s)
    else (0, (charge t true).extendField rcb f)

/-- RGN.SET (R350). -/
def execRgnSet (o : EOps) (s : State) := issueNext (.rgnSet o) o.h (do
  let s ← get
  let c := s.ctx
  let (v, s) := s.setField (c.rg o.h.s1.index).toNat (o.w.toNat % 16) (c.rg o.h.s2.index).toNat (o.opt.getLsbD 0)
  set s
  writeD o.h.d (word v)) s

/-- RGN.KILL (R351): gD is written when the kill has ended. -/
def execRgnKill (o : EOps) (s : State) := issue (.rgnKill o) o.h (do
  let s ← get
  let rcb := (s.ctx.rg o.h.s1.index).toNat
  if (s.regionAt (s.regionPkg rcb) rcb).isNone || s.rcbState rcb = 4 then
    writeD o.h.d 1
    return .next
  else
    modCtx (fun c => { c with awaited := some (.regionKill o.h.d rcb) })
    modify (·.kill rcb)
    return .stay) s

/-! ### Binds -/

/-- BIND (R353). -/
def execBind (o : EOps) (s : State) := issueNext (.bind o) o.h (do
  let c ← getCtx
  let t := (c.rg o.h.s1.index).toNat
  unlessFault (bits t 63 14 == 0 && coordOk t) cILLEGAL_OPERAND
  let w ← loadWords (c.rg o.h.s2.index).toNat 8
  let s ← get
  let (v, s) := s.bindOp (some (s.core, c.rcb)) none (corePkg s.core * 2 ^ 14 + t) w
  set s.finishSaves
  writeD o.h.d (word v)) s

/-- A bind record the Almanac core sends to a core's command port, of one OPC (R353). The code goes to the firmware. The
addresses of its launch record are the region's own (log entry 115). A module that has shut down takes none (R385). -/
def State.almanacBind (s : State) (core opc : Nat) (record : List Word) : State :=
  let w := (List.range 8).map (fun k => (record.getD k 0).toNat)
  let rcb := (s.readDesc (w.getD 1 0)).rcb
  if s.lives (corePkg core) && coordOk (coreCoord core) && bits (w.headD 0) 2 0 == opc then ((s.bindOp (some (core, rcb)) none core w).2).finishSaves else s

/-- BIND_OPC_BIND (R353). -/
def execBindOpcBind (core : Nat) (record : List Word) (s : State) : Host.Outcome State Fault Refusal :=
  .next (s.almanacBind core 0 record)
/-- UNBIND (R353). -/
def execUnbind (core : Nat) (record : List Word) (s : State) : Host.Outcome State Fault Refusal :=
  .next (s.almanacBind core 1 record)
/-- HOLD (R353). -/
def execHold (core : Nat) (record : List Word) (s : State) : Host.Outcome State Fault Refusal :=
  .next (s.almanacBind core 2 record)
/-- RELEASE (R353). -/
def execRelease (core : Nat) (record : List Word) (s : State) : Host.Outcome State Fault Refusal :=
  .next (s.almanacBind core 3 record)

/-! ### Launches -/

/-- LAUNCH (R352): the record goes to the Almanac firmware of the cluster. -/
def execLaunch (o : EOps) (s : State) := issue (.launch o) o.h (do
  waitUntil (!(← get).acqOut) .memory
  let id ← newId
  let s ← get
  let l : Launch := {
    rcb := s.ctx.rcb, core := some (s.core, s.fc % 4), cluster := clusterOf s.core, host := none, gl := (s.ctx.rg o.h.s1.index).toNat, since := s.now }
  modify (·.modPkg (corePkg s.core) (fun p => { p with launches := Sys2Proof.Machine.tset p.launches id l }))
  modCtx (fun c => { c with awaited := some (.launch id o.h.d) })
  return .stay) s

/-- A launch under way, with its package. -/
def State.findLaunch (s : State) (id : Nat) : Option (Nat × Launch) :=
  s.packages.findSome? (fun p => (tfind p.2.launches id).map (fun l => (p.1, l)))

/-- A result entry of a package's host queue (R401, R402). -/
def State.postResult (s : State) (pkg queue : Nat) (a b : Word) : State :=
  let w0 := pkg * 2 ^ 52 + 0x3FFF * 2 ^ 34 + 2 * 2 ^ 24
  s.modPkg pkg (fun p => {
    p with outq := Sys2Proof.Machine.tset p.outq queue (tget [] p.outq queue ++ [⟨none, messageEntry w0 [a, b]⟩]) })

/-- The answer of a launch reaches its context or its host. -/
def State.answerLaunch (s : State) (pkg id : Nat) (l : Launch) (v : Nat) : State :=
  let s := s.modPkg pkg (fun p => { p with launches := tdel p.launches id })
  match l.core, l.host with
  | some (k, fc), _ => s.modCtxOf k fc (fun c => match c.awaited with
      | some (.launch i d) => if i = id then c.answer d (word v) else c
      | _ => c)
  | none, some (q, tag) => s.postResult pkg q tag (word v)
  | none, none => s

/-- The firmware's own checks: a reply that fails them raises FIRMWARE (R352, log entry 15). -/
def State.badReply (s : State) (pkg id : Nat) (k fc cluster : Nat) : State :=
  let s := s.modPkg pkg (fun p => { p with launches := tdel p.launches id })
  match (s.ctxOf k fc).awaited with
  | some (.launch i _) =>
    if i = id then
      (s.at k fc).takeTrapAnswer { cause := cFIRMWARE, tval := some (word (cluster % 96)) }
    else s
  | _ => s

/-- LAUNCH_FIRMWARE_REPLY (R352): the firmware places every actor, or refuses. Whether its reply passes the hardware's
checks is a free choice. -/
def execLaunchFirmwareReply (launch : Nat) (s : State) : Host.Outcome State Fault Refusal :=
  .next (match s.findLaunch launch with
    | none => s
    | some (pkg, l) =>
      let good := Config.choice s.fresh
      let s : State := { s with fresh := s.fresh + 1 }
      match l.core with
      | some (k, fc) =>
        if !good then s.badReply pkg launch k fc l.cluster
        else
          let (v, s) := s.doLaunch (some (k, l.rcb)) k l.rcb l.gl launch
          s.answerLaunch pkg launch l v
      | none =>
        let (v, s) := s.doLaunch none (pkg * 2 ^ 14) l.rcb l.gl launch
        s.answerLaunch pkg launch l v)

/-- LAUNCH_NOFIRM_TIMEOUT (R352). -/
def execLaunchNofirmTimeout (launch : Nat) (s : State) : Host.Outcome State Fault Refusal :=
  .next (match s.findLaunch launch with
    | some (pkg, l) => if 2 ^ 20 ≤ s.now - l.since then s.answerLaunch pkg launch l 7 else s
    | none => s)

/-! ### Pre-emption -/

/-- The frame of a region discard (R68, R83): before the first IDEM the region is the firing's start. -/
def Ctx.discarded (c : Ctx) : Ctx :=
  { c with
    pc := c.idem.entry, p := c.idem.preds,
    g := Vector.ofFn (fun k => if c.idem.start then c.idem.startG[k] else if c.idem.gmask.getLsbD k then c.g[k] else 0),
    win := if c.idem.start then c.idem.startWin else c.win,
    pend := Vector.replicate 32 .ready, q0 := [], q1 := [], streams := Vector.replicate 4 Stream.reset, xseq := [],
    stall := none, preempt := none, preemptDue := false, joined := none, moving := [], xskip := false, line := none,
    refetch := false, xfer := none }

/-- The frame of a whole save (R68, R84). -/
def Ctx.savedWhole (c : Ctx) : Ctx :=
  { c with stall := none, preempt := none, preemptDue := false, line := none, refetch := false, xfer := none }

/-- A frame is written, and the firing is SAVED (R83, R84). -/
def State.saveFiring (s : State) (core fc : Nat) (whole : Bool) : State :=
  let x := s.ctxOf core fc
  match x.firing with
  | none => s
  | some f =>
    let s := (s.keepCts x).leaveFutures core fc
    let fr : Frame := ⟨if whole then x.savedWhole else x.discarded, s.now, (s.coreAt core).gang == some (fc % 4), false⟩
    let s := if whole then s else s.dropSequencer core fc
    let s := s.modCtxOf core fc Ctx.freed
    let s := s.modCore core (fun c => { c with
      frames := c.frames ++ [fr], gang := if c.gang == some (fc % 4) then none else c.gang })
    let s := if f.act.isSome then s.setBound core f.slot (fun b => { b with life := .saved }) else s
    (s.answerAll (fun d => .preempt d core fc) 0).finishSaves

/-- A pre-emption has been asked for, and the firing is in U mode between instructions. The request waits while a page in
transition or a held line holds an access (R287, R376). -/
def Ctx.preemptible (c : Ctx) : Bool :=
  c.preempt.isSome && c.firing.isSome && c.mode == .u && c.awaited.isNone && c.trap.isNone && c.moving.isEmpty &&
    !c.inTransition

/-- Loads have landed and stores are acknowledged (R83, R84, R162). -/
def State.quietFor (s : State) (core fc : Nat) : Bool :=
  (s.ctxOf core fc).unacked == 0 && !(s.at core fc).loadsOut && !(s.ctxOf core fc).xbusy && !(s.ctxOf core fc).passDue

/-- REGION_DISCARD can happen: the firing is running, and its region is not committed (R83). -/
def State.canDiscard (s : State) (core fc : Nat) : Bool :=
  let c := s.ctxOf core fc
  c.preemptible && !c.atStallPoint && !c.idem.committed && c.xhead.isNone && s.quietFor core fc

/-- WHOLE_SAVE can happen: at a stall point, at a point of a firing whose region is committed, or instead of a discard that a
stalled entry stops (R83, R84). -/
def State.canSave (s : State) (core fc : Nat) : Bool :=
  let c := s.ctxOf core fc
  c.preemptible && (c.atStallPoint || (c.idem.committed && c.atPoint) || (!c.idem.committed && c.xStalled)) &&
    (c.xhead.isNone || c.xStalled) && s.quietFor core fc

/-- A load's data error that a pre-emption finds landed, in a g register or in q0 (R174), and the records its trap
clears. -/
def Ctx.landedError (c : Ctx) : Option (DataError × List Clear) :=
  (c.dataError.map (fun e => (e.2, [.register e.1]))).or ((c.q0.findSome? (·.err)).map (·, []))

/-- Save a firing, or raise the error it has landed. -/
def State.preemptNow (s : State) (core fc : Nat) (whole : Bool) : State :=
  match (s.ctxOf core fc).landedError with
  | some (e, clears) => (s.at core fc).takeTrapA (e.trap true clears)
  | none => s.saveFiring core fc whole

/-- REGION_DISCARD (R83). -/
def execRegionDiscard (core fc : Nat) (s : State) : Host.Outcome State Fault Refusal :=
  .next (if s.canDiscard core fc then s.preemptNow core fc false else s)

/-- WHOLE_SAVE (R84). -/
def execWholeSave (core fc : Nat) (s : State) : Host.Outcome State Fault Refusal :=
  .next (if s.canSave core fc then s.preemptNow core fc true else s)

/-- PREEMPT of mode 0 (R360). -/
def execPreemptFiring (o : EOps) (s : State) := issue (.preemptFiring o) o.h (do
  let s ← get
  let t := (s.ctx.rg o.h.s1.index).toNat
  let k := corePkg s.core * 2 ^ 14 + bits t 13 0
  let fc := bits t 17 16
  let c := s.coreAt k
  let asked := (c.ctx.toList.filter (fun x => x.preempt == some true)).length
  if (s.ctxOf k fc).firing.isNone then
    writeD o.h.d 1
    return .next
  else if 8 ≤ c.frames.length + asked then
    writeD o.h.d 2
    return .next
  else
    modify (·.modCtxOf k fc (fun x => { x with preempt := some true }))
    modCtx (fun x => { x with awaited := some (.preempt o.h.d k fc) })
    return .stay) s

/-- The save area lies in space 0 below the spill log (R360, R361, R369). -/
def State.saveOk (s : State) (rcb : Nat) : Bool :=
  let a := s.peek (rcb + 0x80) 8
  a != 0 && gaSpace a == 0 && decide (bits a 47 0 + s.effLcount rcb * 0x10C000 ≤ 2 ^ 42 - 2 ^ 30)

/-- A DMCLOSE of the region waits (R377). -/
def State.dmWaiting (s : State) (rcb : Nat) : Bool :=
  (s.coresOf rcb).any (fun k => (s.coreAt k).ctx.toList.any (fun x => match x.awaited with | some (.dmclose _) => true | _ => false))

/-- Step 1 of a whole-region switch, and the request of step 2 (R361). -/
def State.beginSave (s : State) (rcb : Nat) : State :=
  (s.coresOf rcb).foldl (fun s k => s.modCore k (fun c => { c with ctx := c.ctx.map (fun (x : Ctx) =>
    if x.firing.isSome then { x with preempt := some (x.preempt.getD false) } else x) })) (s.setRcbState rcb 1)

/-- PREEMPT of mode 1 (R360, R361, R377). -/
def execPreemptRegion (o : EOps) (s : State) := issue (.preemptRegion o) o.h (do
  let s ← get
  let rcb := (s.ctx.rg o.h.s1.index).toNat
  if !s.isLive rcb then
    writeD o.h.d 1
    return .next
  else if !s.saveOk rcb then
    writeD o.h.d 3
    return .next
  else
    waitUntil (!(s.effDm rcb && s.dmWaiting rcb)) .answer
    modCtx (fun c => { c with awaited := some (.regionSave o.h.d rcb) })
    modify (fun s => (s.beginSave rcb).finishSaves)
    return .stay) s

/-- PREEMPT of mode 2 (R360, R361). -/
def execPreemptResume (o : EOps) (s : State) := issueNext (.preemptResume o) o.h (do
  let s ← get
  let rcb := (s.ctx.rg o.h.s1.index).toNat
  if (s.regionAt (s.regionPkg rcb) rcb).isNone || s.rcbState rcb ≠ 2 then writeD o.h.d 1
  else if !s.saveOk rcb then writeD o.h.d 3
  else
    modify (·.resumeRegion rcb)
    writeD o.h.d 0) s

/-! ### Translation -/

/-- A quad's walker has an address to look up: of a virtual address that its TLB lacks, unless an entry's line is held (R363,
R376, R385). -/
def State.canWalk (s : State) (quad root ea : Nat) : Bool :=
  s.lives (quad / 2 ^ 12) && !isDirect ea && bits ea 63 56 == 0 && (s.cachedTlb (.quad quad) root ea).isNone &&
  !s.walkWaits (.quad quad) root ea

/-- PAGE_WALK (R363, R387): a walk that finds a page fills the quad's TLB; one that finds none is reported at the access. -/
def execPageWalk (quad root ea : Nat) (s : State) : Host.Outcome State Fault Refusal :=
  .next (if !s.canWalk quad root ea then s
    else match walk s (quad / 2 ^ 12) root ea with
      | .ok t => (s.walked (.quad quad) root ea).fillTlb (.quad quad) t
      | .error _ => s.walked (.quad quad) root ea)

/-- The quads of a scope (R364): 1 core, 2 clu, 3 pkg, 4 sys. -/
def scopeQuads (core scope : Nat) : List Nat :=
  if scope = 1 then [quadOf core]
  else if scope = 2 then clusterQuads (core / 2 ^ 10) (coreQrow core / 2)
  else (List.range 16).flatMap (fun d => (List.range 6).flatMap (fun k => clusterQuads (corePkg core * 16 + d) k))

/-- TLBI (R364). -/
def execTlbi (o : EOps) (s : State) := issueNext (.tlbi o) o.h (do
  let c ← getCtx
  let a := (c.rg o.h.s1.index).toNat
  let n := (c.rg o.h.s2.index).toNat
  let gc := (c.rg o.h.s3.index).toNat
  unlessFault (bits a 63 56 == 0 && gc % 8 == 0) cILLEGAL_OPERAND
  let p ← cellAt gc 8
  fence 4
  let s ← get
  let quads := scopeQuads s.core o.scope.toNat
  let _ ← touchNow p 8 (fun old => some ((old + quads.length) % 2 ^ 64))
  modify (fun s => quads.foldl (fun s q => s.addFlight (.tlbi q (s.effPtroot s.ctx.rcb) a n p.ga)) s)) s

/-- A cached translation that a TLBI drops. -/
def Tlb.dropped (t : Tlb) (root va len : Nat) : Bool :=
  t.root == root && (len == 0 || overlap t.va (2 ^ leafBits t.level) va len)

/-- Accesses of the quad's cores that used one of these pages are under way (R364). -/
def State.pagesBusy (s : State) (quad : Nat) (pages : List Nat) : Bool :=
  s.txns.any (fun t => quadOf t.2.core == quad && t.2.opensPage pages) ||
  (List.range 4).any (fun i =>
    let c := s.coreAt (quad * 4 + i)
    c.fills.any (fun f => f.todo.any (fun p => pages.contains p.page)) ||
    pages.any (fun p => c.movingOn p))

/-- The counter's location takes an atomic now: no claim, held line or landing grant (R288, R376), or a pool byte that
moves. -/
def State.cellFree (s : State) (ga : Nat) : Bool :=
  if 1 ≤ gaSpace ga ∧ gaSpace ga ≤ 3 then !(s.coreAt (gaCore ga)).poolWaits (gaSpace ga) (gaOff ga) 8 true
  else (s.homeAt (lineOf ga)).claims.isEmpty && !s.lineHeld (lineOf ga) && !s.lineGranted (lineOf ga)

/-- TLBI_TARGET (R364). -/
def execTlbiTarget (event : Nat) (s : State) : Host.Outcome State Fault Refusal :=
  .next (match tfind s.flights event with
    | some (.tlbi quad root va len gc) =>
      let ks := (List.range 4).map (fun i => quad * 4 + i)
      let gone := ((s.quadAt quad).tlb ++ ks.flatMap (fun k => (s.coreAt k).utlb)).filter (·.dropped root va len)
      if s.pagesBusy quad (gone.map (·.pageGa)) || !s.cellFree gc then s
      else
        let s := s.modQuad quad (fun q => { q with tlb := q.tlb.filter (fun t => !t.dropped root va len) })
        let s := ks.foldl (fun s k => s.modCore k (fun c => { c with
          utlb := c.utlb.filter (fun t => !t.dropped root va len) })) s
        let s : State := { s with flights := tdel s.flights event }
        s.poke gc 8 ((s.peek gc 8 + 2 ^ 64 - 1) % 2 ^ 64)
    | _ => s)

/-! ### Deterministic rounds -/

/-- DMCLOSE (R377). -/
def execDmclose (o : EOps) (s : State) := issue (.dmclose o) o.h (do
  let s ← get
  let rcb := s.ctx.rcb
  unlessFault (s.effDm rcb) cDM_OUTSIDE (some (word (bits (s.peek rcb 8) 11 0)))
  fence 3
  let here := s.here.lcore
  let arrived := match s.regionAt (s.regionPkg rcb) rcb with | some r => r.arrived | none => []
  waitUntil (!arrived.contains here) .answer
  modify (·.modRegion rcb (fun r => { r with arrived := r.arrived ++ [here] }))
  modCtx (fun c => { c with awaited := some (.dmclose o.h.d) })
  return .stay) s

/-- Key order (R378). -/
def DmEntry.le (a b : DmEntry) : Bool := decide (a.issuer < b.issuer) || (a.issuer == b.issuer && decide (a.seq ≤ b.seq))

/-- The round is applied to one line as one store (R275, R378). -/
def State.applyRound (s : State) (es : List DmEntry) (line : Nat) : State :=
  let s := s.settleLine line
  let mine := (es.filter (fun e => lineOf e.ga == line)).mergeSort DmEntry.le
  let s := mine.foldl (fun s e =>
    let n := Fmt.width e.fmt / 8
    s.wrNat e.ga n (amoApply e.op e.fmt e.rm.toNat (s.rdNat e.ga n) (valOf e.fmt e.val)).1) s
  let h := s.homeAt line
  s.setHome line { h with wts := h.rts + 1, rts := h.rts + 1 }

/-- The status word of a round (R377). -/
def Region.roundStatus (r : Region) : Nat :=
  let spilled := ((r.entries.filter (·.spilled)).map (fun e => lineOf e.ga)).dedup.length
  r.round % 2 ^ 32 * 2 ^ 32 + min spilled (2 ^ 20 - 1) * 2 ^ 12 + natOfBool r.refused * 2 + natOfBool (decide (0 < spilled))

/-- Every logical core of the region has arrived (R378). -/
def State.roundFull (s : State) (rcb : Nat) : Bool :=
  match s.regionAt (s.regionPkg rcb) rcb with
  | some r => (List.range (s.effLcount rcb)).all (fun k => r.arrived.contains k)
  | none => false

/-- A waiting DMCLOSE of the round completes, or raises the uncorrectable error of one of its lines (R377, R386). -/
def State.closeRound (s : State) (k fc : Nat) (r : Region) (bad : Option Nat) : State :=
  match (s.ctxOf k fc).awaited, bad with
  | some (.dmclose d), none => s.modCtxOf k fc (·.answer d (word r.roundStatus))
  | some (.dmclose _), some l =>
    (s.at k fc).takeTrapAnswer { cause := cMACHINE_UE, tval := some (word l) }
  | _, _ => s

/-- DM_ROUND_COMPLETE (R378). -/
def execDmRoundComplete (rcb : Nat) (s : State) : Host.Outcome State Fault Refusal :=
  .next (match s.regionAt (s.regionPkg rcb) rcb with
    | some r =>
      if s.roundFull rcb then
        let lines := (r.entries.map (fun e => lineOf e.ga)).dedup
        let isBad (l : Nat) : Bool := s.bad l 64 || r.entries.any (fun e => lineOf e.ga == l && e.bad)
        let bad := lines.find? isBad
        let s := (lines.filter (fun l => !isBad l)).foldl (fun s l => s.applyRound r.entries l) s
        let s := s.modRegion rcb (fun r => { r with entries := [], arrived := [], refused := false, round := r.round + 1 })
        (s.coresOf rcb).foldl (fun s k =>
          let s := s.modCore k (fun c => { c with round := c.round + 1, cnt := 0 })
          (List.range 4).foldl (fun s fc => s.closeRound k fc r bad) s) s
      else s
    | none => s)

/-! ### The Logbook -/

/-- Word k of a byte string (R4, R382). -/
def byteWord (l : List Byte) (k : Nat) : Word := word (natOfBytes ((l.drop (8 * k)).take 8))

/-- Word idx of a manifest, signed with a private key (R381, R382). -/
def Region.logWord (r : Region) (key idx : Nat) : Word :=
  let md := r.digest
  if idx < 0x24 then byteWord (r.comps[idx / 6 % 6]'(Nat.mod_lt _ (by decide))) (idx % 6)
  else if idx < 0x2A then byteWord md (idx - 0x24)
  else if idx < 0x30 then byteWord r.chal (idx - 0x2A)
  else if idx < 0x3C then byteWord (Ecdsa.sign key md) (idx - 0x30)
  else if idx < 0x48 then byteWord (Ecdsa.publicKey key) (idx - 0x3C)
  else word (r.extensions * 2 ^ 32 + natOfBool (r.signedOver == some md))

/-- The private key of a package's Logbook (R381): power-up makes the same one again. -/
def deviceKey (pkg : Nat) : Nat := Ecdsa.privateKey (Config.deviceKey pkg)

/-- The region an RCB operand names: g0 stands for the firing's own. -/
def rcbOperand (c : Ctx) (r : Reg) : Nat := if r.isZero then c.rcb else (c.rg r.index).toNat

/-- LOGRD (R382). Of an address that is no RCB the word is a free value. -/
def execLogrd (o : AOps) (s : State) := issueNext (.logrd o) o.h (do
  let c ← getCtx
  unlessFault (o.h.s2.isZero || c.mode == .s) cPRIV_OP
  let idx ← o.src o.h.s1
  unlessFault (decide (idx.toNat ≤ 0x48)) cILLEGAL_OPERAND (some idx)
  let rcb := rcbOperand c o.h.s2
  if 0x30 ≤ idx.toNat ∧ idx.toNat ≤ 0x3B then modify (·.modRegion rcb (fun r => { r with signedOver := some r.digest }))
  let s ← get
  match s.regionAt (s.regionPkg rcb) rcb with
  | some r => writeD o.h.d (r.logWord (deviceKey (s.regionPkg rcb)) idx.toNat)
  | none =>
    let w ← freeWord
    writeD o.h.d w) s

/-- LOGEXT (R383). -/
def execLogext (o : AOps) (s : State) := issueNext (.logext o) o.h (do
  let s ← get
  let c := s.ctx
  let rcb := rcbOperand c o.h.s3
  let n := (c.rg o.h.s2.index).toNat
  let k := bits n 63 56
  let len := bits n 47 0
  if !s.isLive rcb then writeD o.h.d 1
  else if k ≠ 0 ∧ k ≠ 2 ∧ k ≠ 6 then writeD o.h.d 2
  else if len = 0 ∨ 2 ^ 32 < len ∨ (k = 6 ∧ len ≠ 48) then writeD o.h.d 3
  else
    let data ← loadBytes (c.rg o.h.s1.index).toNat len
    if k = 6 then modify (·.modRegion rcb (fun r => { r with chal := data }))
    else modify (·.extend rcb k 0 data)
    writeD o.h.d 0) s

end Sys2Proof.Machine
end

