-- ==== Sys2Proof/Machine/Arrive.lean ====
section
/-! DEFINITION. Accesses on their way: arrivals at pools, homes, mailboxes and merge units, grants, recalls and
acknowledgements (R91, R171, R179, R236, R269 to R276, R290, R291, R312, R374). -/

namespace Sys2Proof.Machine

/-- Do something with an access under way, if it is. -/
def State.withTxn (s : State) (id : Nat) (f : Txn → State) : State :=
  match tfind s.txns id with
  | some t => f t
  | none => s

/-- The access names the package it comes from: others travel as fabric packets (R392). -/
def Txn.near (t : Txn) : Bool := gaPkg t.ga == t.source

/-- A write-back of FLUSH or INV reaches the home (R185). -/
def State.performFlush (s : State) (id : Nat) (t : Txn) (inv : Bool) : State :=
  let line := lineOf t.ga
  if s.claimed line ⟨id, t.core, t.fc⟩ || s.lineHeld line then s
  else
    let s := match inv, (s.coreAt t.core).findLine line with
      | true, some l => s.evict t.core l
      | _, _ => s.writeBack t.core line
    s.setTxn id { t with stage := .done }

/-- What happens at the target of an access. -/
def State.performAt (s : State) (id : Nat) (t : Txn) : State :=
  match t.target with
  | .pool => if s.earlierPending id t then s else s.performPool id t
  | .dram cls =>
    match t.op with
    | .flush inv => s.performFlush id t inv
    | _ => s.homeDecide id t cls
  | .mailbox => s.performMessage id t
  | .host => s.performMessage id t
  | .merge => s.performMerge id t

/-- REMOTE_ACCESS_PERFORM (R171). -/
def execRemoteAccessPerform (txn : Nat) (s : State) : Host.Outcome State Fault Refusal :=
  .next (s.withTxn txn (fun t =>
    if t.stage == .travelling && t.near && t.target == .pool && !(match t.op with | .slot _ _ _ _ _ => true | _ => false)
    then s.performAt txn t else s))

/-- HOME_REQUEST (R270). -/
def execHomeRequest (txn : Nat) (s : State) : Host.Outcome State Fault Refusal :=
  .next (s.withTxn txn (fun t =>
    if t.stage == .travelling && t.near && (match t.target with | .dram _ => true | _ => false)
    then s.performAt txn t else s))

def Txn.cls (t : Txn) : Cls := match t.target with | .dram c => c | _ => .sc
/-- A granted store of an HC line. -/
def Txn.wantsExclusive (t : Txn) : Bool := t.cls == .hc && !t.op.isLoad && !t.isU

/-- CACHE_FILL_COMPLETE: the granted line is placed in the CCH role, and the access that waited is performed on it
(R269, R283). -/
def execCacheFillComplete (txn : Nat) (s : State) : Host.Outcome State Fault Refusal :=
  .next (s.withTxn txn (fun t =>
    if t.stage == .granted && !t.wantsExclusive && !t.isU then s.landLine txn t t.cls false else s))

/-- HC_EXCLUSIVE_GRANT (R275). -/
def execHcExclusiveGrant (txn : Nat) (s : State) : Host.Outcome State Fault Refusal :=
  .next (s.withTxn txn (fun t => if t.stage == .granted && t.wantsExclusive then s.landLine txn t .hc true else s))

/-- U_GRANT (R290). -/
def execUGrant (txn : Nat) (s : State) : Host.Outcome State Fault Refusal :=
  .next (s.withTxn txn (fun t => if t.stage == .granted && t.isU then s.landU txn t else s))

/-- A request at the home waits for the line's owner or its U copies (R275, R291). -/
def State.recallWanted (s : State) (line : Nat) : Bool :=
  s.txns.any (fun t => lineOf t.2.ga == line && t.2.stage == .travelling &&
    (match t.2.target with | .dram _ => true | _ => false) && s.needsRecall t.2)

/-- A grant of the line to a store or an update has not landed: a recall waits for it (R276). -/
def State.grantLanding (s : State) (line : Nat) : Bool :=
  s.txns.any (fun t => lineOf t.2.ga == line && t.2.stage == .granted && !t.2.op.isLoad)

/-- HC_RECALL (R276). -/
def execHcRecall (line : Nat) (s : State) : Host.Outcome State Fault Refusal :=
  .next (if s.recallWanted line && !s.grantLanding line then s.recallHc line else s)

/-- U_RECALL (R291): the delta of one U copy arrives. -/
def execURecall (line : Nat) (s : State) : Host.Outcome State Fault Refusal :=
  .next (if s.recallWanted line && !s.grantLanding line then s.recallOneU line else s)

/-- An answer can travel: within the package, or on an UP port that the target's entry of the issuing package names (R392), a wake's target being that of its counter;
the issuer's own limit needs no packet (R399). -/
def State.answerPath (s : State) (t : Txn) : Bool :=
  t.stage == .failed cFABRIC_TIMEOUT || s.answerOpen t.core (t.cell.getD t.ga)

/-- LOAD_DATA_RETURN (R91, R174). -/
def execLoadDataReturn (txn : Nat) (s : State) : Host.Outcome State Fault Refusal :=
  .next (s.withTxn txn (fun t =>
    match t.stage with
    | .done => if t.count.isNone && s.answerPath t then s.returnLoad txn t else s
    | .failed _ => if t.count.isNone && s.answerPath t then s.returnLoad txn t else s
    | _ => s))

/-- STORE_ACK (R178, R179): kills and region switches that waited for it go on (R351, R361). -/
def execStoreAck (txn : Nat) (s : State) : Host.Outcome State Fault Refusal :=
  .next (s.withTxn txn (fun t =>
    match t.stage with
    | .done => if t.count.isSome && s.answerPath t then (s.ackStore txn t).finishKills.finishSaves else s
    | .failed _ => if t.count.isSome && s.answerPath t then (s.ackStore txn t).finishKills.finishSaves else s
    | _ => s))

/-- MAILBOX_ENTRY_ARRIVAL (R312). -/
def execMailboxEntryArrival (txn : Nat) (s : State) : Host.Outcome State Fault Refusal :=
  .next (s.withTxn txn (fun t =>
    if t.stage == .travelling && t.near && (t.target == .mailbox || t.target == .host) then s.performAt txn t else s))

/-- MAILBOX_HELD_APPEND (R312). -/
def execMailboxHeldAppend (core mailbox : Nat) (s : State) : Host.Outcome State Fault Refusal :=
  .next (s.appendHeld core mailbox)

/-- GSEND_ARRIVAL (R236). -/
def execGsendArrival (txn : Nat) (s : State) : Host.Outcome State Fault Refusal :=
  .next (s.withTxn txn (fun t => if t.stage == .travelling then s.performSlot txn t else s))

/-- MERGE_ENTRY_ARRIVAL (R374). -/
def execMergeEntryArrival (txn : Nat) (s : State) : Host.Outcome State Fault Refusal :=
  .next (s.withTxn txn (fun t => if t.stage == .travelling && t.target == .merge then s.performAt txn t else s))

end Sys2Proof.Machine
end

