-- ==== Sys2Proof/Machine/Banks.lean ====
section
/-! DEFINITION. Moving the pool's boundary, views and the tile table (R102 to R120). -/

namespace Sys2Proof.Machine

/-! ### Roles -/

def roleField (e lo : Nat) : Role := Role.ofCode (bits e (lo + 2) lo)

/-- POOLRD (R110). -/
def execPoolrd (o : AOps) (s : State) := issueNext (.poolrd o) o.h (do
  writeD o.h.d (word ((← getCore).bankCount (roleField o.ext.toNat 9)))) s

/-- HWM.SET (R109). -/
def execHwmSet (o : AOps) (s : State) := issueNext (.hwmSet o) o.h (do
  let x ← o.src o.h.s1
  let c ← getCore
  unlessFault (decide (x.toNat ≤ 0x80000) && decide (ceilDiv x.toNat 0x2000 ≤ c.bankCount .scr)) cILLEGAL_OPERAND
  modCore (fun c => { c with scrhwm := x.toNat })) s

/-- The bytes of a role that n departing banks hold. -/
def Core.departing (c : Core) (r : Role) (n : Nat) : Nat × Nat := ((c.bankCount r - n) * 0x2000, n * 0x2000)

/-- A tile's bytes lie in a byte range of MAT or SCR. -/
def Tile.inRange (t : Tile) (r : Role) (x : Nat × Nat) : Bool :=
  match t.role with
  | .mat => r == .mat && overlap t.base t.bytes x.1 x.2
  | .scr => r == .scr && overlap t.base t.bytes x.1 x.2
  | .csm => false

/-- A tile entry in departing banks: what names it waits (R115). -/
def Core.tileMoving (c : Core) (t : Tile) : Bool :=
  match c.move with
  | some m => t.inRange m.give (c.departing m.give m.n)
  | none => false

/-- The ring reaches into a byte range. -/
def Ring.inRange (r : Ring) (x : Nat × Nat) : Bool := overlap r.base (ringBytes r) x.1 x.2
def Bound.inRange (b : Bound) (x : Nat × Nat) : Bool := (b.ins ++ b.outs).any (·.inRange x)

/-- n bytes within a line at an effective address, as the unit of a core and region finds them. -/
def State.peekAt (s : State) (core rcb ea n : Nat) : Nat :=
  match s.whereIs core rcb (ea % 2 ^ 64) with
  | some ga => s.peek ga n
  | none => 0

/-- The rows of the row list a command's descriptor names, or the three pointers of a row-pointer descriptor (R320, R321), as
they stand. -/
def State.cmdRows (s : State) (c : Cmd) : List Word :=
  let at' (ea n : Nat) := s.peekAt c.core c.rcb ea n
  let d (k : Nat) := at' (c.b.toNat + 8 * k) 8
  if c.stage == .running then c.rows
  else match c.i with
  | .hscat _ => (List.range c.a.toNat).map (fun k => word (d 1 + bits (d 2) 31 0 * at' (d 0 + 4 * k) 4))
  | .hpack _ => [word (d 0), word (d 1), word (d 2)]
  | _ => []

/-- The byte ranges of effective addresses that a command has still to write to memory, from its unit `pos` on (R319 to
R321). -/
def State.cmdDests (s : State) (c : Cmd) (pos : Nat) : List (Nat × Nat) :=
  let rows := s.cmdRows c
  match c.i, (cmdSource c.i).bind (tfind (s.coreAt c.core).tiles) with
  | .hcopy _, _ => if (cmdDest c.i).isSome then [] else [(c.dst.toNat + 16 * pos, c.b.toNat - 16 * pos)]
  | .hscat _, some t =>
    let row := pos / tileUnits t
    let off := 16 * (pos % tileUnits t)
    ((rows.drop row).take 1).map (fun a => (a.toNat + off, t.memRow - off)) ++
      (rows.drop (row + 1)).map (fun a => (a.toNat, t.memRow))
  | .hpack _, some t =>
    let n := t.fmt.width / 8
    let ptr (i : Nat) := s.peekAt c.core c.rcb ((rows.getD 0 0).toNat + 4 * i) 4
    (List.range 32).flatMap (fun i =>
      if i < pos then [] else
        [((rows.getD 1 0).toNat + 2 * ptr i, 2 * (ptr (i + 1) - ptr i)),
         ((rows.getD 2 0).toNat + n * ptr i, n * (ptr (i + 1) - ptr i))])
  | _, _ => []

/-- A range of effective addresses has a byte of a core's scratchpad in a range. -/
def State.rangeHits (s : State) (c : Cmd) (core : Nat) (x r : Nat × Nat) : Bool :=
  (List.range ((r.1 % 2 ^ 16 + r.2 + 2 ^ 16 - 1) / 2 ^ 16)).any (fun k =>
    let lo := max r.1 (r.1 / 2 ^ 16 * 2 ^ 16 + 2 ^ 16 * k)
    let hi := min (r.1 + r.2) (r.1 / 2 ^ 16 * 2 ^ 16 + 2 ^ 16 * (k + 1))
    match s.whereIs c.core c.rcb (lo % 2 ^ 64) with
    | some ga => gaSpace ga == 1 && gaCore ga == core && overlap (gaOff ga) (hi - lo) x.1 x.2
    | none => false)

/-- An MLOAD of this core that is queued in a sequencer has its destination in a range of its scratchpad. -/
def Core.queuedFill (c : Core) (hit : Nat → Bool) : Bool :=
  c.ctx.any (fun x => x.entries.any (fun e => match e.i with | .mload o => hit o.h.d.index | _ => false))

/-- A command or MLOAD of this core, queued or running, has destination bytes in a range of its scratchpad, or a transfer of
another core or command writes there (R113). -/
def State.fillsScr (s : State) (core : Nat) (x : Nat × Nat) : Bool :=
  let c := s.coreAt core
  let tileHit (n : Nat) : Bool := match tfind c.tiles n with
    | some t => t.inRange .scr x
    | none => false
  c.fills.any (fun f => tileHit f.tile) || c.queuedFill tileHit ||
  s.txns.any (fun t => t.2.target == .pool && t.2.stage == .travelling && !t.2.op.isLoad && gaSpace t.2.ga == 1 &&
    gaCore t.2.ga == core && overlap (gaOff t.2.ga) t.2.size x.1 x.2) ||
  s.clusters.any (fun cl => cl.2.chans.toList.flatten.any (fun k =>
    (k.core == core && (match cmdDest k.i with | some n => tileHit n | none => false)) ||
    ((k.core == core || k.stage == .running) && (s.cmdDests k (if k.core == core then 0 else k.pos)).any
      (s.rangeHits k core x))))

/-- A line fill of this core is outstanding: a prefetch, or an access that has missed and whose line its CCH will take. -/
def State.filling (s : State) (core : Nat) : Bool :=
  s.txns.any (fun t => t.2.core == core && (t.2.op == .fill || t.2.stage == .granted ||
    (t.2.stage == .travelling && !t.2.engine && match t.2.target, t.2.op with
      | .dram _, .flush _ => false
      | .dram .sc, .store _ => false
      | .dram cls, _ => s.caches core cls t.2.ga t.2.page
      | _, _ => false)))

/-- The life states in which an actor's firing keeps its rings where they are (R113). -/
def Life.fires : Life → Bool | .running => true | .saved => true | .trapped => true | _ => false

/-- Whether a fill lands in a departing bank: the bank of a line is not stated, so either may hold. -/
def fillsDeparting (s : State) (core : Nat) : Bool := s.filling core && Config.choice s.fresh

/-- The checks of R113 in their order: the code, 0 when all pass. -/
def State.poolCheck (s : State) (core rcb : Nat) (own : Option Bound) (gain give : Role) (n : Nat) : Nat :=
  let c := s.coreAt core
  let dep := c.departing give n
  let left := c.bankCount give - n
  let tiles := c.tiles.map (·.2)
  if c.move.isSome then 7
  else if (s.owners rcb 11).any (fun o => decide (poolField (s.effBanks o) gain < c.bankCount gain + n)) then 4
  else if decide (c.bankCount give < n) || !roleMin c give left || decide (roleMax gain < c.bankCount gain + n) then 5
  else if give == .msg && (decide (left < c.msgBanks) || (match own with | some b => b.inRange dep | none => false)) then 6
  else if (give == .reg || give == .mat) && (viewsReach c.views give left ||
      (give == .reg && decide (left < regFootprint c.views + 1))) then 2
  else if tiles.any (fun t => t.inRange give dep && (t.state == .ready || t.state == .draining || decide (0 < t.readers)))
    then 3
  else if tiles.any (fun t => t.inRange give dep && t.state == .filling) ||
      (give == .cch && fillsDeparting s core) || (give == .scr && s.fillsScr core dep) ||
      (give == .msg && c.binds.any (fun b => b.2.inRange dep && b.2.life.fires)) then 1
  else 0

/-- A POOLSET that passes its checks starts the move and waits for its end (R114, R116). -/
def poolset (o : AOps) (wait : Bool) : Act Flow := do
  let s ← get
  let e := o.ext.toNat
  let gain := roleField e 9
  let give := roleField e 6
  let n := bits e 5 0
  let code := s.poolCheck s.core s.ctx.rcb s.ownBound gain give n
  modify (fun s => { s with fresh := s.fresh + 1 })
  if wait && (code == 7 || code == 1) then waitFor .pool true
  else if code ≠ 0 then
    writeD o.h.d (word code)
    return .next
  else
    modCore (fun c => { c with move := some ⟨gain, give, n, s.fc % 4⟩ })
    modCtx (fun c => { c with awaited := some (.poolMove o.h.d), stall := none })
    return .stay

/-- POOLSET (R111, R113). -/
def execPoolset (o : AOps) (s : State) := issue (.poolset o) o.h (poolset o false) s
/-- POOLSET.wait (R11, R113). -/
def execPoolsetWait (o : AOps) (s : State) := issue (.poolsetWait o) o.h (poolset o true) s

/-- The memory key of byte 0 of a role in a core, where its bytes are addressed. -/
def roleKey (core : Nat) (r : Role) : Option Nat :=
  match r with
  | .reg => some (regSpaceKey core 0)
  | .mat => some (regSpaceKey core 0x40000)
  | .scr => some (poolAddr 1 core 0)
  | .msg => some (poolAddr 2 core 0)
  | .cch => none

/-- n words from a key hold free values. -/
def State.freeWords (s : State) (key n : Nat) : State :=
  let s' := (List.range n).foldl (fun s k => s.wrNat (key + 8 * k) 8 (Config.freeValue (s.fresh + k)).toNat) s
  { s' with fresh := s.fresh + n }

/-- A ring of a core, by the slot of its actor, whether it is an out ring, and its port. -/
abbrev RingAt := Nat × Bool × Nat × Ring

def Core.ringList (c : Core) : List RingAt :=
  c.binds.flatMap (fun b =>
    b.2.ins.zipIdx.map (fun r => (b.1, false, r.2, r.1)) ++ b.2.outs.zipIdx.map (fun r => (b.1, true, r.2, r.1)))

/-- Move rings to new bases at once: their bytes, any error among them, and their descriptors. -/
def State.moveRings (s : State) (core : Nat) (l : List (RingAt × Ring)) : State :=
  l.foldl (fun t x =>
    let (slot, out, k, r) := x.1
    let src := poolAddr 2 core r.base
    let dst := poolAddr 2 core x.2.base
    let n := r.size * r.depth
    let t := t.wrBytes dst (Memory.readBytes s.mem src n)
    let t : State := { t with errs := t.errs ++ (s.errs.filter (fun e => decide (src ≤ e) && decide (e < src + n))).map (· - src + dst) }
    t.setBound core slot (fun b =>
      if out then { b with outs := b.outs.modify k (fun q => { q with base := x.2.base }) }
      else { b with ins := b.ins.modify k (fun q => { q with base := x.2.base }) })) s

/-- Relocate the rings of the departing banks into the banks that stay (R114): into their gaps, or where no gap takes one, with
all rings closed up (log entry 118). -/
def State.relocate (s : State) (core : Nat) (dep : Nat × Nat) : State :=
  let all := (s.coreAt core).ringList
  let (go, stay) := all.partition (fun x => x.2.2.2.inRange dep)
  match placeRings dep.1 (stay.map (·.2.2.2.span)) (go.map (·.2.2.2)) with
  | some rs => s.moveRings core (go.zip rs)
  | none =>
    match placeRings dep.1 [] (all.map (·.2.2.2)) with
    | some rs => s.moveRings core (all.zip rs)
    | none => s

/-- The lines of the departing CCH banks leave, dirty sectors and deltas first, as evicted lines do (R114, R280, R291): which
of the core's lines those are, no rule says. -/
def State.dropDeparting (s : State) (core n : Nat) : State :=
  let c := s.coreAt core
  let all := c.lines.map (fun l => (true, l.addr)) ++ c.ulines.map (fun u => (false, u.addr))
  let kept := ((all.zipIdx.filter (fun l => Config.choice (s.fresh + l.2))).map (·.1)).take ((c.bankCount .cch - n) * 128)
  let s := (all.filter (fun l => !kept.contains l)).foldl (fun s l =>
    if l.1 then (match c.findLine l.2 with | some x => s.evict core x | none => s) else s.evictU core l.2) s
  { s with fresh := s.fresh + all.length }

/-- The entry at the head of a sequencer that names one of some tiles has waited for them (R115). -/
def Ctx.loseTiles (c : Ctx) (gone : Nat → Bool) : Ctx :=
  c.mapHead (fun e => match e.i.hd with
    | some h =>
      let h := c.passHd h
      if [h.d, h.s1, h.s2, h.s3].any (fun r => r.isT && gone r.index) then { e with lost := true } else e
    | none => e)

/-- The handshake and the change of the counts (R114); the contexts that waited for the pool go on. -/
def State.endMove (s : State) (core : Nat) : State :=
  match (s.coreAt core).move with
  | none => s
  | some m =>
    let c := s.coreAt core
    let dep := c.departing m.give m.n
    let s := match m.give with
      | .cch => s.dropDeparting core m.n
      | .msg => s.relocate core dep
      | _ => s
    let s : State := match roleKey core m.give with
      | some k => s.zero (k + dep.1) dep.2
      | none => s
    let s : State := match m.gain, roleKey core m.gain with
      | .msg, some k => s.freeWords (k + c.bankCount .msg * 0x2000) (m.n * 0x400)
      | _, some k => s.zero (k + c.bankCount m.gain * 0x2000) (m.n * 0x2000)
      | _, none => s
    s.modCore core (fun c =>
      let gone (n : Nat) : Bool := match tfind c.tiles n with | some t => t.inRange m.give dep | none => false
      let c := { c with
        tiles := c.tiles.filter (fun t => !t.2.inRange m.give dep),
        ctx := c.ctx.map (fun x => Ctx.loseTiles x gone),
        move := none }
      let c := (c.setBanks m.give (c.bankCount m.give - m.n)).setBanks m.gain (c.bankCount m.gain + m.n)
      let x := c.ctxAt m.fc
      match x.awaited with
      | some (.poolMove d) => c.setCtx m.fc (x.answer d 0)
      | _ => c)

/-- POOL_MOVE_DONE (R114, R116). -/
def execPoolMoveDone (core : Nat) (s : State) : Host.Outcome State Fault Refusal := .next (s.endMove core).finishSaves

/-! ### Views -/

/-- Bytes of the register space that exist: within the banks of REG and MAT (R101). -/
def Core.regSpaceHas (c : Core) (a n : Nat) : Bool :=
  (decide (0x40000 ≤ a) || decide (min (a + n) 0x40000 ≤ c.bankCount .reg * 0x2000)) &&
  decide (a + n ≤ 0x40000 + (if a + n ≤ 0x40000 then 0 else c.bankCount .mat * 0x2000))

/-- A dispatched entry of the core names a register of the kind of a view (R103). -/
def Core.names (c : Core) (kind : Reg → Bool) : Bool :=
  c.ctx.toList.any (fun x => x.entries.any (fun e => match e.i.hd with
    | some h => [h.d, h.s1, h.s2, h.s3].any kind
    | none => false))

def viewKind (which : Nat) : Reg → Bool := match which with | 0 => Reg.isV | 1 => Reg.isT | _ => Reg.isZ

def Core.view (c : Core) (which : Nat) : View := match which with | 0 => c.vwv | 1 => c.vwt | _ => c.vwz
def Core.setView (c : Core) (which : Nat) (v : View) : Core :=
  match which with | 0 => { c with vwv := v } | 1 => { c with vwt := v } | _ => { c with vwz := v }
/-- A view in the field layout of R102. -/
def View.value (v : View) : Nat := v.shape * 2 ^ 28 + v.count * 2 ^ 16 + v.base

/-- The entries of t0 to t(n − 1) that are not EMPTY. -/
def Core.busyTile (c : Core) (n : Nat) : Option Nat :=
  (List.range n).find? (fun k => match tfind c.tiles k with | some t => t.state != .empty | none => false)

/-- An invalid or EMPTY tile entry that VWT maps (R103). -/
def vwtTile (v : View) (k : Nat) : Tile :=
  let f := Fmt.ofCode (BitVec.ofNat 4 v.shape)
  { role := .mat, fmt := f, wide := false, base := 32 * v.base - 0x40000 + k * tileBytesOf f 32, state := .empty,
    readers := 0, inVwt := true, err := none, ticket := none, status := 0, statusTs := 0 }

/-- The tile entries after a change of VWT: those of the old view become invalid, those of the new are mapped. -/
def Core.mapTiles (c : Core) (old new : View) : Core :=
  let gone := c.tiles.filter (fun t => decide (old.count ≤ t.1))
  { c with tiles := (List.range new.count).foldl (fun l k => Sys2Proof.Machine.tset l k (vwtTile new k)) gone }

/-- PoolMove() = IDLE (R116): no move runs, and no POOLSET.wait waits at its stall point. -/
def Core.poolIdle (c : Core) : Bool :=
  c.move.isNone && !c.ctx.toList.any (fun x => match x.stall with | some st => st.why == .pool && st.point | none => false)

/-- VIEW.SET and VIEW.CLR (R103). `v` has COUNT 0 for VIEW.CLR. -/
def changeView (which : Nat) (v : View) : Act Unit := do
  let c ← getCore
  waitUntil c.poolIdle .pool
  waitUntil (!c.names (viewKind which)) .sequencer
  let old := c.view which
  if which = 1 then
    match c.busyTile (max old.count v.count) with
    | some k => fault cTILE_STATE (some ((Reg.code (.t (BitVec.ofNat 6 k))).setWidth 64))
    | none => pure ()
  if v.count = 0 then pure ()
  else
    let b := viewBytes which v
    unlessFault (c.regSpaceHas b.1 b.2 && (which == 0 || decide (0x40000 ≤ b.1))) cVIEW_RANGE (some (word v.value))
    unlessFault (decide (regFootprint (c.setView which v).views + 1 ≤ c.bankCount .reg)) cVIEW_RANGE (some (word v.value))
  modCore (fun c =>
    let c := c.setView which (if v.count = 0 then { old with count := 0 } else v)
    if which = 1 then c.mapTiles old v else c)

/-- VIEW.SET (R103). -/
def execViewSet (o : AOps) (s : State) := issueNext (.viewSet o) o.h (do
  let e := o.ext.toNat
  changeView (bits e 35 34) ⟨bits e 13 0, bits e 29 21, bits e 33 30⟩) s
/-- VIEW.CLR (R103). -/
def execViewClr (o : AOps) (s : State) := issueNext (.viewClr o) o.h (do
  changeView (bits o.ext.toNat 35 34) ⟨0, 0, 0⟩) s

/-! ### Tiles -/

/-- A tile within its role's banks (R117, R118). -/
def Core.tileFits (c : Core) (t : Tile) : Bool :=
  t.base % 32 == 0 &&
  (match t.role with
    | .mat => decide (t.base + t.bytes ≤ c.bankCount .mat * 0x2000)
    | .scr => decide (t.base + t.bytes ≤ c.bankCount .scr * 0x2000)
    | .csm => decide (t.base + t.colBytes ≤ 0x2000))

def tileRole (n : Nat) : TileRole := match n with | 0 => .mat | 1 => .scr | _ => .csm

/-- The code of a register as TVAL reports it (R213). -/
def Reg.tval (r : Reg) : Word := (Reg.code r).setWidth 64

/-- The tile entry a field names, after a wait while its banks move; a use that has waited for an entry which the move made
invalid raises TILE_RANGE (R115), at a dispatch with the tile code (R213). -/
def tileEntry (r : Reg) (tval : Option Word := none) : Act (Option Tile) := do
  let s ← get
  match tfind s.here.tiles r.index with
  | some t =>
    waitUntil (!s.here.tileMoving t) (.tileMove r.index)
    return some t
  | none =>
    let waited := if s.half then (match s.ctx.xhead with | some e => e.lost | none => false)
      else match s.ctx.stall with | some st => st.why == .tileMove r.index | none => false
    unlessFault (!waited) cTILE_RANGE tval
    return none

/-- TSET (R118). -/
def execTset (o : AOps) (s : State) := issueNext (.tset o) o.h (do
  let b ← readGReg o.h.s1
  let c ← getCore
  let e := o.ext.toNat
  let n := o.h.d.index
  let t : Tile := {
    role := tileRole (bits e 35 34), fmt := Fmt.ofCode (BitVec.ofNat 4 (bits e 33 30)), wide := bit e 29,
    base := b.toNat, state := if bit e 28 then .ready else .empty, readers := 0, inVwt := false, err := none,
    ticket := none, status := 0, statusTs := 0 }
  unlessFault (decide (c.vwt.count ≤ n)) cILLEGAL_OPERAND
  match (← tileEntry o.h.d) with
  | some old => unlessFault (old.state == .empty) cTILE_STATE
  | none => pure ()
  waitUntil (!c.tileMoving t) .pool
  unlessFault (c.tileFits t) cTILE_RANGE
  modCore (fun c => { c with tiles := Sys2Proof.Machine.tset c.tiles n t })) s

/-- The word TSTAT gives (R118). -/
def Tile.stat (t : Tile) : Nat :=
  t.role.code * 2 ^ 60 + t.fmt.code.toNat * 2 ^ 56 + natOfBool t.wide * 2 ^ 55 + natOfBool t.inVwt * 2 ^ 54 + 2 ^ 53 +
  natOfBool t.err.isSome * 2 ^ 52 + t.base * 2 ^ 32 + t.readers * 2 ^ 8 + t.state.code

/-- TSTAT (R118). -/
def execTstat (o : AOps) (s : State) := issueNext (.tstat o) o.h (do
  match (← tileEntry o.h.s1) with
  | some t => writeD o.h.d (word t.stat)
  | none => writeD o.h.d 0) s

/-- TCLR (R118). -/
def execTclr (o : AOps) (s : State) := issueNext (.tclr o) o.h (do
  match (← tileEntry o.h.s1) with
  | none => fault cTILE_RANGE none
  | some t =>
    if t.state == .filling || t.state == .draining || decide (0 < t.readers) then writeD o.h.d 3
    else
      modCore (·.setTile o.h.s1.index (fun t => { t with state := .empty }))
      writeD o.h.d 0) s

end Sys2Proof.Machine
end

