-- ==== Sys2Proof/Machine/Catalogue.lean ====
section
/-! DEFINITION. The Catalogue Unit: records, buckets, updates, probes, migration and exchange (R325 to R342). -/

namespace Sys2Proof.Machine

/-! ### Buckets -/

/-- A bucket (R329, R330): its entries are rows with ages, or keys with values. -/
structure Bucket where
  more : Bool
  sig : Nat
  ents : List (Nat × Nat)
  deriving DecidableEq, Repr

def Bucket.ofNat (lsh : Bool) (x : Nat) : Bucket :=
  if lsh then
    { more := bit x 24, sig := bits x 19 0,
      ents := (List.range (bits x 23 20)).map (fun k =>
        (bits x (32 + 32 * k + 27) (32 + 32 * k), bits x (32 + 32 * k + 31) (32 + 32 * k + 28))) }
  else
    { more := bit x 24, sig := 0,
      ents := (List.range (bits x 3 0)).map (fun k =>
        (bits x (32 + 96 * k + 63) (32 + 96 * k), bits x (32 + 96 * k + 95) (32 + 96 * k + 64))) }

def Bucket.toNat (lsh : Bool) (b : Bucket) : Nat :=
  let head := natOfBool b.more * 2 ^ 24
  if lsh then
    head + b.ents.length * 2 ^ 20 + b.sig +
      ((b.ents.zipIdx).map (fun e => (e.1.2 * 2 ^ 28 + e.1.1) * 2 ^ (32 + 32 * e.2))).sum
  else
    head + b.ents.length + ((b.ents.zipIdx).map (fun e => (e.1.1 + e.1.2 * 2 ^ 64) * 2 ^ (32 + 96 * e.2))).sum

/-- A match for x (R329, R330). -/
def Bucket.hits (lsh : Bool) (b : Bucket) (x : Nat) : Bool :=
  if lsh then !b.ents.isEmpty && b.sig == x else b.ents.any (·.1 == x)

/-- The key of bucket i of table t (R328). -/
def bucketKey (cl : Nat) (g : Geometry) (t i : Nat) : Nat := catalogueKey cl (g.cbase + 64 * (t * 2 ^ g.b + i))
def State.bucket (s : State) (cl : Nat) (lsh : Bool) (g : Geometry) (t i : Nat) : Bucket :=
  Bucket.ofNat lsh (s.rdNat (bucketKey cl g t i) 64)
def State.setBucket (s : State) (cl : Nat) (lsh : Bool) (g : Geometry) (t i : Nat) (b : Bucket) : State :=
  s.wrNat (bucketKey cl g t i) 64 (b.toNat lsh)

/-- Index(x, s) (R328). -/
def hashIndex (x s b : Nat) : Nat := (x * s) % 2 ^ 64 / 2 ^ (64 - b)
def Geometry.seed (g : Geometry) (j : Nat) : Nat := (g.seeds.getD j 0).toNat
/-- x of table t (R328). -/
def Catalogue.sig (c : Catalogue) (w t : Nat) : Nat := if c.lsh then w / 2 ^ (c.k * t) % 2 ^ c.k else w
def Geometry.primary (g : Geometry) (t x : Nat) : Nat := hashIndex x (g.seed t) g.b

/-- Buckets(t, x), without regard to MORE (R328). -/
def Catalogue.tried (c : Catalogue) (g : Geometry) (t x : Nat) : List Nat :=
  let p := g.primary t x
  match c.policy with
  | 2 => (List.range 4).map (fun k => (p + k) % 2 ^ g.b)
  | 3 => [p, hashIndex x (g.seed (t + c.l)) g.b]
  | _ => [p]

/-- The buckets a search reads: under SPILL it goes on only from a bucket with MORE (R328). -/
def walkMore (s : State) (cl : Nat) (lsh : Bool) (g : Geometry) (t : Nat) : List Nat → List Nat
  | [] => []
  | i :: rest => i :: if (s.bucket cl lsh g t i).more then walkMore s cl lsh g t rest else []

def Catalogue.searched (c : Catalogue) (s : State) (cl : Nat) (g : Geometry) (t x : Nat) : List Nat :=
  if c.policy = 2 then walkMore s cl c.lsh g t (c.tried g t x) else c.tried g t x

/-- The geometry of table t for x (R339). -/
def Catalogue.geometry (c : Catalogue) (t x : Nat) : Geometry :=
  match c.migrating with
  | some g => if t * 2 ^ c.geo.b + c.geo.primary t x < c.cur then g else c.geo
  | none => c.geo

/-! ### Updates of one table -/

/-- What an update did in one table (R334). -/
inductive Outcome
  | present | appended | dropped
  /-- Appended after the removal of n entries. -/
  | evicted (n : Nat)
  | absent | removed
  deriving DecidableEq, Repr

/-- The highest age of a list of entries. -/
def maxAge (l : List (Nat × Nat)) : Nat := l.foldl (fun m e => max m e.2) 0
/-- Drop the first entry whose age is the highest. -/
def dropOldest (l : List (Nat × Nat)) : List (Nat × Nat) := l.eraseIdx ((l.findIdx? (fun e => e.2 == maxAge l)).getD 0)

/-- Append (x, v) to a bucket, with the ages of R329. -/
def Bucket.append (lsh : Bool) (b : Bucket) (x v : Nat) : Bucket :=
  if lsh then { b with sig := x, ents := b.ents.map (fun e => (e.1, min 15 (e.2 + 1))) ++ [(v, 0)] }
  else { b with ents := b.ents ++ [(x, v)] }

/-- A bucket has room for x (R334). -/
def Bucket.takes (lsh : Bool) (b : Bucket) (x : Nat) : Bool :=
  if lsh then b.ents.isEmpty || (b.sig == x && decide (b.ents.length < 15)) else decide (b.ents.length < 5)

/-- A bucket holds x with v (R334). -/
def Bucket.holdsEntry (lsh : Bool) (b : Bucket) (x v : Nat) : Bool :=
  if lsh then b.hits true x && b.ents.any (·.1 == v) else b.ents.any (·.1 == x)

/-- CINS in one table (R334). -/
def State.insertAt (s : State) (cl : Nat) (c : Catalogue) (g : Geometry) (t x v : Nat) : Outcome × State :=
  let at' (i : Nat) := s.bucket cl c.lsh g t i
  match (c.searched s cl g t x).find? (fun i => (at' i).holdsEntry c.lsh x v) with
  | some i =>
    if c.lsh then (.present, s)
    else (.present, s.setBucket cl c.lsh g t i
      { at' i with ents := (at' i).ents.map (fun e => if e.1 == x then (x, v) else e) })
  | none =>
    let l := c.tried g t x
    match l.findIdx? (fun i => (at' i).takes c.lsh x) with
    | some n =>
      let s := if c.policy = 2 then (l.take n).foldl (fun s i =>
          s.setBucket cl c.lsh g t i { s.bucket cl c.lsh g t i with more := true }) s else s
      let i := l.getD n 0
      (.appended, s.setBucket cl c.lsh g t i ((s.bucket cl c.lsh g t i).append c.lsh x v))
    | none =>
      if c.policy ≠ 1 then (.dropped, s)
      else
        let i := g.primary t x
        let b := at' i
        let kept := if c.lsh then (if b.hits true x then dropOldest b.ents else []) else b.ents.drop 1
        (.evicted (b.ents.length - kept.length),
          s.setBucket cl c.lsh g t i (({ b with ents := kept } : Bucket).append c.lsh x v))

/-- CDEL in one table (R334). -/
def State.deleteAt (s : State) (cl : Nat) (c : Catalogue) (g : Geometry) (t x v : Nat) : Outcome × State :=
  let at' (i : Nat) := s.bucket cl c.lsh g t i
  match (c.searched s cl g t x).find? (fun i => (at' i).holdsEntry c.lsh x v) with
  | some i =>
    let b := at' i
    let n := (b.ents.findIdx? (fun e => if c.lsh then e.1 == v else e.1 == x)).getD 0
    (.removed, s.setBucket cl c.lsh g t i { b with ents := b.ents.eraseIdx n })
  | none => (.absent, s)

/-! ### Counters -/

/-- Counters saturate (R341). -/
def satAdd (a n : Nat) : Nat := min (a + n) (2 ^ 64 - 1)

/-- The counters after the outcome of one table. -/
def Catalogue.tally (c : Catalogue) (o : Outcome) : Catalogue :=
  match o with
  | .appended => { c with entries := satAdd c.entries 1 }
  | .evicted n => { c with entries := satAdd (c.entries - n) 1, evicts := satAdd c.evicts n }
  | .dropped => { c with drops := satAdd c.drops 1 }
  | .removed => { c with entries := c.entries - 1 }
  | .present => c
  | .absent => c

/-- The bits of an update's answer for one table (R334). -/
def Outcome.mask (o : Outcome) (t : Nat) : Nat :=
  match o with
  | .present => 2 ^ t
  | .appended => 2 ^ t
  | .removed => 2 ^ t
  | .evicted _ => 2 ^ t + 2 ^ (16 + t)
  | .dropped => 2 ^ (8 + t)
  | .absent => 0

def State.setCat (s : State) (cl n : Nat) (c : Catalogue) : State :=
  s.modCluster cl (fun x => { x with cats := Sys2Proof.Machine.tset x.cats n c })

def Outcome.grows (o : Outcome) : Bool := match o with | .appended => true | .evicted _ => true | _ => false

/-- A failure found after issue (R332). -/
def catFailure (cause : Nat) : Nat := 2 ^ 63 + cause

/-- What one act of the unit makes of a command: its answer with a timestamp, or a part of it, with the rest to come. -/
inductive CatStep
  | answer (v ts : Nat)
  | more (w : CatWork)
  deriving DecidableEq, Repr

def CatStep.failed (cause : Nat) : CatStep := .answer (catFailure cause) 0

/-- A list up to the first element that satisfies p. -/
def takeThrough (p : Nat → Bool) : List Nat → List Nat
  | [] => []
  | i :: l => if p i then [i] else i :: takeThrough p l

/-- The buckets a search for an entry reads: up to the one that holds it (R328, R334, R337). -/
def Catalogue.findReads (c : Catalogue) (s : State) (cl : Nat) (g : Geometry) (t x v : Nat) : List Nat :=
  takeThrough (fun i => (s.bucket cl c.lsh g t i).holdsEntry c.lsh x v) (c.searched s cl g t x)

/-- The buckets an insert reads: its search, and without a match those it tries up to its target (R334). -/
def Catalogue.insertReads (c : Catalogue) (s : State) (cl : Nat) (g : Geometry) (t x v : Nat) : List Nat :=
  if (c.searched s cl g t x).any (fun i => (s.bucket cl c.lsh g t i).holdsEntry c.lsh x v) then c.findReads s cl g t x v
  else c.searched s cl g t x ++ takeThrough (fun i => (s.bucket cl c.lsh g t i).takes c.lsh x) (c.tried g t x)

/-- The buckets a command reads in table t (R328, R334, R336, R337). -/
def Catalogue.reads (c : Catalogue) (s : State) (cl : Nat) (q : CatCmd) (t : Nat) : List Nat :=
  let x := c.sig q.a.toNat t
  let g := c.geometry t x
  match q.i with
  | .cprobe _ => c.searched s cl g t x
  | .cins _ => c.insertReads s cl g t x q.b.toNat
  | _ => c.findReads s cl g t x q.b.toNat

/-- Uncorrectable data stands in a bucket that a command reads in table t (R332, R386). -/
def Catalogue.spoilt (c : Catalogue) (s : State) (cl : Nat) (q : CatCmd) (t : Nat) : Bool :=
  (c.reads s cl q t).any (fun i => s.bad (bucketKey cl (c.geometry t (c.sig q.a.toNat t)) t i) 64)

/-- The command's next act meets such an error. The first act reads every table, and an update works on what it has read, so a
failure leaves the buckets unchanged; a probe reads each table again (log entry 116). -/
def Catalogue.meetsError (c : Catalogue) (s : State) (cl : Nat) (q : CatCmd) : Bool :=
  if q.work.done = 0 then (List.range c.l).any (c.spoilt s cl q)
  else match q.i with
    | .cprobe _ => c.spoilt s cl q q.work.done
    | _ => false

/-- CINS or CDEL in its next table, in ascending order, one act to a table (R334, R341). -/
def State.updateTable (s : State) (cl : Nat) (c : Catalogue) (q : CatCmd) (ins : Bool) : CatStep × State :=
  let t := q.work.done
  if c.meetsError s cl q then (.failed cMACHINE_UE, s)
  else
    let x := c.sig q.a.toNat t
    let g := c.geometry t x
    let (o, s) := if ins then s.insertAt cl c g t x q.b.toNat else s.deleteAt cl c g t x q.b.toNat
    let c := c.tally o
    let w : CatWork := { q.work with done := t + 1, mask := q.work.mask + o.mask t, grew := q.work.grew || o.grows }
    if t + 1 < c.l then (.more w, s.setCat cl q.cat c)
    else (.answer w.mask 0, s.setCat cl q.cat (if ins && w.grew then { c with inserts := satAdd c.inserts 1 } else c))

/-! ### Records and areas -/

/-- The geometry of a record (R326). -/
def recordGeo (w : List Nat) : Geometry := ⟨bits (w.getD 0 0) 20 16, bits (w.getD 1 0) 41 0, (w.drop 2).map word⟩
def recordMode (w : List Nat) : Nat := bits (w.getD 0 0) 1 0
def recordPolicy (w : List Nat) : Nat := bits (w.getD 0 0) 3 2
def recordFamily (w : List Nat) : Nat := bits (w.getD 0 0) 7 4
def recordK (w : List Nat) : Nat := bits (w.getD 0 0) 12 8
def recordL (w : List Nat) : Nat := bits (w.getD 0 0) 15 13 + 1

/-- The zero bits of a record (R326). -/
def recordZero (w : List Nat) : Bool := bits (w.getD 0 0) 63 21 == 0 && bits (w.getD 1 0) 63 42 == 0

/-- A record that defines a catalogue is valid (R326). -/
def recordValid (w : List Nat) : Bool :=
  let g := recordGeo w
  let l := recordL w
  let k := recordK w
  let alt := recordPolicy w == 3
  recordZero w && decide (4 ≤ g.b) && decide (g.b ≤ 24) && g.cbase % 64 == 0 &&
  (match recordMode w with
   | 1 => decide (1 ≤ k) && decide (k ≤ 20) && decide (k * l ≤ 64)
   | 2 => k == 0 && l == 1
   | _ => false) &&
  (!alt || decide (2 * l ≤ 8)) &&
  (List.range (if alt then 2 * l else l)).all (fun j => g.seed j % 2 == 1)

/-- The bytes of an area. -/
def areaOf (l : Nat) (g : Geometry) : Nat × Nat := (g.cbase, l * 2 ^ g.b * 64)
/-- The areas of a cluster's catalogues, migration areas included (R333). -/
def Cluster.areas (x : Cluster) : List (Nat × Nat) :=
  x.cats.flatMap (fun c => areaOf c.2.l c.2.geo :: (match c.2.migrating with | some g => [areaOf c.2.l g] | none => []))
/-- An area fits the catalogue space beside the others. -/
def Cluster.spaceFor (x : Cluster) (a : Nat × Nat) : Bool :=
  decide (a.1 + a.2 ≤ x.catsp) && x.areas.all (fun b => !overlap a.1 a.2 b.1 b.2)

def State.zeroArea (s : State) (cl : Nat) (a : Nat × Nat) : State :=
  s.zero (catalogueKey cl a.1) a.2

/-- Write a hash-family register (R327). -/
def Cluster.setFamily (x : Cluster) (n : Nat) (f : Family) : Cluster :=
  { x with fams := x.fams.set (n % 16) f (Nat.mod_lt _ (by decide)) }
def familyOf (c : Catalogue) : Family :=
  { valid := true, exact := !c.lsh, k := c.k, lm1 := c.l - 1, b := c.geo.b,
    seeds := Vector.ofFn (fun j => c.geo.seeds.getD j.val 0) }
/-- VALID of a family that no catalogue is bound to any more. -/
def Cluster.clearFamily (x : Cluster) (n : Nat) : Cluster :=
  x.setFamily n { x.fams[n % 16]'(Nat.mod_lt _ (by decide)) with valid := false }

/-- The TABLES extension of a definition or a completed migration: the 128-byte record (R380). -/
def State.extendTables (s : State) (rcb : Nat) (w : List Nat) : State :=
  s.extend rcb 2 1 ((List.range 16).flatMap (fun k => bytesOf 8 (w.getD k 0)))

/-- CDEF: its code and the state after (R333). -/
def State.define (s : State) (cl n rcb : Nat) (w : List Nat) : Nat × State :=
  let x := s.clusterAt cl
  let old := tfind x.cats n
  if recordMode w = 0 then
    if !recordZero w then (2, s)
    else match old with
      | some c =>
        if c.migrating.isSome then (6, s)
        else if c.rcb = rcb then
          (0, s.modCluster cl (fun x => ({ x with cats := tdel x.cats n }).clearFamily c.family))
        else (0, s)
      | none => (0, s)
  else
    let g := recordGeo w
    let l := recordL w
    if !recordValid w then (2, s)
    else if old.isSome then (1, s)
    else if x.cats.any (fun c => c.2.family == recordFamily w) then (3, s)
    else if !x.spaceFor (areaOf l g) then (4, s)
    else if !s.bucketsFit cl rcb (l * 2 ^ g.b) then (5, s)
    else
      let c : Catalogue := {
        rcb := rcb, lsh := recordMode w == 1, l := l, k := recordK w, family := recordFamily w, policy := recordPolicy w,
        geo := g, migrating := none, record := [], cur := 0, entries := 0, inserts := 0, drops := 0, evicts := 0, truncs := 0, errs := 0 }
      (0, ((s.zeroArea cl (areaOf l g)).setCat cl n c).modCluster cl (fun x => x.setFamily c.family (familyOf c)))

/-! ### Migration -/

/-- Entries of an old bucket that have primary i in table t, as (x, value), and the bucket without them (R338). -/
def splitBucket (c : Catalogue) (t i : Nat) (b : Bucket) : List (Nat × Nat) × Bucket :=
  if c.lsh then
    if !b.ents.isEmpty && c.geo.primary t b.sig == i then (b.ents.map (fun e => (b.sig, e.1)), { b with ents := [] }) else ([], b)
  else
    (b.ents.filter (fun e => c.geo.primary t e.1 == i), { b with ents := b.ents.filter (fun e => c.geo.primary t e.1 != i) })

/-- The old buckets that can hold entries of primary i (R338). -/
def Catalogue.oldBuckets (c : Catalogue) (i : Nat) : List Nat :=
  match c.policy with
  | 2 => (List.range 4).map (fun k => (i + k) % 2 ^ c.geo.b)
  | 3 => i :: (List.range (2 ^ c.geo.b)).filter (· != i)
  | _ => [i]

/-- Migrate primary CUR (R338): its entries leave the old area and enter the new one. Says too whether a bucket it reads holds
uncorrectable data (R386). -/
def State.migrateOne (s : State) (cl : Nat) (c : Catalogue) (new : Geometry) : Bool × Catalogue × State :=
  let t := c.cur / 2 ^ c.geo.b
  let i := c.cur % 2 ^ c.geo.b
  let olds := c.oldBuckets i
  let taken := olds.foldl (fun (r : List (Nat × Nat) × State) j =>
    let (out, b) := splitBucket c t i (r.2.bucket cl c.lsh c.geo t j)
    if out.isEmpty then r else (r.1 ++ out, r.2.setBucket cl c.lsh c.geo t j b)) ([], s)
  let r := taken.1.foldl (fun (r : Bool × Catalogue × State) e =>
    let (bad, c, s) := r
    let (o, s') := s.insertAt cl c new t e.1 e.2
    (bad || (c.insertReads s cl new t e.1 e.2).any (fun j => s.bad (bucketKey cl new t j) 64),
      ({ c with entries := c.entries - 1 } : Catalogue).tally (match o with | .present => .absent | o => o), s'))
    (olds.any (fun j => s.bad (bucketKey cl c.geo t j) 64), c, taken.2)
  (r.1, { r.2.1 with cur := c.cur + 1 }, r.2.2)

/-- One of the next n primaries meets an uncorrectable error. -/
def State.migrationFails (s : State) (cl : Nat) (c : Catalogue) (new : Geometry) : Nat → Bool
  | 0 => false
  | n + 1 => decide (c.cur < c.l * 2 ^ c.geo.b) &&
    (let (bad, c, s) := s.migrateOne cl c new
     bad || s.migrationFails cl c new n)

/-- One primary of a migration step (R338): the step ends when it has made its count of them, or the migration with the
last. Its first act reads for all of them, so that a failure leaves the buckets unchanged (R332; log entry 116). -/
def State.rehashOne (s : State) (cl : Nat) (q : CatCmd) (c : Catalogue) (new : Geometry) : CatStep × State :=
  if q.work.done = 0 && s.migrationFails cl c new q.a.toNat then (.failed cMACHINE_UE, s)
  else
    let (_, c, s) := s.migrateOne cl c new
    if c.l * 2 ^ c.geo.b ≤ c.cur then
      let d := { c with geo := new, migrating := none, record := [] }
      (.answer (c.cur * 2 ^ 16 + 2 ^ 8) 0,
        ((s.setCat cl q.cat d).modCluster cl (fun x => x.setFamily c.family (familyOf d))).extendTables c.rcb c.record)
    else if q.a.toNat ≤ q.work.done + 1 then (.answer (c.cur * 2 ^ 16) 0, s.setCat cl q.cat c)
    else (.more { q.work with done := q.work.done + 1 }, s.setCat cl q.cat c)

/-- CREHASH (R338): `start` is the record of one that begins a migration. One that fails begins none. -/
def State.rehash (s : State) (cl : Nat) (q : CatCmd) (c : Catalogue) (start : Option (List Nat)) : CatStep × State :=
  let refuse (code : Nat) : CatStep × State :=
    (.answer ((if c.migrating.isSome then c.cur * 2 ^ 16 else 0) + code) 0, s)
  match c.migrating, start with
  | some new, none => s.rehashOne cl q c new
  | some new, some _ => if q.work.done = 0 then refuse 6 else s.rehashOne cl q c new
  | none, none => refuse 7
  | none, some w =>
    let g := recordGeo w
    if !recordValid w || (recordMode w == 1) != c.lsh || recordPolicy w != c.policy || recordFamily w != c.family ||
        recordK w != c.k || recordL w != c.l then refuse 2
    else if !(s.clusterAt cl).spaceFor (areaOf c.l g) then refuse 4
    else if !s.bucketsFit cl c.rcb (c.l * 2 ^ g.b) then refuse 5
    else
      let r := (s.zeroArea cl (areaOf c.l g)).rehashOne cl q { c with migrating := some g, record := w, cur := 0 } g
      if r.1 = .failed cMACHINE_UE then (r.1, s) else r

/-! ### Probes, lookups, exchange and counters -/

/-- The candidates of a signature word in one table (R336). -/
def State.candidateRows (s : State) (cl : Nat) (c : Catalogue) (w t : Nat) : List Nat :=
  let x := c.sig w t
  let g := c.geometry t x
  (c.searched s cl g t x).flatMap (fun i =>
    let b := s.bucket cl c.lsh g t i
    if b.hits true x then b.ents.map (·.1) else [])

/-- In ascending row id without repeats (R336). -/
def sortedRows (l : List Nat) : List Nat := l.dedup.mergeSort (fun a b => decide (a ≤ b))

/-- CLOOK (R337). -/
def State.lookKey (s : State) (cl : Nat) (c : Catalogue) (x : Nat) : Nat :=
  let g := c.geometry 0 x
  match (c.searched s cl g 0 x).findSome? (fun i => (s.bucket cl false g 0 i).ents.find? (·.1 == x)) with
  | some e => 2 ^ 32 + e.2
  | none => 0

/-- CSTAT's counter (R341). -/
def Catalogue.counter (c : Catalogue) (sel : Nat) : Nat :=
  match sel with
  | 0 => c.entries | 1 => c.inserts | 2 => c.drops | 3 => c.evicts | 4 => c.truncs | 5 => c.errs
  | 6 => natOfBool c.migrating.isSome * 2 ^ 63 + c.cur
  | _ => c.l * 2 ^ c.geo.b
def Catalogue.clear (c : Catalogue) (sel : Nat) : Catalogue :=
  match sel with
  | 1 => { c with inserts := 0 } | 2 => { c with drops := 0 } | 3 => { c with evicts := 0 }
  | 4 => { c with truncs := 0 } | 5 => { c with errs := 0 } | _ => c

/-- CSWAP (R340): the numbers exchange what they name, and accepted commands keep their catalogues. TABLES takes the two
numbers, in 8 bytes as every other value of R380 (log entry 41). -/
def State.exchange (s : State) (cl rcb a b : Nat) : Nat × State :=
  let x := s.clusterAt cl
  let ca := tfind x.cats a
  let cb := tfind x.cats b
  let busy (c : Option Catalogue) : Bool := match c with | some c => c.migrating.isSome | none => false
  if busy ca || busy cb then (6, s)
  else
    let moved (n : Nat) : Nat := if n = a then b else if n = b then a else n
    let put (t : Table Catalogue) (n : Nat) (c : Option Catalogue) : Table Catalogue :=
      match c with | some c => Sys2Proof.Machine.tset t n c | none => tdel t n
    let s := s.extend rcb 2 1 (bytesOf 8 (a + b * 2 ^ 4))
    (0, s.modCluster cl (fun (x : Cluster) => { x with
      cats := put (put x.cats a cb) b ca,
      catq := x.catq.map (fun (q : CatCmd) =>
        { q with
          cat := moved q.cat
          a := match q.i with | .cswap _ => word (moved q.a.toNat) | _ => q.a }) }))

/-! ### Issue -/

/-- The catalogue a region may use (R332). -/
def State.ownCat (s : State) (cl rcb n : Nat) : Option Catalogue :=
  (tfind (s.clusterAt cl).cats n).filter (fun c => c.rcb == rcb)

def catOf (n : Nat) : Act Catalogue := do
  let s ← get
  match s.ownCat (clusterOf s.core) s.ctx.rcb n with
  | some c => return c
  | none => fault cCAT_UNDEF (some (word n))

/-- What every catalogue command waits for: acquires, and an exchange of this core that has not acted (R176, R332,
R340). -/
def catGate : Act Unit := do
  acquired
  let s ← get
  waitUntil (!(s.clusterAt (clusterOf s.core)).catq.any (fun c => c.core == s.core &&
    (match c.i with | .cswap _ => true | _ => false))) .answer

/-- A record or descriptor address: aligned, and translated with the access needed (R332). -/
def catAddress (kind : Kind) (ea align : Nat) : Act Unit := do
  unlessFault (ea % align == 0) cCAT_LIST (some (word ea))
  let p ← whereIn kind ea
  let s ← get
  unlessFault (match p with | some p => (p.check s s.ctx.mode s.core kind).isOk | none => false) cCAT_LIST (some (word ea))

/-- The words of a catalogue record (R326). -/
def readRecord (ea : Nat) : Act (List Nat) := do
  catAddress .r ea 128
  loadWords ea 16

/-- The unit accepts a command (R332, R335): gD is pending unless the command is posted, and updates are counted. -/
def accept (i : Instr) (d : Reg) (cat : Nat) (a b : Word) (words : List Nat) : Act Unit := do
  let s ← get
  let c : CatCmd := {
    id := s.nextId, core := s.core, fc := s.fc % 4, rcb := s.ctx.rcb, mode := s.ctx.mode, i := i, cat := cat, a := a, b := b,
    words := words, live := true, work := CatWork.reset }
  if c.isUpdate then waitUntil (decide (s.ctx.updates < 32)) .answer
  modify (fun s => ({ s with nextId := s.nextId + 1 } : State).modCluster (clusterOf s.core)
    (fun x => { x with catq := x.catq ++ [c] }))
  modCtx (fun x =>
    let x := if c.isUpdate then { x with updates := x.updates + 1 } else x
    if c.posted then x else x.setPend d.index .load)

/-- CDEF (R332, R333). -/
def execCdef (o : EOps) (s : State) := issueNext (.cdef o) o.h (do
  catGate
  let r ← readGReg o.h.s1
  let w ← readRecord r.toNat
  accept (.cdef o) o.h.d o.ch.toNat r 0 w) s

/-- CSWAP (R332, R340). -/
def execCswap (o : EOps) (s : State) := issueNext (.cswap o) o.h (do
  catGate
  let s ← get
  let _ ← catOf o.ch.toNat
  let b := o.w.toNat % 16
  match tfind (s.clusterAt (clusterOf s.core)).cats b with
  | some c => unlessFault (c.rcb == s.ctx.rcb) cCAT_UNDEF (some (word b))
  | none => pure ()
  accept (.cswap o) o.h.d o.ch.toNat (word b) 0 []) s

/-- CSTAT (R332, R341). -/
def execCstat (o : EOps) (s : State) := issueNext (.cstat o) o.h (do
  catGate
  let _ ← catOf o.ch.toNat
  accept (.cstat o) o.h.d o.ch.toNat 0 0 []) s

/-- The operand checks of an update (R332). -/
def updateCheck (c : Catalogue) (k v : Word) (ins : Bool) : Act Unit := do
  if c.lsh then
    unlessFault (decide (v.toNat < 2 ^ 28)) cILLEGAL_OPERAND (some v)
    unlessFault (decide (k.toNat < 2 ^ (c.k * c.l))) cILLEGAL_OPERAND (some k)
  else if ins then unlessFault (decide (v.toNat < 2 ^ 32)) cILLEGAL_OPERAND (some v)

/-- CINS and CDEL at issue. -/
def issueUpdate (i : Instr) (o : EOps) (ins : Bool) : Act Unit := do
  catGate
  let x ← getCtx
  let c ← catOf o.ch.toNat
  updateCheck c (x.rg o.h.s1.index) (x.rg o.h.s2.index) ins
  accept i o.h.d o.ch.toNat (x.rg o.h.s1.index) (x.rg o.h.s2.index) []

/-- CINS (R332, R334, R335). -/
def execCins (o : EOps) (s : State) := issueNext (.cins o) o.h (issueUpdate (.cins o) o true) s
/-- CDEL (R332, R334, R335). -/
def execCdel (o : EOps) (s : State) := issueNext (.cdel o) o.h (issueUpdate (.cdel o) o false) s

/-- Word 0 of a probe descriptor names room for MAX entries in the issuing core's SCR (R336). -/
def listOk (s : State) (list max : Nat) : Bool :=
  let base := poolAddr 1 s.core 0
  list % 4 == 0 && decide (base ≤ list) && decide (list - base < 2 ^ 34) &&
  decide (list - base + 4 * max ≤ s.here.bankCount .scr * 0x2000)

/-- CPROBE (R332, R336). -/
def execCprobe (o : EOps) (s : State) := issueNext (.cprobe o) o.h (do
  catGate
  let x ← getCtx
  let l := x.rg o.h.s2.index
  catAddress .r l.toNat 32
  catAddress .w l.toNat 32
  let list ← loadWord l.toNat
  let w3 ← loadWord (l.toNat + 24)
  let s ← get
  unlessFault (listOk s list (bits w3 15 8)) cCAT_LIST (some (word list))
  unlessFault (bits w3 31 16 == 0 && bits w3 7 4 == 0 && bits w3 15 8 != 0) cCAT_LIST (some l)
  let c ← catOf (bits w3 3 0)
  unlessFault c.lsh cCAT_MODE (some (word (bits w3 3 0)))
  accept (.cprobe o) o.h.d (bits w3 3 0) (x.rg o.h.s1.index) l [list, w3]) s

/-- CLOOK (R332, R337). -/
def execClook (o : EOps) (s : State) := issueNext (.clook o) o.h (do
  catGate
  let c ← catOf o.ch.toNat
  unlessFault (!c.lsh) cCAT_MODE (some (word o.ch.toNat))
  accept (.clook o) o.h.d o.ch.toNat (← readGReg o.h.s1) 0 []) s

/-- CREHASH (R332, R338): with S2 naming g0 it is a step. -/
def execCrehash (o : EOps) (s : State) := issueNext (.crehash o) o.h (do
  catGate
  let x ← getCtx
  let n := x.rg o.h.s1.index
  let r := x.rg o.h.s2.index
  let _ ← catOf o.ch.toNat
  unlessFault (n != 0 && decide (n.toNat ≤ 2 ^ 24)) cILLEGAL_OPERAND (some n)
  let w ← if o.h.s2.isZero then pure [] else readRecord r.toNat
  accept (.crehash o) o.h.d o.ch.toNat n r w) s

/-- CFENCE (R335). -/
def execCfence (o : EOps) (s : State) := issueNext (.cfence o) o.h (do
  acquired
  let s ← get
  waitUntil (!(s.clusterAt (clusterOf s.core)).catq.any (fun c => c.core == s.core && c.isUpdate)) .fence
  match s.ctx.catErr with
  | some (cause, n) => raiseTrap { cause := cause, tval := some (word n), clears := [.catErr] }
  | none => pure ()) s

/-! ### Application -/

/-- The list and word 3 of a probe are written, then gD (R336). A pool or page that has changed since makes it fail; a probe
counts as truncated once it has returned OVF (R341). -/
def State.answerProbe (s : State) (cl : Nat) (q : CatCmd) (c : Catalogue) (rows : List Nat) : Except Stop (CatStep × State) :=
  let list := q.words.getD 0 0
  let most := bits (q.words.getD 1 0) 15 8
  let raw := rows.length
  let cut := decide (most < raw)
  let n := min raw most
  let k := s.coreAt q.core
  let root := s.effPtroot q.rcb
  let ea := q.b.toNat + 28
  if !k.inRole 1 (gaOff list) (4 * most) then .ok (.failed cPOOL_RANGE, s)
  else if k.poolWaits 1 (gaOff list) (4 * most) true || s.walkWaits (.core q.core) root ea then .error (.wait .memory false)
  else
    let s := (rows.take n).zipIdx.foldl (fun s r => s.wrNat (list + 4 * r.2) 4 r.1) s
    let w3 := min raw 0xFFFF + natOfBool cut * 2 ^ 16 + natOfBool c.migrating.isSome * 2 ^ 17
    match locate s (.core q.core) q.mode q.core root .w ea with
    | .error (cause, _, _) => .ok (.failed cause, s)
    | .ok (p, s) =>
      if p.inReclass s then .error (.wait .memory false)
      else match s.touch ⟨q.id, q.core, q.fc⟩ q.rcb (s.ctxOf q.core q.fc).cts p 4 (fun _ => some w3) with
      | .error (.trap t) => .ok (.failed t.cause, s)
      | .error e => .error e
      | .ok (s, _, ts) =>
        .ok (.answer n (ts.getD 0), if cut then s.setCat cl q.cat { c with truncs := satAdd c.truncs 1 } else s)

/-- A probe reads its next table, and after the last one answers (R336). -/
def State.probeTable (s : State) (cl : Nat) (q : CatCmd) (c : Catalogue) : Except Stop (CatStep × State) :=
  let t := q.work.done
  if c.meetsError s cl q then .ok (.failed cMACHINE_UE, s)
  else
    let rows := q.work.rows ++ s.candidateRows cl c q.a.toNat t
    if t + 1 < c.l then .ok (.more { q.work with done := t + 1, rows := rows }, s)
    else s.answerProbe cl q c (sortedRows rows)

/-- One act of the unit on a command that has left its queue, and the state after (R332 to R342). -/
def State.applyCat (s : State) (cl : Nat) (q : CatCmd) : Except Stop (CatStep × State) :=
  let done (r : Nat × State) : Except Stop (CatStep × State) := .ok (.answer r.1 0, r.2)
  match q.i with
  | .cdef _ =>
    let (code, s) := s.define cl q.cat q.rcb q.words
    done (code, if code = 0 then s.extendTables q.rcb q.words else s)
  | i =>
    match s.ownCat cl q.rcb q.cat with
    | none => .ok (.failed cCAT_UNDEF, s)
    | some c =>
      match i with
      | .cswap _ =>
        match tfind (s.clusterAt cl).cats q.a.toNat with
        | some d => if d.rcb = q.rcb then done (s.exchange cl q.rcb q.cat q.a.toNat) else .ok (.failed cCAT_UNDEF, s)
        | none => done (s.exchange cl q.rcb q.cat q.a.toNat)
      | .cstat o =>
        let sel := bits o.w.toNat 2 0
        done (c.counter sel, if o.opt.getLsbD 0 then s.setCat cl q.cat (c.clear sel) else s)
      | .cins _ => .ok (s.updateTable cl c q true)
      | .cdel _ => .ok (s.updateTable cl c q false)
      | .cprobe _ => if c.lsh then s.probeTable cl q c else .ok (.failed cCAT_MODE, s)
      | .clook _ =>
        if c.lsh then .ok (.failed cCAT_MODE, s)
        else if c.meetsError s cl q then .ok (.failed cMACHINE_UE, s)
        else done (s.lookKey cl c q.a.toNat, s)
      | .crehash o => .ok (s.rehash cl q c (if o.h.s2.isZero then none else some q.words))
      | _ => done (0, s)

/-- Command n leaves a cluster's queue, and comes back to its place. -/
def State.takeCat (s : State) (cl n : Nat) : State := s.modCluster cl (fun x => { x with catq := x.catq.eraseIdx n })
def State.returnCat (s : State) (cl n : Nat) (q : CatCmd) : State :=
  s.modCluster cl (fun x => { x with catq := x.catq.insertIdx n q })

/-- The unit may act on command n (R334, R336, R338, R340, R342): the commands of one core follow one another; those of
several begin in the order of their arrival, and another's act may fall between the tables of one. A CDEF acts when all
before it are complete, and a migration by one command at a time. -/
def Cluster.canApply (x : Cluster) (n : Nat) : Bool :=
  match x.catq[n]? with
  | none => false
  | some q => (x.catq.take n).all (fun e => e.core != q.core && e.work.done != 0 && (match q.i, e.i with
    | .cdef _, _ => false
    | .crehash _, .crehash _ => e.cat != q.cat
    | _, _ => true))

/-- The commands the unit may act on, posted ones or the others. -/
def Cluster.applicable (x : Cluster) (posted : Bool) : List Nat :=
  (List.range x.catq.length).filter (fun n => x.canApply n && (x.catq[n]?).any (·.posted == posted))

/-- The answer of a command: gD is written while its firing lives, and a failed posted update is counted in ERRS and kept in
the context's record (R332, R335). -/
def State.answerCat (s : State) (cl : Nat) (q : CatCmd) (v ts : Nat) : State :=
  let failed := decide (2 ^ 63 ≤ v)
  if q.posted then
    let s := match s.ownCat cl q.rcb q.cat with
      | some c => if failed then s.setCat cl q.cat { c with errs := satAdd c.errs 1 } else s
      | none => s
    s.modCtxOf q.core q.fc (fun c =>
      let named := match q.i with | .cins o => o.ch.toNat | .cdel o => o.ch.toNat | _ => 0
      let c := c.updateDone
      if failed && c.catErr.isNone then { c with catErr := some (v - 2 ^ 63, named) } else c)
  else
    s.modCtxOf q.core q.fc (fun c =>
      let c := if q.isUpdate then c.updateDone else c
      if q.live then
        let c := { c with cts := max c.cts ts }
        match q.i.hd with | some h => c.wg h.d.index (word v) | none => c
      else c)

/-- One act of a cluster's Catalogue Unit on a posted update, or on another command: any that it may act on. -/
def State.catalogueAct (s : State) (cl : Nat) (posted : Bool) : State :=
  let l := (s.clusterAt cl).applicable posted
  let n := l.getD (Config.victim l.length s.fresh % l.length) 0
  match (if l.isEmpty then none else (s.clusterAt cl).catq[n]?) with
  | none => s
  | some q =>
    let s : State := { s with fresh := s.fresh + (l.length - 1) }
    match (s.takeCat cl n).applyCat cl q with
    | .error _ => s
    | .ok (.more w, t) => t.returnCat cl n { q with work := w }
    | .ok (.answer v ts, t) => t.answerCat cl q v ts

/-- CATALOGUE_UPDATE_APPLY: a posted update is applied (R335). -/
def execCatalogueUpdateApply (cluster : Nat) (s : State) : Host.Outcome State Fault Refusal :=
  .next (s.catalogueAct cluster true)

/-- CATALOGUE_COMMAND_ANSWER: a command is applied and gD written (R332). -/
def execCatalogueCommandAnswer (cluster : Nat) (s : State) : Host.Outcome State Fault Refusal :=
  .next (s.catalogueAct cluster false)

end Sys2Proof.Machine
end

