-- ==== Sys2Proof/Machine/Events.lean ====
section
/-! DEFINITION. Acts of a core's own machinery: fetching, trap entry, the scheduler, port forwarding, loop passes, pool
rechecks, retention and the clock CTS (R45, R63, R78, R116, R124, R125, R260, R274, R356). -/

namespace Sys2Proof.Machine

/-- LINE_FETCH (R45, R363): the line of the context's pc arrives, some of its bits flipped. -/
def execLineFetch (core fc : Nat) (flips : BitVec 512) (s : State) : Host.Outcome State Fault Refusal :=
  let t := s.at core fc
  .next (if t.ctx.needsLine && !t.ctx.refetch && !(s.pkgAt (corePkg core)).off then t.fetchLine flips else s)

/-- LINE_REFETCH (R45): a line whose parity failed is fetched once more. -/
def execLineRefetch (core fc : Nat) (flips : BitVec 512) (s : State) : Host.Outcome State Fault Refusal :=
  let t := s.at core fc
  .next (if t.ctx.needsLine && t.ctx.refetch && !(s.pkgAt (corePkg core)).off then t.fetchLine flips else s)

/-- TRAP_ENTRY (R260). -/
def execTrapEntry (core fc : Nat) (s : State) : Host.Outcome State Fault Refusal :=
  .next (if (s.ctxOf core fc).trapReady then s.enterTrap core (fc % 4) else s)

/-- FIRING_START (R356): a firing that starts from an uncorrectable record raises its error (R386). -/
def execFiringStart (core : Nat) (s : State) : Host.Outcome State Fault Refusal :=
  .next (if s.canStart core then
      let t := s.startFiring core
      match s.freeContext core, s.startsBad core with
      | some fc, true => (t.at core fc).takeTrapA { cause := cMACHINE_UE }
      | _, _ => t
    else s)

/-- The out ring k of a bound actor and the in ring it feeds, when an entry can be forwarded: a graph actor's in ring holds
slots, which no port writes (R63, R228, R229). -/
def State.forwardable (s : State) (core slot k : Nat) : Option (Bound × Ring × Nat × Nat × Ring) :=
  match tfind (s.coreAt core).binds slot with
  | none => none
  | some b =>
    match b.outs[k]? with
    | none => none
    | some r =>
      match s.findActor b.rcb r.tact with
      | none => none
      | some (tcore, tslot, t) =>
        match t.ins[r.tport]? with
        | none => none
        | some q =>
          let src := r.base + r.head % max r.depth 1 * r.size
          let dst := q.base + (q.head + q.count) % max q.depth 1 * q.size
          if !t.isGraph && 0 < r.count && q.size == r.size && decide (q.count < q.depth) &&
              !(s.coreAt core).poolWaits 2 src r.size false && !(s.coreAt tcore).poolWaits 2 dst q.size true
          then some (b, r, tcore, tslot, q) else none

/-- PORT_FORWARD (R63): the oldest committed entry is written whole, and then counted. -/
def execPortForward (core slot port : Nat) (s : State) : Host.Outcome State Fault Refusal :=
  .next (match s.forwardable core slot port with
    | none => s
    | some (_, r, tcore, tslot, q) =>
      let src := ringEntry core r r.head
      let dst := ringEntry tcore q (q.head + q.count)
      let bad := (s.errs.filter (fun k => decide (src ≤ k) && decide (k < src + r.size))).map (· - src + dst)
      let s : State := { s with mem := Memory.copy s.mem src dst r.size, errs := errsAfter s.errs dst r.size ++ bad }
      let s := s.setBound tcore tslot (fun t => { t with
        ins := t.ins.modify (r.tport) (fun q => { q with count := q.count + 1 }) })
      let s := s.setBound core slot (fun b => { b with
        outs := b.outs.modify port (fun r => { r with head := (r.head + 1) % max r.depth 1, count := r.count - 1 }) })
      (s.refresh tcore tslot).refresh core slot)

/-- XLOOP_PASS (R78). -/
def execXloopPass (core fc : Nat) (s : State) : Host.Outcome State Fault Refusal :=
  let c := s.ctxOf core fc
  .next (if c.passDue && !c.xbusy && !c.xfrozen then s.modCtxOf core fc Ctx.nextPass else s)

/-- POOL_MOVE_RECHECK (R116): a waiting POOLSET.wait is in CHECK again. -/
def execPoolMoveRecheck (core fc : Nat) (s : State) : Host.Outcome State Fault Refusal :=
  let t := s.at core fc
  match t.ctx.stall, t.ctx.current with
  | some st, some (.poolsetWait o) => if st.why == .pool then execPoolsetWait o t else .next s
  | _, _ => .next s

/-- A context is free, or waits in WFE, FUT.GET or BARW (R125). -/
def Ctx.sleeps (c : Ctx) : Bool :=
  c.firing.isNone || match c.stall with
    | some st => (match st.why with | .wfe => true | .future _ => true | .barrier => st.point | _ => false)
    | none => false

/-- Every context is free or waits as R125 lists, every sequencer is empty, and no pool move is under way. -/
def Core.quiet (c : Core) : Bool := c.ctx.toList.all (fun x => x.sleeps && x.xseq.isEmpty) && c.move.isNone

/-- The cycle from which a core has been quiet. -/
def Core.quietFrom (c : Core) : Nat :=
  c.ctx.toList.foldl (fun t x => match x.firing, x.stall with | some _, some st => max t st.since | _, _ => t) c.quietSince

/-- The core enters its depth now (R125). -/
def State.canSleep (s : State) (core : Nat) : Bool :=
  let c := s.coreAt core
  c.cur == 0 && c.depth != 0 && c.quiet && decide (c.quietFrom + c.idleLimit.toNat ≤ s.now)

/-- CORE_RETENTION_ENTRY (R124, R125): depth 3 writes back and invalidates CCH. -/
def execCoreRetentionEntry (core : Nat) (s : State) : Host.Outcome State Fault Refusal :=
  .next (if s.canSleep core then
      let s := if (s.coreAt core).depth == 3 then s.flushAll core else s
      s.modCore core (fun c => { c with cur := c.depth })
    else s)

/-- Something may wake a core: a firing that waits, one that can start, or a pre-emption (R125; log entry 44). -/
def State.canWake (s : State) (core : Nat) : Bool :=
  let c := s.coreAt core
  c.cur != 0 && (c.ctx.toList.any (fun x => x.firing.isSome) || s.canStart core)

/-- CORE_WAKE (R125). -/
def execCoreWake (core : Nat) (s : State) : Host.Outcome State Fault Refusal :=
  .next (if s.canWake core then s.modCore core (fun c => { c with cur := 0, quietSince := s.now }) else s)

/-- LADV cycles have passed since the last advance (R274, R281). -/
def State.ctsDue (s : State) (core : Nat) : Bool :=
  let c := s.coreAt core
  decide (c.ctsAt + max 1 c.ladv.toNat ≤ s.now)

/-- CTS_ADVANCE (R274). -/
def execCtsAdvance (core : Nat) (s : State) : Host.Outcome State Fault Refusal :=
  .next (if s.ctsDue core then s.modCore core (fun c => { c with
      ctsAt := c.ctsAt + max 1 c.ladv.toNat, ctx := c.ctx.map (fun x => { x with cts := x.cts + 1 }) })
    else s)

end Sys2Proof.Machine
end

