-- ==== Sys2Proof/Machine/SysReg.lean ====
section
/-! DEFINITION. Window bases and the system registers (R102, R108, R109, R121 to R124, R142, R150, R152, R154, R199, R215,
R245, R255, R257, R281, R325, R327, R355, R373, R387, R394, R396, R399). -/

namespace Sys2Proof.Machine

/-- WIN.SET (R9, R121): the window's words leave the constant cache. -/
def execWinSet (o : AOps) (s : State) := issueNext (.winSet o) o.h (do
  let b ← readGReg o.h.s1
  let n := o.ext.toNat % 8
  unlessFault (n != 7 && b.toNat % 8 == 0 && bits b.toNat 63 56 == 0) cILLEGAL_OPERAND
  modCtx (fun c => { c with
    win := c.win.set (n % 7) b (Nat.mod_lt _ (by decide)),
    constCache := c.constCache.filter (fun w => w.1 / 2 ^ 17 != n) })) s

/-! ### Event counters -/

/-- The source whose events no rule describes: no rule gives a transfer's flits or its route over the mesh. -/
def freeSource (quad : Bool) (src : Nat) : Bool := quad && src == 0x105

/-- COUNT as an SRD reads it: a count of cycles goes on, and a source no rule fixes has a free value (R387). -/
def Counter.read (e : Counter) (quad : Bool) (now : Nat) (free : Word) : Word :=
  if !e.en then e.count
  else if !quad && e.src == 0 then e.count + word (now - e.since)
  else if freeSource quad e.src.toNat then free
  else e.count

/-- An SWR of EVSEL: the count so far stays (R387). -/
def Counter.select (e : Counter) (quad : Bool) (now : Nat) (free x : Word) : Counter :=
  { en := bit x.toNat 63, src := x.setWidth 16, count := e.read quad now free, since := now }

/-- An SWR of EVCNT. -/
def Counter.load (e : Counter) (now : Nat) (x : Word) : Counter := { e with count := x, since := now }

def Core.counter (c : Core) (k : Nat) : Counter := c.ev[k % 8]'(Nat.mod_lt _ (by decide))
def Core.setCounter (c : Core) (k : Nat) (e : Counter) : Core :=
  { c with ev := c.ev.set (k % 8) e (Nat.mod_lt _ (by decide)) }
def Quad.counter (q : Quad) (k : Nat) : Counter := q.ev[k % 16]'(Nat.mod_lt _ (by decide))
def Quad.setCounter (q : Quad) (k : Nat) (e : Counter) : Quad :=
  { q with ev := q.ev.set (k % 16) e (Nat.mod_lt _ (by decide)) }

/-! ### Reading -/

def LinkState.code : LinkState → Nat
  | .disabled => 0 | .an => 1 | .train => 2 | .align => 3 | .assoc => 4 | .up => 5 | .failed => 6

def Package.port (p : Package) (n : Nat) : Port := p.ports[n % 32]'(Nat.mod_lt _ (by decide))
def Package.setPort (p : Package) (n : Nat) (x : Port) : Package :=
  { p with ports := p.ports.set (n % 32) x (Nat.mod_lt _ (by decide)) }

/-- LINKSTn (R394). -/
def Port.status (p : Port) : Nat := p.flaps * 2 ^ 32 + p.lanes * 2 ^ 12 + p.cause * 2 ^ 8 + p.st.code

/-- HFCFGn (R327). -/
def Family.config (f : Family) : Nat :=
  natOfBool f.valid * 2 ^ 25 + natOfBool f.exact * 2 ^ 24 + f.k * 2 ^ 19 + f.lm1 * 2 ^ 16 + f.b * 2 ^ 11

def Cluster.fam (c : Cluster) (n : Nat) : Family := c.fams[n % 16]'(Nat.mod_lt _ (by decide))

/-- The value of a trap register of the context (R257). -/
def Ctx.trapRegister (c : Ctx) (n : Nat) : Word :=
  match n with
  | 0x030 => c.tcause.setWidth 64
  | 0x031 => c.tpc
  | 0x032 => c.tval
  | 0x033 => c.tval2
  | 0x034 => word (natOfBool c.tregn * 16 + natOfBool c.tskip * 8 + natOfBool c.tsw * 4 + c.torigin.toNat)
  | 0x035 => c.tnext
  | _ => c.tscratch

/-- A system register's value, its reserved bits zero (R123). -/
def State.sysValue (s : State) (n : Nat) (free : Word) : Word :=
  let c := s.here
  let x := s.ctx
  let cl := s.clusterAt (clusterOf s.core)
  let q := s.quadAt (quadOf s.core)
  let p := s.pkgAt (corePkg s.core)
  if n = 0x010 then word c.poolocc
  else if n = 0x011 then word c.scrhwm
  else if n = 0x012 then word c.vwv.value
  else if n = 0x013 then word c.vwt.value
  else if n = 0x014 then word c.vwz.value
  else if n = 0x015 then word (c.cur.toNat * 2 ^ 18 + c.idleLimit.toNat * 2 ^ 8 + c.depth.toNat)
  else if n = 0x016 then x.fflags.setWidth 64
  else if n = 0x017 then c.zflags
  else if n = 0x018 then x.rngstr
  else if n = 0x019 then x.rngctr
  else if n = 0x01A then word (natOfBool x.vsat)
  else if n = 0x01B then c.sclbase.setWidth 64
  else if n = 0x01C then c.cveps.setWidth 64
  else if n = 0x01D then c.cvmax.setWidth 64
  else if n = 0x01E then c.cvcnt.setWidth 64
  else if n = 0x01F then word (c.epoch * 2 ^ 41 + c.infl * 2 ^ 32 + s.age c)
  else if n = 0x020 then c.qwin.setWidth 64
  else if n = 0x036 then word (natOfBool c.tvecEn * 2 ^ 63 + c.tvecPc.toNat)
  else if n = 0x038 then x.evlatch.setWidth 64
  else if 0x030 ≤ n ∧ n ≤ 0x037 then x.trapRegister n
  else if n = 0x040 then word (natOfBool c.repen * 2 ^ 32 + c.ladv.toNat * 2 ^ 16 + c.lease.toNat)
  else if n = 0x041 then word x.cts
  else if n = 0x042 then word cl.catsp
  else if n = 0x050 then word (natOfBool c.steal * 2 ^ 32 + c.agelim.toNat)
  else if n = 0x051 then word (c.maxsh.toNat * 2 ^ 32 + c.grain.toNat)
  else if 0x060 ≤ n ∧ n ≤ 0x06F then word (cl.fam (n - 0x060)).config
  else if 0x080 ≤ n ∧ n ≤ 0x0FF then
    (cl.fam ((n - 0x080) / 8)).seeds[(n - 0x080) % 8]'(Nat.mod_lt _ (by decide))
  else if 0x100 ≤ n ∧ n ≤ 0x107 then
    let e := c.counter (n - 0x100); word (natOfBool e.en * 2 ^ 63 + e.src.toNat)
  else if 0x108 ≤ n ∧ n ≤ 0x10F then (c.counter (n - 0x108)).read false s.now free
  else if 0x110 ≤ n ∧ n ≤ 0x11F then
    let e := q.counter (n - 0x110); word (natOfBool e.en * 2 ^ 63 + e.src.toNat)
  else if 0x120 ≤ n ∧ n ≤ 0x12F then (q.counter (n - 0x120)).read true s.now free
  else if n = 0x130 then word (c.round.toNat * 2 ^ 32 + c.cnt.toNat)
  else if 0x140 ≤ n ∧ n ≤ 0x15F then word (p.port (n - 0x140)).status
  else if 0x160 ≤ n ∧ n ≤ 0x17F then word (natOfBool (p.port (n - 0x160)).en)
  else if n = 0x180 then p.tmo.setWidth 64
  else p.pkgid.setWidth 64

/-- A register whose fields are "—" in U mode (R257). -/
def sysDenied (mode : Mode) (n : Nat) : Bool :=
  mode == .u && (decide (0x030 ≤ n ∧ n ≤ 0x035) || n == 0x037)

/-- A register SRD and SWR reach only when the context's earlier X entries are complete (R154, R199). -/
def afterEntries (n : Nat) : Bool := n == 0x016 || n == 0x018 || n == 0x019 || n == 0x01A

/-- Every X entry the context dispatched earlier has completed. -/
def entriesDone : Act Unit := do
  let c ← getCtx
  waitUntil (c.xseq.isEmpty && !c.xbusy) .sequencer c.xStalled

/-- SRD (R123, R154). -/
def execSrd (o : AOps) (s : State) := issueNext (.srd o) o.h (do
  let n := o.h.s1.index
  let c ← getCtx
  unlessFault (!sysDenied c.mode n) cSYSREG_ACCESS (some (word n))
  if afterEntries n || n == 0x017 then entriesDone
  let w ← freeWord
  writeD o.h.d ((← get).sysValue n w)) s

/-! ### Writing -/

/-- A port comes to a state (R393, R394); FLAPS counts the exits from UP. -/
def Port.goTo (p : Port) (st : LinkState) (lanes now : Nat) : Port :=
  { p with
    st := st, lanes := lanes, since := now,
    flaps := if p.st == .up && st != .up then min (p.flaps + 1) 0xFFFF else p.flaps }

/-- A port with EN = 0 comes to DISABLED (R393). -/
def Port.disable (p : Port) (now : Nat) : Port := { p.goTo .disabled 0 now with cause := 8 }

/-- A write of LINKCTLn (R393, R394). A port that was still to be disabled is so before EN is 1 again: no EN := 0 is
lost. -/
def Port.control (p : Port) (now : Nat) (x : Word) : Port :=
  let p := if bit x.toNat 0 && !p.en && p.st != .disabled then p.disable now else p
  let p := if !bit x.toNat 0 && p.st == .disabled then { p with cause := 8 } else p
  { p with en := bit x.toNat 0, retrain := p.retrain || bit x.toNat 1 }

/-- The writable fields of a package register (R394, R399). -/
def Package.sysWrite (p : Package) (now n : Nat) (x : Word) : Package :=
  if n = 0x180 then { p with tmo := x.setWidth 32 }
  else if 0x160 ≤ n ∧ n ≤ 0x17F then
    let k := n - 0x160
    p.setPort k ((p.port k).control now x)
  else p

/-- The writable fields of a core register in S mode. -/
def Core.sysWrite (c : Core) (now n : Nat) (free x : Word) : Core :=
  let v := x.toNat
  if n = 0x011 then { c with scrhwm := bits v 19 0 }
  else if n = 0x015 then { c with idleLimit := x.extractLsb' 8 10, depth := x.setWidth 2 }
  else if n = 0x017 then { c with zflags := x }
  else if n = 0x01C then { c with cveps := x.setWidth 32 }
  else if n = 0x01D then { c with cvmax := x.setWidth 32 }
  else if n = 0x01E then { c with cvcnt := x.setWidth 32 }
  else if n = 0x020 then { c with qwin := x.setWidth 32 }
  else if n = 0x036 then { c with tvecEn := bit v 63, tvecPc := word (bits v 55 6 * 2 ^ 6 + bits v 2 0) }
  else if n = 0x040 then { c with repen := bit v 32, ladv := x.extractLsb' 16 16, lease := x.setWidth 16 }
  else if n = 0x050 then { c with steal := bit v 32, agelim := x.setWidth 32 }
  else if n = 0x051 then { c with maxsh := x.extractLsb' 32 16, grain := x.setWidth 32 }
  else if 0x100 ≤ n ∧ n ≤ 0x107 then
    c.setCounter (n - 0x100) ((c.counter (n - 0x100)).select false now free x)
  else if 0x108 ≤ n ∧ n ≤ 0x10F then c.setCounter (n - 0x108) ((c.counter (n - 0x108)).load now x)
  else c

/-- The writable fields of a quad register in S mode. -/
def Quad.sysWrite (q : Quad) (now n : Nat) (free x : Word) : Quad :=
  if 0x110 ≤ n ∧ n ≤ 0x11F then
    q.setCounter (n - 0x110) ((q.counter (n - 0x110)).select true now free x)
  else if 0x120 ≤ n ∧ n ≤ 0x12F then q.setCounter (n - 0x120) ((q.counter (n - 0x120)).load now x)
  else q

/-- The writable fields of a context register that has no row of its own, in S mode (R255, R257). -/
def Ctx.sysWrite (c : Ctx) (n : Nat) (x : Word) : Ctx :=
  if n = 0x034 then { c with tregn := bit x.toNat 4, tskip := bit x.toNat 3 }
  else if n = 0x037 then { c with tscratch := x }
  else if n = 0x038 then { c with evlatch := x.setWidth 32 }
  else c

/-- SWR of a register that has no row of its own (R123). None of them is writable in U mode. -/
def execSwr (o : AOps) (s : State) := issueNext (.swr o) o.h (do
  let n := o.h.d.index
  let c ← getCtx
  unlessFault (!sysDenied c.mode n) cSYSREG_ACCESS (some (word n))
  let x ← o.src o.h.s1
  if c.mode == .u then pure ()
  else
    let w ← freeWord
    modify (fun s =>
      ((s.modCtx (·.sysWrite n x)).modHere (·.sysWrite s.now n w x)).modQuad (quadOf s.core) (·.sysWrite s.now n w x)
        |>.modPkg (corePkg s.core) (·.sysWrite s.now n x))) s

/-- An entry that reads scale memory (R214, R220). -/
def XEntry.readsScales (e : XEntry) : Bool :=
  e.live && match e.i with
    | .mma o => o.fmt1 == .m4
    | .mmaS o => o.fmt1 == .m4
    | .mscale o => !o.opt.getLsbD 0
    | _ => false

/-- A dispatched entry of a core has still to read scale memory: in a pass of an XLOOP that has not started (R78, R213, R214);
every other has read it at its dispatch. -/
def Core.scaleReaders (c : Core) : Bool :=
  c.ctx.toList.any (fun x => x.xseq.any (fun e => match e with
    | .loop l => l.body.zipIdx.any (fun b => b.1.readsScales && (decide (l.pass + 1 < l.count) ||
        (decide (1 ≤ l.pass) && (decide (l.idx < b.2) || (l.idx == b.2 && !x.xbusy)))))
    | .entry _ => false))

/-- SWR of SCLBASE (R123, R215). -/
def execSclbaseWrite (o : AOps) (s : State) := issueNext (.sclbaseWrite o) o.h (do
  let x ← o.src o.h.s1
  waitUntil (!(← getCore).scaleReaders) .sequencer
  modCore (fun c => { c with sclbase := x.setWidth 6 })) s

/-- SWR of FFLAGS, VSAT, RNGSTR or RNGCTR (R154, R199). -/
def execFlagRegisterWrite (o : AOps) (s : State) := issueNext (.flagRegisterWrite o) o.h (do
  let n := o.h.d.index
  let x ← o.src o.h.s1
  entriesDone
  modCtx (fun c =>
    if n = 0x016 then { c with fflags := x.setWidth 5 }
    else if n = 0x018 then { c with rngstr := x }
    else if n = 0x019 then { c with rngctr := x }
    else { c with vsat := bit x.toNat 0 })) s

/-- SWR of VWV, VWT or VWZ in S mode, with the checks of VIEW.SET; an illegal SHAPE, COUNT or BASE raises ILLEGAL_OP.
In U mode the fields are read-only (R102, R103, R123). -/
def execViewRegisterWrite (o : AOps) (s : State) := issueNext (.viewRegisterWrite o) o.h (do
  let which := o.h.d.index - 0x012
  let x ← o.src o.h.s1
  let c ← getCtx
  let v : View := ⟨bits x.toNat 13 0, bits x.toNat 24 16, bits x.toNat 31 28⟩
  if c.mode == .u then pure ()
  else if v.count ≠ 0 && !viewLegal which v.shape v.count v.base then
    let w := match c.line with | some l => l.slot (pcSlot c.pc) | none => 0
    throw (.trap { cause := cILLEGAL_OP, tval := some (w.extractLsb' 32 64),
                   tval2 := some ((w.extractLsb' 0 32).setWidth 64) })
  else
    changeView which v
    if v.count = 0 then modCore (fun c => c.setView which v)) s

end Sys2Proof.Machine
end

