-- ==== Sys2Proof/Machine/Fabric.lean ====
section
/-! DEFINITION. The package and its fabric: power-up, soft errors, links, packets, hosts and firmware records (R370, R384 to
R386, R390 to R405, R409). -/

namespace Sys2Proof.Machine

/-! ### Links -/

def State.port (s : State) (pkg n : Nat) : Port := (s.pkgAt pkg).port n
def State.setPortOf (s : State) (pkg n : Nat) (x : Port) : State := s.modPkg pkg (·.setPort n x)
/-- A port fails with a cause. -/
def Port.fail (p : Port) (cause lanes now : Nat) : Port := { p.goTo .failed lanes now with cause := cause }

/-- A row of R393's table acts on a port in state `st` that LINKCTL does not stop. -/
def State.linkRow (s : State) (pkg n : Nat) (st : LinkState) (when' : Nat → Bool) (f : Port → Port) : State :=
  let p := s.port pkg n
  if s.pkgRuns pkg && p.st == st && p.en && !p.retrain && when' (s.now - p.since) then s.setPortOf pkg n (f p) else s

/-- Cycles of 800 MHz in 10 ms, 100 ms, 500 ms and 1 s (R7, R393). -/
def ms10 : Nat := 8000000
def ms100 : Nat := 80000000
def ms500 : Nat := 400000000
def ms1000 : Nat := 800000000

/-- Lanes with lock after a loss: no rule says which. -/
def State.freeLanes (s : State) : Nat × State := let (w, s) := s.takeFresh; (w.toNat % 16, s)

/-- LINK_ENABLE (R393): DISABLED with EN = 1. -/
def execLinkEnable (pkg port : Nat) (s : State) : Host.Outcome State Fault Refusal :=
  .next (s.linkRow pkg port .disabled (fun _ => true) (·.goTo .an 0 s.now))

/-- LINK_DISABLE (R393). -/
def execLinkDisable (pkg port : Nat) (s : State) : Host.Outcome State Fault Refusal :=
  let p := s.port pkg port
  .next (if s.pkgRuns pkg && !p.en && p.st != .disabled then
    s.setPortOf pkg port (p.disable s.now) else s)

/-- LINK_RETRAIN (R393, R394): it restarts bring-up of any port but a DISABLED one. -/
def execLinkRetrain (pkg port : Nat) (s : State) : Host.Outcome State Fault Refusal :=
  let p := s.port pkg port
  .next (if s.pkgRuns pkg && p.retrain then
    s.setPortOf pkg port { (if p.st == .disabled then p else p.goTo .an 0 s.now) with retrain := false } else s)

/-- LINK_AN_RESOLVED (R393). -/
def execLinkAnResolved (pkg port : Nat) (s : State) : Host.Outcome State Fault Refusal :=
  .next (s.linkRow pkg port .an (fun t => decide (t ≤ ms500)) (·.goTo .train 0 s.now))

/-- LINK_AN_TIMEOUT (R393): no partner, or one with no common mode. -/
def execLinkAnTimeout (pkg port : Nat) (s : State) : Host.Outcome State Fault Refusal :=
  let common := Config.choice s.fresh
  .next (({ s with fresh := s.fresh + 1 } : State).linkRow pkg port .an (fun t => decide (ms500 ≤ t))
    (·.fail (if common then 2 else 1) 0 s.now))

/-- LINK_TRAIN_DONE (R393). -/
def execLinkTrainDone (pkg port : Nat) (s : State) : Host.Outcome State Fault Refusal :=
  .next (s.linkRow pkg port .train (fun t => decide (t ≤ ms500)) (·.goTo .align 0 s.now))

/-- LINK_TRAIN_TIMEOUT (R393). -/
def execLinkTrainTimeout (pkg port : Nat) (s : State) : Host.Outcome State Fault Refusal :=
  .next (s.linkRow pkg port .train (fun t => decide (ms500 ≤ t)) (·.fail 3 0 s.now))

/-- LINK_LOCK (R393): all four lanes have lock. -/
def execLinkLock (pkg port : Nat) (s : State) : Host.Outcome State Fault Refusal :=
  .next (s.linkRow pkg port .align (fun t => decide (t ≤ ms10)) (·.goTo .assoc 15 s.now))

/-- LINK_LOCK_TIMEOUT (R393). -/
def execLinkLockTimeout (pkg port : Nat) (s : State) : Host.Outcome State Fault Refusal :=
  let (lanes, s) := s.freeLanes
  .next (s.linkRow pkg port .align (fun t => decide (ms10 ≤ t)) (·.fail 4 lanes s.now))

/-- LINK_ASSOC_DONE (R393). -/
def execLinkAssocDone (pkg port : Nat) (s : State) : Host.Outcome State Fault Refusal :=
  .next (s.linkRow pkg port .assoc (fun t => decide (t ≤ ms100)) (·.goTo .up 15 s.now))

/-- LINK_ASSOC_REFUSED (R393). -/
def execLinkAssocRefused (pkg port : Nat) (s : State) : Host.Outcome State Fault Refusal :=
  let (lanes, s) := s.freeLanes
  .next (s.linkRow pkg port .assoc (fun t => decide (t ≤ ms100)) (·.fail 5 lanes s.now))

/-- LINK_ASSOC_TIMEOUT (R393). -/
def execLinkAssocTimeout (pkg port : Nat) (s : State) : Host.Outcome State Fault Refusal :=
  let (lanes, s) := s.freeLanes
  .next (s.linkRow pkg port .assoc (fun t => decide (ms100 ≤ t)) (·.fail 6 lanes s.now))

/-- LINK_FAIL (R393): an UP port loses lock or passes the error rate. -/
def execLinkFail (pkg port : Nat) (s : State) : Host.Outcome State Fault Refusal :=
  let (lanes, s) := s.freeLanes
  .next (s.linkRow pkg port .up (fun _ => true) (·.fail 4 lanes s.now))

/-- LINK_FAILED_RETRY (R393). -/
def execLinkFailedRetry (pkg port : Nat) (s : State) : Host.Outcome State Fault Refusal :=
  .next (s.linkRow pkg port .failed (fun t => decide (ms1000 ≤ t)) (·.goTo .an 0 s.now))

/-! ### Packets -/

/-- FABRIC_PACKET_ARRIVAL (R392, R395, R397, R398, R409): the packet has a way, and is performed once at its target or
dropped. -/
def execFabricPacketArrival (txn : Nat) (s : State) : Host.Outcome State Fault Refusal :=
  .next (s.withTxn txn (fun t =>
    if t.stage == .travelling && !t.near && s.pkgRuns (gaPkg t.ga) && s.pathOpen t.source (gaPkg t.ga) &&
      s.sourceOk (gaPkg t.ga) t.source
    then s.performAt txn t else s))

/-- FABRIC_RESEND (R392, R395): a packet not yet acknowledged is on its way again; one that was performed stays so. -/
def execFabricResend (txn : Nat) (s : State) : Host.Outcome State Fault Refusal :=
  .next (s.withTxn txn (fun t => s.setTxn txn t))

/-- The fabric limit in cycles (R399). -/
def Package.limit (p : Package) : Nat := max 1 p.tmo.toNat * 1024

/-- FABRIC_TIMEOUT (R399). -/
def execFabricTimeout (txn : Nat) (s : State) : Host.Outcome State Fault Refusal :=
  .next (s.withTxn txn (fun t =>
    let open' := match t.stage with | .failed c => c != cFABRIC_TIMEOUT | _ => true
    if !t.near && open' && decide ((s.pkgAt t.source).limit ≤ s.now - t.sent)
    then s.setTxn txn { t with stage := .failed cFABRIC_TIMEOUT } else s))

/-! ### Hosts -/

/-- The package has passed the last step of power-up: it runs, and a port is in UP (R384). -/
def State.hostOpen (s : State) (pkg : Nat) : Bool := s.pkgRuns pkg && s.portsUp pkg != 0

/-- Word 0 of an inbound entry keeps R401. -/
def entryOk (kind : Nat) (entry : List Word) : Bool :=
  let w0 := (entry.headD 0).toNat
  entry.length == 8 && bits w0 3 0 == kind && bits w0 27 24 != 0 && decide (bits w0 27 24 ≤ 7) &&
  bits w0 63 28 == 0 && bits w0 23 4 == 0

/-- The queue takes an entry of a kind from an endpoint (R384, R400, R401, R409). -/
def State.queueTakes (s : State) (pkg q kind endpoint : Nat) (entry : List Word) : Bool :=
  s.hostOpen pkg && decide (q < 16384) && s.queueOn pkg q && s.queueKind pkg q == kind &&
  bits (s.queueWord pkg q 0) 47 32 == endpoint &&
  ((endpointAddr (s.pkgAt pkg).endpoints endpoint).any (· != 0)) && entryOk kind entry

/-- HOST_QUEUE_MESSAGE (R401). -/
def execHostQueueMessage (pkg queue endpoint : Nat) (entry : List Word) (s : State) : Host.Outcome State Fault Refusal :=
  .next (if s.queueTakes pkg queue 0 endpoint entry then
      match mailboxName (s.queueWord pkg queue 1) with
      | some (k, m) =>
        let n := bits (entry.headD 0).toNat 27 24
        let w0 := pkg * 2 ^ 52 + 0x3FFF * 2 ^ 34 + n * 2 ^ 24 + m
        (s.deliver k m (messageEntry w0 ((entry.drop 1).take n)) none).2
      | none => s
    else s)

/-- HOST_QUEUE_LAUNCH (R401): the launch goes to the firmware as LAUNCH's does. -/
def execHostQueueLaunch (pkg queue endpoint : Nat) (entry : List Word) (s : State) : Host.Outcome State Fault Refusal :=
  .next (if s.queueTakes pkg queue 1 endpoint entry then
      let l : Launch := {
        rcb := s.queueWord pkg queue 1, core := none, cluster := pkg * 96, host := some (queue, entry.getD 2 0),
        gl := (entry.getD 1 0).toNat, since := s.now }
      { s with nextId := s.nextId + 1 }.modPkg pkg (fun (p : Package) =>
        { p with launches := Sys2Proof.Machine.tset p.launches s.nextId l })
    else s)

/-- An endpoint table's payload keeps R409. -/
def endpointsOk (t : List Byte) : Bool :=
  let n := t.length / 32
  let addrs := ((List.range n).map (endpointAddr t)).filter (fun a => a.any (· != 0))
  t.length % 32 == 0 && decide (n ≤ 65536) && addrs.dedup.length == addrs.length &&
  (List.range n).all (fun e => ((t.drop (32 * e + 16)).take 16).all (· == 0))

/-- The format of a firmware record of n bytes (R405, R409). -/
def recordFormat (r : List Byte) : Bool :=
  let w (k : Nat) := (byteWord r k).toNat
  let len := bits (w 0) 63 32
  let target := bits (w 0) 15 0
  r.length == len + 160 && bits (w 0) 31 16 == 1 && decide (1 ≤ target) && decide (target ≤ 4) &&
  (List.range 6).all (fun k => w (2 + k) == 0) && (target != 4 || endpointsOk ((r.drop 64).take len))

/-- A record's signature is that of the Delweyr firmware key over its header and payload (R405). -/
def recordSigned (r : List Byte) : Bool :=
  let n := 64 + bits (byteWord r 0).toNat 63 32
  Ecdsa.verifies (Ecdsa.ofScalar (Ecdsa.privateKey Config.firmwareKey)) (r.take n) (r.drop n)

/-- Verify a record and write it to flash (R405): the code and the state after. Whether the write fails is free. -/
def State.takeRecord (s : State) (pkg : Nat) (r : List Byte) : Nat × State :=
  let len := bits (byteWord r 0).toNat 63 32
  let target := bits (byteWord r 0).toNat 15 0
  let svn := (byteWord r 1).toNat
  let held := match tfind (s.pkgAt pkg).flash target with | some f => f.svn | none => 0
  if !recordFormat r then (1, s)
  else if !recordSigned r then (2, s)
  else if svn < held then (3, s)
  else if Config.choice s.fresh then (4, { s with fresh := s.fresh + 1 })
  else (0, ({ s with fresh := s.fresh + 1 } : State).modPkg pkg (fun p => { p with
    flash := Sys2Proof.Machine.tset p.flash target ⟨svn, (r.drop 64).take len, r⟩ }))

/-- HOST_QUEUE_FIRMWARE (R401, R405). -/
def execHostQueueFirmware (pkg queue endpoint : Nat) (entry : List Word) (s : State) : Host.Outcome State Fault Refusal :=
  .next (if s.queueTakes pkg queue 2 endpoint entry then
      let ga := entry.getD 1 0
      let (code, s) := s.takeRecord pkg (s.peekBytes ga.toNat (entry.getD 2 0).toNat)
      s.postResult pkg queue ga (word code)
    else s)

/-- A unit may write these bytes now: no claim, held line or landing grant on any of their lines. -/
def State.linesFree (s : State) (ga n : Nat) : Bool :=
  (List.range (n / 64 + 2)).all (fun k => decide (lineOf ga + 64 * k ≥ ga + n) || s.cellFree (lineOf ga + 64 * k))

/-- Write bytes at a global address line by line, each line's part by `put`. -/
def State.pokeData (put : State → Nat → Nat → Nat → State) (s : State) (ga : Nat) : Nat → List Byte → State
  | 0, _ => s
  | _, [] => s
  | fuel + 1, data =>
    let n := 64 - ga % 64
    (put s ga (data.take n).length (natOfBytes (data.take n))).pokeData put (ga + n) fuel (data.drop n)

/-- OUTBOUND_APPEND (R402): when the ring has room, the oldest entry is written and then TAIL. -/
def execOutboundAppend (pkg queue : Nat) (s : State) : Host.Outcome State Fault Refusal :=
  .next (match tget [] (s.pkgAt pkg).outq queue with
    | [] => s
    | h :: rest =>
      let base := s.queueWord pkg queue 2
      let depth := bits (s.queueWord pkg queue 0) 7 0
      let tail := s.peek base 8
      let head := s.peek (base + 8) 8
      let slot := base + 64 * (tail % max depth 1 + 1)
      if !s.pkgRuns pkg || (tail + 2 ^ 64 - head) % 2 ^ 32 = depth || !s.linesFree base 8 || !s.linesFree slot 64 then s
      else
        let s := s.pokeData State.poke slot 2 (h.entry.flatMap (fun w => bytesOf 8 w.toNat))
        let s := s.poke base 8 ((tail + 1) % 2 ^ 64)
        let s := s.modPkg pkg (fun p => { p with outq := Sys2Proof.Machine.tset p.outq queue rest })
        match h.txn with
        | some id => match tfind s.txns id with
          | some t => s.setTxn id { t with stage := .done }
          | none => s
        | none => s)

/-- Word k of a host window (R396, R403). -/
def State.windowWord (s : State) (pkg w k : Nat) : Nat :=
  s.rdNat (pkg * 2 ^ 52 + 6 * 2 ^ 48 + 0x800A0000 + 32 * w + 8 * k) 8

/-- Some of n bytes at an address of space 0 lie in the spill logs (R369). -/
def touchesLog (a n : Nat) : Bool := decide (0 < n) && (inSpillLog a || inSpillLog (a + n - 1))

/-- A window serves an access of an endpoint (R403), but for the spill logs (R369); `write` says which bit allows it. The zero
bits of a window, as those of a package table entry (R396), have no stated fate and are not tested (log entry 153). -/
def State.windowServes (s : State) (pkg w endpoint off n : Nat) (write : Bool) : Bool :=
  let w0 := s.windowWord pkg w 0
  s.hostOpen pkg && decide (w < 256) && bit w0 63 && bit w0 (if write then 61 else 62) && bits w0 47 32 == endpoint &&
  ((endpointAddr (s.pkgAt pkg).endpoints endpoint).any (· != 0)) && decide (off + n ≤ s.windowWord pkg w 2) &&
  !touchesLog (s.windowWord pkg w 1 + off) n

/-- HOST_WINDOW_READ (R403): the lines are read at their homes, which recall newer copies. -/
def execHostWindowRead (pkg window endpoint offset length : Nat) (s : State) : Host.Outcome State Fault Refusal :=
  let ga := s.windowWord pkg window 1 + offset
  .next (if s.windowServes pkg window endpoint offset length false && s.linesFree ga length then
      (List.range (length / 64 + 2)).foldl (fun s k =>
        if lineOf ga + 64 * k < ga + length then s.settleLine (lineOf ga + 64 * k) else s) s
    else s)

/-- HOST_WINDOW_WRITE (R403): performed at the homes, as a cross-package access is, so that copies in a CCH stay as they are
(R398). -/
def execHostWindowWrite (pkg window endpoint offset : Nat) (data : List Byte) (s : State) : Host.Outcome State Fault Refusal :=
  let ga := s.windowWord pkg window 1 + offset
  .next (if s.windowServes pkg window endpoint offset data.length true && s.linesFree ga data.length then
      s.pokeData State.pokeHome ga (data.length / 64 + 2) data
    else s)

/-! ### Power and soft errors -/

/-- The package a memory key belongs to. -/
def keyPkg (k : Nat) : Nat :=
  if k < 2 ^ 64 then k / 2 ^ 52
  else if k < 2 ^ 65 then (k - 2 ^ 64) / 2 ^ 33
  else if k < 2 ^ 67 then (k - 2 ^ 65) / 2 ^ 48 / 96
  else (k - 2 ^ 67) / 2 ^ 64 / 2 ^ 14

/-- The package an event, marker, cut-start or TLBI travels in. -/
def Flight.pkg : Flight → Nat
  | .event core _ => corePkg core
  | .cutStart core _ _ => corePkg core
  | .marker rcb _ _ _ => gaPkg rcb
  | .tlbi quad _ _ _ _ => quad / 2 ^ 12

/-- The records in flash verify again (R384, R405). -/
def Package.flashOk (p : Package) : Bool := p.flash.all (fun f => recordFormat f.2.whole && recordSigned f.2.whole)

/-- POWER_UP of a module that is not running, the next one after a shutdown or a failure among them (R384, R325, R385, R405): the
records in flash are verified again, and the images the module left the factory with,
whose state is free; on a failure the module stops and says so. Else every store of the package is zeroed, and its records
take effect. The number of the package is its key. -/
def execPowerUp (pkg : Nat) (s : State) : Host.Outcome State Fault Refusal :=
  let p := s.pkgAt pkg
  .next (if s.pkgRuns pkg then s
    else if !p.flashOk || Config.choice s.fresh then
      ({ s with fresh := s.fresh + 1 } : State).modPkg pkg (fun p => { p with off := true, firmwareFault := true })
    else
      let size := word ((Config.freeValue (s.fresh + 1)).toNat % 2 ^ 48 / 2 ^ 20 * 2 ^ 20)
      let table := match tfind p.flash 4 with | some f => f.payload | none => []
      let s : State := { s with
        fresh := s.fresh + 2,
        mem := s.mem.filter (fun c => keyPkg c.1 != pkg),
        errs := s.errs.filter (fun k => keyPkg k != pkg),
        cores := s.cores.filter (fun c => corePkg c.1 != pkg),
        quads := s.quads.filter (fun q => q.1 / 2 ^ 12 != pkg),
        clusters := s.clusters.filter (fun c => c.1 / 96 != pkg),
        txns := s.txns.filter (fun t => corePkg t.2.core != pkg),
        flights := s.flights.filter (fun f => f.2.pkg != pkg),
        ues := s.ues.filter (fun u => corePkg u.1 != pkg) }
      let s := (List.range 96).foldl (fun s k => s.modCluster (pkg * 96 + k) (fun c => { c with catsp := size.toNat })) s
      s.modPkg pkg (fun p => { Package.reset with
        on := true, pkgid := BitVec.ofNat 12 pkg, flash := p.flash, endpoints := table }))

/-- THERMAL_THROTTLE (R385): issue-free cycles on a die; it changes timing only. -/
def execThermalThrottle (pkg die : Nat) (s : State) : Host.Outcome State Fault Refusal :=
  .next (if s.pkgRuns pkg && decide (die < 16) then { s with now := s.now + Config.cycles s.tick } else s)

/-- POWER_THROTTLE (R385): issue-free cycles on a die; it changes timing only. -/
def execPowerThrottle (pkg die : Nat) (s : State) : Host.Outcome State Fault Refusal :=
  .next (if s.pkgRuns pkg && decide (die < 16) then { s with now := s.now + Config.cycles s.tick } else s)

/-- THERMAL_SHUTDOWN (R385). -/
def execThermalShutdown (pkg die : Nat) (s : State) : Host.Outcome State Fault Refusal :=
  .next (if s.pkgRuns pkg && decide (die < 16) then s.modPkg pkg (fun p => { p with off := true }) else s)

/-- The n words of 8 bytes from a key on are uncorrectable (R386). -/
def State.spoil (s : State) (key n : Nat) : State :=
  let ks := (List.range n).map (fun k => key + 8 * k)
  { s with errs := s.errs.filter (fun k => !ks.contains k) ++ ks }

/-- DRAM_CRC_RETRY (R370, R386): the retries correct the transfer of 64 bytes, or it is uncorrectable for good; which
transfer of the site, is free: of a line of space 0, or of a bucket of some catalogue, whose site no rule names (R325,
R332). -/
def execDramCrcRetry (pkg site : Nat) (s : State) : Host.Outcome State Fault Refusal :=
  let survives := Config.choice s.fresh
  let w := (Config.freeValue (s.fresh + 1)).toNat
  let a := w % 2 ^ 42 / 64 * 64
  let cl := pkg * 96 + w / 2 ^ 48 % 96
  let bucket := catalogueKey cl (w % max 64 (s.clusterAt cl).catsp / 64 * 64)
  let s' : State := { s with fresh := s.fresh + 2 }
  .next (if !(s.pkgRuns pkg && survives) then s'
    else if bit w 63 then s'.spoil bucket 8
    else if siteOf a == site && !inSpillLog a then s'.spoil (pkg * 2 ^ 52 + a) 8 else s')

/-- DRAM_SCRUB (R370): a row is corrected in place; no value a program can see changes. -/
def execDramScrub (pkg site : Nat) (s : State) : Host.Outcome State Fault Refusal :=
  .next (if s.pkgRuns pkg && decide (site < 32) then { s with now := s.now + Config.cycles s.tick } else s)

/-- The n-th entry of a list, counted round. -/
def nthOf {α : Type} (l : List α) (n : Nat) : Option α := l[n % max l.length 1]?

/-- A correctable or uncorrectable error in some store of a package (R386); which, and where, is free. What a core or slice
holds clean is dropped and fetched again; a corrected error is counted; an uncorrectable one waits for its consumer. -/
def State.softError (s : State) (pkg : Nat) : State :=
  let (w, s) := s.takeFresh
  let n := w.toNat / 16
  match nthOf (s.cores.filter (fun c => corePkg c.1 == pkg)) n with
  | none => s
  | some (k, c) =>
    match w.toNat % 16 with
    | 0 => s.modCore k (·.count 0x007)
    | 1 => s.modQuad (quadOf k) (·.count 0x106)
    | 2 => s.spoil (poolAddr (1 + n % 3) k (n / 4 % 0x80000 / 8 * 8)) 1
    | 3 => s.spoil (regSpaceKey k (n % 0x80000 / 8 * 8)) 1
    | 4 => match nthOf (c.lines.filter (·.dirty != 0)) n with
      | some l => s.spoil (copyKey k (l.addr + n / 64 % 8 * 8)) 1
      | none => s
    | 5 => match nthOf (c.lines.filter (fun l => l.dirty == 0 && !l.excl)) n with
      | some l => s.modCore k (·.dropLine l.addr)
      | none => s
    | 6 => s.modQuad (quadOf k) (fun q => { q with replicas := q.replicas.eraseIdx (n % max q.replicas.length 1) })
    | 7 => s.modQuad (quadOf k) (fun q => { q with homeLines := q.homeLines.eraseIdx (n % max q.homeLines.length 1) })
    | 8 => s.modQuad (quadOf k) (fun q => { q with tlb := q.tlb.eraseIdx (n % max q.tlb.length 1) })
    | 9 => s.modCore k (fun c => { c with utlb := c.utlb.eraseIdx (n % max c.utlb.length 1) })
    | 10 => s.modCore k (fun c => { c with
        deque := c.deque.modify (n % max c.deque.length 1) (fun t => { t with bad := true }) })
    | 11 => s.modCore k (fun c => { c with
        frames := c.frames.modify (n % max c.frames.length 1) (fun f => { f with bad := true }) })
    | 12 => match nthOf c.mailboxes n with
      | some (m, mb) => if mb.msgs.isEmpty || mb.taken then s
          else s.modCore k (fun c => { c with mailboxes := tset c.mailboxes m { mb with bad := true } })
      | none => s
    | 13 => match c.region with
      | some r => s.modRegion r (fun r => { r with
          entries := r.entries.modify (n % max r.entries.length 1) (fun e => { e with bad := true }) })
      | none => s
    | 14 => match nthOf (s.quadAt (quadOf k)).homeLines n with
      | some l => s.spoil (l.1 + n / 64 % 8 * 8) 1
      | none => s
    | _ => s

/-- The fault record of an error with no consumer (R262, R386): its origin, context, TPC and TVAL2 are free. -/
def State.storageRecord (s : State) (ga : Nat) : List Word × State :=
  let (a, s) := s.takeFresh
  let (tpc, s) := s.takeFresh
  let (tval2, s) := s.takeFresh
  ([word (cMACHINE_UE + a.toNat % 4 * 2 ^ 8 + a.toNat / 4 % 4 * 2 ^ 16 + 0xFFFFFF * 2 ^ 32), tpc, word ga, tval2], s)

/-- A fault record goes to the region bound on the core, and its policy acts (R354, R386). -/
def State.reportUe (s : State) (core ga : Nat) : State :=
  match (s.coreAt core).region with
  | none => s
  | some r =>
    let (record, s) := s.storageRecord ga
    let s := s.notify core 0 (s.effFmbx r) record
    if s.effPolicy r = 1 then s.kill r else s

/-- WRITEBACK_UE (R386): a dirty sector found bad at its write-back is not written; the home keeps the older data, and the
region is told. -/
def execWritebackUe (core line sector : Nat) (s : State) : Host.Outcome State Fault Refusal :=
  .next (match (s.coreAt core).findLine line with
    | none => s
    | some l =>
      if s.lives (corePkg core) && l.dirty.getLsbD (sector % 4) then
        let k := sector % 4
        let old := bits (s.homeData line).toNat (128 * k + 127) (128 * k)
        let s := s.modCore core (·.putLine { l with
          dirty := l.dirty &&& ~~~(1#4 <<< k), data := BitVec.ofNat 512 (putBits l.data.toNat (128 * k) 128 old) })
        s.reportUe core (line + 16 * k)
      else s)

/-- The oldest error found at a write-back is reported (R386), but not in a module that has shut down (R385). -/
def State.reportNext (s : State) : State :=
  match s.ues with
  | u :: us => let t : State := { s with ues := us }; if s.lives (corePkg u.1) then t.reportUe u.1 u.2 else t
  | [] => s

end Sys2Proof.Machine
end

