-- ==== Sys2Proof/Machine/Lanes.lean ====
section
/-! DEFINITION. What the X-half's vector entries share: lanes, sources, destinations, views and busy granules (R101 to
R105, R189 to R196, R217). -/

namespace Sys2Proof.Machine

/-! ### Lanes -/

/-- Lanes of a vector of w-bit elements (R189). -/
def laneCount (w : Nat) : Nat := 256 / max w 1
/-- Lane L: bits [w(L+1)−1 : wL] (R189). -/
def lane (v : V256) (w k : Nat) : Nat := bits v.toNat (w * k + w - 1) (w * k)
/-- A value of w-bit lanes, lane 0 lowest. -/
def packLanes (w : Nat) : List Nat → Nat
  | [] => 0
  | x :: xs => x % 2 ^ w + 2 ^ w * packLanes w xs
def ofLanes (w : Nat) (l : List Nat) : V256 := BitVec.ofNat 256 (packLanes w l)
/-- Every lane takes the low w bits of a scalar (R192). -/
def broadcast (w : Nat) (x : Word) : V256 := ofLanes w (List.replicate (laneCount w) (x.toNat % 2 ^ w))

/-! ### Busy granules -/

/-- The accumulator a started matrix entry holds busy (R217). -/
def heldZ (i : Instr) (h : Hd) : Option Nat :=
  match i with
  | .mma _ => some h.d.index
  | .mmaS _ => some h.d.index
  | .dmma _ => some h.d.index
  | .mscale _ => some h.d.index
  | .mzero _ => some h.d.index
  | .mflags _ => some h.d.index
  | .mdrain _ => some h.s1.index
  | .mcvt _ => some h.s1.index
  | _ => none

/-- The granules that entries of the core hold busy, as byte ranges of the register space. -/
def Core.busyBytes (c : Core) : List (Nat × Nat) :=
  c.ctx.toList.filterMap (fun x =>
    if !x.xbusy then none
    else match x.xhead with
      | some e => match e.i.hd with
        | some h => (heldZ e.i (x.passHd h)).map (fun k => (c.zOff k, 0x2000))
        | none => none
      | none => none)

/-- The tiles the context's entries hold, once for each entry that reads one. -/
def Ctx.heldTiles (c : Ctx) : List Nat := c.entries.flatMap (·.held)

/-- Wait at the head of the sequencer while a range of the register space that an entry reads or writes is busy, or
lies under a tile that is being filled or, for a write, read by others than `own` (R120, R217). -/
def waitGranules (reads writes : List (Nat × Nat)) (own : List Nat) : Act Unit := do
  let c ← getCore
  waitUntil (!(reads ++ writes).any (fun r => c.busyBytes.any (fun b => overlap r.1 r.2 b.1 b.2))) .register
  waitUntil (!reads.any (fun r => c.poolWaits 0 r.1 r.2 false) && !writes.any (fun r => c.poolWaits 0 r.1 r.2 true own)) .tile

/-- The consumer of register-space bytes meets no uncorrectable error in them (R386). -/
def soundBytes (reads : List (Nat × Nat)) : Act Unit := do
  let s ← get
  unlessFault (!reads.any (fun r => s.bad (regSpaceKey s.core r.1) r.2)) cMACHINE_UE

/-- The wait of an entry of the current context, which consumes what it reads. -/
def entryGranules (reads writes : List (Nat × Nat)) : Act Unit := do
  waitGranules reads writes (← getCtx).heldTiles
  soundBytes reads

/-! ### Views -/

/-- The v, z and t indices of fields against their views (R104): the first that is out of range. -/
def Core.outOfView (c : Core) : List Reg → Option Nat
  | [] => none
  | .v k :: rs => if c.vwv.count ≤ k.toNat then some k.toNat else c.outOfView rs
  | .z k :: rs => if c.vwz.count ≤ k.toNat then some k.toNat else c.outOfView rs
  | _ :: rs => c.outOfView rs

/-- The check of R104 at dispatch, for an entry outside an XLOOP. That of a body's entry is made when its pass runs, pass 0
included, so the tile checks of its dispatch come before (R104, R213; log entry 149). -/
def viewCheck (l : List Reg) : Act Unit := do
  if (← getCtx).bodyOpen then pure ()
  else match (← getCore).outOfView l with
    | some k => fault cVIEW_RANGE (some (word k))
    | none => pure ()

/-- The check of R104 when an XLOOP pass runs. -/
def passCheck (l : List Reg) : Act Unit := do
  let x ← getCtx
  if x.inLoop then
    match (← getCore).outOfView l with
    | some _ => fault cVIEW_RANGE (some (word x.headPass))
    | none => pure ()

end Sys2Proof.Machine

namespace Sys2Proof
open Sys2Proof.Machine

/-- The sources of a class X instruction with their gang offsets. -/
def XOps.sources (o : XOps) (h : Hd) : List (Reg × BitVec 2) := [(h.s1, o.g1), (h.s2, o.g2), (h.s3, o.g3)]
/-- The fields that name the local views: a gang source does not (R195). -/
def XOps.local (o : XOps) (h : Hd) : List Reg := h.d :: ((o.sources h).filter (fun p => p.2 == 0)).map (·.1)

end Sys2Proof

namespace Sys2Proof.Machine

/-- Core (own core + k) mod 4 of the same quad (R195). -/
def gangCore (core : Nat) (k : BitVec 2) : Nat := core / 4 * 4 + (core + k.toNat) % 4

/-- The dispatch checks of a vector entry: gang membership, and then its views (R104, R195). No rule says which cause an entry
raises that breaks both (log entry 149). -/
def vectorCheck (o : XOps) : Act Prep := do
  let s ← get
  let gang := (o.sources o.h).filter (fun p => p.2 != 0)
  unlessFault (gang.all (fun p => s.here.gang == some (s.fc % 4) && (s.coreAt (gangCore s.core p.2)).gang.isSome))
    cGANG_INACTIVE
  viewCheck (o.local o.h)
  return {}

/-- The fields of the entry in its pass, after its view check; it waits while a granule it touches is busy (R78, R104,
R217). -/
def passFields (o : XOps) : Act Hd := do
  let h := (← getCtx).passHd o.h
  passCheck (o.local h)
  let c ← getCore
  let spans (l : List Reg) := l.filterMap (fun r => match r with | .v k => some (c.vOff k.toNat, 32) | _ => none)
  waitGranules (spans (o.local h)) (spans [h.d]) (← getCtx).heldTiles
  return h

/-- A v register of this core, or of another of the quad through its own view (R195, R196); one that holds an uncorrectable
error raises it where it is read (R386). -/
def readVector (g : BitVec 2) (k : Nat) : Act V256 := do
  let s ← get
  let from' := if g = 0 then s.core else gangCore s.core g
  unlessFault (g == 0 || decide (k < (s.coreAt from').vwv.count)) cVIEW_RANGE (some (word k))
  unlessFault (!s.bad (regSpaceKey from' ((s.coreAt from').vOff k)) 32) cMACHINE_UE
  return s.readV from' k

/-- A source read as lanes of w bits (R190 to R192): queues are popped in the order of the fields. -/
def laneSource (g : BitVec 2) (r : Reg) (x : Word) (w : Nat) : Act V256 := do
  match r with
  | .v k => readVector g k.toNat
  | .q k => popX k.toNat
  | _ => return broadcast w x

/-- Write a vector destination (R190, R193). -/
def writeVector (r : Reg) (v : V256) : Act Unit := do
  match r with
  | .v k => modify (fun s => s.writeV s.core k.toNat v)
  | .q k => pushX k.toNat v
  | _ => pure ()

/-- Write a g destination when the entry completes, or on the last pass of an XLOOP (R191). -/
def writeResult (r : Reg) (v : Word) : Act Unit := do
  if (← getCtx).lastPass then writeD r v

/-- A vector entry: dispatched with its scalars, then run on its fields (R193). -/
def vector (i : Instr) (o : XOps) (run : Hd → XEntry → Act Unit) (s : State) : Host.Outcome State Fault Refusal :=
  xslot i o.h (srcW o.w true) (fun _ _ _ => vectorCheck o) (fun e => do run (← passFields o) e) s

/-- A vector entry whose lanes are computed one by one from up to three sources; f takes the lane's random bits. -/
def laneWise (i : Instr) (o : XOps) (f : Nat → Nat → Nat → Nat → Nat × Flags) (s : State) :
    Host.Outcome State Fault Refusal :=
  vector i o (fun h e => do
    let w := Fmt.width o.fmt1
    let a ← laneSource o.g1 h.s1 e.s1 w
    let b ← laneSource o.g2 h.s2 e.s2 w
    let c ← laneSource o.g3 h.s3 e.s3 w
    let n := laneCount w
    let u ← drawStep o.h.rm.toNat n w
    let r := (List.range n).map (fun k => f (u k) (lane a w k) (lane b w k) (lane c w k))
    trapRequest o.tz o.tv (r.map (·.2))
    writeVector h.d (ofLanes w (r.map (·.1)))
    raiseFlags (orFlags (r.map (·.2)))) s

/-- The same for lanes that round nothing and raise nothing. -/
def laneMap (i : Instr) (o : XOps) (f : Nat → Nat → Nat → Nat) (s : State) : Host.Outcome State Fault Refusal :=
  vector i o (fun h e => do
    let w := Fmt.width o.fmt1
    let a ← laneSource o.g1 h.s1 e.s1 w
    let b ← laneSource o.g2 h.s2 e.s2 w
    let c ← laneSource o.g3 h.s3 e.s3 w
    writeVector h.d (ofLanes w ((List.range (laneCount w)).map (fun k => f (lane a w k) (lane b w k) (lane c w k))))) s

end Sys2Proof.Machine
end

