-- ==== Sys2Proof/Machine/Vector.lean ====
section
/-! DEFINITION. The vector instructions (R189 to R209). -/

namespace Sys2Proof.Machine

/-! ### Lane arithmetic -/

def vaddLane (f : Fmt) (rm u a b _c : Nat) : Nat × Flags :=
  if f.isF then addF f rm u a b else ((a + b) % 2 ^ Fmt.width f, 0)
def vsubLane (f : Fmt) (rm u a b _c : Nat) : Nat × Flags :=
  if f.isF then subF f rm u a b else (wrapInt (Fmt.width f) ((a : Int) - b), 0)
def vmulLane (f : Fmt) (rm u a b _c : Nat) : Nat × Flags :=
  if f.isF then mulF f rm u a b else (a * b % 2 ^ Fmt.width f, 0)

/-- Whether integer lane a is below b: signed for i formats (R197). -/
def laneLess (f : Fmt) (a b : Nat) : Bool :=
  if f.isSigned then decide (sintOf (Fmt.width f) a < sintOf (Fmt.width f) b) else decide (a < b)
def vminLane (f : Fmt) (_u a b _c : Nat) : Nat × Flags :=
  if f.isF then minmaxF f false a b else (if laneLess f b a then b else a, 0)
def vmaxLane (f : Fmt) (_u a b _c : Nat) : Nat × Flags :=
  if f.isF then minmaxF f true a b else (if laneLess f a b then b else a, 0)
/-- VABS (R129, R197). -/
def vabsLane (f : Fmt) (a _b _c : Nat) : Nat :=
  let w := Fmt.width f
  if f.isF then a % 2 ^ (w - 1) else if bit a (w - 1) then (2 ^ w - a) % 2 ^ w else a
/-- VNEG (R129, R197). -/
def vnegLane (f : Fmt) (a _b _c : Nat) : Nat :=
  let w := Fmt.width f
  if f.isF then Nat.xor a (2 ^ (w - 1)) else (2 ^ w - a) % 2 ^ w

def execVadd (o : XOps) (s : State) := laneWise (.vadd o) o (vaddLane o.fmt1 o.h.rm.toNat) s
def execVsub (o : XOps) (s : State) := laneWise (.vsub o) o (vsubLane o.fmt1 o.h.rm.toNat) s
def execVmul (o : XOps) (s : State) := laneWise (.vmul o) o (vmulLane o.fmt1 o.h.rm.toNat) s
def execVmin (o : XOps) (s : State) := laneWise (.vmin o) o (vminLane o.fmt1) s
def execVmax (o : XOps) (s : State) := laneWise (.vmax o) o (vmaxLane o.fmt1) s
def execVabs (o : XOps) (s : State) := laneMap (.vabs o) o (vabsLane o.fmt1) s
def execVneg (o : XOps) (s : State) := laneMap (.vneg o) o (vnegLane o.fmt1) s
def execVfma (o : XOps) (s : State) :=
  laneWise (.vfma o) o (fun u a b c => fmaF o.fmt1 o.h.rm.toNat u false false a b c) s
def execVfms (o : XOps) (s : State) :=
  laneWise (.vfms o) o (fun u a b c => fmaF o.fmt1 o.h.rm.toNat u false true a b c) s
def execVfnma (o : XOps) (s : State) :=
  laneWise (.vfnma o) o (fun u a b c => fmaF o.fmt1 o.h.rm.toNat u true false a b c) s

/-! ### Compare, select, classify -/

/-- A condition of VCMP on two lanes (R200). -/
def vcmpLane (f : Fmt) (cond a b : Nat) : Bool × Flags :=
  let w := Fmt.width f
  if f.isF then
    let x := decodeF f a
    let y := decodeF f b
    let nan := x.isNaN || y.isNaN
    let invalid := x.isSNaN || y.isSNaN || (nan && (cond == 2 || cond == 3))
    let r := match cond with
      | 0 => !nan && eqF x y
      | 1 => nan || !eqF x y
      | 2 => !nan && ltIeee x y
      | 3 => !nan && (ltIeee x y || eqF x y)
      | _ => nan
    (r, if invalid then fNV else 0)
  else
    let r := match cond with
      | 0 => a == b
      | 1 => a != b
      | 2 => decide (sintOf w a < sintOf w b)
      | 3 => decide (sintOf w b ≤ sintOf w a)
      | 4 => decide (a < b)
      | _ => decide (b ≤ a)
    (r, 0)

/-- VCMP (R200): RM holds the condition, and nothing rounds. -/
def execVcmp (o : XOps) (s : State) := vector (.vcmp o) o (fun h e => do
  let w := Fmt.width o.fmt1
  let a ← laneSource o.g1 h.s1 e.s1 w
  let b ← laneSource o.g2 h.s2 e.s2 w
  let r := (List.range (laneCount w)).map (fun k => vcmpLane o.fmt1 o.h.rm.toNat (lane a w k) (lane b w k))
  trapRequest o.tz o.tv (r.map (·.2))
  writeVector h.d (ofLanes w (r.map (fun x => if x.1 then 2 ^ w - 1 else 0)))
  raiseFlags (orFlags (r.map (·.2)))) s

/-- VSEL (R201). -/
def execVsel (o : XOps) (s : State) :=
  laneMap (.vsel o) o (fun m a b => if bit m (Fmt.width o.fmt1 - 1) then a else b) s

/-- The class bit of a lane (R201). -/
def classOf (f : Fmt) (code : Nat) : Nat :=
  let neg := bit code (Fmt.width f - 1)
  match decodeF f code with
  | .nan s => if s then 8 else 9
  | .inf _ => if neg then 0 else 7
  | .fin _ m =>
    if m = 0 then (if neg then 3 else 4)
    else if m < pow2 (Fmt.emin f) then (if neg then 2 else 5)
    else if neg then 1 else 6
/-- VCLASS (R201): it reads floating-point lanes and raises nothing. -/
def execVclass (o : XOps) (s : State) := laneMap (.vclass o) o (fun a _ _ => 2 ^ classOf o.fmt1 a) s

/-! ### Conversion -/

/-- One element of VCVT: its code, its conditions, and whether it was clamped (R137, R202). -/
def vcvtElem (d f : Fmt) (rm u x : Nat) : Nat × Flags × Bool :=
  let wd := Fmt.width d
  let ws := Fmt.width f
  let int : Int := if f.isSigned then sintOf ws x else x
  if f.isFloat then
    if d.isFloat then let r := roundFV d rm u (decodeF f x); (r.1, r.2, false)
    else let r := toIntF d.isSigned wd rm u (decodeF f x); (r.1, r.2, false)
  else if d.isFloat then let r := roundFV d rm u (intFV int); (r.1, r.2, false)
  else if ws < wd then (wrapInt wd int, 0, false)
  else
    let hi : Int := if d.isSigned then 2 ^ (wd - 1) - 1 else 2 ^ wd - 1
    let lo : Int := if d.isSigned then -(2 ^ (wd - 1)) else 0
    if int < lo then (wrapInt wd lo, 0, true)
    else if hi < int then (wrapInt wd hi, 0, true)
    else (wrapInt wd int, 0, false)

/-- VCVT (R202). -/
def execVcvt (o : XOps) (s : State) := vector (.vcvt o) o (fun h e => do
  let wd := Fmt.width o.fmt1
  let ws := Fmt.width o.fmt2
  let n := laneCount (max wd ws)
  let part := e.s2.toNat
  unlessFault (decide (part < max wd ws / min wd ws)) cILLEGAL_OPERAND (some e.s2)
  let a ← laneSource o.g1 h.s1 e.s1 ws
  let u ← drawStep o.h.rm.toNat n wd
  let r := (List.range n).map (fun k =>
    vcvtElem o.fmt1 o.fmt2 o.h.rm.toNat (u k) (lane a ws (if ws < wd then part * n + k else k)))
  trapRequest o.tz o.tv (r.map (·.2.1))
  let lead := if wd < ws then part * n else 0
  writeVector h.d (ofLanes wd (List.replicate lead 0 ++ r.map (·.1)))
  raiseFlags (orFlags (r.map (·.2.1)))
  raiseSat (r.any (·.2.2))) s

/-! ### Reductions -/

/-- One level of the tree of R148 over (value, conditions by input lane) nodes: node i covers the lanes of its two
children. -/
def reduceLevel (f : Nat → Nat → Nat → Nat × Flags) : Nat → List (Nat × List Flags) → List (Nat × List Flags)
  | i, (a, fa) :: (b, fb) :: rest =>
    let r := f i a b
    (r.1, (fa ++ fb).map (· ||| r.2)) :: reduceLevel f (i + 1) rest
  | _, l => l

/-- The levels of the tree: each is one step of R140. -/
def reduceTree (rm w : Nat) (f : Nat → Nat → Nat → Nat × Flags) : Nat → List (Nat × List Flags) → Act (List (Nat × List Flags))
  | 0, l => pure l
  | n + 1, l => do
    if l.length ≤ 1 then return l
    let u ← drawStep rm (l.length / 2) w
    reduceTree rm w f n (reduceLevel (fun i a b => f (u i) a b) 0 l)

/-- VRSUM, VRMAX and VRMIN (R148, R203). -/
def reduction (i : Instr) (o : XOps) (f : Nat → Nat → Nat → Nat × Flags) (s : State) : Host.Outcome State Fault Refusal :=
  vector i o (fun h e => do
    let w := Fmt.width o.fmt1
    let a ← laneSource o.g1 h.s1 e.s1 w
    let n := laneCount w
    let l ← reduceTree o.h.rm.toNat w f 5 ((List.range n).map (fun k => (lane a w k, [0])))
    let (x, fl) := l.headD (0, [])
    trapRequest o.tz o.tv fl
    writeVector h.d (ofLanes w [x])
    raiseFlags (orFlags fl)) s

def execVrsum (o : XOps) (s : State) := reduction (.vrsum o) o (fun u a b => addF o.fmt1 o.h.rm.toNat u a b) s
def execVrmax (o : XOps) (s : State) := reduction (.vrmax o) o (fun _ a b => minmaxF o.fmt1 true a b) s
def execVrmin (o : XOps) (s : State) := reduction (.vrmin o) o (fun _ a b => minmaxF o.fmt1 false a b) s

/-! ### Logic and shifts -/

/-- A bitwise form over all 256 bits; a scalar is broadcast to 64-bit lanes (R204). -/
def bitwise (i : Instr) (o : XOps) (f : V256 → V256 → V256) (s : State) : Host.Outcome State Fault Refusal :=
  vector i o (fun h e => do
    let a ← laneSource o.g1 h.s1 e.s1 64
    let b ← laneSource o.g2 h.s2 e.s2 64
    writeVector h.d (f a b)) s

def execVand (o : XOps) (s : State) := bitwise (.vand o) o (fun a b => a &&& b) s
def execVor (o : XOps) (s : State) := bitwise (.vor o) o (fun a b => a ||| b) s
def execVxor (o : XOps) (s : State) := bitwise (.vxor o) o (fun a b => a ^^^ b) s
def execVandn (o : XOps) (s : State) := bitwise (.vandn o) o (fun a b => a &&& ~~~b) s

/-- A shift: the count is lane L of a vector, or a whole 64-bit scalar (R192, R204). -/
def laneShift (i : Instr) (o : XOps) (f : Nat → Nat → Nat) (s : State) : Host.Outcome State Fault Refusal :=
  vector i o (fun h e => do
    let w := Fmt.width o.fmt1
    let a ← laneSource o.g1 h.s1 e.s1 w
    let b ← laneSource o.g2 h.s2 e.s2 w
    let scalar := !(h.s2.isV || h.s2.isQ)
    writeVector h.d (ofLanes w ((List.range (laneCount w)).map (fun k =>
      f (lane a w k) (if scalar then e.s2.toNat else lane b w k))))) s

def shlLane (w a n : Nat) : Nat := if w ≤ n then 0 else a * 2 ^ n % 2 ^ w
def shrLane (w a n : Nat) : Nat := if w ≤ n then 0 else a / 2 ^ n
def sraLane (w a n : Nat) : Nat := wrapInt w (sintOf w a >>> min n w)
def execVshl (o : XOps) (s : State) := laneShift (.vshl o) o (shlLane (Fmt.width o.fmt1)) s
def execVshr (o : XOps) (s : State) := laneShift (.vshr o) o (shrLane (Fmt.width o.fmt1)) s
def execVsra (o : XOps) (s : State) := laneShift (.vsra o) o (sraLane (Fmt.width o.fmt1)) s

/-! ### Saturating and high-half forms -/

/-- An integer lane's value under its format. -/
def laneInt (f : Fmt) (x : Nat) : Int := if f.isSigned then sintOf (Fmt.width f) x else x
/-- Clamp to the range of a format: the code, and whether it clamped (R130). -/
def clampInt (f : Fmt) (x : Int) : Nat × Bool :=
  let w := Fmt.width f
  let hi : Int := if f.isSigned then 2 ^ (w - 1) - 1 else 2 ^ w - 1
  let lo : Int := if f.isSigned then -(2 ^ (w - 1)) else 0
  if x < lo then (wrapInt w lo, true) else if hi < x then (wrapInt w hi, true) else (wrapInt w x, false)

/-- VADDS and VSUBS (R198, R199). -/
def saturating (i : Instr) (o : XOps) (f : Int → Int → Int) (s : State) : Host.Outcome State Fault Refusal :=
  vector i o (fun h e => do
    let w := Fmt.width o.fmt1
    let a ← laneSource o.g1 h.s1 e.s1 w
    let b ← laneSource o.g2 h.s2 e.s2 w
    let r := (List.range (laneCount w)).map (fun k =>
      clampInt o.fmt1 (f (laneInt o.fmt1 (lane a w k)) (laneInt o.fmt1 (lane b w k))))
    writeVector h.d (ofLanes w (r.map (·.1)))
    raiseSat (r.any (·.2))) s

def execVadds (o : XOps) (s : State) := saturating (.vadds o) o (· + ·) s
def execVsubs (o : XOps) (s : State) := saturating (.vsubs o) o (· - ·) s
/-- VMULH (R198). -/
def execVmulh (o : XOps) (s : State) := laneMap (.vmulh o) o (fun a b _ =>
  let w := Fmt.width o.fmt1
  bits (wrapInt (2 * w) (laneInt o.fmt1 a * laneInt o.fmt1 b)) (2 * w - 1) w) s

/-! ### Permutes and lane moves -/

/-- The lanes of a vector. -/
def lanesOf (v : V256) (w : Nat) : List Nat := (List.range (laneCount w)).map (lane v w)

/-- VPERM (R205). -/
def execVperm (o : XOps) (s : State) := vector (.vperm o) o (fun h e => do
  let w := Fmt.width o.fmt1
  let a ← laneSource o.g1 h.s1 e.s1 w
  let b ← laneSource o.g2 h.s2 e.s2 w
  writeVector h.d (ofLanes w ((lanesOf b w).map (fun j => if j < laneCount w then lane a w j else 0)))) s

/-- VBCAST: a lane of a vector, or a scalar (R205). A lane index out of range has no stated TVAL. -/
def execVbcast (o : XOps) (s : State) := vector (.vbcast o) o (fun h e => do
  let w := Fmt.width o.fmt1
  let a ← laneSource o.g1 h.s1 e.s1 w
  if h.s1.isV || h.s1.isQ then
    unlessFault (decide (e.s2.toNat < laneCount w)) cILLEGAL_OPERAND
    writeVector h.d (ofLanes w (List.replicate (laneCount w) (lane a w e.s2.toNat)))
  else writeVector h.d a) s

/-- VROT (R205). -/
def execVrot (o : XOps) (s : State) := vector (.vrot o) o (fun h e => do
  let w := Fmt.width o.fmt1
  let a ← laneSource o.g1 h.s1 e.s1 w
  let n := laneCount w
  writeVector h.d (ofLanes w ((List.range n).map (fun k => lane a w ((k + e.s2.toNat) % n))))) s

/-- The half selector of VZIP and VUNZIP: 0 or 1 (R206). -/
def halfOf (x : Word) : Act Nat := do
  unlessFault (decide (x.toNat ≤ 1)) cILLEGAL_OPERAND (some x)
  return x.toNat

/-- VZIP (R206). -/
def execVzip (o : XOps) (s : State) := vector (.vzip o) o (fun h e => do
  let w := Fmt.width o.fmt1
  let x ← halfOf e.s3
  let a ← laneSource o.g1 h.s1 e.s1 w
  let b ← laneSource o.g2 h.s2 e.s2 w
  let n := laneCount w
  writeVector h.d (ofLanes w ((List.range n).map (fun k =>
    lane (if k % 2 = 0 then a else b) w (x * (n / 2) + k / 2))))) s

/-- VUNZIP (R206). -/
def execVunzip (o : XOps) (s : State) := vector (.vunzip o) o (fun h e => do
  let w := Fmt.width o.fmt1
  let x ← halfOf e.s3
  let a ← laneSource o.g1 h.s1 e.s1 w
  let b ← laneSource o.g2 h.s2 e.s2 w
  let n := laneCount w
  writeVector h.d (ofLanes w ((List.range n).map (fun k =>
    lane (if k < n / 2 then a else b) w (2 * (k % (n / 2)) + x))))) s

/-- VCOMP (R206). -/
def execVcomp (o : XOps) (s : State) := vector (.vcomp o) o (fun h e => do
  let w := Fmt.width o.fmt1
  let a ← laneSource o.g1 h.s1 e.s1 w
  let m ← laneSource o.g2 h.s2 e.s2 w
  writeVector h.d (ofLanes w (((List.range (laneCount w)).filter (fun k => bit (lane m w k) (w - 1))).map (lane a w)))) s

/-- VEXT (R207). -/
def execVext (o : XOps) (s : State) := vector (.vext o) o (fun h e => do
  let w := Fmt.width o.fmt1
  unlessFault (decide (e.s2.toNat < laneCount w)) cILLEGAL_OPERAND (some e.s2)
  let a ← laneSource o.g1 h.s1 e.s1 w
  writeResult h.d (word (wrapInt 64 (laneInt o.fmt1 (lane a w e.s2.toNat))))) s

/-- VINS (R207): the other lanes keep their value. -/
def execVins (o : XOps) (s : State) := vector (.vins o) o (fun h e => do
  let w := Fmt.width o.fmt1
  let k := e.s2.toNat
  unlessFault (decide (k < laneCount w)) cILLEGAL_OPERAND (some e.s2)
  let old ← readVector 0 h.d.index
  writeVector h.d (BitVec.ofNat 256 (putBits old.toNat (w * k) w (e.s1.toNat % 2 ^ w)))) s

/-- VMOV (R207). -/
def execVmov (o : XOps) (s : State) := vector (.vmov o) o (fun h e => do
  writeVector h.d (← laneSource o.g1 h.s1 e.s1 64)) s

/-! ### Sign bits and random draws -/

/-- VSIGN (R208). -/
def execVsign (o : XOps) (s : State) := vector (.vsign o) o (fun h e => do
  let w := Fmt.width o.fmt1
  let a ← laneSource o.g1 h.s1 e.s1 w
  writeResult h.d (word (packLanes 1 ((lanesOf a w).map (fun x => x / 2 ^ (w - 1)))))) s

/-- The lanes of VRAND from a block (R209): multiples of 2^−24 or 2^−53, exact. -/
def randLanes (f : Fmt) (x : Nat) : V256 :=
  match f with
  | .f32 => ofLanes 32 ((List.range 8).map (fun k =>
      (roundFin .f32 0 0 false ((bits x (32 * k + 31) (32 * k + 8) : Rat) * pow2 (-24))).1))
  | .f64 => ofLanes 64 ((List.range 4).map (fun k =>
      (roundFin .f64 0 0 false ((bits x (64 * k + 63) (64 * k + 11) : Rat) * pow2 (-53))).1))
  | _ => BitVec.ofNat 256 x

/-- VRAND (R209). -/
def execVrand (o : XOps) (s : State) := vector (.vrand o) o (fun h _ => do
  let c0 ← takeCounters 1
  let s ← get
  let x := randBlock c0 (s.effSeed s.ctx.rcb) s.here.lcore s.ctx.rngstr.toNat
  writeVector h.d (randLanes o.fmt1 x)) s

end Sys2Proof.Machine
end

