-- ==== Sys2Proof/Machine/Matrix.lean ====
section
/-! DEFINITION. The matrix and tile instructions (R120, R145 to R149, R212 to R227). -/

namespace Sys2Proof.Machine

/-! ### Checks -/

def tileCode (r : Reg) : Word := Reg.tval r

/-- A valid tile entry; TILE_RANGE when it is not (R115, R213). -/
def needTile (r : Reg) : Act Tile := do
  match (← tileEntry r (some (tileCode r))) with
  | some t => return t
  | none => fault cTILE_RANGE (some (tileCode r))

/-- The error a failed fill left in a tile is raised at a reader (R213, R224). -/
def tileError (t : Tile) : Act Unit :=
  match t.err with
  | some (cause, row) => fault cause (some row)
  | none => pure ()

/-- A started entry of a core holds an accumulator that it will write over bytes of a tile (R217). -/
def Core.writesOver (c : Core) (t : Tile) : Bool :=
  c.ctx.any (fun x => x.xbusy && match x.xhead with
    | some e => (match e.i with | .mdrain _ => false | .mcvt _ => false | _ => true) &&
        (match e.i.hd.bind (fun h => heldZ e.i (x.passHd h)) with | some k => t.covers 0 (c.zOff k) 0x2000 | none => false)
    | none => false)

/-- The wait for READY: the tile stall point (R85, R120). An entry that will read a tile over which a started entry is to write
its accumulator is dispatched after that write, so it reads what the tile held at its dispatch (R120, R217; log entry
119). -/
def tileReady (t : Tile) : Act Unit := do
  waitUntil (t.state == .ready) .tile true
  waitUntil (!(← getCore).writesOver t) .tile

/-- Read scale entries at scale-memory offsets (R132, R214). -/
def readScales : List Nat → Act (List Nat)
  | [] => pure []
  | off :: l => do
    let s ← get
    let c := s.here
    let a := c.sclbase.toNat * 0x2000 + off
    unlessFault (decide (c.sclbase.toNat < c.bankCount .scr)) cPOOL_RANGE (some (word a))
    waitUntil (!c.poolWaits 1 a 2 false) .pool
    let x := s.rdNat (poolAddr 1 s.core a) 2
    unlessFault (bits x 15 10 == 0) cSCALE_RESERVED (some (word off))
    let rest ← readScales l
    return x :: rest

/-- Offsets of n scale entries from one. -/
def scaleOffsets (base n : Nat) : List Nat := (List.range n).map (fun b => base + 2 * b)

/-- VWZ has the shape a form needs (R213). -/
def shapeCheck (shape : Nat) : Act Unit := do
  let c ← getCore
  unlessFault (c.vwz.shape == shape) cILLEGAL_OPERAND (some (word c.vwz.shape))

/-- The checks of a block product after its view check, and its scale entries: those it has read, or reads now (R213, R214,
R218). -/
def productTiles (h : Hd) (f : Fmt) (read : Option (List Nat)) : Act (List Nat) := do
  shapeCheck (if f = .f64 then 1 else 0)
  let a ← needTile h.s1
  let b ← needTile h.s2
  unlessFault (a.role == .mat && a.fmt == f && !a.wide) cTILE_FORMAT (some (tileCode h.s1))
  unlessFault (b.role == .csm && b.fmt == f) cTILE_FORMAT (some (tileCode h.s2))
  tileError a
  tileError b
  if let some scales := read then return scales
  else if f = .m4 then readScales (scaleOffsets (128 * h.s1.index) 32 ++ scaleOffsets (128 * h.s2.index) 64) else return []

/-- The checks of a product entry, with its wait for READY tiles (R120, R213). -/
def productCheck (h : Hd) (f : Fmt) (read : Option (List Nat) := none) : Act Prep := do
  let scales ← productTiles h f read
  tileReady (← needTile h.s1)
  tileReady (← needTile h.s2)
  return { scales := scales, held := [h.s1.index, h.s2.index] }

/-- Entries that count readers or take posted-table entries at dispatch. -/
def preps (i : Instr) : Bool :=
  match i with
  | .mma _ => true | .mmaS _ => true | .dmma _ => true | .mxpose _ => true | .mstore _ => true | .mdrain _ => true
  | _ => false

/-- Later passes of an XLOOP make their checks when they start, and count their readers then; so does an entry that runs
again after a fault released its counts, with the scale entries of its dispatch (R78, R213, R214). -/
def passPrep (check : Option (List Nat) → Act Prep) : Act Unit := do
  let x ← getCtx
  let again := match x.xhead with
    | some e => preps e.i && e.held.isEmpty && e.taken.isEmpty
    | none => false
  let later := x.inLoop && x.headPass != 0
  if later || again then
    let p ← check (if later then none else x.xhead.map (·.scales))
    modCore (·.addReaders p.held)
    modCtx (·.mapHead (fun e => { e with scales := p.scales, held := p.held, taken := p.taken }))
  else pure ()

/-! ### Products -/

/-- The array runs a product of some context (R216). -/
def Core.arrayBusy (c : Core) : Bool :=
  c.ctx.toList.any (fun x => x.xbusy && (match x.xhead with
    | some e => (match e.i with | .mma _ => true | .mmaS _ => true | .dmma _ => true | _ => false)
    | none => false))

/-- Row-major pairs. -/
def rowMajor (n m : Nat) : List (Nat × Nat) := (List.range (n * m)).map (fun e => (e / m, e % m))

/-- Element (i, k) of a tile as a value: an m4 code under the TYPE of its scale entry (R133, R218). -/
def elemValue (f : Fmt) (scale code : Nat) : FV := if f = .m4 then m4Value (bits scale 9 8) code else decodeF f code

/-- The operands of a product: values of A rows and B columns, by line and k. -/
def lineValues (s : State) (core : Nat) (t : Tile) (f : Fmt) (scales : List Nat) (lines lead : Nat) : List (List FV) :=
  (List.range lines).map (fun r => (List.range 32).map (fun k =>
    elemValue f (scales.getD r 0) (s.readTileLine core t (lead + r) k)))

/-- R145: every product and the sum exact, rounded once. -/
def exactProduct (rm : Nat) (u : Nat → Nat) (a b : List (List FV)) (z : Nat → Nat → Nat) : List (Nat × Flags) :=
  (rowMajor 32 64).zipIdx.map (fun p =>
    let (i, j) := p.1
    roundSum .f32 rm (u p.2) ((decodeF .f32 (z i j)).term :: List.zipWith mulFV (a.getD i []) (b.getD j [])))

/-- One step of R146 on every element. -/
def fusedStep (f : Fmt) (rm cols : Nat) (u : Nat → Nat) (a b : List (List FV)) (k : Nat) (z : List (Nat × Flags)) :
    List (Nat × Flags) :=
  z.zipIdx.map (fun p =>
    let r := roundSum f rm (u p.2)
      [(decodeF f p.1.1).term, mulFV ((a.getD (p.2 / cols) []).getD k (.nan false)) ((b.getD (p.2 % cols) []).getD k (.nan false))]
    (r.1, p.1.2 ||| r.2))

/-- R146: ascending k, each step rounded and drawing its own bits (R140). -/
def fusedProduct (f : Fmt) (rm cols : Nat) (a b : List (List FV)) : Nat → Nat → List (Nat × Flags) → Act (List (Nat × Flags))
  | 0, _, z => pure z
  | n + 1, k, z => do
    let u ← drawStep rm (32 * cols) (Fmt.width f)
    fusedProduct f rm cols a b n (k + 1) (fusedStep f rm cols u a b k z)

/-- Write an accumulator whole, and OR conditions into its ZFLAGS entry (R153, R217). -/
def writeAccumulator (k cols : Nat) (r : List (Nat × Flags)) : Act Unit := do
  modify (fun s =>
    let s := (r.zipIdx).foldl (fun s p => s.writeZ s.core k (p.2 / cols) (p.2 % cols) p.1.1) s
    s.modHere (·.orZ k (zBits (orFlags (r.map (·.2))))))

/-- The block product of the current core, made whole (R145, R146, R218). -/
def product (h : Hd) (f : Fmt) (half : Nat) (scales : List Nat) : Act Unit := do
  let s ← get
  let c := s.here
  match tfind c.tiles h.s1.index, tfind c.tiles h.s2.index with
  | some ta, some tb =>
    let k := h.d.index
    let rm := h.rm.toNat
    let cols := if f = .f64 then 32 else 64
    let a := lineValues s s.core ta f scales 32 0
    let b := lineValues s s.core tb f (scales.drop 32) cols (if f = .f64 then 32 * half else 0)
    if f = .f32 ∨ f = .f64 then
      let z := (rowMajor 32 cols).map (fun p => (s.readZ s.core k p.1 p.2, (0 : Flags)))
      let r ← fusedProduct f rm cols a b 32 0 z
      writeAccumulator k cols r
    else
      let u ← drawStep rm 2048 32
      writeAccumulator k cols (exactProduct rm u a b (fun i j => s.readZ s.core k i j))
  | _, _ => pure ()

/-- The first line and group of an operand with more than two non-zero elements in four (R219). -/
def sparseBreach (l : List (List FV)) : Option (Nat × Nat) :=
  let nonZero (v : FV) : Bool := match v with | .fin _ m => m != 0 | _ => true
  (l.zipIdx.flatMap (fun p => (List.range 8).map (fun g => (p.2, g, ((p.1.drop (4 * g)).take 4).countP nonZero)))).findSome?
    (fun x => if 2 < x.2.2 then some (x.1, x.2.1) else none)

/-- SPARSE_PATTERN of MMA.S without LAX (R219): of several breaches it reports one of tA before one of tB, then that of the
lowest line, then of the lowest group (log entry 149). -/
def sparseCheck (h : Hd) (f : Fmt) (scales : List Nat) : Act Unit := do
  let s ← get
  match tfind s.here.tiles h.s1.index, tfind s.here.tiles h.s2.index with
  | some ta, some tb =>
    match sparseBreach (lineValues s s.core ta f scales 32 0) with
    | some (line, g) => fault cSPARSE_PATTERN (some (word (line * 2 ^ 8 + g)))
    | none =>
      match sparseBreach (lineValues s s.core tb f (scales.drop 32) 64 0) with
      | some (line, g) => fault cSPARSE_PATTERN (some (word (2 ^ 16 + line * 2 ^ 8 + g)))
      | none => pure ()
  | _, _ => pure ()

/-- The granules of an accumulator. -/
def Core.zSpan (c : Core) (k : Nat) : List (Nat × Nat) := [(c.zOff k, 0x2000)]

/-- The bytes of the register space under a tile: those of the MAT role (R117, R217). -/
def Tile.span (t : Tile) : List (Nat × Nat) := match t.role with | .mat => [(0x40000 + t.base, t.bytes)] | _ => []
def Core.tileSpan (c : Core) (k : Nat) : List (Nat × Nat) := match tfind c.tiles k with | some t => t.span | none => []

/-- Uncorrectable data stands in a tile (R386); of a tile in column-slice memory, in any column's part of it. -/
def State.tileBad (s : State) (k : Nat) : Bool :=
  match tfind s.here.tiles k with
  | none => false
  | some t => match t.role with
    | .mat => s.bad (regSpaceKey s.core (0x40000 + t.base)) t.bytes
    | .scr => s.bad (poolAddr 1 s.core t.base) t.bytes
    | .csm => (List.range 32).any (fun j => s.bad (poolAddr 3 s.core (0x2000 * j + t.base)) t.colBytes)

def tileSound (r : Reg) : Act Unit := do unlessFault (!(← get).tileBad r.index) cMACHINE_UE

/-- The stream has the counter values an entry will use (R144). -/
def streamHas (rm steps e w : Nat) : Act Unit := do
  let c ← getCtx
  unlessFault (rm != 5 || decide (c.rngctr.toNat + steps * ceilDiv (e * w) 256 ≤ 2 ^ 64 - 1)) cRNG_WRAP

/-- The format of a product form. -/
def productFmt (i : Instr) : Fmt := match i with | .dmma _ => .f64 | .mma o => o.fmt1 | .mmaS o => o.fmt1 | _ => .none

/-- The start of a product: its pass checks, the array, its accumulator, the stream, and the pattern of MMA.S (R216 to
R219). -/
def startProduct (i : Instr) (o : TOps) (sparse : Bool) : Act Unit := do
  let x ← getCtx
  let h := x.passHd o.h
  let f := productFmt i
  passCheck [h.d]
  passPrep (productCheck h f ·)
  let c ← getCore
  waitUntil (!c.arrayBusy) .register
  entryGranules (c.zSpan h.d.index ++ c.tileSpan h.s1.index) (c.zSpan h.d.index)
  tileSound h.s1
  tileSound h.s2
  let narrow := !(f == .f32 || f == .f64)
  streamHas h.rm.toNat (if narrow then 1 else 32) (if f = .f64 then 1024 else 2048) (if f = .f64 then 64 else 32)
  if sparse && !o.opt.getLsbD 0 then
    sparseCheck h f (match (← getCtx).xhead with | some e => e.scales | none => [])

/-- A matrix entry that another act completes (R217). -/
def matrixEntry (i : Instr) (o : TOps) (check : Word → Word → Word → Act Prep) (start : XEntry → Act Unit) (s : State) :
    Host.Outcome State Fault Refusal := xslotWith false i o.h (srcW o.w true) check start s

def productEntry (i : Instr) (o : TOps) (sparse : Bool) (s : State) : Host.Outcome State Fault Refusal :=
  matrixEntry i o (fun _ _ _ => do viewCheck [o.h.d]; productCheck o.h (productFmt i)) (fun _ => startProduct i o sparse) s

/-- MMA (R218). -/
def execMma (o : TOps) (s : State) := productEntry (.mma o) o false s
/-- MMA.S (R219). -/
def execMmaS (o : TOps) (s : State) := productEntry (.mmaS o) o true s
/-- DMMA (R218). -/
def execDmma (o : TOps) (s : State) := productEntry (.dmma o) o false s

/-! ### Scaling, clearing, flags -/

/-- Exact product of a term and a value. -/
def Term.times (t : Term) (v : FV) : Term := let r := mulFV t.v v; ⟨r.v, t.invalid || r.invalid⟩

/-- NaN codes of a block scale (R149). -/
def scaleNaN (x : Nat) : Bool := x % 128 == 0x7F

/-- The scale entries of MSCALE, after the checks of gL (R214, R220). -/
def mscaleCheck (o : TOps) (gl : Word) : Act Prep := do
  shapeCheck 0
  if o.opt.getLsbD 0 then return {}
  let a := bits gl.toNat 12 0
  let b := bits gl.toNat 28 16
  unlessFault (a % 128 == 0 && b % 128 == 0 && bits gl.toNat 15 13 == 0 && bits gl.toNat 63 29 == 0)
    cILLEGAL_OPERAND (some gl)
  return { scales := ← readScales (scaleOffsets a 32 ++ scaleOffsets b 64) }

/-- MSCALE (R220). -/
def execMscale (o : TOps) (s : State) := matrixEntry (.mscale o) o
  (fun _ gl _ => do viewCheck [o.h.d, o.h.s1]; mscaleCheck o gl)
  (fun e => do
    let h := (← getCtx).passHd o.h
    passCheck [h.d, h.s1]
    passPrep (fun _ => mscaleCheck o e.s2)
    let c ← getCore
    entryGranules (c.zSpan h.s1.index ++ if o.opt.getLsbD 1 then [] else c.zSpan h.d.index) (c.zSpan h.d.index)
    streamHas h.rm.toNat 1 2048 32) s

/-- The result of MSCALE: every zS element is read before any zD element is written. -/
def scaleAccumulator (o : TOps) (h : Hd) (e : XEntry) : Act Unit := do
  let u ← drawStep h.rm.toNat 2048 32
  let s ← get
  let t := decodeF .f32 (e.s3.toNat % 2 ^ 32)
  let noBlock := o.opt.getLsbD 0
  let r := (rowMajor 32 64).zipIdx.map (fun p =>
    let (i, j) := p.1
    let sa := e.scales.getD i 0 % 256
    let sb := e.scales.getD (32 + j) 0 % 256
    let zs := decodeF .f32 (s.readZ s.core h.s1.index i j)
    let term : Term :=
      if noBlock then mulFV zs t
      else if scaleNaN sa || scaleNaN sb then ⟨.nan false, true⟩
      else (((mulFV (decodeF .e4m3 sa) (decodeF .e4m3 sb)).times t).times zs)
    let old := (decodeF .f32 (s.readZ s.core h.d.index i j)).term
    roundSum .f32 h.rm.toNat (u p.2) (if o.opt.getLsbD 1 then [term] else [old, term]))
  writeAccumulator h.d.index 64 r

/-- MZERO (R221). -/
def execMzero (o : TOps) (s : State) := matrixEntry (.mzero o) o (fun _ _ _ => do viewCheck [o.h.d]; return {}) (fun _ => do
  let h := (← getCtx).passHd o.h
  passCheck [h.d]
  let c ← getCore
  entryGranules [] (c.zSpan h.d.index)) s

/-- MFLAGS (R222). -/
def execMflags (o : TOps) (s : State) := matrixEntry (.mflags o) o (fun _ _ _ => do viewCheck [o.h.d]; return {}) (fun _ => do
  let x ← getCtx
  let h := x.passHd o.h
  passCheck [h.d]
  let c ← getCore
  entryGranules [] (c.zSpan h.d.index)
  waitUntil (!o.opt.getLsbD 0 || decide (x.q1.length < 16)) .queue true) s

/-! ### Tiles as destinations -/

/-- The tile an X entry fills (R119). -/
def fillsTile (i : Instr) (h : Hd) : Option Nat := match i with
  | .mload _ => some h.d.index | .mxpose _ => some h.d.index | .mcvt _ => some h.d.index | _ => none

/-- The tiles an entry fills in the passes it has still to run, with its place in the order of issue. -/
def XEntry.fills (e : XEntry) (sd : Int) (passes : List Nat) : List (Nat × Nat) :=
  match e.i.hd with
  | some h => if e.live && !e.skip then passes.filterMap (fun p => (fillsTile e.i (Hd.moved h (p * sd) 0 0 0)).map (·, e.seq)) else []
  | none => []
def XItem.fills : XItem → List (Nat × Nat)
  | .entry e => e.fills 0 [0]
  | .loop l => l.body.zipIdx.flatMap (fun b => b.1.fills l.sd
      ((List.range l.count).filter (fun p => decide (l.pass < p) || (p == l.pass && decide (l.idx ≤ b.2)))))

/-- The tiles that entries and commands of a core have still to fill, with their places in the order of issue (R119). Those
of context `own` run in that order anyway. -/
def State.writers (s : State) (core : Nat) (own : Option Nat) : List (Nat × Nat) :=
  (List.range 4).flatMap (fun fc => if own = some fc then [] else (s.ctxOf core fc).xseq.flatMap XItem.fills) ++
  s.clusters.flatMap (fun cl => cl.2.chans.toList.flatten.filterMap (fun k =>
    if k.core == core && k.stage == .queued then (cmdDest k.i).map (·, k.id) else none))

/-- Take a tile for a whole-tile writer (R119): EMPTY, or READY with no readers, in the order of issue. -/
def takeTile (n seq : Nat) (own : Option Nat) : Act Unit := do
  let s ← get
  match tfind s.here.tiles n with
  | none => pure ()
  | some t =>
    waitUntil (t.state == .empty || (t.state == .ready && t.readers == 0)) .tile
    waitUntil (!(s.writers s.core own).any (fun w => w.1 == n && decide (w.2 < seq))) .tile
    modCore (·.setTile n (fun t => { t with state := .filling, err := none }))

/-- The same for an entry of the current context. -/
def takeFor (n : Nat) (e : XEntry) : Act Unit := do takeTile n e.seq (some ((← get).fc % 4))

/-- The checks of MXPOSE's source (R225). -/
def mxposeCheck (h : Hd) : Act Prep := do
  let t ← needTile h.s1
  unlessFault (t.role != .csm && !t.wide && t.fmt != .m4) cTILE_FORMAT (some (tileCode h.s1))
  unlessFault (h.d != h.s1) cILLEGAL_OPERAND
  tileError t
  tileReady t
  return { held := [h.s1.index] }

/-- MXPOSE (R225): a destination that is not valid is a TILE_FORMAT, while R213 gives its source's cause. -/
def execMxpose (o : TOps) (s : State) := matrixEntry (.mxpose o) o (fun _ _ _ => mxposeCheck o.h) (fun e => do
  let h := (← getCtx).passHd o.h
  passPrep (fun _ => mxposeCheck h)
  let t ← needTile h.s1
  match (← tileEntry h.d (some (tileCode h.d))) with
  | some d =>
    unlessFault (d.role != .csm && !d.wide && d.fmt == t.fmt) cTILE_FORMAT (some (tileCode h.d))
    entryGranules t.span d.span
    tileSound h.s1
    takeFor h.d.index e
  | none => fault cTILE_FORMAT (some (tileCode h.d))) s

/-- Where MCVT puts element (i, j) of a view: the tile's row and column, for the elements it converts (R226). -/
def mcvtPlan (shape half : Nat) (t : Tile) : Option (List ((Nat × Nat) × (Nat × Nat))) :=
  if shape = 0 then
    if t.role == .csm || t.wide then some ((rowMajor 32 64).map (fun p => (p, p)))
    else some ((rowMajor 32 32).map (fun p => ((p.1, p.2 + 32 * half), p)))
  else if t.role != .csm && !t.wide && half = 0 then some ((rowMajor 32 32).map (fun p => (p, p)))
  else none

def mcvtCheck (o : TOps) : Act Prep := do
  let c ← getCore
  unlessFault ((o.fmt2 == .f32 && c.vwz.shape == 0) || (o.fmt2 == .f64 && c.vwz.shape == 1)) cILLEGAL_OPERAND
    (some (word c.vwz.shape))
  return {}

def TOps.half (o : TOps) : Nat := natOfBool (o.opt.getLsbD 0)

/-- MCVT (R226). -/
def execMcvt (o : TOps) (s : State) := matrixEntry (.mcvt o) o
  (fun _ _ _ => do viewCheck [o.h.s1]; mcvtCheck o)
  (fun e => do
    let h := (← getCtx).passHd o.h
    passCheck [h.s1]
    passPrep (fun _ => mcvtCheck o)
    let d ← needTile h.d
    let c ← getCore
    unlessFault (d.fmt == o.fmt1 && (mcvtPlan c.vwz.shape (TOps.half o) d).isSome) cTILE_FORMAT (some (tileCode h.d))
    entryGranules (c.zSpan h.s1.index) d.span
    streamHas h.rm.toNat 1 (if c.vwz.shape = 0 && (d.role == .csm || d.wide) then 2048 else 1024) (Fmt.width o.fmt1)
    takeFor h.d.index e) s

/-- One element of MCVT: its code, its conditions, and whether it was clamped (R137, R226). -/
def mcvtElem (d f : Fmt) (rm u x : Nat) : Nat × Flags × Bool :=
  if d.isFloat then let r := roundFV d rm u (decodeF f x); (r.1, r.2, false)
  else
    let v := decodeF f x
    let r := toIntF d.isSigned (Fmt.width d) rm u v
    (r.1, r.2, (r.2 &&& fNV) != 0 && !v.isNaN)

/-- The result of MCVT. -/
def convertAccumulator (o : TOps) (h : Hd) : Act Unit := do
  let s ← get
  let c := s.here
  match tfind c.tiles h.d.index with
  | none => pure ()
  | some t =>
    match mcvtPlan c.vwz.shape (TOps.half o) t with
    | none => pure ()
    | some plan =>
      let u ← drawStep h.rm.toNat plan.length (Fmt.width o.fmt1)
      let r := plan.zipIdx.map (fun p =>
        (p.1.2, mcvtElem o.fmt1 o.fmt2 h.rm.toNat (u p.2) (s.readZ s.core h.s1.index p.1.1.1 p.1.1.2)))
      modify (fun s =>
        let s := r.foldl (fun s x => s.writeTile s.core t x.1.1 x.1.2 x.2.1) s
        let fl := zBits (orFlags (r.map (·.2.2.1)))
        let sat := if r.any (·.2.2.2) then 8 else 0
        s.modHere (fun c => (c.orZ h.s1.index (fl + sat)).setTile h.d.index (fun t => { t with state := .ready })))

/-- The result of MXPOSE. -/
def transposeTile (h : Hd) : Act Unit := do
  let s ← get
  match tfind s.here.tiles h.s1.index, tfind s.here.tiles h.d.index with
  | some a, some d =>
    let r := (rowMajor 32 32).map (fun p => (p, s.readTile s.core a p.2 p.1))
    modify (fun s =>
      let s := r.foldl (fun s x => s.writeTile s.core d x.1.1 x.1.2 x.2) s
      s.modHere (·.setTile h.d.index (fun t => { t with state := .ready })))
  | _, _ => pure ()

/-! ### Completion -/

/-- What a matrix entry writes when it completes (R217). -/
def matrixResult (e : XEntry) : Act Unit := do
  let x ← getCtx
  match e.i with
  | .mma o => product (x.passHd o.h) o.fmt1 0 e.scales
  | .mmaS o => product (x.passHd o.h) o.fmt1 0 e.scales
  | .dmma o => product (x.passHd o.h) .f64 (TOps.half o) []
  | .mscale o => scaleAccumulator o (x.passHd o.h) e
  | .mzero o =>
    let k := (x.passHd o.h).d.index
    let c ← getCore
    let cols := if c.vwz.shape = 0 then 64 else 32
    writeAccumulator k cols ((rowMajor 32 cols).map (fun _ => (0, 0)))
    modCore (·.setZEntry k 0)
  | .mflags o =>
    let k := (x.passHd o.h).d.index
    let old := (← getCore).zEntry k
    if o.opt.getLsbD 0 then pushX 1 (BitVec.ofNat 256 old)
    modCore (·.setZEntry k (Nat.land old (15 - o.w.toNat % 16)))
  | .mcvt o => convertAccumulator o (x.passHd o.h)
  | .mxpose o => transposeTile (x.passHd o.h)
  | _ => pure ()

/-- An entry whose results MATRIX_ENTRY_COMPLETE writes. -/
def completesAlone (i : Instr) : Bool :=
  match i with
  | .mma _ => true | .mmaS _ => true | .dmma _ => true | .mscale _ => true | .mzero _ => true | .mflags _ => true
  | .mcvt _ => true | .mxpose _ => true | _ => false

def Ctx.matrixDone (c : Ctx) : Bool := c.xbusy && (match c.xhead with | some e => completesAlone e.i | none => false)

/-- An entry cannot write its accumulator yet: a tile over those bytes is being filled, or read by an engine, by an MSTORE, or
by an entry of another context (R120). -/
def State.resultWaits (s : State) (e : XEntry) : Bool :=
  match e.i.hd.bind (fun h => heldZ e.i (s.ctx.passHd h)) with
  | some k =>
    completesAlone e.i && (match e.i with | .mcvt _ => false | _ => true) &&
      s.here.tiles.any (fun t => (t.2.state == .filling || t.2.state == .draining ||
          decide (s.ctx.heldTiles.count t.1 < t.2.readers)) && (s.here.zSpan k).any (fun r => t.2.covers 0 r.1 r.2))
  | none => false

/-- MATRIX_ENTRY_COMPLETE (R217): the results, then the readers and the place in the sequencer. -/
def execMatrixEntryComplete (core fc : Nat) (s : State) : Host.Outcome State Fault Refusal :=
  let t := s.at core fc true
  .next (if t.ctx.matrixDone then
      match t.ctx.xhead with
      | some e =>
        if t.resultWaits e then s
        else match (matrixResult e).run t with
        | .ok (_, t) => (t.modHere (·.dropReaders e.held)).modCtx Ctx.popEntry
        | .error _ => s
      | none => s
    else s)

/-! ### Draining an accumulator -/

/-- Take n posted-table entries for rows to come (R178, R223, R224). -/
def takeEntries (k : Count) : Nat → Act (List Nat)
  | 0 => pure []
  | n + 1 => do
    needPosted
    let id ← newId
    modCtx (fun c => { (c.addCount k 1) with posted := c.posted ++ [⟨id, 0, 0, k⟩] })
    let l ← takeEntries k n
    return id :: l

/-- The checks of MDRAIN (R104, R223). At dispatch it takes its table entries if they are free; else it waits for them at
the head of the sequencer. -/
def mdrainCheck (ga : Word) (head : Bool) : Act Prep := do
  unlessFault (bits ga.toNat 51 48 == 1 && ga.toNat % 256 == 0) cILLEGAL_OPERAND (some ga)
  let _ ← resolve .w ga.toNat 1
  let s ← get
  let n := if gaCore ga.toNat = s.core then 1 else 33
  if !head && decide (64 < s.ctx.posted.length + n) then return {}
  needPosted n
  return { taken := ← takeEntries (countFor s.core ga.toNat) n }

/-- A posted write under an identifier taken earlier; its table entry gets its address. -/
def State.launchTaken (s : State) (id : Nat) (t : Txn) (k : Count) : State :=
  let s := s.setTxn id { t with count := some k, sent := s.now }
  s.modCtxOf t.core t.fc (fun c =>
    let old := match c.posted.find? (·.id == id) with | some e => e.count | none => k
    { ((c.addCount old (-1)).addCount k 1) with
      posted := c.posted.map (fun e => if e.id == id then ⟨id, t.ga, t.size, k⟩ else e) })

/-- The 256 bytes of row i of an accumulator. -/
def State.zRow (s : State) (k i : Nat) : List Byte :=
  Memory.readBytes s.mem (regSpaceKey s.core (s.here.zOff k + 256 * i)) 256

/-- The rows of a self-drain, performed as they are read. -/
def drainSelf (k ga : Nat) : Nat → Act Unit
  | 0 => pure ()
  | n + 1 => do
    let s ← get
    let a := ga + 256 * (31 - n)
    waitUntil (!s.here.poolWaits 1 (gaOff a) 256 true) .memory
    if s.here.inRole 1 (gaOff a) 256 then modify (fun s => s.wrBytes a (s.zRow k (31 - n)))
    else
      modCtx (fun c => { (c.mapHead (fun e => { e with refused := true })) with
        storeErr := c.storeErr.or (some (word a, cPOOL_RANGE)) })
    drainSelf k ga n

/-- MDRAIN (R223): its row writes are accesses of the context, which an acquire holds back (R176, R178). -/
def execMdrain (o : TOps) (s : State) := matrixEntry (.mdrain o) o
  (fun _ ga _ => do viewCheck [o.h.s1]; mdrainCheck ga false)
  (fun e => do
    let x ← getCtx
    let h := x.passHd o.h
    passCheck [h.s1]
    passPrep (fun _ => mdrainCheck e.s2 true)
    acquired
    let c ← getCore
    let k := h.s1.index
    entryGranules (c.zSpan k) []
    let ga := e.s2.toNat
    let s ← get
    if gaCore ga = s.core then drainSelf k ga 32
    else
      let ids := match s.ctx.xhead with | some e => e.taken | none => []
      modify (fun s => (ids.take 32).zipIdx.foldl (fun s p =>
        let a := ga + 256 * p.2
        s.launchTaken p.1 (newTxn s (.store (s.zRow k p.2)) .pool a 256) (countFor s.core a)) s)) s

/-- The rows of the head MDRAIN are performed and acknowledged. -/
def State.drainDone (s : State) (core fc : Nat) : Bool :=
  let x := s.ctxOf core fc
  x.xbusy && (match x.xhead with
    | some e => (match e.i with
      | .mdrain _ => e.taken.all (fun id => (tfind s.txns id).isNone)
      | _ => false)
    | none => false)

/-- MDRAIN_WAKE (R223): the wake is sent unless a row was refused, and the entry completes. -/
def execMdrainWake (core fc : Nat) (s : State) : Host.Outcome State Fault Refusal :=
  let t := s.at core fc true
  .next (if t.drainDone core fc then
      match t.ctx.xhead with
      | some e =>
        match e.i with
        | .mdrain o =>
          let id := e.taken.getLastD 0
          let t := if e.refused then t.modCtx (·.releaseTaken [id])
            else
              let k := gaCore e.s2.toNat
              let h := t.ctx.passHd o.h
              let m := o.w.toNat % 32
              let w1 := Nat.lor (t.here.zEntry h.s1.index) (h.s1.index * 2 ^ 4 + t.here.vwz.shape * 2 ^ 8)
              let entry := messageEntry (entryWord0 t.core t.fc 2 m) [e.s2, word w1]
              let name := poolAddr 2 k m
              t.launchTaken id (newTxn t (.message entry) .mailbox name 64) (countFor t.core name)
          t.modCtx Ctx.popEntry
        | _ => s
      | none => s
    else s)

/-! ### MLOAD and MSTORE -/

/-- The pieces of [a, a + n), each within one line. -/
def linePieces : Nat → Nat → Nat → List (Nat × Nat)
  | 0, _, _ => []
  | fuel + 1, a, n =>
    if n = 0 then [] else
      let m := min n (64 - a % 64)
      (a, m) :: linePieces fuel (a + m) (n - m)

/-- Translate and check the pieces of one row; a failure has the row's address as its TVAL (R224). A row beyond its role in a
pool, the core's own included, is no failure at start: the transfer meets it, as a data error of MLOAD and a refused row of
MSTORE (log entry 150). -/
def rowParts (kind : Kind) (row ea : Nat) : List (Nat × Nat) → Act (List Part)
  | [] => pure []
  | (a, m) :: l => do
    let off := a - ea
    let s ← get
    let root := s.effPtroot s.ctx.rcb
    let a := a % 2 ^ 64
    waitUntil (!s.walkWaits (.core s.core) root a) .memory
    let failed {α : Type} (e : Refused) : Act α := fault e.1 (some (word ea)) (e.2.2.map word)
    match translate s (.core s.core) root kind a with
    | .error e => failed e
    | .ok (p, s') =>
      waitUntil (!p.inReclass s') .transition
      match p.check s' s'.ctx.mode s'.core kind with
      | .error e => failed e
      | .ok _ => set s'
      let rest ← rowParts kind row ea l
      return ⟨row, off, ea, p.ga, m, p.cls, p.pageGa⟩ :: rest

/-- Translate and check every row (R224). -/
def allRows (kind : Kind) (base : Nat) (stride : Word) (n : Nat) : Nat → Nat → Act (List (List Part))
  | 0, _ => pure []
  | k + 1, r => do
    let ea := wrapInt 64 ((base : Int) + r * sintOf 64 stride.toNat)
    let parts ← rowParts kind r ea (linePieces 9 ea n)
    let rest ← allRows kind base stride n k (r + 1)
    return parts :: rest

/-- gA and gS are multiples of 16 (R224). -/
def rowAlign (a stride : Word) : Act Unit := do
  unlessFault (a.toNat % 16 == 0) cMISALIGNED (some a)
  unlessFault (stride.toNat % 16 == 0) cMISALIGNED (some stride)

/-- The context's accesses issued before the entry was dispatched are performed (R224). -/
def afterAccesses (seq : Nat) : Act Unit := do
  let s ← get
  waitUntil (!(s.ownTxns s.core s.fc).any (fun t => decide (t.1 < seq) && (t.2.stage == .travelling || t.2.stage == .granted)))
    .memory

/-- MLOAD: its entry completes when the tile is taken and the rows are under way (R224). -/
def execMload (o : TOps) (s : State) := xslot (.mload o) o.h (srcW o.w true) (fun a st _ => do rowAlign a st; return {})
  (fun e => do
    let h := (← getCtx).passHd o.h
    let t ← needTile h.d
    afterAccesses e.seq
    let rows ← allRows .r e.s1.toNat e.s2 t.memRow 32 0
    entryGranules [] t.span
    takeFor h.d.index e
    modify (fun s => s.modHere (fun c => { c with
      fills := c.fills ++ [⟨e.seq, h.d.index, s.fc % 4, s.ctx.rcb, rows.flatten, s.ctx.cts⟩] }))) s

/-- Bytes land in a memory row of a tile: row r of a MAT or SCR tile, element r of the columns of a CSM tile. -/
def State.landRow (s : State) (core : Nat) (t : Tile) (row off : Nat) (data : List Byte) : State :=
  match t.role with
  | .csm =>
    if t.fmt = .m4 then
      (data.zipIdx).foldl (fun s b =>
        let j := 2 * (off + b.2)
        (s.writeTileLine core t j row (b.1.toNat % 16)).writeTileLine core t (j + 1) row (b.1.toNat / 16)) s
    else
      let n := t.fmt.width / 8
      (data.zipIdx).foldl (fun s b => s.wrNat (tileKey core t ((off + b.2) / n) (row * n + (off + b.2) % n)) 1 b.1.toNat) s
  | _ => s.wrBytes (tileKey core t row off) data

/-- The bytes of a memory row of a tile. -/
def State.tileRow (s : State) (core : Nat) (t : Tile) (row off n : Nat) : List Byte :=
  match t.role with
  | .csm =>
    if t.fmt = .m4 then
      (List.range n).map (fun b => let j := 2 * (off + b)
        BitVec.ofNat 8 (s.readTileLine core t j row + 16 * s.readTileLine core t (j + 1) row))
    else
      let m := t.fmt.width / 8
      (List.range n).map (fun b => Memory.read s.mem (tileKey core t ((off + b) / m) (row * m + (off + b) % m)))
  | _ => Memory.readBytes s.mem (tileKey core t row off) n

/-- One access of a unit at a part of a row, made whole (log entry 12). -/
def Part.phys (p : Part) : Phys :=
  { ea := p.ea + p.off, ga := p.ga,
    page := if 1 ≤ gaSpace p.ga ∧ gaSpace p.ga ≤ 3 then none else some
      { root := 0, va := 0, level := 3, ga := p.page, u := true, dm := false, cls := p.cls, x := false, w := true, r := true,
        owner := 0 } }

/-- MLOAD_FILL_COMPLETE (R224): rows land in any order, the tile turns READY after the last, and a data error empties it
and stays in its entry. -/
def execMloadFillComplete (core tile : Nat) (s : State) : Host.Outcome State Fault Refusal :=
  .next (match (s.coreAt core).fills.find? (·.tile == tile) with
    | none => s
    | some f =>
      let endFill (s : State) (g : Tile → Tile) : State :=
        s.modCore core (fun c => ({ c with fills := c.fills.filter (·.tile != tile) } : Core).setTile tile g)
      match f.todo with
      | [] => endFill s (fun t => { t with state := .ready })
      | first :: _ =>
        let k := Config.victim f.todo.length s.fresh % f.todo.length
        let p := f.todo.getD k first
        let s : State := { s with fresh := s.fresh + 1 }
        match s.touch ⟨f.id, core, f.fc⟩ f.rcb f.cts p.phys p.size (fun _ => none) with
        | .error (.wait _ _) => s
        | .error (.trap t) => endFill s (fun x => { x with state := .empty, err := some (t.cause, word p.ea) })
        | .ok (s, x, cts) =>
          let s := s.modCtxOf core f.fc (fun c => { c with cts := max c.cts (cts.getD 0) })
          let s := match tfind (s.coreAt core).tiles tile with
            | some t => s.landRow core t p.row p.off (bytesOf p.size x)
            | none => s
          let todo := f.todo.eraseIdx k
          if todo.isEmpty then endFill s (fun t => { t with state := .ready })
          else s.modCore core (fun c => { c with
            fills := c.fills.map (fun g => if g.tile == tile then { g with todo := todo } else g) }))

/-- The dispatch checks of MSTORE (R213, R224). -/
def mstoreCheck (h : Hd) (a stride : Word) : Act Prep := do
  rowAlign a stride
  let t ← needTile h.s3
  tileError t
  tileReady t
  needPosted 32
  return { held := [h.s3.index], taken := ← takeEntries .clu 32 }

/-- The parts of one row as a posted write of one table entry: an engine's, which claims its lines (R224, R288). Its count is
that of the target of its first part (log entry 120). -/
def State.postRow (s : State) (t : Tile) (id : Nat) (parts : List Part) : State :=
  let target (p : Part) : Target := if p.phys.isDram then .dram p.cls else .pool
  let data (p : Part) : List Byte := s.tileRow s.core t p.row p.off p.size
  match parts with
  | [] => s
  | p :: ps =>
    let s' := parts.foldl (fun s p => s.claimFor id p.phys) s
    s'.launchTaken id { newTxn s (.store (data p)) (target p) p.ga p.size p.page with
      rest := ps.map (fun q => ⟨q.ga, q.page, target q, data q⟩), engine := true } (countFor s.core p.ga)

/-- MSTORE (R224): its rows are posted when it starts. -/
def execMstore (o : TOps) (s : State) := matrixEntry (.mstore o) o (fun a st _ => mstoreCheck o.h a st) (fun e => do
  let h := (← getCtx).passHd o.h
  passPrep (fun _ => mstoreCheck h e.s1 e.s2)
  let t ← needTile h.s3
  afterAccesses e.seq
  let rows ← allRows .w e.s1.toNat e.s2 t.memRow 32 0
  waitUntil (t.state == .ready) .tile
  entryGranules t.span []
  tileSound h.s3
  modCore (·.setTile h.s3.index (fun t => { t with state := .draining }))
  let ids := match (← getCtx).xhead with | some e => e.taken | none => []
  modify (fun s => (ids.zip rows).foldl (fun s p => s.postRow t p.1 p.2) s)) s

/-- The head entry is a started MSTORE. -/
def Ctx.storing (c : Ctx) : Bool := c.xbusy && (match c.xhead with
  | some e => (match e.i with | .mstore _ => true | _ => false) | none => false)

/-- MSTORE_DRAIN_COMPLETE (R224). -/
def execMstoreDrainComplete (core fc : Nat) (s : State) : Host.Outcome State Fault Refusal :=
  let t := s.at core fc true
  .next (if t.ctx.storing then
      match t.ctx.xhead with
      | some e =>
        match e.i with
        | .mstore o =>
          let n := (t.ctx.passHd o.h).s3.index
          (t.modHere (fun c => (c.dropReaders e.held).setTile n (fun x => { x with state := .ready }))).modCtx Ctx.popEntry
        | _ => s
      | none => s
    else s)

end Sys2Proof.Machine
end

