-- ==== Sys2Proof/Machine/Heliostat.lean ====
section
/-! DEFINITION. The Heliostat: commands, their moves unit by unit, their ends and their follow-on products (R12, R119, R227,
R288, R289, R315 to R324). -/

namespace Sys2Proof.Machine

/-! ### Accesses of the engine -/

/-- The quad that the Heliostat of a cluster attaches to (R266), whose TLB it translates through (R363). -/
def heliostatQuad (cl : Nat) : Nat := cl / 96 * 2 ^ 12 + cl % 96 / 6 * 2 ^ 8 + 2 * (cl % 6) * 2 ^ 4
def Cmd.via (c : Cmd) : Via := .quad (heliostatQuad (clusterOf c.core))

/-- Where an address of a command leads: an access to a page whose class is changing waits, unless the change waits for the
command (R286, R287). -/
def engineWhere (c : Cmd) (kind : Kind) (ea : Nat) : Act (Except Refused Phys) := do
  let s ← get
  let root := s.effPtroot c.rcb
  waitUntil (!s.walkWaits c.via root ea) .memory
  match translate s c.via root kind ea with
  | .error e => return .error e
  | .ok (p, s') =>
    waitUntil (!p.blocked s' c.id) .memory
    set s'
    return .ok p

/-- An access of a command's engine, checked as one of the issuing context (R288, R289): the address, the old value, and the
timestamp of an HC line. -/
def engineTouch (c : Cmd) (kind : Kind) (ea n : Nat) (f : Nat → Option Nat) : Act (Nat × Nat × Option Nat) := do
  unlessFault (ea % n == 0) cMISALIGNED (some (word ea))
  match (← engineWhere c kind ea) with
  | .error e => refuse e
  | .ok p =>
    let s ← get
    match p.check s c.mode c.core kind with
    | .error e => refuse e
    | .ok _ =>
      match s.touch ⟨c.id, c.core, c.fc⟩ c.rcb c.cts p n f with
      | .error e => throw e
      | .ok (s, old, t) => set s; return (p.ga, old, t)

/-- n bytes at ea, read by the engine. -/
def engineRead (c : Cmd) (ea n : Nat) : Act Nat := do
  let (_, old, _) ← engineTouch c .r (ea % 2 ^ 64) n (fun _ => none)
  return old

/-- n bytes at ea, written by the engine; it gives up its claim on the line unless it has still to write there. Gives the
largest timestamp of the command, which only writes to HC lines raise (R288, R289). -/
def engineWrite (c : Cmd) (ea n x : Nat) (later : List (Nat × Nat)) : Act Nat := do
  let (ga, _, t) ← engineTouch c .w (ea % 2 ^ 64) n (fun _ => some x)
  if later.any (fun r => overlap r.1 r.2 (ea / 64 * 64) 64) then pure ()
  else modify (·.dropClaim (lineOf ga) c.id)
  return max c.ts (t.getD 0)

/-- The engine claims one destination line, or its core gives the line up (R288). -/
def claimLine (c : Cmd) (ea : Nat) : Act Unit := do
  match (← engineWhere c .w (ea % 2 ^ 64)) with
  | .ok p => modify (·.claimFor c.id p)
  | .error _ => pure ()

/-- It claims every line of ranges of effective addresses. -/
def claimRanges (c : Cmd) (l : List (Nat × Nat)) : Act Unit :=
  l.forM (fun r => if r.2 = 0 then pure () else
    (List.range ((r.1 % 64 + r.2 + 63) / 64)).forM (fun k => claimLine c (r.1 / 64 * 64 + 64 * k)))

/-! ### Issuing a command -/

/-- A tile a command names, of an accepted role (R317). -/
def cmdTile (r : Reg) (ok : Tile → Bool) : Act Tile := do
  let t ← needTile r
  unlessFault (ok t) cTILE_FORMAT (some (tileCode r))
  return t

def Tile.isRows (t : Tile) : Bool := t.role != .csm
def Tile.isPlain (t : Tile) : Bool := t.isRows && t.fmt != Fmt.m4

/-- The channel of a cluster. -/
def Cluster.chan (c : Cluster) (k : Nat) : List Cmd := c.chans[k % 16]'(Nat.mod_lt _ (by decide))
def Cluster.setChan (c : Cluster) (k : Nat) (l : List Cmd) : Cluster :=
  { c with chans := c.chans.set (k % 16) l (Nat.mod_lt _ (by decide)) }

/-- The X command of the follow-on slot (R25, R40). -/
def followOf (f : Bool) (c : Ctx) : Option Instr :=
  if f then (match c.line with | some l => (match l.follow c.pc with | .ok i => some i | .error _ => none) | none => none)
  else none

/-- Queue a command (R315, R318): a full channel makes it wait, its tile's ticket names it, and it claims the lines it will
write (R288). -/
def queueCmd (i : Instr) (ch : Nat) (a b c dst : Word) (follow : Bool) : Act Unit := do
  let s ← get
  let cl := clusterOf s.core
  waitUntil (decide (((s.clusterAt cl).chan ch).length < 64)) .answer
  let key ← newId
  let cmd : Cmd := {
    id := key, core := s.core, fc := s.fc % 4, i := i, rcb := s.ctx.rcb, mode := s.ctx.mode, a := a, b := b, c := c,
    dst := dst, follow := followOf follow s.ctx, checked := false, scales := [], held := [], stage := .queued, pos := 0, rows := [], cts := s.ctx.cts, status := 0,
    ts := 0 }
  modify (·.modCluster cl (fun x => x.setChan ch (x.chan ch ++ [cmd])))
  let ticket (n : Option Nat) : Act Unit := match n with
    | some n => modCore (·.setTile n (fun t => { t with ticket := some key, status := 0, statusTs := 0 }))
    | none => pure ()
  ticket (cmdDest i)
  ticket (cmdSource i)
  claimRanges cmd ((← get).cmdDests cmd 0)

def align16 (x : Word) : Act Unit := unlessFault (x.toNat % 16 == 0) cMISALIGNED (some x)
def align32 (x : Word) : Act Unit := unlessFault (x.toNat % 32 == 0) cMISALIGNED (some x)

/-- A tile whose K axis has 32 elements, in a format that smoothing accepts (R319). -/
def Tile.smooths (t : Tile) : Bool :=
  (t.role == .csm || !t.wide) &&
  (match t.fmt with
   | .f64 => true | .f32 => true | .f16 => true | .bf16 => true | .e4m3 => true | .e5m2 => true | _ => false)

/-- The checks on gK (R317, R319). -/
def smoothCheck (t : Option Tile) (k : Word) : Act Unit := do
  unlessFault (match t with | some t => t.smooths | none => false) cILLEGAL_OPERAND
  unlessFault (k.toNat % 128 == 0 && decide (k.toNat + 128 ≤ (← getCore).bankCount .scr * 0x2000)) cILLEGAL_OPERAND (some k)

/-- HCOPY (R317, R319). -/
def execHcopy (o : EOps) (s : State) := issueNext (.hcopy o) o.h (do
  let c ← getCtx
  let src := c.rg o.h.s1.index
  let n := c.rg o.h.s2.index
  let k := c.rg o.h.s3.index
  if o.h.d.isT then
    let t ← cmdTile o.h.d (fun _ => true)
    unlessFault (decide (n.toNat = t.bytes)) cILLEGAL_OPERAND (some n)
    if o.opt.getLsbD 0 then smoothCheck (some t) k
    align16 src
    queueCmd (.hcopy o) o.ch.toNat src n k 0 o.f
  else
    let dst := c.rg o.h.d.index
    unlessFault (n.toNat % 16 == 0) cILLEGAL_OPERAND (some n)
    if o.opt.getLsbD 0 then smoothCheck none k
    align16 src
    align16 dst
    queueCmd (.hcopy o) o.ch.toNat src n k dst false) s

/-- HGATH (R317, R320). -/
def execHgath (o : EOps) (s : State) := issueNext (.hgath o) o.h (do
  let c ← getCtx
  let n := c.rg o.h.s1.index
  let l := c.rg o.h.s2.index
  let _ ← cmdTile o.h.d Tile.isRows
  unlessFault (decide (n.toNat ≤ 32)) cILLEGAL_OPERAND (some n)
  align32 l
  queueCmd (.hgath o) o.ch.toNat n l 0 0 o.f) s

/-- HSCAT (R317, R320). -/
def execHscat (o : EOps) (s : State) := issueNext (.hscat o) o.h (do
  let c ← getCtx
  let l := c.rg o.h.s1.index
  let n := c.rg o.h.s2.index
  let _ ← cmdTile o.h.s3 Tile.isRows
  unlessFault (decide (n.toNat ≤ 32)) cILLEGAL_OPERAND (some n)
  align32 l
  queueCmd (.hscat o) o.ch.toNat n l 0 0 false) s

/-- HPACK (R317, R321). -/
def execHpack (o : EOps) (s : State) := issueNext (.hpack o) o.h (do
  let r ← readGReg o.h.s1
  let _ ← cmdTile o.h.s3 Tile.isPlain
  align32 r
  queueCmd (.hpack o) o.ch.toNat 0 r 0 0 false) s

/-- HUNPK (R317, R321). -/
def execHunpk (o : EOps) (s : State) := issueNext (.hunpk o) o.h (do
  let r ← readGReg o.h.s1
  let _ ← cmdTile o.h.d Tile.isPlain
  align32 r
  queueCmd (.hunpk o) o.ch.toNat 0 r 0 0 o.f) s

/-- The commands of a cluster that have not completed. -/
def State.pendingCmds (s : State) (cl : Nat) : List Cmd := (s.clusterAt cl).chans.toList.flatten

/-- HWAIT (R322). -/
def execHwait (o : EOps) (s : State) := issueNext (.hwait o) o.h (do
  let s ← get
  let cl := clusterOf s.core
  if o.opt.getLsbD 0 then
    waitUntil (!((s.clusterAt cl).chan o.ch.toNat).any (fun c => c.core == s.core && c.fc == s.fc % 4)) .answer
    let (status, ts) := Sys2Proof.Machine.tget (0, 0) s.ctx.channels o.ch.toNat
    modCtx (fun c => { c with cts := max c.cts ts })
    writeD o.h.d status
  else
    let t ← needTile o.h.s1
    match t.ticket with
    | some id =>
      waitUntil (!(s.pendingCmds cl).any (·.id == id)) .tile true
      modCtx (fun c => { c with cts := max c.cts t.statusTs })
      writeD o.h.d t.status
    | none => writeD o.h.d 0) s

/-- HCANCEL (R323): a command whose follow-on product has been made runs to its end and is not counted. -/
def execHcancel (o : EOps) (s : State) := issueNext (.hcancel o) o.h (do
  let s ← get
  let cl := clusterOf s.core
  let mine := ((s.clusterAt cl).chan o.ch.toNat).filter (fun c =>
    c.core == s.core && c.fc == s.fc % 4 && c.stage != .made)
  modify (fun s => (mine.foldl (fun s c => s.cancelCmd cl c) s).finishSaves)
  writeD o.h.d (word mine.length)) s

/-! ### The start of a command -/

def State.setCmd (s : State) (c : Cmd) : State :=
  s.modCluster (clusterOf c.core) (fun x => x.setChan c.channel ((x.chan c.channel).map (fun d => if d.id == c.id then c else d)))

/-- A command takes its tiles (R119, R224): a destination goes FILLING, a source DRAINING. -/
def takeTiles (c : Cmd) : Act Unit := do
  afterAccesses c.id
  match cmdDest c.i with
  | some n =>
    let _ ← needTile (.t (BitVec.ofNat 6 n))
    takeTile n c.id none
  | none => pure ()
  match cmdSource c.i with
  | some n =>
    let t ← needTile (.t (BitVec.ofNat 6 n))
    tileError t
    waitUntil (t.state == .ready) .tile
    modCore (·.setTile n (fun t => { t with state := .draining }))
  | none => pure ()

/-- Row ids of a gather list, from entry k on. -/
def listRows (c : Cmd) (list base stride : Nat) : Nat → Nat → Act (List Word)
  | 0, _ => pure []
  | n + 1, k => do
    let id ← engineRead c (list + 4 * k) 4
    let rest ← listRows c list base stride n (k + 1)
    return word (base + stride * id) :: rest

/-- The addresses a command's descriptor gives (R320, R321). -/
def readDescriptor (c : Cmd) : Act (List Word) := do
  let g := c.b.toNat
  let word4 : Act (Nat × Nat × Nat × Nat) := do
    return (← engineRead c g 8, ← engineRead c (g + 8) 8, ← engineRead c (g + 16) 8, ← engineRead c (g + 24) 8)
  let gather : Act (List Word) := do
    let (list, base, w2, _) ← word4
    unlessFault (list % 4 == 0 && base % 16 == 0 && bits w2 31 0 % 16 == 0) cMISALIGNED
    unlessFault (bits w2 63 32 == 0) cILLEGAL_OPERAND
    listRows c list base (bits w2 31 0) c.a.toNat 0
  let pointers : Act (List Word) := do
    let (rowptr, colidx, values, w3) ← word4
    unlessFault (w3 == 0) cILLEGAL_OPERAND
    return [word rowptr, word colidx, word values]
  match c.i with
  | .hgath _ => gather
  | .hscat _ => gather
  | .hpack _ => pointers
  | .hunpk _ => pointers
  | _ => return []

/-- A failure's status, with the conditions and TRUNC so far (R318). -/
def faultStatus (index cause : Nat) (c : Cmd) : Word :=
  word (index * 2 ^ 32 + bits c.status.toNat 12 9 * 2 ^ 9 + 0x80 + cause % 128)

/-- The addresses of row i of HUNPK: of its values, of its column indices and of its row pointer (R321). -/
def State.unpackAddresses (s : State) (c : Cmd) (i : Nat) : Word × Word × Word :=
  let at' (k : Nat) := (c.rows.getD k 0).toNat
  let p := at' 0 + 4 * i
  let first := s.peekAt c.core c.rcb p 4
  let n := match (cmdDest c.i).bind (tfind (s.coreAt c.core).tiles) with | some t => Fmt.width t.fmt / 8 | none => 0
  (word (at' 2 + n * first), word (at' 1 + 2 * first), word p)

/-- The address a failed fill leaves in its tile (R224): of the unit of HCOPY, or of the row of HGATH or HUNPK. A row of HUNPK
stands at three addresses, and which of them it is is a free choice (log entry 152); of a descriptor that could not be read no
rule says an address, and it is a free value. -/
def State.failAddress (s : State) (c : Cmd) (index : Nat) : Word × State :=
  match c.i, c.rows[index]? with
  | .hcopy _, _ => (word (c.a.toNat + 16 * c.pos), s)
  | .hgath _, some a => (a, s)
  | .hunpk _, _ =>
    let (w, s') := s.takeFresh
    let (v, k, p) := s.unpackAddresses c index
    if c.stage == .running then (match w.toNat % 3 with | 0 => v | 1 => k | _ => p, s') else (w, s')
  | _, _ => s.takeFresh

/-- A command stops with a cause (R119, R224, R288, R318): it moves no more, its follow-on is not made, and a destination
tile is EMPTY with the cause. -/
def State.failCmd (s : State) (c : Cmd) (index cause : Nat) : State :=
  let s := ((s.setTileState c.core (cmdDest c.i) .empty).setTileState c.core (cmdSource c.i) .ready).releaseClaims c.id
  let s := match cmdDest c.i with
    | some n =>
      let (a, s) := s.failAddress c index
      s.modCore c.core (·.setTile n (fun t => { t with err := some (cause, a) }))
    | none => s
  s.setCmd { c with stage := .moved, follow := none, status := faultStatus index cause c }

/-- The command of a channel that starts next: the first that has not started, behind commands that have moved
(R315). -/
def nextCmd : List Cmd → Option Cmd
  | [] => none
  | c :: rest => match c.stage with
    | .queued => some c
    | .running => none
    | _ => nextCmd rest

/-- The state after a command's start, if it can start. Its descriptor may have changed since it issued: the lines it names now
are claimed too. -/
def State.startCmd (s : State) (c : Cmd) : Option State :=
  let s := s.at c.core c.fc
  match (takeTiles c).run s with
  | .error (.wait _ _) => none
  | .error (.trap t) =>
    some ((s.releaseClaims c.id).setCmd { c with stage := .moved, follow := none, status := faultStatus 0 t.cause c })
  | .ok (_, s) =>
    match (readDescriptor c).run s with
    | .error (.wait _ _) => none
    | .error (.trap t) => some ((s.countWalk c.via (s.effPtroot c.rcb) t.cause t.tval).failCmd c 0 t.cause)
    | .ok (rows, s) =>
      let c := { c with stage := .running, rows := rows }
      match (claimRanges c (s.cmdDests c 0)).run (s.setCmd c) with
      | .ok (_, s) => some s
      | .error _ => none

/-- HELIOSTAT_COMMAND_START. -/
def execHeliostatCommandStart (cluster channel : Nat) (s : State) : Host.Outcome State Fault Refusal :=
  .next (match nextCmd ((s.clusterAt cluster).chan channel) with
    | some c => (match s.startCmd c with | some s' => { s' with core := s.core, fc := s.fc } | none => s)
    | none => s)

/-! ### Moving -/

/-- The divisors of 16 bytes that start in a memory row: the K index of the first, and their number (R319). -/
def unitDivisors (t : Tile) (row off : Nat) : Nat × Nat :=
  let w := Fmt.width t.fmt
  if t.role == .csm then (row, 1) else (off * 8 / w, 128 / w)

/-- The divisors of a unit can be read: a pool move of their SCR bank and a fill of another command hold it up, an offset beyond
the role raises POOL_RANGE, and an uncorrectable error MACHINE_UE (R107, R115, R120, R386). -/
def divisorsReady (c : Cmd) (t : Tile) (row off : Nat) : Act Unit := do
  let s ← get
  let (first, n) := unitDivisors t row off
  let a := c.c.toNat + 4 * first
  let k := s.coreAt c.core
  waitUntil (!(({ k with tiles := k.tiles.filter (fun e => some e.1 != cmdDest c.i) } : Core).poolWaits 1 a (4 * n) false)) .memory
  unlessFault (k.inRole 1 a (4 * n)) cPOOL_RANGE (some (word (poolAddr 1 c.core a)))
  unlessFault (!s.bad (poolAddr 1 c.core a) (4 * n)) cMACHINE_UE (some (word (poolAddr 1 c.core a)))

/-- The smoothing fold of 16 bytes that start in a memory row (R319). -/
def smoothUnit (s : State) (c : Cmd) (t : Tile) (rm row off x : Nat) : Nat × Flags :=
  let w := Fmt.width t.fmt
  let (first, m) := unitDivisors t row off
  let div (k : Nat) := s.rdNat (poolAddr 1 c.core (c.c.toNat + 4 * k)) 4
  let r := (List.range (128 / w)).map (fun e =>
    let k := first + e % m
    roundSum t.fmt rm 0 [mulFV (decodeF t.fmt (bits x (w * e + w - 1) (w * e))) (decodeF .f32 (div k))])
  (((r.zipIdx).map (fun p => p.1.1 * 2 ^ (w * p.2))).sum, orFlags (r.map (·.2)))

/-- Tile bytes of one unit land (R319, R320). -/
def landUnit (c : Cmd) (n row off x : Nat) : Act Unit := do
  let s ← get
  match tfind (s.coreAt c.core).tiles n with
  | some t => set (s.landRow c.core t row off (bytesOf 16 x))
  | none => pure ()

/-- Add the timestamp and the conditions of a unit to its command, and go on to the next unit. -/
def moved (c : Cmd) (ts : Nat) (flags : Nat) : Act Unit :=
  modify (·.setCmd { c with pos := c.pos + 1, ts := ts, status := word (Nat.lor c.status.toNat (flags * 2 ^ 9)) })

/-- One 16-byte unit of HCOPY (R319). -/
def copyUnit (c : Cmd) (o : EOps) : Act Unit := do
  let s ← get
  let x ← engineRead c (c.a.toNat + 16 * c.pos) 16
  match (cmdDest c.i).bind (tfind (s.coreAt c.core).tiles) with
  | some t =>
    let row := c.pos / tileUnits t
    let off := 16 * (c.pos % tileUnits t)
    if o.opt.getLsbD 0 then divisorsReady c t row off
    let (x, fl) := if o.opt.getLsbD 0 then smoothUnit s c t o.h.rm.toNat row off x else (x, 0)
    landUnit c o.h.d.index row off x
    moved c c.ts (2 * zBits fl)
  | none =>
    let a := c.dst.toNat + 16 * c.pos
    let ts ← engineWrite c a 16 x (s.cmdDests c (c.pos + 1))
    moved c ts 0

/-- One 16-byte unit of a gathered or scattered row (R320). -/
def rowUnit (c : Cmd) : Act Unit := do
  let s ← get
  match cmdDest c.i, cmdSource c.i with
  | some n, _ =>
    match tfind (s.coreAt c.core).tiles n with
    | some t =>
      let row := c.pos / tileUnits t
      let off := 16 * (c.pos % tileUnits t)
      let x ← match c.rows[row]? with
        | some a => engineRead c (a.toNat + off) 16
        | none => pure 0
      landUnit c n row off x
      moved c c.ts 0
    | none => moved c c.ts 0
  | none, some n =>
    match tfind (s.coreAt c.core).tiles n with
    | some t =>
      let row := c.pos / tileUnits t
      let off := 16 * (c.pos % tileUnits t)
      match c.rows[row]? with
      | some a =>
        let ts ← engineWrite c (a.toNat + off) 16 (natOfBytes (s.tileRow c.core t row off 16)) (s.cmdDests c (c.pos + 1))
        moved c ts 0
      | none => moved c c.ts 0
    | none => moved c c.ts 0
  | none, none => moved c c.ts 0

/-- The elements of an unpacked row, from entry j on (R321): none when a column is outside the tile. -/
def unpackRow (c : Cmd) (colidx values n cols : Nat) : Nat → Nat → List Nat → Act (Option (List Nat))
  | 0, _, row => pure (some row)
  | m + 1, j, row => do
    let k ← engineRead c (colidx + 2 * j) 2
    if k = 0xFFFF then unpackRow c colidx values n cols m (j + 1) row
    else if cols ≤ k then return none
    else
      let v ← engineRead c (values + n * j) n
      unpackRow c colidx values n cols m (j + 1) (row.set k v)

/-- Write the packed elements of a row, then the padding (R321). -/
def packRow (c : Cmd) (later : List (Nat × Nat)) (colidx values n : Nat) : Nat → Nat → List (Nat × Nat) → Nat → Act Nat
  | 0, _, _, ts => pure ts
  | m + 1, j, l, ts => do
    let (k, v) := l.headD (0xFFFF, 0)
    let t1 ← engineWrite { c with ts := ts } (colidx + 2 * j) 2 k later
    let t2 ← engineWrite { c with ts := t1 } (values + n * j) n v later
    packRow c later colidx values n m (j + 1) (l.drop 1) t2

/-- The range of row i in the row pointers (R321). -/
def rowRange (c : Cmd) (i : Nat) : Act (Nat × Nat) := do
  let p := (c.rows.getD 0 0).toNat
  let a ← engineRead c (p + 4 * i) 4
  let b ← engineRead c (p + 4 * (i + 1)) 4
  unlessFault (decide (a ≤ b)) cSPARSE_ROWPTR
  return (a, b)

/-- One row of HUNPK or HPACK (R321). -/
def pointerRow (c : Cmd) : Act Unit := do
  let s ← get
  let i := c.pos
  let colidx := (c.rows.getD 1 0).toNat
  let values := (c.rows.getD 2 0).toNat
  let (a, b) ← rowRange c i
  match cmdDest c.i, cmdSource c.i with
  | some d, _ =>
    match tfind (s.coreAt c.core).tiles d with
    | some t =>
      let n := Fmt.width t.fmt / 8
      match (← unpackRow c colidx values n t.cols (b - a) a (List.replicate t.cols 0)) with
      | some row =>
        modify (·.landRow c.core t i 0 (row.flatMap (bytesOf n)))
        moved c c.ts 0
      | none => fault cSPARSE_ROWPTR none
    | none => moved c c.ts 0
  | none, some d =>
    match tfind (s.coreAt c.core).tiles d with
    | some t =>
      let n := Fmt.width t.fmt / 8
      let zero (x : Nat) : Bool := if t.fmt.isFloat then x % 2 ^ (Fmt.width t.fmt - 1) == 0 else x == 0
      let l := ((List.range t.cols).map (fun k => (k, s.readTile c.core t i k))).filter (fun e => !zero e.2)
      let ts ← packRow c (s.cmdDests c (i + 1)) colidx values n (b - a) a (l.take (b - a)) c.ts
      moved c ts (natOfBool (decide (b - a < l.length)))
    | none => moved c c.ts 0
  | none, none => moved c c.ts 0

/-- How many units a command moves. -/
def State.cmdUnits (s : State) (c : Cmd) : Nat :=
  let tile := ((cmdDest c.i).or (cmdSource c.i)).bind (tfind (s.coreAt c.core).tiles)
  match c.i, tile with
  | .hcopy _, _ => c.b.toNat / 16
  | .hgath _, some t => 32 * tileUnits t
  | .hscat _, some t => c.a.toNat * tileUnits t
  | _, _ => 32

def moveUnit (c : Cmd) : Act Unit :=
  match c.i with
  | .hcopy o => copyUnit c o
  | .hgath _ => rowUnit c
  | .hscat _ => rowUnit c
  | _ => pointerRow c

/-! ### The end of a move, the follow-on, and the end of a command -/

/-- The checks of a follow-on product, in the core that issued the copy, and the scale entries it reads (R213, R227). -/
def followCheck (h : Hd) (f : Fmt) : Act (List Nat) := do
  match (← getCore).outOfView [h.d] with
  | some k => fault cVIEW_RANGE (some (word k))
  | none => pure ()
  productTiles h f none

/-- The fields and format of a follow-on. -/
def followParts : Instr → Option (TOps × Fmt × Bool)
  | .mma o => some (o, o.fmt1, false)
  | .mmaS o => some (o, o.fmt1, true)
  | .dmma o => some (o, .f64, false)
  | _ => none

/-- A follow-on product is not made: the command ends with the cause, and its tiles have one reader fewer (R227). The fill itself
has ended: its tile stays READY and keeps no error, although the status has FAULT set (R224; log entry 151). -/
def State.failFollow (s : State) (c : Cmd) (cause : Nat) : State :=
  (s.modCore c.core (·.dropReaders c.held)).setCmd { c with follow := none, held := [], status := faultStatus 0 cause c }

/-- A follow-on holds tile n as a reader once the tile is READY; an error in it ends the command (R120, R213, R227). -/
def State.holdTile (s : State) (c : Cmd) (n : Nat) : Except Nat (State × Cmd) :=
  match (if c.held.contains n then none else tfind (s.coreAt c.core).tiles n) with
  | some t =>
    match t.err with
    | some (cause, _) => .error cause
    | none =>
      if t.state == .ready && !(s.coreAt c.core).writesOver t then .ok (s.modCore c.core (·.addReaders [n]), { c with held := c.held ++ [n] }) else .ok (s, c)
  | none => .ok (s, c)

/-- A follow-on that has passed its checks takes hold of the tiles that are READY. -/
def State.holdTiles (s : State) (c : Cmd) (h : Hd) : State × Cmd :=
  match s.holdTile c h.s1.index with
  | .error cause => (s.failFollow c cause, { c with follow := none })
  | .ok (t, d) =>
    match t.holdTile d h.s2.index with
    | .error cause => (t.failFollow d cause, { d with follow := none })
    | .ok (t, d) => (t.setCmd d, d)

/-- The checks of a follow-on are made, once, and its READY tiles held (R213, R227). A check whose scale memory is moving waits
(R115). -/
def State.checkFollow (s : State) (c : Cmd) : State :=
  match c.follow.bind followParts with
  | some (o, f, _) =>
    match (followCheck o.h f).run (s.at c.core c.fc) with
    | .error (.trap t) => s.failFollow c t.cause
    | .error (.wait _ _) => s
    | .ok (scales, _) => (s.holdTiles { c with checked := true, scales := scales } o.h).1
  | none => s

/-- The last unit has moved (R119, R227): the tiles go READY, and the follow-on's checks are made. -/
def State.endData (s : State) (c : Cmd) : State :=
  let s := ((s.setTileState c.core (cmdDest c.i) .ready).setTileState c.core (cmdSource c.i) .ready).releaseClaims c.id
  let c := { c with stage := .moved }
  (s.setCmd c).checkFollow c

/-- A command that no record has closed yet, with its cluster, and whether it is the head of its channel. -/
def State.findCmd (s : State) (id : Nat) : Option (Nat × Cmd × Bool) :=
  s.clusters.findSome? (fun cl => ((cl.2.chans.toList.flatten).find? (·.id == id)).map (fun c =>
    (cl.1, c, (((cl.2.chan c.channel).head?).map (·.id)) == some id)))

/-- HELIOSTAT_COMMAND_COMPLETE: the command moves its next unit; after the last, and behind every earlier command of its
channel, its record is written (R12, R318). -/
def execHeliostatCommandComplete (cmd : Nat) (s : State) : Host.Outcome State Fault Refusal :=
  .next (match s.findCmd cmd with
    | none => s
    | some (cl, c, head) =>
      match c.stage with
      | .queued => s
      | .running =>
        if s.cmdUnits c ≤ c.pos then s.endData c
        else match (moveUnit c).run (s.at c.core c.fc) with
          | .ok (_, s') => { s' with core := s.core, fc := s.fc, half := s.half }
          | .error (.trap t) =>
            (s.countWalk c.via (s.effPtroot c.rcb) t.cause t.tval).failCmd c (s.cmdIndex c) t.cause
          | .error (.wait _ _) => s
      | _ => if c.follow.isNone && head then (s.endCmd cl c c.status).finishSaves else s)

/-- The product of a follow-on, on the array (R216 to R219, R227): it waits for both tiles, the array and its
accumulator. -/
def followProduct (c : Cmd) (o : TOps) (f : Fmt) (sparse : Bool) : Act Unit := do
  waitUntil (c.held.contains o.h.s1.index && c.held.contains o.h.s2.index) .tile
  let k ← getCore
  waitUntil (!k.arrayBusy) .register
  let reads := k.zSpan o.h.d.index ++ k.tileSpan o.h.s1.index
  waitGranules reads (k.zSpan o.h.d.index) c.held
  soundBytes reads
  tileSound o.h.s1
  tileSound o.h.s2
  if sparse && !o.opt.getLsbD 0 then sparseCheck o.h f c.scales
  product o.h f (if f = .f64 then TOps.half o else 0) c.scales
  modCore (·.dropReaders c.held)

/-- FOLLOW_ON_PRODUCT (R12, R227): it holds its tiles as they turn READY; then the product is made, and only its record is left,
which is written in the order of its channel. -/
def execFollowOnProduct (cmd : Nat) (s : State) : Host.Outcome State Fault Refusal :=
  .next (match s.findCmd cmd with
    | some (_, c, _) =>
      match c.stage, c.follow.bind followParts with
      | .moved, some (o, f, sparse) =>
        if !c.checked then s.checkFollow c
        else
          let (t, c) := s.holdTiles c o.h
          if c.follow.isNone then t
          else match (followProduct c o f sparse).run (t.at c.core c.fc) with
            | .ok (_, t) => ({ t with core := s.core, fc := s.fc, half := s.half } : State).setCmd
                { c with stage := .made, follow := none, held := [] }
            | .error (.trap e) => t.failFollow c e.cause
            | .error (.wait _ _) => t
      | _, _ => s
    | none => s)

end Sys2Proof.Machine
end

