-- ==== Sys2Proof/Machine/Sfu.lean ====
section
/-! DEFINITION. The special functions (R156 to R160, R210, R211). Their exact values are approached by rationals; the bound
of R157 decides what a result may be (log entry 40). -/

namespace Sys2Proof.Machine

/-! ### Approximations

A number x is held as an integer of 2^-P units. Every value below is within 2^-200 of the exact one, relative to it, for
the arguments the formats have: small ones take the first terms of the series as they are. -/

def fixBits : Nat := 400

/-- Truncated rational to 2^-P units. -/
def toFix (x : Rat) : Int := (x * (2 ^ fixBits : Nat)).floor
def ofFix (x : Int) : Rat := (x : Rat) / ((2 ^ fixBits : Nat) : Rat)
def mulFix (a b : Int) : Int := a * b / (2 ^ fixBits : Nat)

/-- Terms t, t·x/k, … of a power series: the sum of n of them. -/
def seriesFix (x : Int) : Nat → Nat → Int → Int
  | 0, _, _ => 0
  | n + 1, k, t => t + seriesFix x n (k + 1) (mulFix t x / (k + 1))

/-- e^x for |x| < 1, in units of 2^-P. -/
def expFix (x : Int) : Int := seriesFix x 110 0 (2 ^ fixBits : Nat)

/-- Σ ±z^(2k+1)/(2k+1): atanh, or atan when the signs alternate. -/
def oddSeries (zz : Int) (alternate : Bool) : Nat → Nat → Int → Int
  | 0, _, _ => 0
  | n + 1, k, t => t / (2 * k + 1) + oddSeries zz alternate n (k + 1) (if alternate then -(mulFix t zz) else mulFix t zz)

/-- 1/n to arctan(1/n) or artanh(1/n). -/
def arcInv (n : Nat) (alternate : Bool) (terms : Nat) : Int :=
  oddSeries ((2 ^ fixBits : Nat) / (n * n)) alternate terms 0 ((2 ^ fixBits : Nat) / n)

/-- ln 2 = 2 artanh(1/3). -/
def ln2Fix : Int := 2 * arcInv 3 false 140

/-- An argument so small that the terms left out of its series are below 2^-300 of the last one kept. -/
def tiny (x : Rat) : Bool := decide (-(pow2 (-100)) < x) && decide (x < pow2 (-100))

/-- e^x as a positive rational: 2^k · e^r with |r| < 1. -/
def expRat (x : Rat) : Rat :=
  if tiny x then 1 + x + x * x / 2 + x * x * x / 6 else
  let l := ofFix ln2Fix
  let k := (x / l).floor
  pow2 k * ofFix (expFix (toFix (x - (k : Rat) * l)))

/-- ln m for m > 0. -/
def lnRat (m : Rat) : Rat :=
  let e0 := floorLog2 m
  let e := if m * pow2 (-e0) < 4 / 3 then e0 else e0 + 1
  let y := m * pow2 (-e)
  let z := toFix ((y - 1) / (y + 1))
  2 * ofFix (oddSeries (mulFix z z) false 140 0 z) + (e : Rat) * ofFix ln2Fix

/-- arctan(1/n) in units of 2^-q: enough digits of π for any argument of FP64. -/
def arcTanInv (q n : Nat) : Nat → Nat → Int → Int
  | 0, _, _ => 0
  | t + 1, k, x => x / (2 * k + 1) + arcTanInv q n t (k + 1) (-(x / (n * n)))
/-- π in units of 2^-1500, by 16 arctan(1/5) − 4 arctan(1/239). -/
def piBig : Int := 16 * arcTanInv 1500 5 330 0 ((2 ^ 1500 : Nat) / 5) - 4 * arcTanInv 1500 239 100 0 ((2 ^ 1500 : Nat) / 239)
def piRat : Rat := (piBig : Rat) / ((2 ^ 1500 : Nat) : Rat)

/-- Σ (−1)^k x^(2k)/(2k)! or its odd companion: n terms from term t of index k. -/
def circular (xx : Int) : Nat → Nat → Int → Int
  | 0, _, _ => 0
  | n + 1, k, t => t + circular xx n (k + 2) (-(mulFix t xx / ((k + 1) * (k + 2))))

/-- sin x (or cos x) of any rational x: the quarter turns are taken off first. -/
def sinCos (cosine : Bool) (x : Rat) : Rat :=
  if tiny x then (if cosine then 1 - x * x / 2 else x - x * x * x / 6) else
  let half := piRat / 2
  let n := (x / half + 1 / 2).floor
  let r := toFix (x - (n : Rat) * half)
  let q := (n + if cosine then 1 else 0) % 4
  let rr := mulFix r r
  let sinR := ofFix (circular rr 60 1 r)
  let cosR := ofFix (circular rr 60 0 (2 ^ fixBits : Nat))
  if q = 0 then sinR else if q = 1 then cosR else if q = 2 then -sinR else -cosR

/-- erf x for 0 ≤ x < 8. -/
def erfSeries (xx : Rat) : Nat → Nat → Rat → Rat
  | 0, _, _ => 0
  | n + 1, k, t => t / (2 * k + 1 : Nat) + erfSeries xx n (k + 1) (ofFix (toFix (-(t * xx) / (k + 1 : Nat))))
/-- The square root of a positive rational, truncated to q bits, and whether it is exact. -/
def sqrtRat (q : Nat) (x : Rat) : Rat × Bool :=
  let n := (x * ((2 ^ (2 * q) : Nat) : Rat)).floor.toNat
  let k := Nat.sqrt n
  let y : Rat := (k : Rat) / ((2 ^ q : Nat) : Rat)
  if y * y = x then (y, true) else (((2 * k + 1 : Nat) : Rat) / ((2 ^ (q + 1) : Nat) : Rat), false)
def erfRat (x : Rat) : Rat :=
  if 8 ≤ x then 1 - pow2 (-90) else 2 * erfSeries (x * x) 400 0 x / (sqrtRat 600 piRat).1

/-! ### Results -/

/-- Which functions are only bounded, with the bound in ULP; none where they are correctly rounded (R157). -/
inductive Sfu
  | div | sqrt | rcp | rsq | exp | exp2 | log | log2 | sin | cos | tanh | sigmoid | erf
  deriving DecidableEq, Repr

def Sfu.code : Sfu → Nat
  | .div => 0 | .sqrt => 1 | .rcp => 2 | .rsq => 3 | .exp => 4 | .exp2 => 5 | .log => 6 | .log2 => 7 | .sin => 8
  | .cos => 9 | .tanh => 10 | .sigmoid => 11 | .erf => 12

def Sfu.bound (g : Sfu) (f : Fmt) : Option Nat :=
  match g with
  | .div => none
  | .sqrt => none
  | .tanh => some 2
  | .sigmoid => some 2
  | .erf => some 2
  | _ => if f = .f64 ∨ f = .f32 then some 1 else none

/-- The ULP of a value (R156). -/
def ulpOf (f : Fmt) (y : Rat) : Rat :=
  let p := Fmt.fracBits f
  let top := match decodeF f (maxCode f) with | .fin _ m => m | _ => 0
  pow2 (max (floorLog2 (min y top)) (Fmt.emin f) - p)

/-- The result for an input whose exact value y ≠ 0 is not one of R159: the code, and the conditions of R160 when the
result is not exact. A bounded function gives the value the hardware fixes, if that is within the bound (R158). -/
def finish1 (g : Sfu) (f : Fmt) (input : Nat) (exact : Bool) (neg : Bool) (y : Rat) : Nat × Flags :=
  let rne := roundFin f 0 0 neg y
  if exact && (rne.2 &&& fNX) == 0 then (rne.1, 0)
  else
    let code := match g.bound f with
      | none => rne.1
      | some b =>
        let r := Config.special g.code (Fmt.code f).toNat input % 2 ^ Fmt.width f
        match decodeF f r with
        | .fin n m =>
          let d := (if n then -m else m) - (if neg then -y else y)
          if (if d < 0 then -d else d) ≤ (b : Rat) * ulpOf f y then r else rne.1
        | _ => rne.1
    let fl := match decodeF f code with
      | .inf _ => fOF ||| fNX
      | .fin _ m => if m < pow2 (Fmt.emin f) then fUF ||| fNX else fNX
      | .nan _ => 0
    (code, fl)

/-- A quotient rounded once (R135, R151, R160). -/
def divR (f : Fmt) (rm a b : Nat) : Nat × Flags :=
  match decodeF f a, decodeF f b with
  | .nan s, .nan t => (canonNaN f, if s || t then fNV else 0)
  | .nan s, _ => (canonNaN f, if s then fNV else 0)
  | _, .nan t => (canonNaN f, if t then fNV else 0)
  | .inf _, .inf _ => (canonNaN f, fNV)
  | .inf x, .fin y _ => (signBit f (x != y) + infCode f, 0)
  | .fin x _, .inf y => (signBit f (x != y), 0)
  | .fin x m, .fin y n =>
    if n = 0 then (if m = 0 then (canonNaN f, fNV) else (signBit f (x != y) + infCode f, fDZ))
    else roundFin f rm 0 (x != y) (m / n)

/-- DIV rounds to nearest (R157, R210). -/
def divF (f : Fmt) (a b : Nat) : Nat × Flags := divR f 0 a b

def sqrtF (f : Fmt) (a : Nat) : Nat × Flags :=
  match decodeF f a with
  | .nan s => (canonNaN f, if s then fNV else 0)
  | .inf neg => if neg then (canonNaN f, fNV) else (infCode f, 0)
  | .fin neg m =>
    if m = 0 then (signBit f neg, 0)
    else if neg then (canonNaN f, fNV)
    else roundFin f 0 0 false (sqrtRat 1200 m).1

/-- The functions of one argument, past R159 and NaN. The exact value of a finite non-zero x = ±m: its sign, magnitude,
and whether the rational is the value itself. -/
def sfuValue (g : Sfu) (neg : Bool) (m : Rat) : Bool × Rat × Bool :=
  let x : Rat := if neg then -m else m
  let signed (y : Rat) : Bool × Rat × Bool := (decide (y < 0), if y < 0 then -y else y, false)
  let isInt := decide (x.den = 1)
  match g with
  | .rcp => (neg, 1 / m, true)
  | .rsq =>
    let r := sqrtRat 1200 m
    if r.2 then (false, 1 / r.1, true) else (false, (sqrtRat 1200 (1 / m)).1, false)
  | .exp => (false, expRat x, false)
  | .exp2 => if isInt then (false, pow2 x.num, true) else (false, expRat (x * ofFix ln2Fix), false)
  | .log => signed (lnRat m)
  | .log2 =>
    let e := floorLog2 m
    if m = pow2 e then (decide (e < 0), ((e.natAbs : Nat) : Rat), true) else signed (lnRat m / ofFix ln2Fix)
  | .sin => signed (sinCos false x)
  | .cos => signed (sinCos true x)
  | .tanh =>
    let t := expRat (-(2 * m))
    (neg, if 200 ≤ m then 1 - pow2 (-200) else (1 - t) / (1 + t), false)
  | .sigmoid => (false, 1 / (1 + expRat (-x)), false)
  | .erf => (neg, erfRat m, false)
  | _ => (false, 0, false)

/-- The exponential's argument beyond which every format overflows or loses the value: the approximation stops there. -/
def clampArg (g : Sfu) (m : Rat) : Rat :=
  match g with
  | .exp => min m 4000
  | .exp2 => min m 4000
  | .sigmoid => min m 4000
  | _ => m

/-- A special function of one argument (R159, R160, R211). -/
def sfu1 (g : Sfu) (f : Fmt) (a : Nat) : Nat × Flags :=
  let one := signBit f false + (match f with | .f64 => 0x3FF0000000000000 | .f32 => 0x3F800000 | .f16 => 0x3C00 | _ => 0x3F80)
  let half := one - 2 ^ Fmt.fracBits f
  let v := decodeF f a
  match v with
  | .nan s => (canonNaN f, if s then fNV else 0)
  | .inf neg =>
    match g with
    | .rcp => (signBit f neg, 0)
    | .rsq => if neg then (canonNaN f, fNV) else (0, 0)
    | .exp => (if neg then 0 else infCode f, 0)
    | .exp2 => (if neg then 0 else infCode f, 0)
    | .log => if neg then (canonNaN f, fNV) else (infCode f, 0)
    | .log2 => if neg then (canonNaN f, fNV) else (infCode f, 0)
    | .sin => (canonNaN f, fNV)
    | .cos => (canonNaN f, fNV)
    | .tanh => (signBit f neg + one, 0)
    | .sigmoid => (if neg then 0 else one, 0)
    | .erf => (signBit f neg + one, 0)
    | _ => sqrtF f a
  | .fin neg m =>
    if m = 0 then
      match g with
      | .rcp => (signBit f neg + infCode f, fDZ)
      | .rsq => (signBit f neg + infCode f, fDZ)
      | .exp => (one, 0)
      | .exp2 => (one, 0)
      | .log => (signBit f true + infCode f, fDZ)
      | .log2 => (signBit f true + infCode f, fDZ)
      | .cos => (one, 0)
      | .sigmoid => (half, 0)
      | .sqrt => sqrtF f a
      | _ => (a % 2 ^ Fmt.width f, 0)
    else if neg && (g == .rsq || g == .log || g == .log2) then (canonNaN f, fNV)
    else if (g == .log || g == .log2) && m == 1 then (0, 0)
    else if g == .sqrt then sqrtF f a
    else
      let (n, y, exact) := sfuValue g neg (clampArg g m)
      finish1 g f a exact n y

/-! ### Instructions -/

/-- A special function of one argument, lane by lane (R210, R211). -/
def special (i : Instr) (g : Sfu) (o : XOps) (s : State) : Host.Outcome State Fault Refusal :=
  laneWise i o (fun _ a _ _ => sfu1 g o.fmt1 a) s

/-- DIV (R210). -/
def execDiv (o : XOps) (s : State) := laneWise (.div o) o (fun _ a b _ => divF o.fmt1 a b) s
def execSqrt (o : XOps) (s : State) := special (.sqrt o) .sqrt o s
def execRcp (o : XOps) (s : State) := special (.rcp o) .rcp o s
def execRsq (o : XOps) (s : State) := special (.rsq o) .rsq o s
def execExp (o : XOps) (s : State) := special (.exp o) .exp o s
def execExpB2 (o : XOps) (s : State) := special (.expB2 o) .exp2 o s
def execLog (o : XOps) (s : State) := special (.log o) .log o s
def execLogB2 (o : XOps) (s : State) := special (.logB2 o) .log2 o s
def execSin (o : XOps) (s : State) := special (.sin o) .sin o s
def execCos (o : XOps) (s : State) := special (.cos o) .cos o s
def execTanh (o : XOps) (s : State) := special (.tanh o) .tanh o s
def execTanhSig (o : XOps) (s : State) := special (.tanhSig o) .sigmoid o s
def execErf (o : XOps) (s : State) := special (.erf o) .erf o s

end Sys2Proof.Machine
end

