-- ==== Sys2Proof/Machine/Orrery.lean ====
section
/-! DEFINITION. Graph actors and message instructions (R228 to R254, R408). -/

namespace Sys2Proof.Machine

/-! ### Message images -/

/-- η and the upper triangle of Λ for dimension d (R232). -/
def elemCount (d : Nat) : Nat := d + d * (d + 1) / 2
/-- Triangle index of (i, j), i ≤ j, as an element number of the image (R232, R408). -/
def tri (d i j : Nat) : Nat := d + (i * d + j - i - i * (i - 1) / 2)
def triSym (d i j : Nat) : Nat := tri d (min i j) (max i j)
/-- Element c of an image: after the 8-byte header. -/
def imageElem (w img c : Nat) : Nat := bits img (64 + w * c + w - 1) (64 + w * c)
def imageElems (w d img : Nat) : List Nat := (List.range (elemCount d)).map (imageElem w img)
/-- A message or joint as an instruction writes it to v registers (R233). -/
def mkImage (f : Fmt) (d : Nat) (l : List Nat) : Nat :=
  mkHdr (if f = .f64 then 1 else 0) d 0 + 2 ^ 64 * packLanes (Fmt.width f) (l.take (elemCount d))

/-- The n bytes from v register k on, as one value. -/
def State.readImage (s : State) (k n : Nat) : Nat := s.readReg s.core (s.here.vOff k) n
def writeImage (k n x : Nat) : Act Unit := modify (fun s => s.writeReg s.core (s.here.vOff k) n x)

/-! ### Checks -/

/-- The graph actor that fires; any other firing raises GRAPH_CLASS (R237). -/
def graphActor : Act Bound := do
  match (← get).ownBound with
  | some b => if b.isGraph then return b else fault cGRAPH_CLASS (some b.d.state)
  | none => fault cGRAPH_CLASS (some 0)

/-- A slot image has the format and dimension its place needs. The zero bits of its header, [63:39], and its other zero bytes have
no stated fate, and none is tested (log entry 153). -/
def imageFits (f : Fmt) (d img : Nat) : Bool :=
  hdrFmt img == (if f = .f64 then 1 else 0) && hdrDim img == d

/-- What an X-stream form knows of its actor. -/
structure Graph where
  b : Bound
  st : Nat
  ghdr : Nat
  /-- Factor Type Table words 0 to 2 of a factor. -/
  t0 : Nat
  t1 : Nat
  t2 : Nat

def Graph.isVar (g : Graph) : Bool := g.b.d.cls == 1
def Graph.arity (g : Graph) : Nat := fttArity g.t0
def Graph.joint (g : Graph) : Nat := fttOff g.t0 g.arity
/-- The slots of the actor: DEPTH of a variable, the arity of a factor. -/
def Graph.slots (g : Graph) : Nat := if g.isVar then g.b.depth else g.arity
/-- The dimension of slot or position k (R237). -/
def Graph.dim (g : Graph) (k : Nat) : Nat := if g.isVar then bits g.ghdr 19 16 else fttDim g.t0 k
def Graph.outBase (g : Graph) : Nat := g.st + if g.isVar then 0x1C0 else 0x240

/-- Words of a state block, read as accesses of the context. -/
def blockWords (ea n : Nat) : Act Nat := do return packLanes 64 (← loadWords ea n)

/-- In-slot k, read whole (R236). -/
def State.inSlot (s : State) (g : Graph) (k : Nat) : Nat := s.rdNat (g.b.slotAt s.core k) 128
def slotOpen (img : Nat) : Bool := hdrLive img && !hdrClosed img

/-- The first in-slot that is live and of another dimension or format than its place has (R237). -/
def State.slotMisfit (s : State) (g : Graph) (f : Fmt) : Option Nat :=
  (List.range g.slots).find? (fun k => let img := s.inSlot g k; slotOpen img && !imageFits f (g.dim k) img)

/-- The header word of an in-slot, or all of it, has no uncorrectable error (R173, R386). -/
def slotSound (g : Graph) (n : Nat) (l : List Nat) : Act Unit := do
  let s ← get
  match l.find? (fun k => s.bad (g.b.slotAt s.core k) n) with
  | some k => fault cMACHINE_UE (some (word (g.b.slotAt s.core k)))
  | none => pure ()

/-- The checks every X-stream form makes (R237). Where several of its conditions hold, the cause is that of the first: GBEL's and
GCOMB's gS, KIND, FMT1, the slots in ascending order, then what the form itself tests, gE before the source (log entry 155). -/
def graphForm (f : Fmt) (seq : Nat) : Act Graph := do
  let b ← graphActor
  afterAccesses seq
  let st := b.d.state.toNat
  let h ← loadWord st
  unlessFault (bits h 7 0 == b.d.cls) cGRAPH_CLASS (some b.d.state)
  unlessFault (bits h 20 20 == (if f = .f64 then 1 else 0)) cGRAPH_SLOT (some b.d.state)
  let s ← get
  let a := s.effFtt b.rcb + 32 * (bits h 15 8 % 64)
  let g : Graph :=
    if b.d.cls = 1 then ⟨b, st, h, 0, 0, 0⟩ else ⟨b, st, h, s.peek a 8, s.peek (a + 8) 8, s.peek (a + 16) 8⟩
  waitUntil (!s.here.poolWaits 2 b.ring0.base (128 * g.slots) false) .memory
  slotSound g 8 (List.range g.slots)
  match s.slotMisfit g f with
  | some k => fault cGRAPH_SLOT (some (word k))
  | none => return g

/-- The in-slots that are live, but for one that is skipped (R238). -/
def State.liveSlots (s : State) (g : Graph) (skip : Nat) : List (Nat × Nat) :=
  ((List.range g.slots).map (fun k => (k, s.inSlot g k))).filter (fun p => p.1 != skip && slotOpen p.2)

/-- Those slots as a form reads them, 128 bytes each (R236, R386). -/
def readSlots (g : Graph) (skip : Nat) : Act (List (Nat × Nat)) := do
  let slots := (← get).liveSlots g skip
  slotSound g 128 (slots.map (·.1))
  return slots

/-- The out-slot at gE: its index and image (R237). -/
def outSlotAt (g : Graph) (f : Fmt) (e : Word) : Act (Nat × Nat) := do
  let off := e.toNat - g.outBase
  let k := off / 128
  unlessFault (decide (g.outBase ≤ e.toNat) && off % 128 == 0 && decide (k < g.slots)) cGRAPH_SLOT (some e)
  let img ← blockWords e.toNat 16
  unlessFault (hdrLive img) cGRAPH_SLOT (some e)
  unlessFault (imageFits f (g.dim k) img) cGRAPH_SLOT (some e)
  return (k, img)

/-- The vectors of operands of several (R104, R233). -/
def spanRegs (l : List (Reg × Nat)) : List Reg :=
  l.flatMap (fun p => match p.1 with
    | .v k => (List.range p.2).map (fun i => if k.toNat + i < 256 then .v (BitVec.ofNat 8 (k.toNat + i)) else .v 255)
    | _ => [])
/-- An operand of several vectors ends above the highest register (R233). -/
def pastViews (l : List (Reg × Nat)) : Bool :=
  l.any (fun p => match p.1 with | .v k => decide (256 < k.toNat + p.2) | _ => false)

/-- The view check of operands of several vectors at dispatch (R104, R233). -/
def spanCheck (l : List (Reg × Nat)) : Act Unit := do
  viewCheck (spanRegs l)
  unlessFault ((← getCtx).bodyOpen || !pastViews l) cVIEW_RANGE (some 256)
/-- The same when an XLOOP pass runs. -/
def spanPassCheck (l : List (Reg × Nat)) : Act Unit := do
  passCheck (spanRegs l)
  let x ← getCtx
  unlessFault (!x.inLoop || !pastViews l) cVIEW_RANGE (some (word x.headPass))

/-- A graph X entry: views, granules, then the form (R217, R233, R237). -/
def graphEntry (i : Instr) (o : XOps) (reads writes : Bool → Hd → List (Reg × Nat)) (run : Hd → XEntry → Act Unit) (s : State) :
    Host.Outcome State Fault Refusal :=
  let factor (s : State) : Bool := match s.ownBound with | some b => b.d.cls == 2 | none => false
  xslot i o.h (srcW o.w false)
    (fun _ _ _ => do
      let f := factor (← get)
      spanCheck (reads f o.h ++ writes f o.h)
      return {})
    (fun e => do
      let h := (← getCtx).passHd o.h
      let f := factor (← get)
      spanPassCheck (reads f h ++ writes f h)
      let c ← getCore
      let bytes (l : List (Reg × Nat)) := l.map (fun p => (c.vOff p.1.index, 32 * p.2))
      entryGranules (bytes (reads f h)) (bytes (writes f h))
      run h e) s

/-! ### Combining -/

/-- Add elements into others, each rounded once, with the conditions charged to them (R238, R408). -/
def addElems (f : Fmt) (rm : Nat) (acc : List (Nat × Flags)) (l : List (Nat × Nat)) : List (Nat × Flags) :=
  l.foldl (fun acc p => acc.modify p.1 (fun a => let r := addF f rm 0 a.1 p.2; (r.1, a.2 ||| r.2))) acc

/-- The elements of a slot of position k where they fall in a joint of dimension D. -/
def jointPlaces (d off dk : Nat) : List Nat :=
  (List.range dk).map (off + ·) ++
  (List.range dk).flatMap (fun i => ((List.range dk).filter (i ≤ ·)).map (fun j => tri d (off + i) (off + j)))

/-- Add an image's elements at the element numbers they fall on. -/
def addImage (f : Fmt) (rm : Nat) (places : List Nat) (d img : Nat) (acc : List (Nat × Flags)) : List (Nat × Flags) :=
  addElems f rm acc (places.zip (imageElems (Fmt.width f) d img))

/-- Sum PRIOR and the live slots, ascending (R238). -/
def sumVariable (g : Graph) (f : Fmt) (rm skip : Nat) : Act (List (Nat × Flags)) := do
  let d := g.dim 0
  let slots ← readSlots g skip
  let prior ← blockWords (g.st + 0x40) 16
  let acc := (imageElems (Fmt.width f) d prior).map (fun x => (x, (0 : Flags)))
  return slots.foldl (fun acc p => addImage f rm (List.range (elemCount d)) d p.2 acc) acc

/-- JOINT under its kernel weight, with the in-slots of the positions but one (R238, R254). -/
def sumFactor (g : Graph) (f : Fmt) (rm skip : Nat) : Act (List (Nat × Flags)) := do
  let d := g.joint
  let slots ← readSlots g skip
  let joint ← blockWords (g.st + 0x40) 64
  let weight ← if fttKernel g.t0 = 1 then loadWord (g.st + 8) else pure 0
  let start := (imageElems (Fmt.width f) d joint).map (fun x =>
    if fttKernel g.t0 = 1 then roundSum f rm 0 [mulFV (decodeF f x) (decodeF .f32 (weight % 2 ^ 32))] else (x, (0 : Flags)))
  return slots.foldl (fun acc p =>
    addImage f rm (jointPlaces d (fttOff g.t0 p.1) (g.dim p.1)) (g.dim p.1) p.2 acc) start

/-- |a − b| / max(1, |b|), exact: none stands for +infinity (R241, R254). -/
def relChange (f : Fmt) (a b : Nat) : Option Rat :=
  match decodeF f a, decodeF f b with
  | .fin na ma, .fin nb mb =>
    let x := (FV.fin na ma).signed - (FV.fin nb mb).signed
    some ((if x < 0 then -x else x) / max 1 mb)
  | .inf x, .inf y => if x == y then some 0 else none
  | _, _ => none

/-- An exact non-negative value, or +infinity, exceeds an FP32 threshold (R254). -/
def exceedsExact (q : Option Rat) (thr : Nat) : Bool :=
  match q, decodeF .f32 thr with
  | _, .nan _ => false
  | none, .inf neg => neg
  | none, .fin _ _ => true
  | some _, .inf neg => neg
  | some q, .fin neg m => decide ((if neg then -m else m) < q)

/-- A live position has drifted from its reference slot beyond RELIN (R254). -/
def drifted (g : Graph) (f : Fmt) : List (Nat × Nat) → Act Bool
  | [] => pure false
  | (k, img) :: l => do
    let ref ← blockWords (g.st + 0x440 + 128 * k) 16
    let w := Fmt.width f
    let here := (List.range (g.dim k)).any (fun i =>
      exceedsExact (relChange f (imageElem w img i) (imageElem w ref i)) (g.t1 / 2 ^ 32))
    let rest ← drifted g f l
    return here || rest

/-- GBEL (R238). -/
def execGbel (o : XOps) (s : State) := graphEntry (.gbel o) o (fun _ _ => []) (fun _ h => [(h.d, 4)]) (fun h e => do
  let f := o.fmt1
  let b ← graphActor
  unlessFault (e.s1 == b.d.state) cGRAPH_CLASS (some e.s1)
  let g ← graphForm f e.seq
  unlessFault g.isVar cGRAPH_CLASS (some b.d.state)
  let acc ← sumVariable g f h.rm.toNat 256
  trapRequest o.tz o.tv (acc.map (·.2))
  let img := mkImage f (g.dim 0) (acc.map (·.1))
  writeImage h.d.index 128 img
  storeWords (g.st + 0xC0) ((List.range 16).map (fun k => bits img (64 * k + 63) (64 * k)))
  raiseFlags (orFlags (acc.map (·.2)))) s

/-- GCOMB (R238, R254). -/
def execGcomb (o : XOps) (s : State) := graphEntry (.gcomb o) o (fun _ _ => [])
  (fun factor h => [(h.d, if factor then 16 else 4)]) (fun h e => do
  let f := o.fmt1
  let b ← graphActor
  unlessFault (e.s1 == b.d.state) cGRAPH_CLASS (some e.s1)
  let g ← graphForm f e.seq
  let k := o.w.toNat
  if g.isVar then
    unlessFault (decide (k < g.slots)) cILLEGAL_OPERAND (some (word k))
    let acc ← sumVariable g f h.rm.toNat k
    trapRequest o.tz o.tv (acc.map (·.2))
    writeImage h.d.index 128 (mkImage f (g.dim 0) (acc.map (·.1)))
    raiseFlags (orFlags (acc.map (·.2)))
  else
    unlessFault (decide (k < g.slots) || k == 255) cILLEGAL_OPERAND (some (word k))
    let acc ← sumFactor g f h.rm.toNat k
    trapRequest o.tz o.tv (acc.map (·.2))
    let moved ← if g.t2 % 2 ^ 56 = 0 then pure false else drifted g f (← readSlots g g.slots)
    writeImage h.d.index 512 (mkImage f g.joint (acc.map (·.1)))
    if moved then storeWord g.st (Nat.lor (← loadWord g.st) (2 ^ 21))
    raiseFlags (orFlags (acc.map (·.2)))) s

/-! ### Marginals -/

/-- Elements with the conditions charged to each (R408). -/
abbrev Elems := List (Nat × Flags)

def Elems.val (l : Elems) (c : Nat) : Nat := (l.getD c (0, 0)).1
def Elems.put (l : Elems) (c : Nat) (r : Nat × Flags) : Elems := l.modify c (fun a => (r.1, a.2 ||| r.2))
def Elems.charge (l : Elems) (c : Nat) (fl : Flags) : Elems := l.modify c (fun a => (a.1, a.2 ||| fl))

/-- −a × b + c rounded once. -/
def fmsub (f : Fmt) (rm a b c : Nat) : Nat × Flags := fmaF f rm 0 true false a b c

/-- A pivot is positive: NaN and zeros are not. -/
def positive (f : Fmt) (x : Nat) : Bool :=
  match decodeF f x with
  | .fin neg m => !neg && decide (0 < m)
  | .inf neg => !neg
  | .nan _ => false

/-- Eliminate one pivot p from the indices that stay (R239). -/
def eliminate (f : Fmt) (rm d p : Nat) (rem : List Nat) (l : Elems) : Elems :=
  let piv := l.val (tri d p p)
  let ls := rem.map (fun i => (i, divR f rm (l.val (triSym d i p)) piv))
  let l0 := ls.foldl (fun (m : Elems) x => m.charge (triSym d x.1 p) x.2.2) l
  let l1 := ls.foldl (fun (m : Elems) x => m.put x.1 (fmsub f rm x.2.1 (l.val p) (m.val x.1))) l0
  ls.foldl (fun (m : Elems) x => (rem.filter (x.1 ≤ ·)).foldl (fun (m : Elems) j =>
    m.put (tri d x.1 j) (fmsub f rm x.2.1 (l.val (triSym d p j)) (m.val (tri d x.1 j)))) m) l1

/-- All pivots in ascending order; true when each was positive (R239). -/
def eliminateAll (f : Fmt) (rm d : Nat) : List Nat → List Nat → Elems → Elems × Bool
  | [], _, l => (l, true)
  | p :: ps, rem, l =>
    let rem := rem.filter (· != p)
    if positive f (l.val (tri d p p)) then eliminateAll f rm d ps rem (eliminate f rm d p rem l)
    else (l.charge (tri d p p) fNV, false)

/-- The message over dk indices from off on. -/
def blockOf (d off dk : Nat) (l : Elems) : List Nat :=
  (jointPlaces d off dk).map l.val

/-- GMARG (R239). -/
def execGmarg (o : XOps) (s : State) := graphEntry (.gmarg o) o (fun _ h => [(h.s1, 16)]) (fun _ h => [(h.d, 4)])
  (fun h e => do
    let f := o.fmt1
    let g ← graphForm f e.seq
    unlessFault (!g.isVar) cGRAPH_CLASS (some g.b.d.state)
    let k := o.w.toNat
    unlessFault (decide (k < g.slots)) cILLEGAL_OPERAND (some (word k))
    let d := g.joint
    let img := (← get).readImage h.s1.index 512
    unlessFault (imageFits f d img) cGRAPH_SLOT
    let l : Elems := (imageElems (Fmt.width f) d img).map (fun x => (x, (0 : Flags)))
    let off := fttOff g.t0 k
    let dk := g.dim k
    let out := (List.range d).filter (fun i => decide (i < off) || decide (off + dk ≤ i))
    let (l, ok) := eliminateAll f h.rm.toNat d out (List.range d) l
    trapRequest o.tz o.tv (l.map (·.2))
    writeImage h.d.index 128 (mkImage f dk (if ok then blockOf d off dk l else List.replicate (elemCount dk) 0))
    raiseFlags (orFlags (l.map (·.2)))) s

/-! ### Damping, residuals, sending -/

/-- The message operand in v registers, of the dimension its out-slot has (R237). -/
def messageOperand (f : Fmt) (d k : Nat) (tval : Word) : Act Nat := do
  let img := (← get).readImage k 128
  unlessFault (imageFits f d img) cGRAPH_SLOT (some tval)
  return img

/-- β of the type or of the variable, converted exactly (R240). -/
def Graph.beta (g : Graph) (f : Fmt) : Nat :=
  (roundFV f 0 0 (decodeF .f16 (if g.isVar then bits g.ghdr 63 48 else fttBeta g.t0))).1

/-- GDAMP (R240). -/
def execGdamp (o : XOps) (s : State) := graphEntry (.gdamp o) o (fun _ h => [(h.s1, 4)]) (fun _ h => [(h.d, 4)])
  (fun h e => do
    let f := o.fmt1
    let rm := h.rm.toNat
    let g ← graphForm f e.seq
    let (k, old) ← outSlotAt g f e.s2
    let d := g.dim k
    let new ← messageOperand f d h.s1.index e.s2
    let w := Fmt.width f
    let beta := g.beta f
    let r := (List.range (elemCount d)).map (fun c =>
      let v := imageElem w new c
      if beta % 2 ^ (w - 1) = 0 then (v, (0 : Flags))
      else
        let t := subF f rm 0 (imageElem w old c) v
        let x := fmaF f rm 0 false false beta t.1 v
        (x.1, t.2 ||| x.2))
    trapRequest o.tz o.tv (r.map (·.2))
    writeImage h.d.index 128 (mkImage f d (r.map (·.1)))
    raiseFlags (orFlags (r.map (·.2)))) s

/-- The residual of R241: the largest exact change, rounded up to FP32. -/
def residual (f : Fmt) (d new old : Nat) : Nat :=
  let w := Fmt.width f
  let q := (List.range (elemCount d)).map (fun c => relChange f (imageElem w new c) (imageElem w old c))
  if q.any (·.isNone) then infCode .f32
  else (roundFin .f32 3 0 false ((q.filterMap id).foldl max 0)).1

/-- Largest of two FP32 values that are not NaN (R241). -/
def maxF32 (a b : Nat) : Nat := (minmaxF .f32 true a b).1

/-- A residual above EPS is recorded (R241, R246). -/
def Core.aboveEps (c : Core) (r now : Nat) : Core :=
  if exceeds r c.cveps.toNat then
    ({ c with
      cvmax := BitVec.ofNat 32 (maxF32 c.cvmax.toNat r),
      cvcnt := BitVec.ofNat 32 (min (c.cvcnt.toNat + 1) 0xFFFFFFFF) } : Core).ageReset now
  else c

/-- GRES (R241). -/
def execGres (o : XOps) (s : State) := graphEntry (.gres o) o (fun _ h => [(h.s1, 4)]) (fun _ _ => []) (fun h e => do
  let f := o.fmt1
  let g ← graphForm f e.seq
  let (k, old) ← outSlotAt g f e.s2
  let d := g.dim k
  let new ← messageOperand f d h.s1.index e.s2
  let r := residual f d new old
  writeNow (← resolve .w (e.s2.toNat + 116) 4) 4 r
  writeResult h.d (word r)
  modify (fun s => s.modHere (·.aboveEps r s.now))) s

/-- The out-slot's 120 message bytes after a send: VER counts, and η and Λ are the message's (R242). -/
def sentImage (f : Fmt) (d old new : Nat) : Nat :=
  let n := Fmt.width f * elemCount d
  let body := putBits old 64 n (new / 2 ^ 64)
  putBits body 16 16 ((hdrVer old + 1) % 2 ^ 16)

/-- GSEND (R236, R242, R246). -/
def execGsend (o : XOps) (s : State) := graphEntry (.gsend o) o (fun _ h => [(h.s2, 4)]) (fun _ _ => []) (fun h e => do
  let f := o.fmt1
  let g ← graphForm f e.seq
  let (k, old) ← outSlotAt g f e.s1
  let d := g.dim k
  let new ← messageOperand f d h.s2.index e.s1
  if hdrClosed old then pure ()
  else
    let img := sentImage f d old new
    let link := bits old 1023 960
    let act := bits link 55 32
    let slot := bits link 7 0
    let msg := bytesOf 120 img
    let s ← get
    let peer := s.findActor g.b.rcb act
    let here := match peer with | some (core, _, b) => if core = s.core then some b else none | none => none
    waitUntil (!s.edgeBusy s.nextId g.b.rcb act slot) .memory
    waitUntil (match here with | some b => !s.arrivalWaits s.core b slot | none => true) .memory
    storeWords e.s1.toNat ((List.range 15).map (fun k => bits img (64 * k + 63) (64 * k)))
    let above := exceeds (bits img 959 928) s.here.cveps.toNat
    if here.isSome then modify (fun s => s.arrive g.b.rcb act slot msg)
    else
      needPosted
      let ga := poolAddr 2 (match peer with | some (core, _, _) => core | none => s.core) 0
      let count := if peer.isSome then countFor s.core ga else .pkg
      modify (fun s => s.launch { newTxn s (.slot g.b.rcb act slot msg above) .pool ga 120 with count := some count })
      if above then modCore (fun c => { c with infl := c.infl + 1 })) s

/-! ### Means -/

/-- The factor L and D of Λ, with the conditions charged to its elements (R243): none when a pivot is not positive. -/
def factorise (f : Fmt) (rm d : Nat) : List Nat → Elems → Elems × Bool
  | [], l => (l, true)
  | p :: ps, l =>
    let piv := l.val (tri d p p)
    if !positive f piv then (l.charge (tri d p p) fNV, false)
    else
      let above := (List.range d).filter (p < ·)
      let ls := above.map (fun i => (i, divR f rm (l.val (tri d p i)) piv))
      let l1 := ls.foldl (fun (m : Elems) x => (above.filter (x.1 ≤ ·)).foldl (fun (m : Elems) j =>
        m.put (tri d x.1 j) (fmsub f rm x.2.1 (l.val (tri d p j)) (m.val (tri d x.1 j)))) m) l
      let l2 := ls.foldl (fun (m : Elems) x => m.put (tri d p x.1) x.2) l1
      factorise f rm d ps l2

/-- Solve of R243 on a vector: `l` holds D on its diagonal and L[i][p] at (p, i). Each step's conditions are kept with the
element it updates. -/
def solve (f : Fmt) (rm d : Nat) (l : Elems) (y : Elems) : Elems :=
  let forward := (List.range d).foldl (fun (y : Elems) p => ((List.range d).filter (p < ·)).foldl (fun (y : Elems) i =>
    y.put i (fmsub f rm (l.val (tri d p i)) (y.val p) (y.val i))) y) y
  let scaled := (List.range d).foldl (fun (y : Elems) p => y.put p (divR f rm (y.val p) (l.val (tri d p p)))) forward
  (List.range d).foldl (fun (y : Elems) q =>
    let p := d - 1 - q
    ((List.range d).filter (p < ·)).foldl (fun (y : Elems) i =>
      y.put p (fmsub f rm (l.val (tri d p i)) (y.val i) (y.val p))) y) scaled

/-- The code of 1. -/
def oneCode (f : Fmt) : Nat := if f = .f64 then 0x3FF0000000000000 else 0x3F800000

/-- μ and Σ of a belief, with the conditions charged as R408 says. -/
def meanOf (f : Fmt) (rm d : Nat) (l : Elems) : Elems :=
  let (fac, ok) := factorise f rm d (List.range d) l
  if !ok then fac.map (fun x => (canonNaN f, x.2))
  else
    let mu := solve f rm d fac ((List.range d).map (fun i => (l.val i, (0 : Flags))))
    let cols := (List.range d).map (fun j =>
      solve f rm d fac ((List.range d).map (fun i => (if i = j then oneCode f else 0, (0 : Flags)))))
    let base : Elems := fac.map (fun x => (0, x.2))
    let withMu := mu.zipIdx.foldl (fun (m : Elems) x => m.put x.2 x.1) base
    let charged := cols.zipIdx.foldl (fun (m : Elems) c => c.1.zipIdx.foldl (fun (m : Elems) x =>
      m.charge (triSym d x.2 c.2) x.1.2) m) withMu
    cols.zipIdx.foldl (fun (m : Elems) c => c.1.zipIdx.foldl (fun (m : Elems) x =>
      if x.2 ≤ c.2 then m.put (tri d x.2 c.2) (x.1.1, 0) else m) m) charged

/-- GMEAN (R243). -/
def execGmean (o : XOps) (s : State) := graphEntry (.gmean o) o (fun _ h => [(h.s1, 4)]) (fun _ h => [(h.d, 4)])
  (fun h e => do
    let f := o.fmt1
    let g ← graphForm f e.seq
    let img := (← get).readImage h.s1.index 128
    let d := hdrDim img
    unlessFault (imageFits f d img && (if g.isVar then d == g.dim 0
      else (List.range g.arity).any (fun k => g.dim k == d))) cGRAPH_SLOT (some 0)
    let r := meanOf f h.rm.toNat d ((imageElems (Fmt.width f) d img).map (fun x => (x, (0 : Flags))))
    trapRequest o.tz o.tv (r.map (·.2))
    writeImage h.d.index 128 (mkImage f d (r.map (·.1)))
    raiseFlags (orFlags (r.map (·.2)))) s

/-! ### Edges -/

/-- An edge record (R235). -/
structure EdgeRec where
  edge : Nat
  pos : Nat
  vslot : Nat
  var : Nat
  fac : Nat
  zeros : Bool

def edgeRec (w : List Nat) : EdgeRec :=
  let at' (k : Nat) := w.getD k 0
  { edge := bits (at' 0) 15 0, pos := bits (at' 0) 18 16, vslot := bits (at' 0) 31 24, var := bits (at' 1) 23 0,
    fac := bits (at' 2) 23 0,
    zeros := bits (at' 0) 23 19 == 0 && bits (at' 0) 63 32 == 0 && bits (at' 1) 63 24 == 0 && bits (at' 2) 63 24 == 0 &&
      at' 3 == 0 }

/-- The two ends of an edge: core, slot and binding of the variable and of the factor. -/
structure Ends where
  v : Nat × Nat × Bound
  f : Nat × Nat × Bound

/-- The checks of R235 in their order: the code, and the ends when they are found. -/
def State.edgeCheck (s : State) (rcb : Nat) (r : EdgeRec) (attach : Bool) : Nat × Option Ends :=
  let v := (s.findActor rcb r.var).filter (fun x => x.2.2.d.cls == 1)
  let f := (s.findActor rcb r.fac).filter (fun x => x.2.2.d.cls == 2)
  if !r.zeros then (7, none)
  else match v, f with
    | some v, some f =>
      let gv := s.ghdr v.1 v.2.2
      let gf := s.ghdr f.1 f.2.2
      let a := s.fttAddr f.1 f.2.2
      let t0 := s.peek a 8
      let inV := s.rdNat (v.2.2.slotAt v.1 r.vslot) 128
      let inF := s.rdNat (f.2.2.slotAt f.1 r.pos) 128
      if !fttValid t0 (s.peek (a + 8) 8) (s.peek (a + 16) 8) (s.peek (a + 24) 8) || decide (64 ≤ bits gf 15 8) ||
          bits gf 20 20 != fttFmt t0 || f.2.2.depth != fttArity t0 then (5, none)
      else if v.2.2.depth ≤ r.vslot ∨ fttArity t0 ≤ r.pos then (2, none)
      else if bits gv 19 16 ≠ fttDim t0 r.pos ∨ bits gv 20 20 ≠ fttFmt t0 then (4, none)
      else if attach && (slotOpen inV || slotOpen inF) then (3, none)
      else if !attach && (!hdrLive inV || !hdrLive inF || hdrEdge inV != r.edge || hdrEdge inF != r.edge) then (6, none)
      else (0, some ⟨v, f⟩)
    | _, _ => (1, none)

/-- Write a slot image word by word at a virtual address of an actor's state block. -/
def State.pokeSlot (s : State) (core rcb ea img : Nat) : State :=
  (List.range 16).foldl (fun s k => s.pokeVirt core rcb (ea + 8 * k) 8 (bits img (64 * k + 63) (64 * k))) s

/-- The slot of a peer, as a LINK (R232). -/
def linkTo (act slot : Nat) : Nat := (act * 2 ^ 32 + slot) * 2 ^ 960

/-- GATT past its checks: the cut rule of R252, the four slots, the debts (R229, R235). -/
def State.attach (s : State) (rcb : Nat) (r : EdgeRec) (x : Ends) : State :=
  let vc := x.v.1
  let fc := x.f.1
  let gv := s.ghdr vc x.v.2.2
  let h := mkHdr (bits gv 20 20) (bits gv 19 16) r.edge
  let s := match s.activeCut rcb with
    | some id =>
      let nv := s.notRecorded vc x.v.2.2 id
      let nf := s.notRecorded fc x.f.2.2 id
      if nv && !nf then s.record vc x.v.2.1 id true true
      else if nf && !nv then s.record fc x.f.2.1 id true true
      else s
    | none => s
  let toF := h + linkTo r.fac r.pos
  let toV := h + linkTo r.var r.vslot
  let s := s.wrNat (x.v.2.2.slotAt vc r.vslot) 128 toF
  let s := s.wrNat (x.f.2.2.slotAt fc r.pos) 128 toV
  let s := s.pokeSlot vc rcb (x.v.2.2.outSlot r.vslot) toF
  let s := s.pokeSlot fc rcb (x.f.2.2.outSlot r.pos) toV
  (s.raiseDebt vc x.v.2.1).raiseDebt fc x.f.2.1

/-- GDET past its checks (R235). -/
def State.detach (s : State) (rcb : Nat) (r : EdgeRec) (x : Ends) : State :=
  let close (h : Nat) : Nat := Nat.lor h (2 ^ 37)
  let a := x.v.2.2.slotAt x.v.1 r.vslot
  let b := x.f.2.2.slotAt x.f.1 r.pos
  let s := s.wrNat a 8 (close (s.rdNat a 8))
  let s := s.wrNat b 8 (close (s.rdNat b 8))
  let ov := x.v.2.2.outSlot r.vslot
  let of := x.f.2.2.outSlot r.pos
  let s := s.pokeVirt x.v.1 rcb ov 8 (close (s.peekVirt x.v.1 rcb ov))
  s.pokeVirt x.f.1 rcb of 8 (close (s.peekVirt x.f.1 rcb of))

/-- GATT and GDET (R235). -/
def edgeForm (i : Instr) (o : XOps) (attach : Bool) (s : State) : Host.Outcome State Fault Refusal :=
  issueNext i o.h (do
    let gr ← readGReg o.h.s1
    unlessFault (gr.toNat % 8 == 0) cMISALIGNED (some gr)
    let r := edgeRec (← loadWords gr.toNat 4)
    let s ← get
    let rcb := s.ctx.rcb
    let (code, ends) := s.edgeCheck rcb r attach
    match ends with
    | some x =>
      waitUntil (!s.arrivalWaits x.v.1 x.v.2.2 r.vslot && !s.arrivalWaits x.f.1 x.f.2.2 r.pos) .memory
      modify (fun s => if attach then s.attach rcb r x else s.detach rcb r x)
    | none => pure ()
    writeD o.h.d (word code)) s

def execGatt (o : XOps) (s : State) := edgeForm (.gatt o) o true s
def execGdet (o : XOps) (s : State) := edgeForm (.gdet o) o false s

/-! ### Cuts and convergence -/

/-- The graph actors bound in a region (R249). -/
def State.graphActors (s : State) (rcb : Nat) : Nat :=
  (s.cores.map (fun c => (c.2.binds.filter (fun b => b.2.rcb == rcb && b.2.isGraph)).length)).sum

/-- GCUT starts a cut (R250). -/
def State.startCut (s : State) (rcb name : Nat) : State :=
  let id := (bits (s.rcut rcb) 7 0 + 1) % 256
  let s := s.poke (rcb + 0x98) 8 (s.graphActors rcb * 2 ^ 16 + 2 ^ 8 + id)
  let s := s.modRegion rcb (fun r => { r with cutTo := word name })
  (s.coresOf rcb).foldl (fun s k =>
    ({ s with nextId := s.nextId + 1, flights := Sys2Proof.Machine.tset s.flights s.nextId (.cutStart k rcb id) } : State)) s

/-- GCUT (R250). -/
def execGcut (o : XOps) (s : State) := issueNext (.gcut o) o.h (do
  let ga ← readGReg o.h.s1
  unlessFault (bits ga.toNat 51 48 == 1) cILLEGAL_OPERAND (some ga)
  let s ← get
  let rcb := s.ctx.rcb
  let w := s.rcut rcb
  if bit w 8 then writeD o.h.d (word (bits w 7 0 * 256 + 1))
  else if s.graphActors rcb = 0 then writeD o.h.d (word (bits w 7 0 * 256 + 2))
  else
    modify (fun s => s.startCut rcb (poolAddr 2 (gaCore ga.toNat) (o.w.toNat % 32)))
    writeD o.h.d (word ((bits w 7 0 + 1) % 256 * 256))) s

/-- The bound graph actor of a region whose state block stands at an address. -/
def State.actorAt (s : State) (rcb : Nat) (st : Word) : Option (Nat × Bound) :=
  s.cores.findSome? (fun c => (c.2.binds.find? (fun b => b.2.rcb == rcb && b.2.isGraph && b.2.d.state == st)).map
    (fun b => (c.1, b.2)))

/-- n 32-byte blocks at consecutive addresses, to be stored. -/
def resolveBlocks (ea : Nat) : Nat → Act (List Phys)
  | 0 => pure []
  | n + 1 => do
    let p ← resolve .w ea 32
    let l ← resolveBlocks ((ea + 32) % 2 ^ 64) n
    return p :: l

/-- GCUTRD (R237, R253): its snapshot writes, then gD. -/
def execGcutrd (o : XOps) (s : State) := issue (.gcutrd o) o.h (movePieces (do
  let _ ← graphActor
  let gs ← readGReg o.h.s1
  let gx ← readGReg o.h.s2
  let s ← get
  match s.actorAt s.ctx.rcb gs with
  | none => fault cGRAPH_CLASS (some gs)
  | some (core, b) =>
    let g := s.ghdr core b
    let code := if !bit g 32 then 2 else if b.d.cls = 1 then 0 else 1
    let result : Piece := .result o.h.d (word (bits g 31 24 * 256 + code))
    if code = 0 then
      let snap := packLanes 64 ((List.range 16).map (fun k => s.peekVirt core b.rcb (b.d.state.toNat + 0x140 + 8 * k)))
      unlessFault (gx.toNat % 32 == 0) cMISALIGNED (some gx)
      let ps ← resolveBlocks gx.toNat 4
      ownRanges 32 ps
      return ps.mapIdx (fun k p => .store p 32 (bits snap (256 * k + 255) (256 * k)) none) ++ [result]
    return [result])) s

/-- CVRD (R237, R248). -/
def execCvrd (o : XOps) (s : State) := issueNext (.cvrd o) o.h (do
  let _ ← graphActor
  let s ← get
  let c := s.here
  let v : Word := match o.w.toNat % 4 with
    | 0 => c.cvmax.setWidth 64
    | 1 => c.cvcnt.setWidth 64
    | 2 => s.sysValue 0x01F 0
    | _ => word (s.peek (s.ctx.rcb + 0x90) 8)
  if bit o.w.toNat 2 then modCore (fun c => { c with cvmax := 0, cvcnt := 0 })
  writeD o.h.d v) s

/-- CUT_START_ARRIVAL (R250). -/
def execCutStartArrival (event : Nat) (s : State) : Host.Outcome State Fault Refusal :=
  .next (match tfind s.flights event with
    | some (.cutStart core rcb id) =>
      if (s.coreAt core).binds.any (fun b => b.2.rcb == rcb && b.2.isGraph && s.arrivalWaits core b.2 0) then s else ({ s with flights := tdel s.flights event } : State).cutStart core rcb id
    | _ => s)

/-- MARKER_ARRIVAL (R251). -/
def execMarkerArrival (event : Nat) (s : State) : Host.Outcome State Fault Refusal :=
  .next (match tfind s.flights event with
    | some (.marker rcb act slot mark) => s.performMarker event rcb act slot mark
    | _ => s)

/-- A core is quiet (R247). -/
def State.quietCore (s : State) (c : Core) : Bool := decide (c.qwin.toNat ≤ s.age c) && c.infl == 0

/-- ALMANAC_QUIET_PASS: one pass over the region's cores (R247). -/
def execAlmanacQuietPass (rcb : Nat) (s : State) : Host.Outcome State Fault Refusal :=
  .next (match s.regionAt (s.regionPkg rcb) rcb with
    | none => s
    | some r =>
      let cores := s.cores.filter (fun c => c.2.region == some rcb)
      let quiet := cores.all (fun c => s.quietCore c.2)
      let epochs := cores.map (fun c => (c.1, c.2.epoch))
      let w := s.peek (rcb + 0x90) 8
      if !quiet then
        (s.modRegion rcb (fun r => { r with quietPass := none })).poke (rcb + 0x90) 8 (putBits w 0 1 0)
      else
        let s := s.modRegion rcb (fun r => { r with quietPass := some epochs })
        if r.quietPass == some epochs && !bit w 0 then
          s.poke (rcb + 0x90) 8 (((bits w 31 8 + 1) % 2 ^ 24) * 2 ^ 8 + 1)
        else s)

end Sys2Proof.Machine
end

