-- ==== Sys2Proof/Machine/Scalar.lean ====
section
/-! DEFINITION. The scalar instructions (R161 to R169). -/

namespace Sys2Proof.Machine

/-! ### Values -/

/-- Bits [127:64] of the signed product (R163). -/
def mulHighS (a b : Word) : Word := BitVec.ofInt 64 (a.toInt * b.toInt / 2 ^ 64)
/-- Bits [127:64] of the unsigned product (R163). -/
def mulHighU (a b : Word) : Word := word (a.toNat * b.toNat / 2 ^ 64)
/-- The signed quotient and remainder of R164, for b ≠ 0. -/
def quoS (a b : Word) : Word := BitVec.ofInt 64 (Int.tdiv a.toInt b.toInt)
def remS (a b : Word) : Word := BitVec.ofInt 64 (Int.tmod a.toInt b.toInt)
/-- The unsigned quotient and remainder of R164, for b ≠ 0. -/
def quoU (a b : Word) : Word := word (a.toNat / b.toNat)
def remU (a b : Word) : Word := word (a.toNat % b.toNat)

/-- Shifts by a full unsigned amount (R165). -/
def shlW (a b : Word) : Word := if b.toNat < 64 then a <<< b.toNat else 0
def shrW (a b : Word) : Word := if b.toNat < 64 then a >>> b.toNat else 0
def sraW (a b : Word) : Word := a.sshiftRight (min b.toNat 64)
def rotW (a b : Word) : Word := a.rotateLeft (b.toNat % 64)

/-- Counts of leading zeros, trailing zeros and ones (R163). -/
def clzW (a : Word) : Word := if a = 0 then 64 else word (63 - Nat.log2 a.toNat)
def ctzW (a : Word) : Word := word (((List.range 64).find? (fun k => a.getLsbD k)).getD 64)
def popcW (a : Word) : Word := word ((List.range 64).countP (fun k => a.getLsbD k))

/-- Cond(a, b) of R52 and R166. -/
def condW (rm : BitVec 3) (a b : Word) : Bool :=
  match rm.toNat with
  | 0 => a == b
  | 1 => a != b
  | 2 => a.slt b
  | 3 => !a.slt b
  | 4 => a.ult b
  | _ => !a.ult b

def minS (a b : Word) : Word := if b.slt a then b else a
def minU (a b : Word) : Word := if b.ult a then b else a
def maxS (a b : Word) : Word := if a.slt b then b else a
def maxU (a b : Word) : Word := if a.ult b then b else a

/-- The position and length in a control value, when legal (R169). -/
def fieldOf (k : Word) : Option (Nat × Nat) :=
  let pos := bits k.toNat 5 0
  let len := bits k.toNat 14 8
  if bits k.toNat 63 15 ≠ 0 ∨ bits k.toNat 7 6 ≠ 0 ∨ len = 0 ∨ 64 < pos + len then none else some (pos, len)

def bfxS (a : Word) (pos len : Nat) : Word := word (wrapInt 64 (sintOf len (bits a.toNat (pos + len - 1) pos)))
def bfxU (a : Word) (pos len : Nat) : Word := word (bits a.toNat (pos + len - 1) pos)
def bfiW (a b : Word) (pos len : Nat) : Word := word (putBits a.toNat pos len b.toNat)

/-- GADDR's checks: the first failing operand (R168). -/
def gaddrBad (a b c : Word) : Option Word :=
  if !(decide (1 ≤ gaSpace a.toNat ∧ gaSpace a.toNat ≤ 3)) then some a
  else if bits b.toNat 63 14 ≠ 0 ∨ 11 < bits b.toNat 9 6 ∨ 11 < bits b.toNat 5 2 then some b
  else if 0x7FFFF < c.toNat then some c
  else none
def gaddrW (a b c : Word) : Word :=
  word (bits a.toNat 63 48 * 2 ^ 48 + bits b.toNat 13 0 * 2 ^ 34 + bits c.toNat 18 0)

/-! ### Shapes -/

/-- gD := f a. -/
def scalar1 (i : Instr) (o : AOps) (f : Word → Word) (s : State) : Host.Outcome State Fault Refusal :=
  issueNext i o.h (do
    let a ← o.src o.h.s1
    writeD o.h.d (f a)) s

/-- gD := f a b. -/
def scalar2 (i : Instr) (o : AOps) (f : Word → Word → Word) (s : State) : Host.Outcome State Fault Refusal :=
  issueNext i o.h (do
    let a ← o.src o.h.s1
    let b ← o.src o.h.s2
    writeD o.h.d (f a b)) s

/-- gD := f a b, or INT_DIVZERO with TVAL := a (R164). -/
def divide (i : Instr) (o : AOps) (f : Word → Word → Word) (s : State) : Host.Outcome State Fault Refusal :=
  issueNext i o.h (do
    let a ← o.src o.h.s1
    let b ← o.src o.h.s2
    unlessFault (b != 0) cINT_DIVZERO (some a)
    writeD o.h.d (f a b)) s

/-! ### Meanings -/

def execAdd (o : AOps) (s : State) := scalar2 (.add o) o (· + ·) s
def execSub (o : AOps) (s : State) := scalar2 (.sub o) o (· - ·) s
def execMul (o : AOps) (s : State) := scalar2 (.mul o) o (· * ·) s
def execMulhI64 (o : AOps) (s : State) := scalar2 (.mulhI64 o) o mulHighS s
def execMulhN64 (o : AOps) (s : State) := scalar2 (.mulhN64 o) o mulHighU s
def execQuoI64 (o : AOps) (s : State) := divide (.quoI64 o) o quoS s
def execQuoN64 (o : AOps) (s : State) := divide (.quoN64 o) o quoU s
def execRemI64 (o : AOps) (s : State) := divide (.remI64 o) o remS s
def execRemN64 (o : AOps) (s : State) := divide (.remN64 o) o remU s
def execAndBits (o : AOps) (s : State) := scalar2 (.andBits o) o (· &&& ·) s
def execOrBits (o : AOps) (s : State) := scalar2 (.orBits o) o (· ||| ·) s
def execXorBits (o : AOps) (s : State) := scalar2 (.xorBits o) o (· ^^^ ·) s
def execAndn (o : AOps) (s : State) := scalar2 (.andn o) o (fun a b => a &&& ~~~b) s
def execShl (o : AOps) (s : State) := scalar2 (.shl o) o shlW s
def execShr (o : AOps) (s : State) := scalar2 (.shr o) o shrW s
def execSra (o : AOps) (s : State) := scalar2 (.sra o) o sraW s
def execRot (o : AOps) (s : State) := scalar2 (.rot o) o rotW s
def execClz (o : AOps) (s : State) := scalar1 (.clz o) o clzW s
def execCtz (o : AOps) (s : State) := scalar1 (.ctz o) o ctzW s
def execPopc (o : AOps) (s : State) := scalar1 (.popc o) o popcW s
def execMinI64 (o : AOps) (s : State) := scalar2 (.minI64 o) o minS s
def execMinN64 (o : AOps) (s : State) := scalar2 (.minN64 o) o minU s
def execMaxI64 (o : AOps) (s : State) := scalar2 (.maxI64 o) o maxS s
def execMaxN64 (o : AOps) (s : State) := scalar2 (.maxN64 o) o maxU s
def execMov (o : AOps) (s : State) := scalar1 (.mov o) o id s

/-- CMP (R166). -/
def execCmp (o : AOps) (s : State) := issueNext (.cmp o) o.h (do
  let a ← o.src o.h.s1
  let b ← o.src o.h.s2
  writePReg o.h.d (condW o.h.rm a b)) s

/-- SEL.eq and SEL.ne (R166). -/
def execSel (o : AOps) (s : State) := issueNext (.sel o) o.h (do
  let c ← readPReg o.h.s1
  let a ← o.src o.h.s2
  let b ← o.src o.h.s3
  writeD o.h.d (if c == (o.h.rm == 0) then a else b)) s

/-- LEA (R167). -/
def execLea (o : AOps) (s : State) := issueNext (.lea o) o.h (do
  let a ← o.src o.h.s1
  let b ← o.src o.h.s2
  let c ← o.src o.h.s3
  unlessFault (decide (c.toNat ≤ 63)) cILLEGAL_OPERAND (some c)
  writeD o.h.d (a + shlW b c)) s

/-- GADDR (R168). -/
def execGaddr (o : AOps) (s : State) := issueNext (.gaddr o) o.h (do
  let a ← o.src o.h.s1
  let b ← o.src o.h.s2
  let c ← o.src o.h.s3
  match gaddrBad a b c with
  | some x => fault cILLEGAL_OPERAND (some x)
  | none => writeD o.h.d (gaddrW a b c)) s

/-- BFX (R169). -/
def bitField (i : Instr) (o : AOps) (f : Word → Nat → Nat → Word) (s : State) : Host.Outcome State Fault Refusal :=
  issueNext i o.h (do
    let a ← o.src o.h.s1
    let k ← o.src o.h.s2
    match fieldOf k with
    | none => fault cILLEGAL_OPERAND (some k)
    | some (pos, len) => writeD o.h.d (f a pos len)) s
def execBfxI64 (o : AOps) (s : State) := bitField (.bfxI64 o) o bfxS s
def execBfxN64 (o : AOps) (s : State) := bitField (.bfxN64 o) o bfxU s

/-- BFI (R169). -/
def execBfi (o : AOps) (s : State) := issueNext (.bfi o) o.h (do
  let a ← o.src o.h.s1
  let b ← o.src o.h.s2
  let k ← o.src o.h.s3
  match fieldOf k with
  | none => fault cILLEGAL_OPERAND (some k)
  | some (pos, len) => writeD o.h.d (bfiW a b pos len)) s

end Sys2Proof.Machine
end

