-- ==== Sys2Proof/Machine/Streams.lean ====
section
/-! DEFINITION. Queues and streams: QPOP, QCNT, STREAM.BIND, STREAM.END and the transfer unit (R90 to R100). -/

namespace Sys2Proof.Machine

/-- QPOP (R93). -/
def execQpop (o : AOps) (s : State) := issueNext (.qpop o) o.h (do
  let v ← popQ1
  writeD o.h.d (v.setWidth 64)) s

/-- The entries a queue holds (R93). -/
def Ctx.queueCount (c : Ctx) (q : Nat) : Nat :=
  if q = 0 then c.q0.length
  else if q = 1 then c.q1.length
  else
    let t := c.stream q
    match t.pat with
    | none => 0
    | some p => if p.write then t.wr.length else (t.rd.filter (fun e => e.need == 0)).length

/-- QCNT (R93). -/
def execQcnt (o : AOps) (s : State) := issueNext (.qcnt o) o.h (do
  let q := o.h.s1.index
  unlessFault (decide (q < 6)) cILLEGAL_OPERAND (some (word q))
  writeD o.h.d (word ((← getCtx).queueCount q))) s

/-- A pattern record's eight words, when they keep R94. -/
def patternOf (w : List Nat) : Option Pattern :=
  let at' (k : Nat) := w.getD k 0
  let p : Pattern := {
    base := word (at' 0), c0 := bits (at' 1) 31 0, c1 := bits (at' 1) 63 32, c2 := bits (at' 2) 31 0, s0 := word (at' 3),
    s1 := word (at' 4), s2 := word (at' 5), write := bit (at' 2) 32 }
  if p.c0 = 0 ∨ p.c1 = 0 ∨ p.c2 = 0 ∨ at' 0 % 32 ≠ 0 ∨ at' 3 % 32 ≠ 0 ∨ at' 4 % 32 ≠ 0 ∨ at' 5 % 32 ≠ 0 ∨
      bits (at' 2) 63 33 ≠ 0 ∨ at' 6 ≠ 0 ∨ at' 7 ≠ 0 then none
  else some p

/-- STREAM.BIND (R95). -/
def execStreamBind (o : AOps) (s : State) := issueNext (.streamBind o) o.h (do
  let c ← getCtx
  let q := o.h.d.index
  unlessFault (c.stream q).pat.isNone cILLEGAL_OPERAND
  let ea := wrapInt 64 ((c.rg o.h.s1.index).toNat + sintOf 24 (o.ext.toNat % 2 ^ 24))
  unlessFault (ea % 64 == 0) cMISALIGNED (some (word ea))
  match patternOf (← loadWords ea 8) with
  | none => fault cILLEGAL_OPERAND (some (word ea))
  | some p => modCtx (fun c => c.setStream q { Stream.reset with pat := some p })) s

/-- STREAM.END (R97, R99). -/
def execStreamEnd (o : AOps) (s : State) := issueNext (.streamEnd o) o.h (do
  let c ← getCtx
  let q := o.h.d.index
  let t := c.stream q
  match t.pat with
  | none => pure ()
  | some p =>
    if p.write then
      waitUntil (t.wr.isEmpty && t.unacked.isEmpty) .queue
      match t.err with
      | some x => raiseTrap (x.trap false [.stream q])
      | none => pure ()
    modCtx (fun c => c.setStream q Stream.reset)) s

/-! ### The transfer unit -/

/-- A read stream that may load its next entry (R96). -/
def Ctx.canFetch (c : Ctx) (q : Nat) : Bool :=
  let t := c.stream q
  match t.pat with
  | some p => c.firing.isSome && !p.write && decide (t.rd.length < 16) && decide (t.moved < p.total)
  | none => false

/-- A write stream with an entry to store (R97). -/
def Ctx.canStore (c : Ctx) (q : Nat) : Bool :=
  let t := c.stream q
  match t.pat with
  | some p => c.firing.isSome && p.write && !t.wr.isEmpty
  | none => false

/-- Load the next entry of a read stream: an ordinary load of the context, which on a CP or OW page its home serves (R96, R288). The context was in U mode when it bound the stream (R261). -/
def streamFetch (q : Nat) : Act Unit := do
  let t := (← getCtx).stream q
  match t.pat with
  | none => pure ()
  | some p =>
    let pa ← resolveAs .u .r (p.addr t.moved) 32
    gateLoad pa 32
    let id ← newId
    modCtx (fun c => c.setStream q { t with rd := t.rd ++ [⟨id, 1, 0, none⟩], moved := t.moved + 1 })
    if pa.isDram && (pa.cls == .cp || pa.cls == .ow) then engineLoad pa 32 (.stream q id)
    else startLoad pa 32 false (.stream q id)

/-- Store the oldest pushed entry of a write stream: the transfer unit is an engine, and claims the line as it issues the
store (R97, R288). -/
def streamStore (q : Nat) : Act Unit := do
  let t := (← getCtx).stream q
  match t.pat, t.wr with
  | some p, v :: rest =>
    let pa ← resolveAs .u .w (p.addr t.moved) 32
    gate pa
    let id ← newId
    let posted := !(← get).isOwn pa
    modify (·.claimFor id pa)
    engineStore id pa 32 v.toNat
    modCtx (fun c =>
      let t := c.stream q
      c.setStream q { t with wr := rest, moved := t.moved + 1, unacked := if posted then t.unacked ++ [id] else t.unacked })
  | _, _ => pure ()

/-- STREAM_READ_FETCH (R96): a fault of the entry waits for its pop. -/
def execStreamReadFetch (core fc queue : Nat) (s : State) : Host.Outcome State Fault Refusal :=
  let s := s.at core fc
  .next (if s.ctx.canFetch queue then
      match (streamFetch queue).run s with
      | .ok (_, s') => s'
      | .error (.wait _ _) => s
      | .error (.trap t) =>
        let (w, s) := match t.tval with | some v => (v, s) | none => s.takeFresh
        ({ s with nextId := s.nextId + 1 } : State).modCtx (fun c =>
          let st := c.stream queue
          c.setStream queue { st with rd := st.rd ++ [⟨s.nextId, 0, 0, some ⟨t.cause, w, none⟩⟩], moved := st.moved + 1 })
    else s)

/-- STREAM_WRITE_STORE (R97): a fault of the entry waits for the next push, STREAM.END or END. -/
def execStreamWriteStore (core fc queue : Nat) (s : State) : Host.Outcome State Fault Refusal :=
  let s := s.at core fc
  .next (if s.ctx.canStore queue then
      match (streamStore queue).run s with
      | .ok (_, s') => s'
      | .error (.wait _ _) => s
      | .error (.trap t) =>
        let (w, s) := match t.tval with | some v => (v, s) | none => s.takeFresh
        s.modCtx (fun c =>
          let st := c.stream queue
          c.setStream queue { st with wr := st.wr.drop 1, moved := st.moved + 1, err := st.err.or (some ⟨t.cause, w, none⟩) })
    else s)

end Sys2Proof.Machine
end

