-- ==== Sys2Proof/Machine/Dispatch.lean ====
section
/-! DEFINITION. One arm for each row of spec/opcode_table.json. -/

namespace Sys2Proof.Machine

def exec (i : Instr) (s : State) : Host.Outcome State Fault Refusal :=
  match i with
  | .nop o => Sys2Proof.Machine.execNop o s
  | .trapc o => Sys2Proof.Machine.execTrapc o s
  | .trapret o => Sys2Proof.Machine.execTrapret o s
  | .rgnNew o => Sys2Proof.Machine.execRgnNew o s
  | .rgnSet o => Sys2Proof.Machine.execRgnSet o s
  | .rgnKill o => Sys2Proof.Machine.execRgnKill o s
  | .bind o => Sys2Proof.Machine.execBind o s
  | .preemptFiring o => Sys2Proof.Machine.execPreemptFiring o s
  | .preemptRegion o => Sys2Proof.Machine.execPreemptRegion o s
  | .preemptResume o => Sys2Proof.Machine.execPreemptResume o s
  | .add o => Sys2Proof.Machine.execAdd o s
  | .sub o => Sys2Proof.Machine.execSub o s
  | .mul o => Sys2Proof.Machine.execMul o s
  | .mulhI64 o => Sys2Proof.Machine.execMulhI64 o s
  | .mulhN64 o => Sys2Proof.Machine.execMulhN64 o s
  | .quoI64 o => Sys2Proof.Machine.execQuoI64 o s
  | .quoN64 o => Sys2Proof.Machine.execQuoN64 o s
  | .remI64 o => Sys2Proof.Machine.execRemI64 o s
  | .remN64 o => Sys2Proof.Machine.execRemN64 o s
  | .andBits o => Sys2Proof.Machine.execAndBits o s
  | .orBits o => Sys2Proof.Machine.execOrBits o s
  | .xorBits o => Sys2Proof.Machine.execXorBits o s
  | .andn o => Sys2Proof.Machine.execAndn o s
  | .shl o => Sys2Proof.Machine.execShl o s
  | .shr o => Sys2Proof.Machine.execShr o s
  | .sra o => Sys2Proof.Machine.execSra o s
  | .rot o => Sys2Proof.Machine.execRot o s
  | .clz o => Sys2Proof.Machine.execClz o s
  | .ctz o => Sys2Proof.Machine.execCtz o s
  | .popc o => Sys2Proof.Machine.execPopc o s
  | .cmp o => Sys2Proof.Machine.execCmp o s
  | .sel o => Sys2Proof.Machine.execSel o s
  | .minI64 o => Sys2Proof.Machine.execMinI64 o s
  | .minN64 o => Sys2Proof.Machine.execMinN64 o s
  | .maxI64 o => Sys2Proof.Machine.execMaxI64 o s
  | .maxN64 o => Sys2Proof.Machine.execMaxN64 o s
  | .mov o => Sys2Proof.Machine.execMov o s
  | .lea o => Sys2Proof.Machine.execLea o s
  | .gaddr o => Sys2Proof.Machine.execGaddr o s
  | .bfxI64 o => Sys2Proof.Machine.execBfxI64 o s
  | .bfxN64 o => Sys2Proof.Machine.execBfxN64 o s
  | .bfi o => Sys2Proof.Machine.execBfi o s
  | .br o => Sys2Proof.Machine.execBr o s
  | .brl o => Sys2Proof.Machine.execBrl o s
  | .jmp o => Sys2Proof.Machine.execJmp o s
  | .jmpl o => Sys2Proof.Machine.execJmpl o s
  | .ret o => Sys2Proof.Machine.execRet o s
  | .loop o => Sys2Proof.Machine.execLoop o s
  | .pand o => Sys2Proof.Machine.execPand o s
  | .por o => Sys2Proof.Machine.execPor o s
  | .pxor o => Sys2Proof.Machine.execPxor o s
  | .pnot o => Sys2Proof.Machine.execPnot o s
  | .phead o => Sys2Proof.Machine.execPhead o s
  | .ptail o => Sys2Proof.Machine.execPtail o s
  | .pcnt o => Sys2Proof.Machine.execPcnt o s
  | .endFiring o => Sys2Proof.Machine.execEndFiring o s
  | .yield o => Sys2Proof.Machine.execYield o s
  | .idem o => Sys2Proof.Machine.execIdem o s
  | .xloop o => Sys2Proof.Machine.execXloop o s
  | .ld o => Sys2Proof.Machine.execLd o s
  | .st o => Sys2Proof.Machine.execSt o s
  | .ldm o => Sys2Proof.Machine.execLdm o s
  | .stm o => Sys2Proof.Machine.execStm o s
  | .ldc o => Sys2Proof.Machine.execLdc o s
  | .pref o => Sys2Proof.Machine.execPref o s
  | .flush o => Sys2Proof.Machine.execFlush o s
  | .inv o => Sys2Proof.Machine.execInv o s
  | .iget o => Sys2Proof.Machine.execIget o s
  | .iput o => Sys2Proof.Machine.execIput o s
  | .scnt o => Sys2Proof.Machine.execScnt o s
  | .handover o => Sys2Proof.Machine.execHandover o s
  | .reclass o => Sys2Proof.Machine.execReclass o s
  | .fence o => Sys2Proof.Machine.execFence o s
  | .amoAdd o => Sys2Proof.Machine.execAmoAdd o s
  | .amoAnd o => Sys2Proof.Machine.execAmoAnd o s
  | .amoOr o => Sys2Proof.Machine.execAmoOr o s
  | .amoXor o => Sys2Proof.Machine.execAmoXor o s
  | .amoMin o => Sys2Proof.Machine.execAmoMin o s
  | .amoMax o => Sys2Proof.Machine.execAmoMax o s
  | .amoUmin o => Sys2Proof.Machine.execAmoUmin o s
  | .amoUmax o => Sys2Proof.Machine.execAmoUmax o s
  | .amoSwap o => Sys2Proof.Machine.execAmoSwap o s
  | .amoFadd o => Sys2Proof.Machine.execAmoFadd o s
  | .amofAdd o => Sys2Proof.Machine.execAmofAdd o s
  | .amofAnd o => Sys2Proof.Machine.execAmofAnd o s
  | .amofOr o => Sys2Proof.Machine.execAmofOr o s
  | .amofXor o => Sys2Proof.Machine.execAmofXor o s
  | .amofMin o => Sys2Proof.Machine.execAmofMin o s
  | .amofMax o => Sys2Proof.Machine.execAmofMax o s
  | .amofUmin o => Sys2Proof.Machine.execAmofUmin o s
  | .amofUmax o => Sys2Proof.Machine.execAmofUmax o s
  | .amofSwap o => Sys2Proof.Machine.execAmofSwap o s
  | .amofFadd o => Sys2Proof.Machine.execAmofFadd o s
  | .amoUAdd o => Sys2Proof.Machine.execAmoUAdd o s
  | .amoUAnd o => Sys2Proof.Machine.execAmoUAnd o s
  | .amoUOr o => Sys2Proof.Machine.execAmoUOr o s
  | .amoUXor o => Sys2Proof.Machine.execAmoUXor o s
  | .amoUMin o => Sys2Proof.Machine.execAmoUMin o s
  | .amoUMax o => Sys2Proof.Machine.execAmoUMax o s
  | .amoUUmin o => Sys2Proof.Machine.execAmoUUmin o s
  | .amoUUmax o => Sys2Proof.Machine.execAmoUUmax o s
  | .amoUFadd o => Sys2Proof.Machine.execAmoUFadd o s
  | .cas o => Sys2Proof.Machine.execCas o s
  | .casw o => Sys2Proof.Machine.execCasw o s
  | .bari o => Sys2Proof.Machine.execBari o s
  | .bar o => Sys2Proof.Machine.execBar o s
  | .barw o => Sys2Proof.Machine.execBarw o s
  | .dmclose o => Sys2Proof.Machine.execDmclose o s
  | .tlbi o => Sys2Proof.Machine.execTlbi o s
  | .fork o => Sys2Proof.Machine.execFork o s
  | .join o => Sys2Proof.Machine.execJoin o s
  | .dqcnt o => Sys2Proof.Machine.execDqcnt o s
  | .futNew o => Sys2Proof.Machine.execFutNew o s
  | .futSet o => Sys2Proof.Machine.execFutSet o s
  | .futGet o => Sys2Proof.Machine.execFutGet o s
  | .futFree o => Sys2Proof.Machine.execFutFree o s
  | .mbxBind o => Sys2Proof.Machine.execMbxBind o s
  | .mbxFree o => Sys2Proof.Machine.execMbxFree o s
  | .mbxrd o => Sys2Proof.Machine.execMbxrd o s
  | .send o => Sys2Proof.Machine.execSend o s
  | .evt o => Sys2Proof.Machine.execEvt o s
  | .wfe o => Sys2Proof.Machine.execWfe o s
  | .gangOn o => Sys2Proof.Machine.execGangOn o s
  | .gangOff o => Sys2Proof.Machine.execGangOff o s
  | .rfork o => Sys2Proof.Machine.execRfork o s
  | .launch o => Sys2Proof.Machine.execLaunch o s
  | .poolset o => Sys2Proof.Machine.execPoolset o s
  | .poolsetWait o => Sys2Proof.Machine.execPoolsetWait o s
  | .poolrd o => Sys2Proof.Machine.execPoolrd o s
  | .hwmSet o => Sys2Proof.Machine.execHwmSet o s
  | .viewSet o => Sys2Proof.Machine.execViewSet o s
  | .viewClr o => Sys2Proof.Machine.execViewClr o s
  | .tset o => Sys2Proof.Machine.execTset o s
  | .tstat o => Sys2Proof.Machine.execTstat o s
  | .tclr o => Sys2Proof.Machine.execTclr o s
  | .qpop o => Sys2Proof.Machine.execQpop o s
  | .qcnt o => Sys2Proof.Machine.execQcnt o s
  | .streamBind o => Sys2Proof.Machine.execStreamBind o s
  | .streamEnd o => Sys2Proof.Machine.execStreamEnd o s
  | .winSet o => Sys2Proof.Machine.execWinSet o s
  | .srd o => Sys2Proof.Machine.execSrd o s
  | .swr o => Sys2Proof.Machine.execSwr o s
  | .logrd o => Sys2Proof.Machine.execLogrd o s
  | .logext o => Sys2Proof.Machine.execLogext o s
  | .vadd o => Sys2Proof.Machine.execVadd o s
  | .vsub o => Sys2Proof.Machine.execVsub o s
  | .vmul o => Sys2Proof.Machine.execVmul o s
  | .vmin o => Sys2Proof.Machine.execVmin o s
  | .vmax o => Sys2Proof.Machine.execVmax o s
  | .vabs o => Sys2Proof.Machine.execVabs o s
  | .vneg o => Sys2Proof.Machine.execVneg o s
  | .vfma o => Sys2Proof.Machine.execVfma o s
  | .vfms o => Sys2Proof.Machine.execVfms o s
  | .vfnma o => Sys2Proof.Machine.execVfnma o s
  | .vcmp o => Sys2Proof.Machine.execVcmp o s
  | .vsel o => Sys2Proof.Machine.execVsel o s
  | .vclass o => Sys2Proof.Machine.execVclass o s
  | .vcvt o => Sys2Proof.Machine.execVcvt o s
  | .vrsum o => Sys2Proof.Machine.execVrsum o s
  | .vrmax o => Sys2Proof.Machine.execVrmax o s
  | .vrmin o => Sys2Proof.Machine.execVrmin o s
  | .vand o => Sys2Proof.Machine.execVand o s
  | .vor o => Sys2Proof.Machine.execVor o s
  | .vxor o => Sys2Proof.Machine.execVxor o s
  | .vandn o => Sys2Proof.Machine.execVandn o s
  | .vshl o => Sys2Proof.Machine.execVshl o s
  | .vshr o => Sys2Proof.Machine.execVshr o s
  | .vsra o => Sys2Proof.Machine.execVsra o s
  | .vadds o => Sys2Proof.Machine.execVadds o s
  | .vsubs o => Sys2Proof.Machine.execVsubs o s
  | .vmulh o => Sys2Proof.Machine.execVmulh o s
  | .vperm o => Sys2Proof.Machine.execVperm o s
  | .vbcast o => Sys2Proof.Machine.execVbcast o s
  | .vrot o => Sys2Proof.Machine.execVrot o s
  | .vzip o => Sys2Proof.Machine.execVzip o s
  | .vunzip o => Sys2Proof.Machine.execVunzip o s
  | .vcomp o => Sys2Proof.Machine.execVcomp o s
  | .vext o => Sys2Proof.Machine.execVext o s
  | .vins o => Sys2Proof.Machine.execVins o s
  | .vmov o => Sys2Proof.Machine.execVmov o s
  | .vsign o => Sys2Proof.Machine.execVsign o s
  | .vrand o => Sys2Proof.Machine.execVrand o s
  | .div o => Sys2Proof.Machine.execDiv o s
  | .sqrt o => Sys2Proof.Machine.execSqrt o s
  | .rcp o => Sys2Proof.Machine.execRcp o s
  | .rsq o => Sys2Proof.Machine.execRsq o s
  | .exp o => Sys2Proof.Machine.execExp o s
  | .expB2 o => Sys2Proof.Machine.execExpB2 o s
  | .log o => Sys2Proof.Machine.execLog o s
  | .logB2 o => Sys2Proof.Machine.execLogB2 o s
  | .sin o => Sys2Proof.Machine.execSin o s
  | .cos o => Sys2Proof.Machine.execCos o s
  | .tanh o => Sys2Proof.Machine.execTanh o s
  | .tanhSig o => Sys2Proof.Machine.execTanhSig o s
  | .erf o => Sys2Proof.Machine.execErf o s
  | .mma o => Sys2Proof.Machine.execMma o s
  | .mmaS o => Sys2Proof.Machine.execMmaS o s
  | .dmma o => Sys2Proof.Machine.execDmma o s
  | .mscale o => Sys2Proof.Machine.execMscale o s
  | .mzero o => Sys2Proof.Machine.execMzero o s
  | .mflags o => Sys2Proof.Machine.execMflags o s
  | .mdrain o => Sys2Proof.Machine.execMdrain o s
  | .mload o => Sys2Proof.Machine.execMload o s
  | .mstore o => Sys2Proof.Machine.execMstore o s
  | .mxpose o => Sys2Proof.Machine.execMxpose o s
  | .mcvt o => Sys2Proof.Machine.execMcvt o s
  | .gatt o => Sys2Proof.Machine.execGatt o s
  | .gdet o => Sys2Proof.Machine.execGdet o s
  | .gbel o => Sys2Proof.Machine.execGbel o s
  | .gcomb o => Sys2Proof.Machine.execGcomb o s
  | .gmarg o => Sys2Proof.Machine.execGmarg o s
  | .gdamp o => Sys2Proof.Machine.execGdamp o s
  | .gsend o => Sys2Proof.Machine.execGsend o s
  | .gres o => Sys2Proof.Machine.execGres o s
  | .gmean o => Sys2Proof.Machine.execGmean o s
  | .gcut o => Sys2Proof.Machine.execGcut o s
  | .gcutrd o => Sys2Proof.Machine.execGcutrd o s
  | .cvrd o => Sys2Proof.Machine.execCvrd o s
  | .cdef o => Sys2Proof.Machine.execCdef o s
  | .cswap o => Sys2Proof.Machine.execCswap o s
  | .cstat o => Sys2Proof.Machine.execCstat o s
  | .cins o => Sys2Proof.Machine.execCins o s
  | .cdel o => Sys2Proof.Machine.execCdel o s
  | .cprobe o => Sys2Proof.Machine.execCprobe o s
  | .clook o => Sys2Proof.Machine.execClook o s
  | .crehash o => Sys2Proof.Machine.execCrehash o s
  | .cfence o => Sys2Proof.Machine.execCfence o s
  | .hcopy o => Sys2Proof.Machine.execHcopy o s
  | .hgath o => Sys2Proof.Machine.execHgath o s
  | .hscat o => Sys2Proof.Machine.execHscat o s
  | .hpack o => Sys2Proof.Machine.execHpack o s
  | .hunpk o => Sys2Proof.Machine.execHunpk o s
  | .hwait o => Sys2Proof.Machine.execHwait o s
  | .hcancel o => Sys2Proof.Machine.execHcancel o s
  | .viewRegisterWrite o => Sys2Proof.Machine.execViewRegisterWrite o s
  | .sclbaseWrite o => Sys2Proof.Machine.execSclbaseWrite o s
  | .flagRegisterWrite o => Sys2Proof.Machine.execFlagRegisterWrite o s
  | .linkEnable pkg port => Sys2Proof.Machine.execLinkEnable pkg port s
  | .linkDisable pkg port => Sys2Proof.Machine.execLinkDisable pkg port s
  | .linkRetrain pkg port => Sys2Proof.Machine.execLinkRetrain pkg port s
  | .lineFetch core fc flips => Sys2Proof.Machine.execLineFetch core fc flips s
  | .lineRefetch core fc flips => Sys2Proof.Machine.execLineRefetch core fc flips s
  | .trapEntry core fc => Sys2Proof.Machine.execTrapEntry core fc s
  | .firingStart core => Sys2Proof.Machine.execFiringStart core s
  | .regionDiscard core fc => Sys2Proof.Machine.execRegionDiscard core fc s
  | .wholeSave core fc => Sys2Proof.Machine.execWholeSave core fc s
  | .portForward core slot port => Sys2Proof.Machine.execPortForward core slot port s
  | .loadDataReturn txn => Sys2Proof.Machine.execLoadDataReturn txn s
  | .streamReadFetch core fc queue => Sys2Proof.Machine.execStreamReadFetch core fc queue s
  | .streamWriteStore core fc queue => Sys2Proof.Machine.execStreamWriteStore core fc queue s
  | .xloopPass core fc => Sys2Proof.Machine.execXloopPass core fc s
  | .storeAck txn => Sys2Proof.Machine.execStoreAck txn s
  | .remoteAccessPerform txn => Sys2Proof.Machine.execRemoteAccessPerform txn s
  | .poolMoveRecheck core fc => Sys2Proof.Machine.execPoolMoveRecheck core fc s
  | .poolMoveDone core => Sys2Proof.Machine.execPoolMoveDone core s
  | .matrixEntryComplete core fc => Sys2Proof.Machine.execMatrixEntryComplete core fc s
  | .followOnProduct cmd => Sys2Proof.Machine.execFollowOnProduct cmd s
  | .heliostatCommandStart cluster channel => Sys2Proof.Machine.execHeliostatCommandStart cluster channel s
  | .heliostatCommandComplete cmd => Sys2Proof.Machine.execHeliostatCommandComplete cmd s
  | .mloadFillComplete core tile => Sys2Proof.Machine.execMloadFillComplete core tile s
  | .mstoreDrainComplete core fc => Sys2Proof.Machine.execMstoreDrainComplete core fc s
  | .mdrainWake core fc => Sys2Proof.Machine.execMdrainWake core fc s
  | .coreRetentionEntry core => Sys2Proof.Machine.execCoreRetentionEntry core s
  | .coreWake core => Sys2Proof.Machine.execCoreWake core s
  | .ctsAdvance core => Sys2Proof.Machine.execCtsAdvance core s
  | .cacheFillComplete txn => Sys2Proof.Machine.execCacheFillComplete txn s
  | .homeRequest txn => Sys2Proof.Machine.execHomeRequest txn s
  | .hcExclusiveGrant txn => Sys2Proof.Machine.execHcExclusiveGrant txn s
  | .hcRecall line => Sys2Proof.Machine.execHcRecall line s
  | .uGrant txn => Sys2Proof.Machine.execUGrant txn s
  | .uRecall line => Sys2Proof.Machine.execURecall line s
  | .owHandoverAtHome page => Sys2Proof.Machine.execOwHandoverAtHome page s
  | .owGrant page => Sys2Proof.Machine.execOwGrant page s
  | .reclassTlbsConfirmed page => Sys2Proof.Machine.execReclassTlbsConfirmed page s
  | .reclassDrained page => Sys2Proof.Machine.execReclassDrained page s
  | .mailboxEntryArrival txn => Sys2Proof.Machine.execMailboxEntryArrival txn s
  | .mailboxHeldAppend core mailbox => Sys2Proof.Machine.execMailboxHeldAppend core mailbox s
  | .eventDelivery event => Sys2Proof.Machine.execEventDelivery event s
  | .wfeTimeout core fc => Sys2Proof.Machine.execWfeTimeout core fc s
  | .stealRequest core => Sys2Proof.Machine.execStealRequest core s
  | .gsendArrival txn => Sys2Proof.Machine.execGsendArrival txn s
  | .cutStartArrival event => Sys2Proof.Machine.execCutStartArrival event s
  | .markerArrival event => Sys2Proof.Machine.execMarkerArrival event s
  | .almanacQuietPass rcb => Sys2Proof.Machine.execAlmanacQuietPass rcb s
  | .catalogueUpdateApply cluster => Sys2Proof.Machine.execCatalogueUpdateApply cluster s
  | .pageWalk quad root ea => Sys2Proof.Machine.execPageWalk quad root ea s
  | .tlbiTarget event => Sys2Proof.Machine.execTlbiTarget event s
  | .launchFirmwareReply launch => Sys2Proof.Machine.execLaunchFirmwareReply launch s
  | .launchNofirmTimeout launch => Sys2Proof.Machine.execLaunchNofirmTimeout launch s
  | .bindOpcBind core record => Sys2Proof.Machine.execBindOpcBind core record s
  | .unbind core record => Sys2Proof.Machine.execUnbind core record s
  | .hold core record => Sys2Proof.Machine.execHold core record s
  | .release core record => Sys2Proof.Machine.execRelease core record s
  | .mergeEntryArrival txn => Sys2Proof.Machine.execMergeEntryArrival txn s
  | .dmRoundComplete rcb => Sys2Proof.Machine.execDmRoundComplete rcb s
  | .powerUp pkg => Sys2Proof.Machine.execPowerUp pkg s
  | .thermalThrottle pkg die => Sys2Proof.Machine.execThermalThrottle pkg die s
  | .powerThrottle pkg die => Sys2Proof.Machine.execPowerThrottle pkg die s
  | .thermalShutdown pkg die => Sys2Proof.Machine.execThermalShutdown pkg die s
  | .dramCrcRetry pkg site => Sys2Proof.Machine.execDramCrcRetry pkg site s
  | .dramScrub pkg site => Sys2Proof.Machine.execDramScrub pkg site s
  | .writebackUe core line sector => Sys2Proof.Machine.execWritebackUe core line sector s
  | .linkAnResolved pkg port => Sys2Proof.Machine.execLinkAnResolved pkg port s
  | .linkAnTimeout pkg port => Sys2Proof.Machine.execLinkAnTimeout pkg port s
  | .linkTrainDone pkg port => Sys2Proof.Machine.execLinkTrainDone pkg port s
  | .linkTrainTimeout pkg port => Sys2Proof.Machine.execLinkTrainTimeout pkg port s
  | .linkLock pkg port => Sys2Proof.Machine.execLinkLock pkg port s
  | .linkLockTimeout pkg port => Sys2Proof.Machine.execLinkLockTimeout pkg port s
  | .linkAssocDone pkg port => Sys2Proof.Machine.execLinkAssocDone pkg port s
  | .linkAssocRefused pkg port => Sys2Proof.Machine.execLinkAssocRefused pkg port s
  | .linkAssocTimeout pkg port => Sys2Proof.Machine.execLinkAssocTimeout pkg port s
  | .linkFail pkg port => Sys2Proof.Machine.execLinkFail pkg port s
  | .linkFailedRetry pkg port => Sys2Proof.Machine.execLinkFailedRetry pkg port s
  | .fabricPacketArrival txn => Sys2Proof.Machine.execFabricPacketArrival txn s
  | .fabricResend txn => Sys2Proof.Machine.execFabricResend txn s
  | .fabricTimeout txn => Sys2Proof.Machine.execFabricTimeout txn s
  | .hostQueueMessage pkg queue endpoint entry => Sys2Proof.Machine.execHostQueueMessage pkg queue endpoint entry s
  | .hostQueueLaunch pkg queue endpoint entry => Sys2Proof.Machine.execHostQueueLaunch pkg queue endpoint entry s
  | .hostQueueFirmware pkg queue endpoint entry => Sys2Proof.Machine.execHostQueueFirmware pkg queue endpoint entry s
  | .outboundAppend pkg queue => Sys2Proof.Machine.execOutboundAppend pkg queue s
  | .hostWindowRead pkg window endpoint offset length => Sys2Proof.Machine.execHostWindowRead pkg window endpoint offset length s
  | .hostWindowWrite pkg window endpoint offset data => Sys2Proof.Machine.execHostWindowWrite pkg window endpoint offset data s
  | .catalogueCommandAnswer cluster => Sys2Proof.Machine.execCatalogueCommandAnswer cluster s

end Sys2Proof.Machine
end

