-- ==== Sys2Proof/Machine/Agents.lean ====
section
/-! DEFINITION. The agents: which of them can act now, and what each does in a step (R88, R171, R267). -/

namespace Sys2Proof.Machine

/-- The machine's own acts that `step` may choose, by the names of their rows: no bits flip in a fetch it makes itself.
A type of its own, since compiled code can make no constructor of `Instr` beyond the 244th. -/
inductive Event
  | linkEnable (pkg : Nat) (port : Nat)
  | linkDisable (pkg : Nat) (port : Nat)
  | linkRetrain (pkg : Nat) (port : Nat)
  | lineFetch (core : Nat) (fc : Nat)
  | lineRefetch (core : Nat) (fc : Nat)
  | trapEntry (core : Nat) (fc : Nat)
  | firingStart (core : Nat)
  | regionDiscard (core : Nat) (fc : Nat)
  | wholeSave (core : Nat) (fc : Nat)
  | portForward (core : Nat) (slot : Nat) (port : Nat)
  | loadDataReturn (txn : Nat)
  | streamReadFetch (core : Nat) (fc : Nat) (queue : Nat)
  | streamWriteStore (core : Nat) (fc : Nat) (queue : Nat)
  | xloopPass (core : Nat) (fc : Nat)
  | storeAck (txn : Nat)
  | remoteAccessPerform (txn : Nat)
  | poolMoveRecheck (core : Nat) (fc : Nat)
  | poolMoveDone (core : Nat)
  | matrixEntryComplete (core : Nat) (fc : Nat)
  | followOnProduct (cmd : Nat)
  | heliostatCommandStart (cluster : Nat) (channel : Nat)
  | heliostatCommandComplete (cmd : Nat)
  | mloadFillComplete (core : Nat) (tile : Nat)
  | mstoreDrainComplete (core : Nat) (fc : Nat)
  | mdrainWake (core : Nat) (fc : Nat)
  | coreRetentionEntry (core : Nat)
  | coreWake (core : Nat)
  | ctsAdvance (core : Nat)
  | cacheFillComplete (txn : Nat)
  | homeRequest (txn : Nat)
  | hcExclusiveGrant (txn : Nat)
  | hcRecall (line : Nat)
  | uGrant (txn : Nat)
  | uRecall (line : Nat)
  | owHandoverAtHome (page : Nat)
  | owGrant (page : Nat)
  | reclassTlbsConfirmed (page : Nat)
  | reclassDrained (page : Nat)
  | mailboxEntryArrival (txn : Nat)
  | mailboxHeldAppend (core : Nat) (mailbox : Nat)
  | eventDelivery (event : Nat)
  | wfeTimeout (core : Nat) (fc : Nat)
  | stealRequest (core : Nat)
  | gsendArrival (txn : Nat)
  | cutStartArrival (event : Nat)
  | markerArrival (event : Nat)
  | almanacQuietPass (rcb : Nat)
  | catalogueUpdateApply (cluster : Nat)
  | tlbiTarget (event : Nat)
  | launchFirmwareReply (launch : Nat)
  | launchNofirmTimeout (launch : Nat)
  | mergeEntryArrival (txn : Nat)
  | dmRoundComplete (rcb : Nat)
  | linkAnResolved (pkg : Nat) (port : Nat)
  | linkAnTimeout (pkg : Nat) (port : Nat)
  | linkTrainDone (pkg : Nat) (port : Nat)
  | linkTrainTimeout (pkg : Nat) (port : Nat)
  | linkLock (pkg : Nat) (port : Nat)
  | linkLockTimeout (pkg : Nat) (port : Nat)
  | linkAssocDone (pkg : Nat) (port : Nat)
  | linkAssocRefused (pkg : Nat) (port : Nat)
  | linkAssocTimeout (pkg : Nat) (port : Nat)
  | linkFail (pkg : Nat) (port : Nat)
  | linkFailedRetry (pkg : Nat) (port : Nat)
  | fabricPacketArrival (txn : Nat)
  | fabricResend (txn : Nat)
  | fabricTimeout (txn : Nat)
  | outboundAppend (pkg : Nat) (queue : Nat)
  | catalogueCommandAnswer (cluster : Nat)
  deriving DecidableEq, Repr

/-- The meaning of the row of that name. -/
def Event.run (e : Event) (s : State) : Host.Outcome State Fault Refusal :=
  match e with
  | .linkEnable pkg port => execLinkEnable pkg port s
  | .linkDisable pkg port => execLinkDisable pkg port s
  | .linkRetrain pkg port => execLinkRetrain pkg port s
  | .lineFetch core fc => execLineFetch core fc 0 s
  | .lineRefetch core fc => execLineRefetch core fc 0 s
  | .trapEntry core fc => execTrapEntry core fc s
  | .firingStart core => execFiringStart core s
  | .regionDiscard core fc => execRegionDiscard core fc s
  | .wholeSave core fc => execWholeSave core fc s
  | .portForward core slot port => execPortForward core slot port s
  | .loadDataReturn txn => execLoadDataReturn txn s
  | .streamReadFetch core fc queue => execStreamReadFetch core fc queue s
  | .streamWriteStore core fc queue => execStreamWriteStore core fc queue s
  | .xloopPass core fc => execXloopPass core fc s
  | .storeAck txn => execStoreAck txn s
  | .remoteAccessPerform txn => execRemoteAccessPerform txn s
  | .poolMoveRecheck core fc => execPoolMoveRecheck core fc s
  | .poolMoveDone core => execPoolMoveDone core s
  | .matrixEntryComplete core fc => execMatrixEntryComplete core fc s
  | .followOnProduct cmd => execFollowOnProduct cmd s
  | .heliostatCommandStart cluster channel => execHeliostatCommandStart cluster channel s
  | .heliostatCommandComplete cmd => execHeliostatCommandComplete cmd s
  | .mloadFillComplete core tile => execMloadFillComplete core tile s
  | .mstoreDrainComplete core fc => execMstoreDrainComplete core fc s
  | .mdrainWake core fc => execMdrainWake core fc s
  | .coreRetentionEntry core => execCoreRetentionEntry core s
  | .coreWake core => execCoreWake core s
  | .ctsAdvance core => execCtsAdvance core s
  | .cacheFillComplete txn => execCacheFillComplete txn s
  | .homeRequest txn => execHomeRequest txn s
  | .hcExclusiveGrant txn => execHcExclusiveGrant txn s
  | .hcRecall line => execHcRecall line s
  | .uGrant txn => execUGrant txn s
  | .uRecall line => execURecall line s
  | .owHandoverAtHome page => execOwHandoverAtHome page s
  | .owGrant page => execOwGrant page s
  | .reclassTlbsConfirmed page => execReclassTlbsConfirmed page s
  | .reclassDrained page => execReclassDrained page s
  | .mailboxEntryArrival txn => execMailboxEntryArrival txn s
  | .mailboxHeldAppend core mailbox => execMailboxHeldAppend core mailbox s
  | .eventDelivery event => execEventDelivery event s
  | .wfeTimeout core fc => execWfeTimeout core fc s
  | .stealRequest core => execStealRequest core s
  | .gsendArrival txn => execGsendArrival txn s
  | .cutStartArrival event => execCutStartArrival event s
  | .markerArrival event => execMarkerArrival event s
  | .almanacQuietPass rcb => execAlmanacQuietPass rcb s
  | .catalogueUpdateApply cluster => execCatalogueUpdateApply cluster s
  | .tlbiTarget event => execTlbiTarget event s
  | .launchFirmwareReply launch => execLaunchFirmwareReply launch s
  | .launchNofirmTimeout launch => execLaunchNofirmTimeout launch s
  | .mergeEntryArrival txn => execMergeEntryArrival txn s
  | .dmRoundComplete rcb => execDmRoundComplete rcb s
  | .linkAnResolved pkg port => execLinkAnResolved pkg port s
  | .linkAnTimeout pkg port => execLinkAnTimeout pkg port s
  | .linkTrainDone pkg port => execLinkTrainDone pkg port s
  | .linkTrainTimeout pkg port => execLinkTrainTimeout pkg port s
  | .linkLock pkg port => execLinkLock pkg port s
  | .linkLockTimeout pkg port => execLinkLockTimeout pkg port s
  | .linkAssocDone pkg port => execLinkAssocDone pkg port s
  | .linkAssocRefused pkg port => execLinkAssocRefused pkg port s
  | .linkAssocTimeout pkg port => execLinkAssocTimeout pkg port s
  | .linkFail pkg port => execLinkFail pkg port s
  | .linkFailedRetry pkg port => execLinkFailedRetry pkg port s
  | .fabricPacketArrival txn => execFabricPacketArrival txn s
  | .fabricResend txn => execFabricResend txn s
  | .fabricTimeout txn => execFabricTimeout txn s
  | .outboundAppend pkg queue => execOutboundAppend pkg queue s
  | .catalogueCommandAnswer cluster => execCatalogueCommandAnswer cluster s

/-- Who acts in a step. -/
inductive Agent
  /-- The A-half of a core. -/
  | issue (core : Nat)
  /-- The X-half of a core. -/
  | run (core : Nat)
  /-- An act of the machine. -/
  | act (e : Event)
  /-- The next act of the surroundings. -/
  | input
  /-- A soft error strikes a store of a package (R386). -/
  | softError (pkg : Nat)
  /-- An error found at a write-back is reported (R386). -/
  | report
  deriving DecidableEq, Repr

/-- The core's package is up and the core is not in retention (R124, R384, R385). -/
def State.coreAwake (s : State) (k : Nat) : Bool := !(s.pkgAt (corePkg k)).off && (s.coreAt k).cur == 0

/-- The line of the context's pc is buffered and its A-half may issue. -/
def State.issuable (s : State) (k fc : Nat) : Bool :=
  let c := s.ctxOf k fc
  s.coreAwake k && c.canIssue && !c.heldForPreempt && !c.needsLine

/-- One slot of a context: its trap, or the meaning of its instruction (R44, R46, R60). -/
def issueSlot (s : State) (k fc : Nat) : Host.Outcome State Fault Refusal :=
  let s := s.at k fc
  match s.ctx.line with
  | none => .next s
  | some l =>
    match slotAt s.ctx l with
    | .error t => .next (s.takeTrapA t)
    | .ok i => exec i s

/-- The cores after d cycles, which some of their event counters count (R387); one that is not quiet begins its IDLE cycles
after them (R125). -/
def State.spendCycles (s : State) (d : Nat) : Table Core :=
  s.cores.map (fun c =>
    let xs := c.2.ctx.toList
    let k := c.2.spend d (xs.any Ctx.atStallPoint) c.2.arrayBusy
    (c.1, if c.2.quiet then k else { k with quietSince := s.now + d }))

/-- A context waits after its attempt. -/
def State.waits (s : State) (k fc : Nat) : Bool := (s.ctxOf k fc).stall.isSome

/-- The contexts in the order of a rotating pointer (R88). -/
def rotation (p : BitVec 2) : List Nat := (List.range 4).map (fun i => (p.toNat + i) % 4)

/-- The A-half issues from the first ready context (R88). -/
def issueFrom (k : Nat) : List Nat → State → Host.Outcome State Fault Refusal
  | [], s => .next s
  | fc :: rest, s =>
    if s.issuable k fc then
      match issueSlot s k fc with
      | .next s' =>
        if s'.waits k fc then issueFrom k rest s'
        else .next (s'.modCore k (fun c => { c with aptr := BitVec.ofNat 2 (fc + 1), quietSince := s'.now }))
      | o => o
    else issueFrom k rest s

/-- The X-half did something for a context. -/
def ranOn (a b : Ctx) : Bool := decide (a.xseq ≠ b.xseq) || a.xbusy != b.xbusy || a.xfrozen != b.xfrozen || b.firing.isNone

/-- The X-half starts the oldest entry of the first ready context (R88). -/
def runFrom (k : Nat) : List Nat → State → Host.Outcome State Fault Refusal
  | [], s => .next s
  | fc :: rest, s =>
    let c := s.ctxOf k fc
    match (if c.canRun then c.xhead else none) with
    | none => runFrom k rest s
    | some e =>
      match exec e.i (s.at k fc true) with
      | .next s' =>
        if ranOn c (s'.ctxOf k fc) then
          .next (s'.modCore k (fun c => { c with xptr := BitVec.ofNat 2 (fc + 1), quietSince := s'.now }))
        else runFrom k rest s
      | o => o

/-- The rows that are acts of the surroundings: firmware, hosts, links, heat, errors and power (log entry 45). -/
def ofSurroundings (i : Instr) : Bool :=
  match i with
  | .lineFetch _ _ _ => true | .lineRefetch _ _ _ => true
  | .pageWalk _ _ _ => true
  | .bindOpcBind _ _ => true | .unbind _ _ => true | .hold _ _ => true | .release _ _ => true
  | .powerUp _ => true | .thermalThrottle _ _ => true | .powerThrottle _ _ => true | .thermalShutdown _ _ => true
  | .dramCrcRetry _ _ => true | .dramScrub _ _ => true | .writebackUe _ _ _ => true
  | .hostQueueMessage _ _ _ _ => true | .hostQueueLaunch _ _ _ _ => true | .hostQueueFirmware _ _ _ _ => true
  | .hostWindowRead _ _ _ _ _ => true | .hostWindowWrite _ _ _ _ _ => true
  | _ => false

/-- What an agent does. -/
def State.perform (s : State) (a : Agent) : Host.Outcome State Fault Refusal :=
  match a with
  | .issue k => issueFrom k (rotation (s.coreAt k).aptr) s
  | .run k => runFrom k (rotation (s.coreAt k).xptr) s
  | .act e => e.run s
  | .input =>
    match s.inputs with
    | i :: rest => if ofSurroundings i then exec i { s with inputs := rest } else .next { s with inputs := rest }
    | [] => .next s
  | .softError pkg => .next (s.softError pkg)
  | .report => .next s.reportNext

/-- An act, when it can happen. -/
def actIf (c : Bool) (e : Event) : List Agent := if c then [.act e] else []

/-- The acts of one context of a core that can happen now. -/
def State.contextAgents (s : State) (k fc : Nat) : List Agent :=
  let c := s.ctxOf k fc
  actIf (s.coreAwake k && c.needsLine && !c.refetch) (.lineFetch k fc) ++
  actIf (s.coreAwake k && c.needsLine && c.refetch) (.lineRefetch k fc) ++
  actIf c.trapReady (.trapEntry k fc) ++
  actIf (s.canDiscard k fc) (.regionDiscard k fc) ++
  actIf (s.canSave k fc) (.wholeSave k fc) ++
  ([2, 3, 4, 5].flatMap (fun q =>
    actIf (c.canFetch q) (.streamReadFetch k fc q) ++ actIf (c.canStore q) (.streamWriteStore k fc q))) ++
  actIf (c.passDue && !c.xbusy && !c.xfrozen) (.xloopPass k fc) ++
  actIf (match c.stall with | some st => st.why == .pool && s.coreAwake k | none => false) (.poolMoveRecheck k fc) ++
  actIf c.matrixDone (.matrixEntryComplete k fc) ++
  actIf (s.drainDone k fc) (.mdrainWake k fc) ++
  actIf c.storing (.mstoreDrainComplete k fc) ++
  actIf (s.wfeOver k fc) (.wfeTimeout k fc)

/-- The acts of one core that can happen now. -/
def State.coreAgents (s : State) (k : Nat) : List Agent :=
  let c := s.coreAt k
  let fcs := [0, 1, 2, 3]
  (if fcs.any (s.issuable k) then [.issue k] else []) ++
  (if s.coreAwake k && fcs.any (fun fc => (c.ctxAt fc).canRun) then [.run k] else []) ++
  fcs.flatMap (s.contextAgents k) ++
  actIf (s.coreAwake k && s.canStart k) (.firingStart k) ++
  actIf c.move.isSome (.poolMoveDone k) ++
  (c.fills.map (fun f => .act (.mloadFillComplete k f.tile))) ++
  (c.binds.flatMap (fun b => (List.range b.2.outs.length).flatMap (fun p =>
    actIf (s.forwardable k b.1 p).isSome (.portForward k b.1 p)))) ++
  (c.mailboxes.flatMap (fun m => actIf (!m.2.held.isEmpty && decide (m.2.msgs.length < m.2.depth))
    (.mailboxHeldAppend k m.1))) ++
  actIf (s.coreAwake k && s.steals k) (.stealRequest k) ++
  actIf (s.canSleep k) (.coreRetentionEntry k) ++
  actIf (s.canWake k) (.coreWake k) ++
  actIf (s.ctsDue k) (.ctsAdvance k)

/-- The acts of one access under way. -/
def State.txnAgents (s : State) (id : Nat) (t : Txn) : List Agent :=
  let late := !t.near && decide ((s.pkgAt t.source).limit ≤ s.now - t.sent)
  let line := lineOf t.ga
  (match t.stage with
   | .travelling =>
     if !t.near then [.act (.fabricPacketArrival id), .act (.fabricResend id)]
     else match t.op, t.target with
       | .slot _ _ _ _ _, _ => [.act (.gsendArrival id)]
       | _, .pool => [.act (.remoteAccessPerform id)]
       | _, .dram _ => .act (.homeRequest id) ::
           (actIf (s.recallWanted line) (.hcRecall line) ++ actIf (s.recallWanted line) (.uRecall line))
       | _, .merge => [.act (.mergeEntryArrival id)]
       | _, _ => [.act (.mailboxEntryArrival id)]
   | .granted =>
     if t.isU then [.act (.uGrant id)]
     else if t.wantsExclusive then [.act (.hcExclusiveGrant id)]
     else [.act (.cacheFillComplete id)]
   | .held => []
   | .done => if t.count.isNone then [.act (.loadDataReturn id)] else [.act (.storeAck id)]
   | .failed _ => if t.count.isNone then [.act (.loadDataReturn id)] else [.act (.storeAck id)]) ++
  actIf late (.fabricTimeout id)

/-- The act of an event, marker, cut-start or TLBI on its way. -/
def flightAgent (id : Nat) (f : Flight) : Agent :=
  match f with
  | .event _ _ => .act (.eventDelivery id)
  | .cutStart _ _ _ => .act (.cutStartArrival id)
  | .marker _ _ _ _ => .act (.markerArrival id)
  | .tlbi _ _ _ _ _ => .act (.tlbiTarget id)

/-- The acts of one cluster: its Catalogue Unit and its Heliostat. -/
def clusterAgents (k : Nat) (c : Cluster) : List Agent :=
  actIf (!(c.applicable true).isEmpty) (.catalogueUpdateApply k) ++
  actIf (!(c.applicable false).isEmpty) (.catalogueCommandAnswer k) ++
  (List.range 16).flatMap (fun n =>
    let q := c.chan n
    actIf (nextCmd q).isSome (.heliostatCommandStart k n) ++
    q.flatMap (fun c => match c.stage with
      | .queued => []
      | .running => [.act (.heliostatCommandComplete c.id)]
      | _ => if c.follow.isSome then [.act (.followOnProduct c.id)] else [.act (.heliostatCommandComplete c.id)]))

/-- The acts of one port (R393). -/
def Port.agents (p : Port) (pkg n : Nat) : List Agent :=
  if !p.en then actIf (p.st != .disabled) (.linkDisable pkg n)
  else if p.retrain then [.act (.linkRetrain pkg n)]
  else match p.st with
    | .disabled => [.act (.linkEnable pkg n)]
    | .an => [.act (.linkAnResolved pkg n), .act (.linkAnTimeout pkg n)]
    | .train => [.act (.linkTrainDone pkg n), .act (.linkTrainTimeout pkg n)]
    | .align => [.act (.linkLock pkg n), .act (.linkLockTimeout pkg n)]
    | .assoc => [.act (.linkAssocDone pkg n), .act (.linkAssocRefused pkg n), .act (.linkAssocTimeout pkg n)]
    | .up => [.act (.linkFail pkg n)]
    | .failed => [.act (.linkFailedRetry pkg n)]

/-- The acts of one package: its regions, classes, capabilities, launches, queues and links. -/
def State.packageAgents (s : State) (pkg : Nat) (p : Package) : List Agent :=
  (p.regions.flatMap (fun r => .act (.almanacQuietPass r.1) :: actIf (s.roundFull r.1) (.dmRoundComplete r.1))) ++
  (p.caps.flatMap (fun c => actIf c.2.heading.isSome (if c.2.granted then .owGrant c.1 else .owHandoverAtHome c.1))) ++
  (p.reclass.map (fun r => .act (if r.2.draining then .reclassDrained r.1 else .reclassTlbsConfirmed r.1))) ++
  (p.launches.flatMap (fun l => .act (.launchFirmwareReply l.1) ::
    actIf (decide (2 ^ 20 ≤ s.now - l.2.since)) (.launchNofirmTimeout l.1))) ++
  (p.outq.flatMap (fun q => actIf (!q.2.isEmpty) (.outboundAppend pkg q.1))) ++
  (if p.on && !p.off then (List.range 32).flatMap (fun n => (p.port n).agents pkg n) else [])

/-- The template that holds an instruction in slot 0, its occupied slots, and the slot after it (R38, R40): a command with
F set needs its follow-on. -/
def frameFor (w : BitVec 96) : Nat × Nat × BitVec 96 :=
  match decode w with
  | .ok i =>
    match i.stream with
    | .x => (1, 1, 0)
    | .e => if hasFollow i then (24, 2, 0xC0000208441A000400000000) else (2, 1, 0)
    | _ => (0, 1, 0)
  | .error _ => (0, 1, 0)

/-- A running firing on context 0 of core 0 whose next slot holds a word (log entry 11). -/
def State.placeSlot (s : State) (w : BitVec 96) : State :=
  let (tpl, n, follow) := frameFor w
  let bits := lineBits tpl n [w, follow]
  let pc := word (poolAddr 1 0 0)
  let f : Firing := { kind := .actor, act := some 0, slot := 0, rcb := 0, entry := pc, stateBlock := 0, cls := 0, prio := 0,
                      trapped := false, msg := [] }
  let s := s.wrNat (poolAddr 1 0 0) 64 bits.toNat
  let s := s.modCtxOf 0 0 (fun c => { c with
    firing := some f, pc := pc, line := some ⟨pc, bits⟩, refetch := false, xfer := none, stall := none, awaited := none,
    trap := none, preempt := none })
  let s := s.modCore 0 (fun c => { c with cur := 0 })
  { s with turn := some (0, 0) }

/-- Every agent that can act now. -/
def State.enabled (s : State) : List Agent :=
  (match s.inputs with | _ :: _ => [.input] | [] => []) ++
  (s.cores.filter (fun c => s.lives (corePkg c.1))).flatMap (fun c => s.coreAgents c.1) ++
  (s.txns.filter (fun t => s.lives (corePkg t.2.core))).flatMap (fun t => s.txnAgents t.1 t.2) ++
  (s.flights.filter (fun f => s.lives f.2.pkg)).map (fun f => flightAgent f.1 f.2) ++
  (s.clusters.filter (fun c => s.lives (c.1 / 96))).flatMap (fun c => clusterAgents c.1 c.2) ++
  (s.packages.filter (fun p => s.lives p.1)).flatMap (fun p => .softError p.1 :: s.packageAgents p.1 p.2) ++
  (if s.ues.isEmpty then [] else [.report])

end Sys2Proof.Machine
end

