-- ==== Sys2Proof/Machine/Step.lean ====
section
/-! DEFINITION. One step of the machine: one agent that can act acts. -/

namespace Sys2Proof.Machine

/-- Time passes, and the step is numbered. -/
def State.tickOn (s : State) : State :=
  { s with
    tick := s.tick + 1, now := s.now + Config.cycles s.tick, turn := none,
    cores := s.spendCycles (Config.cycles s.tick) }

/-- One step: the context whose turn it is issues its slot; otherwise one of the enabled agents acts, any of them
(R88, R171, R267). -/
def step (s : State) : Host.Outcome State Fault Refusal :=
  match s.turn with
  | some (k, fc) => if s.issuable k fc then issueSlot s.tickOn k fc else .next s.tickOn
  | none =>
    match s.enabled with
    | [] => .next s.tickOn
    | [a] => s.tickOn.perform a
    | a :: l => s.tickOn.perform ((a :: l).getD (Config.pick s.tick % (a :: l).length) a)

/-- s with one instruction in slot 0 of a line of core 0's scratchpad, and context 0 of core 0 running a firing at it. -/
def State.withFetchWord (s : State) (nbits w : Nat) : State := s.placeSlot (BitVec.ofNat 96 (w % 2 ^ nbits))

end Sys2Proof.Machine
end

