-- ==== Sys2Proof/Safety.lean ====
section
/-! DEFINITION. A safe run, and the terms in which claims are made. -/

namespace Sys2Proof.Machine

/-- A step answers a next state: neither a fault of the model nor a refusal. -/
def goesOn (s : State) : Prop := ∃ t, step s = .next t

/-- What follows the effect of an A or E slot that goes on: the region is committed if the slot commits it, the pc moves
to the next slot, and the slot is counted. -/
def State.retired (s : State) (i : Instr) : State :=
  ((s.modCtx (·.commitRegion i)).modCtx Ctx.advance).modHere (·.count 1)

/-- What follows the effect of a slot that transfers control: as `retired`, but the pc is the target, and the transfer's
own address is kept for the target's checks (R75, R76). -/
def State.jumped (s : State) (i : Instr) (target : Word) : State :=
  ((s.modCtx (·.commitRegion i)).modCtx (fun c => { c.goto target with xfer := some c.pc })).modHere (·.count 1)

/-- What follows the effect of a slot that sets the pc itself, or ends the firing. -/
def State.stayed (s : State) (i : Instr) : State := (s.modCtx (·.commitRegion i)).modHere (·.count 1)

/-- The current context issues the slot i now: it has a firing that waits for nothing, its mode allows the slot, its
predicate is true, and no register it names is waited for (R60, R73, R162, R261). -/
structure Issues (i : Instr) (h : Hd) (s : State) : Prop where
  can : s.ctx.canIssue = true
  allowed : (i.privileged && s.ctx.mode == .u) = false
  pred : s.ctx.rp h.pg.toNat = true
  mode : s.ctx.mode = .u ∨ (i.stream ≠ .x ∧ h.qs = [] ∧ ∀ o, i ≠ .idem o)
  regs : ∀ k ∈ i.gRegs, s.ctx.pendOf k = .ready

end Sys2Proof.Machine

section
open Sys2Proof Sys2Proof.Machine

/-! ### What claims suppose of a state -/

/-- The X-half runs the head entry e of the current context, an entry of i whose predicate held and that no SKIP drops
(R87, R193, R263). -/
structure Claims.Runs (i : Instr) (e : XEntry) (s : State) : Prop where
  half : s.half = true
  can : s.ctx.canRun = true
  head : s.ctx.xhead = some e
  live : e.live = true
  same : e.i = i
  unskipped : e.skip = false

/-- An entry has run to its end: its readers are released and it leaves the sequencer, or the loop goes on (R78, R213). -/
def Claims.ended (e : XEntry) (s : State) : State :=
  ((s.modHere (·.count 2)).modHere (·.dropReaders e.held)).modCtx Ctx.popEntry

/-- An entry has started, and another act completes it (R217). -/
def Claims.started (s : State) : State := (s.modHere (·.count 2)).modCtx (fun c => { c with xbusy := true })

/-- The dispatch of an X slot is not held up: the A-half issues in U mode, the predicate is true, the sequencer has room
and ends in no loop, and no register the slot names is waited for (R73, R87, R191). -/
structure Claims.Dispatches (i : Instr) (h : Hd) (s : State) : Prop where
  half : s.half = false
  can : s.ctx.canIssue = true
  user : s.ctx.mode = .u
  unskipped : s.ctx.xskip = false
  pred : s.ctx.rp h.pg.toNat = true
  room : s.ctx.xcount < 16
  flat : ∀ l, XItem.loop l ∉ s.ctx.xseq
  regs : ∀ k ∈ i.gRegs, s.ctx.pendOf k = .ready
  sources : ∀ k, Reg.g k ∈ [h.s1, h.s2, h.s3] → s.ctx.pendOf k.toNat = .ready

/-- No lane raised a condition that the slot asked to trap (R155). -/
def Claims.quiet (o : XOps) (fl : List Flags) : Prop :=
  ∀ x ∈ fl, (o.tv = true → x.getLsbD 4 = false) ∧ (o.tz = true → x.getLsbD 3 = false)

/-- An access of the current context to n bytes at p has nothing to wait for: no acquire of the context is outstanding,
no HC access of it when p is of class HC, and no access of it to the same bytes (R175, R176, R277). -/
structure Claims.Clear (s : State) (p : Phys) (n : Nat) : Prop where
  acquired : s.acqOut = false
  ordered : s.inHcOrder p = true → s.hcOut = false
  posted : s.ctx.postedOverlap p.ga n = false
  pending : s.ownPending p.ga n = false

/-- n bytes at p lie in a role of the current core's own pool that no pool move holds back, and what is read there is sound
(R107, R116, R386). -/
structure Claims.Own (s : State) (p : Phys) (n : Nat) (write : Bool) : Prop where
  own : s.isOwn p = true
  still : s.here.poolWaits (gaSpace p.ga) (gaOff p.ga) n write = false
  inRole : s.here.inRole (gaSpace p.ga) (gaOff p.ga) n = true
  sound : write = false → s.bad p.ga n = false

/-- An access that no copy serves is counted as a CCH miss when it goes to memory (R387). -/
def Claims.missed (s : State) (p : Phys) : State := if p.isDram then s.modHere (·.count 0x005) else s

/-- A release waits for the accesses its scope names (R176, R181). -/
def Claims.FencedTo (s : State) (scope : Nat) : Prop :=
  s.loadsOut = false ∧ s.ctx.fenced scope = true ∧ s.ctx.storeErr = none

end
end

