-- ==== Sys2Proof/Certificates/Slice0/Obligations.lean ====
section
/-! DEFINITION. The statements for the provers. -/

open Sys2Proof Sys2Proof.Machine


/-! ### Scalar instructions -/

/-- The scalar instructions of two sources other than the shifts and divisions, with the result each gives (R163). -/
def Claims.two : Instr → Option (AOps × (Word → Word → Word))
  | .add o => some (o, fun a b => a + b)
  | .sub o => some (o, fun a b => a - b)
  | .mul o => some (o, fun a b => a * b)
  | .mulhI64 o => some (o, fun a b => BitVec.ofInt 64 (a.toInt * b.toInt / 2 ^ 64))
  | .mulhN64 o => some (o, fun a b => BitVec.ofNat 64 (a.toNat * b.toNat / 2 ^ 64))
  | .andBits o => some (o, fun a b => a &&& b)
  | .orBits o => some (o, fun a b => a ||| b)
  | .xorBits o => some (o, fun a b => a ^^^ b)
  | .andn o => some (o, fun a b => a &&& ~~~b)
  | .minI64 o => some (o, fun a b => if b.slt a then b else a)
  | .minN64 o => some (o, fun a b => if b.ult a then b else a)
  | .maxI64 o => some (o, fun a b => if a.slt b then b else a)
  | .maxN64 o => some (o, fun a b => if a.ult b then b else a)
  | _ => none

/-- The shifts, with the result each gives for the whole unsigned amount (R165). -/
def Claims.shift : Instr → Option (AOps × (Word → Word → Word))
  | .shl o => some (o, fun a b => if b.toNat < 64 then a <<< b.toNat else 0)
  | .shr o => some (o, fun a b => if b.toNat < 64 then a >>> b.toNat else 0)
  | .sra o => some (o, fun a b => a.sshiftRight (min b.toNat 64))
  | .rot o => some (o, fun a b => a.rotateLeft (b.toNat % 64))
  | _ => none

/-- The scalar instructions of one source, with the result each gives (R163). -/
def Claims.one : Instr → Option (AOps × (Word → Word))
  | .clz o => some (o, fun a => if a = 0 then 64 else BitVec.ofNat 64 (63 - Nat.log2 a.toNat))
  | .ctz o => some (o, fun a => BitVec.ofNat 64 (((List.range 64).find? (fun k => a.getLsbD k)).getD 64))
  | .popc o => some (o, fun a => BitVec.ofNat 64 ((List.range 64).countP (fun k => a.getLsbD k)))
  | .mov o => some (o, fun a => a)
  | _ => none

/-- The divisions, with the result each gives for a divisor other than zero (R164). -/
def Claims.division : Instr → Option (AOps × (Word → Word → Word))
  | .quoI64 o => some (o, fun a b => BitVec.ofInt 64 (Int.tdiv a.toInt b.toInt))
  | .quoN64 o => some (o, fun a b => BitVec.ofNat 64 (a.toNat / b.toNat))
  | .remI64 o => some (o, fun a b => BitVec.ofInt 64 (Int.tmod a.toInt b.toInt))
  | .remN64 o => some (o, fun a b => BitVec.ofNat 64 (a.toNat % b.toNat))
  | _ => none

/-- With sources a and b readable, SHL and SHR write a shifted left or right by b with zeros in, and 0 when b is 64 or more; SRA a shifted right by b with copies of a[63] in, and 64 copies of a[63] when b is 64 or more; ROT a rotated left by b mod 64; b is read as a full unsigned 64-bit value. (07_scalar_memory.md R165) -/
def Obligations.Shifts : Prop :=
  ∀ (i : Instr) (o : AOps) (f : Word → Word → Word) (s sa sb : State) (a b : Word),
    Claims.shift i = some (o, f) → Issues i o.h s → (o.src o.h.s1).run s = .ok (a, sa) → (o.src o.h.s2).run sa = .ok (b, sb) →
    exec i s = .next ((sb.modCtx (·.wg o.h.d.index (f a b))).retired i)

/-- When the current context issues one of these two-source scalar instructions and its sources are readable with values a and b, exec answers the next state in which D holds the result of the instruction (a write to g0 is discarded), the idempotent region is committed only if the instruction commits it, the pc is the successor, and nothing else has changed beyond what reading the sources did. When the current context issues CLZ, CTZ, POPC or MOV and its source is readable with value a, exec answers the next state in which D holds the count or the copy, and the pc is the successor. (07_scalar_memory.md R163) -/
def Obligations.ScalarResults : Prop :=
  (∀ (i : Instr) (o : AOps) (f : Word → Word → Word) (s sa sb : State) (a b : Word),
    Claims.two i = some (o, f) → Issues i o.h s → (o.src o.h.s1).run s = .ok (a, sa) → (o.src o.h.s2).run sa = .ok (b, sb) →
    exec i s = .next ((sb.modCtx (·.wg o.h.d.index (f a b))).retired i)) ∧
    (∀ (i : Instr) (o : AOps) (f : Word → Word) (s sa : State) (a : Word),
    Claims.one i = some (o, f) → Issues i o.h s → (o.src o.h.s1).run s = .ok (a, sa) →
    exec i s = .next ((sa.modCtx (·.wg o.h.d.index (f a))).retired i))

/-- With sources a and b readable, QUO.i64, QUO.n64, REM.i64 and REM.n64 write the quotient rounded toward zero or the remainder when b is not zero, and when b is zero they raise INT_DIVZERO with TVAL := a, recorded and entered as any trap of an A slot. (07_scalar_memory.md R164) -/
def Obligations.Division : Prop :=
  ∀ (i : Instr) (o : AOps) (f : Word → Word → Word) (s sa sb : State) (a b : Word),
    Claims.division i = some (o, f) → Issues i o.h s → (o.src o.h.s1).run s = .ok (a, sa) →
    (o.src o.h.s2).run sa = .ok (b, sb) →
    (b ≠ 0 → exec i s = .next ((sb.modCtx (·.wg o.h.d.index (f a b))).retired i)) ∧
    (b = 0 → exec i s = .next (s.takeTrapA { cause := cINT_DIVZERO, tval := some a }))

/-- LEA writes a + (b << c) for c of 0 to 63; GADDR builds a pool address from a space, a coordinate and an offset; BFX extracts a field, sign- or zero-extended; BFI inserts one; each raises ILLEGAL_OPERAND with the offending operand in TVAL outside its limits. (07_scalar_memory.md R167; 07_scalar_memory.md R168; 07_scalar_memory.md R169) -/
def Obligations.AddressForms : Prop :=
  ∀ (o : AOps) (s sa sb sc : State) (a b c : Word),
    (o.src o.h.s1).run s = .ok (a, sa) → (o.src o.h.s2).run sa = .ok (b, sb) → (o.src o.h.s3).run sb = .ok (c, sc) →
    (Issues (.lea o) o.h s → exec (.lea o) s = .next (
      if c.toNat ≤ 63 then (sc.modCtx (·.wg o.h.d.index (a + (b <<< c.toNat)))).retired (.lea o)
      else s.takeTrapA { cause := cILLEGAL_OPERAND, tval := some c })) ∧
    (Issues (.gaddr o) o.h s → exec (.gaddr o) s = .next (
      match gaddrBad a b c with
      | none => (sc.modCtx (·.wg o.h.d.index (BitVec.ofNat 64
          (bits a.toNat 63 48 * 2 ^ 48 + bits b.toNat 13 0 * 2 ^ 34 + bits c.toNat 18 0)))).retired (.gaddr o)
      | some x => s.takeTrapA { cause := cILLEGAL_OPERAND, tval := some x })) ∧
    (Issues (.bfxI64 o) o.h s → exec (.bfxI64 o) s = .next (
      match fieldOf b with
      | some (pos, len) => (sb.modCtx (·.wg o.h.d.index (BitVec.ofInt 64
          (sintOf len (bits a.toNat (pos + len - 1) pos))))).retired (.bfxI64 o)
      | none => s.takeTrapA { cause := cILLEGAL_OPERAND, tval := some b })) ∧
    (Issues (.bfxN64 o) o.h s → exec (.bfxN64 o) s = .next (
      match fieldOf b with
      | some (pos, len) => (sb.modCtx (·.wg o.h.d.index (BitVec.ofNat 64
          (bits a.toNat (pos + len - 1) pos)))).retired (.bfxN64 o)
      | none => s.takeTrapA { cause := cILLEGAL_OPERAND, tval := some b })) ∧
    (Issues (.bfi o) o.h s → exec (.bfi o) s = .next (
      match fieldOf c with
      | some (pos, len) => (sc.modCtx (·.wg o.h.d.index (BitVec.ofNat 64
          (putBits a.toNat pos len b.toNat)))).retired (.bfi o)
      | none => s.takeTrapA { cause := cILLEGAL_OPERAND, tval := some c }))

/-- A branch that issues goes to its target, with its own address kept for the target test; BRL and JMPL write the sequential successor to D (JMPL after reading its target); LOOP decrements D modulo 2^64 and goes on to the successor when the result is 0, else to its target. (04_firing.md R75; 03_formats.md R43) -/
def Obligations.Branches : Prop :=
  ∀ (o : AOps) (s : State),
    (Issues (.br o) o.h s → exec (.br o) s = .next (s.jumped (.br o) (directTarget s.ctx.pc o.ext))) ∧
    (Issues (.brl o) o.h s → exec (.brl o) s = .next
      ((s.modCtx (·.wg o.h.d.index s.ctx.successor)).jumped (.brl o) (directTarget s.ctx.pc o.ext))) ∧
    (Issues (.jmp o) o.h s → exec (.jmp o) s = .next (s.jumped (.jmp o) (s.ctx.rg o.h.s1.index))) ∧
    (Issues (.jmpl o) o.h s → exec (.jmpl o) s = .next
      ((s.modCtx (·.wg o.h.d.index s.ctx.successor)).jumped (.jmpl o) (s.ctx.rg o.h.s1.index))) ∧
    (Issues (.ret o) o.h s → exec (.ret o) s = .next (s.jumped (.ret o) (s.ctx.rg 31))) ∧
    (Issues (.loop o) o.h s → exec (.loop o) s = .next (
      let n := s.ctx.rg o.h.d.index - 1
      let t := s.modCtx (·.wg o.h.d.index n)
      if n = 0 then t.retired (.loop o) else t.jumped (.loop o) (directTarget s.ctx.pc o.ext)))

/-- CMP writes the predicate D with the condition its RM names of a and b (eq, ne, signed lt and ge, unsigned lt and ge); SEL writes the second source when the predicate S1 equals (RM = 0), else the third. Each writes the predicate D with the Boolean function of its sources and goes on; a predicate D of 0 is never written. (03_formats.md R52; 04_firing.md R73; 07_scalar_memory.md R166) -/
def Obligations.ComparesAndPredicates : Prop :=
  (∀ (o : AOps) (s sa sb : State) (a b : Word),
    (Issues (.cmp o) o.h s → (o.src o.h.s1).run s = .ok (a, sa) → (o.src o.h.s2).run sa = .ok (b, sb) →
      exec (.cmp o) s = .next ((sb.modCtx (·.wp o.h.d.index (
        if o.h.rm = 0 then a == b else if o.h.rm = 1 then a != b else if o.h.rm = 2 then a.slt b
        else if o.h.rm = 3 then !a.slt b else if o.h.rm = 4 then a.ult b else !a.ult b))).retired (.cmp o))) ∧
    (Issues (.sel o) o.h s → (o.src o.h.s2).run s = .ok (a, sa) → (o.src o.h.s3).run sa = .ok (b, sb) →
      exec (.sel o) s = .next ((sb.modCtx (·.wg o.h.d.index
        (if s.ctx.rp o.h.s1.index = decide (o.h.rm = 0) then a else b))).retired (.sel o)))) ∧
    (∀ (o : AOps) (s : State),
    (Issues (.pand o) o.h s → exec (.pand o) s = .next
      ((s.modCtx (·.wp o.h.d.index (s.ctx.rp o.h.s1.index && s.ctx.rp o.h.s2.index))).retired (.pand o))) ∧
    (Issues (.por o) o.h s → exec (.por o) s = .next
      ((s.modCtx (·.wp o.h.d.index (s.ctx.rp o.h.s1.index || s.ctx.rp o.h.s2.index))).retired (.por o))) ∧
    (Issues (.pxor o) o.h s → exec (.pxor o) s = .next
      ((s.modCtx (·.wp o.h.d.index (s.ctx.rp o.h.s1.index != s.ctx.rp o.h.s2.index))).retired (.pxor o))) ∧
    (Issues (.pnot o) o.h s → exec (.pnot o) s = .next
      ((s.modCtx (·.wp o.h.d.index (!s.ctx.rp o.h.s1.index))).retired (.pnot o))))

/-- NOP only goes on. IDEM, with no XLOOP body open, starts a new idempotent region at its own pc with the predicates of that moment, not committed. XLOOP, with no body open and room in the sequencer, adds a loop that reads its count from gN at dispatch and belongs to the idempotent region of that moment. (04_firing.md R77; 04_firing.md R79; 04_firing.md R80; 03_formats.md R59) -/
def Obligations.RegionAndLoop : Prop :=
  ∀ (o : AOps) (s : State),
    (Issues (.nop o) o.h s → exec (.nop o) s = .next (s.retired (.nop o))) ∧
    (Issues (.idem o) o.h s → s.ctx.bodyOpen = false → exec (.idem o) s = .next ((s.modCtx (fun c => { c with
      idem := { c.idem with entry := c.pc, gmask := o.ext.setWidth 32, preds := c.p, committed := false,
                            serial := c.idem.serial + 1, start := false } })).retired (.idem o))) ∧
    (Issues (.xloop o) o.h s → s.ctx.xskip = false → s.ctx.bodyOpen = false → s.ctx.xcount < 16 → exec (.xloop o) s = .next
      ((s.modCtx (fun c => { c with xseq := c.xseq ++ [.loop {
        region := s.ctx.idem.serial, n := bits o.ext.toNat 35 32 + 1, count := (s.ctx.rg o.h.s1.index).toNat,
        sd := sintOf 4 (bits o.ext.toNat 31 28), s1 := sintOf 4 (bits o.ext.toNat 27 24),
        s2 := sintOf 4 (bits o.ext.toNat 23 20), s3 := sintOf 4 (bits o.ext.toNat 19 16),
        body := [], pass := 0, idx := 0 }] })).retired (.xloop o)))

/-- With the actor's port present and K below its rate, PHEAD and PTAIL write the pool address of entry K from the oldest entry or from the tail, and PCNT writes the entries of an in port or the free places of an out port (log entry 35 for the out port). When an out ring of a bound actor holds a committed entry and the in ring it feeds, of the same entry size and of no graph actor, has room: the entry's bytes are copied whole to the tail of the in ring, with the uncorrectable errors among them (R386), the in ring counts one more, and the out ring's oldest entry is freed. (04_firing.md R63; 04_firing.md R71; 04_firing.md R72; 10_orrery.md R229) -/
def Obligations.Ports : Prop :=
  (∀ (o : AOps) (s : State) (b : Bound) (r : Ring), s.ownBound = some b →
    (Issues (.phead o) o.h s → b.ins[o.ext.toNat % 8]? = some r → bits o.ext.toNat 11 4 < r.rate →
      exec (.phead o) s = .next ((s.modCtx (·.wg o.h.d.index (BitVec.ofNat 64
        (ringEntry s.core r (r.head + bits o.ext.toNat 11 4))))).retired (.phead o))) ∧
    (Issues (.ptail o) o.h s → b.outs[o.ext.toNat % 8]? = some r → bits o.ext.toNat 11 4 < r.rate →
      exec (.ptail o) s = .next ((s.modCtx (·.wg o.h.d.index (BitVec.ofNat 64
        (ringEntry s.core r (r.head + r.count + bits o.ext.toNat 11 4))))).retired (.ptail o))) ∧
    (Issues (.pcnt o) o.h s → (if bit o.ext.toNat 3 then b.outs else b.ins)[o.ext.toNat % 8]? = some r →
      exec (.pcnt o) s = .next ((s.modCtx (·.wg o.h.d.index (BitVec.ofNat 64
        (if bit o.ext.toNat 3 then r.depth - r.count else r.count)))).retired (.pcnt o)))) ∧
    (∀ (s : State) (core slot port tcore tslot : Nat) (b : Bound) (r q : Ring),
    s.forwardable core slot port = some (b, r, tcore, tslot, q) →
    exec (.portForward core slot port) s = .next (
      let src := ringEntry core r r.head
      let dst := ringEntry tcore q (q.head + q.count)
      let moved := (s.errs.filter (fun k => decide (src ≤ k ∧ k < src + r.size))).map (fun k => k - src + dst)
      let t : State := { s with
        mem := Memory.copy s.mem src dst r.size
        errs := errsAfter s.errs dst r.size ++ moved }
      (((t.setBound tcore tslot (fun x => { x with
          ins := x.ins.modify r.tport (fun q => { q with count := q.count + 1 }) })).setBound
        core slot (fun x => { x with outs := x.outs.modify port (fun r =>
          { r with head := (r.head + 1) % max r.depth 1, count := r.count - 1 }) })).refresh tcore tslot).refresh core slot))


/-! ### Traps, and the end of a firing -/

/-- A trap of the current firing, in U mode, can be entered now: the X-half has stopped (R260). -/
structure Claims.Enters (s : State) (f : Firing) : Prop where
  firing : s.ctx.firing = some f
  user : s.ctx.mode = .u
  quiet : s.ctx.xQuiet = true
  answered : s.ctx.awaited = none
  whole : s.ctx.moving = []

/-- The waits before a firing ends are over (R69, R100, R174). -/
structure Claims.Quiet (s : State) : Prop where
  drained : s.ctx.mode = .s ∨ s.ctx.xseq = []
  idle : s.ctx.xbusy = false
  returned : s.registersOut = false
  written : s.ctx.writesDone = true

/-- The tests and waits of END and YIELD are over, and no error is left to report (R69, R79, R97, R174, R179). -/
structure Claims.Ends (s : State) : Prop where
  closed : s.ctx.bodyOpen = false
  quiet : Claims.Quiet s
  streamed : ∀ q, (s.ctx.stream q).err = none
  loaded : s.ctx.dataError = none
  accepted : s.ctx.storeErr = none

/-- For a trap of an A or E slot of a U-mode firing whose X-half is quiet, with TVEC.EN = 1: after it is taken, TCAUSE holds the cause, TVAL and TVAL2 its values, TPC the slot (for TRAPC its sequential successor), TRSTAT.ORIGIN 0 (2 for a load's data error), TRSTAT.SW the source, REGN and SKIP 0, and TNEXT as before; the mode is S, the pc is TVEC.PC, the records the trap reports are cleared and no others (R174, R179), and g, p, FFLAGS, q0 and q1, the sequencer, the event latches, the write counts and memory are as before. For a trap of an entry of the X-half at pc: the sequencer is frozen with the faulting entry and every later one in it, and no entry of it runs; when the A-half waits for no answer and the X-half is idle the trap is entered, with TCAUSE the cause, TVAL and TVAL2 its values, TPC the entry's pc, TNEXT the next slot of the A-half, ORIGIN 1, SW, REGN and SKIP 0, and the same left as before; when the A-half waits for an answer the trap waits, and the A-half issues no further slot. A trap that is taken in S mode while no entry runs records DOUBLE_TRAP in TCAUSE, the nested cause in TVAL and its pc in TVAL2, keeps TPC and TNEXT, and goes to the default action of DOUBLE_TRAP. The default action of a cause, with a fault mailbox and room in the posted-store table, sends the 32-byte record (the cause, ORIGIN, the context and the actor number or 0xFFFFFF; TPC; TVAL; TVAL2) to it as a counted message, and the firing stays until the context's writes are done; with a full table it waits and sends nothing; when the writes are done it abandons the firing: the context is free, nothing is committed, a graph or plain actor is HELD and a task DONE. (04_firing.md R66; 11_core_faults.md R257; 11_core_faults.md R258; 11_core_faults.md R260; 11_core_faults.md R261; 11_core_faults.md R262) -/
def Obligations.TrapEntry : Prop :=
  ((∀ (s : State) (f : Firing) (t : Trap) (v pc : Word), s.ctx.firing = some f → s.ctx.mode = .u → s.ctx.moving = [] →
    t.tval = some v → t.deferred = false → t.sw = false →
    let s' := s.takeTrapX pc t
    let c := s'.ctx
    (c.xfrozen = true ∧ c.xseq = s.ctx.xseq ∧ c.canRun = false) ∧
    (s.ctx.awaited = none → s.ctx.xbusy = false → s.here.tvecEn = true →
      c.tcause = BitVec.ofNat 7 t.cause ∧ c.tval = v ∧ c.tval2 = t.tval2.getD pc ∧
      c.tpc = BitVec.ofNat 64 (pc.toNat % 2 ^ 56) ∧ c.tnext = BitVec.ofNat 64 (s.ctx.pc.toNat % 2 ^ 56) ∧
      c.torigin = 1 ∧ c.tsw = false ∧ c.tregn = false ∧ c.tskip = false ∧
      c.mode = .s ∧ c.pc = s.here.tvecPc ∧ c.trap = none ∧ c.firing = some { f with trapped := true } ∧
      c.g = s.ctx.g ∧ c.p = s.ctx.p ∧ c.fflags = s.ctx.fflags ∧ c.q0 = s.ctx.q0 ∧ c.q1 = s.ctx.q1 ∧
      c.evlatch = s.ctx.evlatch ∧ c.posted = s.ctx.posted ∧ c.unacked = s.ctx.unacked ∧ s'.mem = s.mem) ∧
    (s.ctx.awaited ≠ none → c.mode = .u ∧ c.pc = s.ctx.pc ∧ c.canIssue = false ∧ ∃ x, c.trap = some x ∧
      x.cause = t.cause ∧ x.origin = 1 ∧ x.tpc = BitVec.ofNat 64 (pc.toNat % 2 ^ 56))) ∧
  ∀ (s : State) (f : Firing) (t : Trap) (v : Word), Claims.Enters s f → t.tval = some v → s.here.tvecEn = true →
    let s' := s.takeTrapA t
    let c := s'.ctx
    let k := t.clears.foldl Ctx.clear s.ctx
    c.tcause = BitVec.ofNat 7 t.cause ∧ c.tval = v ∧ c.tval2 = t.tval2.getD s.ctx.pc ∧
    c.tpc = BitVec.ofNat 64 ((if t.sw then s.ctx.successor else s.ctx.pc).toNat % 2 ^ 56) ∧ c.tnext = s.ctx.tnext ∧
    c.torigin = (if t.deferred then 2 else 0) ∧ c.tsw = t.sw ∧
    c.tregn = false ∧ c.tskip = false ∧ c.mode = .s ∧ c.pc = s.here.tvecPc ∧ c.trap = none ∧
    c.firing = some { f with trapped := true } ∧
    c.pend = k.pend ∧ c.storeErr = k.storeErr ∧ c.catErr = k.catErr ∧ c.streams = k.streams ∧
    c.g = s.ctx.g ∧ c.p = s.ctx.p ∧ c.fflags = s.ctx.fflags ∧ c.xseq = s.ctx.xseq ∧ c.q0 = s.ctx.q0 ∧ c.q1 = s.ctx.q1 ∧
    c.evlatch = s.ctx.evlatch ∧ c.tscratch = s.ctx.tscratch ∧ c.posted = s.ctx.posted ∧
    c.unacked = s.ctx.unacked ∧ s'.mem = s.mem ∧ s'.txns = s.txns) ∧
    (∀ (s : State) (f : Firing) (t : Trap) (v : Word), s.ctx.firing = some f → s.ctx.mode = .s → s.ctx.xbusy = false →
    s.ctx.awaited = none → s.ctx.moving = [] → t.tval = some v → t.cause ≠ cDOUBLE_TRAP →
    ∃ u : State, s.takeTrapA t = u.defaultAction s.core s.fc cDOUBLE_TRAP ∧ u.ctx.tcause = BitVec.ofNat 7 90 ∧
      u.ctx.tval = BitVec.ofNat 64 t.cause ∧ u.ctx.tval2 = s.ctx.pc ∧ u.ctx.tpc = s.ctx.tpc ∧
      u.ctx.tnext = s.ctx.tnext ∧ u.ctx.g = s.ctx.g ∧ u.mem = s.mem) ∧
    (∀ (s : State) (f : Firing) (t : PendingTrap) (cause : Nat), s.ctx.firing = some f → s.ctx.trap = some t →
    let s' := s.defaultAction s.core s.fc cause
    (∀ k m, t.leaving = false → mailboxName (s.effFmbx f.rcb) = some (k, m) →
      (s.ctx.posted.length < 64 → ∃ x, tfind s'.txns s.nextId = some x ∧ x.target = .mailbox ∧ x.ga = s.effFmbx f.rcb ∧
        x.stage = .travelling ∧ x.op = .message (messageEntry (entryWord0 s.core s.fc 4 m)
          [BitVec.ofNat 64 (cause + s.ctx.torigin.toNat * 2 ^ 8 + s.fc % 4 * 2 ^ 16 + f.act.getD 0xFFFFFF * 2 ^ 32),
            s.ctx.tpc, s.ctx.tval, s.ctx.tval2]) ∧
        s'.ctx.posted.length = s.ctx.posted.length + 1 ∧ s'.ctx.unacked = s.ctx.unacked + 1 ∧ s'.ctx.firing = some f) ∧
      (64 ≤ s.ctx.posted.length → s'.txns = s.txns ∧ s'.ctx.firing = some f ∧ s'.mem = s.mem)) ∧
    (t.leaving = true → s.ctx.writesDone = false → s' = s) ∧
    (t.leaving = true → s.ctx.writesDone = true → s' = s.abandon s.core s.fc) ∧
    (s.effPolicy f.rcb = 0 →
      s.abandon s.core s.fc = ((s.freeCtx s.core s.fc).endActor s.core f false).finishSaves) ∧
    ((s.freeCtx s.core s.fc).ctx.firing = none ∧
      ∀ b, f.kind = .actor → tfind s.here.binds f.slot = some b → ∃ b',
        tfind ((s.endActor s.core f false).coreAt s.core).binds f.slot = some b' ∧
        b'.life = (if b.d.cls = 4 then .done else .held) ∧ b'.ins = b.ins ∧ b'.outs = b.outs))

/-- TRAPC traps with TCAUSE := EXT[6:0], TVAL := gV and TRSTAT.SW := 1; a cause that R265 reserves, or one of 88 to 95, raises ILLEGAL_OPERAND with TVAL := cause instead. (11_core_faults.md R264) -/
def Obligations.TrapcTraps : Prop :=
  ∀ (o : AOps) (s : State), Issues (.trapc o) o.h s →
    exec (.trapc o) s = .next (
      let cause := o.ext.toNat % 128
      if causeReserved cause = false ∧ cause < 88
      then s.takeTrapA { cause := cause, tval := some (s.ctx.rg o.h.s1.index), sw := true }
      else s.takeTrapA { cause := cILLEGAL_OPERAND, tval := some (BitVec.ofNat 64 cause) })

/-- Each instruction that the opcode table marks as S-mode (TRAPRET, RGN.NEW, RGN.SET, RGN.KILL, BIND, PREEMPT, RECLASS, TLBI, LOGEXT), met by a context in U mode that can issue, raises PRIV_OP and has no effect. (02_syntax_and_mnemonics.md R34; 03_formats.md R60) -/
def Obligations.Privilege : Prop :=
  ∀ (i : Instr) (s : State), i.privileged = true → s.ctx.canIssue = true → s.ctx.mode = .u →
    exec i s = .next (s.takeTrapA { cause := cPRIV_OP })

/-- Every A or E slot, and an XLOOP, whose predicate is false has no effect but that the context goes on to the next slot; in S mode too, and there also one that names a queue, an IDEM or an XLOOP (log entry 121). A privileged slot in U mode is left out: it raises PRIV_OP (log entry 19). (02_syntax_and_mnemonics.md R15; 04_firing.md R73; 11_core_faults.md R261) -/
def Obligations.FalsePredicate : Prop :=
  ∀ (i : Instr) (h : Hd) (s : State), i.hd = some h → s.ctx.canIssue = true → s.ctx.rp h.pg.toNat = false →
    (i.stream ≠ .x ∨ ∃ o, i = .xloop o) → (i.privileged && s.ctx.mode == .u) = false →
    exec i s = .next ((s.modCtx Ctx.advance).modHere (·.count 1))

/-- In S mode with ORIGIN 0 and REGN 0, TRAPRET sets U mode and the pc to TPC, clears SKIP and REGN, and the actor returns to RUNNING; with ORIGIN 1, REGN 0 and SKIP 0 the pc is TNEXT and the frozen entries resume; with REGN 1 and the region not committed the pc is the region entry and the predicates are its snapshot; with ORIGIN 2, or REGN 1 and the region committed, the firing is abandoned once the waits of END are over. A pre-emption that waited for the handler is due at once (R83). (11_core_faults.md R263) -/
def Obligations.TrapReturn : Prop :=
  ∀ (o : AOps) (s : State) (f : Firing), Issues (.trapret o) o.h s → s.ctx.firing = some f →
    let back (c : Ctx) : Ctx := { c with mode := .u, tskip := false, tregn := false, stall := none, xfer := none,
                                         refetch := false, preemptDue := c.preempt.isSome,
                                         firing := some { f with trapped := false } }
    let life (s : State) : State :=
      if f.act.isSome then s.setBound s.core f.slot (fun b => { b with life := .running }) else s
    (s.ctx.torigin = 0 → s.ctx.tregn = false → exec (.trapret o) s =
      .next ((life (s.modCtx (fun c => { back c with pc := c.tpc }))).stayed (.trapret o))) ∧
    (s.ctx.torigin = 1 → s.ctx.tregn = false → s.ctx.tskip = false → exec (.trapret o) s =
      .next ((life (s.modCtx (fun c => { back c with pc := c.tnext, xfrozen := false }))).stayed (.trapret o))) ∧
    (s.ctx.torigin ≠ 2 → s.ctx.tregn = true → s.ctx.idem.committed = false → s.ctx.xseq = [] →
      exec (.trapret o) s = .next ((life (s.modCtx (fun c =>
        { back c with pc := c.idem.entry, p := c.idem.preds, xfrozen := false, xskip := false, xseq := [] }))).stayed (.trapret o))) ∧
    (s.ctx.torigin = 2 ∨ s.ctx.tregn = true ∧ s.ctx.idem.committed = true → Claims.Quiet s → exec (.trapret o) s =
      .next ((s.abandon s.core s.fc).stayed (.trapret o)))

/-- When nothing of the firing is left to be done, END frees its context and commits its actor's production and consumption (in S mode it abandons the firing), and YIELD of a plain or graph actor in U mode frees the context without a commit. The commit frees the oldest RATE entries of each in port and adds RATE entries to each out port, at once; the actor is then IDLE or READY, and a task is DONE and has no ports to commit. (04_firing.md R66; 04_firing.md R69; 04_firing.md R70) -/
def Obligations.EndOfFiring : Prop :=
  (∀ (s : State) (core : Nat) (f : Firing) (b : Bound), f.kind = .actor → tfind (s.coreAt core).binds f.slot = some b →
    ∃ b', tfind ((s.endActor core f true).coreAt core).binds f.slot = some b' ∧
      (b.d.cls = 4 → b'.life = .done ∧ b'.ins = b.ins ∧ b'.outs = b.outs) ∧
      (b.d.cls ≠ 4 → (b'.life = .idle ∨ b'.life = .ready) ∧
        b'.ins = b.ins.map (fun r => { r with count := r.count - r.rate,
                                              head := if b.isGraph then r.head else (r.head + r.rate) % max r.depth 1 }) ∧
        b'.outs = b.outs.map (fun r => { r with count := r.count + r.rate }))) ∧
  ∀ (o : AOps) (s : State) (f : Firing), s.ctx.firing = some f → Claims.Ends s →
    (Issues (.endFiring o) o.h s → (∀ c j, f.kind ≠ .share c j) → s.ctx.mode = .u → exec (.endFiring o) s =
      .next ((((s.freeCtx s.core s.fc).endActor s.core f true).finishSaves).stayed (.endFiring o))) ∧
    (Issues (.endFiring o) o.h s → s.ctx.mode = .s → exec (.endFiring o) s =
      .next ((s.abandon s.core s.fc).stayed (.endFiring o))) ∧
    (Issues (.yield o) o.h s → s.ctx.mode = .u → f.kind = .actor → f.cls ≠ 4 → exec (.yield o) s =
      .next ((((s.freeCtx s.core s.fc).yieldActor s.core f).finishSaves).stayed (.yield o)))

/-- TRAP_ENTRY enters a trap whose X-half is quiet; FIRING_START starts the firing the scheduler chose on a free context, and one whose record has an uncorrectable error takes MACHINE_UE (R386); a started firing of an actor has pc ENTRY, g1 STATE, every other register zero (a handler's g2 to g9 its message), p1 to p7 false, FFLAGS and EVLATCH zero, empty queues and sequencer, unbound streams, no unacknowledged store, an idempotent region that starts there, and the window bases of its launch, and a task the pc, registers and predicates of its record; LINE_FETCH and LINE_REFETCH bring the line of the pc; XLOOP_PASS begins the next pass; a recheck runs a waiting POOLSET.wait again, which completes when its check passes or gives a code other than IN_PROGRESS and BUSY_FILL: the move begins, or D holds the code; retention sets CUR to DEPTH, a wake sets it to 0, and CTS_ADVANCE adds 1 to the CTS of each context; each only when it is due. When the context's pc is a slot of a line, and its line address translates to a byte address that the access may reach, that no page walk or reclassification and no held line keeps back and that has no uncorrectable error: a line with every parity bit right is kept; one with a wrong bit is fetched again; a second wrong one raises MACHINE_FETCH with TVAL := the line address. (03_formats.md R37; 03_formats.md R45; 04_firing.md R67; 04_firing.md R78; 05_core_pool.md R116; 05_core_pool.md R125; 11_core_faults.md R260; 12_cluster_memory.md R274; 16_die.md R356) -/
def Obligations.CoreEvents : Prop :=
  (∀ (s : State) (core fc : Nat) (flips : BitVec 512),
    ((s.ctxOf core fc).trapReady = true → exec (.trapEntry core fc) s = .next (s.enterTrap core (fc % 4))) ∧
    (s.canStart core = true → s.startsBad core = false → exec (.firingStart core) s = .next (s.startFiring core)) ∧
    (∀ k, s.canStart core = true → s.startsBad core = true → s.freeContext core = some k →
      exec (.firingStart core) s = .next (((s.startFiring core).at core k).takeTrapA { cause := cMACHINE_UE })) ∧
    (∀ k, s.freeContext core = some k →
      let c := (s.startFiring core).ctxOf core k
      let fresh : Prop := c.mode = .u ∧ c.fflags = 0 ∧ c.evlatch = 0 ∧ c.q0 = [] ∧ c.q1 = [] ∧ c.xseq = [] ∧ c.xbusy = false ∧
        (∀ q, (c.stream q).pat = none) ∧ c.unacked = 0 ∧ c.idem.start = true ∧ c.idem.entry = c.pc ∧ c.idem.committed = false
      (∀ slot b, s.choose core = some (.actor slot) → tfind (s.coreAt core).binds slot = some b →
        fresh ∧ c.pc = b.d.entry ∧ c.rg 1 = b.d.state ∧ c.win = (s.pageOf core (some b)).wins ∧
        (∀ j, 0 < j → j < 8 → c.rp j = false) ∧ (∀ j, 10 ≤ j → j < 32 → c.rg j = 0) ∧
        (b.isHandler = false → ∀ j, 2 ≤ j → j < 10 → c.rg j = 0) ∧
        (∀ n m, b.isHandler = true → b.mailbox = some n → tfind (s.coreAt core).mailboxes n = some m →
          ∀ j < 8, c.rg (2 + j) = (m.msgs.headD []).getD j 0)) ∧
      (∀ t, s.choose core = some .task → (s.coreAt core).deque.getLast? = some t →
        fresh ∧ c.pc = t.pc ∧ c.rg 31 = 0 ∧ (∀ j, 0 < j → (h : j < 31) → c.rg j = t.g[j]) ∧
        (∀ j, 0 < j → j < 8 → c.rp j = t.preds.getLsbD (j - 1)))) ∧
    ((s.at core fc).ctx.needsLine = true → (s.at core fc).ctx.refetch = false → (s.pkgAt (corePkg core)).off = false →
      exec (.lineFetch core fc flips) s = .next ((s.at core fc).fetchLine flips)) ∧
    ((s.at core fc).ctx.needsLine = true → (s.at core fc).ctx.refetch = true → (s.pkgAt (corePkg core)).off = false →
      exec (.lineRefetch core fc flips) s = .next ((s.at core fc).fetchLine flips)) ∧
    ((s.ctxOf core fc).passDue = true → (s.ctxOf core fc).xbusy = false → (s.ctxOf core fc).xfrozen = false →
      exec (.xloopPass core fc) s = .next (s.modCtxOf core fc Ctx.nextPass)) ∧
    (∀ (st : Stall) (o : AOps), (s.at core fc).ctx.stall = some st → st.why = .pool →
      (s.at core fc).ctx.current = some (.poolsetWait o) →
      exec (.poolMoveRecheck core fc) s = exec (.poolsetWait o) (s.at core fc)) ∧
    (∀ (st : Stall) (o : AOps), (s.at core fc).ctx.stall = some st → st.why = .pool →
      (s.at core fc).ctx.current = some (.poolsetWait o) → Issues (.poolsetWait o) o.h (s.at core fc) →
      let t := s.at core fc
      let e := o.ext.toNat
      let code := t.poolCheck t.core t.ctx.rcb t.ownBound (roleField e 9) (roleField e 6) (e % 64)
      let u : State := { t with fresh := t.fresh + 1 }
      (code = 0 → exec (.poolMoveRecheck core fc) s = .next
        (((u.modHere (fun c => { c with move := some ⟨roleField e 9, roleField e 6, e % 64, t.fc % 4⟩ })).modCtx
          (fun c => { c with awaited := some (.poolMove o.h.d), stall := none })).stayed (.poolsetWait o))) ∧
      (code ≠ 0 → code ≠ 1 → code ≠ 7 → exec (.poolMoveRecheck core fc) s = .next
        ((u.modCtx (·.wg o.h.d.index (BitVec.ofNat 64 code))).retired (.poolsetWait o)))) ∧
    (s.canSleep core = true → (s.coreAt core).depth ≠ 3 →
      exec (.coreRetentionEntry core) s = .next (s.modCore core (fun c => { c with cur := c.depth }))) ∧
    (s.canSleep core = true → (s.coreAt core).depth = 3 →
      exec (.coreRetentionEntry core) s = .next ((s.flushAll core).modCore core (fun c => { c with cur := c.depth }))) ∧
    (s.canWake core = true →
      exec (.coreWake core) s = .next (s.modCore core (fun c => { c with cur := 0, quietSince := s.now }))) ∧
    ((s.coreAt core).ctsAt + max 1 (s.coreAt core).ladv.toNat ≤ s.now →
      exec (.ctsAdvance core) s = .next (s.modCore core (fun c => { c with
        ctsAt := c.ctsAt + max 1 c.ladv.toNat, ctx := c.ctx.map (fun x => { x with cts := x.cts + 1 }) })))) ∧
    (∀ (s t : State) (flips : BitVec 512) (p : Phys),
    s.ctx.pc.toNat < 2 ^ 56 → bits s.ctx.pc.toNat 5 3 = 0 → s.ctx.pc.toNat % 8 < 5 →
    s.walkWaits (.core s.core) (s.effPtroot s.ctx.rcb) (s.ctx.pc.toNat / 64 * 64) = false →
    translate s (.core s.core) (s.effPtroot s.ctx.rcb) .x (s.ctx.pc.toNat / 64 * 64) = .ok (p, t) →
    p.inReclass t = false → (gaSpace p.ga = 0 → t.lineHeld p.ga = false) →
    p.check t s.ctx.mode s.core .x = .ok () → t.bad p.ga 64 = false →
    let u := if p.isDram then t.sliceFill p.ga 64 else t
    let line : Line := ⟨BitVec.ofNat 64 (s.ctx.pc.toNat / 64 * 64), BitVec.ofNat 512 (u.peek p.ga 64) ^^^ flips⟩
    (line.parityOk = true → s.fetchLine flips = u.modCtx (fun c => { c with line := some line, refetch := false })) ∧
    (line.parityOk = false → s.ctx.refetch = false →
      s.fetchLine flips = (u.modCtx (fun c => { c with refetch := true })).modHere (·.count 6)) ∧
    (line.parityOk = false → s.ctx.refetch = true → ∃ t2, s.fetchLine flips =
      (u.modCtx (fun c => { c with refetch := false })).takeTrapA
        { cause := cMACHINE_FETCH, tval := some (BitVec.ofNat 64 (s.ctx.pc.toNat / 64 * 64)), tval2 := t2 }))


/-! ### Memory -/

/-- An access to p goes out to its target: another core's pool, or DRAM with no copy in this core that may serve it. -/
def Claims.Far (s : State) (p : Phys) (acq : Bool) : Prop :=
  if p.isDram then s.loadCopy p acq = none else s.isOwn p = false
def Claims.FarStore (s : State) (p : Phys) : Prop :=
  if p.isDram then s.storeCopy p = none else s.isOwn p = false

/-- The target of an access (R171). -/
def Claims.target (p : Phys) : Target := if p.isDram then .dram p.cls else .pool

/-- An instruction that has begun its accesses goes on with them, and does not wait for its own registers again (R182). -/
structure Claims.Continues (i : Instr) (h : Hd) (s : State) : Prop where
  can : s.ctx.canIssue = true
  allowed : (i.privileged && s.ctx.mode == .u) = false
  pred : s.ctx.rp h.pg.toNat = true
  mode : s.ctx.mode = .u ∨ (i.stream ≠ .x ∧ h.qs = [])
  begun : s.ctx.moving ≠ []

/-- The instructions of several accesses (R182, R185, R186). -/
def Claims.several : Instr → Option MOps
  | .ldm o | .stm o | .iget o | .iput o | .flush o | .inv o => some o
  | _ => none

/-- No access of the instruction is left. -/
def Claims.whole (s : State) : State := s.modCtx (fun c => { c with moving := [] })

/-- A load's bytes go to its register, or to an entry it reserves at the tail of q0 (R91, R174). -/
def Claims.into (o : MOps) (s : State) : Dest × State :=
  if o.h.d = .q 0 then (.q0 s.nextId 0 o.size, ({ s with nextId := s.nextId + 1 } : State).modCtx (fun c =>
    { c with q0 := c.q0 ++ [⟨s.nextId, 1, 0, none⟩] }))
  else (.g o.h.d.index o.fmt, s)

/-- A store's value is its register, or the oldest entry of q1, which leaves the queue (R92, R174). -/
def Claims.Gives (o : MOps) (s : State) (v : Nat) (t : State) : Prop :=
  (∃ k, o.h.s3 = .g k ∧ v = (s.ctx.rg k.toNat).toNat ∧ t = s) ∨
  (∃ x rest, o.h.s3 = .q 1 ∧ s.ctx.q1 = x :: rest ∧ v = x.toNat ∧ t = s.modCtx (fun c => { c with q1 := rest }))
/-- A release waits for the context's earlier accesses (R176, R181). -/
def Claims.Released (s : State) : Prop := s.loadsOut = false ∧ s.ctx.unacked = 0 ∧ s.ctx.storeErr = none

/-- An atomic that returns a value goes out to its target, and its destination waits (R174, R296). -/
def Claims.asked (s : State) (p : Phys) (a : TxnOp) (n : Nat) (acq : Bool) (d : Dest) : State :=
  let u := Claims.missed s p
  (u.launch { newTxn u a (Claims.target p) p.ga n p.pageGa with ea := p.ea, dest := d, acq := acq }).modCtx (·.expect d)

/-- Words land in registers f, f + 1, … one after the other (R182). -/
def Claims.landed : Nat → List Phys → State → State
  | _, [], s => s
  | f, p :: ps, s => Claims.landed (f + 1) ps (s.modCtx (fun c => c.land (.g f .n64) none (s.rdNat p.ga 8)))

/-- Registers f, f + 1, … go to words one after the other (R182). -/
def Claims.stored (c : Ctx) : Nat → List Phys → State → State
  | _, [], s => s
  | f, p :: ps, s => Claims.stored c (f + 1) ps (s.wrNat p.ga 8 (c.rg f).toNat)

/-- Elements k, k + 1, … of n bytes land in one q0 entry (R186). -/
def Claims.gathered (id n : Nat) : Nat → List Phys → State → State
  | _, [], s => s
  | k, p :: ps, s => Claims.gathered id n (k + 1) ps
      (s.modCtx (fun c => c.land (.q0 id (n * k) n) none (s.rdNat p.ga n)))

/-- Elements k, k + 1, … of n bytes of a value go to their addresses (R186). -/
def Claims.scattered (v n : Nat) : Nat → List Phys → State → State
  | _, [], s => s
  | k, p :: ps, s => Claims.scattered v n (k + 1) ps
      (s.wrNat p.ga n (bits v (8 * n * k + 8 * n - 1) (8 * n * k)))

/-- Entries of 32 bytes land in q0 entries, one each (R186). -/
def Claims.gatheredV : List (Nat × Phys) → State → State
  | [], s => s
  | x :: xs, s => Claims.gatheredV xs (s.modCtx (fun c => c.land (.q0 x.1 0 32) none (s.rdNat x.2.ga 32)))

/-- Values of 32 bytes go to their addresses (R186). -/
def Claims.scatteredV : List (Phys × V256) → State → State
  | [], s => s
  | x :: xs, s => Claims.scatteredV xs (s.wrNat x.1.ga 32 x.2.toNat)

/-- The AMO forms and their operations (R59, R294). -/
def Claims.amo : Instr → Option (MOps × AmoOp)
  | .amoAdd o => some (o, .add) | .amoAnd o => some (o, .and) | .amoOr o => some (o, .or) | .amoXor o => some (o, .xor)
  | .amoMin o => some (o, .min) | .amoMax o => some (o, .max) | .amoUmin o => some (o, .umin)
  | .amoUmax o => some (o, .umax) | .amoSwap o => some (o, .swap) | .amoFadd o => some (o, .fadd)
  | _ => none

/-- The AMOF forms and their operations. -/
def Claims.amof : Instr → Option (MOps × AmoOp)
  | .amofAdd o => some (o, .add) | .amofAnd o => some (o, .and) | .amofOr o => some (o, .or) | .amofXor o => some (o, .xor)
  | .amofMin o => some (o, .min) | .amofMax o => some (o, .max) | .amofUmin o => some (o, .umin)
  | .amofUmax o => some (o, .umax) | .amofSwap o => some (o, .swap) | .amofFadd o => some (o, .fadd)
  | _ => none

/-- The AMO.U forms and their operations. -/
def Claims.amoU : Instr → Option (MOps × AmoOp)
  | .amoUAdd o => some (o, .add) | .amoUAnd o => some (o, .and) | .amoUOr o => some (o, .or) | .amoUXor o => some (o, .xor)
  | .amoUMin o => some (o, .min) | .amoUMax o => some (o, .max) | .amoUUmin o => some (o, .umin)
  | .amoUUmax o => some (o, .umax) | .amoUFadd o => some (o, .fadd)
  | _ => none

/-- The new value of a cell under an operation (R294). -/
def Claims.amoNew (op : AmoOp) (f : Fmt) (rm : BitVec 3) (old : Nat) (v : Word) : Nat :=
  (amoApply op f rm.toNat old (valOf f v)).1



/-- With its address resolved, nothing to wait for and, for LD to q0, room at its tail, where it appends one entry: from the core's own pool the bytes land at once; from DRAM of which a copy of the core or a replica of its quad may serve the load the copy's bytes land; else the load is sent, and its destination waits for the value. When a load's bytes x land in register k other than g0, the register holds them sign-extended for a signed format, and zero-extended for any other, it is no longer waited for, and every other register is as before. (07_scalar_memory.md R162; 07_scalar_memory.md R174; 07_scalar_memory.md R175; 12_cluster_memory.md R275) -/
def Obligations.LoadCompletes : Prop :=
  (∀ (o : MOps) (s s1 : State) (p : Phys), Issues (.ld o) o.h s → ((∃ k, o.h.d = .g k) ∨ o.h.d = .q 0) →
    (resolve .r (o.ea s.ctx) o.size).run s = .ok (p, s1) → Claims.Clear s1 p o.size →
    (o.h.d = .q 0 → s1.ctx.q0.length < 32) →
    let d := (Claims.into o s1).1
    let t := (Claims.into o s1).2
    (Claims.Own t p o.size false → exec (.ld o) s = .next
      ((t.modCtx (fun c => c.land d none (t.rdNat p.ga o.size))).retired (.ld o))) ∧
    (∀ l replica, p.isDram = true → t.loadCopy p (o.ord == 1) = some (l, replica) →
      exec (.ld o) s = .next (((t.loadHit p l replica).modCtx (fun c =>
        c.land d (t.copyError d p.ga o.size replica) (l.get p.ga o.size))).retired (.ld o))) ∧
    (Claims.Far t p (o.ord == 1) → exec (.ld o) s = .next (
      let u := Claims.missed t p
      ((u.launch { newTxn u .load (Claims.target p) p.ga o.size p.pageGa with
        ea := p.ea, dest := d, acq := o.ord == 1 }).modCtx (·.expect d)).retired (.ld o)))) ∧
    (∀ (c : Ctx) (k j : Nat) (f : Fmt) (x : Nat), k % 32 ≠ 0 →
    (c.land (.g k f) none x).rg k = (if f.isSigned then BitVec.ofInt 64 (sintOf f.width x) else BitVec.ofNat 64 x) ∧
    (c.land (.g k f) none x).pendOf k = .ready ∧
    (j % 32 ≠ k % 32 → (c.land (.g k f) none x).rg j = c.rg j ∧ (c.land (.g k f) none x).pendOf j = c.pendOf j))

/-- With its address resolved, nothing to wait for (for a release the context's earlier accesses too), ST of a g register or of the oldest q1 entry: to the own pool writes the bytes at once; to a line the core may write on puts them there; else posts them with a count and a posted-table entry. (07_scalar_memory.md R174; 07_scalar_memory.md R177; 07_scalar_memory.md R178) -/
def Obligations.StoreCompletes : Prop :=
  ∀ (o : MOps) (s s1 t : State) (p : Phys) (v : Nat), Issues (.st o) o.h s →
    (resolve .w (o.ea s.ctx) o.size).run s = .ok (p, s1) → Claims.Clear s1 p o.size →
    (o.ord = 2 → Claims.Released s1) → Claims.Gives o s1 v t →
    let x := v % 2 ^ (8 * o.size)
    (Claims.Own t p o.size true → exec (.st o) s = .next ((t.wrNat p.ga o.size x).retired (.st o))) ∧
    (∀ l, p.isDram = true → t.storeCopy p = some l → exec (.st o) s = .next (
      let w := lineOp l t.ctx.cts p.ga o.size (.store (bytesOf o.size x))
      ((t.storeHit w.1 p.ga o.size).modCtx (fun c => { c with cts := if p.isHc then w.2.2.1 else c.cts })).retired
        (.st o))) ∧
    (Claims.FarStore t p → (Claims.missed t p).ctx.posted.length + 1 ≤ 64 → exec (.st o) s = .next (
      let u := Claims.missed t p
      (u.launch { newTxn u (.store (bytesOf o.size x)) (Claims.target p) p.ga o.size p.pageGa with
        count := some (countFor u.core p.ga) }).retired (.st o)))

/-- When ST of a g register to the core's own pool completes, every byte of memory outside the size bytes from its address reads as before, the bytes stored read as the register's low bytes, and every g register, predicate, flag and other core is as before. (07_scalar_memory.md R174; 00_scope.md R4) -/
def Obligations.StoreFrame : Prop :=
  ∀ (o : MOps) (s s1 t : State) (p : Phys) (k : BitVec 5), Issues (.st o) o.h s → o.ord ≠ 2 → o.h.s3 = .g k →
    (resolve .w (o.ea s.ctx) o.size).run s = .ok (p, s1) → Claims.Clear s1 p o.size → Claims.Own s1 p o.size true →
    Memory.wf s1.mem = true → exec (.st o) s = .next t →
    (∀ a, a < p.ga ∨ p.ga + o.size ≤ a → Memory.read t.mem a = Memory.read s1.mem a) ∧
    Memory.readNat t.mem p.ga o.size = (s.ctx.rg k.toNat).toNat % 2 ^ (8 * o.size) % 256 ^ o.size ∧
    Memory.wf t.mem = true ∧ t.ctx.g = s1.ctx.g ∧ t.ctx.p = s1.ctx.p ∧ t.ctx.fflags = s1.ctx.fflags ∧
    t.ctx.q0 = s1.ctx.q0 ∧ t.ctx.q1 = s1.ctx.q1 ∧ t.txns = s1.txns ∧
    (∀ j, j ≠ s1.core → t.coreAt j = s1.coreAt j)

/-- With every word of the range resolved, in the own pool and with nothing to wait for, LDM lands the words in its registers in order and STM writes its registers to the words in order; LDC writes D with the window word whose offset is W plus the index register. An instruction of several accesses (LDM, STM, IGET, IPUT, FLUSH, INV) that has begun makes the accesses that are left in order as far as none waits, and goes on to the next slot when none is left. With every indexed address resolved, in the own pool and with nothing to wait for: IGET of an element format with room in q0 appends one entry and lands the elements in it in order, and IPUT pops the oldest q1 entry and writes its elements to their addresses in order; with V = 1 IGET appends eight entries and lands 32 bytes in each, and IPUT pops eight q1 entries and writes each to its address. IPUT takes a number for the claim of each of its stores (R288). (07_scalar_memory.md R182; 07_scalar_memory.md R183; 07_scalar_memory.md R186) -/
def Obligations.MultipleWords : Prop :=
  (∀ (s s1 : State) (ps : List Phys),
    (∀ o : MOps, Issues (.ldm o) o.h s → s.ctx.moving = [] →
      (resolveWords .r (o.base s.ctx) (o.h.s2.index + 1 - o.h.d.index)).run s = .ok (ps, s1) →
      (∀ p ∈ ps, Claims.Clear s1 p 8 ∧ Claims.Own s1 p 8 false) →
      exec (.ldm o) s = .next ((Claims.whole (Claims.landed o.h.d.index ps s1)).retired (.ldm o))) ∧
    (∀ o : MOps, Issues (.stm o) o.h s → s.ctx.moving = [] →
      (resolveWords .w (o.base s.ctx) (o.h.s2.index + 1 - o.h.s3.index)).run s = .ok (ps, s1) →
      (∀ p ∈ ps, Claims.Clear s1 p 8 ∧ Claims.Own s1 p 8 true) →
      exec (.stm o) s = .next ((Claims.whole (Claims.stored s.ctx o.h.s3.index ps s1)).retired (.stm o))) ∧
    (∀ (o : AOps) (v : Word), Issues (.ldc o) o.h s →
      bits o.ext.toNat 16 0 + (s.ctx.rg o.h.s2.index).toNat ≤ 0x1FFFF →
      (readWindow (bits o.ext.toNat 19 17) (bits o.ext.toNat 16 0 + (s.ctx.rg o.h.s2.index).toNat)).run s = .ok (v, s1) →
      exec (.ldc o) s = .next ((s1.modCtx (·.wg o.h.d.index v)).retired (.ldc o))) ∧
    (∀ (i : Instr) (o : MOps), Claims.several i = some o → Claims.Continues i o.h s →
      let r := runPieces s.ctx.moving s
      exec i s = .next (if r.1 = [] then (Claims.whole r.2).retired i
        else (r.2.modCtx (fun c => { c with moving := r.1 })).modCtx (·.stallOn .memory false r.2.now)))) ∧
    (∀ (o : MOps) (s s1 : State) (ps : List Phys), s.ctx.moving = [] →
    (Issues (.iget o) o.h s → o.h.d = .q 0 →
      (indexed .r (o.base s.ctx) o.size (s.ctx.rg o.h.s2.index).toNat (if o.v then 8 else 32 / o.size) 0).run s = .ok (ps, s1) →
      (∀ p ∈ ps, Claims.Clear s1 p o.size ∧ Claims.Own s1 p o.size false) →
      (o.v = false → s1.ctx.q0.length < 32 → exec (.iget o) s = .next ((Claims.whole (Claims.gathered s1.nextId o.size 0 ps
        (({ s1 with nextId := s1.nextId + 1 } : State).modCtx (fun c =>
          { c with q0 := c.q0 ++ [⟨s1.nextId, 32 / o.size, 0, none⟩] })))).retired (.iget o))) ∧
      (∀ ids t, o.v = true → o.size = 32 → (reserveAll 8).run s1 = .ok (ids, t) →
        exec (.iget o) s = .next ((Claims.whole (Claims.gatheredV (ids.zip ps) t)).retired (.iget o)))) ∧
    (Issues (.iput o) o.h s → o.h.s3 = .q 1 →
      (indexed .w (o.base s.ctx) o.size (s.ctx.rg o.h.s2.index).toNat (if o.v then 8 else 32 / o.size) 0).run s = .ok (ps, s1) →
      (∀ p ∈ ps, Claims.Clear s1 p o.size ∧ Claims.Own s1 p o.size true) →
      (∀ v rest, o.v = false → s1.ctx.q1 = v :: rest → exec (.iput o) s = .next
        ((Claims.whole (Claims.scattered v.toNat o.size 0 ps
          (({ s1 with nextId := s1.nextId + ps.length } : State).modCtx (fun c => { c with q1 := rest })))).retired (.iput o))) ∧
      (∀ vs rest, o.v = true → o.size = 32 → s1.ctx.q1 = vs ++ rest → vs.length = 8 → exec (.iput o) s = .next
        ((Claims.whole (Claims.scatteredV (ps.zip vs)
          (({ s1 with nextId := s1.nextId + ps.length } : State).modCtx (fun c => { c with q1 := rest })))).retired (.iput o)))))

/-- SCNT writes D with SYS, PKG and CLU in bits [63:32], [31:16] and [15:0]; FENCE goes on when the context's loads have returned and the counts of its scope are zero and no store error is recorded; with an earlier load out it waits, and with a store error recorded it raises STORE_NACK with the address and the cause, and clears the record. With no acquire out: PREF of an address that does not translate only goes on, and of a page whose line the core may load and cache and does not hold sends for the line. For a range in one page that permits the access and that no walk or class change holds: with no line of it in the core, FLUSH and INV only go on; with one dirty line and room, each posts its write-back (INV drops it with the write-back); with one clean line, FLUSH only goes on and INV drops it. (07_scalar_memory.md R179; 07_scalar_memory.md R180; 07_scalar_memory.md R181; 07_scalar_memory.md R184; 07_scalar_memory.md R185) -/
def Obligations.FencesAndCaches : Prop :=
  (∀ (o : MOps) (s : State),
    (Issues (.scnt o) o.h s → exec (.scnt o) s = .next ((s.modCtx (·.wg o.h.d.index (BitVec.ofNat 64
      (s.ctx.countSys * 2 ^ 32 + s.ctx.countPkg * 2 ^ 16 + s.ctx.countClu)))).retired (.scnt o))) ∧
    (Issues (.fence o) o.h s → s.loadsOut = false → s.ctx.fenced o.scope.toNat = true → s.ctx.storeErr = none →
      exec (.fence o) s = .next (s.retired (.fence o))) ∧
    (Issues (.fence o) o.h s → s.loadsOut = true →
      exec (.fence o) s = .next (s.modCtx (·.stallOn .fence false s.now))) ∧
    (∀ ga cause, Issues (.fence o) o.h s → s.loadsOut = false → s.ctx.fenced o.scope.toNat = true →
      s.ctx.storeErr = some (ga, cause) → exec (.fence o) s = .next (s.takeTrapA
        { cause := cSTORE_NACK, tval := some ga, tval2 := some (BitVec.ofNat 64 cause), clears := [.storeErr] }))) ∧
    (∀ (o : MOps) (s s1 : State) (p : Phys) (t : Tlb) (a n : Nat) (l : CchLine), s.acqOut = false →
    let root := s.effPtroot s.ctx.rcb
    let held := s1.here.lines.filter (fun l => overlap l.addr 64 p.ga n)
    (∀ e, Issues (.pref o) o.h s → s.walkWaits (.core s.core) root (o.ea s.ctx) = false →
      translate s (.core s.core) root .r (o.ea s.ctx) = .error e → exec (.pref o) s = .next
        ((if walkRefused e.1 (o.ea s.ctx) then s.walked (.core s.core) root (o.ea s.ctx) else s).retired (.pref o))) ∧
    (Issues (.pref o) o.h s → s.walkWaits (.core s.core) root (o.ea s.ctx) = false →
      translate s (.core s.core) root .r (o.ea s.ctx) = .ok (p, s1) → p.inReclass s1 = false →
      p.page = some t → gaSpace p.ga = 0 → pageCheck s1 s1.ctx.mode s1.core .r t = .ok () →
      s1.caches s1.core p.cls p.ga p.pageGa = true → s1.here.findLine (lineOf p.ga) = none →
      exec (.pref o) s = .next ((s1.launch (newTxn s1 .fill (.dram p.cls) (lineOf p.ga) 64 p.pageGa)).retired (.pref o))) ∧
    (s.ctx.moving = [] → chunks (o.ea s.ctx) (s.ctx.rg o.h.s3.index).toNat = [(a, n)] →
      s.walkWaits (.core s.core) root (a % 2 ^ 64) = false → p.page = some t → p.inReclass s1 = false →
      (Issues (.flush o) o.h s → translate s (.core s.core) root .r (a % 2 ^ 64) = .ok (p, s1) →
        t.permits s1.ctx.mode .r = true →
        (held = [] → exec (.flush o) s = .next ((Claims.whole s1).retired (.flush o))) ∧
        (held = [l] → s1.here.findLine l.addr = some l → l.dirty = 0 →
          exec (.flush o) s = .next ((Claims.whole s1).retired (.flush o))) ∧
        (held = [l] → s1.here.findLine l.addr = some l → l.dirty ≠ 0 → s1.ctx.posted.length + 1 ≤ 64 →
          exec (.flush o) s = .next ((Claims.whole (s1.launch { newTxn s1 (.flush false) (.dram l.cls) l.addr 64 t.pageGa with
            count := some (countFor s1.core l.addr) })).retired (.flush o)))) ∧
      (Issues (.inv o) o.h s → translate s (.core s.core) root .w (a % 2 ^ 64) = .ok (p, s1) →
        t.permits s1.ctx.mode .w = true →
        (held = [] → exec (.inv o) s = .next ((Claims.whole s1).retired (.inv o))) ∧
        (held = [l] → s1.here.findLine l.addr = some l → l.dirty = 0 →
          exec (.inv o) s = .next ((Claims.whole (s1.evict s1.core l)).retired (.inv o))) ∧
        (held = [l] → s1.here.findLine l.addr = some l → l.dirty ≠ 0 → s1.ctx.posted.length + 1 ≤ 64 →
          exec (.inv o) s = .next ((Claims.whole (s1.launch { newTxn s1 (.flush true) (.dram l.cls) l.addr 64 t.pageGa with
            count := some (countFor s1.core l.addr) })).retired (.inv o))))))

/-- HANDOVER of an OW page whose capability the core holds and whose accesses are performed writes back and drops the core's lines of the page and sends the capability to the named core; at the home the word is rewritten, and at its grant the core holds it and every firing of it gets an event. RECLASS to the page's own class only goes on, and to another class marks the page and waits; when the TLBs have confirmed the mark the old class's step is made, and when the page has drained the new class is set and the RECLASS completes. (07_scalar_memory.md R187; 07_scalar_memory.md R188; 12_cluster_memory.md R285; 12_cluster_memory.md R286) -/
def Obligations.CapabilityAndClass : Prop :=
  ∀ (o : MOps) (s s1 : State) (p : Phys) (t : Tlb) (page k : Nat) (r : Reclass),
    (let n := (s.ctx.rg o.h.s3.index).toNat
     Issues (.handover o) o.h s → (resolvePage (o.ea s.ctx)).run s = .ok (p, s1) → p.page = some t → p.cls = .ow →
      bits n 63 26 = 0 → bits n 9 6 ≤ 11 → bits n 5 2 ≤ 11 → s1.holds s1.core p.pageGa = true → s1.here.movingTo p.pageGa (2 ^ leafBits t.level) = false →
      s1.txns.any (fun x => x.2.core == s1.core && !x.2.op.isLoad &&
        ((x.2.page == p.pageGa && x.2.target == .dram .ow) || x.2.rest.any (·.page == p.pageGa))) = false →
      s1.ctx.storeErr = none → exec (.handover o) s = .next (
        (((s1.here.linesOf p.pageGa (2 ^ leafBits t.level)).foldl
          (fun s l => (s.writeBack s.core l.addr).modHere (·.dropLine l.addr)) (s1.settleGrants s1.core p.pageGa)).modPkg (gaPkg p.pageGa) (fun x =>
            { x with caps := tset x.caps p.pageGa ⟨none, some n, false⟩ })).retired (.handover o))) ∧
    (tfind (s.pkgAt (gaPkg page)).caps page = some ⟨none, some k, false⟩ → exec (.owHandoverAtHome page) s = .next
      (s.modPkg (gaPkg page) (fun x => match tfind x.caps page with
        | some c => if c.holder.isNone && c.heading.isSome && !c.granted then
            { x with caps := tset x.caps page { c with granted := true } } else x
        | none => x))) ∧
    (tfind (s.pkgAt (gaPkg page)).caps page = some ⟨none, some k, true⟩ → exec (.owGrant page) s = .next
      ((s.modPkg (gaPkg page) (fun x => { x with caps := tset x.caps page ⟨some k, none, false⟩ })).modCore k
        (fun c => { c with ctx := c.ctx.map Ctx.event }))) ∧
    (Issues (.reclass o) o.h s → (s.ctx.rg o.h.s3.index).toNat < 4 → (resolvePage (o.ea s.ctx)).run s = .ok (p, s1) →
      p.page = some t →
      (t.cls = Cls.ofCode (s.ctx.rg o.h.s3.index).toNat → exec (.reclass o) s = .next (s1.retired (.reclass o))) ∧
      (t.cls ≠ Cls.ofCode (s.ctx.rg o.h.s3.index).toNat → ∃ u, exec (.reclass o) s = .next u ∧
        u.ctx.awaited = some (.reclass t.pageGa) ∧ u.ctx.pc = s1.ctx.pc ∧ u.mem = s1.mem ∧
        (∃ r, tfind (u.pkgAt (gaPkg t.pageGa)).reclass t.pageGa = some r ∧ r.oldCls = t.cls ∧
          r.newCls = Cls.ofCode (s.ctx.rg o.h.s3.index).toNat ∧ r.draining = false))) ∧
    (tfind (s.pkgAt (gaPkg page)).reclass page = some r → r.draining = false → exec (.reclassTlbsConfirmed page) s = .next
      ((s.modPkg (gaPkg page) (fun x => { x with reclass := tset x.reclass page { r with draining := true } })).oldClassStep
        page r)) ∧
    (tfind (s.pkgAt (gaPkg page)).reclass page = some r → r.draining = true → s.pageDrained page r = true →
      exec (.reclassDrained page) s = .next
        (((s.newClassStep page r).modPkg (gaPkg page) (fun x => { x with reclass := tdel x.reclass page })).modCtxOf r.core r.fc
          (fun c => match c.awaited with
            | some (.reclass q) => if q = page then c.resume else c
            | _ => c)))

/-- With its address resolved for an atomic, outside deterministic pages and with nothing to wait for: an AMO (with no zero-fire) or AMO.U of a cell in the core's own pool writes the new value its operation gives, returning nothing; of another core's pool it is posted with a count; an AMO of an HC or SC page whose line the core may not write on is posted. (13_cluster_sync.md R294; 13_cluster_sync.md R295; 13_cluster_sync.md R296) -/
def Obligations.AmoCompletes : Prop :=
  ∀ (i : Instr) (o : MOps) (op : AmoOp) (s s1 : State) (p : Phys), Issues i o.h s →
    Claims.Clear s1 p o.size → p.dm = false →
    (Claims.amo i = some (o, op) → (resolveAtomic (o.ea s.ctx) o.size).run s = .ok (p, s1) → o.zf = false →
      (o.ord = 2 → Claims.FencedTo s1 o.scope.toNat) →
      (Claims.Own s1 p o.size true → s1.bad p.ga o.size = false → exec i s = .next ((s1.wrNat p.ga o.size
        (Claims.amoNew op o.fmt o.h.rm (s1.rdNat p.ga o.size) (s.ctx.rg o.h.s3.index))).retired i)) ∧
      (p.isDram = false → s1.isOwn p = false → s1.ctx.posted.length + 1 ≤ 64 → exec i s = .next
        ((s1.launch { newTxn s1 (.amo op o.fmt o.h.rm (s.ctx.rg o.h.s3.index) false) .pool p.ga o.size p.pageGa with
          count := some (countFor s1.core p.ga) }).retired i)) ∧
      (p.isDram = true → p.cls = .hc ∨ p.cls = .sc → s1.storeCopy p = none →
        (Claims.missed s1 p).ctx.posted.length + 1 ≤ 64 → exec i s = .next (
          let u := Claims.missed s1 p
          (u.launch { newTxn u (.amo op o.fmt o.h.rm (s.ctx.rg o.h.s3.index) false) (.dram p.cls) p.ga o.size p.pageGa with
            count := some (countFor u.core p.ga) }).retired i))) ∧
    (Claims.amoU i = some (o, op) → (resolveAtomic (o.ea s.ctx) o.size (· != .ow)).run s = .ok (p, s1) →
      (Claims.Own s1 p o.size true → s1.bad p.ga o.size = false → exec i s = .next ((s1.wrNat p.ga o.size
        (Claims.amoNew op o.fmt 0 (s1.rdNat p.ga o.size) (s.ctx.rg o.h.s3.index))).retired i)) ∧
      (p.isDram = true → p.cls = .hc ∨ p.cls = .sc →
        (s1.here.ulines.any (fun u => u.addr == lineOf p.ga && u.op == op && u.fmt == o.fmt)) = true →
        (s1.homeAt (lineOf p.ga)).us.contains s1.core = true → exec i s = .next
          (((s1.addDelta s1.core p.ga op o.fmt (valOf o.fmt (s.ctx.rg o.h.s3.index))).modCtx (fun c => { c with
            cts := max c.cts (if s1.inHcOrder p then (s1.homeAt (lineOf p.ga)).rts + 1 else 0) })).retired i)))

/-- With its address resolved for an atomic, outside deterministic pages and with nothing to wait for, on a cell in the core's own pool: AMOF writes the new value and lands the old one in D, raising the flags of a floating add; CAS stores its new value when the cell holds the expected one and lands the old value either way; CASW does the same on two words. On another core's pool, or a line of an HC or SC page that the core may not write on, each sends its operation and D waits. (13_cluster_sync.md R293; 13_cluster_sync.md R294; 13_cluster_sync.md R296) -/
def Obligations.AmofCompletes : Prop :=
  ∀ (s s1 : State) (p : Phys),
    (∀ (i : Instr) (o : MOps) (op : AmoOp), Claims.amof i = some (o, op) → Issues i o.h s →
      (resolveAtomic (o.ea s.ctx) o.size).run s = .ok (p, s1) → Claims.Clear s1 p o.size → p.dm = false →
      (o.ord = 2 → Claims.FencedTo s1 o.scope.toNat) →
      let a : TxnOp := .amo op o.fmt o.h.rm (s.ctx.rg o.h.s3.index) false
      (Claims.Own s1 p o.size true → s1.bad p.ga o.size = false → exec i s = .next (((s1.wrNat p.ga o.size
        (Claims.amoNew op o.fmt o.h.rm (s1.rdNat p.ga o.size) (s.ctx.rg o.h.s3.index))).modCtx (fun c =>
          ({ c with fflags := c.fflags ||| a.flags (s1.rdNat p.ga o.size) } : Ctx).land (.g o.h.d.index o.fmt) none
            (s1.rdNat p.ga o.size))).retired i)) ∧
      (Claims.FarStore s1 p → (p.isDram = true → p.cls = .hc ∨ p.cls = .sc) →
        exec i s = .next ((Claims.asked s1 p a o.size (o.ord == 1) (.g o.h.d.index o.fmt)).retired i))) ∧
    (∀ o : MOps, Issues (.cas o) o.h s → (resolveAtomic (o.ea s.ctx) o.size).run s = .ok (p, s1) →
      Claims.Clear s1 p o.size → p.dm = false → (o.ord = 2 → Claims.FencedTo s1 o.scope.toNat) →
      let a : TxnOp := .cas o.fmt (s.ctx.rg o.h.d.index) (s.ctx.rg o.h.s3.index)
      (Claims.FarStore s1 p → (p.isDram = true → p.cls = .hc ∨ p.cls = .sc) →
        exec (.cas o) s = .next ((Claims.asked s1 p a o.size (o.ord == 1) (.g o.h.d.index o.fmt)).retired (.cas o))) ∧
      (Claims.Own s1 p o.size true → s1.bad p.ga o.size = false → exec (.cas o) s = .next (((s1.applyOp p.ga o.size a).1.modCtx (fun c =>
          ({ c with fflags := c.fflags ||| a.flags (s1.rdNat p.ga o.size) } : Ctx).land (.g o.h.d.index o.fmt) none
            (s1.rdNat p.ga o.size))).retired (.cas o)))) ∧
    (∀ o : MOps, Issues (.casw o) o.h s → (resolveAtomic (o.ea s.ctx) 16).run s = .ok (p, s1) →
      Claims.Clear s1 p 16 → p.dm = false → (o.ord = 2 → Claims.FencedTo s1 o.scope.toNat) →
      let a : TxnOp := .casw (s.ctx.rg o.h.d.index, s.ctx.rg (o.h.d.index + 1))
        (s.ctx.rg o.h.s3.index, s.ctx.rg (o.h.s3.index + 1))
      (Claims.FarStore s1 p → (p.isDram = true → p.cls = .hc ∨ p.cls = .sc) →
        exec (.casw o) s = .next ((Claims.asked s1 p a 16 (o.ord == 1) (.pair o.h.d.index)).retired (.casw o))) ∧
      (Claims.Own s1 p 16 true → s1.bad p.ga 16 = false → exec (.casw o) s = .next (((s1.applyOp p.ga 16 a).1.modCtx (fun c =>
          ({ c with fflags := c.fflags ||| a.flags (s1.rdNat p.ga 16) } : Ctx).land (.pair o.h.d.index) none
            (s1.rdNat p.ga 16))).retired (.casw o))))

/-- An AMO without zero-fire, or an AMO.U, on a page with the DM bit, with room in the posted table and CNT below its maximum, posts its operation to the merge unit with the key of the core's logical number and CNT, and CNT rises by 1; an AMOF or CAS there raises AMO_CLASS. (19_package.md R373; 19_package.md R374; 13_cluster_sync.md R296) -/
def Obligations.DeterministicAtomics : Prop :=
  ∀ (i : Instr) (o : MOps) (op : AmoOp) (s s1 : State) (p : Phys), Issues i o.h s → p.dm = true →
    (Claims.amo i = some (o, op) ∧ (resolveAtomic (o.ea s.ctx) o.size).run s = .ok (p, s1) ∧ o.zf = false ∧
          (o.ord = 2 → Claims.FencedTo s1 o.scope.toNat) ∨
        Claims.amoU i = some (o, op) ∧ (resolveAtomic (o.ea s.ctx) o.size (· != .ow)).run s = .ok (p, s1) →
      Claims.Clear s1 p o.size →
      s1.here.cnt ≠ 0xFFFFFFFF → s1.ctx.posted.length + 1 ≤ 64 → exec i s = .next
        (((s1.launch { newTxn s1 (.dm ⟨s1.here.lcore, s1.here.cnt.toNat, p.ga, op, o.fmt, o.h.rm, s.ctx.rg o.h.s3.index, false, false⟩) .merge p.ga (o.fmt.width / 8) p.pageGa with
            count := some (countFor s1.core p.ga) }).modHere (fun c => ({ c with cnt := c.cnt + 1 } : Core).count 0x009)).retired
          i)) ∧
    (Claims.amof i = some (o, op) ∨ i = .cas o → (resolveAtomic (o.ea s.ctx) o.size).run s = .ok (p, s1) →
      exec i s = .next (s.takeTrapA { cause := cAMO_CLASS }))

/-- QPOP writes D with the low 64 bits of the oldest q1 entry and removes it; QCNT writes the entries a queue holds; STREAM.BIND of an unbound head with a legal pattern record binds it at its first entry; STREAM.END unbinds a head, a write head once its entries are stored and acknowledged. A read stream with room loads its next entry, and a write stream stores its oldest. (05_core_pool.md R93; 05_core_pool.md R95; 05_core_pool.md R96; 05_core_pool.md R97; 05_core_pool.md R99) -/
def Obligations.Queues : Prop :=
  ∀ (o : AOps) (s s1 : State) (core fc q : Nat),
    (∀ v rest, Issues (.qpop o) o.h s → s.ctx.q1 = v :: rest → exec (.qpop o) s = .next
      (((s.modCtx (fun c => { c with q1 := rest })).modCtx (·.wg o.h.d.index (v.setWidth 64))).retired (.qpop o))) ∧
    (Issues (.qcnt o) o.h s → o.h.s1.index < 6 → exec (.qcnt o) s = .next
      ((s.modCtx (·.wg o.h.d.index (BitVec.ofNat 64 (s.ctx.queueCount o.h.s1.index)))).retired (.qcnt o))) ∧
    (∀ w pat, Issues (.streamBind o) o.h s → (s.ctx.stream o.h.d.index).pat = none →
      let ea := wrapInt 64 ((s.ctx.rg o.h.s1.index).toNat + sintOf 24 (o.ext.toNat % 2 ^ 24))
      ea % 64 = 0 → (loadWords ea 8).run s = .ok (w, s1) → patternOf w = some pat → exec (.streamBind o) s = .next
        ((s1.modCtx (fun c => c.setStream o.h.d.index { Stream.reset with pat := some pat })).retired (.streamBind o))) ∧
    (∀ pat, Issues (.streamEnd o) o.h s → (s.ctx.stream o.h.d.index).pat = some pat →
      (pat.write = true → (s.ctx.stream o.h.d.index).wr = [] ∧ (s.ctx.stream o.h.d.index).unacked = [] ∧
        (s.ctx.stream o.h.d.index).err = none) →
      exec (.streamEnd o) s = .next
        ((s.modCtx (fun c => c.setStream o.h.d.index Stream.reset)).retired (.streamEnd o))) ∧
    (∀ pat pa, (s.at core fc).ctx.canFetch q = true → ((s.at core fc).ctx.stream q).pat = some pat →
      (resolveAs .u .r (pat.addr ((s.at core fc).ctx.stream q).moved) 32).run (s.at core fc) = .ok (pa, s1) →
      Claims.Clear s1 pa 32 → Claims.Own s1 pa 32 false →
      exec (.streamReadFetch core fc q) s = .next (
        let t := (s.at core fc).ctx.stream q
        let s2 : State := ({ s1 with nextId := s1.nextId + 1 } : State).modCtx (fun c => c.setStream q
          { t with rd := t.rd ++ [⟨s1.nextId, 1, 0, none⟩], moved := t.moved + 1 })
        s2.modCtx (fun c => c.land (.stream q s1.nextId) none (s2.rdNat pa.ga 32)))) ∧
    (∀ pat pa v rest, (s.at core fc).ctx.canStore q = true → ((s.at core fc).ctx.stream q).pat = some pat →
      ((s.at core fc).ctx.stream q).wr = v :: rest →
      (resolveAs .u .w (pat.addr ((s.at core fc).ctx.stream q).moved) 32).run (s.at core fc) = .ok (pa, s1) →
      Claims.Clear s1 pa 32 → Claims.Own s1 pa 32 true →
      exec (.streamWriteStore core fc q) s = .next ((({ s1 with nextId := s1.nextId + 1 } : State).wrNat pa.ga 32 v.toNat).modCtx (fun c =>
        let t := c.stream q
        c.setStream q { t with wr := rest, moved := t.moved + 1, unacked := t.unacked })))


/-! ### The pool, views, tiles and system registers -/

/-- The gaining role, the giving role and the bank count of a POOLSET (R111). -/
def Claims.moveOf (o : AOps) (fc : Nat) : Move :=
  ⟨Role.ofCode (bits o.ext.toNat 11 9), Role.ofCode (bits o.ext.toNat 8 6), bits o.ext.toNat 5 0, fc % 4⟩

/-- The result of the checks of R113 on a POOLSET of the current context. -/
def Claims.moveCode (o : AOps) (s : State) : Nat :=
  let m := Claims.moveOf o s.fc
  s.poolCheck s.core s.ctx.rcb s.ownBound m.gain m.give m.n

/-- VIEW.SET or VIEW.CLR has nothing to wait for: no move and no waiting POOLSET.wait, no dispatched entry that names a register of the view, and,
for VWT, every tile of the old and the new view EMPTY (R103). -/
structure Claims.ViewFree (c : Core) (which count : Nat) : Prop where
  still : c.poolIdle = true
  unnamed : c.names (viewKind which) = false
  empty : which = 1 → c.busyTile (max c.vwt.count count) = none

/-- The slot, or the head entry, has waited for the banks of the tile a field names to stop moving, and the move has taken the
entry (R115). -/
def Claims.waited (s : State) (r : Reg) : Prop :=
  if s.half then ∃ e, s.ctx.xhead = some e ∧ e.lost = true else ∃ st, s.ctx.stall = some st ∧ st.why = .tileMove r.index

/-- A view's bytes exist, for VWT and VWZ lie in the MAT part, and leave the rename reserve (R101 to R103, R106). -/
def Claims.viewPlaced (c : Core) (which : Nat) (v : View) : Prop :=
  c.regSpaceHas (viewBytes which v).1 (viewBytes which v).2 = true ∧ (which ≠ 0 → 0x40000 ≤ (viewBytes which v).1) ∧
  regFootprint (c.setView which v).views + 1 ≤ c.bankCount .reg

/-- The view a VIEW.SET names (R103). -/
def Claims.viewOf (o : AOps) : View := ⟨bits o.ext.toNat 13 0, bits o.ext.toNat 29 21, bits o.ext.toNat 33 30⟩

/-- The core after a view has changed: VWT's tiles are mapped afresh, EMPTY (R103, R117). -/
def Claims.viewed (c : Core) (which : Nat) (v : View) : Core :=
  if which = 1 then ({ c with vwt := v } : Core).mapTiles c.vwt v else c.setView which v

/-- The tile entry a TSET makes (R118). -/
def Claims.tileOf (o : AOps) (b : Word) : Tile where
  role := if bits o.ext.toNat 35 34 = 0 then .mat else if bits o.ext.toNat 35 34 = 1 then .scr else .csm
  fmt := Fmt.ofCode (BitVec.ofNat 4 (bits o.ext.toNat 33 30))
  wide := bit o.ext.toNat 29
  base := b.toNat
  state := if bit o.ext.toNat 28 then .ready else .empty
  readers := 0
  inVwt := false
  err := none
  ticket := none
  status := 0
  statusTs := 0

/-- The bits of a system register that SWR writes in S mode, but for the event counts (R123; R102, R109, R124, R152, R245, R255,
R257, R281, R355, R387, R394, R399). -/
def Claims.writable (n : Nat) : Word :=
  if n = 0x011 then 0xFFFFF
  else if n = 0x015 then 0x3FF03
  else if n = 0x017 ∨ n = 0x037 then BitVec.allOnes 64
  else if n = 0x034 then 0x18
  else if n = 0x036 then 0x80FFFFFFFFFFFFC7
  else if n = 0x01C ∨ n = 0x01D ∨ n = 0x01E ∨ n = 0x020 ∨ n = 0x038 ∨ n = 0x180 then 0xFFFFFFFF
  else if n = 0x040 ∨ n = 0x050 then 0x1FFFFFFFF
  else if n = 0x051 then 0xFFFFFFFFFFFF
  else if 0x100 ≤ n ∧ n ≤ 0x107 ∨ 0x110 ≤ n ∧ n ≤ 0x11F then 0x800000000000FFFF
  else if 0x160 ≤ n ∧ n ≤ 0x17F then 1
  else 0

/-- The readable bits of a system register that no SWR writes: the RO fields (R123). -/
def Claims.readOnly (n : Nat) : Word :=
  if n = 0x015 then 0xC0000 else if n = 0x034 then 7 else if Claims.writable n = 0 then BitVec.allOnes 64 else 0

/-- Register n counts events (R387). -/
def Claims.counts (n : Nat) : Prop := 0x108 ≤ n ∧ n ≤ 0x10F ∨ 0x120 ≤ n ∧ n ≤ 0x12F

/-- The context's earlier X entries are complete, where a register needs that (R154, R199). -/
def Claims.settled (c : Ctx) (n : Nat) : Prop := n ∈ [0x016, 0x018, 0x019, 0x01A, 0x017] → c.xseq = [] ∧ c.xbusy = false

/-- POOLSET whose checks give a code other than 0 writes the code to D; with code 0 the move starts and the context waits for it; POOLSET.wait waits on codes 1 and 7 and else does the same. POOL_MOVE_DONE ends the move: the gaining role has n more banks, the giving role n fewer, and a gaining REG, MAT or SCR bank reads as zero. POOLRD writes D with the role's bank count. HWM.SET of a value that the SCR role holds sets SCRHWM, and of another raises ILLEGAL_OPERAND. (05_core_pool.md R109; 05_core_pool.md R110; 05_core_pool.md R111; 05_core_pool.md R113; 05_core_pool.md R114; 05_core_pool.md R116) -/
def Obligations.PoolMoves : Prop :=
  ∀ (o : AOps) (s sa : State) (a : Word),
    let code := Claims.moveCode o s
    let counted : State := { s with fresh := s.fresh + 1 }
    let begun := (counted.modHere (fun c => { c with move := some (Claims.moveOf o s.fc) })).modCtx (fun c =>
      { c with awaited := some (.poolMove o.h.d), stall := none })
    (Issues (.poolset o) o.h s → code ≠ 0 →
      exec (.poolset o) s = .next ((counted.modCtx (·.wg o.h.d.index (BitVec.ofNat 64 code))).retired (.poolset o))) ∧
    (Issues (.poolset o) o.h s → code = 0 → exec (.poolset o) s = .next (begun.stayed (.poolset o))) ∧
    (Issues (.poolsetWait o) o.h s → code = 1 ∨ code = 7 →
      exec (.poolsetWait o) s = .next (s.modCtx (·.stallOn .pool true s.now))) ∧
    (Issues (.poolsetWait o) o.h s → code ≠ 0 → code ≠ 1 → code ≠ 7 → exec (.poolsetWait o) s = .next
      ((counted.modCtx (·.wg o.h.d.index (BitVec.ofNat 64 code))).retired (.poolsetWait o))) ∧
    (Issues (.poolsetWait o) o.h s → code = 0 → exec (.poolsetWait o) s = .next (begun.stayed (.poolsetWait o))) ∧
    (∀ (core : Nat) (m : Move), (s.coreAt core).move = some m → m.gain ≠ m.give →
      ∃ u : State, exec (.poolMoveDone core) s = .next u.finishSaves ∧ (u.coreAt core).move = none ∧
        (u.coreAt core).bankCount m.gain = (s.coreAt core).bankCount m.gain + m.n ∧
        (u.coreAt core).bankCount m.give = (s.coreAt core).bankCount m.give - m.n ∧
        (∀ k x, roleKey core m.gain = some k → m.gain ≠ .msg → k + (s.coreAt core).bankCount m.gain * 0x2000 ≤ x →
          x < k + ((s.coreAt core).bankCount m.gain + m.n) * 0x2000 → Memory.read u.mem x = 0)) ∧
    (Issues (.poolrd o) o.h s → exec (.poolrd o) s = .next ((s.modCtx (·.wg o.h.d.index
      (BitVec.ofNat 64 (s.here.bankCount (Role.ofCode (bits o.ext.toNat 11 9)))))).retired (.poolrd o))) ∧
    (Issues (.hwmSet o) o.h s → (o.src o.h.s1).run s = .ok (a, sa) → a.toNat ≤ 0x80000 →
      (a.toNat + 0x1FFF) / 0x2000 ≤ sa.here.bankCount .scr →
      exec (.hwmSet o) s = .next ((sa.modHere (fun c => { c with scrhwm := a.toNat })).retired (.hwmSet o))) ∧
    (Issues (.hwmSet o) o.h s → (o.src o.h.s1).run s = .ok (a, sa) →
      0x80000 < a.toNat ∨ sa.here.bankCount .scr < (a.toNat + 0x1FFF) / 0x2000 →
      exec (.hwmSet o) s = .next (s.takeTrapA { cause := cILLEGAL_OPERAND }))

/-- With nothing to wait for, VIEW.SET of a view that lies in its banks sets the view, and VWT's tiles are mapped afresh; of another it raises VIEW_RANGE; VIEW.CLR sets COUNT to 0. TSET of an entry outside VWT that is invalid or EMPTY and fits its role sets the entry; one that does not fit raises TILE_RANGE, a busy one TILE_STATE. TSTAT writes D with the fields of a valid entry, or 0; of an entry that became invalid while it waited for a move it raises TILE_RANGE. TCLR of an idle valid entry makes it EMPTY and writes 0, of a busy one writes 3, of an invalid one raises TILE_RANGE. (05_core_pool.md R103; 05_core_pool.md R118; 05_core_pool.md R115) -/
def Obligations.ViewsAndTiles : Prop :=
  ∀ (o : AOps) (s : State) (t : Tile),
    let which := bits o.ext.toNat 35 34
    let v := Claims.viewOf o
    (Issues (.viewSet o) o.h s → which < 3 → v.count ≠ 0 → Claims.ViewFree s.here which v.count →
      Claims.viewPlaced s.here which v →
      exec (.viewSet o) s = .next ((s.modHere (Claims.viewed · which v)).retired (.viewSet o))) ∧
    (Issues (.viewSet o) o.h s → which < 3 → v.count ≠ 0 → Claims.ViewFree s.here which v.count →
      ¬ Claims.viewPlaced s.here which v → exec (.viewSet o) s = .next (s.takeTrapA
        { cause := cVIEW_RANGE, tval := some (BitVec.ofNat 64 (v.shape * 2 ^ 28 + v.count * 2 ^ 16 + v.base)) })) ∧
    (Issues (.viewClr o) o.h s → which < 3 → Claims.ViewFree s.here which 0 → exec (.viewClr o) s = .next
      ((s.modHere (fun c => Claims.viewed c which { c.view which with count := 0 })).retired (.viewClr o))) ∧
    (Issues (.tset o) o.h s → s.here.vwt.count ≤ o.h.d.index →
      let n := Claims.tileOf o (s.ctx.rg o.h.s1.index)
      (tfind s.here.tiles o.h.d.index = none ∧ ¬ Claims.waited s o.h.d) ∨
        (tfind s.here.tiles o.h.d.index = some t ∧ t.state = .empty ∧ s.here.tileMoving t = false) →
      s.here.tileMoving n = false →
      (s.here.tileFits n = true → exec (.tset o) s = .next ((s.modHere (fun c =>
        { c with tiles := Sys2Proof.Machine.tset c.tiles o.h.d.index n })).retired (.tset o))) ∧
      (s.here.tileFits n = false → exec (.tset o) s = .next (s.takeTrapA { cause := cTILE_RANGE }))) ∧
    (Issues (.tset o) o.h s → s.here.vwt.count ≤ o.h.d.index → tfind s.here.tiles o.h.d.index = some t →
      s.here.tileMoving t = false → t.state ≠ .empty →
      exec (.tset o) s = .next (s.takeTrapA { cause := cTILE_STATE })) ∧
    (Issues (.tstat o) o.h s → tfind s.here.tiles o.h.s1.index = none → ¬ Claims.waited s o.h.s1 →
      exec (.tstat o) s = .next ((s.modCtx (·.wg o.h.d.index 0)).retired (.tstat o))) ∧
    (Issues (.tstat o) o.h s → tfind s.here.tiles o.h.s1.index = some t → s.here.tileMoving t = false →
      exec (.tstat o) s = .next ((s.modCtx (·.wg o.h.d.index (BitVec.ofNat 64 (t.state.code + t.readers * 2 ^ 8 +
        t.base * 2 ^ 32 + (if t.err.isSome then 2 ^ 52 else 0) + 2 ^ 53 + (if t.inVwt then 2 ^ 54 else 0) +
        (if t.wide then 2 ^ 55 else 0) + t.fmt.code.toNat * 2 ^ 56 + t.role.code * 2 ^ 60)))).retired (.tstat o))) ∧
    (Issues (.tstat o) o.h s → tfind s.here.tiles o.h.s1.index = none → Claims.waited s o.h.s1 →
      exec (.tstat o) s = .next (s.takeTrapA { cause := cTILE_RANGE })) ∧
    (Issues (.tclr o) o.h s → tfind s.here.tiles o.h.s1.index = none →
      exec (.tclr o) s = .next (s.takeTrapA { cause := cTILE_RANGE })) ∧
    (Issues (.tclr o) o.h s → tfind s.here.tiles o.h.s1.index = some t → s.here.tileMoving t = false →
      (t.state = .filling ∨ t.state = .draining ∨ 0 < t.readers →
        exec (.tclr o) s = .next ((s.modCtx (·.wg o.h.d.index 3)).retired (.tclr o))) ∧
      (t.state ≠ .filling → t.state ≠ .draining → t.readers = 0 →
        exec (.tclr o) s = .next (((s.modHere (·.setTile o.h.s1.index (fun t => { t with state := .empty }))).modCtx
          (·.wg o.h.d.index 0)).retired (.tclr o))))

/-- WIN.SET of an aligned 56-bit base sets the window's base and drops its cached words, and of another base, or of window 7, raises ILLEGAL_OPERAND. SRD of a register that U mode may read writes D with the register's value; a register whose fields are not readable in U mode raises SYSREG_ACCESS there. SWR in S mode writes the fields of the register that are RW there, its RO fields keep their value, every other register that is no event count reads as before (LINKSTn can change with LINKCTLn), and a count that does not run holds the value written; in U mode it has no effect; SWR of FFLAGS, VSAT, RNGSTR and RNGCTR writes in both modes once the earlier X entries are complete, SWR of SCLBASE once no open or running XLOOP reads scales, and SWR of a view register in S mode sets the view as VIEW.SET does, with COUNT 0 clearing it and setting BASE and SHAPE (log entry 49). (05_core_pool.md R121; 05_core_pool.md R123; 06_numbers.md R154; 08_vector.md R199; 09_matrix.md R215) -/
def Obligations.SystemRegisters : Prop :=
  ∀ (o : AOps) (s sa : State) (a : Word),
    let n := o.h.s1.index
    let m := o.h.d.index
    let w := o.ext.toNat % 8
    let next (s : State) : State := { s with fresh := s.fresh + 1 }
    (Issues (.winSet o) o.h s → w ≠ 7 → (s.ctx.rg n).toNat % 8 = 0 → (s.ctx.rg n).toNat < 2 ^ 56 →
      exec (.winSet o) s = .next ((s.modCtx (fun c => { c with
        win := c.win.set (w % 7) (s.ctx.rg n) (Nat.mod_lt _ (by decide)),
        constCache := c.constCache.filter (fun x => x.1 / 2 ^ 17 != w) })).retired (.winSet o))) ∧
    (Issues (.winSet o) o.h s → w = 7 ∨ (s.ctx.rg n).toNat % 8 ≠ 0 ∨ 2 ^ 56 ≤ (s.ctx.rg n).toNat →
      exec (.winSet o) s = .next (s.takeTrapA { cause := cILLEGAL_OPERAND })) ∧
    (Issues (.srd o) o.h s → s.ctx.mode = .s ∨ (n < 0x030 ∨ 0x035 < n) ∧ n ≠ 0x037 → Claims.settled s.ctx n →
      exec (.srd o) s = .next (((next s).modCtx (·.wg m ((next s).sysValue n (Config.freeValue s.fresh)))).retired (.srd o))) ∧
    (Issues (.srd o) o.h s → s.ctx.mode = .u → (0x030 ≤ n ∧ n ≤ 0x035) ∨ n = 0x037 →
      exec (.srd o) s = .next (s.takeTrapA { cause := cSYSREG_ACCESS, tval := some (BitVec.ofNat 64 n) })) ∧
    (Issues (.swr o) o.h s → s.ctx.mode = .s → (o.src o.h.s1).run s = .ok (a, sa) → sa.ctx.mode = .s →
      exec (.swr o) s = .next ((((((next sa).modCtx (·.sysWrite m a)).modHere (·.sysWrite sa.now m (Config.freeValue sa.fresh)
        a)).modQuad (quadOf sa.core) (·.sysWrite sa.now m (Config.freeValue sa.fresh) a)).modPkg (corePkg sa.core)
          (·.sysWrite sa.now m a)).retired (.swr o))) ∧
    (∀ v : Word, Issues (.swr o) o.h s → s.ctx.mode = .s → (o.src o.h.s1).run s = .ok (a, sa) → sa.ctx.mode = .s →
      ∃ t, exec (.swr o) s = .next t ∧
        (¬ Claims.counts m → t.sysValue m v = (a &&& Claims.writable m) ||| (sa.sysValue m v &&& Claims.readOnly m)) ∧
        (0x108 ≤ m → m ≤ 0x10F → (sa.here.counter (m - 0x108)).en = false → t.sysValue m v = a) ∧
        (0x120 ≤ m → m ≤ 0x12F → ((sa.quadAt (quadOf sa.core)).counter (m - 0x120)).en = false → t.sysValue m v = a) ∧
        (∀ k, k ≠ m → ¬ Claims.counts k → ¬ (0x160 ≤ m ∧ m ≤ 0x17F ∧ 0x140 ≤ k ∧ k ≤ 0x15F) →
          t.sysValue k v = sa.sysValue k v)) ∧
    (Issues (.swr o) o.h s → s.ctx.mode = .u → (m < 0x030 ∨ 0x035 < m) ∧ m ≠ 0x037 → (o.src o.h.s1).run s = .ok (a, sa) →
      exec (.swr o) s = .next (sa.retired (.swr o))) ∧
    (Issues (.flagRegisterWrite o) o.h s → (o.src o.h.s1).run s = .ok (a, sa) → sa.ctx.xseq = [] → sa.ctx.xbusy = false →
      m ∈ [0x016, 0x018, 0x019, 0x01A] → exec (.flagRegisterWrite o) s = .next ((sa.modCtx (fun c =>
        if m = 0x016 then { c with fflags := a.setWidth 5 }
        else if m = 0x018 then { c with rngstr := a }
        else if m = 0x019 then { c with rngctr := a }
        else { c with vsat := a.getLsbD 0 })).retired (.flagRegisterWrite o))) ∧
    (Issues (.sclbaseWrite o) o.h s → (o.src o.h.s1).run s = .ok (a, sa) → sa.here.scaleReaders = false →
      exec (.sclbaseWrite o) s = .next ((sa.modHere (fun c => { c with sclbase := a.setWidth 6 })).retired (.sclbaseWrite o))) ∧
    (Issues (.viewRegisterWrite o) o.h s → s.ctx.mode = .u → (o.src o.h.s1).run s = .ok (a, sa) → sa.ctx.mode = .u →
      exec (.viewRegisterWrite o) s = .next (sa.retired (.viewRegisterWrite o))) ∧
    (let v : View := ⟨bits a.toNat 13 0, bits a.toNat 24 16, bits a.toNat 31 28⟩
     Issues (.viewRegisterWrite o) o.h s → s.ctx.mode = .s → (o.src o.h.s1).run s = .ok (a, sa) → sa.ctx.mode = .s →
      0x012 ≤ m → m ≤ 0x014 → Claims.ViewFree sa.here (m - 0x012) v.count →
      (v.count ≠ 0 → viewLegal (m - 0x012) v.shape v.count v.base = true → Claims.viewPlaced sa.here (m - 0x012) v →
        exec (.viewRegisterWrite o) s = .next
          ((sa.modHere (Claims.viewed · (m - 0x012) v)).retired (.viewRegisterWrite o))) ∧
      (v.count = 0 → exec (.viewRegisterWrite o) s = .next
          (((sa.modHere (fun c => Claims.viewed c (m - 0x012) { c.view (m - 0x012) with count := 0 })).modHere
            (fun c => c.setView (m - 0x012) v)).retired (.viewRegisterWrite o))))

/-- After reset POOLOCC reads 16, 16, 16, 8 and 8 banks, PWRCTL 0x4001, HCCTL REPEN 1, LADV 16 and LEASE 64, CVEPS 0x34000000, QWIN 0x00010000, AGE 0xFFFFFFFF, STEAL 1 and AGELIM 4096, MAXSH 576 and GRAIN 64, FABCTL.TMO 0x4000, every LINKCTL.EN 1, and SCRHWM, the views, FFLAGS, ZFLAGS, the RNG registers, the trap registers, TVEC, EVLATCH and every event counter 0; memory is in its canonical form and every byte of it reads as 0, the register space and the bytes outside every role among them (log entries 3 and 4). (05_core_pool.md R108; 05_core_pool.md R109; 05_core_pool.md R102; 05_core_pool.md R124; 10_orrery.md R245; 12_cluster_memory.md R281; 16_die.md R355; 21_fabric.md R394; 21_fabric.md R399; 11_core_faults.md R257; 19_package.md R384) -/
def Obligations.ResetRegisters : Prop :=
  ∀ (w : Word), let r (n : Nat) : Word := State.reset.sysValue n w
    r 0x010 = 0x0808101010 ∧ r 0x015 = 0x4001 ∧ r 0x040 = 0x100100040 ∧ r 0x01C = 0x34000000 ∧ r 0x020 = 0x00010000 ∧
    r 0x01F = 0xFFFFFFFF ∧ r 0x050 = 0x100001000 ∧ r 0x051 = 0x24000000040 ∧ r 0x180 = 0x4000 ∧
    (∀ n, 0x160 ≤ n → n ≤ 0x17F → r n = 1) ∧ (∀ n, 0x140 ≤ n → n ≤ 0x15F → r n = 0) ∧
    (∀ n ∈ [0x011, 0x012, 0x013, 0x014, 0x016, 0x017, 0x018, 0x019, 0x01A, 0x01B, 0x01D, 0x01E, 0x036, 0x038, 0x041, 0x042,
      0x130, 0x181], r n = 0) ∧
    (∀ n, 0x030 ≤ n → n ≤ 0x037 → r n = 0) ∧ (∀ n, 0x060 ≤ n → n ≤ 0x06F → r n = 0) ∧
    (∀ n, 0x100 ≤ n → n ≤ 0x12F → r n = 0) ∧
    Memory.wf State.reset.mem = true ∧ (∀ a, Memory.read State.reset.mem a = 0)


/-! ### The X-half -/

/-- The vector and special-function instructions (R190, R210). -/
def Claims.vector : Instr → Option XOps
  | .vadd o | .vsub o | .vmul o | .vmin o | .vmax o | .vabs o | .vneg o | .vfma o | .vfms o | .vfnma o | .vcmp o
  | .vsel o | .vclass o | .vcvt o | .vrsum o | .vrmax o | .vrmin o | .vand o | .vor o | .vxor o | .vandn o
  | .vshl o | .vshr o | .vsra o | .vadds o | .vsubs o | .vmulh o | .vperm o | .vbcast o | .vrot o | .vzip o
  | .vunzip o | .vcomp o | .vext o | .vins o | .vmov o | .vsign o | .vrand o | .div o | .sqrt o | .rcp o | .rsq o
  | .exp o | .expB2 o | .log o | .logB2 o | .sin o | .cos o | .tanh o | .tanhSig o | .erf o => some o
  | _ => none

/-- The lane-wise instructions that may round, with the code and the conditions of a lane from its random bits u and its
operands (R197, R198, R210). -/
def Claims.lanes : Instr → Option (XOps × (Nat → Nat → Nat → Nat → Nat × Flags))
  | .vadd o => some (o, fun u a b _ => if o.fmt1.isF then addF o.fmt1 o.h.rm.toNat u a b else ((a + b) % 2 ^ o.fmt1.width, 0))
  | .vsub o => some (o, fun u a b _ => if o.fmt1.isF then subF o.fmt1 o.h.rm.toNat u a b
      else (wrapInt o.fmt1.width ((a : Int) - b), 0))
  | .vmul o => some (o, fun u a b _ => if o.fmt1.isF then mulF o.fmt1 o.h.rm.toNat u a b else (a * b % 2 ^ o.fmt1.width, 0))
  | .vmin o => some (o, fun _ a b _ => if o.fmt1.isF then minmaxF o.fmt1 false a b
      else (if o.fmt1.isSigned then (if sintOf o.fmt1.width b < sintOf o.fmt1.width a then b else a) else min a b, 0))
  | .vmax o => some (o, fun _ a b _ => if o.fmt1.isF then minmaxF o.fmt1 true a b
      else (if o.fmt1.isSigned then (if sintOf o.fmt1.width a < sintOf o.fmt1.width b then b else a) else max a b, 0))
  | .vfma o => some (o, fun u a b c => fmaF o.fmt1 o.h.rm.toNat u false false a b c)
  | .vfms o => some (o, fun u a b c => fmaF o.fmt1 o.h.rm.toNat u false true a b c)
  | .vfnma o => some (o, fun u a b c => fmaF o.fmt1 o.h.rm.toNat u true false a b c)
  | .div o => some (o, fun _ a b _ => divF o.fmt1 a b)
  | .sqrt o => some (o, fun _ a _ _ => sfu1 .sqrt o.fmt1 a)
  | .rcp o => some (o, fun _ a _ _ => sfu1 .rcp o.fmt1 a)
  | .rsq o => some (o, fun _ a _ _ => sfu1 .rsq o.fmt1 a)
  | .exp o => some (o, fun _ a _ _ => sfu1 .exp o.fmt1 a)
  | .expB2 o => some (o, fun _ a _ _ => sfu1 .exp2 o.fmt1 a)
  | .log o => some (o, fun _ a _ _ => sfu1 .log o.fmt1 a)
  | .logB2 o => some (o, fun _ a _ _ => sfu1 .log2 o.fmt1 a)
  | .sin o => some (o, fun _ a _ _ => sfu1 .sin o.fmt1 a)
  | .cos o => some (o, fun _ a _ _ => sfu1 .cos o.fmt1 a)
  | .tanh o => some (o, fun _ a _ _ => sfu1 .tanh o.fmt1 a)
  | .tanhSig o => some (o, fun _ a _ _ => sfu1 .sigmoid o.fmt1 a)
  | .erf o => some (o, fun _ a _ _ => sfu1 .erf o.fmt1 a)
  | _ => none



/-- The lane-wise instructions that neither round nor raise, with a lane's result (R129, R197, R198, R201). -/
def Claims.maps : Instr → Option (XOps × (Nat → Nat → Nat → Nat))
  | .vabs o => some (o, fun a _ _ => if o.fmt1.isF then a % 2 ^ (o.fmt1.width - 1)
      else if bit a (o.fmt1.width - 1) then (2 ^ o.fmt1.width - a) % 2 ^ o.fmt1.width else a)
  | .vneg o => some (o, fun a _ _ => if o.fmt1.isF then Nat.xor a (2 ^ (o.fmt1.width - 1))
      else (2 ^ o.fmt1.width - a) % 2 ^ o.fmt1.width)
  | .vsel o => some (o, fun m a b => if bit m (o.fmt1.width - 1) then a else b)
  | .vclass o => some (o, fun a _ _ => 2 ^ classOf o.fmt1 a)
  | .vmulh o => some (o, fun a b _ => bits (wrapInt (2 * o.fmt1.width) (laneInt o.fmt1 a * laneInt o.fmt1 b))
      (2 * o.fmt1.width - 1) o.fmt1.width)
  | _ => none

/-- The instructions of two vector sources a and b that neither round nor raise, with the lane width of their sources and
the result; e.s2 and e.s3 are scalars (R204 to R206). -/
def Claims.pairs : Instr → Option (XOps × Nat × (XEntry → Hd → V256 → V256 → V256))
  | .vand o => some (o, 64, fun _ _ a b => a &&& b)
  | .vor o => some (o, 64, fun _ _ a b => a ||| b)
  | .vxor o => some (o, 64, fun _ _ a b => a ^^^ b)
  | .vandn o => some (o, 64, fun _ _ a b => a &&& ~~~b)
  | .vshl o => some (o, o.fmt1.width, shifted o (fun a n => if o.fmt1.width ≤ n then 0 else a * 2 ^ n % 2 ^ o.fmt1.width))
  | .vshr o => some (o, o.fmt1.width, shifted o (fun a n => if o.fmt1.width ≤ n then 0 else a / 2 ^ n))
  | .vsra o => some (o, o.fmt1.width, shifted o (fun a n =>
      wrapInt o.fmt1.width (sintOf o.fmt1.width a >>> min n o.fmt1.width)))
  | .vperm o => some (o, o.fmt1.width, fun _ _ a b => ofLanes o.fmt1.width ((List.range (laneCount o.fmt1.width)).map (fun k =>
      if lane b o.fmt1.width k < laneCount o.fmt1.width then lane a o.fmt1.width (lane b o.fmt1.width k) else 0)))
  | .vcomp o => some (o, o.fmt1.width, fun _ _ a b => ofLanes o.fmt1.width (((List.range (laneCount o.fmt1.width)).filter
      (fun k => bit (lane b o.fmt1.width k) (o.fmt1.width - 1))).map (lane a o.fmt1.width)))
  | _ => none
where
  /-- A shift's count is the lane of a vector source, or the whole 64-bit scalar (R192, R204). -/
  shifted (o : XOps) (f : Nat → Nat → Nat) (e : XEntry) (h : Hd) (a b : V256) : V256 :=
    ofLanes o.fmt1.width ((List.range (laneCount o.fmt1.width)).map (fun k =>
      f (lane a o.fmt1.width k) (if h.s2.isV || h.s2.isQ then lane b o.fmt1.width k else e.s2.toNat)))

/-- A vector or special-function slot that nothing holds up, of fields within their views and without a gang source, enters the sequencer last with the values of its scalar sources; the A-half goes on to the successor, a g destination waits for the X-half, and registers, predicates, queues and memory are as before. A v or z index outside its view raises VIEW_RANGE with TVAL := the index (log entry 57). (05_core_pool.md R104; 05_core_pool.md R87; 08_vector.md R191; 08_vector.md R193) -/
def Obligations.VectorDispatch : Prop :=
  ∀ (i : Instr) (o : XOps) (s sa sb sc : State) (x y z : Word), Claims.vector i = some o → Claims.Dispatches i o.h s →
    o.g1 = 0 → o.g2 = 0 → o.g3 = 0 → (srcW o.w true o.h.s1).run s = .ok (x, sa) → (srcW o.w true o.h.s2).run sa = .ok (y, sb) →
    (srcW o.w true o.h.s3).run sb = .ok (z, sc) → sc.ctx.xseq = s.ctx.xseq →
    (sc.here.outOfView (o.local o.h) = none → ∃ (t : State) (e : XEntry), exec i s = .next t ∧
      t.ctx.xseq = s.ctx.xseq ++ [.entry e] ∧ e.i = i ∧ e.pc = sc.ctx.pc ∧ e.live = true ∧
      e.s1 = x ∧ e.s2 = y ∧ e.s3 = z ∧
      t.ctx.pc = sc.ctx.successor ∧ t.ctx.g = sc.ctx.g ∧ t.ctx.p = sc.ctx.p ∧ t.ctx.q0 = sc.ctx.q0 ∧ t.ctx.q1 = sc.ctx.q1 ∧
      t.ctx.fflags = sc.ctx.fflags ∧ t.mem = sc.mem ∧ t.txns = sc.txns ∧
      (∀ k : BitVec 5, k ≠ 0 → o.h.d = .g k → t.ctx.pendOf k.toNat = .xhalf)) ∧
    (∀ k, sc.here.outOfView (o.local o.h) = some k → exec i s = .next (s.takeTrapD
      { cause := cVIEW_RANGE, tval := some (BitVec.ofNat 64 k) }))

/-- A g source is read, and a literal sign-extended, at dispatch. A v source is the 32 bytes at its place in the register space, and an uncorrectable error among them raises MACHINE_UE (R386); a scalar source is broadcast to every lane; q0 pops its oldest entry once its data has landed; a gang source is the v register of core (own + k) mod 4 of the quad through that core's view, and outside it raises VIEW_RANGE. A v destination is written whole; q1 takes one more entry, and with 16 entries the entry waits. Outside a loop an entry runs on its own fields, and in pass p of a loop on its v, t and z indices moved by p strides. (04_firing.md R78; 05_core_pool.md R90; 05_core_pool.md R102; 08_vector.md R192; 08_vector.md R195; 08_vector.md R196) -/
def Obligations.VectorOperands : Prop :=
  ∀ (s : State) (w : Nat) (x : Word) (v : V256),
    (∀ k f, (srcW f true (.g k)).run s = .ok (s.ctx.rg k.toNat, s) ∧
      (srcW f true .lit).run s = .ok (BitVec.ofInt 64 (sintOf 20 f.toNat), s)) ∧
    (∀ k : BitVec 8, let at' := regSpaceKey s.core (32 * s.here.vwv.base + 32 * k.toNat)
      (s.bad at' 32 = false → (laneSource 0 (.v k) x w).run s = .ok (BitVec.ofNat 256 (Memory.readNat s.mem at' 32), s)) ∧
      (s.bad at' 32 = true → (laneSource 0 (.v k) x w).run s = .error (.trap { cause := cMACHINE_UE }))) ∧
    (∀ r, r = .lit ∨ r = .win ∨ (∃ k, r = .g k) → (laneSource 0 r x w).run s = .ok (ofLanes w
      (List.replicate (256 / max w 1) (x.toNat % 2 ^ w)), s)) ∧
    (∀ (g : BitVec 2) (k : BitVec 8), g ≠ 0 →
      let other := s.core / 4 * 4 + (s.core + g.toNat) % 4
      (k.toNat < (s.coreAt other).vwv.count →
        s.bad (regSpaceKey other (32 * (s.coreAt other).vwv.base + 32 * k.toNat)) 32 = false →
        (laneSource g (.v k) x w).run s = .ok (BitVec.ofNat 256
          (Memory.readNat s.mem (regSpaceKey other (32 * (s.coreAt other).vwv.base + 32 * k.toNat)) 32), s)) ∧
      ((s.coreAt other).vwv.count ≤ k.toNat → (laneSource g (.v k) x w).run s =
        .error (.trap { cause := cVIEW_RANGE, tval := some (BitVec.ofNat 64 k.toNat) }))) ∧
    (∀ e rest, s.ctx.q0 = e :: rest → e.need = 0 → e.err = none → (laneSource 0 (.q 0) x w).run s =
      .ok (e.v, s.modCtx (fun c => { c with q0 := rest }))) ∧
    (∀ e rest, s.ctx.q0 = e :: rest → e.need ≠ 0 → (laneSource 0 (.q 0) x w).run s = .error (.wait .queue true)) ∧
    (∀ k, (writeVector (.v k) v).run s = .ok ((), s.wrNat
      (regSpaceKey s.core (32 * s.here.vwv.base + 32 * k.toNat)) 32 v.toNat)) ∧
    (s.ctx.q1.length < 16 → (writeVector (.q 1) v).run s = .ok ((), s.modCtx (fun c => { c with q1 := c.q1 ++ [v] }))) ∧
    (16 ≤ s.ctx.q1.length → (writeVector (.q 1) v).run s = .error (.wait .queue true)) ∧
    (∀ o : XOps, s.here.busyBytes = [] → s.here.tiles = [] → s.ctx.inLoop = false →
      (passFields o).run s = .ok (o.h, s)) ∧
    (∀ (o : XOps) (l : XLoop) (rest : List XItem), s.here.busyBytes = [] → s.here.tiles = [] → s.ctx.xseq = .loop l :: rest →
      let p : Int := l.pass
      let h := Hd.moved o.h (p * l.sd) (p * l.s1) (p * l.s2) (p * l.s3)
      (s.here.outOfView (o.local h) = none → (passFields o).run s = .ok (h, s)) ∧
      (∀ k, s.here.outOfView (o.local h) = some k → (passFields o).run s =
        .error (.trap { cause := cVIEW_RANGE, tval := some (BitVec.ofNat 64 l.pass) })))

/-- When the X-half runs an entry of VADD, VSUB, VMUL, VMIN, VMAX, VFMA, VFMS, VFNMA, DIV, SQRT, RCP, RSQ, EXP, LOG, SIN, COS, TANH or ERF whose sources are readable and whose conditions are not trapped, every lane of D takes its result, FFLAGS gains the conditions of all lanes, and the entry leaves; a lane with a condition that the slot asked to trap raises FP_NV, or else FP_DZ, before anything is written, with the mask of the lanes as TVAL. (06_numbers.md R151; 06_numbers.md R155; 08_vector.md R197; 08_vector.md R198; 08_vector.md R210; 08_vector.md R211) -/
def Obligations.VectorLanes : Prop :=
  ∀ (i : Instr) (o : XOps) (f : Nat → Nat → Nat → Nat → Nat × Flags) (e : XEntry) (h : Hd) (s sa sb sc sd : State)
    (a b c : V256) (u : Nat → Nat), Claims.lanes i = some (o, f) → Claims.Runs i e s → (passFields o).run s = .ok (h, s) →
    let w := o.fmt1.width
    (laneSource o.g1 h.s1 e.s1 w).run s = .ok (a, sa) → (laneSource o.g2 h.s2 e.s2 w).run sa = .ok (b, sb) →
    (laneSource o.g3 h.s3 e.s3 w).run sb = .ok (c, sc) → (drawStep o.h.rm.toNat (256 / max w 1) w).run sc = .ok (u, sd) →
    let r := (List.range (256 / max w 1)).map (fun k => f (u k) (lane a w k) (lane b w k) (lane c w k))
    (∀ se, Claims.quiet o (r.map (·.2)) → (writeVector h.d (ofLanes w (r.map (·.1)))).run sd = .ok ((), se) →
      exec i s = .next (Claims.ended e (se.modCtx (fun c => { c with fflags := c.fflags ||| orFlags (r.map (·.2)) })))) ∧
    (¬ Claims.quiet o (r.map (·.2)) → ∃ cause, exec i s = .next ((s.releaseHead e).takeTrapX e.pc
      { cause := cause, tval := some (BitVec.ofNat 64 (laneMask 0 (r.map (fun x =>
        (o.tv && x.2.getLsbD 4) || (o.tz && x.2.getLsbD 3))))) }) ∧
      ((∃ x ∈ r, o.tv = true ∧ x.2.getLsbD 4 = true) → cause = cFP_NV) ∧
      ((∀ x ∈ r, o.tv = true → x.2.getLsbD 4 = false) → cause = cFP_DZ))

/-- When the X-half runs an entry whose sources are readable: VABS, VNEG, VSEL, VCLASS and VMULH write each lane's result; VAND, VOR, VXOR, VANDN, VSHL, VSHR, VSRA, VPERM and VCOMP write theirs from two vectors; VZIP and VUNZIP interleave and separate lanes with a selector of 0 or 1 and fault on another; VBCAST, VROT and VMOV write theirs from one; VINS replaces one lane; VEXT and VSIGN write a g register; and a lane index out of range raises ILLEGAL_OPERAND. (08_vector.md R201; 08_vector.md R204; 08_vector.md R205; 08_vector.md R206; 08_vector.md R207; 08_vector.md R208) -/
def Obligations.VectorMoves : Prop :=
  ∀ (e : XEntry) (h : Hd) (s sa sb sc t : State) (a b c : V256),
    (∀ i o f, Claims.maps i = some (o, f) → Claims.Runs i e s → (passFields o).run s = .ok (h, s) →
      let w := o.fmt1.width
      (laneSource o.g1 h.s1 e.s1 w).run s = .ok (a, sa) → (laneSource o.g2 h.s2 e.s2 w).run sa = .ok (b, sb) →
      (laneSource o.g3 h.s3 e.s3 w).run sb = .ok (c, sc) →
      (writeVector h.d (ofLanes w ((List.range (laneCount w)).map (fun k => f (lane a w k) (lane b w k) (lane c w k))))).run
        sc = .ok ((), t) → exec i s = .next (Claims.ended e t)) ∧
    (∀ i o w f, Claims.pairs i = some (o, w, f) → Claims.Runs i e s → (passFields o).run s = .ok (h, s) →
      (laneSource o.g1 h.s1 e.s1 w).run s = .ok (a, sa) → (laneSource o.g2 h.s2 e.s2 w).run sa = .ok (b, sb) →
      (writeVector h.d (f e h a b)).run sb = .ok ((), t) → exec i s = .next (Claims.ended e t)) ∧
    (∀ (i : Instr) (o : XOps), i = .vzip o ∨ i = .vunzip o → Claims.Runs i e s → (passFields o).run s = .ok (h, s) →
      let w := o.fmt1.width
      let n := laneCount w
      (1 < e.s3.toNat → exec i s = .next ((s.releaseHead e).takeTrapX e.pc { cause := cILLEGAL_OPERAND, tval := some e.s3 })) ∧
      (e.s3.toNat ≤ 1 → (laneSource o.g1 h.s1 e.s1 w).run s = .ok (a, sa) → (laneSource o.g2 h.s2 e.s2 w).run sa = .ok (b, sb) →
        (writeVector h.d (ofLanes w ((List.range n).map (fun k =>
          if i = .vzip o then lane (if k % 2 = 0 then a else b) w (e.s3.toNat * (n / 2) + k / 2)
          else lane (if k < n / 2 then a else b) w (2 * (k % (n / 2)) + e.s3.toNat))))).run sb = .ok ((), t) →
        exec i s = .next (Claims.ended e t))) ∧
    (∀ o : XOps, (passFields o).run s = .ok (h, s) →
      let w := o.fmt1.width
      let n := laneCount w
      let k := e.s2.toNat
      let bad := exec e.i s = .next ((s.releaseHead e).takeTrapX e.pc { cause := cILLEGAL_OPERAND, tval := some e.s2 })
      (Claims.Runs (.vbcast o) e s → (laneSource o.g1 h.s1 e.s1 w).run s = .ok (a, sa) →
        (h.s1.isV = true ∨ h.s1.isQ = true → k < n → (writeVector h.d (ofLanes w (List.replicate n (lane a w k)))).run sa =
          .ok ((), t) → exec (.vbcast o) s = .next (Claims.ended e t)) ∧
        (h.s1.isV = true ∨ h.s1.isQ = true → n ≤ k → exec (.vbcast o) s = .next ((s.releaseHead e).takeTrapX e.pc
          { cause := cILLEGAL_OPERAND })) ∧
        (h.s1.isV = false → h.s1.isQ = false → (writeVector h.d a).run sa = .ok ((), t) →
          exec (.vbcast o) s = .next (Claims.ended e t))) ∧
      (Claims.Runs (.vrot o) e s → (laneSource o.g1 h.s1 e.s1 w).run s = .ok (a, sa) →
        (writeVector h.d (ofLanes w ((List.range n).map (fun j => lane a w ((j + k) % n))))).run sa = .ok ((), t) →
        exec (.vrot o) s = .next (Claims.ended e t)) ∧
      (Claims.Runs (.vmov o) e s → (laneSource o.g1 h.s1 e.s1 64).run s = .ok (a, sa) → (writeVector h.d a).run sa = .ok ((), t) →
        exec (.vmov o) s = .next (Claims.ended e t)) ∧
      (Claims.Runs (.vins o) e s → (n ≤ k → bad) ∧
        (k < n → s.bad (regSpaceKey s.core (s.here.vOff h.d.index)) 32 = false →
          (writeVector h.d (BitVec.ofNat 256 (putBits (s.readV s.core h.d.index).toNat (w * k) w (e.s1.toNat % 2 ^ w)))).run
          s = .ok ((), t) → exec (.vins o) s = .next (Claims.ended e t))) ∧
      (Claims.Runs (.vext o) e s → s.ctx.inLoop = false → (n ≤ k → bad) ∧
        (k < n → (laneSource o.g1 h.s1 e.s1 w).run s = .ok (a, sa) → sa.ctx.inLoop = false → exec (.vext o) s =
          .next (Claims.ended e (sa.modCtx (·.wg h.d.index (BitVec.ofInt 64 (laneInt o.fmt1 (lane a w k)))))))) ∧
      (Claims.Runs (.vsign o) e s → (laneSource o.g1 h.s1 e.s1 w).run s = .ok (a, sa) → sa.ctx.inLoop = false →
        exec (.vsign o) s = .next (Claims.ended e (sa.modCtx (·.wg h.d.index (BitVec.ofNat 64 (packLanes 1
          ((List.range n).map (fun j => lane a w j / 2 ^ (w - 1))))))))))

/-- When the X-half runs an entry whose sources are readable and whose conditions are not trapped: VCMP writes all ones or zeros to each lane and raises the comparison's conditions; VCVT converts lane by lane from the part that its scalar names, raises the conditions and sets VSAT for a clamped lane, and a part out of range raises ILLEGAL_OPERAND; VRSUM, VRMAX and VRMIN write lane 0 with the result of the binary tree; VADDS and VSUBS clamp each lane and set VSAT when one clamped; VRAND writes the lanes of the next block of the context's stream. (06_numbers.md R148; 08_vector.md R198; 08_vector.md R199; 08_vector.md R200; 08_vector.md R202; 08_vector.md R203; 08_vector.md R209) -/
def Obligations.VectorConversions : Prop :=
  ∀ (o : XOps) (e : XEntry) (h : Hd) (s sa sb sc t : State) (a b : V256) (u : Nat → Nat),
    (passFields o).run s = .ok (h, s) →
    let w := o.fmt1.width
    let flagged (f : Flags) : State := t.modCtx (fun c => { c with fflags := c.fflags ||| f })
    (let r := (List.range (laneCount w)).map (fun k => vcmpLane o.fmt1 o.h.rm.toNat (lane a w k) (lane b w k))
     Claims.Runs (.vcmp o) e s → (laneSource o.g1 h.s1 e.s1 w).run s = .ok (a, sa) → (laneSource o.g2 h.s2 e.s2 w).run sa = .ok (b, sb) →
      Claims.quiet o (r.map (·.2)) →
      (writeVector h.d (ofLanes w (r.map (fun x => if x.1 then 2 ^ w - 1 else 0)))).run sb = .ok ((), t) →
      exec (.vcmp o) s = .next (Claims.ended e (flagged (orFlags (r.map (·.2)))))) ∧
    (let ws := o.fmt2.width
     let n := laneCount (max w ws)
     let part := e.s2.toNat
     let r := (List.range n).map (fun k =>
       vcvtElem o.fmt1 o.fmt2 o.h.rm.toNat (u k) (lane a ws (if ws < w then part * n + k else k)))
     let v := ofLanes w (List.replicate (if w < ws then part * n else 0) 0 ++ r.map (·.1))
     Claims.Runs (.vcvt o) e s →
      (max w ws / min w ws ≤ part → exec (.vcvt o) s = .next
        ((s.releaseHead e).takeTrapX e.pc { cause := cILLEGAL_OPERAND, tval := some e.s2 })) ∧
      (part < max w ws / min w ws → (laneSource o.g1 h.s1 e.s1 ws).run s = .ok (a, sa) →
        (drawStep o.h.rm.toNat n w).run sa = .ok (u, sb) → Claims.quiet o (r.map (·.2.1)) →
        (writeVector h.d v).run sb = .ok ((), t) → exec (.vcvt o) s = .next (Claims.ended e
          ((flagged (orFlags (r.map (·.2.1)))).modCtx (fun c => { c with vsat := c.vsat || r.any (·.2.2) }))))) ∧
    (∀ i f, (i = .vrsum o ∧ f = fun u a b => addF o.fmt1 o.h.rm.toNat u a b) ∨
        (i = .vrmax o ∧ f = fun _ a b => minmaxF o.fmt1 true a b) ∨ (i = .vrmin o ∧ f = fun _ a b => minmaxF o.fmt1 false a b) →
      ∀ x fl, Claims.Runs i e s → (laneSource o.g1 h.s1 e.s1 w).run s = .ok (a, sa) →
      (reduceTree o.h.rm.toNat w f 5 ((List.range (laneCount w)).map (fun k => (lane a w k, [0])))).run sa = .ok ([(x, fl)], sb) →
      Claims.quiet o fl → (writeVector h.d (ofLanes w [x])).run sb = .ok ((), t) →
      exec i s = .next (Claims.ended e (flagged (orFlags fl)))) ∧
    (∀ i g, (i = .vadds o ∧ g = fun x y : Int => x + y) ∨ (i = .vsubs o ∧ g = fun x y : Int => x - y) →
      let r := (List.range (laneCount w)).map (fun k =>
        clampInt o.fmt1 (g (laneInt o.fmt1 (lane a w k)) (laneInt o.fmt1 (lane b w k))))
      Claims.Runs i e s → (laneSource o.g1 h.s1 e.s1 w).run s = .ok (a, sa) → (laneSource o.g2 h.s2 e.s2 w).run sa = .ok (b, sb) →
      (writeVector h.d (ofLanes w (r.map (·.1)))).run sb = .ok ((), t) →
      exec i s = .next (Claims.ended e (t.modCtx (fun c => { c with vsat := c.vsat || r.any (·.2) })))) ∧
    (Claims.Runs (.vrand o) e s → s.ctx.rngctr.toNat + 1 < 2 ^ 64 →
      sc = s.modCtx (fun c => { c with rngctr := s.ctx.rngctr + 1 }) →
      (writeVector h.d (randLanes o.fmt1 (randBlock s.ctx.rngctr.toNat (sc.effSeed sc.ctx.rcb) sc.here.lcore
        sc.ctx.rngstr.toNat))).run sc = .ok ((), t) → exec (.vrand o) s = .next (Claims.ended e t)) ∧
    (Claims.Runs (.vrand o) e s → s.ctx.rngctr.toNat + 1 = 2 ^ 64 → exec (.vrand o) s = .next
      ((s.releaseHead e).takeTrapX e.pc { cause := cRNG_WRAP }))


/-! ### Matrices and tiles -/

/-- A matrix entry of instruction i starts outside a loop, with the readers or table entries its dispatch took. -/
structure Claims.Starts (i : Instr) (e : XEntry) (s : State) : Prop extends Claims.Runs i e s where
  flat : s.ctx.inLoop = false
  kept : e.held ≠ [] ∨ e.taken ≠ []

/-- The granules of register-space ranges are free, no tile over them is being filled or, for a write, read by others, and
what is read is sound (R120, R217, R386). -/
abbrev Claims.free (s : State) (reads writes : List (Nat × Nat)) : Prop :=
  (∀ r ∈ reads ++ writes, ∀ b ∈ s.here.busyBytes, overlap r.1 r.2 b.1 b.2 = false) ∧
  (∀ r ∈ reads, s.here.poolWaits 0 r.1 r.2 false = false) ∧
  (∀ r ∈ writes, s.here.poolWaits 0 r.1 r.2 true s.ctx.heldTiles = false) ∧
  ∀ r ∈ reads, s.bad (regSpaceKey s.core r.1) r.2 = false

/-- The bytes of accumulator k (R102). -/
def Claims.acc (s : State) (k : Nat) : List (Nat × Nat) := [(32 * s.here.vwz.base + 0x2000 * k, 0x2000)]

/-- The stream has n counter values left for .rsr rounding (R144). -/
def Claims.stream (s : State) (rm : BitVec 3) (n : Nat) : Prop := rm = 5 → s.ctx.rngctr.toNat + n < 2 ^ 64

/-- Tile n is entry t, and a whole-tile writer dispatched as number seq may take it (R119). -/
structure Claims.Takes (s : State) (own : Option Nat) (n : Nat) (t : Tile) (seq : Nat) : Prop where
  valid : tfind s.here.tiles n = some t
  still : s.here.tileMoving t = false
  idle : t.state = .empty ∨ t.state = .ready ∧ t.readers = 0
  first : ∀ w ∈ s.writers s.core own, w.1 = n → seq ≤ w.2

/-- Tile n is being filled. -/
def Claims.filling (s : State) (n : Nat) : State := s.modHere (·.setTile n (fun t => { t with state := .filling, err := none }))

/-- A matrix entry e of the context heads the sequencer and has started (R217). -/
structure Claims.Completes (e : XEntry) (s : State) : Prop where
  busy : s.ctx.xbusy = true
  head : s.ctx.xhead = some e
  flat : s.ctx.inLoop = false

/-- A completed entry releases its readers and leaves (R213). -/
def Claims.left (e : XEntry) (s : State) : State := (s.modHere (·.dropReaders e.held)).modCtx Ctx.popEntry

/-- The elements of accumulator k, in row-major order with their conditions, are written, and the entry of ZFLAGS gains
NV, OF and NX (R152, R153). -/
def Claims.accumulated (s : State) (k cols : Nat) (r : List (Nat × Flags)) : State :=
  (r.zipIdx.foldl (fun s p => s.writeZ s.core k (p.2 / cols) (p.2 % cols) p.1.1) s).modHere
    (·.orZ k (zBits (orFlags (r.map (·.2)))))

/-- When the X-half runs the head entry outside a loop: MMA, MMA.S and DMMA start when the array is idle, the accumulator is free, the stream has counters and (for MMA.S without LAX) no group of four has more than two non-zero elements; MSCALE, MZERO and MFLAGS when the accumulators are free; MXPOSE and MCVT when their destination tile, of the right format, can be taken, which then is FILLING; MDRAIN to another core posts 32 rows of 256 bytes under the table entries it took, and to its own core writes them at once. The entry keeps the head until it completes. (05_core_pool.md R119; 09_matrix.md R216; 09_matrix.md R217; 09_matrix.md R219; 09_matrix.md R220; 09_matrix.md R221; 09_matrix.md R222; 09_matrix.md R223; 09_matrix.md R225; 09_matrix.md R226) -/
def Obligations.MatrixStart : Prop :=
  ∀ (o : TOps) (e : XEntry) (s : State) (t d : Tile),
    (∀ i f, (i = .mma o ∧ f = o.fmt1) ∨ (i = .mmaS o ∧ f = o.fmt1) ∨ (i = .dmma o ∧ f = .f64) → Claims.Starts i e s →
      s.here.arrayBusy = false → Claims.free s (Claims.acc s o.h.d.index ++ s.here.tileSpan o.h.s1.index) (Claims.acc s o.h.d.index) →
      s.tileBad o.h.s1.index = false → s.tileBad o.h.s2.index = false →
      Claims.stream s o.h.rm (if f = .f32 ∨ f = .f64 then 8192 else 256) →
      (i = .mmaS o → o.opt.getLsbD 0 = false → (sparseCheck o.h f e.scales).run s = .ok ((), s)) →
      exec i s = .next (Claims.started s)) ∧
    (Claims.Runs (.mscale o) e s → s.ctx.inLoop = false →
      Claims.free s (Claims.acc s o.h.s1.index ++ if o.opt.getLsbD 1 then [] else Claims.acc s o.h.d.index)
        (Claims.acc s o.h.d.index) → Claims.stream s o.h.rm 256 → exec (.mscale o) s = .next (Claims.started s)) ∧
    (Claims.Runs (.mzero o) e s → s.ctx.inLoop = false → Claims.free s [] (Claims.acc s o.h.d.index) →
      exec (.mzero o) s = .next (Claims.started s)) ∧
    (Claims.Runs (.mflags o) e s → s.ctx.inLoop = false →
      Claims.free s [] (Claims.acc s o.h.d.index) →
      (o.opt.getLsbD 0 = true → s.ctx.q1.length < 16) → exec (.mflags o) s = .next (Claims.started s)) ∧
    (Claims.Starts (.mxpose o) e s → tfind s.here.tiles o.h.s1.index = some t → s.here.tileMoving t = false →
      Claims.Takes s (some (s.fc % 4)) o.h.d.index d e.seq → d.role ≠ .csm → d.wide = false → d.fmt = t.fmt →
      Claims.free s t.span d.span → s.tileBad o.h.s1.index = false →
      exec (.mxpose o) s = .next (Claims.started (Claims.filling s o.h.d.index))) ∧
    (∀ p, Claims.Runs (.mcvt o) e s → s.ctx.inLoop = false → Claims.Takes s (some (s.fc % 4)) o.h.d.index d e.seq → d.fmt = o.fmt1 →
      mcvtPlan s.here.vwz.shape (if o.opt.getLsbD 0 then 1 else 0) d = some p → Claims.free s (Claims.acc s o.h.s1.index) d.span →
      Claims.stream s o.h.rm (((if s.here.vwz.shape = 0 ∧ (d.role = .csm ∨ d.wide = true) then 2048 else 1024) *
        o.fmt1.width + 255) / 256) →
      exec (.mcvt o) s = .next (Claims.started (Claims.filling s o.h.d.index))) ∧
    (∀ u, Claims.Starts (.mdrain o) e s → s.acqOut = false → Claims.free s (Claims.acc s o.h.s1.index) [] →
      (gaCore e.s2.toNat = s.core → (drainSelf o.h.s1.index e.s2.toNat 32).run s = .ok ((), u) →
        exec (.mdrain o) s = .next (Claims.started u)) ∧
      (gaCore e.s2.toNat ≠ s.core → exec (.mdrain o) s = .next (Claims.started
        ((e.taken.take 32).zipIdx.foldl (fun s p => s.launchTaken p.1 (newTxn s (.store (s.zRow o.h.s1.index p.2)) .pool
          (e.s2.toNat + 256 * p.2) 256) (countFor s.core (e.s2.toNat + 256 * p.2))) s))))

/-- MATRIX_ENTRY_COMPLETE of a started entry that no tile over its accumulator holds back releases its readers and takes it out of the sequencer, after: a narrow MMA or MMA.S has made each of the 32 × 64 elements the sum of its old value and 32 products, exact and rounded once; a wide MMA or DMMA the result of 32 fused steps in ascending k; MSCALE its scaled elements; MZERO zeros and a zero ZFLAGS entry; MFLAGS pushes the entry when asked and clears the bits of its mask; MXPOSE the transpose and MCVT the converted elements, their tile then READY. (06_numbers.md R145; 06_numbers.md R146; 06_numbers.md R153; 09_matrix.md R217; 09_matrix.md R218; 09_matrix.md R220; 09_matrix.md R221; 09_matrix.md R222; 09_matrix.md R225; 09_matrix.md R226) -/
def Obligations.MatrixComplete : Prop :=
  ∀ (o : TOps) (e : XEntry) (s t : State) (core fc : Nat) (a b : Tile) (u : Nat → Nat) (v : State), t = s.at core fc true →
    Claims.Completes e t → t.resultWaits e = false →
    let k := o.h.d.index
    let complete := exec (.matrixEntryComplete core fc) s
    (e.i = .mma o ∨ e.i = .mmaS o → o.fmt1 ≠ .f32 → o.fmt1 ≠ .f64 → tfind t.here.tiles o.h.s1.index = some a →
      tfind t.here.tiles o.h.s2.index = some b → (drawStep o.h.rm.toNat 2048 32).run t = .ok (u, v) →
      let A := lineValues t t.core a o.fmt1 e.scales 32 0
      let B := lineValues t t.core b o.fmt1 (e.scales.drop 32) 64 0
      complete = .next (Claims.left e (Claims.accumulated v k 64 ((List.range 2048).map (fun n =>
        roundSum .f32 o.h.rm.toNat (u n) ((decodeF .f32 (t.readZ t.core k (n / 64) (n % 64))).term ::
          List.zipWith mulFV (A.getD (n / 64) []) (B.getD (n % 64) []))))))) ∧
    (∀ f half r, ((e.i = .mma o ∨ e.i = .mmaS o) ∧ f = o.fmt1 ∧ half = 0 ∧ f = .f32) ∨
        (e.i = .dmma o ∧ f = .f64 ∧ half = if o.opt.getLsbD 0 then 1 else 0) →
      tfind t.here.tiles o.h.s1.index = some a → tfind t.here.tiles o.h.s2.index = some b →
      let cols := if f = .f64 then 32 else 64
      (fusedProduct f o.h.rm.toNat cols (lineValues t t.core a f (if f = .f64 then [] else e.scales) 32 0)
        (lineValues t t.core b f (if f = .f64 then [] else e.scales.drop 32) cols (32 * half)) 32 0
        ((rowMajor 32 cols).map (fun p => (t.readZ t.core k p.1 p.2, 0)))).run t = .ok (r, v) →
      complete = .next (Claims.left e (Claims.accumulated v k cols r))) ∧
    (e.i = .mscale o → (scaleAccumulator o o.h e).run t = .ok ((), v) → complete = .next (Claims.left e v)) ∧
    (e.i = .mzero o → complete = .next (Claims.left e ((Claims.accumulated t k (if t.here.vwz.shape = 0 then 64 else 32)
      (List.replicate (32 * if t.here.vwz.shape = 0 then 64 else 32) (0, 0))).modHere (·.setZEntry k 0)))) ∧
    (e.i = .mflags o → t.ctx.q1.length < 16 →
      let old := bits t.here.zflags.toNat (4 * (k % 16) + 3) (4 * (k % 16))
      let pushed := if o.opt.getLsbD 0 then t.modCtx (fun c => { c with q1 := c.q1 ++ [BitVec.ofNat 256 old] }) else t
      complete = .next (Claims.left e (pushed.modHere (·.setZEntry k (Nat.land old (15 - o.w.toNat % 16)))))) ∧
    (e.i = .mcvt o → (convertAccumulator o o.h).run t = .ok ((), v) → complete = .next (Claims.left e v)) ∧
    (e.i = .mxpose o → tfind t.here.tiles o.h.s1.index = some a → tfind t.here.tiles k = some b →
      complete = .next (Claims.left e ((((List.range 1024).map (fun n => (n / 32, n % 32, t.readTile t.core a (n % 32) (n / 32)))).foldl
        (fun s x => s.writeTile t.core b x.1 x.2.1 x.2.2) t).modHere (·.setTile k (fun t => { t with state := .ready })))))

/-- MLOAD whose rows translate and whose tile can be taken makes the tile FILLING and its rows under way, and leaves; the last row that lands makes the tile READY, and a data error makes it EMPTY with the cause and the row's address. MSTORE posts the rows of a READY tile, which is DRAINING until they have been read. MDRAIN's wake sends the mailbox entry when no row was refused, and else releases its place. (09_matrix.md R223; 09_matrix.md R224; 05_core_pool.md R119) -/
def Obligations.TileTransfers : Prop :=
  ∀ (o : TOps) (e : XEntry) (s s1 : State) (t : Tile) (rows : List (List Part)) (core fc n : Nat),
    (Claims.Runs (.mload o) e s → s.ctx.inLoop = false → tfind s.here.tiles o.h.d.index = some t → s.here.tileMoving t = false →
      (afterAccesses e.seq).run s = .ok ((), s) →
      (allRows .r e.s1.toNat e.s2 t.memRow 32 0).run s = .ok (rows, s1) → Claims.free s1 [] t.span → Claims.Takes s1 (some (s1.fc % 4)) o.h.d.index t e.seq →
      exec (.mload o) s = .next (Claims.ended e ((Claims.filling s1 o.h.d.index).modHere (fun c => { c with
        fills := c.fills ++ [⟨e.seq, o.h.d.index, s1.fc % 4, s1.ctx.rcb, rows.flatten, s1.ctx.cts⟩] })))) ∧
    (Claims.Starts (.mstore o) e s → tfind s.here.tiles o.h.s3.index = some t → s.here.tileMoving t = false →
      (afterAccesses e.seq).run s = .ok ((), s) →
      (allRows .w e.s1.toNat e.s2 t.memRow 32 0).run s = .ok (rows, s1) → s1.ctx.xhead = some e → t.state = .ready →
      Claims.free s1 t.span [] → s1.tileBad o.h.s3.index = false →
      exec (.mstore o) s = .next (Claims.started ((e.taken.zip rows).foldl (fun s p => s.postRow t p.1 p.2)
        (s1.modHere (·.setTile o.h.s3.index (fun t => { t with state := .draining })))))) ∧
    (∀ f : Fill, (s.coreAt core).fills.find? (·.tile == n) = some f →
      let ending (s : State) (g : Tile → Tile) : State :=
        s.modCore core (fun c => ({ c with fills := c.fills.filter (·.tile != n) } : Core).setTile n g)
      let s' : State := { s with fresh := s.fresh + 1 }
      (f.todo = [] → exec (.mloadFillComplete core n) s = .next (ending s (fun t => { t with state := .ready }))) ∧
      (∀ p x cts, f.todo = [p] → s'.touch ⟨f.id, core, f.fc⟩ f.rcb f.cts p.phys p.size (fun _ => none) = .ok (s1, x, cts) →
        tfind ((s1.modCtxOf core f.fc (fun c => { c with cts := max c.cts (cts.getD 0) })).coreAt core).tiles n = some t →
        exec (.mloadFillComplete core n) s = .next (ending ((s1.modCtxOf core f.fc (fun c => { c with cts := max c.cts (cts.getD 0) })).landRow
          core t p.row p.off (bytesOf p.size x)) (fun t => { t with state := .ready }))) ∧
      (∀ p (tr : Trap), f.todo = [p] →
        s'.touch ⟨f.id, core, f.fc⟩ f.rcb f.cts p.phys p.size (fun _ => none) = .error (.trap tr) →
        exec (.mloadFillComplete core n) s = .next (ending s' (fun t =>
          { t with state := .empty, err := some (tr.cause, BitVec.ofNat 64 p.ea) })))) ∧
    (Claims.Completes e (s.at core fc true) → e.i = .mstore o → exec (.mstoreDrainComplete core fc) s = .next
      (((s.at core fc true).modHere (fun c => (c.dropReaders e.held).setTile o.h.s3.index
        (fun t => { t with state := .ready }))).modCtx Ctx.popEntry)) ∧
    (Claims.Completes e (s.at core fc true) → e.i = .mdrain o → (∀ id ∈ e.taken, tfind s.txns id = none) →
      let t := s.at core fc true
      (e.refused = true → exec (.mdrainWake core fc) s =
        .next ((t.modCtx (·.releaseTaken [e.taken.getLastD 0])).modCtx Ctx.popEntry)) ∧
      (e.refused = false →
        let m := o.w.toNat % 32
        let z := Nat.lor (t.here.zEntry o.h.s1.index) (o.h.s1.index * 2 ^ 4 + t.here.vwz.shape * 2 ^ 8)
        let name := poolAddr 2 (gaCore e.s2.toNat) m
        exec (.mdrainWake core fc) s = .next ((t.launchTaken (e.taken.getLastD 0) (newTxn t (.message (messageEntry
          (entryWord0 t.core t.fc 2 m) [e.s2, BitVec.ofNat 64 z])) .mailbox name 64) (countFor t.core name)).modCtx Ctx.popEntry)))


/-! ### Graph actors -/

/-- A graph entry runs outside a loop, and the v registers of its operands (first register and number) are free (R217,
R237). -/
structure Claims.GraphRuns (i : Instr) (e : XEntry) (s : State) (reads writes : List (Reg × Nat)) : Prop
    extends Claims.Runs i e s where
  flat : s.ctx.inLoop = false
  free : Claims.free s (reads.map (fun p => (32 * s.here.vwv.base + 32 * p.1.index, 32 * p.2)))
    (writes.map (fun p => (32 * s.here.vwv.base + 32 * p.1.index, 32 * p.2)))

/-- n bytes go to the v registers from register k on (R233). -/
def Claims.toV (s : State) (k n x : Nat) : State :=
  s.wrNat (regSpaceKey s.core (32 * s.here.vwv.base + 32 * k)) n x

/-- FFLAGS gains the conditions of elements (R408). -/
def Claims.raised (s : State) (l : List (Nat × Flags)) : State :=
  s.modCtx (fun c => { c with fflags := c.fflags ||| orFlags (l.map (·.2)) })

/-- When the X-half runs the entry of a graph actor of the right class whose checks pass and whose conditions are not trapped: GBEL writes the sum of PRIOR and the live slots to D and to BELIEF; GCOMB of a variable the sum without slot k, and of a factor the weighted JOINT with the live slots of the other positions; GMARG the message to position k after eliminating the other indices, and a message of zeros when a pivot is not positive; GDAMP the damped elements; GMEAN the mean and covariance; each raises the conditions of its elements. (10_orrery.md R237; 10_orrery.md R238; 10_orrery.md R239; 10_orrery.md R240; 10_orrery.md R243) -/
def Obligations.GraphBeliefs : Prop :=
  ∀ (o : XOps) (e : XEntry) (s s1 s2 t : State) (b : Bound) (g : Graph) (acc : List (Nat × Flags)),
    let f := o.fmt1
    s.ownBound = some b → b.isGraph = true → (graphForm f e.seq).run s = .ok (g, s1) →
    (Claims.GraphRuns (.gbel o) e s [] [(o.h.d, 4)] → e.s1 = b.d.state → g.isVar = true →
      (sumVariable g f o.h.rm.toNat 256).run s1 = .ok (acc, s2) → Claims.quiet o (acc.map (·.2)) →
      let img := mkImage f (g.dim 0) (acc.map (·.1))
      (storeWords (g.st + 0xC0) ((List.range 16).map (fun k => bits img (64 * k + 63) (64 * k)))).run
        (Claims.toV s2 o.h.d.index 128 img) = .ok ((), t) →
      exec (.gbel o) s = .next (Claims.ended e (Claims.raised t acc))) ∧
    (Claims.GraphRuns (.gcomb o) e s [] [(o.h.d, 4)] → b.d.cls = 1 → e.s1 = b.d.state → g.isVar = true → o.w.toNat < g.slots →
      (sumVariable g f o.h.rm.toNat o.w.toNat).run s1 = .ok (acc, s2) → Claims.quiet o (acc.map (·.2)) →
      exec (.gcomb o) s = .next (Claims.ended e (Claims.raised (Claims.toV s2 o.h.d.index 128
        (mkImage f (g.dim 0) (acc.map (·.1)))) acc))) ∧
    (Claims.GraphRuns (.gcomb o) e s [] [(o.h.d, 16)] → b.d.cls = 2 → e.s1 = b.d.state → g.isVar = false →
      o.w.toNat < g.slots ∨ o.w.toNat = 255 → g.t2 % 2 ^ 56 = 0 →
      (sumFactor g f o.h.rm.toNat o.w.toNat).run s1 = .ok (acc, s2) → Claims.quiet o (acc.map (·.2)) →
      exec (.gcomb o) s = .next (Claims.ended e (Claims.raised (Claims.toV s2 o.h.d.index 512
        (mkImage f g.joint (acc.map (·.1)))) acc))) ∧
    (Claims.GraphRuns (.gmarg o) e s [(o.h.s1, 16)] [(o.h.d, 4)] → g.isVar = false → o.w.toNat < g.slots →
      let d := g.joint
      let k := o.w.toNat
      let img := s1.readImage o.h.s1.index 512
      let r := eliminateAll f o.h.rm.toNat d
        ((List.range d).filter (fun i => decide (i < fttOff g.t0 k) || decide (fttOff g.t0 k + g.dim k ≤ i))) (List.range d)
        ((imageElems f.width d img).map (fun x => (x, 0)))
      imageFits f d img = true → Claims.quiet o (r.1.map (·.2)) →
      exec (.gmarg o) s = .next (Claims.ended e (Claims.raised (Claims.toV s1 o.h.d.index 128 (mkImage f (g.dim k)
        (if r.2 then blockOf d (fttOff g.t0 k) (g.dim k) r.1 else List.replicate (elemCount (g.dim k)) 0))) r.1))) ∧
    (∀ k old, Claims.GraphRuns (.gdamp o) e s [(o.h.s1, 4)] [(o.h.d, 4)] → (outSlotAt g f e.s2).run s1 = .ok ((k, old), s2) →
      let new := s2.readImage o.h.s1.index 128
      let r := (List.range (elemCount (g.dim k))).map (fun c =>
        let v := imageElem f.width new c
        if g.beta f % 2 ^ (f.width - 1) = 0 then (v, (0 : Flags))
        else
          let t := subF f o.h.rm.toNat 0 (imageElem f.width old c) v
          let x := fmaF f o.h.rm.toNat 0 false false (g.beta f) t.1 v
          (x.1, t.2 ||| x.2))
      imageFits f (g.dim k) new = true → Claims.quiet o (r.map (·.2)) →
      exec (.gdamp o) s = .next (Claims.ended e (Claims.raised (Claims.toV s2 o.h.d.index 128
        (mkImage f (g.dim k) (r.map (·.1)))) r))) ∧
    (Claims.GraphRuns (.gmean o) e s [(o.h.s1, 4)] [(o.h.d, 4)] →
      let img := s1.readImage o.h.s1.index 128
      let d := hdrDim img
      let r := meanOf f o.h.rm.toNat d ((imageElems f.width d img).map (fun x => (x, 0)))
      imageFits f d img = true → (g.isVar = true → d = g.dim 0) →
      (g.isVar = false → ∃ k < g.arity, g.dim k = d) → Claims.quiet o (r.map (·.2)) →
      exec (.gmean o) s = .next (Claims.ended e (Claims.raised (Claims.toV s1 o.h.d.index 128
        (mkImage f d (r.map (·.1)))) r)))

/-- GRES writes the residual of the message against its out-slot to RES and to D, and when it exceeds EPS raises CVMAX and CVCNT and resets the age. GSEND of a closed out-slot has no effect; else it writes the out-slot with VER one higher and the message, and to an actor of its own core the message arrives, and to any other it is posted, INFL one higher when the residual exceeds EPS; it arrives once its actor is bound, and of a region that has ended it is refused (log entry 133). A message that arrives at an open in-slot with its EDGE writes bytes 0 to 119, raises the firing debt and PRES, and resets the age when its RES exceeds EPS; any other is discarded and DISC counts it. (10_orrery.md R229; 10_orrery.md R236; 10_orrery.md R241; 10_orrery.md R242; 10_orrery.md R246) -/
def Obligations.GraphMessages : Prop :=
  ∀ (o : XOps) (e : XEntry) (s s1 s2 s3 s4 : State) (b : Bound) (g : Graph) (k old : Nat),
    let f := o.fmt1
    s.ownBound = some b → b.isGraph = true → (graphForm f e.seq).run s = .ok (g, s1) →
    (∀ p, Claims.GraphRuns (.gres o) e s [(o.h.s1, 4)] [] → (outSlotAt g f e.s2).run s1 = .ok ((k, old), s2) →
      imageFits f (g.dim k) (s2.readImage o.h.s1.index 128) = true →
      let r := residual f (g.dim k) (s2.readImage o.h.s1.index 128) old
      (resolve .w (e.s2.toNat + 116) 4).run s2 = .ok (p, s3) → (writeNow p 4 r).run s3 = .ok ((), s4) → s4.ctx.inLoop = false →
      exec (.gres o) s = .next (Claims.ended e ((s4.modCtx (·.wg o.h.d.index (BitVec.ofNat 64 r))).modHere (fun c =>
        if exceeds r c.cveps.toNat then ({ c with
          cvmax := BitVec.ofNat 32 (maxF32 c.cvmax.toNat r)
          cvcnt := BitVec.ofNat 32 (min (c.cvcnt.toNat + 1) 0xFFFFFFFF) } : Core).ageReset s4.now else c)))) ∧
    (Claims.GraphRuns (.gsend o) e s [(o.h.s2, 4)] [] → (outSlotAt g f e.s1).run s1 = .ok ((k, old), s2) →
      imageFits f (g.dim k) (s2.readImage o.h.s2.index 128) = true →
      (bit old 37 = true → exec (.gsend o) s = .next (Claims.ended e s2)) ∧
      (let img := sentImage f (g.dim k) old (s2.readImage o.h.s2.index 128)
       let act := bits old 1015 992
       let slot := bits old 967 960
       let above := exceeds (bits img 959 928) s2.here.cveps.toNat
       bit old 37 = false → s2.edgeBusy s2.nextId g.b.rcb act slot = false →
        (storeWords e.s1.toNat ((List.range 15).map (fun k => bits img (64 * k + 63) (64 * k)))).run s2 = .ok ((), s3) →
        (∀ x, s2.findActor g.b.rcb act = some (s2.core, x) → s2.arrivalWaits s2.core x.2 slot = false →
          exec (.gsend o) s = .next (Claims.ended e (s3.arrive g.b.rcb act slot (bytesOf 120 img)))) ∧
        (∀ core count, (∃ x, s2.findActor g.b.rcb act = some (core, x) ∧ core ≠ s2.core ∧
              count = countFor s2.core (poolAddr 2 core 0)) ∨
            s2.findActor g.b.rcb act = none ∧ core = s2.core ∧ count = .pkg →
          s3.ctx.posted.length + 1 ≤ 64 → exec (.gsend o) s = .next (Claims.ended e (
            let u := s3.launch { newTxn s3 (.slot g.b.rcb act slot (bytesOf 120 img) above) .pool (poolAddr 2 core 0) 120 with
              count := some count }
            if above then u.modHere (fun c => { c with infl := c.infl + 1 }) else u))))) ∧
    (∀ (id : Nat) (x : Txn) (rcb act slot : Nat) (msg : List Byte) (above : Bool), tfind s.txns id = some x → x.stage = .travelling →
      x.op = .slot rcb act slot msg above → s.edgeBusy id rcb act slot = false →
      (∀ core n b, s.findActor rcb act = some (core, n, b) → s.arrivalWaits core b slot = false →
        exec (.gsendArrival id) s = .next ((s.arrive rcb act slot msg).setTxn id { x with stage := .done })) ∧
      (s.findActor rcb act = none → exec (.gsendArrival id) s = .next
        (if s.isGone rcb then s.setTxn id { x with stage := .failed cPERM_DENIED } else s))) ∧
    (∀ (rcb act slot core n : Nat) (t : Bound) (msg : List Byte), s.findActor rcb act = some (core, n, t) → t.isGraph = true →
      slot < t.depth →
      let h := s.rdNat (t.slotAt core slot) 8
      let res := natOfBytes ((msg.drop 116).take 4)
      (bit h 38 = true → bit h 37 = false → bits h 15 0 = bits (natOfBytes (msg.take 8)) 15 0 → ∃ u : State,
        s.arrive rcb act slot msg = (if exceeds res (u.coreAt core).cveps.toNat then u.modCore core (·.ageReset u.now) else u) ∧
        u = ((s.wrBytes (t.slotAt core slot) (msg.take 120)).setBound core n (fun b =>
          { b with pres := (minmaxF .f32 true b.pres res).1 })).raiseDebt core n) ∧
      (bit h 38 = false ∨ bit h 37 = true ∨ bits h 15 0 ≠ bits (natOfBytes (msg.take 8)) 15 0 →
        s.arrive rcb act slot msg = s.pokeVirt core t.rcb (t.d.state.toNat + 0x10) 4
          (min (s.peekVirt core t.rcb (t.d.state.toNat + 0x10) % 2 ^ 32 + 1) 0xFFFFFFFF)))

/-- GATT and GDET of an aligned record write D with the code of the checks of R235, and with code 0 attach or detach the edge; GCUT writes the cut number and 1 when a cut is active, 2 without graph actors, and else starts the cut; GCUTRD writes the number and code of an actor, and of a recorded variable stores the four blocks of SNAP in order, waiting where one must; CVRD writes the chosen word and clears CVMAX and CVCNT when asked. A cut start and a marker reach their actors, and a marker of an actor that is not bound waits, or is dropped with its region (log entry 133), on closed edges too (log entry 24). A quiet pass with a core not quiet clears CONV, and the second with the same EPOCHs sets it and counts it. (10_orrery.md R235; 10_orrery.md R247; 10_orrery.md R248; 10_orrery.md R250; 10_orrery.md R251; 10_orrery.md R253) -/
def Obligations.GraphEdges : Prop :=
  ∀ (o : XOps) (s s1 : State) (w : List Nat),
    let gr := s.ctx.rg o.h.s1.index
    (∀ i a, (i = .gatt o ∧ a = true) ∨ (i = .gdet o ∧ a = false) → Issues i o.h s →
      (gr.toNat % 8 ≠ 0 → exec i s = .next (s.takeTrapA { cause := cMISALIGNED, tval := some gr })) ∧
      (gr.toNat % 8 = 0 → (loadWords gr.toNat 4).run s = .ok (w, s1) →
        (∀ code, s1.edgeCheck s1.ctx.rcb (edgeRec w) a = (code, none) →
          exec i s = .next ((s1.modCtx (·.wg o.h.d.index (BitVec.ofNat 64 code))).retired i)) ∧
        (∀ code x, s1.edgeCheck s1.ctx.rcb (edgeRec w) a = (code, some x) →
          s1.arrivalWaits x.v.1 x.v.2.2 (edgeRec w).vslot = false → s1.arrivalWaits x.f.1 x.f.2.2 (edgeRec w).pos = false →
          exec i s = .next (((if a then s1.attach s1.ctx.rcb (edgeRec w) x else s1.detach s1.ctx.rcb (edgeRec w) x).modCtx
            (·.wg o.h.d.index (BitVec.ofNat 64 code))).retired i)))) ∧
    (Issues (.gcut o) o.h s → bits gr.toNat 51 48 = 1 →
      let r := s.rcut s.ctx.rcb
      (bit r 8 = true → exec (.gcut o) s = .next
        ((s.modCtx (·.wg o.h.d.index (BitVec.ofNat 64 (bits r 7 0 * 256 + 1)))).retired (.gcut o))) ∧
      (bit r 8 = false → s.graphActors s.ctx.rcb = 0 → exec (.gcut o) s = .next
        ((s.modCtx (·.wg o.h.d.index (BitVec.ofNat 64 (bits r 7 0 * 256 + 2)))).retired (.gcut o))) ∧
      (bit r 8 = false → s.graphActors s.ctx.rcb ≠ 0 → exec (.gcut o) s = .next
        (((s.startCut s.ctx.rcb (poolAddr 2 (gaCore gr.toNat) (o.w.toNat % 32))).modCtx
          (·.wg o.h.d.index (BitVec.ofNat 64 ((bits r 7 0 + 1) % 256 * 256)))).retired (.gcut o)))) ∧
    (∀ own core b, Issues (.gcutrd o) o.h s → s.ownBound = some own → own.isGraph = true →
      s.actorAt s.ctx.rcb gr = some (core, b) →
      let g := s.ghdr core b
      let x := s.ctx.rg o.h.s2.index
      let snap := packLanes 64 ((List.range 16).map (fun k => s.peekVirt core b.rcb (b.d.state.toNat + 0x140 + 8 * k)))
      let answer (n : Nat) := exec (.gcutrd o) s = .next
        ((Claims.whole (s.modCtx (·.wg o.h.d.index (BitVec.ofNat 64 (bits g 31 24 * 256 + n))))).retired (.gcutrd o))
      s.ctx.moving = [] →
      (bit g 32 = false → answer 2) ∧
      (bit g 32 = true → b.d.cls ≠ 1 → answer 1) ∧
      (bit g 32 = true → b.d.cls = 1 → x.toNat % 32 ≠ 0 →
        exec (.gcutrd o) s = .next (s.takeTrapA { cause := cMISALIGNED, tval := some x })) ∧
      (∀ ps, bit g 32 = true → b.d.cls = 1 → x.toNat % 32 = 0 → (resolveBlocks x.toNat 4).run s = .ok (ps, s1) →
        (ownRanges 32 ps).run s1 = .ok ((), s1) →
        let r := runPieces (ps.mapIdx (fun k p => .store p 32 (bits snap (256 * k + 255) (256 * k)) none) ++
          [.result o.h.d (BitVec.ofNat 64 (bits g 31 24 * 256))]) s1
        exec (.gcutrd o) s = .next (if r.1 = [] then (Claims.whole r.2).retired (.gcutrd o)
          else (r.2.modCtx (fun c => { c with moving := r.1 })).modCtx (·.stallOn .memory false r.2.now)))) ∧
    (∀ own, Issues (.cvrd o) o.h s → s.ownBound = some own → own.isGraph = true →
      let v : Word := if o.w.toNat % 4 = 0 then s.here.cvmax.setWidth 64 else if o.w.toNat % 4 = 1 then s.here.cvcnt.setWidth 64
        else if o.w.toNat % 4 = 2 then BitVec.ofNat 64 (s.here.epoch * 2 ^ 41 + s.here.infl * 2 ^ 32 + s.age s.here)
        else BitVec.ofNat 64 (s.peek (s.ctx.rcb + 0x90) 8)
      (bit o.w.toNat 2 = false → exec (.cvrd o) s = .next ((s.modCtx (·.wg o.h.d.index v)).retired (.cvrd o))) ∧
      (bit o.w.toNat 2 = true → exec (.cvrd o) s = .next
        (((s.modHere (fun c => { c with cvmax := 0, cvcnt := 0 })).modCtx (·.wg o.h.d.index v)).retired (.cvrd o)))) ∧
    (∀ n core rcb id, tfind s.flights n = some (.cutStart core rcb id) →
      (∀ b ∈ (s.coreAt core).binds, b.2.rcb = rcb → b.2.isGraph = true → s.arrivalWaits core b.2 0 = false) →
      exec (.cutStartArrival n) s = .next
      ((s.coreAt core).binds.foldl (fun s b => if b.2.rcb == rcb then s.marker core b.1 id else s)
        { s with flights := tdel s.flights n })) ∧
    (∀ n rcb act slot id, tfind s.flights n = some (.marker rcb act slot id) → s.edgeBusy n rcb act slot = false →
      let u : State := { s with flights := tdel s.flights n }
      (∀ core k b, s.findActor rcb act = some (core, k, b) → s.arrivalWaits core b slot = false →
        exec (.markerArrival n) s = .next (u.marker core k id)) ∧
      (s.findActor rcb act = none → exec (.markerArrival n) s = .next (if s.isGone rcb then u else s))) ∧
    (∀ rcb r, s.regionAt (s.regionPkg rcb) rcb = some r →
      let cores := s.cores.filter (fun c => c.2.region == some rcb)
      let epochs := cores.map (fun c => (c.1, c.2.epoch))
      let conv := s.peek (rcb + 0x90) 8
      let seen := s.modRegion rcb (fun r => { r with quietPass := some epochs })
      ((∃ c ∈ cores, s.quietCore c.2 = false) → exec (.almanacQuietPass rcb) s = .next
        ((s.modRegion rcb (fun r => { r with quietPass := none })).poke (rcb + 0x90) 8 (putBits conv 0 1 0))) ∧
      ((∀ c ∈ cores, s.quietCore c.2 = true) → r.quietPass = some epochs → bit conv 0 = false →
        exec (.almanacQuietPass rcb) s = .next
          (seen.poke (rcb + 0x90) 8 (((bits conv 31 8 + 1) % 2 ^ 24) * 2 ^ 8 + 1))) ∧
      ((∀ c ∈ cores, s.quietCore c.2 = true) → r.quietPass ≠ some epochs ∨ bit conv 0 = true →
        exec (.almanacQuietPass rcb) s = .next seen))


/-! ### Barriers, tasks, futures, mailboxes, events and gangs -/

/-- A barrier or join cell of n bytes at a resolved place of the core's own pool, with nothing to wait for (R295, R300). -/
structure Claims.Cell (s : State) (p : Phys) (n : Nat) : Prop where
  clear : Claims.Clear s p n
  own : Claims.Own s p n true
  pool : 1 ≤ gaSpace p.ga ∧ gaSpace p.ga ≤ 3
  here : gaPkg p.ga = corePkg s.core
  sound : s.bad p.ga n = false
  plain : p.dm = false

/-- The place of a cell: its address resolves for an atomic (R295). -/
def Claims.cell (s : State) (ea n : Nat) (p : Phys) (s1 : State) : Prop := (resolveAtomic ea n).run s = .ok (p, s1)

/-- GEN, ARR and N of a barrier cell (R300). -/
def Claims.barrier (s : State) (p : Phys) : Nat × Nat × Nat :=
  let x := s.rdNat p.ga 16
  (bits x 63 32, bits x 31 0, bits x 95 64)

/-- A barrier cell with GEN, ARR and N is written (R300). -/
def Claims.barred (s : State) (p : Phys) (gen arr n : Nat) : State :=
  s.wrNat p.ga 16 (gen % 2 ^ 32 * 2 ^ 32 + arr + n * 2 ^ 64)

/-- On a cell of the core's own pool with nothing to wait for: BARI of a cell with ARR 0 and a count of 1 to 2^32 − 1 writes GEN 0, ARR 0 and the count, and else raises BAR_STATE; BAR, once its scope's earlier accesses are performed and the X-half is empty, adds 1 to ARR, the last arrival making ARR 0 and GEN one higher, and writes D with the old GEN, and on a cell whose N is 0 or not above ARR raises BAR_STATE; BARW goes on when GEN differs from its operand, and else waits at a stall point. (13_cluster_sync.md R300) -/
def Obligations.Barriers : Prop :=
  ∀ (o : MOps) (s s1 : State) (p : Phys), Claims.cell s (o.ea s.ctx) 16 p s1 → Claims.Cell s1 p 16 →
    let b := Claims.barrier s1 p
    let n := (s.ctx.rg o.h.s3.index).toNat
    let bad (i : Instr) := exec i s = .next (s.takeTrapA { cause := cBAR_STATE, tval := some (BitVec.ofNat 64 p.ga) })
    (Issues (.bari o) o.h s → b.2.1 = 0 → 0 < n → n < 2 ^ 32 →
      exec (.bari o) s = .next ((Claims.barred s1 p 0 0 n).retired (.bari o))) ∧
    (Issues (.bari o) o.h s → b.2.1 ≠ 0 ∨ n = 0 ∨ 2 ^ 32 ≤ n → bad (.bari o)) ∧
    (Issues (.bar o) o.h s → s.ctx.xseq = [] → s.ctx.xbusy = false → Claims.FencedTo s1 o.scope.toNat →
      (b.2.1 + 1 < b.2.2 → exec (.bar o) s = .next (((Claims.barred s1 p b.1 (b.2.1 + 1) b.2.2).modCtx
        (·.wg o.h.d.index (BitVec.ofNat 64 b.1))).retired (.bar o))) ∧
      (b.2.1 + 1 = b.2.2 → exec (.bar o) s = .next (((Claims.barred s1 p (b.1 + 1) 0 b.2.2).modCtx
        (·.wg o.h.d.index (BitVec.ofNat 64 b.1))).retired (.bar o))) ∧
      (b.2.2 ≤ b.2.1 → bad (.bar o))) ∧
    (Issues (.barw o) o.h s → b.1 ≠ n % 2 ^ 32 → exec (.barw o) s = .next (s1.retired (.barw o))) ∧
    (Issues (.barw o) o.h s → b.1 = n % 2 ^ 32 → exec (.barw o) s = .next (s.modCtx (·.stallOn .barrier true s.now)))

/-- FORK of an aligned cell with room adds a task at the young end; JOIN that is not last decrements the counter, once, and then ends its firing as END does, the last one goes to T1, and on a zero counter raises JOIN_CELL; DQCNT writes the number of tasks; RFORK stores the join cell and adds a share task to the deque of each chosen core; a steal takes the oldest task of the core it asks. FUT.NEW takes a FREE entry or writes 0; FUT.SET resolves a PENDING one and answers its waiters; FUT.GET writes a resolved value, and on a pending one joins the waiters; FUT.FREE frees an entry without waiters, its generation one higher. (13_cluster_sync.md R302; 13_cluster_sync.md R303; 13_cluster_sync.md R304; 13_cluster_sync.md R306; 13_cluster_sync.md R307; 16_die.md R357; 16_die.md R358) -/
def Obligations.TasksAndFutures : Prop :=
  ∀ (f : FOps) (o : EOps) (s s1 : State) (p : Phys),
    let j := s.ctx.rg f.h.s1.index
    (Issues (.fork f) f.h s → j.toNat % 8 = 0 → s.dequeFits s.core s.ctx.rcb = true → exec (.fork f) s = .next
      ((s.modHere (fun c => { c with deque := c.deque ++ [{
        kind := .forkTask, prio := s.ctx.prio, pc := fieldTarget s.ctx.pc f.t1, preds := predBits s.ctx.p, rcb := s.ctx.rcb,
        g := taskRegs s.ctx j }] })).retired (.fork f))) ∧
    (Issues (.fork f) f.h s → j.toNat % 8 = 0 → s.dequeFits s.core s.ctx.rcb = false →
      exec (.fork f) s = .next (s.takeTrapA { cause := cDEQUE_FULL, tval := some j })) ∧
    (Issues (.join f) f.h s → s.ctx.hasJoined = false → j.toNat % 8 = 0 → Claims.cell s j.toNat 8 p s1 → Claims.Cell s1 p 8 →
      Claims.FencedTo s1 4 →
      (1 < s1.rdNat p.ga 8 → exec (.join f) s = .next (((s1.wrNat p.ga 8 (s1.rdNat p.ga 8 - 1)).modCtx (fun c =>
        { c with joined := some c.pc })).stayed (.join f))) ∧
      (s1.rdNat p.ga 8 = 1 → exec (.join f) s = .next ((s1.wrNat p.ga 8 0).jumped (.join f) (fieldTarget s.ctx.pc f.t1))) ∧
      (s1.rdNat p.ga 8 = 0 → exec (.join f) s = .next (s.takeTrapA { cause := cJOIN_CELL, tval := some j }))) ∧
    (∀ x, Issues (.join f) f.h s → s.ctx.hasJoined = true → s.ctx.mode = .u → s.ctx.firing = some x →
      (∀ c n, x.kind ≠ .share c n) → Claims.Ends s →
      exec (.join f) s = .next (((s.freeCtx s.core s.fc).endActor s.core x true).finishSaves)) ∧
    (Issues (.dqcnt o) o.h s → exec (.dqcnt o) s = .next
      ((s.modCtx (·.wg o.h.d.index (BitVec.ofNat 64 s.here.deque.length))).retired (.dqcnt o))) ∧
    (∀ t : State, let n := s.ctx.rg f.h.s2.index
      let c := s.ctx
      let cores := s.shareCores s.ctx.rcb n.toNat
      Issues (.rfork f) f.h s → j.toNat % 256 = 0 → 
      (resolveAtomic j.toNat 8 (fun x => x == .hc || x == .sc)).run s = .ok (p, s1) → p.dm = false → s.dequeFits s.core s.ctx.rcb = true → Claims.Clear s1 p 8 →
      Claims.FencedTo s1 4 → (∀ x ∈ cores, s.dequeTakes x c.rcb (cores.count x) = true) → cores ≠ [] →
      (storeWords j.toNat (shareCell s.ctx cores.length (fieldTarget s.ctx.pc f.t2) n)).run s1 = .ok ((), t) →
      exec (.rfork f) s = .next (((List.range cores.length).foldl (fun (s : State) i =>
        let x := cores.getD i s.core
        (s.modCore x (fun d => { d with claimed := d.claimed || x != s.core })).pushTask x
          { shareTask c s.core (fieldTarget c.pc f.t1) j n.toNat cores.length i with
            claim := if x = s.core then none else some x })
        { t with fresh := t.fresh + t.cores.length }).retired (.rfork f))) ∧
    (∀ core t rest, s.steals core = true →
      let order := stealOrder core
      let victim := order.getD ((s.coreAt core).stealPos % max order.length 1) core
      let s2 := s.modCore core (·.count 8)
      (s2.coreAt victim).deque = t :: rest → (s.coreAt core).region = some t.rcb → s2.effDm t.rcb = false → victim ≠ core →
      exec (.stealRequest core) s = .next ((((s2.modCore victim (fun v => { v with deque := rest })).dequeRoom victim).modCore core
        (fun c => { c with stealPos := 0 })).pushTask core t)) ∧
    (let s2 : State := { s with fresh := s.fresh + 1 }
     let cl := clusterOf s.core
     Issues (.futNew o) o.h s →
      (∀ i, s2.futureFits cl s2.ctx.rcb = true →
        freeFuture (s2.clusterAt cl).futures 65536 (Config.freeValue s.fresh).toNat = some i →
        let e := tget Future.reset (s2.clusterAt cl).futures i
        exec (.futNew o) s = .next (((s2.setFuture cl i ⟨e.gen, .pending, 0, s2.ctx.rcb, []⟩).modCtx (·.wg o.h.d.index
          (BitVec.ofNat 64 (e.gen * 2 ^ 24 + clusterNo s.core * 2 ^ 17 + i)))).retired (.futNew o))) ∧
      (s2.futureFits cl s2.ctx.rcb = false → exec (.futNew o) s = .next ((s2.modCtx (·.wg o.h.d.index 0)).retired (.futNew o)))) ∧
    (let h := s.ctx.rg o.h.s1.index
     (s.futureOf s.ctx.rcb h.toNat = none → ∀ i, i = .futFree o ∨ i = .futGet o → Issues i o.h s →
        exec i s = .next (s.takeTrapA { cause := cFUT_STALE, tval := some h })) ∧
     ∀ cl n e, s.futureOf s.ctx.rcb h.toNat = some (cl, n, e) →
      (Issues (.futSet o) o.h s → Claims.FencedTo s 4 → e.st = .pending → exec (.futSet o) s = .next
        ((e.waiters.foldl (fun u w => u.answerFuture (s.ctx.rg o.h.s2.index) w)
          (s.setFuture cl n { e with st := .resolved, val := s.ctx.rg o.h.s2.index, waiters := [] })).retired (.futSet o))) ∧
      (Issues (.futSet o) o.h s → Claims.FencedTo s 4 → e.st ≠ .pending →
        exec (.futSet o) s = .next (s.takeTrapA { cause := cFUT_STATE })) ∧
      (Issues (.futGet o) o.h s → s.acqOut = false → e.st = .resolved →
        exec (.futGet o) s = .next ((s.modCtx (·.wg o.h.d.index e.val)).retired (.futGet o))) ∧
      (Issues (.futGet o) o.h s → s.acqOut = false → e.st ≠ .resolved → (s.core, s.fc % 4, o.h.d) ∉ e.waiters →
        exec (.futGet o) s = .next ((s.setFuture cl n { e with waiters := e.waiters ++ [(s.core, s.fc % 4, o.h.d)] }).modCtx
          (·.stallOn (.future h) true s.now))) ∧
      (Issues (.futFree o) o.h s → e.st = .resolved ∨ e.waiters = [] → exec (.futFree o) s = .next
        ((s.setFuture cl n { e with gen := e.gen % 255 + 1, st := .free, waiters := [] }).retired (.futFree o))))

/-- MBX.BIND binds a free number of the handler whose descriptor has the global address gA (log entry 43) with room and writes 0, and writes 1, 2 or 3 for a number in use, no room or no handler of the region on the core; MBX.FREE of an empty or unbound number frees it and writes 0, of another writes 1; MBXRD writes a word of the message that launched its handler; SEND, once its scope is performed, posts the entry of its payload to a mailbox or a host queue; EVT sends an event to contexts of a core, which gain it in EVLATCH; WFE goes on when EVLATCH differs from its operand, or when its limit has passed; GANG.ON and GANG.OFF join and leave, and write the quad's members and 0, or 1 when refused. An entry that arrives is appended to a mailbox with room, held for a full one, and refused when the mailbox is not bound. (11_core_faults.md R256; 13_cluster_sync.md R311; 13_cluster_sync.md R312; 13_cluster_sync.md R313; 13_cluster_sync.md R314) -/
def Obligations.MailboxesAndEvents : Prop :=
  ∀ (o : EOps) (s : State),
    let m := bits o.w.toNat 4 0
    let depth := bits o.w.toNat 12 5
    let x := s.ctx.rg o.h.s1.index
    let answers (i : Instr) (v : Word) := exec i s = .next ((s.modCtx (·.wg o.h.d.index v)).retired i)
    (Issues (.mbxBind o) o.h s →
      (s.boundAt x = none → answers (.mbxBind o) 3) ∧
      (∀ slot b, s.boundAt x = some (slot, b) →
        (b.isHandler = false ∨ b.rcb ≠ s.ctx.rcb → answers (.mbxBind o) 3) ∧
        (b.isHandler = true → b.rcb = s.ctx.rcb →
          ((tfind s.here.mailboxes m).isSome ∨ b.mailbox.isSome → answers (.mbxBind o) 1) ∧
          (tfind s.here.mailboxes m = none → b.mailbox = none →
            (256 < s.here.storeUsed + depth → answers (.mbxBind o) 2) ∧
            (s.here.storeUsed + depth ≤ 256 → exec (.mbxBind o) s = .next ((((s.modHere (fun c => { c with
              mailboxes := Sys2Proof.Machine.tset c.mailboxes m ⟨slot, depth, [], [], false, false⟩ })).setBound s.core slot
                (fun b => { b with mailbox := some m })).modCtx (·.wg o.h.d.index 0)).retired (.mbxBind o))))))) ∧
    (Issues (.mbxFree o) o.h s →
      (tfind s.here.mailboxes m = none → answers (.mbxFree o) 0) ∧
      (∀ b, tfind s.here.mailboxes m = some b →
        (b.taken = true ∨ b.msgs ≠ [] → answers (.mbxFree o) 1) ∧
        (b.taken = false → b.msgs = [] → exec (.mbxFree o) s = .next ((((s.dropMailbox s.core m).setBound s.core b.slot
          (fun b => { b with mailbox := none })).modCtx (·.wg o.h.d.index 0)).retired (.mbxFree o))))) ∧
    (∀ f k, Issues (.mbxrd o) o.h s → s.ctx.firing = some f → f.kind = .handler k →
      answers (.mbxrd o) (f.msg.getD o.w.toNat 0)) ∧
    (Issues (.send o) o.h s → Claims.FencedTo s o.scope.toNat →
      gaPkg x.toNat = corePkg s.core → s.ctx.posted.length + 1 ≤ 64 →
      let payload := ((List.range (o.h.s3.index + 1 - o.h.s2.index)).map (· + o.h.s2.index)).map s.ctx.rg
      (∀ k n, mailboxName x.toNat = some (k, n) → exec (.send o) s = .next ((s.launch { newTxn s (.message (messageEntry
        (entryWord0 s.core s.fc payload.length n) payload)) .mailbox x.toNat 64 with
          count := some (countFor s.core x.toNat) }).retired (.send o))) ∧
      (∀ q, mailboxName x.toNat = none → hostQueueName x.toNat = some q → exec (.send o) s = .next ((s.launch { newTxn s
        (.hostMessage (messageEntry (entryWord0 s.core s.fc payload.length 0) payload)) .host x.toNat 64 with
          count := some (countFor s.core x.toNat) }).retired (.send o))) ∧
      (mailboxName x.toNat = none → hostQueueName x.toNat = none →
        exec (.send o) s = .next (s.takeTrapA { cause := cILLEGAL_OPERAND, tval := some x }))) ∧
    (Issues (.evt o) o.h s → bits x.toNat 51 48 = 0 → bits x.toNat 33 4 = 0 → coordOk (bits x.toNat 47 34) = true →
      let f := Sys2Proof.Machine.tset s.flights s.nextId (.event (gaCore x.toNat) (x.setWidth 4))
      exec (.evt o) s = .next (({ s with nextId := s.nextId + 1, flights := f } : State).retired (.evt o))) ∧
    (∀ n core mask, tfind s.flights n = some (.event core mask) → exec (.eventDelivery n) s = .next
      ((List.range 4).foldl (fun s k => if mask.getLsbD k then s.modCtxOf core k Ctx.event else s)
        { s with flights := tdel s.flights n })) ∧
    (Issues (.wfe o) o.h s → s.ctx.evlatch ≠ x.setWidth 32 → answers (.wfe o) (s.ctx.evlatch.setWidth 64)) ∧
    (Issues (.wfe o) o.h s → s.ctx.evlatch = x.setWidth 32 → s.ctx.stall = none →
      exec (.wfe o) s = .next (s.modCtx (·.stallOn .wfe true s.now))) ∧
    (∀ core fc, s.waitingAt core fc .wfe = some (.wfe o) → s.wfeOver core fc = true → Issues (.wfe o) o.h (s.at core fc) →
      exec (.wfeTimeout core fc) s = .next ((((s.at core fc).modCtx (·.wg o.h.d.index
        ((s.at core fc).ctx.evlatch.setWidth 64))).retired (.wfe o)))) ∧
    (Issues (.gangOn o) o.h s →
      (s.here.gang = none ∨ s.here.gang = some (s.fc % 4) →
        let t := s.modHere (fun c => { c with gang := some (s.fc % 4) })
        exec (.gangOn o) s = .next ((t.modCtx (·.wg o.h.d.index (BitVec.ofNat 64 (t.gangMask * 2 ^ 8)))).retired (.gangOn o))) ∧
      (s.here.gang ≠ none → s.here.gang ≠ some (s.fc % 4) → answers (.gangOn o) (BitVec.ofNat 64 (s.gangMask * 2 ^ 8 + 1)))) ∧
    (Issues (.gangOff o) o.h s →
      (s.here.gang = some (s.fc % 4) →
        let t := s.modHere (fun c => { c with gang := none })
        exec (.gangOff o) s = .next ((t.modCtx (·.wg o.h.d.index (BitVec.ofNat 64 (t.gangMask * 2 ^ 8)))).retired (.gangOff o))) ∧
      (s.here.gang ≠ some (s.fc % 4) → answers (.gangOff o) (BitVec.ofNat 64 (s.gangMask * 2 ^ 8 + 1)))) ∧
    (∀ id t e k n b, tfind s.txns id = some t → t.stage = .travelling → t.near = true → t.target = .mailbox →
      t.op = .message e → mailboxName t.ga = some (k, n) → corePkg k = t.source → s.entryBehind id t = false →
      (∀ r, (s.coreAt k).region = some r → s.rcbState r ≠ 4) →
      (tfind (s.coreAt k).mailboxes n = none →
        exec (.mailboxEntryArrival id) s = .next (s.setTxn id { t with stage := .failed cMBX_UNBOUND })) ∧
      (tfind (s.coreAt k).mailboxes n = some b → b.msgs.length < b.depth → b.held = [] →
        let c : Mailbox := { b with msgs := b.msgs ++ [e] }
        exec (.mailboxEntryArrival id) s = .next ((s.modCore k (fun x =>
          ({ x with mailboxes := Sys2Proof.Machine.tset x.mailboxes n c } : Core).wakeHandler c s.now)).setTxn id
            { t with stage := .done })) ∧
      (tfind (s.coreAt k).mailboxes n = some b → b.depth ≤ b.msgs.length →
        let c : Mailbox := { b with held := b.held ++ [⟨some id, e⟩] }
        exec (.mailboxEntryArrival id) s = .next ((s.modCore k (fun x =>
          { x with mailboxes := Sys2Proof.Machine.tset x.mailboxes n c })).setTxn id { t with stage := .held }))) ∧
    (∀ core n b h rest, tfind (s.coreAt core).mailboxes n = some b → b.held = h :: rest → b.msgs.length < b.depth →
      exec (.mailboxHeldAppend core n) s = .next (s.appendHeld core n) ∧
      ∃ c, tfind ((s.appendHeld core n).coreAt core).mailboxes n = some c ∧ c.msgs = b.msgs ++ [h.entry] ∧ c.held = rest)


/-! ### Regions, launches, pre-emption, translation and rounds -/

/-- A word of the template of a region, and a field of it (R346). -/
def Claims.template (s : State) (rcb k : Nat) : Nat := s.peek (rcb + 8 * k) 8
def Claims.sets (s : State) (rcb f : Nat) : Bool := (Claims.template s rcb 0).testBit (24 + f)
def Claims.field (s : State) (rcb f : Nat) : Nat := rcbField f (Claims.template s rcb (rcbFieldOff f / 8))

/-- A template of which RGN.NEW can make a region (R349, log entry 43): its RCB stands in DRAM on 256 bytes and names no
region, its zero bits are zero, every field it sets is in range, and a root sets every field. -/
structure Claims.Template (s : State) (root : Bool) (rcb : Nat) : Prop where
  aligned : rcb % 256 = 0
  dram : gaSpace rcb = 0
  zeros : zeroBitsOk (Claims.template s rcb) = true
  ranges : ∀ f < 16, Claims.sets s rcb f = true → rcbFieldOk f (Claims.field s rcb f) = true
  whole : root = true → ∀ f < 16, Claims.sets s rcb f = true
  unused : s.regionAt (s.regionPkg rcb) rcb = none

/-- Every budget that the template sets is at most the parent's effective one (R349). -/
def Claims.Affords (s : State) (root : Bool) (parent rcb : Nat) : Prop :=
  root = true ∨ ∀ k < 5, Claims.sets s rcb (11 + k) = true →
    budgetLe (11 + k) (Claims.field s rcb (11 + k)) (s.eff parent (11 + k) (rcbFieldOff (11 + k))) = true

/-- A bind record of BIND, UNBIND, HOLD or RELEASE of an actor in a slot, with nothing else set (R353). -/
def Claims.record (opc act slot : Nat) : List Nat := [act * 2 ^ 32 + slot * 2 ^ 8 + opc, 0, 0, 0, 0, 0, 0, 0]

/-- RGN.NEW, of an RCB in space 0 (log entry 43), writes D with 1 for a parent that is not live, 2 for a bad template, 3 without a free number, 4 over a budget, and else makes the region in the issuer's package with the lowest free number n, one deeper than its parent, whose count of children rises, and writes D with n in bits [19:8]. RGN.SET writes 1 for a region that is not live or saved, 2 for a value out of range or clearing at a root, 3 for a budget below its charge or above the parent's, and else sets or clears the field, of its plain value (log entry 71), with the charges of CORES and MSGB. RGN.KILL of no region or a killed one writes 1, and else the region dies and its issuer waits for the end. BIND writes the code of its operation, and the four records of the Almanac do theirs, of a core of a package that runs: a record with a non-zero zero field gives 1, UNBIND frees the slot, of a DONE actor too (log entry 113), HOLD makes an idle or ready graph or plain actor HELD and else gives 6, and RELEASE of a held one ends the hold and else gives 6. (16_die.md R346; 16_die.md R349; 16_die.md R350; 16_die.md R351; 16_die.md R353; 04_firing.md R66) -/
def Obligations.Regions : Prop :=
  ∀ (o : EOps) (s s1 : State) (w : List Nat),
    let a := (s.ctx.rg o.h.s1.index).toNat
    let b := (s.ctx.rg o.h.s2.index).toNat
    let f := o.w.toNat % 16
    let root := o.h.s1.isZero
    let answers (i : Instr) (n : Nat) := exec i s = .next ((s.modCtx (·.wg o.h.d.index (BitVec.ofNat 64 n))).retired i)
    (Issues (.rgnNew o) o.h s →
      (root = false → s.isLive a = false → answers (.rgnNew o) 1) ∧
      (root = true ∨ s.isLive a = true → ¬ Claims.Template s root b → answers (.rgnNew o) 2) ∧
      (root = true ∨ s.isLive a = true → Claims.Template s root b → (s.pkgAt (corePkg s.core)).freeRnum = none →
        answers (.rgnNew o) 3) ∧
      (∀ n, root = true ∨ s.isLive a = true → Claims.Template s root b → (s.pkgAt (corePkg s.core)).freeRnum = some n →
        (¬ Claims.Affords s root a b → answers (.rgnNew o) 4) ∧
        (Claims.Affords s root a b →
          let up := if root then none else s.regionAt (s.regionPkg a) a
          let new := Region.fresh n ((up.map (fun p => p.depth + 1)).getD 0) ((up.map (·.made)).getD 0)
          let made := ((if root then s else s.modRegion a (fun p => { p with made := p.made + 1 })).writeNewRcb b
            (if root then 0 else a) n).modPkg (corePkg s.core) (fun p =>
              { p with regions := Sys2Proof.Machine.tset p.regions b new })
          let t := (((made.extendMode b).extendSeeds b).extendTree b false).extendLcount b
          exec (.rgnNew o) s = .next ((t.modCtx (·.wg o.h.d.index (BitVec.ofNat 64 (n * 2 ^ 8)))).retired (.rgnNew o)) ∧
          ∃ r, t.regionAt (corePkg s.core) b = some r ∧ r.rnum = n ∧ r.depth = (up.map (fun p => p.depth + 1)).getD 0 ∧
            r.doomed = false ∧ r.entries = []))) ∧
    (Issues (.rgnSet o) o.h s →
      let known := s.regionAt (s.regionPkg a) a ≠ none ∧ (s.rcbState a = 0 ∨ s.rcbState a = 2)
      let w0 := s.peek a 8
      let up := s.peek (a + 8) 8
      let clears := o.opt.getLsbD 0
      (¬ known → answers (.rgnSet o) 1) ∧
      (known → clears = true → up = 0 → answers (.rgnSet o) 2) ∧
      (known → clears = true → up ≠ 0 →
        let t := s.poke a 8 (putBits w0 (24 + f) 1 0)
        let u := if f = 12 then t.poke (a + 0x88) 8 (putBits (t.peek (a + 0x88) 8) 0 14 0)
          else if f = 13 then t.poke (a + 0x88) 8 (putBits (t.peek (a + 0x88) 8) 16 40 0) else t
        exec (.rgnSet o) s = .next (((u.extendField a f).modCtx (·.wg o.h.d.index 0)).retired (.rgnSet o))) ∧
      (known → clears = false → rcbFieldOk f b = false → answers (.rgnSet o) 2) ∧
      (known → clears = false → rcbFieldOk f b = true →
        let t := (s.poke a 8 (putBits w0 (24 + f) 1 1)).poke (a + rcbFieldOff f) 8
          (putRcbField f (s.peek (a + rcbFieldOff f) 8) b)
        let fits := f < 11 ∨ (t.chargeFits a f b = true ∧ (up = 0 ∨ budgetLe f b (s.eff up f (rcbFieldOff f)) = true))
        let u := if f = 12 then t.poke (a + 0x88) 8 (putBits (t.peek (a + 0x88) 8) 0 14 (t.coreCharge a))
          else if f = 13 then t.poke (a + 0x88) 8 (putBits (t.peek (a + 0x88) 8) 16 40 (t.msgCharge a)) else t
        (¬ fits → answers (.rgnSet o) 3) ∧
        (fits → exec (.rgnSet o) s = .next (((u.extendField a f).modCtx (·.wg o.h.d.index 0)).retired (.rgnSet o))))) ∧
    (Issues (.rgnKill o) o.h s →
      (s.regionAt (s.regionPkg a) a = none ∨ s.rcbState a = 4 → answers (.rgnKill o) 1) ∧
      (s.regionAt (s.regionPkg a) a ≠ none → s.rcbState a ≠ 4 → exec (.rgnKill o) s = .next
        (((s.modCtx (fun c => { c with awaited := some (.regionKill o.h.d a) })).kill a).stayed (.rgnKill o)))) ∧
    (Issues (.bind o) o.h s → bits a 63 14 = 0 → coordOk a = true → (loadWords b 8).run s = .ok (w, s1) →
      let done := s1.bindOp (some (s1.core, s.ctx.rcb)) none (corePkg s1.core * 2 ^ 14 + a) w
      exec (.bind o) s = .next ((done.2.finishSaves.modCtx (·.wg o.h.d.index (BitVec.ofNat 64 done.1))).retired (.bind o))) ∧
    (Issues (.bind o) o.h s → bits a 63 14 ≠ 0 ∨ coordOk a = false →
      exec (.bind o) s = .next (s.takeTrapA { cause := cILLEGAL_OPERAND, tval := none })) ∧
    (∀ core opc (r : List Word), s.lives (corePkg core) = true → coordOk (coreCoord core) = true →
      bits (r.getD 0 0).toNat 2 0 = opc →
      let w := (List.range 8).map (fun k => (r.getD k 0).toNat)
      let done := s.bindOp (some (core, (s.readDesc (w.getD 1 0)).rcb)) none core w
      (opc = 0 → exec (.bindOpcBind core r) s = .next done.2.finishSaves) ∧
      (opc = 1 → exec (.unbind core r) s = .next done.2.finishSaves) ∧
      (opc = 2 → exec (.hold core r) s = .next done.2.finishSaves) ∧
      (opc = 3 → exec (.release core r) s = .next done.2.finishSaves)) ∧
    (∀ who at0 core, (bits (w.getD 0 0) 63 56 ≠ 0 ∨ bits (w.getD 0 0) 31 13 ≠ 0 ∨ bits (w.getD 0 0) 7 3 ≠ 0 ∨
      4 ≤ bits (w.getD 0 0) 2 0 ∨ 2 ^ 14 ≤ w.getD 3 0 → s.bindOp who at0 core w = (1, s))) ∧
    (∀ who at0 core act slot rcb x, slot < 32 → act < 2 ^ 24 → (s.coreAt core).region = some rcb → s.rcbState rcb = 0 →
      (s.regionAt (corePkg core) rcb).isSome = true → 0 < s.effLcount rcb →
      tfind (s.coreAt core).binds slot = some x → x.act = act →
      let r (opc : Nat) := s.bindOp who at0 core (Claims.record opc act slot)
      r 1 = (0, (s.unbindActor core slot).rouse core) ∧
      (((s.coreAt core).binds.map (·.1)).Pairwise (· < ·) → tfind ((s.unbindActor core slot).coreAt core).binds slot = none) ∧
      (x.life = .idle ∨ x.life = .ready → x.d.cls < 3 →
        r 2 = (0, (s.setBound core slot (fun b => { b with life := .held })).rouse core)) ∧
      ((x.life ≠ .idle ∧ x.life ≠ .ready) ∨ 3 ≤ x.d.cls → r 2 = (6, s)) ∧
      (x.life = .held → r 3 = (0, (s.releaseActor core slot).rouse core)) ∧
      (x.life ≠ .held → r 3 = (6, s)))

/-- LAUNCH with no acquire outstanding sends its record to the firmware and waits; a reply that passes the checks places every actor or refuses and gives D its code, one that fails them raises FIRMWARE, and 2^20 cycles without one give 7. PREEMPT of a context without a firing writes 1, with a full frame store 2, and else asks for the save and waits; of a region that is not live it writes 1, with a bad save area 3, and else begins the switch; its resume writes 1, 3 or 0. A firing that can be discarded is saved at its region's entry, one at a stall point whole, and a landed load error is raised instead. LOGRD writes a word of the manifest, LOGEXT extends a component or sets the challenge. Pending requests count among the frames (log entry 76), LOGEXT ignores bits [55:48] (log entry 87), and the check of a firmware reply is a free choice (log entry 15). (04_firing.md R83; 04_firing.md R84; 16_die.md R352; 16_die.md R360; 16_die.md R361; 19_package.md R382; 19_package.md R383) -/
def Obligations.LaunchesAndPreemption : Prop :=
  ∀ (o : EOps) (q : AOps) (s s1 : State),
    let a := (s.ctx.rg o.h.s1.index).toNat
    let answers (i : Instr) (v : Word) := exec i s = .next ((s.modCtx (·.wg o.h.d.index v)).retired i)
    (Issues (.launch o) o.h s → s.acqOut = false →
      let u : State := { s with nextId := s.nextId + 1 }
      let l : Launch := ⟨u.ctx.rcb, some (s.core, s.fc % 4), clusterOf s.core, none, a, s.now⟩
      exec (.launch o) s = .next (((u.modPkg (corePkg s.core) (fun p =>
        { p with launches := Sys2Proof.Machine.tset p.launches s.nextId l })).modCtx (fun c =>
          { c with awaited := some (.launch s.nextId o.h.d) })).stayed (.launch o))) ∧
    (∀ id pkg l, s.findLaunch id = some (pkg, l) →
      let u : State := { s with fresh := s.fresh + 1 }
      (∀ k fc, l.core = some (k, fc) → Config.choice s.fresh = false →
        exec (.launchFirmwareReply id) s = .next (u.badReply pkg id k fc l.cluster)) ∧
      (∀ k fc, l.core = some (k, fc) → Config.choice s.fresh = true →
        exec (.launchFirmwareReply id) s = .next ((u.doLaunch (some (k, l.rcb)) k l.rcb l.gl id).2.answerLaunch pkg id l
          (u.doLaunch (some (k, l.rcb)) k l.rcb l.gl id).1)) ∧
      (l.core = none → exec (.launchFirmwareReply id) s = .next
        ((u.doLaunch none (pkg * 2 ^ 14) l.rcb l.gl id).2.answerLaunch pkg id l (u.doLaunch none (pkg * 2 ^ 14) l.rcb l.gl id).1)) ∧
      (2 ^ 20 ≤ s.now - l.since → exec (.launchNofirmTimeout id) s = .next (s.answerLaunch pkg id l 7))) ∧
    (∀ k, k = corePkg s.core * 2 ^ 14 + bits a 13 0 → Issues (.preemptFiring o) o.h s →
      let fc := bits a 17 16
      let full := 8 ≤ (s.coreAt k).frames.length + ((s.coreAt k).ctx.toList.filter (fun x => x.preempt == some true)).length
      ((s.ctxOf k fc).firing = none → answers (.preemptFiring o) 1) ∧
      ((s.ctxOf k fc).firing ≠ none → full → answers (.preemptFiring o) 2) ∧
      ((s.ctxOf k fc).firing ≠ none → ¬ full → exec (.preemptFiring o) s = .next
        (((s.modCtxOf k fc (fun x => { x with preempt := some true })).modCtx (fun x =>
          { x with awaited := some (.preempt o.h.d k fc) })).stayed (.preemptFiring o)))) ∧
    (Issues (.preemptRegion o) o.h s →
      (s.isLive a = false → answers (.preemptRegion o) 1) ∧
      (s.isLive a = true → s.saveOk a = false → answers (.preemptRegion o) 3) ∧
      (s.isLive a = true → s.saveOk a = true → s.effDm a = false ∨ s.dmWaiting a = false → exec (.preemptRegion o) s = .next
        ((((s.modCtx (fun c => { c with awaited := some (.regionSave o.h.d a) })).beginSave a).finishSaves).stayed
          (.preemptRegion o)))) ∧
    (Issues (.preemptResume o) o.h s →
      (s.regionAt (s.regionPkg a) a = none ∨ s.rcbState a ≠ 2 → answers (.preemptResume o) 1) ∧
      (s.regionAt (s.regionPkg a) a ≠ none → s.rcbState a = 2 → s.saveOk a = false → answers (.preemptResume o) 3) ∧
      (s.regionAt (s.regionPkg a) a ≠ none → s.rcbState a = 2 → s.saveOk a = true →
        exec (.preemptResume o) s = .next (((s.resumeRegion a).modCtx (·.wg o.h.d.index 0)).retired (.preemptResume o)))) ∧
    (∀ core fc, let x := s.ctxOf core fc
      (s.canDiscard core fc = true → x.landedError = none → exec (.regionDiscard core fc) s = .next (s.saveFiring core fc false)) ∧
      (s.canSave core fc = true → x.landedError = none → exec (.wholeSave core fc) s = .next (s.saveFiring core fc true)) ∧
      (∀ e l, x.landedError = some (e, l) →
        (s.canDiscard core fc = true → exec (.regionDiscard core fc) s = .next ((s.at core fc).takeTrapA (e.trap true l))) ∧
        (s.canSave core fc = true → exec (.wholeSave core fc) s = .next ((s.at core fc).takeTrapA (e.trap true l)))) ∧
      (∀ k, x.idem.start = false → x.discarded.pc = x.idem.entry ∧ x.discarded.p = x.idem.preds ∧ x.discarded.xseq = [] ∧
        x.discarded.rg k = if x.idem.gmask.getLsbD (k % 32) then x.rg k else 0) ∧
      x.savedWhole.g = x.g ∧ x.savedWhole.pc = x.pc ∧ x.savedWhole.q1 = x.q1 ∧ x.savedWhole.xseq = x.xseq) ∧
    (∀ idx r, Issues (.logrd q) q.h s → q.h.s2.isZero = true ∨ s.ctx.mode = .s → (q.src q.h.s1).run s = .ok (idx, s1) →
      let rcb := if q.h.s2.isZero then s.ctx.rcb else (s.ctx.rg q.h.s2.index).toNat
      (0x48 < idx.toNat → exec (.logrd q) s = .next (s.takeTrapA { cause := cILLEGAL_OPERAND, tval := some idx })) ∧
      (idx.toNat ≤ 0x48 → idx.toNat < 0x30 ∨ 0x3B < idx.toNat → s1.regionAt (s1.regionPkg rcb) rcb = some r →
        exec (.logrd q) s = .next ((s1.modCtx (·.wg q.h.d.index (r.logWord (deviceKey (s1.regionPkg rcb)) idx.toNat))).retired (.logrd q))) ∧
      (0x30 ≤ idx.toNat → idx.toNat ≤ 0x3B →
        let u := s1.modRegion rcb (fun r => { r with signedOver := some r.digest })
        u.regionAt (u.regionPkg rcb) rcb = some r →
        exec (.logrd q) s = .next ((u.modCtx (·.wg q.h.d.index (r.logWord (deviceKey (u.regionPkg rcb)) idx.toNat))).retired (.logrd q)))) ∧
    (∀ data, Issues (.logext q) q.h s →
      let rcb := if q.h.s3.isZero then s.ctx.rcb else (s.ctx.rg q.h.s3.index).toNat
      let n := (s.ctx.rg q.h.s2.index).toNat
      let k := bits n 63 56
      let len := bits n 47 0
      let writes (v : Word) := exec (.logext q) s = .next ((s.modCtx (·.wg q.h.d.index v)).retired (.logext q))
      (s.isLive rcb = false → writes 1) ∧
      (s.isLive rcb = true → k ≠ 0 → k ≠ 2 → k ≠ 6 → writes 2) ∧
      (s.isLive rcb = true → k = 0 ∨ k = 2 ∨ k = 6 →
        (len = 0 ∨ 2 ^ 32 < len ∨ (k = 6 ∧ len ≠ 48) → writes 3) ∧
        (0 < len → len ≤ 2 ^ 32 → (k = 6 → len = 48) → (loadBytes (s.ctx.rg q.h.s1.index).toNat len).run s = .ok (data, s1) →
          exec (.logext q) s = .next (((if k = 6 then s1.modRegion rcb (fun r => { r with chal := data })
            else s1.extend rcb k 0 data).modCtx (·.wg q.h.d.index 0)).retired (.logext q)))))

/-- TLBI of a page range and an aligned counter of the own pool, with earlier accesses performed, adds the number of target quads to the counter and sends each an invalidation; a target drops the translations of the range and subtracts 1 from the counter when no access through them is under way. A page walk fills the slices of the entries it reads, counts the miss, and keeps the page it finds in the quad's TLB, which stays as it is when it finds none; it is not made where the page is cached, where an entry lies on a line whose home waits, or in a package that does not run. DMCLOSE in a region without DM raises DM_OUTSIDE, and in one with it arrives and waits; the round completes when every logical core has arrived: its entries are applied in key order, ROUND rises, CNT is 0, and the waiting contexts get their status. A DM atomic that arrives becomes an entry of its region. (16_die.md R363; 16_die.md R364; 19_package.md R374; 19_package.md R377; 19_package.md R378) -/
def Obligations.TranslationAndRounds : Prop :=
  ∀ (o : EOps) (s s1 : State) (p : Phys),
    (let a := (s.ctx.rg o.h.s1.index).toNat
     let n := (s.ctx.rg o.h.s2.index).toNat
     let gc := (s.ctx.rg o.h.s3.index).toNat
     let quads := scopeQuads s1.core o.scope.toNat
     Issues (.tlbi o) o.h s → bits a 63 56 = 0 → gc % 8 = 0 → Claims.cell s gc 8 p s1 → Claims.Cell s1 p 8 →
      Claims.FencedTo s1 4 → exec (.tlbi o) s = .next ((quads.foldl (fun s q =>
        s.addFlight (.tlbi q (s.effPtroot s.ctx.rcb) a n p.ga)) (s1.wrNat p.ga 8 ((s1.rdNat p.ga 8 + quads.length) % 2 ^ 64))).retired (.tlbi o))) ∧
    (∀ n quad root va len gc, tfind s.flights n = some (.tlbi quad root va len gc) →
      let ks := (List.range 4).map (fun i => quad * 4 + i)
      s.pagesBusy quad ((((s.quadAt quad).tlb ++ ks.flatMap (fun k => (s.coreAt k).utlb)).filter
        (·.dropped root va len)).map (·.pageGa)) = false → s.cellFree gc = true →
      ∃ u : State, exec (.tlbiTarget n) s = .next (u.poke gc 8 ((u.peek gc 8 + 2 ^ 64 - 1) % 2 ^ 64)) ∧
        (∀ t ∈ (u.quadAt quad).tlb, t.dropped root va len = false) ∧
        (∀ k ∈ ks, ∀ t ∈ (u.coreAt k).utlb, t.dropped root va len = false) ∧ u.flights = tdel s.flights n ∧ u.mem = s.mem) ∧
    (∀ quad root ea,
      let w := s.walked (.quad quad) root ea
      (∀ t, s.canWalk quad root ea = true → walk s (quad / 2 ^ 12) root ea = .ok t → ∃ u,
        exec (.pageWalk quad root ea) s = .next u ∧ u = w.fillTlb (.quad quad) t ∧
        t ∈ (u.quadAt quad).tlb ∧ u.mem = s.mem ∧ u.cores = s.cores) ∧
      (∀ e, s.canWalk quad root ea = true → walk s (quad / 2 ^ 12) root ea = .error e →
        exec (.pageWalk quad root ea) s = .next w ∧ (w.quadAt quad).tlb = (s.quadAt quad).tlb ∧ w.mem = s.mem) ∧
      (s.canWalk quad root ea = false → exec (.pageWalk quad root ea) s = .next s)) ∧
    (Issues (.dmclose o) o.h s →
      (s.effDm s.ctx.rcb = false → exec (.dmclose o) s = .next (s.takeTrapA
        { cause := cDM_OUTSIDE, tval := some (BitVec.ofNat 64 (bits (s.peek s.ctx.rcb 8) 11 0)) })) ∧
      (∀ r, s.effDm s.ctx.rcb = true → Claims.FencedTo s 3 → s.regionAt (s.regionPkg s.ctx.rcb) s.ctx.rcb = some r →
        s.here.lcore ∉ r.arrived → exec (.dmclose o) s = .next
          (((s.modRegion s.ctx.rcb (fun r => { r with arrived := r.arrived ++ [s.here.lcore] })).modCtx (fun c =>
            { c with awaited := some (.dmclose o.h.d) })).stayed (.dmclose o)))) ∧
    (∀ rcb r, s.regionAt (s.regionPkg rcb) rcb = some r → (∀ k < s.effLcount rcb, k ∈ r.arrived) →
      (∀ e ∈ r.entries, s.bad (lineOf e.ga) 64 = false ∧ e.bad = false) → ∃ u : State, exec (.dmRoundComplete rcb) s = .next
        ((u.coresOf rcb).foldl (fun s k => (List.range 4).foldl (fun s fc => s.closeRound k fc r none)
          (s.modCore k (fun c => { c with round := c.round + 1, cnt := 0 }))) u) ∧
        u = (((r.entries.map (fun e => lineOf e.ga)).dedup.foldl (fun s l => s.applyRound r.entries l) s).modRegion rcb (fun r =>
          { r with entries := [], arrived := [], refused := false, round := r.round + 1 }))) ∧
    (∀ rcb r, s.regionAt (s.regionPkg rcb) rcb = some r → (∃ k < s.effLcount rcb, k ∉ r.arrived) →
      exec (.dmRoundComplete rcb) s = .next s) ∧
    (∀ id t e r, tfind s.txns id = some t → t.stage = .travelling → t.target = .merge → t.op = .dm e →
      s.regionAt (gaPkg t.ga) t.rcb = some r →
      let m := mergeEntry ((s.pkgAt (gaPkg t.ga)).regions.map (fun x => x.2.entries)) r.entries e
      exec (.mergeEntryArrival id) s = .next ((s.modRegion t.rcb (fun r =>
        { r with entries := m.1, refused := r.refused || !m.2 })).setTxn id
          { t with stage := if m.2 then .done else .failed cAMO_CLASS }))


/-! ### The Catalogue Unit -/

/-- A catalogue command of the current context waits for nothing: no acquire is outstanding, and no exchange of its core
has still to act (R176, R332, R340). -/
structure Claims.Accepts (s : State) : Prop where
  acquired : s.acqOut = false
  exchanged : ∀ q ∈ (s.clusterAt (clusterOf s.core)).catq, q.core = s.core → ∀ o, q.i ≠ .cswap o

/-- The unit has accepted a command: it is the youngest of its cluster, an update is counted, and D waits for the answer of
a command that is not posted (R332, R335). -/
def Claims.accepted (s : State) (i : Instr) (d : Reg) (cat : Nat) (a b : Word) (words : List Nat) : State :=
  let c : CatCmd := {
    id := s.nextId, core := s.core, fc := s.fc % 4, rcb := s.ctx.rcb, mode := s.ctx.mode, i := i, cat := cat, a := a, b := b,
    words := words, live := true, work := CatWork.reset }
  (({ s with nextId := s.nextId + 1 } : State).modCluster (clusterOf s.core) (fun x => { x with catq := x.catq ++ [c] })).modCtx (fun x =>
    let x := match i with
      | .cins _ => { x with updates := x.updates + 1 }
      | .cdel _ => { x with updates := x.updates + 1 }
      | _ => x
    if c.posted then x else x.setPend d.index .load)

/-- The words of an update keep R332. -/
def Claims.updateFits (c : Catalogue) (i : Instr) (key value : Word) : Prop :=
  if c.lsh then value.toNat < 2 ^ 28 ∧ key.toNat < 2 ^ (c.k * c.l) else ∀ o, i = .cins o → value.toNat < 2 ^ 32

/-- An update has done table t with outcome mask m: the catalogue is then c, it goes on with the next table, and after the
last one it answers; an insert that appended in some table is counted once (R334, R341). -/
def Claims.tableDone (s : State) (cl : Nat) (q : CatCmd) (c : Catalogue) (m : Nat) (ins grows : Bool) : CatStep × State :=
  let t := q.work.done
  let grew := q.work.grew || grows
  if t + 1 < c.l then (.more { q.work with done := t + 1, mask := q.work.mask + m, grew := grew }, s.setCat cl q.cat c)
  else (.answer (q.work.mask + m) 0,
    s.setCat cl q.cat (if ins && grew then { c with inserts := satAdd c.inserts 1 } else c))

/-- With no acquire outstanding and no exchange of its core to act, a catalogue command whose checks pass is appended to its cluster's queue and D waits for its answer (a posted update is only counted); one whose number no catalogue of the region holds raises CAT_UNDEF; CLOOK of an LSH catalogue and CPROBE of an EXACT one raise CAT_MODE; an update word out of range raises ILLEGAL_OPERAND. CFENCE goes on when its core's accepted updates have been applied and no failure is recorded, waits while one is left, and raises the recorded failure. (14_catalogue.md R326; 14_catalogue.md R332; 14_catalogue.md R335; 14_catalogue.md R336; 14_catalogue.md R337; 14_catalogue.md R338; 14_catalogue.md R340) -/
def Obligations.CatalogueCommands : Prop :=
  ∀ (o : EOps) (s : State),
    let cl := clusterOf s.core
    let n := o.ch.toNat
    let a := s.ctx.rg o.h.s1.index
    let b := s.ctx.rg o.h.s2.index
    let own := s.ownCat cl s.ctx.rcb
    let trap (i : Instr) (cause : Nat) (v : Word) := exec i s = .next (s.takeTrapA { cause := cause, tval := some v })
    (Claims.Accepts s →
      (∀ w s1, Issues (.cdef o) o.h s → (readRecord a.toNat).run s = .ok (w, s1) →
        exec (.cdef o) s = .next ((Claims.accepted s1 (.cdef o) o.h.d n a 0 w).retired (.cdef o))) ∧
      (∀ i ∈ [Instr.cswap o, .cstat o, .cins o, .cdel o, .clook o], Issues i o.h s → own n = none →
        trap i cCAT_UNDEF (BitVec.ofNat 64 n)) ∧
      (∀ c, own n = some c →
        (Issues (.cswap o) o.h s → (∀ d, tfind (s.clusterAt cl).cats (o.w.toNat % 16) = some d → d.rcb = s.ctx.rcb) →
          exec (.cswap o) s = .next
            ((Claims.accepted s (.cswap o) o.h.d n (BitVec.ofNat 64 (o.w.toNat % 16)) 0 []).retired (.cswap o))) ∧
        (Issues (.cstat o) o.h s →
          exec (.cstat o) s = .next ((Claims.accepted s (.cstat o) o.h.d n 0 0 []).retired (.cstat o))) ∧
        (∀ i, i = .cins o ∨ i = .cdel o → Issues i o.h s → Claims.updateFits c i a b → s.ctx.updates < 32 →
          exec i s = .next ((Claims.accepted s i o.h.d n a b []).retired i)) ∧
        (∀ i, i = .cins o ∨ i = .cdel o → Issues i o.h s → Claims.updateFits c i a b → 32 ≤ s.ctx.updates →
          exec i s = .next (s.modCtx (·.stallOn .answer false s.now))) ∧
        (∀ i, i = .cins o ∨ i = .cdel o → Issues i o.h s → c.lsh = true → 2 ^ 28 ≤ b.toNat → trap i cILLEGAL_OPERAND b) ∧
        (∀ i, i = .cins o ∨ i = .cdel o → Issues i o.h s → c.lsh = true → b.toNat < 2 ^ 28 → 2 ^ (c.k * c.l) ≤ a.toNat →
          trap i cILLEGAL_OPERAND a) ∧
        (Issues (.cins o) o.h s → c.lsh = false → 2 ^ 32 ≤ b.toNat → trap (.cins o) cILLEGAL_OPERAND b) ∧
        (Issues (.clook o) o.h s → c.lsh = false →
          exec (.clook o) s = .next ((Claims.accepted s (.clook o) o.h.d n a 0 []).retired (.clook o))) ∧
        (Issues (.clook o) o.h s → c.lsh = true → trap (.clook o) cCAT_MODE (BitVec.ofNat 64 n)) ∧
        (Issues (.crehash o) o.h s → a = 0 ∨ 2 ^ 24 < a.toNat → trap (.crehash o) cILLEGAL_OPERAND a) ∧
        (Issues (.crehash o) o.h s → a ≠ 0 → a.toNat ≤ 2 ^ 24 → o.h.s2.isZero = true →
          exec (.crehash o) s = .next ((Claims.accepted s (.crehash o) o.h.d n a b []).retired (.crehash o))) ∧
        (∀ w s1, Issues (.crehash o) o.h s → a ≠ 0 → a.toNat ≤ 2 ^ 24 → o.h.s2.isZero = false →
          (readRecord b.toNat).run s = .ok (w, s1) →
          exec (.crehash o) s = .next ((Claims.accepted s1 (.crehash o) o.h.d n a b w).retired (.crehash o)))) ∧
      (∀ list w3 u v s1 s2, Issues (.cprobe o) o.h s → (catAddress .r b.toNat 32).run s = .ok ((), u) →
        (catAddress .w b.toNat 32).run u = .ok ((), v) → (loadWord b.toNat).run v = .ok (list, s1) →
        (loadWord (b.toNat + 24)).run s1 = .ok (w3, s2) → listOk s2 list (bits w3 15 8) = true →
        bits w3 31 16 = 0 → bits w3 7 4 = 0 → bits w3 15 8 ≠ 0 →
        (∀ c, s2.ownCat (clusterOf s2.core) s2.ctx.rcb (bits w3 3 0) = some c → c.lsh = true →
          exec (.cprobe o) s = .next
            ((Claims.accepted s2 (.cprobe o) o.h.d (bits w3 3 0) a b [list, w3]).retired (.cprobe o))) ∧
        (∀ c, s2.ownCat (clusterOf s2.core) s2.ctx.rcb (bits w3 3 0) = some c → c.lsh = false →
          trap (.cprobe o) cCAT_MODE (BitVec.ofNat 64 (bits w3 3 0))) ∧
        (s2.ownCat (clusterOf s2.core) s2.ctx.rcb (bits w3 3 0) = none →
          trap (.cprobe o) cCAT_UNDEF (BitVec.ofNat 64 (bits w3 3 0))))) ∧
    (Issues (.cfence o) o.h s → s.acqOut = false →
      let left (q : CatCmd) : Prop := q.core = s.core ∧ ((∃ x, q.i = .cins x) ∨ ∃ x, q.i = .cdel x)
      ((∃ q ∈ (s.clusterAt cl).catq, left q) → exec (.cfence o) s = .next (s.modCtx (·.stallOn .fence false s.now))) ∧
      ((∀ q ∈ (s.clusterAt cl).catq, ¬ left q) →
        (s.ctx.catErr = none → exec (.cfence o) s = .next (s.retired (.cfence o))) ∧
        (∀ cause m, s.ctx.catErr = some (cause, m) → exec (.cfence o) s = .next
          (s.takeTrapA { cause := cause, tval := some (BitVec.ofNat 64 m), clears := [.catErr] }))))

/-- When a cluster's unit has one command of a kind to act on: an act that leaves a part of it puts it back to its place; one that ends it answers: one that is not posted writes its answer to D of its context while that firing lives, and a posted update lowers the count of updates, a failure being counted in ERRS and the first kept for CFENCE; one that must wait changes nothing. CDEF of a valid record that nothing stands against defines the catalogue over a zeroed area with its counters 0 and answers 0; else 1, 2, 3, 4 or 5. CSTAT answers the counter it names and clears it if asked; CLOOK answers 0 or 2^32 plus the value of the key's entry, and where it would read uncorrectable data 2^63 plus MACHINE_UE; a number that no longer names a catalogue of the region answers 2^63 plus CAT_UNDEF. CINS works table by table: an entry that a bucket of its search holds stays, an exact one with its new value; else the entry is appended, with age 0 and the other ages one higher, to the first bucket that takes it, under SPILL with MORE set in those before it; without one EVICTOLD makes room in the primary bucket and the other policies drop it; ENTRIES, EVICTS, DROPS and INSERTS count. CDEL removes the entry its search finds and keeps the order of the others. CPROBE collects the rows of the matches of every table, and then writes the first MAX of them in ascending order to LIST, RAW, OVF and MIG to word 3, and answers their number. CSWAP exchanges what its numbers name, for the commands accepted before it too, and answers 6 while one of them migrates. CREHASH answers 7, 6, 2, 4 or 5 where it may not begin or go on, and else migrates one primary after the other, answers CUR, and with the last one the catalogue has its new geometry. (14_catalogue.md R328; 14_catalogue.md R329; 14_catalogue.md R332; 14_catalogue.md R333; 14_catalogue.md R334; 14_catalogue.md R335; 14_catalogue.md R336; 14_catalogue.md R337; 14_catalogue.md R338; 14_catalogue.md R339; 14_catalogue.md R340; 14_catalogue.md R341) -/
def Obligations.CatalogueAnswers : Prop :=
  (∀ (cl n : Nat) (s : State) (q : CatCmd), (s.clusterAt cl).applicable q.posted = [n] → (s.clusterAt cl).catq[n]? = some q →
    let u := s.takeCat cl n
    let acts (t : State) : Prop :=
      exec (if q.posted then .catalogueUpdateApply cl else .catalogueCommandAnswer cl) s = .next t
    let finished (c : Ctx) : Ctx := if q.isUpdate then c.updateDone else c
    let answers (v : Nat) (t : State) : Prop := u.applyCat cl q = .ok (.answer v 0, t)
    (∀ w t, u.applyCat cl q = .ok (.more w, t) → acts (t.returnCat cl n { q with work := w })) ∧
    (∀ e, u.applyCat cl q = .error e → acts s) ∧
    (∀ v ts t, u.applyCat cl q = .ok (.answer v ts, t) →
      (∀ h, q.posted = false → q.i.hd = some h → q.live = true →
        acts (t.modCtxOf q.core q.fc (fun c => ({ finished c with cts := max c.cts ts } : Ctx).wg h.d.index (BitVec.ofNat 64 v)))) ∧
      (q.posted = false → q.live = false → acts (t.modCtxOf q.core q.fc finished)) ∧
      (q.posted = true → v < 2 ^ 63 → acts (t.modCtxOf q.core q.fc Ctx.updateDone)) ∧
      (q.posted = true → 2 ^ 63 ≤ v → ∃ (t2 : State) (m : Nat),
        acts (t2.modCtxOf q.core q.fc (fun c => { c.updateDone with catErr := c.catErr.or (some (v - 2 ^ 63, m)) })) ∧
        (t.ownCat cl q.rcb q.cat = none → t2 = t) ∧
        ∀ c, t.ownCat cl q.rcb q.cat = some c → t2 = t.setCat cl q.cat { c with errs := satAdd c.errs 1 })) ∧
    (∀ o, q.i = .cdef o → recordMode q.words = 1 ∨ recordMode q.words = 2 →
      let g := recordGeo q.words
      let l := recordL q.words
      let x := u.clusterAt cl
      (recordValid q.words = false → answers 2 u) ∧
      (recordValid q.words = true → (tfind x.cats q.cat).isSome = true → answers 1 u) ∧
      (recordValid q.words = true → tfind x.cats q.cat = none →
        ((∃ c ∈ x.cats, c.2.family = recordFamily q.words) → answers 3 u) ∧
        ((∀ c ∈ x.cats, c.2.family ≠ recordFamily q.words) →
          (x.spaceFor (areaOf l g) = false → answers 4 u) ∧
          (x.spaceFor (areaOf l g) = true → u.bucketsFit cl q.rcb (l * 2 ^ g.b) = false → answers 5 u) ∧
          (x.spaceFor (areaOf l g) = true → u.bucketsFit cl q.rcb (l * 2 ^ g.b) = true → ∃ (t : State) (c : Catalogue),
            answers 0 (t.extendTables q.rcb q.words) ∧ tfind (t.clusterAt cl).cats q.cat = some c ∧
            c.rcb = q.rcb ∧ c.geo = g ∧ c.l = l ∧ c.k = recordK q.words ∧ c.lsh = decide (recordMode q.words = 1) ∧
            c.policy = recordPolicy q.words ∧ c.family = recordFamily q.words ∧ c.migrating = none ∧
            (∀ k < 6, c.counter k = 0) ∧
            (∀ a, catalogueKey cl g.cbase ≤ a → a < catalogueKey cl g.cbase + l * 2 ^ g.b * 64 → Memory.read t.mem a = 0) ∧
            (∀ a, a < catalogueKey cl g.cbase ∨ catalogueKey cl g.cbase + l * 2 ^ g.b * 64 ≤ a →
              Memory.read t.mem a = Memory.read u.mem a))))) ∧
    ((∀ o, q.i ≠ .cdef o) → u.ownCat cl q.rcb q.cat = none → answers (2 ^ 63 + 58) u) ∧
    (∀ c, u.ownCat cl q.rcb q.cat = some c →
      (∀ o, q.i = .cstat o → answers (c.counter (bits o.w.toNat 2 0))
        (if o.opt.getLsbD 0 then u.setCat cl q.cat (c.clear (bits o.w.toNat 2 0)) else u)) ∧
      (∀ o, q.i = .clook o → c.lsh = false → c.meetsError u cl q = true → answers (2 ^ 63 + 89) u) ∧
      (∀ o, q.i = .clook o → c.lsh = false → c.meetsError u cl q = false →
        let g := c.geometry 0 q.a.toNat
        let at' (i : Nat) := (u.bucket cl false g 0 i).ents
        let found := c.searched u cl g 0 q.a.toNat
        ((∀ i ∈ found, ∀ e ∈ at' i, e.1 ≠ q.a.toNat) → answers 0 u) ∧
        ((∃ i ∈ found, ∃ e ∈ at' i, e.1 = q.a.toNat) →
          ∃ i ∈ found, ∃ e ∈ at' i, e.1 = q.a.toNat ∧ answers (2 ^ 32 + e.2) u)))) ∧
    (∀ (cl : Nat) (u : State) (q : CatCmd) (c : Catalogue), u.ownCat cl q.rcb q.cat = some c →
    let t := q.work.done
    let x := c.sig q.a.toNat t
    let v := q.b.toNat
    let g := c.geometry t x
    let at' (i : Nat) := u.bucket cl c.lsh g t i
    let put (s : State) (i : Nat) (b : Bucket) := s.setBucket cl c.lsh g t i b
    let holds (i : Nat) : Bool := if c.lsh then !(at' i).ents.isEmpty && (at' i).sig == x && (at' i).ents.any (·.1 == v)
      else (at' i).ents.any (·.1 == x)
    let takes (i : Nat) : Bool := if c.lsh then (at' i).ents.isEmpty || ((at' i).sig == x && decide ((at' i).ents.length < 15))
      else decide ((at' i).ents.length < 5)
    let appended (b : Bucket) : Bucket := if c.lsh then
        { b with sig := x, ents := b.ents.map (fun e => (e.1, min 15 (e.2 + 1))) ++ [(v, 0)] }
      else { b with ents := b.ents ++ [(x, v)] }
    let acts (r : CatStep × State) : Prop := u.applyCat cl q = .ok r
    let found := (c.searched u cl g t x).find? holds
    (∀ o, q.i = .cins o → c.meetsError u cl q = false →
      (∀ i, found = some i → acts (Claims.tableDone (if c.lsh then u
        else put u i { at' i with ents := (at' i).ents.map (fun e => if e.1 == x then (x, v) else e) }) cl q c (2 ^ t) true false)) ∧
      (∀ n, found = none → (c.tried g t x).findIdx? takes = some n →
        let w := if c.policy = 2 then ((c.tried g t x).take n).foldl (fun s i =>
          put s i { s.bucket cl c.lsh g t i with more := true }) u else u
        let i := (c.tried g t x).getD n 0
        acts (Claims.tableDone (put w i (appended (w.bucket cl c.lsh g t i))) cl q
          { c with entries := satAdd c.entries 1 } (2 ^ t) true true)) ∧
      (found = none → (c.tried g t x).findIdx? takes = none → c.policy ≠ 1 →
        acts (Claims.tableDone u cl q { c with drops := satAdd c.drops 1 } (2 ^ (8 + t)) true false)) ∧
      (found = none → (c.tried g t x).findIdx? takes = none → c.policy = 1 →
        let p := g.primary t x
        let kept := if c.lsh then (if !(at' p).ents.isEmpty && (at' p).sig == x then dropOldest (at' p).ents else [])
          else (at' p).ents.drop 1
        let n := (at' p).ents.length - kept.length
        acts (Claims.tableDone (put u p (appended { at' p with ents := kept })) cl q
          { c with entries := satAdd (c.entries - n) 1, evicts := satAdd c.evicts n } (2 ^ t + 2 ^ (16 + t)) true true))) ∧
    (∀ o, q.i = .cdel o → c.meetsError u cl q = false →
      (found = none → acts (Claims.tableDone u cl q c 0 false false)) ∧
      (∀ i, found = some i →
        let n := ((at' i).ents.findIdx? (fun e => if c.lsh then e.1 == v else e.1 == x)).getD 0
        acts (Claims.tableDone (put u i { at' i with ents := (at' i).ents.eraseIdx n }) cl q
          { c with entries := c.entries - 1 } (2 ^ t) false false))) ∧
    (∀ o, q.i = .cprobe o → c.lsh = true → c.meetsError u cl q = false →
      let rows := q.work.rows ++ (c.searched u cl g t x).flatMap (fun i =>
        if !(at' i).ents.isEmpty && (at' i).sig == x then (at' i).ents.map (·.1) else [])
      (t + 1 < c.l → acts (.more { q.work with done := t + 1, rows := rows }, u)) ∧
      (c.l ≤ t + 1 →
        let list := q.words.getD 0 0
        let most := bits (q.words.getD 1 0) 15 8
        let all := sortedRows rows
        let n := min all.length most
        let root := u.effPtroot q.rcb
        let ea := v + 28
        let k := u.coreAt q.core
        ((k.inRole 1 (gaOff list) (4 * most) = false → acts (.answer (2 ^ 63 + cPOOL_RANGE) 0, u)) ∧
        (∀ p w z old ts, k.inRole 1 (gaOff list) (4 * most) = true → k.poolWaits 1 (gaOff list) (4 * most) true = false →
          u.walkWaits (.core q.core) root ea = false →
          locate (((all.take n).zipIdx).foldl (fun s r => s.wrNat (list + 4 * r.2) 4 r.1) u) (.core q.core) q.mode q.core
            root .w ea = .ok (p, w) → p.inReclass w = false →
          w.touch ⟨q.id, q.core, q.fc⟩ q.rcb (w.ctxOf q.core q.fc).cts p 4 (fun _ => some (min all.length 0xFFFF +
            (if most < all.length then 2 ^ 16 else 0) + (if c.migrating.isSome then 2 ^ 17 else 0))) = .ok (z, old, ts) →
          acts (.answer n (ts.getD 0), if most < all.length then z.setCat cl q.cat { c with truncs := satAdd c.truncs 1 } else z))))) ∧
    (∀ o, q.i = .cswap o → (∀ d, tfind (u.clusterAt cl).cats q.a.toNat = some d → d.rcb = q.rcb) →
      let b := q.a.toNat
      let d := tfind (u.clusterAt cl).cats b
      ((c.migrating.isSome = true ∨ (∃ x, d = some x ∧ x.migrating.isSome = true)) → acts (.answer 6 0, u)) ∧
      (c.migrating = none → (∀ x, d = some x → x.migrating = none) → ∃ z : State, acts (.answer 0 0, z) ∧ z.mem = u.mem ∧
        tfind (z.clusterAt cl).cats b = some c ∧ (d.isSome = true → b ≠ q.cat → tfind (z.clusterAt cl).cats q.cat = d) ∧
        (z.clusterAt cl).catq.map (·.cat) = (u.clusterAt cl).catq.map (fun e =>
          if e.cat = q.cat then b else if e.cat = b then q.cat else e.cat))) ∧
    (∀ o, q.i = .crehash o →
      let refuses (n : Nat) := acts (.answer ((if c.migrating.isSome then c.cur * 2 ^ 16 else 0) + n) 0, u)
      let record := recordGeo q.words
      let same := recordValid q.words = true ∧ (recordMode q.words = 1 ↔ c.lsh = true) ∧ recordPolicy q.words = c.policy ∧
        recordFamily q.words = c.family ∧ recordK q.words = c.k ∧ recordL q.words = c.l
      (c.migrating = none → o.h.s2.isZero = true → refuses 7) ∧
      (c.migrating.isSome = true → o.h.s2.isZero = false → t = 0 → refuses 6) ∧
      (c.migrating = none → o.h.s2.isZero = false → ¬ same → refuses 2) ∧
      (c.migrating = none → o.h.s2.isZero = false → same → (u.clusterAt cl).spaceFor (areaOf c.l record) = false → refuses 4) ∧
      (c.migrating = none → o.h.s2.isZero = false → same → (u.clusterAt cl).spaceFor (areaOf c.l record) = true →
        u.bucketsFit cl c.rcb (c.l * 2 ^ record.b) = false → refuses 5) ∧
      (∀ new w m d, (c.migrating = some new ∧ (o.h.s2.isZero = true ∨ t ≠ 0) ∧ w = u ∧ d = c) ∨
          (c.migrating = none ∧ o.h.s2.isZero = false ∧ same ∧ (u.clusterAt cl).spaceFor (areaOf c.l record) = true ∧
            u.bucketsFit cl c.rcb (c.l * 2 ^ record.b) = true ∧ new = record ∧ w = u.zeroArea cl (areaOf c.l record) ∧
            d = { c with migrating := some record, record := q.words, cur := 0 }) →
        (t ≠ 0 ∨ w.migrationFails cl d new q.a.toNat = false) → w.migrateOne cl d new = m →
        m.2.1.cur = d.cur + 1 ∧ m.2.1.l = d.l ∧ m.2.1.geo = d.geo ∧
        (c.l * 2 ^ c.geo.b ≤ d.cur + 1 → ∃ z : State, acts (.answer ((d.cur + 1) * 2 ^ 16 + 2 ^ 8) 0, z) ∧ z.mem = m.2.2.mem ∧
          ∃ y, tfind (z.clusterAt cl).cats q.cat = some y ∧ y.geo = new ∧ y.migrating = none) ∧
        (d.cur + 1 < c.l * 2 ^ c.geo.b → q.a.toNat ≤ t + 1 →
          acts (.answer ((d.cur + 1) * 2 ^ 16) 0, m.2.2.setCat cl q.cat m.2.1)) ∧
        (d.cur + 1 < c.l * 2 ^ c.geo.b → t + 1 < q.a.toNat →
          acts (.more { q.work with done := t + 1 }, m.2.2.setCat cl q.cat m.2.1)))))


/-! ### The Heliostat -/

/-- The command an instruction of the current context makes (R315, R316). -/
def Claims.command (s : State) (i : Instr) (a b c dst : Word) (follow : Bool) : Cmd :=
  { id := s.nextId, core := s.core, fc := s.fc % 4, i := i, rcb := s.ctx.rcb, mode := s.ctx.mode, a := a, b := b, c := c,
    dst := dst, follow := followOf follow s.ctx, checked := false, scales := [], held := [], stage := .queued, pos := 0,
    rows := [], cts := s.ctx.cts, status := 0, ts := 0 }

/-- A tile's ticket names the command (R322). -/
def Claims.ticket (id : Nat) (n : Option Nat) (s : State) : State :=
  match n with
  | some n => s.modHere (·.setTile n (fun t => { t with ticket := some id, status := 0, statusTs := 0 }))
  | none => s

/-- The command is the youngest of its channel, and the tickets of its tiles name it (R315, R318). -/
def Claims.queued (s : State) (i : Instr) (ch : Nat) (a b c dst : Word) (follow : Bool) : State :=
  let cmd := Claims.command s i a b c dst follow
  let t := ({ s with nextId := s.nextId + 1 } : State).modCluster (clusterOf s.core)
    (fun x => x.setChan ch (x.chan ch ++ [cmd]))
  Claims.ticket s.nextId (cmdSource i) (Claims.ticket s.nextId (cmdDest i) t)

/-- Entry t is valid and no pool move holds its bytes (R115, R116). -/
def Claims.named (s : State) (n : Nat) (t : Tile) : Prop := tfind s.here.tiles n = some t ∧ s.here.tileMoving t = false

/-- With its operands right and room in its channel, an engine command is appended to the channel, the tickets of its tiles name it, and it claims the lines it will write; with 64 commands in the channel it waits; a length, a row count or an address out of its limits raises the cause of R317. HWAIT of a channel on which its context has no command, or of a tile whose command has ended, writes the status; else it waits. HCANCEL cancels the context's commands of the channel, but for one whose follow-on product is made, and writes their number. (13_cluster_sync.md R315; 13_cluster_sync.md R316; 13_cluster_sync.md R317; 13_cluster_sync.md R319; 13_cluster_sync.md R320; 13_cluster_sync.md R321; 13_cluster_sync.md R322; 13_cluster_sync.md R323) -/
def Obligations.HeliostatCommands : Prop :=
  ∀ (o : EOps) (s : State) (t : Tile),
    let ch := o.ch.toNat
    let a := s.ctx.rg o.h.s1.index
    let b := s.ctx.rg o.h.s2.index
    let k := s.ctx.rg o.h.s3.index
    let dst := s.ctx.rg o.h.d.index
    let cl := s.clusterAt (clusterOf s.core)
    let wrong (i : Instr) (cause : Nat) (v : Word) := exec i s = .next (s.takeTrapA { cause := cause, tval := some v })
    let takes (i : Instr) (a b c dst : Word) (follow : Bool) : Prop :=
      let q := Claims.queued s i ch a b c dst follow
      let cmd := Claims.command s i a b c dst follow
      (∀ u, (cl.chan ch).length < 64 → (claimRanges cmd (q.cmdDests cmd 0)).run q = .ok ((), u) →
        exec i s = .next (u.retired i)) ∧
      (q.cmdDests cmd 0 = [] → (claimRanges cmd (q.cmdDests cmd 0)).run q = .ok ((), q)) ∧
      (64 ≤ (cl.chan ch).length → exec i s = .next (s.modCtx (·.stallOn .answer false s.now)))
    (Issues (.hcopy o) o.h s → o.h.d.isT = true → Claims.named s o.h.d.index t →
      (b.toNat ≠ t.bytes → wrong (.hcopy o) cILLEGAL_OPERAND b) ∧
      (b.toNat = t.bytes → (o.opt.getLsbD 0 = true → t.smooths = true ∧ k.toNat % 128 = 0 ∧
        k.toNat + 128 ≤ s.here.bankCount .scr * 0x2000) →
        (a.toNat % 16 ≠ 0 → wrong (.hcopy o) cMISALIGNED a) ∧
        (a.toNat % 16 = 0 → takes (.hcopy o) a b k 0 o.f))) ∧
    (Issues (.hcopy o) o.h s → o.h.d.isT = false → o.opt.getLsbD 0 = false →
      (b.toNat % 16 ≠ 0 → wrong (.hcopy o) cILLEGAL_OPERAND b) ∧
      (b.toNat % 16 = 0 → a.toNat % 16 = 0 → dst.toNat % 16 = 0 → takes (.hcopy o) a b k dst false)) ∧
    (Issues (.hgath o) o.h s → Claims.named s o.h.d.index t → t.role ≠ .csm →
      (32 < a.toNat → wrong (.hgath o) cILLEGAL_OPERAND a) ∧
      (a.toNat ≤ 32 → b.toNat % 32 ≠ 0 → wrong (.hgath o) cMISALIGNED b) ∧
      (a.toNat ≤ 32 → b.toNat % 32 = 0 → takes (.hgath o) a b 0 0 o.f)) ∧
    (Issues (.hscat o) o.h s → Claims.named s o.h.s3.index t → t.role ≠ .csm →
      (32 < b.toNat → wrong (.hscat o) cILLEGAL_OPERAND b) ∧
      (b.toNat ≤ 32 → a.toNat % 32 ≠ 0 → wrong (.hscat o) cMISALIGNED a) ∧
      (b.toNat ≤ 32 → a.toNat % 32 = 0 → takes (.hscat o) b a 0 0 false)) ∧
    (Issues (.hpack o) o.h s → Claims.named s o.h.s3.index t → t.role ≠ .csm → t.fmt ≠ .m4 →
      (a.toNat % 32 ≠ 0 → wrong (.hpack o) cMISALIGNED a) ∧ (a.toNat % 32 = 0 → takes (.hpack o) 0 a 0 0 false)) ∧
    (Issues (.hunpk o) o.h s → Claims.named s o.h.d.index t → t.role ≠ .csm → t.fmt ≠ .m4 →
      (a.toNat % 32 ≠ 0 → wrong (.hunpk o) cMISALIGNED a) ∧ (a.toNat % 32 = 0 → takes (.hunpk o) 0 a 0 0 o.f)) ∧
    (Issues (.hwait o) o.h s → o.opt.getLsbD 0 = true →
      let mine (c : Cmd) : Prop := c.core = s.core ∧ c.fc = s.fc % 4
      let r := Sys2Proof.Machine.tget (0, 0) s.ctx.channels ch
      ((∃ c ∈ cl.chan ch, mine c) → exec (.hwait o) s = .next (s.modCtx (·.stallOn .answer false s.now))) ∧
      ((∀ c ∈ cl.chan ch, ¬ mine c) → exec (.hwait o) s = .next
        (((s.modCtx (fun c => { c with cts := max c.cts r.2 })).modCtx (·.wg o.h.d.index r.1)).retired (.hwait o)))) ∧
    (Issues (.hwait o) o.h s → o.opt.getLsbD 0 = false → Claims.named s o.h.s1.index t →
      (t.ticket = none → exec (.hwait o) s = .next ((s.modCtx (·.wg o.h.d.index 0)).retired (.hwait o))) ∧
      (∀ id, t.ticket = some id →
        ((∃ c ∈ s.pendingCmds (clusterOf s.core), c.id = id) →
          exec (.hwait o) s = .next (s.modCtx (·.stallOn .tile true s.now))) ∧
        ((∀ c ∈ s.pendingCmds (clusterOf s.core), c.id ≠ id) → exec (.hwait o) s = .next (((s.modCtx (fun c =>
          { c with cts := max c.cts t.statusTs })).modCtx (·.wg o.h.d.index t.status)).retired (.hwait o))))) ∧
    (Issues (.hcancel o) o.h s →
      let mine := (cl.chan ch).filter (fun c => c.core == s.core && c.fc == s.fc % 4 && c.stage != .made)
      exec (.hcancel o) s = .next ((((mine.foldl (fun s c => s.cancelCmd (clusterOf s.core) c) s).finishSaves).modCtx
        (·.wg o.h.d.index (BitVec.ofNat 64 mine.length))).retired (.hcancel o)))

/-- The first command of a channel that has not started, behind commands that have moved, starts when its tiles can be taken: its destination goes FILLING, its source DRAINING, and its descriptor is read. Each act of a running command moves one unit: HCOPY 16 bytes from the source to the tile or the destination address, HGATH 16 bytes of the row its list names, or zeros beyond the list, HSCAT 16 bytes of a tile row to the address its list names; with SMOOTH each element of HCOPY is the rounded product with the divisor of its K index, and the conditions enter the status. HUNPK and HPACK move a row at a time: HUNPK the values of the row's range to the columns its indices name, HPACK the elements that are not zero to the range, then padding, with TRUNC when not all fit; a range that falls or a column beyond the tile raises SPARSE_ROWPTR. A fault stops it with its cause and INDEX, and its destination tile is EMPTY with the cause. After the last unit its tiles are READY and the checks of its follow-on are made. A follow-on product waits for both its tiles, the array and its accumulator, and a command whose product is made or which has none ends when it heads its channel. (09_matrix.md R224; 09_matrix.md R227; 13_cluster_sync.md R315; 13_cluster_sync.md R318; 13_cluster_sync.md R319; 13_cluster_sync.md R320; 13_cluster_sync.md R321; 05_core_pool.md R119) -/
def Obligations.HeliostatProgress : Prop :=
  ∀ (s s1 s2 : State) (cl ch id : Nat) (c : Cmd) (head : Bool) (tile : Tile) (rows : List Word),
    let t := s.at c.core c.fc
    let own (u : State) : State := { u with core := s.core, fc := s.fc }
    let mover (u : State) : State := { u with core := s.core, fc := s.fc, half := s.half }
    (nextCmd ((s.clusterAt cl).chan ch) = some c → (afterAccesses c.id).run t = .ok ((), t) →
      let c' : Cmd := { c with stage := .running, rows := rows }
      let running (u : State) : State := u.setCmd c'
      (∀ n, cmdDest c.i = some n → cmdSource c.i = none → n < 64 → Claims.Takes t none n tile c.id →
        (readDescriptor c).run (Claims.filling t n) = .ok (rows, s1) →
        exec (.heliostatCommandStart cl ch) s = .next (own (running s1))) ∧
      (∀ n, cmdDest c.i = none → cmdSource c.i = some n → n < 64 → Claims.named t n tile → tile.err = none →
        (tile.state ≠ .ready → exec (.heliostatCommandStart cl ch) s = .next s) ∧
        (tile.state = .ready →
          (readDescriptor c).run (t.modHere (·.setTile n (fun t => { t with state := .draining }))) = .ok (rows, s1) →
          (claimRanges c' (s1.cmdDests c' 0)).run (running s1) = .ok ((), s2) →
          exec (.heliostatCommandStart cl ch) s = .next (own s2))) ∧
      (∀ o, c.i = .hcopy o → o.h.d.isT = false → rows = [] →
        (claimRanges c' [(c.dst.toNat, c.b.toNat)]).run (running t) = .ok ((), s2) →
        exec (.heliostatCommandStart cl ch) s = .next (own s2))) ∧
    (s.findCmd id = some (cl, c, head) → c.stage = .running →
      (s.cmdUnits c ≤ c.pos → c.follow = none → exec (.heliostatCommandComplete id) s = .next
        ((((s.setTileState c.core (cmdDest c.i) .ready).setTileState c.core (cmdSource c.i) .ready).releaseClaims c.id).setCmd
          { c with stage := .moved })) ∧
      (c.pos < s.cmdUnits c →
        (∀ u, (moveUnit c).run t = .ok ((), u) → exec (.heliostatCommandComplete id) s = .next (mover u)) ∧
        (∀ x, (moveUnit c).run t = .error (.trap x) →
          exec (.heliostatCommandComplete id) s = .next ((s.countWalk c.via (s.effPtroot c.rcb) x.cause x.tval).failCmd c
            (s.cmdIndex c) x.cause)) ∧
        (∀ w p, (moveUnit c).run t = .error (.wait w p) → exec (.heliostatCommandComplete id) s = .next s))) ∧
    (∀ o x, c.i = .hcopy o → (engineRead c (c.a.toNat + 16 * c.pos) 16).run t = .ok (x, s1) →
      (o.h.d.isT = true → tfind (t.coreAt c.core).tiles o.h.d.index = some tile →
        tfind (s1.coreAt c.core).tiles o.h.d.index = some tile → o.opt.getLsbD 0 = false →
        (moveUnit c).run t = .ok ((), (s1.landRow c.core tile (c.pos / tileUnits tile) (16 * (c.pos % tileUnits tile))
          (bytesOf 16 x)).setCmd { c with pos := c.pos + 1 })) ∧
      (o.h.d.isT = true → tfind (t.coreAt c.core).tiles o.h.d.index = some tile →
        tfind (s1.coreAt c.core).tiles o.h.d.index = some tile → o.opt.getLsbD 0 = true →
        let width := Fmt.width tile.fmt
        let row := c.pos / tileUnits tile
        let off := 16 * (c.pos % tileUnits tile)
        let first := if tile.role = .csm then row else off * 8 / width
        let m := if tile.role = .csm then 1 else 128 / width
        let a := poolAddr 1 c.core (c.c.toNat + 4 * first)
        let r := (List.range (128 / width)).map (fun e => roundSum tile.fmt o.h.rm.toNat 0
          [mulFV (decodeF tile.fmt (bits x (width * e + width - 1) (width * e)))
            (decodeF .f32 (t.rdNat (poolAddr 1 c.core (c.c.toNat + 4 * (first + e % m))) 4))])
        let kind := Nat.lor c.status.toNat (2 * zBits (orFlags (r.map (·.2))) * 2 ^ 9)
        (divisorsReady c tile row off).run s1 = .ok ((), s1) →
        (s1.coreAt c.core).inRole 1 (c.c.toNat + 4 * first) (4 * m) = true → s1.bad a (4 * m) = false →
        (moveUnit c).run t = .ok ((), (s1.landRow c.core tile row off (bytesOf 16 ((r.zipIdx).map (fun p =>
          p.1.1 * 2 ^ (width * p.2))).sum)).setCmd { c with pos := c.pos + 1, status := BitVec.ofNat 64 kind })) ∧
      (∀ ts, o.h.d.isT = false → (engineWrite c (c.dst.toNat + 16 * c.pos) 16 x
          (t.cmdDests c (c.pos + 1))).run s1 = .ok (ts, s2) →
        (moveUnit c).run t = .ok ((), s2.setCmd { c with pos := c.pos + 1, ts := ts }))) ∧
    (∀ o x, c.i = .hgath o → tfind (t.coreAt c.core).tiles o.h.d.index = some tile →
      let row := c.pos / tileUnits tile
      let off := 16 * (c.pos % tileUnits tile)
      (∀ a, c.rows[row]? = some a → (engineRead c (a.toNat + off) 16).run t = .ok (x, s1) →
        tfind (s1.coreAt c.core).tiles o.h.d.index = some tile →
        (moveUnit c).run t = .ok ((), (s1.landRow c.core tile row off (bytesOf 16 x)).setCmd { c with pos := c.pos + 1 })) ∧
      (c.rows[row]? = none →
        (moveUnit c).run t = .ok ((), (t.landRow c.core tile row off (bytesOf 16 0)).setCmd { c with pos := c.pos + 1 }))) ∧
    (∀ o a ts, c.i = .hscat o → tfind (t.coreAt c.core).tiles o.h.s3.index = some tile →
      let row := c.pos / tileUnits tile
      let off := 16 * (c.pos % tileUnits tile)
      c.rows[row]? = some a → (engineWrite c (a.toNat + off) 16 (natOfBytes (t.tileRow c.core tile row off 16))
        (t.cmdDests c (c.pos + 1))).run t = .ok (ts, s1) →
      (moveUnit c).run t = .ok ((), s1.setCmd { c with pos := c.pos + 1, ts := ts })) ∧
    (∀ o a b, c.i = .hunpk o ∨ c.i = .hpack o →
      let p := (c.rows.getD 0 0).toNat
      let cols := (c.rows.getD 1 0).toNat
      let vals := (c.rows.getD 2 0).toNat
      let n := Fmt.width tile.fmt / 8
      (engineRead c (p + 4 * c.pos) 4).run t = .ok (a, s1) → (engineRead c (p + 4 * (c.pos + 1)) 4).run s1 = .ok (b, s2) →
      (b < a → (moveUnit c).run t = .error (.trap { cause := cSPARSE_ROWPTR, tval := none })) ∧
      (∀ line u, a ≤ b → c.i = .hunpk o → tfind (t.coreAt c.core).tiles o.h.d.index = some tile →
        (unpackRow c cols vals n tile.cols (b - a) a (List.replicate tile.cols 0)).run s2 = .ok (some line, u) →
        (moveUnit c).run t = .ok ((), (u.landRow c.core tile c.pos 0 (line.flatMap (bytesOf n))).setCmd
          { c with pos := c.pos + 1 })) ∧
      (∀ u, a ≤ b → c.i = .hunpk o → tfind (t.coreAt c.core).tiles o.h.d.index = some tile →
        (unpackRow c cols vals n tile.cols (b - a) a (List.replicate tile.cols 0)).run s2 = .ok (none, u) →
        (moveUnit c).run t = .error (.trap { cause := cSPARSE_ROWPTR, tval := none })) ∧
      (∀ ts u, a ≤ b → c.i = .hpack o → tfind (t.coreAt c.core).tiles o.h.s3.index = some tile →
        let zero (x : Nat) : Bool := if tile.fmt.isFloat then x % 2 ^ (Fmt.width tile.fmt - 1) == 0 else x == 0
        let l := ((List.range tile.cols).map (fun k => (k, t.readTile c.core tile c.pos k))).filter (fun e => !zero e.2)
        (packRow c (t.cmdDests c (c.pos + 1)) cols vals n (b - a) a (l.take (b - a)) c.ts).run s2 = .ok (ts, u) →
        (moveUnit c).run t = .ok ((), u.setCmd { c with
          pos := c.pos + 1
          ts := ts
          status := if b - a < l.length then BitVec.ofNat 64 (Nat.lor c.status.toNat (2 ^ 9)) else c.status }))) ∧
    (∀ colidx values n cols m j row k v u,
      (unpackRow c colidx values n cols 0 j row).run t = .ok (some row, t) ∧
      ((engineRead c (colidx + 2 * j) 2).run t = .ok (k, u) →
        (k = 0xFFFF → (unpackRow c colidx values n cols (m + 1) j row).run t =
          (unpackRow c colidx values n cols m (j + 1) row).run u) ∧
        (k ≠ 0xFFFF → cols ≤ k → (unpackRow c colidx values n cols (m + 1) j row).run t = .ok (none, u)) ∧
        (k ≠ 0xFFFF → k < cols → (engineRead c (values + n * j) n).run u = .ok (v, s1) →
          (unpackRow c colidx values n cols (m + 1) j row).run t =
            (unpackRow c colidx values n cols m (j + 1) (row.set k v)).run s1))) ∧
    (∀ later colidx values n m j l ts u v,
      (packRow c later colidx values n 0 j l ts).run t = .ok (ts, t) ∧
      ((engineWrite { c with ts := ts } (colidx + 2 * j) 2 (l.headD (0xFFFF, 0)).1 later).run t = .ok (u, s1) →
        (engineWrite { c with ts := u } (values + n * j) n (l.headD (0xFFFF, 0)).2 later).run s1 = .ok (v, s2) →
        (packRow c later colidx values n (m + 1) j l ts).run t =
          (packRow c later colidx values n m (j + 1) (l.drop 1) v).run s2)) ∧
    (s.findCmd id = some (cl, c, head) → c.stage = .moved ∨ c.stage = .made → c.follow = none →
      (head = true → exec (.heliostatCommandComplete id) s = .next ((s.endCmd cl c c.status).finishSaves)) ∧
      (head = false → exec (.heliostatCommandComplete id) s = .next s)) ∧
    (∀ i o f sparse, s.findCmd id = some (cl, c, head) → c.stage = .moved → c.follow = some i →
      followParts i = some (o, f, sparse) →
      (c.checked = false → exec (.followOnProduct id) s = .next (s.checkFollow c)) ∧
      (c.checked = true → o.h.s1.index ∈ c.held → o.h.s2.index ∈ c.held →
        let w := s.setCmd c
        (∀ u, (followProduct c o f sparse).run (w.at c.core c.fc) = .ok ((), u) → exec (.followOnProduct id) s = .next
          ((mover u).setCmd { c with stage := .made, follow := none, held := [] })) ∧
        (∀ x, (followProduct c o f sparse).run (w.at c.core c.fc) = .error (.trap x) →
          exec (.followOnProduct id) s = .next (w.failFollow c x.cause)) ∧
        (∀ y p, (followProduct c o f sparse).run (w.at c.core c.fc) = .error (.wait y p) →
          exec (.followOnProduct id) s = .next w)))


/-! ### Accesses at their targets -/

/-- Access id of the package itself is on its way to its target, behind no earlier access of its context to the same bytes
(R171, R175). -/
structure Claims.Travels (s : State) (id : Nat) (t : Txn) : Prop where
  known : tfind s.txns id = some t
  travelling : t.stage = .travelling
  near : t.near = true
  first : s.earlierPending id t = false

/-- The home of the line of access id, of no engine, decides it now: no claim, no held line, no copy to recall, no grant to the
same core on its way, and no uncorrectable error in the line (R270, R276, R288, R375, R386). -/
structure Claims.AtHome (s : State) (id : Nat) (t : Txn) (cls : Cls) : Prop extends Claims.Travels s id t where
  target : t.target = .dram cls
  own : gaPkg t.ga = corePkg t.core
  unclaimed : s.claimed (lineOf t.ga) ⟨id, t.core, t.fc⟩ = false
  claimless : ∀ c ∈ (s.homeAt (lineOf t.ga)).claims, c.id ≠ id
  core : t.engine = false
  unheld : s.lineHeld (lineOf t.ga) = false
  alone : s.needsRecall t = false
  ordered : s.recallAhead id t = false
  landed : s.grantPending t.core (lineOf t.ga) id = false
  good : s.bad (lineOf t.ga) 64 = false
  bytes : s.bad t.ga t.size = false

/-- What an access that changes memory stores over an old value (R174, R294). -/
def Claims.newValue (op : TxnOp) (old : Nat) : Option Nat :=
  match op with
  | .store data => some (natOfBytes data)
  | .amo op f rm v false => some (Claims.amoNew op f rm old v)
  | .cas f e v => if old = valOf f e then some (valOf f v) else none
  | _ => none

/-- The acknowledgement of entry id frees it in the posted-store table, lowers its count and leaves the streams (R178). -/
def Claims.acked (id : Nat) (c : Ctx) : Ctx :=
  let c := match c.posted.find? (·.id == id) with | some e => c.addCount e.count (-1) | none => c
  { c with
    posted := c.posted.filter (·.id != id)
    streams := c.streams.map (fun q => { q with unacked := q.unacked.filter (· != id) }) }

/-- REMOTE_ACCESS_PERFORM of an access that the target's region allows and whose bytes lie in a role of its pool reads the old value, stores the new one if the operation stores, and is done; one that is not allowed fails with PERM_DENIED, one outside its role with POOL_RANGE. HOME_REQUEST of a load is served with the home's bytes, or granted the line where the core caches the class, and for HC the line's RTS rises; a store is performed at the home (above every lease, for HC), or granted EXCLUSIVE for HC; a claimed or held line, or one to be recalled, leaves it waiting. HC_RECALL returns the owner's line, and U_RECALL brings one core's delta home, a new write above every lease. (07_scalar_memory.md R171; 12_cluster_memory.md R270; 12_cluster_memory.md R275; 12_cluster_memory.md R276; 12_cluster_memory.md R282; 12_cluster_memory.md R288; 12_cluster_memory.md R291) -/
def Obligations.AccessesPerform : Prop :=
  ∀ (s : State) (id : Nat) (t : Txn),
    (Claims.Travels s id t → t.target = .pool → (∀ r a n m b, t.op ≠ .slot r a n m b) →
      let k := gaCore t.ga
      let within := (s.coreAt k).inRole (gaSpace t.ga) (gaOff t.ga) t.size
      let old := s.rdNat t.ga t.size
      let done : Txn := { t with value := bytesOf t.size old, stage := .done }
      (s.poolAllowed t.core t.rcb k = false → exec (.remoteAccessPerform id) s = .next (s.setTxn id { t with stage := .failed cPERM_DENIED })) ∧
      (s.poolAllowed t.core t.rcb k = true →
        ((s.coreAt k).poolWaits (gaSpace t.ga) (gaOff t.ga) t.size (!t.op.isLoad) = true →
          exec (.remoteAccessPerform id) s = .next s) ∧
        ((s.coreAt k).poolWaits (gaSpace t.ga) (gaOff t.ga) t.size (!t.op.isLoad) = false →
          (within = false → exec (.remoteAccessPerform id) s = .next (s.setTxn id { t with stage := .failed cPOOL_RANGE })) ∧
          (within = true → t.op = .load → s.bad t.ga t.size = true →
            exec (.remoteAccessPerform id) s = .next (s.setTxn id { t with stage := .failed cMACHINE_UE })) ∧
          (within = true → t.op = .load → s.bad t.ga t.size = false →
            exec (.remoteAccessPerform id) s = .next (s.setTxn id done)) ∧
          (∀ x, within = true → s.bad t.ga t.size = false → Claims.newValue t.op old = some x →
            exec (.remoteAccessPerform id) s = .next ((s.wrNat t.ga t.size x).setTxn id done))))) ∧
    (∀ cls, Claims.AtHome s id t cls →
      let line := lineOf t.ga
      let h := s.homeAt line
      let cached := s.caches t.core cls t.ga t.page
      let w := s.sliceFill (if cached then line else t.ga) (if cached then 64 else t.size)
      (t.op = .load →
        let lease := max 1 (s.coreAt t.core).lease.toNat
        let h' : Home := if cls = .hc then { h with rts := max h.rts (max (t.cts + lease) (h.wts + lease)) } else h
        let read : Txn := { t with cts := if cls = .hc then max t.cts h'.wts else t.cts }
        exec (.homeRequest id) s = .next (((w.setHome line h').renewed line (cls == .hc)).setTxn id
          (if cached then { read with stage := .granted, value := bytesOf 64 (s.rdNat line 64), lease := (h'.wts, h'.rts) }
           else { read with stage := .done, value := bytesOf t.size (s.rdNat t.ga t.size) }))) ∧
      (∀ data, t.op = .store data →
        (cached = true → cls = .hc → exec (.homeRequest id) s = .next ((w.setHome line { h with owner := some t.core }).setTxn id
          { t with stage := .granted, value := bytesOf 64 (s.rdNat line 64) })) ∧
        (cached = false → cls = .hc →
          let stamp := max t.cts (h.rts + 1)
          exec (.homeRequest id) s = .next ((((w.setHome line { h with wts := stamp, rts := stamp }).wrNat t.ga t.size
            (natOfBytes data)).updateCopy t.core t.ga t.size).setTxn id
              { t with stage := .done, value := bytesOf t.size (s.rdNat t.ga t.size), cts := stamp })) ∧
        (cls = .sc → exec (.homeRequest id) s = .next (((w.wrNat t.ga t.size (natOfBytes data)).updateCopy t.core t.ga t.size).setTxn
          id { t with stage := .done, value := bytesOf t.size (s.rdNat t.ga t.size) })))) ∧
    (∀ cls, Claims.Travels s id t → t.target = .dram cls → (∀ b, t.op ≠ .flush b) →
      s.claimed (lineOf t.ga) ⟨id, t.core, t.fc⟩ = true ∨ s.lineHeld (lineOf t.ga) = true ∨ s.needsRecall t = true →
      exec (.homeRequest id) s = .next s) ∧
    (∀ line, s.recallWanted line = true → s.grantLanding line = false →
      (∀ k, (s.homeAt line).owner = some k → exec (.hcRecall line) s = .next (s.writeBack k line)) ∧
      ((s.homeAt line).owner = none → exec (.hcRecall line) s = .next s) ∧
      ((s.homeAt line).us = [] → exec (.uRecall line) s = .next s) ∧
      (∀ k, (s.homeAt line).us = [k] →
        let h := s.homeAt line
        let t := s.mergeDelta k line
        exec (.uRecall line) s = .next { (t.setHome line { h with us := [], wts := h.rts + 1, rts := h.rts + 1 }) with
          fresh := t.fresh + 1 }) ∧
      ((s.homeAt line).us ≠ [] → ∃ k ∈ (s.homeAt line).us, ∃ u : State, exec (.uRecall line) s = .next u ∧
        (u.homeAt line).us = (s.homeAt line).us.erase k)) ∧
    (∀ line, s.recallWanted line = false ∨ s.grantLanding line = true →
      exec (.hcRecall line) s = .next s ∧ exec (.uRecall line) s = .next s)

/-- CACHE_FILL_COMPLETE of a granted load places the line, clean, with its lease, and the load reads it; HC_EXCLUSIVE_GRANT of a store places the line EXCLUSIVE, takes the ownership and stores into it above its RTS; U_GRANT applies the pending update to the core's delta, which starts from the identity, drops the core's copy of the line, and raises the timestamp of an HC update above the line's leases (log entry 146). Where the answer has its path, LOAD_DATA_RETURN lands the value, or the error, in its destination, a PERM_DENIED with the address as the program gave it and any other cause with the global address (log entry 107); STORE_ACK frees the posted entry and lowers its count, and a refusal sets the store-error record when it is clear. (05_core_pool.md R91; 07_scalar_memory.md R173; 07_scalar_memory.md R174; 07_scalar_memory.md R178; 07_scalar_memory.md R179; 12_cluster_memory.md R269; 12_cluster_memory.md R275; 12_cluster_memory.md R290) -/
def Obligations.AccessesReturn : Prop :=
  ∀ (s : State) (id : Nat) (t : Txn), tfind s.txns id = some t →
    let line := lineOf t.ga
    let h := s.homeAt line
    (∀ cls, t.stage = .granted → t.target = .dram cls → t.op = .load → (s.coreAt t.core).findLine line = none →
      (cls = .ow → s.holds t.core t.page = true) →
      let l : CchLine := ⟨line, BitVec.ofNat 512 (natOfBytes t.value), 0, cls, t.lease.1, t.lease.2, false⟩
      exec (.cacheFillComplete id) s = .next ((s.install t.core l).setTxn id { t with
        stage := .done
        value := bytesOf t.size (l.get t.ga t.size)
        cts := if cls = .hc then max t.cts l.wts else t.cts })) ∧
    (∀ data, t.stage = .granted → t.target = .dram .hc → t.op = .store data → (s.coreAt t.core).findLine line = none →
      let l : CchLine := ⟨line, s.homeData line, 0, .hc, h.wts, h.rts, true⟩
      let stamp := max t.cts (h.rts + 1)
      exec (.hcExclusiveGrant id) s = .next (((s.setHome line { h with owner := some t.core }).install t.core
        { l.put t.ga t.size (natOfBytes data) with wts := stamp, rts := stamp }).setTxn id
          { t with stage := .done, value := bytesOf t.size (l.get t.ga t.size), cts := stamp })) ∧
    (∀ cls op f v, t.stage = .granted → t.target = .dram cls → t.op = .amoU op f v →
      (s.coreAt t.core).ulines.find? (·.addr == line) = none →
      (s.coreAt t.core).lines.length + (s.coreAt t.core).ulines.length < (s.coreAt t.core).cchRoom →
      exec (.uGrant id) s = .next (((s.modCore t.core (fun c => { c with
        lines := c.lines.filter (·.addr != line)
        ulines := ⟨line, op, f, [(t.ga - line, Claims.amoNew op f 0 (amoIdentity op f) v)]⟩ ::
          c.ulines.filter (·.addr != line) })).setHome line { h with
            us := if h.us.contains t.core then h.us else h.us ++ [t.core] }).setTxn id { t with
              stage := .done
              cts := if cls = .hc then max t.cts (h.rts + 1) else t.cts })) ∧
    (s.answerPath t = true → t.count = none → t.target ≠ .dram .hc → t.op = .load →
      (t.stage = .done → exec (.loadDataReturn id) s = .next ((s.dropTxn id).modCtxOf t.core t.fc (fun c =>
        c.land t.dest none (natOfBytes t.value)))) ∧
      (∀ cause, t.stage = .failed cause → exec (.loadDataReturn id) s = .next ((s.dropTxn id).modCtxOf t.core t.fc (fun c =>
        c.land t.dest (some ⟨cause, BitVec.ofNat 64 (if cause = cPERM_DENIED then t.ea else t.ga),
          match t.dest with | .stream _ _ => none | _ => some t.pc⟩) (natOfBytes t.value))))) ∧
    (s.answerPath t = true → t.engine = false → t.count.isSome = true → t.target ≠ .dram .hc → (∀ r a n m b, t.op ≠ .slot r a n m b) →
      (t.stage = .done → t.rest = [] → exec (.storeAck id) s =
        .next ((((s.dropTxn id).modCtxOf t.core t.fc (Claims.acked id)).finishKills).finishSaves)) ∧
      (∀ r rs, t.stage = .done → t.rest = r :: rs → exec (.storeAck id) s = .next (((s.setTxn id { t with
        op := .store r.data
        ga := r.ga
        size := r.data.length
        page := r.page
        target := r.target
        rest := rs
        stage := .travelling
        sent := s.now }).finishKills).finishSaves)) ∧
      (∀ cause, t.stage = .failed cause → ∃ u : State, exec (.storeAck id) s = .next ((u.finishKills).finishSaves) ∧
        u.txns = tdel s.txns id ∧ u.mem = s.mem ∧ (u.ctxOf t.core t.fc).posted =
          (s.ctxOf t.core t.fc).posted.filter (·.id != id) ∧
        ((∀ e, t.op ≠ .message e) → (s.ctxOf t.core t.fc).storeErr = none → (s.ctxOf t.core t.fc).firing.isSome = true →
          (u.ctxOf t.core t.fc).storeErr = some (BitVec.ofNat 64 t.ga, cause)) ∧
        (∀ r, (s.ctxOf t.core t.fc).storeErr = some r → (u.ctxOf t.core t.fc).storeErr = some r))) ∧
    (t.stage = .travelling → exec (.loadDataReturn id) s = .next s ∧ exec (.storeAck id) s = .next s)


/-! ### Links, packets, hosts and power -/

/-- Package pkg runs, and the LINKCTL of its port n lets it go on (R393, R394). -/
structure Claims.Linked (s : State) (pkg n : Nat) : Prop where
  runs : s.pkgRuns pkg = true
  enabled : (s.port pkg n).en = true
  steady : (s.port pkg n).retrain = false

/-- The port comes to a state with locked lanes now (R393, R394). -/
def Claims.port (s : State) (pkg n : Nat) (st : LinkState) (lanes : Nat) : State :=
  s.setPortOf pkg n { s.port pkg n with st := st, lanes := lanes, since := s.now }

/-- The port fails with a cause (R393, R394). -/
def Claims.failed (s : State) (pkg n lanes cause : Nat) : State :=
  s.setPortOf pkg n { s.port pkg n with st := .failed, lanes := lanes, since := s.now, cause := cause }

/-- One free value is taken. -/
def Claims.counted (s : State) (n : Nat) : State := { s with fresh := s.fresh + n }

/-- A port of a running package whose LINKCTL does not stop it goes from DISABLED to AN, from AN within 500 ms to TRAIN, from TRAIN within 500 ms to ALIGN, from ALIGN within 10 ms to ASSOC with four locked lanes, from ASSOC within 100 ms to UP, and from FAILED after 1 s to AN; at its limit AN fails with cause 1 or 2, TRAIN with 3, ALIGN with 4, ASSOC with 6, and ASSOC refused fails with 5; an UP port that fails goes to FAILED with cause 4 and one more flap. EN = 0 takes any other port to DISABLED with cause 8, and RETRAIN takes any port but a DISABLED one back to AN. A row does nothing in another state. LANES is 15 from a lock on, a free value after a failure, and 0 in the states before (log entry 88), and which of the causes 1 and 2 is a free choice (log entry 89). (21_fabric.md R393; 21_fabric.md R394) -/
def Obligations.Links : Prop :=
  ∀ (s : State) (pkg n : Nat),
    let p := s.port pkg n
    let up := s.now - p.since
    let flaps := if p.st = .up then min (p.flaps + 1) 0xFFFF else p.flaps
    let lanes := (Config.freeValue s.fresh).toNat % 16
    (Claims.Linked s pkg n →
      (p.st = .disabled → exec (.linkEnable pkg n) s = .next (Claims.port s pkg n .an 0)) ∧
      (p.st = .an → up ≤ 400000000 → exec (.linkAnResolved pkg n) s = .next (Claims.port s pkg n .train 0)) ∧
      (p.st = .an → 400000000 ≤ up → exec (.linkAnTimeout pkg n) s =
        .next (Claims.failed (Claims.counted s 1) pkg n 0 (if Config.choice s.fresh then 2 else 1))) ∧
      (p.st = .train → up ≤ 400000000 → exec (.linkTrainDone pkg n) s = .next (Claims.port s pkg n .align 0)) ∧
      (p.st = .train → 400000000 ≤ up → exec (.linkTrainTimeout pkg n) s = .next (Claims.failed s pkg n 0 3)) ∧
      (p.st = .align → up ≤ 8000000 → exec (.linkLock pkg n) s = .next (Claims.port s pkg n .assoc 15)) ∧
      (p.st = .align → 8000000 ≤ up → exec (.linkLockTimeout pkg n) s =
        .next (Claims.failed (Claims.counted s 1) pkg n lanes 4)) ∧
      (p.st = .assoc → up ≤ 80000000 → exec (.linkAssocDone pkg n) s = .next (Claims.port s pkg n .up 15)) ∧
      (p.st = .assoc → up ≤ 80000000 → exec (.linkAssocRefused pkg n) s =
        .next (Claims.failed (Claims.counted s 1) pkg n lanes 5)) ∧
      (p.st = .assoc → 80000000 ≤ up → exec (.linkAssocTimeout pkg n) s =
        .next (Claims.failed (Claims.counted s 1) pkg n lanes 6)) ∧
      (p.st = .up → exec (.linkFail pkg n) s = .next ((Claims.counted s 1).setPortOf pkg n
        { p with st := .failed, lanes := lanes, since := s.now, cause := 4, flaps := min (p.flaps + 1) 0xFFFF })) ∧
      (p.st = .failed → 800000000 ≤ up → exec (.linkFailedRetry pkg n) s = .next (Claims.port s pkg n .an 0)) ∧
      (p.st ≠ .disabled → exec (.linkEnable pkg n) s = .next s) ∧
      (p.st ≠ .failed → exec (.linkFailedRetry pkg n) s = .next s)) ∧
    (s.pkgRuns pkg = true → p.en = false → p.st ≠ .disabled → exec (.linkDisable pkg n) s = .next (s.setPortOf pkg n
      { p with st := .disabled, lanes := 0, since := s.now, cause := 8, flaps := flaps })) ∧
    (s.pkgRuns pkg = true → p.retrain = true → p.st ≠ .disabled → exec (.linkRetrain pkg n) s = .next (s.setPortOf pkg n
      { p with st := .an, lanes := 0, since := s.now, retrain := false, flaps := flaps })) ∧
    (s.pkgRuns pkg = true → p.retrain = true → p.st = .disabled → exec (.linkRetrain pkg n) s =
      .next (s.setPortOf pkg n { p with retrain := false }))

/-- A packet of another package with an UP port on its way and at its target, whose source the target's table names, is performed at its target like an access of the package, and one without such a port or whose source it does not name is not; a resend leaves it on its way; after the fabric limit it fails with FABRIC_TIMEOUT. An entry of a host queue of its kind, from its endpoint and of the format of R401, is delivered to the mailbox, handed to the firmware as a launch, or verified as a firmware record whose result is posted; any other is dropped. Hosts reach a package over an UP port (log entry 143), and a flash write succeeds or fails by a free choice (log entry 92). An outbound entry is written to a ring with room, TAIL counts it, and its transaction is done. A window that allows it serves a read within a line, for which the home takes newer copies back, and a write within a line, which stores its data at the home above every lease; any other access of a window is refused. (21_fabric.md R392; 21_fabric.md R397; 21_fabric.md R399; 21_fabric.md R401; 21_fabric.md R402; 21_fabric.md R403; 21_fabric.md R405; 21_fabric.md R409) -/
def Obligations.PacketsAndHosts : Prop :=
  ∀ (s : State),
    (∀ id t, tfind s.txns id = some t → t.near = false →
      let limit := max 1 (s.pkgAt t.source).tmo.toNat * 1024
      (t.stage = .travelling → s.pkgRuns (gaPkg t.ga) = true → s.pathOpen t.source (gaPkg t.ga) = true →
        s.sourceOk (gaPkg t.ga) t.source = true → exec (.fabricPacketArrival id) s = .next (s.performAt id t)) ∧
      (t.stage = .travelling → s.pathOpen t.source (gaPkg t.ga) = false ∨ s.sourceOk (gaPkg t.ga) t.source = false →
        exec (.fabricPacketArrival id) s = .next s) ∧
      exec (.fabricResend id) s = .next (s.setTxn id t) ∧
      (limit ≤ s.now - t.sent → t.stage = .travelling ∨ t.stage = .done →
        exec (.fabricTimeout id) s = .next (s.setTxn id { t with stage := .failed 81 })) ∧
      (s.now - t.sent < limit → exec (.fabricTimeout id) s = .next s)) ∧
    (∀ pkg q endpoint entry,
      let base := s.queueWord pkg q 2
      let reply (u : State) (v : Nat) : State := u.postResult pkg q (entry.getD 1 0) (BitVec.ofNat 64 v)
      (s.queueTakes pkg q 0 endpoint entry = true → ∀ k m, mailboxName (s.queueWord pkg q 1) = some (k, m) →
        let n := bits (entry.headD 0).toNat 27 24
        exec (.hostQueueMessage pkg q endpoint entry) s = .next (s.deliver k m (messageEntry
          (pkg * 2 ^ 52 + 0x3FFF * 2 ^ 34 + n * 2 ^ 24 + m) ((entry.drop 1).take n)) none).2) ∧
      (s.queueTakes pkg q 0 endpoint entry = false → exec (.hostQueueMessage pkg q endpoint entry) s = .next s) ∧
      (s.queueTakes pkg q 1 endpoint entry = true → exec (.hostQueueLaunch pkg q endpoint entry) s =
        .next (({ s with nextId := s.nextId + 1 } : State).modPkg pkg (fun p => { p with
          launches := Sys2Proof.Machine.tset p.launches s.nextId ⟨s.queueWord pkg q 1, none, pkg * 96,
            some (q, entry.getD 2 0), (entry.getD 1 0).toNat, s.now⟩ }))) ∧
      (s.queueTakes pkg q 1 endpoint entry = false → exec (.hostQueueLaunch pkg q endpoint entry) s = .next s) ∧
      (s.queueTakes pkg q 2 endpoint entry = true →
        let record := s.peekBytes (entry.getD 1 0).toNat (entry.getD 2 0).toNat
        let len := bits (byteWord record 0).toNat 63 32
        let target := bits (byteWord record 0).toNat 15 0
        let signed := recordSigned record
        let held := ((tfind (s.pkgAt pkg).flash target).map (·.svn)).getD 0
        let svn := (byteWord record 1).toNat
        (recordFormat record = false → exec (.hostQueueFirmware pkg q endpoint entry) s = .next (reply s 1)) ∧
        (recordFormat record = true → signed = false →
          exec (.hostQueueFirmware pkg q endpoint entry) s = .next (reply s 2)) ∧
        (recordFormat record = true → signed = true → svn < held →
          exec (.hostQueueFirmware pkg q endpoint entry) s = .next (reply s 3)) ∧
        (recordFormat record = true → signed = true → held ≤ svn →
          exec (.hostQueueFirmware pkg q endpoint entry) s = .next (if Config.choice s.fresh then reply (Claims.counted s 1) 4
            else reply ((Claims.counted s 1).modPkg pkg (fun p => { p with
              flash := Sys2Proof.Machine.tset p.flash target ⟨svn, (record.drop 64).take len, record⟩ })) 0))) ∧
      (s.queueTakes pkg q 2 endpoint entry = false → exec (.hostQueueFirmware pkg q endpoint entry) s = .next s) ∧
      (∀ e rest, Sys2Proof.Machine.tget [] (s.pkgAt pkg).outq q = e :: rest → s.pkgRuns pkg = true →
        let depth := bits (s.queueWord pkg q 0) 7 0
        let tail := s.peek base 8
        let slot := base + 64 * (tail % max depth 1 + 1)
        ((tail + 2 ^ 64 - s.peek (base + 8) 8) % 2 ^ 32 = depth → exec (.outboundAppend pkg q) s = .next s) ∧
        ((tail + 2 ^ 64 - s.peek (base + 8) 8) % 2 ^ 32 ≠ depth → s.linesFree base 8 = true → s.linesFree slot 64 = true →
          let x := ((s.pokeData State.poke slot 2 (e.entry.flatMap (fun w => bytesOf 8 w.toNat))).poke base 8
            ((tail + 1) % 2 ^ 64)).modPkg pkg (fun p => { p with outq := Sys2Proof.Machine.tset p.outq q rest })
          (e.txn = none → exec (.outboundAppend pkg q) s = .next x) ∧
          (∀ id t, e.txn = some id → tfind x.txns id = some t →
            exec (.outboundAppend pkg q) s = .next (x.setTxn id { t with stage := .done })))) ∧
      (Sys2Proof.Machine.tget [] (s.pkgAt pkg).outq q = [] → exec (.outboundAppend pkg q) s = .next s)) ∧
    (∀ pkg w endpoint off len data,
      let ga := s.windowWord pkg w 1 + off
      (s.windowServes pkg w endpoint off len false = true → s.linesFree ga len = true → len ≤ 64 - ga % 64 → 0 < len →
        exec (.hostWindowRead pkg w endpoint off len) s = .next (s.settleLine (lineOf ga))) ∧
      (s.windowServes pkg w endpoint off len false = false →
        exec (.hostWindowRead pkg w endpoint off len) s = .next s) ∧
      (s.windowServes pkg w endpoint off data.length true = true → s.linesFree ga data.length = true → data ≠ [] →
        data.length ≤ 64 - ga % 64 → exec (.hostWindowWrite pkg w endpoint off data) s =
          .next (s.pokeHome ga data.length (natOfBytes data))) ∧
      (s.windowServes pkg w endpoint off data.length true = false →
        exec (.hostWindowWrite pkg w endpoint off data) s = .next s))

/-- POWER_UP of a package that does not run whose flash verifies (and by a free choice, log entry 92) leaves every byte of its memory, of its catalogue areas and of its fabric tables zero and no core, access or error of it, sets PKGID, the registers to their reset values and the endpoint table of flash, and leaves every other package's memory; a package whose flash fails stops and says so. A throttle and a scrub pass time only (log entry 93). A shutdown turns the package off. A CRC retry that fails marks the 64 bytes of one transfer of its site, and one that succeeds changes nothing. WRITEBACK_UE of a dirty sector (an error that may arise in any step, log entry 94) leaves the home's bytes and drops the sector's mark, and of a core with a region sends the fault record of MACHINE_UE with the sector's address to the region's fault mailbox, whose policy acts. (19_package.md R370; 19_package.md R384; 19_package.md R385; 19_package.md R386; 21_fabric.md R394; 21_fabric.md R399; 21_fabric.md R405) -/
def Obligations.PowerAndErrors : Prop :=
  ∀ (s : State) (pkg : Nat),
    let p := s.pkgAt pkg
    let passed : State := { s with now := s.now + Config.cycles s.tick }
    (s.pkgRuns pkg = false → p.flashOk = true → Config.choice s.fresh = false → ∃ t : State, exec (.powerUp pkg) s = .next t ∧
      (∀ a, Memory.read t.mem a = if keyPkg a = pkg then 0 else Memory.read s.mem a) ∧
      (∀ k ∈ t.errs, keyPkg k ≠ pkg) ∧ (∀ c ∈ t.cores, corePkg c.1 ≠ pkg) ∧ (∀ x ∈ t.txns, corePkg x.2.core ≠ pkg) ∧
      (∀ f ∈ t.flights, f.2.pkg ≠ pkg) ∧ (∀ u ∈ t.ues, corePkg u.1 ≠ pkg) ∧
      (t.pkgAt pkg).on = true ∧ (t.pkgAt pkg).off = false ∧ (t.pkgAt pkg).pkgid = BitVec.ofNat 12 pkg ∧
      (t.pkgAt pkg).tmo = 0x4000 ∧ (t.pkgAt pkg).flash = p.flash ∧
      (t.pkgAt pkg).endpoints = ((tfind p.flash 4).map (·.payload)).getD [] ∧
      (∀ n, (t.port pkg n).st = .disabled ∧ (t.port pkg n).en = true)) ∧
    (s.pkgRuns pkg = false → p.flashOk = false ∨ Config.choice s.fresh = true → exec (.powerUp pkg) s =
      .next ((Claims.counted s 1).modPkg pkg (fun p => { p with off := true, firmwareFault := true }))) ∧
    (s.pkgRuns pkg = true → exec (.powerUp pkg) s = .next s) ∧
    (s.pkgRuns pkg = true → ∀ die < 16,
      exec (.thermalThrottle pkg die) s = .next passed ∧ exec (.powerThrottle pkg die) s = .next passed ∧
      exec (.thermalShutdown pkg die) s = .next (s.modPkg pkg (fun p => { p with off := true }))) ∧
    (s.pkgRuns pkg = true → ∀ site < 32,
      exec (.dramScrub pkg site) s = .next passed ∧
      let w := (Config.freeValue (s.fresh + 1)).toNat
      let a := w % 2 ^ 42 / 64 * 64
      let ks := (List.range 8).map (fun k => pkg * 2 ^ 52 + a + 8 * k)
      (Config.choice s.fresh = false → exec (.dramCrcRetry pkg site) s = .next (Claims.counted s 2)) ∧
      (Config.choice s.fresh = true → bit w 63 = false → siteOf a = site → inSpillLog a = false →
        exec (.dramCrcRetry pkg site) s =
          .next { s with fresh := s.fresh + 2, errs := s.errs.filter (fun k => !ks.contains k) ++ ks })) ∧
    (∀ core line sector l, (s.coreAt core).findLine line = some l →
      (l.dirty.getLsbD (sector % 4) = false ∨ s.lives (corePkg core) = false →
        exec (.writebackUe core line sector) s = .next s) ∧
      (l.dirty.getLsbD (sector % 4) = true → s.lives (corePkg core) = true → ∃ (t : State) (l' : CchLine),
        ((s.coreAt core).region = none → exec (.writebackUe core line sector) s = .next t) ∧
        (∀ r, (s.coreAt core).region = some r → ∃ w0 w1 w3 : Word, w0.toNat % 2 ^ 7 = 89 ∧ w0.toNat / 2 ^ 32 = 0xFFFFFF ∧
          let x : State := { t with fresh := t.fresh + 3 }
          let v := x.notify core 0 (x.effFmbx r) [w0, w1, BitVec.ofNat 64 (line + 16 * (sector % 4)), w3]
          exec (.writebackUe core line sector) s = .next (if v.effPolicy r = 1 then v.kill r else v)) ∧
        t.mem = s.mem ∧ t.packages = s.packages ∧ (t.coreAt core).findLine line = some l' ∧
        l'.dirty.getLsbD (sector % 4) = false ∧
        l'.get (line + 16 * (sector % 4)) 16 = s.rdNat (line + 16 * (sector % 4)) 16 ∧
        (∀ j < 4, j ≠ sector % 4 → l'.dirty.getLsbD j = l.dirty.getLsbD j))) ∧
    (∀ core line sector, (s.coreAt core).findLine line = none → exec (.writebackUe core line sector) s = .next s)


/-! ### The whole machine -/

/-- Every well-formed instruction, with every operand at every value the encoding admits, is what the decoder reads from its word; and every word the decoder accepts is the word of the instruction it reads, which is well-formed. (03_formats.md R47; 03_formats.md R48; 03_formats.md R53; 03_formats.md R54; 03_formats.md R56; 03_formats.md R57; 03_formats.md R58; 03_formats.md R59; 03_formats.md R60) -/
def Obligations.DecodeEncode : Prop :=
  (∀ i : Instr, i.WellFormed → decode (encode i) = .ok i) ∧
    (∀ (w : BitVec 96) (i : Instr), decode w = .ok i → i.WellFormed ∧ encode i = w)

/-- ADD g7, g2, 8; PHEAD g4, in0; LOOP g5; XLOOP 1, g2; POOLSET g9, MAT, CCH, 8; CMP.ltu p1, g6, g2; LD.acq.n64 g27, [g25]; VCMP.flt.f32 v3, v1, v2; MMA.m4 z1, t2, t32; MDRAIN z2, g13, 5; GCOMB.f32 v16, g4, 1; TRAPC 17, g5; AMO.add.n64.sys.zf [g3], g4; CINS g9, 2, g10, g11; GRES.f32 g9, v4, g5; RFORK; HGATH t6, g29, g13; DMCLOSE g9: each decodes, from the word the spec gives, to the instruction it stands for. (03_formats.md R59; 04_firing.md R77; 07_scalar_memory.md R166; 11_core_faults.md R264; 13_cluster_sync.md R298; 19_package.md R377) -/
def Obligations.DecodedWords : Prop :=
  decode 0x0100001C02FFC00000000008 = .ok (.add ⟨⟨0, 0, .g 7, .g 2, .lit, .g 0⟩, 8⟩) ∧
    decode 0x320000100000000000000000 = .ok (.phead ⟨⟨0, 0, .g 4, .g 0, .g 0, .g 0⟩, 0⟩) ∧
    decode 0x301400140000000FFFFFFFF1 = .ok (.loop ⟨⟨0, 0, .g 5, .g 0, .g 0, .g 0⟩, 0xFFFFFFFF1⟩) ∧
    decode 0x340000000200000000000000 = .ok (.xloop ⟨⟨0, 0, .g 0, .g 2, .g 0, .g 0⟩, 0⟩) ∧
    decode 0x700000240000000000000308 = .ok (.poolset ⟨⟨0, 0, .g 9, .g 0, .g 0, .g 0⟩, 0x308⟩) ∧
    decode 0x030200840600800000000000 = .ok (.cmp ⟨⟨4, 0, .p 1, .g 6, .g 2, .g 0⟩, 0⟩) ∧
    decode 0x4000006C1900000F20000000 = .ok (.ld ⟨⟨0, 0, .g 27, .g 25, .g 0, .g 0⟩, .n64, false, 1, 0, false, 0⟩) ∧
    decode 0x8201040D0140800008000000 = .ok (.vcmp ⟨⟨2, 0, .v 3, .v 1, .v 2, .g 0⟩, 0, 0, 0, .f32, .none, false, false, 0⟩) ∧
    decode 0xC00002044218000700000000 = .ok (.mma ⟨⟨0, 0, .z 1, .t 2, .t 32, .g 0⟩, .m4, .none, 0, 0⟩) ∧
    decode 0xC20000008203400000000005 = .ok (.mdrain ⟨⟨0, 0, .g 0, .z 2, .g 13, .g 0⟩, .none, .none, 0, 5⟩) ∧
    decode 0xD104044004FFC00008000001 = .ok (.gcomb ⟨⟨0, 0, .v 16, .g 4, .lit, .g 0⟩, 0, 0, 0, .f32, .none, false, false, 1⟩) ∧
    decode 0x000400000500000000000011 = .ok (.trapc ⟨⟨0, 0, .g 0, .g 5, .g 0, .g 0⟩, 17⟩) ∧
    decode 0x510000000300004F12000000 = .ok (.amoAdd ⟨⟨0, 0, .g 0, .g 3, .g 0, .g 4⟩, .n64, false, 0, 4, true, 0⟩) ∧
    decode 0xE10000240A02C00100000000 = .ok (.cins ⟨⟨0, 0, .g 9, .g 10, .g 11, .g 0⟩, false, 2, 0, 0, .none, 0⟩) ∧
    decode 0xD20400250401400008000000 = .ok (.gres ⟨⟨0, 0, .g 9, .v 4, .g 5, .g 0⟩, 0, 0, 0, .f32, .none, false, false, 0⟩) ∧
    decode 0x640000001700800000200018 = .ok (.rfork ⟨⟨0, 0, .g 0, .g 23, .g 2, .g 0⟩, 0x8, 0x18⟩) ∧
    decode 0xE90001181D03400000000000 = .ok (.hgath ⟨⟨0, 0, .t 6, .g 29, .g 13, .g 0⟩, false, 0, 0, 0, .none, 0⟩) ∧
    decode 0x550C00240000000000000000 = .ok (.dmclose ⟨⟨0, 0, .g 9, .g 0, .g 0, .g 0⟩, false, 0, 0, 0, .none, 0⟩)

/-- When the line of the context's pc is buffered, passes the target test of a transfer, has no reserved line-word bit, and its slot holds, in a template place of the right stream, a word that decodes to i: issuing that slot is exec of i on that context. A step whose turn is that context, and the A-half of its core when the context stands first in the rotation, does exactly this, in the first case after the step has been numbered and time has passed; when i does not wait, the A-half's rotation then points behind the context. A slot whose word decodes to nothing, or whose stream is not the place's, raises ILLEGAL_OP with the word. (03_formats.md R38; 03_formats.md R40; 03_formats.md R44; 03_formats.md R47; 03_formats.md R60; 05_core_pool.md R88) -/
def Obligations.StepRunsDecoded : Prop :=
  ∀ (s : State) (k fc : Nat) (l : Line) (kind : SlotKind) (i : Instr),
    let c := s.ctxOf k fc
    let w := l.slot (c.pc.toNat % 8)
    c.line = some l → (c.xfer = none ∨ l.targetOk c.pc = true) → bits l.lineWord 21 16 = 0 →
    l.template[c.pc.toNat % 8]? = some kind →
    (decode w = .ok i → i.stream = kind.stream → hasFollow i = false → kind ≠ .pairE → kind ≠ .followX →
      issueSlot s k fc = exec i (s.at k fc) ∧
      (s.turn = some (k, fc) → s.issuable k fc = true → step s = exec i (s.tickOn.at k fc)) ∧
      (∀ t, (s.coreAt k).aptr.toNat = fc → s.issuable k fc = true → exec i (s.at k fc) = .next t → t.waits k fc = false →
        s.perform (.issue k) = .next (t.modCore k (fun c => { c with aptr := BitVec.ofNat 2 (fc + 1), quietSince := t.now })))) ∧
    (∀ e, decode w = .error e → issueSlot s k fc = .next ((s.at k fc).takeTrapA
      { cause := 0, tval := some (w.extractLsb' 32 64), tval2 := some ((w.extractLsb' 0 32).setWidth 64) })) ∧
    (decode w = .ok i → i.stream ≠ kind.stream → issueSlot s k fc = .next ((s.at k fc).takeTrapA
      { cause := 0, tval := some (w.extractLsb' 32 64), tval2 := some ((w.extractLsb' 0 32).setWidth 64) }))

/-- If memory is in its canonical form (keys strictly rising, no byte listed as zero) and a step answers a next state, that state's memory is in canonical form too. (00_scope.md R4; 19_package.md R384) -/
def Obligations.StepKeepsMemory : Prop :=
  ∀ s t : State, Memory.wf s.mem = true → step s = .next t → Memory.wf t.mem = true

/-- When one of the two-source scalar instructions issues with both sources in g registers, exec answers a next state in which the destination register (unless it is g0) holds the result, and every other g register, every predicate, FFLAGS, the queues, the streams, the trap registers, EVLATCH, the mode, the posted stores, memory, the accesses under way, the clusters, the packages, the quads and every other core are as before. (07_scalar_memory.md R161; 07_scalar_memory.md R162; 07_scalar_memory.md R163) -/
def Obligations.ScalarFrame : Prop :=
  ∀ (i : Instr) (o : AOps) (f : Word → Word → Word) (s : State) (a b : BitVec 5), Claims.two i = some (o, f) →
    Issues i o.h s → o.h.s1 = .g a → o.h.s2 = .g b → ∃ t, exec i s = .next t ∧
    (o.h.d.index % 32 ≠ 0 → t.ctx.rg o.h.d.index = f (s.ctx.rg a.toNat) (s.ctx.rg b.toNat)) ∧
    (∀ k, k % 32 ≠ o.h.d.index % 32 → t.ctx.rg k = s.ctx.rg k) ∧
    t.ctx.p = s.ctx.p ∧ t.ctx.fflags = s.ctx.fflags ∧ t.ctx.vsat = s.ctx.vsat ∧ t.ctx.q0 = s.ctx.q0 ∧ t.ctx.q1 = s.ctx.q1 ∧
    t.ctx.streams = s.ctx.streams ∧ t.ctx.xseq = s.ctx.xseq ∧ t.ctx.evlatch = s.ctx.evlatch ∧ t.ctx.mode = s.ctx.mode ∧
    t.ctx.tcause = s.ctx.tcause ∧ t.ctx.tval = s.ctx.tval ∧ t.ctx.tval2 = s.ctx.tval2 ∧ t.ctx.tpc = s.ctx.tpc ∧
    t.ctx.tnext = s.ctx.tnext ∧ t.ctx.tscratch = s.ctx.tscratch ∧ t.ctx.trap = s.ctx.trap ∧ t.ctx.posted = s.ctx.posted ∧
    t.ctx.firing = s.ctx.firing ∧ t.ctx.win = s.ctx.win ∧ t.mem = s.mem ∧ (∀ x, Memory.read t.mem x = Memory.read s.mem x) ∧
    t.txns = s.txns ∧ t.clusters = s.clusters ∧ t.packages = s.packages ∧ t.quads = s.quads ∧
    (∀ j, j ≠ s.core → t.coreAt j = s.coreAt j) ∧ t.here.tiles = s.here.tiles ∧ t.here.banks = s.here.banks ∧
    t.here.zflags = s.here.zflags ∧ (∀ j, j % 4 ≠ s.fc % 4 → t.ctxOf s.core j = s.ctxOf s.core j)
end

