-- ==== Sys2Proof/Laws/State.lean ====
section
/-! SUPPORT. What each update leaves alone: one lemma for each field and each named update, so that no proof unfolds a
record update; and what the update does to what it updates. -/

namespace Sys2Proof.Machine

/-! ### setCore -/

@[simp] theorem State.setCore_mem (s : State) (k : Nat) (c : Core) : (s.setCore k c).mem = s.mem := rfl
@[simp] theorem State.setCore_errs (s : State) (k : Nat) (c : Core) : (s.setCore k c).errs = s.errs := rfl
@[simp] theorem State.setCore_ues (s : State) (k : Nat) (c : Core) : (s.setCore k c).ues = s.ues := rfl
@[simp] theorem State.setCore_quads (s : State) (k : Nat) (c : Core) : (s.setCore k c).quads = s.quads := rfl
@[simp] theorem State.setCore_clusters (s : State) (k : Nat) (c : Core) : (s.setCore k c).clusters = s.clusters := rfl
@[simp] theorem State.setCore_packages (s : State) (k : Nat) (c : Core) : (s.setCore k c).packages = s.packages := rfl
@[simp] theorem State.setCore_txns (s : State) (k : Nat) (c : Core) : (s.setCore k c).txns = s.txns := rfl
@[simp] theorem State.setCore_flights (s : State) (k : Nat) (c : Core) : (s.setCore k c).flights = s.flights := rfl
@[simp] theorem State.setCore_core (s : State) (k : Nat) (c : Core) : (s.setCore k c).core = s.core := rfl
@[simp] theorem State.setCore_fc (s : State) (k : Nat) (c : Core) : (s.setCore k c).fc = s.fc := rfl
@[simp] theorem State.setCore_half (s : State) (k : Nat) (c : Core) : (s.setCore k c).half = s.half := rfl
@[simp] theorem State.setCore_turn (s : State) (k : Nat) (c : Core) : (s.setCore k c).turn = s.turn := rfl
@[simp] theorem State.setCore_now (s : State) (k : Nat) (c : Core) : (s.setCore k c).now = s.now := rfl
@[simp] theorem State.setCore_fresh (s : State) (k : Nat) (c : Core) : (s.setCore k c).fresh = s.fresh := rfl
@[simp] theorem State.setCore_nextId (s : State) (k : Nat) (c : Core) : (s.setCore k c).nextId = s.nextId := rfl
@[simp] theorem State.setCore_tick (s : State) (k : Nat) (c : Core) : (s.setCore k c).tick = s.tick := rfl
@[simp] theorem State.setCore_inputs (s : State) (k : Nat) (c : Core) : (s.setCore k c).inputs = s.inputs := rfl

/-! ### modCore -/

@[simp] theorem State.modCore_mem (s : State) (k : Nat) (f : Core → Core) : (s.modCore k f).mem = s.mem := rfl
@[simp] theorem State.modCore_errs (s : State) (k : Nat) (f : Core → Core) : (s.modCore k f).errs = s.errs := rfl
@[simp] theorem State.modCore_ues (s : State) (k : Nat) (f : Core → Core) : (s.modCore k f).ues = s.ues := rfl
@[simp] theorem State.modCore_quads (s : State) (k : Nat) (f : Core → Core) : (s.modCore k f).quads = s.quads := rfl
@[simp] theorem State.modCore_clusters (s : State) (k : Nat) (f : Core → Core) : (s.modCore k f).clusters = s.clusters := rfl
@[simp] theorem State.modCore_packages (s : State) (k : Nat) (f : Core → Core) : (s.modCore k f).packages = s.packages := rfl
@[simp] theorem State.modCore_txns (s : State) (k : Nat) (f : Core → Core) : (s.modCore k f).txns = s.txns := rfl
@[simp] theorem State.modCore_flights (s : State) (k : Nat) (f : Core → Core) : (s.modCore k f).flights = s.flights := rfl
@[simp] theorem State.modCore_core (s : State) (k : Nat) (f : Core → Core) : (s.modCore k f).core = s.core := rfl
@[simp] theorem State.modCore_fc (s : State) (k : Nat) (f : Core → Core) : (s.modCore k f).fc = s.fc := rfl
@[simp] theorem State.modCore_half (s : State) (k : Nat) (f : Core → Core) : (s.modCore k f).half = s.half := rfl
@[simp] theorem State.modCore_turn (s : State) (k : Nat) (f : Core → Core) : (s.modCore k f).turn = s.turn := rfl
@[simp] theorem State.modCore_now (s : State) (k : Nat) (f : Core → Core) : (s.modCore k f).now = s.now := rfl
@[simp] theorem State.modCore_fresh (s : State) (k : Nat) (f : Core → Core) : (s.modCore k f).fresh = s.fresh := rfl
@[simp] theorem State.modCore_nextId (s : State) (k : Nat) (f : Core → Core) : (s.modCore k f).nextId = s.nextId := rfl
@[simp] theorem State.modCore_tick (s : State) (k : Nat) (f : Core → Core) : (s.modCore k f).tick = s.tick := rfl
@[simp] theorem State.modCore_inputs (s : State) (k : Nat) (f : Core → Core) : (s.modCore k f).inputs = s.inputs := rfl

/-! ### modQuad -/

@[simp] theorem State.modQuad_mem (s : State) (k : Nat) (f : Quad → Quad) : (s.modQuad k f).mem = s.mem := rfl
@[simp] theorem State.modQuad_errs (s : State) (k : Nat) (f : Quad → Quad) : (s.modQuad k f).errs = s.errs := rfl
@[simp] theorem State.modQuad_ues (s : State) (k : Nat) (f : Quad → Quad) : (s.modQuad k f).ues = s.ues := rfl
@[simp] theorem State.modQuad_cores (s : State) (k : Nat) (f : Quad → Quad) : (s.modQuad k f).cores = s.cores := rfl
@[simp] theorem State.modQuad_clusters (s : State) (k : Nat) (f : Quad → Quad) : (s.modQuad k f).clusters = s.clusters := rfl
@[simp] theorem State.modQuad_packages (s : State) (k : Nat) (f : Quad → Quad) : (s.modQuad k f).packages = s.packages := rfl
@[simp] theorem State.modQuad_txns (s : State) (k : Nat) (f : Quad → Quad) : (s.modQuad k f).txns = s.txns := rfl
@[simp] theorem State.modQuad_flights (s : State) (k : Nat) (f : Quad → Quad) : (s.modQuad k f).flights = s.flights := rfl
@[simp] theorem State.modQuad_core (s : State) (k : Nat) (f : Quad → Quad) : (s.modQuad k f).core = s.core := rfl
@[simp] theorem State.modQuad_fc (s : State) (k : Nat) (f : Quad → Quad) : (s.modQuad k f).fc = s.fc := rfl
@[simp] theorem State.modQuad_half (s : State) (k : Nat) (f : Quad → Quad) : (s.modQuad k f).half = s.half := rfl
@[simp] theorem State.modQuad_turn (s : State) (k : Nat) (f : Quad → Quad) : (s.modQuad k f).turn = s.turn := rfl
@[simp] theorem State.modQuad_now (s : State) (k : Nat) (f : Quad → Quad) : (s.modQuad k f).now = s.now := rfl
@[simp] theorem State.modQuad_fresh (s : State) (k : Nat) (f : Quad → Quad) : (s.modQuad k f).fresh = s.fresh := rfl
@[simp] theorem State.modQuad_nextId (s : State) (k : Nat) (f : Quad → Quad) : (s.modQuad k f).nextId = s.nextId := rfl
@[simp] theorem State.modQuad_tick (s : State) (k : Nat) (f : Quad → Quad) : (s.modQuad k f).tick = s.tick := rfl
@[simp] theorem State.modQuad_inputs (s : State) (k : Nat) (f : Quad → Quad) : (s.modQuad k f).inputs = s.inputs := rfl

/-! ### modCluster -/

@[simp] theorem State.modCluster_mem (s : State) (k : Nat) (f : Cluster → Cluster) : (s.modCluster k f).mem = s.mem := rfl
@[simp] theorem State.modCluster_errs (s : State) (k : Nat) (f : Cluster → Cluster) : (s.modCluster k f).errs = s.errs := rfl
@[simp] theorem State.modCluster_ues (s : State) (k : Nat) (f : Cluster → Cluster) : (s.modCluster k f).ues = s.ues := rfl
@[simp] theorem State.modCluster_cores (s : State) (k : Nat) (f : Cluster → Cluster) : (s.modCluster k f).cores = s.cores := rfl
@[simp] theorem State.modCluster_quads (s : State) (k : Nat) (f : Cluster → Cluster) : (s.modCluster k f).quads = s.quads := rfl
@[simp] theorem State.modCluster_packages (s : State) (k : Nat) (f : Cluster → Cluster) : (s.modCluster k f).packages = s.packages := rfl
@[simp] theorem State.modCluster_txns (s : State) (k : Nat) (f : Cluster → Cluster) : (s.modCluster k f).txns = s.txns := rfl
@[simp] theorem State.modCluster_flights (s : State) (k : Nat) (f : Cluster → Cluster) : (s.modCluster k f).flights = s.flights := rfl
@[simp] theorem State.modCluster_core (s : State) (k : Nat) (f : Cluster → Cluster) : (s.modCluster k f).core = s.core := rfl
@[simp] theorem State.modCluster_fc (s : State) (k : Nat) (f : Cluster → Cluster) : (s.modCluster k f).fc = s.fc := rfl
@[simp] theorem State.modCluster_half (s : State) (k : Nat) (f : Cluster → Cluster) : (s.modCluster k f).half = s.half := rfl
@[simp] theorem State.modCluster_turn (s : State) (k : Nat) (f : Cluster → Cluster) : (s.modCluster k f).turn = s.turn := rfl
@[simp] theorem State.modCluster_now (s : State) (k : Nat) (f : Cluster → Cluster) : (s.modCluster k f).now = s.now := rfl
@[simp] theorem State.modCluster_fresh (s : State) (k : Nat) (f : Cluster → Cluster) : (s.modCluster k f).fresh = s.fresh := rfl
@[simp] theorem State.modCluster_nextId (s : State) (k : Nat) (f : Cluster → Cluster) : (s.modCluster k f).nextId = s.nextId := rfl
@[simp] theorem State.modCluster_tick (s : State) (k : Nat) (f : Cluster → Cluster) : (s.modCluster k f).tick = s.tick := rfl
@[simp] theorem State.modCluster_inputs (s : State) (k : Nat) (f : Cluster → Cluster) : (s.modCluster k f).inputs = s.inputs := rfl

/-! ### modPkg -/

@[simp] theorem State.modPkg_mem (s : State) (k : Nat) (f : Package → Package) : (s.modPkg k f).mem = s.mem := rfl
@[simp] theorem State.modPkg_errs (s : State) (k : Nat) (f : Package → Package) : (s.modPkg k f).errs = s.errs := rfl
@[simp] theorem State.modPkg_ues (s : State) (k : Nat) (f : Package → Package) : (s.modPkg k f).ues = s.ues := rfl
@[simp] theorem State.modPkg_cores (s : State) (k : Nat) (f : Package → Package) : (s.modPkg k f).cores = s.cores := rfl
@[simp] theorem State.modPkg_quads (s : State) (k : Nat) (f : Package → Package) : (s.modPkg k f).quads = s.quads := rfl
@[simp] theorem State.modPkg_clusters (s : State) (k : Nat) (f : Package → Package) : (s.modPkg k f).clusters = s.clusters := rfl
@[simp] theorem State.modPkg_txns (s : State) (k : Nat) (f : Package → Package) : (s.modPkg k f).txns = s.txns := rfl
@[simp] theorem State.modPkg_flights (s : State) (k : Nat) (f : Package → Package) : (s.modPkg k f).flights = s.flights := rfl
@[simp] theorem State.modPkg_core (s : State) (k : Nat) (f : Package → Package) : (s.modPkg k f).core = s.core := rfl
@[simp] theorem State.modPkg_fc (s : State) (k : Nat) (f : Package → Package) : (s.modPkg k f).fc = s.fc := rfl
@[simp] theorem State.modPkg_half (s : State) (k : Nat) (f : Package → Package) : (s.modPkg k f).half = s.half := rfl
@[simp] theorem State.modPkg_turn (s : State) (k : Nat) (f : Package → Package) : (s.modPkg k f).turn = s.turn := rfl
@[simp] theorem State.modPkg_now (s : State) (k : Nat) (f : Package → Package) : (s.modPkg k f).now = s.now := rfl
@[simp] theorem State.modPkg_fresh (s : State) (k : Nat) (f : Package → Package) : (s.modPkg k f).fresh = s.fresh := rfl
@[simp] theorem State.modPkg_nextId (s : State) (k : Nat) (f : Package → Package) : (s.modPkg k f).nextId = s.nextId := rfl
@[simp] theorem State.modPkg_tick (s : State) (k : Nat) (f : Package → Package) : (s.modPkg k f).tick = s.tick := rfl
@[simp] theorem State.modPkg_inputs (s : State) (k : Nat) (f : Package → Package) : (s.modPkg k f).inputs = s.inputs := rfl

/-! ### modCtxOf -/

@[simp] theorem State.modCtxOf_mem (s : State) (k fc : Nat) (f : Ctx → Ctx) : (s.modCtxOf k fc f).mem = s.mem := rfl
@[simp] theorem State.modCtxOf_errs (s : State) (k fc : Nat) (f : Ctx → Ctx) : (s.modCtxOf k fc f).errs = s.errs := rfl
@[simp] theorem State.modCtxOf_ues (s : State) (k fc : Nat) (f : Ctx → Ctx) : (s.modCtxOf k fc f).ues = s.ues := rfl
@[simp] theorem State.modCtxOf_quads (s : State) (k fc : Nat) (f : Ctx → Ctx) : (s.modCtxOf k fc f).quads = s.quads := rfl
@[simp] theorem State.modCtxOf_clusters (s : State) (k fc : Nat) (f : Ctx → Ctx) : (s.modCtxOf k fc f).clusters = s.clusters := rfl
@[simp] theorem State.modCtxOf_packages (s : State) (k fc : Nat) (f : Ctx → Ctx) : (s.modCtxOf k fc f).packages = s.packages := rfl
@[simp] theorem State.modCtxOf_txns (s : State) (k fc : Nat) (f : Ctx → Ctx) : (s.modCtxOf k fc f).txns = s.txns := rfl
@[simp] theorem State.modCtxOf_flights (s : State) (k fc : Nat) (f : Ctx → Ctx) : (s.modCtxOf k fc f).flights = s.flights := rfl
@[simp] theorem State.modCtxOf_core (s : State) (k fc : Nat) (f : Ctx → Ctx) : (s.modCtxOf k fc f).core = s.core := rfl
@[simp] theorem State.modCtxOf_fc (s : State) (k fc : Nat) (f : Ctx → Ctx) : (s.modCtxOf k fc f).fc = s.fc := rfl
@[simp] theorem State.modCtxOf_half (s : State) (k fc : Nat) (f : Ctx → Ctx) : (s.modCtxOf k fc f).half = s.half := rfl
@[simp] theorem State.modCtxOf_turn (s : State) (k fc : Nat) (f : Ctx → Ctx) : (s.modCtxOf k fc f).turn = s.turn := rfl
@[simp] theorem State.modCtxOf_now (s : State) (k fc : Nat) (f : Ctx → Ctx) : (s.modCtxOf k fc f).now = s.now := rfl
@[simp] theorem State.modCtxOf_fresh (s : State) (k fc : Nat) (f : Ctx → Ctx) : (s.modCtxOf k fc f).fresh = s.fresh := rfl
@[simp] theorem State.modCtxOf_nextId (s : State) (k fc : Nat) (f : Ctx → Ctx) : (s.modCtxOf k fc f).nextId = s.nextId := rfl
@[simp] theorem State.modCtxOf_tick (s : State) (k fc : Nat) (f : Ctx → Ctx) : (s.modCtxOf k fc f).tick = s.tick := rfl
@[simp] theorem State.modCtxOf_inputs (s : State) (k fc : Nat) (f : Ctx → Ctx) : (s.modCtxOf k fc f).inputs = s.inputs := rfl

/-! ### modCtx -/

@[simp] theorem State.modCtx_mem (s : State) (f : Ctx → Ctx) : (s.modCtx f).mem = s.mem := rfl
@[simp] theorem State.modCtx_errs (s : State) (f : Ctx → Ctx) : (s.modCtx f).errs = s.errs := rfl
@[simp] theorem State.modCtx_ues (s : State) (f : Ctx → Ctx) : (s.modCtx f).ues = s.ues := rfl
@[simp] theorem State.modCtx_quads (s : State) (f : Ctx → Ctx) : (s.modCtx f).quads = s.quads := rfl
@[simp] theorem State.modCtx_clusters (s : State) (f : Ctx → Ctx) : (s.modCtx f).clusters = s.clusters := rfl
@[simp] theorem State.modCtx_packages (s : State) (f : Ctx → Ctx) : (s.modCtx f).packages = s.packages := rfl
@[simp] theorem State.modCtx_txns (s : State) (f : Ctx → Ctx) : (s.modCtx f).txns = s.txns := rfl
@[simp] theorem State.modCtx_flights (s : State) (f : Ctx → Ctx) : (s.modCtx f).flights = s.flights := rfl
@[simp] theorem State.modCtx_core (s : State) (f : Ctx → Ctx) : (s.modCtx f).core = s.core := rfl
@[simp] theorem State.modCtx_fc (s : State) (f : Ctx → Ctx) : (s.modCtx f).fc = s.fc := rfl
@[simp] theorem State.modCtx_half (s : State) (f : Ctx → Ctx) : (s.modCtx f).half = s.half := rfl
@[simp] theorem State.modCtx_turn (s : State) (f : Ctx → Ctx) : (s.modCtx f).turn = s.turn := rfl
@[simp] theorem State.modCtx_now (s : State) (f : Ctx → Ctx) : (s.modCtx f).now = s.now := rfl
@[simp] theorem State.modCtx_fresh (s : State) (f : Ctx → Ctx) : (s.modCtx f).fresh = s.fresh := rfl
@[simp] theorem State.modCtx_nextId (s : State) (f : Ctx → Ctx) : (s.modCtx f).nextId = s.nextId := rfl
@[simp] theorem State.modCtx_tick (s : State) (f : Ctx → Ctx) : (s.modCtx f).tick = s.tick := rfl
@[simp] theorem State.modCtx_inputs (s : State) (f : Ctx → Ctx) : (s.modCtx f).inputs = s.inputs := rfl

/-! ### modHere -/

@[simp] theorem State.modHere_mem (s : State) (f : Core → Core) : (s.modHere f).mem = s.mem := rfl
@[simp] theorem State.modHere_errs (s : State) (f : Core → Core) : (s.modHere f).errs = s.errs := rfl
@[simp] theorem State.modHere_ues (s : State) (f : Core → Core) : (s.modHere f).ues = s.ues := rfl
@[simp] theorem State.modHere_quads (s : State) (f : Core → Core) : (s.modHere f).quads = s.quads := rfl
@[simp] theorem State.modHere_clusters (s : State) (f : Core → Core) : (s.modHere f).clusters = s.clusters := rfl
@[simp] theorem State.modHere_packages (s : State) (f : Core → Core) : (s.modHere f).packages = s.packages := rfl
@[simp] theorem State.modHere_txns (s : State) (f : Core → Core) : (s.modHere f).txns = s.txns := rfl
@[simp] theorem State.modHere_flights (s : State) (f : Core → Core) : (s.modHere f).flights = s.flights := rfl
@[simp] theorem State.modHere_core (s : State) (f : Core → Core) : (s.modHere f).core = s.core := rfl
@[simp] theorem State.modHere_fc (s : State) (f : Core → Core) : (s.modHere f).fc = s.fc := rfl
@[simp] theorem State.modHere_half (s : State) (f : Core → Core) : (s.modHere f).half = s.half := rfl
@[simp] theorem State.modHere_turn (s : State) (f : Core → Core) : (s.modHere f).turn = s.turn := rfl
@[simp] theorem State.modHere_now (s : State) (f : Core → Core) : (s.modHere f).now = s.now := rfl
@[simp] theorem State.modHere_fresh (s : State) (f : Core → Core) : (s.modHere f).fresh = s.fresh := rfl
@[simp] theorem State.modHere_nextId (s : State) (f : Core → Core) : (s.modHere f).nextId = s.nextId := rfl
@[simp] theorem State.modHere_tick (s : State) (f : Core → Core) : (s.modHere f).tick = s.tick := rfl
@[simp] theorem State.modHere_inputs (s : State) (f : Core → Core) : (s.modHere f).inputs = s.inputs := rfl

/-! ### at -/

@[simp] theorem State.at_mem (s : State) (k fc : Nat) (h : Bool) : (s.at k fc h).mem = s.mem := rfl
@[simp] theorem State.at_errs (s : State) (k fc : Nat) (h : Bool) : (s.at k fc h).errs = s.errs := rfl
@[simp] theorem State.at_ues (s : State) (k fc : Nat) (h : Bool) : (s.at k fc h).ues = s.ues := rfl
@[simp] theorem State.at_cores (s : State) (k fc : Nat) (h : Bool) : (s.at k fc h).cores = s.cores := rfl
@[simp] theorem State.at_quads (s : State) (k fc : Nat) (h : Bool) : (s.at k fc h).quads = s.quads := rfl
@[simp] theorem State.at_clusters (s : State) (k fc : Nat) (h : Bool) : (s.at k fc h).clusters = s.clusters := rfl
@[simp] theorem State.at_packages (s : State) (k fc : Nat) (h : Bool) : (s.at k fc h).packages = s.packages := rfl
@[simp] theorem State.at_txns (s : State) (k fc : Nat) (h : Bool) : (s.at k fc h).txns = s.txns := rfl
@[simp] theorem State.at_flights (s : State) (k fc : Nat) (h : Bool) : (s.at k fc h).flights = s.flights := rfl
@[simp] theorem State.at_turn (s : State) (k fc : Nat) (h : Bool) : (s.at k fc h).turn = s.turn := rfl
@[simp] theorem State.at_now (s : State) (k fc : Nat) (h : Bool) : (s.at k fc h).now = s.now := rfl
@[simp] theorem State.at_fresh (s : State) (k fc : Nat) (h : Bool) : (s.at k fc h).fresh = s.fresh := rfl
@[simp] theorem State.at_nextId (s : State) (k fc : Nat) (h : Bool) : (s.at k fc h).nextId = s.nextId := rfl
@[simp] theorem State.at_tick (s : State) (k fc : Nat) (h : Bool) : (s.at k fc h).tick = s.tick := rfl
@[simp] theorem State.at_inputs (s : State) (k fc : Nat) (h : Bool) : (s.at k fc h).inputs = s.inputs := rfl

/-! ### wrNat -/

@[simp] theorem State.wrNat_ues (s : State) (a n x : Nat) : (s.wrNat a n x).ues = s.ues := rfl
@[simp] theorem State.wrNat_cores (s : State) (a n x : Nat) : (s.wrNat a n x).cores = s.cores := rfl
@[simp] theorem State.wrNat_quads (s : State) (a n x : Nat) : (s.wrNat a n x).quads = s.quads := rfl
@[simp] theorem State.wrNat_clusters (s : State) (a n x : Nat) : (s.wrNat a n x).clusters = s.clusters := rfl
@[simp] theorem State.wrNat_packages (s : State) (a n x : Nat) : (s.wrNat a n x).packages = s.packages := rfl
@[simp] theorem State.wrNat_txns (s : State) (a n x : Nat) : (s.wrNat a n x).txns = s.txns := rfl
@[simp] theorem State.wrNat_flights (s : State) (a n x : Nat) : (s.wrNat a n x).flights = s.flights := rfl
@[simp] theorem State.wrNat_core (s : State) (a n x : Nat) : (s.wrNat a n x).core = s.core := rfl
@[simp] theorem State.wrNat_fc (s : State) (a n x : Nat) : (s.wrNat a n x).fc = s.fc := rfl
@[simp] theorem State.wrNat_half (s : State) (a n x : Nat) : (s.wrNat a n x).half = s.half := rfl
@[simp] theorem State.wrNat_turn (s : State) (a n x : Nat) : (s.wrNat a n x).turn = s.turn := rfl
@[simp] theorem State.wrNat_now (s : State) (a n x : Nat) : (s.wrNat a n x).now = s.now := rfl
@[simp] theorem State.wrNat_fresh (s : State) (a n x : Nat) : (s.wrNat a n x).fresh = s.fresh := rfl
@[simp] theorem State.wrNat_nextId (s : State) (a n x : Nat) : (s.wrNat a n x).nextId = s.nextId := rfl
@[simp] theorem State.wrNat_tick (s : State) (a n x : Nat) : (s.wrNat a n x).tick = s.tick := rfl
@[simp] theorem State.wrNat_inputs (s : State) (a n x : Nat) : (s.wrNat a n x).inputs = s.inputs := rfl

/-! ### wrBytes -/

@[simp] theorem State.wrBytes_ues (s : State) (a : Nat) (l : List Byte) : (s.wrBytes a l).ues = s.ues := rfl
@[simp] theorem State.wrBytes_cores (s : State) (a : Nat) (l : List Byte) : (s.wrBytes a l).cores = s.cores := rfl
@[simp] theorem State.wrBytes_quads (s : State) (a : Nat) (l : List Byte) : (s.wrBytes a l).quads = s.quads := rfl
@[simp] theorem State.wrBytes_clusters (s : State) (a : Nat) (l : List Byte) : (s.wrBytes a l).clusters = s.clusters := rfl
@[simp] theorem State.wrBytes_packages (s : State) (a : Nat) (l : List Byte) : (s.wrBytes a l).packages = s.packages := rfl
@[simp] theorem State.wrBytes_txns (s : State) (a : Nat) (l : List Byte) : (s.wrBytes a l).txns = s.txns := rfl
@[simp] theorem State.wrBytes_flights (s : State) (a : Nat) (l : List Byte) : (s.wrBytes a l).flights = s.flights := rfl
@[simp] theorem State.wrBytes_core (s : State) (a : Nat) (l : List Byte) : (s.wrBytes a l).core = s.core := rfl
@[simp] theorem State.wrBytes_fc (s : State) (a : Nat) (l : List Byte) : (s.wrBytes a l).fc = s.fc := rfl
@[simp] theorem State.wrBytes_half (s : State) (a : Nat) (l : List Byte) : (s.wrBytes a l).half = s.half := rfl
@[simp] theorem State.wrBytes_turn (s : State) (a : Nat) (l : List Byte) : (s.wrBytes a l).turn = s.turn := rfl
@[simp] theorem State.wrBytes_now (s : State) (a : Nat) (l : List Byte) : (s.wrBytes a l).now = s.now := rfl
@[simp] theorem State.wrBytes_fresh (s : State) (a : Nat) (l : List Byte) : (s.wrBytes a l).fresh = s.fresh := rfl
@[simp] theorem State.wrBytes_nextId (s : State) (a : Nat) (l : List Byte) : (s.wrBytes a l).nextId = s.nextId := rfl
@[simp] theorem State.wrBytes_tick (s : State) (a : Nat) (l : List Byte) : (s.wrBytes a l).tick = s.tick := rfl
@[simp] theorem State.wrBytes_inputs (s : State) (a : Nat) (l : List Byte) : (s.wrBytes a l).inputs = s.inputs := rfl

/-! ### tickOn -/

@[simp] theorem State.tickOn_mem (s : State) : (s.tickOn).mem = s.mem := rfl
@[simp] theorem State.tickOn_errs (s : State) : (s.tickOn).errs = s.errs := rfl
@[simp] theorem State.tickOn_ues (s : State) : (s.tickOn).ues = s.ues := rfl
@[simp] theorem State.tickOn_quads (s : State) : (s.tickOn).quads = s.quads := rfl
@[simp] theorem State.tickOn_clusters (s : State) : (s.tickOn).clusters = s.clusters := rfl
@[simp] theorem State.tickOn_packages (s : State) : (s.tickOn).packages = s.packages := rfl
@[simp] theorem State.tickOn_txns (s : State) : (s.tickOn).txns = s.txns := rfl
@[simp] theorem State.tickOn_flights (s : State) : (s.tickOn).flights = s.flights := rfl
@[simp] theorem State.tickOn_core (s : State) : (s.tickOn).core = s.core := rfl
@[simp] theorem State.tickOn_fc (s : State) : (s.tickOn).fc = s.fc := rfl
@[simp] theorem State.tickOn_half (s : State) : (s.tickOn).half = s.half := rfl
@[simp] theorem State.tickOn_fresh (s : State) : (s.tickOn).fresh = s.fresh := rfl
@[simp] theorem State.tickOn_nextId (s : State) : (s.tickOn).nextId = s.nextId := rfl
@[simp] theorem State.tickOn_inputs (s : State) : (s.tickOn).inputs = s.inputs := rfl

/-! ### setTxn -/

@[simp] theorem State.setTxn_mem (s : State) (id : Nat) (t : Txn) : (s.setTxn id t).mem = s.mem := rfl
@[simp] theorem State.setTxn_errs (s : State) (id : Nat) (t : Txn) : (s.setTxn id t).errs = s.errs := rfl
@[simp] theorem State.setTxn_ues (s : State) (id : Nat) (t : Txn) : (s.setTxn id t).ues = s.ues := rfl
@[simp] theorem State.setTxn_cores (s : State) (id : Nat) (t : Txn) : (s.setTxn id t).cores = s.cores := rfl
@[simp] theorem State.setTxn_quads (s : State) (id : Nat) (t : Txn) : (s.setTxn id t).quads = s.quads := rfl
@[simp] theorem State.setTxn_clusters (s : State) (id : Nat) (t : Txn) : (s.setTxn id t).clusters = s.clusters := rfl
@[simp] theorem State.setTxn_packages (s : State) (id : Nat) (t : Txn) : (s.setTxn id t).packages = s.packages := rfl
@[simp] theorem State.setTxn_flights (s : State) (id : Nat) (t : Txn) : (s.setTxn id t).flights = s.flights := rfl
@[simp] theorem State.setTxn_core (s : State) (id : Nat) (t : Txn) : (s.setTxn id t).core = s.core := rfl
@[simp] theorem State.setTxn_fc (s : State) (id : Nat) (t : Txn) : (s.setTxn id t).fc = s.fc := rfl
@[simp] theorem State.setTxn_half (s : State) (id : Nat) (t : Txn) : (s.setTxn id t).half = s.half := rfl
@[simp] theorem State.setTxn_turn (s : State) (id : Nat) (t : Txn) : (s.setTxn id t).turn = s.turn := rfl
@[simp] theorem State.setTxn_now (s : State) (id : Nat) (t : Txn) : (s.setTxn id t).now = s.now := rfl
@[simp] theorem State.setTxn_fresh (s : State) (id : Nat) (t : Txn) : (s.setTxn id t).fresh = s.fresh := rfl
@[simp] theorem State.setTxn_nextId (s : State) (id : Nat) (t : Txn) : (s.setTxn id t).nextId = s.nextId := rfl
@[simp] theorem State.setTxn_tick (s : State) (id : Nat) (t : Txn) : (s.setTxn id t).tick = s.tick := rfl
@[simp] theorem State.setTxn_inputs (s : State) (id : Nat) (t : Txn) : (s.setTxn id t).inputs = s.inputs := rfl

/-! ### dropTxn -/

@[simp] theorem State.dropTxn_mem (s : State) (id : Nat) : (s.dropTxn id).mem = s.mem := rfl
@[simp] theorem State.dropTxn_errs (s : State) (id : Nat) : (s.dropTxn id).errs = s.errs := rfl
@[simp] theorem State.dropTxn_ues (s : State) (id : Nat) : (s.dropTxn id).ues = s.ues := rfl
@[simp] theorem State.dropTxn_cores (s : State) (id : Nat) : (s.dropTxn id).cores = s.cores := rfl
@[simp] theorem State.dropTxn_quads (s : State) (id : Nat) : (s.dropTxn id).quads = s.quads := rfl
@[simp] theorem State.dropTxn_clusters (s : State) (id : Nat) : (s.dropTxn id).clusters = s.clusters := rfl
@[simp] theorem State.dropTxn_packages (s : State) (id : Nat) : (s.dropTxn id).packages = s.packages := rfl
@[simp] theorem State.dropTxn_flights (s : State) (id : Nat) : (s.dropTxn id).flights = s.flights := rfl
@[simp] theorem State.dropTxn_core (s : State) (id : Nat) : (s.dropTxn id).core = s.core := rfl
@[simp] theorem State.dropTxn_fc (s : State) (id : Nat) : (s.dropTxn id).fc = s.fc := rfl
@[simp] theorem State.dropTxn_half (s : State) (id : Nat) : (s.dropTxn id).half = s.half := rfl
@[simp] theorem State.dropTxn_turn (s : State) (id : Nat) : (s.dropTxn id).turn = s.turn := rfl
@[simp] theorem State.dropTxn_now (s : State) (id : Nat) : (s.dropTxn id).now = s.now := rfl
@[simp] theorem State.dropTxn_fresh (s : State) (id : Nat) : (s.dropTxn id).fresh = s.fresh := rfl
@[simp] theorem State.dropTxn_nextId (s : State) (id : Nat) : (s.dropTxn id).nextId = s.nextId := rfl
@[simp] theorem State.dropTxn_tick (s : State) (id : Nat) : (s.dropTxn id).tick = s.tick := rfl
@[simp] theorem State.dropTxn_inputs (s : State) (id : Nat) : (s.dropTxn id).inputs = s.inputs := rfl

/-! ### Ctx.wg -/

@[simp] theorem Ctx.wg_firing (c : Ctx) (k : Nat) (v : Word) : (c.wg k v).firing = c.firing := by unfold Ctx.wg; split <;> rfl
@[simp] theorem Ctx.wg_pc (c : Ctx) (k : Nat) (v : Word) : (c.wg k v).pc = c.pc := by unfold Ctx.wg; split <;> rfl
@[simp] theorem Ctx.wg_mode (c : Ctx) (k : Nat) (v : Word) : (c.wg k v).mode = c.mode := by unfold Ctx.wg; split <;> rfl
@[simp] theorem Ctx.wg_p (c : Ctx) (k : Nat) (v : Word) : (c.wg k v).p = c.p := by unfold Ctx.wg; split <;> rfl
@[simp] theorem Ctx.wg_win (c : Ctx) (k : Nat) (v : Word) : (c.wg k v).win = c.win := by unfold Ctx.wg; split <;> rfl
@[simp] theorem Ctx.wg_constCache (c : Ctx) (k : Nat) (v : Word) : (c.wg k v).constCache = c.constCache := by unfold Ctx.wg; split <;> rfl
@[simp] theorem Ctx.wg_fflags (c : Ctx) (k : Nat) (v : Word) : (c.wg k v).fflags = c.fflags := by unfold Ctx.wg; split <;> rfl
@[simp] theorem Ctx.wg_vsat (c : Ctx) (k : Nat) (v : Word) : (c.wg k v).vsat = c.vsat := by unfold Ctx.wg; split <;> rfl
@[simp] theorem Ctx.wg_rngstr (c : Ctx) (k : Nat) (v : Word) : (c.wg k v).rngstr = c.rngstr := by unfold Ctx.wg; split <;> rfl
@[simp] theorem Ctx.wg_rngctr (c : Ctx) (k : Nat) (v : Word) : (c.wg k v).rngctr = c.rngctr := by unfold Ctx.wg; split <;> rfl
@[simp] theorem Ctx.wg_evlatch (c : Ctx) (k : Nat) (v : Word) : (c.wg k v).evlatch = c.evlatch := by unfold Ctx.wg; split <;> rfl
@[simp] theorem Ctx.wg_tcause (c : Ctx) (k : Nat) (v : Word) : (c.wg k v).tcause = c.tcause := by unfold Ctx.wg; split <;> rfl
@[simp] theorem Ctx.wg_tpc (c : Ctx) (k : Nat) (v : Word) : (c.wg k v).tpc = c.tpc := by unfold Ctx.wg; split <;> rfl
@[simp] theorem Ctx.wg_tval (c : Ctx) (k : Nat) (v : Word) : (c.wg k v).tval = c.tval := by unfold Ctx.wg; split <;> rfl
@[simp] theorem Ctx.wg_tval2 (c : Ctx) (k : Nat) (v : Word) : (c.wg k v).tval2 = c.tval2 := by unfold Ctx.wg; split <;> rfl
@[simp] theorem Ctx.wg_tregn (c : Ctx) (k : Nat) (v : Word) : (c.wg k v).tregn = c.tregn := by unfold Ctx.wg; split <;> rfl
@[simp] theorem Ctx.wg_tskip (c : Ctx) (k : Nat) (v : Word) : (c.wg k v).tskip = c.tskip := by unfold Ctx.wg; split <;> rfl
@[simp] theorem Ctx.wg_tsw (c : Ctx) (k : Nat) (v : Word) : (c.wg k v).tsw = c.tsw := by unfold Ctx.wg; split <;> rfl
@[simp] theorem Ctx.wg_torigin (c : Ctx) (k : Nat) (v : Word) : (c.wg k v).torigin = c.torigin := by unfold Ctx.wg; split <;> rfl
@[simp] theorem Ctx.wg_tnext (c : Ctx) (k : Nat) (v : Word) : (c.wg k v).tnext = c.tnext := by unfold Ctx.wg; split <;> rfl
@[simp] theorem Ctx.wg_tscratch (c : Ctx) (k : Nat) (v : Word) : (c.wg k v).tscratch = c.tscratch := by unfold Ctx.wg; split <;> rfl
@[simp] theorem Ctx.wg_q0 (c : Ctx) (k : Nat) (v : Word) : (c.wg k v).q0 = c.q0 := by unfold Ctx.wg; split <;> rfl
@[simp] theorem Ctx.wg_q1 (c : Ctx) (k : Nat) (v : Word) : (c.wg k v).q1 = c.q1 := by unfold Ctx.wg; split <;> rfl
@[simp] theorem Ctx.wg_streams (c : Ctx) (k : Nat) (v : Word) : (c.wg k v).streams = c.streams := by unfold Ctx.wg; split <;> rfl
@[simp] theorem Ctx.wg_xseq (c : Ctx) (k : Nat) (v : Word) : (c.wg k v).xseq = c.xseq := by unfold Ctx.wg; split <;> rfl
@[simp] theorem Ctx.wg_xbusy (c : Ctx) (k : Nat) (v : Word) : (c.wg k v).xbusy = c.xbusy := by unfold Ctx.wg; split <;> rfl
@[simp] theorem Ctx.wg_xfrozen (c : Ctx) (k : Nat) (v : Word) : (c.wg k v).xfrozen = c.xfrozen := by unfold Ctx.wg; split <;> rfl
@[simp] theorem Ctx.wg_xskip (c : Ctx) (k : Nat) (v : Word) : (c.wg k v).xskip = c.xskip := by unfold Ctx.wg; split <;> rfl
@[simp] theorem Ctx.wg_posted (c : Ctx) (k : Nat) (v : Word) : (c.wg k v).posted = c.posted := by unfold Ctx.wg; split <;> rfl
@[simp] theorem Ctx.wg_countClu (c : Ctx) (k : Nat) (v : Word) : (c.wg k v).countClu = c.countClu := by unfold Ctx.wg; split <;> rfl
@[simp] theorem Ctx.wg_countPkg (c : Ctx) (k : Nat) (v : Word) : (c.wg k v).countPkg = c.countPkg := by unfold Ctx.wg; split <;> rfl
@[simp] theorem Ctx.wg_countSys (c : Ctx) (k : Nat) (v : Word) : (c.wg k v).countSys = c.countSys := by unfold Ctx.wg; split <;> rfl
@[simp] theorem Ctx.wg_storeErr (c : Ctx) (k : Nat) (v : Word) : (c.wg k v).storeErr = c.storeErr := by unfold Ctx.wg; split <;> rfl
@[simp] theorem Ctx.wg_updates (c : Ctx) (k : Nat) (v : Word) : (c.wg k v).updates = c.updates := by unfold Ctx.wg; split <;> rfl
@[simp] theorem Ctx.wg_catErr (c : Ctx) (k : Nat) (v : Word) : (c.wg k v).catErr = c.catErr := by unfold Ctx.wg; split <;> rfl
@[simp] theorem Ctx.wg_idem (c : Ctx) (k : Nat) (v : Word) : (c.wg k v).idem = c.idem := by unfold Ctx.wg; split <;> rfl
@[simp] theorem Ctx.wg_cts (c : Ctx) (k : Nat) (v : Word) : (c.wg k v).cts = c.cts := by unfold Ctx.wg; split <;> rfl
@[simp] theorem Ctx.wg_line (c : Ctx) (k : Nat) (v : Word) : (c.wg k v).line = c.line := by unfold Ctx.wg; split <;> rfl
@[simp] theorem Ctx.wg_refetch (c : Ctx) (k : Nat) (v : Word) : (c.wg k v).refetch = c.refetch := by unfold Ctx.wg; split <;> rfl
@[simp] theorem Ctx.wg_xfer (c : Ctx) (k : Nat) (v : Word) : (c.wg k v).xfer = c.xfer := by unfold Ctx.wg; split <;> rfl
@[simp] theorem Ctx.wg_stall (c : Ctx) (k : Nat) (v : Word) : (c.wg k v).stall = c.stall := by unfold Ctx.wg; split <;> rfl
@[simp] theorem Ctx.wg_awaited (c : Ctx) (k : Nat) (v : Word) : (c.wg k v).awaited = c.awaited := by unfold Ctx.wg; split <;> rfl
@[simp] theorem Ctx.wg_trap (c : Ctx) (k : Nat) (v : Word) : (c.wg k v).trap = c.trap := by unfold Ctx.wg; split <;> rfl
@[simp] theorem Ctx.wg_preempt (c : Ctx) (k : Nat) (v : Word) : (c.wg k v).preempt = c.preempt := by unfold Ctx.wg; split <;> rfl
@[simp] theorem Ctx.wg_preemptDue (c : Ctx) (k : Nat) (v : Word) : (c.wg k v).preemptDue = c.preemptDue := by unfold Ctx.wg; split <;> rfl
@[simp] theorem Ctx.wg_joined (c : Ctx) (k : Nat) (v : Word) : (c.wg k v).joined = c.joined := by unfold Ctx.wg; split <;> rfl
@[simp] theorem Ctx.wg_moving (c : Ctx) (k : Nat) (v : Word) : (c.wg k v).moving = c.moving := by unfold Ctx.wg; split <;> rfl
@[simp] theorem Ctx.wg_channels (c : Ctx) (k : Nat) (v : Word) : (c.wg k v).channels = c.channels := by unfold Ctx.wg; split <;> rfl

/-! ### Ctx.wp -/

@[simp] theorem Ctx.wp_firing (c : Ctx) (k : Nat) (v : Bool) : (c.wp k v).firing = c.firing := by unfold Ctx.wp; split <;> rfl
@[simp] theorem Ctx.wp_pc (c : Ctx) (k : Nat) (v : Bool) : (c.wp k v).pc = c.pc := by unfold Ctx.wp; split <;> rfl
@[simp] theorem Ctx.wp_mode (c : Ctx) (k : Nat) (v : Bool) : (c.wp k v).mode = c.mode := by unfold Ctx.wp; split <;> rfl
@[simp] theorem Ctx.wp_g (c : Ctx) (k : Nat) (v : Bool) : (c.wp k v).g = c.g := by unfold Ctx.wp; split <;> rfl
@[simp] theorem Ctx.wp_pend (c : Ctx) (k : Nat) (v : Bool) : (c.wp k v).pend = c.pend := by unfold Ctx.wp; split <;> rfl
@[simp] theorem Ctx.wp_win (c : Ctx) (k : Nat) (v : Bool) : (c.wp k v).win = c.win := by unfold Ctx.wp; split <;> rfl
@[simp] theorem Ctx.wp_constCache (c : Ctx) (k : Nat) (v : Bool) : (c.wp k v).constCache = c.constCache := by unfold Ctx.wp; split <;> rfl
@[simp] theorem Ctx.wp_fflags (c : Ctx) (k : Nat) (v : Bool) : (c.wp k v).fflags = c.fflags := by unfold Ctx.wp; split <;> rfl
@[simp] theorem Ctx.wp_vsat (c : Ctx) (k : Nat) (v : Bool) : (c.wp k v).vsat = c.vsat := by unfold Ctx.wp; split <;> rfl
@[simp] theorem Ctx.wp_rngstr (c : Ctx) (k : Nat) (v : Bool) : (c.wp k v).rngstr = c.rngstr := by unfold Ctx.wp; split <;> rfl
@[simp] theorem Ctx.wp_rngctr (c : Ctx) (k : Nat) (v : Bool) : (c.wp k v).rngctr = c.rngctr := by unfold Ctx.wp; split <;> rfl
@[simp] theorem Ctx.wp_evlatch (c : Ctx) (k : Nat) (v : Bool) : (c.wp k v).evlatch = c.evlatch := by unfold Ctx.wp; split <;> rfl
@[simp] theorem Ctx.wp_tcause (c : Ctx) (k : Nat) (v : Bool) : (c.wp k v).tcause = c.tcause := by unfold Ctx.wp; split <;> rfl
@[simp] theorem Ctx.wp_tpc (c : Ctx) (k : Nat) (v : Bool) : (c.wp k v).tpc = c.tpc := by unfold Ctx.wp; split <;> rfl
@[simp] theorem Ctx.wp_tval (c : Ctx) (k : Nat) (v : Bool) : (c.wp k v).tval = c.tval := by unfold Ctx.wp; split <;> rfl
@[simp] theorem Ctx.wp_tval2 (c : Ctx) (k : Nat) (v : Bool) : (c.wp k v).tval2 = c.tval2 := by unfold Ctx.wp; split <;> rfl
@[simp] theorem Ctx.wp_tregn (c : Ctx) (k : Nat) (v : Bool) : (c.wp k v).tregn = c.tregn := by unfold Ctx.wp; split <;> rfl
@[simp] theorem Ctx.wp_tskip (c : Ctx) (k : Nat) (v : Bool) : (c.wp k v).tskip = c.tskip := by unfold Ctx.wp; split <;> rfl
@[simp] theorem Ctx.wp_tsw (c : Ctx) (k : Nat) (v : Bool) : (c.wp k v).tsw = c.tsw := by unfold Ctx.wp; split <;> rfl
@[simp] theorem Ctx.wp_torigin (c : Ctx) (k : Nat) (v : Bool) : (c.wp k v).torigin = c.torigin := by unfold Ctx.wp; split <;> rfl
@[simp] theorem Ctx.wp_tnext (c : Ctx) (k : Nat) (v : Bool) : (c.wp k v).tnext = c.tnext := by unfold Ctx.wp; split <;> rfl
@[simp] theorem Ctx.wp_tscratch (c : Ctx) (k : Nat) (v : Bool) : (c.wp k v).tscratch = c.tscratch := by unfold Ctx.wp; split <;> rfl
@[simp] theorem Ctx.wp_q0 (c : Ctx) (k : Nat) (v : Bool) : (c.wp k v).q0 = c.q0 := by unfold Ctx.wp; split <;> rfl
@[simp] theorem Ctx.wp_q1 (c : Ctx) (k : Nat) (v : Bool) : (c.wp k v).q1 = c.q1 := by unfold Ctx.wp; split <;> rfl
@[simp] theorem Ctx.wp_streams (c : Ctx) (k : Nat) (v : Bool) : (c.wp k v).streams = c.streams := by unfold Ctx.wp; split <;> rfl
@[simp] theorem Ctx.wp_xseq (c : Ctx) (k : Nat) (v : Bool) : (c.wp k v).xseq = c.xseq := by unfold Ctx.wp; split <;> rfl
@[simp] theorem Ctx.wp_xbusy (c : Ctx) (k : Nat) (v : Bool) : (c.wp k v).xbusy = c.xbusy := by unfold Ctx.wp; split <;> rfl
@[simp] theorem Ctx.wp_xfrozen (c : Ctx) (k : Nat) (v : Bool) : (c.wp k v).xfrozen = c.xfrozen := by unfold Ctx.wp; split <;> rfl
@[simp] theorem Ctx.wp_xskip (c : Ctx) (k : Nat) (v : Bool) : (c.wp k v).xskip = c.xskip := by unfold Ctx.wp; split <;> rfl
@[simp] theorem Ctx.wp_posted (c : Ctx) (k : Nat) (v : Bool) : (c.wp k v).posted = c.posted := by unfold Ctx.wp; split <;> rfl
@[simp] theorem Ctx.wp_countClu (c : Ctx) (k : Nat) (v : Bool) : (c.wp k v).countClu = c.countClu := by unfold Ctx.wp; split <;> rfl
@[simp] theorem Ctx.wp_countPkg (c : Ctx) (k : Nat) (v : Bool) : (c.wp k v).countPkg = c.countPkg := by unfold Ctx.wp; split <;> rfl
@[simp] theorem Ctx.wp_countSys (c : Ctx) (k : Nat) (v : Bool) : (c.wp k v).countSys = c.countSys := by unfold Ctx.wp; split <;> rfl
@[simp] theorem Ctx.wp_storeErr (c : Ctx) (k : Nat) (v : Bool) : (c.wp k v).storeErr = c.storeErr := by unfold Ctx.wp; split <;> rfl
@[simp] theorem Ctx.wp_updates (c : Ctx) (k : Nat) (v : Bool) : (c.wp k v).updates = c.updates := by unfold Ctx.wp; split <;> rfl
@[simp] theorem Ctx.wp_catErr (c : Ctx) (k : Nat) (v : Bool) : (c.wp k v).catErr = c.catErr := by unfold Ctx.wp; split <;> rfl
@[simp] theorem Ctx.wp_idem (c : Ctx) (k : Nat) (v : Bool) : (c.wp k v).idem = c.idem := by unfold Ctx.wp; split <;> rfl
@[simp] theorem Ctx.wp_cts (c : Ctx) (k : Nat) (v : Bool) : (c.wp k v).cts = c.cts := by unfold Ctx.wp; split <;> rfl
@[simp] theorem Ctx.wp_line (c : Ctx) (k : Nat) (v : Bool) : (c.wp k v).line = c.line := by unfold Ctx.wp; split <;> rfl
@[simp] theorem Ctx.wp_refetch (c : Ctx) (k : Nat) (v : Bool) : (c.wp k v).refetch = c.refetch := by unfold Ctx.wp; split <;> rfl
@[simp] theorem Ctx.wp_xfer (c : Ctx) (k : Nat) (v : Bool) : (c.wp k v).xfer = c.xfer := by unfold Ctx.wp; split <;> rfl
@[simp] theorem Ctx.wp_stall (c : Ctx) (k : Nat) (v : Bool) : (c.wp k v).stall = c.stall := by unfold Ctx.wp; split <;> rfl
@[simp] theorem Ctx.wp_awaited (c : Ctx) (k : Nat) (v : Bool) : (c.wp k v).awaited = c.awaited := by unfold Ctx.wp; split <;> rfl
@[simp] theorem Ctx.wp_trap (c : Ctx) (k : Nat) (v : Bool) : (c.wp k v).trap = c.trap := by unfold Ctx.wp; split <;> rfl
@[simp] theorem Ctx.wp_preempt (c : Ctx) (k : Nat) (v : Bool) : (c.wp k v).preempt = c.preempt := by unfold Ctx.wp; split <;> rfl
@[simp] theorem Ctx.wp_preemptDue (c : Ctx) (k : Nat) (v : Bool) : (c.wp k v).preemptDue = c.preemptDue := by unfold Ctx.wp; split <;> rfl
@[simp] theorem Ctx.wp_joined (c : Ctx) (k : Nat) (v : Bool) : (c.wp k v).joined = c.joined := by unfold Ctx.wp; split <;> rfl
@[simp] theorem Ctx.wp_moving (c : Ctx) (k : Nat) (v : Bool) : (c.wp k v).moving = c.moving := by unfold Ctx.wp; split <;> rfl
@[simp] theorem Ctx.wp_channels (c : Ctx) (k : Nat) (v : Bool) : (c.wp k v).channels = c.channels := by unfold Ctx.wp; split <;> rfl

/-! ### Ctx.setPend -/

@[simp] theorem Ctx.setPend_firing (c : Ctx) (k : Nat) (v : Pend) : (c.setPend k v).firing = c.firing := by unfold Ctx.setPend; split <;> rfl
@[simp] theorem Ctx.setPend_pc (c : Ctx) (k : Nat) (v : Pend) : (c.setPend k v).pc = c.pc := by unfold Ctx.setPend; split <;> rfl
@[simp] theorem Ctx.setPend_mode (c : Ctx) (k : Nat) (v : Pend) : (c.setPend k v).mode = c.mode := by unfold Ctx.setPend; split <;> rfl
@[simp] theorem Ctx.setPend_g (c : Ctx) (k : Nat) (v : Pend) : (c.setPend k v).g = c.g := by unfold Ctx.setPend; split <;> rfl
@[simp] theorem Ctx.setPend_p (c : Ctx) (k : Nat) (v : Pend) : (c.setPend k v).p = c.p := by unfold Ctx.setPend; split <;> rfl
@[simp] theorem Ctx.setPend_win (c : Ctx) (k : Nat) (v : Pend) : (c.setPend k v).win = c.win := by unfold Ctx.setPend; split <;> rfl
@[simp] theorem Ctx.setPend_constCache (c : Ctx) (k : Nat) (v : Pend) : (c.setPend k v).constCache = c.constCache := by unfold Ctx.setPend; split <;> rfl
@[simp] theorem Ctx.setPend_fflags (c : Ctx) (k : Nat) (v : Pend) : (c.setPend k v).fflags = c.fflags := by unfold Ctx.setPend; split <;> rfl
@[simp] theorem Ctx.setPend_vsat (c : Ctx) (k : Nat) (v : Pend) : (c.setPend k v).vsat = c.vsat := by unfold Ctx.setPend; split <;> rfl
@[simp] theorem Ctx.setPend_rngstr (c : Ctx) (k : Nat) (v : Pend) : (c.setPend k v).rngstr = c.rngstr := by unfold Ctx.setPend; split <;> rfl
@[simp] theorem Ctx.setPend_rngctr (c : Ctx) (k : Nat) (v : Pend) : (c.setPend k v).rngctr = c.rngctr := by unfold Ctx.setPend; split <;> rfl
@[simp] theorem Ctx.setPend_evlatch (c : Ctx) (k : Nat) (v : Pend) : (c.setPend k v).evlatch = c.evlatch := by unfold Ctx.setPend; split <;> rfl
@[simp] theorem Ctx.setPend_tcause (c : Ctx) (k : Nat) (v : Pend) : (c.setPend k v).tcause = c.tcause := by unfold Ctx.setPend; split <;> rfl
@[simp] theorem Ctx.setPend_tpc (c : Ctx) (k : Nat) (v : Pend) : (c.setPend k v).tpc = c.tpc := by unfold Ctx.setPend; split <;> rfl
@[simp] theorem Ctx.setPend_tval (c : Ctx) (k : Nat) (v : Pend) : (c.setPend k v).tval = c.tval := by unfold Ctx.setPend; split <;> rfl
@[simp] theorem Ctx.setPend_tval2 (c : Ctx) (k : Nat) (v : Pend) : (c.setPend k v).tval2 = c.tval2 := by unfold Ctx.setPend; split <;> rfl
@[simp] theorem Ctx.setPend_tregn (c : Ctx) (k : Nat) (v : Pend) : (c.setPend k v).tregn = c.tregn := by unfold Ctx.setPend; split <;> rfl
@[simp] theorem Ctx.setPend_tskip (c : Ctx) (k : Nat) (v : Pend) : (c.setPend k v).tskip = c.tskip := by unfold Ctx.setPend; split <;> rfl
@[simp] theorem Ctx.setPend_tsw (c : Ctx) (k : Nat) (v : Pend) : (c.setPend k v).tsw = c.tsw := by unfold Ctx.setPend; split <;> rfl
@[simp] theorem Ctx.setPend_torigin (c : Ctx) (k : Nat) (v : Pend) : (c.setPend k v).torigin = c.torigin := by unfold Ctx.setPend; split <;> rfl
@[simp] theorem Ctx.setPend_tnext (c : Ctx) (k : Nat) (v : Pend) : (c.setPend k v).tnext = c.tnext := by unfold Ctx.setPend; split <;> rfl
@[simp] theorem Ctx.setPend_tscratch (c : Ctx) (k : Nat) (v : Pend) : (c.setPend k v).tscratch = c.tscratch := by unfold Ctx.setPend; split <;> rfl
@[simp] theorem Ctx.setPend_q0 (c : Ctx) (k : Nat) (v : Pend) : (c.setPend k v).q0 = c.q0 := by unfold Ctx.setPend; split <;> rfl
@[simp] theorem Ctx.setPend_q1 (c : Ctx) (k : Nat) (v : Pend) : (c.setPend k v).q1 = c.q1 := by unfold Ctx.setPend; split <;> rfl
@[simp] theorem Ctx.setPend_streams (c : Ctx) (k : Nat) (v : Pend) : (c.setPend k v).streams = c.streams := by unfold Ctx.setPend; split <;> rfl
@[simp] theorem Ctx.setPend_xseq (c : Ctx) (k : Nat) (v : Pend) : (c.setPend k v).xseq = c.xseq := by unfold Ctx.setPend; split <;> rfl
@[simp] theorem Ctx.setPend_xbusy (c : Ctx) (k : Nat) (v : Pend) : (c.setPend k v).xbusy = c.xbusy := by unfold Ctx.setPend; split <;> rfl
@[simp] theorem Ctx.setPend_xfrozen (c : Ctx) (k : Nat) (v : Pend) : (c.setPend k v).xfrozen = c.xfrozen := by unfold Ctx.setPend; split <;> rfl
@[simp] theorem Ctx.setPend_xskip (c : Ctx) (k : Nat) (v : Pend) : (c.setPend k v).xskip = c.xskip := by unfold Ctx.setPend; split <;> rfl
@[simp] theorem Ctx.setPend_posted (c : Ctx) (k : Nat) (v : Pend) : (c.setPend k v).posted = c.posted := by unfold Ctx.setPend; split <;> rfl
@[simp] theorem Ctx.setPend_countClu (c : Ctx) (k : Nat) (v : Pend) : (c.setPend k v).countClu = c.countClu := by unfold Ctx.setPend; split <;> rfl
@[simp] theorem Ctx.setPend_countPkg (c : Ctx) (k : Nat) (v : Pend) : (c.setPend k v).countPkg = c.countPkg := by unfold Ctx.setPend; split <;> rfl
@[simp] theorem Ctx.setPend_countSys (c : Ctx) (k : Nat) (v : Pend) : (c.setPend k v).countSys = c.countSys := by unfold Ctx.setPend; split <;> rfl
@[simp] theorem Ctx.setPend_storeErr (c : Ctx) (k : Nat) (v : Pend) : (c.setPend k v).storeErr = c.storeErr := by unfold Ctx.setPend; split <;> rfl
@[simp] theorem Ctx.setPend_updates (c : Ctx) (k : Nat) (v : Pend) : (c.setPend k v).updates = c.updates := by unfold Ctx.setPend; split <;> rfl
@[simp] theorem Ctx.setPend_catErr (c : Ctx) (k : Nat) (v : Pend) : (c.setPend k v).catErr = c.catErr := by unfold Ctx.setPend; split <;> rfl
@[simp] theorem Ctx.setPend_idem (c : Ctx) (k : Nat) (v : Pend) : (c.setPend k v).idem = c.idem := by unfold Ctx.setPend; split <;> rfl
@[simp] theorem Ctx.setPend_cts (c : Ctx) (k : Nat) (v : Pend) : (c.setPend k v).cts = c.cts := by unfold Ctx.setPend; split <;> rfl
@[simp] theorem Ctx.setPend_line (c : Ctx) (k : Nat) (v : Pend) : (c.setPend k v).line = c.line := by unfold Ctx.setPend; split <;> rfl
@[simp] theorem Ctx.setPend_refetch (c : Ctx) (k : Nat) (v : Pend) : (c.setPend k v).refetch = c.refetch := by unfold Ctx.setPend; split <;> rfl
@[simp] theorem Ctx.setPend_xfer (c : Ctx) (k : Nat) (v : Pend) : (c.setPend k v).xfer = c.xfer := by unfold Ctx.setPend; split <;> rfl
@[simp] theorem Ctx.setPend_stall (c : Ctx) (k : Nat) (v : Pend) : (c.setPend k v).stall = c.stall := by unfold Ctx.setPend; split <;> rfl
@[simp] theorem Ctx.setPend_awaited (c : Ctx) (k : Nat) (v : Pend) : (c.setPend k v).awaited = c.awaited := by unfold Ctx.setPend; split <;> rfl
@[simp] theorem Ctx.setPend_trap (c : Ctx) (k : Nat) (v : Pend) : (c.setPend k v).trap = c.trap := by unfold Ctx.setPend; split <;> rfl
@[simp] theorem Ctx.setPend_preempt (c : Ctx) (k : Nat) (v : Pend) : (c.setPend k v).preempt = c.preempt := by unfold Ctx.setPend; split <;> rfl
@[simp] theorem Ctx.setPend_preemptDue (c : Ctx) (k : Nat) (v : Pend) : (c.setPend k v).preemptDue = c.preemptDue := by unfold Ctx.setPend; split <;> rfl
@[simp] theorem Ctx.setPend_joined (c : Ctx) (k : Nat) (v : Pend) : (c.setPend k v).joined = c.joined := by unfold Ctx.setPend; split <;> rfl
@[simp] theorem Ctx.setPend_moving (c : Ctx) (k : Nat) (v : Pend) : (c.setPend k v).moving = c.moving := by unfold Ctx.setPend; split <;> rfl
@[simp] theorem Ctx.setPend_channels (c : Ctx) (k : Nat) (v : Pend) : (c.setPend k v).channels = c.channels := by unfold Ctx.setPend; split <;> rfl

/-! ### Ctx.setStream -/

@[simp] theorem Ctx.setStream_firing (c : Ctx) (q : Nat) (t : Stream) : (c.setStream q t).firing = c.firing := rfl
@[simp] theorem Ctx.setStream_pc (c : Ctx) (q : Nat) (t : Stream) : (c.setStream q t).pc = c.pc := rfl
@[simp] theorem Ctx.setStream_mode (c : Ctx) (q : Nat) (t : Stream) : (c.setStream q t).mode = c.mode := rfl
@[simp] theorem Ctx.setStream_g (c : Ctx) (q : Nat) (t : Stream) : (c.setStream q t).g = c.g := rfl
@[simp] theorem Ctx.setStream_p (c : Ctx) (q : Nat) (t : Stream) : (c.setStream q t).p = c.p := rfl
@[simp] theorem Ctx.setStream_pend (c : Ctx) (q : Nat) (t : Stream) : (c.setStream q t).pend = c.pend := rfl
@[simp] theorem Ctx.setStream_win (c : Ctx) (q : Nat) (t : Stream) : (c.setStream q t).win = c.win := rfl
@[simp] theorem Ctx.setStream_constCache (c : Ctx) (q : Nat) (t : Stream) : (c.setStream q t).constCache = c.constCache := rfl
@[simp] theorem Ctx.setStream_fflags (c : Ctx) (q : Nat) (t : Stream) : (c.setStream q t).fflags = c.fflags := rfl
@[simp] theorem Ctx.setStream_vsat (c : Ctx) (q : Nat) (t : Stream) : (c.setStream q t).vsat = c.vsat := rfl
@[simp] theorem Ctx.setStream_rngstr (c : Ctx) (q : Nat) (t : Stream) : (c.setStream q t).rngstr = c.rngstr := rfl
@[simp] theorem Ctx.setStream_rngctr (c : Ctx) (q : Nat) (t : Stream) : (c.setStream q t).rngctr = c.rngctr := rfl
@[simp] theorem Ctx.setStream_evlatch (c : Ctx) (q : Nat) (t : Stream) : (c.setStream q t).evlatch = c.evlatch := rfl
@[simp] theorem Ctx.setStream_tcause (c : Ctx) (q : Nat) (t : Stream) : (c.setStream q t).tcause = c.tcause := rfl
@[simp] theorem Ctx.setStream_tpc (c : Ctx) (q : Nat) (t : Stream) : (c.setStream q t).tpc = c.tpc := rfl
@[simp] theorem Ctx.setStream_tval (c : Ctx) (q : Nat) (t : Stream) : (c.setStream q t).tval = c.tval := rfl
@[simp] theorem Ctx.setStream_tval2 (c : Ctx) (q : Nat) (t : Stream) : (c.setStream q t).tval2 = c.tval2 := rfl
@[simp] theorem Ctx.setStream_tregn (c : Ctx) (q : Nat) (t : Stream) : (c.setStream q t).tregn = c.tregn := rfl
@[simp] theorem Ctx.setStream_tskip (c : Ctx) (q : Nat) (t : Stream) : (c.setStream q t).tskip = c.tskip := rfl
@[simp] theorem Ctx.setStream_tsw (c : Ctx) (q : Nat) (t : Stream) : (c.setStream q t).tsw = c.tsw := rfl
@[simp] theorem Ctx.setStream_torigin (c : Ctx) (q : Nat) (t : Stream) : (c.setStream q t).torigin = c.torigin := rfl
@[simp] theorem Ctx.setStream_tnext (c : Ctx) (q : Nat) (t : Stream) : (c.setStream q t).tnext = c.tnext := rfl
@[simp] theorem Ctx.setStream_tscratch (c : Ctx) (q : Nat) (t : Stream) : (c.setStream q t).tscratch = c.tscratch := rfl
@[simp] theorem Ctx.setStream_q0 (c : Ctx) (q : Nat) (t : Stream) : (c.setStream q t).q0 = c.q0 := rfl
@[simp] theorem Ctx.setStream_q1 (c : Ctx) (q : Nat) (t : Stream) : (c.setStream q t).q1 = c.q1 := rfl
@[simp] theorem Ctx.setStream_xseq (c : Ctx) (q : Nat) (t : Stream) : (c.setStream q t).xseq = c.xseq := rfl
@[simp] theorem Ctx.setStream_xbusy (c : Ctx) (q : Nat) (t : Stream) : (c.setStream q t).xbusy = c.xbusy := rfl
@[simp] theorem Ctx.setStream_xfrozen (c : Ctx) (q : Nat) (t : Stream) : (c.setStream q t).xfrozen = c.xfrozen := rfl
@[simp] theorem Ctx.setStream_xskip (c : Ctx) (q : Nat) (t : Stream) : (c.setStream q t).xskip = c.xskip := rfl
@[simp] theorem Ctx.setStream_posted (c : Ctx) (q : Nat) (t : Stream) : (c.setStream q t).posted = c.posted := rfl
@[simp] theorem Ctx.setStream_countClu (c : Ctx) (q : Nat) (t : Stream) : (c.setStream q t).countClu = c.countClu := rfl
@[simp] theorem Ctx.setStream_countPkg (c : Ctx) (q : Nat) (t : Stream) : (c.setStream q t).countPkg = c.countPkg := rfl
@[simp] theorem Ctx.setStream_countSys (c : Ctx) (q : Nat) (t : Stream) : (c.setStream q t).countSys = c.countSys := rfl
@[simp] theorem Ctx.setStream_storeErr (c : Ctx) (q : Nat) (t : Stream) : (c.setStream q t).storeErr = c.storeErr := rfl
@[simp] theorem Ctx.setStream_updates (c : Ctx) (q : Nat) (t : Stream) : (c.setStream q t).updates = c.updates := rfl
@[simp] theorem Ctx.setStream_catErr (c : Ctx) (q : Nat) (t : Stream) : (c.setStream q t).catErr = c.catErr := rfl
@[simp] theorem Ctx.setStream_idem (c : Ctx) (q : Nat) (t : Stream) : (c.setStream q t).idem = c.idem := rfl
@[simp] theorem Ctx.setStream_cts (c : Ctx) (q : Nat) (t : Stream) : (c.setStream q t).cts = c.cts := rfl
@[simp] theorem Ctx.setStream_line (c : Ctx) (q : Nat) (t : Stream) : (c.setStream q t).line = c.line := rfl
@[simp] theorem Ctx.setStream_refetch (c : Ctx) (q : Nat) (t : Stream) : (c.setStream q t).refetch = c.refetch := rfl
@[simp] theorem Ctx.setStream_xfer (c : Ctx) (q : Nat) (t : Stream) : (c.setStream q t).xfer = c.xfer := rfl
@[simp] theorem Ctx.setStream_stall (c : Ctx) (q : Nat) (t : Stream) : (c.setStream q t).stall = c.stall := rfl
@[simp] theorem Ctx.setStream_awaited (c : Ctx) (q : Nat) (t : Stream) : (c.setStream q t).awaited = c.awaited := rfl
@[simp] theorem Ctx.setStream_trap (c : Ctx) (q : Nat) (t : Stream) : (c.setStream q t).trap = c.trap := rfl
@[simp] theorem Ctx.setStream_preempt (c : Ctx) (q : Nat) (t : Stream) : (c.setStream q t).preempt = c.preempt := rfl
@[simp] theorem Ctx.setStream_preemptDue (c : Ctx) (q : Nat) (t : Stream) : (c.setStream q t).preemptDue = c.preemptDue := rfl
@[simp] theorem Ctx.setStream_joined (c : Ctx) (q : Nat) (t : Stream) : (c.setStream q t).joined = c.joined := rfl
@[simp] theorem Ctx.setStream_moving (c : Ctx) (q : Nat) (t : Stream) : (c.setStream q t).moving = c.moving := rfl
@[simp] theorem Ctx.setStream_channels (c : Ctx) (q : Nat) (t : Stream) : (c.setStream q t).channels = c.channels := rfl

/-! ### Core.setCtx -/

@[simp] theorem Core.setCtx_aptr (c : Core) (fc : Nat) (x : Ctx) : (c.setCtx fc x).aptr = c.aptr := rfl
@[simp] theorem Core.setCtx_xptr (c : Core) (fc : Nat) (x : Ctx) : (c.setCtx fc x).xptr = c.xptr := rfl
@[simp] theorem Core.setCtx_banks (c : Core) (fc : Nat) (x : Ctx) : (c.setCtx fc x).banks = c.banks := rfl
@[simp] theorem Core.setCtx_move (c : Core) (fc : Nat) (x : Ctx) : (c.setCtx fc x).move = c.move := rfl
@[simp] theorem Core.setCtx_scrhwm (c : Core) (fc : Nat) (x : Ctx) : (c.setCtx fc x).scrhwm = c.scrhwm := rfl
@[simp] theorem Core.setCtx_vwv (c : Core) (fc : Nat) (x : Ctx) : (c.setCtx fc x).vwv = c.vwv := rfl
@[simp] theorem Core.setCtx_vwt (c : Core) (fc : Nat) (x : Ctx) : (c.setCtx fc x).vwt = c.vwt := rfl
@[simp] theorem Core.setCtx_vwz (c : Core) (fc : Nat) (x : Ctx) : (c.setCtx fc x).vwz = c.vwz := rfl
@[simp] theorem Core.setCtx_depth (c : Core) (fc : Nat) (x : Ctx) : (c.setCtx fc x).depth = c.depth := rfl
@[simp] theorem Core.setCtx_idleLimit (c : Core) (fc : Nat) (x : Ctx) : (c.setCtx fc x).idleLimit = c.idleLimit := rfl
@[simp] theorem Core.setCtx_cur (c : Core) (fc : Nat) (x : Ctx) : (c.setCtx fc x).cur = c.cur := rfl
@[simp] theorem Core.setCtx_quietSince (c : Core) (fc : Nat) (x : Ctx) : (c.setCtx fc x).quietSince = c.quietSince := rfl
@[simp] theorem Core.setCtx_zflags (c : Core) (fc : Nat) (x : Ctx) : (c.setCtx fc x).zflags = c.zflags := rfl
@[simp] theorem Core.setCtx_sclbase (c : Core) (fc : Nat) (x : Ctx) : (c.setCtx fc x).sclbase = c.sclbase := rfl
@[simp] theorem Core.setCtx_cveps (c : Core) (fc : Nat) (x : Ctx) : (c.setCtx fc x).cveps = c.cveps := rfl
@[simp] theorem Core.setCtx_cvmax (c : Core) (fc : Nat) (x : Ctx) : (c.setCtx fc x).cvmax = c.cvmax := rfl
@[simp] theorem Core.setCtx_cvcnt (c : Core) (fc : Nat) (x : Ctx) : (c.setCtx fc x).cvcnt = c.cvcnt := rfl
@[simp] theorem Core.setCtx_epoch (c : Core) (fc : Nat) (x : Ctx) : (c.setCtx fc x).epoch = c.epoch := rfl
@[simp] theorem Core.setCtx_infl (c : Core) (fc : Nat) (x : Ctx) : (c.setCtx fc x).infl = c.infl := rfl
@[simp] theorem Core.setCtx_ageFrom (c : Core) (fc : Nat) (x : Ctx) : (c.setCtx fc x).ageFrom = c.ageFrom := rfl
@[simp] theorem Core.setCtx_qwin (c : Core) (fc : Nat) (x : Ctx) : (c.setCtx fc x).qwin = c.qwin := rfl
@[simp] theorem Core.setCtx_tvecEn (c : Core) (fc : Nat) (x : Ctx) : (c.setCtx fc x).tvecEn = c.tvecEn := rfl
@[simp] theorem Core.setCtx_tvecPc (c : Core) (fc : Nat) (x : Ctx) : (c.setCtx fc x).tvecPc = c.tvecPc := rfl
@[simp] theorem Core.setCtx_repen (c : Core) (fc : Nat) (x : Ctx) : (c.setCtx fc x).repen = c.repen := rfl
@[simp] theorem Core.setCtx_ladv (c : Core) (fc : Nat) (x : Ctx) : (c.setCtx fc x).ladv = c.ladv := rfl
@[simp] theorem Core.setCtx_lease (c : Core) (fc : Nat) (x : Ctx) : (c.setCtx fc x).lease = c.lease := rfl
@[simp] theorem Core.setCtx_agelim (c : Core) (fc : Nat) (x : Ctx) : (c.setCtx fc x).agelim = c.agelim := rfl
@[simp] theorem Core.setCtx_steal (c : Core) (fc : Nat) (x : Ctx) : (c.setCtx fc x).steal = c.steal := rfl
@[simp] theorem Core.setCtx_maxsh (c : Core) (fc : Nat) (x : Ctx) : (c.setCtx fc x).maxsh = c.maxsh := rfl
@[simp] theorem Core.setCtx_grain (c : Core) (fc : Nat) (x : Ctx) : (c.setCtx fc x).grain = c.grain := rfl
@[simp] theorem Core.setCtx_round (c : Core) (fc : Nat) (x : Ctx) : (c.setCtx fc x).round = c.round := rfl
@[simp] theorem Core.setCtx_cnt (c : Core) (fc : Nat) (x : Ctx) : (c.setCtx fc x).cnt = c.cnt := rfl
@[simp] theorem Core.setCtx_ev (c : Core) (fc : Nat) (x : Ctx) : (c.setCtx fc x).ev = c.ev := rfl
@[simp] theorem Core.setCtx_tiles (c : Core) (fc : Nat) (x : Ctx) : (c.setCtx fc x).tiles = c.tiles := rfl
@[simp] theorem Core.setCtx_deque (c : Core) (fc : Nat) (x : Ctx) : (c.setCtx fc x).deque = c.deque := rfl
@[simp] theorem Core.setCtx_binds (c : Core) (fc : Nat) (x : Ctx) : (c.setCtx fc x).binds = c.binds := rfl
@[simp] theorem Core.setCtx_region (c : Core) (fc : Nat) (x : Ctx) : (c.setCtx fc x).region = c.region := rfl
@[simp] theorem Core.setCtx_lcore (c : Core) (fc : Nat) (x : Ctx) : (c.setCtx fc x).lcore = c.lcore := rfl
@[simp] theorem Core.setCtx_rgn (c : Core) (fc : Nat) (x : Ctx) : (c.setCtx fc x).rgn = c.rgn := rfl
@[simp] theorem Core.setCtx_page (c : Core) (fc : Nat) (x : Ctx) : (c.setCtx fc x).page = c.page := rfl
@[simp] theorem Core.setCtx_mailboxes (c : Core) (fc : Nat) (x : Ctx) : (c.setCtx fc x).mailboxes = c.mailboxes := rfl
@[simp] theorem Core.setCtx_frames (c : Core) (fc : Nat) (x : Ctx) : (c.setCtx fc x).frames = c.frames := rfl
@[simp] theorem Core.setCtx_gang (c : Core) (fc : Nat) (x : Ctx) : (c.setCtx fc x).gang = c.gang := rfl
@[simp] theorem Core.setCtx_lines (c : Core) (fc : Nat) (x : Ctx) : (c.setCtx fc x).lines = c.lines := rfl
@[simp] theorem Core.setCtx_ulines (c : Core) (fc : Nat) (x : Ctx) : (c.setCtx fc x).ulines = c.ulines := rfl
@[simp] theorem Core.setCtx_utlb (c : Core) (fc : Nat) (x : Ctx) : (c.setCtx fc x).utlb = c.utlb := rfl
@[simp] theorem Core.setCtx_fills (c : Core) (fc : Nat) (x : Ctx) : (c.setCtx fc x).fills = c.fills := rfl
@[simp] theorem Core.setCtx_lastSlot (c : Core) (fc : Nat) (x : Ctx) : (c.setCtx fc x).lastSlot = c.lastSlot := rfl
@[simp] theorem Core.setCtx_stealPos (c : Core) (fc : Nat) (x : Ctx) : (c.setCtx fc x).stealPos = c.stealPos := rfl
@[simp] theorem Core.setCtx_claimed (c : Core) (fc : Nat) (x : Ctx) : (c.setCtx fc x).claimed = c.claimed := rfl
@[simp] theorem Core.setCtx_ctsAt (c : Core) (fc : Nat) (x : Ctx) : (c.setCtx fc x).ctsAt = c.ctsAt := rfl

/-! ### Core.setBanks -/

@[simp] theorem Core.setBanks_ctx (c : Core) (r : Role) (n : Nat) : (c.setBanks r n).ctx = c.ctx := rfl
@[simp] theorem Core.setBanks_aptr (c : Core) (r : Role) (n : Nat) : (c.setBanks r n).aptr = c.aptr := rfl
@[simp] theorem Core.setBanks_xptr (c : Core) (r : Role) (n : Nat) : (c.setBanks r n).xptr = c.xptr := rfl
@[simp] theorem Core.setBanks_move (c : Core) (r : Role) (n : Nat) : (c.setBanks r n).move = c.move := rfl
@[simp] theorem Core.setBanks_scrhwm (c : Core) (r : Role) (n : Nat) : (c.setBanks r n).scrhwm = c.scrhwm := rfl
@[simp] theorem Core.setBanks_vwv (c : Core) (r : Role) (n : Nat) : (c.setBanks r n).vwv = c.vwv := rfl
@[simp] theorem Core.setBanks_vwt (c : Core) (r : Role) (n : Nat) : (c.setBanks r n).vwt = c.vwt := rfl
@[simp] theorem Core.setBanks_vwz (c : Core) (r : Role) (n : Nat) : (c.setBanks r n).vwz = c.vwz := rfl
@[simp] theorem Core.setBanks_depth (c : Core) (r : Role) (n : Nat) : (c.setBanks r n).depth = c.depth := rfl
@[simp] theorem Core.setBanks_idleLimit (c : Core) (r : Role) (n : Nat) : (c.setBanks r n).idleLimit = c.idleLimit := rfl
@[simp] theorem Core.setBanks_cur (c : Core) (r : Role) (n : Nat) : (c.setBanks r n).cur = c.cur := rfl
@[simp] theorem Core.setBanks_quietSince (c : Core) (r : Role) (n : Nat) : (c.setBanks r n).quietSince = c.quietSince := rfl
@[simp] theorem Core.setBanks_zflags (c : Core) (r : Role) (n : Nat) : (c.setBanks r n).zflags = c.zflags := rfl
@[simp] theorem Core.setBanks_sclbase (c : Core) (r : Role) (n : Nat) : (c.setBanks r n).sclbase = c.sclbase := rfl
@[simp] theorem Core.setBanks_cveps (c : Core) (r : Role) (n : Nat) : (c.setBanks r n).cveps = c.cveps := rfl
@[simp] theorem Core.setBanks_cvmax (c : Core) (r : Role) (n : Nat) : (c.setBanks r n).cvmax = c.cvmax := rfl
@[simp] theorem Core.setBanks_cvcnt (c : Core) (r : Role) (n : Nat) : (c.setBanks r n).cvcnt = c.cvcnt := rfl
@[simp] theorem Core.setBanks_epoch (c : Core) (r : Role) (n : Nat) : (c.setBanks r n).epoch = c.epoch := rfl
@[simp] theorem Core.setBanks_infl (c : Core) (r : Role) (n : Nat) : (c.setBanks r n).infl = c.infl := rfl
@[simp] theorem Core.setBanks_ageFrom (c : Core) (r : Role) (n : Nat) : (c.setBanks r n).ageFrom = c.ageFrom := rfl
@[simp] theorem Core.setBanks_qwin (c : Core) (r : Role) (n : Nat) : (c.setBanks r n).qwin = c.qwin := rfl
@[simp] theorem Core.setBanks_tvecEn (c : Core) (r : Role) (n : Nat) : (c.setBanks r n).tvecEn = c.tvecEn := rfl
@[simp] theorem Core.setBanks_tvecPc (c : Core) (r : Role) (n : Nat) : (c.setBanks r n).tvecPc = c.tvecPc := rfl
@[simp] theorem Core.setBanks_repen (c : Core) (r : Role) (n : Nat) : (c.setBanks r n).repen = c.repen := rfl
@[simp] theorem Core.setBanks_ladv (c : Core) (r : Role) (n : Nat) : (c.setBanks r n).ladv = c.ladv := rfl
@[simp] theorem Core.setBanks_lease (c : Core) (r : Role) (n : Nat) : (c.setBanks r n).lease = c.lease := rfl
@[simp] theorem Core.setBanks_agelim (c : Core) (r : Role) (n : Nat) : (c.setBanks r n).agelim = c.agelim := rfl
@[simp] theorem Core.setBanks_steal (c : Core) (r : Role) (n : Nat) : (c.setBanks r n).steal = c.steal := rfl
@[simp] theorem Core.setBanks_maxsh (c : Core) (r : Role) (n : Nat) : (c.setBanks r n).maxsh = c.maxsh := rfl
@[simp] theorem Core.setBanks_grain (c : Core) (r : Role) (n : Nat) : (c.setBanks r n).grain = c.grain := rfl
@[simp] theorem Core.setBanks_round (c : Core) (r : Role) (n : Nat) : (c.setBanks r n).round = c.round := rfl
@[simp] theorem Core.setBanks_cnt (c : Core) (r : Role) (n : Nat) : (c.setBanks r n).cnt = c.cnt := rfl
@[simp] theorem Core.setBanks_ev (c : Core) (r : Role) (n : Nat) : (c.setBanks r n).ev = c.ev := rfl
@[simp] theorem Core.setBanks_tiles (c : Core) (r : Role) (n : Nat) : (c.setBanks r n).tiles = c.tiles := rfl
@[simp] theorem Core.setBanks_deque (c : Core) (r : Role) (n : Nat) : (c.setBanks r n).deque = c.deque := rfl
@[simp] theorem Core.setBanks_binds (c : Core) (r : Role) (n : Nat) : (c.setBanks r n).binds = c.binds := rfl
@[simp] theorem Core.setBanks_region (c : Core) (r : Role) (n : Nat) : (c.setBanks r n).region = c.region := rfl
@[simp] theorem Core.setBanks_lcore (c : Core) (r : Role) (n : Nat) : (c.setBanks r n).lcore = c.lcore := rfl
@[simp] theorem Core.setBanks_rgn (c : Core) (r : Role) (n : Nat) : (c.setBanks r n).rgn = c.rgn := rfl
@[simp] theorem Core.setBanks_page (c : Core) (r : Role) (n : Nat) : (c.setBanks r n).page = c.page := rfl
@[simp] theorem Core.setBanks_mailboxes (c : Core) (r : Role) (n : Nat) : (c.setBanks r n).mailboxes = c.mailboxes := rfl
@[simp] theorem Core.setBanks_frames (c : Core) (r : Role) (n : Nat) : (c.setBanks r n).frames = c.frames := rfl
@[simp] theorem Core.setBanks_gang (c : Core) (r : Role) (n : Nat) : (c.setBanks r n).gang = c.gang := rfl
@[simp] theorem Core.setBanks_lines (c : Core) (r : Role) (n : Nat) : (c.setBanks r n).lines = c.lines := rfl
@[simp] theorem Core.setBanks_ulines (c : Core) (r : Role) (n : Nat) : (c.setBanks r n).ulines = c.ulines := rfl
@[simp] theorem Core.setBanks_utlb (c : Core) (r : Role) (n : Nat) : (c.setBanks r n).utlb = c.utlb := rfl
@[simp] theorem Core.setBanks_fills (c : Core) (r : Role) (n : Nat) : (c.setBanks r n).fills = c.fills := rfl
@[simp] theorem Core.setBanks_lastSlot (c : Core) (r : Role) (n : Nat) : (c.setBanks r n).lastSlot = c.lastSlot := rfl
@[simp] theorem Core.setBanks_stealPos (c : Core) (r : Role) (n : Nat) : (c.setBanks r n).stealPos = c.stealPos := rfl
@[simp] theorem Core.setBanks_claimed (c : Core) (r : Role) (n : Nat) : (c.setBanks r n).claimed = c.claimed := rfl
@[simp] theorem Core.setBanks_ctsAt (c : Core) (r : Role) (n : Nat) : (c.setBanks r n).ctsAt = c.ctsAt := rfl

/-! ### Core.count -/

@[simp] theorem Core.count_ctx (c : Core) (n : Nat) : (c.count n).ctx = c.ctx := rfl
@[simp] theorem Core.count_aptr (c : Core) (n : Nat) : (c.count n).aptr = c.aptr := rfl
@[simp] theorem Core.count_xptr (c : Core) (n : Nat) : (c.count n).xptr = c.xptr := rfl
@[simp] theorem Core.count_banks (c : Core) (n : Nat) : (c.count n).banks = c.banks := rfl
@[simp] theorem Core.count_move (c : Core) (n : Nat) : (c.count n).move = c.move := rfl
@[simp] theorem Core.count_scrhwm (c : Core) (n : Nat) : (c.count n).scrhwm = c.scrhwm := rfl
@[simp] theorem Core.count_vwv (c : Core) (n : Nat) : (c.count n).vwv = c.vwv := rfl
@[simp] theorem Core.count_vwt (c : Core) (n : Nat) : (c.count n).vwt = c.vwt := rfl
@[simp] theorem Core.count_vwz (c : Core) (n : Nat) : (c.count n).vwz = c.vwz := rfl
@[simp] theorem Core.count_depth (c : Core) (n : Nat) : (c.count n).depth = c.depth := rfl
@[simp] theorem Core.count_idleLimit (c : Core) (n : Nat) : (c.count n).idleLimit = c.idleLimit := rfl
@[simp] theorem Core.count_cur (c : Core) (n : Nat) : (c.count n).cur = c.cur := rfl
@[simp] theorem Core.count_quietSince (c : Core) (n : Nat) : (c.count n).quietSince = c.quietSince := rfl
@[simp] theorem Core.count_zflags (c : Core) (n : Nat) : (c.count n).zflags = c.zflags := rfl
@[simp] theorem Core.count_sclbase (c : Core) (n : Nat) : (c.count n).sclbase = c.sclbase := rfl
@[simp] theorem Core.count_cveps (c : Core) (n : Nat) : (c.count n).cveps = c.cveps := rfl
@[simp] theorem Core.count_cvmax (c : Core) (n : Nat) : (c.count n).cvmax = c.cvmax := rfl
@[simp] theorem Core.count_cvcnt (c : Core) (n : Nat) : (c.count n).cvcnt = c.cvcnt := rfl
@[simp] theorem Core.count_epoch (c : Core) (n : Nat) : (c.count n).epoch = c.epoch := rfl
@[simp] theorem Core.count_infl (c : Core) (n : Nat) : (c.count n).infl = c.infl := rfl
@[simp] theorem Core.count_ageFrom (c : Core) (n : Nat) : (c.count n).ageFrom = c.ageFrom := rfl
@[simp] theorem Core.count_qwin (c : Core) (n : Nat) : (c.count n).qwin = c.qwin := rfl
@[simp] theorem Core.count_tvecEn (c : Core) (n : Nat) : (c.count n).tvecEn = c.tvecEn := rfl
@[simp] theorem Core.count_tvecPc (c : Core) (n : Nat) : (c.count n).tvecPc = c.tvecPc := rfl
@[simp] theorem Core.count_repen (c : Core) (n : Nat) : (c.count n).repen = c.repen := rfl
@[simp] theorem Core.count_ladv (c : Core) (n : Nat) : (c.count n).ladv = c.ladv := rfl
@[simp] theorem Core.count_lease (c : Core) (n : Nat) : (c.count n).lease = c.lease := rfl
@[simp] theorem Core.count_agelim (c : Core) (n : Nat) : (c.count n).agelim = c.agelim := rfl
@[simp] theorem Core.count_steal (c : Core) (n : Nat) : (c.count n).steal = c.steal := rfl
@[simp] theorem Core.count_maxsh (c : Core) (n : Nat) : (c.count n).maxsh = c.maxsh := rfl
@[simp] theorem Core.count_grain (c : Core) (n : Nat) : (c.count n).grain = c.grain := rfl
@[simp] theorem Core.count_round (c : Core) (n : Nat) : (c.count n).round = c.round := rfl
@[simp] theorem Core.count_cnt (c : Core) (n : Nat) : (c.count n).cnt = c.cnt := rfl
@[simp] theorem Core.count_tiles (c : Core) (n : Nat) : (c.count n).tiles = c.tiles := rfl
@[simp] theorem Core.count_deque (c : Core) (n : Nat) : (c.count n).deque = c.deque := rfl
@[simp] theorem Core.count_binds (c : Core) (n : Nat) : (c.count n).binds = c.binds := rfl
@[simp] theorem Core.count_region (c : Core) (n : Nat) : (c.count n).region = c.region := rfl
@[simp] theorem Core.count_lcore (c : Core) (n : Nat) : (c.count n).lcore = c.lcore := rfl
@[simp] theorem Core.count_rgn (c : Core) (n : Nat) : (c.count n).rgn = c.rgn := rfl
@[simp] theorem Core.count_page (c : Core) (n : Nat) : (c.count n).page = c.page := rfl
@[simp] theorem Core.count_mailboxes (c : Core) (n : Nat) : (c.count n).mailboxes = c.mailboxes := rfl
@[simp] theorem Core.count_frames (c : Core) (n : Nat) : (c.count n).frames = c.frames := rfl
@[simp] theorem Core.count_gang (c : Core) (n : Nat) : (c.count n).gang = c.gang := rfl
@[simp] theorem Core.count_lines (c : Core) (n : Nat) : (c.count n).lines = c.lines := rfl
@[simp] theorem Core.count_ulines (c : Core) (n : Nat) : (c.count n).ulines = c.ulines := rfl
@[simp] theorem Core.count_utlb (c : Core) (n : Nat) : (c.count n).utlb = c.utlb := rfl
@[simp] theorem Core.count_fills (c : Core) (n : Nat) : (c.count n).fills = c.fills := rfl
@[simp] theorem Core.count_lastSlot (c : Core) (n : Nat) : (c.count n).lastSlot = c.lastSlot := rfl
@[simp] theorem Core.count_stealPos (c : Core) (n : Nat) : (c.count n).stealPos = c.stealPos := rfl
@[simp] theorem Core.count_claimed (c : Core) (n : Nat) : (c.count n).claimed = c.claimed := rfl
@[simp] theorem Core.count_ctsAt (c : Core) (n : Nat) : (c.count n).ctsAt = c.ctsAt := rfl

/-! ### Core.setZEntry -/

@[simp] theorem Core.setZEntry_ctx (c : Core) (k x : Nat) : (c.setZEntry k x).ctx = c.ctx := rfl
@[simp] theorem Core.setZEntry_aptr (c : Core) (k x : Nat) : (c.setZEntry k x).aptr = c.aptr := rfl
@[simp] theorem Core.setZEntry_xptr (c : Core) (k x : Nat) : (c.setZEntry k x).xptr = c.xptr := rfl
@[simp] theorem Core.setZEntry_banks (c : Core) (k x : Nat) : (c.setZEntry k x).banks = c.banks := rfl
@[simp] theorem Core.setZEntry_move (c : Core) (k x : Nat) : (c.setZEntry k x).move = c.move := rfl
@[simp] theorem Core.setZEntry_scrhwm (c : Core) (k x : Nat) : (c.setZEntry k x).scrhwm = c.scrhwm := rfl
@[simp] theorem Core.setZEntry_vwv (c : Core) (k x : Nat) : (c.setZEntry k x).vwv = c.vwv := rfl
@[simp] theorem Core.setZEntry_vwt (c : Core) (k x : Nat) : (c.setZEntry k x).vwt = c.vwt := rfl
@[simp] theorem Core.setZEntry_vwz (c : Core) (k x : Nat) : (c.setZEntry k x).vwz = c.vwz := rfl
@[simp] theorem Core.setZEntry_depth (c : Core) (k x : Nat) : (c.setZEntry k x).depth = c.depth := rfl
@[simp] theorem Core.setZEntry_idleLimit (c : Core) (k x : Nat) : (c.setZEntry k x).idleLimit = c.idleLimit := rfl
@[simp] theorem Core.setZEntry_cur (c : Core) (k x : Nat) : (c.setZEntry k x).cur = c.cur := rfl
@[simp] theorem Core.setZEntry_quietSince (c : Core) (k x : Nat) : (c.setZEntry k x).quietSince = c.quietSince := rfl
@[simp] theorem Core.setZEntry_sclbase (c : Core) (k x : Nat) : (c.setZEntry k x).sclbase = c.sclbase := rfl
@[simp] theorem Core.setZEntry_cveps (c : Core) (k x : Nat) : (c.setZEntry k x).cveps = c.cveps := rfl
@[simp] theorem Core.setZEntry_cvmax (c : Core) (k x : Nat) : (c.setZEntry k x).cvmax = c.cvmax := rfl
@[simp] theorem Core.setZEntry_cvcnt (c : Core) (k x : Nat) : (c.setZEntry k x).cvcnt = c.cvcnt := rfl
@[simp] theorem Core.setZEntry_epoch (c : Core) (k x : Nat) : (c.setZEntry k x).epoch = c.epoch := rfl
@[simp] theorem Core.setZEntry_infl (c : Core) (k x : Nat) : (c.setZEntry k x).infl = c.infl := rfl
@[simp] theorem Core.setZEntry_ageFrom (c : Core) (k x : Nat) : (c.setZEntry k x).ageFrom = c.ageFrom := rfl
@[simp] theorem Core.setZEntry_qwin (c : Core) (k x : Nat) : (c.setZEntry k x).qwin = c.qwin := rfl
@[simp] theorem Core.setZEntry_tvecEn (c : Core) (k x : Nat) : (c.setZEntry k x).tvecEn = c.tvecEn := rfl
@[simp] theorem Core.setZEntry_tvecPc (c : Core) (k x : Nat) : (c.setZEntry k x).tvecPc = c.tvecPc := rfl
@[simp] theorem Core.setZEntry_repen (c : Core) (k x : Nat) : (c.setZEntry k x).repen = c.repen := rfl
@[simp] theorem Core.setZEntry_ladv (c : Core) (k x : Nat) : (c.setZEntry k x).ladv = c.ladv := rfl
@[simp] theorem Core.setZEntry_lease (c : Core) (k x : Nat) : (c.setZEntry k x).lease = c.lease := rfl
@[simp] theorem Core.setZEntry_agelim (c : Core) (k x : Nat) : (c.setZEntry k x).agelim = c.agelim := rfl
@[simp] theorem Core.setZEntry_steal (c : Core) (k x : Nat) : (c.setZEntry k x).steal = c.steal := rfl
@[simp] theorem Core.setZEntry_maxsh (c : Core) (k x : Nat) : (c.setZEntry k x).maxsh = c.maxsh := rfl
@[simp] theorem Core.setZEntry_grain (c : Core) (k x : Nat) : (c.setZEntry k x).grain = c.grain := rfl
@[simp] theorem Core.setZEntry_round (c : Core) (k x : Nat) : (c.setZEntry k x).round = c.round := rfl
@[simp] theorem Core.setZEntry_cnt (c : Core) (k x : Nat) : (c.setZEntry k x).cnt = c.cnt := rfl
@[simp] theorem Core.setZEntry_ev (c : Core) (k x : Nat) : (c.setZEntry k x).ev = c.ev := rfl
@[simp] theorem Core.setZEntry_tiles (c : Core) (k x : Nat) : (c.setZEntry k x).tiles = c.tiles := rfl
@[simp] theorem Core.setZEntry_deque (c : Core) (k x : Nat) : (c.setZEntry k x).deque = c.deque := rfl
@[simp] theorem Core.setZEntry_binds (c : Core) (k x : Nat) : (c.setZEntry k x).binds = c.binds := rfl
@[simp] theorem Core.setZEntry_region (c : Core) (k x : Nat) : (c.setZEntry k x).region = c.region := rfl
@[simp] theorem Core.setZEntry_lcore (c : Core) (k x : Nat) : (c.setZEntry k x).lcore = c.lcore := rfl
@[simp] theorem Core.setZEntry_rgn (c : Core) (k x : Nat) : (c.setZEntry k x).rgn = c.rgn := rfl
@[simp] theorem Core.setZEntry_page (c : Core) (k x : Nat) : (c.setZEntry k x).page = c.page := rfl
@[simp] theorem Core.setZEntry_mailboxes (c : Core) (k x : Nat) : (c.setZEntry k x).mailboxes = c.mailboxes := rfl
@[simp] theorem Core.setZEntry_frames (c : Core) (k x : Nat) : (c.setZEntry k x).frames = c.frames := rfl
@[simp] theorem Core.setZEntry_gang (c : Core) (k x : Nat) : (c.setZEntry k x).gang = c.gang := rfl
@[simp] theorem Core.setZEntry_lines (c : Core) (k x : Nat) : (c.setZEntry k x).lines = c.lines := rfl
@[simp] theorem Core.setZEntry_ulines (c : Core) (k x : Nat) : (c.setZEntry k x).ulines = c.ulines := rfl
@[simp] theorem Core.setZEntry_utlb (c : Core) (k x : Nat) : (c.setZEntry k x).utlb = c.utlb := rfl
@[simp] theorem Core.setZEntry_fills (c : Core) (k x : Nat) : (c.setZEntry k x).fills = c.fills := rfl
@[simp] theorem Core.setZEntry_lastSlot (c : Core) (k x : Nat) : (c.setZEntry k x).lastSlot = c.lastSlot := rfl
@[simp] theorem Core.setZEntry_stealPos (c : Core) (k x : Nat) : (c.setZEntry k x).stealPos = c.stealPos := rfl
@[simp] theorem Core.setZEntry_claimed (c : Core) (k x : Nat) : (c.setZEntry k x).claimed = c.claimed := rfl
@[simp] theorem Core.setZEntry_ctsAt (c : Core) (k x : Nat) : (c.setZEntry k x).ctsAt = c.ctsAt := rfl

/-! ### What an update gives -/

/-- Time that passes changes no core but its event counters and the start of its quiet time (R125, R387). -/
theorem State.tickOn_coreAt (s : State) (k : Nat) :
    ∃ ev q, s.tickOn.coreAt k = { s.coreAt k with ev := ev, quietSince := q } := by
  unfold State.tickOn State.spendCycles State.coreAt
  simp only
  induction s.cores with
  | nil => exact ⟨_, _, rfl⟩
  | cons c l ih =>
    simp only [List.map_cons, tget, tfind] at ih ⊢
    split
    · simp only [Option.getD_some]
      split
      · exact ⟨_, _, rfl⟩
      · exact ⟨_, _, rfl⟩
    · exact ih

@[simp] theorem State.tickOn_ctxOf (s : State) (k fc : Nat) : s.tickOn.ctxOf k fc = s.ctxOf k fc := by
  obtain ⟨ev, q, h⟩ := s.tickOn_coreAt k
  unfold State.ctxOf
  rw [h]
  rfl

@[simp] theorem State.coreAt_setCore (s : State) (k : Nat) (c : Core) : (s.setCore k c).coreAt k = c := by
  have : ∀ (t : Table Core), tget Core.reset (tset t k c) k = c := by
    intro t
    induction t with
    | nil => simp [tset, tget, tfind]
    | cons p t ih =>
      obtain ⟨j, w⟩ := p
      unfold tset
      split
      · simp [tget, tfind]
      · split
        · simp [tget, tfind]
        · simp only [tget, tfind] at ih ⊢
          rw [if_neg (by assumption)]; exact ih
  exact this s.cores

@[simp] theorem State.coreAt_modCore (s : State) (k : Nat) (f : Core → Core) :
    (s.modCore k f).coreAt k = f (s.coreAt k) := State.coreAt_setCore s k _

@[simp] theorem Core.ctxAt_setCtx (c : Core) (fc : Nat) (x : Ctx) : (c.setCtx fc x).ctxAt fc = x := by
  simp [Core.ctxAt, Core.setCtx]

@[simp] theorem State.ctxOf_modCtxOf (s : State) (k fc : Nat) (f : Ctx → Ctx) :
    (s.modCtxOf k fc f).ctxOf k fc = f (s.ctxOf k fc) := by
  simp [State.ctxOf, State.modCtxOf]

@[simp] theorem State.ctx_modCtx (s : State) (f : Ctx → Ctx) : (s.modCtx f).ctx = f s.ctx := by
  simp [State.ctx, State.modCtx]

@[simp] theorem State.here_modHere (s : State) (f : Core → Core) : (s.modHere f).here = f s.here := by
  simp [State.here, State.modHere]

/-- A record stored twice under one key is stored once. -/
theorem tset_tset {α : Type} (t : Table α) (k : Nat) (a b : α) : tset (tset t k a) k b = tset t k b := by
  induction t with
  | nil => simp [tset]
  | cons p t ih =>
    obtain ⟨j, w⟩ := p
    by_cases h1 : k = j
    · simp [tset, h1]
    · by_cases h2 : k < j
      · simp [tset, h1, h2]
      · simp [tset, h1, h2, ih]

@[simp] theorem State.setCore_setCore (s : State) (k : Nat) (a b : Core) : (s.setCore k a).setCore k b = s.setCore k b := by
  simp [State.setCore, tset_tset]

/-- Two changes of one core are one change. -/
theorem State.modCore_modCore (s : State) (k : Nat) (f g : Core → Core) :
    (s.modCore k f).modCore k g = s.modCore k (fun c => g (f c)) := by
  simp [State.modCore]

@[simp] theorem Core.setCtx_setCtx (c : Core) (fc : Nat) (x y : Ctx) : (c.setCtx fc x).setCtx fc y = c.setCtx fc y := by
  simp [Core.setCtx]

/-- Two changes of one context are one change. -/
theorem State.modCtxOf_modCtxOf (s : State) (k fc : Nat) (f g : Ctx → Ctx) :
    (s.modCtxOf k fc f).modCtxOf k fc g = s.modCtxOf k fc (fun c => g (f c)) := by
  simp [State.modCtxOf, State.modCore_modCore]

theorem State.modCtx_modCtx (s : State) (f g : Ctx → Ctx) : (s.modCtx f).modCtx g = s.modCtx (fun c => g (f c)) :=
  State.modCtxOf_modCtxOf s s.core s.fc f g

theorem State.modHere_modHere (s : State) (f g : Core → Core) : (s.modHere f).modHere g = s.modHere (fun c => g (f c)) :=
  State.modCore_modCore s s.core f g

/-- A core another one's change leaves alone. -/
theorem State.coreAt_modCore_other (s : State) {j k : Nat} (h : j ≠ k) (f : Core → Core) :
    (s.modCore k f).coreAt j = s.coreAt j := by
  have : ∀ (t : Table Core) (c : Core), tget Core.reset (tset t k c) j = tget Core.reset t j := by
    intro t c
    induction t with
    | nil => simp [tset, tget, tfind, h]
    | cons p t ih =>
      obtain ⟨i, w⟩ := p
      by_cases h1 : k = i
      · subst h1; simp [tset, tget, tfind, h]
      · by_cases h2 : k < i
        · simp [tset, tget, tfind, h1, h2, h]
        · simp only [tset, h1, h2, tget, tfind, ↓reduceIte] at ih ⊢
          split <;> simp_all
  exact this s.cores _

/-- A context another one's change of the same core leaves alone. -/
theorem Core.ctxAt_setCtx_other (c : Core) {i j : Nat} (h : i % 4 ≠ j % 4) (x : Ctx) : (c.setCtx j x).ctxAt i = c.ctxAt i := by
  simp [Core.ctxAt, Core.setCtx, Ne.symm h]

@[simp] theorem State.here_modCtx (s : State) (f : Ctx → Ctx) : (s.modCtx f).here = s.here.setCtx s.fc (f s.ctx) := by
  simp [State.here, State.modCtx, State.modCtxOf]; rfl

@[simp] theorem State.ctx_modHere (s : State) (f : Core → Core) : (s.modHere f).ctx = (f s.here).ctxAt s.fc := by
  simp [State.ctx, State.ctxOf, State.modHere]; rfl

@[simp] theorem Core.ctxAt_count (c : Core) (n fc : Nat) : (c.count n).ctxAt fc = c.ctxAt fc := rfl

@[simp] theorem Ctx.rg_zero (c : Ctx) : c.rg 0 = 0 := rfl

/-- A g register written reads as written, but for g0 (R17). -/
theorem Ctx.rg_wg_same (c : Ctx) {k : Nat} (h : k % 32 ≠ 0) (v : Word) : (c.wg k v).rg k = v := by
  simp [Ctx.rg, Ctx.wg, h]

/-- A g register not written reads as before. -/
theorem Ctx.rg_wg_other (c : Ctx) {j k : Nat} (h : j % 32 ≠ k % 32) (v : Word) : (c.wg k v).rg j = c.rg j := by
  unfold Ctx.rg Ctx.wg
  split
  · rfl
  · split
    · rfl
    · simp [Ne.symm h]

/-- A write to g0 is discarded (R17). -/
theorem Ctx.wg_zero (c : Ctx) (v : Word) : c.wg 0 v = c := rfl

theorem Ctx.rp_wp_same (c : Ctx) {k : Nat} (h : k % 8 ≠ 0) (b : Bool) : (c.wp k b).rp k = b := by
  simp [Ctx.rp, Ctx.wp, h]

theorem Ctx.rp_wp_other (c : Ctx) {j k : Nat} (h : j % 8 ≠ k % 8) (b : Bool) : (c.wp k b).rp j = c.rp j := by
  unfold Ctx.rp Ctx.wp
  split
  · rfl
  · split
    · rfl
    · simp [Ne.symm h]

end Sys2Proof.Machine
end

