-- ==== Sys2Proof/Laws/Ops.lean ====
section
/-! SUPPORT. How acts run, and what issuing an A or E slot does when nothing stops it. -/

namespace Sys2Proof.Machine

/-! ### Acts -/

theorem act_bind {α β : Type} (a : Act α) (f : α → Act β) (s : State) :
    (a >>= f).run s = match a.run s with
      | .ok (x, s') => (f x).run s'
      | .error e => .error e := by
  show (StateT.bind a f) s = _
  unfold StateT.bind
  show Except.bind (a s) _ = _
  unfold Except.bind StateT.run
  cases a s <;> rfl

/-- An act that answers is followed by the rest on the state it left. -/
theorem act_bind_ok {α β : Type} {a : Act α} {s s' : State} {x : α} (h : a.run s = .ok (x, s')) (f : α → Act β) :
    (a >>= f).run s = (f x).run s' := by rw [act_bind, h]

theorem act_bind_error {α β : Type} {a : Act α} {s : State} {e : Stop} (h : a.run s = .error e) (f : α → Act β) :
    (a >>= f).run s = .error e := by rw [act_bind, h]

theorem act_pure {α : Type} (x : α) (s : State) : (pure x : Act α).run s = .ok (x, s) := rfl
theorem act_get (s : State) : (get : Act State).run s = .ok (s, s) := rfl
theorem act_set (t s : State) : (set t : Act PUnit).run s = .ok (⟨⟩, t) := rfl
theorem act_modify (f : State → State) (s : State) : (modify f : Act PUnit).run s = .ok (⟨⟩, f s) := rfl
theorem act_throw {α : Type} (e : Stop) (s : State) : (throw e : Act α).run s = .error e := rfl

theorem act_getCtx (s : State) : getCtx.run s = .ok (s.ctx, s) := rfl
theorem act_getCore (s : State) : getCore.run s = .ok (s.here, s) := rfl
theorem act_modCtx (f : Ctx → Ctx) (s : State) : (modCtx f).run s = .ok ((), s.modCtx f) := rfl
theorem act_modCore (f : Core → Core) (s : State) : (modCore f).run s = .ok ((), s.modHere f) := rfl
theorem act_readG (k : Nat) (s : State) : (readG k).run s = .ok (s.ctx.rg k, s) := rfl
theorem act_writeG (k : Nat) (v : Word) (s : State) : (writeG k v).run s = .ok ((), s.modCtx (·.wg k v)) := rfl
theorem act_writeD (r : Reg) (v : Word) (s : State) : (writeD r v).run s = .ok ((), s.modCtx (·.wg r.index v)) := rfl
theorem act_readGReg (r : Reg) (s : State) : (readGReg r).run s = .ok (s.ctx.rg r.index, s) := rfl
theorem act_readPReg (r : Reg) (s : State) : (readPReg r).run s = .ok (s.ctx.rp r.index, s) := rfl
theorem act_writePReg (r : Reg) (b : Bool) (s : State) : (writePReg r b).run s = .ok ((), s.modCtx (·.wp r.index b)) := rfl
theorem act_fault {α : Type} (c : Nat) (v w : Option Word) (s : State) :
    (fault c v w : Act α).run s = .error (.trap { cause := c, tval := v, tval2 := w }) := rfl
theorem act_waitFor {α : Type} (w : StallWhy) (p : Bool) (s : State) :
    (waitFor w p : Act α).run s = .error (.wait w p) := rfl
theorem act_freeWord (s : State) :
    freeWord.run s = .ok (Config.freeValue s.fresh, { s with fresh := s.fresh + 1 }) := rfl
theorem act_newId (s : State) : newId.run s = .ok (s.nextId, { s with nextId := s.nextId + 1 }) := rfl

theorem act_unlessFault {c : Bool} (h : c = true) (n : Nat) (v : Option Word) (s : State) :
    (unlessFault c n v).run s = .ok ((), s) := by subst h; rfl
theorem act_unlessFault_false {c : Bool} (h : c = false) (n : Nat) (v : Option Word) (s : State) :
    (unlessFault c n v).run s = .error (.trap { cause := n, tval := v }) := by subst h; rfl
theorem act_waitUntil {c : Bool} (h : c = true) (w : StallWhy) (p : Bool) (s : State) :
    (waitUntil c w p).run s = .ok ((), s) := by subst h; rfl
theorem act_waitUntil_false {c : Bool} (h : c = false) (w : StallWhy) (p : Bool) (s : State) :
    (waitUntil c w p).run s = .error (.wait w p) := by subst h; rfl

/-- No register an instruction names is waited for (R162). -/
theorem act_pendingCheck {c : Ctx} {l : List Nat} (h : ∀ k ∈ l, c.pendOf k = .ready) (s : State) :
    (pendingCheck c l).run s = .ok ((), s) := by
  induction l with
  | nil => rfl
  | cons k ks ih =>
    unfold pendingCheck
    rw [h k (by simp)]
    exact ih (fun j hj => h j (by simp [hj]))

/-- In U mode every slot passes; in S mode an A or E slot that names no queue does (R261). -/
theorem act_modeCheck {i : Instr} {h : Hd} {c : Ctx}
    (hm : c.mode = .u ∨ (i.stream ≠ .x ∧ h.qs = [] ∧ ∀ o, i ≠ .idem o)) (s : State) :
    (modeCheck i h c).run s = .ok ((), s) := by
  unfold modeCheck
  rw [if_neg]
  · rfl
  · rcases hm with hm | ⟨h1, h2, h3⟩
    · simp [hm]
    · rw [beq_false_of_ne h1, h2]
      split
      · exact absurd rfl (h3 _)
      · simp

/-! ### Issuing -/

/-- The registers a slot that issues looks at are ready. -/
theorem pendingRegs {i : Instr} {h : Hd} {s : State} (hi : Issues i h s) :
    ∀ k ∈ (if s.ctx.moving.isEmpty then i.gRegs else []), s.ctx.pendOf k = .ready := by
  intro k hk
  split at hk
  · exact hi.regs k hk
  · simp at hk

/-- The steps of a slot that issues, whose effect answers. -/
theorem slotAct_ok {i : Instr} {h : Hd} {s s' : State} {body : Act Flow} {f : Flow} (hi : Issues i h s)
    (hb : body.run s = .ok (f, s')) : (slotAct i h body).run s = (issued i f).run s' := by
  unfold slotAct
  rw [act_bind_ok (act_getCtx s)]
  simp only [hi.allowed, hi.pred, Bool.not_true, Bool.false_eq_true, ↓reduceIte]
  rw [act_bind_ok (act_modeCheck hi.mode s), act_bind_ok (act_pendingCheck (pendingRegs hi) s), act_bind_ok hb]

/-- The steps of a slot that issues, whose effect stops. -/
theorem slotAct_stop {i : Instr} {h : Hd} {s : State} {body : Act Flow} {e : Stop} (hi : Issues i h s)
    (hb : body.run s = .error e) : (slotAct i h body).run s = .error e := by
  unfold slotAct
  rw [act_bind_ok (act_getCtx s)]
  simp only [hi.allowed, hi.pred, Bool.not_true, Bool.false_eq_true, ↓reduceIte]
  rw [act_bind_ok (act_modeCheck hi.mode s), act_bind_ok (act_pendingCheck (pendingRegs hi) s), act_bind_error hb]

/-- A slot whose effect answers: the state after the effect, and what `issued` adds to it. -/
theorem issue_ok {i : Instr} {h : Hd} {s s' : State} {body : Act Flow} {f : Flow} (hi : Issues i h s)
    (hb : body.run s = .ok (f, s')) : issue i h body s = .next (finish s ((issued i f).run s')) := by
  rw [issue, hi.can, if_pos rfl, slotAct_ok hi hb]

theorem issued_next (i : Instr) (s : State) : (issued i .next).run s = .ok ((), s.retired i) := rfl
theorem issued_hold (i : Instr) (s : State) : (issued i .hold).run s = .ok ((), s) := rfl
theorem issued_stay (i : Instr) (s : State) : (issued i .stay).run s = .ok ((), s.stayed i) := rfl
theorem issued_jump (i : Instr) (t : Word) (s : State) : (issued i (.jump t)).run s = .ok ((), s.jumped i t) := rfl

/-- A slot whose effect goes on. -/
theorem issueNext_ok {i : Instr} {h : Hd} {s s' : State} {body : Act Unit} (hi : Issues i h s)
    (hb : body.run s = .ok ((), s')) : issueNext i h body s = .next (s'.retired i) := by
  unfold issueNext
  rw [issue_ok hi (f := .next) (s' := s') (by rw [act_bind_ok hb]; rfl), issued_next]
  rfl

/-- A slot whose effect transfers control. -/
theorem issue_jump {i : Instr} {h : Hd} {s s' : State} {body : Act Flow} {t : Word} (hi : Issues i h s)
    (hb : body.run s = .ok (.jump t, s')) : issue i h body s = .next (s'.jumped i t) := by
  rw [issue_ok hi hb, issued_jump]; rfl

theorem issue_stay {i : Instr} {h : Hd} {s s' : State} {body : Act Flow} (hi : Issues i h s)
    (hb : body.run s = .ok (.stay, s')) : issue i h body s = .next (s'.stayed i) := by
  rw [issue_ok hi hb, issued_stay]; rfl

theorem issue_next {i : Instr} {h : Hd} {s s' : State} {body : Act Flow} (hi : Issues i h s)
    (hb : body.run s = .ok (.next, s')) : issue i h body s = .next (s'.retired i) := by
  rw [issue_ok hi hb, issued_next]; rfl

theorem issue_hold {i : Instr} {h : Hd} {s s' : State} {body : Act Flow} (hi : Issues i h s)
    (hb : body.run s = .ok (.hold, s')) : issue i h body s = .next s' := by
  rw [issue_ok hi hb, issued_hold]; rfl

/-- A slot whose effect stops: it traps or stalls, and the rest of the state is as before. -/
theorem issue_stop {i : Instr} {h : Hd} {s : State} {body : Act Flow} {e : Stop} (hi : Issues i h s)
    (hb : body.run s = .error e) : issue i h body s = .next (finish s (.error e)) := by
  rw [issue, hi.can, if_pos rfl, slotAct_stop hi hb]

theorem issueNext_trap {i : Instr} {h : Hd} {s : State} {body : Act Unit} {t : Trap} (hi : Issues i h s)
    (hb : body.run s = .error (.trap t)) : issueNext i h body s = .next (s.takeTrapA t) := by
  unfold issueNext
  rw [issue_stop hi (e := .trap t) (act_bind_error hb _)]
  rfl

theorem issueNext_wait {i : Instr} {h : Hd} {s : State} {body : Act Unit} {w : StallWhy} {p : Bool} (hi : Issues i h s)
    (hb : body.run s = .error (.wait w p)) : issueNext i h body s = .next (s.modCtx (·.stallOn w p s.now)) := by
  unfold issueNext
  rw [issue_stop hi (e := .wait w p) (act_bind_error hb _)]
  rfl

/-- A context that cannot issue is left alone. -/
theorem issue_idle {i : Instr} {h : Hd} {s : State} {body : Act Flow} (hc : s.ctx.canIssue = false) :
    issue i h body s = .next s := by
  unfold issue; rw [hc]; rfl

/-- A privileged slot in U mode traps (R60, R265). -/
theorem issue_priv {i : Instr} {h : Hd} {s : State} {body : Act Flow} (hc : s.ctx.canIssue = true)
    (hp : i.privileged = true) (hm : s.ctx.mode = .u) :
    issue i h body s = .next (s.takeTrapA { cause := cPRIV_OP }) := by
  unfold issue
  rw [hc]
  simp only [↓reduceIte]
  unfold slotAct
  rw [act_bind_ok (act_getCtx s)]
  simp only [hp, hm, Bool.true_and, beq_self_eq_true, ↓reduceIte]
  rfl

end Sys2Proof.Machine
end

