-- ==== Sys2Proof/Laws/Access.lean ====
section
/-! SUPPORT. What the gates, the fences, and the accesses at issue and posted do, once each. -/

namespace Sys2Proof.Machine

/-! ### Gates and fences -/

theorem act_acquired {s : State} (h : s.acqOut = false) : acquired.run s = .ok ((), s) := by
  unfold acquired
  rw [act_bind_ok (act_get s), act_waitUntil]
  simp [h]

theorem act_gate {s : State} {p : Phys} {n : Nat} (h : Claims.Clear s p n) : (gate p).run s = .ok ((), s) := by
  unfold gate
  rw [act_bind_ok (act_acquired h.acquired), act_bind_ok (act_get s), act_waitUntil]
  cases hp : s.inHcOrder p <;> simp [h.ordered, hp]

theorem act_gateLoad {s : State} {p : Phys} {n : Nat} (h : Claims.Clear s p n) : (gateLoad p n).run s = .ok ((), s) := by
  unfold gateLoad
  rw [act_bind_ok (act_gate h), act_bind_ok (act_get s), act_waitUntil]
  simp [h.posted, h.pending]

/-- An outstanding acquire holds every access back (R176). -/
theorem act_gate_acquire {s : State} (h : s.acqOut = true) (p : Phys) :
    (gate p).run s = .error (.wait .memory false) := by
  have ha : acquired.run s = .error (.wait .memory false) := by
    unfold acquired
    rw [act_bind_ok (act_get s), act_waitUntil_false (by simp [h])]
  unfold gate
  rw [act_bind_error ha]

theorem act_fence {s : State} {n : Nat} (h : Claims.FencedTo s n) : (fence n).run s = .ok ((), s) := by
  obtain ⟨h1, h2, h3⟩ := h
  unfold fence storeCheck
  rw [act_bind_ok (act_get s), act_bind_ok (act_waitUntil (by simp [h1]) _ _ _), act_bind_ok (act_waitUntil h2 _ _ _),
    act_bind_ok (act_getCtx s)]
  simp only [h3]
  rfl

/-- A fence whose accesses are performed raises a refusal that was recorded (R179). -/
theorem act_fence_error {s : State} {n cause : Nat} {ga : Word} (h1 : s.loadsOut = false) (h2 : s.ctx.fenced n = true)
    (h3 : s.ctx.storeErr = some (ga, cause)) : (fence n).run s = .error (.trap
      { cause := cSTORE_NACK, tval := some ga, tval2 := some (word cause), clears := [.storeErr] }) := by
  unfold fence storeCheck
  rw [act_bind_ok (act_get s), act_bind_ok (act_waitUntil (by simp [h1]) _ _ _), act_bind_ok (act_waitUntil h2 _ _ _),
    act_bind_ok (act_getCtx s)]
  simp only [h3]
  rfl

/-! ### Accesses of the core's own pool -/

theorem notDram_of_isOwn {s : State} {p : Phys} (h : s.isOwn p = true) : p.isDram = false := by
  unfold State.isOwn at h
  simp only [Bool.and_eq_true, Bool.not_eq_true'] at h
  exact h.1

/-- A load of the own pool lands at once (R171, R174). -/
theorem act_ownLoad {s : State} {p : Phys} {n : Nat}
    (hw : s.here.poolWaits (gaSpace p.ga) (gaOff p.ga) n false = false) (d : Dest) :
    (ownLoad p n d).run s = .ok ((), s.modCtx (fun c => c.land d (s.ownError d p.ga n) (s.rdNat p.ga n))) := by
  unfold ownLoad
  rw [act_bind_ok (act_get s), act_bind_ok (act_waitUntil (by simp [hw]) _ _ _)]
  rfl

theorem startLoad_isOwn {s : State} {p : Phys} (h : s.isOwn p = true) (n : Nat) (acq : Bool) (d : Dest) :
    (startLoad p n acq d).run s = (ownLoad p n d).run s := by
  unfold startLoad
  rw [act_bind_ok (act_get s)]
  simp only [notDram_of_isOwn h, h, Bool.false_eq_true, ↓reduceIte]

theorem startLoad_own {s : State} {p : Phys} {n : Nat} (h : Claims.Own s p n false) (acq : Bool) (d : Dest) :
    (startLoad p n acq d).run s = .ok ((), s.modCtx (fun c => c.land d none (s.rdNat p.ga n))) := by
  have he : s.ownError d p.ga n = none := by simp [State.ownError, h.inRole, h.sound rfl]
  rw [startLoad_isOwn h.own, act_ownLoad h.still, he]

/-- A load outside the role leaves POOL_RANGE at its destination (R107, R174). -/
theorem startLoad_outside {s : State} {p : Phys} {n : Nat} (h : s.isOwn p = true)
    (hw : s.here.poolWaits (gaSpace p.ga) (gaOff p.ga) n false = false)
    (hr : s.here.inRole (gaSpace p.ga) (gaOff p.ga) n = false) (acq : Bool) (d : Dest) :
    (startLoad p n acq d).run s =
      .ok ((), s.modCtx (fun c => c.land d (some (loadError s.ctx d p.ga cPOOL_RANGE)) (s.rdNat p.ga n))) := by
  have he : s.ownError d p.ga n = some (loadError s.ctx d p.ga cPOOL_RANGE) := by simp [State.ownError, hr]
  rw [startLoad_isOwn h, act_ownLoad hw, he]

theorem startStore_isOwn {s : State} {p : Phys} (h : s.isOwn p = true) (n x : Nat) :
    (startStore p n x).run s = (ownStore p n x).run s := by
  unfold startStore
  rw [act_bind_ok (act_get s)]
  simp only [notDram_of_isOwn h, h, Bool.false_eq_true, ↓reduceIte]

/-- The range check passes, or raises POOL_RANGE (R107). -/
theorem act_ownRange {s : State} {p : Phys} {n : Nat} (h : s.here.inRole (gaSpace p.ga) (gaOff p.ga) n = true) :
    (ownRange p n).run s = .ok ((), s) := by
  unfold ownRange
  rw [act_bind_ok (act_get s), act_unlessFault (by simp [h])]
theorem act_ownRange_outside {s : State} {p : Phys} {n : Nat} (ho : s.isOwn p = true)
    (h : s.here.inRole (gaSpace p.ga) (gaOff p.ga) n = false) :
    (ownRange p n).run s = .error (.trap { cause := cPOOL_RANGE, tval := some (word p.ga) }) := by
  unfold ownRange
  rw [act_bind_ok (act_get s), act_unlessFault_false (by simp [h, ho])]

theorem startStore_own {s : State} {p : Phys} {n : Nat} (h : Claims.Own s p n true) (hp : s.ownPending p.ga n = false)
    (x : Nat) : (startStore p n x).run s = .ok ((), s.wrNat p.ga n x) := by
  rw [startStore_isOwn h.own]
  unfold ownStore
  rw [act_bind_ok (act_get s), act_bind_ok (act_waitUntil (by simp [h.still]) _ _ _),
    act_bind_ok (act_waitUntil (by simp [hp]) _ _ _), act_bind_ok (act_ownRange h.inRole)]
  rfl

/-- A store outside the role raises POOL_RANGE at the store (R107). -/
theorem startStore_outside {s : State} {p : Phys} {n : Nat} (h : s.isOwn p = true)
    (hw : s.here.poolWaits (gaSpace p.ga) (gaOff p.ga) n true = false) (hp : s.ownPending p.ga n = false)
    (hr : s.here.inRole (gaSpace p.ga) (gaOff p.ga) n = false) (x : Nat) : (startStore p n x).run s =
      .error (.trap { cause := cPOOL_RANGE, tval := some (word p.ga) }) := by
  rw [startStore_isOwn h]
  unfold ownStore
  rw [act_bind_ok (act_get s), act_bind_ok (act_waitUntil (by simp [hw]) _ _ _),
    act_bind_ok (act_waitUntil (by simp [hp]) _ _ _), act_bind_error (act_ownRange_outside h hr)]

/-! ### Accesses that go out -/

theorem act_post {s : State} (h : s.ctx.posted.length + 1 ≤ 64) (op : TxnOp) (t : Target) (ga n page : Nat) :
    (post op t ga n page).run s = .ok ((), s.launch { newTxn s op t ga n page with
      count := some (countFor s.core ga) }) := by
  have hn : (needPosted).run s = .ok ((), s) := by
    unfold needPosted
    rw [act_bind_ok (act_getCtx s), act_waitUntil (by simpa using h)]
  unfold post
  rw [act_bind_ok hn]
  rfl

/-- A full posted-store table holds a posted access back (R178). -/
theorem act_post_full {s : State} (h : 64 ≤ s.ctx.posted.length) (op : TxnOp) (t : Target) (ga n page : Nat) :
    (post op t ga n page).run s = .error (.wait .memory false) := by
  have hn : (needPosted).run s = .error (.wait .memory false) := by
    unfold needPosted
    rw [act_bind_ok (act_getCtx s), act_waitUntil_false]
    simp only [decide_eq_false_iff_not]
    omega
  unfold post
  rw [act_bind_error hn]

/-- A load sent to its memory: its destination waits (R91, R174). -/
theorem act_sendLoad (p : Phys) (n : Nat) (acq engine : Bool) (d : Dest) (s : State) :
    (sendLoad p n acq engine d).run s = .ok ((), (s.launch
      { newTxn s .load (if p.isDram then .dram p.cls else .pool) p.ga n p.pageGa with
        ea := p.ea
        dest := d
        acq := acq
        engine := engine }).modCtx (·.expect d)) := rfl

/-- A load of another core's pool is sent to it, and its destination waits (R91, R171). -/
theorem startLoad_far {s : State} {p : Phys} (hd : p.isDram = false) (h : s.isOwn p = false) (n : Nat) (acq : Bool)
    (d : Dest) : (startLoad p n acq d).run s = .ok ((), (s.launch { newTxn s .load .pool p.ga n p.pageGa with
      ea := p.ea
      dest := d
      acq := acq }).modCtx (·.expect d)) := by
  unfold startLoad
  rw [act_bind_ok (act_get s)]
  simp only [hd, h, Bool.false_eq_true, ↓reduceIte, act_sendLoad]
  rfl

/-- A load of memory of which no copy may serve it is counted, and sent to the home (R270, R387). -/
theorem startLoad_home {s : State} {p : Phys} {acq : Bool} (hd : p.isDram = true) (h : s.loadCopy p acq = none) (n : Nat)
    (d : Dest) : (startLoad p n acq d).run s = .ok ((), ((Claims.missed s p).launch
      { newTxn (Claims.missed s p) .load (.dram p.cls) p.ga n p.pageGa with
        ea := p.ea
        dest := d
        acq := acq }).modCtx (·.expect d)) := by
  unfold startLoad
  rw [act_bind_ok (act_get s)]
  simp only [hd, h, ↓reduceIte, Claims.missed]
  rw [act_bind_ok (act_modCore _ _)]
  simp only [act_sendLoad, hd, ↓reduceIte]
  rfl

theorem startStore_far {s : State} {p : Phys} (hd : p.isDram = false) (h : s.isOwn p = false) (n x : Nat)
    (hp : s.ctx.posted.length + 1 ≤ 64) : (startStore p n x).run s = .ok ((), s.launch
      { newTxn s (.store (bytesOf n x)) .pool p.ga n p.pageGa with count := some (countFor s.core p.ga) }) := by
  unfold startStore
  rw [act_bind_ok (act_get s)]
  simp only [hd, h, Bool.false_eq_true, ↓reduceIte]
  exact act_post hp _ _ _ _ _

theorem startStore_home {s : State} {p : Phys} (hd : p.isDram = true) (h : s.storeCopy p = none) (n x : Nat)
    (hp : (Claims.missed s p).ctx.posted.length + 1 ≤ 64) : (startStore p n x).run s = .ok ((), (Claims.missed s p).launch
      { newTxn (Claims.missed s p) (.store (bytesOf n x)) (.dram p.cls) p.ga n p.pageGa with
        count := some (countFor s.core p.ga) }) := by
  unfold startStore
  rw [act_bind_ok (act_get s)]
  simp only [hd, h, ↓reduceIte, Claims.missed] at hp ⊢
  rw [act_bind_ok (act_modCore _ _)]
  exact act_post hp _ _ _ _ _

/-! ### Accesses made whole -/

/-- An access of the own pool made whole: it reads, and stores what `f` gives (R171). -/
theorem touchNow_own {s : State} {p : Phys} {n : Nat} {f : Nat → Option Nat} (hc : Claims.Clear s p n)
    (h : Claims.Own s p n true) (hs : 1 ≤ gaSpace p.ga ∧ gaSpace p.ga ≤ 3) (ho : gaPkg p.ga = corePkg s.core)
    (hb : s.bad p.ga n = false) : (touchNow p n f).run s =
      .ok (s.rdNat p.ga n, s.wrNat p.ga n ((f (s.rdNat p.ga n)).getD (s.rdNat p.ga n))) := by
  have hk : gaCore p.ga = s.core := by
    have := h.own
    unfold State.isOwn at this
    simp only [Bool.and_eq_true, beq_iff_eq] at this
    exact this.2
  have ht : s.touch ⟨s.nextId, s.core, s.fc % 4⟩ s.ctx.rcb s.ctx.cts p n (fun x => some ((f x).getD x)) = .ok
      (s.wrNat p.ga n ((f (s.rdNat p.ga n)).getD (s.rdNat p.ga n)), s.rdNat p.ga n, none) := by
    have hn : s.stopsNow p.ga ⟨s.nextId, s.core, s.fc % 4⟩ = none := by simp [State.stopsNow, State.farOpen, ho, hs]
    unfold State.touch
    simp only [hn, hs, and_self, ↓reduceIte, hk, ne_eq, not_true_eq_false, false_and, Option.isSome_some]
    rw [if_neg (by rw [show s.coreAt s.core = s.here from rfl, h.still]; simp),
      if_neg (by rw [show s.coreAt s.core = s.here from rfl, h.inRole]; simp), if_neg (by simp)]
  have hd : p.isDram = false := notDram_of_isOwn h.own
  have hf : (ownedFor p).run s = .ok (none, s) := by
    unfold ownedFor
    simp only [hd, Bool.false_and, Bool.false_eq_true, ↓reduceIte]
    rfl
  unfold touchNow
  rw [act_bind_ok (act_gateLoad hc), act_bind_ok (act_get s)]
  dsimp only
  rw [act_bind_ok hf]
  dsimp only
  rw [act_bind_ok (act_unlessFault (by simp [hb]) _ _ _)]
  simp only [hd, Bool.not_false, ↓reduceIte, ht]
  rfl

/-! ### Granules -/

/-- Free granules let an entry go on (R217). -/
theorem act_waitGranules {s : State} {reads writes : List (Nat × Nat)}
    (hb : ∀ r ∈ reads ++ writes, ∀ b ∈ s.here.busyBytes, overlap r.1 r.2 b.1 b.2 = false)
    (hr : ∀ r ∈ reads, s.here.poolWaits 0 r.1 r.2 false = false)
    (own : List Nat) (hw : ∀ r ∈ writes, s.here.poolWaits 0 r.1 r.2 true own = false) :
    (waitGranules reads writes own).run s = .ok ((), s) := by
  unfold waitGranules
  rw [act_bind_ok (act_getCore s), act_bind_ok (act_waitUntil ?_ _ _ _), act_waitUntil]
  · simp only [Bool.and_eq_true, Bool.not_eq_true', List.any_eq_false, Bool.not_eq_true]
    exact ⟨fun r h => by simp [hr r h], fun r h => by simp [hw r h]⟩
  · simp only [Bool.not_eq_true', List.any_eq_false, List.any_eq_true, not_exists, not_and, Bool.not_eq_true]
    exact fun r h b h' => hb r h b h'

/-- The same for an entry, which raises the error of what it reads (R386). -/
theorem act_entryGranules {s : State} {reads writes : List (Nat × Nat)}
    (hb : ∀ r ∈ reads ++ writes, ∀ b ∈ s.here.busyBytes, overlap r.1 r.2 b.1 b.2 = false)
    (hr : ∀ r ∈ reads, s.here.poolWaits 0 r.1 r.2 false = false)
    (hw : ∀ r ∈ writes, s.here.poolWaits 0 r.1 r.2 true s.ctx.heldTiles = false)
    (hs : ∀ r ∈ reads, s.bad (regSpaceKey s.core r.1) r.2 = false) : (entryGranules reads writes).run s = .ok ((), s) := by
  unfold entryGranules
  rw [act_bind_ok (act_getCtx s), act_bind_ok (act_waitGranules hb hr _ hw), soundBytes, act_bind_ok (act_get s), act_unlessFault]
  simp only [Bool.not_eq_true', List.any_eq_false, Bool.not_eq_true]
  exact hs

end Sys2Proof.Machine
end

