-- ==== Sys2Proof/Laws/Encoding.lean ====
section
/-! SUPPORT. Fields of the instruction word: what each operand record's EXT holds, and that reading it gives the record
back. -/

namespace Sys2Proof

/-- The value of two fields side by side. -/
theorem append_toNat {n m : Nat} (x : BitVec n) (y : BitVec m) : (x ++ y).toNat = x.toNat * 2 ^ m + y.toNat := by
  rw [BitVec.toNat_append, Nat.shiftLeft_eq, Nat.mul_comm, ← Nat.two_pow_add_eq_or_of_lt y.isLt]

/-- A field of a word, as a number. -/
theorem field_toNat {w : Nat} (x : BitVec w) (lo k : Nat) : (x.extractLsb' lo k).toNat = x.toNat / 2 ^ lo % 2 ^ k := by
  rw [BitVec.extractLsb'_toNat, Nat.shiftRight_eq_div_pow]

theorem flag_toNat {w : Nat} (x : BitVec w) (k : Nat) : x.getLsbD k = decide (x.toNat / 2 ^ k % 2 = 1) := by
  rw [BitVec.getLsbD, Nat.testBit_eq_decide_div_mod_eq]

theorem Fmt.ofCode_code (f : Fmt) : Fmt.ofCode f.code = f := by cases f <;> rfl

theorem Fmt.ofCode_toNat {c : BitVec 4} {f : Fmt} (h : c.toNat = f.code.toNat) : Fmt.ofCode c = f := by
  rw [BitVec.eq_of_toNat_eq h, Fmt.ofCode_code]

theorem bool_toNat (b : Bool) : (BitVec.ofBool b).toNat = b.toNat := by cases b <;> rfl

/-- EXT of class M as a number (R54). -/
theorem extM_toNat (o : MOps) : (Body.m o).ext.toNat =
    o.fmt.code.toNat * 2 ^ 32 + o.v.toNat * 2 ^ 31 + o.ord.toNat * 2 ^ 29 + o.scope.toNat * 2 ^ 26 + o.zf.toNat * 2 ^ 25
      + o.off.toNat := by
  have h : (Body.m o).ext.toNat = ((((o.fmt.code ++ BitVec.ofBool o.v) ++ (o.ord ++ o.scope)) ++
      ((BitVec.ofBool o.zf ++ 0#1) ++ o.off)) : BitVec (4 + 1 + (2 + 3) + (1 + 1 + 24))).toNat := rfl
  rw [h]
  simp only [append_toNat, bool_toNat, BitVec.toNat_ofNat]
  omega

/-- EXT of class X as a number (R56). -/
theorem extX_toNat (o : XOps) : (Body.x o).ext.toNat =
    o.g1.toNat * 2 ^ 34 + o.g2.toNat * 2 ^ 32 + o.g3.toNat * 2 ^ 30 + o.fmt1.code.toNat * 2 ^ 26 +
      o.fmt2.code.toNat * 2 ^ 22 + o.tz.toNat * 2 ^ 21 + o.tv.toNat * 2 ^ 20 + o.w.toNat := by
  have h : (Body.x o).ext.toNat = (((((o.g1 ++ o.g2) ++ (o.g3 ++ o.fmt1.code)) ++ o.fmt2.code) ++
      ((BitVec.ofBool o.tz ++ BitVec.ofBool o.tv) ++ o.w)) : BitVec (2 + 2 + (2 + 4) + 4 + (1 + 1 + 20))).toNat := rfl
  rw [h]
  simp only [append_toNat, bool_toNat]
  omega

/-- EXT of class T as a number (R57). -/
theorem extT_toNat (o : TOps) : (Body.t o).ext.toNat =
    o.fmt1.code.toNat * 2 ^ 32 + o.fmt2.code.toNat * 2 ^ 28 + o.opt.toNat * 2 ^ 20 + o.w.toNat := by
  have h : (Body.t o).ext.toNat =
      (((o.fmt1.code ++ o.fmt2.code) ++ (o.opt ++ o.w)) : BitVec (4 + 4 + (8 + 20))).toNat := rfl
  rw [h]
  simp only [append_toNat]
  omega

/-- EXT of class E's command layout as a number (R58). -/
theorem extE_toNat (o : EOps) : (Body.e o).ext.toNat =
    o.f.toNat * 2 ^ 35 + o.ch.toNat * 2 ^ 31 + o.scope.toNat * 2 ^ 28 + o.opt.toNat * 2 ^ 24 + o.fmt.code.toNat * 2 ^ 20
      + o.w.toNat := by
  have h : (Body.e o).ext.toNat = ((((BitVec.ofBool o.f ++ o.ch) ++ (o.scope ++ o.opt)) ++ (o.fmt.code ++ o.w)) :
      BitVec (1 + 4 + (3 + 4) + (4 + 20))).toNat := rfl
  rw [h]
  simp only [append_toNat, bool_toNat]
  omega

/-- EXT of class E's target layout as a number (R58). -/
theorem extF_toNat (o : FOps) : (Body.f o).ext.toNat = o.t1.toNat * 2 ^ 18 + o.t2.toNat := by
  have h : (Body.f o).ext.toNat = ((o.t1 ++ o.t2) : BitVec (18 + 18)).toNat := rfl
  rw [h, append_toNat]

/-! ### A record's EXT gives the record back -/

theorem toA_ext (o : AOps) : Raw.toA ⟨(Body.a o).hd, (Body.a o).ext⟩ = o := rfl

theorem toM_ext (o : MOps) : Raw.toM ⟨(Body.m o).hd, (Body.m o).ext⟩ = o := by
  have e := extM_toNat o
  obtain ⟨h, fmt, v, ord, scope, zf, off⟩ := o
  dsimp only at e
  have := fmt.code.isLt; have := v.toNat_le; have := ord.isLt; have := scope.isLt; have := zf.toNat_le
  have := off.isLt
  simp only [Raw.toM, Body.hd, MOps.mk.injEq, true_and]
  refine ⟨Fmt.ofCode_toNat ?_, ?_, BitVec.eq_of_toNat_eq ?_, BitVec.eq_of_toNat_eq ?_, ?_, BitVec.eq_of_toNat_eq ?_⟩
  any_goals (rw [field_toNat, e]; omega)
  · rw [flag_toNat, e]; cases v <;> simp only [Bool.toNat_true, Bool.toNat_false, decide_eq_true_eq, decide_eq_false_iff_not] <;> omega
  · rw [flag_toNat, e]; cases zf <;> simp only [Bool.toNat_true, Bool.toNat_false, decide_eq_true_eq, decide_eq_false_iff_not] <;> omega

theorem toX_ext (o : XOps) : Raw.toX ⟨(Body.x o).hd, (Body.x o).ext⟩ = o := by
  have e := extX_toNat o
  obtain ⟨h, g1, g2, g3, fmt1, fmt2, tz, tv, w⟩ := o
  dsimp only at e
  have := g1.isLt; have := g2.isLt; have := g3.isLt; have := fmt1.code.isLt; have := fmt2.code.isLt
  have := tz.toNat_le; have := tv.toNat_le; have := w.isLt
  simp only [Raw.toX, Body.hd, XOps.mk.injEq, true_and]
  refine ⟨BitVec.eq_of_toNat_eq ?_, BitVec.eq_of_toNat_eq ?_, BitVec.eq_of_toNat_eq ?_, Fmt.ofCode_toNat ?_,
    Fmt.ofCode_toNat ?_, ?_, ?_, BitVec.eq_of_toNat_eq ?_⟩
  any_goals (rw [field_toNat, e]; omega)
  · rw [flag_toNat, e]; cases tz <;> simp only [Bool.toNat_true, Bool.toNat_false, decide_eq_true_eq, decide_eq_false_iff_not] <;> omega
  · rw [flag_toNat, e]; cases tv <;> simp only [Bool.toNat_true, Bool.toNat_false, decide_eq_true_eq, decide_eq_false_iff_not] <;> omega

theorem toT_ext (o : TOps) : Raw.toT ⟨(Body.t o).hd, (Body.t o).ext⟩ = o := by
  have e := extT_toNat o
  obtain ⟨h, fmt1, fmt2, opt, w⟩ := o
  dsimp only at e
  have := fmt1.code.isLt; have := fmt2.code.isLt; have := opt.isLt; have := w.isLt
  simp only [Raw.toT, Body.hd, TOps.mk.injEq, true_and]
  refine ⟨Fmt.ofCode_toNat ?_, Fmt.ofCode_toNat ?_, BitVec.eq_of_toNat_eq ?_, BitVec.eq_of_toNat_eq ?_⟩ <;>
  · rw [field_toNat, e]; omega

theorem toE_ext (o : EOps) : Raw.toE ⟨(Body.e o).hd, (Body.e o).ext⟩ = o := by
  have e := extE_toNat o
  obtain ⟨h, f, ch, scope, opt, fmt, w⟩ := o
  dsimp only at e
  have := f.toNat_le; have := ch.isLt; have := scope.isLt; have := opt.isLt; have := fmt.code.isLt; have := w.isLt
  simp only [Raw.toE, Body.hd, EOps.mk.injEq, true_and]
  refine ⟨?_, BitVec.eq_of_toNat_eq ?_, BitVec.eq_of_toNat_eq ?_, BitVec.eq_of_toNat_eq ?_, Fmt.ofCode_toNat ?_,
    BitVec.eq_of_toNat_eq ?_⟩
  any_goals (rw [field_toNat, e]; omega)
  · rw [flag_toNat, e]; cases f <;> simp only [Bool.toNat_true, Bool.toNat_false, decide_eq_true_eq, decide_eq_false_iff_not] <;> omega

theorem toF_ext (o : FOps) : Raw.toF ⟨(Body.f o).hd, (Body.f o).ext⟩ = o := by
  have e := extF_toNat o
  obtain ⟨h, t1, t2⟩ := o
  dsimp only at e
  have := t1.isLt; have := t2.isLt
  simp only [Raw.toF, Body.hd, FOps.mk.injEq, true_and]
  refine ⟨BitVec.eq_of_toNat_eq ?_, BitVec.eq_of_toNat_eq ?_⟩ <;>
  · rw [field_toNat, e]; omega

/-- EXT[24] of class M is reserved and written as zero (R54). -/
theorem extM_reserved (o : MOps) : (Body.m o).ext.getLsbD 24 = false := by
  have e := extM_toNat o
  have := o.fmt.code.isLt; have := o.v.toNat_le; have := o.ord.isLt; have := o.scope.isLt; have := o.zf.toNat_le
  have := o.off.isLt
  rw [flag_toNat, e, decide_eq_false_iff_not]
  omega

/-! ### Registers -/

set_option maxRecDepth 16384 in
theorem Reg.ofCode_code (r : Reg) : Reg.ofCode r.code = some r := by
  cases r with
  | g k => revert k; decide
  | p k => revert k; decide
  | q k => revert k; decide
  | t k => revert k; decide
  | z k => revert k; decide
  | v k =>
    have := k.isLt
    have e : (Reg.code (.v k)).toNat = 0x100 + k.toNat := by simp only [Reg.code, BitVec.toNat_ofNat]; omega
    simp only [Reg.ofCode, e]
    repeat rw [if_neg (by omega)]
    rw [if_pos (by omega)]
    congr 2
    exact BitVec.eq_of_toNat_eq (by simp only [BitVec.toNat_ofNat]; omega)
  | sys k =>
    have := k.isLt
    have e : (Reg.code (.sys k)).toNat = 0x200 + k.val := by simp only [Reg.code, BitVec.toNat_ofNat]; omega
    simp only [Reg.ofCode, e]
    repeat rw [if_neg (by omega)]
    rw [dif_pos (by omega)]
    congr 2
    exact Fin.ext (by simp)
  | win => rfl
  | lit => rfl

end Sys2Proof
end

