-- ==== Sys2Proof/Laws/Memory.lean ====
section
/-! SUPPORT. Laws of tables and of memory: read after write, and that every operation keeps the canonical form. -/

namespace Sys2Proof.Machine

/-! ### Tables -/

theorem tfind_tset {α : Type} (t : Table α) (n m : Nat) (v : α) :
    tfind (tset t n v) m = if m = n then some v else tfind t m := by
  induction t with
  | nil => simp [tset, tfind]
  | cons p t ih =>
    obtain ⟨k, w⟩ := p
    simp only [tset]
    split
    · subst n; simp only [tfind]; split <;> simp_all
    · split
      · simp only [tfind]
      · simp only [tfind, ih]
        split <;> split <;> simp_all

/-- The record just stored is the one found. -/
@[simp] theorem tget_tset_same {α : Type} (d : α) (t : Table α) (n : Nat) (v : α) : tget d (tset t n v) n = v := by
  simp [tget, tfind_tset]

/-- A record stored under another key leaves this one alone. -/
theorem tget_tset_other {α : Type} (d : α) (t : Table α) {n m : Nat} (v : α) (h : m ≠ n) :
    tget d (tset t n v) m = tget d t m := by
  simp [tget, tfind_tset, h]

/-- Keys strictly rise. -/
def Rising {α : Type} (t : Table α) : Prop := t.Pairwise (fun x y => x.1 < y.1)

theorem mem_tset {α : Type} {t : Table α} {n : Nat} {v : α} {c : Nat × α} (h : c ∈ tset t n v) : c = (n, v) ∨ c ∈ t := by
  induction t with
  | nil => simpa [tset] using h
  | cons p t ih =>
    obtain ⟨k, w⟩ := p
    simp only [tset] at h
    split at h
    · simp only [List.mem_cons] at h ⊢; tauto
    · split at h
      · simpa using h
      · simp only [List.mem_cons] at h ⊢
        rcases h with h | h
        · exact .inr (.inl h)
        · exact (ih h).imp id .inr

theorem mem_tdel {α : Type} {t : Table α} {n : Nat} {c : Nat × α} (h : c ∈ tdel t n) : c ∈ t := by
  induction t with
  | nil => simp [tdel] at h
  | cons p t ih =>
    obtain ⟨k, w⟩ := p
    simp only [tdel] at h
    split at h
    · exact .tail _ h
    · simp only [List.mem_cons] at h ⊢; exact h.imp id ih

theorem Rising.tset {α : Type} {t : Table α} (h : Rising t) (n : Nat) (v : α) : Rising (tset t n v) := by
  induction t with
  | nil => simp [Rising, Machine.tset]
  | cons p t ih =>
    obtain ⟨k, w⟩ := p
    simp only [Rising, List.pairwise_cons] at h
    simp only [Machine.tset]
    split
    · rename_i e; subst e; simp only [Rising, List.pairwise_cons]; exact h
    · split
      · rename_i h1 h2
        simp only [Rising, List.pairwise_cons, List.mem_cons]
        refine ⟨?_, h⟩
        rintro c (rfl | hc)
        · exact h2
        · exact lt_trans h2 (h.1 c hc)
      · rename_i h1 h2
        simp only [Rising, List.pairwise_cons]
        refine ⟨fun c hc => ?_, ih h.2⟩
        rcases mem_tset hc with rfl | hc
        · show k < n; omega
        · exact h.1 c hc

theorem Rising.tdel {α : Type} {t : Table α} (h : Rising t) (n : Nat) : Rising (tdel t n) := by
  induction t with
  | nil => exact h
  | cons p t ih =>
    obtain ⟨k, w⟩ := p
    simp only [Rising, List.pairwise_cons] at h
    simp only [Machine.tdel]
    split
    · exact h.2
    · simp only [Rising, List.pairwise_cons]
      exact ⟨fun c hc => h.1 c (mem_tdel hc), ih h.2⟩

theorem tfind_of_lt {α : Type} {t : Table α} {n : Nat} (h : ∀ c ∈ t, n < c.1) : tfind t n = none := by
  induction t with
  | nil => rfl
  | cons p t ih =>
    obtain ⟨k, w⟩ := p
    have := h (k, w) (by simp)
    simp only [tfind]
    rw [if_neg (by simp only at this; omega), ih (fun c hc => h c (.tail _ hc))]

theorem tfind_tdel {α : Type} {t : Table α} (h : Rising t) (n m : Nat) :
    tfind (tdel t n) m = if m = n then none else tfind t m := by
  induction t with
  | nil => simp [tdel, tfind]
  | cons p t ih =>
    obtain ⟨k, w⟩ := p
    simp only [Rising, List.pairwise_cons] at h
    simp only [tdel]
    split
    · rename_i e; subst e
      by_cases e : m = n
      · subst e; rw [if_pos rfl]; exact tfind_of_lt h.1
      · simp [tfind, e]
    · simp only [tfind, ih h.2]
      split <;> split <;> simp_all

/-! ### The canonical form -/

/-- The canonical form as a property of the list: keys rise, no byte is zero. -/
theorem Memory.wf_iff {m : List Host.Cell} : Memory.wf m = true ↔ Rising m ∧ ∀ c ∈ m, c.2 ≠ 0 := by
  induction m with
  | nil => simp [Memory.wf, Rising]
  | cons p t ih =>
    obtain ⟨k, b⟩ := p
    cases t with
    | nil => simp [Memory.wf, Rising]
    | cons q t =>
      obtain ⟨k', b'⟩ := q
      simp only [Memory.wf, Bool.and_eq_true, bne_iff_ne, decide_eq_true_eq, ih]
      simp only [Rising, List.pairwise_cons, List.mem_cons, forall_eq_or_imp]
      constructor
      · rintro ⟨⟨hb, hk⟩, ⟨⟨h1, h2⟩, hb', h3⟩⟩
        exact ⟨⟨⟨hk, fun c hc => lt_trans hk (h1 c hc)⟩, h1, h2⟩, hb, hb', h3⟩
      · rintro ⟨⟨⟨hk, _⟩, h1, h2⟩, hb, hb', h3⟩
        exact ⟨⟨hb, hk⟩, ⟨h1, h2⟩, hb', h3⟩

theorem Memory.wf_write {m : List Host.Cell} (h : Memory.wf m = true) (a : Nat) (b : Byte) :
    Memory.wf (Memory.write m a b) = true := by
  rw [Memory.wf_iff] at h ⊢
  unfold Memory.write
  split
  · exact ⟨h.1.tdel a, fun c hc => h.2 c (mem_tdel hc)⟩
  · rename_i hb
    refine ⟨h.1.tset a b, fun c hc => ?_⟩
    rcases mem_tset hc with rfl | hc
    · exact hb
    · exact h.2 c hc

theorem Memory.wf_writeBytes {m : List Host.Cell} (h : Memory.wf m = true) (a : Nat) (l : List Byte) :
    Memory.wf (Memory.writeBytes m a l) = true := by
  induction l generalizing m a with
  | nil => exact h
  | cons b bs ih => exact ih (Memory.wf_write h a b) (a + 1)

theorem Memory.wf_writeNat {m : List Host.Cell} (h : Memory.wf m = true) (a n x : Nat) :
    Memory.wf (Memory.writeNat m a n x) = true := Memory.wf_writeBytes h a _

theorem Memory.wf_filter {m : List Host.Cell} (h : Memory.wf m = true) (p : Host.Cell → Bool) :
    Memory.wf (m.filter p) = true := by
  rw [Memory.wf_iff] at h ⊢
  exact ⟨h.1.filter p, fun c hc => h.2 c (List.mem_of_mem_filter hc)⟩

theorem Memory.wf_clear {m : List Host.Cell} (h : Memory.wf m = true) (a n : Nat) :
    Memory.wf (Memory.clear m a n) = true := Memory.wf_filter h _

theorem Memory.wf_foldl_write {α : Type} (f : α → Nat) (g : α → Byte) (l : List α) {m : List Host.Cell}
    (h : Memory.wf m = true) : Memory.wf (l.foldl (fun m c => Memory.write m (f c) (g c)) m) = true := by
  induction l generalizing m with
  | nil => exact h
  | cons c cs ih => exact ih (Memory.wf_write h _ _)

theorem Memory.wf_copy {m : List Host.Cell} (h : Memory.wf m = true) (src dst n : Nat) :
    Memory.wf (Memory.copy m src dst n) = true := Memory.wf_foldl_write _ _ _ (Memory.wf_clear h dst n)

/-! ### Read after write -/

theorem Memory.read_write_same {m : List Host.Cell} (h : Memory.wf m = true) (a : Nat) (b : Byte) :
    Memory.read (Memory.write m a b) a = b := by
  rw [Memory.wf_iff] at h
  unfold Memory.read Memory.write
  split
  · rename_i hb; subst hb; simp [tget, tfind_tdel h.1]
  · simp

theorem Memory.read_write_other {m : List Host.Cell} (h : Memory.wf m = true) {a a' : Nat} (b : Byte) (ha : a' ≠ a) :
    Memory.read (Memory.write m a b) a' = Memory.read m a' := by
  rw [Memory.wf_iff] at h
  unfold Memory.read Memory.write
  split
  · simp [tget, tfind_tdel h.1, ha]
  · exact tget_tset_other _ _ _ ha

/-- A byte outside the written ones reads as before; one among them reads as written. -/
theorem Memory.read_writeBytes {m : List Host.Cell} (h : Memory.wf m = true) (a : Nat) (l : List Byte) (a' : Nat) :
    Memory.read (Memory.writeBytes m a l) a' =
      if a ≤ a' ∧ a' < a + l.length then l.getD (a' - a) 0 else Memory.read m a' := by
  induction l generalizing m a with
  | nil => simp [Memory.writeBytes]
  | cons b bs ih =>
    simp only [Memory.writeBytes, ih (Memory.wf_write h a b), List.length_cons]
    by_cases e : a' = a
    · subst e
      rw [if_neg (by omega), if_pos (by omega), Memory.read_write_same h]
      simp
    · rw [Memory.read_write_other h b e]
      by_cases h1 : a ≤ a' ∧ a' < a + (bs.length + 1)
      · rw [if_pos (by omega), if_pos h1]
        obtain ⟨k, hk⟩ : ∃ k, a' - a = k + 1 := ⟨a' - a - 1, by omega⟩
        rw [hk, List.getD_cons_succ]
        congr 1; omega
      · rw [if_neg (by omega), if_neg h1]

theorem bytesOf_length (n x : Nat) : (bytesOf n x).length = n := by
  induction n generalizing x with
  | zero => rfl
  | succ n ih => simp [bytesOf, ih]

theorem natOfBytes_bytesOf (n x : Nat) : natOfBytes (bytesOf n x) = x % 256 ^ n := by
  induction n generalizing x with
  | zero => simp [bytesOf, natOfBytes, Nat.mod_one]
  | succ n ih =>
    simp only [bytesOf, natOfBytes, ih, BitVec.toNat_ofNat]
    show x % 256 + 256 * (x / 256 % 256 ^ n) = _
    rw [Nat.pow_succ, Nat.mul_comm (256 ^ n) 256, Nat.mod_mul]

theorem Memory.readBytes_length (m : List Host.Cell) (a n : Nat) : (Memory.readBytes m a n).length = n := by
  induction n generalizing a with
  | zero => rfl
  | succ n ih => simp [Memory.readBytes, ih]

theorem Memory.readBytes_writeBytes {m : List Host.Cell} (h : Memory.wf m = true) (a : Nat) (l : List Byte) :
    Memory.readBytes (Memory.writeBytes m a l) a l.length = l := by
  induction l generalizing m a with
  | nil => rfl
  | cons b bs ih =>
    simp only [List.length_cons, Memory.readBytes, Memory.writeBytes]
    rw [ih (Memory.wf_write h a b) (a + 1)]
    rw [Memory.read_writeBytes (Memory.wf_write h a b), if_neg (by omega), Memory.read_write_same h]

/-- A value stored in n bytes reads back, modulo 2^(8n) (R4). -/
theorem Memory.readNat_writeNat {m : List Host.Cell} (h : Memory.wf m = true) (a n x : Nat) :
    Memory.readNat (Memory.writeNat m a n x) a n = x % 256 ^ n := by
  have := Memory.readBytes_writeBytes h a (bytesOf n x)
  rw [bytesOf_length] at this
  rw [Memory.readNat, Memory.writeNat, this, natOfBytes_bytesOf]

theorem Memory.wf_reset : Memory.wf State.reset.mem = true := rfl

end Sys2Proof.Machine
end

