-- ==== Sys2Proof/Laws/Kept.lean ====
section
/-! SUPPORT. The operations over the state's memory keep its canonical form, and acts made of acts that keep it keep it. -/

namespace Sys2Proof.Machine

/-- Memory is in its canonical form. -/
def State.Canonical (s : State) : Prop := Memory.wf s.mem = true

/-- An update that leaves memory alone keeps the form. -/
theorem State.Canonical.of_mem {s t : State} (h : s.Canonical) (he : t.mem = s.mem) : t.Canonical := by
  unfold State.Canonical
  rw [he]
  exact h

theorem canonical_foldl {α : Type} {f : State → α → State} (hf : ∀ s a, s.Canonical → (f s a).Canonical) (l : List α) {s : State}
    (h : s.Canonical) : (l.foldl f s).Canonical := by
  induction l generalizing s with
  | nil => exact h
  | cons a l ih => exact ih (hf s a h)

/-! ### Stores -/

theorem canonical_wrNat {s : State} (h : s.Canonical) (a n x : Nat) : (s.wrNat a n x).Canonical := Memory.wf_writeNat h a n x
theorem canonical_wrBytes {s : State} (h : s.Canonical) (a : Nat) (l : List Byte) : (s.wrBytes a l).Canonical :=
  Memory.wf_writeBytes h a l
theorem canonical_writeReg {s : State} (h : s.Canonical) (core off n x : Nat) : (s.writeReg core off n x).Canonical :=
  canonical_wrNat h _ _ _
theorem canonical_writeV {s : State} (h : s.Canonical) (core k : Nat) (v : V256) : (s.writeV core k v).Canonical :=
  canonical_wrNat h _ _ _

theorem canonical_writeZ {s : State} (h : s.Canonical) (core k i j x : Nat) : (s.writeZ core k i j x).Canonical := by
  unfold State.writeZ
  dsimp only
  split <;> exact canonical_writeReg h _ _ _ _

theorem canonical_writeTileLine {s : State} (h : s.Canonical) (core : Nat) (t : Tile) (r e x : Nat) :
    (s.writeTileLine core t r e x).Canonical := by
  unfold State.writeTileLine
  split <;> exact canonical_wrNat h _ _ _

theorem canonical_writeTile {s : State} (h : s.Canonical) (core : Nat) (t : Tile) (r c x : Nat) :
    (s.writeTile core t r c x).Canonical := by
  unfold State.writeTile
  split <;> exact canonical_writeTileLine h _ _ _ _ _

theorem canonical_landRow {s : State} (h : s.Canonical) (core : Nat) (t : Tile) (row off : Nat) (l : List Byte) :
    (s.landRow core t row off l).Canonical := by
  unfold State.landRow
  split
  · split
    · exact canonical_foldl (fun s b hs => canonical_writeTileLine (canonical_writeTileLine hs _ _ _ _ _) _ _ _ _ _) _ h
    · exact canonical_foldl (fun s b hs => canonical_wrNat hs _ _ _) _ h
  · exact canonical_wrBytes h _ _

theorem canonical_zero {s : State} (h : s.Canonical) (a n : Nat) : (s.zero a n).Canonical := Memory.wf_clear h _ _

theorem canonical_zeroCore {s : State} (h : s.Canonical) (core : Nat) : (s.zeroCore core).Canonical :=
  canonical_foldl (fun _ k hs => canonical_zero hs k _) _ (canonical_zero h _ _)

theorem canonical_zeroArea {s : State} (h : s.Canonical) (cl : Nat) (a : Nat × Nat) : (s.zeroArea cl a).Canonical :=
  canonical_zero h _ _

theorem canonical_setBucket {s : State} (h : s.Canonical) (cl : Nat) (lsh : Bool) (g : Geometry) (t i : Nat) (b : Bucket) :
    (s.setBucket cl lsh g t i b).Canonical := canonical_wrNat h _ _ _

/-! ### Lines and homes -/

theorem setHome_mem (s : State) (line : Nat) (h : Home) : (s.setHome line h).mem = s.mem := rfl

theorem canonical_writeSectors {s : State} (h : s.Canonical) (line : Nat) (d : BitVec 512) (m : BitVec 4) :
    (s.writeSectors line d m).Canonical :=
  canonical_foldl (fun s k hs => by
    split
    · exact canonical_wrNat hs _ _ _
    · exact hs) _ h

theorem loseBad_mem (s : State) (core : Nat) (l : CchLine) : (s.loseBad core l).2.mem = s.mem := rfl

theorem canonical_writeBack {s : State} (h : s.Canonical) (core line : Nat) : (s.writeBack core line).Canonical := by
  unfold State.writeBack
  split
  · dsimp only
    split
    · exact h.of_mem rfl
    · exact h
  · rename_i l _
    have hs := canonical_writeSectors (h.of_mem (loseBad_mem s core l)) line l.data (s.loseBad core l).1
    dsimp only
    split <;> exact hs.of_mem rfl

theorem canonical_mergeDelta {s : State} (h : s.Canonical) (core line : Nat) : (s.mergeDelta core line).Canonical := by
  unfold State.mergeDelta
  split
  · exact h
  · exact (canonical_foldl (fun s d hs => canonical_wrNat hs _ _ _) _ h).of_mem rfl

theorem canonical_recallHc {s : State} (h : s.Canonical) (line : Nat) : (s.recallHc line).Canonical := by
  unfold State.recallHc
  split
  · exact canonical_writeBack h _ _
  · exact h

theorem canonical_recallOneU {s : State} (h : s.Canonical) (line : Nat) : (s.recallOneU line).Canonical := by
  unfold State.recallOneU
  dsimp only
  split
  · exact h
  · exact (canonical_mergeDelta h _ line).of_mem rfl

theorem canonical_recallU {s : State} (h : s.Canonical) (line : Nat) : (s.recallU line).Canonical := by
  exact canonical_foldl (fun s _ hs => canonical_recallOneU hs line) _ h

theorem canonical_settleLine {s : State} (h : s.Canonical) (line : Nat) : (s.settleLine line).Canonical :=
  canonical_recallU (canonical_recallHc h _) _

theorem canonical_settleOwn {s : State} (h : s.Canonical) (core line : Nat) : (s.settleOwn core line).Canonical := by
  unfold State.settleOwn
  split
  · split
    · exact canonical_writeBack h _ _
    · exact h
  · exact h

theorem refreshOwn_mem (s : State) (core line : Nat) : (s.refreshOwn core line).mem = s.mem := by
  unfold State.refreshOwn
  split
  · split <;> rfl
  · rfl

theorem updateCopy_mem (s : State) (core ga n : Nat) : (s.updateCopy core ga n).mem = s.mem := by
  unfold State.updateCopy
  split
  · split <;> rfl
  · rfl

theorem canonical_pokeHome {s : State} (h : s.Canonical) (ga n x : Nat) : (s.pokeHome ga n x).Canonical :=
  canonical_wrNat (State.Canonical.of_mem (canonical_settleLine h _) (setHome_mem _ _ _)) _ _ _

theorem canonical_poke {s : State} (h : s.Canonical) (ga n x : Nat) : (s.poke ga n x).Canonical := by
  unfold State.poke
  split
  · exact canonical_wrNat h _ _ _
  · dsimp only
    split
    · exact h.of_mem rfl
    · exact (canonical_pokeHome h ga n x).of_mem (refreshOwn_mem _ _ _)

theorem canonical_pokeVirt {s : State} (h : s.Canonical) (core rcb ea n x : Nat) : (s.pokeVirt core rcb ea n x).Canonical := by
  unfold State.pokeVirt
  split
  · exact (canonical_poke h _ _ _).of_mem (refreshOwn_mem _ _ _)
  · exact h

theorem keepReplica_mem (s : State) (quad : Nat) (l : CchLine) : (s.keepReplica quad l).mem = s.mem := by
  unfold State.keepReplica
  dsimp only
  split
  · rfl
  · split <;> rfl

theorem sliceFill_mem (s : State) (ga n : Nat) : (s.sliceFill ga n).mem = s.mem := by
  simp only [State.sliceFill]
  split
  · split <;> rfl
  · obtain ⟨x, hx⟩ : ∃ x, x = (if (s.quadAt (homeQuad (lineOf ga))).inSet (sliceSet (lineOf ga)) < 16
        then (s.quadAt (homeQuad (lineOf ga)), 0)
        else ((s.quadAt (homeQuad (lineOf ga))).dropNth (sliceSet (lineOf ga)) (Config.victim 16 s.fresh % 16), 1)) := ⟨_, rfl⟩
    rw [← hx]
    rfl

theorem renewed_mem (s : State) (line : Nat) (hc : Bool) : (s.renewed line hc).mem = s.mem := by
  unfold State.renewed
  split <;> rfl

theorem canonical_evict {s : State} (h : s.Canonical) (core : Nat) (l : CchLine) : (s.evict core l).Canonical := by
  have hs : ((s.writeBack core l.addr).modCore core (·.dropLine l.addr)).Canonical := (canonical_writeBack h core l.addr).of_mem rfl
  unfold State.evict
  dsimp only
  split
  · exact hs.of_mem (keepReplica_mem _ _ _)
  · exact hs

theorem canonical_evictU {s : State} (h : s.Canonical) (core line : Nat) : (s.evictU core line).Canonical :=
  (canonical_mergeDelta h core line).of_mem rfl

theorem canonical_makeRoom {s : State} (h : s.Canonical) (core line : Nat) : (s.makeRoom core line).Canonical := by
  have hf : ({ s with fresh := s.fresh + 1 } : State).Canonical := h
  unfold State.makeRoom
  dsimp only
  split
  · exact h
  · split
    · exact canonical_evict hf _ _
    · exact canonical_evictU hf _ _
    · exact hf

theorem canonical_install {s : State} (h : s.Canonical) (core : Nat) (l : CchLine) : (s.install core l).Canonical := by
  have hk : ((s.makeRoom core l.addr).modCore core (·.putLine l)).Canonical := (canonical_makeRoom h _ _).of_mem rfl
  unfold State.install
  dsimp only
  split
  · exact canonical_evict hk _ _
  · exact hk

theorem canonical_applyOp {s : State} (h : s.Canonical) (key size : Nat) (op : TxnOp) :
    (s.applyOp key size op).1.Canonical := by
  unfold State.applyOp
  dsimp only
  split
  · exact h
  · exact canonical_wrNat h _ _ _

/-- An access made whole keeps the form. -/
theorem canonical_touch {s t : State} {me : Claim} {rcb cts n x : Nat} {ts : Option Nat} {p : Phys} {f : Nat → Option Nat}
    (h : s.Canonical) (ht : s.touch me rcb cts p n f = .ok (t, x, ts)) : t.Canonical := by
  unfold State.touch at ht
  dsimp only at ht
  have hl : (((s.settleLine (lineOf p.ga)).settleOwn me.core (lineOf p.ga)).sliceFill p.ga n).Canonical :=
    (canonical_settleOwn (canonical_settleLine h (lineOf p.ga)) me.core (lineOf p.ga)).of_mem (sliceFill_mem _ _ _)
  generalize ((s.settleLine (lineOf p.ga)).settleOwn me.core (lineOf p.ga)).sliceFill p.ga n = u at ht hl
  split at ht
  · cases ht
  split at ht
  · iterate 4
      split at ht
      · cases ht
    split at ht
    · cases ht
      exact h
    · cases ht
      exact canonical_wrNat h _ _ _
  · split at ht
    · cases ht
    split at ht
    · simp only [Except.ok.injEq, Prod.mk.injEq] at ht
      rw [← ht.1]
      exact hl.of_mem (renewed_mem _ _ _)
    · simp only [Except.ok.injEq, Prod.mk.injEq] at ht
      rw [← ht.1]
      have hw : ∀ v y, ((u.setHome (lineOf p.ga) v).wrNat p.ga n y).Canonical :=
        fun v y => canonical_wrNat (hl.of_mem (setHome_mem _ _ _)) _ _ _
      split
      · exact (hw _ _).of_mem rfl
      · exact hw _ _

/-! ### Acts -/

/-- An act that answers keeps the form. -/
def Keeps {α : Type} (a : Act α) : Prop := ∀ s x t, s.Canonical → a.run s = .ok (x, t) → t.Canonical

theorem keeps_bind {α β : Type} {a : Act α} {f : α → Act β} (ha : Keeps a) (hf : ∀ x, Keeps (f x)) : Keeps (a >>= f) := by
  intro s y u hs h
  rw [act_bind] at h
  split at h
  · rename_i x t hx
    exact hf x t y u (ha s x t hs hx) h
  · cases h

theorem keeps_pure {α : Type} (x : α) : Keeps (pure x : Act α) := by
  intro s y t hs h
  rw [act_pure] at h
  cases h
  exact hs

theorem keeps_throw {α : Type} (e : Stop) : Keeps (throw e : Act α) := by
  intro s y t _ h
  rw [act_throw] at h
  cases h

theorem keeps_get : Keeps (get : Act State) := by
  intro s y t hs h
  rw [act_get] at h
  cases h
  exact hs

theorem keeps_modify {f : State → State} (hf : ∀ s, s.Canonical → (f s).Canonical) : Keeps (modify f : Act PUnit) := by
  intro s y t hs h
  rw [act_modify] at h
  cases h
  exact hf s hs

theorem keeps_getCtx : Keeps getCtx := by
  intro s y t hs h
  rw [act_getCtx] at h
  cases h
  exact hs

theorem keeps_getCore : Keeps getCore := by
  intro s y t hs h
  rw [act_getCore] at h
  cases h
  exact hs

theorem keeps_modCtx (f : Ctx → Ctx) : Keeps (modCtx f) := by
  intro s y t hs h
  rw [act_modCtx] at h
  cases h
  exact hs.of_mem rfl

theorem keeps_modCore (f : Core → Core) : Keeps (modCore f) := by
  intro s y t hs h
  rw [act_modCore] at h
  cases h
  exact hs.of_mem rfl

theorem keeps_writeD (r : Reg) (v : Word) : Keeps (writeD r v) := keeps_modCtx _
theorem keeps_fault {α : Type} (c : Nat) (v w : Option Word) : Keeps (fault c v w : Act α) := keeps_throw _
theorem keeps_waitFor {α : Type} (w : StallWhy) (p : Bool) : Keeps (waitFor w p : Act α) := keeps_throw _

theorem keeps_waitUntil (c : Bool) (w : StallWhy) (p : Bool) : Keeps (waitUntil c w p) := by
  intro s y t hs h
  cases c
  · rw [act_waitUntil_false rfl] at h
    cases h
  · rw [act_waitUntil rfl] at h
    cases h
    exact hs

theorem keeps_unlessFault (c : Bool) (n : Nat) (v : Option Word) : Keeps (unlessFault c n v) := by
  intro s y t hs h
  cases c
  · rw [act_unlessFault_false rfl] at h
    cases h
  · rw [act_unlessFault rfl] at h
    cases h
    exact hs

theorem keeps_ite {α : Type} {c : Prop} [Decidable c] {a b : Act α} (ha : Keeps a) (hb : Keeps b) :
    Keeps (if c then a else b) := by
  split <;> assumption

theorem keeps_set {f : State → State} (hf : ∀ s, s.Canonical → (f s).Canonical) {s : State} (hs : s.Canonical) :
    ∀ x t, (set (f s) : Act PUnit).run s = .ok (x, t) → t.Canonical := by
  intro x t h
  rw [act_set] at h
  cases h
  exact hf s hs

/-- An act that begins by reading the state. -/
theorem keeps_get_bind {α : Type} {f : State → Act α}
    (hf : ∀ s : State, s.Canonical → ∀ x t, (f s).run s = .ok (x, t) → t.Canonical) : Keeps (get >>= f) := by
  intro s x t hs h
  rw [act_bind_ok (act_get s)] at h
  exact hf s hs x t h

theorem keeps_taken (ga : Nat) : Keeps (taken ga) := by
  unfold taken
  refine keeps_get_bind (fun s hs x t h => ?_)
  split at h
  · exact keeps_throw _ s x t hs h
  · exact keeps_pure _ s x t hs h

theorem keeps_acquired : Keeps acquired := keeps_bind keeps_get (fun _ => keeps_waitUntil _ _ _)
theorem keeps_gate (p : Phys) : Keeps (gate p) :=
  keeps_bind keeps_acquired (fun _ => keeps_bind keeps_get (fun _ => keeps_waitUntil _ _ _))
theorem keeps_gateLoad (p : Phys) (n : Nat) : Keeps (gateLoad p n) :=
  keeps_bind (keeps_gate p) (fun _ => keeps_bind keeps_get (fun _ => keeps_waitUntil _ _ _))

/-- A set to a state that the form holds in. -/
theorem keeps_after_set {α : Type} {u : State} (hu : u.Canonical) {f : PUnit → Act α} (hf : ∀ x, Keeps (f x)) :
    Keeps (set u >>= f) := by
  intro s x t _ h
  rw [act_bind_ok (act_set u s)] at h
  exact hf _ _ _ _ hu h

theorem loadHit_mem (s : State) (p : Phys) (l : CchLine) (replica : Bool) : (s.loadHit p l replica).mem = s.mem := by
  unfold State.loadHit
  dsimp only
  cases replica <;> cases p.isHc <;> rfl

/-- The home's side of an access of a context made whole keeps the form. -/
theorem canonical_atHome {s : State} (h : s.Canonical) (line ga n : Nat) : ((s.settleLine line).sliceFill ga n).Canonical :=
  (canonical_settleLine h line).of_mem (sliceFill_mem _ _ _)

theorem keeps_ownedLine (p : Phys) : Keeps (ownedLine p) := by
  unfold ownedLine
  refine keeps_bind keeps_get (fun s => ?_)
  dsimp only
  split
  · exact keeps_bind (keeps_modCore _) (fun _ => keeps_pure _)
  · refine keeps_bind (keeps_taken _) (fun _ => keeps_ite ?_ (keeps_pure _))
    refine keeps_bind (keeps_modify (fun s hs => canonical_install (s := (s.sliceFill (lineOf p.ga) 64).modHere _) ?_ _ _))
      (fun _ => keeps_bind keeps_getCore (fun _ => keeps_pure _))
    exact State.Canonical.of_mem hs (sliceFill_mem s (lineOf p.ga) 64)

theorem keeps_readNow (p : Phys) (n : Nat) : Keeps (readNow p n) := by
  unfold readNow
  refine keeps_bind (keeps_gateLoad p n) (fun _ => keeps_get_bind (fun s hs x t h => ?_))
  dsimp only at h
  split at h
  · refine keeps_bind (keeps_unlessFault _ _ _) (fun _ => ?_) s x t hs h
    exact keeps_after_set (hs.of_mem (loadHit_mem _ _ _ _)) (fun _ => keeps_pure _)
  · split at h
    · split at h
      · exact keeps_throw _ s x t hs h
      · rename_i he
        exact keeps_after_set (canonical_touch hs he) (fun _ => keeps_pure _) s x t hs h
    · refine keeps_bind (keeps_taken _) (fun _ => keeps_bind (keeps_unlessFault _ _ _) (fun _ => ?_)) s x t hs h
      generalize hf : (s.caches s.core p.cls p.ga p.pageGa && !s.bad (lineOf p.ga) 64) = fills
      have hu := canonical_atHome hs (lineOf p.ga) (if fills = true then lineOf p.ga else p.ga) (if fills = true then 64 else n)
      generalize (s.settleLine (lineOf p.ga)).sliceFill (if fills = true then lineOf p.ga else p.ga)
        (if fills = true then 64 else n) = u at hu
      have hv : ∀ v f g, ((((u.setHome (lineOf p.ga) v).renewed (lineOf p.ga) p.isHc).modHere f).modCtx g).Canonical :=
        fun v f g => hu.of_mem (renewed_mem _ _ _)
      exact keeps_ite (keeps_after_set (canonical_install (hv _ _ _) _ _) (fun _ => keeps_pure _))
        (keeps_after_set (hv _ _ _) (fun _ => keeps_pure _))

theorem keeps_touchNow (p : Phys) (n : Nat) (f : Nat → Option Nat) : Keeps (touchNow p n f) := by
  unfold touchNow
  refine keeps_bind (keeps_gateLoad p n) (fun _ => keeps_get_bind (fun s hs x t h => ?_))
  dsimp only at h
  refine keeps_bind (keeps_ite (keeps_ownedLine p) (keeps_pure _)) (fun owned => ?_) s x t hs h
  split
  · refine keeps_bind (keeps_unlessFault _ _ _) (fun _ => ?_)
    split
    · exact keeps_bind (keeps_modCore _) (fun _ => keeps_pure _)
    · exact keeps_bind (keeps_pure _) (fun _ => keeps_pure _)
  · refine keeps_bind (keeps_unlessFault _ _ _) (fun _ => keeps_ite ?_ (keeps_bind (keeps_taken _) (fun _ => ?_)))
    · split
      · exact keeps_throw _
      · rename_i he
        exact keeps_after_set (canonical_touch hs he) (fun _ => keeps_pure _)
    · have hu := canonical_atHome hs (lineOf p.ga) p.ga n
      generalize (s.settleLine (lineOf p.ga)).sliceFill p.ga n = u at hu
      have hv : ∀ v g, ((u.setHome (lineOf p.ga) v).modCtx g).Canonical := fun v g => hu
      split
      · exact keeps_after_set ((canonical_wrNat (hv _ _) _ _ _).of_mem (updateCopy_mem _ _ _ _)) (fun _ => keeps_pure _)
      · exact keeps_after_set (hv _ _) (fun _ => keeps_pure _)

theorem fillTlb_mem (s : State) (v : Via) (t : Tlb) : (s.fillTlb v t).mem = s.mem := by cases v <;> rfl
theorem fillMicro_mem (s : State) (v : Via) (t : Tlb) : (s.fillMicro v t).mem = s.mem := by cases v <;> rfl

theorem walked_mem (s : State) (v : Via) (root ea : Nat) : (s.walked v root ea).mem = s.mem := by
  have key : ∀ (l : List Nat) (u : State), (l.foldl (fun s p => s.sliceFill p 16) u).mem = u.mem := by
    intro l
    induction l with
    | nil => exact fun _ => rfl
    | cons p l ih => exact fun u => (ih _).trans (sliceFill_mem u p 16)
  exact key _ _

theorem lookup_mem {s s' : State} {v : Via} {root ea : Nat} {t : Tlb} (h : lookup s v root ea = .ok (t, s')) :
    s'.mem = s.mem := by
  unfold lookup at h
  split at h
  · simp only [Except.ok.injEq, Prod.mk.injEq] at h
    rw [← h.2]
    split_ifs
    · rfl
    · exact fillMicro_mem _ _ _
  · split at h
    · cases h
      exact (fillTlb_mem _ _ _).trans (walked_mem _ _ _ _)
    · cases h

theorem translate_mem {s s' : State} {v : Via} {root ea : Nat} {kind : Kind} {p : Phys}
    (h : translate s v root kind ea = .ok (p, s')) : s'.mem = s.mem := by
  unfold translate at h
  dsimp only at h
  split at h
  · split at h
    · cases h
    · cases h
      rfl
  · split at h
    · split at h
      · cases h
      · cases h
      · rename_i hl
        cases h
        exact lookup_mem hl
    · cases h

theorem keeps_whereTo (kind : Kind) (ea : Nat) : Keeps (whereTo kind ea) := by
  unfold whereTo
  refine keeps_get_bind (fun s hs x t h => ?_)
  dsimp only at h
  refine keeps_bind (keeps_waitUntil _ _ _) (fun _ => ?_) s x t hs h
  split
  · exact keeps_throw _
  · rename_i hl
    exact keeps_bind (keeps_waitUntil _ _ _) (fun _ => keeps_after_set (hs.of_mem (translate_mem hl)) (fun _ => keeps_pure _))

theorem keeps_checked (mode : Mode) (kind : Kind) (p : Phys) : Keeps (checked mode kind p) := by
  unfold checked
  refine keeps_bind keeps_get (fun s => ?_)
  split
  · exact keeps_throw _
  · exact keeps_pure _

theorem keeps_resolveAs (mode : Mode) (kind : Kind) (ea n : Nat) : Keeps (resolveAs mode kind ea n) := by
  unfold resolveAs
  have rest := keeps_bind (keeps_whereTo kind ea) (fun p => keeps_bind (keeps_checked mode kind p) (fun _ => keeps_pure p))
  split
  · exact keeps_bind (keeps_fault _ _ _) (fun _ => rest)
  · exact rest

theorem keeps_resolve (kind : Kind) (ea n : Nat) : Keeps (resolve kind ea n) :=
  keeps_bind keeps_getCtx (fun _ => keeps_resolveAs _ _ _ _)

theorem keeps_loadWord (ea : Nat) : Keeps (loadWord ea) := keeps_bind (keeps_resolve _ _ _) (fun _ => keeps_readNow _ _)

theorem keeps_loadWords (ea n : Nat) : Keeps (loadWords ea n) := by
  induction n generalizing ea with
  | zero => exact keeps_pure _
  | succ n ih => exact keeps_bind (keeps_loadWord _) (fun _ => keeps_bind (ih _) (fun _ => keeps_pure _))

theorem keeps_storeWord (ea x : Nat) : Keeps (storeWord ea x) :=
  keeps_bind (keeps_resolve _ _ _) (fun _ => keeps_bind (keeps_touchNow _ _ _) (fun _ => keeps_pure _))

theorem keeps_storeWords (ea : Nat) (l : List Nat) : Keeps (storeWords ea l) := by
  induction l generalizing ea with
  | nil => exact keeps_pure _
  | cons w l ih => exact keeps_bind (keeps_storeWord _ _) (fun _ => ih _)

end Sys2Proof.Machine
end

