-- ==== Sys2Proof/Laws/PerInstr.lean ====
section
/-! SUPPORT. Facts made instruction by instruction, as syntax. -/

namespace Sys2Proof.Laws.Pair

/-- The opcode map read back (R59, R60): from its OP and FN, its operand fields and its EXT, an instruction that passes
its decode checks is the one the decoder finds. The machine's own acts have no OP and FN. -/
def Statement (i : Instr) : Prop :=
  i.legal = true → ∀ op fn b, i.parts = some (op, fn, b) → decodePair ⟨b.hd, b.ext⟩ op fn = some i

theorem of_parts {i : Instr} {op fn : Nat} {b : Body} (hp : i.parts = some (op, fn, b))
    (hd : i.legal = true → decodePair ⟨b.hd, b.ext⟩ op fn = some i) : Statement i := by
  intro hl op' fn' b' h
  rw [hp] at h
  obtain ⟨rfl, rfl, rfl⟩ : op = op' ∧ fn = fn' ∧ b = b' := by simpa using h
  exact hd hl

theorem of_none {i : Instr} (hp : i.parts = none) : Statement i := by
  intro _ op fn b h
  rw [hp] at h
  cases h

theorem nop (o : AOps) : Statement (.nop o) :=
  of_parts rfl (fun _ => congrArg (fun x => some (Instr.nop x)) (toA_ext o))
theorem trapc (o : AOps) : Statement (.trapc o) :=
  of_parts rfl (fun _ => congrArg (fun x => some (Instr.trapc x)) (toA_ext o))
theorem trapret (o : AOps) : Statement (.trapret o) :=
  of_parts rfl (fun _ => congrArg (fun x => some (Instr.trapret x)) (toA_ext o))
theorem rgnNew (o : EOps) : Statement (.rgnNew o) :=
  of_parts rfl (fun _ => congrArg (fun x => some (Instr.rgnNew x)) (toE_ext o))
theorem rgnSet (o : EOps) : Statement (.rgnSet o) :=
  of_parts rfl (fun _ => congrArg (fun x => some (Instr.rgnSet x)) (toE_ext o))
theorem rgnKill (o : EOps) : Statement (.rgnKill o) :=
  of_parts rfl (fun _ => congrArg (fun x => some (Instr.rgnKill x)) (toE_ext o))
theorem bind (o : EOps) : Statement (.bind o) :=
  of_parts rfl (fun _ => congrArg (fun x => some (Instr.bind x)) (toE_ext o))
theorem add (o : AOps) : Statement (.add o) :=
  of_parts rfl (fun _ => congrArg (fun x => some (Instr.add x)) (toA_ext o))
theorem sub (o : AOps) : Statement (.sub o) :=
  of_parts rfl (fun _ => congrArg (fun x => some (Instr.sub x)) (toA_ext o))
theorem mul (o : AOps) : Statement (.mul o) :=
  of_parts rfl (fun _ => congrArg (fun x => some (Instr.mul x)) (toA_ext o))
theorem mulhI64 (o : AOps) : Statement (.mulhI64 o) :=
  of_parts rfl (fun _ => congrArg (fun x => some (Instr.mulhI64 x)) (toA_ext o))
theorem mulhN64 (o : AOps) : Statement (.mulhN64 o) :=
  of_parts rfl (fun _ => congrArg (fun x => some (Instr.mulhN64 x)) (toA_ext o))
theorem quoI64 (o : AOps) : Statement (.quoI64 o) :=
  of_parts rfl (fun _ => congrArg (fun x => some (Instr.quoI64 x)) (toA_ext o))
theorem quoN64 (o : AOps) : Statement (.quoN64 o) :=
  of_parts rfl (fun _ => congrArg (fun x => some (Instr.quoN64 x)) (toA_ext o))
theorem remI64 (o : AOps) : Statement (.remI64 o) :=
  of_parts rfl (fun _ => congrArg (fun x => some (Instr.remI64 x)) (toA_ext o))
theorem remN64 (o : AOps) : Statement (.remN64 o) :=
  of_parts rfl (fun _ => congrArg (fun x => some (Instr.remN64 x)) (toA_ext o))
theorem andBits (o : AOps) : Statement (.andBits o) :=
  of_parts rfl (fun _ => congrArg (fun x => some (Instr.andBits x)) (toA_ext o))
theorem orBits (o : AOps) : Statement (.orBits o) :=
  of_parts rfl (fun _ => congrArg (fun x => some (Instr.orBits x)) (toA_ext o))
theorem xorBits (o : AOps) : Statement (.xorBits o) :=
  of_parts rfl (fun _ => congrArg (fun x => some (Instr.xorBits x)) (toA_ext o))
theorem andn (o : AOps) : Statement (.andn o) :=
  of_parts rfl (fun _ => congrArg (fun x => some (Instr.andn x)) (toA_ext o))
theorem shl (o : AOps) : Statement (.shl o) :=
  of_parts rfl (fun _ => congrArg (fun x => some (Instr.shl x)) (toA_ext o))
theorem shr (o : AOps) : Statement (.shr o) :=
  of_parts rfl (fun _ => congrArg (fun x => some (Instr.shr x)) (toA_ext o))
theorem sra (o : AOps) : Statement (.sra o) :=
  of_parts rfl (fun _ => congrArg (fun x => some (Instr.sra x)) (toA_ext o))
theorem rot (o : AOps) : Statement (.rot o) :=
  of_parts rfl (fun _ => congrArg (fun x => some (Instr.rot x)) (toA_ext o))
theorem clz (o : AOps) : Statement (.clz o) :=
  of_parts rfl (fun _ => congrArg (fun x => some (Instr.clz x)) (toA_ext o))
theorem ctz (o : AOps) : Statement (.ctz o) :=
  of_parts rfl (fun _ => congrArg (fun x => some (Instr.ctz x)) (toA_ext o))
theorem popc (o : AOps) : Statement (.popc o) :=
  of_parts rfl (fun _ => congrArg (fun x => some (Instr.popc x)) (toA_ext o))
theorem cmp (o : AOps) : Statement (.cmp o) :=
  of_parts rfl (fun _ => congrArg (fun x => some (Instr.cmp x)) (toA_ext o))
theorem sel (o : AOps) : Statement (.sel o) :=
  of_parts rfl (fun _ => congrArg (fun x => some (Instr.sel x)) (toA_ext o))
theorem minI64 (o : AOps) : Statement (.minI64 o) :=
  of_parts rfl (fun _ => congrArg (fun x => some (Instr.minI64 x)) (toA_ext o))
theorem minN64 (o : AOps) : Statement (.minN64 o) :=
  of_parts rfl (fun _ => congrArg (fun x => some (Instr.minN64 x)) (toA_ext o))
theorem maxI64 (o : AOps) : Statement (.maxI64 o) :=
  of_parts rfl (fun _ => congrArg (fun x => some (Instr.maxI64 x)) (toA_ext o))
theorem maxN64 (o : AOps) : Statement (.maxN64 o) :=
  of_parts rfl (fun _ => congrArg (fun x => some (Instr.maxN64 x)) (toA_ext o))
theorem mov (o : AOps) : Statement (.mov o) :=
  of_parts rfl (fun _ => congrArg (fun x => some (Instr.mov x)) (toA_ext o))
theorem lea (o : AOps) : Statement (.lea o) :=
  of_parts rfl (fun _ => congrArg (fun x => some (Instr.lea x)) (toA_ext o))
theorem gaddr (o : AOps) : Statement (.gaddr o) :=
  of_parts rfl (fun _ => congrArg (fun x => some (Instr.gaddr x)) (toA_ext o))
theorem bfxI64 (o : AOps) : Statement (.bfxI64 o) :=
  of_parts rfl (fun _ => congrArg (fun x => some (Instr.bfxI64 x)) (toA_ext o))
theorem bfxN64 (o : AOps) : Statement (.bfxN64 o) :=
  of_parts rfl (fun _ => congrArg (fun x => some (Instr.bfxN64 x)) (toA_ext o))
theorem bfi (o : AOps) : Statement (.bfi o) :=
  of_parts rfl (fun _ => congrArg (fun x => some (Instr.bfi x)) (toA_ext o))
theorem br (o : AOps) : Statement (.br o) :=
  of_parts rfl (fun _ => congrArg (fun x => some (Instr.br x)) (toA_ext o))
theorem brl (o : AOps) : Statement (.brl o) :=
  of_parts rfl (fun _ => congrArg (fun x => some (Instr.brl x)) (toA_ext o))
theorem jmp (o : AOps) : Statement (.jmp o) :=
  of_parts rfl (fun _ => congrArg (fun x => some (Instr.jmp x)) (toA_ext o))
theorem jmpl (o : AOps) : Statement (.jmpl o) :=
  of_parts rfl (fun _ => congrArg (fun x => some (Instr.jmpl x)) (toA_ext o))
theorem ret (o : AOps) : Statement (.ret o) :=
  of_parts rfl (fun _ => congrArg (fun x => some (Instr.ret x)) (toA_ext o))
theorem loop (o : AOps) : Statement (.loop o) :=
  of_parts rfl (fun _ => congrArg (fun x => some (Instr.loop x)) (toA_ext o))
theorem pand (o : AOps) : Statement (.pand o) :=
  of_parts rfl (fun _ => congrArg (fun x => some (Instr.pand x)) (toA_ext o))
theorem por (o : AOps) : Statement (.por o) :=
  of_parts rfl (fun _ => congrArg (fun x => some (Instr.por x)) (toA_ext o))
theorem pxor (o : AOps) : Statement (.pxor o) :=
  of_parts rfl (fun _ => congrArg (fun x => some (Instr.pxor x)) (toA_ext o))
theorem pnot (o : AOps) : Statement (.pnot o) :=
  of_parts rfl (fun _ => congrArg (fun x => some (Instr.pnot x)) (toA_ext o))
theorem phead (o : AOps) : Statement (.phead o) :=
  of_parts rfl (fun _ => congrArg (fun x => some (Instr.phead x)) (toA_ext o))
theorem ptail (o : AOps) : Statement (.ptail o) :=
  of_parts rfl (fun _ => congrArg (fun x => some (Instr.ptail x)) (toA_ext o))
theorem pcnt (o : AOps) : Statement (.pcnt o) :=
  of_parts rfl (fun _ => congrArg (fun x => some (Instr.pcnt x)) (toA_ext o))
theorem endFiring (o : AOps) : Statement (.endFiring o) :=
  of_parts rfl (fun _ => congrArg (fun x => some (Instr.endFiring x)) (toA_ext o))
theorem yield (o : AOps) : Statement (.yield o) :=
  of_parts rfl (fun _ => congrArg (fun x => some (Instr.yield x)) (toA_ext o))
theorem idem (o : AOps) : Statement (.idem o) :=
  of_parts rfl (fun _ => congrArg (fun x => some (Instr.idem x)) (toA_ext o))
theorem xloop (o : AOps) : Statement (.xloop o) :=
  of_parts rfl (fun _ => congrArg (fun x => some (Instr.xloop x)) (toA_ext o))
theorem ld (o : MOps) : Statement (.ld o) :=
  of_parts rfl (fun _ => congrArg (fun x => some (Instr.ld x)) (toM_ext o))
theorem st (o : MOps) : Statement (.st o) :=
  of_parts rfl (fun _ => congrArg (fun x => some (Instr.st x)) (toM_ext o))
theorem ldm (o : MOps) : Statement (.ldm o) :=
  of_parts rfl (fun _ => congrArg (fun x => some (Instr.ldm x)) (toM_ext o))
theorem stm (o : MOps) : Statement (.stm o) :=
  of_parts rfl (fun _ => congrArg (fun x => some (Instr.stm x)) (toM_ext o))
theorem ldc (o : AOps) : Statement (.ldc o) :=
  of_parts rfl (fun _ => congrArg (fun x => some (Instr.ldc x)) (toA_ext o))
theorem pref (o : MOps) : Statement (.pref o) :=
  of_parts rfl (fun _ => congrArg (fun x => some (Instr.pref x)) (toM_ext o))
theorem flush (o : MOps) : Statement (.flush o) :=
  of_parts rfl (fun _ => congrArg (fun x => some (Instr.flush x)) (toM_ext o))
theorem inv (o : MOps) : Statement (.inv o) :=
  of_parts rfl (fun _ => congrArg (fun x => some (Instr.inv x)) (toM_ext o))
theorem iget (o : MOps) : Statement (.iget o) :=
  of_parts rfl (fun _ => congrArg (fun x => some (Instr.iget x)) (toM_ext o))
theorem iput (o : MOps) : Statement (.iput o) :=
  of_parts rfl (fun _ => congrArg (fun x => some (Instr.iput x)) (toM_ext o))
theorem scnt (o : MOps) : Statement (.scnt o) :=
  of_parts rfl (fun _ => congrArg (fun x => some (Instr.scnt x)) (toM_ext o))
theorem handover (o : MOps) : Statement (.handover o) :=
  of_parts rfl (fun _ => congrArg (fun x => some (Instr.handover x)) (toM_ext o))
theorem reclass (o : MOps) : Statement (.reclass o) :=
  of_parts rfl (fun _ => congrArg (fun x => some (Instr.reclass x)) (toM_ext o))
theorem fence (o : MOps) : Statement (.fence o) :=
  of_parts rfl (fun _ => congrArg (fun x => some (Instr.fence x)) (toM_ext o))
theorem amoAdd (o : MOps) : Statement (.amoAdd o) :=
  of_parts rfl (fun _ => congrArg (fun x => some (Instr.amoAdd x)) (toM_ext o))
theorem amoAnd (o : MOps) : Statement (.amoAnd o) :=
  of_parts rfl (fun _ => congrArg (fun x => some (Instr.amoAnd x)) (toM_ext o))
theorem amoOr (o : MOps) : Statement (.amoOr o) :=
  of_parts rfl (fun _ => congrArg (fun x => some (Instr.amoOr x)) (toM_ext o))
theorem amoXor (o : MOps) : Statement (.amoXor o) :=
  of_parts rfl (fun _ => congrArg (fun x => some (Instr.amoXor x)) (toM_ext o))
theorem amoMin (o : MOps) : Statement (.amoMin o) :=
  of_parts rfl (fun _ => congrArg (fun x => some (Instr.amoMin x)) (toM_ext o))
theorem amoMax (o : MOps) : Statement (.amoMax o) :=
  of_parts rfl (fun _ => congrArg (fun x => some (Instr.amoMax x)) (toM_ext o))
theorem amoUmin (o : MOps) : Statement (.amoUmin o) :=
  of_parts rfl (fun _ => congrArg (fun x => some (Instr.amoUmin x)) (toM_ext o))
theorem amoUmax (o : MOps) : Statement (.amoUmax o) :=
  of_parts rfl (fun _ => congrArg (fun x => some (Instr.amoUmax x)) (toM_ext o))
theorem amoSwap (o : MOps) : Statement (.amoSwap o) :=
  of_parts rfl (fun _ => congrArg (fun x => some (Instr.amoSwap x)) (toM_ext o))
theorem amoFadd (o : MOps) : Statement (.amoFadd o) :=
  of_parts rfl (fun _ => congrArg (fun x => some (Instr.amoFadd x)) (toM_ext o))
theorem amofAdd (o : MOps) : Statement (.amofAdd o) :=
  of_parts rfl (fun _ => congrArg (fun x => some (Instr.amofAdd x)) (toM_ext o))
theorem amofAnd (o : MOps) : Statement (.amofAnd o) :=
  of_parts rfl (fun _ => congrArg (fun x => some (Instr.amofAnd x)) (toM_ext o))
theorem amofOr (o : MOps) : Statement (.amofOr o) :=
  of_parts rfl (fun _ => congrArg (fun x => some (Instr.amofOr x)) (toM_ext o))
theorem amofXor (o : MOps) : Statement (.amofXor o) :=
  of_parts rfl (fun _ => congrArg (fun x => some (Instr.amofXor x)) (toM_ext o))
theorem amofMin (o : MOps) : Statement (.amofMin o) :=
  of_parts rfl (fun _ => congrArg (fun x => some (Instr.amofMin x)) (toM_ext o))
theorem amofMax (o : MOps) : Statement (.amofMax o) :=
  of_parts rfl (fun _ => congrArg (fun x => some (Instr.amofMax x)) (toM_ext o))
theorem amofUmin (o : MOps) : Statement (.amofUmin o) :=
  of_parts rfl (fun _ => congrArg (fun x => some (Instr.amofUmin x)) (toM_ext o))
theorem amofUmax (o : MOps) : Statement (.amofUmax o) :=
  of_parts rfl (fun _ => congrArg (fun x => some (Instr.amofUmax x)) (toM_ext o))
theorem amofSwap (o : MOps) : Statement (.amofSwap o) :=
  of_parts rfl (fun _ => congrArg (fun x => some (Instr.amofSwap x)) (toM_ext o))
theorem amofFadd (o : MOps) : Statement (.amofFadd o) :=
  of_parts rfl (fun _ => congrArg (fun x => some (Instr.amofFadd x)) (toM_ext o))
theorem amoUAdd (o : MOps) : Statement (.amoUAdd o) :=
  of_parts rfl (fun _ => congrArg (fun x => some (Instr.amoUAdd x)) (toM_ext o))
theorem amoUAnd (o : MOps) : Statement (.amoUAnd o) :=
  of_parts rfl (fun _ => congrArg (fun x => some (Instr.amoUAnd x)) (toM_ext o))
theorem amoUOr (o : MOps) : Statement (.amoUOr o) :=
  of_parts rfl (fun _ => congrArg (fun x => some (Instr.amoUOr x)) (toM_ext o))
theorem amoUXor (o : MOps) : Statement (.amoUXor o) :=
  of_parts rfl (fun _ => congrArg (fun x => some (Instr.amoUXor x)) (toM_ext o))
theorem amoUMin (o : MOps) : Statement (.amoUMin o) :=
  of_parts rfl (fun _ => congrArg (fun x => some (Instr.amoUMin x)) (toM_ext o))
theorem amoUMax (o : MOps) : Statement (.amoUMax o) :=
  of_parts rfl (fun _ => congrArg (fun x => some (Instr.amoUMax x)) (toM_ext o))
theorem amoUUmin (o : MOps) : Statement (.amoUUmin o) :=
  of_parts rfl (fun _ => congrArg (fun x => some (Instr.amoUUmin x)) (toM_ext o))
theorem amoUUmax (o : MOps) : Statement (.amoUUmax o) :=
  of_parts rfl (fun _ => congrArg (fun x => some (Instr.amoUUmax x)) (toM_ext o))
theorem amoUFadd (o : MOps) : Statement (.amoUFadd o) :=
  of_parts rfl (fun _ => congrArg (fun x => some (Instr.amoUFadd x)) (toM_ext o))
theorem cas (o : MOps) : Statement (.cas o) :=
  of_parts rfl (fun _ => congrArg (fun x => some (Instr.cas x)) (toM_ext o))
theorem casw (o : MOps) : Statement (.casw o) :=
  of_parts rfl (fun _ => congrArg (fun x => some (Instr.casw x)) (toM_ext o))
theorem bari (o : MOps) : Statement (.bari o) :=
  of_parts rfl (fun _ => congrArg (fun x => some (Instr.bari x)) (toM_ext o))
theorem bar (o : MOps) : Statement (.bar o) :=
  of_parts rfl (fun _ => congrArg (fun x => some (Instr.bar x)) (toM_ext o))
theorem barw (o : MOps) : Statement (.barw o) :=
  of_parts rfl (fun _ => congrArg (fun x => some (Instr.barw x)) (toM_ext o))
theorem dmclose (o : EOps) : Statement (.dmclose o) :=
  of_parts rfl (fun _ => congrArg (fun x => some (Instr.dmclose x)) (toE_ext o))
theorem tlbi (o : EOps) : Statement (.tlbi o) :=
  of_parts rfl (fun _ => congrArg (fun x => some (Instr.tlbi x)) (toE_ext o))
theorem fork (o : FOps) : Statement (.fork o) :=
  of_parts rfl (fun _ => congrArg (fun x => some (Instr.fork x)) (toF_ext o))
theorem join (o : FOps) : Statement (.join o) :=
  of_parts rfl (fun _ => congrArg (fun x => some (Instr.join x)) (toF_ext o))
theorem dqcnt (o : EOps) : Statement (.dqcnt o) :=
  of_parts rfl (fun _ => congrArg (fun x => some (Instr.dqcnt x)) (toE_ext o))
theorem futNew (o : EOps) : Statement (.futNew o) :=
  of_parts rfl (fun _ => congrArg (fun x => some (Instr.futNew x)) (toE_ext o))
theorem futSet (o : EOps) : Statement (.futSet o) :=
  of_parts rfl (fun _ => congrArg (fun x => some (Instr.futSet x)) (toE_ext o))
theorem futGet (o : EOps) : Statement (.futGet o) :=
  of_parts rfl (fun _ => congrArg (fun x => some (Instr.futGet x)) (toE_ext o))
theorem futFree (o : EOps) : Statement (.futFree o) :=
  of_parts rfl (fun _ => congrArg (fun x => some (Instr.futFree x)) (toE_ext o))
theorem mbxBind (o : EOps) : Statement (.mbxBind o) :=
  of_parts rfl (fun _ => congrArg (fun x => some (Instr.mbxBind x)) (toE_ext o))
theorem mbxFree (o : EOps) : Statement (.mbxFree o) :=
  of_parts rfl (fun _ => congrArg (fun x => some (Instr.mbxFree x)) (toE_ext o))
theorem mbxrd (o : EOps) : Statement (.mbxrd o) :=
  of_parts rfl (fun _ => congrArg (fun x => some (Instr.mbxrd x)) (toE_ext o))
theorem send (o : EOps) : Statement (.send o) :=
  of_parts rfl (fun _ => congrArg (fun x => some (Instr.send x)) (toE_ext o))
theorem evt (o : EOps) : Statement (.evt o) :=
  of_parts rfl (fun _ => congrArg (fun x => some (Instr.evt x)) (toE_ext o))
theorem wfe (o : EOps) : Statement (.wfe o) :=
  of_parts rfl (fun _ => congrArg (fun x => some (Instr.wfe x)) (toE_ext o))
theorem gangOn (o : EOps) : Statement (.gangOn o) :=
  of_parts rfl (fun _ => congrArg (fun x => some (Instr.gangOn x)) (toE_ext o))
theorem gangOff (o : EOps) : Statement (.gangOff o) :=
  of_parts rfl (fun _ => congrArg (fun x => some (Instr.gangOff x)) (toE_ext o))
theorem rfork (o : FOps) : Statement (.rfork o) :=
  of_parts rfl (fun _ => congrArg (fun x => some (Instr.rfork x)) (toF_ext o))
theorem launch (o : EOps) : Statement (.launch o) :=
  of_parts rfl (fun _ => congrArg (fun x => some (Instr.launch x)) (toE_ext o))
theorem poolset (o : AOps) : Statement (.poolset o) :=
  of_parts rfl (fun _ => congrArg (fun x => some (Instr.poolset x)) (toA_ext o))
theorem poolsetWait (o : AOps) : Statement (.poolsetWait o) :=
  of_parts rfl (fun _ => congrArg (fun x => some (Instr.poolsetWait x)) (toA_ext o))
theorem poolrd (o : AOps) : Statement (.poolrd o) :=
  of_parts rfl (fun _ => congrArg (fun x => some (Instr.poolrd x)) (toA_ext o))
theorem hwmSet (o : AOps) : Statement (.hwmSet o) :=
  of_parts rfl (fun _ => congrArg (fun x => some (Instr.hwmSet x)) (toA_ext o))
theorem viewSet (o : AOps) : Statement (.viewSet o) :=
  of_parts rfl (fun _ => congrArg (fun x => some (Instr.viewSet x)) (toA_ext o))
theorem viewClr (o : AOps) : Statement (.viewClr o) :=
  of_parts rfl (fun _ => congrArg (fun x => some (Instr.viewClr x)) (toA_ext o))
theorem tset (o : AOps) : Statement (.tset o) :=
  of_parts rfl (fun _ => congrArg (fun x => some (Instr.tset x)) (toA_ext o))
theorem tstat (o : AOps) : Statement (.tstat o) :=
  of_parts rfl (fun _ => congrArg (fun x => some (Instr.tstat x)) (toA_ext o))
theorem tclr (o : AOps) : Statement (.tclr o) :=
  of_parts rfl (fun _ => congrArg (fun x => some (Instr.tclr x)) (toA_ext o))
theorem qpop (o : AOps) : Statement (.qpop o) :=
  of_parts rfl (fun _ => congrArg (fun x => some (Instr.qpop x)) (toA_ext o))
theorem qcnt (o : AOps) : Statement (.qcnt o) :=
  of_parts rfl (fun _ => congrArg (fun x => some (Instr.qcnt x)) (toA_ext o))
theorem streamBind (o : AOps) : Statement (.streamBind o) :=
  of_parts rfl (fun _ => congrArg (fun x => some (Instr.streamBind x)) (toA_ext o))
theorem streamEnd (o : AOps) : Statement (.streamEnd o) :=
  of_parts rfl (fun _ => congrArg (fun x => some (Instr.streamEnd x)) (toA_ext o))
theorem winSet (o : AOps) : Statement (.winSet o) :=
  of_parts rfl (fun _ => congrArg (fun x => some (Instr.winSet x)) (toA_ext o))
theorem srd (o : AOps) : Statement (.srd o) :=
  of_parts rfl (fun _ => congrArg (fun x => some (Instr.srd x)) (toA_ext o))
theorem logrd (o : AOps) : Statement (.logrd o) :=
  of_parts rfl (fun _ => congrArg (fun x => some (Instr.logrd x)) (toA_ext o))
theorem logext (o : AOps) : Statement (.logext o) :=
  of_parts rfl (fun _ => congrArg (fun x => some (Instr.logext x)) (toA_ext o))
theorem vadd (o : XOps) : Statement (.vadd o) :=
  of_parts rfl (fun _ => congrArg (fun x => some (Instr.vadd x)) (toX_ext o))
theorem vsub (o : XOps) : Statement (.vsub o) :=
  of_parts rfl (fun _ => congrArg (fun x => some (Instr.vsub x)) (toX_ext o))
theorem vmul (o : XOps) : Statement (.vmul o) :=
  of_parts rfl (fun _ => congrArg (fun x => some (Instr.vmul x)) (toX_ext o))
theorem vmin (o : XOps) : Statement (.vmin o) :=
  of_parts rfl (fun _ => congrArg (fun x => some (Instr.vmin x)) (toX_ext o))
theorem vmax (o : XOps) : Statement (.vmax o) :=
  of_parts rfl (fun _ => congrArg (fun x => some (Instr.vmax x)) (toX_ext o))
theorem vabs (o : XOps) : Statement (.vabs o) :=
  of_parts rfl (fun _ => congrArg (fun x => some (Instr.vabs x)) (toX_ext o))
theorem vneg (o : XOps) : Statement (.vneg o) :=
  of_parts rfl (fun _ => congrArg (fun x => some (Instr.vneg x)) (toX_ext o))
theorem vfma (o : XOps) : Statement (.vfma o) :=
  of_parts rfl (fun _ => congrArg (fun x => some (Instr.vfma x)) (toX_ext o))
theorem vfms (o : XOps) : Statement (.vfms o) :=
  of_parts rfl (fun _ => congrArg (fun x => some (Instr.vfms x)) (toX_ext o))
theorem vfnma (o : XOps) : Statement (.vfnma o) :=
  of_parts rfl (fun _ => congrArg (fun x => some (Instr.vfnma x)) (toX_ext o))
theorem vcmp (o : XOps) : Statement (.vcmp o) :=
  of_parts rfl (fun _ => congrArg (fun x => some (Instr.vcmp x)) (toX_ext o))
theorem vsel (o : XOps) : Statement (.vsel o) :=
  of_parts rfl (fun _ => congrArg (fun x => some (Instr.vsel x)) (toX_ext o))
theorem vclass (o : XOps) : Statement (.vclass o) :=
  of_parts rfl (fun _ => congrArg (fun x => some (Instr.vclass x)) (toX_ext o))
theorem vcvt (o : XOps) : Statement (.vcvt o) :=
  of_parts rfl (fun _ => congrArg (fun x => some (Instr.vcvt x)) (toX_ext o))
theorem vrsum (o : XOps) : Statement (.vrsum o) :=
  of_parts rfl (fun _ => congrArg (fun x => some (Instr.vrsum x)) (toX_ext o))
theorem vrmax (o : XOps) : Statement (.vrmax o) :=
  of_parts rfl (fun _ => congrArg (fun x => some (Instr.vrmax x)) (toX_ext o))
theorem vrmin (o : XOps) : Statement (.vrmin o) :=
  of_parts rfl (fun _ => congrArg (fun x => some (Instr.vrmin x)) (toX_ext o))
theorem vand (o : XOps) : Statement (.vand o) :=
  of_parts rfl (fun _ => congrArg (fun x => some (Instr.vand x)) (toX_ext o))
theorem vor (o : XOps) : Statement (.vor o) :=
  of_parts rfl (fun _ => congrArg (fun x => some (Instr.vor x)) (toX_ext o))
theorem vxor (o : XOps) : Statement (.vxor o) :=
  of_parts rfl (fun _ => congrArg (fun x => some (Instr.vxor x)) (toX_ext o))
theorem vandn (o : XOps) : Statement (.vandn o) :=
  of_parts rfl (fun _ => congrArg (fun x => some (Instr.vandn x)) (toX_ext o))
theorem vshl (o : XOps) : Statement (.vshl o) :=
  of_parts rfl (fun _ => congrArg (fun x => some (Instr.vshl x)) (toX_ext o))
theorem vshr (o : XOps) : Statement (.vshr o) :=
  of_parts rfl (fun _ => congrArg (fun x => some (Instr.vshr x)) (toX_ext o))
theorem vsra (o : XOps) : Statement (.vsra o) :=
  of_parts rfl (fun _ => congrArg (fun x => some (Instr.vsra x)) (toX_ext o))
theorem vadds (o : XOps) : Statement (.vadds o) :=
  of_parts rfl (fun _ => congrArg (fun x => some (Instr.vadds x)) (toX_ext o))
theorem vsubs (o : XOps) : Statement (.vsubs o) :=
  of_parts rfl (fun _ => congrArg (fun x => some (Instr.vsubs x)) (toX_ext o))
theorem vmulh (o : XOps) : Statement (.vmulh o) :=
  of_parts rfl (fun _ => congrArg (fun x => some (Instr.vmulh x)) (toX_ext o))
theorem vperm (o : XOps) : Statement (.vperm o) :=
  of_parts rfl (fun _ => congrArg (fun x => some (Instr.vperm x)) (toX_ext o))
theorem vbcast (o : XOps) : Statement (.vbcast o) :=
  of_parts rfl (fun _ => congrArg (fun x => some (Instr.vbcast x)) (toX_ext o))
theorem vrot (o : XOps) : Statement (.vrot o) :=
  of_parts rfl (fun _ => congrArg (fun x => some (Instr.vrot x)) (toX_ext o))
theorem vzip (o : XOps) : Statement (.vzip o) :=
  of_parts rfl (fun _ => congrArg (fun x => some (Instr.vzip x)) (toX_ext o))
theorem vunzip (o : XOps) : Statement (.vunzip o) :=
  of_parts rfl (fun _ => congrArg (fun x => some (Instr.vunzip x)) (toX_ext o))
theorem vcomp (o : XOps) : Statement (.vcomp o) :=
  of_parts rfl (fun _ => congrArg (fun x => some (Instr.vcomp x)) (toX_ext o))
theorem vext (o : XOps) : Statement (.vext o) :=
  of_parts rfl (fun _ => congrArg (fun x => some (Instr.vext x)) (toX_ext o))
theorem vins (o : XOps) : Statement (.vins o) :=
  of_parts rfl (fun _ => congrArg (fun x => some (Instr.vins x)) (toX_ext o))
theorem vmov (o : XOps) : Statement (.vmov o) :=
  of_parts rfl (fun _ => congrArg (fun x => some (Instr.vmov x)) (toX_ext o))
theorem vsign (o : XOps) : Statement (.vsign o) :=
  of_parts rfl (fun _ => congrArg (fun x => some (Instr.vsign x)) (toX_ext o))
theorem vrand (o : XOps) : Statement (.vrand o) :=
  of_parts rfl (fun _ => congrArg (fun x => some (Instr.vrand x)) (toX_ext o))
theorem div (o : XOps) : Statement (.div o) :=
  of_parts rfl (fun _ => congrArg (fun x => some (Instr.div x)) (toX_ext o))
theorem sqrt (o : XOps) : Statement (.sqrt o) :=
  of_parts rfl (fun _ => congrArg (fun x => some (Instr.sqrt x)) (toX_ext o))
theorem rcp (o : XOps) : Statement (.rcp o) :=
  of_parts rfl (fun _ => congrArg (fun x => some (Instr.rcp x)) (toX_ext o))
theorem rsq (o : XOps) : Statement (.rsq o) :=
  of_parts rfl (fun _ => congrArg (fun x => some (Instr.rsq x)) (toX_ext o))
theorem exp (o : XOps) : Statement (.exp o) :=
  of_parts rfl (fun _ => congrArg (fun x => some (Instr.exp x)) (toX_ext o))
theorem expB2 (o : XOps) : Statement (.expB2 o) :=
  of_parts rfl (fun _ => congrArg (fun x => some (Instr.expB2 x)) (toX_ext o))
theorem log (o : XOps) : Statement (.log o) :=
  of_parts rfl (fun _ => congrArg (fun x => some (Instr.log x)) (toX_ext o))
theorem logB2 (o : XOps) : Statement (.logB2 o) :=
  of_parts rfl (fun _ => congrArg (fun x => some (Instr.logB2 x)) (toX_ext o))
theorem sin (o : XOps) : Statement (.sin o) :=
  of_parts rfl (fun _ => congrArg (fun x => some (Instr.sin x)) (toX_ext o))
theorem cos (o : XOps) : Statement (.cos o) :=
  of_parts rfl (fun _ => congrArg (fun x => some (Instr.cos x)) (toX_ext o))
theorem tanh (o : XOps) : Statement (.tanh o) :=
  of_parts rfl (fun _ => congrArg (fun x => some (Instr.tanh x)) (toX_ext o))
theorem tanhSig (o : XOps) : Statement (.tanhSig o) :=
  of_parts rfl (fun _ => congrArg (fun x => some (Instr.tanhSig x)) (toX_ext o))
theorem erf (o : XOps) : Statement (.erf o) :=
  of_parts rfl (fun _ => congrArg (fun x => some (Instr.erf x)) (toX_ext o))
theorem mma (o : TOps) : Statement (.mma o) :=
  of_parts rfl (fun _ => congrArg (fun x => some (Instr.mma x)) (toT_ext o))
theorem mmaS (o : TOps) : Statement (.mmaS o) :=
  of_parts rfl (fun _ => congrArg (fun x => some (Instr.mmaS x)) (toT_ext o))
theorem dmma (o : TOps) : Statement (.dmma o) :=
  of_parts rfl (fun _ => congrArg (fun x => some (Instr.dmma x)) (toT_ext o))
theorem mscale (o : TOps) : Statement (.mscale o) :=
  of_parts rfl (fun _ => congrArg (fun x => some (Instr.mscale x)) (toT_ext o))
theorem mzero (o : TOps) : Statement (.mzero o) :=
  of_parts rfl (fun _ => congrArg (fun x => some (Instr.mzero x)) (toT_ext o))
theorem mflags (o : TOps) : Statement (.mflags o) :=
  of_parts rfl (fun _ => congrArg (fun x => some (Instr.mflags x)) (toT_ext o))
theorem mdrain (o : TOps) : Statement (.mdrain o) :=
  of_parts rfl (fun _ => congrArg (fun x => some (Instr.mdrain x)) (toT_ext o))
theorem mload (o : TOps) : Statement (.mload o) :=
  of_parts rfl (fun _ => congrArg (fun x => some (Instr.mload x)) (toT_ext o))
theorem mstore (o : TOps) : Statement (.mstore o) :=
  of_parts rfl (fun _ => congrArg (fun x => some (Instr.mstore x)) (toT_ext o))
theorem mxpose (o : TOps) : Statement (.mxpose o) :=
  of_parts rfl (fun _ => congrArg (fun x => some (Instr.mxpose x)) (toT_ext o))
theorem mcvt (o : TOps) : Statement (.mcvt o) :=
  of_parts rfl (fun _ => congrArg (fun x => some (Instr.mcvt x)) (toT_ext o))
theorem gatt (o : XOps) : Statement (.gatt o) :=
  of_parts rfl (fun _ => congrArg (fun x => some (Instr.gatt x)) (toX_ext o))
theorem gdet (o : XOps) : Statement (.gdet o) :=
  of_parts rfl (fun _ => congrArg (fun x => some (Instr.gdet x)) (toX_ext o))
theorem gbel (o : XOps) : Statement (.gbel o) :=
  of_parts rfl (fun _ => congrArg (fun x => some (Instr.gbel x)) (toX_ext o))
theorem gcomb (o : XOps) : Statement (.gcomb o) :=
  of_parts rfl (fun _ => congrArg (fun x => some (Instr.gcomb x)) (toX_ext o))
theorem gmarg (o : XOps) : Statement (.gmarg o) :=
  of_parts rfl (fun _ => congrArg (fun x => some (Instr.gmarg x)) (toX_ext o))
theorem gdamp (o : XOps) : Statement (.gdamp o) :=
  of_parts rfl (fun _ => congrArg (fun x => some (Instr.gdamp x)) (toX_ext o))
theorem gsend (o : XOps) : Statement (.gsend o) :=
  of_parts rfl (fun _ => congrArg (fun x => some (Instr.gsend x)) (toX_ext o))
theorem gres (o : XOps) : Statement (.gres o) :=
  of_parts rfl (fun _ => congrArg (fun x => some (Instr.gres x)) (toX_ext o))
theorem gmean (o : XOps) : Statement (.gmean o) :=
  of_parts rfl (fun _ => congrArg (fun x => some (Instr.gmean x)) (toX_ext o))
theorem gcut (o : XOps) : Statement (.gcut o) :=
  of_parts rfl (fun _ => congrArg (fun x => some (Instr.gcut x)) (toX_ext o))
theorem gcutrd (o : XOps) : Statement (.gcutrd o) :=
  of_parts rfl (fun _ => congrArg (fun x => some (Instr.gcutrd x)) (toX_ext o))
theorem cvrd (o : XOps) : Statement (.cvrd o) :=
  of_parts rfl (fun _ => congrArg (fun x => some (Instr.cvrd x)) (toX_ext o))
theorem cdef (o : EOps) : Statement (.cdef o) :=
  of_parts rfl (fun _ => congrArg (fun x => some (Instr.cdef x)) (toE_ext o))
theorem cswap (o : EOps) : Statement (.cswap o) :=
  of_parts rfl (fun _ => congrArg (fun x => some (Instr.cswap x)) (toE_ext o))
theorem cstat (o : EOps) : Statement (.cstat o) :=
  of_parts rfl (fun _ => congrArg (fun x => some (Instr.cstat x)) (toE_ext o))
theorem cins (o : EOps) : Statement (.cins o) :=
  of_parts rfl (fun _ => congrArg (fun x => some (Instr.cins x)) (toE_ext o))
theorem cdel (o : EOps) : Statement (.cdel o) :=
  of_parts rfl (fun _ => congrArg (fun x => some (Instr.cdel x)) (toE_ext o))
theorem cprobe (o : EOps) : Statement (.cprobe o) :=
  of_parts rfl (fun _ => congrArg (fun x => some (Instr.cprobe x)) (toE_ext o))
theorem clook (o : EOps) : Statement (.clook o) :=
  of_parts rfl (fun _ => congrArg (fun x => some (Instr.clook x)) (toE_ext o))
theorem crehash (o : EOps) : Statement (.crehash o) :=
  of_parts rfl (fun _ => congrArg (fun x => some (Instr.crehash x)) (toE_ext o))
theorem cfence (o : EOps) : Statement (.cfence o) :=
  of_parts rfl (fun _ => congrArg (fun x => some (Instr.cfence x)) (toE_ext o))
theorem hcopy (o : EOps) : Statement (.hcopy o) :=
  of_parts rfl (fun _ => congrArg (fun x => some (Instr.hcopy x)) (toE_ext o))
theorem hgath (o : EOps) : Statement (.hgath o) :=
  of_parts rfl (fun _ => congrArg (fun x => some (Instr.hgath x)) (toE_ext o))
theorem hscat (o : EOps) : Statement (.hscat o) :=
  of_parts rfl (fun _ => congrArg (fun x => some (Instr.hscat x)) (toE_ext o))
theorem hpack (o : EOps) : Statement (.hpack o) :=
  of_parts rfl (fun _ => congrArg (fun x => some (Instr.hpack x)) (toE_ext o))
theorem hunpk (o : EOps) : Statement (.hunpk o) :=
  of_parts rfl (fun _ => congrArg (fun x => some (Instr.hunpk x)) (toE_ext o))
theorem hwait (o : EOps) : Statement (.hwait o) :=
  of_parts rfl (fun _ => congrArg (fun x => some (Instr.hwait x)) (toE_ext o))
theorem hcancel (o : EOps) : Statement (.hcancel o) :=
  of_parts rfl (fun _ => congrArg (fun x => some (Instr.hcancel x)) (toE_ext o))
theorem linkEnable (a) (b) : Statement (.linkEnable a b) := of_none rfl
theorem linkDisable (a) (b) : Statement (.linkDisable a b) := of_none rfl
theorem linkRetrain (a) (b) : Statement (.linkRetrain a b) := of_none rfl
theorem lineFetch (a) (b) (c) : Statement (.lineFetch a b c) := of_none rfl
theorem lineRefetch (a) (b) (c) : Statement (.lineRefetch a b c) := of_none rfl
theorem trapEntry (a) (b) : Statement (.trapEntry a b) := of_none rfl
theorem firingStart (a) : Statement (.firingStart a) := of_none rfl
theorem regionDiscard (a) (b) : Statement (.regionDiscard a b) := of_none rfl
theorem wholeSave (a) (b) : Statement (.wholeSave a b) := of_none rfl
theorem portForward (a) (b) (c) : Statement (.portForward a b c) := of_none rfl
theorem loadDataReturn (a) : Statement (.loadDataReturn a) := of_none rfl
theorem streamReadFetch (a) (b) (c) : Statement (.streamReadFetch a b c) := of_none rfl
theorem streamWriteStore (a) (b) (c) : Statement (.streamWriteStore a b c) := of_none rfl
theorem xloopPass (a) (b) : Statement (.xloopPass a b) := of_none rfl
theorem storeAck (a) : Statement (.storeAck a) := of_none rfl
theorem remoteAccessPerform (a) : Statement (.remoteAccessPerform a) := of_none rfl
theorem poolMoveRecheck (a) (b) : Statement (.poolMoveRecheck a b) := of_none rfl
theorem poolMoveDone (a) : Statement (.poolMoveDone a) := of_none rfl
theorem matrixEntryComplete (a) (b) : Statement (.matrixEntryComplete a b) := of_none rfl
theorem followOnProduct (a) : Statement (.followOnProduct a) := of_none rfl
theorem heliostatCommandStart (a) (b) : Statement (.heliostatCommandStart a b) := of_none rfl
theorem heliostatCommandComplete (a) : Statement (.heliostatCommandComplete a) := of_none rfl
theorem mloadFillComplete (a) (b) : Statement (.mloadFillComplete a b) := of_none rfl
theorem mstoreDrainComplete (a) (b) : Statement (.mstoreDrainComplete a b) := of_none rfl
theorem mdrainWake (a) (b) : Statement (.mdrainWake a b) := of_none rfl
theorem coreRetentionEntry (a) : Statement (.coreRetentionEntry a) := of_none rfl
theorem coreWake (a) : Statement (.coreWake a) := of_none rfl
theorem ctsAdvance (a) : Statement (.ctsAdvance a) := of_none rfl
theorem cacheFillComplete (a) : Statement (.cacheFillComplete a) := of_none rfl
theorem homeRequest (a) : Statement (.homeRequest a) := of_none rfl
theorem hcExclusiveGrant (a) : Statement (.hcExclusiveGrant a) := of_none rfl
theorem hcRecall (a) : Statement (.hcRecall a) := of_none rfl
theorem uGrant (a) : Statement (.uGrant a) := of_none rfl
theorem uRecall (a) : Statement (.uRecall a) := of_none rfl
theorem owHandoverAtHome (a) : Statement (.owHandoverAtHome a) := of_none rfl
theorem owGrant (a) : Statement (.owGrant a) := of_none rfl
theorem reclassTlbsConfirmed (a) : Statement (.reclassTlbsConfirmed a) := of_none rfl
theorem reclassDrained (a) : Statement (.reclassDrained a) := of_none rfl
theorem mailboxEntryArrival (a) : Statement (.mailboxEntryArrival a) := of_none rfl
theorem mailboxHeldAppend (a) (b) : Statement (.mailboxHeldAppend a b) := of_none rfl
theorem eventDelivery (a) : Statement (.eventDelivery a) := of_none rfl
theorem wfeTimeout (a) (b) : Statement (.wfeTimeout a b) := of_none rfl
theorem stealRequest (a) : Statement (.stealRequest a) := of_none rfl
theorem gsendArrival (a) : Statement (.gsendArrival a) := of_none rfl
theorem cutStartArrival (a) : Statement (.cutStartArrival a) := of_none rfl
theorem markerArrival (a) : Statement (.markerArrival a) := of_none rfl
theorem almanacQuietPass (a) : Statement (.almanacQuietPass a) := of_none rfl
theorem catalogueUpdateApply (a) : Statement (.catalogueUpdateApply a) := of_none rfl
theorem pageWalk (a) (b) (c) : Statement (.pageWalk a b c) := of_none rfl
theorem tlbiTarget (a) : Statement (.tlbiTarget a) := of_none rfl
theorem launchFirmwareReply (a) : Statement (.launchFirmwareReply a) := of_none rfl
theorem launchNofirmTimeout (a) : Statement (.launchNofirmTimeout a) := of_none rfl
theorem bindOpcBind (a) (b) : Statement (.bindOpcBind a b) := of_none rfl
theorem unbind (a) (b) : Statement (.unbind a b) := of_none rfl
theorem hold (a) (b) : Statement (.hold a b) := of_none rfl
theorem release (a) (b) : Statement (.release a b) := of_none rfl
theorem mergeEntryArrival (a) : Statement (.mergeEntryArrival a) := of_none rfl
theorem dmRoundComplete (a) : Statement (.dmRoundComplete a) := of_none rfl
theorem powerUp (a) : Statement (.powerUp a) := of_none rfl
theorem thermalThrottle (a) (b) : Statement (.thermalThrottle a b) := of_none rfl
theorem powerThrottle (a) (b) : Statement (.powerThrottle a b) := of_none rfl
theorem thermalShutdown (a) (b) : Statement (.thermalShutdown a b) := of_none rfl
theorem dramCrcRetry (a) (b) : Statement (.dramCrcRetry a b) := of_none rfl
theorem dramScrub (a) (b) : Statement (.dramScrub a b) := of_none rfl
theorem writebackUe (a) (b) (c) : Statement (.writebackUe a b c) := of_none rfl
theorem linkAnResolved (a) (b) : Statement (.linkAnResolved a b) := of_none rfl
theorem linkAnTimeout (a) (b) : Statement (.linkAnTimeout a b) := of_none rfl
theorem linkTrainDone (a) (b) : Statement (.linkTrainDone a b) := of_none rfl
theorem linkTrainTimeout (a) (b) : Statement (.linkTrainTimeout a b) := of_none rfl
theorem linkLock (a) (b) : Statement (.linkLock a b) := of_none rfl
theorem linkLockTimeout (a) (b) : Statement (.linkLockTimeout a b) := of_none rfl
theorem linkAssocDone (a) (b) : Statement (.linkAssocDone a b) := of_none rfl
theorem linkAssocRefused (a) (b) : Statement (.linkAssocRefused a b) := of_none rfl
theorem linkAssocTimeout (a) (b) : Statement (.linkAssocTimeout a b) := of_none rfl
theorem linkFail (a) (b) : Statement (.linkFail a b) := of_none rfl
theorem linkFailedRetry (a) (b) : Statement (.linkFailedRetry a b) := of_none rfl
theorem fabricPacketArrival (a) : Statement (.fabricPacketArrival a) := of_none rfl
theorem fabricResend (a) : Statement (.fabricResend a) := of_none rfl
theorem fabricTimeout (a) : Statement (.fabricTimeout a) := of_none rfl
theorem hostQueueMessage (a) (b) (c) (d) : Statement (.hostQueueMessage a b c d) := of_none rfl
theorem hostQueueLaunch (a) (b) (c) (d) : Statement (.hostQueueLaunch a b c d) := of_none rfl
theorem hostQueueFirmware (a) (b) (c) (d) : Statement (.hostQueueFirmware a b c d) := of_none rfl
theorem outboundAppend (a) (b) : Statement (.outboundAppend a b) := of_none rfl
theorem hostWindowRead (a) (b) (c) (d) (e) : Statement (.hostWindowRead a b c d e) := of_none rfl
theorem hostWindowWrite (a) (b) (c) (d) (e) : Statement (.hostWindowWrite a b c d e) := of_none rfl
theorem catalogueCommandAnswer (a) : Statement (.catalogueCommandAnswer a) := of_none rfl

/-! PREEMPT's three forms share OP and FN, and differ in OPT (R360). -/

theorem preemptOpt {o : EOps} {k : Nat} (hk : k < 4) (h : o.opt.toNat = k) : bits (Body.e o).ext.toNat 25 24 = k := by
  have e := extE_toNat o
  have := o.f.toNat_le; have := o.ch.isLt; have := o.scope.isLt; have := o.fmt.code.isLt; have := o.w.isLt
  rw [bits, Nat.shiftRight_eq_div_pow, e]
  omega

theorem preemptFiring (o : EOps) : Statement (.preemptFiring o) := by
  refine of_parts rfl (fun h => ?_)
  simp only [Instr.legal, Bool.and_eq_true, beq_iff_eq] at h
  have e : bits (Body.e o).ext.toNat 25 24 = 0 := preemptOpt (by decide) (by rw [h.1.1.2]; rfl)
  change (if bits (Body.e o).ext.toNat 25 24 = 0 then _ else _) = _
  rw [if_pos e]
  exact congrArg (fun x => some (Instr.preemptFiring x)) (toE_ext o)

theorem preemptRegion (o : EOps) : Statement (.preemptRegion o) := by
  refine of_parts rfl (fun h => ?_)
  simp only [Instr.legal, Bool.and_eq_true, beq_iff_eq] at h
  have e : bits (Body.e o).ext.toNat 25 24 = 1 := preemptOpt (by decide) (by rw [h.1.1.2]; rfl)
  change (if bits (Body.e o).ext.toNat 25 24 = 0 then _ else if bits (Body.e o).ext.toNat 25 24 = 1 then _ else _) = _
  rw [if_neg (by omega), if_pos e]
  exact congrArg (fun x => some (Instr.preemptRegion x)) (toE_ext o)

theorem preemptResume (o : EOps) : Statement (.preemptResume o) := by
  refine of_parts rfl (fun h => ?_)
  simp only [Instr.legal, Bool.and_eq_true, beq_iff_eq] at h
  have e : bits (Body.e o).ext.toNat 25 24 = 2 := preemptOpt (by decide) (by rw [h.1.1.2]; rfl)
  change (if bits (Body.e o).ext.toNat 25 24 = 0 then _ else if bits (Body.e o).ext.toNat 25 24 = 1 then _ else _) = _
  rw [if_neg (by omega), if_neg (by omega)]
  exact congrArg (fun x => some (Instr.preemptResume x)) (toE_ext o)

/-! The rows of SWR share OP and FN, and differ in their register (R123). -/

theorem swr (o : AOps) : Statement (.swr o) := by
  refine of_parts rfl (fun h => ?_)
  simp only [Instr.legal, AOps.plain, Hd.kinds, Bool.and_eq_true, beq_iff_eq] at h
  change (match o.h.d.writeKind with | 1 => _ | 2 => _ | 3 => _ | _ => _) = _
  rw [h.1.1.1.1.1.2]
  rfl

theorem viewRegisterWrite (o : AOps) : Statement (.viewRegisterWrite o) := by
  refine of_parts rfl (fun h => ?_)
  simp only [Instr.legal, AOps.plain, Hd.kinds, Bool.and_eq_true, beq_iff_eq] at h
  change (match o.h.d.writeKind with | 1 => _ | 2 => _ | 3 => _ | _ => _) = _
  rw [h.1.1.1.1.1.2]
  rfl

theorem sclbaseWrite (o : AOps) : Statement (.sclbaseWrite o) := by
  refine of_parts rfl (fun h => ?_)
  simp only [Instr.legal, AOps.plain, Hd.kinds, Bool.and_eq_true, beq_iff_eq] at h
  change (match o.h.d.writeKind with | 1 => _ | 2 => _ | 3 => _ | _ => _) = _
  rw [h.1.1.1.1.1.2]
  rfl

theorem flagRegisterWrite (o : AOps) : Statement (.flagRegisterWrite o) := by
  refine of_parts rfl (fun h => ?_)
  simp only [Instr.legal, AOps.plain, Hd.kinds, Bool.and_eq_true, beq_iff_eq] at h
  change (match o.h.d.writeKind with | 1 => _ | 2 => _ | 3 => _ | _ => _) = _
  rw [h.1.1.1.1.1.2]
  rfl

end Sys2Proof.Laws.Pair
end

