-- ==== Sys2Proof/Laws/Slots.lean ====
section
/-! SUPPORT. What the X-half's run and the dispatch of an X slot do, once each. -/

namespace Sys2Proof.Machine

/-! ### A run of the head entry -/

/-- A run whose effect answers, and that ends the entry. -/
theorem runAct_ended {i : Instr} {e : XEntry} {s s' : State} (hr : Claims.Runs i e s) {body : XEntry → Act Unit}
    (hb : (body e).run s = .ok ((), s')) : (runAct body true).run s = .ok ((), Claims.ended e s') := by
  unfold runAct
  rw [act_bind_ok (act_getCtx s)]
  simp only [hr.head, hr.live, hr.unskipped, Bool.and_false, Bool.false_eq_true, ↓reduceIte]
  rw [act_bind_ok hb]
  rfl

/-- A run whose effect answers, and that another act completes. -/
theorem runAct_started {i : Instr} {e : XEntry} {s s' : State} (hr : Claims.Runs i e s) {body : XEntry → Act Unit}
    (hb : (body e).run s = .ok ((), s')) : (runAct body false).run s = .ok ((), Claims.started s') := by
  unfold runAct
  rw [act_bind_ok (act_getCtx s)]
  simp only [hr.head, hr.live, hr.unskipped, Bool.and_false, Bool.false_eq_true, ↓reduceIte]
  rw [act_bind_ok hb]
  rfl

/-- A run whose effect stops. -/
theorem runAct_stop {i : Instr} {e : XEntry} {s : State} {x : Stop} (hr : Claims.Runs i e s) {body : XEntry → Act Unit}
    (hb : (body e).run s = .error x) (complete : Bool) : (runAct body complete).run s = .error x := by
  unfold runAct
  rw [act_bind_ok (act_getCtx s)]
  simp only [hr.head, hr.live, hr.unskipped, Bool.and_false, Bool.false_eq_true, ↓reduceIte]
  rw [act_bind_error hb]

theorem xslotWith_runs {i : Instr} {e : XEntry} {s : State} (hr : Claims.Runs i e s) (complete : Bool) (h : Hd)
    (sc : Reg → Act Word) (ck : Word → Word → Word → Act Prep) (body : XEntry → Act Unit) :
    xslotWith complete i h sc ck body s = .next (finishX s ((runAct body complete).run s)) := by
  unfold xslotWith
  simp only [hr.half, hr.can, ↓reduceIte]

/-- An entry that runs to its end. -/
theorem xslot_ended {i : Instr} {e : XEntry} {s s' : State} (hr : Claims.Runs i e s) {h : Hd} {sc : Reg → Act Word}
    {ck : Word → Word → Word → Act Prep} {body : XEntry → Act Unit} (hb : (body e).run s = .ok ((), s')) :
    xslot i h sc ck body s = .next (Claims.ended e s') := by
  rw [xslot, xslotWith_runs hr, runAct_ended hr hb]
  rfl

/-- A matrix entry that starts. -/
theorem matrixEntry_started {i : Instr} {e : XEntry} {s s' : State} (hr : Claims.Runs i e s) {o : TOps}
    {ck : Word → Word → Word → Act Prep} {body : XEntry → Act Unit} (hb : (body e).run s = .ok ((), s')) :
    matrixEntry i o ck body s = .next (Claims.started s') := by
  rw [matrixEntry, xslotWith_runs hr, runAct_started hr hb]
  rfl

/-- An entry that traps releases what it held, and is frozen (R213, R258). -/
theorem xslotWith_trap {i : Instr} {e : XEntry} {s : State} {t : Trap} (hr : Claims.Runs i e s) {complete : Bool} {h : Hd}
    {sc : Reg → Act Word} {ck : Word → Word → Word → Act Prep} {body : XEntry → Act Unit}
    (hb : (body e).run s = .error (.trap t)) :
    xslotWith complete i h sc ck body s = .next ((s.releaseHead e).takeTrapX e.pc t) := by
  rw [xslotWith_runs hr, runAct_stop hr hb]
  simp only [finishX, hr.head]

/-- An entry that must wait leaves everything as it was. -/
theorem xslotWith_wait {i : Instr} {e : XEntry} {s : State} {w : StallWhy} {p : Bool} (hr : Claims.Runs i e s)
    {complete : Bool} {h : Hd} {sc : Reg → Act Word} {ck : Word → Word → Word → Act Prep} {body : XEntry → Act Unit}
    (hb : (body e).run s = .error (.wait w p)) : xslotWith complete i h sc ck body s = .next s := by
  rw [xslotWith_runs hr, runAct_stop hr hb]
  rfl

/-- An X-half that may not run leaves everything as it was. -/
theorem xslotWith_idle {i : Instr} {s : State} (hh : s.half = true) (hc : s.ctx.canRun = false) (complete : Bool) (h : Hd)
    (sc : Reg → Act Word) (ck : Word → Word → Word → Act Prep) (body : XEntry → Act Unit) :
    xslotWith complete i h sc ck body s = .next s := by
  unfold xslotWith
  simp [hh, hc]

/-- Conditions that the slot did not ask to trap let it go on (R155). -/
theorem act_trapRequest {o : XOps} {fl : List Flags} (h : Claims.quiet o fl) (s : State) :
    (trapRequest o.tz o.tv fl).run s = .ok ((), s) := by
  unfold trapRequest
  simp only
  rw [if_neg, if_neg]; rfl
  all_goals
    simp only [List.any_map, Function.comp_def, id_eq, List.any_eq_true, Bool.and_eq_true, not_exists, not_and]
    intro x hx ht
    have := h x hx
    simp_all

/-! ### Dispatch -/

theorem dispatches_last {i : Instr} {h : Hd} {s : State} (hd : Claims.Dispatches i h s) (l : XLoop) :
    s.ctx.xseq.getLast? ≠ some (.loop l) := fun e => hd.flat l (List.mem_of_getLast? e)

theorem dispatches_closed {i : Instr} {h : Hd} {s : State} (hd : Claims.Dispatches i h s) :
    s.ctx.bodyOpen = false := by
  unfold Ctx.bodyOpen
  split
  · rename_i l e
    exact absurd e (dispatches_last hd l)
  · rfl

theorem act_pendingSource {c : Ctx} {l : List Reg} (h : ∀ k, Reg.g k ∈ l → c.pendOf k.toNat = .ready) (s : State) :
    (pendingSource c l).run s = .ok ((), s) := by
  induction l with
  | nil => rfl
  | cons r rs ih =>
    have ih := ih (fun k hk => h k (List.mem_cons_of_mem _ hk))
    cases r <;> simp only [pendingSource] <;> try exact ih
    rename_i k
    rw [h k (List.mem_cons_self ..), if_neg (by decide)]
    exact ih

/-- The entry a dispatch puts at the end of the sequencer (R87). -/
def dispatched (i : Instr) (s : State) (x y z : Word) (p : Prep) (seq : Nat) : XEntry where
  i := i
  pc := s.ctx.pc
  live := true
  s1 := x
  s2 := y
  s3 := z
  region := s.ctx.idem.serial
  scales := p.scales
  taken := p.taken
  held := p.held
  refused := false
  seq := seq

/-- The state after a dispatch whose scalars are read and whose checks pass: the readers are counted, the entry stands last
in the sequencer, its g destination waits for it, and the context goes on to the next slot (R73, R87, R191, R213). -/
def State.dispatch (s : State) (i : Instr) (h : Hd) (x y z : Word) (p : Prep) : State :=
  let s : State := s.modHere (·.addReaders p.held)
  let e := dispatched i s x y z p s.nextId
  let s : State := { s with nextId := s.nextId + 1 }
  ((s.modCtx (fun c => match h.d with
    | .g k => (c.pushEntry e).setPend k.toNat .xhalf
    | _ => c.pushEntry e)).modCtx (·.commitRegion i)).modCtx Ctx.advance

theorem dispatchAct_ok {i : Instr} {h : Hd} {s sa sb sc sd : State} {x y z : Word} {p : Prep} {scalar : Reg → Act Word}
    {ck : Word → Word → Word → Act Prep} (hd : Claims.Dispatches i h s) (hx : (scalar h.s1).run s = .ok (x, sa))
    (hy : (scalar h.s2).run sa = .ok (y, sb)) (hz : (scalar h.s3).run sb = .ok (z, sc))
    (hc : (ck x y z).run sc = .ok (p, sd)) : (dispatchAct i h scalar ck).run s = .ok ((), sd.dispatch i h x y z p) := by
  have hroom : (roomInSequencer s.ctx).run s = .ok ((), s) := act_waitUntil (by simpa using hd.room) _ _ _
  unfold dispatchAct
  rw [act_bind_ok (act_getCtx s), act_bind_ok (act_modeCheck (Or.inl hd.user) s)]
  simp only [hd.pred, dispatches_closed hd, hd.unskipped, Bool.not_true, Bool.false_and, Bool.and_false, Bool.false_eq_true,
    ↓reduceIte]
  rw [act_bind_ok hroom, act_bind_ok (act_pendingSource hd.sources s), act_bind_ok (act_pendingCheck hd.regs s),
    act_bind_ok hx, act_bind_ok hy, act_bind_ok hz]
  have hl := dispatches_last hd
  revert hl
  generalize s.ctx.xseq.getLast? = last
  intro hl
  rcases last with _ | ⟨_ | l⟩
  · simp only [Bool.and_self, Bool.not_false, ↓reduceIte]
    rw [act_bind_ok hc]
    rfl
  · simp only [Bool.and_self, Bool.not_false, ↓reduceIte]
    rw [act_bind_ok hc]
    rfl
  · exact absurd rfl (hl l)

/-- A slot that is dispatched. -/
theorem xslotWith_dispatch {i : Instr} {h : Hd} {s sa sb sc sd : State} {x y z : Word} {p : Prep} {scalar : Reg → Act Word}
    {ck : Word → Word → Word → Act Prep} (hd : Claims.Dispatches i h s) (hx : (scalar h.s1).run s = .ok (x, sa))
    (hy : (scalar h.s2).run sa = .ok (y, sb)) (hz : (scalar h.s3).run sb = .ok (z, sc))
    (hc : (ck x y z).run sc = .ok (p, sd)) (complete : Bool) (body : XEntry → Act Unit) :
    xslotWith complete i h scalar ck body s = .next (sd.dispatch i h x y z p) := by
  unfold xslotWith
  simp only [hd.half, hd.can, Bool.false_eq_true, ↓reduceIte]
  rw [dispatchAct_ok hd hx hy hz hc]
  rfl

end Sys2Proof.Machine
end

