-- ==== Sys2Proof/Tests/Slice0.lean ====
section
/-! SUPPORT. The model's own tests: decoding of words written out from the encoding tables, ill-formed terms, a witness for every
statement's hypotheses, and single steps. -/

set_option Elab.async false

namespace Sys2Proof.Tests

open Sys2Proof Sys2Proof.Machine

/-! ### Decoding: for every encoded constructor, a word written out from the encoding tables of R47 to R59 -/

theorem test_decode_op00_0 :
    decodeTableWord 96 0x000000000000000000000000 = some (.nop ⟨⟨0, 0, .g 0, .g 0, .g 0, .g 0⟩, 0x0⟩) ∧
    decodeTableWord 96 0x000400000500000000000011 = some (.trapc ⟨⟨0, 0, .g 0, .g 5, .g 0, .g 0⟩, 0x11⟩) ∧
    decodeTableWord 96 0x000800000000000000000000 = some (.trapret ⟨⟨0, 0, .g 0, .g 0, .g 0, .g 0⟩, 0x0⟩) ∧
    decodeTableWord 96 0x000C00140301000000000000 = some (.rgnNew ⟨⟨0, 0, .g 5, .g 3, .g 4, .g 0⟩, false, 0, 0, 0, .none, 0x0⟩) ∧
    decodeTableWord 96 0x001000140301000001000007 = some (.rgnSet ⟨⟨0, 0, .g 5, .g 3, .g 4, .g 0⟩, false, 0, 0, 1, .none, 0x7⟩) ∧
    decodeTableWord 96 0x001400140300000000000000 = some (.rgnKill ⟨⟨0, 0, .g 5, .g 3, .g 0, .g 0⟩, false, 0, 0, 0, .none, 0x0⟩) := by decide

theorem test_decode_op00_1 :
    decodeTableWord 96 0x001800140301000000000000 = some (.bind ⟨⟨0, 0, .g 5, .g 3, .g 4, .g 0⟩, false, 0, 0, 0, .none, 0x0⟩) ∧
    decodeTableWord 96 0x001C00140300000000000000 = some (.preemptFiring ⟨⟨0, 0, .g 5, .g 3, .g 0, .g 0⟩, false, 0, 0, 0, .none, 0x0⟩) ∧
    decodeTableWord 96 0x001C00140300000001000000 = some (.preemptRegion ⟨⟨0, 0, .g 5, .g 3, .g 0, .g 0⟩, false, 0, 0, 1, .none, 0x0⟩) ∧
    decodeTableWord 96 0x001C00140300000002000000 = some (.preemptResume ⟨⟨0, 0, .g 5, .g 3, .g 0, .g 0⟩, false, 0, 0, 2, .none, 0x0⟩) := by decide

theorem test_decode_op01_0 :
    decodeTableWord 96 0x0100001C0202400000000000 = some (.add ⟨⟨0, 0, .g 7, .g 2, .g 9, .g 0⟩, 0x0⟩) ∧
    decodeTableWord 96 0x0104001C0202400000000000 = some (.sub ⟨⟨0, 0, .g 7, .g 2, .g 9, .g 0⟩, 0x0⟩) ∧
    decodeTableWord 96 0x0108001C0202400000000000 = some (.mul ⟨⟨0, 0, .g 7, .g 2, .g 9, .g 0⟩, 0x0⟩) ∧
    decodeTableWord 96 0x010C001C0202400000000000 = some (.mulhI64 ⟨⟨0, 0, .g 7, .g 2, .g 9, .g 0⟩, 0x0⟩) ∧
    decodeTableWord 96 0x0110001C0202400000000000 = some (.mulhN64 ⟨⟨0, 0, .g 7, .g 2, .g 9, .g 0⟩, 0x0⟩) ∧
    decodeTableWord 96 0x0114001C0202400000000000 = some (.quoI64 ⟨⟨0, 0, .g 7, .g 2, .g 9, .g 0⟩, 0x0⟩) := by decide

theorem test_decode_op01_1 :
    decodeTableWord 96 0x0118001C0202400000000000 = some (.quoN64 ⟨⟨0, 0, .g 7, .g 2, .g 9, .g 0⟩, 0x0⟩) ∧
    decodeTableWord 96 0x011C001C0202400000000000 = some (.remI64 ⟨⟨0, 0, .g 7, .g 2, .g 9, .g 0⟩, 0x0⟩) ∧
    decodeTableWord 96 0x0120001C0202400000000000 = some (.remN64 ⟨⟨0, 0, .g 7, .g 2, .g 9, .g 0⟩, 0x0⟩) := by decide

theorem test_decode_op02_0 :
    decodeTableWord 96 0x0200001C0202400000000000 = some (.andBits ⟨⟨0, 0, .g 7, .g 2, .g 9, .g 0⟩, 0x0⟩) ∧
    decodeTableWord 96 0x0204001C0202400000000000 = some (.orBits ⟨⟨0, 0, .g 7, .g 2, .g 9, .g 0⟩, 0x0⟩) ∧
    decodeTableWord 96 0x0208001C0202400000000000 = some (.xorBits ⟨⟨0, 0, .g 7, .g 2, .g 9, .g 0⟩, 0x0⟩) ∧
    decodeTableWord 96 0x020C001C0202400000000000 = some (.andn ⟨⟨0, 0, .g 7, .g 2, .g 9, .g 0⟩, 0x0⟩) ∧
    decodeTableWord 96 0x0210001C0202400000000000 = some (.shl ⟨⟨0, 0, .g 7, .g 2, .g 9, .g 0⟩, 0x0⟩) ∧
    decodeTableWord 96 0x0214001C0202400000000000 = some (.shr ⟨⟨0, 0, .g 7, .g 2, .g 9, .g 0⟩, 0x0⟩) := by decide

theorem test_decode_op02_1 :
    decodeTableWord 96 0x0218001C0202400000000000 = some (.sra ⟨⟨0, 0, .g 7, .g 2, .g 9, .g 0⟩, 0x0⟩) ∧
    decodeTableWord 96 0x021C001C0202400000000000 = some (.rot ⟨⟨0, 0, .g 7, .g 2, .g 9, .g 0⟩, 0x0⟩) ∧
    decodeTableWord 96 0x0220001C0200000000000000 = some (.clz ⟨⟨0, 0, .g 7, .g 2, .g 0, .g 0⟩, 0x0⟩) ∧
    decodeTableWord 96 0x0224001C0200000000000000 = some (.ctz ⟨⟨0, 0, .g 7, .g 2, .g 0, .g 0⟩, 0x0⟩) ∧
    decodeTableWord 96 0x0228001C0200000000000000 = some (.popc ⟨⟨0, 0, .g 7, .g 2, .g 0, .g 0⟩, 0x0⟩) := by decide

theorem test_decode_op03 :
    decodeTableWord 96 0x030280880301000000000000 = some (.cmp ⟨⟨5, 0, .p 2, .g 3, .g 4, .g 0⟩, 0x0⟩) ∧
    decodeTableWord 96 0x030480142100C04000000000 = some (.sel ⟨⟨1, 0, .g 5, .p 1, .g 3, .g 4⟩, 0x0⟩) ∧
    decodeTableWord 96 0x0308001C0202400000000000 = some (.minI64 ⟨⟨0, 0, .g 7, .g 2, .g 9, .g 0⟩, 0x0⟩) ∧
    decodeTableWord 96 0x030C001C0202400000000000 = some (.minN64 ⟨⟨0, 0, .g 7, .g 2, .g 9, .g 0⟩, 0x0⟩) ∧
    decodeTableWord 96 0x0310001C0202400000000000 = some (.maxI64 ⟨⟨0, 0, .g 7, .g 2, .g 9, .g 0⟩, 0x0⟩) ∧
    decodeTableWord 96 0x0314001C0202400000000000 = some (.maxN64 ⟨⟨0, 0, .g 7, .g 2, .g 9, .g 0⟩, 0x0⟩) := by decide

theorem test_decode_op20 :
    decodeTableWord 96 0x2000001C0200000000000000 = some (.mov ⟨⟨0, 0, .g 7, .g 2, .g 0, .g 0⟩, 0x0⟩) ∧
    decodeTableWord 96 0x2004001403013FF000000003 = some (.lea ⟨⟨0, 0, .g 5, .g 3, .g 4, .lit⟩, 0x3⟩) ∧
    decodeTableWord 96 0x20080017FE0100600002000A = some (.gaddr ⟨⟨0, 0, .g 5, .win, .g 4, .g 6⟩, 0x2000a⟩) ∧
    decodeTableWord 96 0x200C001C0202400000000000 = some (.bfxI64 ⟨⟨0, 0, .g 7, .g 2, .g 9, .g 0⟩, 0x0⟩) ∧
    decodeTableWord 96 0x2010001C0202400000000000 = some (.bfxN64 ⟨⟨0, 0, .g 7, .g 2, .g 9, .g 0⟩, 0x0⟩) ∧
    decodeTableWord 96 0x201400140301006000000000 = some (.bfi ⟨⟨0, 0, .g 5, .g 3, .g 4, .g 6⟩, 0x0⟩) := by decide

theorem test_decode_op30 :
    decodeTableWord 96 0x300020000000000FFFFFFFF1 = some (.br ⟨⟨0, 2, .g 0, .g 0, .g 0, .g 0⟩, 0xffffffff1⟩) ∧
    decodeTableWord 96 0x3004007C000000000000000A = some (.brl ⟨⟨0, 0, .g 31, .g 0, .g 0, .g 0⟩, 0xa⟩) ∧
    decodeTableWord 96 0x300800000400000000000000 = some (.jmp ⟨⟨0, 0, .g 0, .g 4, .g 0, .g 0⟩, 0x0⟩) ∧
    decodeTableWord 96 0x300C007C0400000000000000 = some (.jmpl ⟨⟨0, 0, .g 31, .g 4, .g 0, .g 0⟩, 0x0⟩) ∧
    decodeTableWord 96 0x301000000000000000000000 = some (.ret ⟨⟨0, 0, .g 0, .g 0, .g 0, .g 0⟩, 0x0⟩) ∧
    decodeTableWord 96 0x301400140000000FFFFFFFF1 = some (.loop ⟨⟨0, 0, .g 5, .g 0, .g 0, .g 0⟩, 0xffffffff1⟩) := by decide

theorem test_decode_op31 :
    decodeTableWord 96 0x310000842208C00000000000 = some (.pand ⟨⟨0, 0, .p 1, .p 2, .p 3, .g 0⟩, 0x0⟩) ∧
    decodeTableWord 96 0x310400842208C00000000000 = some (.por ⟨⟨0, 0, .p 1, .p 2, .p 3, .g 0⟩, 0x0⟩) ∧
    decodeTableWord 96 0x310800842208C00000000000 = some (.pxor ⟨⟨0, 0, .p 1, .p 2, .p 3, .g 0⟩, 0x0⟩) ∧
    decodeTableWord 96 0x310C00842200000000000000 = some (.pnot ⟨⟨0, 0, .p 1, .p 2, .g 0, .g 0⟩, 0x0⟩) := by decide

theorem test_decode_op32 :
    decodeTableWord 96 0x320000140000000000000120 = some (.phead ⟨⟨0, 0, .g 5, .g 0, .g 0, .g 0⟩, 0x120⟩) ∧
    decodeTableWord 96 0x32040014000000000000012A = some (.ptail ⟨⟨0, 0, .g 5, .g 0, .g 0, .g 0⟩, 0x12a⟩) ∧
    decodeTableWord 96 0x320800140000000000000008 = some (.pcnt ⟨⟨0, 0, .g 5, .g 0, .g 0, .g 0⟩, 0x8⟩) := by decide

theorem test_decode_op33 :
    decodeTableWord 96 0x330000000000000000000000 = some (.endFiring ⟨⟨0, 0, .g 0, .g 0, .g 0, .g 0⟩, 0x0⟩) ∧
    decodeTableWord 96 0x330400000000000000000000 = some (.yield ⟨⟨0, 0, .g 0, .g 0, .g 0, .g 0⟩, 0x0⟩) ∧
    decodeTableWord 96 0x33080000000000000000006E = some (.idem ⟨⟨0, 0, .g 0, .g 0, .g 0, .g 0⟩, 0x6e⟩) := by decide

theorem test_decode_op34 :
    decodeTableWord 96 0x340000000600000200010000 = some (.xloop ⟨⟨0, 0, .g 0, .g 6, .g 0, .g 0⟩, 0x200010000⟩) := by decide

theorem test_decode_op40 :
    decodeTableWord 96 0x400000140301000A20FFFFF0 = some (.ld ⟨⟨0, 0, .g 5, .g 3, .g 4, .g 0⟩, .i32, false, 1, 0, false, 0xfffff0⟩) ∧
    decodeTableWord 96 0x4004000003010290C0000020 = some (.st ⟨⟨0, 0, .g 0, .g 3, .g 4, .q 1⟩, .none, true, 2, 0, false, 0x20⟩) ∧
    decodeTableWord 96 0x400800140302400000000008 = some (.ldm ⟨⟨0, 0, .g 5, .g 3, .g 9, .g 0⟩, .none, false, 0, 0, false, 0x8⟩) ∧
    decodeTableWord 96 0x400C00000302405000000008 = some (.stm ⟨⟨0, 0, .g 0, .g 3, .g 9, .g 5⟩, .none, false, 0, 0, false, 0x8⟩) ∧
    decodeTableWord 96 0x40100017FE00C00000020000 = some (.ldc ⟨⟨0, 0, .g 5, .win, .g 3, .g 0⟩, 0x20000⟩) := by decide

theorem test_decode_op41 :
    decodeTableWord 96 0x410000000301000000000040 = some (.pref ⟨⟨0, 0, .g 0, .g 3, .g 4, .g 0⟩, .none, false, 0, 0, false, 0x40⟩) ∧
    decodeTableWord 96 0x410400000301005000000040 = some (.flush ⟨⟨0, 0, .g 0, .g 3, .g 4, .g 5⟩, .none, false, 0, 0, false, 0x40⟩) ∧
    decodeTableWord 96 0x410800000301005000000040 = some (.inv ⟨⟨0, 0, .g 0, .g 3, .g 4, .g 5⟩, .none, false, 0, 0, false, 0x40⟩) := by decide

theorem test_decode_op42 :
    decodeTableWord 96 0x420000A00301000200000010 = some (.iget ⟨⟨0, 0, .q 0, .g 3, .g 4, .g 0⟩, .f32, false, 0, 0, false, 0x10⟩) ∧
    decodeTableWord 96 0x420400000301029080000000 = some (.iput ⟨⟨0, 0, .g 0, .g 3, .g 4, .q 1⟩, .none, true, 0, 0, false, 0x0⟩) := by decide

theorem test_decode_op43 :
    decodeTableWord 96 0x430000140000000000000000 = some (.scnt ⟨⟨0, 0, .g 5, .g 0, .g 0, .g 0⟩, .none, false, 0, 0, false, 0x0⟩) ∧
    decodeTableWord 96 0x430400000301005000000000 = some (.handover ⟨⟨0, 0, .g 0, .g 3, .g 4, .g 5⟩, .none, false, 0, 0, false, 0x0⟩) ∧
    decodeTableWord 96 0x430800000301005000000000 = some (.reclass ⟨⟨0, 0, .g 0, .g 3, .g 4, .g 5⟩, .none, false, 0, 0, false, 0x0⟩) := by decide

theorem test_decode_op50 :
    decodeTableWord 96 0x50000000000000000C000000 = some (.fence ⟨⟨0, 0, .g 0, .g 0, .g 0, .g 0⟩, .none, false, 0, 3, false, 0x0⟩) := by decide

theorem test_decode_op51_0 :
    decodeTableWord 96 0x510000000301005B4A000008 = some (.amoAdd ⟨⟨0, 0, .g 0, .g 3, .g 4, .g 5⟩, .i64, false, 2, 2, true, 0x8⟩) ∧
    decodeTableWord 96 0x510400000301005B48000008 = some (.amoAnd ⟨⟨0, 0, .g 0, .g 3, .g 4, .g 5⟩, .i64, false, 2, 2, false, 0x8⟩) ∧
    decodeTableWord 96 0x510800000301005B48000008 = some (.amoOr ⟨⟨0, 0, .g 0, .g 3, .g 4, .g 5⟩, .i64, false, 2, 2, false, 0x8⟩) ∧
    decodeTableWord 96 0x510C00000301005B48000008 = some (.amoXor ⟨⟨0, 0, .g 0, .g 3, .g 4, .g 5⟩, .i64, false, 2, 2, false, 0x8⟩) ∧
    decodeTableWord 96 0x511000000301005B48000008 = some (.amoMin ⟨⟨0, 0, .g 0, .g 3, .g 4, .g 5⟩, .i64, false, 2, 2, false, 0x8⟩) ∧
    decodeTableWord 96 0x511400000301005B48000008 = some (.amoMax ⟨⟨0, 0, .g 0, .g 3, .g 4, .g 5⟩, .i64, false, 2, 2, false, 0x8⟩) := by decide

theorem test_decode_op51_1 :
    decodeTableWord 96 0x511800000301005B48000008 = some (.amoUmin ⟨⟨0, 0, .g 0, .g 3, .g 4, .g 5⟩, .i64, false, 2, 2, false, 0x8⟩) ∧
    decodeTableWord 96 0x511C00000301005B48000008 = some (.amoUmax ⟨⟨0, 0, .g 0, .g 3, .g 4, .g 5⟩, .i64, false, 2, 2, false, 0x8⟩) ∧
    decodeTableWord 96 0x512000000301005B48000008 = some (.amoSwap ⟨⟨0, 0, .g 0, .g 3, .g 4, .g 5⟩, .i64, false, 2, 2, false, 0x8⟩) ∧
    decodeTableWord 96 0x512480000301005108000000 = some (.amoFadd ⟨⟨1, 0, .g 0, .g 3, .g 4, .g 5⟩, .f64, false, 0, 2, false, 0x0⟩) := by decide

theorem test_decode_op52_0 :
    decodeTableWord 96 0x520000180301005E2C000008 = some (.amofAdd ⟨⟨0, 0, .g 6, .g 3, .g 4, .g 5⟩, .n32, false, 1, 3, false, 0x8⟩) ∧
    decodeTableWord 96 0x520400180301005E2C000008 = some (.amofAnd ⟨⟨0, 0, .g 6, .g 3, .g 4, .g 5⟩, .n32, false, 1, 3, false, 0x8⟩) ∧
    decodeTableWord 96 0x520800180301005E2C000008 = some (.amofOr ⟨⟨0, 0, .g 6, .g 3, .g 4, .g 5⟩, .n32, false, 1, 3, false, 0x8⟩) ∧
    decodeTableWord 96 0x520C00180301005E2C000008 = some (.amofXor ⟨⟨0, 0, .g 6, .g 3, .g 4, .g 5⟩, .n32, false, 1, 3, false, 0x8⟩) ∧
    decodeTableWord 96 0x521000180301005E2C000008 = some (.amofMin ⟨⟨0, 0, .g 6, .g 3, .g 4, .g 5⟩, .n32, false, 1, 3, false, 0x8⟩) ∧
    decodeTableWord 96 0x521400180301005E2C000008 = some (.amofMax ⟨⟨0, 0, .g 6, .g 3, .g 4, .g 5⟩, .n32, false, 1, 3, false, 0x8⟩) := by decide

theorem test_decode_op52_1 :
    decodeTableWord 96 0x521800180301005E2C000008 = some (.amofUmin ⟨⟨0, 0, .g 6, .g 3, .g 4, .g 5⟩, .n32, false, 1, 3, false, 0x8⟩) ∧
    decodeTableWord 96 0x521C00180301005E2C000008 = some (.amofUmax ⟨⟨0, 0, .g 6, .g 3, .g 4, .g 5⟩, .n32, false, 1, 3, false, 0x8⟩) ∧
    decodeTableWord 96 0x522000180301005E2C000008 = some (.amofSwap ⟨⟨0, 0, .g 6, .g 3, .g 4, .g 5⟩, .n32, false, 1, 3, false, 0x8⟩) ∧
    decodeTableWord 96 0x522500180301005204000000 = some (.amofFadd ⟨⟨2, 0, .g 6, .g 3, .g 4, .g 5⟩, .f32, false, 0, 1, false, 0x0⟩) := by decide

theorem test_decode_op53_0 :
    decodeTableWord 96 0x530000000301005A00000008 = some (.amoUAdd ⟨⟨0, 0, .g 0, .g 3, .g 4, .g 5⟩, .i32, false, 0, 0, false, 0x8⟩) ∧
    decodeTableWord 96 0x530400000301005A00000008 = some (.amoUAnd ⟨⟨0, 0, .g 0, .g 3, .g 4, .g 5⟩, .i32, false, 0, 0, false, 0x8⟩) ∧
    decodeTableWord 96 0x530800000301005A00000008 = some (.amoUOr ⟨⟨0, 0, .g 0, .g 3, .g 4, .g 5⟩, .i32, false, 0, 0, false, 0x8⟩) ∧
    decodeTableWord 96 0x530C00000301005A00000008 = some (.amoUXor ⟨⟨0, 0, .g 0, .g 3, .g 4, .g 5⟩, .i32, false, 0, 0, false, 0x8⟩) ∧
    decodeTableWord 96 0x531000000301005A00000008 = some (.amoUMin ⟨⟨0, 0, .g 0, .g 3, .g 4, .g 5⟩, .i32, false, 0, 0, false, 0x8⟩) ∧
    decodeTableWord 96 0x531400000301005A00000008 = some (.amoUMax ⟨⟨0, 0, .g 0, .g 3, .g 4, .g 5⟩, .i32, false, 0, 0, false, 0x8⟩) := by decide

theorem test_decode_op53_1 :
    decodeTableWord 96 0x531800000301005A00000008 = some (.amoUUmin ⟨⟨0, 0, .g 0, .g 3, .g 4, .g 5⟩, .i32, false, 0, 0, false, 0x8⟩) ∧
    decodeTableWord 96 0x531C00000301005A00000008 = some (.amoUUmax ⟨⟨0, 0, .g 0, .g 3, .g 4, .g 5⟩, .i32, false, 0, 0, false, 0x8⟩) ∧
    decodeTableWord 96 0x532400000301005100000000 = some (.amoUFadd ⟨⟨0, 0, .g 0, .g 3, .g 4, .g 5⟩, .f64, false, 0, 0, false, 0x0⟩) := by decide

theorem test_decode_op54 :
    decodeTableWord 96 0x540000180301005F48000000 = some (.cas ⟨⟨0, 0, .g 6, .g 3, .g 4, .g 5⟩, .n64, false, 2, 2, false, 0x0⟩) ∧
    decodeTableWord 96 0x540400180301008F08000000 = some (.casw ⟨⟨0, 0, .g 6, .g 3, .g 4, .g 8⟩, .n64, false, 0, 2, false, 0x0⟩) := by decide

theorem test_decode_op55 :
    decodeTableWord 96 0x550000000301005000000010 = some (.bari ⟨⟨0, 0, .g 0, .g 3, .g 4, .g 5⟩, .none, false, 0, 0, false, 0x10⟩) ∧
    decodeTableWord 96 0x550400140301000008000010 = some (.bar ⟨⟨0, 0, .g 5, .g 3, .g 4, .g 0⟩, .none, false, 0, 2, false, 0x10⟩) ∧
    decodeTableWord 96 0x550800000301005000000010 = some (.barw ⟨⟨0, 0, .g 0, .g 3, .g 4, .g 5⟩, .none, false, 0, 0, false, 0x10⟩) ∧
    decodeTableWord 96 0x550C00140000000000000000 = some (.dmclose ⟨⟨0, 0, .g 5, .g 0, .g 0, .g 0⟩, false, 0, 0, 0, .none, 0x0⟩) := by decide

theorem test_decode_op56 :
    decodeTableWord 96 0x560000000301005030000000 = some (.tlbi ⟨⟨0, 0, .g 0, .g 3, .g 4, .g 5⟩, false, 0, 3, 0, .none, 0x0⟩) := by decide

theorem test_decode_op60 :
    decodeTableWord 96 0x600000001700000FFFE80000 = some (.fork ⟨⟨0, 0, .g 0, .g 23, .g 0, .g 0⟩, 0x3fffa, 0x0⟩) ∧
    decodeTableWord 96 0x600400001700000FFFE80000 = some (.join ⟨⟨0, 0, .g 0, .g 23, .g 0, .g 0⟩, 0x3fffa, 0x0⟩) ∧
    decodeTableWord 96 0x600800140000000000000000 = some (.dqcnt ⟨⟨0, 0, .g 5, .g 0, .g 0, .g 0⟩, false, 0, 0, 0, .none, 0x0⟩) := by decide

theorem test_decode_op61 :
    decodeTableWord 96 0x610000140000000000000000 = some (.futNew ⟨⟨0, 0, .g 5, .g 0, .g 0, .g 0⟩, false, 0, 0, 0, .none, 0x0⟩) ∧
    decodeTableWord 96 0x610400000301000000000000 = some (.futSet ⟨⟨0, 0, .g 0, .g 3, .g 4, .g 0⟩, false, 0, 0, 0, .none, 0x0⟩) ∧
    decodeTableWord 96 0x610800140300000000000000 = some (.futGet ⟨⟨0, 0, .g 5, .g 3, .g 0, .g 0⟩, false, 0, 0, 0, .none, 0x0⟩) ∧
    decodeTableWord 96 0x610C00000300000000000000 = some (.futFree ⟨⟨0, 0, .g 0, .g 3, .g 0, .g 0⟩, false, 0, 0, 0, .none, 0x0⟩) := by decide

theorem test_decode_op62 :
    decodeTableWord 96 0x620000140300000000000045 = some (.mbxBind ⟨⟨0, 0, .g 5, .g 3, .g 0, .g 0⟩, false, 0, 0, 0, .none, 0x45⟩) ∧
    decodeTableWord 96 0x620400140000000000000009 = some (.mbxFree ⟨⟨0, 0, .g 5, .g 0, .g 0, .g 0⟩, false, 0, 0, 0, .none, 0x9⟩) ∧
    decodeTableWord 96 0x620800140000000000000003 = some (.mbxrd ⟨⟨0, 0, .g 5, .g 0, .g 0, .g 0⟩, false, 0, 0, 0, .none, 0x3⟩) ∧
    decodeTableWord 96 0x620C00000301006020000000 = some (.send ⟨⟨0, 0, .g 0, .g 3, .g 4, .g 6⟩, false, 0, 2, 0, .none, 0x0⟩) := by decide

theorem test_decode_op63 :
    decodeTableWord 96 0x630000000300000000000000 = some (.evt ⟨⟨0, 0, .g 0, .g 3, .g 0, .g 0⟩, false, 0, 0, 0, .none, 0x0⟩) ∧
    decodeTableWord 96 0x630400140301000000000000 = some (.wfe ⟨⟨0, 0, .g 5, .g 3, .g 4, .g 0⟩, false, 0, 0, 0, .none, 0x0⟩) ∧
    decodeTableWord 96 0x630800140000000000000000 = some (.gangOn ⟨⟨0, 0, .g 5, .g 0, .g 0, .g 0⟩, false, 0, 0, 0, .none, 0x0⟩) ∧
    decodeTableWord 96 0x630C00140000000000000000 = some (.gangOff ⟨⟨0, 0, .g 5, .g 0, .g 0, .g 0⟩, false, 0, 0, 0, .none, 0x0⟩) := by decide

theorem test_decode_op64 :
    decodeTableWord 96 0x640000001700800000200018 = some (.rfork ⟨⟨0, 0, .g 0, .g 23, .g 2, .g 0⟩, 0x8, 0x18⟩) ∧
    decodeTableWord 96 0x640400140300000000000000 = some (.launch ⟨⟨0, 0, .g 5, .g 3, .g 0, .g 0⟩, false, 0, 0, 0, .none, 0x0⟩) := by decide

theorem test_decode_op70 :
    decodeTableWord 96 0x700000140000000000000283 = some (.poolset ⟨⟨0, 0, .g 5, .g 0, .g 0, .g 0⟩, 0x283⟩) ∧
    decodeTableWord 96 0x700400140000000000000283 = some (.poolsetWait ⟨⟨0, 0, .g 5, .g 0, .g 0, .g 0⟩, 0x283⟩) ∧
    decodeTableWord 96 0x700800140000000000000400 = some (.poolrd ⟨⟨0, 0, .g 5, .g 0, .g 0, .g 0⟩, 0x400⟩) ∧
    decodeTableWord 96 0x700C00000400000000000000 = some (.hwmSet ⟨⟨0, 0, .g 0, .g 4, .g 0, .g 0⟩, 0x0⟩) := by decide

theorem test_decode_op71 :
    decodeTableWord 96 0x710000000000000002000010 = some (.viewSet ⟨⟨0, 0, .g 0, .g 0, .g 0, .g 0⟩, 0x2000010⟩) ∧
    decodeTableWord 96 0x710400000000000400000000 = some (.viewClr ⟨⟨0, 0, .g 0, .g 0, .g 0, .g 0⟩, 0x400000000⟩) := by decide

theorem test_decode_op72 :
    decodeTableWord 96 0x720001100300000480000000 = some (.tset ⟨⟨0, 0, .t 4, .g 3, .g 0, .g 0⟩, 0x480000000⟩) ∧
    decodeTableWord 96 0x720400144400000000000000 = some (.tstat ⟨⟨0, 0, .g 5, .t 4, .g 0, .g 0⟩, 0x0⟩) ∧
    decodeTableWord 96 0x720800144400000000000000 = some (.tclr ⟨⟨0, 0, .g 5, .t 4, .g 0, .g 0⟩, 0x0⟩) := by decide

theorem test_decode_op73 :
    decodeTableWord 96 0x730000142900000000000000 = some (.qpop ⟨⟨0, 0, .g 5, .q 1, .g 0, .g 0⟩, 0x0⟩) ∧
    decodeTableWord 96 0x730400142A00000000000000 = some (.qcnt ⟨⟨0, 0, .g 5, .q 2, .g 0, .g 0⟩, 0x0⟩) ∧
    decodeTableWord 96 0x730800A80300000000000040 = some (.streamBind ⟨⟨0, 0, .q 2, .g 3, .g 0, .g 0⟩, 0x40⟩) ∧
    decodeTableWord 96 0x730C00A80000000000000000 = some (.streamEnd ⟨⟨0, 0, .q 2, .g 0, .g 0, .g 0⟩, 0x0⟩) := by decide

set_option maxRecDepth 8192 in
theorem test_decode_op74_0 :
    decodeTableWord 96 0x740000000300000000000002 = some (.winSet ⟨⟨0, 0, .g 0, .g 3, .g 0, .g 0⟩, 0x2⟩) ∧
    decodeTableWord 96 0x740400161600000000000000 = some (.srd ⟨⟨0, 0, .g 5, .sys 22, .g 0, .g 0⟩, 0x0⟩) ∧
    decodeTableWord 96 0x740808540400000000000000 = some (.swr ⟨⟨0, 0, .sys 21, .g 4, .g 0, .g 0⟩, 0x0⟩) ∧
    decodeTableWord 96 0x740C0017FF01000000000003 = some (.logrd ⟨⟨0, 0, .g 5, .lit, .g 4, .g 0⟩, 0x3⟩) ∧
    decodeTableWord 96 0x741000140200C04000000000 = some (.logext ⟨⟨0, 0, .g 5, .g 2, .g 3, .g 4⟩, 0x0⟩) ∧
    decodeTableWord 96 0x740808480400000000000000 = some (.viewRegisterWrite ⟨⟨0, 0, .sys 18, .g 4, .g 0, .g 0⟩, 0x0⟩) := by decide

set_option maxRecDepth 8192 in
theorem test_decode_op74_1 :
    decodeTableWord 96 0x7408086C0400000000000000 = some (.sclbaseWrite ⟨⟨0, 0, .sys 27, .g 4, .g 0, .g 0⟩, 0x0⟩) ∧
    decodeTableWord 96 0x740808580400000000000000 = some (.flagRegisterWrite ⟨⟨0, 0, .sys 22, .g 4, .g 0, .g 0⟩, 0x0⟩) := by decide

theorem test_decode_op80_0 :
    decodeTableWord 96 0x80008411080A000008200000 = some (.vadd ⟨⟨1, 0, .v 4, .v 8, .q 0, .g 0⟩, 0, 0, 0, .f32, .none, true, false, 0x0⟩) ∧
    decodeTableWord 96 0x800404110842400124000000 = some (.vsub ⟨⟨0, 0, .v 4, .v 8, .v 9, .g 0⟩, 0, 1, 0, .i16, .none, false, false, 0x0⟩) ∧
    decodeTableWord 96 0x800800A508FF800004020003 = some (.vmul ⟨⟨0, 0, .q 1, .v 8, .win, .g 0⟩, 0, 0, 0, .f64, .none, false, false, 0x20003⟩) ∧
    decodeTableWord 96 0x800C04110842400030000000 = some (.vmin ⟨⟨0, 0, .v 4, .v 8, .v 9, .g 0⟩, 0, 0, 0, .n8, .none, false, false, 0x0⟩) ∧
    decodeTableWord 96 0x801004110842400030000000 = some (.vmax ⟨⟨0, 0, .v 4, .v 8, .v 9, .g 0⟩, 0, 0, 0, .n8, .none, false, false, 0x0⟩) ∧
    decodeTableWord 96 0x80140411080000000C100000 = some (.vabs ⟨⟨0, 0, .v 4, .v 8, .g 0, .g 0⟩, 0, 0, 0, .f16, .none, false, true, 0x0⟩) := by decide

theorem test_decode_op80_1 :
    decodeTableWord 96 0x80180411080000000C100000 = some (.vneg ⟨⟨0, 0, .v 4, .v 8, .g 0, .g 0⟩, 0, 0, 0, .f16, .none, false, true, 0x0⟩) := by decide

theorem test_decode_op81 :
    decodeTableWord 96 0x81010411084250A008000000 = some (.vfma ⟨⟨2, 0, .v 4, .v 8, .v 9, .v 10⟩, 0, 0, 0, .f32, .none, false, false, 0x0⟩) ∧
    decodeTableWord 96 0x81050411084250A008000000 = some (.vfms ⟨⟨2, 0, .v 4, .v 8, .v 9, .v 10⟩, 0, 0, 0, .f32, .none, false, false, 0x0⟩) ∧
    decodeTableWord 96 0x81090411084250A008000000 = some (.vfnma ⟨⟨2, 0, .v 4, .v 8, .v 9, .v 10⟩, 0, 0, 0, .f32, .none, false, false, 0x0⟩) := by decide

theorem test_decode_op82 :
    decodeTableWord 96 0x820204110842400008000000 = some (.vcmp ⟨⟨4, 0, .v 4, .v 8, .v 9, .g 0⟩, 0, 0, 0, .f32, .none, false, false, 0x0⟩) ∧
    decodeTableWord 96 0x82040411084250A02C000000 = some (.vsel ⟨⟨0, 0, .v 4, .v 8, .v 9, .v 10⟩, 0, 0, 0, .i64, .none, false, false, 0x0⟩) ∧
    decodeTableWord 96 0x820804110800000004000000 = some (.vclass ⟨⟨0, 0, .v 4, .v 8, .g 0, .g 0⟩, 0, 0, 0, .f64, .none, false, false, 0x0⟩) := by decide

theorem test_decode_op83 :
    decodeTableWord 96 0x8301841108FFC0000C800001 = some (.vcvt ⟨⟨3, 0, .v 4, .v 8, .lit, .g 0⟩, 0, 0, 0, .f16, .f32, false, false, 0x1⟩) := by decide

theorem test_decode_op84 :
    decodeTableWord 96 0x840084110800000008000000 = some (.vrsum ⟨⟨1, 0, .v 4, .v 8, .g 0, .g 0⟩, 0, 0, 0, .f32, .none, false, false, 0x0⟩) ∧
    decodeTableWord 96 0x840404110800000008000000 = some (.vrmax ⟨⟨0, 0, .v 4, .v 8, .g 0, .g 0⟩, 0, 0, 0, .f32, .none, false, false, 0x0⟩) ∧
    decodeTableWord 96 0x840804110800000008000000 = some (.vrmin ⟨⟨0, 0, .v 4, .v 8, .g 0, .g 0⟩, 0, 0, 0, .f32, .none, false, false, 0x0⟩) := by decide

theorem test_decode_opA0_0 :
    decodeTableWord 96 0xA00004110842400000000000 = some (.vand ⟨⟨0, 0, .v 4, .v 8, .v 9, .g 0⟩, 0, 0, 0, .none, .none, false, false, 0x0⟩) ∧
    decodeTableWord 96 0xA00404110842400000000000 = some (.vor ⟨⟨0, 0, .v 4, .v 8, .v 9, .g 0⟩, 0, 0, 0, .none, .none, false, false, 0x0⟩) ∧
    decodeTableWord 96 0xA00804110842400000000000 = some (.vxor ⟨⟨0, 0, .v 4, .v 8, .v 9, .g 0⟩, 0, 0, 0, .none, .none, false, false, 0x0⟩) ∧
    decodeTableWord 96 0xA00C04110842400000000000 = some (.vandn ⟨⟨0, 0, .v 4, .v 8, .v 9, .g 0⟩, 0, 0, 0, .none, .none, false, false, 0x0⟩) ∧
    decodeTableWord 96 0xA01004110842400034000000 = some (.vshl ⟨⟨0, 0, .v 4, .v 8, .v 9, .g 0⟩, 0, 0, 0, .n16, .none, false, false, 0x0⟩) ∧
    decodeTableWord 96 0xA01404110842400034000000 = some (.vshr ⟨⟨0, 0, .v 4, .v 8, .v 9, .g 0⟩, 0, 0, 0, .n16, .none, false, false, 0x0⟩) := by decide

theorem test_decode_opA0_1 :
    decodeTableWord 96 0xA01804110842400034000000 = some (.vsra ⟨⟨0, 0, .v 4, .v 8, .v 9, .g 0⟩, 0, 0, 0, .n16, .none, false, false, 0x0⟩) := by decide

theorem test_decode_opA1 :
    decodeTableWord 96 0xA10004110842400020000000 = some (.vadds ⟨⟨0, 0, .v 4, .v 8, .v 9, .g 0⟩, 0, 0, 0, .i8, .none, false, false, 0x0⟩) ∧
    decodeTableWord 96 0xA10404110842400020000000 = some (.vsubs ⟨⟨0, 0, .v 4, .v 8, .v 9, .g 0⟩, 0, 0, 0, .i8, .none, false, false, 0x0⟩) ∧
    decodeTableWord 96 0xA10804110842400020000000 = some (.vmulh ⟨⟨0, 0, .v 4, .v 8, .v 9, .g 0⟩, 0, 0, 0, .i8, .none, false, false, 0x0⟩) := by decide

theorem test_decode_opA2 :
    decodeTableWord 96 0xA20004110842400030000000 = some (.vperm ⟨⟨0, 0, .v 4, .v 8, .v 9, .g 0⟩, 0, 0, 0, .n8, .none, false, false, 0x0⟩) ∧
    decodeTableWord 96 0xA204041108FFC00008000003 = some (.vbcast ⟨⟨0, 0, .v 4, .v 8, .lit, .g 0⟩, 0, 0, 0, .f32, .none, false, false, 0x3⟩) ∧
    decodeTableWord 96 0xA208041108FFC00008000003 = some (.vrot ⟨⟨0, 0, .v 4, .v 8, .lit, .g 0⟩, 0, 0, 0, .f32, .none, false, false, 0x3⟩) ∧
    decodeTableWord 96 0xA20C041108427FF008000001 = some (.vzip ⟨⟨0, 0, .v 4, .v 8, .v 9, .lit⟩, 0, 0, 0, .f32, .none, false, false, 0x1⟩) ∧
    decodeTableWord 96 0xA210041108427FF008000001 = some (.vunzip ⟨⟨0, 0, .v 4, .v 8, .v 9, .lit⟩, 0, 0, 0, .f32, .none, false, false, 0x1⟩) ∧
    decodeTableWord 96 0xA21404110842400028000000 = some (.vcomp ⟨⟨0, 0, .v 4, .v 8, .v 9, .g 0⟩, 0, 0, 0, .i32, .none, false, false, 0x0⟩) := by decide

theorem test_decode_opA3 :
    decodeTableWord 96 0xA300001508FFC00008000002 = some (.vext ⟨⟨0, 0, .g 5, .v 8, .lit, .g 0⟩, 0, 0, 0, .f32, .none, false, false, 0x2⟩) ∧
    decodeTableWord 96 0xA304041005FFC00008000002 = some (.vins ⟨⟨0, 0, .v 4, .g 5, .lit, .g 0⟩, 0, 0, 0, .f32, .none, false, false, 0x2⟩) ∧
    decodeTableWord 96 0xA30804110800000000000000 = some (.vmov ⟨⟨0, 0, .v 4, .v 8, .g 0, .g 0⟩, 0, 0, 0, .none, .none, false, false, 0x0⟩) ∧
    decodeTableWord 96 0xA30C00150800000008000000 = some (.vsign ⟨⟨0, 0, .g 5, .v 8, .g 0, .g 0⟩, 0, 0, 0, .f32, .none, false, false, 0x0⟩) ∧
    decodeTableWord 96 0xA31004100000000008000000 = some (.vrand ⟨⟨0, 0, .v 4, .g 0, .g 0, .g 0⟩, 0, 0, 0, .f32, .none, false, false, 0x0⟩) := by decide

theorem test_decode_opB0 :
    decodeTableWord 96 0xB00004110842400008200000 = some (.div ⟨⟨0, 0, .v 4, .v 8, .v 9, .g 0⟩, 0, 0, 0, .f32, .none, true, false, 0x0⟩) ∧
    decodeTableWord 96 0xB00404110800000004000000 = some (.sqrt ⟨⟨0, 0, .v 4, .v 8, .g 0, .g 0⟩, 0, 0, 0, .f64, .none, false, false, 0x0⟩) := by decide

theorem test_decode_opB1 :
    decodeTableWord 96 0xB10004110800000004000000 = some (.rcp ⟨⟨0, 0, .v 4, .v 8, .g 0, .g 0⟩, 0, 0, 0, .f64, .none, false, false, 0x0⟩) ∧
    decodeTableWord 96 0xB10404110800000004000000 = some (.rsq ⟨⟨0, 0, .v 4, .v 8, .g 0, .g 0⟩, 0, 0, 0, .f64, .none, false, false, 0x0⟩) := by decide

theorem test_decode_opB2 :
    decodeTableWord 96 0xB20004110800000004000000 = some (.exp ⟨⟨0, 0, .v 4, .v 8, .g 0, .g 0⟩, 0, 0, 0, .f64, .none, false, false, 0x0⟩) ∧
    decodeTableWord 96 0xB20404110800000004000000 = some (.expB2 ⟨⟨0, 0, .v 4, .v 8, .g 0, .g 0⟩, 0, 0, 0, .f64, .none, false, false, 0x0⟩) ∧
    decodeTableWord 96 0xB20804110800000004000000 = some (.log ⟨⟨0, 0, .v 4, .v 8, .g 0, .g 0⟩, 0, 0, 0, .f64, .none, false, false, 0x0⟩) ∧
    decodeTableWord 96 0xB20C04110800000004000000 = some (.logB2 ⟨⟨0, 0, .v 4, .v 8, .g 0, .g 0⟩, 0, 0, 0, .f64, .none, false, false, 0x0⟩) := by decide

theorem test_decode_opB3 :
    decodeTableWord 96 0xB30004110800000004000000 = some (.sin ⟨⟨0, 0, .v 4, .v 8, .g 0, .g 0⟩, 0, 0, 0, .f64, .none, false, false, 0x0⟩) ∧
    decodeTableWord 96 0xB30404110800000004000000 = some (.cos ⟨⟨0, 0, .v 4, .v 8, .g 0, .g 0⟩, 0, 0, 0, .f64, .none, false, false, 0x0⟩) := by decide

theorem test_decode_opB4 :
    decodeTableWord 96 0xB40004110800000010000000 = some (.tanh ⟨⟨0, 0, .v 4, .v 8, .g 0, .g 0⟩, 0, 0, 0, .bf16, .none, false, false, 0x0⟩) ∧
    decodeTableWord 96 0xB40404110800000010000000 = some (.tanhSig ⟨⟨0, 0, .v 4, .v 8, .g 0, .g 0⟩, 0, 0, 0, .bf16, .none, false, false, 0x0⟩) ∧
    decodeTableWord 96 0xB40804110800000008000000 = some (.erf ⟨⟨0, 0, .v 4, .v 8, .g 0, .g 0⟩, 0, 0, 0, .f32, .none, false, false, 0x0⟩) := by decide

theorem test_decode_opC0 :
    decodeTableWord 96 0xC00002044218000700000000 = some (.mma ⟨⟨0, 0, .z 1, .t 2, .t 32, .g 0⟩, .m4, .none, 0, 0x0⟩) ∧
    decodeTableWord 96 0xC00502044218000500100000 = some (.mmaS ⟨⟨2, 0, .z 1, .t 2, .t 32, .g 0⟩, .e4m3, .none, 1, 0x0⟩) ∧
    decodeTableWord 96 0xC00882004210C00100100000 = some (.dmma ⟨⟨1, 0, .z 0, .t 2, .t 3, .g 0⟩, .f64, .none, 1, 0x0⟩) := by decide

theorem test_decode_opC1 :
    decodeTableWord 96 0xC100020482017FE000120001 = some (.mscale ⟨⟨0, 0, .z 1, .z 2, .g 5, .win⟩, .none, .none, 1, 0x20001⟩) ∧
    decodeTableWord 96 0xC104020C0000000000000000 = some (.mzero ⟨⟨0, 0, .z 3, .g 0, .g 0, .g 0⟩, .none, .none, 0, 0x0⟩) ∧
    decodeTableWord 96 0xC108020C0000000000100005 = some (.mflags ⟨⟨0, 0, .z 3, .g 0, .g 0, .g 0⟩, .none, .none, 1, 0x5⟩) := by decide

theorem test_decode_opC2 :
    decodeTableWord 96 0xC20000008203400000000005 = some (.mdrain ⟨⟨0, 0, .g 0, .z 2, .g 13, .g 0⟩, .none, .none, 0, 0x5⟩) := by decide

theorem test_decode_opC3 :
    decodeTableWord 96 0xC30001080301000000000000 = some (.mload ⟨⟨0, 0, .t 2, .g 3, .g 4, .g 0⟩, .none, .none, 0, 0x0⟩) ∧
    decodeTableWord 96 0xC30400000301042000000000 = some (.mstore ⟨⟨0, 0, .g 0, .g 3, .g 4, .t 2⟩, .none, .none, 0, 0x0⟩) ∧
    decodeTableWord 96 0xC30801084300000000000000 = some (.mxpose ⟨⟨0, 0, .t 2, .t 3, .g 0, .g 0⟩, .none, .none, 0, 0x0⟩) ∧
    decodeTableWord 96 0xC30E01088300000420100000 = some (.mcvt ⟨⟨4, 0, .t 2, .z 3, .g 0, .g 0⟩, .bf16, .f32, 1, 0x0⟩) := by decide

theorem test_decode_opD0 :
    decodeTableWord 96 0xD00000140300000000000000 = some (.gatt ⟨⟨0, 0, .g 5, .g 3, .g 0, .g 0⟩, 0, 0, 0, .none, .none, false, false, 0x0⟩) ∧
    decodeTableWord 96 0xD00400140300000000000000 = some (.gdet ⟨⟨0, 0, .g 5, .g 3, .g 0, .g 0⟩, 0, 0, 0, .none, .none, false, false, 0x0⟩) := by decide

theorem test_decode_opD1 :
    decodeTableWord 96 0xD10084400400000004000000 = some (.gbel ⟨⟨1, 0, .v 16, .g 4, .g 0, .g 0⟩, 0, 0, 0, .f64, .none, false, false, 0x0⟩) ∧
    decodeTableWord 96 0xD104044004FFC00004000001 = some (.gcomb ⟨⟨0, 0, .v 16, .g 4, .lit, .g 0⟩, 0, 0, 0, .f64, .none, false, false, 0x1⟩) ∧
    decodeTableWord 96 0xD108044114FFC00004000002 = some (.gmarg ⟨⟨0, 0, .v 16, .v 20, .lit, .g 0⟩, 0, 0, 0, .f64, .none, false, false, 0x2⟩) ∧
    decodeTableWord 96 0xD10C04411401000004000000 = some (.gdamp ⟨⟨0, 0, .v 16, .v 20, .g 4, .g 0⟩, 0, 0, 0, .f64, .none, false, false, 0x0⟩) := by decide

theorem test_decode_opD2 :
    decodeTableWord 96 0xD20000000444000008000000 = some (.gsend ⟨⟨0, 0, .g 0, .g 4, .v 16, .g 0⟩, 0, 0, 0, .f32, .none, false, false, 0x0⟩) ∧
    decodeTableWord 96 0xD20400151001000008000000 = some (.gres ⟨⟨0, 0, .g 5, .v 16, .g 4, .g 0⟩, 0, 0, 0, .f32, .none, false, false, 0x0⟩) ∧
    decodeTableWord 96 0xD20804411400000004000000 = some (.gmean ⟨⟨0, 0, .v 16, .v 20, .g 0, .g 0⟩, 0, 0, 0, .f64, .none, false, false, 0x0⟩) := by decide

theorem test_decode_opD3 :
    decodeTableWord 96 0xD300001404FFC0000000001F = some (.gcut ⟨⟨0, 0, .g 5, .g 4, .lit, .g 0⟩, 0, 0, 0, .none, .none, false, false, 0x1f⟩) ∧
    decodeTableWord 96 0xD30400140401800000000000 = some (.gcutrd ⟨⟨0, 0, .g 5, .g 4, .g 6, .g 0⟩, 0, 0, 0, .none, .none, false, false, 0x0⟩) ∧
    decodeTableWord 96 0xD308001400FFC00000000004 = some (.cvrd ⟨⟨0, 0, .g 5, .g 0, .lit, .g 0⟩, 0, 0, 0, .none, .none, false, false, 0x4⟩) := by decide

theorem test_decode_opE0 :
    decodeTableWord 96 0xE00000140300000180000000 = some (.cdef ⟨⟨0, 0, .g 5, .g 3, .g 0, .g 0⟩, false, 3, 0, 0, .none, 0x0⟩) ∧
    decodeTableWord 96 0xE00400140000000180000004 = some (.cswap ⟨⟨0, 0, .g 5, .g 0, .g 0, .g 0⟩, false, 3, 0, 0, .none, 0x4⟩) ∧
    decodeTableWord 96 0xE00800140000000181000002 = some (.cstat ⟨⟨0, 0, .g 5, .g 0, .g 0, .g 0⟩, false, 3, 0, 1, .none, 0x2⟩) := by decide

theorem test_decode_opE1 :
    decodeTableWord 96 0xE10000140301000180000000 = some (.cins ⟨⟨0, 0, .g 5, .g 3, .g 4, .g 0⟩, false, 3, 0, 0, .none, 0x0⟩) ∧
    decodeTableWord 96 0xE10400140301000180000000 = some (.cdel ⟨⟨0, 0, .g 5, .g 3, .g 4, .g 0⟩, false, 3, 0, 0, .none, 0x0⟩) := by decide

theorem test_decode_opE2 :
    decodeTableWord 96 0xE20000140301000000000000 = some (.cprobe ⟨⟨0, 0, .g 5, .g 3, .g 4, .g 0⟩, false, 0, 0, 0, .none, 0x0⟩) ∧
    decodeTableWord 96 0xE20400140300000180000000 = some (.clook ⟨⟨0, 0, .g 5, .g 3, .g 0, .g 0⟩, false, 3, 0, 0, .none, 0x0⟩) := by decide

theorem test_decode_opE3 :
    decodeTableWord 96 0xE30000140301000180000000 = some (.crehash ⟨⟨0, 0, .g 5, .g 3, .g 4, .g 0⟩, false, 3, 0, 0, .none, 0x0⟩) ∧
    decodeTableWord 96 0xE30400000000000000000000 = some (.cfence ⟨⟨0, 0, .g 0, .g 0, .g 0, .g 0⟩, false, 0, 0, 0, .none, 0x0⟩) := by decide

theorem test_decode_opE8 :
    decodeTableWord 96 0xE80001080301000C8000003F = some (.hcopy ⟨⟨0, 0, .t 2, .g 3, .g 4, .g 0⟩, true, 9, 0, 0, .none, 0x3f⟩) := by decide

theorem test_decode_opE9 :
    decodeTableWord 96 0xE90001080301000C8000003F = some (.hgath ⟨⟨0, 0, .t 2, .g 3, .g 4, .g 0⟩, true, 9, 0, 0, .none, 0x3f⟩) ∧
    decodeTableWord 96 0xE90400000301042480000000 = some (.hscat ⟨⟨0, 0, .g 0, .g 3, .g 4, .t 2⟩, false, 9, 0, 0, .none, 0x0⟩) := by decide

theorem test_decode_opEA :
    decodeTableWord 96 0xEA0000000300042480000000 = some (.hpack ⟨⟨0, 0, .g 0, .g 3, .g 0, .t 2⟩, false, 9, 0, 0, .none, 0x0⟩) ∧
    decodeTableWord 96 0xEA0401080300000C80000000 = some (.hunpk ⟨⟨0, 0, .t 2, .g 3, .g 0, .g 0⟩, true, 9, 0, 0, .none, 0x0⟩) := by decide

theorem test_decode_opEB :
    decodeTableWord 96 0xEB0000144200000000000000 = some (.hwait ⟨⟨0, 0, .g 5, .t 2, .g 0, .g 0⟩, false, 0, 0, 0, .none, 0x0⟩) ∧
    decodeTableWord 96 0xEB0400140000000480000000 = some (.hcancel ⟨⟨0, 0, .g 5, .g 0, .g 0, .g 0⟩, false, 9, 0, 0, .none, 0x0⟩) := by decide

/-! ### Well-formedness: for each check of R49 to R60, terms that break it alone -/

/-- Registers of the wrong kind, markers where none may stand, two markers, and p0 or g0 as a destination (R17, R49, R73,
R75, R161). -/
theorem test_wf_registers : ∀ i ∈ ([
    .nop ⟨⟨0, 0, .g 1, .g 0, .g 0, .g 0⟩, 0⟩, .add ⟨⟨0, 0, .p 1, .g 2, .g 3, .g 0⟩, 0⟩, .add ⟨⟨0, 0, .g 1, .v 2, .g 3, .g 0⟩, 0⟩,
    .add ⟨⟨0, 0, .g 1, .lit, .win, .g 0⟩, 0⟩, .add ⟨⟨0, 0, .g 1, .g 2, .g 3, .g 4⟩, 0⟩, .clz ⟨⟨0, 0, .g 1, .g 2, .g 3, .g 0⟩, 0⟩,
    .cmp ⟨⟨0, 0, .p 0, .g 2, .g 3, .g 0⟩, 0⟩, .sel ⟨⟨0, 0, .g 1, .g 2, .g 3, .g 4⟩, 0⟩, .lea ⟨⟨0, 0, .g 1, .p 2, .g 3, .lit⟩, 3⟩,
    .pand ⟨⟨0, 0, .p 0, .p 1, .p 2, .g 0⟩, 0⟩, .loop ⟨⟨0, 0, .g 0, .g 0, .g 0, .g 0⟩, 0⟩, .jmp ⟨⟨0, 0, .g 0, .p 1, .g 0, .g 0⟩, 0⟩,
    .qpop ⟨⟨0, 0, .g 1, .q 6, .g 0, .g 0⟩, 0⟩, .streamBind ⟨⟨0, 0, .q 1, .g 1, .g 0, .g 0⟩, 0⟩, .tset ⟨⟨0, 0, .g 1, .g 2, .g 0, .g 0⟩, 0x440000000⟩,
    .srd ⟨⟨0, 0, .g 1, .sys 0x021, .g 0, .g 0⟩, 0⟩, .swr ⟨⟨0, 0, .sys 0x012, .g 1, .g 0, .g 0⟩, 0⟩,
    .viewRegisterWrite ⟨⟨0, 0, .sys 0x011, .g 1, .g 0, .g 0⟩, 0⟩, .sclbaseWrite ⟨⟨0, 0, .sys 0x01C, .g 1, .g 0, .g 0⟩, 0⟩,
    .flagRegisterWrite ⟨⟨0, 0, .sys 0x017, .g 1, .g 0, .g 0⟩, 0⟩] : List Instr), ¬ i.WellFormed := by decide

/-- RM outside what the form takes, and a literal or window EXT that does not fit (R52, R53). -/
theorem test_wf_scalar_fields : ∀ i ∈ ([
    .add ⟨⟨1, 0, .g 1, .g 2, .g 3, .g 0⟩, 0⟩, .add ⟨⟨0, 0, .g 1, .g 2, .g 3, .g 0⟩, 1⟩, .add ⟨⟨0, 0, .g 1, .g 2, .win, .g 0⟩, 0x100000⟩,
    .cmp ⟨⟨6, 0, .p 1, .g 2, .g 3, .g 0⟩, 0⟩, .sel ⟨⟨2, 0, .g 1, .p 1, .g 3, .g 4⟩, 0⟩, .ret ⟨⟨0, 0, .g 0, .g 0, .g 0, .g 0⟩, 1⟩,
    .trapc ⟨⟨0, 0, .g 0, .g 5, .g 0, .g 0⟩, 0x80⟩, .trapret ⟨⟨1, 0, .g 0, .g 0, .g 0, .g 0⟩, 0⟩,
    .br ⟨⟨0, 0, .g 0, .g 0, .g 0, .g 0⟩, 5⟩, .brl ⟨⟨0, 0, .g 31, .g 0, .g 0, .g 0⟩, 0xF⟩, .phead ⟨⟨0, 0, .g 4, .g 0, .g 0, .g 0⟩, 8⟩,
    .ptail ⟨⟨0, 0, .g 4, .g 0, .g 0, .g 0⟩, 0⟩, .pcnt ⟨⟨0, 0, .g 4, .g 0, .g 0, .g 0⟩, 0x10⟩, .idem ⟨⟨0, 0, .g 0, .g 0, .g 0, .g 0⟩, 1⟩,
    .xloop ⟨⟨0, 0, .g 0, .g 2, .g 0, .g 0⟩, 0x8000⟩, .ldc ⟨⟨0, 0, .g 1, .win, .g 2, .g 0⟩, 0x100000⟩] : List Instr), ¬ i.WellFormed := by
  decide

/-- The pool, view, tile and register forms (R102, R103, R111, R118, R121). -/
theorem test_wf_pool_fields : ∀ i ∈ ([
    .poolset ⟨⟨0, 0, .g 9, .g 0, .g 0, .g 0⟩, 0x248⟩, .poolset ⟨⟨0, 0, .g 9, .g 0, .g 0, .g 0⟩, 0x348⟩,
    .poolset ⟨⟨0, 0, .g 9, .g 0, .g 0, .g 0⟩, 0xA08⟩, .poolsetWait ⟨⟨0, 0, .g 9, .g 0, .g 0, .g 0⟩, 0x300⟩,
    .poolset ⟨⟨0, 0, .g 9, .g 0, .g 0, .g 0⟩, 0x1308⟩, .poolrd ⟨⟨0, 0, .g 9, .g 0, .g 0, .g 0⟩, 0xA00⟩,
    .viewSet ⟨⟨0, 0, .g 0, .g 0, .g 0, .g 0⟩, 0⟩, .viewSet ⟨⟨0, 0, .g 0, .g 0, .g 0, .g 0⟩, 0x20200000⟩,
    .viewSet ⟨⟨0, 0, .g 0, .g 0, .g 0, .g 0⟩, 0x800200001⟩, .viewSet ⟨⟨0, 0, .g 0, .g 0, .g 0, .g 0⟩, 0xC00200000⟩,
    .viewSet ⟨⟨0, 0, .g 0, .g 0, .g 0, .g 0⟩, 0x204000⟩, .viewClr ⟨⟨0, 0, .g 0, .g 0, .g 0, .g 0⟩, 0xC00000000⟩,
    .tset ⟨⟨0, 0, .t 1, .g 2, .g 0, .g 0⟩, 0⟩, .tset ⟨⟨0, 0, .t 1, .g 2, .g 0, .g 0⟩, 0x840000000⟩,
    .tset ⟨⟨0, 0, .t 1, .g 2, .g 0, .g 0⟩, 0x240000000⟩, .winSet ⟨⟨0, 0, .g 0, .g 1, .g 0, .g 0⟩, 8⟩,
    .hwmSet ⟨⟨0, 0, .g 0, .win, .g 0, .g 0⟩, 0⟩] : List Instr), ¬ i.WellFormed := by decide

/-- Class M: formats, order, scope, ZF, ranges and register pairs (R54, R174, R181, R182, R186, R293, R294). -/
theorem test_wf_memory : ∀ i ∈ ([
    .ld ⟨⟨0, 0, .g 1, .g 2, .g 3, .g 0⟩, .none, false, 0, 0, false, 0⟩, .ld ⟨⟨0, 0, .g 1, .g 2, .g 3, .g 0⟩, .m4, false, 0, 0, false, 0⟩,
    .ld ⟨⟨0, 0, .g 1, .g 2, .g 3, .g 0⟩, .n64, false, 2, 0, false, 0⟩, .ld ⟨⟨0, 0, .g 1, .g 2, .g 3, .g 0⟩, .n64, true, 0, 0, false, 0⟩,
    .ld ⟨⟨0, 0, .g 1, .g 2, .g 3, .g 0⟩, .n64, false, 0, 1, false, 0⟩, .ld ⟨⟨0, 0, .g 1, .g 2, .g 3, .g 0⟩, .n64, false, 0, 0, true, 0⟩,
    .st ⟨⟨0, 0, .g 0, .g 2, .g 3, .g 4⟩, .n64, false, 1, 0, false, 0⟩, .st ⟨⟨0, 0, .g 0, .g 2, .g 3, .q 0⟩, .n64, false, 0, 0, false, 0⟩,
    .ldm ⟨⟨0, 0, .g 4, .g 1, .g 12, .g 0⟩, .none, false, 0, 0, false, 0⟩, .ldm ⟨⟨0, 0, .g 4, .g 1, .g 3, .g 0⟩, .none, false, 0, 0, false, 0⟩,
    .stm ⟨⟨0, 0, .g 0, .g 1, .g 12, .g 4⟩, .none, false, 0, 0, false, 0⟩, .stm ⟨⟨0, 0, .g 0, .g 1, .g 4, .g 4⟩, .n64, false, 0, 0, false, 0⟩,
    .iget ⟨⟨0, 0, .g 1, .g 2, .g 3, .g 0⟩, .f32, false, 0, 0, false, 0⟩, .iput ⟨⟨0, 0, .g 0, .g 2, .g 3, .q 1⟩, .m4, false, 0, 0, false, 0⟩,
    .fence ⟨⟨0, 0, .g 0, .g 0, .g 0, .g 0⟩, .none, false, 0, 0, false, 0⟩, .fence ⟨⟨0, 0, .g 0, .g 0, .g 0, .g 0⟩, .none, false, 0, 5, false, 0⟩,
    .scnt ⟨⟨0, 0, .g 1, .g 0, .g 0, .g 0⟩, .none, false, 0, 0, false, 1⟩,
    .amoAdd ⟨⟨0, 0, .g 0, .g 1, .g 0, .g 4⟩, .n32, false, 0, 2, true, 0⟩, .amoAnd ⟨⟨0, 0, .g 0, .g 1, .g 0, .g 4⟩, .n64, false, 0, 2, true, 0⟩,
    .amoAdd ⟨⟨0, 0, .g 0, .g 1, .g 0, .g 4⟩, .n16, false, 0, 2, false, 0⟩, .amoAdd ⟨⟨0, 0, .g 0, .g 1, .g 0, .g 4⟩, .n64, false, 1, 2, false, 0⟩,
    .amoFadd ⟨⟨5, 0, .g 0, .g 1, .g 0, .g 4⟩, .f32, false, 0, 2, false, 0⟩, .amoFadd ⟨⟨0, 0, .g 0, .g 1, .g 0, .g 4⟩, .f16, false, 0, 2, false, 0⟩,
    .amofAdd ⟨⟨0, 0, .g 1, .g 1, .g 0, .g 4⟩, .n64, false, 3, 2, false, 0⟩, .amoUAdd ⟨⟨0, 0, .g 0, .g 1, .g 0, .g 4⟩, .n64, false, 0, 2, false, 0⟩,
    .cas ⟨⟨0, 0, .g 1, .g 2, .g 3, .g 4⟩, .f64, false, 0, 2, false, 0⟩, .casw ⟨⟨0, 0, .g 3, .g 2, .g 1, .g 4⟩, .n64, false, 0, 2, false, 0⟩,
    .casw ⟨⟨0, 0, .g 0, .g 2, .g 1, .g 4⟩, .n64, false, 0, 2, false, 0⟩, .casw ⟨⟨0, 0, .g 4, .g 2, .g 1, .g 5⟩, .n64, false, 0, 2, false, 0⟩,
    .bar ⟨⟨0, 0, .g 1, .g 2, .g 0, .g 0⟩, .none, false, 0, 0, false, 0⟩, .pref ⟨⟨1, 0, .g 0, .g 2, .g 0, .g 0⟩, .none, false, 0, 0, false, 0⟩] :
      List Instr), ¬ i.WellFormed := by decide

/-- Class X: destinations, sources, gang offsets, formats, RM, trap bits and W (R52, R56, R190, R192, R193, R201 to R209,
R237). -/
theorem test_wf_vector : ∀ i ∈ ([
    .vadd ⟨⟨0, 0, .q 0, .v 1, .v 2, .g 0⟩, 0, 0, 0, .f32, .none, false, false, 0⟩, .vadd ⟨⟨0, 0, .v 3, .q 1, .v 2, .g 0⟩, 0, 0, 0, .f32, .none, false, false, 0⟩,
    .vadd ⟨⟨0, 0, .v 3, .v 1, .g 2, .g 0⟩, 0, 1, 0, .f32, .none, false, false, 0⟩, .vadd ⟨⟨7, 0, .v 3, .v 1, .v 2, .g 0⟩, 0, 0, 0, .f32, .none, false, false, 0⟩,
    .vadd ⟨⟨0, 0, .v 3, .v 1, .lit, .g 0⟩, 0, 0, 0, .f32, .none, false, false, 0⟩, .vadd ⟨⟨0, 0, .v 3, .v 1, .v 2, .g 0⟩, 0, 0, 0, .f32, .f32, false, false, 0⟩,
    .vadd ⟨⟨0, 0, .v 3, .v 1, .v 2, .g 0⟩, 0, 0, 0, .i32, .none, true, false, 0⟩, .vadd ⟨⟨1, 0, .v 3, .v 1, .v 2, .g 0⟩, 0, 0, 0, .i32, .none, false, false, 0⟩,
    .vadd ⟨⟨0, 0, .v 3, .v 1, .v 2, .g 0⟩, 0, 0, 0, .f32, .none, false, false, 1⟩, .vadd ⟨⟨0, 0, .v 3, .v 1, .v 2, .g 0⟩, 0, 0, 0, .m4, .none, false, false, 0⟩,
    .vfma ⟨⟨0, 0, .v 3, .v 1, .v 2, .v 4⟩, 0, 0, 0, .i32, .none, false, false, 0⟩, .vneg ⟨⟨0, 0, .v 3, .v 1, .g 0, .g 0⟩, 0, 0, 0, .n32, .none, false, false, 0⟩,
    .vcmp ⟨⟨5, 0, .v 3, .v 1, .v 2, .g 0⟩, 0, 0, 0, .f32, .none, false, false, 0⟩, .vcmp ⟨⟨6, 0, .v 3, .v 1, .v 2, .g 0⟩, 0, 0, 0, .n32, .none, false, false, 0⟩,
    .vcvt ⟨⟨0, 0, .v 3, .v 1, .g 0, .g 0⟩, 0, 0, 0, .f32, .f32, false, false, 0⟩, .vcvt ⟨⟨1, 0, .v 3, .v 1, .g 0, .g 0⟩, 0, 0, 0, .f64, .f32, false, false, 0⟩,
    .vand ⟨⟨0, 0, .v 3, .v 1, .v 2, .g 0⟩, 0, 0, 0, .n32, .none, false, false, 0⟩, .vshl ⟨⟨0, 0, .v 3, .v 1, .v 2, .g 0⟩, 0, 0, 0, .f32, .none, false, false, 0⟩,
    .vbcast ⟨⟨0, 0, .v 3, .g 1, .g 2, .g 0⟩, 0, 0, 0, .n32, .none, false, false, 0⟩, .vext ⟨⟨0, 0, .v 3, .v 1, .g 2, .g 0⟩, 0, 0, 0, .n32, .none, false, false, 0⟩,
    .vins ⟨⟨0, 0, .q 1, .g 1, .g 2, .g 0⟩, 0, 0, 0, .n32, .none, false, false, 0⟩, .vrand ⟨⟨0, 0, .v 3, .g 0, .g 0, .g 0⟩, 0, 0, 0, .f16, .none, false, false, 0⟩,
    .tanh ⟨⟨0, 0, .v 3, .v 1, .g 0, .g 0⟩, 0, 0, 0, .f64, .none, false, false, 0⟩, .erf ⟨⟨0, 0, .v 3, .v 1, .g 0, .g 0⟩, 0, 0, 0, .bf16, .none, false, false, 0⟩,
    .gbel ⟨⟨0, 0, .v 17, .g 4, .g 0, .g 0⟩, 0, 0, 0, .f32, .none, false, false, 0⟩, .gbel ⟨⟨5, 0, .v 16, .g 4, .g 0, .g 0⟩, 0, 0, 0, .f32, .none, false, false, 0⟩,
    .gcomb ⟨⟨0, 0, .v 16, .g 4, .lit, .g 0⟩, 0, 0, 0, .f16, .none, false, false, 1⟩, .gmarg ⟨⟨0, 0, .v 16, .v 4, .lit, .g 0⟩, 0, 0, 0, .f32, .none, false, false, 4⟩,
    .gcut ⟨⟨0, 0, .g 1, .g 2, .lit, .g 0⟩, 0, 0, 0, .none, .none, false, false, 32⟩, .cvrd ⟨⟨0, 0, .g 1, .g 0, .lit, .g 0⟩, 0, 0, 0, .none, .none, false, false, 6⟩] :
      List Instr), ¬ i.WellFormed := by decide

/-- Class T: formats, options, RM and W (R57, R217 to R226). -/
theorem test_wf_matrix : ∀ i ∈ ([
    .mma ⟨⟨7, 0, .z 1, .t 2, .t 3, .g 0⟩, .f16, .none, 0, 0⟩, .mma ⟨⟨0, 0, .z 1, .t 2, .t 3, .g 0⟩, .f64, .none, 0, 0⟩, .mma ⟨⟨0, 0, .z 1, .t 2, .t 3, .g 0⟩, .f16, .none, 1, 0⟩,
    .mmaS ⟨⟨0, 0, .z 1, .t 2, .t 3, .g 0⟩, .f32, .none, 0, 0⟩, .dmma ⟨⟨0, 0, .z 1, .t 2, .t 3, .g 0⟩, .f64, .none, 2, 0⟩,
    .mscale ⟨⟨0, 0, .z 1, .z 2, .g 3, .g 4⟩, .none, .none, 4, 0⟩, .mscale ⟨⟨0, 0, .z 1, .z 2, .win, .win⟩, .none, .none, 0, 0⟩,
    .mzero ⟨⟨0, 0, .z 1, .g 1, .g 0, .g 0⟩, .none, .none, 0, 0⟩, .mflags ⟨⟨0, 0, .z 1, .g 0, .g 0, .g 0⟩, .none, .none, 0, 16⟩,
    .mdrain ⟨⟨0, 0, .g 0, .z 1, .g 2, .g 0⟩, .none, .none, 0, 32⟩, .mload ⟨⟨0, 0, .t 1, .g 1, .g 2, .g 0⟩, .none, .none, 0, 1⟩,
    .mcvt ⟨⟨0, 0, .t 1, .z 1, .g 0, .g 0⟩, .m4, .f32, 0, 0⟩, .mcvt ⟨⟨1, 0, .t 1, .z 1, .g 0, .g 0⟩, .f32, .f32, 0, 0⟩,
    .mcvt ⟨⟨0, 0, .t 1, .z 1, .g 0, .g 0⟩, .f16, .f16, 0, 0⟩] : List Instr), ¬ i.WellFormed := by decide

/-- Class E: each command field, the payload range of SEND, the depth of a mailbox and the targets (R43, R58, R302 to R342). -/
theorem test_wf_commands : ∀ i ∈ ([
    .fork ⟨⟨0, 0, .g 0, .g 20, .g 0, .g 0⟩, 5, 0⟩, .join ⟨⟨0, 0, .g 0, .g 20, .g 0, .g 0⟩, 0, 1⟩, .rfork ⟨⟨0, 0, .g 0, .g 20, .g 2, .g 0⟩, 0, 7⟩,
    .futNew ⟨⟨0, 0, .g 1, .g 1, .g 0, .g 0⟩, false, 0, 0, 0, .none, 0⟩, .dqcnt ⟨⟨0, 0, .g 1, .g 0, .g 0, .g 0⟩, true, 0, 0, 0, .none, 0⟩,
    .futGet ⟨⟨0, 0, .g 1, .g 2, .g 0, .g 0⟩, false, 1, 0, 0, .none, 0⟩, .evt ⟨⟨0, 0, .g 0, .g 2, .g 0, .g 0⟩, false, 0, 1, 0, .none, 0⟩,
    .wfe ⟨⟨0, 0, .g 1, .g 2, .g 3, .g 0⟩, false, 0, 0, 1, .none, 0⟩, .gangOn ⟨⟨0, 0, .g 1, .g 0, .g 0, .g 0⟩, false, 0, 0, 0, .n64, 0⟩,
    .mbxBind ⟨⟨0, 0, .g 1, .g 2, .g 0, .g 0⟩, false, 0, 0, 0, .none, 3⟩, .mbxBind ⟨⟨0, 0, .g 1, .g 2, .g 0, .g 0⟩, false, 0, 0, 0, .none, 0x2020⟩,
    .mbxFree ⟨⟨0, 0, .g 1, .g 0, .g 0, .g 0⟩, false, 0, 0, 0, .none, 32⟩, .mbxrd ⟨⟨0, 0, .g 1, .g 0, .g 0, .g 0⟩, false, 0, 0, 0, .none, 8⟩,
    .send ⟨⟨0, 0, .g 0, .g 1, .g 4, .g 3⟩, false, 0, 2, 0, .none, 0⟩, .send ⟨⟨0, 0, .g 0, .g 1, .g 4, .g 11⟩, false, 0, 2, 0, .none, 0⟩,
    .send ⟨⟨0, 0, .g 0, .g 1, .g 4, .g 5⟩, false, 0, 0, 0, .none, 0⟩, .tlbi ⟨⟨0, 0, .g 0, .g 1, .g 4, .g 5⟩, false, 0, 0, 0, .none, 0⟩,
    .rgnSet ⟨⟨0, 0, .g 1, .g 2, .g 3, .g 0⟩, false, 0, 0, 2, .none, 0⟩, .rgnSet ⟨⟨0, 0, .g 1, .g 2, .g 3, .g 0⟩, false, 0, 0, 0, .none, 16⟩,
    .preemptRegion ⟨⟨0, 0, .g 1, .g 2, .g 0, .g 0⟩, false, 0, 0, 0, .none, 0⟩, .cswap ⟨⟨0, 0, .g 1, .g 0, .g 0, .g 0⟩, false, 3, 0, 0, .none, 3⟩,
    .cstat ⟨⟨0, 0, .g 1, .g 0, .g 0, .g 0⟩, false, 3, 0, 1, .none, 6⟩, .cstat ⟨⟨0, 0, .g 1, .g 0, .g 0, .g 0⟩, false, 3, 0, 0, .none, 8⟩,
    .cprobe ⟨⟨0, 0, .g 1, .g 2, .g 3, .g 0⟩, false, 1, 0, 0, .none, 0⟩, .cins ⟨⟨0, 0, .g 1, .g 2, .g 3, .g 0⟩, true, 1, 0, 0, .none, 0⟩,
    .hcopy ⟨⟨0, 0, .g 5, .g 2, .g 3, .g 0⟩, true, 1, 0, 0, .none, 0⟩, .hcopy ⟨⟨0, 0, .t 5, .g 2, .g 3, .g 4⟩, false, 1, 0, 0, .none, 0⟩,
    .hcopy ⟨⟨5, 0, .t 5, .g 2, .g 3, .g 4⟩, false, 1, 0, 1, .none, 0⟩, .hgath ⟨⟨0, 0, .t 5, .g 2, .g 3, .g 0⟩, false, 1, 0, 0, .none, 64⟩,
    .hwait ⟨⟨0, 0, .g 5, .t 2, .g 0, .g 0⟩, false, 1, 0, 1, .none, 0⟩, .hcancel ⟨⟨0, 0, .g 5, .g 0, .g 0, .g 0⟩, false, 1, 0, 0, .none, 1⟩] :
      List Instr), ¬ i.WellFormed := by decide

/-- The machine's own acts are no instruction words. -/
theorem test_wf_acts : ∀ i ∈ ([.lineFetch 0 0 0, .trapEntry 0 0, .storeAck 0, .powerUp 0, .linkFail 0 0, .dmRoundComplete 0] :
    List Instr), ¬ i.WellFormed := by decide

/-- The decoder names each refusal: the illegal OP, a reserved register code, an unassigned pair, a bad field and a short
slot (R47, R48, R60). The words are laid out field by field from R47: ADD with the reserved code 0x030 in D; OP 0x01 with
FN 0x09, which has no instruction; OP 0x05, which has none; ADD with RM 1; ADD with a v register in D; FENCE with the reserved
SCOPE 5; POOLSET with TO = FROM. -/
theorem test_decode_refusals :
    decode 0xFFFFFFFFFFFFFFFFFFFFFFFF = .error .permanentlyIllegal ∧
    decode 0x010000C00200C00000000000 = .error .reservedRegister ∧
    decode 0x0124001C0200C00000000000 = .error .unassigned ∧ decode 0x0500001C0200C00000000000 = .error .unassigned ∧
    decode 0x0100801C0200C00000000000 = .error .badField ∧ decode 0x0100041C0200C00000000000 = .error .badField ∧
    decode 0x500000000000000014000000 = .error .badField ∧ decode 0x700000240000000000000248 = .error .badField ∧
    decodeBytes [0, 0, 0, 0, 0, 0, 0, 0, 0, 0, 0] = .error .short := by decide

/-! ### A small machine: one firing in U mode on context 0 of core 0 -/

/-- A plain actor's firing. -/
def actor : Firing := ⟨.actor, some 0, 0, 0, 0x400, 0, 0, 1, false, []⟩

/-- The state after reset, but for one firing of `actor`; f changes its context and g its core. -/
def user (f : Ctx → Ctx := id) (g : Core → Core := id) : State :=
  (State.reset.modCore 0 g).modCtxOf 0 0 (fun c => f { c with firing := some actor })

/-- The same in S mode. -/
def sys (f : Ctx → Ctx := id) (g : Core → Core := id) : State := user (fun c => f { c with mode := .s }) g

/-- What a field of the state after `exec` holds. -/
def after {α : Type} (i : Instr) (s : State) (f : State → α) : Option α :=
  match exec i s with
  | .next t => some (f t)
  | _ => none

/-- The named fields of an instruction without RM and predicate. -/
abbrev hd (d s1 s2 s3 : Reg) : Hd := ⟨0, 0, d, s1, s2, s3⟩

/-- g registers k, k + 1, … of a context. -/
def regs (c : Ctx) (k : Nat) : List Word → Ctx
  | [] => c
  | v :: vs => regs (c.wg k v) (k + 1) vs

/-- `Issues` as a check. -/
def issuesNow (i : Instr) (h : Hd) (s : State) : Bool :=
  s.ctx.canIssue && !(i.privileged && s.ctx.mode == .u) && s.ctx.rp h.pg.toNat &&
    (s.ctx.mode == .u || (i.stream != .x && h.qs == [] && (match i with | .idem _ => false | _ => true))) &&
    i.gRegs.all (fun k => s.ctx.pendOf k == .ready)

theorem issues_of {i : Instr} {h : Hd} {s : State} (hc : issuesNow i h s = true) : Issues i h s := by
  simp only [issuesNow, Bool.and_eq_true, Bool.or_eq_true, Bool.not_eq_true', beq_iff_eq, bne_iff_ne, List.all_eq_true] at hc
  obtain ⟨⟨⟨⟨h1, h2⟩, h3⟩, h4⟩, h5⟩ := hc
  refine ⟨h1, h2, h3, h4.imp id (fun ⟨⟨a, b⟩, c⟩ => ⟨a, b, fun o ho => ?_⟩), h5⟩
  subst ho
  exact absurd c (by simp)

/-- An act that answers, with what holds of its answer. -/
theorem runs_to {α : Type} {a : Act α} {s : State} (P : α → State → Bool)
    (h : (match a.run s with | .ok (x, t) => P x t | .error _ => false) = true) : ∃ x t, a.run s = .ok (x, t) ∧ P x t = true := by
  revert h
  cases a.run s with
  | error e => simp
  | ok r => intro h; exact ⟨r.1, r.2, rfl, h⟩

/-- A region with RCB 0, made and live in package 0, which runs. -/
def aRegion : Region := Region.fresh 1 0 0
def inRegion (s : State) (f : Region → Region := id) : State :=
  s.modPkg 0 (fun p => { p with on := true, regions := [(0, f aRegion)] })

/-- An act that answers and changes nothing. -/
theorem leaves {a : Act Unit} {s : State} (h : (match a.run s with | .ok (_, t) => decide (t = s) | .error _ => false) = true) :
    a.run s = .ok ((), s) := by
  revert h
  cases a.run s with
  | error e => simp
  | ok r => intro h; rw [← of_decide_eq_true h]

/-- A computation that answers, with what holds of its answer. -/
theorem traps {α : Type} {e : Except Stop α} (h : (match e with | .error (.trap _) => true | _ => false) = true) :
    ∃ tr, e = .error (.trap tr) := by
  revert h
  cases e with
  | error e => cases e <;> simp
  | ok x => simp

theorem answers {ε α : Type} {e : Except ε α} (P : α → Bool) (h : (match e with | .ok x => P x | .error _ => false) = true) :
    ∃ x, e = .ok x ∧ P x = true := by
  revert h
  cases e with
  | error e => simp
  | ok x => intro h; exact ⟨x, rfl, h⟩

/-! ### Witnesses -/

/-! ### Witnesses: each statement's hypotheses are met together -/

/-- Operands g2, g3 and g4 into g1. -/
abbrev ops (ext : BitVec 36 := 0) : AOps := ⟨hd (.g 1) (.g 2) (.g 3) (.g 4), ext⟩
/-- g2, g3, … hold the given values. -/
def vals (l : List Word) : State := user (fun c => regs c 2 l)

/-- Sources g2 and g3 of a state are readable with values a and b. -/
theorem sources {s : State} {a b : Word} (ha : s.ctx.rg 2 = a) (hb : s.ctx.rg 3 = b) :
    (ops.src ops.h.s1).run s = .ok (a, s) ∧ (ops.src ops.h.s2).run s = .ok (b, s) := by
  subst ha hb; exact ⟨rfl, rfl⟩

/-- A shift by 63 and one by 64, where the cases of the amount meet. -/
theorem witness_Shifts : ∃ (f : Word → Word → Word) (s t : State),
    Claims.shift (.sra ops) = some (ops, f) ∧ Issues (.sra ops) ops.h s ∧ Issues (.sra ops) ops.h t ∧
    ((ops.src ops.h.s1).run s = .ok (0x8000000000000000, s) ∧ (ops.src ops.h.s2).run s = .ok (63, s)) ∧
    ((ops.src ops.h.s1).run t = .ok (0x8000000000000000, t) ∧ (ops.src ops.h.s2).run t = .ok (64, t)) :=
  ⟨_, vals [0x8000000000000000, 63], vals [0x8000000000000000, 64], rfl, issues_of (by decide), issues_of (by decide),
    sources (by decide) (by decide), sources (by decide) (by decide)⟩

theorem witness_ScalarResults : ∃ (f : Word → Word → Word) (g : Word → Word) (s : State),
    Claims.two (.add ops) = some (ops, f) ∧ Claims.one (.clz ops) = some (ops, g) ∧ Issues (.add ops) ops.h s ∧
    Issues (.clz ops) ops.h s ∧ (ops.src ops.h.s1).run s = .ok (0xFFFFFFFFFFFFFFFF, s) ∧ (ops.src ops.h.s2).run s = .ok (1, s) :=
  ⟨_, _, vals [0xFFFFFFFFFFFFFFFF, 1], rfl, rfl, issues_of (by decide), issues_of (by decide),
    sources (by decide) (by decide)⟩

/-- The most negative number by −1, and a division by zero. -/
theorem witness_Division : ∃ (f : Word → Word → Word) (s t : State), Claims.division (.quoI64 ops) = some (ops, f) ∧
    Issues (.quoI64 ops) ops.h s ∧ Issues (.quoI64 ops) ops.h t ∧
    ((ops.src ops.h.s1).run s = .ok (0x8000000000000000, s) ∧ (ops.src ops.h.s2).run s = .ok (0xFFFFFFFFFFFFFFFF, s)) ∧
    ((ops.src ops.h.s1).run t = .ok (5, t) ∧ (ops.src ops.h.s2).run t = .ok (0, t)) :=
  ⟨_, vals [0x8000000000000000, 0xFFFFFFFFFFFFFFFF], vals [5, 0], rfl, issues_of (by decide), issues_of (by decide),
    sources (by decide) (by decide), sources (by decide) (by decide)⟩

/-- A scale of 63 and one of 64 for LEA; a field that reaches bit 63 for BFX and BFI. -/
theorem witness_AddressForms : ∃ s t u : State,
    ((ops.src ops.h.s1).run s = .ok (1, s) ∧ (ops.src ops.h.s2).run s = .ok (2, s)) ∧ (ops.src ops.h.s3).run s = .ok (63, s) ∧
    ((ops.src ops.h.s1).run t = .ok (1, t) ∧ (ops.src ops.h.s2).run t = .ok (2, t)) ∧ (ops.src ops.h.s3).run t = .ok (64, t) ∧
    ((ops.src ops.h.s1).run u = .ok (1, u) ∧ (ops.src ops.h.s2).run u = .ok (0x103F, u)) ∧
    (ops.src ops.h.s3).run u = .ok (0x103F, u) ∧
    Issues (.lea ops) ops.h s ∧ Issues (.lea ops) ops.h t ∧ Issues (.gaddr ops) ops.h s ∧
    Issues (.bfxI64 ops) ops.h u ∧ Issues (.bfxN64 ops) ops.h u ∧ Issues (.bfi ops) ops.h u :=
  ⟨vals [1, 2, 63], vals [1, 2, 64], vals [1, 0x103F, 0x103F], sources (by decide) (by decide), rfl,
    sources (by decide) (by decide), rfl, sources (by decide) (by decide), rfl,
    issues_of (by decide), issues_of (by decide), issues_of (by decide), issues_of (by decide), issues_of (by decide),
    issues_of (by decide)⟩

/-- LOOP of 1, which ends, and of 0, which goes round. -/
theorem witness_Branches : ∃ s t : State, s.ctx.rg ops.h.d.index - 1 = 0 ∧ t.ctx.rg ops.h.d.index - 1 ≠ 0 ∧
    ∀ i ∈ [Instr.br ops, .brl ops, .jmp ops, .jmpl ops, .ret ops, .loop ops], Issues i ops.h s ∧ Issues i ops.h t :=
  ⟨user (·.wg 1 1), user (·.wg 1 0), by decide, by decide, fun i hi => by
    fin_cases hi <;> exact ⟨issues_of (by decide), issues_of (by decide)⟩⟩

abbrev predOps (rm : BitVec 3 := 0) : AOps := ⟨⟨rm, 0, .p 1, .p 2, .p 3, .g 0⟩, 0⟩

theorem witness_ComparesAndPredicates : ∃ s : State,
    (∀ rm : BitVec 3, Issues (.cmp ⟨⟨rm, 0, .p 1, .g 2, .g 3, .g 0⟩, 0⟩) ⟨rm, 0, .p 1, .g 2, .g 3, .g 0⟩ s) ∧
    ((ops.src ops.h.s1).run s = .ok (5, s) ∧ (ops.src ops.h.s2).run s = .ok (0xFFFFFFFFFFFFFFFF, s)) ∧
    Issues (.sel ⟨hd (.g 1) (.p 1) (.g 2) (.g 3), 0⟩) (hd (.g 1) (.p 1) (.g 2) (.g 3)) s ∧
    ∀ i ∈ [Instr.pand predOps, .por predOps, .pxor predOps, .pnot predOps], Issues i predOps.h s :=
  ⟨vals [5, 0xFFFFFFFFFFFFFFFF], fun rm => issues_of (by revert rm; decide), sources (by decide) (by decide), issues_of (by decide),
    fun i hi => by fin_cases hi <;> exact issues_of (by decide)⟩

/-- A sequencer entry of NOP. -/
def anEntry : XEntry := ⟨.nop ops, 0, true, 0, 0, 0, 0, [], [], [], false, 0, false, false⟩

/-- The sequencer with 15 entries has room for the loop. -/
theorem witness_RegionAndLoop : ∃ s : State, s.ctx.xskip = false ∧ s.ctx.bodyOpen = false ∧ s.ctx.xcount < 16 ∧
    ∀ i ∈ [Instr.nop ops, .idem ops, .xloop ops], Issues i ops.h s :=
  ⟨user (fun c => { c with xseq := List.replicate 15 (.entry anEntry) }), by decide, by decide, by decide, fun i hi => by
    fin_cases hi <;> exact issues_of (by decide)⟩

/-- An in ring and an out ring of 8-byte entries, four places, two entries, rate 2; the out ring feeds port 0 of actor 0. -/
def ring : Ring := ⟨0, 8, 4, 2, 3, 2, 0, 0⟩
/-- A bound plain actor of RCB 0. -/
def plain : Bound where
  act := 0
  desc := 0
  launch := 0
  rcb := 0
  abase := 0
  split := 0
  d := ⟨0x400, 0, 1, 1, 1, 0, 0, [0], [0]⟩
  ins := [ring]
  outs := [{ ring with base := 0x40 }]
  life := .running
  since := 0
  pres := 0
  relin := false
  relinDue := false
  mailbox := none
/-- The actor in slot 0 of the core's Bind Table. -/
def bound (f : Ctx → Ctx := id) (b : Bound := plain) : State := user f (fun c => { c with binds := [(0, b)], region := some 0 })

/-- K = 1, the last below the rate of 2; and an out ring that feeds a ring with room. -/
theorem witness_Ports : (∃ (s : State) (b : Bound) (r q : Ring), s.ownBound = some b ∧ b.ins[(0x10 : BitVec 36).toNat % 8]? = some r ∧
      b.outs[(0x10 : BitVec 36).toNat % 8]? = some q ∧ bits (0x10 : BitVec 36).toNat 11 4 < r.rate ∧
      bits (0x10 : BitVec 36).toNat 11 4 < q.rate ∧
      ∀ i ∈ [Instr.phead (ops 0x10), .ptail (ops 0x10), .pcnt (ops 0x8), .pcnt (ops 0)], Issues i ops.h s) ∧
    ∃ (s : State) (b : Bound) (r : Ring) (tcore tslot : Nat) (q : Ring), s.forwardable 0 0 0 = some (b, r, tcore, tslot, q) :=
  ⟨⟨bound, plain, ring, { ring with base := 0x40 }, by decide, by decide, by decide, by decide, by decide, fun i hi => by
      fin_cases hi <;> exact issues_of (by decide)⟩, bound, plain, { ring with base := 0x40 }, 0, 0, ring, by decide⟩
/-- TVEC.EN is 1 and TVEC.PC is 0x800. -/
def vec (c : Core) : Core := { c with tvecEn := true, tvecPc := 0x800 }

/-- A trap in U mode with a handler, and a nested one in S mode. -/
theorem witness_TrapEntry : (∃ (s : State) (f : Firing) (t : Trap) (v : Word), Claims.Enters s f ∧ t.tval = some v ∧
      s.here.tvecEn = true) ∧
    ∃ (s : State) (f : Firing) (t : Trap) (v : Word), s.ctx.firing = some f ∧ s.ctx.mode = .s ∧ s.ctx.xbusy = false ∧
      s.ctx.awaited = none ∧ s.ctx.moving = [] ∧ t.tval = some v ∧ t.cause ≠ cDOUBLE_TRAP :=
  ⟨⟨user id vec, actor, { cause := cINT_DIVZERO, tval := some 5 }, 5, ⟨rfl, rfl, by decide, rfl, rfl⟩, rfl, rfl⟩,
    sys id vec, actor, { cause := cINT_DIVZERO, tval := some 5 }, 5, rfl, rfl, by decide, rfl, rfl, rfl, by decide⟩

/-- A trap of an entry of the X-half: entered now, and with an answer awaited. -/
theorem witness_TrapEntryX : ∀ w ∈ [none, some (Awaited.dmclose (.g 1))], ∃ (s : State) (f : Firing) (t : Trap) (v : Word),
    s.ctx.firing = some f ∧ s.ctx.mode = .u ∧ s.ctx.moving = [] ∧ t.tval = some v ∧ t.deferred = false ∧ t.sw = false ∧
    s.ctx.xseq ≠ [] ∧ s.ctx.awaited = w ∧ s.ctx.xbusy = false ∧ s.here.tvecEn = true :=
  fun w _ => ⟨user (fun c => { c with xseq := [.entry anEntry], awaited := w }) vec, actor,
    { cause := cVIEW_RANGE, tval := some 5 }, 5, rfl, rfl, rfl, rfl, rfl, rfl, List.cons_ne_nil _ _, rfl, rfl, rfl⟩

/-- A firing whose trap takes the default action, with the given trap, posted writes and fault mailbox. -/
def acting (leaving : Bool) (posted : Nat) (unacked : Nat := 0) : State :=
  (user (fun c => { c with
    trap := some ⟨90, 0, 0, 0, 0, 0, false, 0, [], true, leaving⟩
    posted := (List.range posted).map (fun k => ⟨k, 0, 8, .pkg⟩)
    countPkg := unacked })).wrNat 0x18 8 0x2000000000003

/-- A record with 63 posted writes and with 64, and the end before and after the writes; a READY actor, and a task. -/
theorem witness_DefaultAction :
    (∀ n ∈ [63, 64], ∃ (s : State) (f : Firing) (t : PendingTrap), s.ctx.firing = some f ∧ s.ctx.trap = some t ∧ t.leaving = false ∧
      mailboxName (s.effFmbx f.rcb) = some (0, 3) ∧ s.ctx.posted.length = n) ∧
    (∀ b ∈ [false, true], ∃ (s : State) (f : Firing) (t : PendingTrap), s.ctx.firing = some f ∧ s.ctx.trap = some t ∧ t.leaving = true ∧
      s.ctx.writesDone = b ∧ s.effPolicy f.rcb = 0) ∧
    ∀ cls ∈ [0, 4], ∃ (s : State) (f : Firing) (b : Bound), s.ctx.firing = some f ∧ s.ctx.trap.isSome = true ∧ f.kind = .actor ∧
      tfind s.here.binds f.slot = some b ∧ b.d.cls = cls :=
  ⟨fun n hn => ⟨acting false n, actor, ⟨90, 0, 0, 0, 0, 0, false, 0, [], true, false⟩, rfl, rfl, rfl,
      by fin_cases hn <;> decide +kernel, by fin_cases hn <;> rfl⟩,
    fun b _ => ⟨acting true 0 (if b then 0 else 1), actor, ⟨90, 0, 0, 0, 0, 0, false, 0, [], true, true⟩, rfl, rfl, rfl,
      by decide +revert, by decide +kernel +revert⟩,
    fun cls _ => ⟨(acting false 0).modHere (fun c => { c with binds := [(0, { plain with d := { plain.d with cls := cls } })] }), actor,
      _, rfl, rfl, rfl, rfl, rfl⟩⟩

/-- Cause 87, the last that TRAPC may name; 88, the first of the double-trap causes; and a cause R265 reserves. -/
theorem witness_TrapcTraps : ∃ s : State, ∀ n ∈ ([87, 88, 19] : List (BitVec 36)), Issues (.trapc (ops n)) ops.h s :=
  ⟨user, fun n hn => by fin_cases hn <;> exact issues_of (by decide)⟩

theorem witness_Privilege : ∃ s : State, s.ctx.canIssue = true ∧ s.ctx.mode = .u ∧
    ∀ i ∈ [Instr.trapret ops, .rgnNew ⟨ops.h, false, 0, 0, 0, .none, 0⟩, .logext ops], i.privileged = true :=
  ⟨user, by decide, by decide, by decide⟩

/-- Slots of the A, E and X streams, in U and in S mode, where an IDEM too only goes on. -/
theorem witness_FalsePredicate : ∀ s ∈ [user, sys], s.ctx.canIssue = true ∧ s.ctx.rp (3 : BitVec 3).toNat = false ∧
    ∀ i ∈ [Instr.add ⟨⟨0, 3, .g 1, .q 0, .g 3, .g 0⟩, 0⟩, .idem ⟨⟨0, 3, .g 0, .g 0, .g 0, .g 0⟩, 0⟩,
      .launch ⟨⟨0, 3, .g 1, .g 2, .g 0, .g 0⟩, false, 0, 0, 0, .none, 0⟩, .xloop ⟨⟨0, 3, .g 0, .g 0, .g 0, .g 0⟩, 0⟩],
      (i.hd.map (·.pg)) = some 3 ∧ (i.stream ≠ .x ∨ ∃ o, i = .xloop o) ∧ (i.privileged && s.ctx.mode == .u) = false :=
  fun s hs => by
    fin_cases hs <;> exact ⟨by decide, by decide, fun i hi => by
      fin_cases hi <;> first | exact ⟨rfl, .inl (by decide), by decide⟩ | exact ⟨rfl, .inr ⟨_, rfl⟩, by decide⟩⟩

/-- ORIGIN 0, ORIGIN 1, an uncommitted region, ORIGIN 2 and a committed region. -/
theorem witness_TrapReturn : ∃ (f : Firing) (l : List State), l.length = 5 ∧
    (∀ s ∈ l, Issues (.trapret ops) ops.h s ∧ s.ctx.firing = some f) ∧
    (l.map (fun s => (s.ctx.torigin, s.ctx.tregn, s.ctx.tskip, s.ctx.idem.committed, s.ctx.xseq))) =
      [(0, false, false, false, []), (1, false, false, false, []), (1, true, false, false, []), (2, false, false, false, []),
       (1, true, false, true, [])] :=
  ⟨actor, [sys, sys (fun c => { c with torigin := 1 }), sys (fun c => { c with torigin := 1, tregn := true }),
      sys (fun c => { c with torigin := 2 }),
      sys (fun c => { c with torigin := 1, tregn := true, idem := { c.idem with committed := true } })], rfl,
    fun s hs => by fin_cases hs <;> exact ⟨issues_of (by decide), by decide⟩, by decide⟩

/-- `Claims.Ends` as a check. -/
def endsNow (s : State) : Bool :=
  !s.ctx.bodyOpen && (s.ctx.mode == .s || s.ctx.xseq.isEmpty) && !s.ctx.xbusy && !s.registersOut && s.ctx.writesDone &&
    s.ctx.streams.toList.all (·.err.isNone) && s.ctx.dataError.isNone && s.ctx.storeErr.isNone
theorem ends_of {s : State} (h : endsNow s = true) : Claims.Ends s := by
  simp only [endsNow, Bool.and_eq_true, Bool.or_eq_true, Bool.not_eq_true', beq_iff_eq, List.isEmpty_iff, List.all_eq_true,
    Option.isNone_iff_eq_none] at h
  obtain ⟨⟨⟨⟨⟨⟨⟨h1, h2⟩, h3⟩, h4⟩, h5⟩, h6⟩, h7⟩, h8⟩ := h
  exact ⟨h1, ⟨h2, h3, h4, h5⟩, fun q => h6 _ (by simp [Ctx.stream]), h7, h8⟩

/-- The bound actor of a firing, and a bound task of one. -/
theorem witness_Commit : ∀ cls ∈ [0, 4], ∃ (s : State) (f : Firing) (b : Bound), f.kind = .actor ∧
    tfind (s.coreAt 0).binds f.slot = some b ∧ b.d.cls = cls :=
  fun cls _ => ⟨bound id { plain with d := { plain.d with cls := cls } }, actor, _, rfl, rfl, rfl⟩

theorem witness_EndOfFiring : ∃ (s t : State) (f : Firing), s.ctx.firing = some f ∧ t.ctx.firing = some f ∧
    Claims.Ends s ∧ Claims.Ends t ∧ Issues (.endFiring ops) ops.h s ∧ Issues (.endFiring ops) ops.h t ∧
    Issues (.yield ops) ops.h s ∧ (∀ c j, f.kind ≠ .share c j) ∧ s.ctx.mode = .u ∧ t.ctx.mode = .s ∧ f.kind = .actor ∧ f.cls ≠ 4 :=
  ⟨user, sys, actor, by decide, by decide,
    ends_of rfl, ends_of rfl, issues_of (by decide), issues_of (by decide), issues_of (by decide), by simp [actor], by decide, by decide, rfl, by decide⟩

/-- A core whose one bound actor is READY, or that has slept, or that has been quiet for IDLELIM cycles. -/
def idleCore (life : Life) (f : Core → Core := id) : State :=
  { State.reset.modCore 0 (fun c => f { c with binds := [(0, { plain with life := life })], region := some 0 }) with now := 64 }

/-- The last pass of a loop of one entry. -/
def looping : State := user (fun c => { c with xseq := [.loop ⟨0, 1, 2, 0, 0, 0, 0, [anEntry], 0, 1⟩] })

/-- A fork task of RCB 0. -/
def aTask : Task := { kind := .forkTask, prio := 0, pc := 0, preds := 0, rcb := 0, g := Vector.replicate 32 0 }

/-- The scheduler chooses a READY actor, a READY handler with a message, and a task. -/
theorem witness_FiringStart :
    (∃ (s : State) (b : Bound), s.freeContext 0 = some 0 ∧ s.choose 0 = some (.actor 0) ∧ tfind (s.coreAt 0).binds 0 = some b ∧
      b.isHandler = false) ∧
    (∃ (s : State) (b : Bound) (m : Mailbox), s.freeContext 0 = some 0 ∧ s.choose 0 = some (.actor 0) ∧
      tfind (s.coreAt 0).binds 0 = some b ∧ b.isHandler = true ∧ b.mailbox = some 3 ∧ tfind (s.coreAt 0).mailboxes 3 = some m) ∧
    ∃ (s : State) (t : Task), s.freeContext 0 = some 0 ∧ s.choose 0 = some .task ∧ (s.coreAt 0).deque.getLast? = some t :=
  ⟨⟨inRegion (idleCore .ready), _, by decide, by decide, rfl, rfl⟩,
    ⟨inRegion (idleCore .ready (fun c => { c with
        binds := [(0, { plain with life := .ready, mailbox := some 3, d := { plain.d with cls := 3 } })]
        mailboxes := [(3, ⟨0, 1, [[7]], [], false, false⟩)] })), _, _, by decide, by decide, rfl, rfl, rfl, rfl⟩,
    inRegion (idleCore .idle (fun c => { c with deque := [aTask] })), aTask, by decide, by decide, rfl⟩

theorem witness_CoreEvents :
    (∃ s : State, (s.ctxOf 0 0).trapReady = true) ∧ (∃ s : State, s.canStart 0 = true ∧ s.startsBad 0 = false) ∧
    (∃ (s : State) (k : Nat), s.canStart 0 = true ∧ s.startsBad 0 = true ∧ s.freeContext 0 = some k) ∧
    (∃ s : State, (s.at 0 0).ctx.needsLine = true ∧ (s.at 0 0).ctx.refetch = false ∧ (s.pkgAt (corePkg 0)).off = false) ∧
    (∃ s : State, (s.at 0 0).ctx.needsLine = true ∧ (s.at 0 0).ctx.refetch = true ∧ (s.pkgAt (corePkg 0)).off = false) ∧
    (∃ s : State, (s.ctxOf 0 0).passDue = true ∧ (s.ctxOf 0 0).xbusy = false ∧ (s.ctxOf 0 0).xfrozen = false) ∧
    (∃ s : State, s.canSleep 0 = true ∧ (s.coreAt 0).depth ≠ 3) ∧ (∃ s : State, s.canSleep 0 = true ∧ (s.coreAt 0).depth = 3) ∧
    (∃ s : State, s.canWake 0 = true) ∧ (∃ s : State, (s.coreAt 0).ctsAt + max 1 (s.coreAt 0).ladv.toNat ≤ s.now) :=
  ⟨⟨user (fun c => { c with trap := some ⟨0, 0, 0, 0, 0, 0, false, 0, [], false, false⟩ }), by decide⟩,
    ⟨inRegion (idleCore .ready), by decide, by decide⟩,
    ⟨inRegion (idleCore .idle (fun c => { c with deque := [{ aTask with bad := true }] })), 0, by decide, by decide, by decide⟩,
    ⟨user, by decide, by decide, rfl⟩, ⟨user (fun c => { c with refetch := true }), by decide, by decide, rfl⟩,
    ⟨looping, by decide, by decide, by decide⟩, ⟨idleCore .idle, by decide, by decide⟩,
    ⟨idleCore .idle (fun c => { c with depth := 3 }), by decide, by decide⟩,
    ⟨user id (fun c => { c with cur := 1 }), by decide⟩, { user with now := 16 }, by decide⟩
/-! Memory: g2 holds an address of the core's own SCR role, of another core's, or of DRAM. -/

def clearNow (s : State) (p : Phys) (n : Nat) : Bool :=
  !s.acqOut && (!s.inHcOrder p || !s.hcOut) && !s.ctx.postedOverlap p.ga n && !s.ownPending p.ga n
theorem clear_of {s : State} {p : Phys} {n : Nat} (h : clearNow s p n = true) : Claims.Clear s p n := by
  simp only [clearNow, Bool.and_eq_true, Bool.or_eq_true, Bool.not_eq_true'] at h
  obtain ⟨⟨⟨h1, h2⟩, h3⟩, h4⟩ := h
  exact ⟨h1, fun hc => h2.resolve_left (by simp [hc]), h3, h4⟩

theorem own_of {s : State} {p : Phys} {n : Nat} {w : Bool}
    (h : (s.isOwn p && !s.here.poolWaits (gaSpace p.ga) (gaOff p.ga) n w && s.here.inRole (gaSpace p.ga) (gaOff p.ga) n &&
      (w || !s.bad p.ga n)) = true) : Claims.Own s p n w := by
  simp only [Bool.and_eq_true, Bool.or_eq_true, Bool.not_eq_true'] at h
  exact ⟨h.1.1.1, h.1.1.2, h.1.2, fun hw => h.2.resolve_left (by simp [hw])⟩

theorem far_of {s : State} {p : Phys} {acq : Bool}
    (h : (if p.isDram then (s.loadCopy p acq).isNone else !s.isOwn p) = true) : Claims.Far s p acq := by
  unfold Claims.Far
  split at h <;> simp_all
theorem farStore_of {s : State} {p : Phys} (h : (if p.isDram then (s.storeCopy p).isNone else !s.isOwn p) = true) :
    Claims.FarStore s p := by
  unfold Claims.FarStore
  split at h <;> simp_all

/-- The last 8 bytes of core 0's SCR role, and core 1's first. -/
def own : Nat := 0x100000001FFF8
def far : Nat := 0x1000400000000
/-- The place of a pool address. -/
abbrev pool (a : Nat) : Phys := ⟨a, a, none⟩
/-- A page of DRAM at 0x10000 of a class, readable and writable in U mode, which the core's TLB holds. -/
def page (cls : Cls) : Tlb := ⟨0, 0x10000, 0, 0x10000, true, false, cls, true, true, true, 0⟩
abbrev inPage (cls : Cls) (a : Nat) : Phys := ⟨a, a, some (page cls)⟩
/-- An address in g2, 5 in g4, and g3 as the index. -/
def at2 (a : Nat) (cls : Cls := .sc) (f : Core → Core := id) (g : Ctx → Ctx := id) (index : Word := 0) : State :=
  user (fun c => g (((c.wg 2 (BitVec.ofNat 64 a)).wg 3 index).wg 4 5)) (fun c => f { c with utlb := [page cls] })
abbrev mops (fmt : Fmt := .n64) (ord : BitVec 2 := 0) (d : Reg := .g 1) (s3 : Reg := .g 0) (scope : BitVec 3 := 0) : MOps :=
  ⟨hd d (.g 2) (.g 3) s3, fmt, false, ord, scope, false, 0⟩
/-- A clean line of the page. -/
def copy (cls : Cls) (excl : Bool) (dirty : BitVec 4 := 0) : CchLine := ⟨0x10000, 0, dirty, cls, 0, 10, excl⟩

/-- The own pool's last word, a CP copy, another core's pool, a DRAM line not held, and q0 with 31 entries. -/
theorem witness_LoadCompletes : (∃ s p, Issues (.ld mops) mops.h s ∧ (resolve .r (mops.ea s.ctx) mops.size).run s = .ok (p, s) ∧
      Claims.Clear s p 8 ∧ Claims.Own s p 8 false) ∧
    (∃ s p l, Issues (.ld mops) mops.h s ∧ (resolve .r (mops.ea s.ctx) mops.size).run s = .ok (p, s) ∧ Claims.Clear s p 8 ∧
      p.isDram = true ∧ s.loadCopy p false = some (l, false) ∧ p.isHc = false) ∧
    (∃ s p, Issues (.ld mops) mops.h s ∧ (resolve .r (mops.ea s.ctx) mops.size).run s = .ok (p, s) ∧ Claims.Clear s p 8 ∧
      p.isDram = false ∧ Claims.Far s p false) ∧
    (∃ s p, Issues (.ld (mops .n64 1)) mops.h s ∧ (resolve .r (mops.ea s.ctx) mops.size).run s = .ok (p, s) ∧
      Claims.Clear s p 8 ∧ p.isDram = true ∧ Claims.Far s p true) ∧
    ∃ s p, Issues (.ld (mops .n64 0 (.q 0))) (mops .n64 0 (.q 0)).h s ∧ (resolve .r (mops.ea s.ctx) mops.size).run s = .ok (p, s) ∧
      Claims.Clear s p 8 ∧ Claims.Own s p 8 false ∧ s.ctx.q0.length < 32 :=
  ⟨⟨at2 own, pool own, issues_of (by decide), by rfl, clear_of (by decide), own_of (by decide)⟩,
    ⟨at2 0x10008 .cp (fun c => { c with lines := [copy .cp false] }), inPage .cp 0x10008, copy .cp false, issues_of (by decide),
      by rfl, clear_of (by decide), by decide, by decide +kernel, by decide⟩,
    ⟨at2 far, pool far, issues_of (by decide), by rfl, clear_of (by decide), by decide, far_of (by decide)⟩,
    ⟨at2 0x1FFF8, inPage .sc 0x1FFF8, issues_of (by decide), by rfl, clear_of (by decide), by decide, far_of (by decide)⟩,
    at2 own .sc id (fun c => { c with q0 := List.replicate 31 ⟨0, 0, 0, none⟩ }), pool own, issues_of (by decide), by rfl,
      clear_of (by decide), own_of (by decide), by decide⟩
theorem witness_StoreCompletes : (∃ s p, Issues (.st (mops .n64 2 (.g 0) (.g 4))) (mops .n64 2 (.g 0) (.g 4)).h s ∧
      (resolve .w (mops.ea s.ctx) 8).run s = .ok (p, s) ∧ Claims.Clear s p 8 ∧ Claims.Released s ∧ Claims.Own s p 8 true) ∧
    (∃ s p v, Issues (.st (mops .n64 0 (.g 0) (.q 1))) (mops .n64 0 (.g 0) (.q 1)).h s ∧
      (resolve .w (mops.ea s.ctx) 8).run s = .ok (p, s) ∧ Claims.Clear s p 8 ∧ s.ctx.q1 = [v] ∧ Claims.Own s p 8 true) ∧
    (∃ s p l, Issues (.st (mops .n64 0 (.g 0) (.g 4))) (mops .n64 0 (.g 0) (.g 4)).h s ∧
      (resolve .w (mops.ea s.ctx) 8).run s = .ok (p, s) ∧ Claims.Clear s p 8 ∧ p.isDram = true ∧ s.storeCopy p = some l ∧
      p.isHc = false) ∧
    ∃ s p, Issues (.st (mops .n64 0 (.g 0) (.g 4))) (mops .n64 0 (.g 0) (.g 4)).h s ∧
      (resolve .w (mops.ea s.ctx) 8).run s = .ok (p, s) ∧ Claims.Clear s p 8 ∧ Claims.FarStore s p ∧
      s.ctx.posted.length + 1 ≤ 64 :=
  ⟨⟨at2 own, pool own, issues_of (by decide), by rfl, clear_of (by decide), ⟨by decide, by decide, by decide⟩, own_of (by decide)⟩,
    ⟨at2 own .sc id (fun c => { c with q1 := [7] }), pool own, 7, issues_of (by decide), by rfl, clear_of (by decide), by decide,
      own_of (by decide)⟩,
    ⟨at2 0x10008 .cp (fun c => { c with lines := [copy .cp false] }), inPage .cp 0x10008, copy .cp false, issues_of (by decide),
      by rfl, clear_of (by decide), by decide, by decide +kernel, by decide⟩,
    at2 far .sc id (fun c => { c with posted := List.replicate 63 ⟨0, 0, 8, .clu⟩ }), pool far, issues_of (by decide), by rfl,
      clear_of (by decide), farStore_of (by decide), by decide⟩

theorem witness_StoreFrame : ∃ s t p, Issues (.st (mops .n32 0 (.g 0) (.g 4))) (mops .n32 0 (.g 0) (.g 4)).h s ∧
    (resolve .w (mops.ea s.ctx) 4).run s = .ok (p, s) ∧ Claims.Clear s p 4 ∧ Claims.Own s p 4 true ∧ Memory.wf s.mem = true ∧
    exec (.st (mops .n32 0 (.g 0) (.g 4))) s = .next t :=
  ⟨at2 own, _, pool own, issues_of (by decide), by rfl, clear_of (by decide), own_of (by decide), by decide, rfl⟩

/-- Window 0 ends with the second word of core 0's SCR role. -/
def windowed : State := at2 0 .sc id (fun c => { c with win := c.win.set 0 (0x1000000000000 - 0xFFFF0) }) 1

/-- LDM and STM of one word and of two, LDC of a window's last word, and IGET and IPUT of 32-bit elements. -/
theorem witness_MultipleWords :
    (∃ s ps, Issues (.ldm ⟨hd (.g 5) (.g 2) (.g 6) (.g 0), .none, false, 0, 0, false, 0⟩) (hd (.g 5) (.g 2) (.g 6) (.g 0)) s ∧
      (resolveWords .r (mops.base s.ctx) 2).run s = .ok (ps, s) ∧ ∀ p ∈ ps, Claims.Clear s p 8 ∧ Claims.Own s p 8 false) ∧
    (∃ s ps, Issues (.stm ⟨hd (.g 0) (.g 2) (.g 4) (.g 4), .none, false, 0, 0, false, 0⟩) (hd (.g 0) (.g 2) (.g 4) (.g 4)) s ∧
      (resolveWords .w (mops.base s.ctx) 1).run s = .ok (ps, s) ∧ ∀ p ∈ ps, Claims.Clear s p 8 ∧ Claims.Own s p 8 true) ∧
    (∃ s v s1, Issues (.ldc ⟨hd (.g 1) .win (.g 3) (.g 0), 0x1FFFE⟩) (hd (.g 1) .win (.g 3) (.g 0)) s ∧
      0x1FFFE + (s.ctx.rg 3).toNat ≤ 0x1FFFF ∧ (readWindow 0 0x1FFFF).run s = .ok (v, s1) ∧ True) ∧
    (∃ s ps s1, Issues (.iget (mops .n32 0 (.q 0))) (mops .n32 0 (.q 0)).h s ∧ s.ctx.q0.length < 32 ∧
      (indexed .r (mops.base s.ctx) 4 (s.ctx.rg 3).toNat 8 0).run s = .ok (ps, s1) ∧
      ps.all (fun p => clearNow s1 p 4 && s1.isOwn p) = true) ∧
    ∃ s ps s1, Issues (.iput (mops .n32 0 (.g 0) (.q 1))) (mops .n32 0 (.g 0) (.q 1)).h s ∧ s.ctx.q1 = [7] ∧
      (indexed .w (mops.base s.ctx) 4 (s.ctx.rg 3).toNat 8 0).run s = .ok (ps, s1) ∧
      ps.all (fun p => clearNow s1 p 4 && s1.isOwn p) = true :=
  ⟨⟨at2 (own - 8), [pool (own - 8), pool own], issues_of (by decide), by rfl, fun p hp => by
      fin_cases hp <;> exact ⟨clear_of (by decide), own_of (by decide)⟩⟩,
    ⟨at2 own, [pool own], issues_of (by decide), by rfl, fun p hp => by
      fin_cases hp; exact ⟨clear_of (by decide), own_of (by decide)⟩⟩,
    (let ⟨v, s1, h, _⟩ := runs_to (a := readWindow 0 0x1FFFF) (s := windowed) (fun _ _ => true) (by decide +kernel)
     ⟨windowed, v, s1, issues_of (by decide), by decide, h, trivial⟩),
    (let s := at2 0x1000000000000 .sc id id 0x1000000001000
     let ⟨ps, s1, h, hp⟩ := runs_to (a := indexed .r (mops.base s.ctx) 4 (s.ctx.rg 3).toNat 8 0) (s := s)
       (fun ps s1 => ps.all (fun p => clearNow s1 p 4 && s1.isOwn p)) (by decide +kernel)
     ⟨s, ps, s1, issues_of (by decide), by decide, h, hp⟩),
    let s := at2 0x1000000000000 .sc id (fun c => { c with q1 := [7] }) 0x1000000001000
    let ⟨ps, s1, h, hp⟩ := runs_to (a := indexed .w (mops.base s.ctx) 4 (s.ctx.rg 3).toNat 8 0) (s := s)
      (fun ps s1 => ps.all (fun p => clearNow s1 p 4 && s1.isOwn p)) (by decide +kernel)
    ⟨s, ps, s1, issues_of (by decide), by decide, h, hp⟩⟩
/-- A store error, and a load that has not returned. -/
def failedStore : State := user (fun c => { c with storeErr := some (5, cPERM_DENIED) })
def aLoad : Txn := ⟨0, 0, 0, .load, .dram .sc, 0x10000, 0x10000, 8, 0x10000, .g 9 .n64, none, false, .travelling, [], 0, (0, 0), false, 0, [], 0, false, none, none⟩
def withTxn (t : Txn) (s : State := user) : State := { s with txns := [(0, t)], nextId := 1 }
/-- g2 holds 0x10008 in a page of a class, g4 the length 8 of a range, and the core holds the line as given. -/
def ranged (l : List CchLine) : State :=
  at2 0x10008 .cp (fun c => { c with lines := l }) (fun c => c.wg 4 8)
abbrev cops : MOps := mops .none 0 (.g 0) (.g 4)

theorem witness_FencesAndCaches :
    (∃ s : State, Issues (.scnt (mops .none)) (mops .none).h s ∧ Issues (.fence (mops .none 0 (.g 0) (.g 0) 4)) (mops .none 0 (.g 0)).h s ∧
      s.loadsOut = false ∧ s.ctx.fenced 4 = true ∧ s.ctx.storeErr = none) ∧
    (∃ s : State, Issues (.fence (mops .none 0 (.g 0) (.g 0) 4)) (mops .none 0 (.g 0)).h s ∧ s.loadsOut = true) ∧
    (∃ s : State, Issues (.fence (mops .none 0 (.g 0) (.g 0) 4)) (mops .none 0 (.g 0)).h s ∧ s.loadsOut = false ∧
      s.ctx.fenced 4 = true ∧ s.ctx.storeErr = some (5, cPERM_DENIED)) ∧
    (∃ (s : State) (e : Refused), Issues (.pref (mops .none 0 (.g 0))) (mops .none 0 (.g 0)).h s ∧ s.acqOut = false ∧
      s.walkWaits (.core s.core) (s.effPtroot s.ctx.rcb) (mops.ea s.ctx) = false ∧
      translate s (.core s.core) (s.effPtroot s.ctx.rcb) .r (mops.ea s.ctx) = .error e) ∧
    (∃ (s : State) (p : Phys) (t : Tlb), Issues (.pref (mops .none 0 (.g 0))) (mops .none 0 (.g 0)).h s ∧ s.acqOut = false ∧
      s.walkWaits (.core s.core) (s.effPtroot s.ctx.rcb) (mops.ea s.ctx) = false ∧
      translate s (.core s.core) (s.effPtroot s.ctx.rcb) .r (mops.ea s.ctx) = .ok (p, s) ∧ p.inReclass s = false ∧
      p.page = some t ∧ gaSpace p.ga = 0 ∧ pageCheck s s.ctx.mode s.core .r t = .ok () ∧
      s.caches s.core p.cls p.ga p.pageGa = true ∧ s.here.findLine (lineOf p.ga) = none) ∧
    ∀ l ∈ [[], [copy .cp false], [copy .cp false 1]], ∃ (p : Phys) (t : Tlb), Issues (.flush cops) cops.h (ranged l) ∧
      Issues (.inv cops) cops.h (ranged l) ∧ (ranged l).acqOut = false ∧ (ranged l).ctx.moving = [] ∧
      chunks (cops.ea (ranged l).ctx) ((ranged l).ctx.rg cops.h.s3.index).toNat = [(0x10008, 8)] ∧
      (ranged l).walkWaits (.core 0) ((ranged l).effPtroot (ranged l).ctx.rcb) 0x10008 = false ∧
      (∀ k : Kind, k ≠ .x → translate (ranged l) (.core 0) ((ranged l).effPtroot (ranged l).ctx.rcb) k 0x10008 =
        .ok (p, ranged l) ∧ t.permits (ranged l).ctx.mode k = true) ∧ p.page = some t ∧ p.inReclass (ranged l) = false ∧
      (ranged l).here.lines.filter (fun l => overlap l.addr 64 p.ga 8) = l ∧ (ranged l).ctx.posted.length + 1 ≤ 64 :=
  ⟨⟨user, issues_of (by decide), issues_of (by decide), by decide, by decide, by decide⟩,
    ⟨withTxn aLoad, issues_of (by decide), by decide⟩,
    ⟨failedStore, issues_of (by decide), by decide, by decide, by decide⟩,
    ⟨user, _, issues_of (by decide), rfl, rfl, rfl⟩,
    ⟨at2 0x10008, inPage .sc 0x10008, page .sc, issues_of (by decide), rfl, rfl, rfl, rfl, rfl, rfl, rfl, rfl, rfl⟩,
    fun l hl => ⟨inPage .cp 0x10008, page .cp, by
      fin_cases hl <;> refine ⟨issues_of (by decide), issues_of (by decide), rfl, rfl, by decide, rfl, fun k _ => ?_, rfl, rfl,
        by decide +kernel, by decide⟩ <;> cases k <;> exact ⟨rfl, rfl⟩⟩⟩
/-- The same in S mode. -/
def inS (s : State) : State := s.modCtx (fun c => { c with mode := .s })
def change (draining : Bool) : Reclass := ⟨0x1000, .sc, .hc, 0, 0, 0x8000, draining, 0⟩
/-- Package 0 with the OW capability of the page at 0x10000, or a class change of it, as given. -/
def withCap (c : Capability) (s : State) : State := s.modPkg 0 (fun p => { p with caps := [(0x10000, c)] })
def changing (r : Reclass) (s : State) : State := s.modPkg 0 (fun p => { p with reclass := [(0x10000, r)] })

theorem witness_CapabilityAndClass :
    (∃ (s : State) (p : Phys) (t : Tlb), Issues (.handover cops) cops.h s ∧ (resolvePage (cops.ea s.ctx)).run s = .ok (p, s) ∧
      p.page = some t ∧ p.cls = .ow ∧ bits (s.ctx.rg 4).toNat 63 26 = 0 ∧ bits (s.ctx.rg 4).toNat 9 6 ≤ 11 ∧
      bits (s.ctx.rg 4).toNat 5 2 ≤ 11 ∧ s.holds s.core p.pageGa = true ∧
      s.here.movingTo p.pageGa (2 ^ leafBits t.level) = false ∧ s.ctx.storeErr = none ∧ s.txns = []) ∧
    (∃ s : State, tfind (s.pkgAt (gaPkg 0x10000)).caps 0x10000 = some ⟨none, some 5, false⟩) ∧
    (∃ s : State, tfind (s.pkgAt (gaPkg 0x10000)).caps 0x10000 = some ⟨none, some 5, true⟩) ∧
    (∃ (s : State) (p : Phys) (t : Tlb), Issues (.reclass cops) cops.h s ∧ (s.ctx.rg 4).toNat < 4 ∧
      (resolvePage (cops.ea s.ctx)).run s = .ok (p, s) ∧ p.page = some t ∧ t.cls = Cls.ofCode (s.ctx.rg 4).toNat) ∧
    (∃ (s : State) (p : Phys) (t : Tlb), Issues (.reclass cops) cops.h s ∧ (s.ctx.rg 4).toNat < 4 ∧
      (resolvePage (cops.ea s.ctx)).run s = .ok (p, s) ∧ p.page = some t ∧ t.cls ≠ Cls.ofCode (s.ctx.rg 4).toNat) ∧
    (∃ (s : State) (r : Reclass), tfind (s.pkgAt (gaPkg 0x10000)).reclass 0x10000 = some r ∧ r.draining = false) ∧
    ∃ (s : State) (r : Reclass), tfind (s.pkgAt (gaPkg 0x10000)).reclass 0x10000 = some r ∧ r.draining = true ∧
      s.pageDrained 0x10000 r = true :=
  ⟨⟨withCap ⟨some 0, none, false⟩ (inS (at2 0x10000 .ow id (fun c => c.wg 4 0x2EF))), inPage .ow 0x10000, page .ow, issues_of (by decide),
      by rfl, rfl, rfl, by decide, by decide, by decide, by decide, by decide +kernel, by decide, by decide⟩,
    ⟨withCap ⟨none, some 5, false⟩ user, by decide⟩, ⟨withCap ⟨none, some 5, true⟩ user, by decide⟩,
    ⟨inS (at2 0x10000 .ow id (fun c => c.wg 4 3)), inPage .ow 0x10000, page .ow, issues_of (by decide), by decide, by rfl, rfl, by decide⟩,
    ⟨inS (at2 0x10000 .ow id (fun c => c.wg 4 0)), inPage .ow 0x10000, page .ow, issues_of (by decide), by decide, by rfl, rfl, by decide⟩,
    ⟨changing (change false) user, change false, by decide, rfl⟩, changing (change true) user, change true, by decide, rfl, by decide +kernel⟩
/-- The core holds U updates of the line at 0x10000 under add.i64, as its home has it. -/
def holdsU : State :=
  ({ at2 0x10008 .sc (fun c => { c with ulines := [⟨0x10000, .add, .i64, []⟩] }) with nextId := 0 } : State).setHome 0x10000
    { Home.reset with us := [0] }
abbrev aops (fmt : Fmt := .n64) (ord : BitVec 2 := 2) : MOps := mops fmt ord (.g 0) (.g 4) 4

theorem witness_AmoCompletes :
    (∃ s p, Issues (.amoAdd aops) aops.h s ∧ Issues (.amoUAdd aops) aops.h s ∧ Claims.amo (.amoAdd aops) = some (aops, .add) ∧
      Claims.amoU (.amoUAdd aops) = some (aops, .add) ∧ (resolveAtomic (aops.ea s.ctx) 8).run s = .ok (p, s) ∧ Claims.Clear s p 8 ∧
      p.dm = false ∧ Claims.FencedTo s 4 ∧ Claims.Own s p 8 true) ∧
    (∃ s p, Issues (.amoAdd aops) aops.h s ∧ (resolveAtomic (aops.ea s.ctx) 8).run s = .ok (p, s) ∧ Claims.Clear s p 8 ∧
      p.isDram = false ∧ s.isOwn p = false ∧ s.ctx.posted.length + 1 ≤ 64) ∧
    (∃ s p, Issues (.amoAdd aops) aops.h s ∧ (resolveAtomic (aops.ea s.ctx) 8).run s = .ok (p, s) ∧ Claims.Clear s p 8 ∧
      p.dm = false ∧ p.isDram = true ∧ p.cls = .hc ∧ s.storeCopy p = none ∧ s.ctx.posted.length + 1 ≤ 64) ∧
    ∃ s p, Issues (.amoUAdd (aops .i64)) aops.h s ∧ (resolveAtomic (aops.ea s.ctx) 8).run s = .ok (p, s) ∧ Claims.Clear s p 8 ∧
      p.dm = false ∧ p.isDram = true ∧ p.cls = .sc ∧
      (s.here.ulines.any (fun u => u.addr == lineOf p.ga && u.op == .add && u.fmt == .i64)) = true ∧
      (s.homeAt (lineOf p.ga)).us.contains s.core = true :=
  ⟨⟨at2 own, pool own, issues_of (by decide), issues_of (by decide), rfl, rfl, by rfl, clear_of (by decide), rfl,
      ⟨by decide, by decide, by decide⟩, own_of (by decide)⟩,
    ⟨at2 far, pool far, issues_of (by decide), by rfl, clear_of (by decide), by decide, by decide, by decide⟩,
    ⟨at2 0x10008 .hc, inPage .hc 0x10008, issues_of (by decide), by rfl, clear_of (by decide), rfl, by decide, rfl, by decide, by decide⟩,
    holdsU, inPage .sc 0x10008, issues_of (by decide), by rfl, clear_of (by decide), rfl, by decide, rfl, by decide, by decide⟩

theorem witness_AmofCompletes :
    (∃ s p, Issues (.amofAdd (mops .n64 1 (.g 1) (.g 4) 4)) mops.h s ∧ Issues (.cas (mops .n64 2 (.g 1) (.g 4) 4)) mops.h s ∧
      (resolveAtomic (mops.ea s.ctx) 8).run s = .ok (p, s) ∧ Claims.Clear s p 8 ∧ p.dm = false ∧ Claims.FencedTo s 4 ∧
      Claims.Own s p 8 true) ∧
    (∃ s p, Issues (.amofAdd (mops .n64 1 (.g 1) (.g 4) 4)) mops.h s ∧ (resolveAtomic (mops.ea s.ctx) 8).run s = .ok (p, s) ∧
      Claims.Clear s p 8 ∧ p.dm = false ∧ Claims.FarStore s p ∧ p.isDram = false ∧
      Issues (.cas (mops .n64 1 (.g 1) (.g 4) 4)) mops.h s) ∧
    (∃ s p, Issues (.casw (mops .n64 1 (.g 4) (.g 8) 4)) (mops .n64 1 (.g 4) (.g 8)).h s ∧
      (resolveAtomic (mops.ea s.ctx) 16).run s = .ok (p, s) ∧ Claims.Clear s p 16 ∧ p.dm = false ∧ Claims.FarStore s p ∧
      p.isDram = true ∧ p.cls = .hc) ∧
    ∃ s p, Issues (.casw (mops .n64 2 (.g 4) (.g 8) 4)) (mops .n64 2 (.g 4) (.g 8)).h s ∧
      (resolveAtomic (mops.ea s.ctx) 16).run s = .ok (p, s) ∧ Claims.Clear s p 16 ∧ p.dm = false ∧ Claims.FencedTo s 4 ∧
      Claims.Own s p 16 true :=
  ⟨⟨at2 own, pool own, issues_of (by decide), issues_of (by decide), by rfl, clear_of (by decide), rfl,
      ⟨by decide, by decide, by decide⟩, own_of (by decide)⟩,
    ⟨at2 far, pool far, issues_of (by decide), by rfl, clear_of (by decide), rfl, farStore_of (by decide), by decide, issues_of (by decide)⟩,
    ⟨at2 0x10000 .hc, inPage .hc 0x10000, issues_of (by decide), by rfl, clear_of (by decide), rfl, farStore_of (by decide), by decide, rfl⟩,
    at2 (own - 8), pool (own - 8), issues_of (by decide), by rfl, clear_of (by decide), rfl, ⟨by decide, by decide, by decide⟩,
    own_of (by decide)⟩

/-- The same page with the DM bit; CNT one below its maximum. -/
def dmPage : Tlb := { page .sc with dm := true }
def onDm : State := at2 0x10008 .sc (fun c => { c with cnt := 0xFFFFFFFE }) |>.modHere (fun c => { c with utlb := [dmPage] })

theorem witness_DeterministicAtomics : ∃ p, Issues (.amoAdd (aops .n64 0)) aops.h onDm ∧ Issues (.amoUAdd (aops .n64 0)) aops.h onDm ∧
    Issues (.cas (mops .n64 0 (.g 1) (.g 4) 4)) mops.h onDm ∧ Issues (.amofAdd (mops .n64 0 (.g 1) (.g 4) 4)) mops.h onDm ∧
    (resolveAtomic (aops.ea onDm.ctx) 8).run onDm = .ok (p, onDm) ∧ p.dm = true ∧ Claims.Clear onDm p 8 ∧
    onDm.here.cnt ≠ 0xFFFFFFFF ∧ onDm.ctx.posted.length + 1 ≤ 64 :=
  ⟨⟨0x10008, 0x10008, some dmPage⟩, issues_of (by decide), issues_of (by decide), issues_of (by decide), issues_of (by decide),
    by rfl, rfl, clear_of (by decide), by decide, by decide⟩

abbrev qops (s1 : Reg) (d : Reg := .g 1) : AOps := ⟨hd d s1 (.g 0) (.g 0), 0⟩
def aPattern (write : Bool) : Pattern := ⟨0x1000000000000, 2, 1, 1, 32, 0, 0, write⟩
/-- A stream head q2 bound to two entries of the own SCR role. -/
def streaming (write : Bool) : State := user (fun c => c.setStream 2 { Stream.reset with
  pat := some (aPattern write)
  wr := if write then [7] else [] })

theorem witness_Queues :
    (∃ s : State, Issues (.qpop (qops (.q 1))) (qops (.q 1)).h s ∧ s.ctx.q1 = [7]) ∧
    (∃ s : State, Issues (.qcnt (qops (.q 5))) (qops (.q 5)).h s ∧ (qops (.q 5)).h.s1.index < 6) ∧
    (∃ (s : State) (w : List Nat) (s1 : State) (pat : Pattern), Issues (.streamBind (qops (.g 2) (.q 2))) (qops (.g 2) (.q 2)).h s ∧
      (s.ctx.stream 2).pat = none ∧ (loadWords (wrapInt 64 ((s.ctx.rg 2).toNat + sintOf 24 0)) 8).run s = .ok (w, s1) ∧
      patternOf w = some pat) ∧
    (∃ (s : State) (pat : Pattern), Issues (.streamEnd (qops (.g 0) (.q 2))) (qops (.g 0) (.q 2)).h s ∧
      (s.ctx.stream 2).pat = some pat ∧ pat.write = false) ∧
    (∃ (s : State) (pat : Pattern), Issues (.streamEnd (qops (.g 0) (.q 2))) (qops (.g 0) (.q 2)).h s ∧
      (s.ctx.stream 2).pat = some pat ∧ pat.write = true ∧ (s.ctx.stream 2).wr = [] ∧ (s.ctx.stream 2).unacked = [] ∧
      (s.ctx.stream 2).err = none) ∧
    (∃ (s : State) (pat : Pattern) (pa : Phys), (s.at 0 0).ctx.canFetch 2 = true ∧ ((s.at 0 0).ctx.stream 2).pat = some pat ∧
      (resolveAs .u .r (pat.addr ((s.at 0 0).ctx.stream 2).moved) 32).run (s.at 0 0) = .ok (pa, s.at 0 0) ∧
      Claims.Clear (s.at 0 0) pa 32 ∧ Claims.Own (s.at 0 0) pa 32 false) ∧
    ∃ (s : State) (pat : Pattern) (pa : Phys), (s.at 0 0).ctx.canStore 2 = true ∧ ((s.at 0 0).ctx.stream 2).pat = some pat ∧
      ((s.at 0 0).ctx.stream 2).wr = [7] ∧
      (resolveAs .u .w (pat.addr ((s.at 0 0).ctx.stream 2).moved) 32).run (s.at 0 0) = .ok (pa, s.at 0 0) ∧
      Claims.Clear (s.at 0 0) pa 32 ∧ Claims.Own (s.at 0 0) pa 32 true :=
  ⟨⟨user (fun c => { c with q1 := [7] }), issues_of (by decide), by decide⟩, ⟨user, issues_of (by decide), by decide⟩,
    (let s : State := (at2 0x1000000000000).wrNat 0x1000000000000 24 (2 ^ 128 + (2 ^ 32 + 2) * 2 ^ 64 + 0x1000000000000)
     let ⟨w, s1, h, hp⟩ := runs_to (a := loadWords (wrapInt 64 ((s.ctx.rg 2).toNat + sintOf 24 0)) 8) (s := s)
       (fun w _ => (patternOf w).isSome) (by decide +kernel)
     let ⟨pat, e⟩ := Option.isSome_iff_exists.mp hp
     ⟨s, w, s1, pat, issues_of (by decide), by decide, h, e⟩),
    ⟨streaming false, aPattern false, issues_of (by decide), by decide, rfl⟩,
    ⟨(streaming true).modCtx (fun c => c.setStream 2 { c.stream 2 with wr := [] }), aPattern true, issues_of (by decide), by decide, rfl,
      by decide, by decide, by decide⟩,
    ⟨streaming false, aPattern false, pool 0x1000000000000, by decide, by decide, by rfl, clear_of (by decide), own_of (by decide)⟩,
    streaming true, aPattern true, pool 0x1000000000000, by decide, by decide, by decide, by rfl, clear_of (by decide), own_of (by decide)⟩
/-- A core whose region's budget is 32 banks of each role; f changes the core. -/
def rich (f : Core → Core := id) : State := (user id f).wrNat 0x58 8 0x2020202020

def aMove : Move := ⟨.mat, .cch, 8, 0⟩
def moving (c : Core) : Core := { c with move := some aMove }

/-- MAT gains 8 banks of CCH (code 0), a move is under way (code 7), the budget is zero (code 4). -/
theorem witness_PoolMoves :
    (∃ s, Issues (.poolset (ops 0x308)) ops.h s ∧ Issues (.poolsetWait (ops 0x308)) ops.h s ∧ Claims.moveCode (ops 0x308) s = 0) ∧
    (∃ s, Issues (.poolset (ops 0x308)) ops.h s ∧ Issues (.poolsetWait (ops 0x308)) ops.h s ∧ Claims.moveCode (ops 0x308) s = 7) ∧
    (∃ s, Issues (.poolset (ops 0x308)) ops.h s ∧ Issues (.poolsetWait (ops 0x308)) ops.h s ∧ Claims.moveCode (ops 0x308) s = 4) ∧
    (∃ (s : State) (m : Move), (s.coreAt 0).move = some m ∧ m.gain ≠ m.give ∧ (roleKey 0 m.gain).isSome = true ∧ m.gain ≠ .msg) ∧
    (∃ s, Issues (.poolrd (ops 0x200)) ops.h s) ∧
    (∃ s : State, Issues (.hwmSet ops) ops.h s ∧ (ops.src ops.h.s1).run s = .ok (0x20000, s) ∧ (0x20000 : Word).toNat ≤ 0x80000 ∧
      ((0x20000 : Word).toNat + 0x1FFF) / 0x2000 ≤ s.here.bankCount .scr) ∧
    ∃ s : State, Issues (.hwmSet ops) ops.h s ∧ (ops.src ops.h.s1).run s = .ok (0x20001, s) ∧
      s.here.bankCount .scr < ((0x20001 : Word).toNat + 0x1FFF) / 0x2000 :=
  ⟨⟨rich, issues_of (by decide), issues_of (by decide), by decide +kernel⟩,
    ⟨rich moving, issues_of (by decide), issues_of (by decide), by decide +kernel⟩,
    ⟨user, issues_of (by decide), issues_of (by decide), by decide +kernel⟩,
    ⟨user id moving, aMove, by decide, by decide, by decide, by decide⟩,
    ⟨user, issues_of (by decide)⟩, ⟨vals [0x20000], issues_of (by decide), (sources rfl rfl).1, by decide, by decide⟩,
    vals [0x20001], issues_of (by decide), (sources rfl rfl).1, by decide⟩

/-- A POOLSET.wait of 8 banks from CCH to MAT that stalled. -/
abbrev waitOps : AOps := ⟨hd (.g 9) (.g 0) (.g 0) (.g 0), 0x308⟩
def rechecking (s : State) : State :=
  let w := encode (.poolsetWait waitOps)
  let r := frameFor w
  s.modCtxOf 0 0 (fun c => { c with line := some ⟨0, lineBits r.1 r.2.1 [w, r.2.2]⟩, stall := some ⟨.pool, true, 0⟩ })

/-- A recheck whose check passes (code 0), and one whose region's budget no longer allows the move (code 4). -/
theorem witness_PoolMoveRecheck : ∀ x ∈ [(rechecking rich, 0), (rechecking user, 4)], ∃ st : Stall,
    (x.1.at 0 0).ctx.stall = some st ∧ st.why = .pool ∧ (x.1.at 0 0).ctx.current = some (.poolsetWait waitOps) ∧
    Issues (.poolsetWait waitOps) waitOps.h (x.1.at 0 0) ∧ Claims.moveCode waitOps (x.1.at 0 0) = x.2 :=
  fun x hx => ⟨⟨.pool, true, 0⟩, by
    fin_cases hx <;> exact ⟨rfl, rfl, by decide +kernel, issues_of (by decide +kernel), by decide +kernel⟩⟩

abbrev none3 (ext : BitVec 36) (d : Reg := .g 0) (s1 : Reg := .g 0) : AOps := ⟨hd d s1 (.g 0) (.g 0), ext⟩
/-- A narrow f16 tile of MAT at 0. -/
def tile (st : TileState) (readers : Nat := 0) (role : TileRole := .mat) : Tile :=
  ⟨role, .f16, false, 0, st, readers, false, none, none, 0, 0⟩
def tiled (t : Tile) (g : Word := 0) (f : Core → Core := id) : State :=
  user (fun c => c.wg 2 g) (fun c => f { c with tiles := [(4, t)] })

/-- VWV of 256 registers at 0, which fits; VWT of a tile at granule 0, outside the MAT half, which does not; a tile entry that
is invalid, EMPTY, READY, FILLING or read; and a base one granule too high. -/
theorem witness_ViewsAndTiles :
    (∃ s : State, Issues (.viewSet (none3 0x20000000)) (none3 0).h s ∧ (Claims.viewOf (none3 0x20000000)).count ≠ 0 ∧
      Claims.ViewFree s.here 0 256 ∧ Claims.viewPlaced s.here 0 (Claims.viewOf (none3 0x20000000))) ∧
    (∃ s : State, Issues (.viewSet (none3 0x4C0200000)) (none3 0).h s ∧ (Claims.viewOf (none3 0x4C0200000)).count ≠ 0 ∧
      Claims.ViewFree s.here 1 1 ∧ ¬ Claims.viewPlaced s.here 1 (Claims.viewOf (none3 0x4C0200000))) ∧
    (∃ s : State, Issues (.viewClr (none3 0x400000000)) (none3 0).h s ∧ Claims.ViewFree s.here 1 0) ∧
    (∃ s : State, Issues (.tset (none3 0xC0000000 (.t 4) (.g 2))) (none3 0 (.t 4) (.g 2)).h s ∧ s.here.vwt.count ≤ 4 ∧
      tfind s.here.tiles 4 = none ∧ (let n := Claims.tileOf (none3 0xC0000000 (.t 4) (.g 2)) (s.ctx.rg 2)
        s.here.tileMoving n = false ∧ s.here.tileFits n = true)) ∧
    (∃ s : State, Issues (.tset (none3 0xC0000000 (.t 4) (.g 2))) (none3 0 (.t 4) (.g 2)).h s ∧ s.here.vwt.count ≤ 4 ∧
      tfind s.here.tiles 4 = some (tile .empty) ∧ s.here.tileMoving (tile .empty) = false ∧
        (let n := Claims.tileOf (none3 0xC0000000 (.t 4) (.g 2)) (s.ctx.rg 2)
        s.here.tileMoving n = false ∧ s.here.tileFits n = false)) ∧
    (∃ s : State, Issues (.tset (none3 0xC0000000 (.t 4) (.g 2))) (none3 0 (.t 4) (.g 2)).h s ∧ s.here.vwt.count ≤ 4 ∧
      tfind s.here.tiles 4 = some (tile .ready) ∧ s.here.tileMoving (tile .ready) = false) ∧
    (∃ s : State, Issues (.tstat (none3 0 (.g 1) (.t 4))) (none3 0 (.g 1) (.t 4)).h s ∧
      Issues (.tclr (none3 0 (.g 1) (.t 4))) (none3 0 (.g 1) (.t 4)).h s ∧ tfind s.here.tiles 4 = none) ∧
    ∀ t ∈ [tile .filling, tile .draining, tile .ready 1, tile .ready], ∃ s : State,
      Issues (.tstat (none3 0 (.g 1) (.t 4))) (none3 0 (.g 1) (.t 4)).h s ∧
      Issues (.tclr (none3 0 (.g 1) (.t 4))) (none3 0 (.g 1) (.t 4)).h s ∧ tfind s.here.tiles 4 = some t ∧
      s.here.tileMoving t = false :=
  ⟨⟨user, issues_of (by decide), by decide, ⟨by decide, by decide, by decide⟩, ⟨by decide, by decide, by decide⟩⟩,
    ⟨user, issues_of (by decide), by decide, ⟨by decide, by decide, by decide⟩, fun h => absurd (h.2.1 (by decide)) (by decide)⟩,
    ⟨user, issues_of (by decide), ⟨by decide, by decide, by decide⟩⟩,
    ⟨vals [0x1F800], issues_of (by decide), by decide, by decide, by decide, by decide⟩,
    ⟨tiled (tile .empty) 0x1F820, issues_of (by decide), by decide, by decide, by decide, by decide, by decide⟩,
    ⟨tiled (tile .ready), issues_of (by decide), by decide, by decide, by decide⟩,
    ⟨user, issues_of (by decide), issues_of (by decide), by decide⟩,
    fun t ht => ⟨tiled t, by
      fin_cases ht <;> exact ⟨issues_of (by decide), issues_of (by decide), by decide, by decide⟩⟩⟩

abbrev sops (n : Fin 510) (ext : BitVec 36 := 0) : AOps := ⟨hd (.g 1) (.sys n) (.g 0) (.g 0), ext⟩
abbrev wops (n : Fin 510) : AOps := ⟨hd (.sys n) (.g 2) (.g 0) (.g 0), 0⟩

theorem witness_SystemRegisters :
    (∃ s : State, Issues (.winSet (none3 6 (.g 0) (.g 2))) (none3 6 (.g 0) (.g 2)).h s ∧ (s.ctx.rg 2).toNat % 8 = 0 ∧
      (s.ctx.rg 2).toNat < 2 ^ 56) ∧
    (∃ s : State, Issues (.winSet (none3 6 (.g 0) (.g 2))) (none3 6 (.g 0) (.g 2)).h s ∧ 2 ^ 56 ≤ (s.ctx.rg 2).toNat) ∧
    (∃ s : State, Issues (.srd (sops 0x036)) (sops 0x036).h s ∧ Issues (.srd (sops 0x035)) (sops 0x035).h s ∧ s.ctx.mode = .u ∧
      Claims.settled s.ctx 0x036) ∧
    (∃ s : State, Issues (.srd (sops 0x035)) (sops 0x035).h s ∧ s.ctx.mode = .s ∧ Claims.settled s.ctx 0x035) ∧
    (∃ s : State, Issues (.swr (wops 0x015)) (wops 0x015).h s ∧ s.ctx.mode = .s ∧ ((wops 0x015).src (.g 2)).run s = .ok (3, s)) ∧
    (∃ s : State, Issues (.swr (wops 0x015)) (wops 0x015).h s ∧ s.ctx.mode = .u ∧ ((wops 0x015).src (.g 2)).run s = .ok (3, s)) ∧
    (∃ s : State, Issues (.flagRegisterWrite (wops 0x016)) (wops 0x016).h s ∧ s.ctx.xseq = [] ∧ s.ctx.xbusy = false ∧
      ((wops 0x016).src (.g 2)).run s = .ok (3, s)) ∧
    (∃ s : State, Issues (.sclbaseWrite (wops 0x01B)) (wops 0x01B).h s ∧ s.here.scaleReaders = false ∧
      ((wops 0x01B).src (.g 2)).run s = .ok (3, s)) ∧
    (∃ s : State, Issues (.viewRegisterWrite (wops 0x012)) (wops 0x012).h s ∧ s.ctx.mode = .u ∧
      ((wops 0x012).src (.g 2)).run s = .ok (3, s)) ∧
    (∃ s : State, Issues (.viewRegisterWrite (wops 0x012)) (wops 0x012).h s ∧ s.ctx.mode = .s ∧
      ((wops 0x012).src (.g 2)).run s = .ok (0x1000000, s) ∧ Claims.ViewFree s.here 0 256 ∧ viewLegal 0 0 256 0 = true ∧
      Claims.viewPlaced s.here 0 ⟨0, 256, 0⟩) ∧
    ∃ s : State, Issues (.viewRegisterWrite (wops 0x014)) (wops 0x014).h s ∧ s.ctx.mode = .s ∧
      ((wops 0x014).src (.g 2)).run s = .ok (0x0000FFFF, s) ∧ Claims.ViewFree s.here 2 0 :=
  ⟨⟨vals [0xFFFFFFFFFFFFF8], issues_of (by decide), by decide, by decide⟩, ⟨vals [0x100000000000000], issues_of (by decide), by decide⟩,
    ⟨user, issues_of (by decide), issues_of (by decide), by decide, fun _ => by decide⟩,
    ⟨sys, issues_of (by decide), by decide, fun _ => by decide⟩,
    ⟨inS (vals [3]), issues_of (by decide), by decide, by rfl⟩, ⟨vals [3], issues_of (by decide), by decide, by rfl⟩,
    ⟨vals [3], issues_of (by decide), by decide, by decide, by rfl⟩, ⟨vals [3], issues_of (by decide), by decide, by rfl⟩,
    ⟨vals [3], issues_of (by decide), by decide, by rfl⟩,
    ⟨inS (vals [0x1000000]), issues_of (by decide), by decide, by rfl, ⟨by decide, by decide, by decide⟩, by decide,
      ⟨by decide, by decide, by decide⟩⟩,
    inS (vals [0x0000FFFF]), issues_of (by decide), by decide, by rfl, ⟨by decide, by decide, by decide⟩⟩
abbrev xops (d s1 s2 s3 : Reg) (f1 : Fmt := .f32) (w : BitVec 20 := 0) : XOps :=
  ⟨hd d s1 s2 s3, 0, 0, 0, f1, .none, false, false, w⟩
/-- A view of 256 v registers at 0. -/
def viewed (c : Core) : Core := { c with vwv := ⟨0, 256, 0⟩ }
def entry (i : Instr) (s1 s2 s3 : Word := 0) : XEntry := { anEntry with i := i, s1 := s1, s2 := s2, s3 := s3 }
/-- The X-half of the firing runs the entry. -/
def running (e : XEntry) (f : Ctx → Ctx := id) (g : Core → Core := viewed) : State :=
  { user (fun c => f { c with xseq := [.entry e] }) g with half := true }

theorem runs_of {i : Instr} {e : XEntry} {s : State}
    (h : (s.half && s.ctx.canRun && decide (s.ctx.xhead = some e) && e.live && decide (e.i = i) && !e.skip) = true) : Claims.Runs i e s := by
  simp only [Bool.and_eq_true, decide_eq_true_eq, Bool.not_eq_true'] at h
  exact ⟨h.1.1.1.1.1, h.1.1.1.1.2, h.1.1.1.2, h.1.1.2, h.1.2, h.2⟩

theorem dispatches_of {i : Instr} {h : Hd} {s : State}
    (hc : (!s.half && s.ctx.canIssue && s.ctx.mode == .u && !s.ctx.xskip && s.ctx.rp h.pg.toNat && decide (s.ctx.xcount < 16) &&
      s.ctx.xseq.all (fun x => match x with | .loop _ => false | .entry _ => true) &&
      (List.range 32).all (fun k => s.ctx.pendOf k == .ready) && i.gRegs.all (· < 32)) = true) : Claims.Dispatches i h s := by
  simp only [Bool.and_eq_true, Bool.not_eq_true', beq_iff_eq, decide_eq_true_eq, List.all_eq_true, List.mem_range] at hc
  obtain ⟨⟨⟨⟨⟨⟨⟨⟨h1, h2⟩, h3⟩, h0⟩, h4⟩, h5⟩, h6⟩, h7⟩, h8⟩ := hc
  exact ⟨h1, h2, h3, h0, h4, h5, fun l hl => absurd (h6 _ hl) (by simp), fun k hk => h7 k (h8 k hk), fun k _ => h7 _ k.isLt⟩

/-- The dispatch of VADD v3, v1, v2 with 15 entries in the sequencer; and of v3 as source in a view of three registers. -/
theorem witness_VectorDispatch : ∃ (s t : State) (o : XOps), Claims.vector (.vadd o) = some o ∧
    Claims.Dispatches (.vadd o) o.h s ∧ Claims.Dispatches (.vadd o) o.h t ∧
    (∀ u ∈ [s, t], ∀ r ∈ [o.h.s1, o.h.s2, o.h.s3], (srcW o.w true r).run u = .ok (0, u)) ∧
    s.here.outOfView (o.local o.h) = none ∧ t.here.outOfView (o.local o.h) = some 3 :=
  ⟨user (fun c => { c with xseq := List.replicate 15 (.entry anEntry) }) viewed,
    user id (fun c => { c with vwv := ⟨0, 3, 0⟩ }), xops (.v 3) (.v 1) (.v 2) (.g 0), rfl,
    dispatches_of (by decide), dispatches_of (by decide),
    fun u hu r hr => by fin_cases hu <;> fin_cases hr <;> rfl, by decide, by decide⟩

/-- v3 takes a function of v1 and v2, whose lanes are given. -/
def lanesOf (i : Instr) (a b : V256) (e1 e2 e3 : Word := 0) (f : Ctx → Ctx := id) : State :=
  ((running (entry i e1 e2 e3) f).writeV 0 1 a).writeV 0 2 b

def stride (pass : Nat) : XLoop := ⟨0, 1, 30, 0, 7, 0, 0, [entry (.vadd (xops (.v 3) (.v 1) (.v 2) (.g 0)))], pass, 0⟩
def looped (pass : Nat) : State := user (fun c => { c with xseq := [.loop (stride pass)] }) (fun c => { c with vwv := ⟨0, 128, 0⟩ })

/-- A loop whose source index is 127 in pass 18, the last of a view of 128, and 134 in pass 19. -/
theorem witness_VectorOperands : ∃ (s t u v : State) (e : QEntry) (o : XOps) (l m : XLoop),
    (s.core / 4 * 4 + (s.core + (3 : BitVec 2).toNat) % 4 = 3) ∧ 7 < (s.coreAt 3).vwv.count ∧ (s.coreAt 3).vwv.count ≤ 8 ∧
    s.here.busyBytes = [] ∧ s.here.tiles = [] ∧ s.ctx.inLoop = false ∧ s.ctx.q1.length < 16 ∧ t.ctx.q0 = [e] ∧ e.need = 0 ∧
    e.err = none ∧ 16 ≤ t.ctx.q1.length ∧ u.ctx.xseq = [.loop l] ∧ u.here.busyBytes = [] ∧ u.here.tiles = [] ∧
    u.here.outOfView (o.local (Hd.moved o.h (l.pass * l.sd) (l.pass * l.s1) (l.pass * l.s2) (l.pass * l.s3))) = none ∧
    v.ctx.xseq = [.loop m] ∧ v.here.busyBytes = [] ∧ v.here.tiles = [] ∧
    v.here.outOfView (o.local (Hd.moved o.h (m.pass * m.sd) (m.pass * m.s1) (m.pass * m.s2) (m.pass * m.s3))) = some 134 ∧
    s.bad (regSpaceKey 3 (32 * 7)) 32 = false ∧ ({ s with errs := [regSpaceKey 0 (32 * 7)] } : State).bad (regSpaceKey 0 (32 * 7)) 32 = true :=
  ⟨(user id viewed).modCore 3 (fun c => { c with vwv := ⟨0, 8, 0⟩ }),
    user (fun c => { c with q0 := [⟨0, 0, 7, none⟩], q1 := List.replicate 16 7 }), looped 18, looped 19, ⟨0, 0, 7, none⟩,
    xops (.v 3) (.v 1) (.v 2) (.g 0), stride 18, stride 19, by decide +kernel⟩

/-- VADD, VABS, VAND and VCMP of v1 and v2 into v3, and DIV.tz by zero. -/
def vops : XOps := xops (.v 3) (.v 1) (.v 2) (.g 0)
def divTz : XOps := { vops with tz := true }

theorem witness_VectorLanes : ∃ (s t u : State) (e d : XEntry) (f g : Nat → Nat → Nat → Nat → Nat × Flags) (draw : Nat → Nat),
    Claims.lanes (.vadd vops) = some (vops, f) ∧ Claims.lanes (.div divTz) = some (divTz, g) ∧ Claims.Runs (.vadd vops) e s ∧
    Claims.Runs (.div divTz) d t ∧ (passFields vops).run s = .ok (vops.h, s) ∧ (passFields divTz).run t = .ok (vops.h, t) ∧
    (∀ x ∈ [s, t], (laneSource 0 (.v 1) 0 32).run x = .ok (x.readV 0 1, x) ∧ (laneSource 0 (.v 2) 0 32).run x = .ok (x.readV 0 2, x) ∧
      (laneSource 0 (.g 0) 0 32).run x = .ok (ofLanes 32 (List.replicate 8 0), x) ∧ (drawStep 0 8 32).run x = .ok (draw, x)) ∧
    Claims.quiet vops (((List.range 8).map (fun k => f (draw k) (lane (s.readV 0 1) 32 k) (lane (s.readV 0 2) 32 k) 0)).map (·.2)) ∧
    ¬ Claims.quiet divTz (((List.range 8).map (fun k => g (draw k) (lane (t.readV 0 1) 32 k) (lane (t.readV 0 2) 32 k) 0)).map (·.2)) ∧
    (writeVector (.v 3) 0).run s = .ok ((), u) :=
  ⟨lanesOf (.vadd vops) 0x3F800000 0x40000000, lanesOf (.div divTz) 0x3F800000 0, _, entry (.vadd vops), entry (.div divTz), _, _, _,
    rfl, rfl, runs_of (by decide), runs_of (by decide), by rfl, by rfl,
    fun x hx => by fin_cases hx <;> exact ⟨rfl, rfl, by rfl, by rfl⟩,
    fun x _ => ⟨fun h => absurd h (by decide), fun h => absurd h (by decide)⟩,
    fun h => absurd ((h 8 (by decide +kernel)).2 rfl) (by decide), rfl⟩

/-- What the statements on vector entries ask of a state in which the X-half runs entry e of i: its fields pass and v1 and v2
can be read. -/
def Ready (i : Instr) (o : XOps) (e : XEntry) (s : State) : Prop :=
  Claims.Runs i e s ∧ (passFields o).run s = .ok (o.h, s) ∧ s.ctx.inLoop = false ∧
    (laneSource 0 (.v 1) e.s1 o.fmt1.width).run s = .ok (s.readV 0 1, s) ∧
    (laneSource 0 (.v 2) e.s2 o.fmt1.width).run s = .ok (s.readV 0 2, s) ∧
    ∀ v, (writeVector (.v 3) v).run s = .ok ((), s.writeV 0 3 v)

/-- One instruction of each clause: a selector of 1 and one of 2 for VZIP, and lane 7, the last, and 8 for VBCAST, VINS and
VEXT. -/
theorem witness_VectorMoves :
    ((∃ f, Claims.maps (.vabs vops) = some (vops, f)) ∧ ∃ f, Claims.pairs (.vand vops) = some (vops, 64, f)) ∧
    ∀ x ∈ [(Instr.vabs vops, (0 : Word), (0 : Word)), (.vand vops, 0, 0), (.vzip vops, 0, 1), (.vzip vops, 0, 2), (.vunzip vops, 0, 1),
      (.vbcast vops, 7, 0), (.vbcast vops, 8, 0), (.vrot vops, 9, 0), (.vmov vops, 0, 0), (.vins vops, 7, 0), (.vins vops, 8, 0),
      (.vext vops, 7, 0), (.vext vops, 8, 0), (.vsign vops, 0, 0)],
      ∃ s : State, Ready x.1 vops (entry x.1 0 x.2.1 x.2.2) s :=
  ⟨⟨⟨_, rfl⟩, ⟨_, rfl⟩⟩, fun x hx => ⟨running (entry x.1 0 x.2.1 x.2.2), by
    fin_cases hx <;> exact ⟨runs_of (by decide), by rfl, by decide, rfl, rfl, fun _ => rfl⟩⟩⟩

def cvtOps : XOps := { vops with fmt1 := .f16, fmt2 := .f32 }
abbrev randOps : XOps := xops (.v 3) (.g 0) (.g 0) (.g 0) .f32

/-- VCVT to a half of the lanes, with part 1, the last, and 2; and VRAND at a counter one below its end and at it. -/
theorem witness_VectorConversions :
    (∀ i ∈ [Instr.vcmp vops, .vrsum vops, .vadds { vops with fmt1 := .i32 }], ∃ s : State, Ready i vops (entry i) s) ∧
    (∀ part ∈ ([1, 2] : List Word), ∃ s : State, Ready (.vcvt cvtOps) cvtOps (entry (.vcvt cvtOps) 0 part) s) ∧
    (∃ (s t : State) (r : List (Nat × List Flags)), Ready (.vrsum vops) vops (entry (.vrsum vops)) s ∧
      (reduceTree 0 32 (fun u a b => addF .f32 0 u a b) 5 ((List.range 8).map (fun k => (lane (s.readV 0 1) 32 k, [(0 : Flags)])))).run s =
        .ok (r, t) ∧ (match r with | [(_, fl)] => fl.all (· == 0) | _ => false) = true) ∧
    ∃ s t : State, Claims.Runs (.vrand randOps) (entry (.vrand randOps)) s ∧ Claims.Runs (.vrand randOps) (entry (.vrand randOps)) t ∧
      s.ctx.rngctr.toNat + 1 < 2 ^ 64 ∧ t.ctx.rngctr.toNat + 1 = 2 ^ 64 ∧ (passFields randOps).run s = .ok (randOps.h, s) :=
  ⟨fun i hi => ⟨running (entry i), by
      fin_cases hi <;> exact ⟨runs_of (by decide), by rfl, by decide, rfl, rfl, fun _ => rfl⟩⟩,
    fun part hp => ⟨running (entry (.vcvt cvtOps) 0 part), by
      fin_cases hp <;> exact ⟨runs_of (by decide), by rfl, by decide, rfl, rfl, fun _ => rfl⟩⟩,
    (let s := running (entry (.vrsum vops))
     let ⟨r, t, h, hp⟩ := runs_to (a := reduceTree 0 32 (fun u a b => addF .f32 0 u a b) 5
       ((List.range 8).map (fun k => (lane (s.readV 0 1) 32 k, [(0 : Flags)])))) (s := s)
       (fun r _ => match r with | [(_, fl)] => fl.all (· == 0) | _ => false) (by decide +kernel)
     ⟨s, t, r, ⟨runs_of (by decide), by rfl, by decide, rfl, rfl, fun _ => rfl⟩, h, hp⟩),
    running (entry (.vrand randOps)) (fun c => { c with rngctr := 0xFFFFFFFFFFFFFFFE }),
    running (entry (.vrand randOps)) (fun c => { c with rngctr := 0xFFFFFFFFFFFFFFFF }), runs_of (by decide), runs_of (by decide),
    by decide, by decide, by rfl⟩
abbrev tops (d s1 s2 s3 : Reg) (f1 : Fmt := .f16) (opt : BitVec 8 := 0) (w : BitVec 20 := 0) : TOps := ⟨hd d s1 s2 s3, f1, .none, opt, w⟩
/-- Views of one accumulator and of two f16 tiles, t2 READY, t4 EMPTY and t5 READY without readers. -/
def matrices (c : Core) : Core :=
  { c with vwz := ⟨0x3000, 1, 0⟩, tiles := [(2, tile .ready 1), (4, tile .empty), (5, tile .ready)] }
/-- An entry that holds a reader of t2, with one posted-table entry. -/
def held (i : Instr) (s1 s2 : Word := 0) : XEntry := { entry i s1 s2 with held := [2], taken := [9] }
def started (e : XEntry) (f : Ctx → Ctx := id) : State := running e f matrices
theorem starts_of {i : Instr} {e : XEntry} {s : State} (h : Claims.Runs i e s) (hl : s.ctx.inLoop = false) (hk : e.held ≠ []) :
    Claims.Starts i e s := ⟨h, hl, .inl hk⟩

abbrev mmaOps : TOps := tops (.z 0) (.t 2) (.t 5) (.g 0)

theorem witness_MatrixStart :
    (∀ i ∈ [Instr.mma mmaOps, .dmma mmaOps], ∃ s : State, Claims.Starts i (held i) s ∧ s.here.arrayBusy = false ∧
      Claims.free s (Claims.acc s 0 ++ s.here.tileSpan 2) (Claims.acc s 0) ∧ s.tileBad 2 = false ∧ s.tileBad 5 = false ∧
      Claims.stream s mmaOps.h.rm 8192) ∧
    (∃ s : State, Claims.Starts (.mmaS mmaOps) (held (.mmaS mmaOps)) s ∧ s.here.arrayBusy = false ∧
      (sparseCheck mmaOps.h .f16 (held (.mmaS mmaOps)).scales).run s = .ok ((), s)) ∧
    (∃ s : State, Claims.Runs (.mscale (tops (.z 0) (.z 0) (.g 3) (.g 4))) (entry (.mscale (tops (.z 0) (.z 0) (.g 3) (.g 4)))) s ∧
      s.ctx.inLoop = false ∧ Claims.free s (Claims.acc s 0 ++ Claims.acc s 0) (Claims.acc s 0) ∧ Claims.stream s 0 256) ∧
    (∃ s : State, Claims.Runs (.mzero mmaOps) (entry (.mzero mmaOps)) s ∧ s.ctx.inLoop = false ∧ Claims.free s [] (Claims.acc s 0)) ∧
    (∃ s : State, Claims.Runs (.mflags (tops (.z 0) (.g 0) (.g 0) (.g 0) .none 1 15))
      (entry (.mflags (tops (.z 0) (.g 0) (.g 0) (.g 0) .none 1 15))) s ∧ s.ctx.inLoop = false ∧
        Claims.free s (Claims.acc s 0) (Claims.acc s 0) ∧ s.ctx.q1.length < 16) ∧
    (∃ s : State, Claims.Starts (.mxpose (tops (.t 4) (.t 2) (.g 0) (.g 0))) (held (.mxpose (tops (.t 4) (.t 2) (.g 0) (.g 0)))) s ∧
      tfind s.here.tiles 2 = some (tile .ready 1) ∧ s.here.tileMoving (tile .ready 1) = false ∧
      Claims.Takes s (some (s.fc % 4)) 4 (tile .empty) (held (.mxpose (tops (.t 4) (.t 2) (.g 0) (.g 0)))).seq ∧
      Claims.free s (tile .ready 1).span (tile .empty).span ∧ s.tileBad 2 = false) ∧
    (∃ (s : State) (p : List ((Nat × Nat) × (Nat × Nat))), Claims.Runs (.mcvt (tops (.t 5) (.z 0) (.g 0) (.g 0))) (entry (.mcvt (tops (.t 5) (.z 0) (.g 0) (.g 0)))) s ∧
      s.ctx.inLoop = false ∧ Claims.Takes s (some (s.fc % 4)) 5 (tile .ready) 0 ∧ mcvtPlan s.here.vwz.shape 0 (tile .ready) = some p ∧
      Claims.free s (Claims.acc s 0) (tile .ready).span) ∧
    (∃ (s u : State), Claims.Starts (.mdrain (tops (.g 0) (.z 0) (.g 3) (.g 0))) (held (.mdrain (tops (.g 0) (.z 0) (.g 3) (.g 0))) 0 0x1000000000000) s ∧
      Claims.free s (Claims.acc s 0) [] ∧ gaCore 0x1000000000000 = s.core ∧ (drainSelf 0 0x1000000000000 32).run s = .ok ((), u)) ∧
    ∃ s : State, Claims.Starts (.mdrain (tops (.g 0) (.z 0) (.g 3) (.g 0))) (held (.mdrain (tops (.g 0) (.z 0) (.g 3) (.g 0))) 0 0x1000400000000) s ∧
      Claims.free s (Claims.acc s 0) [] ∧ gaCore 0x1000400000000 ≠ s.core :=
  ⟨fun i hi => ⟨started (held i), by
      fin_cases hi <;> exact ⟨starts_of (runs_of (by decide)) (by decide) (by decide), by decide, by unfold Claims.free; decide, rfl, rfl, fun h => absurd h (by decide)⟩⟩,
    ⟨started (held (.mmaS mmaOps)), starts_of (runs_of (by decide)) (by decide) (by decide), by decide, leaves (by decide +kernel)⟩,
    ⟨started (entry (.mscale (tops (.z 0) (.z 0) (.g 3) (.g 4)))), runs_of (by decide), by decide, by unfold Claims.free; decide,
      fun h => absurd h (by decide)⟩,
    ⟨started (entry (.mzero mmaOps)), runs_of (by decide), by decide, by unfold Claims.free; decide⟩,
    ⟨started (entry (.mflags (tops (.z 0) (.g 0) (.g 0) (.g 0) .none 1 15))) (fun c => { c with q1 := List.replicate 15 7 }), runs_of (by decide),
      by decide, by unfold Claims.free; decide, by decide⟩,
    ⟨started (held (.mxpose (tops (.t 4) (.t 2) (.g 0) (.g 0)))), starts_of (runs_of (by decide)) (by decide) (by decide), by decide, by decide,
      ⟨by decide, by decide, by decide, by decide⟩, by unfold Claims.free; decide, rfl⟩,
    ⟨running (entry (.mcvt (tops (.t 5) (.z 0) (.g 0) (.g 0)))) id (fun c => { matrices c with tiles := [(5, tile .ready)] }), _, runs_of (by decide), by decide, ⟨by decide, by decide, by decide, by decide⟩, rfl,
      by unfold Claims.free; decide⟩,
    (let s := started (held (.mdrain (tops (.g 0) (.z 0) (.g 3) (.g 0))) 0 0x1000000000000)
     let ⟨_, u, h, _⟩ := runs_to (a := drainSelf 0 0x1000000000000 32) (s := s) (fun _ _ => true) (by decide +kernel)
     ⟨s, u, starts_of (runs_of (by decide)) (by decide) (by decide), by unfold Claims.free; decide, by decide, h⟩),
    started (held (.mdrain (tops (.g 0) (.z 0) (.g 3) (.g 0))) 0 0x1000400000000), starts_of (runs_of (by decide)) (by decide) (by decide),
      by unfold Claims.free; decide, by decide⟩
/-- The entry has started and its unit completes it. -/
def busyWith (e : XEntry) (f : Ctx → Ctx := id) : State := started e (fun c => f { c with xbusy := true })
abbrev wideOps : TOps := tops (.z 0) (.t 2) (.t 5) (.g 0) .f32

theorem witness_MatrixComplete :
    (∀ i ∈ [Instr.mma mmaOps, .mmaS mmaOps, .mma wideOps, .dmma mmaOps, .mscale mmaOps, .mzero mmaOps, .mflags mmaOps, .mcvt mmaOps,
      .mxpose (tops (.t 4) (.t 2) (.g 0) (.g 0))],
      ∃ t : State, t = (busyWith (held i)).at 0 0 true ∧ Claims.Completes (held i) t ∧ tfind t.here.tiles 2 = some (tile .ready 1) ∧
        tfind t.here.tiles 5 = some (tile .ready) ∧ tfind t.here.tiles 4 = some (tile .empty) ∧ t.ctx.q1.length < 16 ∧
        t.resultWaits (held i) = false) ∧
    (∃ (t v : State) (u : Nat → Nat), t = (busyWith (held (.mma mmaOps))).at 0 0 true ∧ (drawStep 0 2048 32).run t = .ok (u, v)) ∧
    ∃ (t v : State), t = (busyWith (held (.mscale mmaOps))).at 0 0 true ∧
      (scaleAccumulator mmaOps mmaOps.h (held (.mscale mmaOps))).run t = .ok ((), v) :=
  ⟨fun i hi => ⟨_, rfl, by
      fin_cases hi <;> exact ⟨⟨by decide, by decide, by decide⟩, by decide, by decide, by decide, by decide, by decide⟩⟩,
    ⟨_, _, _, rfl, rfl⟩,
    let s := (busyWith (held (.mscale mmaOps))).at 0 0 true
    let ⟨_, v, h, _⟩ := runs_to (a := scaleAccumulator mmaOps mmaOps.h (held (.mscale mmaOps))) (s := s) (fun _ _ => true) (by decide +kernel)
    ⟨s, v, rfl, h⟩⟩

/-- Rows of 64 bytes of the own SCR role, 64 bytes apart. -/
abbrev loadOps : TOps := tops (.t 4) (.g 2) (.g 3) (.g 0) .none
abbrev storeOps : TOps := tops (.g 0) (.g 2) (.g 3) (.t 5) .none
/-- Row 31 of tile 4 is still to land. -/
def filling (todo : List Part) : State :=
  user id (fun c => { matrices c with tiles := [(4, tile .filling)], fills := [⟨0, 4, 0, 0, todo, 0⟩] })
def lastPart : Part := ⟨31, 0, 0x1000000000000, 0x1000000000000, 64, .sc, 0⟩

theorem witness_TileTransfers :
    (∃ (s s1 : State) (rows : List (List Part)), Claims.Runs (.mload loadOps) (entry (.mload loadOps) 0x1000000000000 64) s ∧
      s.ctx.inLoop = false ∧ tfind s.here.tiles 4 = some (tile .empty) ∧ s.here.tileMoving (tile .empty) = false ∧
      (afterAccesses 0).run s = .ok ((), s) ∧ (allRows .r 0x1000000000000 64 (tile .empty).memRow 32 0).run s = .ok (rows, s1) ∧
      decide (s1 = s) = true ∧ Claims.free s [] (tile .empty).span ∧ Claims.Takes s (some (s.fc % 4)) 4 (tile .empty) 0) ∧
    (∃ (s s1 : State) (rows : List (List Part)), Claims.Starts (.mstore storeOps) (held (.mstore storeOps) 0x1000000000000 64) s ∧
      tfind s.here.tiles 5 = some (tile .ready) ∧ s.here.tileMoving (tile .ready) = false ∧ (afterAccesses 0).run s = .ok ((), s) ∧
      (allRows .w 0x1000000000000 64 (tile .ready).memRow 32 0).run s = .ok (rows, s1) ∧
      decide (s1.ctx.xhead = some (held (.mstore storeOps) 0x1000000000000 64) ∧ Claims.free s1 (tile .ready).span [] ∧ s1.tileBad 5 = false) = true ∧
      (tile .ready).state = .ready) ∧
    (∃ (s : State) (f : Fill), (s.coreAt 0).fills.find? (·.tile == 4) = some f ∧ f.todo = []) ∧
    (∃ (s s1 : State) (f : Fill) (x : Nat) (cts : Option Nat), (s.coreAt 0).fills.find? (·.tile == 4) = some f ∧ f.todo = [lastPart] ∧
      ({ s with fresh := s.fresh + 1 } : State).touch ⟨f.id, 0, f.fc⟩ f.rcb f.cts lastPart.phys lastPart.size (fun _ => none) =
        .ok (s1, x, cts) ∧
      (tfind ((s1.modCtxOf 0 f.fc (fun c => { c with cts := max c.cts (cts.getD 0) })).coreAt 0).tiles 4).isSome = true) ∧
    (∃ (s : State) (f : Fill) (tr : Trap), (s.coreAt 0).fills.find? (·.tile == 4) = some f ∧ f.todo = [lastPart] ∧
      ({ s with fresh := s.fresh + 1 } : State).touch ⟨f.id, 0, f.fc⟩ f.rcb f.cts lastPart.phys lastPart.size (fun _ => none) =
        .error (.trap tr)) ∧
    (∃ s : State, Claims.Completes (held (.mstore storeOps)) (s.at 0 0 true)) ∧
    ∃ s : State, Claims.Completes (held (.mdrain storeOps)) (s.at 0 0 true) ∧ ∀ id ∈ (held (.mdrain storeOps)).taken, tfind s.txns id = none :=
  ⟨(let s := running (entry (.mload loadOps) 0x1000000000000 64) id (fun c => { matrices c with tiles := [(4, tile .empty)] })
    let ⟨rows, s1, h, hp⟩ := runs_to (a := allRows .r 0x1000000000000 64 (tile .empty).memRow 32 0) (s := s) (fun _ t => decide (t = s))
      (by decide +kernel)
    ⟨s, s1, rows, runs_of (by decide), by decide, by decide, by decide, by rfl, h, hp, by unfold Claims.free; decide,
      ⟨by decide, by decide, by decide, by decide⟩⟩),
   (let s := started (held (.mstore storeOps) 0x1000000000000 64)
    let ⟨rows, s1, h, hp⟩ := runs_to (a := allRows .w 0x1000000000000 64 (tile .ready).memRow 32 0) (s := s)
      (fun _ t => decide (t.ctx.xhead = some (held (.mstore storeOps) 0x1000000000000 64) ∧ Claims.free t (tile .ready).span [] ∧ t.tileBad 5 = false))
      (by decide +kernel)
    ⟨s, s1, rows, starts_of (runs_of (by decide)) (by decide) (by decide), by decide, by decide, by rfl, h, hp, rfl⟩),
   ⟨filling [], ⟨0, 4, 0, 0, [], 0⟩, by decide, rfl⟩,
   (let s := filling [lastPart]
    let ⟨(s1, x, cts), h, hp⟩ := answers (e := ({ s with fresh := s.fresh + 1 } : State).touch ⟨0, 0, 0⟩ 0 0 lastPart.phys 64 (fun _ => none))
      (fun r => (tfind ((r.1.modCtxOf 0 0 (fun c => { c with cts := max c.cts (r.2.2.getD 0) })).coreAt 0).tiles 4).isSome)
      (by decide +kernel)
    ⟨s, s1, ⟨0, 4, 0, 0, [lastPart], 0⟩, x, cts, by decide, rfl, h, hp⟩),
   (let s : State := { filling [lastPart] with errs := [0x1000000000000] }
    let ⟨tr, h⟩ := traps (e := ({ s with fresh := s.fresh + 1 } : State).touch ⟨0, 0, 0⟩ 0 0 lastPart.phys 64 (fun _ => none))
      (by decide +kernel)
    ⟨s, ⟨0, 4, 0, 0, [lastPart], 0⟩, tr, by decide, rfl, h⟩),
   ⟨busyWith (held (.mstore storeOps)), ⟨by decide, by decide, by decide⟩⟩,
   busyWith (held (.mdrain storeOps)), ⟨by decide, by decide, by decide⟩, by decide⟩
/-! Graph actors: a variable and a factor of dimension 1 in f32, with state blocks in the own SCR role, an in-slot each in MSG, and a
Factor Type Table of one entry at 0x2000. -/

def slotRing (base : Nat) : Ring := ⟨base, 128, 1, 1, 0, 0, 0, 0⟩
def variable0 : Bound := { plain with
  d := ⟨0x400, 0x1000000000000, 1, 1, 1, 1, 0, [0], [0]⟩
  ins := [slotRing 0] }
def factor0 : Bound := { plain with
  act := 1
  d := ⟨0x400, 0x1000000001000, 1, 1, 1, 2, 0, [0], [0]⟩
  ins := [slotRing 0x80] }
/-- Headers of the state blocks, the type, and the out-slots and in-slots with edge 7 between the two. -/
def graphMemory (s : State) : State :=
  let s := (s.wrNat 0x1000000000000 8 0x10001).wrNat 0x1000000001000 8 2
  let s := (s.wrNat 0x40 8 0x2000).wrNat 0x2000 8 0x101
  let s := (s.wrNat 0x10000000001C0 8 0x4100000007).wrNat 0x1000000001240 8 0x4100000007
  let s := (s.wrNat 0x1000000000238 8 (2 ^ 32)).wrNat 0x10000000012B8 8 0
  (s.wrNat 0x2000000000000 8 0x4100000007).wrNat 0x2000000000080 8 0x4100000007
/-- The firing of actor n runs entry e; both actors are bound. -/
def graphRun (n : Nat) (e : XEntry) (f : Core → Core := id) : State :=
  graphMemory (running e (fun c => { c with firing := some { actor with act := some n, slot := n, cls := n + 1 } })
    (fun c => f { viewed c with binds := [(0, variable0), (1, factor0)], region := some 0 }))

theorem graph_of {i : Instr} {e : XEntry} {s : State} {r w : List (Reg × Nat)} (h : Claims.Runs i e s) (hl : s.ctx.inLoop = false)
    (hf : Claims.free s (r.map (fun p => (32 * s.here.vwv.base + 32 * p.1.index, 32 * p.2)))
      (w.map (fun p => (32 * s.here.vwv.base + 32 * p.1.index, 32 * p.2)))) : Claims.GraphRuns i e s r w := ⟨h, hl, hf⟩

abbrev gops (d s1 s2 : Reg) (w : BitVec 20 := 0) : XOps := xops d s1 s2 (.g 0) .f32 w
/-- No element of a sum raised a condition. -/
def calm (r : Except Stop (List (Nat × Flags) × State)) : Bool :=
  match r with
  | .ok (acc, _) => acc.all (fun x => x.2 == 0)
  | .error _ => false

theorem witness_GraphBeliefs :
    (∃ (s s1 : State) (g : Graph), s.ownBound = some variable0 ∧ variable0.isGraph = true ∧
      Claims.GraphRuns (.gbel (gops (.v 16) (.g 4) (.g 0))) (entry (.gbel (gops (.v 16) (.g 4) (.g 0))) 0x1000000000000) s [] [(.v 16, 4)] ∧
      (graphForm .f32 0).run s = .ok (g, s1) ∧ (g.isVar && calm ((sumVariable g .f32 0 256).run s1)) = true) ∧
    (∃ (s s1 : State) (g : Graph), s.ownBound = some variable0 ∧
      Claims.GraphRuns (.gcomb (gops (.v 16) (.g 4) .lit 0)) (entry (.gcomb (gops (.v 16) (.g 4) .lit 0)) 0x1000000000000) s [] [(.v 16, 4)] ∧
      (graphForm .f32 0).run s = .ok (g, s1) ∧ (g.isVar && decide (0 < g.slots) && calm ((sumVariable g .f32 0 0).run s1)) = true) ∧
    (∃ (s s1 : State) (g : Graph), s.ownBound = some factor0 ∧
      Claims.GraphRuns (.gcomb (gops (.v 16) (.g 4) .lit 255)) (entry (.gcomb (gops (.v 16) (.g 4) .lit 255)) 0x1000000001000) s [] [(.v 16, 16)] ∧
      (graphForm .f32 0).run s = .ok (g, s1) ∧ (!g.isVar && decide (g.t2 % 2 ^ 56 = 0) && calm ((sumFactor g .f32 0 255).run s1)) = true) ∧
    (∃ (s s1 : State) (g : Graph), s.ownBound = some factor0 ∧
      Claims.GraphRuns (.gmarg (gops (.v 16) (.v 32) .lit 0)) (entry (.gmarg (gops (.v 16) (.v 32) .lit 0))) s [(.v 32, 16)] [(.v 16, 4)] ∧
      (graphForm .f32 0).run s = .ok (g, s1) ∧
      (!g.isVar && decide (0 < g.slots) && imageFits .f32 g.joint (s1.readImage 32 512)) = true) ∧
    (∃ (s s1 : State) (g : Graph), s.ownBound = some variable0 ∧
      Claims.GraphRuns (.gdamp (gops (.v 16) (.v 32) (.g 4))) (entry (.gdamp (gops (.v 16) (.v 32) (.g 4))) 0 0x10000000001C0) s [(.v 32, 4)] [(.v 16, 4)] ∧
      (graphForm .f32 0).run s = .ok (g, s1) ∧
      (match (outSlotAt g .f32 0x10000000001C0).run s1 with
        | .ok ((k, _), s2) => imageFits .f32 (g.dim k) (s2.readImage 32 128)
        | .error _ => false) = true) ∧
    ∃ (s s1 : State) (g : Graph), s.ownBound = some variable0 ∧
      Claims.GraphRuns (.gmean (gops (.v 16) (.v 32) (.g 0))) (entry (.gmean (gops (.v 16) (.v 32) (.g 0)))) s [(.v 32, 4)] [(.v 16, 4)] ∧
      (graphForm .f32 0).run s = .ok (g, s1) ∧
      (imageFits .f32 (hdrDim (s1.readImage 32 128)) (s1.readImage 32 128) && g.isVar &&
        decide (hdrDim (s1.readImage 32 128) = g.dim 0)) = true :=
  ⟨(let s := graphRun 0 (entry (.gbel (gops (.v 16) (.g 4) (.g 0))) 0x1000000000000)
    let ⟨g, s1, h, hp⟩ := runs_to (a := graphForm .f32 0) (s := s) (fun g t => g.isVar && calm ((sumVariable g .f32 0 256).run t)) (by decide +kernel)
    ⟨s, s1, g, by decide, by decide, graph_of (runs_of (by decide)) (by decide) (by unfold Claims.free; decide), h, hp⟩),
   (let s := graphRun 0 (entry (.gcomb (gops (.v 16) (.g 4) .lit 0)) 0x1000000000000)
    let ⟨g, s1, h, hp⟩ := runs_to (a := graphForm .f32 0) (s := s)
      (fun g t => g.isVar && decide (0 < g.slots) && calm ((sumVariable g .f32 0 0).run t)) (by decide +kernel)
    ⟨s, s1, g, by decide, graph_of (runs_of (by decide)) (by decide) (by unfold Claims.free; decide), h, hp⟩),
   (let s := graphRun 1 (entry (.gcomb (gops (.v 16) (.g 4) .lit 255)) 0x1000000001000)
    let ⟨g, s1, h, hp⟩ := runs_to (a := graphForm .f32 0) (s := s)
      (fun g t => !g.isVar && decide (g.t2 % 2 ^ 56 = 0) && calm ((sumFactor g .f32 0 255).run t)) (by decide +kernel)
    ⟨s, s1, g, by decide, graph_of (runs_of (by decide)) (by decide) (by unfold Claims.free; decide), h, hp⟩),
   (let s := (graphRun 1 (entry (.gmarg (gops (.v 16) (.v 32) .lit 0)))).writeReg 0 1024 8 0x4100000000
    let ⟨g, s1, h, hp⟩ := runs_to (a := graphForm .f32 0) (s := s)
      (fun g t => !g.isVar && decide (0 < g.slots) && imageFits .f32 g.joint (t.readImage 32 512)) (by decide +kernel)
    ⟨s, s1, g, by decide, graph_of (runs_of (by decide)) (by decide) (by unfold Claims.free; decide), h, hp⟩),
   (let s := (graphRun 0 (entry (.gdamp (gops (.v 16) (.v 32) (.g 4))) 0 0x10000000001C0)).writeReg 0 1024 8 0x4100000000
    let ⟨g, s1, h, hp⟩ := runs_to (a := graphForm .f32 0) (s := s)
      (fun g t => match (outSlotAt g .f32 0x10000000001C0).run t with
        | .ok ((k, _), s2) => imageFits .f32 (g.dim k) (s2.readImage 32 128)
        | .error _ => false) (by decide +kernel)
    ⟨s, s1, g, by decide, graph_of (runs_of (by decide)) (by decide) (by unfold Claims.free; decide), h, hp⟩),
   let s := (graphRun 0 (entry (.gmean (gops (.v 16) (.v 32) (.g 0))))).writeReg 0 1024 8 0x4100000000
   let ⟨g, s1, h, hp⟩ := runs_to (a := graphForm .f32 0) (s := s)
     (fun g t => imageFits .f32 (hdrDim (t.readImage 32 128)) (t.readImage 32 128) && g.isVar &&
       decide (hdrDim (t.readImage 32 128) = g.dim 0)) (by decide +kernel)
   ⟨s, s1, g, by decide, graph_of (runs_of (by decide)) (by decide) (by unfold Claims.free; decide), h, hp⟩⟩
abbrev sendOps : XOps := gops (.g 0) (.g 4) (.v 32)
/-- The firing of the variable sends to the out-slot at 0x10000000001C0, with a message in v32; the slot's header and the actor
it names are as given. -/
def sending (hdr link : Nat) (e : XEntry) : State :=
  (((graphRun 0 e).writeReg 0 1024 8 0x4100000000).wrNat 0x10000000001C0 8 hdr).wrNat 0x1000000000238 8 link
/-- What the clauses on a message ask of it and of its out-slot. -/
def sends (e : XEntry) (s s1 s2 : State) (g : Graph) (k old : Nat) : Prop :=
  s.ownBound = some variable0 ∧ variable0.isGraph = true ∧ (graphForm .f32 0).run s = .ok (g, s1) ∧
    Claims.GraphRuns (.gsend sendOps) e s [(.v 32, 4)] [] ∧ (outSlotAt g .f32 e.s1).run s1 = .ok ((k, old), s2) ∧
    imageFits .f32 (g.dim k) (s2.readImage 32 128) = true
def sendEntry : XEntry := entry (.gsend sendOps) 0x10000000001C0

theorem sends_of {e : XEntry} {s : State} (P : Nat → State → Bool) (hb : s.ownBound = some variable0)
    (hr : Claims.GraphRuns (.gsend sendOps) e s [(.v 32, 4)] [])
    (h : (match (graphForm .f32 0).run s with
      | .ok (g, s1) => (match (outSlotAt g .f32 e.s1).run s1 with
        | .ok ((k, old), s2) => imageFits .f32 (g.dim k) (s2.readImage 32 128) && P old s2
        | .error _ => false)
      | .error _ => false) = true) :
    ∃ s1 s2 g k old, sends e s s1 s2 g k old ∧ P old s2 = true := by
  revert h
  cases hg : (graphForm .f32 0).run s with
  | error e => simp
  | ok r =>
    obtain ⟨g, s1⟩ := r
    simp only
    cases ho : (outSlotAt g .f32 e.s1).run s1 with
    | error e => simp
    | ok r =>
      obtain ⟨⟨k, old⟩, s2⟩ := r
      intro h
      rw [Bool.and_eq_true] at h
      exact ⟨s1, s2, g, k, old, ⟨hb, by decide, hg, hr, ho, h.1⟩, h.2⟩

/-- A message of 120 zero bytes but for its header's edge 7 and a residual. -/
def message (res : Nat) : List Byte := bytesOf 8 7 ++ List.replicate 108 0 ++ bytesOf 4 res
def slotTxn : Txn := { aLoad with op := .slot 0 1 0 (message 0x3F800000) true, target := .pool, ga := 0x2000000000000, size := 120 }

/-- A closed out-slot; one whose peer is not bound, is of the same core, or of another; an arrival at an open slot of its edge, and at
one of another edge. -/
theorem witness_GraphMessages :
    (∃ (s s1 : State) (g : Graph), s.ownBound = some variable0 ∧
      Claims.GraphRuns (.gres (gops (.g 1) (.v 32) (.g 4))) (entry (.gres (gops (.g 1) (.v 32) (.g 4))) 0 0x10000000001C0) s [(.v 32, 4)] [] ∧
      (graphForm .f32 0).run s = .ok (g, s1) ∧
      (match (outSlotAt g .f32 0x10000000001C0).run s1 with
        | .ok ((k, _), s2) => imageFits .f32 (g.dim k) (s2.readImage 32 128) &&
          (match (resolve .w (0x10000000001C0 + 116) 4).run s2 with
            | .ok (p, s3) => (match (writeNow p 4 0).run s3 with | .ok (_, s4) => !s4.ctx.inLoop | .error _ => false)
            | .error _ => false)
        | .error _ => false) = true) ∧
    (∃ s s1 s2 g k old, sends sendEntry s s1 s2 g k old ∧ bit old 37 = true) ∧
    (∃ s s1 s2 g k old, sends sendEntry s s1 s2 g k old ∧ (!bit old 37 && !s2.edgeBusy s2.nextId 0 (bits old 1015 992) 0 &&
      (s2.findActor 0 (bits old 1015 992)).isNone) = true) ∧
    (∃ s s1 s2 g k old, sends sendEntry s s1 s2 g k old ∧ (!bit old 37 && !s2.edgeBusy s2.nextId 0 (bits old 1015 992) 0 &&
      (s2.findActor 0 (bits old 1015 992)).any (fun x => x.1 == s2.core)) = true) ∧
    (∃ s s1 s2 g k old, sends sendEntry s s1 s2 g k old ∧ (!bit old 37 && !s2.edgeBusy s2.nextId 0 (bits old 1015 992) 0 &&
      (s2.findActor 0 (bits old 1015 992)).any (fun x => x.1 != s2.core)) = true) ∧
    (∃ s : State, tfind s.txns 0 = some slotTxn ∧ s.edgeBusy 0 0 1 0 = false) ∧
    (∃ s : State, s.findActor 0 1 = some (0, 1, factor0) ∧ factor0.isGraph = true ∧ 0 < factor0.depth ∧
      bit (s.rdNat (factor0.slotAt 0 0) 8) 38 = true ∧ bit (s.rdNat (factor0.slotAt 0 0) 8) 37 = false ∧
      bits (s.rdNat (factor0.slotAt 0 0) 8) 15 0 = bits (natOfBytes ((message 0).take 8)) 15 0) ∧
    ∃ s : State, s.findActor 0 1 = some (0, 1, factor0) ∧ bit (s.rdNat (factor0.slotAt 0 0) 8) 38 = true ∧
      bits (s.rdNat (factor0.slotAt 0 0) 8) 15 0 ≠ bits (natOfBytes ((message 0).take 8)) 15 0 := by
  refine ⟨?_, ?_, ?_, ?_, ?_, ⟨withTxn slotTxn (graphRun 0 anEntry), by decide, by decide⟩,
    ⟨graphRun 0 anEntry, by rfl, by decide, by decide, by decide +kernel, by decide +kernel, by decide +kernel⟩,
    ⟨(graphRun 0 anEntry).wrNat 0x2000000000080 8 0x4100000008, by rfl, by decide +kernel, by decide +kernel⟩⟩
  · obtain ⟨g, s1, h, hp⟩ := runs_to (a := graphForm .f32 0)
      (s := sending 0x4100000007 0 (entry (.gres (gops (.g 1) (.v 32) (.g 4))) 0 0x10000000001C0))
      (fun g t => match (outSlotAt g .f32 0x10000000001C0).run t with
        | .ok ((k, _), s2) => imageFits .f32 (g.dim k) (s2.readImage 32 128) &&
          (match (resolve .w (0x10000000001C0 + 116) 4).run s2 with
            | .ok (p, s3) => (match (writeNow p 4 0).run s3 with | .ok (_, s4) => !s4.ctx.inLoop | .error _ => false)
            | .error _ => false)
        | .error _ => false) (by decide +kernel)
    exact ⟨_, s1, g, by decide +kernel, graph_of (runs_of (by decide +kernel)) (by decide) (by unfold Claims.free; decide), h, hp⟩
  · obtain ⟨s1, s2, g, k, old, h, hp⟩ := sends_of (e := sendEntry) (s := sending 0x6100000007 0 sendEntry)
      (fun old _ => bit old 37) (by decide +kernel)
      (graph_of (runs_of (by decide +kernel)) (by decide) (by unfold Claims.free; decide)) (by decide +kernel)
    exact ⟨_, s1, s2, g, k, old, h, hp⟩
  · obtain ⟨s1, s2, g, k, old, h, hp⟩ := sends_of (e := sendEntry) (s := sending 0x4100000007 (9 * 2 ^ 32) sendEntry)
      (fun old s2 => !bit old 37 && !s2.edgeBusy s2.nextId 0 (bits old 1015 992) 0 &&
        (s2.findActor 0 (bits old 1015 992)).isNone) (by decide +kernel)
      (graph_of (runs_of (by decide +kernel)) (by decide) (by unfold Claims.free; decide)) (by decide +kernel)
    exact ⟨_, s1, s2, g, k, old, h, hp⟩
  · obtain ⟨s1, s2, g, k, old, h, hp⟩ := sends_of (e := sendEntry) (s := sending 0x4100000007 (2 ^ 32) sendEntry)
      (fun old s2 => !bit old 37 && !s2.edgeBusy s2.nextId 0 (bits old 1015 992) 0 &&
        (s2.findActor 0 (bits old 1015 992)).any (fun x => x.1 == s2.core)) (by decide +kernel)
      (graph_of (runs_of (by decide +kernel)) (by decide) (by unfold Claims.free; decide)) (by decide +kernel)
    exact ⟨_, s1, s2, g, k, old, h, hp⟩
  · obtain ⟨s1, s2, g, k, old, h, hp⟩ := sends_of (e := sendEntry) (s := (sending 0x4100000007 (2 * 2 ^ 32) sendEntry).modCore 5 (fun c => { c with binds := [(0, { factor0 with act := 2 })] }))
      (fun old s2 => !bit old 37 && !s2.edgeBusy s2.nextId 0 (bits old 1015 992) 0 &&
        (s2.findActor 0 (bits old 1015 992)).any (fun x => x.1 != s2.core)) (by decide +kernel)
      (graph_of (runs_of (by decide +kernel)) (by decide) (by unfold Claims.free; decide)) (by decide +kernel)
    exact ⟨_, s1, s2, g, k, old, h, hp⟩
abbrev gset (d : Reg := .g 1) (w : BitVec 20 := 0) : XOps := ⟨hd d (.g 2) (.g 3) (.g 0), 0, 0, 0, .none, .none, false, false, w⟩
/-- The variable's firing issues with g2 and g3 as given; f changes its core. -/
def graphUser (g2 g3 : Word := 0) (f : Core → Core := id) : State :=
  graphMemory (user (fun c => (c.wg 2 g2).wg 3 g3) (fun c => f { c with binds := [(0, variable0), (1, factor0)], region := some 0 }))
/-- The edge record of edge 7 between slot 0 of actor 0 and position 0 of actor 1 stands at 0x1000000000800, and the slots hold it or
none. -/
def withEdge (on : Bool) : State :=
  let s := ((graphUser 0x1000000000800).wrNat 0x1000000000800 8 7).wrNat 0x1000000000810 8 1
  if on then s else (s.wrNat 0x2000000000000 8 0).wrNat 0x2000000000080 8 0

/-- A free edge and one in use; a cut at rest, active, and of a region without graph actors; an actor that has recorded and one that has
not; and quiet and busy cores. -/
theorem witness_GraphEdges :
    (∃ s : State, Issues (.gatt gset) gset.h s ∧ Issues (.gdet gset) gset.h s ∧ (s.ctx.rg 2).toNat % 8 ≠ 0) ∧
    (∀ on ∈ [true, false], ∃ (s1 : State) (w : List Nat), Issues (.gatt gset) gset.h (withEdge on) ∧ Issues (.gdet gset) gset.h (withEdge on) ∧
      (loadWords ((withEdge on).ctx.rg 2).toNat 4).run (withEdge on) = .ok (w, s1) ∧
      ((s1.edgeCheck s1.ctx.rcb (edgeRec w) on).2.isNone && (s1.edgeCheck s1.ctx.rcb (edgeRec w) on).1 != 0 &&
        (s1.edgeCheck s1.ctx.rcb (edgeRec w) !on).2.isSome && (s1.edgeCheck s1.ctx.rcb (edgeRec w) !on).1 == 0) = true) ∧
    (∃ s t u : State, ∀ x ∈ [s, t, u], Issues (.gcut (gset (.g 1) 31)) gset.h x ∧ bits (x.ctx.rg 2).toNat 51 48 = 1 ∧
      (bit (s.rcut 0) 8 = true ∧ bit (t.rcut 0) 8 = false ∧ t.graphActors 0 = 0 ∧ bit (u.rcut 0) 8 = false ∧ u.graphActors 0 ≠ 0)) ∧
    (∀ x ∈ [(0x10001, 0x1000000000000), (0x100010001, 0x1000000000000), (0x100000002, 0x1000000001000)],
      ∃ (s : State) (b : Bound), Issues (.gcutrd gset) gset.h s ∧ s.ownBound = some variable0 ∧ s.ctx.moving = [] ∧
        s.actorAt 0 (BitVec.ofNat 64 x.2) = some (0, b) ∧ s.ghdr 0 b = x.1 ∧ (s.ctx.rg 3).toNat % 32 = 0) ∧
    (∃ (s s1 : State) (ps : List Phys), (resolveBlocks (s.ctx.rg 3).toNat 4).run s = .ok (ps, s1) ∧
      (s.ctx.rg 3).toNat % 32 = 0 ∧ (ownRanges 32 ps).run s1 = .ok ((), s1)) ∧
    (∃ s : State, Issues (.cvrd (gset (.g 1) 7)) gset.h s ∧ s.ownBound = some variable0 ∧ variable0.isGraph = true) ∧
    (∃ s : State, tfind s.flights 0 = some (.cutStart 0 0 1) ∧ ∀ b ∈ (s.coreAt 0).binds, s.arrivalWaits 0 b.2 0 = false) ∧
    (∃ (s : State) (x : Nat × Nat × Bound), tfind s.flights 0 = some (.marker 0 1 0 1) ∧ s.edgeBusy 0 0 1 0 = false ∧ s.findActor 0 1 = some x) ∧
    (∃ s : State, tfind s.flights 0 = some (.marker 0 9 0 1) ∧ s.edgeBusy 0 0 9 0 = false ∧ s.findActor 0 9 = none) ∧
    (∃ (s : State) (r : Region), s.regionAt (s.regionPkg 0) 0 = some r ∧
      (∃ c ∈ s.cores.filter (fun c => c.2.region == some 0), s.quietCore c.2 = false)) ∧
    ∃ (s : State) (r : Region), s.regionAt (s.regionPkg 0) 0 = some r ∧
      (∀ c ∈ s.cores.filter (fun c => c.2.region == some 0), s.quietCore c.2 = true) ∧
      r.quietPass = some ((s.cores.filter (fun c => c.2.region == some 0)).map (fun c => (c.1, c.2.epoch))) ∧
      bit (s.peek 0x90 8) 0 = false := by
  refine ⟨⟨graphUser 4, issues_of (by decide), issues_of (by decide), by decide⟩, fun on hn => ?_,
    ⟨(graphUser 0x1000000000000).wrNat 0x98 8 0x100, user (fun c => c.wg 2 0x1000000000000), graphUser 0x1000000000000, fun x hx => ?_⟩,
    fun x hx => ?_, ?_, ⟨graphUser, issues_of (by decide), by decide, by decide⟩,
    ⟨{ graphUser with flights := [(0, .cutStart 0 0 1)] }, by decide, by decide⟩,
    ⟨{ graphUser with flights := [(0, .marker 0 1 0 1)] }, _, by decide, by decide, by rfl⟩,
    ⟨{ graphUser with flights := [(0, .marker 0 9 0 1)] }, by decide, by decide, by decide⟩,
    ⟨inRegion (graphUser 0 0 (fun c => { c with infl := 1 })), aRegion, by decide, _, List.Mem.head _, by decide⟩,
    ⟨inRegion graphUser (fun r => { r with quietPass := some [(0, 0)] }), _, by rfl, by decide, by decide, by decide +kernel⟩⟩
  · obtain ⟨w, s1, h, hp⟩ := runs_to (a := loadWords ((withEdge on).ctx.rg 2).toNat 4) (s := withEdge on) (fun w s1 =>
      (s1.edgeCheck s1.ctx.rcb (edgeRec w) on).2.isNone && (s1.edgeCheck s1.ctx.rcb (edgeRec w) on).1 != 0 &&
        (s1.edgeCheck s1.ctx.rcb (edgeRec w) !on).2.isSome && (s1.edgeCheck s1.ctx.rcb (edgeRec w) !on).1 == 0)
      (by fin_cases hn <;> decide +kernel)
    exact ⟨s1, w, issues_of (by fin_cases hn <;> decide +kernel), issues_of (by fin_cases hn <;> decide +kernel), h, hp⟩
  · fin_cases hx <;> exact ⟨issues_of (by decide +kernel), by decide +kernel, by decide +kernel, by decide +kernel, by decide +kernel,
      by decide +kernel, by decide +kernel⟩
  · fin_cases hx
    · exact ⟨graphUser 0x1000000000000, variable0, issues_of (by decide), by decide, rfl, by decide, by decide +kernel, by decide⟩
    · exact ⟨(graphUser 0x1000000000000).wrNat 0x1000000000000 8 0x100010001, variable0, issues_of (by decide +kernel), by decide, rfl,
        by decide, by decide +kernel, by decide⟩
    · exact ⟨(graphUser 0x1000000001000).wrNat 0x1000000001000 8 0x100000002, factor0, issues_of (by decide +kernel), by decide, rfl,
        by decide, by decide +kernel, by decide⟩
  · let s := graphUser 0x1000000000000 0x1000000000400
    obtain ⟨ps, s1, h, hp⟩ := runs_to (a := resolveBlocks (s.ctx.rg 3).toNat 4) (s := s) (fun ps t =>
      match (ownRanges 32 ps).run t with | .ok (_, u) => decide (u = t) | .error _ => false) (by decide +kernel)
    exact ⟨s, s1, ps, h, by decide, leaves hp⟩
/-- A cell at `own - 8` of the own SCR role with the given bytes; g4 holds a count. -/
def celled (x : Nat) (count : Word := 5) (f : Ctx → Ctx := id) : State := (at2 (own - 8) .sc id (fun c => f (c.wg 4 count))).wrNat (own - 8) 16 x
/-- GEN, ARR and N of a barrier cell. -/
def gan (gen arr n : Nat) : Nat := gen * 2 ^ 32 + arr + n * 2 ^ 64
abbrev bops : MOps := mops .none 0 (.g 1) (.g 0) 4

theorem barrier_cell {x : Nat} {count : Word} (h : clearNow (celled x count) (pool (own - 8)) 16 = true)
    (ho : ((celled x count).isOwn (pool (own - 8)) && !(celled x count).here.poolWaits 1 (gaOff (own - 8)) 16 true &&
      (celled x count).here.inRole 1 (gaOff (own - 8)) 16 && (true || !(celled x count).bad (own - 8) 16)) = true)
    (hs : gaPkg (own - 8) = corePkg (celled x count).core ∧ (celled x count).bad (own - 8) 16 = false) :
    Claims.Cell (celled x count) (pool (own - 8)) 16 :=
  ⟨clear_of h, own_of ho, by decide, hs.1, hs.2, rfl⟩

/-- A count of 1 and of 2^32; one arrival short of the last, the last, and N not above ARR; GEN that differs and that does not. -/
theorem witness_Barriers :
    (∃ s : State, Issues (.bari cops) cops.h s ∧ Claims.cell s (cops.ea s.ctx) 16 (pool (own - 8)) s ∧ Claims.Cell s (pool (own - 8)) 16 ∧
      Claims.barrier s (pool (own - 8)) = (0, 0, 0) ∧ (s.ctx.rg 4).toNat = 2 ^ 32 - 1) ∧
    (∃ s : State, Issues (.bari cops) cops.h s ∧ Claims.cell s (cops.ea s.ctx) 16 (pool (own - 8)) s ∧ Claims.Cell s (pool (own - 8)) 16 ∧
      (s.ctx.rg 4).toNat = 2 ^ 32) ∧
    (∀ x ∈ [(2, 3, 5), (2, 4, 5), (2, 5, 5)], ∃ s : State, Issues (.bar bops) bops.h s ∧ Claims.cell s (bops.ea s.ctx) 16 (pool (own - 8)) s ∧
      Claims.Cell s (pool (own - 8)) 16 ∧ s.ctx.xseq = [] ∧ s.ctx.xbusy = false ∧ Claims.FencedTo s 4 ∧
      Claims.barrier s (pool (own - 8)) = x) ∧
    ∃ s t : State, Issues (.barw cops) cops.h s ∧ Issues (.barw cops) cops.h t ∧ Claims.cell s (cops.ea s.ctx) 16 (pool (own - 8)) s ∧
      Claims.cell t (cops.ea t.ctx) 16 (pool (own - 8)) t ∧ (Claims.barrier s (pool (own - 8))).1 ≠ (s.ctx.rg 4).toNat % 2 ^ 32 ∧
      (Claims.barrier t (pool (own - 8))).1 = (t.ctx.rg 4).toNat % 2 ^ 32 := by
  refine ⟨⟨celled 0 0xFFFFFFFF, issues_of (by decide +kernel), by rfl, barrier_cell (by decide +kernel) (by decide +kernel) (by decide +kernel), by decide +kernel,
      by decide +kernel⟩,
    ⟨celled 0 0x100000000, issues_of (by decide +kernel), by rfl, barrier_cell (by decide +kernel) (by decide +kernel) (by decide +kernel), by decide +kernel⟩,
    fun x hx => ⟨celled (gan x.1 x.2.1 x.2.2), ?_⟩,
    ⟨celled (gan 2 0 5), celled (gan 5 0 5), issues_of (by decide +kernel), issues_of (by decide +kernel), by rfl, by rfl, by decide +kernel,
      by decide +kernel⟩⟩
  fin_cases hx <;> exact ⟨issues_of (by decide +kernel), by rfl, barrier_cell (by decide +kernel) (by decide +kernel) (by decide +kernel), by decide +kernel,
    by decide +kernel, ⟨by decide +kernel, by decide +kernel, by decide +kernel⟩, by decide +kernel⟩

/-- An address that resolves and changes nothing. -/
theorem resolves {s : State} {ea n : Nat} {p : Phys} {f : Cls → Bool}
    (h : (match (resolveAtomic ea n f).run s with | .ok (q, t) => decide (q = p ∧ t = s) | .error _ => false) = true) :
    (resolveAtomic ea n f).run s = .ok (p, s) := by
  revert h
  cases (resolveAtomic ea n f).run s with
  | error e => simp
  | ok r => intro h; obtain ⟨h1, h2⟩ := of_decide_eq_true h; rw [← h1, ← h2]

abbrev fops : FOps := ⟨hd (.g 0) (.g 2) (.g 4) (.g 0), 8, 0x18⟩
abbrev eops (opt : BitVec 4 := 0) (w : BitVec 20 := 0) (d : Reg := .g 1) (s2 : Reg := .g 3) (s3 : Reg := .g 4) (ch : BitVec 4 := 0)
    (scope : BitVec 3 := 0) : EOps := ⟨hd d (.g 2) s2 s3, false, ch, scope, opt, .none, w⟩
/-- A region whose deques hold 64 tasks a core and whose clusters 16 futures. -/
def quota (s : State) : State := s.wrNat 0x70 8 (64 + 2 ^ 20)
/-- Core 0 has nothing to do in region 0 and core 1 has a task. -/
def thieves : State := inRegion ((State.reset.modCore 0 (fun c => { c with region := some 0, steal := true })).modCore 1
  (fun c => { c with deque := [aTask] }))
/-- A future of cluster 0 in the given state, its handle in g2. -/
def withFuture (e : Future) : State :=
  (user (fun c => c.wg 2 0x1000005)).modCluster 0 (fun x => { x with futures := [(5, e)] })

theorem free_first (i : Nat) : freeFuture [] 65536 i = some (i % 65536) := rfl

/-- A deque with room and one without; a join cell of 2, of 1 and of 0; a future pending, resolved and unknown. -/
theorem witness_TasksAndFutures :
    (∃ s : State, Issues (.fork fops) fops.h s ∧ (s.ctx.rg 2).toNat % 8 = 0 ∧ s.dequeFits 0 0 = true) ∧
    (∃ s : State, Issues (.fork fops) fops.h s ∧ (s.ctx.rg 2).toNat % 8 = 0 ∧ s.dequeFits 0 0 = false) ∧
    (∀ n ∈ [2, 1, 0], ∃ s : State, Issues (.join fops) fops.h s ∧ s.ctx.hasJoined = false ∧
      Claims.cell s (s.ctx.rg 2).toNat 8 (pool (own - 8)) s ∧ Claims.Cell s (pool (own - 8)) 8 ∧ Claims.FencedTo s 4 ∧
      s.rdNat (own - 8) 8 = n) ∧
    (∃ s : State, Issues (.join fops) fops.h s ∧ s.ctx.hasJoined = true ∧ s.ctx.mode = .u ∧ s.ctx.firing = some actor ∧
      (∀ c n, actor.kind ≠ .share c n) ∧ Claims.Ends s) ∧
    (∃ s : State, Issues (.dqcnt eops) eops.h s) ∧
    (∃ (s t : State), Issues (.rfork fops) fops.h s ∧ (s.ctx.rg 2).toNat % 256 = 0 ∧
      (resolveAtomic (s.ctx.rg 2).toNat 8 (fun x => x == .hc || x == .sc)).run s = .ok (pool 0x1000000000000, s) ∧ s.dequeFits 0 0 = true ∧ Claims.Clear s (pool 0x1000000000000) 8 ∧
      Claims.FencedTo s 4 ∧ (∀ x ∈ s.shareCores s.ctx.rcb (s.ctx.rg 4).toNat,
        s.dequeTakes x s.ctx.rcb ((s.shareCores s.ctx.rcb (s.ctx.rg 4).toNat).count x) = true) ∧
      s.shareCores s.ctx.rcb (s.ctx.rg 4).toNat ≠ [] ∧
      (storeWords (s.ctx.rg 2).toNat (shareCell s.ctx (s.shareCores s.ctx.rcb (s.ctx.rg 4).toNat).length
        (fieldTarget s.ctx.pc fops.t2) (s.ctx.rg 4))).run s = .ok ((), t)) ∧
    (∃ (s : State) (t : Task), s.steals 0 = true ∧ ((s.modCore 0 (·.count 8)).coreAt ((stealOrder 0).getD 0 0)).deque = [t] ∧
      (s.coreAt 0).region = some t.rcb ∧ (s.modCore 0 (·.count 8)).effDm t.rcb = false ∧ (stealOrder 0).getD 0 0 ≠ 0) ∧
    (∃ s : State, Issues (.futNew eops) eops.h s ∧ ({ s with fresh := s.fresh + 1 } : State).futureFits 0 0 = false) ∧
    (∃ (s : State) (i : Nat), Issues (.futNew eops) eops.h s ∧ ({ s with fresh := s.fresh + 1 } : State).futureFits 0 0 = true ∧
      freeFuture (s.clusterAt 0).futures 65536 (Config.freeValue s.fresh).toNat = some i) ∧
    (∀ e ∈ ([⟨1, .pending, 0, 0, []⟩, ⟨1, .resolved, 7, 0, []⟩] : List Future), ∃ (s : State) (c n : Nat), s.futureOf 0 (s.ctx.rg 2).toNat = some (c, n, e) ∧
      Issues (.futSet eops) eops.h s ∧ Issues (.futGet eops) eops.h s ∧ Issues (.futFree eops) eops.h s ∧ Claims.FencedTo s 4 ∧
      s.acqOut = false) ∧
    ∃ s : State, s.futureOf 0 (s.ctx.rg 2).toNat = none ∧ Issues (.futFree eops) eops.h s ∧ Issues (.futGet eops) eops.h s := by
  refine ⟨⟨quota user, issues_of (by decide +kernel), by decide +kernel, by decide +kernel⟩,
    ⟨user, issues_of (by decide), by decide, by decide +kernel⟩, fun n hn => ⟨celled n, ?_⟩,
    ⟨user (fun c => { c with joined := some c.pc }), issues_of (by decide), by decide, by decide, by decide, by simp [actor],
      ends_of rfl⟩, ⟨user, issues_of (by decide)⟩, ?_, ?_,
    ⟨user, issues_of (by decide), by decide +kernel⟩,
    ⟨quota user, (Config.freeValue (quota user).fresh).toNat % 65536, issues_of (by decide +kernel), by decide +kernel, free_first _⟩,
    fun e he => ⟨withFuture e, 0, 5, ?_⟩,
    ⟨user, by decide, issues_of (by decide), issues_of (by decide)⟩⟩
  · fin_cases hn <;> exact ⟨issues_of (by decide +kernel), by decide +kernel, by rfl, ⟨clear_of (by decide +kernel), own_of (by decide +kernel), by decide, rfl, rfl, rfl⟩,
      ⟨by decide +kernel, by decide +kernel, by decide +kernel⟩, by decide +kernel⟩
  · let s := quota (user (fun c => (c.wg 2 0x1000000000000).wg 4 1))
    obtain ⟨_, t, h, -⟩ := runs_to (a := storeWords (s.ctx.rg 2).toNat (shareCell s.ctx (s.shareCores s.ctx.rcb (s.ctx.rg 4).toNat).length
        (fieldTarget s.ctx.pc fops.t2) (s.ctx.rg 4))) (s := s) (fun _ _ => true) (by decide +kernel)
    exact ⟨s, t, issues_of (by decide +kernel), by decide +kernel,
      resolves (by decide +kernel), by decide +kernel, clear_of (by decide +kernel),
      ⟨by decide +kernel, by decide +kernel, by decide +kernel⟩, by decide +kernel, by decide +kernel, h⟩
  · exact ⟨thieves, aTask, by decide +kernel, by decide +kernel, by decide +kernel, by decide +kernel, by decide +kernel⟩
  · fin_cases he <;> exact ⟨by decide, issues_of (by decide), issues_of (by decide), issues_of (by decide),
      ⟨by decide, by decide, by decide⟩, by decide⟩
/-- Slot 0 of core 0 holds a handler whose descriptor lies at 0x1000000000000, and g2 that address. -/
def handler0 : Bound := { plain with d := { plain.d with cls := 3 }, desc := 0x1000000000000 }
def boxed (b : Bound := handler0) (boxes : Table Mailbox := []) : State :=
  user (fun c => c.wg 2 0x1000000000000) (fun c => { c with binds := [(0, b)], mailboxes := boxes })
def box (depth : Nat) (msgs : List (List Word) := []) (held : List HeldMsg := []) : Mailbox := ⟨0, depth, msgs, held, false, false⟩
/-- An entry on its way from core 0 to mailbox 0 of core 0. -/
def entryTxn : Txn := newTxn user (.message [7]) .mailbox 0x2000000000000 64
def arriving (boxes : Table Mailbox) : State :=
  { (user id (fun c => { c with mailboxes := boxes })) with txns := [(0, entryTxn)] }
abbrev wfeOps : EOps := eops 0 0 (.g 1) (.g 3) (.g 0)
/-- Context 0 waits since cycle 0 at a WFE with a limit of 5. -/
def limited : State :=
  let c := (user (fun c => { c.wg 3 5 with line := some ⟨0, (encode (.wfe wfeOps)).setWidth 512⟩, stall := some ⟨.wfe, true, 0⟩ }))
  { c with now := 5 }

theorem noRegion {s : State} {p : Nat → Prop} (h : (s.coreAt 0).region = none) : ∀ r, (s.coreAt 0).region = some r → p r :=
  fun r h1 => by rw [h] at h1; cases h1

/-- No actor, a plain one, a handler, a number in use, no room and the last room; an unbound, an empty and a full number; a mailbox, a
host queue and neither; EVLATCH that differs and that does not; a gang with and without another member; a mailbox unbound, with room and
full. -/
theorem witness_MailboxesAndEvents :
    (∃ s : State, Issues (.mbxBind eops) eops.h s ∧ s.boundAt (s.ctx.rg 2) = none) ∧
    (∃ (s : State) (b : Bound), Issues (.mbxBind eops) eops.h s ∧ s.boundAt (s.ctx.rg 2) = some (0, b) ∧ b.isHandler = false) ∧
    (∃ s : State, Issues (.mbxBind eops) eops.h s ∧ s.boundAt (s.ctx.rg 2) = some (0, handler0) ∧ handler0.isHandler = true ∧
      handler0.rcb = s.ctx.rcb ∧ (tfind s.here.mailboxes 0).isSome = true) ∧
    (∀ x ∈ [(2, 255, false), (1, 255, true)], ∃ (s : State) (o : EOps), Issues (.mbxBind o) o.h s ∧ s.boundAt (s.ctx.rg 2) = some (0, handler0) ∧
      tfind s.here.mailboxes 0 = none ∧ handler0.mailbox = none ∧ bits o.w.toNat 12 5 = x.2.1 ∧
      decide (s.here.storeUsed + bits o.w.toNat 12 5 ≤ 256) = x.2.2) ∧
    (∀ x ∈ [none, some (box 1), some (box 1 [[7]])], ∃ s : State, Issues (.mbxFree eops) eops.h s ∧ tfind s.here.mailboxes 0 = x) ∧
    (∃ (s : State) (f : Firing), Issues (.mbxrd eops) eops.h s ∧ s.ctx.firing = some f ∧ f.kind = .handler 0) ∧
    (∀ x ∈ [(0x2000000000000, some (0, 0), none), (0x5000000000700, none, some 7), (0x1000000000000, none, none)],
      ∃ s : State, Issues (.send eops) eops.h s ∧ Claims.FencedTo s 0 ∧ gaPkg (s.ctx.rg 2).toNat = corePkg s.core ∧
        s.ctx.posted.length + 1 ≤ 64 ∧ mailboxName (s.ctx.rg 2).toNat = x.2.1 ∧ hostQueueName (s.ctx.rg 2).toNat = x.2.2) ∧
    (∃ s : State, Issues (.evt eops) eops.h s ∧ bits (s.ctx.rg 2).toNat 51 48 = 0 ∧ bits (s.ctx.rg 2).toNat 33 4 = 0 ∧
      coordOk (bits (s.ctx.rg 2).toNat 47 34) = true) ∧
    (∃ s : State, tfind s.flights 0 = some (.event 0 5)) ∧
    (∃ s t : State, Issues (.wfe eops) eops.h s ∧ s.ctx.evlatch ≠ (s.ctx.rg 2).setWidth 32 ∧ Issues (.wfe eops) eops.h t ∧
      t.ctx.evlatch = (t.ctx.rg 2).setWidth 32 ∧ t.ctx.stall = none) ∧
    (∃ s : State, s.waitingAt 0 0 .wfe = some (.wfe wfeOps) ∧ s.wfeOver 0 0 = true ∧ Issues (.wfe wfeOps) wfeOps.h (s.at 0 0)) ∧
    (∀ g ∈ [none, some 0, some 1], ∃ s : State, Issues (.gangOn eops) eops.h s ∧ Issues (.gangOff eops) eops.h s ∧ s.here.gang = g ∧ s.fc % 4 = 0) ∧
    (∀ x ∈ [none, some (box 1), some (box 1 [[7]])], ∃ (s : State) (t : Txn), tfind s.txns 0 = some t ∧ t.stage = .travelling ∧
      t.near = true ∧ t.target = .mailbox ∧ t.op = .message [7] ∧ mailboxName t.ga = some (0, 0) ∧ s.entryBehind 0 t = false ∧
      (∀ r, (s.coreAt 0).region = some r → s.rcbState r ≠ 4) ∧ tfind (s.coreAt 0).mailboxes 0 = x) ∧
    ∃ (s : State) (b : Mailbox) (h : HeldMsg), tfind (s.coreAt 0).mailboxes 0 = some b ∧ b.held = [h] ∧ b.msgs.length < b.depth := by
  refine ⟨⟨user, issues_of (by decide), by decide⟩, ⟨boxed { plain with desc := 0x1000000000000 }, _, issues_of (by decide), by rfl, by decide⟩,
    ⟨boxed handler0 [(0, box 1)], issues_of (by decide), by decide, by decide, by decide, by decide⟩, fun x hx => ?_, fun x hx => ?_,
    ⟨user (fun c => { c with firing := some { actor with kind := .handler 0 } }), _, issues_of (by decide), by rfl, by decide⟩, fun x hx => ?_,
    ⟨user (fun c => c.wg 2 0xF), issues_of (by decide), by decide, by decide, by decide⟩, ⟨{ user with flights := [(0, .event 0 5)] }, by decide⟩,
    ⟨user (fun c => { c with evlatch := 1 }), user, issues_of (by decide), by decide, issues_of (by decide), by decide, by decide⟩,
    ⟨limited, by decide +kernel, by decide +kernel, issues_of (by decide +kernel)⟩,
    fun g hg => ⟨user id (fun c => { c with gang := g }), issues_of (by fin_cases hg <;> decide), issues_of (by fin_cases hg <;> decide), rfl, rfl⟩, fun x hx => ?_,
    ⟨arriving [(0, box 1 [] [⟨none, [7]⟩])], box 1 [] [⟨none, [7]⟩], ⟨none, [7]⟩, by decide, by decide, by decide⟩⟩
  · fin_cases hx
    · exact ⟨boxed handler0 [(1, box 2)], eops 0 0x1FE0, issues_of (by decide), by decide, by decide, by decide, by decide, by decide⟩
    · exact ⟨boxed handler0 [(1, box 1)], eops 0 0x1FE0, issues_of (by decide), by decide, by decide, by decide, by decide, by decide⟩
  · fin_cases hx
    · exact ⟨user, issues_of (by decide), by decide⟩
    · exact ⟨boxed handler0 [(0, box 1)], issues_of (by decide), by decide⟩
    · exact ⟨boxed handler0 [(0, box 1 [[7]])], issues_of (by decide), by decide⟩
  · exact ⟨user (fun c => c.wg 2 (BitVec.ofNat 64 x.1)), issues_of (by fin_cases hx <;> decide),
      by fin_cases hx <;> exact ⟨by decide, by decide, by decide⟩, by fin_cases hx <;> decide, by fin_cases hx <;> decide,
      by fin_cases hx <;> decide, by fin_cases hx <;> decide⟩
  · fin_cases hx
    · exact ⟨arriving [], entryTxn, by decide, by decide, by decide, by decide, by decide, by decide, by decide, noRegion (by decide), by decide⟩
    · exact ⟨arriving [(0, box 1)], entryTxn, by decide, by decide, by decide, by decide, by decide, by decide, by decide, noRegion (by decide), by decide⟩
    · exact ⟨arriving [(0, box 1 [[7]])], entryTxn, by decide, by decide, by decide, by decide, by decide, by decide, by decide, noRegion (by decide), by decide⟩
/-- S mode on core 0 in region 0, which is live and has one logical core; g2 and g3 hold two words. -/
def realm (a b : Word := 0) (f : Core → Core := id) (g : Ctx → Ctx := id) : State :=
  (inRegion (sys (fun c => g ((c.wg 2 a).wg 3 b)) f)).wrNat 0x30 8 1

/-- A template at 0x100 under region 0 that sets nothing, or one that sets CORES to 5; a root's sets every field. -/
def budgeted (s : State) : State := (s.wrNat 0x100 8 (2 ^ 36)).wrNat 0x160 8 5
def rooted (s : State) : State := ((s.wrNat 0x100 8 (0xFFFF * 2 ^ 24)).wrNat 0x130 8 1).wrNat 0x150 8 0x0808101010
abbrev setOps (f : BitVec 20) (clr : BitVec 4 := 0) : EOps := eops clr f
/-- Region 0 with one core, or with a parent. -/
def counted (a b : Word) : State := realm a b (fun c => { c with region := some 0 })
def child (a b : Word) : State := (realm a b).wrNat 8 8 0x100

/-- Every region number of package 0 is taken. -/
def full : State := (realm 0 0x100).modPkg 0 (fun p => { p with
  regions := (0, aRegion) :: (List.range 4095).map (fun k => (0x1000 + k, Region.fresh (k + 1) 0 0)) })
theorem full_none : (full.pkgAt (corePkg full.core)).freeRnum = none := by
  have h : (full.pkgAt (corePkg full.core)).rnums = 1 :: (List.range 4095).map (· + 1) := by
    show Package.rnums { (realm 0 0x100).pkgAt 0 with regions := _ } = _
    simp [Package.rnums, Region.fresh, aRegion, Function.comp_def]
  rw [Package.freeRnum, h]
  simp +contextual

/-- A parent that is not live, a template not aligned, no free number, over a budget, and new regions under a parent and at a root. -/
theorem witness_RegionNew :
    (∃ s : State, Issues (.rgnNew eops) eops.h s ∧ eops.h.s1.isZero = false ∧ s.isLive (s.ctx.rg 2).toNat = false) ∧
    (∃ s : State, Issues (.rgnNew eops) eops.h s ∧ s.isLive (s.ctx.rg 2).toNat = true ∧ ¬ Claims.Template s false (s.ctx.rg 3).toNat) ∧
    (∃ s : State, Issues (.rgnNew eops) eops.h s ∧ s.isLive (s.ctx.rg 2).toNat = true ∧ Claims.Template s false (s.ctx.rg 3).toNat ∧
      (s.pkgAt (corePkg s.core)).freeRnum = none) ∧
    (∀ f ∈ [budgeted, id], ∃ s : State, Issues (.rgnNew eops) eops.h s ∧ s.isLive (s.ctx.rg 2).toNat = true ∧
      Claims.Template s false (s.ctx.rg 3).toNat ∧ (s.pkgAt (corePkg s.core)).freeRnum.isSome = true ∧
      s = f (realm 0 0x100)) ∧
    ¬ Claims.Affords (budgeted (realm 0 0x100)) false 0 0x100 ∧ Claims.Affords (realm 0 0x100) false 0 0x100 ∧
    ∃ s : State, Issues (.rgnNew (eops 0 0 (.g 1) (.g 3) (.g 4))) eops.h s ∧ Claims.Template s true (s.ctx.rg 3).toNat ∧
      (s.pkgAt (corePkg s.core)).freeRnum.isSome = true := by
  refine ⟨⟨sys, issues_of (by decide +kernel), by decide +kernel, by decide +kernel⟩,
    ⟨realm 0 4, issues_of (by decide +kernel), by decide +kernel, fun h => absurd h.aligned (by decide +kernel)⟩,
    ⟨full, issues_of (by decide +kernel), by decide +kernel,
      ⟨by decide +kernel, by decide +kernel, by decide +kernel, by decide +kernel, by decide, by decide +kernel⟩, full_none⟩,
    fun f hf => ⟨f (realm 0 0x100), ?_⟩, fun h => ?_, .inr (by decide +kernel), ⟨rooted (realm 0 0x100), issues_of (by decide +kernel),
      ⟨by decide +kernel, by decide +kernel, by decide +kernel, by decide +kernel, fun _ => by decide +kernel, by decide +kernel⟩, by decide +kernel⟩⟩
  · fin_cases hf <;> exact ⟨issues_of (by decide +kernel), by decide +kernel,
      ⟨by decide +kernel, by decide +kernel, by decide +kernel, by decide +kernel, by decide, by decide +kernel⟩, by decide +kernel, rfl⟩
  · exact absurd (h.resolve_left (by decide) 1 (by decide)) (by decide +kernel)

/-- No region and a killed one; a root cleared and a child; a value out of range and the last in range; CORES below its charge and
above it; RGN.KILL of no region and of a live one. -/
theorem witness_RegionSet :
    (∀ s ∈ [sys, realm.wrNat 0x10 8 0x400], Issues (.rgnSet eops) eops.h s ∧
      ¬ (s.regionAt (s.regionPkg 0) 0 ≠ none ∧ (s.rcbState 0 = 0 ∨ s.rcbState 0 = 2)) ∧ (s.ctx.rg 2).toNat = 0) ∧
    (∀ x ∈ [(realm, setOps 0 1, false, true, 0), (child 0 0, setOps 12 1, true, true, 0), (realm 0 8, setOps 0, false, false, 8),
        (realm 0 7, setOps 0, false, true, 7), (counted 0 0, setOps 12, false, true, 0), (counted 0 5, setOps 12, false, true, 5)],
      Issues (.rgnSet x.2.1) x.2.1.h x.1 ∧ x.1.regionAt (x.1.regionPkg 0) 0 ≠ none ∧ x.1.rcbState 0 = 0 ∧ (x.1.ctx.rg 2).toNat = 0 ∧
        decide (x.1.peek 8 8 ≠ 0) = x.2.2.1 ∧ rcbFieldOk (x.2.1.w.toNat % 16) x.2.2.2.2 = x.2.2.2.1 ∧ (x.1.ctx.rg 3).toNat = x.2.2.2.2) ∧
    (counted 0 0).chargeFits 0 12 0 = false ∧ (counted 0 5).chargeFits 0 12 5 = true ∧
    (∃ s : State, Issues (.rgnKill eops) eops.h s ∧ s.regionAt (s.regionPkg (s.ctx.rg 2).toNat) (s.ctx.rg 2).toNat = none) ∧
    ∃ s : State, Issues (.rgnKill eops) eops.h s ∧ s.regionAt (s.regionPkg (s.ctx.rg 2).toNat) (s.ctx.rg 2).toNat ≠ none ∧
      s.rcbState (s.ctx.rg 2).toNat ≠ 4 := by
  refine ⟨fun s hs => ?_, fun x hx => ?_, by decide +kernel, by decide +kernel, ⟨sys, issues_of (by decide +kernel), by decide +kernel⟩,
    ⟨realm, issues_of (by decide +kernel), by decide +kernel, by decide +kernel⟩⟩
  · fin_cases hs <;> exact ⟨issues_of (by decide +kernel), by decide +kernel, by decide +kernel⟩
  · fin_cases hx <;> exact ⟨issues_of (by decide +kernel), by decide +kernel, by decide +kernel, by decide +kernel, by decide +kernel,
      by decide +kernel, by decide +kernel⟩

/-- A BIND of a core and of none, the four records of the Almanac, one with a zero field set, and actors idle, running and held, and a
handler. -/
theorem witness_Regions :
    (∃ (s s1 : State) (w : List Nat), Issues (.bind eops) eops.h s ∧ bits (s.ctx.rg 2).toNat 63 14 = 0 ∧
      coordOk (s.ctx.rg 2).toNat = true ∧ (loadWords (s.ctx.rg 3).toNat 8).run s = .ok (w, s1)) ∧
    (∃ s : State, Issues (.bind eops) eops.h s ∧ bits (s.ctx.rg 2).toNat 63 14 ≠ 0) ∧
    (∀ opc ∈ [0, 1, 2, 3], ∃ (s : State) (r : List Word), s.lives (corePkg 0) = true ∧ coordOk (coreCoord 0) = true ∧
      bits (r.getD 0 0).toNat 2 0 = opc) ∧
    (∃ w : List Nat, bits (w.getD 0 0) 31 13 ≠ 0) ∧
    ∀ y ∈ [(Life.idle, 0), (.running, 0), (.held, 0), (.idle, 3)], ∃ (s : State) (x : Bound), (s.coreAt 0).region = some 0 ∧
      s.rcbState 0 = 0 ∧ (s.regionAt (corePkg 0) 0).isSome = true ∧ 0 < s.effLcount 0 ∧ tfind (s.coreAt 0).binds 0 = some x ∧
      x.act = 0 ∧ x.life = y.1 ∧ x.d.cls = y.2 ∧ ((s.coreAt 0).binds.map (·.1)).Pairwise (· < ·) := by
  refine ⟨?_, ⟨realm 0x4000, issues_of (by decide +kernel), by decide +kernel⟩,
    fun opc h => ⟨user, [BitVec.ofNat 64 opc], by decide, by decide +kernel, by fin_cases h <;> decide⟩, ⟨[2 ^ 13], by decide⟩,
    fun y h => ⟨realm 0 0 (fun c => { c with region := some 0, binds := [(0, { plain with life := y.1, d := { plain.d with cls := y.2 } })] }),
      _, by fin_cases h <;> decide, by fin_cases h <;> decide, by fin_cases h <;> decide, by fin_cases h <;> decide,
      by rfl, rfl, rfl, rfl, by fin_cases h <;> decide⟩⟩
  let s := realm 3 0x1000000000000
  obtain ⟨w, s1, h, -⟩ := runs_to (a := loadWords (s.ctx.rg 3).toNat 8) (s := s) (fun _ _ => true) (by decide +kernel)
  exact ⟨s, s1, w, issues_of (by decide +kernel), by decide +kernel, by decide +kernel, h⟩

/-- The same, with a live region 0x100 (or a killed, or a saved one) and its save area at 2^20, or none. -/
def other (state : Nat := 0) (save : Nat := 2 ^ 20) (f : Core → Core := id) (g : Ctx → Ctx := id) : State :=
  (((realm 0x100 0 f g).modPkg 0 (fun p => { p with regions := [(0, aRegion), (0x100, aRegion)] })).wrNat 0x180 8 save).wrNat 0x110 8
    (state * 2 ^ 8)
def waiting (x : Launch) : State := { user with packages := [(0, { Package.reset with launches := [(7, x)] })] }
/-- Context 0 is to be pre-empted; at a stall point, or not committed; with a load error that has landed. -/
def leavesCore (point err : Bool) (start : Bool := false) : State :=
  user (fun c => { c with
    preempt := some false
    stall := if point then some ⟨.barrier, true, 0⟩ else none
    idem := { c.idem with start := start }
    pend := if err then c.pend.set 5 (.error ⟨0x21, 9, some 0x400⟩) else c.pend })
abbrev lops (n : Nat) (d : Reg := .g 1) (s1 : Reg := .lit) (s2 s3 : Reg := .g 0) : AOps := ⟨hd d s1 s2 s3, BitVec.ofNat 36 n⟩

/-- A launch sent, answered and late; a context without a firing, with one, and a full frame store; a region not live, live with a good and a
bad save area, and saved; a discard, a whole save and a landed error; and the indices and components of the manifest. -/
theorem witness_LaunchesAndPreemption :
    (∃ s : State, Issues (.launch eops) eops.h s ∧ s.acqOut = false) ∧
    (∀ x ∈ [some (0, 0), none], ∃ (s : State) (l : Launch), s.findLaunch 7 = some (0, l) ∧ l.core = x ∧ 2 ^ 20 ≤ s.now - l.since ∧
      (Config.choice s.fresh = true ∨ Config.choice s.fresh = false)) ∧
    (∀ x ∈ [(0x10000, 0, false), (0, 8, true), (0, 7, true)], ∃ s : State, 0 = corePkg s.core * 2 ^ 14 + bits (s.ctx.rg 2).toNat 13 0 ∧
      Issues (.preemptFiring eops) eops.h s ∧ (s.ctxOf 0 (bits (s.ctx.rg 2).toNat 17 16)).firing.isSome = x.2.2 ∧
      (s.coreAt 0).frames.length + ((s.coreAt 0).ctx.toList.filter (fun x => x.preempt == some true)).length = x.2.1) ∧
    (∃ s : State, Issues (.preemptRegion eops) eops.h s ∧ s.isLive (s.ctx.rg 2).toNat = false) ∧
    (∀ x ∈ [(0, false), (2 ^ 20, true)], ∃ s : State, Issues (.preemptRegion eops) eops.h s ∧ s.isLive (s.ctx.rg 2).toNat = true ∧
      s.saveOk (s.ctx.rg 2).toNat = x.2 ∧ s.effDm (s.ctx.rg 2).toNat = false) ∧
    (∃ s : State, Issues (.preemptResume eops) eops.h s ∧ s.regionAt (s.regionPkg (s.ctx.rg 2).toNat) (s.ctx.rg 2).toNat = none) ∧
    (∀ x ∈ [(0, false), (2 ^ 20, true)], ∃ s : State, Issues (.preemptResume eops) eops.h s ∧
      s.regionAt (s.regionPkg (s.ctx.rg 2).toNat) (s.ctx.rg 2).toNat ≠ none ∧ s.rcbState (s.ctx.rg 2).toNat = 2 ∧
      s.saveOk (s.ctx.rg 2).toNat = x.2) ∧
    (∃ s t u : State, s.canDiscard 0 0 = true ∧ (s.ctxOf 0 0).landedError = none ∧ (s.ctxOf 0 0).idem.start = false ∧
      t.canSave 0 0 = true ∧ (t.ctxOf 0 0).landedError = none ∧ u.canDiscard 0 0 = true ∧ (u.ctxOf 0 0).landedError = some (⟨0x21, 9, some 0x400⟩, [.register 5])) ∧
    (∀ n ∈ [0, 0x2F, 0x3C, 0x48, 0x49], ∃ (s s1 : State) (r : Region), Issues (.logrd (lops n)) (lops n).h s ∧ (lops n).h.s2.isZero = true ∧
      ((lops n).src (lops n).h.s1).run s = .ok (BitVec.ofNat 64 n, s1) ∧ s1.regionAt (s1.regionPkg s.ctx.rcb) s.ctx.rcb = some r) ∧
    (∀ n ∈ [0x30, 0x3B], ∃ (s s1 : State), Issues (.logrd (lops n)) (lops n).h s ∧
      ((lops n).src (lops n).h.s1).run s = .ok (BitVec.ofNat 64 n, s1) ∧
      let u := s1.modRegion s.ctx.rcb (fun r => { r with signedOver := some r.digest })
      (u.regionAt (u.regionPkg s.ctx.rcb) s.ctx.rcb).isSome = true) ∧
    (∃ s : State, Issues (.logext (lops 0 (.g 1) (.g 2) (.g 3))) (lops 0 (.g 1) (.g 2) (.g 3)).h s ∧ s.isLive s.ctx.rcb = false) ∧
    (∀ n ∈ [0x100000000000001, 0, 0x600000000000001], ∃ s : State, Issues (.logext (lops 0 (.g 1) (.g 2) (.g 3))) (lops 0 (.g 1) (.g 2) (.g 3)).h s ∧
      s.isLive s.ctx.rcb = true ∧ (s.ctx.rg 3).toNat = n) ∧
    ∀ n ∈ [1, 0x600000000000030], ∃ (s s1 : State) (data : List Byte), Issues (.logext (lops 0 (.g 1) (.g 2) (.g 3))) (lops 0 (.g 1) (.g 2) (.g 3)).h s ∧
      s.isLive s.ctx.rcb = true ∧ (s.ctx.rg 3).toNat = n ∧
      (loadBytes (s.ctx.rg 2).toNat (bits (s.ctx.rg 3).toNat 47 0)).run s = .ok (data, s1) := by
  refine ⟨⟨sys, issues_of (by decide), by decide⟩, fun x hx => ⟨{ waiting ⟨0, x, 0, none, 0, 0⟩ with now := 2 ^ 20 }, ⟨0, x, 0, none, 0, 0⟩,
      rfl, rfl, by fin_cases hx <;> decide, by cases Config.choice _ <;> simp⟩,
    fun x hx => ⟨sys (fun c => c.wg 2 (BitVec.ofNat 64 x.1)) (fun c => { c with frames := List.replicate x.2.1 ⟨Ctx.reset, 0, false, false⟩ }),
      by fin_cases hx <;> decide, issues_of (by fin_cases hx <;> decide), by fin_cases hx <;> decide, by fin_cases hx <;> decide⟩,
    ⟨sys, issues_of (by decide), by decide⟩,
    fun x hx => ⟨other 0 x.1, issues_of (by fin_cases hx <;> decide +kernel), by fin_cases hx <;> decide +kernel,
      by fin_cases hx <;> decide +kernel, by fin_cases hx <;> decide +kernel⟩,
    ⟨sys, issues_of (by decide), by decide⟩,
    fun x hx => ⟨other 2 x.1, issues_of (by fin_cases hx <;> decide +kernel), by fin_cases hx <;> decide +kernel,
      by fin_cases hx <;> decide +kernel, by fin_cases hx <;> decide +kernel⟩,
    ⟨leavesCore false false, leavesCore true false, leavesCore false true, by decide +kernel, by decide +kernel, by decide +kernel, by decide +kernel,
      by decide +kernel, by decide +kernel, by decide +kernel⟩, fun n hn => ⟨inRegion user, inRegion user, aRegion, ?_⟩,
    fun n hn => ⟨inRegion user, inRegion user, ?_⟩, ⟨sys, issues_of (by decide), by decide⟩,
    fun n hn => ⟨inRegion (sys (fun c => c.wg 3 (BitVec.ofNat 64 n))), ?_⟩, fun n hn => ?_⟩
  · fin_cases hn <;> exact ⟨issues_of (by decide), by decide, by rfl, by decide +kernel⟩
  · fin_cases hn <;> exact ⟨issues_of (by decide), by rfl, by decide +kernel⟩
  · fin_cases hn <;> exact ⟨issues_of (by decide), by decide +kernel, by decide +kernel⟩
  · let s := inRegion (sys (fun c => (c.wg 2 0x1000000000000).wg 3 (BitVec.ofNat 64 n)))
    obtain ⟨data, s1, h, -⟩ := runs_to (a := loadBytes (s.ctx.rg 2).toNat (bits (s.ctx.rg 3).toNat 47 0)) (s := s) (fun _ _ => true)
      (by fin_cases hn <;> decide +kernel)
    exact ⟨s, s1, data, issues_of (by fin_cases hn <;> decide), by fin_cases hn <;> decide +kernel, by fin_cases hn <;> decide +kernel, h⟩
/-- A root table at 0x100000 whose entry 0 leads to a table at 0x120000 with a readable 1 GiB page at 0. -/
def mapped : State := (user.wrNat 0x100000 8 0x120001).wrNat 0x120000 8 0x27
/-- Region 0 under DM with one logical core; its region record changed. -/
def dmRegion (f : Region → Region := id) : State := ((inRegion user f).wrNat 0x10 8 1).wrNat 0x30 8 1
def dmAdd : DmEntry := ⟨0, 0, 0x1000, .add, .n64, 0, 5, false, false⟩

/-- A range of translations and its counter, a page found and none, and a round open, closed and with an entry on its way. -/
theorem witness_TranslationAndRounds :
    (∃ (s : State) (p : Phys), Issues (.tlbi eops) eops.h s ∧ bits (s.ctx.rg 2).toNat 63 56 = 0 ∧ (s.ctx.rg 4).toNat % 8 = 0 ∧
      Claims.cell s (s.ctx.rg 4).toNat 8 p s ∧ Claims.Cell s p 8 ∧ Claims.FencedTo s 4) ∧
    (∃ s : State, tfind s.flights 0 = some (.tlbi 0 0 0 0 0x1000000000000) ∧ s.pagesBusy 0 ((((s.quadAt 0).tlb ++
      ((List.range 4).map (fun i => 0 * 4 + i)).flatMap (fun k => (s.coreAt k).utlb)).filter (·.dropped 0 0 0)).map (·.pageGa)) = false ∧
      s.cellFree 0x1000000000000 = true) ∧
    (∃ (s : State) (t : Tlb), s.canWalk 0 0x100000 5 = true ∧ walk s 0 0x100000 5 = .ok t) ∧
    (∃ (s : State) (e : WalkEnd), s.canWalk 0 0x100000 5 = true ∧ walk s 0 0x100000 5 = .error e) ∧
    (∃ s : State, s.canWalk 0 0x100000 5 = false) ∧
    (∃ s : State, Issues (.dmclose eops) eops.h s ∧ s.effDm s.ctx.rcb = false) ∧
    (∃ (s : State) (r : Region), Issues (.dmclose eops) eops.h s ∧ s.effDm s.ctx.rcb = true ∧ Claims.FencedTo s 3 ∧
      s.regionAt (s.regionPkg s.ctx.rcb) s.ctx.rcb = some r ∧ s.here.lcore ∉ r.arrived) ∧
    (∃ (s : State) (r : Region), s.regionAt (s.regionPkg 0) 0 = some r ∧ (∀ k < s.effLcount 0, k ∈ r.arrived) ∧ r.entries = [dmAdd] ∧
      ∀ e ∈ r.entries, s.bad (lineOf e.ga) 64 = false ∧ e.bad = false) ∧
    (∃ (s : State) (r : Region), s.regionAt (s.regionPkg 0) 0 = some r ∧ ∃ k < s.effLcount 0, k ∉ r.arrived) ∧
    ∃ (s : State) (t : Txn) (r : Region), tfind s.txns 0 = some t ∧ t.stage = .travelling ∧ t.target = .merge ∧ t.op = .dm dmAdd ∧
      s.regionAt (gaPkg t.ga) t.rcb = some r := by
  refine ⟨⟨sys (fun c => c.wg 4 0x1000000000000), pool 0x1000000000000, issues_of (by decide), by decide, by decide, resolves (by decide +kernel),
      ⟨clear_of (by decide), own_of (by decide), by decide, rfl, rfl, rfl⟩, ⟨by decide, by decide, by decide⟩⟩,
    ⟨{ user with flights := [(0, .tlbi 0 0 0 0 0x1000000000000)] }, by decide, by decide, by decide⟩, ?_, ⟨user, .noPage, by decide +kernel, by rfl⟩,
    ⟨user.modPkg 0 (fun p => { p with off := true }), by decide⟩,
    ⟨user, issues_of (by decide), by decide⟩,
    ⟨dmRegion, aRegion, issues_of (by decide), by decide +kernel, ⟨by decide, by decide, by decide⟩, by rfl, by decide⟩,
    ⟨dmRegion (fun r => { r with arrived := [0], entries := [dmAdd] }), _, by rfl, by decide +kernel, rfl, by decide⟩,
    ⟨dmRegion, aRegion, by rfl, 0, by decide +kernel, by decide⟩,
    ⟨{ dmRegion with txns := [(0, newTxn user (.dm dmAdd) .merge 0x1000 8)] }, newTxn user (.dm dmAdd) .merge 0x1000 8, aRegion,
      by decide, by decide, by decide, by decide, by rfl⟩⟩
  obtain ⟨t, h, -⟩ := answers (e := walk mapped 0 0x100000 5) (fun _ => true) (by decide +kernel)
  exact ⟨mapped, t, by decide +kernel, h⟩
/-- An EXACT and an LSH catalogue of RCB 0 with 16 buckets, and a state in which number 2 names one of them. -/
def exactCat : Catalogue := ⟨0, false, 1, 0, 0, 0, ⟨4, 0, [1]⟩, none, [], 0, 3, 0, 0, 0, 0, 0⟩
def lshCat : Catalogue := { exactCat with lsh := true, l := 2, k := 5 }
def withCat (c : Option Catalogue) (a b : Word := 0) (f : Ctx → Ctx := id) (q : List CatCmd := []) : State :=
  (user (fun x => f ((x.wg 2 a).wg 3 b))).modCluster 0 (fun x => { x with cats := (c.map (fun c => (2, c))).toList, catq := q })
def catops (w : BitVec 20 := 0) (s2 : Reg := .g 3) : EOps := ⟨hd (.g 1) (.g 2) s2 (.g 0), false, 2, 0, 0, .none, w⟩

theorem accepts_of {s : State} (h : s.acqOut = false) (hq : (s.clusterAt (clusterOf s.core)).catq = []) : Claims.Accepts s :=
  ⟨h, fun q hm => by rw [hq] at hm; cases hm⟩

/-- A record, a number no catalogue has, both modes, the words of an update at and beyond each limit, 31 and 32 updates, 0, 2^24 and 2^24 + 1
buckets, a descriptor of CPROBE, and a fence with an update left, with none, and with a failure. -/
theorem witness_CatalogueCommands :
    (∃ (s s1 : State) (w : List Nat), Claims.Accepts s ∧ Issues (.cdef catops) catops.h s ∧ (readRecord (s.ctx.rg 2).toNat).run s = .ok (w, s1)) ∧
    (∃ s : State, Claims.Accepts s ∧ (∀ i ∈ [Instr.cswap catops, .cstat catops, .cins catops, .cdel catops, .clook catops],
      Issues i catops.h s) ∧ s.ownCat 0 s.ctx.rcb 2 = none) ∧
    (∃ s : State, Claims.Accepts s ∧ Issues (.cswap catops) catops.h s ∧ Issues (.cstat catops) catops.h s ∧
      s.ownCat 0 s.ctx.rcb 2 = some exactCat ∧ (∀ d, tfind (s.clusterAt 0).cats 0 = some d → d.rcb = s.ctx.rcb)) ∧
    (∀ x ∈ [(exactCat, 2 ^ 64 - 1, 2 ^ 32 - 1), (lshCat, 2 ^ 10 - 1, 2 ^ 28 - 1)], ∀ n ∈ [31, 32], ∃ s : State, Claims.Accepts s ∧
      Issues (.cins catops) catops.h s ∧ Issues (.cdel catops) catops.h s ∧ s.ownCat 0 s.ctx.rcb 2 = some x.1 ∧
      Claims.updateFits x.1 (.cins catops) (s.ctx.rg 2) (s.ctx.rg 3) ∧ Claims.updateFits x.1 (.cdel catops) (s.ctx.rg 2) (s.ctx.rg 3) ∧
      (s.ctx.rg 2).toNat = x.2.1 ∧ (s.ctx.rg 3).toNat = x.2.2 ∧ s.ctx.updates = n) ∧
    (∀ x ∈ [(exactCat, 0, 2 ^ 32), (lshCat, 0, 2 ^ 28), (lshCat, 2 ^ 10, 2 ^ 28 - 1)], ∃ s : State, Claims.Accepts s ∧
      Issues (.cins catops) catops.h s ∧ Issues (.cdel catops) catops.h s ∧ s.ownCat 0 s.ctx.rcb 2 = some x.1 ∧
      (s.ctx.rg 2).toNat = x.2.1 ∧ (s.ctx.rg 3).toNat = x.2.2) ∧
    (∀ c ∈ [exactCat, lshCat], ∃ s : State, Claims.Accepts s ∧ Issues (.clook catops) catops.h s ∧ s.ownCat 0 s.ctx.rcb 2 = some c) ∧
    (∀ n ∈ [0, 2 ^ 24, 2 ^ 24 + 1], ∃ (s : State) (o : EOps), Claims.Accepts s ∧ Issues (.crehash o) o.h s ∧ o.ch = 2 ∧ o.h.s1 = .g 2 ∧
      s.ownCat 0 s.ctx.rcb 2 = some exactCat ∧ o.h.s2.isZero = true ∧ (s.ctx.rg 2).toNat = n) ∧
    (∃ (s s1 : State) (w : List Nat), Claims.Accepts s ∧ Issues (.crehash catops) catops.h s ∧ s.ownCat 0 s.ctx.rcb 2 = some exactCat ∧
      (s.ctx.rg 2).toNat = 2 ^ 24 ∧ catops.h.s2.isZero = false ∧ (readRecord (s.ctx.rg 3).toNat).run s = .ok (w, s1)) ∧
    (∀ c ∈ [some lshCat, some exactCat, none], ∃ (s s1 s2 : State) (list w3 : Nat), Claims.Accepts s ∧ Issues (.cprobe catops) catops.h s ∧
      (catAddress .r (s.ctx.rg 3).toNat 32).run s = .ok ((), s) ∧ (catAddress .w (s.ctx.rg 3).toNat 32).run s = .ok ((), s) ∧
      (loadWord (s.ctx.rg 3).toNat).run s = .ok (list, s1) ∧ (loadWord ((s.ctx.rg 3).toNat + 24)).run s1 = .ok (w3, s2) ∧
      (listOk s2 list (bits w3 15 8) && decide (bits w3 31 16 = 0) && decide (bits w3 7 4 = 0) && decide (bits w3 15 8 ≠ 0) &&
        decide (s2.ownCat (clusterOf s2.core) s2.ctx.rcb (bits w3 3 0) = c)) = true) ∧
    (∃ s : State, Issues (.cfence catops) catops.h s ∧ s.acqOut = false ∧
      ∃ q ∈ (s.clusterAt 0).catq, q.core = s.core ∧ ((∃ x, q.i = .cins x) ∨ ∃ x, q.i = .cdel x)) ∧
    ∀ e ∈ [none, some (0x3A, 2)], ∃ s : State, Issues (.cfence catops) catops.h s ∧ s.acqOut = false ∧ (s.clusterAt 0).catq = [] ∧ s.ctx.catErr = e := by
  refine ⟨?_, ⟨user, accepts_of (by decide) (by decide), fun i hi => issues_of (by fin_cases hi <;> decide), by decide⟩,
    ⟨withCat exactCat, accepts_of (by decide) (by decide), issues_of (by decide), issues_of (by decide), by decide,
      fun d h => by cases h⟩,
    fun x hx n hn => ⟨withCat x.1 (BitVec.ofNat 64 x.2.1) (BitVec.ofNat 64 x.2.2) (fun c => { c with updates := n }), ?_⟩,
    fun x hx => ⟨withCat x.1 (BitVec.ofNat 64 x.2.1) (BitVec.ofNat 64 x.2.2), ?_⟩, fun c hc => ⟨withCat c, ?_⟩,
    fun n hn => ⟨withCat exactCat (BitVec.ofNat 64 n), catops 0 (.g 0), ?_⟩, ?_, fun c hc => ?_,
    ⟨withCat none 0 0 id [⟨0, 0, 0, 0, .u, .cins catops, 2, 0, 0, [], true, CatWork.reset⟩], issues_of (by decide), rfl, _, List.Mem.head _, by decide,
      .inl ⟨_, rfl⟩⟩,
    fun e _ => ⟨user (fun c => { c with catErr := e }), issues_of rfl, rfl, rfl, rfl⟩⟩
  · let s := user (fun c => c.wg 2 0x1000000000000)
    obtain ⟨w, s1, h, -⟩ := runs_to (a := readRecord (s.ctx.rg 2).toNat) (s := s) (fun _ _ => true) (by decide +kernel)
    exact ⟨s, s1, w, accepts_of (by decide) (by decide), issues_of (by decide), h⟩
  · fin_cases hx <;> fin_cases hn <;> exact ⟨accepts_of (by decide) (by decide), issues_of (by decide), issues_of (by decide), by decide,
      by simp [Claims.updateFits, exactCat, lshCat]; decide, by simp [Claims.updateFits, exactCat, lshCat] <;> decide, by decide, by decide, by decide⟩
  · fin_cases hx <;> exact ⟨accepts_of (by decide) (by decide), issues_of (by decide), issues_of (by decide), by decide, by decide, by decide⟩
  · fin_cases hc <;> exact ⟨accepts_of (by decide) (by decide), issues_of (by decide), by decide⟩
  · fin_cases hn <;> exact ⟨accepts_of (by decide) (by decide), issues_of (by decide), rfl, rfl, by decide, by decide, by decide⟩
  · let s := withCat exactCat (2 ^ 24) 0x1000000000000
    obtain ⟨w, s1, h, -⟩ := runs_to (a := readRecord (s.ctx.rg 3).toNat) (s := s) (fun _ _ => true) (by decide +kernel)
    exact ⟨s, s1, w, accepts_of (by decide) (by decide), issues_of (by decide), by decide, by decide, by decide, h⟩
  · let s := ((withCat c 0 0x1000000000000).wrNat 0x1000000000000 8 0x1000000000100).wrNat 0x1000000000018 8 0x102
    obtain ⟨list, s1, h1, p1⟩ := runs_to (a := loadWord (s.ctx.rg 3).toNat) (s := s) (fun x t => decide (x = 0x1000000000100 ∧ t = s))
      (by fin_cases hc <;> decide +kernel)
    obtain ⟨rfl, rfl⟩ := of_decide_eq_true p1
    obtain ⟨w3, s2, h2, p2⟩ := runs_to (a := loadWord ((s.ctx.rg 3).toNat + 24)) (s := s) (fun w3 s2 =>
      listOk s2 0x1000000000100 (bits w3 15 8) && decide (bits w3 31 16 = 0) && decide (bits w3 7 4 = 0) && decide (bits w3 15 8 ≠ 0) &&
        decide (s2.ownCat (clusterOf s2.core) s2.ctx.rcb (bits w3 3 0) = c)) (by fin_cases hc <;> decide +kernel)
    exact ⟨s, s, s2, _, w3, accepts_of (by fin_cases hc <;> decide +kernel) (by fin_cases hc <;> decide +kernel), issues_of (by fin_cases hc <;> decide +kernel), leaves (by fin_cases hc <;> decide +kernel),
      leaves (by fin_cases hc <;> decide +kernel), h1, h2, p2⟩

/-- A record of 16 buckets at offset 0 with mode EXACT, valid; and one with a bad zero bit. -/
def goodRecord : List Nat := [2 + 4 * 2 ^ 16, 0, 1] ++ List.replicate 13 0
def badRecord : List Nat := [2 + 4 * 2 ^ 16, 2 ^ 63, 1] ++ List.replicate 13 0
def asks (i : Instr) (a : Word := 0) (words : List Nat := []) (live : Bool := true) : CatCmd :=
  ⟨0, 0, 0, 0, .u, i, 2, a, 0x1000000000000, words, live, CatWork.reset⟩
/-- The cluster's queue holds one command; catalogue number n is c; the space is m bytes and the budget 16 buckets or none. -/
def asked (q : CatCmd) (c : Table Catalogue := []) (m : Nat := 2 ^ 20) (budget : Nat := 16) : State :=
  ((user.modCluster 0 (fun x => { x with catq := [q], cats := c, catsp := m }))).wrNat 0x78 8 budget
/-- A posted update: its D is g0. -/
def postedOps : EOps := ⟨hd (.g 0) (.g 2) (.g 3) (.g 0), false, 2, 0, 0, .none, 0⟩

def member : State := (asked (asks (.clook catops) 5) [(2, exactCat)]).setBucket 0 false exactCat.geo 0 (exactCat.geo.primary 0 5)
  ⟨false, 0, [(5, 9)]⟩

/-- A command that its cluster's unit may act on, the only one of its kind. -/
abbrev Alone (s : State) (q : CatCmd) : Prop := (s.clusterAt 0).applicable q.posted = [0] ∧ (s.clusterAt 0).catq[0]? = some q

/-- A CPROBE of a catalogue of l tables, its list in the own SCR role under a tile in the given state. -/
def probing (l : Nat) (st : TileState) : State :=
  (asked (asks (.cprobe catops) 0 [0x1000000000000, 0x102]) [(2, { lshCat with l := l })]).modCore 0
    (fun c => { c with tiles := [(4, tile st 0 .scr)] })

/-- An answer that lands, one whose firing has gone, a posted update that is applied and one that fails; a bad record, a number and a family in
use, no space, no budget and both; no catalogue; a counter; and a key absent and present. -/
theorem witness_CatalogueAnswers :
    (∀ live ∈ [true, false], ∃ (s t : State) (q : CatCmd) (v ts : Nat), Alone s q ∧ (s.takeCat 0 0).applyCat 0 q = .ok (.answer v ts, t) ∧
      q.posted = false ∧ q.i.hd.isSome = true ∧ q.live = live) ∧
    (∀ c ∈ [[], [(2, exactCat)]], ∃ (s t : State) (q : CatCmd) (v ts : Nat), Alone s q ∧
      (s.takeCat 0 0).applyCat 0 q = .ok (.answer v ts, t) ∧ q.posted = true ∧ (decide (2 ^ 63 ≤ v) = c.isEmpty)) ∧
    (∃ (s : State) (q : CatCmd) (o : EOps), Alone s q ∧ q.i = .cdef o ∧ recordMode q.words = 2 ∧ recordValid q.words = false) ∧
    (∃ (s : State) (q : CatCmd) (o : EOps), Alone s q ∧ q.i = .cdef o ∧ recordMode q.words = 2 ∧ recordValid q.words = true ∧
      (tfind ((s.takeCat 0 0).clusterAt 0).cats q.cat).isSome = true) ∧
    (∃ (s : State) (q : CatCmd) (o : EOps), Alone s q ∧ q.i = .cdef o ∧ recordMode q.words = 2 ∧ recordValid q.words = true ∧
      tfind ((s.takeCat 0 0).clusterAt 0).cats q.cat = none ∧ ∃ c ∈ ((s.takeCat 0 0).clusterAt 0).cats, c.2.family = recordFamily q.words) ∧
    (∀ x ∈ [(1023, 16, false, true), (1024, 15, true, false), (1024, 16, true, true)], ∃ (s : State) (q : CatCmd) (o : EOps), Alone s q ∧ q.i = .cdef o ∧
      recordMode q.words = 2 ∧ recordValid q.words = true ∧ tfind ((s.takeCat 0 0).clusterAt 0).cats q.cat = none ∧
      (∀ c ∈ ((s.takeCat 0 0).clusterAt 0).cats, c.2.family ≠ recordFamily q.words) ∧
      ((s.takeCat 0 0).clusterAt 0).spaceFor (areaOf (recordL q.words) (recordGeo q.words)) = x.2.2.1 ∧
      (s.takeCat 0 0).bucketsFit 0 q.rcb (recordL q.words * 2 ^ (recordGeo q.words).b) = x.2.2.2) ∧
    (∃ (s : State) (q : CatCmd), Alone s q ∧ (∀ o, q.i ≠ .cdef o) ∧ (s.takeCat 0 0).ownCat 0 q.rcb q.cat = none) ∧
    (∃ (s : State) (q : CatCmd) (o : EOps), Alone s q ∧ (s.takeCat 0 0).ownCat 0 q.rcb q.cat = some exactCat ∧ q.i = .cstat o) ∧
    (∃ (s : State) (q : CatCmd) (o : EOps), Alone s q ∧ (s.takeCat 0 0).ownCat 0 q.rcb q.cat = some exactCat ∧ q.i = .clook o ∧
      exactCat.meetsError (s.takeCat 0 0) 0 q = false ∧ ∀ i ∈ exactCat.searched (s.takeCat 0 0) 0 exactCat.geo 0 q.a.toNat, ∀ e ∈ ((s.takeCat 0 0).bucket 0 false exactCat.geo 0 i).ents,
        e.1 ≠ q.a.toNat) ∧
    (∃ (s : State) (q : CatCmd) (o : EOps), Alone s q ∧ (s.takeCat 0 0).ownCat 0 q.rcb q.cat = some exactCat ∧ q.i = .clook o ∧
      exactCat.meetsError (s.takeCat 0 0) 0 q = true) ∧
    (∃ (s t : State) (q : CatCmd) (w : CatWork), Alone s q ∧ (s.takeCat 0 0).applyCat 0 q = .ok (.more w, t)) ∧
    (∃ (s : State) (q : CatCmd) (e : Stop), Alone s q ∧ (s.takeCat 0 0).applyCat 0 q = .error e) ∧
    ∃ (s : State) (q : CatCmd) (o : EOps), Alone s q ∧ (s.takeCat 0 0).ownCat 0 q.rcb q.cat = some exactCat ∧ q.i = .clook o ∧
      exactCat.meetsError (s.takeCat 0 0) 0 q = false ∧ ∃ i ∈ exactCat.searched (s.takeCat 0 0) 0 exactCat.geo 0 q.a.toNat, ∃ e ∈ ((s.takeCat 0 0).bucket 0 false exactCat.geo 0 i).ents,
        e.1 = q.a.toNat := by
  refine ⟨fun live _ => ⟨asked (asks (.cstat catops) 0 [] live) [(2, exactCat)], _, asks (.cstat catops) 0 [] live, 3, 0,
      ⟨by decide +revert, rfl⟩, by rfl, rfl, rfl, rfl⟩,
    fun c hc => ?_, ⟨asked (asks (.cdef catops) 0 badRecord), _, _, ⟨by decide, rfl⟩, rfl, by decide, by decide +kernel⟩,
    ⟨asked (asks (.cdef catops) 0 goodRecord) [(2, exactCat)], _, _, ⟨by decide, rfl⟩, rfl, by decide, by decide +kernel, by decide +kernel⟩,
    ⟨asked (asks (.cdef catops) 0 goodRecord) [(3, exactCat)], _, _, ⟨by decide, rfl⟩, rfl, by decide, by decide +kernel, by decide +kernel,
      (3, exactCat), by decide +kernel, by decide +kernel⟩,
    fun x hx => ⟨asked (asks (.cdef catops) 0 goodRecord) [] x.1 x.2.1, _, _, ⟨by fin_cases hx <;> decide, rfl⟩, rfl, by decide, by decide +kernel,
      by fin_cases hx <;> decide +kernel, by fin_cases hx <;> decide +kernel, by fin_cases hx <;> decide +kernel, by fin_cases hx <;> decide +kernel⟩,
    ⟨asked (asks (.clook catops)), _, ⟨by decide, rfl⟩, by simp [asks], by decide +kernel⟩,
    ⟨asked (asks (.cstat catops)) [(2, exactCat)], _, _, ⟨by decide, rfl⟩, by decide +kernel, rfl⟩,
    ⟨asked (asks (.clook catops)) [(2, exactCat)], _, _, ⟨by decide, rfl⟩, by decide +kernel, rfl, by decide +kernel, by decide +kernel⟩,
    ⟨{ member with errs := [bucketKey 0 exactCat.geo 0 (exactCat.geo.primary 0 5)] }, asks (.clook catops) 5, _, ⟨by decide +kernel, by rfl⟩,
      by decide +kernel, rfl, by decide +kernel⟩, ?_, ?_,
    ⟨member, asks (.clook catops) 5, _, ⟨by decide +kernel, by rfl⟩, by decide +kernel, rfl, by decide +kernel, by decide +kernel⟩⟩
  · let s := asked (asks (.cdel postedOps)) c
    obtain ⟨⟨v, t⟩, h, hp⟩ := answers (e := (s.takeCat 0 0).applyCat 0 (asks (.cdel postedOps)))
      (fun x => match x.1 with | .answer v _ => decide (2 ^ 63 ≤ v) == c.isEmpty | .more _ => false) (by fin_cases hc <;> decide +kernel)
    cases v with
    | answer v ts => exact ⟨s, t, _, v, ts, ⟨by fin_cases hc <;> decide, rfl⟩, h, rfl, by simpa using hp⟩
    | more w => simp at hp
  · obtain ⟨⟨v, t⟩, h, hp⟩ := answers (e := ((probing 2 .ready).takeCat 0 0).applyCat 0 (asks (.cprobe catops) 0 [0x1000000000000, 0x102]))
      (fun x => match x.1 with | .answer _ _ => false | .more _ => true) (by decide +kernel)
    cases v with
    | answer v ts => simp at hp
    | more w => exact ⟨_, t, _, w, ⟨by decide, by rfl⟩, h⟩
  · have h : (match ((probing 1 .filling).takeCat 0 0).applyCat 0 (asks (.cprobe catops) 0 [0x1000000000000, 0x102]) with
        | .error _ => true | .ok _ => false) = true := by decide +kernel
    cases he : ((probing 1 .filling).takeCat 0 0).applyCat 0 (asks (.cprobe catops) 0 [0x1000000000000, 0x102]) with
    | error e => exact ⟨_, _, e, ⟨by decide, by rfl⟩, he⟩
    | ok r => rw [he] at h; cases h

/-- The catalogue's bucket of key 5, or of signature 5, holds the entries given, and a command stands before the unit. -/
def tabled (i : Instr) (c : Catalogue) (es : List (Nat × Nat)) (b : Word := 9) : State × CatCmd :=
  let q : CatCmd := { asks i 5 with b := b }
  ((asked q [(2, c)]).setBucket 0 c.lsh c.geo 0 (c.geo.primary 0 5) ⟨false, 5, es⟩, q)
/-- The bucket that holds a command's entry, and the place among those it tries of the first that takes one. -/
def bucketsFor (u : State) (c : Catalogue) (q : CatCmd) : Option Nat × Option Nat :=
  let x := c.sig q.a.toNat q.work.done
  let g := c.geometry q.work.done x
  let at' (i : Nat) := u.bucket 0 c.lsh g q.work.done i
  ((c.searched u 0 g q.work.done x).find? (fun i => if c.lsh then !(at' i).ents.isEmpty && (at' i).sig == x && (at' i).ents.any (·.1 == q.b.toNat)
    else (at' i).ents.any (·.1 == x)),
   (c.tried g q.work.done x).findIdx? (fun i => if c.lsh then (at' i).ents.isEmpty || ((at' i).sig == x && decide ((at' i).ents.length < 15))
    else decide ((at' i).ents.length < 5)))
def five : List (Nat × Nat) := [(1, 0), (2, 0), (3, 0), (4, 0), (6, 0)]
def fifteen : List (Nat × Nat) := (List.range 15).map (fun k => (k + 20, k))
/-- A record of the same shape as exactCat whose area begins behind it. -/
def nextRecord : List Nat := [2 + 4 * 2 ^ 16, 0x400, 1] ++ List.replicate 13 0
/-- A migration of 16 buckets that has moved cur of them. -/
def migrates (cur : Nat) : Catalogue := { exactCat with migrating := some (recordGeo nextRecord), record := nextRecord, cur := cur }

/-- An entry found, appended, dropped and evicted in each mode; one deleted and one absent; a probe's first table and its last one, in a role
and beyond it; an exchange with a migration, with a catalogue and with none; and each answer of CREHASH, a bucket moved and the last one. -/
theorem witness_CatalogueTables :
    (∀ x ∈ [(exactCat, [(5, 1)], true, some 0), (exactCat, [], false, some 0), (exactCat, five, false, none), ({ exactCat with policy := 1 }, five, false, none),
        ({ exactCat with policy := 2 }, five, false, some 1),
        (lshCat, [(9, 1)], true, some 0), (lshCat, [], false, some 0), (lshCat, fifteen, false, none), ({ lshCat with policy := 1 }, fifteen, false, none)],
      ∀ i ∈ [Instr.cins catops, .cdel catops], ∃ (u : State) (q : CatCmd), u.ownCat 0 q.rcb q.cat = some x.1 ∧ q.i = i ∧
        x.1.meetsError u 0 q = false ∧ (bucketsFor u x.1 q).1.isSome = x.2.2.1 ∧ (bucketsFor u x.1 q).2 = x.2.2.2) ∧
    (∃ (u : State) (q : CatCmd), u.ownCat 0 q.rcb q.cat = some lshCat ∧ q.i = .cprobe catops ∧ lshCat.meetsError u 0 q = false ∧
      q.work.done + 1 < lshCat.l) ∧
    (∃ (u : State) (q : CatCmd), u.ownCat 0 q.rcb q.cat = some { lshCat with l := 1 } ∧ q.i = .cprobe catops ∧
      (u.coreAt q.core).inRole 1 (gaOff (q.words.getD 0 0)) (4 * bits (q.words.getD 1 0) 15 8) = false) ∧
    (∃ (u : State) (q : CatCmd) (p : Phys) (w z : State) (old : Nat) (ts : Option Nat), u.ownCat 0 q.rcb q.cat = some { lshCat with l := 1 } ∧
      q.i = .cprobe catops ∧ (u.coreAt q.core).inRole 1 (gaOff (q.words.getD 0 0)) (4 * bits (q.words.getD 1 0) 15 8) = true ∧
      (u.coreAt q.core).poolWaits 1 (gaOff (q.words.getD 0 0)) (4 * bits (q.words.getD 1 0) 15 8) true = false ∧
      u.walkWaits (.core q.core) (u.effPtroot q.rcb) (q.b.toNat + 28) = false ∧
      locate u (.core q.core) q.mode q.core (u.effPtroot q.rcb) .w (q.b.toNat + 28) = .ok (p, w) ∧ p.inReclass w = false ∧
      w.touch ⟨q.id, q.core, q.fc⟩ q.rcb (w.ctxOf q.core q.fc).cts p 4 (fun _ => some 0) = .ok (z, old, ts)) ∧
    (∀ x ∈ [(migrates 0, none), (exactCat, some (migrates 0)), (exactCat, some { exactCat with geo := ⟨4, 0x400, [1]⟩ }), (exactCat, none)],
      ∃ (u : State) (q : CatCmd), u.ownCat 0 q.rcb q.cat = some x.1 ∧ q.i = .cswap catops ∧ tfind (u.clusterAt 0).cats q.a.toNat = x.2 ∧
        ∀ d ∈ x.2, d.rcb = q.rcb) ∧
    (∀ x ∈ [(exactCat, Reg.g 0, nextRecord, 0x100000, 32), (migrates 0, .g 3, nextRecord, 0x100000, 32), (exactCat, .g 3, badRecord, 0x100000, 32),
        (exactCat, .g 3, nextRecord, 0x400, 32), (exactCat, .g 3, nextRecord, 0x100000, 16), (exactCat, .g 3, nextRecord, 0x100000, 32),
        (migrates 0, .g 0, nextRecord, 0x100000, 32), (migrates 15, .g 0, nextRecord, 0x100000, 32)], ∀ n ∈ [1, 2],
      ∃ (u : State) (q : CatCmd), u.ownCat 0 q.rcb q.cat = some x.1 ∧ q.i = .crehash (catops 0 x.2.1) ∧ q.words = x.2.2.1 ∧ q.a = n ∧
        (u.clusterAt 0).spaceFor (areaOf x.1.l (recordGeo q.words)) = (decide (x.2.2.2.1 ≠ 0x400) && x.2.2.1 != badRecord && x.1.migrating.isNone) ∧
        u.bucketsFit 0 x.1.rcb (x.1.l * 2 ^ (recordGeo q.words).b) = (decide (x.2.2.2.2 = 32) && x.1.migrating.isNone) ∧
        recordValid q.words = (x.2.2.1 != badRecord) ∧
        (x.1.migrating = some (recordGeo nextRecord) → u.migrationFails 0 x.1 (recordGeo nextRecord) q.a.toNat = false) ∧
        (x.1.migrating = none → (u.zeroArea 0 (areaOf 1 (recordGeo nextRecord))).migrationFails 0
          { x.1 with migrating := some (recordGeo nextRecord), record := nextRecord, cur := 0 } (recordGeo nextRecord) q.a.toNat = false)) := by
  refine ⟨fun x hx i hi => ⟨(tabled i x.1 x.2.1).1, (tabled i x.1 x.2.1).2, ?_⟩,
    ⟨probing 2 .ready, asks (.cprobe catops) 0 [0x1000000000000, 0x102], by decide +kernel, rfl, by decide +kernel, by decide⟩,
    ⟨probing 1 .ready, asks (.cprobe catops) 0 [0x1000000020000, 0x102], by decide +kernel, rfl, by decide +kernel⟩, ?_,
    fun x hx => ⟨asked (asks (.cswap catops) 3) ((2, x.1) :: (x.2.map (fun d => (3, d))).toList), asks (.cswap catops) 3, ?_⟩,
    fun x hx n hn => ⟨asked (asks (.crehash (catops 0 x.2.1)) n x.2.2.1) [(2, x.1)] x.2.2.2.1 x.2.2.2.2, asks (.crehash (catops 0 x.2.1)) n x.2.2.1, ?_⟩⟩
  · fin_cases hx <;> fin_cases hi <;> exact ⟨by decide +kernel, rfl, by decide +kernel, by decide +kernel, by decide +kernel⟩
  · let u := probing 1 .ready
    let q := asks (.cprobe catops) 0 [0x1000000000000, 0x102]
    obtain ⟨⟨p, w⟩, h, hp⟩ := answers (e := locate u (.core q.core) q.mode q.core (u.effPtroot q.rcb) .w (q.b.toNat + 28))
      (fun x => !x.1.inReclass x.2 && (match x.2.touch ⟨q.id, q.core, q.fc⟩ q.rcb (x.2.ctxOf q.core q.fc).cts x.1 4 (fun _ => some 0) with
        | .ok _ => true | .error _ => false)) (by decide +kernel)
    simp only [Bool.and_eq_true, Bool.not_eq_true'] at hp
    cases hz : w.touch ⟨q.id, q.core, q.fc⟩ q.rcb (w.ctxOf q.core q.fc).cts p 4 (fun _ => some 0) with
    | error e => rw [hz] at hp; exact absurd hp.2 (by simp)
    | ok r => exact ⟨u, q, p, w, r.1, r.2.1, r.2.2, by decide +kernel, rfl, by decide +kernel, by decide +kernel, by decide +kernel, h, hp.1, hz⟩
  · fin_cases hx <;> exact ⟨by decide +kernel, rfl, by decide +kernel, by decide +kernel⟩
  · fin_cases hx <;> fin_cases hn <;> exact ⟨by decide +kernel, rfl, rfl, rfl, by decide +kernel, by decide +kernel, by decide +kernel,
      by decide +kernel, by decide +kernel⟩
/-- g1 to g4 hold a destination, two operands and a third; core 0 has the tiles of `matrices`, and channel 0 of its cluster some commands. -/
def engine (a b : Word := 0) (q : List Cmd := []) (k dst : Word := 0) (f : Ctx → Ctx := id) (g : Core → Core := id) : State :=
  (user (fun c => f ((((c.wg 2 a).wg 3 b).wg 4 k).wg 1 dst)) (fun c => g (matrices c))).modCluster 0 (fun x => { x with chans := x.chans.set 0 q })
def aCmd (i : Instr) (stage : CmdStage := .queued) (pos : Nat := 0) (a b : Word := 0) (rows : List Word := []) (dst : Word := 0)
    (follow : Option Instr := none) : Cmd := ⟨7, 0, 0, i, 0, .u, a, b, 0, dst, follow, false, [], [], stage, pos, rows, 0, 0, 0⟩
abbrev ecopy : EOps := eops 0 0 (.t 5)
abbrev emem : EOps := eops
abbrev esrc : EOps := eops 0 0 (.g 0) (.g 3) (.t 5)
def busyCh : List Cmd := [aCmd (.hcopy emem)]
/-- Tile 5 with a ticket. -/
def ticketed (id : Nat) (c : Core) : Core := { c with tiles := [(5, { tile .ready with ticket := some id })] }

theorem named_of {s : State} {n : Nat} {t : Tile} (h : decide (tfind s.here.tiles n = some t ∧ s.here.tileMoving t = false) = true) :
    Claims.named s n t :=
  let ⟨a, b⟩ := of_decide_eq_true h
  ⟨a, b⟩

/-- A tile's length and one off it, an aligned source and one not, smoothing with room; a copy in memory; 32 and 33 rows; descriptors aligned
and not; a channel with 63 commands and with 64; and a wait on a channel and on a tile, over and not. -/
theorem witness_HeliostatCommands :
    (∀ x ∈ [(0x10, 2048, false), (0x10, 2049, false), (0x8, 2048, false), (0x10, 2048, true)], ∃ (s : State) (o : EOps), Issues (.hcopy o) o.h s ∧ o.h.d = .t 5 ∧ o.h.s1 = .g 2 ∧ o.h.s2 = .g 3 ∧
      o.h.s3 = .g 4 ∧ Claims.named s 5 (tile .ready) ∧ (s.ctx.rg 2).toNat = x.1 ∧ (s.ctx.rg 3).toNat = x.2.1 ∧ (tile .ready).bytes = 2048 ∧
      o.opt.getLsbD 0 = x.2.2 ∧ (tile .ready).smooths = true ∧ (s.ctx.rg 4).toNat % 128 = 0 ∧
      (s.ctx.rg 4).toNat + 128 ≤ s.here.bankCount .scr * 0x2000) ∧
    (∀ n ∈ [16, 17], ∃ s : State, Issues (.hcopy emem) emem.h s ∧ emem.h.d.isT = false ∧ emem.opt.getLsbD 0 = false ∧ (s.ctx.rg 3).toNat = n ∧
      (s.ctx.rg 2).toNat % 16 = 0 ∧ (s.ctx.rg 1).toNat % 16 = 0 ∧ ((s.clusterAt (clusterOf s.core)).chan 0).length < 64 ∧
      let q := Claims.queued s (.hcopy emem) 0 (s.ctx.rg 2) (s.ctx.rg 3) (s.ctx.rg 4) (s.ctx.rg 1) false
      let cmd := Claims.command s (.hcopy emem) (s.ctx.rg 2) (s.ctx.rg 3) (s.ctx.rg 4) (s.ctx.rg 1) false
      ∃ u, (claimRanges cmd (q.cmdDests cmd 0)).run q = .ok ((), u)) ∧
    (∀ x ∈ [(32, 32), (33, 32), (32, 31)], ∃ s : State, Issues (.hgath ecopy) ecopy.h s ∧ Claims.named s 5 (tile .ready) ∧ (tile .ready).role ≠ .csm ∧
      (s.ctx.rg 2).toNat = x.1 ∧ (s.ctx.rg 3).toNat = x.2) ∧
    (∀ x ∈ [(32, 32), (33, 32), (32, 31)], ∃ s : State, Issues (.hscat esrc) esrc.h s ∧ Claims.named s 5 (tile .ready) ∧ (tile .ready).role ≠ .csm ∧
      (s.ctx.rg 3).toNat = x.1 ∧ (s.ctx.rg 2).toNat = x.2) ∧
    (∀ n ∈ [32, 31], ∃ s : State, Issues (.hpack esrc) esrc.h s ∧ Issues (.hunpk ecopy) ecopy.h s ∧ Claims.named s 5 (tile .ready) ∧
      (tile .ready).role ≠ .csm ∧ (tile .ready).fmt ≠ .m4 ∧ (s.ctx.rg 2).toNat = n) ∧
    (∀ n ∈ [63, 64], ∃ s : State, Issues (.hunpk ecopy) ecopy.h s ∧ Claims.named s 5 (tile .ready) ∧ (s.ctx.rg 2).toNat % 32 = 0 ∧
      ((s.clusterAt (clusterOf s.core)).chan 0).length = n) ∧
    (∀ q ∈ [[], busyCh], ∃ s : State, Issues (.hwait (eops 1)) (eops 1).h s ∧ (eops 1).opt.getLsbD 0 = true ∧ Issues (.hcancel eops) eops.h s ∧
      (s.clusterAt (clusterOf s.core)).chan 0 = q) ∧
    (∃ (s : State) (o : EOps), Issues (.hwait o) o.h s ∧ o.opt.getLsbD 0 = false ∧ o.h.s1 = .t 5 ∧ Claims.named s 5 (tile .ready) ∧
      (tile .ready).ticket = none) ∧
    ∀ id ∈ [7, 8], ∃ (s : State) (o : EOps) (t : Tile), Issues (.hwait o) o.h s ∧ o.opt.getLsbD 0 = false ∧ o.h.s1 = .t 5 ∧
      Claims.named s 5 t ∧ t.ticket = some id ∧
      ((id = 7 ∧ ∃ c ∈ s.pendingCmds (clusterOf s.core), c.id = id) ∨ (id = 8 ∧ ∀ c ∈ s.pendingCmds (clusterOf s.core), c.id ≠ id)) := by
  refine ⟨fun x hx => ⟨engine (BitVec.ofNat 64 x.1) (BitVec.ofNat 64 x.2.1), eops (natOfBool x.2.2) 0 (.t 5), ?_⟩,
    fun n hn => ⟨engine 0 (BitVec.ofNat 64 n), ?_⟩, fun x hx => ⟨engine (BitVec.ofNat 64 x.1) (BitVec.ofNat 64 x.2), ?_⟩,
    fun x hx => ⟨engine (BitVec.ofNat 64 x.2) (BitVec.ofNat 64 x.1), ?_⟩, fun n hn => ⟨engine (BitVec.ofNat 64 n), ?_⟩,
    fun n hn => ⟨engine 0 0 (List.replicate n (aCmd (.hcopy emem))), ?_⟩, fun q hq => ⟨engine 0 0 q, ?_⟩,
    ⟨engine, ⟨hd (.g 1) (.t 5) (.g 0) (.g 0), false, 0, 0, 0, .none, 0⟩, issues_of (by decide), by decide, rfl, named_of (by decide), rfl⟩,
    fun n hn => ⟨engine 0 0 busyCh 0 0 id (ticketed n), ⟨hd (.g 1) (.t 5) (.g 0) (.g 0), false, 0, 0, 0, .none, 0⟩,
      { tile .ready with ticket := some n }, ?_⟩⟩
  · fin_cases hx <;> exact ⟨issues_of (by decide), rfl, rfl, rfl, rfl, named_of (by decide), by decide, by decide, by decide, by decide, by decide,
      by decide, by decide⟩
  · let s := engine 0 (BitVec.ofNat 64 n)
    let q := Claims.queued s (.hcopy emem) 0 (s.ctx.rg 2) (s.ctx.rg 3) (s.ctx.rg 4) (s.ctx.rg 1) false
    let cmd := Claims.command s (.hcopy emem) (s.ctx.rg 2) (s.ctx.rg 3) (s.ctx.rg 4) (s.ctx.rg 1) false
    obtain ⟨_, u, h, -⟩ := runs_to (a := claimRanges cmd (q.cmdDests cmd 0)) (s := q) (fun _ _ => true) (by fin_cases hn <;> decide +kernel)
    exact ⟨issues_of (by fin_cases hn <;> decide), by decide, by decide, by fin_cases hn <;> decide, by fin_cases hn <;> decide,
      by fin_cases hn <;> decide, by fin_cases hn <;> decide, u, h⟩
  · fin_cases hx <;> exact ⟨issues_of (by decide), named_of (by decide), by decide, by decide, by decide⟩
  · fin_cases hx <;> exact ⟨issues_of (by decide), named_of (by decide), by decide, by decide, by decide⟩
  · fin_cases hn <;> exact ⟨issues_of (by decide), issues_of (by decide), named_of (by decide), by decide, by decide, by decide⟩
  · fin_cases hn <;> exact ⟨issues_of (by decide), named_of (by decide), by decide, by decide⟩
  · fin_cases hq <;> exact ⟨issues_of (by decide), by decide, issues_of (by decide), by decide⟩
  · fin_cases hn
    · exact ⟨issues_of (by decide), by decide, rfl, named_of (by decide), rfl, .inl ⟨rfl, by decide⟩⟩
    · exact ⟨issues_of (by decide), by decide, rfl, named_of (by decide), rfl, .inr ⟨rfl, by decide⟩⟩
/-- Channel 0 of cluster 0 begins with a command. -/
def working (c : Cmd) (g : Core → Core := id) (more : List Cmd := []) : State := engine 0 0 (more ++ [c]) 0 0 id g
theorem first_of {s : State} {c : Cmd}
    (h : (decide (nextCmd ((s.clusterAt 0).chan 0) = some c) &&
      (match (afterAccesses c.id).run (s.at c.core c.fc) with | .ok (_, t) => decide (t = s.at c.core c.fc) | .error _ => false)) = true) :
    nextCmd ((s.clusterAt 0).chan 0) = some c ∧ (afterAccesses c.id).run (s.at c.core c.fc) = .ok ((), s.at c.core c.fc) := by
  simp only [Bool.and_eq_true] at h
  exact ⟨of_decide_eq_true h.1, leaves h.2⟩
/-- A move of 8 banks of SCR is under way. -/
def giving (c : Core) : Core := { c with move := some ⟨.cch, .scr, 8, 0⟩ }
/-- A product of t2 and the CSM tile t6. -/
abbrev mmaB : TOps := tops (.z 0) (.t 2) (.t 6) (.g 0)
def slices (c : Core) : Core := { c with tiles := (6, tile .ready 0 .csm) :: c.tiles }
def running1 (i : Instr) (pos : Nat := 0) (a b : Word := 0) (rows : List Word := []) (dst : Word := 0) : Cmd := aCmd i .running pos a b rows dst
def unmade (o : TOps) : Cmd := aCmd (.hcopy ecopy) .moved 0 0 0 [] 0 (some (.mma o))
def makes (o : TOps) : Cmd := { unmade o with checked := true, scales := List.replicate 96 0, held := [o.h.s1.index, o.h.s2.index] }
theorem act_traps {α : Type} {a : Act α} {s : State} (h : (match a.run s with | .error (.trap _) => true | _ => false) = true) :
    ∃ x, a.run s = .error (.trap x) := by
  revert h
  cases a.run s with
  | ok r => simp
  | error e => cases e with
    | trap x => exact fun _ => ⟨x, rfl⟩
    | wait w p => simp
theorem waits_of {α : Type} {a : Act α} {s : State} (h : (match a.run s with | .error (.wait _ _) => true | _ => false) = true) :
    ∃ w p, a.run s = .error (.wait w p) := by
  revert h
  cases a.run s with
  | ok r => simp
  | error e => cases e with
    | trap x => simp
    | wait w p => exact fun _ => ⟨w, p, rfl⟩

/-- A fill, a drain that can begin and one that cannot, a copy in memory; a last unit moved, one that moves, one that faults and one that waits;
units of each kind; a command at the head and behind another; and a product that is made and one that faults. -/
theorem witness_HeliostatProgress :
    (∃ (s s1 : State) (c : Cmd) (rows : List Word), (nextCmd ((s.clusterAt 0).chan 0) = some c ∧
        (afterAccesses c.id).run (s.at c.core c.fc) = .ok ((), s.at c.core c.fc)) ∧ cmdDest c.i = some 5 ∧ cmdSource c.i = none ∧
      Claims.Takes (s.at c.core c.fc) none 5 (tile .ready) c.id ∧ (readDescriptor c).run (Claims.filling (s.at c.core c.fc) 5) = .ok (rows, s1)) ∧
    (∀ n ∈ [5, 4], ∃ (s : State) (c : Cmd) (t : Tile), (nextCmd ((s.clusterAt 0).chan 0) = some c ∧
        (afterAccesses c.id).run (s.at c.core c.fc) = .ok ((), s.at c.core c.fc)) ∧ cmdDest c.i = none ∧ cmdSource c.i = some n ∧
      Claims.named (s.at c.core c.fc) n t ∧ t.err = none ∧ (decide (t.state = .ready) = decide (n = 5)) ∧ (∃ o, c.i = .hpack o) ∧
      ∃ (rows : List Word) (s1 s2 : State), (readDescriptor c).run ((s.at c.core c.fc).modHere
          (·.setTile n (fun t => { t with state := .draining }))) = .ok (rows, s1) ∧
        (claimRanges { c with stage := .running, rows := rows } (s1.cmdDests { c with stage := .running, rows := rows } 0)).run
          (s1.setCmd { c with stage := .running, rows := rows }) = .ok ((), s2)) ∧
    (∃ (s : State) (c : Cmd), (nextCmd ((s.clusterAt 0).chan 0) = some c ∧
        (afterAccesses c.id).run (s.at c.core c.fc) = .ok ((), s.at c.core c.fc)) ∧ c.i = .hcopy emem ∧ emem.h.d.isT = false ∧
      ∃ s2, (claimRanges { c with stage := .running, rows := [] } [(c.dst.toNat, c.b.toNat)]).run
        ((s.at c.core c.fc).setCmd { c with stage := .running, rows := [] }) = .ok ((), s2)) ∧
    (∃ (s : State) (c : Cmd), s.findCmd 7 = some (0, c, true) ∧ c.stage = .running ∧ s.cmdUnits c = c.pos ∧ c.follow = none) ∧
    (∃ (s u : State) (c : Cmd), s.findCmd 7 = some (0, c, true) ∧ c.stage = .running ∧ s.cmdUnits c = c.pos + 1 ∧
      (moveUnit c).run (s.at c.core c.fc) = .ok ((), u)) ∧
    (∃ (s : State) (c : Cmd) (x : Trap), s.findCmd 7 = some (0, c, true) ∧ c.stage = .running ∧ c.pos < s.cmdUnits c ∧
      (moveUnit c).run (s.at c.core c.fc) = .error (.trap x)) ∧
    (∃ (s : State) (c : Cmd) (w : StallWhy) (p : Bool), s.findCmd 7 = some (0, c, true) ∧ c.stage = .running ∧ c.pos < s.cmdUnits c ∧
      (moveUnit c).run (s.at c.core c.fc) = .error (.wait w p)) ∧
    (∃ (t s1 : State) (c : Cmd) (x : Nat), c.i = .hcopy ecopy ∧ (engineRead c (c.a.toNat + 16 * c.pos) 16).run t = .ok (x, s1) ∧
      tfind (t.coreAt c.core).tiles 5 = some (tile .ready) ∧ tfind (s1.coreAt c.core).tiles 5 = some (tile .ready)) ∧
    (∃ (t s1 s2 : State) (c : Cmd) (x ts : Nat), c.i = .hcopy emem ∧ (engineRead c (c.a.toNat + 16 * c.pos) 16).run t = .ok (x, s1) ∧
      (engineWrite c (c.dst.toNat + 16 * c.pos) 16 x
        (t.cmdDests c (c.pos + 1))).run s1 = .ok (ts, s2)) ∧
    (∃ (t s1 : State) (c : Cmd) (a : Word) (x : Nat), c.i = .hgath ecopy ∧ tfind (t.coreAt c.core).tiles 5 = some (tile .ready) ∧
      c.rows[c.pos / tileUnits (tile .ready)]? = some a ∧
      (engineRead c (a.toNat + 16 * (c.pos % tileUnits (tile .ready))) 16).run t = .ok (x, s1) ∧
      tfind (s1.coreAt c.core).tiles 5 = some (tile .ready)) ∧
    (∃ (t : State) (c : Cmd), c.i = .hgath ecopy ∧ tfind (t.coreAt c.core).tiles 5 = some (tile .ready) ∧
      c.rows[c.pos / tileUnits (tile .ready)]? = none) ∧
    (∃ (t s1 : State) (c : Cmd) (a : Word) (ts : Nat), c.i = .hscat esrc ∧ tfind (t.coreAt c.core).tiles 5 = some (tile .ready) ∧
      c.rows[c.pos / tileUnits (tile .ready)]? = some a ∧
      (engineWrite c (a.toNat + 16 * (c.pos % tileUnits (tile .ready))) 16
        (natOfBytes (t.tileRow c.core (tile .ready) (c.pos / tileUnits (tile .ready)) (16 * (c.pos % tileUnits (tile .ready))) 16))
        (t.cmdDests c (c.pos + 1))).run t = .ok (ts, s1)) ∧
    (∀ head ∈ [true, false], ∃ (s : State) (c : Cmd), s.findCmd 7 = some (0, c, head) ∧ c.stage = .moved ∧ c.follow = none) ∧
    (∃ (s u : State) (c : Cmd), s.findCmd 7 = some (0, c, true) ∧ c.stage = .moved ∧ c.follow = some (.mma mmaB) ∧
      followParts (.mma mmaB) = some (mmaB, .f16, false) ∧ c.checked = true ∧ 2 ∈ c.held ∧ 6 ∈ c.held ∧
      (followProduct c mmaB .f16 false).run ((s.setCmd c).at c.core c.fc) = .ok ((), u)) ∧
    (∃ (s : State) (c : Cmd), s.findCmd 7 = some (0, c, true) ∧ c.stage = .moved ∧ c.follow = some (.mma mmaB) ∧ c.checked = false) ∧
    ∃ (s : State) (c : Cmd) (o : TOps) (x : Trap), s.findCmd 7 = some (0, c, true) ∧ c.stage = .moved ∧ c.follow = some (.mma o) ∧
      followParts (.mma o) = some (o, .f16, false) ∧ c.checked = true ∧ o.h.s1.index ∈ c.held ∧
      o.h.s2.index ∈ c.held ∧ (followProduct c o .f16 false).run ((s.setCmd c).at c.core c.fc) = .error (.trap x) := by
  refine ⟨?_, fun n hn => ?_, ?_,
    ⟨working (running1 (.hcopy ecopy) 128 0 2048), running1 (.hcopy ecopy) 128 0 2048, by decide +kernel, by decide, by decide +kernel, by decide⟩,
    ?_, ?_, ?_, ?_, ?_, ?_, ⟨working (running1 (.hgath ecopy)), running1 (.hgath ecopy), by decide, by decide, by decide⟩, ?_, fun head hh => ?_,
    ?_, ⟨working (unmade mmaB), unmade mmaB, by decide +kernel, by decide, rfl, rfl⟩, ?_⟩
  · let c := aCmd (.hcopy ecopy)
    exact ⟨working c, _, c, [], first_of (by decide +kernel), by decide, by decide,
      ⟨by decide +kernel, by decide +kernel, by decide +kernel, by decide +kernel⟩, by rfl⟩
  · let o : EOps := eops 0 0 (.g 0) (.g 3) (.t (BitVec.ofNat 6 n))
    let c := aCmd (.hpack o) .queued 0 0 0x1000000000000
    let s := working c
    obtain ⟨rows, s1, h, hp⟩ := runs_to (a := readDescriptor c) (s := (s.at c.core c.fc).modHere
        (·.setTile n (fun t => { t with state := .draining }))) (fun rows s1 =>
          match (claimRanges { c with stage := .running, rows := rows } (s1.cmdDests { c with stage := .running, rows := rows } 0)).run
            (s1.setCmd { c with stage := .running, rows := rows }) with | .ok _ => true | .error _ => false) (by fin_cases hn <;> decide +kernel)
    obtain ⟨_, s2, h2, -⟩ := runs_to (a := claimRanges { c with stage := .running, rows := rows }
      (s1.cmdDests { c with stage := .running, rows := rows } 0)) (s := s1.setCmd { c with stage := .running, rows := rows }) (fun _ _ => true)
      (by revert hp; cases (claimRanges { c with stage := .running, rows := rows } (s1.cmdDests { c with stage := .running, rows := rows } 0)).run
            (s1.setCmd { c with stage := .running, rows := rows }) <;> simp)
    refine ⟨s, c, tile (if n = 5 then .ready else .empty), first_of (by fin_cases hn <;> decide +kernel), by fin_cases hn <;> decide, by fin_cases hn <;> decide,
      named_of (by fin_cases hn <;> decide +kernel), by fin_cases hn <;> decide, by fin_cases hn <;> decide, ⟨o, rfl⟩, rows, s1, s2, h, h2⟩
  · let c := aCmd (.hcopy emem)
    obtain ⟨_, s2, h, -⟩ := runs_to (a := claimRanges { c with stage := .running, rows := [] } [(c.dst.toNat, c.b.toNat)])
      (s := ((working c).at c.core c.fc).setCmd { c with stage := .running, rows := [] }) (fun _ _ => true) (by decide +kernel)
    exact ⟨working c, c, first_of (by decide +kernel), rfl, by decide, s2, h⟩
  · let c := running1 (.hgath ecopy) 127
    obtain ⟨_, u, h, -⟩ := runs_to (a := moveUnit c) (s := (working c).at c.core c.fc) (fun _ _ => true) (by decide +kernel)
    exact ⟨working c, u, c, by decide +kernel, by decide, by decide +kernel, h⟩
  · let c := running1 (.hcopy ecopy) 0 8 2048
    obtain ⟨x, h⟩ := act_traps (a := moveUnit c) (s := (working c).at c.core c.fc) (by decide +kernel)
    exact ⟨working c, c, x, by decide +kernel, by decide, by decide +kernel, h⟩
  · let c := running1 (.hcopy ecopy) 0 0x100000001F800 2048
    obtain ⟨w, p, h⟩ := waits_of (a := moveUnit c) (s := (working c giving).at c.core c.fc) (by decide +kernel)
    exact ⟨working c giving, c, w, p, by decide +kernel, by decide, by decide +kernel, h⟩
  · let c := running1 (.hcopy ecopy) 0 0x1000000000000 2048
    obtain ⟨x, s1, h, hp⟩ := runs_to (a := engineRead c (c.a.toNat + 16 * c.pos) 16) (s := working c)
      (fun _ t => decide (tfind (t.coreAt c.core).tiles 5 = some (tile .ready))) (by decide +kernel)
    exact ⟨working c, s1, c, x, rfl, h, by decide +kernel, of_decide_eq_true hp⟩
  · let c := running1 (.hcopy emem) 0 0x1000000000000 32 [] 0x1000000000100
    obtain ⟨x, s1, h, hp⟩ := runs_to (a := engineRead c (c.a.toNat + 16 * c.pos) 16) (s := working c)
      (fun x t => decide (x = 0 ∧ t = working c)) (by decide +kernel)
    obtain ⟨rfl, rfl⟩ := of_decide_eq_true hp
    obtain ⟨ts, s2, h2, -⟩ := runs_to (a := engineWrite c (c.dst.toNat + 16 * c.pos) 16 0
        ((working c).cmdDests c (c.pos + 1))) (s := working c) (fun _ _ => true) (by decide +kernel)
    exact ⟨working c, _, s2, c, _, ts, rfl, h, h2⟩
  · let c := running1 (.hgath ecopy) 4 0 0 [0, 0x1000000000000]
    obtain ⟨x, s1, h, hp⟩ := runs_to (a := engineRead c (0x1000000000000 + 16 * (c.pos % tileUnits (tile .ready))) 16) (s := working c)
      (fun _ t => decide (tfind (t.coreAt c.core).tiles 5 = some (tile .ready))) (by decide +kernel)
    exact ⟨working c, s1, c, 0x1000000000000, x, rfl, by decide +kernel, by decide, h, of_decide_eq_true hp⟩
  · let c := running1 (.hscat esrc) 0 0x1000000000000 0 [0x1000000000000]
    obtain ⟨ts, s1, h, -⟩ := runs_to (a := engineWrite c (0x1000000000000 + 16 * (c.pos % tileUnits (tile .ready))) 16
        (natOfBytes ((working c).tileRow c.core (tile .ready) (c.pos / tileUnits (tile .ready)) (16 * (c.pos % tileUnits (tile .ready))) 16))
        ((working c).cmdDests c (c.pos + 1))) (s := working c) (fun _ _ => true) (by decide +kernel)
    exact ⟨working c, s1, c, 0x1000000000000, ts, rfl, by decide +kernel, by decide, h⟩
  · let c := aCmd (.hcopy ecopy) .moved
    fin_cases hh
    · exact ⟨working c, c, by decide +kernel, by decide, by decide⟩
    · exact ⟨working c id [{ c with id := 6 }], c, by decide +kernel, by decide, by decide⟩
  · let c := makes mmaB
    obtain ⟨_, u, h, -⟩ := runs_to (a := followProduct c mmaB .f16 false) (s := ((working c slices).setCmd c).at c.core c.fc) (fun _ _ => true) (by decide +kernel)
    exact ⟨working c slices, u, c, by decide +kernel, by decide, rfl, rfl, rfl, by decide, by decide, h⟩
  · let c := makes mmaB
    let s : State := { working c slices with errs := [regSpaceKey 0 (32 * 0x3000)] }
    obtain ⟨x, h⟩ := act_traps (a := followProduct c mmaB .f16 false) (s := (s.setCmd c).at c.core c.fc) (by decide +kernel)
    exact ⟨s, c, mmaB, x, by decide +kernel, by decide, rfl, rfl, rfl, by decide, by decide, h⟩

/-- A filled tile with SMOOTH, and the address in the own SCR role at which the rows' pointers begin. -/
abbrev esmooth : EOps := { ecopy with opt := 1 }
def sparse : Word := 0x1000000000000
/-- A command whose rows begin at `sparse`, its indices 0x1000 behind and its values 0x2000. -/
def sparseCmd (i : Instr) : Cmd := running1 i 0 0 0 [sparse, sparse + 0x1000, sparse + 0x2000]
/-- The row pointers of row 0, and its first index. -/
def pointers (c : Cmd) (a b k : Nat) : State :=
  (((working c).wrNat 0x1000000000000 4 a).wrNat 0x1000000000004 4 b).wrNat 0x1000000001000 2 k

/-- A unit whose divisors are ready, in role and sound; row pointers that fall; a row unpacked, and one whose index lies beyond its tile; a row
packed; an index that is a filler, one beyond and one within; a pair packed; and a command whose product has been made. -/
theorem witness_HeliostatUnits :
    (∃ (t s1 : State) (c : Cmd) (x : Nat), c.i = .hcopy esmooth ∧ (engineRead c (c.a.toNat + 16 * c.pos) 16).run t = .ok (x, s1) ∧
      tfind (t.coreAt c.core).tiles 5 = some (tile .ready) ∧ tfind (s1.coreAt c.core).tiles 5 = some (tile .ready) ∧
      (divisorsReady c (tile .ready) (c.pos / tileUnits (tile .ready)) (16 * (c.pos % tileUnits (tile .ready)))).run s1 = .ok ((), s1) ∧
      (s1.coreAt c.core).inRole 1 c.c.toNat 32 = true ∧ s1.bad (poolAddr 1 c.core c.c.toNat) 32 = false) ∧
    (∀ i ∈ [Instr.hunpk ecopy, .hpack esrc], ∀ x ∈ [(3, 2), (2, 2), (2, 3)], ∃ (t s1 s2 : State) (c : Cmd), c.i = i ∧
      (engineRead c ((c.rows.getD 0 0).toNat + 4 * c.pos) 4).run t = .ok (x.1, s1) ∧
      (engineRead c ((c.rows.getD 0 0).toNat + 4 * (c.pos + 1)) 4).run s1 = .ok (x.2, s2)) ∧
    (∀ x ∈ [(5, true), (64, false), (0xFFFF, true)], ∃ (t u : State) (line : Option (List Nat)),
      tfind (t.coreAt 0).tiles 5 = some (tile .ready) ∧
      (unpackRow (sparseCmd (.hunpk ecopy)) 0x1000000001000 0x1000000002000 2 (tile .ready).cols 1 0
        (List.replicate (tile .ready).cols 0)).run t = .ok (line, u) ∧ line.isSome = x.2 ∧
      ∃ (u' : State), (engineRead (sparseCmd (.hunpk ecopy)) 0x1000000001000 2).run t = .ok (x.1, u') ∧
        ∃ (v : Nat) (s1 : State), (engineRead (sparseCmd (.hunpk ecopy)) 0x1000000002000 2).run u' = .ok (v, s1)) ∧
    (∃ (t u : State) (ts : Nat), tfind (t.coreAt 0).tiles 5 = some (tile .ready) ∧
      (packRow (sparseCmd (.hpack esrc)) (t.cmdDests (sparseCmd (.hpack esrc)) 1) 0x1000000001000 0x1000000002000 2 1 0 [(3, 7)] 0).run t
        = .ok (ts, u) ∧
      ∃ (n : Nat) (s1 : State), (engineWrite (sparseCmd (.hpack esrc)) 0x1000000001000 2 3 (t.cmdDests (sparseCmd (.hpack esrc)) 1)).run t
          = .ok (n, s1) ∧
        ∃ (m : Nat) (s2 : State), (engineWrite { sparseCmd (.hpack esrc) with ts := n } 0x1000000002000 2 7
          (t.cmdDests (sparseCmd (.hpack esrc)) 1)).run s1 = .ok (m, s2)) ∧
    (∃ (s : State) (c : Cmd), s.findCmd 7 = some (0, c, true) ∧ c.stage = .made ∧ c.follow = none) ∧
    ∃ (s : State) (c : Cmd) (w : StallWhy) (p : Bool), s.findCmd 7 = some (0, c, true) ∧ c.stage = .moved ∧ c.follow = some (.mma mmaB) ∧
      c.checked = true ∧ 2 ∈ c.held ∧ 6 ∈ c.held ∧
      (followProduct c mmaB .f16 false).run ((s.setCmd c).at c.core c.fc) = .error (.wait w p) := by
  refine ⟨?_, fun i hi x hx => ?_, fun x hx => ?_, ?_,
    ⟨working { aCmd (.hcopy ecopy) with stage := .made }, { aCmd (.hcopy ecopy) with stage := .made }, by decide +kernel, rfl, rfl⟩, ?_⟩
  · let c := running1 (.hcopy esmooth) 0 0x1000000000000 2048
    obtain ⟨x, s1, h, hp⟩ := runs_to (a := engineRead c (c.a.toNat + 16 * c.pos) 16) (s := working c)
      (fun _ t => decide (t = working c)) (by decide +kernel)
    obtain rfl := of_decide_eq_true hp
    exact ⟨working c, _, c, x, rfl, h, by decide +kernel, by decide +kernel, leaves (by decide +kernel), by decide +kernel, by decide +kernel⟩
  · let c := sparseCmd i
    obtain ⟨a, s1, h1, p1⟩ := runs_to (a := engineRead c ((c.rows.getD 0 0).toNat + 4 * c.pos) 4) (s := pointers c x.1 x.2 0)
      (fun a t => decide (a = x.1 ∧ t = pointers c x.1 x.2 0)) (by fin_cases hi <;> fin_cases hx <;> decide +kernel)
    obtain ⟨rfl, rfl⟩ := of_decide_eq_true p1
    obtain ⟨b, s2, h2, p2⟩ := runs_to (a := engineRead c ((c.rows.getD 0 0).toNat + 4 * (c.pos + 1)) 4) (s := pointers c x.1 x.2 0)
      (fun b _ => decide (b = x.2)) (by fin_cases hi <;> fin_cases hx <;> decide +kernel)
    obtain rfl := of_decide_eq_true p2
    exact ⟨_, _, s2, c, rfl, h1, h2⟩
  · let c := sparseCmd (.hunpk ecopy)
    let t := pointers c 0 1 x.1
    obtain ⟨line, u, h, hp⟩ := runs_to (a := unpackRow c 0x1000000001000 0x1000000002000 2 (tile .ready).cols 1 0
      (List.replicate (tile .ready).cols 0)) (s := t) (fun l _ => l.isSome == x.2) (by fin_cases hx <;> decide +kernel)
    obtain ⟨k, u', h', hk⟩ := runs_to (a := engineRead c 0x1000000001000 2) (s := t) (fun k w => decide (k = x.1 ∧ w = t))
      (by fin_cases hx <;> decide +kernel)
    obtain ⟨rfl, rfl⟩ := of_decide_eq_true hk
    obtain ⟨v, s1, hv, -⟩ := runs_to (a := engineRead c 0x1000000002000 2) (s := t) (fun _ _ => true) (by fin_cases hx <;> decide +kernel)
    exact ⟨t, u, line, by fin_cases hx <;> decide +kernel, h, by simpa using hp, t, h', v, s1, hv⟩
  · let c := sparseCmd (.hpack esrc)
    let t := working c
    obtain ⟨ts, u, h, -⟩ := runs_to (a := packRow c (t.cmdDests c 1) 0x1000000001000 0x1000000002000 2 1 0 [(3, 7)] 0) (s := t)
      (fun _ _ => true) (by decide +kernel)
    obtain ⟨n, s1, h1, p1⟩ := runs_to (a := engineWrite c 0x1000000001000 2 3 (t.cmdDests c 1)) (s := t)
      (fun n w => match (engineWrite { c with ts := n } 0x1000000002000 2 7 (t.cmdDests c 1)).run w with | .ok (_, _) => true | .error _ => false)
      (by decide +kernel)
    cases h2 : (engineWrite { c with ts := n } 0x1000000002000 2 7 (t.cmdDests c 1)).run s1 with
    | error e => rw [h2] at p1; cases p1
    | ok r => exact ⟨t, u, ts, by decide +kernel, h, n, s1, h1, r.1, r.2, h2⟩
  · let c := makes mmaB
    let g (k : Core) : Core := let x := (slices k).ctx; { slices k with ctx := x.set 1 { x[1] with
      xbusy := true, xseq := [.entry { anEntry with i := .mma mmaB }] } }
    obtain ⟨w, p, h⟩ := waits_of (a := followProduct c mmaB .f16 false) (s := ((working c g).setCmd c).at c.core c.fc) (by decide +kernel)
    exact ⟨working c g, c, w, p, by decide +kernel, by decide, rfl, rfl, by decide, by decide, h⟩
/-- An access of core 0 under way. -/
def access (op : TxnOp) (target : Target) (ga : Nat) (stage : TxnStage := .travelling) : Txn := { newTxn user op target ga 8 with stage := stage }
def net (t : Txn) (f : Core → Core := id) (h : Home := Home.reset) : State :=
  ({ (user id f) with txns := [(7, t)] } : State).modPkg 0 (fun p => { p with homes := [(0x10000, h)] })
/-- Its own region is 0; or the core has no CCH role. -/
def ofRegion (c : Core) : Core := { c with region := some 0 }
def noCache (c : Core) : Core := { c with banks := c.banks.set 4 0 }
def bytes8 : List Byte := List.replicate 8 1

def travelsNow (s : State) (t : Txn) : Bool :=
  decide (tfind s.txns 7 = some t) && decide (t.stage = .travelling) && t.near && !s.earlierPending 7 t
theorem travels_of {s : State} {t : Txn} (h : travelsNow s t = true) : Claims.Travels s 7 t := by
  simp only [travelsNow, Bool.and_eq_true, decide_eq_true_eq, Bool.not_eq_true'] at h
  exact ⟨h.1.1.1, h.1.1.2, h.1.2, h.2⟩
theorem atHome_of {s : State} {t : Txn} {cls : Cls} (h : travelsNow s t = true) (ht : t.target = .dram cls)
    (hh : (decide (gaPkg t.ga = corePkg t.core) && decide ((s.homeAt (lineOf t.ga)).claims = []) && !t.engine && !s.lineHeld (lineOf t.ga) && !s.needsRecall t &&
      !s.recallAhead 7 t && !s.grantPending t.core (lineOf t.ga) 7 && !s.bad (lineOf t.ga) 64 && !s.bad t.ga t.size) = true) :
    Claims.AtHome s 7 t cls := by
  simp only [Bool.and_eq_true, decide_eq_true_eq, Bool.not_eq_true'] at hh
  obtain ⟨⟨⟨⟨⟨⟨⟨⟨h0, h1⟩, h2⟩, h3⟩, h4⟩, h5⟩, h6⟩, h7⟩, h8⟩ := hh
  exact ⟨travels_of h, ht, h0, by simp [State.claimed, h1], by simp [h1], h2, h3, h4, h5, h6, h7, h8⟩

/-- A pool access of a region that may not, of one whose bytes move, of the role's last word and the word after, and a store; a load of each
class, cached and not; a store of each; a claimed line; and a line to be recalled from an owner, from copies, and not. -/
theorem witness_AccessesPerform :
    (∃ (s : State) (t : Txn), Claims.Travels s 7 t ∧ t.target = .pool ∧ (∀ r a n m b, t.op ≠ .slot r a n m b) ∧
      s.poolAllowed t.core t.rcb (gaCore t.ga) = false) ∧
    (∃ (s : State) (t : Txn), Claims.Travels s 7 t ∧ t.target = .pool ∧ (∀ r a n m b, t.op ≠ .slot r a n m b) ∧
      s.poolAllowed t.core t.rcb (gaCore t.ga) = true ∧
      (s.coreAt (gaCore t.ga)).poolWaits (gaSpace t.ga) (gaOff t.ga) t.size (!t.op.isLoad) = true) ∧
    (∀ x ∈ [(0x100000001FFF8, true), (0x1000000020000, false)], ∀ op ∈ [TxnOp.load, .store bytes8], ∃ (s : State) (t : Txn), Claims.Travels s 7 t ∧ t.target = .pool ∧ t.op = op ∧
      (∀ r a n m b, t.op ≠ .slot r a n m b) ∧ s.poolAllowed t.core t.rcb (gaCore t.ga) = true ∧
      (s.coreAt (gaCore t.ga)).poolWaits (gaSpace t.ga) (gaOff t.ga) t.size (!t.op.isLoad) = false ∧
      (s.coreAt (gaCore t.ga)).inRole (gaSpace t.ga) (gaOff t.ga) t.size = x.2 ∧
      (t.op = .load ∨ (Claims.newValue t.op (s.rdNat t.ga t.size)).isSome = true)) ∧
    (∀ cls ∈ [Cls.hc, .sc], ∀ cached ∈ [true, false], ∀ op ∈ [TxnOp.load, .store bytes8], ∃ (s : State) (t : Txn), Claims.AtHome s 7 t cls ∧ t.op = op ∧
      s.caches t.core cls t.ga t.page = cached) ∧
    (∃ (s : State) (t : Txn), Claims.Travels s 7 t ∧ t.target = .dram .hc ∧ (∀ b, t.op ≠ .flush b) ∧ s.claimed (lineOf t.ga) ⟨7, t.core, t.fc⟩ = true) ∧
    (∀ x ∈ [(some 1, []), (none, [1])], ∃ s : State, s.recallWanted 0x10000 = true ∧ s.grantLanding 0x10000 = false ∧
      (s.homeAt 0x10000).owner = x.1 ∧ (s.homeAt 0x10000).us = x.2) ∧
    (∃ s : State, s.recallWanted 0x10000 = false) ∧ ∃ s : State, s.grantLanding 0x10000 = true := by
  refine ⟨⟨net (access .load .pool 0x1000000000000), access .load .pool 0x1000000000000, travels_of (by decide), rfl, by simp [access, newTxn], by decide⟩,
    ⟨net (access .load .pool 0x100000001FFF8) (fun c => giving (ofRegion c)), access .load .pool 0x100000001FFF8, travels_of (by decide), rfl,
      by simp [access, newTxn], by decide, by decide⟩, fun x hx op ho => ⟨net (access op .pool x.1) ofRegion, access op .pool x.1, ?_⟩,
    fun cls hc cached hx op ho => ⟨net (access op (.dram cls) 0x10000) (if cached then id else noCache), access op (.dram cls) 0x10000, ?_⟩,
    ⟨net (access .load (.dram .hc) 0x10000) id { Home.reset with claims := [⟨3, 0, 0⟩] }, access .load (.dram .hc) 0x10000, travels_of (by decide), rfl,
      by simp [access, newTxn], by decide⟩,
    fun x hx => ⟨net (access .load (.dram .hc) 0x10000) id { Home.reset with owner := x.1, us := x.2 }, ?_⟩, ⟨user, by decide⟩,
    ⟨net (access (.store bytes8) (.dram .hc) 0x10000 .granted), by decide⟩⟩
  · fin_cases hx <;> fin_cases ho <;> exact ⟨travels_of (by decide), rfl, rfl, by simp [access, newTxn], by decide, by decide, by decide, by decide⟩
  · fin_cases hc <;> fin_cases hx <;> fin_cases ho <;> exact ⟨atHome_of (by decide) rfl (by decide), rfl, by decide⟩
  · fin_cases hx <;> exact ⟨by decide, by decide, by decide, by decide⟩

/-- A line granted to a load, to a store and to an update; a load that is done and one that failed; and a write done, done in part and failed,
with the record of errors clear and not. -/
theorem witness_AccessesReturn :
    (∃ (s : State) (t : Txn), tfind s.txns 7 = some t ∧ t.stage = .granted ∧ t.target = .dram .hc ∧ t.op = .load ∧
      (s.coreAt t.core).findLine (lineOf t.ga) = none) ∧
    (∃ (s : State) (t : Txn), tfind s.txns 7 = some t ∧ t.stage = .granted ∧ t.target = .dram .hc ∧ t.op = .store bytes8 ∧
      (s.coreAt t.core).findLine (lineOf t.ga) = none) ∧
    (∃ (s : State) (t : Txn), tfind s.txns 7 = some t ∧ t.stage = .granted ∧ t.op = .amoU .add .n64 5 ∧
      t.target = .dram .hc ∧ (s.coreAt t.core).ulines.find? (·.addr == lineOf t.ga) = none ∧
      (s.coreAt t.core).lines.length + (s.coreAt t.core).ulines.length < (s.coreAt t.core).cchRoom) ∧
    (∀ st ∈ [TxnStage.done, .failed 0x21], ∃ (s : State) (t : Txn), tfind s.txns 7 = some t ∧ s.answerPath t = true ∧ t.count = none ∧ t.target ≠ .dram .hc ∧
      t.op = .load ∧ t.stage = st) ∧
    (∀ rest ∈ [[], [⟨0x10040, 0, .dram .sc, bytes8⟩]], ∃ (s : State) (t : Txn), tfind s.txns 7 = some t ∧ s.answerPath t = true ∧ t.engine = false ∧ t.count.isSome = true ∧
      t.target ≠ .dram .hc ∧ (∀ r a n m b, t.op ≠ .slot r a n m b) ∧ t.stage = .done ∧ t.rest = rest) ∧
    (∀ e ∈ [none, some (8, 0x22)], ∃ (s : State) (t : Txn), tfind s.txns 7 = some t ∧ s.answerPath t = true ∧ t.engine = false ∧ t.count.isSome = true ∧
      t.target ≠ .dram .hc ∧ (∀ r a n m b, t.op ≠ .slot r a n m b) ∧ t.stage = .failed 0x21 ∧ (s.ctxOf t.core t.fc).storeErr = e ∧
      (s.ctxOf t.core t.fc).firing.isSome = true) ∧
    ∃ (s : State) (t : Txn), tfind s.txns 7 = some t ∧ t.stage = .travelling := by
  refine ⟨⟨net (access .load (.dram .hc) 0x10000 .granted), _, rfl, rfl, rfl, rfl, by decide⟩,
    ⟨net (access (.store bytes8) (.dram .hc) 0x10000 .granted), _, rfl, rfl, rfl, rfl, by decide⟩,
    ⟨net (access (.amoU .add .n64 5) (.dram .hc) 0x10000 .granted), _, rfl, rfl, rfl, rfl, by decide, by decide⟩,
    fun st hs => ⟨net (access .load (.dram .sc) 0x10000 st), _, rfl, by fin_cases hs <;> decide +kernel, rfl, by simp [access, newTxn], rfl, rfl⟩,
    fun rest hr => ⟨net { access (.store bytes8) (.dram .sc) 0x10000 .done with count := some .pkg, rest := rest }, _, rfl,
      by fin_cases hr <;> decide +kernel, rfl, rfl,
      by simp [access, newTxn], by simp [access, newTxn], rfl, rfl⟩,
    fun e he => ⟨(net { access (.store bytes8) (.dram .sc) 0x10000 (.failed 0x21) with count := some .pkg }).modCtxOf 0 0
      (fun c => { c with storeErr := e }), _, rfl, by fin_cases he <;> decide +kernel, rfl, rfl, by simp [access, newTxn], by simp [access, newTxn], rfl, rfl, rfl⟩,
    ⟨net (access .load .pool 0x1000000000000), _, rfl, rfl⟩⟩
/-- Package 0 runs, with one endpoint and its port 3 UP, and its record changed. -/
def package0 (f : Package → Package := id) (s : State := user) : State :=
  s.modPkg 0 (fun p => f { p with on := true, endpoints := 1 :: List.replicate 31 0 } |>.setPort 3 ⟨.up, true, 0, 15, 0, false, 0⟩)
/-- Port 0 of package 0 is in a state since cycle 0, and now is a later cycle. -/
def ported (st : LinkState) (now : Nat) (en : Bool := true) (retrain : Bool := false) : State :=
  { package0 (·.setPort 0 ⟨st, en, 0, 0, 0, retrain, 0⟩) with now := now }
theorem linked_of {s : State} (h : (s.pkgRuns 0 && (s.port 0 0).en && !(s.port 0 0).retrain) = true) : Claims.Linked s 0 0 := by
  simp only [Bool.and_eq_true, Bool.not_eq_true'] at h
  exact ⟨h.1.1, h.1.2, h.2⟩

/-- Each state of a port at cycle 0 and at the limit of its row, and a port with EN 0 or RETRAIN 1, UP and DISABLED. -/
theorem witness_Links :
    (∀ x ∈ [(LinkState.disabled, 0), (.an, 400000000), (.train, 400000000), (.align, 8000000), (.assoc, 80000000), (.up, 0), (.failed, 800000000)],
      ∃ s : State, Claims.Linked s 0 0 ∧ (s.port 0 0).st = x.1 ∧ s.now - (s.port 0 0).since = x.2) ∧
    (∃ s : State, s.pkgRuns 0 = true ∧ (s.port 0 0).en = false ∧ (s.port 0 0).st ≠ .disabled) ∧
    ∀ st ∈ [LinkState.up, .disabled], ∃ s : State, s.pkgRuns 0 = true ∧ (s.port 0 0).retrain = true ∧ (s.port 0 0).st = st := by
  refine ⟨fun x hx => ⟨ported x.1 x.2, ?_⟩, ⟨ported .up 0 false, by decide, by decide, by decide⟩, fun st hst => ⟨ported st 0 true true, ?_⟩⟩
  · fin_cases hx <;> exact ⟨linked_of (by decide), by decide, by decide⟩
  · fin_cases hst <;> exact ⟨by decide, by decide, by decide⟩

/-- An access of core 0 to a pool of package 1, which package 1 may know by the address in its endpoint 0. -/
def farAccess : Txn := access .load .pool 0x11000000000000
def packet (table : List Byte) (now : Nat := 0) : State :=
  { (net farAccess).modPkg 1 (fun p => { p with on := true, endpoints := table }) with now := now }

/-- The two packages joined by port 3, and the entry that names it. -/
def linked (table : List Byte) : State :=
  let up (p : Package) : Package := p.setPort 3 ⟨.up, true, 0, 15, 0, false, 0⟩
  ((packet table).modPkg 0 up |>.modPkg 1 up).wrNat 0x6000080000010 8 8

/-- Queue 0 with a depth of 4 and its ring at 0x10000: word 0's kind, and word 1. -/
def queued0 (kind : Nat) (name : Nat := 0) (f : Package → Package := id) : State :=
  ((package0 f).wrNat 0x6000080010000 8 (2 ^ 63 + kind * 2 ^ 61 + 4)).wrNat 0x6000080010008 8 name |>.wrNat 0x6000080010010 8 0x10000
def hostEntry (kind : Nat) (w1 : Word := 0) (w2 : Word := 0) : List Word := BitVec.ofNat 64 (2 ^ 24 + kind) :: w1 :: w2 :: List.replicate 5 0
/-- Window 0 opens 64 bytes at 0x10000 to reads and writes of endpoint 0. -/
def window0 : State :=
  ((package0.wrNat 0x60000800A0000 8 (7 * 2 ^ 61)).wrNat 0x60000800A0008 8 0x10000).wrNat 0x60000800A0010 8 64

/-- A packet dropped, one on its way at the limit and one short of it; an entry of each kind of queue, taken and not; a record without its
format; a ring with room and full; no entry; and a read and a write of a window's last bytes, and a byte beyond. -/
theorem witness_PacketsAndHosts :
    (∃ (s : State) (t : Txn), tfind s.txns 7 = some t ∧ t.near = false ∧ t.stage = .travelling ∧
      s.sourceOk (gaPkg t.ga) t.source = false) ∧
    (∃ (s : State) (t : Txn), tfind s.txns 7 = some t ∧ t.near = false ∧ t.stage = .travelling ∧ s.pathOpen t.source (gaPkg t.ga) = false) ∧
    (∀ now ∈ [max 1 0x4000 * 1024, max 1 0x4000 * 1024 - 1], ∃ (s : State) (t : Txn), tfind s.txns 7 = some t ∧ t.near = false ∧ t.stage = .travelling ∧
      max 1 (s.pkgAt t.source).tmo.toNat * 1024 = 0x4000 * 1024 ∧ s.now - t.sent = now) ∧
    (∃ s : State, s.queueTakes 0 0 0 0 (hostEntry 0) = true ∧ mailboxName (s.queueWord 0 0 1) = some (0, 3)) ∧
    (∃ s : State, s.queueTakes 0 0 1 0 (hostEntry 1) = true) ∧ (∃ s : State, s.queueTakes 0 0 2 0 (hostEntry 2 0x10000 160) = true ∧
      recordFormat (s.peekBytes 0x10000 160) = false) ∧
    (∃ s : State, s.queueTakes 0 0 2 0 (hostEntry 2 0x10000 161) = true ∧ recordFormat (s.peekBytes 0x10000 161) = true) ∧
    (∀ kind ∈ [0, 1, 2], ∃ s : State, s.queueTakes 0 0 kind 1 (hostEntry kind) = false) ∧
    (∀ n ∈ [3, 4], ∃ (s : State) (e : HeldMsg), tget [] (s.pkgAt 0).outq 0 = [e] ∧ s.pkgRuns 0 = true ∧ e.txn = none ∧
      s.linesFree (s.queueWord 0 0 2) 8 = true ∧
      s.linesFree (s.queueWord 0 0 2 + 64 * (s.peek (s.queueWord 0 0 2) 8 % max (bits (s.queueWord 0 0 0) 7 0) 1 + 1)) 64 = true ∧
      bits (s.queueWord 0 0 0) 7 0 = 4 ∧ (s.peek (s.queueWord 0 0 2) 8 + 2 ^ 64 - s.peek (s.queueWord 0 0 2 + 8) 8) % 2 ^ 32 = n) ∧
    (∃ (s : State) (e : HeldMsg) (t : Txn), tget [] (s.pkgAt 0).outq 0 = [e] ∧ s.pkgRuns 0 = true ∧ e.txn = some 7 ∧
      s.linesFree (s.queueWord 0 0 2) 8 = true ∧
      s.linesFree (s.queueWord 0 0 2 + 64 * (s.peek (s.queueWord 0 0 2) 8 % max (bits (s.queueWord 0 0 0) 7 0) 1 + 1)) 64 = true ∧
      (s.peek (s.queueWord 0 0 2) 8 + 2 ^ 64 - s.peek (s.queueWord 0 0 2 + 8) 8) % 2 ^ 32 ≠ bits (s.queueWord 0 0 0) 7 0 ∧
      tfind (((s.pokeData State.poke (s.queueWord 0 0 2 + 64) 2 (e.entry.flatMap (fun w => bytesOf 8 w.toNat))).poke (s.queueWord 0 0 2) 8
        1).modPkg 0 (fun p => { p with outq := tset p.outq 0 [] })).txns 7 = some t) ∧
    (∃ s : State, tget [] (s.pkgAt 0).outq 0 = []) ∧
    (∀ w ∈ [false, true], ∃ s : State, s.windowServes 0 0 0 32 32 w = true ∧ s.windowServes 0 0 0 33 32 w = false ∧
      s.linesFree (s.windowWord 0 0 1 + 32) 32 = true ∧ 32 ≤ 64 - (s.windowWord 0 0 1 + 32) % 64) := by
  refine ⟨⟨packet [], farAccess, by decide, by decide, by decide, ?_⟩, ⟨packet [], farAccess, by decide, by decide, by decide, by decide +kernel⟩, fun now hn => ⟨packet [] now, farAccess, ?_⟩,
    ⟨queued0 0 0x2000000000003, by decide +kernel, by decide +kernel⟩, ⟨queued0 1 0x40000 (fun p => { p with regions := [(0x40000, aRegion)] }), by decide +kernel⟩, ⟨queued0 2, by decide +kernel, by decide +kernel⟩,
    ⟨(queued0 2).wrNat 0x10000 8 (2 ^ 32 + 2 ^ 16 + 1), by decide +kernel, by decide +kernel⟩, fun kind hk => ⟨queued0 kind, ?_⟩,
    fun n hn => ⟨(queued0 0 0 (fun p => { p with outq := [(0, [⟨none, [7]⟩])] })).wrNat 0x10000 8 n, ⟨none, [7]⟩, ?_⟩,
    ⟨{ queued0 0 0 (fun p => { p with outq := [(0, [⟨some 7, [7]⟩])] }) with txns := [(7, access (.hostMessage [7]) .pool 0x2000000000000)] }, ⟨some 7, [7]⟩, _,
      by decide +kernel, by decide +kernel, rfl, by decide +kernel, by decide +kernel, by decide +kernel, rfl⟩, ⟨user, by decide⟩,
    fun w hw => ⟨window0, ?_⟩⟩
  · rfl
  · fin_cases hn <;> exact ⟨by decide, by decide, by decide, by decide, by decide⟩
  · fin_cases hk <;> decide +kernel
  · fin_cases hn <;> exact ⟨by decide +kernel, by decide +kernel, by decide, by decide +kernel, by decide +kernel, by decide +kernel, by decide +kernel⟩
  · fin_cases hw <;> exact ⟨by decide +kernel, by decide +kernel, by decide +kernel, by decide +kernel⟩

/-- When the network gives package 0 an address of 16 bytes that are not all zero, a package that holds it takes its packets, which
travel over the UP port 3 of both. -/
theorem witness_PacketTaken (h : (Config.address 0).length = 16) (hz : (Config.address 0).any (· != 0) = true) :
    ∃ (s : State) (t : Txn), tfind s.txns 7 = some t ∧ t.near = false ∧ t.stage = .travelling ∧ s.pkgRuns (gaPkg t.ga) = true ∧
      s.pathOpen t.source (gaPkg t.ga) = true ∧ s.sourceOk (gaPkg t.ga) t.source = true := by
  refine ⟨linked (Config.address 0 ++ List.replicate 16 0), farAccess, by rfl, by decide, by decide, by rfl, by rfl, ?_⟩
  have ht : ((linked (Config.address 0 ++ List.replicate 16 0)).pkgAt 1).endpoints = Config.address 0 ++ List.replicate 16 0 := rfl
  have e0 : endpointOf (Config.address 0 ++ List.replicate 16 0) (Config.address 0) = some 0 := by
    simpa [endpointOf, endpointAddr, h, List.range_succ] using hz
  show (endpointOf ((linked (Config.address 0 ++ List.replicate 16 0)).pkgAt 1).endpoints (Config.address 0) == some _) = true
  rw [ht, e0]
  rfl

/-- A package that does not run, with a flash that verifies and one that does not; one on, and one that runs with a die and a site; and a
dirty sector of a core without a region and with one, of a core whose package is off, a clean one, and no line. -/
theorem witness_PowerAndErrors :
    (∃ s : State, s.pkgRuns 0 = false ∧ (s.pkgAt 0).flashOk = true ∧ (Config.choice s.fresh = false ∨ Config.choice s.fresh = true)) ∧
    (∃ s : State, s.pkgRuns 0 = false ∧ (s.pkgAt 0).flashOk = false) ∧ (∃ s : State, s.pkgRuns 0 = true) ∧
    (∀ x ∈ [(some 0, 5, true, none), (none, 0, true, none), (none, 5, true, none), (none, 5, false, some 0)], ∃ (s : State) (l : CchLine),
      (s.coreAt 0).findLine 0x10000 = some l ∧ l.dirty.getLsbD 2 = decide (x.2.1 = 5) ∧ (s.coreAt 0).region = x.1 ∧
      s.lives (corePkg 0) = x.2.2.1) ∧
    ∃ s : State, (s.coreAt 0).findLine 0x10000 = none := by
  refine ⟨⟨user, by decide, by decide, by cases Config.choice _ <;> simp⟩,
    ⟨user.modPkg 0 (fun p => { p with flash := [(7, ⟨0, [], [1]⟩)] }), by decide, by decide⟩, ⟨package0, by decide⟩,
    fun x hx => ⟨package0 (fun p => { p with off := x.2.2.2.isSome })
      (user id (fun c => { c with region := x.1, lines := [copy .cp false (BitVec.ofNat 4 x.2.1)] })), copy .cp false (BitVec.ofNat 4 x.2.1), ?_⟩,
    ⟨user, by decide⟩⟩
  fin_cases hx <;> exact ⟨by decide +kernel, by decide +kernel, by decide +kernel, by decide +kernel⟩

/-- When the choice is that a transfer fails, whose address is outside the spill logs, its site meets the failing retry. -/
theorem witness_CrcRetry (hc : Config.choice 0 = true) (hb : bit (Config.freeValue 1).toNat 63 = false)
    (hl : inSpillLog ((Config.freeValue 1).toNat % 2 ^ 42 / 64 * 64) = false) :
    ∃ (s : State) (site : Nat), s.pkgRuns 0 = true ∧ site < 32 ∧ Config.choice s.fresh = true ∧
      bit (Config.freeValue (s.fresh + 1)).toNat 63 = false ∧ siteOf ((Config.freeValue (s.fresh + 1)).toNat % 2 ^ 42 / 64 * 64) = site ∧
      inSpillLog ((Config.freeValue (s.fresh + 1)).toNat % 2 ^ 42 / 64 * 64) = false := by
  have site_lt (a : Nat) : siteOf a < 32 := by
    have h : ∀ hi lo, bits a hi lo < 2 ^ (hi + 1 - lo) := fun hi lo => Nat.mod_lt _ (by positivity)
    exact Nat.xor_lt_two_pow (h 12 8) (Nat.lt_of_lt_of_le (h 20 16) (by decide))
  exact ⟨package0, _, by decide, site_lt _, hc, hb, rfl, hl⟩
/-- ADD g7, g2, 8 in slot 0 of a line. -/
def addWord : BitVec 96 := 0x0100001C02FFC00000000008
def addNow : Instr := .add ⟨⟨0, 0, .g 7, .g 2, .lit, .g 0⟩, 8⟩

theorem witness_DecodeEncode : addNow.WellFormed ∧ decode addWord = .ok addNow := ⟨by decide, by rfl⟩

/-- Context 0 of core 0 at the first slot of a line of template 0, whose place is of the A stream, with a word in it. -/
def placed (w : BitVec 96) : State :=
  (State.reset.placeSlot w).modCtxOf 0 0 (fun c => { c with line := some ⟨c.pc, lineBits 0 1 [w]⟩ })
/-- The word of MMA. -/
def mmaWord : BitVec 96 := 0xC00002044218000700000000
def lineAt (s : State) : Line := (s.ctxOf 0 0).line.getD ⟨0, 0⟩

/-- A slot with an instruction of its place's stream, one with a word that stands for none, and one with a word of another stream. -/
theorem witness_StepRunsDecoded :
    (∃ (s t : State) (l : Line), (s.ctxOf 0 0).line = some l ∧ (s.ctxOf 0 0).xfer = none ∧ bits l.lineWord 21 16 = 0 ∧
      l.template[(s.ctxOf 0 0).pc.toNat % 8]? = some .a ∧ decode (l.slot ((s.ctxOf 0 0).pc.toNat % 8)) = .ok addNow ∧
      addNow.stream = SlotKind.a.stream ∧ hasFollow addNow = false ∧ s.turn = some (0, 0) ∧ s.issuable 0 0 = true ∧
      (s.coreAt 0).aptr.toNat = 0 ∧ exec addNow (s.at 0 0) = .next t ∧ t.waits 0 0 = false) ∧
    (∃ (s : State) (l : Line) (e : DecodeError), (s.ctxOf 0 0).line = some l ∧ (s.ctxOf 0 0).xfer = none ∧ bits l.lineWord 21 16 = 0 ∧
      l.template[(s.ctxOf 0 0).pc.toNat % 8]? = some .a ∧ decode (l.slot ((s.ctxOf 0 0).pc.toNat % 8)) = .error e) ∧
    ∃ (s : State) (l : Line) (i : Instr), (s.ctxOf 0 0).line = some l ∧ (s.ctxOf 0 0).xfer = none ∧ bits l.lineWord 21 16 = 0 ∧
      l.template[(s.ctxOf 0 0).pc.toNat % 8]? = some .a ∧ decode (l.slot ((s.ctxOf 0 0).pc.toNat % 8)) = .ok i ∧
      i.stream ≠ SlotKind.a.stream :=
  ⟨⟨placed addWord, _, lineAt (placed addWord), by rfl, by rfl, by decide +kernel, by decide +kernel, by rfl, by decide, by decide, by rfl, by decide +kernel,
      by decide +kernel, by rfl, by decide +kernel⟩,
    ⟨placed (BitVec.allOnes 96), lineAt (placed (BitVec.allOnes 96)), .permanentlyIllegal, by rfl, by rfl, by decide +kernel, by decide +kernel, by rfl⟩,
    placed mmaWord, lineAt (placed mmaWord), .mma ⟨⟨0, 0, .z 1, .t 2, .t 32, .g 0⟩, .m4, .none, 0, 0⟩, by rfl, by rfl, by decide +kernel,
    by decide +kernel, by rfl, by decide⟩

theorem witness_StepKeepsMemory : ∃ s t : State, Memory.wf s.mem = true ∧ step s = .next t ∧ s.mem ≠ [] :=
  ⟨placed addWord, _, by decide +kernel, by rfl, by decide +kernel⟩

theorem witness_ScalarFrame : ∃ (s : State) (o : AOps), Claims.two (.add o) = some (o, (· + ·)) ∧ Issues (.add o) o.h s ∧ o.h.s1 = .g 2 ∧
    o.h.s2 = .g 3 := ⟨user, ⟨hd (.g 1) (.g 2) (.g 3) (.g 0), 0⟩, rfl, issues_of (by decide), rfl, rfl⟩

/-! ### One step on a small state: expected values from the spec's rules, by hand -/

/-- d ← a op b with a in g2 and b in g3. -/
def two (i : AOps → Instr) (a b : Word) : Option Word :=
  after (i ⟨hd (.g 1) (.g 2) (.g 3) (.g 0), 0⟩) (user (fun c => regs c 2 [a, b])) (·.ctx.rg 1)
def one (i : AOps → Instr) (a : Word) : Option Word := two i a 0

/-- Addition and subtraction are modulo 2^64 (R163). -/
theorem test_add_wraps : two .add (BitVec.allOnes 64) 2 = some 1 := by decide
theorem test_sub_wraps : two .sub 0 1 = some (BitVec.allOnes 64) := by decide
/-- A write of g0 is discarded (R161). -/
theorem test_add_g0 : after (.add ⟨hd (.g 0) (.g 2) (.g 2) (.g 0), 0⟩) (user (fun c => c.wg 2 5)) (·.ctx.rg 0) = some 0 := by decide
/-- The source is also the destination. -/
theorem test_add_same : after (.add ⟨hd (.g 2) (.g 2) (.g 2) (.g 0), 0⟩) (user (fun c => c.wg 2 5)) (·.ctx.rg 2) = some 10 := by decide
/-- The upper half of −1 × 1 signed, and of (2^64 − 1) × (2^64 − 1) (R163). -/
theorem test_mulh_signed : two .mulhI64 (BitVec.allOnes 64) 1 = some (BitVec.allOnes 64) := by decide
theorem test_mulh_unsigned : two .mulhN64 (BitVec.allOnes 64) (BitVec.allOnes 64) = some 0xFFFFFFFFFFFFFFFE := by decide
/-- Quotients round toward zero, and −2^63 by −1 gives −2^63 with remainder 0 (R164). -/
theorem test_quo_toward_zero : two .quoI64 (-7) 2 = some (-3) := by decide
theorem test_rem_sign : two .remI64 (-7) 2 = some (-1) := by decide
theorem test_quo_overflow : two .quoI64 0x8000000000000000 (BitVec.allOnes 64) = some 0x8000000000000000 := by decide
theorem test_quo_unsigned : two .quoN64 (BitVec.allOnes 64) 2 = some 0x7FFFFFFFFFFFFFFF := by decide
/-- A division by zero raises INT_DIVZERO with TVAL a (R164). -/
theorem test_rem_zero : after (.remN64 ⟨hd (.g 1) (.g 2) (.g 3) (.g 0), 0⟩) (user (fun c => regs c 2 [9, 0]))
    (fun s => (s.ctx.tval, s.ctx.rg 1)) = some (9, 0) := by decide
/-- Shifts by 64 and more (R165). -/
theorem test_shl_64 : two .shl 1 64 = some 0 := by decide
theorem test_shr_63 : two .shr 0x8000000000000000 63 = some 1 := by decide
theorem test_sra_64 : two .sra 0x8000000000000000 64 = some (BitVec.allOnes 64) := by decide
theorem test_rot_68 : two .rot 0xF000000000000000 68 = some 0xF := by decide
/-- Counts at 0 and at the ends (R163). -/
theorem test_clz_zero : one .clz 0 = some 64 := by decide
theorem test_ctz_top : one .ctz 0x8000000000000000 = some 63 := by decide
theorem test_popc : one .popc 0x8000000000000101 = some 3 := by decide
theorem test_min_signed : two .minI64 (BitVec.allOnes 64) 1 = some (BitVec.allOnes 64) := by decide
theorem test_min_unsigned : two .minN64 (BitVec.allOnes 64) 1 = some 1 := by decide
/-- CMP.lt signed and unsigned of −1 and 1 into p1 (R166). -/
theorem test_cmp_lt : after (.cmp ⟨⟨2, 0, .p 1, .g 2, .g 3, .g 0⟩, 0⟩) (user (fun c => regs c 2 [BitVec.allOnes 64, 1]))
    (fun s => s.ctx.rp 1) = some true := by decide
theorem test_cmp_ltu : after (.cmp ⟨⟨4, 0, .p 1, .g 2, .g 3, .g 0⟩, 0⟩) (user (fun c => regs c 2 [BitVec.allOnes 64, 1]))
    (fun s => s.ctx.rp 1) = some false := by decide
/-- A field of 8 bits at 4, sign- and zero-extended (R169): gD of the byte 0xF0. -/
theorem test_bfx_signed : two .bfxI64 0xF05 0x804 = some 0xFFFFFFFFFFFFFFF0 := by decide
theorem test_bfx_unsigned : two .bfxN64 0xF05 0x804 = some 0xF0 := by decide
/-- A slot under a false predicate only goes on (R50). -/
theorem test_false_predicate : after (.add ⟨⟨0, 1, .g 1, .g 2, .g 3, .g 0⟩, 0⟩) (user (fun c => regs c 1 [7, 1, 1])) (·.ctx.rg 1) = some 7 := by
  decide
/-- LOOP from 1 writes 0 and goes on; from 0 it wraps and jumps 5 lines on (R75). -/
theorem test_loop_ends : after (.loop ⟨hd (.g 5) (.g 0) (.g 0) (.g 0), 0x28⟩) (user (fun c => c.wg 5 1)) (fun s => (s.ctx.rg 5, s.ctx.pc)) =
    some (0, 1) := by decide
theorem test_loop_wraps : after (.loop ⟨hd (.g 5) (.g 0) (.g 0) (.g 0), 0x28⟩) user (fun s => (s.ctx.rg 5, s.ctx.pc)) =
    some (BitVec.allOnes 64, 0x140) := by decide
/-- BRL writes the successor (R75). -/
theorem test_brl : after (.brl ⟨hd (.g 31) (.g 0) (.g 0) (.g 0), 0x28⟩) user (fun s => (s.ctx.rg 31, s.ctx.pc)) = some (1, 0x140) := by decide
/-- A privileged instruction in U mode raises PRIV_OP, cause 2, and its handler begins in S mode at TVEC.PC (R260, R265). -/
theorem test_privilege : after (.rgnKill eops) (user id (fun c => { c with tvecEn := true, tvecPc := 0x4000 }))
    (fun s => (s.ctx.mode, s.ctx.tcause.toNat % 128, s.ctx.pc)) = some (.s, 2, 0x4000) := by decide
/-- A signed byte of the own pool (R162). -/
theorem test_ld_signed : after (.ld (mops .i8)) ((at2 own).wrNat own 1 0x80) (·.ctx.rg 1) = some 0xFFFFFFFFFFFFFF80 := by decide +kernel
theorem test_ld_unsigned : after (.ld (mops .n8)) ((at2 own).wrNat own 1 0x80) (·.ctx.rg 1) = some 0x80 := by decide +kernel
/-- A store writes its bytes with the lowest at the lowest address, and no other byte (R4). -/
theorem test_st_bytes : after (.st (mops .n32 0 (.g 0) (.g 4))) (at2 own .sc id (fun c => c.wg 4 0x1122334455667788))
    (fun s => ((List.range 5).map (fun k => s.rdNat (own + k) 1))) = some [0x88, 0x77, 0x66, 0x55, 0] := by decide +kernel
/-- A misaligned load raises MISALIGNED with its address (R172). -/
theorem test_ld_misaligned : after (.ld (mops .n32)) (at2 (own + 2)) (fun s => s.ctx.tval) = some 0x100000001FFFA := by decide
/-- DQCNT of an empty deque, and CVRD's selector 0 at reset. -/
theorem test_dqcnt : after (.dqcnt (eops 0 0 (.g 1) (.g 0) (.g 0))) user (·.ctx.rg 1) = some 0 := by decide
/-- An event for contexts 0 and 2, of which context 0 alone holds a firing (R313). -/
theorem test_event_delivery : after (.eventDelivery 0) { user with flights := [(0, .event 0 5)] }
    (fun s => (List.range 4).map (fun k => (s.ctxOf 0 k).evlatch)) = some [1, 0, 0, 0] := by decide
/-- FUT.GET of a resolved future (R307). -/
theorem test_fut_get : after (.futGet eops) (withFuture ⟨1, .resolved, 7, 0, []⟩) (·.ctx.rg 1) = some 7 := by decide
/-- The second of two arrivals at a barrier of 2 begins generation 3, and D is the old one (R300). -/
theorem test_bar_last : after (.bar bops) (celled (gan 2 1 2)) (fun s => (s.ctx.rg 1, s.rdNat (own - 8) 16)) =
    some (2, 3 * 2 ^ 32 + 2 * 2 ^ 64) := by decide +kernel
/-- A port whose RETRAIN is set while it is UP counts a flap (R394). -/
theorem test_link_retrain : after (.linkRetrain 0 0) (ported .up 9 true true) (fun s => ((s.port 0 0).st, (s.port 0 0).flaps)) = some (.an, 1) := by
  decide

/-- Lane 0 of v3 after an instruction of v1 and v2, whose lanes 0 hold a and b and whose other lanes hold 0; and FFLAGS. -/
def lane (i : XOps → Instr) (f : Fmt) (a b : Nat) (rm : BitVec 3 := 0) : Option (Nat × BitVec 6) :=
  let o : XOps := ⟨⟨rm, 0, .v 3, .v 1, .v 2, .g 0⟩, 0, 0, 0, f, .none, false, false, 0⟩
  after (i o) (lanesOf (i o) (BitVec.ofNat 256 a) (BitVec.ofNat 256 b)) (fun s => ((s.readV 0 3).toNat % 2 ^ f.width, s.ctx.fflags.setWidth 6))

/-- 1 + 2 = 3, exact; 1 + 2^-24 is a tie that goes to 1 under RNE and raises NX (R126, R135, R147). -/
theorem test_vadd_exact : lane .vadd .f32 0x3F800000 0x40000000 = some (0x40400000, 0) := by decide +kernel
theorem test_vadd_tie : (lane .vadd .f32 0x3F800000 0x33800000).map (·.1) = some 0x3F800000 := by decide +kernel
/-- The largest f16 twice, to infinity under RNE and to the largest number toward zero. -/
theorem test_vadd_overflow : (lane .vadd .f16 0x7BFF 0x7BFF).map (·.1) = some 0x7C00 := by decide +kernel
theorem test_vmul_toward_zero : (lane .vmul .f16 0x7BFF 0x7BFF 1).map (·.1) = some 0x7BFF := by decide +kernel
/-- 8-bit lanes wrap. -/
theorem test_vadd_i8 : (lane .vadd .i8 0x7F 1).map (·.1) = some 0x80 := by decide +kernel

/-- Eight lanes of 32 bits. -/
def lanes32 (l : List Nat) : Nat := (l.zipIdx.map (fun p => p.1 * 2 ^ (32 * p.2))).sum
/-- The worked example of R203: the tree of FP32 lanes 2^24, 1, 1, 1, 1, 1, 1, 1 gives 0x4B80_0003. -/
theorem test_vrsum_tree : (lane .vrsum .f32 (lanes32 (0x4B800000 :: List.replicate 7 0x3F800000)) 0).map (·.1) = some 0x4B800003 := by decide +kernel
/-- The worked example of R208: the signs of 6, −2, +0, −4, −8, 2, 4 and −0 give 0x9A. -/
theorem test_vsign : after (.vsign ⟨hd (.g 28) (.v 1) (.g 0) (.g 0), 0, 0, 0, .f32, .none, false, false, 0⟩)
    (lanesOf (.vsign ⟨hd (.g 28) (.v 1) (.g 0) (.g 0), 0, 0, 0, .f32, .none, false, false, 0⟩)
      (BitVec.ofNat 256 (lanes32 [0x40C00000, 0xC0000000, 0, 0xC0800000, 0xC1000000, 0x40000000, 0x40800000, 0x80000000])) 0)
    (·.ctx.rg 28) = some 0x9A := by decide +kernel
/-- The worked examples of R202: n8 255 in E4M3 is 256 under RNE and 240 under RTZ. -/
def cvt (f1 f2 : Fmt) (rm : BitVec 3) (a : Nat) : Option Nat :=
  let i : Instr := .vcvt ⟨⟨rm, 0, .v 3, .v 1, .g 0, .g 0⟩, 0, 0, 0, f1, f2, false, false, 0⟩
  after i (lanesOf i (BitVec.ofNat 256 a) 0) (fun s => (s.readV 0 3).toNat % 2 ^ f1.width)
theorem test_vcvt_rne : cvt .e4m3 .n8 0 255 = some 0x78 := by decide +kernel
theorem test_vcvt_rtz : cvt .e4m3 .n8 1 255 = some 0x77 := by decide +kernel
/-- The worked example of R168: core 3 of quad (3, 5) on die 4 of package 7. -/
theorem test_gaddr : after (.gaddr ⟨hd (.g 5) (.g 13) (.g 6) .lit, 0x100⟩) (user (fun c => (c.wg 13 0x0071435800000000).wg 6 0x10D7)) (·.ctx.rg 5) =
    some 0x0071435C00000100 := by decide
theorem test_coordinates : two .bfxN64 0x0071435800000000 (34 + 14 * 256) = some 0x10D6 := by decide

/-- Row 0 of the m4 tile t2 begins with the byte 0xB5 of E2M1, column 0 of the m4 tile t6 with 0xE2 of INT. -/
def m4Entry (i : Instr) (s2 s3 : Word := 0) : XEntry :=
  { entry i 0 s2 s3 with held := [2, 6], scales := 0x0130 :: List.replicate 31 0 ++ [0x0040, 0x007F] ++ List.replicate 62 0 }
def m4State (e : XEntry) : State :=
  let m4 (role : TileRole) : Tile := { tile .ready 1 role with fmt := .m4 }
  let s := running e (fun c => { c with xbusy := true }) (fun c => { c with vwz := ⟨0x3000, 2, 0⟩, tiles := [(2, m4 .mat), (6, m4 .csm)] })
  (s.wrNat (tileKey 0 (m4 .mat) 0 0) 1 0xB5).wrNat (tileKey 0 (m4 .csm) 0 0) 1 0xE2
abbrev m4Ops : TOps := ⟨hd (.z 0) (.t 2) (.t 6) (.g 0), .m4, .none, 0, 0⟩

/-- The worked example of R220: z(0,0) = 3 × 2 + (−1.5) × (−2) = 9.0. -/
theorem test_mma_m4 :
    let s := m4State (m4Entry (.mma m4Ops))
    let e := m4Entry (.mma m4Ops)
    (roundSum .f32 0 0 (List.zipWith mulFV ((lineValues s 0 { tile .ready 1 with fmt := .m4 } .m4 e.scales 32 0).getD 0 [])
      ((lineValues s 0 { tile .ready 1 .csm with fmt := .m4 } .m4 (e.scales.drop 32) 64 0).getD 0 []))).1 = 0x41100000 := by decide +kernel

end Sys2Proof.Tests
end

section
/-! SUPPORT. Every operation of the model keeps memory in its canonical form. -/

namespace Sys2Proof.Machine

/-- An outcome that leaves memory in its canonical form, when it is a next state. -/
def Lands (r : Host.Outcome State Fault Refusal) : Prop := ∀ t, r = .next t → t.Canonical

theorem lands_next {s : State} (h : s.Canonical) : Lands (.next s) := by
  intro t e
  cases e
  exact h

/-- The state beside a value, taken out of the pair. -/
theorem State.Canonical.of_snd {α : Type} {p : α × State} (h : p.2.Canonical) {a : α} {t : State} (e : p = (a, t)) :
    t.Canonical := by
  rw [e] at h
  exact h

theorem keeps_write {u : State} (hu : u.Canonical) : Keeps (set u : Act PUnit) := by
  intro s x t _ h
  rw [act_set] at h
  cases h
  exact hu

theorem keeps_read {α : Type} {f : State → Act α} (hf : ∀ s : State, s.Canonical → Keeps (f s)) : Keeps (get >>= f) :=
  keeps_get_bind fun s hs x t h => hf s hs s x t hs h

theorem State.Canonical.of_fst {α : Type} {p : State × α} (h : p.1.Canonical) {a : α} {t : State} (e : p = (t, a)) :
    t.Canonical := by
  rw [e] at h
  exact h

theorem State.Canonical.of_snd_snd {α β : Type} {p : α × β × State} (h : p.2.2.Canonical) {a : α} {b : β} {t : State}
    (e : p = (a, b, t)) : t.Canonical := by
  rw [e] at h
  exact h

/-- An act with a choice of its beginning. -/
theorem keeps_ite_bind {α β : Type} {c : Prop} [Decidable c] {a b : Act α} {f : α → Act β} (ha : Keeps a) (hb : Keeps b)
    (hf : ∀ x, Keeps (f x)) : Keeps (if c then a >>= f else b >>= f) :=
  keeps_ite (keeps_bind ha hf) (keeps_bind hb hf)

/-- An act with a beginning that only a condition brings. -/
theorem keeps_when {β : Type} {c : Prop} [Decidable c] {a : Act Unit} {f : Unit → Act β} (ha : Keeps a)
    (hf : ∀ x, Keeps (f x)) : Keeps (if c then a >>= f else f ()) :=
  keeps_ite (keeps_bind ha hf) (hf ())

theorem keeps_unless {β : Type} {c : Prop} [Decidable c] {a : Act Unit} {f : Unit → Act β} (ha : Keeps a)
    (hf : ∀ x, Keeps (f x)) : Keeps (if c then f () else a >>= f) :=
  keeps_ite (hf ()) (keeps_bind ha hf)

theorem canonical_ite {c : Prop} [Decidable c] {s t : State} (hs : s.Canonical) (ht : t.Canonical) :
    (if c then s else t).Canonical := by
  split <;> assumption

theorem canonical_ite_self {c : Prop} [Decidable c] {s t : State} (hs : s.Canonical) (ht : s.Canonical → t.Canonical) :
    (if c then t else s).Canonical := canonical_ite (ht hs) hs

theorem canonical_ite_snd {α : Type} {c : Prop} [Decidable c] {p q : α × State} (hp : p.2.Canonical)
    (hq : q.2.Canonical) : (if c then p else q).2.Canonical := by
  split <;> assumption

theorem canonical_ite_fst {α : Type} {c : Prop} [Decidable c] {p q : State × α} (hp : p.1.Canonical)
    (hq : q.1.Canonical) : (if c then p else q).1.Canonical := by
  split <;> assumption

theorem lands_ite {c : Prop} [Decidable c] {r q : Host.Outcome State Fault Refusal} (hr : Lands r) (hq : Lands q) :
    Lands (if c then r else q) := by
  split <;> assumption

/-- A fold of updates that keep the form. -/
theorem State.Canonical.foldl {α : Type} {f : State → α → State} {l : List α} {s : State} (hs : s.Canonical)
    (hf : ∀ s a, s.Canonical → (f s a).Canonical) : (l.foldl f s).Canonical := canonical_foldl hf l hs

/-- An act that answers, on a state in the form. -/
theorem Keeps.ok {α : Type} {a : Act α} (ha : Keeps a) {s t : State} {x : α} (hs : s.Canonical)
    (e : a.run s = .ok (x, t)) : t.Canonical := ha s x t hs e

theorem keeps_forM {α : Type} {f : α → Act PUnit} (hf : ∀ x, Keeps (f x)) (l : List α) : Keeps (l.forM f) := by
  induction l with
  | nil => exact keeps_pure _
  | cons x l ih => exact keeps_bind (hf x) fun _ => ih

/-- An update of any part of the state but memory. -/
theorem canonical_update {s : State} {errs ues cores quads clusters packages txns flights core fc half turn now fresh nextId tick inputs}
    (hs : s.Canonical) : (State.mk s.mem errs ues cores quads clusters packages txns flights core fc half turn now fresh nextId tick
      inputs).Canonical := hs

section
variable {s : State} {core fc slot port pkg rcb cl line id ea ga txn n k : Nat}

/-! ### Regs -/

theorem keeps_raiseTrap {α : Type} (t : Trap) : Keeps (raiseTrap t : Act α) := keeps_throw _

theorem canonical_setCore {c : Core} (hs : s.Canonical) : (s.setCore k c).Canonical := hs.of_mem (State.setCore_mem _ _ _)

theorem canonical_modCore {f : Core → Core} (hs : s.Canonical) : (s.modCore k f).Canonical :=
  hs.of_mem (State.modCore_mem _ _ _)

theorem canonical_modQuad {q : Nat} {f : Quad → Quad} (hs : s.Canonical) : (s.modQuad q f).Canonical :=
  hs.of_mem (State.modQuad_mem _ _ _)

theorem canonical_modCluster {f : Cluster → Cluster} (hs : s.Canonical) : (s.modCluster k f).Canonical :=
  hs.of_mem (State.modCluster_mem _ _ _)

theorem canonical_modPkg {p : Nat} {f : Package → Package} (hs : s.Canonical) : (s.modPkg p f).Canonical :=
  hs.of_mem (State.modPkg_mem _ _ _)

theorem canonical_modCtxOf {f : Ctx → Ctx} (hs : s.Canonical) : (s.modCtxOf k fc f).Canonical :=
  hs.of_mem (State.modCtxOf_mem _ _ _ _)

theorem canonical_modCtx {f : Ctx → Ctx} (hs : s.Canonical) : (s.modCtx f).Canonical := hs.of_mem (State.modCtx_mem _ _)

theorem canonical_modHere {f : Core → Core} (hs : s.Canonical) : (s.modHere f).Canonical := hs.of_mem (State.modHere_mem _ _)

theorem canonical_at {half : Bool} (hs : s.Canonical) : (s.at core fc half).Canonical := hs.of_mem (State.at_mem _ _ _ _)

theorem canonical_takeFresh (hs : s.Canonical) : s.takeFresh.2.Canonical := canonical_update hs

theorem keeps_freeWord : Keeps freeWord :=
  keeps_read fun _ hs => keeps_bind (keeps_write (canonical_update hs)) fun _ => keeps_pure _

theorem keeps_newId : Keeps newId := keeps_read fun _ hs => keeps_bind (keeps_write (canonical_update hs)) fun _ => keeps_pure _

theorem keeps_readG : Keeps (readG k) := keeps_bind keeps_getCtx fun _ => keeps_pure _

theorem keeps_writeG {v : Word} : Keeps (writeG k v) := keeps_modCtx _

theorem canonical_modRegion {f : Region → Region} (hs : s.Canonical) : (s.modRegion rcb f).Canonical := by
  unfold State.modRegion
  dsimp only
  split
  · exact canonical_modPkg hs
  · exact hs

/-! ### Access -/

theorem canonical_setHome {h : Home} (hs : s.Canonical) : (s.setHome line h).Canonical := hs.of_mem (setHome_mem _ _ _)

theorem canonical_sliceFill (hs : s.Canonical) : (s.sliceFill ga n).Canonical := hs.of_mem (sliceFill_mem _ _ _)

theorem canonical_fillMicro {v : Via} {t : Tlb} (hs : s.Canonical) : (s.fillMicro v t).Canonical :=
  hs.of_mem (fillMicro_mem _ _ _)

theorem canonical_fillTlb {v : Via} {t : Tlb} (hs : s.Canonical) : (s.fillTlb v t).Canonical := hs.of_mem (fillTlb_mem _ _ _)

theorem canonical_walked {v : Via} {root : Nat} (hs : s.Canonical) : (s.walked v root ea).Canonical :=
  hs.of_mem (walked_mem _ _ _ _)

theorem canonical_countWalk {v : Via} {root cause : Nat} {tval : Option Word} (hs : s.Canonical) : (s.countWalk v root cause
    tval).Canonical := by
  unfold State.countWalk
  split
  · exact canonical_ite (canonical_walked hs) hs
  · exact hs

theorem canonical_translate {t : State} {v : Via} {root : Nat} {kind : Kind} {p : Phys} (hs : s.Canonical) (e : translate s v
    root kind ea = .ok (p, t)) : t.Canonical :=
  hs.of_mem (translate_mem e)

theorem canonical_locate {t : State} {v : Via} {mode : Mode} {root : Nat} {kind : Kind} {p : Phys} (hs : s.Canonical) (e :
    locate s v mode core root kind ea = .ok (p, t)) : t.Canonical := by
  unfold locate at e
  split at e
  · cases e
  · split at e
    · cases e
    · rename_i e1 _ _ _
      cases e
      exact canonical_translate hs e1

theorem keeps_refuse {α : Type} (e : Refused) : Keeps (refuse e : Act α) := keeps_fault _ _ _

theorem keeps_resolvePage : Keeps (resolvePage ea) :=
  keeps_bind (keeps_whereTo _ _) fun _ => keeps_bind keeps_getCtx fun _ => keeps_when (keeps_refuse _) fun _ => keeps_pure _

theorem canonical_loseBad {l : CchLine} (hs : s.Canonical) : (s.loseBad core l).2.Canonical := hs.of_mem (loseBad_mem _ _ _)

/-! ### Txn -/

theorem canonical_launchAs {t : Txn} (hs : s.Canonical) : (s.launchAs id t).Canonical := by
  unfold State.launchAs
  dsimp only
  split
  · exact canonical_update hs
  · exact canonical_modCtxOf (canonical_update hs)

theorem canonical_launch {t : Txn} (hs : s.Canonical) : (s.launch t).Canonical := canonical_launchAs (canonical_update hs)

theorem keeps_needPosted : Keeps (needPosted n) := keeps_bind keeps_getCtx fun _ => keeps_waitUntil _ _ _

theorem keeps_post {op : TxnOp} {target : Target} {size page : Nat} : Keeps (post op target ga size page) :=
  keeps_bind keeps_needPosted fun _ => keeps_modify fun _ hs => canonical_launch hs

theorem canonical_setTxn {t : Txn} (hs : s.Canonical) : (s.setTxn id t).Canonical := hs.of_mem (State.setTxn_mem _ _ _)

theorem canonical_dropTxn (hs : s.Canonical) : (s.dropTxn id).Canonical := hs.of_mem (State.dropTxn_mem _ _)

theorem canonical_deliver {m : Nat} {entry : List Word} {txn : Option Nat} (hs : s.Canonical) : (s.deliver core m entry
    txn).2.Canonical := by
  unfold State.deliver
  dsimp only
  split
  · exact hs
  · split <;> exact canonical_setCore hs

theorem canonical_appendHeld {m : Nat} (hs : s.Canonical) : (s.appendHeld core m).Canonical := by
  unfold State.appendHeld
  dsimp only
  split
  · exact hs
  · split
    · exact hs
    · split
      · split
        · split
          · exact canonical_setTxn (canonical_setCore hs)
          · exact canonical_setCore hs
        · exact canonical_setCore hs
      · exact hs

theorem canonical_zeroFire {t : Txn} (hs : s.Canonical) : (s.zeroFire id t).Canonical := by
  unfold State.zeroFire
  dsimp only
  split
  · exact canonical_setTxn hs
  · split
    · exact canonical_setTxn hs
    · split
      · rename_i e1
        exact canonical_setTxn (State.Canonical.of_snd (canonical_deliver hs) e1)
      · rename_i e1
        exact canonical_setTxn (State.Canonical.of_snd (canonical_deliver hs) e1)
      · rename_i e1
        exact canonical_setTxn (State.Canonical.of_snd (canonical_deliver hs) e1)

theorem canonical_performed {t : Txn} {fired : Bool} (hs : s.Canonical) : (s.performed id t fired).Canonical :=
  canonical_ite (canonical_zeroFire hs) (canonical_setTxn hs)

theorem canonical_performPool {t : Txn} (hs : s.Canonical) : (s.performPool id t).Canonical :=
  canonical_ite (canonical_setTxn hs) (canonical_ite hs (canonical_ite (canonical_setTxn hs) (canonical_ite (canonical_setTxn
    hs) (canonical_performed (canonical_applyOp hs _ _ _)))))

theorem canonical_addClaim {c : Claim} (hs : s.Canonical) : (s.addClaim line c).Canonical := canonical_setHome hs

theorem canonical_dropClaim (hs : s.Canonical) : (s.dropClaim line id).Canonical := canonical_ite (canonical_setHome hs) hs

theorem canonical_renewed {hc : Bool} (hs : s.Canonical) : (s.renewed line hc).Canonical := hs.of_mem (renewed_mem _ _ _)

theorem canonical_keepReplica {quad : Nat} {l : CchLine} (hs : s.Canonical) : (s.keepReplica quad l).Canonical :=
  hs.of_mem (keepReplica_mem _ _ _)

theorem canonical_updateCopy (hs : s.Canonical) : (s.updateCopy core ga n).Canonical := hs.of_mem (updateCopy_mem _ _ _ _)

theorem canonical_updateAtHome {t : Txn} {cls : Cls} (hs : s.Canonical) : (s.updateAtHome id t cls).Canonical :=
  canonical_setTxn (canonical_updateCopy (canonical_applyOp (canonical_ite (canonical_setHome hs) hs) _ _ _))

theorem canonical_homeDecide {t : Txn} {cls : Cls} (hs : s.Canonical) : (s.homeDecide id t cls).Canonical := by
  refine canonical_ite hs ?_
  have h1 : ∀ a n, ((s.dropClaim (lineOf t.ga) id).sliceFill a n).Canonical :=
    fun _ _ => canonical_sliceFill (canonical_dropClaim hs)
  refine canonical_ite (canonical_setTxn (h1 _ _)) ?_
  split
  · exact canonical_ite (canonical_setTxn (canonical_setHome (h1 _ _))) (canonical_updateAtHome (h1 _ _))
  · refine canonical_ite ?_ (canonical_ite ?_ ?_)
    · exact canonical_ite (canonical_setTxn (canonical_renewed (canonical_setHome (h1 _ _))))
        (canonical_setTxn (canonical_renewed (canonical_setHome (h1 _ _))))
    · exact canonical_setTxn (canonical_ite (canonical_setHome (h1 _ _)) (h1 _ _))
    · have h2 : ∀ u : State, u.Canonical → (u.applyOp t.ga t.size t.op).1.Canonical := fun _ hu => canonical_applyOp hu _ _ _
      exact canonical_performed (canonical_ite (h2 _ (canonical_ite (canonical_setHome (h1 _ _)) (h1 _ _)))
        (canonical_updateCopy (h2 _ (canonical_ite (canonical_setHome (h1 _ _)) (h1 _ _)))))

theorem canonical_landLine {t : Txn} {cls : Cls} {excl : Bool} (hs : s.Canonical) : (s.landLine id t cls excl).Canonical := by
  unfold State.landLine
  dsimp only
  split
  · exact canonical_dropTxn (canonical_ite (canonical_ite (canonical_setHome hs) hs) (canonical_install (canonical_ite
      (canonical_setHome hs) hs) _ _))
  · exact canonical_performed (canonical_ite (canonical_ite (canonical_setHome hs) hs) (canonical_install (canonical_ite
      (canonical_setHome hs) hs) _ _))

theorem canonical_addDelta {op : AmoOp} {f : Fmt} {v : Nat} (hs : s.Canonical) : (s.addDelta core ga op f v).Canonical :=
  canonical_modCore (canonical_ite hs (canonical_makeRoom hs _ _))

theorem canonical_settleU {op : AmoOp} {f : Fmt} (hs : s.Canonical) : (s.settleU core ga op f).Canonical := by
  unfold State.settleU
  split
  · exact canonical_ite hs (canonical_mergeDelta hs _ _)
  · exact hs

theorem canonical_landU {t : Txn} (hs : s.Canonical) : (s.landU id t).Canonical := by
  unfold State.landU
  split
  · exact canonical_ite (canonical_updateAtHome (canonical_setHome hs)) (canonical_setTxn (canonical_setHome (canonical_addDelta
      (canonical_settleU (canonical_modCore hs)))))
  · exact hs

theorem canonical_performMessage {t : Txn} (hs : s.Canonical) : (s.performMessage id t).Canonical := by
  unfold State.performMessage
  split
  · exact hs
  · split
    · split
      · exact canonical_setTxn hs
      · dsimp only
        split
        · rename_i e2
          exact canonical_setTxn (State.Canonical.of_snd (canonical_deliver hs) e2)
        · rename_i e2
          exact canonical_setTxn (State.Canonical.of_snd (canonical_deliver hs) e2)
        · rename_i e2
          exact canonical_setTxn (State.Canonical.of_snd (canonical_deliver hs) e2)
    · exact canonical_ite (canonical_setTxn hs) (canonical_setTxn (canonical_modPkg hs))
    · exact hs

theorem canonical_performMerge {t : Txn} (hs : s.Canonical) : (s.performMerge id t).Canonical := by
  unfold State.performMerge
  split
  · dsimp only
    split
    · exact canonical_setTxn hs
    · exact canonical_setTxn (canonical_modRegion hs)
  · exact hs

theorem canonical_ackStore {t : Txn} (hs : s.Canonical) : (s.ackStore id t).Canonical := by
  unfold State.ackStore
  split
  · exact canonical_setTxn hs
  · dsimp only
    split
    · exact canonical_ite (canonical_modCore (canonical_modCtxOf (canonical_dropTxn (canonical_ite (State.Canonical.foldl hs fun
        _ _ hs1 => canonical_dropClaim hs1) hs)))) (canonical_modCtxOf (canonical_dropTxn (canonical_ite (State.Canonical.foldl
        hs fun _ _ hs1 => canonical_dropClaim hs1) hs)))
    · exact canonical_modCtxOf (canonical_dropTxn (canonical_ite (State.Canonical.foldl hs fun _ _ hs1 => canonical_dropClaim
        hs1) hs))

theorem canonical_returnLoad {t : Txn} (hs : s.Canonical) : (s.returnLoad id t).Canonical :=
  canonical_modCtxOf (canonical_dropTxn hs)

/-! ### Now -/

theorem canonical_refreshOwn (hs : s.Canonical) : (s.refreshOwn core line).Canonical := hs.of_mem (refreshOwn_mem _ _ _)

theorem keeps_whereIn {kind : Kind} : Keeps (whereIn kind ea) := by
  unfold whereIn
  refine keeps_read fun s hs => keeps_bind (keeps_waitUntil _ _ _) fun _ => ?_
  split
  · exact keeps_when (keeps_modify fun _ hs1 => canonical_walked hs1) fun _ => keeps_pure _
  · rename_i e
    exact keeps_bind (keeps_waitUntil _ _ _) fun _ => keeps_bind (keeps_write (canonical_translate hs e)) fun _ => keeps_pure _

theorem canonical_loadHit {p : Phys} {l : CchLine} {replica : Bool} (hs : s.Canonical) : (s.loadHit p l replica).Canonical :=
  hs.of_mem (loadHit_mem _ _ _ _)

theorem keeps_ownedFor {p : Phys} : Keeps (ownedFor p) := keeps_ite (keeps_ownedLine _) (keeps_pure _)

theorem keeps_writeNow {p : Phys} {x : Nat} : Keeps (writeNow p n x) := keeps_bind (keeps_touchNow _ _ _) fun _ => keeps_pure ()

theorem keeps_loadBytes : Keeps (loadBytes ea n) := by
  induction n generalizing ea with
  | zero => exact keeps_pure _
  | succ n ih =>
    exact keeps_bind (keeps_resolve _ _ _) fun _ => keeps_bind (keeps_readNow _ _) fun _ =>
      keeps_bind ih fun _ => keeps_pure _

theorem canonical_setRcbState {st : Nat} (hs : s.Canonical) : (s.setRcbState rcb st).Canonical := canonical_poke hs _ _ _

/-! ### Sched -/

theorem canonical_dropEntry {e : XEntry} {started : Bool} (hs : s.Canonical) : (s.dropEntry core fc e started).Canonical := by
  unfold State.dropEntry
  refine canonical_modCtxOf ?_
  split
  · split
    · exact canonical_modCore (canonical_modCore hs)
    · exact canonical_modCore (canonical_modCore hs)
    · exact canonical_modCore hs
  · exact canonical_modCore hs

theorem canonical_dropSequencer (hs : s.Canonical) : (s.dropSequencer core fc).Canonical :=
  canonical_modCtxOf (State.Canonical.foldl hs fun _ _ hs1 => canonical_dropEntry hs1)

theorem canonical_orphan (hs : s.Canonical) : (s.orphan core fc).Canonical := canonical_update (canonical_modCluster hs)

theorem canonical_leaveFutures (hs : s.Canonical) : (s.leaveFutures core fc).Canonical := canonical_update hs

theorem canonical_keepCts {c : Ctx} (hs : s.Canonical) : (s.keepCts c).Canonical := by
  unfold State.keepCts
  split
  · split
    · exact canonical_modRegion hs
    · exact hs
  · exact hs

theorem canonical_freeCtx (hs : s.Canonical) : (s.freeCtx core fc).Canonical :=
  canonical_modCore (canonical_modCtxOf (canonical_leaveFutures (canonical_orphan (canonical_dropSequencer (canonical_keepCts
    hs)))))

theorem canonical_setBound {f : Bound → Bound} (hs : s.Canonical) : (s.setBound core slot f).Canonical := canonical_modCore hs

theorem canonical_refresh (hs : s.Canonical) : (s.refresh core slot).Canonical := by
  unfold State.refresh
  split
  · exact canonical_ite (canonical_setBound hs) hs
  · exact hs

theorem canonical_refreshAll (hs : s.Canonical) : (s.refreshAll core).Canonical :=
  State.Canonical.foldl hs fun _ _ hs1 => canonical_refresh hs1

theorem canonical_pushTask {t : Task} (hs : s.Canonical) : (s.pushTask core t).Canonical := canonical_modCore hs

theorem canonical_queueRelin (hs : s.Canonical) : (s.queueRelin core slot).Canonical := by
  unfold State.queueRelin
  split
  · exact hs
  · exact canonical_ite (canonical_setBound (canonical_pushTask hs)) (canonical_setBound hs)

theorem canonical_afterFactor (hs : s.Canonical) : (s.afterFactor core slot).Canonical := by
  unfold State.afterFactor
  split
  · exact canonical_ite (canonical_queueRelin hs) hs
  · exact hs

theorem canonical_dequeRoom (hs : s.Canonical) : (s.dequeRoom core).Canonical := by
  unfold State.dequeRoom
  split
  · exact canonical_queueRelin hs
  · exact hs

theorem canonical_freeMessage {m : Nat} (hs : s.Canonical) : (s.freeMessage core m).Canonical := canonical_modCore hs

theorem canonical_endActor {f : Firing} {commit : Bool} (hs : s.Canonical) : (s.endActor core f commit).Canonical := by
  unfold State.endActor
  split
  · exact canonical_refresh (canonical_setBound (canonical_freeMessage hs))
  · exact canonical_refresh (canonical_afterFactor (canonical_setBound hs))
  · exact canonical_refresh (canonical_setBound hs)
  · exact hs

theorem canonical_releaseActor (hs : s.Canonical) : (s.releaseActor core slot).Canonical :=
  canonical_refresh (canonical_setBound hs)

theorem canonical_yieldActor {f : Firing} (hs : s.Canonical) : (s.yieldActor core f).Canonical := by
  unfold State.yieldActor
  split
  · exact canonical_refresh (canonical_afterFactor (canonical_setBound hs))
  · exact hs

theorem keeps_endShare : Keeps endShare := by
  unfold endShare
  refine keeps_bind keeps_get fun _ => ?_
  split
  · exact keeps_pure ()
  · split
    · exact keeps_ite (keeps_bind (keeps_resolve _ _ _) fun _ => keeps_bind (keeps_touchNow _ _ _) fun _ => keeps_bind
        (keeps_unlessFault _ _ _) fun _ => keeps_ite (keeps_bind (keeps_waitUntil _ _ _) fun _ => keeps_modify fun _ hs1 =>
        canonical_pushTask hs1) (keeps_pure ())) (keeps_pure ())
    · exact keeps_pure ()

theorem canonical_startCtx {f : Firing} {pc : Word} {g : Vector Word 32} {p : Vector Bool 8} {stream : Nat} (hs : s.Canonical) :
    (s.startCtx core fc f pc g p stream).Canonical :=
  canonical_modCtxOf (canonical_takeFresh hs)

theorem canonical_startActor {b : Bound} (hs : s.Canonical) : (s.startActor core fc slot b).Canonical := by
  unfold State.startActor
  dsimp only
  split
  · exact canonical_startCtx (canonical_setBound (canonical_modCore (canonical_modCore hs)))
  · exact canonical_startCtx (canonical_setBound (canonical_modCore hs))

theorem canonical_startTask {t : Task} (hs : s.Canonical) : (s.startTask core fc t).Canonical := by
  unfold State.startTask
  refine canonical_startCtx ?_
  split
  · exact canonical_modCore hs
  · exact hs

theorem canonical_restoreFrame {fr : Frame} (hs : s.Canonical) : (s.restoreFrame core fc fr).Canonical :=
  canonical_modCore (canonical_modCtxOf hs)

theorem canonical_startFiring (hs : s.Canonical) : (s.startFiring core).Canonical := by
  unfold State.startFiring
  split
  · split
    · exact canonical_startActor hs
    · exact hs
  · split
    · refine canonical_restoreFrame ?_
      split
      · exact canonical_ite (canonical_setBound (canonical_modCore hs)) (canonical_modCore hs)
      · exact canonical_modCore hs
    · exact hs
  · split
    · exact canonical_dequeRoom (canonical_startTask (canonical_modCore hs))
    · exact hs
  · exact hs

/-! ### Graph -/

theorem canonical_raiseDebt (hs : s.Canonical) : (s.raiseDebt core slot).Canonical := canonical_refresh (canonical_setBound hs)

theorem canonical_sendMarker {act : Nat} (hs : s.Canonical) : (s.sendMarker rcb act slot id).Canonical := canonical_update hs

theorem canonical_notify {name : Nat} {payload : List Word} (hs : s.Canonical) : (s.notify core fc name payload).Canonical := by
  unfold State.notify
  split
  · exact canonical_deliver hs
  · exact hs

theorem canonical_countRecorded (hs : s.Canonical) : (s.countRecorded core rcb).Canonical := by
  unfold State.countRecorded
  dsimp only
  split
  · split
    · exact canonical_notify (canonical_poke hs _ _ _)
    · exact canonical_poke hs _ _ _
  · exact canonical_poke hs _ _ _

theorem canonical_record {counts copies : Bool} (hs : s.Canonical) : (s.record core slot id counts copies).Canonical := by
  unfold State.record
  split
  · exact hs
  extract_lets _ s1 _ s2 s3
  have h1 : s1.Canonical := canonical_ite_self hs fun hs => hs.foldl fun _ _ hu => canonical_pokeVirt hu _ _ _ _ _
  have h2 : s2.Canonical := canonical_pokeVirt h1 _ _ _ _ _
  have h3 : s3.Canonical := h2.foldl fun _ _ hu => canonical_sendMarker hu
  exact canonical_ite_self h3 canonical_countRecorded

theorem canonical_marker (hs : s.Canonical) : (s.marker core slot id).Canonical := by
  unfold State.marker
  split
  · exact canonical_ite (canonical_record hs) hs
  · exact hs

theorem canonical_cutStart (hs : s.Canonical) : (s.cutStart core rcb id).Canonical :=
  State.Canonical.foldl hs fun _ _ hs1 => canonical_ite (canonical_marker hs1) hs1

theorem canonical_arrive {act : Nat} {msg : List Byte} (hs : s.Canonical) : (s.arrive rcb act slot msg).Canonical := by
  unfold State.arrive
  split
  · exact hs
  · exact canonical_ite (canonical_ite (canonical_modCore (canonical_raiseDebt (canonical_setBound (canonical_wrBytes hs _ _))))
      (canonical_raiseDebt (canonical_setBound (canonical_wrBytes hs _ _)))) (canonical_pokeVirt hs _ _ _ _ _)

theorem canonical_performSlot {t : Txn} (hs : s.Canonical) : (s.performSlot id t).Canonical := by
  unfold State.performSlot
  split
  · split
    · exact hs
    · split
      · exact canonical_ite hs (canonical_setTxn (canonical_arrive hs))
      · exact canonical_ite (canonical_setTxn hs) hs
  · exact hs

theorem canonical_performMarker {act mark : Nat} (hs : s.Canonical) : (s.performMarker id rcb act slot mark).Canonical := by
  unfold State.performMarker
  split
  · exact hs
  · split
    · exact canonical_ite hs (canonical_marker (canonical_update hs))
    · exact canonical_ite (canonical_update hs) hs

/-! ### Region -/

theorem canonical_extend {src : Nat} {data : List Byte} (hs : s.Canonical) : (s.extend rcb k src data).Canonical :=
  canonical_modRegion hs

theorem canonical_extendMode (hs : s.Canonical) : (s.extendMode rcb).Canonical := canonical_extend hs

theorem canonical_extendSeeds (hs : s.Canonical) : (s.extendSeeds rcb).Canonical := canonical_extend hs

theorem canonical_extendLcount (hs : s.Canonical) : (s.extendLcount rcb).Canonical := canonical_extend hs

theorem canonical_extendTree {kill : Bool} (hs : s.Canonical) : (s.extendTree rcb kill).Canonical := by
  unfold State.extendTree
  split
  · exact hs
  · exact State.Canonical.foldl hs fun _ _ hs1 => canonical_extend hs1

theorem canonical_chargeCores {n : Int} (hs : s.Canonical) : (s.chargeCores rcb n).Canonical :=
  State.Canonical.foldl hs fun _ _ hs1 => canonical_poke hs1 _ _ _

theorem canonical_chargeMsg {n : Int} (hs : s.Canonical) : (s.chargeMsg rcb n).Canonical :=
  State.Canonical.foldl hs fun _ _ hs1 => canonical_poke hs1 _ _ _

theorem canonical_flushAll (hs : s.Canonical) : (s.flushAll core).Canonical := by
  unfold State.flushAll
  refine State.Canonical.foldl (State.Canonical.foldl hs fun _ _ hs1 => ?_) fun _ _ hs1 => canonical_evictU hs1 _ _
  split
  · exact canonical_evict hs1 _ _
  · exact hs1

theorem canonical_dropMailbox {m : Nat} (hs : s.Canonical) : (s.dropMailbox core m).Canonical := by
  unfold State.dropMailbox
  split
  · exact hs
  · refine canonical_modCore (State.Canonical.foldl hs fun _ _ hs1 => ?_)
    split
    · split
      · exact canonical_setTxn hs1
      · exact hs1
    · exact hs1

theorem canonical_discardSlot (hs : s.Canonical) : (s.discardSlot core slot).Canonical :=
  State.Canonical.foldl hs fun _ _ hs1 => canonical_modCore (State.Canonical.foldl hs1 fun _ _ hs2 => canonical_ite
    (canonical_freeCtx hs2) hs2)

theorem canonical_freeCore (hs : s.Canonical) : (s.freeCore core rcb).Canonical :=
  canonical_chargeCores (canonical_modCore (canonical_flushAll (State.Canonical.foldl (State.Canonical.foldl hs fun _ _ hs1 =>
    canonical_ite (canonical_freeCtx hs1) hs1) fun _ _ hs1 => canonical_dropMailbox hs1)))

theorem canonical_recordLast {b : Bound} (hs : s.Canonical) : (s.recordLast core slot b).Canonical := by
  unfold State.recordLast
  split
  · exact canonical_ite (canonical_record hs) hs
  · exact hs

theorem canonical_storeStateBlock {b : Bound} (hs : s.Canonical) : (s.storeStateBlock core b).Canonical := by
  unfold State.storeStateBlock
  split
  · exact State.Canonical.foldl hs fun _ _ hs1 => canonical_settleOwn hs1 _ _
  · exact hs

theorem canonical_unbindActor (hs : s.Canonical) : (s.unbindActor core slot).Canonical := by
  unfold State.unbindActor
  split
  · exact hs
  rename_i b _
  extract_lets s1 s2 s3 s4 s5 s6 s7
  have h3 : s3.Canonical := by
    have h2 : s2.Canonical := canonical_discardSlot (canonical_recordLast hs)
    dsimp only [s3]
    split
    · exact canonical_dropMailbox h2
    · exact h2
  have h5 : s5.Canonical := canonical_ite_self (canonical_storeStateBlock h3) canonical_modRegion
  exact canonical_ite_self (canonical_chargeMsg (canonical_modCore h5)) canonical_freeCore

theorem canonical_launchPage {who : Issuer} {launch abase : Nat} (hs : s.Canonical) : (s.launchPage who rcb launch
    abase).2.Canonical := by
  unfold State.launchPage
  split
  · exact hs
  · exact canonical_modRegion (canonical_update hs)

theorem canonical_firstBind {lcore split : Nat} {page : LaunchPage} (hs : s.Canonical) : (s.firstBind core rcb lcore split
    page).Canonical :=
  canonical_chargeCores (canonical_modCore (canonical_zeroCore hs _))

theorem canonical_clearSlots {b : Bound} (hs : s.Canonical) : (s.clearSlots core b).Canonical :=
  canonical_ite (canonical_zero hs _ _) hs

theorem canonical_placeActor {who : Issuer} {abase : Option Nat} {act desc launch lcore split : Nat} {d : Desc}
    {rings : List Ring} (hs : s.Canonical) :
    (s.placeActor who abase core slot act desc launch lcore split d rings).Canonical := by
  unfold State.placeActor
  extract_lets s1
  have h1 : s1.Canonical := by
    dsimp only [s1]
    split
    · exact canonical_unbindActor hs
    · exact hs
  split
  rename_i e
  have h2 := (canonical_launchPage h1).of_snd e
  extract_lets s3 _ _ s4 s5 s6
  have h3 : s3.Canonical := canonical_ite (canonical_firstBind h2) (canonical_modCore h2)
  have h5 : s5.Canonical := canonical_chargeMsg (canonical_modCore (canonical_clearSlots h3))
  refine canonical_refresh ?_
  dsimp only [s6]
  split
  · exact canonical_ite_self h5 canonical_record
  · exact h5

theorem canonical_rouse (hs : s.Canonical) : (s.rouse core).Canonical := canonical_modCore hs

theorem canonical_bindOp {who : Issuer} {abase : Option Nat} {w : List Nat} (hs : s.Canonical) :
    (s.bindOp who abase core w).2.Canonical := by
  unfold State.bindOp
  extract_lets _ opc _ _ _ _ _ _ _ _ _ _ _ _ held
  clear_value opc held
  refine canonical_ite_snd hs (canonical_ite_snd hs (canonical_ite_snd hs ?_))
  split
  · refine canonical_ite_snd hs (canonical_ite_snd hs ?_)
    split
    · exact hs
    · exact canonical_ite_snd hs (canonical_rouse (canonical_placeActor hs))
  · exact canonical_rouse (canonical_unbindActor hs)
  · split
    · exact canonical_ite_snd (canonical_rouse (canonical_setBound hs)) hs
    · exact hs
  · split
    · exact canonical_ite_snd (canonical_rouse (canonical_releaseActor hs)) hs
    · exact hs

theorem canonical_placeOne {who : Issuer} {launch abase act desc pick : Nat} (hs : s.Canonical) : (s.placeOne who pkg rcb launch
    abase act desc pick).2.Canonical := by
  unfold State.placeOne
  dsimp only
  split
  · exact hs
  · split
    · split
      · exact hs
      · exact canonical_bindOp hs
    · split
      · exact hs
      · exact canonical_bindOp hs

/-- The two equations of `placeAll` on a launch of at least one actor. They unfold its recursor: Lean cannot make the
equation lemmas of `placeAll`, for it would have to evaluate `placeOne`. -/
theorem placeAll_cons_zero {t : State} {who : Issuer} {launch abase seq a d : Nat} {l : List Nat} (e : s.placeOne who pkg rcb
    launch abase (abase + a) d (Config.placement seq a) = (0, t)) : s.placeAll who pkg rcb launch abase seq a (d :: l) =
    t.placeAll who pkg rcb launch abase seq (a + 1) l := by
  delta State.placeAll
  simp only [List.brecOn.go, State.placeAll._f, e]

theorem placeAll_cons_succ {t : State} {who : Issuer} {launch abase seq a d code : Nat} {l : List Nat} (e : s.placeOne who pkg
    rcb launch abase (abase + a) d (Config.placement seq a) = (code + 1, t)) : s.placeAll who pkg rcb launch abase seq a (d ::
    l) = (code + 1, a, s) := by
  delta State.placeAll
  simp only [State.placeAll._f, e]

theorem canonical_placeAll {who : Issuer} {launch abase seq a : Nat} {l : List Nat} (hs : s.Canonical) : (s.placeAll who pkg rcb
    launch abase seq a l).2.2.Canonical := by
  induction l generalizing s a with
  | nil => exact hs
  | cons d l ih =>
    rcases e : s.placeOne who pkg rcb launch abase (abase + a) d (Config.placement seq a) with ⟨code, t⟩
    cases code with
    | zero =>
      rw [placeAll_cons_zero e]
      exact ih ((canonical_placeOne hs).of_snd e)
    | succ code =>
      rw [placeAll_cons_succ e]
      exact hs

theorem canonical_doLaunch {who : Issuer} {issuer gl seq : Nat} (hs : s.Canonical) :
    (s.doLaunch who core issuer gl seq).2.Canonical := by
  unfold State.doLaunch
  extract_lets
  split
  · exact hs
  extract_lets
  refine canonical_ite_snd hs (canonical_ite_snd hs ?_)
  extract_lets
  split
  · exact hs
  split
  · rename_i e
    exact canonical_modRegion (canonical_poke (State.Canonical.of_snd_snd (canonical_placeAll hs) e) _ _ _)
  all_goals exact hs

theorem canonical_markKilled (hs : s.Canonical) : (s.markKilled rcb).Canonical :=
  State.Canonical.foldl (canonical_setRcbState hs) fun _ _ hs1 => canonical_modCore (State.Canonical.foldl hs1 fun _ _ hs2 =>
    canonical_ite (canonical_freeCtx hs2) hs2)

theorem canonical_recordStatus {c : Cmd} {status : Word} (hs : s.Canonical) : (s.recordStatus c status).Canonical :=
  State.Canonical.foldl hs fun _ _ hs1 => canonical_modCore hs1

theorem canonical_dropCmd {c : Cmd} (hs : s.Canonical) : (s.dropCmd cl c).Canonical := canonical_modCluster hs

theorem canonical_channelStatus {c : Cmd} {status : Word} (hs : s.Canonical) : (s.channelStatus c status).Canonical :=
  canonical_modCtxOf hs

theorem canonical_releaseClaims (hs : s.Canonical) : (s.releaseClaims id).Canonical := canonical_update hs

theorem canonical_cmdTarget {c : Cmd} (hs : s.Canonical) : (s.cmdTarget c).2.Canonical := by
  unfold State.cmdTarget
  split
  · exact hs
  · exact hs
  · exact canonical_takeFresh hs

theorem canonical_endCmd {c : Cmd} {status : Word} (hs : s.Canonical) : (s.endCmd cl c status).Canonical :=
  canonical_ite (canonical_notify (canonical_cmdTarget (canonical_channelStatus (canonical_recordStatus (canonical_releaseClaims
    (canonical_dropCmd hs)))))) (canonical_channelStatus (canonical_recordStatus (canonical_releaseClaims (canonical_dropCmd
    hs))))

theorem canonical_setTileState {n : Option Nat} {st : TileState} (hs : s.Canonical) : (s.setTileState core n st).Canonical := by
  unfold State.setTileState
  split
  · exact canonical_modCore hs
  · exact hs

theorem canonical_clearFillError {c : Cmd} (hs : s.Canonical) : (s.clearFillError c).Canonical := by
  unfold State.clearFillError
  split
  · exact canonical_modCore hs
  · exact hs

theorem canonical_cancelCmd {c : Cmd} (hs : s.Canonical) : (s.cancelCmd cl c).Canonical :=
  canonical_ite (canonical_endCmd (canonical_setTileState (canonical_setTileState (canonical_modCore hs)))) (canonical_ite
    (canonical_endCmd (canonical_modCore hs)) (canonical_ite (canonical_endCmd (canonical_clearFillError (canonical_modCore
    hs))) (canonical_endCmd (canonical_modCore hs))))

theorem canonical_dropUpdates (hs : s.Canonical) : (s.dropUpdates rcb).Canonical :=
  State.Canonical.foldl hs fun _ _ hs1 => canonical_modCtxOf hs1

theorem canonical_answerAll {a : Reg → Awaited} {v : Word} (hs : s.Canonical) : (s.answerAll a v).Canonical :=
  canonical_update hs

theorem canonical_endKill (hs : s.Canonical) : (s.endKill rcb).Canonical := by
  unfold State.endKill
  extract_lets _ s1 s2 s3 s4 s5 s6 s7 _ s8
  have h1 : s1.Canonical := hs.foldl fun _ _ hu => canonical_cancelCmd hu
  have h4 : s4.Canonical := canonical_poke (canonical_update (canonical_dropUpdates h1)) _ _ _
  have h5 : s5.Canonical := h4.foldl fun _ _ hu => hu.foldl fun _ _ hv => canonical_unbindActor hv
  have h6 : s6.Canonical := h5.foldl fun _ _ hu => canonical_freeCore hu
  have h7 : s7.Canonical := canonical_extendTree h6
  have h8 : s8.Canonical := canonical_ite h7 (canonical_poke h7 _ _ _)
  exact canonical_answerAll (canonical_modPkg h8)

theorem canonical_voidPreempts (hs : s.Canonical) : s.voidPreempts.Canonical := by
  unfold State.voidPreempts
  refine State.Canonical.foldl hs fun _ _ hs1 => State.Canonical.foldl hs1 fun _ _ hs2 => ?_
  split
  · exact canonical_ite hs2 (canonical_modCtxOf hs2)
  · exact hs2

theorem canonical_killStep {x : State × Bool} {r : Nat} (hx : x.1.Canonical) : (State.killStep x r).1.Canonical := by
  have h : (if x.1.rcbState r == 4 then x.1 else x.1.markKilled r).Canonical := canonical_ite hx (canonical_markKilled hx)
  exact canonical_ite_fst hx (canonical_ite_fst (canonical_endKill h) h)

theorem canonical_killSteps {l : List Nat} {x : State × Bool} (hx : x.1.Canonical) : (l.foldl State.killStep x).1.Canonical :=
    by
  induction l generalizing x with
  | nil => exact hx
  | cons r l ih => exact ih (canonical_killStep hx)

theorem canonical_finishKills (hs : s.Canonical) : s.finishKills.Canonical :=
  canonical_voidPreempts (State.Canonical.foldl hs fun _ _ hs1 => canonical_killSteps hs1)

theorem canonical_kill (hs : s.Canonical) : (s.kill rcb).Canonical := canonical_finishKills (canonical_modRegion hs)

theorem canonical_flushRange (hs : s.Canonical) : (s.flushRange ga n).Canonical :=
  State.Canonical.foldl hs fun _ _ hs1 => State.Canonical.foldl hs1 fun _ _ hs2 => canonical_ite (canonical_modCore
    (canonical_writeBack hs2 _ _)) hs2

theorem Memory.wf_copies {α : Type} {l : List α} {src dst : Nat → α → Nat} {len : α → Nat} {x : List Host.Cell × Nat} (hx :
    Memory.wf x.1 = true) : Memory.wf (l.foldl (fun x p => (Memory.copy x.1 (src x.2 p) (dst x.2 p) (len p), x.2 + len p)) x).1
    = true := by
  induction l generalizing x with
  | nil => exact hx
  | cons p l ih => exact ih (Memory.wf_copy hx _ _ _)

theorem canonical_savePool {block : Nat} (hs : s.Canonical) : (s.savePool core block).Canonical := by
  unfold State.savePool
  exact Memory.wf_copy (Memory.wf_copies (α := Nat × Nat) (x := (s.mem, 0)) (src := fun _ p => p.1) (dst := fun n _ => block +
    n) (len := Prod.snd) hs) _ _ _

theorem canonical_loadPool {block : Nat} (hs : s.Canonical) : (s.loadPool core block).Canonical := by
  unfold State.loadPool
  exact Memory.wf_copy (Memory.wf_copies (α := Nat × Nat) (x := (s.mem, 0)) (src := fun n _ => block + n) (dst := fun _ p =>
    p.1) (len := Prod.snd) hs) _ _ _

theorem canonical_putWords {key : Nat} {l : List Nat} (hs : s.Canonical) : (s.putWords key l).Canonical :=
  State.Canonical.foldl hs fun _ _ hs1 => canonical_wrNat hs1 _ _ _

theorem canonical_saveState {block : Nat} {c : Core} (hs : s.Canonical) : (s.saveState block c).Canonical :=
  canonical_update (State.Canonical.foldl (State.Canonical.foldl (canonical_putWords hs) fun _ _ hs1 => canonical_putWords hs1)
    fun _ _ hs1 => State.Canonical.foldl hs1 fun _ _ hs2 => canonical_putWords hs2)

theorem canonical_saveIssuer (hs : s.Canonical) : (s.saveIssuer core rcb).Canonical := by
  unfold State.saveIssuer
  refine State.Canonical.foldl hs fun _ _ hs1 => ?_
  dsimp only
  split
  · split
    · refine canonical_freeCtx (canonical_modCore ?_)
      split
      · exact canonical_ite (canonical_setBound hs1) hs1
      · exact hs1
    · exact hs1
  · exact hs1

theorem canonical_endSave (hs : s.Canonical) : (s.endSave rcb).Canonical :=
  canonical_answerAll (canonical_setRcbState (State.Canonical.foldl (State.Canonical.foldl (State.Canonical.foldl hs fun _ _ hs1
    => canonical_flushAll (canonical_saveIssuer hs1)) fun _ _ hs1 => canonical_saveState (canonical_savePool
    (canonical_modRegion (canonical_flushRange hs1)))) fun _ _ hs1 => canonical_freeCore (canonical_modCore (canonical_chargeMsg
    (State.Canonical.foldl hs1 fun _ _ hs2 => canonical_recordLast hs2)))))

theorem canonical_finishSaves (hs : s.Canonical) : s.finishSaves.Canonical :=
  canonical_voidPreempts (State.Canonical.foldl hs fun _ _ hs1 => canonical_ite (canonical_endSave hs1) hs1)

theorem canonical_restoreCore {block : Nat} {sv : Core} (hs : s.Canonical) : (s.restoreCore k block sv).Canonical :=
  canonical_modCore hs

theorem canonical_resumeRegion (hs : s.Canonical) : (s.resumeRegion rcb).Canonical := by
  unfold State.resumeRegion
  split
  · exact hs
  · refine State.Canonical.foldl (canonical_setRcbState (canonical_modRegion (State.Canonical.foldl (canonical_setRcbState hs)
      fun _ _ hs1 => canonical_loadPool ?_))) fun _ _ hs1 => canonical_refreshAll hs1
    split
    · exact canonical_flushRange hs1
    · exact canonical_restoreCore (canonical_flushRange hs1)

/-! ### Operands -/

theorem keeps_readWindow {o : Nat} : Keeps (readWindow n o) := by
  unfold readWindow
  refine keeps_read fun s hs => ?_
  split
  · exact keeps_pure _
  · dsimp only
    split
    · exact keeps_ite (keeps_bind (keeps_write (canonical_update hs)) fun _ => keeps_pure _) (keeps_bind (keeps_write
        (canonical_update hs)) fun _ => keeps_bind (keeps_loadWord _) fun _ => keeps_bind (keeps_modCtx _) fun _ => keeps_pure
        _)
    · exact keeps_bind (keeps_loadWord _) fun _ => keeps_bind (keeps_modCtx _) fun _ => keeps_pure _

theorem keeps_readWindowField {w : Nat} : Keeps (readWindowField w) := keeps_readWindow

theorem keeps_src {o : AOps} {r : Reg} : Keeps (o.src r) := by
  unfold Sys2Proof.AOps.src
  split
  · exact keeps_readG
  · exact keeps_bind keeps_getCtx fun _ => keeps_pure _
  · exact keeps_pure _
  · exact keeps_readWindowField
  · exact keeps_pure _

theorem keeps_srcW {w : BitVec 20} {signed : Bool} {r : Reg} : Keeps (srcW w signed r) := by
  unfold srcW
  split
  · exact keeps_readG
  · exact keeps_pure _
  · exact keeps_readWindowField
  · exact keeps_pure _

theorem keeps_readGReg {r : Reg} : Keeps (readGReg r) := keeps_readG

theorem keeps_readPReg {r : Reg} : Keeps (readPReg r) := keeps_bind keeps_getCtx fun _ => keeps_pure _

theorem keeps_writePReg {r : Reg} {b : Bool} : Keeps (writePReg r b) := keeps_modCtx _

theorem keeps_popX {q : Nat} : Keeps (popX q) := by
  unfold popX
  refine keeps_bind keeps_getCtx fun _ => ?_
  split
  · split
    · exact keeps_waitFor _ _
    · refine keeps_bind (keeps_waitUntil _ _ _) fun _ => ?_
      split
      · exact keeps_raiseTrap _
      · exact keeps_bind (keeps_modCtx _) fun _ => keeps_pure _
  · dsimp only
    split
    · exact keeps_fault _ _ _
    · refine keeps_bind (keeps_unlessFault _ _ _) fun _ => keeps_bind (keeps_unlessFault _ _ _) fun _ => ?_
      split
      · exact keeps_waitFor _ _
      · refine keeps_bind (keeps_waitUntil _ _ _) fun _ => ?_
        split
        · exact keeps_raiseTrap _
        · exact keeps_bind (keeps_modCtx _) fun _ => keeps_pure _

theorem keeps_pushX {q : Nat} {v : V256} : Keeps (pushX q v) := by
  unfold pushX
  refine keeps_bind keeps_getCtx fun _ => ?_
  split
  · exact keeps_bind (keeps_waitUntil _ _ _) fun _ => keeps_modCtx _
  · dsimp only
    split
    · exact keeps_fault _ _ _
    · refine keeps_bind (keeps_unlessFault _ _ _) fun _ => ?_
      split
      · exact keeps_bind (keeps_raiseTrap _) fun _ => keeps_bind (keeps_unlessFault _ _ _) fun _ => keeps_bind (keeps_waitUntil
          _ _ _) fun _ => keeps_modCtx _
      · exact keeps_bind (keeps_unlessFault _ _ _) fun _ => keeps_bind (keeps_waitUntil _ _ _) fun _ => keeps_modCtx _

theorem keeps_popQ1 : Keeps popQ1 := by
  unfold popQ1
  refine keeps_bind keeps_getCtx fun _ => ?_
  split
  · exact keeps_waitFor _ _
  · exact keeps_bind (keeps_modCtx _) fun _ => keeps_pure _

/-! ### Flags -/

theorem keeps_raiseFlags {f : Flags} : Keeps (raiseFlags f) := keeps_modCtx _

theorem keeps_raiseSat {b : Bool} : Keeps (raiseSat b) := keeps_modCtx _

theorem keeps_trapRequest {tz tv : Bool} {fl : List Flags} : Keeps (trapRequest tz tv fl) :=
  keeps_ite (keeps_fault _ _ _) (keeps_ite (keeps_fault _ _ _) (keeps_pure ()))

theorem keeps_takeCounters {g : Nat} : Keeps (takeCounters g) :=
  keeps_bind keeps_getCtx fun _ => keeps_bind (keeps_unlessFault _ _ _) fun _ => keeps_bind (keeps_modCtx _) fun _ => keeps_pure
    _

theorem keeps_drawStep {rm e w : Nat} : Keeps (drawStep rm e w) :=
  keeps_ite (keeps_bind keeps_get fun _ => keeps_bind keeps_takeCounters fun _ => keeps_pure _) (keeps_pure _)

/-! ### Ops -/

theorem canonical_recordTrap {t : Trap} {source tpc : Word} {origin : Nat} (hs : s.Canonical) : (s.recordTrap t source tpc
    origin).Canonical := by
  unfold State.recordTrap
  dsimp only
  refine canonical_modCtx ?_
  split
  · exact canonical_countWalk hs
  · exact canonical_takeFresh (canonical_countWalk hs)

theorem canonical_raiseA {t : Trap} (hs : s.Canonical) : (s.raiseA t).Canonical := canonical_recordTrap hs

theorem canonical_raiseX {pc : Word} {t : Trap} (hs : s.Canonical) : (s.raiseX pc t).Canonical :=
  canonical_modCtx (canonical_recordTrap hs)

theorem canonical_raiseD {t : Trap} (hs : s.Canonical) : (s.raiseD t).Canonical := canonical_recordTrap hs

theorem canonical_abandon (hs : s.Canonical) : (s.abandon core fc).Canonical := by
  unfold State.abandon
  split
  · exact hs
  · refine canonical_finishSaves ?_
    split
    · exact canonical_kill (canonical_endActor (canonical_freeCtx hs))
    · split
      · split
        · exact canonical_ite (canonical_releaseActor (canonical_endActor (canonical_freeCtx hs))) (canonical_endActor
            (canonical_freeCtx hs))
        · exact canonical_endActor (canonical_freeCtx hs)
      · exact canonical_endActor (canonical_freeCtx hs)
    · exact canonical_endActor (canonical_freeCtx hs)

theorem canonical_defaultAction {cause : Nat} (hs : s.Canonical) : (s.defaultAction core fc cause).Canonical := by
  unfold State.defaultAction
  dsimp only
  split
  · split
    · exact canonical_ite (canonical_abandon hs) hs
    · split
      · exact canonical_ite (canonical_abandon (canonical_modCtxOf hs)) (canonical_modCtxOf hs)
      · exact canonical_ite (canonical_modCtxOf hs) (canonical_modCtxOf (canonical_launch hs))
  · exact hs

theorem canonical_enterTrap (hs : s.Canonical) : (s.enterTrap core fc).Canonical := by
  unfold State.enterTrap
  extract_lets
  split
  · refine canonical_ite hs (canonical_ite (canonical_defaultAction hs) ?_)
    extract_lets s1 _ s2
    have h1 : s1.Canonical := canonical_modCtxOf (canonical_leaveFutures hs)
    exact canonical_ite (canonical_defaultAction h1) (canonical_ite (canonical_defaultAction h1)
      (canonical_ite_self (canonical_modCtxOf h1) canonical_setBound))
  · exact hs

theorem canonical_takeTrapA {t : Trap} (hs : s.Canonical) : (s.takeTrapA t).Canonical :=
  canonical_enterTrap (canonical_raiseA hs)

theorem canonical_takeTrapD {t : Trap} (hs : s.Canonical) : (s.takeTrapD t).Canonical :=
  canonical_enterTrap (canonical_raiseD hs)

theorem canonical_takeTrapX {pc : Word} {t : Trap} (hs : s.Canonical) : (s.takeTrapX pc t).Canonical :=
  canonical_enterTrap (canonical_raiseX hs)

theorem canonical_takeTrapAnswer {t : Trap} (hs : s.Canonical) : (s.takeTrapAnswer t).Canonical :=
  canonical_ite (canonical_enterTrap (canonical_modCtx hs)) (canonical_takeTrapA (canonical_modCtx hs))

theorem keeps_pendingCheck {c : Ctx} {l : List Nat} : Keeps (pendingCheck c l) := by
  induction l with
  | nil => exact keeps_pure _
  | cons k l ih =>
    unfold pendingCheck
    split
    · exact ih
    · exact keeps_waitFor _ _
    · exact keeps_waitFor _ _
    · exact keeps_raiseTrap _

theorem keeps_modeCheck {i : Instr} {h : Hd} {c : Ctx} : Keeps (modeCheck i h c) :=
  keeps_ite (keeps_fault _ _ _) (keeps_pure ())

theorem keeps_applyFlow {f : Flow} : Keeps (applyFlow f) := by
  unfold applyFlow
  split
  · exact keeps_modCtx _
  · exact keeps_modCtx _
  · exact keeps_pure ()
  · exact keeps_pure ()

theorem canonical_finish {r : Except Stop (Unit × State)} (hs : s.Canonical) (hr : ∀ x t, r = .ok (x, t) → t.Canonical) :
    (finish s r).Canonical := by
  unfold finish
  split
  · exact hr _ _ rfl
  · exact canonical_takeTrapA hs
  · exact canonical_modCtx hs

theorem canonical_finishD {r : Except Stop (Unit × State)} (hs : s.Canonical) (hr : ∀ x t, r = .ok (x, t) → t.Canonical) :
    (finishD s r).Canonical := by
  unfold finishD
  split
  · exact hr _ _ rfl
  · exact canonical_takeTrapD hs
  · exact canonical_modCtx hs

theorem keeps_issued {i : Instr} {f : Flow} : Keeps (issued i f) :=
  keeps_ite (keeps_bind (keeps_modCtx _) fun _ => keeps_bind keeps_applyFlow fun _ => keeps_modCore _) (keeps_pure ())

theorem keeps_slotAct {i : Instr} {h : Hd} {body : Act Flow} (hbody : Keeps body) : Keeps (slotAct i h body) :=
  keeps_bind keeps_getCtx fun _ => keeps_ite (keeps_fault _ _ _) (keeps_ite (keeps_bind keeps_applyFlow fun _ => keeps_modCore
    _) (keeps_bind keeps_modeCheck fun _ => keeps_bind keeps_pendingCheck fun _ => keeps_bind hbody fun _ => keeps_issued))

theorem lands_issue {i : Instr} {h : Hd} {body : Act Flow} (hbody : Keeps body) (hs : s.Canonical) : Lands (issue i h body s) :=
  lands_next (canonical_ite (canonical_finish hs fun _ _ a => Keeps.ok (keeps_slotAct hbody) hs a) hs)

theorem lands_issueNext {i : Instr} {h : Hd} {body : Act Unit} (hbody : Keeps body) (hs : s.Canonical) : Lands (issueNext i h
    body s) :=
  lands_issue (keeps_bind hbody fun _ => keeps_pure _) hs

theorem keeps_roomInSequencer {c : Ctx} : Keeps (roomInSequencer c) := keeps_waitUntil _ _ _

theorem keeps_pendingSource {c : Ctx} {l : List Reg} : Keeps (pendingSource c l) := by
  induction l with
  | nil => exact keeps_pure _
  | cons r l ih =>
    cases r with
    | g k => exact keeps_ite (keeps_fault _ _ _) ih
    | _ => exact ih

theorem keeps_skipScalar {scalar : Reg → Act Word} {r : Reg} (hscalar : ∀ (a : Reg), Keeps (scalar a)) : Keeps (skipScalar
    scalar r) := by
  unfold skipScalar
  extract_lets -underBinder rest
  have hrest : ∀ x, Keeps (rest x) := by
    refine fun _ => keeps_read fun s hs => ?_
    split
    · rename_i e
      exact keeps_bind (keeps_write (Keeps.ok (hscalar _) hs e)) fun _ => keeps_pure _
    · exact keeps_waitFor _ _
    · exact keeps_freeWord
  split
  · refine keeps_bind keeps_getCtx fun _ => ?_
    split
    · exact hrest ()
    · exact keeps_bind (keeps_waitFor _ _) fun _ => hrest ()
    · exact keeps_freeWord
  · exact hrest ()

theorem keeps_skipWaits {h : Hd} : Keeps (skipWaits h) := by
  unfold skipWaits
  split
  · exact keeps_bind keeps_getCtx fun _ => keeps_waitUntil _ _ _
  · exact keeps_pure ()

theorem keeps_dispatchAct {i : Instr} {h : Hd} {scalar : Reg → Act Word} {check : Word → Word → Word → Act Prep} (hscalar : ∀ r,
    Keeps (scalar r)) (hcheck : ∀ x y z, Keeps (check x y z)) : Keeps (dispatchAct i h scalar check) := by
  unfold dispatchAct
  refine keeps_bind keeps_getCtx fun c => keeps_bind keeps_modeCheck fun _ => ?_
  extract_lets -underBinder live
  refine keeps_ite keeps_applyFlow (keeps_bind keeps_roomInSequencer fun _ => ?_)
  extract_lets -underBinder skip rest
  have hrest : ∀ x, Keeps (rest x) := by
    intro _
    dsimp -zeta only [rest]
    extract_lets -underBinder read
    have hread : ∀ r, Keeps (read r) := by
      intro r
      dsimp only [read]
      split
      · exact keeps_skipScalar hscalar
      · exact hscalar r
    refine keeps_ite_bind (hread _) (keeps_pure _) fun _ => keeps_ite_bind (hread _) (keeps_pure _) fun _ =>
      keeps_ite_bind (hread _) (keeps_pure _) fun _ => keeps_ite_bind (hcheck _ _ _) (keeps_pure _) fun _ => ?_
    exact keeps_bind (keeps_modCore _) fun _ => keeps_bind keeps_newId fun _ => keeps_bind keeps_getCtx fun _ =>
      keeps_bind (keeps_modCtx _) fun _ => keeps_bind (keeps_modCtx _) fun _ => keeps_applyFlow
  exact keeps_ite (keeps_bind keeps_skipWaits hrest)
    (keeps_ite (keeps_bind keeps_pendingSource fun _ => keeps_bind keeps_pendingCheck hrest) (hrest ()))

theorem keeps_runSkipped {e : XEntry} : Keeps (runSkipped e) :=
  keeps_bind keeps_getCtx fun _ => keeps_bind (keeps_waitUntil _ _ _) fun _ => keeps_modCtx _

theorem keeps_runAct {body : XEntry → Act Unit} {complete : Bool} (hbody : ∀ (a : XEntry), Keeps (body a)) : Keeps (runAct body
    complete) := by
  unfold runAct
  refine keeps_bind keeps_getCtx fun _ => ?_
  split
  · exact keeps_pure ()
  · exact keeps_ite keeps_runSkipped (keeps_ite (keeps_bind (hbody _) fun _ => keeps_bind (keeps_modCore _) fun _ => keeps_ite
      (keeps_bind (keeps_modCore _) fun _ => keeps_modCtx _) (keeps_modCtx _)) (keeps_modCtx _))

theorem canonical_releaseHead {e : XEntry} (hs : s.Canonical) : (s.releaseHead e).Canonical :=
  canonical_modCtx (canonical_modCtx (canonical_modHere hs))

theorem canonical_finishX {r : Except Stop (Unit × State)} (hs : s.Canonical) (hr : ∀ x t, r = .ok (x, t) → t.Canonical) :
    (finishX s r).Canonical := by
  unfold finishX
  split
  · exact hr _ _ rfl
  · split
    · exact canonical_takeTrapX (canonical_releaseHead hs)
    · exact hs
  · exact hs

theorem lands_xslotWith {complete : Bool} {i : Instr} {h : Hd} {scalar : Reg → Act Word} {check : Word → Word → Word → Act Prep}
    {body : XEntry → Act Unit} (hscalar : ∀ (a : Reg), Keeps (scalar a)) (hcheck : ∀ (a a_1 a_2 : Word), Keeps (check a a_1
    a_2)) (hbody : ∀ (a : XEntry), Keeps (body a)) (hs : s.Canonical) : Lands (xslotWith complete i h scalar check body s) :=
  lands_next (canonical_ite (canonical_ite (canonical_finishX hs fun _ _ a => Keeps.ok (keeps_runAct fun _ => hbody _) hs a) hs)
    (canonical_ite (canonical_finishD hs fun _ _ a => Keeps.ok (keeps_dispatchAct (fun _ => hscalar _) fun _ _ _ => hcheck _ _
    _) hs a) hs))

theorem lands_xslot {i : Instr} {h : Hd} {scalar : Reg → Act Word} {check : Word → Word → Word → Act Prep} {body : XEntry → Act
    Unit} (hscalar : ∀ (a : Reg), Keeps (scalar a)) (hcheck : ∀ (a a_1 a_2 : Word), Keeps (check a a_1 a_2)) (hbody : ∀ (a :
    XEntry), Keeps (body a)) (hs : s.Canonical) : Lands (xslot i h scalar check body s) :=
  lands_xslotWith (fun _ => hscalar _) (fun _ _ _ => hcheck _ _ _) (fun _ => hbody _) hs

theorem keeps_storeCheck : Keeps storeCheck := by
  unfold storeCheck
  refine keeps_bind keeps_getCtx fun _ => ?_
  split
  · exact keeps_raiseTrap _
  · exact keeps_pure ()

theorem keeps_fence {scope : Nat} : Keeps (fence scope) :=
  keeps_bind keeps_get fun _ => keeps_bind (keeps_waitUntil _ _ _) fun _ => keeps_bind (keeps_waitUntil _ _ _) fun _ =>
    keeps_storeCheck

theorem keeps_quietWaits : Keeps quietWaits :=
  keeps_bind keeps_get fun _ => keeps_bind (keeps_waitUntil _ _ _) fun _ => keeps_bind (keeps_waitUntil _ _ _) fun _ =>
    keeps_bind (keeps_waitUntil _ _ _) fun _ => keeps_waitUntil _ _ _

theorem keeps_endWaits : Keeps endWaits := by
  unfold endWaits
  refine keeps_bind keeps_getCtx fun _ => keeps_bind (keeps_unlessFault _ _ _) fun x => keeps_bind keeps_quietWaits fun _ =>
    keeps_bind keeps_getCtx fun _ => ?_
  extract_lets -underBinder rest
  have hrest : ∀ x, Keeps (rest x) := by
    intro _
    dsimp -zeta only [rest]
    dsimp only
    split
    · exact keeps_bind (keeps_raiseTrap _) fun _ => keeps_storeCheck
    · exact keeps_storeCheck
  split
  · exact keeps_bind (keeps_raiseTrap _) fun _ => hrest ()
  · exact hrest ()

theorem keeps_trapReturn : Keeps trapReturn := by
  unfold trapReturn
  refine keeps_bind keeps_getCtx fun c => keeps_when keeps_quietWaits fun _ => keeps_read fun s hs => ?_
  extract_lets -underBinder _ life
  have hlife : ∀ {u f}, u.Canonical → (life u f).Canonical := fun hu => canonical_ite_self hu canonical_setBound
  split
  · exact keeps_pure _
  refine keeps_ite (keeps_bind (keeps_write (canonical_abandon hs)) fun _ => keeps_pure _) (keeps_ite ?_ (keeps_ite ?_ ?_))
  · have hdrop := hs.foldl (l := c.entries.filter fun e => e.region == c.idem.serial)
      (f := fun s e => s.dropEntry s.core s.fc e false) fun _ _ hu => canonical_dropEntry hu
    exact keeps_bind (keeps_write (hlife (canonical_modCtx hdrop))) fun _ => keeps_pure _
  · refine keeps_bind (keeps_write (hlife (canonical_modCtx (canonical_ite ?_ hs)))) fun _ => keeps_pure _
    split
    · exact canonical_modCtx (canonical_releaseHead hs)
    · exact canonical_modCtx hs
  · exact keeps_bind (keeps_write (hlife (canonical_modCtx hs))) fun _ => keeps_pure _

/-! ### Fetch -/

theorem canonical_fetchLine {flips : BitVec 512} (hs : s.Canonical) : (s.fetchLine flips).Canonical := by
  unfold State.fetchLine
  extract_lets _ _ _ _ refused
  have hrefused : ∀ e, (refused e).Canonical := fun _ => canonical_takeTrapA hs
  refine canonical_ite (canonical_takeTrapA hs) (canonical_ite hs ?_)
  split
  · exact hrefused _
  rename_i p u e
  have hu : u.Canonical := canonical_translate hs e
  refine canonical_ite hs ?_
  split
  · exact hrefused _
  extract_lets _ u1
  have hu1 : u1.Canonical := canonical_ite_self hu canonical_sliceFill
  exact canonical_ite (canonical_takeTrapA hu) (canonical_ite (canonical_modCtx hu1)
    (canonical_ite (canonical_modHere (canonical_modCtx hu1)) (canonical_takeTrapA (canonical_modCtx hu1))))

/-! ### Control -/

theorem lands_execNop {o : AOps} (hs : s.Canonical) : Lands (execNop o s) := lands_issueNext (keeps_pure ()) hs

theorem lands_execTrapc {o : AOps} (hs : s.Canonical) : Lands (execTrapc o s) :=
  lands_issue (keeps_bind keeps_readGReg fun _ => keeps_bind (keeps_unlessFault _ _ _) fun _ => keeps_throw _) hs

theorem lands_execTrapret {o : AOps} (hs : s.Canonical) : Lands (execTrapret o s) := lands_issue keeps_trapReturn hs

theorem lands_execBr {o : AOps} (hs : s.Canonical) : Lands (execBr o s) :=
  lands_issue (keeps_bind keeps_getCtx fun _ => keeps_pure _) hs

theorem lands_execBrl {o : AOps} (hs : s.Canonical) : Lands (execBrl o s) :=
  lands_issue (keeps_bind keeps_getCtx fun _ => keeps_bind (keeps_writeD _ _) fun _ => keeps_pure _) hs

theorem lands_execJmp {o : AOps} (hs : s.Canonical) : Lands (execJmp o s) :=
  lands_issue (keeps_bind keeps_readGReg fun _ => keeps_pure _) hs

theorem lands_execJmpl {o : AOps} (hs : s.Canonical) : Lands (execJmpl o s) :=
  lands_issue (keeps_bind keeps_readGReg fun _ => keeps_bind keeps_getCtx fun _ => keeps_bind (keeps_writeD _ _) fun _ =>
    keeps_pure _) hs

theorem lands_execRet {o : AOps} (hs : s.Canonical) : Lands (execRet o s) :=
  lands_issue (keeps_bind keeps_readG fun _ => keeps_pure _) hs

theorem lands_execLoop {o : AOps} (hs : s.Canonical) : Lands (execLoop o s) :=
  lands_issue (keeps_bind keeps_getCtx fun _ => keeps_bind (keeps_writeD _ _) fun _ => keeps_pure _) hs

theorem lands_predicate2 {i : Instr} {o : AOps} {f : Bool → Bool → Bool} (hs : s.Canonical) : Lands (predicate2 i o f s) :=
  lands_issueNext (keeps_bind keeps_readPReg fun _ => keeps_bind keeps_readPReg fun _ => keeps_writePReg) hs

theorem lands_execPand {o : AOps} (hs : s.Canonical) : Lands (execPand o s) := lands_predicate2 hs

theorem lands_execPor {o : AOps} (hs : s.Canonical) : Lands (execPor o s) := lands_predicate2 hs

theorem lands_execPxor {o : AOps} (hs : s.Canonical) : Lands (execPxor o s) := lands_predicate2 hs

theorem lands_execPnot {o : AOps} (hs : s.Canonical) : Lands (execPnot o s) :=
  lands_issueNext (keeps_bind keeps_readPReg fun _ => keeps_writePReg) hs

theorem keeps_portOf {rings : List Ring} : Keeps (portOf rings k) := by
  unfold portOf
  split
  · exact keeps_pure _
  · exact keeps_fault _ _ _

theorem lands_portEntry {i : Instr} {o : AOps} {out : Bool} (hs : s.Canonical) : Lands (portEntry i o out s) :=
  lands_issueNext (keeps_bind keeps_get fun _ => keeps_bind keeps_portOf fun _ => keeps_bind (keeps_unlessFault _ _ _) fun _ =>
    keeps_writeD _ _) hs

theorem lands_execPhead {o : AOps} (hs : s.Canonical) : Lands (execPhead o s) := lands_portEntry hs

theorem lands_execPtail {o : AOps} (hs : s.Canonical) : Lands (execPtail o s) := lands_portEntry hs

theorem lands_execPcnt {o : AOps} (hs : s.Canonical) : Lands (execPcnt o s) :=
  lands_issueNext (keeps_bind keeps_get fun _ => keeps_bind keeps_portOf fun _ => keeps_writeD _ _) hs

theorem canonical_endFiring (hs : s.Canonical) : s.endFiring.Canonical := by
  unfold State.endFiring
  split
  · exact hs
  · exact canonical_ite (canonical_abandon hs) (canonical_finishSaves (canonical_endActor (canonical_freeCtx hs)))

theorem keeps_endNow : Keeps endNow :=
  keeps_bind keeps_endWaits fun _ => keeps_bind keeps_endShare fun _ => keeps_modify fun _ hs => canonical_endFiring hs

theorem lands_execEndFiring {o : AOps} (hs : s.Canonical) : Lands (execEndFiring o s) :=
  lands_issue (keeps_bind keeps_endNow fun _ => keeps_pure _) hs

theorem lands_execYield {o : AOps} (hs : s.Canonical) : Lands (execYield o s) := by
  unfold execYield
  refine lands_issue (keeps_bind keeps_getCtx fun _ => keeps_bind (keeps_unlessFault _ _ _) fun _ => keeps_bind keeps_endWaits
    fun _ => keeps_bind (keeps_modify fun _ hs1 => ?_) fun _ => keeps_pure _) hs
  split
  · exact canonical_finishSaves (canonical_yieldActor (canonical_freeCtx hs1))
  · exact hs1

theorem lands_execIdem {o : AOps} (hs : s.Canonical) : Lands (execIdem o s) :=
  lands_issueNext (keeps_bind keeps_getCtx fun _ => keeps_bind (keeps_unlessFault _ _ _) fun _ => keeps_modCtx _) hs

theorem keeps_xloopAct {o : AOps} : Keeps (xloopAct o) :=
  keeps_bind keeps_getCtx fun _ => keeps_ite (keeps_pure _) (keeps_bind (keeps_unlessFault _ _ _) fun _ => keeps_bind
    keeps_roomInSequencer fun _ => keeps_bind keeps_readGReg fun _ => keeps_bind (keeps_modCtx _) fun _ => keeps_pure _)

theorem lands_execXloop {o : AOps} (hs : s.Canonical) : Lands (execXloop o s) :=
  lands_next (canonical_ite (canonical_finishD hs fun _ _ a => Keeps.ok (keeps_slotAct keeps_xloopAct) hs a) hs)

/-! ### Loads -/

theorem keeps_sendLoad {p : Phys} {acq engine : Bool} {d : Dest} : Keeps (sendLoad p n acq engine d) :=
  keeps_modify fun _ hs => canonical_modCtx (canonical_launch hs)

theorem keeps_ownLoad {p : Phys} {d : Dest} : Keeps (ownLoad p n d) :=
  keeps_bind keeps_get fun _ => keeps_bind (keeps_waitUntil _ _ _) fun _ => keeps_modCtx _

theorem keeps_startLoad {p : Phys} {acq : Bool} {d : Dest} : Keeps (startLoad p n acq d) := by
  unfold startLoad
  refine keeps_bind keeps_get fun _ => ?_
  split
  · split
    · exact keeps_modify fun _ hs1 => canonical_modCtx (canonical_loadHit hs1)
    · exact keeps_bind (keeps_modCore _) fun _ => keeps_sendLoad
  · exact keeps_ite keeps_ownLoad keeps_sendLoad

theorem keeps_engineLoad {p : Phys} {d : Dest} : Keeps (engineLoad p n d) :=
  keeps_bind keeps_get fun _ => keeps_ite keeps_ownLoad (keeps_when (keeps_modify fun _ hs1 => canonical_settleOwn hs1 _ _) fun
    _ => keeps_sendLoad)

theorem keeps_ownRange {p : Phys} : Keeps (ownRange p n) := keeps_bind keeps_get fun _ => keeps_unlessFault _ _ _

theorem keeps_ownStore {p : Phys} {x : Nat} : Keeps (ownStore p n x) :=
  keeps_bind keeps_get fun _ => keeps_bind (keeps_waitUntil _ _ _) fun _ => keeps_bind (keeps_waitUntil _ _ _) fun _ =>
    keeps_bind keeps_ownRange fun _ => keeps_modify fun _ hs1 => canonical_wrNat hs1 _ _ _

theorem canonical_storeHit {l : CchLine} (hs : s.Canonical) : (s.storeHit l ga n).Canonical :=
  canonical_update (canonical_modHere hs)

theorem keeps_startStore {p : Phys} {x : Nat} : Keeps (startStore p n x) := by
  unfold startStore
  refine keeps_bind keeps_get fun _ => ?_
  dsimp only
  split
  · split
    · exact keeps_bind (keeps_waitUntil _ _ _) fun _ => keeps_bind (keeps_modify fun _ hs1 => canonical_storeHit hs1) fun _ =>
        keeps_modCtx _
    · exact keeps_bind (keeps_modCore _) fun _ => keeps_post
  · exact keeps_ite keeps_ownStore keeps_post

theorem canonical_claimFor {p : Phys} (hs : s.Canonical) : (s.claimFor id p).Canonical :=
  canonical_ite hs (canonical_ite (canonical_modHere (canonical_writeBack hs _ _)) (canonical_addClaim hs))

theorem keeps_postEngine {op : TxnOp} {p : Phys} : Keeps (postEngine id op p n) :=
  keeps_bind keeps_needPosted fun _ => keeps_modify fun _ hs => canonical_launchAs hs

theorem keeps_engineStore {p : Phys} {x : Nat} : Keeps (engineStore id p n x) :=
  keeps_bind keeps_get fun _ => keeps_ite keeps_ownStore keeps_postEngine

theorem keeps_runPiece {x : Piece} : Keeps (runPiece x) := by
  unfold runPiece
  split
  · exact keeps_bind (keeps_gateLoad _ _) fun _ => keeps_ite keeps_engineLoad keeps_startLoad
  · refine keeps_bind (keeps_gate _) fun _ => ?_
    split
    · exact keeps_engineStore
    · exact keeps_startStore
  · refine keeps_bind keeps_getCore fun _ => ?_
    split
    · exact keeps_pure ()
    · exact keeps_ite keeps_post (keeps_ite (keeps_modify fun _ hs => canonical_evict hs _ _) (keeps_pure ()))
  · exact keeps_writeD _ _

theorem canonical_runPieces {l : List Piece} (hs : s.Canonical) : (runPieces l s).2.Canonical := by
  induction l generalizing s with
  | nil => exact hs
  | cons p l ih =>
    unfold runPieces
    split
    · rename_i e
      exact ih (keeps_runPiece.ok hs e)
    · exact hs
    · exact ih (canonical_modCtx hs)

theorem keeps_movePieces {start : Act (List Piece)} (hstart : Keeps start) : Keeps (movePieces start) :=
  keeps_bind keeps_getCtx fun _ => keeps_ite_bind hstart (keeps_pure _) fun _ => keeps_read fun _ hs => keeps_bind (keeps_write
    (canonical_modCtx (canonical_runPieces hs))) fun _ => keeps_ite (keeps_pure _) (keeps_bind (keeps_modCtx _) fun _ =>
    keeps_pure _)

theorem keeps_fireNow {op : TxnOp} : Keeps (fireNow op ga n) :=
  keeps_bind keeps_needPosted fun _ => keeps_read fun _ hs => keeps_write (canonical_zeroFire (canonical_launch hs))

theorem keeps_landNow {op : TxnOp} {d : Dest} {err : Option DataError} {old : Nat} : Keeps (landNow op d err old) :=
  keeps_modCtx _

theorem keeps_startAtomic {op : TxnOp} {p : Phys} {acq : Bool} {d : Dest} : Keeps (startAtomic op p n acq d) := by
  unfold startAtomic
  refine keeps_bind (keeps_gate _) fun x => ?_
  extract_lets -underBinder rest rest1
  have hrest : ∀ x, Keeps (rest x) := fun _ => keeps_ite keeps_post (keeps_modify fun _ hs => canonical_modCtx (canonical_launch
    hs))
  have hrest1 : ∀ x, Keeps (rest1 x) := by
    refine fun _ => keeps_bind keeps_get fun _ => keeps_bind (keeps_waitUntil _ _ _) fun _ => ?_
    split
    · exact keeps_ite (keeps_fault _ _ _) keeps_landNow
    · exact keeps_bind (keeps_modCore _) fun _ => keeps_bind (keeps_modCtx _) fun _ => keeps_bind keeps_landNow fun _ =>
        keeps_ite keeps_fireNow (keeps_pure ())
  refine keeps_read fun s hs => ?_
  split
  · split
    · split
      · exact keeps_bind (keeps_modCore _) fun _ => hrest1 _
      · exact keeps_bind (keeps_modCore _) fun _ => hrest _
    · refine keeps_bind (keeps_ownedLine _) fun _ => ?_
      split
      · exact hrest1 _
      · exact keeps_bind (keeps_waitUntil _ _ _) fun _ => keeps_bind (keeps_touchNow _ _ _) fun _ => keeps_bind keeps_landNow
          fun _ => keeps_ite keeps_fireNow (keeps_pure ())
  · split
    · refine keeps_bind (keeps_waitUntil _ _ _) fun _ => keeps_bind (keeps_waitUntil _ _ _) fun _ => ?_
      split
      · exact keeps_ite (keeps_fault _ _ _) keeps_landNow
      · exact keeps_bind (keeps_write (canonical_applyOp hs _ _ _)) fun _ => keeps_bind keeps_landNow fun _ => keeps_ite
          keeps_fireNow (keeps_pure ())
    · exact hrest _

theorem keeps_startDm {op : AmoOp} {f : Fmt} {rm : BitVec 3} {v : Word} {p : Phys} : Keeps (startDm op f rm v p) :=
  keeps_bind (keeps_gate _) fun _ => keeps_bind keeps_get fun _ => keeps_bind (keeps_unlessFault _ _ _) fun _ => keeps_bind
    keeps_post fun _ => keeps_modCore _

theorem keeps_resolveAtomic {classes : Cls → Bool} : Keeps (resolveAtomic ea n classes) := by
  unfold resolveAtomic
  exact keeps_when (keeps_fault _ _ _) fun _ => keeps_bind (keeps_whereTo _ _) fun _ => keeps_bind (keeps_unlessFault _ _ _) fun
    _ => keeps_bind (keeps_unlessFault _ _ _) fun _ => keeps_bind keeps_getCtx fun _ => keeps_bind (keeps_checked _ _ _) fun _
    => keeps_bind (keeps_checked _ _ _) fun _ => keeps_pure _

/-! ### Memory -/

theorem keeps_reserveQ0 {need : Nat} : Keeps (reserveQ0 need) :=
  keeps_bind keeps_getCtx fun _ => keeps_bind (keeps_waitUntil _ _ _) fun _ => keeps_bind keeps_newId fun _ => keeps_bind
    (keeps_modCtx _) fun _ => keeps_pure _

theorem keeps_queueExists {r : Reg} : Keeps (queueExists r) := by
  unfold queueExists
  split
  · exact keeps_unlessFault _ _ _
  · exact keeps_pure ()

theorem lands_execLd {o : MOps} (hs : s.Canonical) : Lands (execLd o s) := by
  unfold execLd
  refine lands_issueNext (keeps_bind keeps_queueExists fun _ => keeps_bind keeps_getCtx fun _ => keeps_bind (keeps_resolve _ _
    _) fun _ => keeps_bind (keeps_gateLoad _ _) fun _ => ?_) hs
  dsimp only
  split
  · exact keeps_bind keeps_reserveQ0 fun _ => keeps_startLoad
  · exact keeps_startLoad

theorem lands_execSt {o : MOps} (hs : s.Canonical) : Lands (execSt o s) := by
  unfold execSt
  refine lands_issueNext (keeps_bind keeps_queueExists fun _ => keeps_bind keeps_getCtx fun _ => keeps_bind (keeps_resolve _ _
    _) fun _ => keeps_when keeps_fence fun _ => keeps_bind (keeps_gate _) fun _ => ?_) hs
  split
  · exact keeps_bind keeps_popQ1 fun _ => keeps_startStore
  · exact keeps_startStore

theorem keeps_resolveWords {kind : Kind} : Keeps (resolveWords kind ea n) := by
  induction n generalizing ea with
  | zero => exact keeps_pure _
  | succ n ih => exact keeps_bind (keeps_resolve _ _ _) fun _ => keeps_bind ih fun _ => keeps_pure _

theorem keeps_ownRanges {l : List Phys} : Keeps (ownRanges n l) := by
  induction l with
  | nil => exact keeps_pure _
  | cons p l ih => exact keeps_bind keeps_ownRange fun _ => ih

theorem lands_execLdm {o : MOps} (hs : s.Canonical) : Lands (execLdm o s) :=
  lands_issue (keeps_movePieces (keeps_bind keeps_getCtx fun _ => keeps_bind keeps_resolveWords fun _ => keeps_pure _)) hs

theorem lands_execStm {o : MOps} (hs : s.Canonical) : Lands (execStm o s) :=
  lands_issue (keeps_movePieces (keeps_bind keeps_getCtx fun _ => keeps_bind keeps_resolveWords fun _ => keeps_bind
    keeps_ownRanges fun _ => keeps_pure _)) hs

theorem lands_execLdc {o : AOps} (hs : s.Canonical) : Lands (execLdc o s) :=
  lands_issueNext (keeps_bind keeps_readGReg fun _ => keeps_bind (keeps_unlessFault _ _ _) fun _ => keeps_bind keeps_readWindow
    fun _ => keeps_writeD _ _) hs

theorem keeps_indexed {kind : Kind} {b w gx : Nat} : Keeps (indexed kind b w gx n k) := by
  induction n generalizing k with
  | zero => exact keeps_pure _
  | succ n ih =>
    exact keeps_bind (keeps_resolve _ _ _) fun _ => keeps_bind (keeps_readNow _ _) fun _ =>
      keeps_bind (keeps_resolve _ _ _) fun _ => keeps_bind ih fun _ => keeps_pure _

theorem keeps_reserveAll : Keeps (reserveAll n) := by
  induction n with
  | zero => exact keeps_pure _
  | succ n ih => exact keeps_bind keeps_reserveQ0 fun _ => keeps_bind ih fun _ => keeps_pure _

theorem lands_execIget {o : MOps} (hs : s.Canonical) : Lands (execIget o s) :=
  lands_issue (keeps_movePieces (keeps_bind keeps_queueExists fun _ => keeps_bind keeps_getCtx fun _ => keeps_bind keeps_indexed
    fun _ => keeps_ite (keeps_bind keeps_reserveAll fun _ => keeps_pure _) (keeps_bind keeps_reserveQ0 fun _ => keeps_pure _)))
    hs

theorem keeps_popAll : Keeps (popAll n) := by
  induction n with
  | zero => exact keeps_pure _
  | succ n ih => exact keeps_bind keeps_popQ1 fun _ => keeps_bind ih fun _ => keeps_pure _

theorem keeps_claimAll {l : List (Phys × Nat)} : Keeps (claimAll n l) := by
  induction l with
  | nil => exact keeps_pure _
  | cons p l ih =>
    exact keeps_bind keeps_newId fun _ => keeps_bind (keeps_modify fun _ hs => canonical_claimFor hs) fun _ =>
      keeps_bind ih fun _ => keeps_pure _

theorem lands_execIput {o : MOps} (hs : s.Canonical) : Lands (execIput o s) :=
  lands_issue (keeps_movePieces (keeps_bind keeps_queueExists fun _ => keeps_bind keeps_getCtx fun _ => keeps_bind keeps_indexed
    fun _ => keeps_bind keeps_ownRanges fun _ => keeps_ite (keeps_bind keeps_popAll fun _ => keeps_claimAll) (keeps_bind
    keeps_popQ1 fun _ => keeps_claimAll))) hs

theorem lands_execPref {o : MOps} (hs : s.Canonical) : Lands (execPref o s) := by
  unfold execPref
  refine lands_issueNext (keeps_bind keeps_acquired fun _ => keeps_bind keeps_get fun _ => keeps_bind keeps_whereIn fun _ => ?_)
    hs
  split
  · exact keeps_pure ()
  · exact keeps_bind keeps_get fun _ => keeps_ite (keeps_modify fun _ hs3 => canonical_launch hs3) (keeps_pure ())

theorem keeps_cacheChunk {inv : Bool} {kind : Kind} {a : Nat} : Keeps (cacheChunk inv kind a n) := by
  unfold cacheChunk
  refine keeps_bind keeps_whereIn fun _ => ?_
  split
  · exact keeps_pure _
  · split
    · exact keeps_pure _
    · exact keeps_bind keeps_getCtx fun _ => keeps_bind (keeps_unlessFault _ _ _) fun _ => keeps_bind keeps_getCore fun _ =>
        keeps_pure _

theorem keeps_cacheChunks {inv : Bool} {kind : Kind} {l : List (Nat × Nat)} : Keeps (cacheChunks inv kind l) := by
  induction l with
  | nil => exact keeps_pure _
  | cons p l ih => exact keeps_bind keeps_cacheChunk fun _ => keeps_bind ih fun _ => keeps_pure _

theorem keeps_cacheScan {inv : Bool} {kind : Kind} {o : MOps} : Keeps (cacheScan inv kind o) :=
  keeps_movePieces (keeps_bind keeps_acquired fun _ => keeps_bind keeps_getCtx fun _ => keeps_cacheChunks)

theorem lands_execFlush {o : MOps} (hs : s.Canonical) : Lands (execFlush o s) := lands_issue keeps_cacheScan hs

theorem lands_execInv {o : MOps} (hs : s.Canonical) : Lands (execInv o s) := lands_issue keeps_cacheScan hs

theorem lands_execScnt {o : MOps} (hs : s.Canonical) : Lands (execScnt o s) :=
  lands_issueNext (keeps_bind keeps_getCtx fun _ => keeps_writeD _ _) hs

theorem lands_execFence {o : MOps} (hs : s.Canonical) : Lands (execFence o s) := lands_issueNext keeps_fence hs

theorem canonical_settleGrants {page : Nat} (hs : s.Canonical) : (s.settleGrants core page).Canonical := canonical_update hs

theorem lands_execHandover {o : MOps} (hs : s.Canonical) : Lands (execHandover o s) :=
  lands_issueNext (keeps_bind keeps_getCtx fun _ => keeps_bind keeps_resolvePage fun _ => keeps_bind (keeps_unlessFault _ _ _)
    fun _ => keeps_bind keeps_get fun _ => keeps_bind (keeps_unlessFault _ _ _) fun _ => keeps_bind (keeps_waitUntil _ _ _) fun
    _ => keeps_bind (keeps_waitUntil _ _ _) fun _ => keeps_bind keeps_storeCheck fun _ => keeps_modify fun _ hs2 =>
    canonical_modPkg (State.Canonical.foldl (canonical_settleGrants hs2) fun _ _ hs3 => canonical_modHere (canonical_writeBack
    hs3 _ _))) hs

theorem lands_execOwHandoverAtHome {page : Nat} (hs : s.Canonical) : Lands (execOwHandoverAtHome page s) :=
  lands_next (canonical_modPkg hs)

theorem lands_execOwGrant {page : Nat} (hs : s.Canonical) : Lands (execOwGrant page s) := by
  unfold execOwGrant
  refine lands_next ?_
  split
  · split
    · exact canonical_modCore (canonical_modPkg hs)
    · exact hs
  · exact hs

theorem lands_execReclass {o : MOps} (hs : s.Canonical) : Lands (execReclass o s) := by
  unfold execReclass
  refine lands_issue (keeps_bind keeps_getCtx fun _ => keeps_bind (keeps_unlessFault _ _ _) fun _ => keeps_bind
    keeps_resolvePage fun _ => ?_) hs
  split
  · exact keeps_fault _ _ _
  · exact keeps_ite (keeps_pure _) (keeps_bind (keeps_modify fun _ hs1 => canonical_modCtx (canonical_modPkg hs1)) fun _ =>
      keeps_pure _)

theorem canonical_oldClassStep {page : Nat} {r : Reclass} (hs : s.Canonical) : (s.oldClassStep page r).Canonical := by
  unfold State.oldClassStep
  extract_lets s1 s2 s3
  have h1 : s1.Canonical := hs.foldl fun _ _ hu => hu.foldl fun _ _ hv => canonical_modCore (canonical_writeBack hv _ _)
  have h2 : s2.Canonical := h1.foldl fun _ _ hu => hu.foldl fun _ _ hv => canonical_mergeDelta hv _ _
  exact canonical_ite_self (canonical_update h2) canonical_modPkg

theorem lands_execReclassTlbsConfirmed {page : Nat} (hs : s.Canonical) : Lands (execReclassTlbsConfirmed page s) := by
  unfold execReclassTlbsConfirmed
  refine lands_next ?_
  split
  · exact canonical_ite hs (canonical_oldClassStep (canonical_modPkg hs))
  · exact hs

theorem canonical_newClassStep {page : Nat} {r : Reclass} (hs : s.Canonical) : (s.newClassStep page r).Canonical := by
  unfold State.newClassStep
  refine canonical_update ?_
  split
  · exact canonical_modPkg (canonical_modPkg (canonical_poke (canonical_poke (canonical_oldClassStep hs) _ _ _) _ _ _))
  · exact canonical_modPkg (canonical_poke (canonical_poke (canonical_oldClassStep hs) _ _ _) _ _ _)

theorem lands_execReclassDrained {page : Nat} (hs : s.Canonical) : Lands (execReclassDrained page s) := by
  unfold execReclassDrained
  refine lands_next ?_
  split
  · exact canonical_ite (canonical_modCtxOf (canonical_modPkg (canonical_newClassStep hs))) hs
  · exact hs

theorem lands_amo {i : Instr} {op : AmoOp} {o : MOps} (hs : s.Canonical) : Lands (amo i op o s) :=
  lands_issueNext (keeps_bind keeps_getCtx fun _ => keeps_bind keeps_resolveAtomic fun _ => keeps_bind (keeps_unlessFault _ _ _)
    fun _ => keeps_when keeps_fence fun _ => keeps_ite keeps_startDm keeps_startAtomic) hs

theorem lands_amof {i : Instr} {op : AmoOp} {o : MOps} (hs : s.Canonical) : Lands (amof i op o s) :=
  lands_issueNext (keeps_bind keeps_getCtx fun _ => keeps_bind keeps_resolveAtomic fun _ => keeps_bind (keeps_unlessFault _ _ _)
    fun _ => keeps_when keeps_fence fun _ => keeps_startAtomic) hs

theorem lands_amoU {i : Instr} {op : AmoOp} {o : MOps} (hs : s.Canonical) : Lands (amoU i op o s) :=
  lands_issueNext (keeps_bind keeps_getCtx fun _ => keeps_bind keeps_resolveAtomic fun _ => keeps_ite keeps_startDm (keeps_ite
    (keeps_bind (keeps_gate _) fun _ => keeps_bind keeps_get fun _ => keeps_bind (keeps_waitUntil _ _ _) fun _ => keeps_ite
    (keeps_modify fun _ hs2 => canonical_modCtx (canonical_addDelta hs2)) keeps_post) keeps_startAtomic)) hs

theorem lands_execAmoAdd {o : MOps} (hs : s.Canonical) : Lands (execAmoAdd o s) := lands_amo hs

theorem lands_execAmoAnd {o : MOps} (hs : s.Canonical) : Lands (execAmoAnd o s) := lands_amo hs

theorem lands_execAmoOr {o : MOps} (hs : s.Canonical) : Lands (execAmoOr o s) := lands_amo hs

theorem lands_execAmoXor {o : MOps} (hs : s.Canonical) : Lands (execAmoXor o s) := lands_amo hs

theorem lands_execAmoMin {o : MOps} (hs : s.Canonical) : Lands (execAmoMin o s) := lands_amo hs

theorem lands_execAmoMax {o : MOps} (hs : s.Canonical) : Lands (execAmoMax o s) := lands_amo hs

theorem lands_execAmoUmin {o : MOps} (hs : s.Canonical) : Lands (execAmoUmin o s) := lands_amo hs

theorem lands_execAmoUmax {o : MOps} (hs : s.Canonical) : Lands (execAmoUmax o s) := lands_amo hs

theorem lands_execAmoSwap {o : MOps} (hs : s.Canonical) : Lands (execAmoSwap o s) := lands_amo hs

theorem lands_execAmoFadd {o : MOps} (hs : s.Canonical) : Lands (execAmoFadd o s) := lands_amo hs

theorem lands_execAmofAdd {o : MOps} (hs : s.Canonical) : Lands (execAmofAdd o s) := lands_amof hs

theorem lands_execAmofAnd {o : MOps} (hs : s.Canonical) : Lands (execAmofAnd o s) := lands_amof hs

theorem lands_execAmofOr {o : MOps} (hs : s.Canonical) : Lands (execAmofOr o s) := lands_amof hs

theorem lands_execAmofXor {o : MOps} (hs : s.Canonical) : Lands (execAmofXor o s) := lands_amof hs

theorem lands_execAmofMin {o : MOps} (hs : s.Canonical) : Lands (execAmofMin o s) := lands_amof hs

theorem lands_execAmofMax {o : MOps} (hs : s.Canonical) : Lands (execAmofMax o s) := lands_amof hs

theorem lands_execAmofUmin {o : MOps} (hs : s.Canonical) : Lands (execAmofUmin o s) := lands_amof hs

theorem lands_execAmofUmax {o : MOps} (hs : s.Canonical) : Lands (execAmofUmax o s) := lands_amof hs

theorem lands_execAmofSwap {o : MOps} (hs : s.Canonical) : Lands (execAmofSwap o s) := lands_amof hs

theorem lands_execAmofFadd {o : MOps} (hs : s.Canonical) : Lands (execAmofFadd o s) := lands_amof hs

theorem lands_execAmoUAdd {o : MOps} (hs : s.Canonical) : Lands (execAmoUAdd o s) := lands_amoU hs

theorem lands_execAmoUAnd {o : MOps} (hs : s.Canonical) : Lands (execAmoUAnd o s) := lands_amoU hs

theorem lands_execAmoUOr {o : MOps} (hs : s.Canonical) : Lands (execAmoUOr o s) := lands_amoU hs

theorem lands_execAmoUXor {o : MOps} (hs : s.Canonical) : Lands (execAmoUXor o s) := lands_amoU hs

theorem lands_execAmoUMin {o : MOps} (hs : s.Canonical) : Lands (execAmoUMin o s) := lands_amoU hs

theorem lands_execAmoUMax {o : MOps} (hs : s.Canonical) : Lands (execAmoUMax o s) := lands_amoU hs

theorem lands_execAmoUUmin {o : MOps} (hs : s.Canonical) : Lands (execAmoUUmin o s) := lands_amoU hs

theorem lands_execAmoUUmax {o : MOps} (hs : s.Canonical) : Lands (execAmoUUmax o s) := lands_amoU hs

theorem lands_execAmoUFadd {o : MOps} (hs : s.Canonical) : Lands (execAmoUFadd o s) := lands_amoU hs

theorem lands_execCas {o : MOps} (hs : s.Canonical) : Lands (execCas o s) :=
  lands_issueNext (keeps_bind keeps_getCtx fun _ => keeps_bind keeps_resolveAtomic fun _ => keeps_bind (keeps_unlessFault _ _ _)
    fun _ => keeps_when keeps_fence fun _ => keeps_startAtomic) hs

theorem lands_execCasw {o : MOps} (hs : s.Canonical) : Lands (execCasw o s) :=
  lands_issueNext (keeps_bind keeps_getCtx fun _ => keeps_bind keeps_resolveAtomic fun _ => keeps_bind (keeps_unlessFault _ _ _)
    fun _ => keeps_when keeps_fence fun _ => keeps_startAtomic) hs

/-! ### Sync -/

theorem keeps_cellAt : Keeps (cellAt ea n) :=
  keeps_bind keeps_resolveAtomic fun _ => keeps_bind (keeps_unlessFault _ _ _) fun _ => keeps_bind (keeps_gate _) fun _ =>
    keeps_pure _

theorem keeps_barChange {p : Phys} {f : Nat → Option Nat} : Keeps (barChange p f) :=
  keeps_bind (keeps_touchNow _ _ _) fun _ => keeps_bind (keeps_unlessFault _ _ _) fun _ => keeps_pure _

theorem lands_execBari {o : MOps} (hs : s.Canonical) : Lands (execBari o s) :=
  lands_issueNext (keeps_bind keeps_getCtx fun _ => keeps_bind keeps_cellAt fun _ => keeps_bind keeps_barChange fun _ =>
    keeps_pure ()) hs

theorem lands_execBar {o : MOps} (hs : s.Canonical) : Lands (execBar o s) :=
  lands_issueNext (keeps_bind keeps_getCtx fun _ => keeps_bind (keeps_waitUntil _ _ _) fun _ => keeps_bind keeps_cellAt fun _ =>
    keeps_bind keeps_fence fun _ => keeps_bind keeps_barChange fun _ => keeps_writeD _ _) hs

theorem keeps_readCell {p : Phys} : Keeps (readCell p n) := keeps_ite (keeps_touchNow _ _ _) (keeps_readNow _ _)

theorem lands_execBarw {o : MOps} (hs : s.Canonical) : Lands (execBarw o s) :=
  lands_issueNext (keeps_bind keeps_getCtx fun _ => keeps_bind keeps_cellAt fun _ => keeps_bind keeps_readCell fun _ =>
    keeps_waitUntil _ _ _) hs

theorem lands_execFork {o : FOps} (hs : s.Canonical) : Lands (execFork o s) :=
  lands_issueNext (keeps_bind keeps_get fun _ => keeps_bind (keeps_unlessFault _ _ _) fun _ => keeps_bind (keeps_unlessFault _ _
    _) fun _ => keeps_modify fun _ hs2 => canonical_pushTask hs2) hs

theorem lands_execDqcnt {o : EOps} (hs : s.Canonical) : Lands (execDqcnt o s) :=
  lands_issueNext (keeps_bind keeps_getCore fun _ => keeps_writeD _ _) hs

theorem lands_execJoin {o : FOps} (hs : s.Canonical) : Lands (execJoin o s) :=
  lands_issue (keeps_bind keeps_get fun _ => keeps_ite (keeps_bind keeps_endNow fun _ => keeps_pure _) (keeps_bind
    (keeps_unlessFault _ _ _) fun _ => keeps_bind keeps_cellAt fun _ => keeps_bind keeps_fence fun _ => keeps_bind
    (keeps_touchNow _ _ _) fun _ => keeps_bind (keeps_unlessFault _ _ _) fun _ => keeps_ite (keeps_pure _) (keeps_bind
    (keeps_modCtx _) fun _ => keeps_pure _))) hs

theorem canonical_setFuture {idx : Nat} {f : Future} (hs : s.Canonical) : (s.setFuture cl idx f).Canonical :=
  canonical_modCluster hs

theorem keeps_future {h : Word} : Keeps (future h) := by
  unfold future
  refine keeps_bind keeps_get fun _ => ?_
  split
  · exact keeps_pure _
  · exact keeps_fault _ _ _

theorem lands_execFutNew {o : EOps} (hs : s.Canonical) : Lands (execFutNew o s) := by
  unfold execFutNew
  refine lands_issueNext (keeps_bind keeps_freeWord fun _ => keeps_bind keeps_get fun _ => ?_) hs
  dsimp only
  split
  · exact keeps_bind (keeps_modify fun _ hs2 => canonical_setFuture hs2) fun _ => keeps_writeD _ _
  · exact keeps_writeD _ _

theorem canonical_answerFuture {v : Word} {w : Nat × Nat × Reg} (hs : s.Canonical) : (s.answerFuture v w).Canonical :=
  canonical_modCtxOf hs

theorem lands_execFutSet {o : EOps} (hs : s.Canonical) : Lands (execFutSet o s) :=
  lands_issueNext (keeps_bind keeps_getCtx fun _ => keeps_bind keeps_fence fun _ => keeps_bind keeps_future fun _ => keeps_bind
    (keeps_unlessFault _ _ _) fun _ => keeps_modify fun _ hs1 => State.Canonical.foldl (canonical_setFuture hs1) fun _ _ hs2 =>
    canonical_answerFuture hs2) hs

theorem lands_execFutGet {o : EOps} (hs : s.Canonical) : Lands (execFutGet o s) :=
  lands_issue (keeps_bind keeps_get fun _ => keeps_bind keeps_future fun _ => keeps_bind (keeps_waitUntil _ _ _) fun _ =>
    keeps_ite (keeps_bind (keeps_writeD _ _) fun _ => keeps_pure _) (keeps_bind (keeps_waitUntil _ _ _) fun _ => keeps_bind
    (keeps_modify fun _ hs2 => canonical_modCtx (canonical_setFuture hs2)) fun _ => keeps_pure _)) hs

theorem lands_execFutFree {o : EOps} (hs : s.Canonical) : Lands (execFutFree o s) :=
  lands_issueNext (keeps_bind keeps_readGReg fun _ => keeps_bind keeps_future fun _ => keeps_bind (keeps_unlessFault _ _ _) fun
    _ => keeps_modify fun _ hs1 => canonical_setFuture hs1) hs

theorem lands_execMbxBind {o : EOps} (hs : s.Canonical) : Lands (execMbxBind o s) := by
  unfold execMbxBind
  refine lands_issueNext (keeps_bind keeps_get fun _ => ?_) hs
  dsimp only
  split
  · exact keeps_ite (keeps_writeD _ _) (keeps_ite (keeps_writeD _ _) (keeps_ite (keeps_writeD _ _) (keeps_bind (keeps_modCore _)
      fun _ => keeps_bind (keeps_modify fun _ hs2 => canonical_setBound hs2) fun _ => keeps_writeD _ _)))
  · exact keeps_writeD _ _

theorem lands_execMbxFree {o : EOps} (hs : s.Canonical) : Lands (execMbxFree o s) := by
  unfold execMbxFree
  refine lands_issueNext (keeps_bind keeps_getCore fun _ => ?_) hs
  dsimp only
  split
  · exact keeps_ite (keeps_writeD _ _) (keeps_bind (keeps_modify fun _ hs1 => canonical_setBound (canonical_dropMailbox hs1))
      fun _ => keeps_writeD _ _)
  · exact keeps_writeD _ _

theorem lands_execMbxrd {o : EOps} (hs : s.Canonical) : Lands (execMbxrd o s) := by
  unfold execMbxrd
  refine lands_issueNext (keeps_bind keeps_getCtx fun _ => ?_) hs
  split
  · split
    · exact keeps_writeD _ _
    · exact keeps_fault _ _ _
  · exact keeps_pure ()

theorem keeps_reachCheck {ga : Word} : Keeps (reachCheck ga) :=
  keeps_bind keeps_get fun _ => keeps_ite (keeps_bind (keeps_unlessFault _ _ _) fun _ => keeps_unlessFault _ _ _) (keeps_pure
    ())

theorem lands_execSend {o : EOps} (hs : s.Canonical) : Lands (execSend o s) := by
  unfold execSend
  refine lands_issueNext (keeps_bind keeps_getCtx fun _ => keeps_bind keeps_fence fun _ => keeps_bind keeps_get fun _ => ?_) hs
  split
  · exact keeps_bind keeps_reachCheck fun _ => keeps_post
  · exact keeps_bind keeps_reachCheck fun _ => keeps_post
  · exact keeps_fault _ _ _

theorem canonical_addFlight {f : Flight} (hs : s.Canonical) : (s.addFlight f).Canonical := canonical_update hs

theorem lands_execEvt {o : EOps} (hs : s.Canonical) : Lands (execEvt o s) :=
  lands_issueNext (keeps_bind keeps_readGReg fun _ => keeps_bind (keeps_unlessFault _ _ _) fun _ => keeps_modify fun _ hs1 =>
    canonical_addFlight hs1) hs

theorem lands_execEventDelivery {event : Nat} (hs : s.Canonical) : Lands (execEventDelivery event s) := by
  unfold execEventDelivery
  refine lands_next ?_
  split
  · exact State.Canonical.foldl (canonical_update hs) fun _ _ hs1 => canonical_ite (canonical_modCtxOf hs1) hs1
  · exact hs

theorem keeps_wfe {o : EOps} : Keeps (wfe o) :=
  keeps_bind keeps_get fun _ => keeps_bind (keeps_waitUntil _ _ _) fun _ => keeps_writeD _ _

theorem lands_execWfe {o : EOps} (hs : s.Canonical) : Lands (execWfe o s) := lands_issueNext keeps_wfe hs

theorem lands_execWfeTimeout (hs : s.Canonical) : Lands (execWfeTimeout core fc s) := by
  unfold execWfeTimeout
  split
  · exact lands_ite (lands_issueNext keeps_wfe (canonical_at hs)) (lands_next hs)
  · exact lands_next hs

theorem lands_execGangOn {o : EOps} (hs : s.Canonical) : Lands (execGangOn o s) :=
  lands_issueNext (keeps_bind keeps_get fun _ => keeps_when (keeps_modCore _) fun _ => keeps_bind keeps_get fun _ =>
    keeps_writeD _ _) hs

theorem lands_execGangOff {o : EOps} (hs : s.Canonical) : Lands (execGangOff o s) :=
  lands_issueNext (keeps_bind keeps_get fun _ => keeps_when (keeps_modCore _) fun _ => keeps_bind keeps_get fun _ =>
    keeps_writeD _ _) hs

theorem lands_execRfork {o : FOps} (hs : s.Canonical) : Lands (execRfork o s) :=
  lands_issueNext (keeps_bind keeps_get fun _ => keeps_bind (keeps_unlessFault _ _ _) fun _ => keeps_bind keeps_resolveAtomic
    fun _ => keeps_bind (keeps_unlessFault _ _ _) fun _ => keeps_bind (keeps_unlessFault _ _ _) fun _ => keeps_bind (keeps_gate
    _) fun _ => keeps_bind keeps_fence fun _ => keeps_bind (keeps_waitUntil _ _ _) fun _ => keeps_bind (keeps_storeWords _ _)
    fun _ => keeps_bind (keeps_modify fun _ hs2 => canonical_update hs2) fun _ => keeps_bind (keeps_modify fun _ hs2 =>
    State.Canonical.foldl hs2 fun _ _ hs3 => canonical_pushTask (canonical_modCore hs3)) fun _ => keeps_ite (keeps_modify fun _
    hs2 => canonical_pushTask hs2) (keeps_pure ())) hs

theorem lands_execStealRequest (hs : s.Canonical) : Lands (execStealRequest core s) := by
  unfold execStealRequest
  refine lands_next ?_
  split
  · exact hs
  · dsimp only
    split
    · exact canonical_ite (canonical_pushTask (canonical_modCore (canonical_dequeRoom (canonical_modCore (canonical_modCore
        hs))))) (canonical_modCore (canonical_modCore hs))
    · exact canonical_modCore (canonical_modCore hs)

/-! ### Almanac -/

theorem canonical_writeNewRcb {parent rnum : Nat} (hs : s.Canonical) : (s.writeNewRcb rcb parent rnum).Canonical :=
  canonical_ite (canonical_poke (canonical_poke (canonical_poke (canonical_poke (canonical_poke (canonical_poke hs _ _ _) _ _ _)
    _ _ _) _ _ _) _ _ _) _ _ _) (canonical_poke (canonical_poke (canonical_poke (canonical_poke (canonical_poke (canonical_poke
    (canonical_poke hs _ _ _) _ _ _) _ _ _) _ _ _) _ _ _) _ _ _) _ _ _)

theorem canonical_newRegion {root : Bool} {parent : Nat} (hs : s.Canonical) : (s.newRegion pkg root parent rcb).2.Canonical :=
    by
  unfold State.newRegion
  dsimp only
  split
  · exact hs
  split
  · exact hs
  split
  · exact hs
  split
  · exact hs
  · dsimp only
    exact canonical_extendLcount (canonical_extendTree (canonical_extendSeeds (canonical_extendMode (canonical_modPkg
      (canonical_writeNewRcb (canonical_ite hs (canonical_modRegion hs)))))))

theorem lands_execRgnNew {o : EOps} (hs : s.Canonical) : Lands (execRgnNew o s) := by
  refine lands_issueNext (keeps_read fun s hs => ?_) hs
  dsimp -iota only
  split
  rename_i e
  exact keeps_bind (keeps_write ((canonical_newRegion hs).of_snd e)) fun _ => keeps_writeD _ _

theorem canonical_extendField {f : Nat} (hs : s.Canonical) : (s.extendField rcb f).Canonical :=
  canonical_ite (canonical_extendMode hs) (canonical_ite (canonical_extendSeeds hs) (canonical_ite (canonical_extendLcount hs)
    hs))

theorem canonical_setField {f v : Nat} {clr : Bool} (hs : s.Canonical) : (s.setField rcb f v clr).2.Canonical := by
  unfold State.setField
  extract_lets _ _ _ charge
  have hcharge : ∀ {u on}, u.Canonical → (charge u on).Canonical :=
    fun hu => canonical_ite (canonical_poke hu _ _ _) (canonical_ite (canonical_poke hu _ _ _) hu)
  refine canonical_ite_snd hs (canonical_ite_snd ?_ (canonical_ite_snd hs ?_))
  · exact canonical_ite_snd hs (canonical_extendField (hcharge (canonical_poke hs _ _ _)))
  · exact canonical_ite_snd hs (canonical_extendField (hcharge (canonical_poke (canonical_poke hs _ _ _) _ _ _)))

theorem lands_execRgnSet {o : EOps} (hs : s.Canonical) : Lands (execRgnSet o s) :=
  lands_issueNext (keeps_read fun _ hs1 => keeps_bind (keeps_write (canonical_setField hs1)) fun _ => keeps_writeD _ _) hs

theorem lands_execRgnKill {o : EOps} (hs : s.Canonical) : Lands (execRgnKill o s) :=
  lands_issue (keeps_bind keeps_get fun _ => keeps_ite (keeps_bind (keeps_writeD _ _) fun _ => keeps_pure _) (keeps_bind
    (keeps_modCtx _) fun _ => keeps_bind (keeps_modify fun _ hs2 => canonical_kill hs2) fun _ => keeps_pure _)) hs

theorem lands_execBind {o : EOps} (hs : s.Canonical) : Lands (execBind o s) :=
  lands_issueNext (keeps_bind keeps_getCtx fun _ => keeps_bind (keeps_unlessFault _ _ _) fun _ => keeps_bind (keeps_loadWords _
    _) fun _ => keeps_read fun _ hs1 => keeps_bind (keeps_write (canonical_finishSaves (canonical_bindOp hs1))) fun _ =>
    keeps_writeD _ _) hs

theorem canonical_almanacBind {opc : Nat} {record : List Word} (hs : s.Canonical) : (s.almanacBind core opc record).Canonical :=
  canonical_ite (canonical_finishSaves (canonical_bindOp hs)) hs

theorem lands_execBindOpcBind {record : List Word} (hs : s.Canonical) : Lands (execBindOpcBind core record s) :=
  lands_next (canonical_almanacBind hs)

theorem lands_execUnbind {record : List Word} (hs : s.Canonical) : Lands (execUnbind core record s) :=
  lands_next (canonical_almanacBind hs)

theorem lands_execHold {record : List Word} (hs : s.Canonical) : Lands (execHold core record s) :=
  lands_next (canonical_almanacBind hs)

theorem lands_execRelease {record : List Word} (hs : s.Canonical) : Lands (execRelease core record s) :=
  lands_next (canonical_almanacBind hs)

theorem lands_execLaunch {o : EOps} (hs : s.Canonical) : Lands (execLaunch o s) :=
  lands_issue (keeps_bind keeps_get fun _ => keeps_bind (keeps_waitUntil _ _ _) fun _ => keeps_bind keeps_newId fun _ =>
    keeps_bind keeps_get fun _ => keeps_bind (keeps_modify fun _ hs3 => canonical_modPkg hs3) fun _ => keeps_bind (keeps_modCtx
    _) fun _ => keeps_pure _) hs

theorem canonical_postResult {queue : Nat} {a b : Word} (hs : s.Canonical) : (s.postResult pkg queue a b).Canonical :=
  canonical_modPkg hs

theorem canonical_answerLaunch {l : Launch} {v : Nat} (hs : s.Canonical) : (s.answerLaunch pkg id l v).Canonical := by
  unfold State.answerLaunch
  dsimp only
  split
  · exact canonical_modCtxOf (canonical_modPkg hs)
  · exact canonical_postResult (canonical_modPkg hs)
  · exact canonical_modPkg hs

theorem canonical_badReply {cluster : Nat} (hs : s.Canonical) : (s.badReply pkg id k fc cluster).Canonical := by
  unfold State.badReply
  dsimp only
  split
  · exact canonical_ite (canonical_takeTrapAnswer (canonical_at (canonical_modPkg hs))) (canonical_modPkg hs)
  · exact canonical_modPkg hs

theorem lands_execLaunchFirmwareReply {launch : Nat} (hs : s.Canonical) : Lands (execLaunchFirmwareReply launch s) := by
  unfold execLaunchFirmwareReply
  refine lands_next ?_
  split
  · exact hs
  · dsimp only
    split
    · exact canonical_ite (canonical_badReply (canonical_update hs)) (canonical_answerLaunch (canonical_doLaunch
        (canonical_update hs)))
    · exact canonical_answerLaunch (canonical_doLaunch (canonical_update hs))

theorem lands_execLaunchNofirmTimeout {launch : Nat} (hs : s.Canonical) : Lands (execLaunchNofirmTimeout launch s) := by
  unfold execLaunchNofirmTimeout
  refine lands_next ?_
  split
  · exact canonical_ite (canonical_answerLaunch hs) hs
  · exact hs

theorem canonical_saveFiring {whole : Bool} (hs : s.Canonical) : (s.saveFiring core fc whole).Canonical := by
  unfold State.saveFiring
  extract_lets -underBinder
  split
  · exact hs
  extract_lets -underBinder s1 _ s2 s3 s4 s5
  have h2 : s2.Canonical := by
    have h1 : s1.Canonical := canonical_leaveFutures (canonical_keepCts hs)
    exact canonical_ite h1 (canonical_dropSequencer h1)
  have h5 : s5.Canonical := canonical_ite_self (canonical_modCore (canonical_modCtxOf h2)) canonical_setBound
  exact canonical_finishSaves (canonical_answerAll h5)

theorem canonical_preemptNow {whole : Bool} (hs : s.Canonical) : (s.preemptNow core fc whole).Canonical := by
  unfold State.preemptNow
  split
  · exact canonical_takeTrapA (canonical_at hs)
  · exact canonical_saveFiring hs

theorem lands_execRegionDiscard (hs : s.Canonical) : Lands (execRegionDiscard core fc s) :=
  lands_next (canonical_ite (canonical_preemptNow hs) hs)

theorem lands_execWholeSave (hs : s.Canonical) : Lands (execWholeSave core fc s) :=
  lands_next (canonical_ite (canonical_preemptNow hs) hs)

theorem lands_execPreemptFiring {o : EOps} (hs : s.Canonical) : Lands (execPreemptFiring o s) :=
  lands_issue (keeps_bind keeps_get fun _ => keeps_ite (keeps_bind (keeps_writeD _ _) fun _ => keeps_pure _) (keeps_ite
    (keeps_bind (keeps_writeD _ _) fun _ => keeps_pure _) (keeps_bind (keeps_modify fun _ hs2 => canonical_modCtxOf hs2) fun _
    => keeps_bind (keeps_modCtx _) fun _ => keeps_pure _))) hs

theorem canonical_beginSave (hs : s.Canonical) : (s.beginSave rcb).Canonical :=
  State.Canonical.foldl (canonical_setRcbState hs) fun _ _ hs1 => canonical_modCore hs1

theorem lands_execPreemptRegion {o : EOps} (hs : s.Canonical) : Lands (execPreemptRegion o s) :=
  lands_issue (keeps_bind keeps_get fun _ => keeps_ite (keeps_bind (keeps_writeD _ _) fun _ => keeps_pure _) (keeps_ite
    (keeps_bind (keeps_writeD _ _) fun _ => keeps_pure _) (keeps_bind (keeps_waitUntil _ _ _) fun _ => keeps_bind (keeps_modCtx
    _) fun _ => keeps_bind (keeps_modify fun _ hs2 => canonical_finishSaves (canonical_beginSave hs2)) fun _ => keeps_pure _)))
    hs

theorem lands_execPreemptResume {o : EOps} (hs : s.Canonical) : Lands (execPreemptResume o s) :=
  lands_issueNext (keeps_bind keeps_get fun _ => keeps_ite (keeps_writeD _ _) (keeps_ite (keeps_writeD _ _) (keeps_bind
    (keeps_modify fun _ hs2 => canonical_resumeRegion hs2) fun _ => keeps_writeD _ _))) hs

theorem lands_execPageWalk {quad root : Nat} (hs : s.Canonical) : Lands (execPageWalk quad root ea s) := by
  unfold execPageWalk
  refine lands_next ?_
  split
  · exact hs
  · split
    · exact canonical_fillTlb (canonical_walked hs)
    · exact canonical_walked hs

theorem lands_execTlbi {o : EOps} (hs : s.Canonical) : Lands (execTlbi o s) :=
  lands_issueNext (keeps_bind keeps_getCtx fun _ => keeps_bind (keeps_unlessFault _ _ _) fun _ => keeps_bind keeps_cellAt fun _
    => keeps_bind keeps_fence fun _ => keeps_bind keeps_get fun _ => keeps_bind (keeps_touchNow _ _ _) fun _ => keeps_modify fun
    _ hs2 => State.Canonical.foldl hs2 fun _ _ hs3 => canonical_addFlight hs3) hs

theorem lands_execTlbiTarget {event : Nat} (hs : s.Canonical) : Lands (execTlbiTarget event s) := by
  unfold execTlbiTarget
  refine lands_next ?_
  split
  · exact canonical_ite hs (canonical_poke (canonical_update (State.Canonical.foldl (canonical_modQuad hs) fun _ _ hs1 =>
      canonical_modCore hs1)) _ _ _)
  · exact hs

theorem lands_execDmclose {o : EOps} (hs : s.Canonical) : Lands (execDmclose o s) :=
  lands_issue (keeps_bind keeps_get fun _ => keeps_bind (keeps_unlessFault _ _ _) fun _ => keeps_bind keeps_fence fun _ =>
    keeps_bind (keeps_waitUntil _ _ _) fun _ => keeps_bind (keeps_modify fun _ hs2 => canonical_modRegion hs2) fun _ =>
    keeps_bind (keeps_modCtx _) fun _ => keeps_pure _) hs

theorem canonical_applyRound {es : List DmEntry} (hs : s.Canonical) : (s.applyRound es line).Canonical :=
  canonical_setHome (State.Canonical.foldl (canonical_settleLine hs _) fun _ _ hs1 => canonical_wrNat hs1 _ _ _)

theorem canonical_closeRound {r : Region} {bad : Option Nat} (hs : s.Canonical) : (s.closeRound k fc r bad).Canonical := by
  unfold State.closeRound
  split
  · exact canonical_modCtxOf hs
  · exact canonical_takeTrapAnswer (canonical_at hs)
  · exact hs

theorem lands_execDmRoundComplete (hs : s.Canonical) : Lands (execDmRoundComplete rcb s) := by
  unfold execDmRoundComplete
  refine lands_next ?_
  split
  · exact canonical_ite (State.Canonical.foldl (canonical_modRegion (State.Canonical.foldl hs fun _ _ hs1 =>
      canonical_applyRound hs1)) fun _ _ hs1 => State.Canonical.foldl (canonical_modCore hs1) fun _ _ hs2 =>
      canonical_closeRound hs2) hs
  · exact hs

theorem lands_execLogrd {o : AOps} (hs : s.Canonical) : Lands (execLogrd o s) := by
  unfold execLogrd
  refine lands_issueNext (keeps_bind keeps_getCtx fun _ => keeps_bind (keeps_unlessFault _ _ _) fun _ => keeps_bind keeps_src
    fun _ => keeps_bind (keeps_unlessFault _ _ _) fun _ => keeps_when (keeps_modify fun _ hs1 => canonical_modRegion hs1) fun _
    => keeps_bind keeps_get fun _ => ?_) hs
  split
  · exact keeps_writeD _ _
  · exact keeps_bind keeps_freeWord fun _ => keeps_writeD _ _

theorem lands_execLogext {o : AOps} (hs : s.Canonical) : Lands (execLogext o s) :=
  lands_issueNext (keeps_bind keeps_get fun _ => keeps_ite (keeps_writeD _ _) (keeps_ite (keeps_writeD _ _) (keeps_ite
    (keeps_writeD _ _) (keeps_bind keeps_loadBytes fun _ => keeps_ite_bind (keeps_modify fun _ hs2 => canonical_modRegion hs2)
    (keeps_modify fun _ hs2 => canonical_extend hs2) fun _ => keeps_writeD _ _)))) hs

/-! ### Arrive -/

theorem canonical_withTxn {f : Txn → State} (hs : s.Canonical) (hf : ∀ (a : Txn), (f a).Canonical) : (s.withTxn id f).Canonical
    := by
  unfold State.withTxn
  split
  · exact hf _
  · exact hs

theorem canonical_performFlush {t : Txn} {inv : Bool} (hs : s.Canonical) : (s.performFlush id t inv).Canonical := by
  unfold State.performFlush
  dsimp only
  split
  · exact hs
  · refine canonical_setTxn ?_
    split
    · exact canonical_evict hs _ _
    · exact canonical_writeBack hs _ _

theorem canonical_performAt {t : Txn} (hs : s.Canonical) : (s.performAt id t).Canonical := by
  unfold State.performAt
  split
  · exact canonical_ite hs (canonical_performPool hs)
  · split
    · exact canonical_performFlush hs
    · exact canonical_homeDecide hs
  · exact canonical_performMessage hs
  · exact canonical_performMessage hs
  · exact canonical_performMerge hs

theorem lands_execRemoteAccessPerform (hs : s.Canonical) : Lands (execRemoteAccessPerform txn s) :=
  lands_next (canonical_withTxn hs fun _ => canonical_ite (canonical_performAt hs) hs)

theorem lands_execHomeRequest (hs : s.Canonical) : Lands (execHomeRequest txn s) :=
  lands_next (canonical_withTxn hs fun _ => canonical_ite (canonical_performAt hs) hs)

theorem lands_execCacheFillComplete (hs : s.Canonical) : Lands (execCacheFillComplete txn s) :=
  lands_next (canonical_withTxn hs fun _ => canonical_ite (canonical_landLine hs) hs)

theorem lands_execHcExclusiveGrant (hs : s.Canonical) : Lands (execHcExclusiveGrant txn s) :=
  lands_next (canonical_withTxn hs fun _ => canonical_ite (canonical_landLine hs) hs)

theorem lands_execUGrant (hs : s.Canonical) : Lands (execUGrant txn s) :=
  lands_next (canonical_withTxn hs fun _ => canonical_ite (canonical_landU hs) hs)

theorem lands_execHcRecall (hs : s.Canonical) : Lands (execHcRecall line s) :=
  lands_next (canonical_ite (canonical_recallHc hs _) hs)

theorem lands_execURecall (hs : s.Canonical) : Lands (execURecall line s) :=
  lands_next (canonical_ite (canonical_recallOneU hs _) hs)

theorem lands_execLoadDataReturn (hs : s.Canonical) : Lands (execLoadDataReturn txn s) := by
  unfold execLoadDataReturn
  refine lands_next (canonical_withTxn hs fun _ => ?_)
  split
  · exact canonical_ite (canonical_returnLoad hs) hs
  · exact canonical_ite (canonical_returnLoad hs) hs
  · exact hs

theorem lands_execStoreAck (hs : s.Canonical) : Lands (execStoreAck txn s) := by
  unfold execStoreAck
  refine lands_next (canonical_withTxn hs fun _ => ?_)
  split
  · exact canonical_ite (canonical_finishSaves (canonical_finishKills (canonical_ackStore hs))) hs
  · exact canonical_ite (canonical_finishSaves (canonical_finishKills (canonical_ackStore hs))) hs
  · exact hs

theorem lands_execMailboxEntryArrival (hs : s.Canonical) : Lands (execMailboxEntryArrival txn s) :=
  lands_next (canonical_withTxn hs fun _ => canonical_ite (canonical_performAt hs) hs)

theorem lands_execMailboxHeldAppend {mailbox : Nat} (hs : s.Canonical) : Lands (execMailboxHeldAppend core mailbox s) :=
  lands_next (canonical_appendHeld hs)

theorem lands_execGsendArrival (hs : s.Canonical) : Lands (execGsendArrival txn s) :=
  lands_next (canonical_withTxn hs fun _ => canonical_ite (canonical_performSlot hs) hs)

theorem lands_execMergeEntryArrival (hs : s.Canonical) : Lands (execMergeEntryArrival txn s) :=
  lands_next (canonical_withTxn hs fun _ => canonical_ite (canonical_performAt hs) hs)

/-! ### Banks -/

theorem lands_execPoolrd {o : AOps} (hs : s.Canonical) : Lands (execPoolrd o s) :=
  lands_issueNext (keeps_bind keeps_getCore fun _ => keeps_writeD _ _) hs

theorem lands_execHwmSet {o : AOps} (hs : s.Canonical) : Lands (execHwmSet o s) :=
  lands_issueNext (keeps_bind keeps_src fun _ => keeps_bind keeps_getCore fun _ => keeps_bind (keeps_unlessFault _ _ _) fun _ =>
    keeps_modCore _) hs

theorem keeps_poolset {o : AOps} {wait : Bool} : Keeps (poolset o wait) :=
  keeps_bind keeps_get fun _ => keeps_bind (keeps_modify fun _ hs1 => canonical_update hs1) fun _ => keeps_ite (keeps_waitFor _
    _) (keeps_ite (keeps_bind (keeps_writeD _ _) fun _ => keeps_pure _) (keeps_bind (keeps_modCore _) fun _ => keeps_bind
    (keeps_modCtx _) fun _ => keeps_pure _))

theorem lands_execPoolset {o : AOps} (hs : s.Canonical) : Lands (execPoolset o s) := lands_issue keeps_poolset hs

theorem lands_execPoolsetWait {o : AOps} (hs : s.Canonical) : Lands (execPoolsetWait o s) := lands_issue keeps_poolset hs

theorem canonical_freeWords {key : Nat} (hs : s.Canonical) : (s.freeWords key n).Canonical :=
  canonical_update (State.Canonical.foldl hs fun _ _ hs1 => canonical_wrNat hs1 _ _ _)

theorem canonical_moveRings {l : List (RingAt × Ring)} (hs : s.Canonical) : (s.moveRings core l).Canonical :=
  State.Canonical.foldl hs fun _ _ hs1 => canonical_setBound (canonical_update (canonical_wrBytes hs1 _ _))

theorem canonical_relocate {dep : Nat × Nat} (hs : s.Canonical) : (s.relocate core dep).Canonical := by
  unfold State.relocate
  dsimp only
  split
  · exact canonical_moveRings hs
  · split
    · exact canonical_moveRings hs
    · exact hs

theorem canonical_dropDeparting (hs : s.Canonical) : (s.dropDeparting core n).Canonical := by
  unfold State.dropDeparting
  refine canonical_update (State.Canonical.foldl hs fun _ _ hs1 => ?_)
  split
  · split
    · exact canonical_evict hs1 _ _
    · exact hs1
  · exact canonical_evictU hs1 _ _

theorem canonical_endMove (hs : s.Canonical) : (s.endMove core).Canonical := by
  unfold State.endMove
  split
  · exact hs
  extract_lets _ dep s1 s2 s3
  have h1 : s1.Canonical := by
    dsimp only [s1]
    split
    · exact canonical_dropDeparting hs
    · exact canonical_relocate hs
    · exact hs
  have h2 : s2.Canonical := by
    dsimp only [s2]
    split
    · exact canonical_zero h1 _ _
    · exact h1
  refine canonical_modCore ?_
  dsimp only [s3]
  split
  · exact canonical_freeWords h2
  · exact canonical_zero h2 _ _
  · exact h2

theorem lands_execPoolMoveDone (hs : s.Canonical) : Lands (execPoolMoveDone core s) :=
  lands_next (canonical_finishSaves (canonical_endMove hs))

theorem keeps_changeView {which : Nat} {v : View} : Keeps (changeView which v) := by
  unfold changeView
  refine keeps_bind keeps_getCore fun _ => keeps_bind (keeps_waitUntil _ _ _) fun x => keeps_bind (keeps_waitUntil _ _ _) fun _
    => ?_
  extract_lets -underBinder _ rest
  have hrest : ∀ x, Keeps (rest x) := fun _ => keeps_ite (keeps_modCore _) (keeps_bind (keeps_unlessFault _ _ _) fun _ =>
    keeps_bind (keeps_unlessFault _ _ _) fun _ => keeps_modCore _)
  split
  · split
    · exact keeps_bind (keeps_fault _ _ _) fun _ => hrest ()
    · exact hrest ()
  · exact hrest ()

theorem lands_execViewSet {o : AOps} (hs : s.Canonical) : Lands (execViewSet o s) := lands_issueNext keeps_changeView hs

theorem lands_execViewClr {o : AOps} (hs : s.Canonical) : Lands (execViewClr o s) := lands_issueNext keeps_changeView hs

theorem keeps_tileEntry {r : Reg} {tval : Option Word} : Keeps (tileEntry r tval) := by
  unfold tileEntry
  refine keeps_bind keeps_get fun _ => ?_
  split
  · exact keeps_bind (keeps_waitUntil _ _ _) fun _ => keeps_pure _
  · exact keeps_bind (keeps_unlessFault _ _ _) fun _ => keeps_pure _

theorem lands_execTset {o : AOps} (hs : s.Canonical) : Lands (execTset o s) := by
  unfold execTset
  refine lands_issueNext (keeps_bind keeps_readGReg fun _ => keeps_bind keeps_getCore fun _ => keeps_bind (keeps_unlessFault _ _
    _) fun x => keeps_bind keeps_tileEntry fun _ => ?_) hs
  extract_lets -underBinder rest
  have hrest : ∀ x, Keeps (rest x) := fun _ => keeps_bind (keeps_waitUntil _ _ _) fun _ => keeps_bind (keeps_unlessFault _ _ _)
    fun _ => keeps_modCore _
  split
  · exact keeps_bind (keeps_unlessFault _ _ _) fun _ => hrest ()
  · exact hrest ()

theorem lands_execTstat {o : AOps} (hs : s.Canonical) : Lands (execTstat o s) := by
  unfold execTstat
  refine lands_issueNext (keeps_bind keeps_tileEntry fun _ => ?_) hs
  split <;> exact keeps_writeD _ _

theorem lands_execTclr {o : AOps} (hs : s.Canonical) : Lands (execTclr o s) := by
  unfold execTclr
  refine lands_issueNext (keeps_bind keeps_tileEntry fun _ => ?_) hs
  split
  · exact keeps_fault _ _ _
  · exact keeps_ite (keeps_writeD _ _) (keeps_bind (keeps_modCore _) fun _ => keeps_writeD _ _)

/-! ### Catalogue -/

theorem canonical_insertAt {c : Catalogue} {g : Geometry} {t x v : Nat} (hs : s.Canonical) : (s.insertAt cl c g t x
    v).2.Canonical := by
  unfold State.insertAt
  dsimp only
  split
  · split
    · exact hs
    · exact canonical_setBucket hs _ _ _ _ _ _
  · split
    · exact canonical_setBucket (canonical_ite (State.Canonical.foldl hs fun _ _ hs1 => canonical_setBucket hs1 _ _ _ _ _ _) hs)
        _ _ _ _ _ _
    · split
      · exact hs
      · exact canonical_setBucket hs _ _ _ _ _ _

theorem canonical_deleteAt {c : Catalogue} {g : Geometry} {t x v : Nat} (hs : s.Canonical) : (s.deleteAt cl c g t x
    v).2.Canonical := by
  unfold State.deleteAt
  dsimp only
  split
  · exact canonical_setBucket hs _ _ _ _ _ _
  · exact hs

theorem canonical_setCat {c : Catalogue} (hs : s.Canonical) : (s.setCat cl n c).Canonical := canonical_modCluster hs

theorem canonical_updateTable {c : Catalogue} {q : CatCmd} {ins : Bool} (hs : s.Canonical) : (s.updateTable cl c q
    ins).2.Canonical := by
  unfold State.updateTable
  dsimp only
  split
  · exact hs
  · split
    · split <;> exact canonical_setCat (canonical_insertAt hs)
    · split <;> exact canonical_setCat (canonical_deleteAt hs)

theorem canonical_extendTables {w : List Nat} (hs : s.Canonical) : (s.extendTables rcb w).Canonical := canonical_extend hs

theorem canonical_define {w : List Nat} (hs : s.Canonical) : (s.define cl n rcb w).2.Canonical := by
  unfold State.define
  dsimp only
  split
  · split
    · exact hs
    · split
      · split
        · exact hs
        · split
          · exact canonical_modCluster hs
          · exact hs
      · exact hs
  · split
    · exact hs
    · split
      · exact hs
      · split
        · exact hs
        · split
          · exact hs
          · split
            · exact hs
            · exact canonical_modCluster (canonical_setCat (canonical_zeroArea hs _ _))

theorem canonical_foldl_snd {α β : Type} {f : β × State → α → β × State} {l : List α} {r : β × State} (hr : r.2.Canonical) (hf :
    ∀ r a, r.2.Canonical → (f r a).2.Canonical) : (l.foldl f r).2.Canonical := by
  induction l generalizing r with
  | nil => exact hr
  | cons a l ih => exact ih (hf r a hr)

theorem canonical_foldl_snd_snd {α β γ : Type} {f : β × γ × State → α → β × γ × State} {l : List α} {r : β × γ × State} (hr :
    r.2.2.Canonical) (hf : ∀ r a, r.2.2.Canonical → (f r a).2.2.Canonical) : (l.foldl f r).2.2.Canonical := by
  induction l generalizing r with
  | nil => exact hr
  | cons a l ih => exact ih (hf r a hr)

theorem canonical_migrateOne {c : Catalogue} {new : Geometry} (hs : s.Canonical) : (s.migrateOne cl c new).2.2.Canonical := by
  refine canonical_foldl_snd_snd (canonical_foldl_snd hs fun r _ hr => ?_) fun _ _ hr => canonical_insertAt hr
  dsimp only
  split
  · exact hr
  · exact canonical_setBucket hr _ _ _ _ _ _

theorem canonical_rehashOne {q : CatCmd} {c : Catalogue} {new : Geometry} (hs : s.Canonical) : (s.rehashOne cl q c
    new).2.Canonical := by
  unfold State.rehashOne
  split
  · exact hs
  · dsimp only
    split
    · exact canonical_extendTables (canonical_modCluster (canonical_setCat (canonical_migrateOne hs)))
    · split <;> exact canonical_setCat (canonical_migrateOne hs)

theorem canonical_rehash {q : CatCmd} {c : Catalogue} {start : Option (List Nat)} (hs : s.Canonical) : (s.rehash cl q c
    start).2.Canonical := by
  unfold State.rehash
  dsimp only
  split
  · exact canonical_rehashOne hs
  · split
    · exact hs
    · exact canonical_rehashOne hs
  · exact hs
  · split
    · exact hs
    · split
      · exact hs
      · split
        · exact hs
        · split
          · exact hs
          · exact canonical_rehashOne (canonical_zeroArea hs _ _)

theorem canonical_exchange {a b : Nat} (hs : s.Canonical) : (s.exchange cl rcb a b).2.Canonical := by
  unfold State.exchange
  dsimp only
  split
  · exact hs
  · exact canonical_modCluster (canonical_extend hs)

theorem keeps_catOf : Keeps (catOf n) := by
  unfold catOf
  refine keeps_bind keeps_get fun _ => ?_
  split
  · exact keeps_pure _
  · exact keeps_fault _ _ _

theorem keeps_catGate : Keeps catGate := keeps_bind keeps_acquired fun _ => keeps_bind keeps_get fun _ => keeps_waitUntil _ _ _

theorem keeps_catAddress {kind : Kind} {align : Nat} : Keeps (catAddress kind ea align) :=
  keeps_bind (keeps_unlessFault _ _ _) fun _ => keeps_bind keeps_whereIn fun _ => keeps_bind keeps_get fun _ =>
    keeps_unlessFault _ _ _

theorem keeps_readRecord : Keeps (readRecord ea) := keeps_bind keeps_catAddress fun _ => keeps_loadWords _ _

theorem keeps_accept {i : Instr} {d : Reg} {cat : Nat} {a b : Word} {words : List Nat} : Keeps (accept i d cat a b words) :=
  keeps_bind keeps_get fun _ => keeps_when (keeps_waitUntil _ _ _) fun _ => keeps_bind (keeps_modify fun _ hs1 =>
    canonical_modCluster (canonical_update hs1)) fun _ => keeps_modCtx _

theorem lands_execCdef {o : EOps} (hs : s.Canonical) : Lands (execCdef o s) :=
  lands_issueNext (keeps_bind keeps_catGate fun _ => keeps_bind keeps_readGReg fun _ => keeps_bind keeps_readRecord fun _ =>
    keeps_accept) hs

theorem lands_execCswap {o : EOps} (hs : s.Canonical) : Lands (execCswap o s) := by
  unfold execCswap
  refine lands_issueNext (keeps_bind keeps_catGate fun _ => keeps_bind keeps_get fun _ => keeps_bind keeps_catOf fun _ => ?_) hs
  dsimp only
  split
  · exact keeps_bind (keeps_unlessFault _ _ _) fun _ => keeps_accept
  · exact keeps_accept

theorem lands_execCstat {o : EOps} (hs : s.Canonical) : Lands (execCstat o s) :=
  lands_issueNext (keeps_bind keeps_catGate fun _ => keeps_bind keeps_catOf fun _ => keeps_accept) hs

theorem keeps_updateCheck {c : Catalogue} {k v : Word} {ins : Bool} : Keeps (updateCheck c k v ins) :=
  keeps_ite (keeps_bind (keeps_unlessFault _ _ _) fun _ => keeps_unlessFault _ _ _) (keeps_ite (keeps_unlessFault _ _ _)
    (keeps_pure ()))

theorem keeps_issueUpdate {i : Instr} {o : EOps} {ins : Bool} : Keeps (issueUpdate i o ins) :=
  keeps_bind keeps_catGate fun _ => keeps_bind keeps_getCtx fun _ => keeps_bind keeps_catOf fun _ => keeps_bind
    keeps_updateCheck fun _ => keeps_accept

theorem lands_execCins {o : EOps} (hs : s.Canonical) : Lands (execCins o s) := lands_issueNext keeps_issueUpdate hs

theorem lands_execCdel {o : EOps} (hs : s.Canonical) : Lands (execCdel o s) := lands_issueNext keeps_issueUpdate hs

theorem lands_execCprobe {o : EOps} (hs : s.Canonical) : Lands (execCprobe o s) :=
  lands_issueNext (keeps_bind keeps_catGate fun _ => keeps_bind keeps_getCtx fun _ => keeps_bind keeps_catAddress fun _ =>
    keeps_bind keeps_catAddress fun _ => keeps_bind (keeps_loadWord _) fun _ => keeps_bind (keeps_loadWord _) fun _ =>
    keeps_bind keeps_get fun _ => keeps_bind (keeps_unlessFault _ _ _) fun _ => keeps_bind (keeps_unlessFault _ _ _) fun _ =>
    keeps_bind keeps_catOf fun _ => keeps_bind (keeps_unlessFault _ _ _) fun _ => keeps_accept) hs

theorem lands_execClook {o : EOps} (hs : s.Canonical) : Lands (execClook o s) :=
  lands_issueNext (keeps_bind keeps_catGate fun _ => keeps_bind keeps_catOf fun _ => keeps_bind (keeps_unlessFault _ _ _) fun _
    => keeps_bind keeps_readGReg fun _ => keeps_accept) hs

theorem lands_execCrehash {o : EOps} (hs : s.Canonical) : Lands (execCrehash o s) :=
  lands_issueNext (keeps_bind keeps_catGate fun _ => keeps_bind keeps_getCtx fun _ => keeps_bind keeps_catOf fun _ => keeps_bind
    (keeps_unlessFault _ _ _) fun _ => keeps_ite_bind (keeps_pure _) keeps_readRecord fun _ => keeps_accept) hs

theorem lands_execCfence {o : EOps} (hs : s.Canonical) : Lands (execCfence o s) := by
  unfold execCfence
  refine lands_issueNext (keeps_bind keeps_acquired fun _ => keeps_bind keeps_get fun _ => keeps_bind (keeps_waitUntil _ _ _)
    fun _ => ?_) hs
  split
  · exact keeps_raiseTrap _
  · exact keeps_pure ()

theorem canonical_answerProbe {t : State} {q : CatCmd} {c : Catalogue} {rows : List Nat} {r : CatStep} (hs : s.Canonical) (e :
    s.answerProbe cl q c rows = .ok (r, t)) : t.Canonical := by
  unfold State.answerProbe at e
  dsimp only at e
  split at e
  · cases e
    exact hs
  split at e
  · cases e
  have hw := hs.foldl (l := (rows.take (min rows.length (bits (q.words.getD 1 0) 15 8))).zipIdx)
    (f := fun s r => s.wrNat (q.words.getD 0 0 + 4 * r.2) 4 r.1) fun _ _ hs => canonical_wrNat hs _ _ _
  split at e
  · cases e
    exact hw
  · rename_i e1
    have hl := canonical_locate hw e1
    split at e
    · cases e
    split at e
    · cases e
      exact hl
    · cases e
    · rename_i e2
      have ht := canonical_touch hl e2
      cases e
      exact canonical_ite (canonical_setCat ht) ht

theorem canonical_probeTable {t : State} {q : CatCmd} {c : Catalogue} {r : CatStep} (hs : s.Canonical) (e : s.probeTable cl q c
    = .ok (r, t)) : t.Canonical := by
  unfold State.probeTable at e
  dsimp only at e
  split at e
  · cases e
    exact hs
  split at e
  · cases e
    exact hs
  · exact canonical_answerProbe hs e

theorem canonical_applyCat {t : State} {q : CatCmd} {r : CatStep} (hs : s.Canonical) (e : s.applyCat cl q = .ok (r, t)) :
    t.Canonical := by
  have hx : ∀ {a}, (s.exchange cl q.rcb q.cat a).2.Canonical := canonical_exchange hs
  unfold State.applyCat at e
  dsimp only at e
  split at e
  · cases e
    exact canonical_ite (canonical_extendTables (canonical_define hs)) (canonical_define hs)
  split at e
  · cases e
    exact hs
  split at e
  · split at e
    · split at e
      · cases e
        exact hx
      · cases e
        exact hs
    · cases e
      exact hx
  · cases e
    exact canonical_ite (canonical_setCat hs) hs
  · simp only [Except.ok.injEq] at e
    exact (canonical_updateTable hs).of_snd e
  · simp only [Except.ok.injEq] at e
    exact (canonical_updateTable hs).of_snd e
  · split at e
    · exact canonical_probeTable hs e
    · cases e
      exact hs
  · split at e
    · cases e
      exact hs
    split at e <;>
    · cases e
      exact hs
  · simp only [Except.ok.injEq] at e
    exact (canonical_rehash hs).of_snd e
  · cases e
    exact hs

theorem canonical_takeCat (hs : s.Canonical) : (s.takeCat cl n).Canonical := canonical_modCluster hs

theorem canonical_returnCat {q : CatCmd} (hs : s.Canonical) : (s.returnCat cl n q).Canonical := canonical_modCluster hs

theorem canonical_answerCat {q : CatCmd} {v ts : Nat} (hs : s.Canonical) : (s.answerCat cl q v ts).Canonical := by
  unfold State.answerCat
  dsimp only
  split
  · refine canonical_modCtxOf ?_
    split
    · exact canonical_ite (canonical_setCat hs) hs
    · exact hs
  · exact canonical_modCtxOf hs

theorem canonical_catalogueAct {posted : Bool} (hs : s.Canonical) : (s.catalogueAct cl posted).Canonical := by
  unfold State.catalogueAct
  dsimp only
  split
  · exact hs
  · split
    · exact canonical_update hs
    · rename_i e1
      exact canonical_returnCat (canonical_applyCat (canonical_takeCat (canonical_update hs)) e1)
    · rename_i e1
      exact canonical_answerCat (canonical_applyCat (canonical_takeCat (canonical_update hs)) e1)

theorem lands_execCatalogueUpdateApply {cluster : Nat} (hs : s.Canonical) : Lands (execCatalogueUpdateApply cluster s) :=
  lands_next (canonical_catalogueAct hs)

theorem lands_execCatalogueCommandAnswer {cluster : Nat} (hs : s.Canonical) : Lands (execCatalogueCommandAnswer cluster s) :=
  lands_next (canonical_catalogueAct hs)

/-! ### Events -/

theorem lands_execLineFetch {flips : BitVec 512} (hs : s.Canonical) : Lands (execLineFetch core fc flips s) :=
  lands_next (canonical_ite (canonical_fetchLine (canonical_at hs)) hs)

theorem lands_execLineRefetch {flips : BitVec 512} (hs : s.Canonical) : Lands (execLineRefetch core fc flips s) :=
  lands_next (canonical_ite (canonical_fetchLine (canonical_at hs)) hs)

theorem lands_execTrapEntry (hs : s.Canonical) : Lands (execTrapEntry core fc s) :=
  lands_next (canonical_ite (canonical_enterTrap hs) hs)

theorem lands_execFiringStart (hs : s.Canonical) : Lands (execFiringStart core s) := by
  unfold execFiringStart
  refine lands_next ?_
  split
  · dsimp only
    split
    · exact canonical_takeTrapA (canonical_at (canonical_startFiring hs))
    · exact canonical_startFiring hs
  · exact hs

theorem canonical_copy {src dst : Nat} {l : List Nat} (hs : s.Canonical) : ({ s with mem := Memory.copy s.mem src dst n, errs :=
    l } : State).Canonical :=
  Memory.wf_copy hs _ _ _

theorem lands_execPortForward (hs : s.Canonical) : Lands (execPortForward core slot port s) := by
  refine lands_next ?_
  split
  · exact hs
  · exact canonical_refresh (canonical_refresh (canonical_setBound (canonical_setBound (canonical_copy hs))))

theorem lands_execXloopPass (hs : s.Canonical) : Lands (execXloopPass core fc s) :=
  lands_next (canonical_ite (canonical_modCtxOf hs) hs)

theorem lands_execPoolMoveRecheck (hs : s.Canonical) : Lands (execPoolMoveRecheck core fc s) := by
  unfold execPoolMoveRecheck
  dsimp only
  split
  · exact lands_ite (lands_execPoolsetWait (canonical_at hs)) (lands_next hs)
  · exact lands_next hs

theorem lands_execCoreRetentionEntry (hs : s.Canonical) : Lands (execCoreRetentionEntry core s) :=
  lands_next (canonical_ite (canonical_modCore (canonical_ite (canonical_flushAll hs) hs)) hs)

theorem lands_execCoreWake (hs : s.Canonical) : Lands (execCoreWake core s) :=
  lands_next (canonical_ite (canonical_modCore hs) hs)

theorem lands_execCtsAdvance (hs : s.Canonical) : Lands (execCtsAdvance core s) :=
  lands_next (canonical_ite (canonical_modCore hs) hs)

/-! ### SysReg -/

theorem lands_execWinSet {o : AOps} (hs : s.Canonical) : Lands (execWinSet o s) :=
  lands_issueNext (keeps_bind keeps_readGReg fun _ => keeps_bind (keeps_unlessFault _ _ _) fun _ => keeps_modCtx _) hs

theorem keeps_entriesDone : Keeps entriesDone := keeps_bind keeps_getCtx fun _ => keeps_waitUntil _ _ _

theorem lands_execSrd {o : AOps} (hs : s.Canonical) : Lands (execSrd o s) :=
  lands_issueNext (keeps_bind keeps_getCtx fun _ => keeps_bind (keeps_unlessFault _ _ _) fun _ => keeps_when keeps_entriesDone
    fun _ => keeps_bind keeps_freeWord fun _ => keeps_bind keeps_get fun _ => keeps_writeD _ _) hs

theorem lands_execSwr {o : AOps} (hs : s.Canonical) : Lands (execSwr o s) :=
  lands_issueNext (keeps_bind keeps_getCtx fun _ => keeps_bind (keeps_unlessFault _ _ _) fun _ => keeps_bind keeps_src fun _ =>
    keeps_ite (keeps_pure ()) (keeps_bind keeps_freeWord fun _ => keeps_modify fun _ hs1 => canonical_modPkg (canonical_modQuad
    (canonical_modHere (canonical_modCtx hs1))))) hs

theorem lands_execSclbaseWrite {o : AOps} (hs : s.Canonical) : Lands (execSclbaseWrite o s) :=
  lands_issueNext (keeps_bind keeps_src fun _ => keeps_bind keeps_getCore fun _ => keeps_bind (keeps_waitUntil _ _ _) fun _ =>
    keeps_modCore _) hs

theorem lands_execFlagRegisterWrite {o : AOps} (hs : s.Canonical) : Lands (execFlagRegisterWrite o s) :=
  lands_issueNext (keeps_bind keeps_src fun _ => keeps_bind keeps_entriesDone fun _ => keeps_modCtx _) hs

theorem lands_execViewRegisterWrite {o : AOps} (hs : s.Canonical) : Lands (execViewRegisterWrite o s) :=
  lands_issueNext (keeps_bind keeps_src fun _ => keeps_bind keeps_getCtx fun _ => keeps_ite (keeps_pure ()) (keeps_ite
    (keeps_throw _) (keeps_bind keeps_changeView fun _ => keeps_ite (keeps_modCore _) (keeps_pure ())))) hs

/-! ### Fabric -/

theorem canonical_setPortOf {x : Port} (hs : s.Canonical) : (s.setPortOf pkg n x).Canonical := canonical_modPkg hs

theorem canonical_linkRow {st : LinkState} {when' : Nat → Bool} {f : Port → Port} (hs : s.Canonical) : (s.linkRow pkg n st when'
    f).Canonical :=
  canonical_ite (canonical_setPortOf hs) hs

theorem canonical_freeLanes (hs : s.Canonical) : s.freeLanes.2.Canonical := canonical_takeFresh hs

theorem lands_execLinkEnable (hs : s.Canonical) : Lands (execLinkEnable pkg port s) := lands_next (canonical_linkRow hs)

theorem lands_execLinkDisable (hs : s.Canonical) : Lands (execLinkDisable pkg port s) :=
  lands_next (canonical_ite (canonical_setPortOf hs) hs)

theorem lands_execLinkRetrain (hs : s.Canonical) : Lands (execLinkRetrain pkg port s) :=
  lands_next (canonical_ite (canonical_setPortOf hs) hs)

theorem lands_execLinkAnResolved (hs : s.Canonical) : Lands (execLinkAnResolved pkg port s) := lands_next (canonical_linkRow hs)

theorem lands_execLinkAnTimeout (hs : s.Canonical) : Lands (execLinkAnTimeout pkg port s) :=
  lands_next (canonical_linkRow (canonical_update hs))

theorem lands_execLinkTrainDone (hs : s.Canonical) : Lands (execLinkTrainDone pkg port s) := lands_next (canonical_linkRow hs)

theorem lands_execLinkTrainTimeout (hs : s.Canonical) : Lands (execLinkTrainTimeout pkg port s) :=
  lands_next (canonical_linkRow hs)

theorem lands_execLinkLock (hs : s.Canonical) : Lands (execLinkLock pkg port s) := lands_next (canonical_linkRow hs)

theorem lands_execLinkLockTimeout (hs : s.Canonical) : Lands (execLinkLockTimeout pkg port s) :=
  lands_next (canonical_linkRow (canonical_freeLanes hs))

theorem lands_execLinkAssocDone (hs : s.Canonical) : Lands (execLinkAssocDone pkg port s) := lands_next (canonical_linkRow hs)

theorem lands_execLinkAssocRefused (hs : s.Canonical) : Lands (execLinkAssocRefused pkg port s) :=
  lands_next (canonical_linkRow (canonical_freeLanes hs))

theorem lands_execLinkAssocTimeout (hs : s.Canonical) : Lands (execLinkAssocTimeout pkg port s) :=
  lands_next (canonical_linkRow (canonical_freeLanes hs))

theorem lands_execLinkFail (hs : s.Canonical) : Lands (execLinkFail pkg port s) :=
  lands_next (canonical_linkRow (canonical_freeLanes hs))

theorem lands_execLinkFailedRetry (hs : s.Canonical) : Lands (execLinkFailedRetry pkg port s) :=
  lands_next (canonical_linkRow hs)

theorem lands_execFabricPacketArrival (hs : s.Canonical) : Lands (execFabricPacketArrival txn s) :=
  lands_next (canonical_withTxn hs fun _ => canonical_ite (canonical_performAt hs) hs)

theorem lands_execFabricResend (hs : s.Canonical) : Lands (execFabricResend txn s) :=
  lands_next (canonical_withTxn hs fun _ => canonical_setTxn hs)

theorem lands_execFabricTimeout (hs : s.Canonical) : Lands (execFabricTimeout txn s) :=
  lands_next (canonical_withTxn hs fun _ => canonical_ite (canonical_setTxn hs) hs)

theorem lands_execHostQueueMessage {queue endpoint : Nat} {entry : List Word} (hs : s.Canonical) : Lands (execHostQueueMessage
    pkg queue endpoint entry s) := by
  unfold execHostQueueMessage
  refine lands_next ?_
  split
  · split
    · exact canonical_deliver hs
    · exact hs
  · exact hs

theorem lands_execHostQueueLaunch {queue endpoint : Nat} {entry : List Word} (hs : s.Canonical) : Lands (execHostQueueLaunch pkg
    queue endpoint entry s) :=
  lands_next (canonical_ite (canonical_modPkg (canonical_update hs)) hs)

theorem canonical_takeRecord {r : List Byte} (hs : s.Canonical) : (s.takeRecord pkg r).2.Canonical := by
  unfold State.takeRecord
  dsimp only
  split
  · exact hs
  · split
    · exact hs
    · split
      · split
        · exact hs
        · split
          · exact canonical_update hs
          · exact canonical_modPkg (canonical_update hs)
      · split
        · exact hs
        · split
          · exact canonical_update hs
          · exact canonical_modPkg (canonical_update hs)

theorem lands_execHostQueueFirmware {queue endpoint : Nat} {entry : List Word} (hs : s.Canonical) : Lands (execHostQueueFirmware
    pkg queue endpoint entry s) :=
  lands_next (canonical_ite (canonical_postResult (canonical_takeRecord hs)) hs)

theorem canonical_pokeData {put : State → Nat → Nat → Nat → State} {l : List Byte} (hput : ∀ s a n x, s.Canonical → (put s a n
    x).Canonical) (hs : s.Canonical) : (s.pokeData put ga n l).Canonical := by
  induction n generalizing s ga l with
  | zero => exact hs
  | succ n ih =>
    cases l with
    | nil => exact hs
    | cons b l => exact ih (hput _ _ _ _ hs)

theorem lands_execOutboundAppend {queue : Nat} (hs : s.Canonical) : Lands (execOutboundAppend pkg queue s) := by
  unfold execOutboundAppend
  refine lands_next ?_
  split
  · exact hs
  extract_lets _ _ _ _ _ s1 s2 s3
  have h1 : s1.Canonical := canonical_pokeData (fun _ _ _ _ hu => canonical_poke hu _ _ _) hs
  have h3 : s3.Canonical := canonical_modPkg (canonical_poke h1 _ _ _)
  refine canonical_ite hs ?_
  split
  · split
    · exact canonical_setTxn h3
    · exact h3
  · exact h3

theorem lands_execHostWindowRead {window endpoint offset length : Nat} (hs : s.Canonical) : Lands (execHostWindowRead pkg window
    endpoint offset length s) :=
  lands_next (canonical_ite (State.Canonical.foldl hs fun _ _ hs1 => canonical_ite (canonical_settleLine hs1 _) hs1) hs)

theorem lands_execHostWindowWrite {window endpoint offset : Nat} {data : List Byte} (hs : s.Canonical) : Lands
    (execHostWindowWrite pkg window endpoint offset data s) :=
  lands_next (canonical_ite (canonical_pokeData (fun _ _ _ _ hs1 => canonical_pokeHome hs1 _ _ _) hs) hs)

theorem canonical_filter {p : Host.Cell → Bool} {errs ues cores quads clusters packages txns flights core fc half turn now fresh
    nextId tick inputs} (hs : s.Canonical) : (State.mk (s.mem.filter p) errs ues cores quads clusters packages txns flights core
    fc half turn now fresh nextId tick inputs).Canonical :=
  Memory.wf_filter hs p

theorem lands_execPowerUp (hs : s.Canonical) : Lands (execPowerUp pkg s) :=
  lands_next (canonical_ite hs (canonical_ite (canonical_modPkg (canonical_update hs)) (canonical_modPkg ((canonical_filter
    hs).foldl fun _ _ hs => canonical_modCluster hs))))

theorem lands_execThermalThrottle {die : Nat} (hs : s.Canonical) : Lands (execThermalThrottle pkg die s) :=
  lands_next (canonical_ite (canonical_update hs) hs)

theorem lands_execPowerThrottle {die : Nat} (hs : s.Canonical) : Lands (execPowerThrottle pkg die s) :=
  lands_next (canonical_ite (canonical_update hs) hs)

theorem lands_execThermalShutdown {die : Nat} (hs : s.Canonical) : Lands (execThermalShutdown pkg die s) :=
  lands_next (canonical_ite (canonical_modPkg hs) hs)

theorem canonical_spoil {key : Nat} (hs : s.Canonical) : (s.spoil key n).Canonical := canonical_update hs

theorem lands_execDramCrcRetry {site : Nat} (hs : s.Canonical) : Lands (execDramCrcRetry pkg site s) :=
  lands_next (canonical_ite (canonical_update hs) (canonical_ite (canonical_spoil (canonical_update hs)) (canonical_ite
    (canonical_spoil (canonical_update hs)) (canonical_update hs))))

theorem lands_execDramScrub {site : Nat} (hs : s.Canonical) : Lands (execDramScrub pkg site s) :=
  lands_next (canonical_ite (canonical_update hs) hs)

theorem canonical_softError (hs : s.Canonical) : (s.softError pkg).Canonical := by
  have hf : s.takeFresh.2.Canonical := canonical_takeFresh hs
  unfold State.softError
  dsimp only
  split
  · exact hf
  split
  · exact canonical_modCore hf
  · exact canonical_modQuad hf
  · exact canonical_spoil hf
  · exact canonical_spoil hf
  · split
    · exact canonical_spoil hf
    · exact hf
  · split
    · exact canonical_modCore hf
    · exact hf
  · exact canonical_modQuad hf
  · exact canonical_modQuad hf
  · exact canonical_modQuad hf
  · exact canonical_modCore hf
  · exact canonical_modCore hf
  · exact canonical_modCore hf
  · split
    · exact canonical_ite hf (canonical_modCore hf)
    · exact hf
  · split
    · exact canonical_modRegion hf
    · exact hf
  · split
    · exact canonical_spoil hf
    · exact hf
  · exact hf

theorem canonical_storageRecord (hs : s.Canonical) : (s.storageRecord ga).2.Canonical :=
  canonical_takeFresh (canonical_takeFresh (canonical_takeFresh hs))

theorem canonical_reportUe (hs : s.Canonical) : (s.reportUe core ga).Canonical := by
  unfold State.reportUe
  split
  · exact hs
  · dsimp only
    split
    · exact canonical_kill (canonical_notify (canonical_storageRecord hs))
    · exact canonical_notify (canonical_storageRecord hs)

theorem lands_execWritebackUe {sector : Nat} (hs : s.Canonical) : Lands (execWritebackUe core line sector s) := by
  unfold execWritebackUe
  refine lands_next ?_
  split
  · exact hs
  · exact canonical_ite (canonical_reportUe (canonical_modCore hs)) hs

theorem canonical_reportNext (hs : s.Canonical) : s.reportNext.Canonical := by
  unfold State.reportNext
  split
  · exact canonical_ite (canonical_reportUe (canonical_update hs)) (canonical_update hs)
  · exact hs

/-! ### Lanes -/

theorem keeps_waitGranules {reads writes : List (Nat × Nat)} {own : List Nat} : Keeps (waitGranules reads writes own) :=
  keeps_bind keeps_getCore fun _ => keeps_bind (keeps_waitUntil _ _ _) fun _ => keeps_waitUntil _ _ _

theorem keeps_soundBytes {reads : List (Nat × Nat)} : Keeps (soundBytes reads) :=
  keeps_bind keeps_get fun _ => keeps_unlessFault _ _ _

theorem keeps_entryGranules {reads writes : List (Nat × Nat)} : Keeps (entryGranules reads writes) :=
  keeps_bind keeps_getCtx fun _ => keeps_bind keeps_waitGranules fun _ => keeps_soundBytes

theorem keeps_viewCheck {l : List Reg} : Keeps (viewCheck l) := by
  unfold viewCheck
  refine keeps_bind keeps_getCtx fun _ => ?_
  split
  · exact keeps_pure ()
  · refine keeps_bind keeps_getCore fun _ => ?_
    split
    · exact keeps_fault _ _ _
    · exact keeps_pure ()

theorem keeps_passCheck {l : List Reg} : Keeps (passCheck l) := by
  unfold passCheck
  refine keeps_bind keeps_getCtx fun _ => ?_
  split
  · refine keeps_bind keeps_getCore fun _ => ?_
    split
    · exact keeps_fault _ _ _
    · exact keeps_pure ()
  · exact keeps_pure ()

theorem keeps_vectorCheck {o : XOps} : Keeps (vectorCheck o) :=
  keeps_bind keeps_get fun _ => keeps_bind (keeps_unlessFault _ _ _) fun _ => keeps_bind keeps_viewCheck fun _ => keeps_pure _

theorem keeps_passFields {o : XOps} : Keeps (passFields o) :=
  keeps_bind keeps_getCtx fun _ => keeps_bind keeps_passCheck fun _ => keeps_bind keeps_getCore fun _ => keeps_bind keeps_getCtx
    fun _ => keeps_bind keeps_waitGranules fun _ => keeps_pure _

theorem keeps_readVector {g : BitVec 2} : Keeps (readVector g k) :=
  keeps_bind keeps_get fun _ => keeps_bind (keeps_unlessFault _ _ _) fun _ => keeps_bind (keeps_unlessFault _ _ _) fun _ =>
    keeps_pure _

theorem keeps_laneSource {g : BitVec 2} {r : Reg} {x : Word} {w : Nat} : Keeps (laneSource g r x w) := by
  unfold laneSource
  split
  · exact keeps_readVector
  · exact keeps_popX
  · exact keeps_pure _

theorem keeps_writeVector {r : Reg} {v : V256} : Keeps (writeVector r v) := by
  unfold writeVector
  split
  · exact keeps_modify fun _ hs => canonical_writeV hs _ _ _
  · exact keeps_pushX
  · exact keeps_pure ()

theorem keeps_writeResult {r : Reg} {v : Word} : Keeps (writeResult r v) :=
  keeps_bind keeps_getCtx fun _ => keeps_ite (keeps_writeD _ _) (keeps_pure ())

theorem lands_vector {i : Instr} {o : XOps} {run : Hd → XEntry → Act Unit} (hrun : ∀ (a : Hd) (a_1 : XEntry), Keeps (run a a_1))
    (hs : s.Canonical) : Lands (vector i o run s) :=
  lands_xslot (fun _ => keeps_srcW) (fun _ _ _ => keeps_vectorCheck) (fun _ => keeps_bind keeps_passFields fun _ => hrun _ _) hs

theorem lands_laneWise {i : Instr} {o : XOps} {f : Nat → Nat → Nat → Nat → Nat × Flags} (hs : s.Canonical) : Lands (laneWise i o
    f s) :=
  lands_vector (fun _ _ => keeps_bind keeps_laneSource fun _ => keeps_bind keeps_laneSource fun _ => keeps_bind keeps_laneSource
    fun _ => keeps_bind keeps_drawStep fun _ => keeps_bind keeps_trapRequest fun _ => keeps_bind keeps_writeVector fun _ =>
    keeps_raiseFlags) hs

theorem lands_laneMap {i : Instr} {o : XOps} {f : Nat → Nat → Nat → Nat} (hs : s.Canonical) : Lands (laneMap i o f s) :=
  lands_vector (fun _ _ => keeps_bind keeps_laneSource fun _ => keeps_bind keeps_laneSource fun _ => keeps_bind keeps_laneSource
    fun _ => keeps_writeVector) hs

/-! ### Vector -/

theorem lands_execVadd {o : XOps} (hs : s.Canonical) : Lands (execVadd o s) := lands_laneWise hs

theorem lands_execVsub {o : XOps} (hs : s.Canonical) : Lands (execVsub o s) := lands_laneWise hs

theorem lands_execVmul {o : XOps} (hs : s.Canonical) : Lands (execVmul o s) := lands_laneWise hs

theorem lands_execVmin {o : XOps} (hs : s.Canonical) : Lands (execVmin o s) := lands_laneWise hs

theorem lands_execVmax {o : XOps} (hs : s.Canonical) : Lands (execVmax o s) := lands_laneWise hs

theorem lands_execVabs {o : XOps} (hs : s.Canonical) : Lands (execVabs o s) := lands_laneMap hs

theorem lands_execVneg {o : XOps} (hs : s.Canonical) : Lands (execVneg o s) := lands_laneMap hs

theorem lands_execVfma {o : XOps} (hs : s.Canonical) : Lands (execVfma o s) := lands_laneWise hs

theorem lands_execVfms {o : XOps} (hs : s.Canonical) : Lands (execVfms o s) := lands_laneWise hs

theorem lands_execVfnma {o : XOps} (hs : s.Canonical) : Lands (execVfnma o s) := lands_laneWise hs

theorem lands_execVcmp {o : XOps} (hs : s.Canonical) : Lands (execVcmp o s) :=
  lands_vector (fun _ _ => keeps_bind keeps_laneSource fun _ => keeps_bind keeps_laneSource fun _ => keeps_bind
    keeps_trapRequest fun _ => keeps_bind keeps_writeVector fun _ => keeps_raiseFlags) hs

theorem lands_execVsel {o : XOps} (hs : s.Canonical) : Lands (execVsel o s) := lands_laneMap hs

theorem lands_execVclass {o : XOps} (hs : s.Canonical) : Lands (execVclass o s) := lands_laneMap hs

theorem lands_execVcvt {o : XOps} (hs : s.Canonical) : Lands (execVcvt o s) :=
  lands_vector (fun _ _ => keeps_bind (keeps_unlessFault _ _ _) fun _ => keeps_bind keeps_laneSource fun _ => keeps_bind
    keeps_drawStep fun _ => keeps_bind keeps_trapRequest fun _ => keeps_bind keeps_writeVector fun _ => keeps_bind
    keeps_raiseFlags fun _ => keeps_raiseSat) hs

theorem keeps_reduceTree {rm w : Nat} {f : Nat → Nat → Nat → Nat × Flags} {l : List (Nat × List Flags)} : Keeps (reduceTree rm w
    f n l) := by
  induction n generalizing l with
  | zero => exact keeps_pure _
  | succ n ih => exact keeps_ite (keeps_pure _) (keeps_bind keeps_drawStep fun _ => ih)

theorem lands_reduction {i : Instr} {o : XOps} {f : Nat → Nat → Nat → Nat × Flags} (hs : s.Canonical) : Lands (reduction i o f
    s) :=
  lands_vector (fun _ _ => keeps_bind keeps_laneSource fun _ => keeps_bind keeps_reduceTree fun _ => keeps_bind
    keeps_trapRequest fun _ => keeps_bind keeps_writeVector fun _ => keeps_raiseFlags) hs

theorem lands_execVrsum {o : XOps} (hs : s.Canonical) : Lands (execVrsum o s) := lands_reduction hs

theorem lands_execVrmax {o : XOps} (hs : s.Canonical) : Lands (execVrmax o s) := lands_reduction hs

theorem lands_execVrmin {o : XOps} (hs : s.Canonical) : Lands (execVrmin o s) := lands_reduction hs

theorem lands_bitwise {i : Instr} {o : XOps} {f : V256 → V256 → V256} (hs : s.Canonical) : Lands (bitwise i o f s) :=
  lands_vector (fun _ _ => keeps_bind keeps_laneSource fun _ => keeps_bind keeps_laneSource fun _ => keeps_writeVector) hs

theorem lands_execVand {o : XOps} (hs : s.Canonical) : Lands (execVand o s) := lands_bitwise hs

theorem lands_execVor {o : XOps} (hs : s.Canonical) : Lands (execVor o s) := lands_bitwise hs

theorem lands_execVxor {o : XOps} (hs : s.Canonical) : Lands (execVxor o s) := lands_bitwise hs

theorem lands_execVandn {o : XOps} (hs : s.Canonical) : Lands (execVandn o s) := lands_bitwise hs

theorem lands_laneShift {i : Instr} {o : XOps} {f : Nat → Nat → Nat} (hs : s.Canonical) : Lands (laneShift i o f s) :=
  lands_vector (fun _ _ => keeps_bind keeps_laneSource fun _ => keeps_bind keeps_laneSource fun _ => keeps_writeVector) hs

theorem lands_execVshl {o : XOps} (hs : s.Canonical) : Lands (execVshl o s) := lands_laneShift hs

theorem lands_execVshr {o : XOps} (hs : s.Canonical) : Lands (execVshr o s) := lands_laneShift hs

theorem lands_execVsra {o : XOps} (hs : s.Canonical) : Lands (execVsra o s) := lands_laneShift hs

theorem lands_saturating {i : Instr} {o : XOps} {f : Int → Int → Int} (hs : s.Canonical) : Lands (saturating i o f s) :=
  lands_vector (fun _ _ => keeps_bind keeps_laneSource fun _ => keeps_bind keeps_laneSource fun _ => keeps_bind
    keeps_writeVector fun _ => keeps_raiseSat) hs

theorem lands_execVadds {o : XOps} (hs : s.Canonical) : Lands (execVadds o s) := lands_saturating hs

theorem lands_execVsubs {o : XOps} (hs : s.Canonical) : Lands (execVsubs o s) := lands_saturating hs

theorem lands_execVmulh {o : XOps} (hs : s.Canonical) : Lands (execVmulh o s) := lands_laneMap hs

theorem lands_execVperm {o : XOps} (hs : s.Canonical) : Lands (execVperm o s) :=
  lands_vector (fun _ _ => keeps_bind keeps_laneSource fun _ => keeps_bind keeps_laneSource fun _ => keeps_writeVector) hs

theorem lands_execVbcast {o : XOps} (hs : s.Canonical) : Lands (execVbcast o s) :=
  lands_vector (fun _ _ => keeps_bind keeps_laneSource fun _ => keeps_ite (keeps_bind (keeps_unlessFault _ _ _) fun _ =>
    keeps_writeVector) keeps_writeVector) hs

theorem lands_execVrot {o : XOps} (hs : s.Canonical) : Lands (execVrot o s) :=
  lands_vector (fun _ _ => keeps_bind keeps_laneSource fun _ => keeps_writeVector) hs

theorem keeps_halfOf {x : Word} : Keeps (halfOf x) := keeps_bind (keeps_unlessFault _ _ _) fun _ => keeps_pure _

theorem lands_execVzip {o : XOps} (hs : s.Canonical) : Lands (execVzip o s) :=
  lands_vector (fun _ _ => keeps_bind keeps_halfOf fun _ => keeps_bind keeps_laneSource fun _ => keeps_bind keeps_laneSource fun
    _ => keeps_writeVector) hs

theorem lands_execVunzip {o : XOps} (hs : s.Canonical) : Lands (execVunzip o s) :=
  lands_vector (fun _ _ => keeps_bind keeps_halfOf fun _ => keeps_bind keeps_laneSource fun _ => keeps_bind keeps_laneSource fun
    _ => keeps_writeVector) hs

theorem lands_execVcomp {o : XOps} (hs : s.Canonical) : Lands (execVcomp o s) :=
  lands_vector (fun _ _ => keeps_bind keeps_laneSource fun _ => keeps_bind keeps_laneSource fun _ => keeps_writeVector) hs

theorem lands_execVext {o : XOps} (hs : s.Canonical) : Lands (execVext o s) :=
  lands_vector (fun _ _ => keeps_bind (keeps_unlessFault _ _ _) fun _ => keeps_bind keeps_laneSource fun _ => keeps_writeResult)
    hs

theorem lands_execVins {o : XOps} (hs : s.Canonical) : Lands (execVins o s) :=
  lands_vector (fun _ _ => keeps_bind (keeps_unlessFault _ _ _) fun _ => keeps_bind keeps_readVector fun _ => keeps_writeVector)
    hs

theorem lands_execVmov {o : XOps} (hs : s.Canonical) : Lands (execVmov o s) :=
  lands_vector (fun _ _ => keeps_bind keeps_laneSource fun _ => keeps_writeVector) hs

theorem lands_execVsign {o : XOps} (hs : s.Canonical) : Lands (execVsign o s) :=
  lands_vector (fun _ _ => keeps_bind keeps_laneSource fun _ => keeps_writeResult) hs

theorem lands_execVrand {o : XOps} (hs : s.Canonical) : Lands (execVrand o s) :=
  lands_vector (fun _ _ => keeps_bind keeps_takeCounters fun _ => keeps_bind keeps_get fun _ => keeps_writeVector) hs

/-! ### Matrix -/

theorem keeps_needTile {r : Reg} : Keeps (needTile r) := by
  unfold needTile
  refine keeps_bind keeps_tileEntry fun _ => ?_
  split
  · exact keeps_pure _
  · exact keeps_fault _ _ _

theorem keeps_tileError {t : Tile} : Keeps (tileError t) := by
  unfold tileError
  split
  · exact keeps_fault _ _ _
  · exact keeps_pure ()

theorem keeps_tileReady {t : Tile} : Keeps (tileReady t) :=
  keeps_bind (keeps_waitUntil _ _ _) fun _ => keeps_bind keeps_getCore fun _ => keeps_waitUntil _ _ _

theorem keeps_readScales {l : List Nat} : Keeps (readScales l) := by
  induction l with
  | nil => exact keeps_pure _
  | cons off l ih =>
    exact keeps_bind keeps_get fun _ => keeps_bind (keeps_unlessFault _ _ _) fun _ =>
      keeps_bind (keeps_waitUntil _ _ _) fun _ => keeps_bind (keeps_unlessFault _ _ _) fun _ =>
      keeps_bind ih fun _ => keeps_pure _

theorem keeps_shapeCheck {shape : Nat} : Keeps (shapeCheck shape) := keeps_bind keeps_getCore fun _ => keeps_unlessFault _ _ _

theorem keeps_productTiles {h : Hd} {f : Fmt} {read : Option (List Nat)} : Keeps (productTiles h f read) := by
  unfold productTiles
  refine keeps_bind keeps_shapeCheck fun _ => keeps_bind keeps_needTile fun _ => keeps_bind keeps_needTile fun _ => keeps_bind
    (keeps_unlessFault _ _ _) fun _ => keeps_bind (keeps_unlessFault _ _ _) fun _ => keeps_bind keeps_tileError fun _ =>
    keeps_bind keeps_tileError fun _ => ?_
  split
  · exact keeps_pure _
  · exact keeps_ite keeps_readScales (keeps_pure _)

theorem keeps_productCheck {h : Hd} {f : Fmt} {read : Option (List Nat)} : Keeps (productCheck h f read) :=
  keeps_bind keeps_productTiles fun _ => keeps_bind keeps_needTile fun _ => keeps_bind keeps_tileReady fun _ => keeps_bind
    keeps_needTile fun _ => keeps_bind keeps_tileReady fun _ => keeps_pure _

theorem keeps_passPrep {check : Option (List Nat) → Act Prep} (hcheck : ∀ (a : Option (List Nat)), Keeps (check a)) : Keeps
    (passPrep check) :=
  keeps_bind keeps_getCtx fun _ => keeps_ite (keeps_bind (hcheck _) fun _ => keeps_bind (keeps_modCore _) fun _ => keeps_modCtx
    _) (keeps_pure ())

theorem keeps_fusedProduct {f : Fmt} {rm cols : Nat} {a b : List (List FV)} {z : List (Nat × Flags)} : Keeps (fusedProduct f rm
    cols a b n k z) := by
  induction n generalizing k z with
  | zero => exact keeps_pure _
  | succ n ih => exact keeps_bind keeps_drawStep fun _ => ih

theorem keeps_writeAccumulator {cols : Nat} {r : List (Nat × Flags)} : Keeps (writeAccumulator k cols r) :=
  keeps_modify fun _ hs => canonical_modHere (State.Canonical.foldl hs fun _ _ hs1 => canonical_writeZ hs1 _ _ _ _ _)

theorem keeps_product {h : Hd} {f : Fmt} {half : Nat} {scales : List Nat} : Keeps (product h f half scales) := by
  unfold product
  refine keeps_bind keeps_get fun _ => ?_
  dsimp only
  split
  · exact keeps_ite (keeps_bind keeps_fusedProduct fun _ => keeps_writeAccumulator) (keeps_bind keeps_drawStep fun _ =>
      keeps_writeAccumulator)
  · exact keeps_pure ()

theorem keeps_sparseCheck {h : Hd} {f : Fmt} {scales : List Nat} : Keeps (sparseCheck h f scales) := by
  unfold sparseCheck
  refine keeps_bind keeps_get fun _ => ?_
  split
  · split
    · exact keeps_fault _ _ _
    · split
      · exact keeps_fault _ _ _
      · exact keeps_pure ()
  · exact keeps_pure ()

theorem keeps_tileSound {r : Reg} : Keeps (tileSound r) := keeps_bind keeps_get fun _ => keeps_unlessFault _ _ _

theorem keeps_streamHas {rm steps e w : Nat} : Keeps (streamHas rm steps e w) :=
  keeps_bind keeps_getCtx fun _ => keeps_unlessFault _ _ _

theorem keeps_startProduct {i : Instr} {o : TOps} {sparse : Bool} : Keeps (startProduct i o sparse) :=
  keeps_bind keeps_getCtx fun _ => keeps_bind keeps_passCheck fun _ => keeps_bind (keeps_passPrep fun _ => keeps_productCheck)
    fun _ => keeps_bind keeps_getCore fun _ => keeps_bind (keeps_waitUntil _ _ _) fun _ => keeps_bind keeps_entryGranules fun _
    => keeps_bind keeps_tileSound fun _ => keeps_bind keeps_tileSound fun _ => keeps_bind keeps_streamHas fun _ => keeps_ite
    (keeps_bind keeps_getCtx fun _ => keeps_sparseCheck) (keeps_pure ())

theorem lands_matrixEntry {i : Instr} {o : TOps} {check : Word → Word → Word → Act Prep} {start : XEntry → Act Unit} (hcheck : ∀
    (a a_1 a_2 : Word), Keeps (check a a_1 a_2)) (hstart : ∀ (a : XEntry), Keeps (start a)) (hs : s.Canonical) : Lands
    (matrixEntry i o check start s) :=
  lands_xslotWith (fun _ => keeps_srcW) (fun _ _ _ => hcheck _ _ _) (fun _ => hstart _) hs

theorem lands_productEntry {i : Instr} {o : TOps} {sparse : Bool} (hs : s.Canonical) : Lands (productEntry i o sparse s) :=
  lands_matrixEntry (fun _ _ _ => keeps_bind keeps_viewCheck fun _ => keeps_productCheck) (fun _ => keeps_startProduct) hs

theorem lands_execMma {o : TOps} (hs : s.Canonical) : Lands (execMma o s) := lands_productEntry hs

theorem lands_execMmaS {o : TOps} (hs : s.Canonical) : Lands (execMmaS o s) := lands_productEntry hs

theorem lands_execDmma {o : TOps} (hs : s.Canonical) : Lands (execDmma o s) := lands_productEntry hs

theorem keeps_mscaleCheck {o : TOps} {gl : Word} : Keeps (mscaleCheck o gl) :=
  keeps_bind keeps_shapeCheck fun _ => keeps_ite (keeps_pure _) (keeps_bind (keeps_unlessFault _ _ _) fun _ => keeps_bind
    keeps_readScales fun _ => keeps_pure _)

theorem lands_execMscale {o : TOps} (hs : s.Canonical) : Lands (execMscale o s) :=
  lands_matrixEntry (fun _ _ _ => keeps_bind keeps_viewCheck fun _ => keeps_mscaleCheck) (fun _ => keeps_bind keeps_getCtx fun _
    => keeps_bind keeps_passCheck fun _ => keeps_bind (keeps_passPrep fun _ => keeps_mscaleCheck) fun _ => keeps_bind
    keeps_getCore fun _ => keeps_bind keeps_entryGranules fun _ => keeps_streamHas) hs

theorem keeps_scaleAccumulator {o : TOps} {h : Hd} {e : XEntry} : Keeps (scaleAccumulator o h e) :=
  keeps_bind keeps_drawStep fun _ => keeps_bind keeps_get fun _ => keeps_writeAccumulator

theorem lands_execMzero {o : TOps} (hs : s.Canonical) : Lands (execMzero o s) :=
  lands_matrixEntry (fun _ _ _ => keeps_bind keeps_viewCheck fun _ => keeps_pure _) (fun _ => keeps_bind keeps_getCtx fun _ =>
    keeps_bind keeps_passCheck fun _ => keeps_bind keeps_getCore fun _ => keeps_entryGranules) hs

theorem lands_execMflags {o : TOps} (hs : s.Canonical) : Lands (execMflags o s) :=
  lands_matrixEntry (fun _ _ _ => keeps_bind keeps_viewCheck fun _ => keeps_pure _) (fun _ => keeps_bind keeps_getCtx fun _ =>
    keeps_bind keeps_passCheck fun _ => keeps_bind keeps_getCore fun _ => keeps_bind keeps_entryGranules fun _ =>
    keeps_waitUntil _ _ _) hs

theorem keeps_takeTile {seq : Nat} {own : Option Nat} : Keeps (takeTile n seq own) := by
  unfold takeTile
  refine keeps_bind keeps_get fun _ => ?_
  split
  · exact keeps_pure ()
  · exact keeps_bind (keeps_waitUntil _ _ _) fun _ => keeps_bind (keeps_waitUntil _ _ _) fun _ => keeps_modCore _

theorem keeps_takeFor {e : XEntry} : Keeps (takeFor n e) := keeps_bind keeps_get fun _ => keeps_takeTile

theorem keeps_mxposeCheck {h : Hd} : Keeps (mxposeCheck h) :=
  keeps_bind keeps_needTile fun _ => keeps_bind (keeps_unlessFault _ _ _) fun _ => keeps_bind (keeps_unlessFault _ _ _) fun _ =>
    keeps_bind keeps_tileError fun _ => keeps_bind keeps_tileReady fun _ => keeps_pure _

theorem lands_execMxpose {o : TOps} (hs : s.Canonical) : Lands (execMxpose o s) := by
  unfold execMxpose
  refine lands_matrixEntry (fun _ _ _ => keeps_mxposeCheck) (fun _ => keeps_bind keeps_getCtx fun _ => keeps_bind
    (keeps_passPrep fun _ => keeps_mxposeCheck) fun _ => keeps_bind keeps_needTile fun _ => keeps_bind keeps_tileEntry fun _ =>
    ?_) hs
  split
  · exact keeps_bind (keeps_unlessFault _ _ _) fun _ => keeps_bind keeps_entryGranules fun _ => keeps_bind keeps_tileSound fun _
      => keeps_takeFor
  · exact keeps_fault _ _ _

theorem keeps_mcvtCheck {o : TOps} : Keeps (mcvtCheck o) :=
  keeps_bind keeps_getCore fun _ => keeps_bind (keeps_unlessFault _ _ _) fun _ => keeps_pure _

theorem lands_execMcvt {o : TOps} (hs : s.Canonical) : Lands (execMcvt o s) :=
  lands_matrixEntry (fun _ _ _ => keeps_bind keeps_viewCheck fun _ => keeps_mcvtCheck) (fun _ => keeps_bind keeps_getCtx fun _
    => keeps_bind keeps_passCheck fun _ => keeps_bind (keeps_passPrep fun _ => keeps_mcvtCheck) fun _ => keeps_bind
    keeps_needTile fun _ => keeps_bind keeps_getCore fun _ => keeps_bind (keeps_unlessFault _ _ _) fun _ => keeps_bind
    keeps_entryGranules fun _ => keeps_bind keeps_streamHas fun _ => keeps_takeFor) hs

theorem keeps_convertAccumulator {o : TOps} {h : Hd} : Keeps (convertAccumulator o h) := by
  unfold convertAccumulator
  refine keeps_bind keeps_get fun _ => ?_
  dsimp only
  split
  · exact keeps_pure ()
  · split
    · exact keeps_pure ()
    · exact keeps_bind keeps_drawStep fun _ => keeps_modify fun _ hs1 => canonical_modHere (State.Canonical.foldl hs1 fun _ _
        hs2 => canonical_writeTile hs2 _ _ _ _ _)

theorem keeps_transposeTile {h : Hd} : Keeps (transposeTile h) := by
  unfold transposeTile
  refine keeps_bind keeps_get fun _ => ?_
  split
  · exact keeps_modify fun _ hs1 => canonical_modHere (State.Canonical.foldl hs1 fun _ _ hs2 => canonical_writeTile hs2 _ _ _ _
      _)
  · exact keeps_pure ()

theorem keeps_matrixResult {e : XEntry} : Keeps (matrixResult e) := by
  unfold matrixResult
  refine keeps_bind keeps_getCtx fun _ => ?_
  split
  · exact keeps_product
  · exact keeps_product
  · exact keeps_product
  · exact keeps_scaleAccumulator
  · exact keeps_bind keeps_getCore fun _ => keeps_bind keeps_writeAccumulator fun _ => keeps_modCore _
  · exact keeps_bind keeps_getCore fun _ => keeps_when keeps_pushX fun _ => keeps_modCore _
  · exact keeps_convertAccumulator
  · exact keeps_transposeTile
  · exact keeps_pure ()

theorem lands_execMatrixEntryComplete (hs : s.Canonical) : Lands (execMatrixEntryComplete core fc s) := by
  unfold execMatrixEntryComplete
  refine lands_next ?_
  split
  · split
    · split
      · exact hs
      · split
        · rename_i e2
          exact canonical_modCtx (canonical_modHere (Keeps.ok keeps_matrixResult (canonical_at hs) e2))
        · exact hs
    · exact hs
  · exact hs

theorem keeps_takeEntries {k : Count} : Keeps (takeEntries k n) := by
  induction n with
  | zero => exact keeps_pure _
  | succ n ih =>
    exact keeps_bind keeps_needPosted fun _ => keeps_bind keeps_newId fun _ => keeps_bind (keeps_modCtx _) fun _ =>
      keeps_bind ih fun _ => keeps_pure _

theorem keeps_mdrainCheck {ga : Word} {head : Bool} : Keeps (mdrainCheck ga head) :=
  keeps_bind (keeps_unlessFault _ _ _) fun _ => keeps_bind (keeps_resolve _ _ _) fun _ => keeps_bind keeps_get fun _ =>
    keeps_ite (keeps_pure _) (keeps_bind keeps_needPosted fun _ => keeps_bind keeps_takeEntries fun _ => keeps_pure _)

theorem canonical_launchTaken {t : Txn} {k : Count} (hs : s.Canonical) : (s.launchTaken id t k).Canonical :=
  canonical_modCtxOf (canonical_setTxn hs)

theorem keeps_drainSelf : Keeps (drainSelf k ga n) := by
  induction n with
  | zero => exact keeps_pure _
  | succ n ih =>
    exact keeps_bind keeps_get fun _ => keeps_bind (keeps_waitUntil _ _ _) fun _ =>
      keeps_ite_bind (keeps_modify fun _ hs => canonical_wrBytes hs _ _) (keeps_modCtx _) fun _ => ih

theorem lands_execMdrain {o : TOps} (hs : s.Canonical) : Lands (execMdrain o s) :=
  lands_matrixEntry (fun _ _ _ => keeps_bind keeps_viewCheck fun _ => keeps_mdrainCheck) (fun _ => keeps_bind keeps_getCtx fun _
    => keeps_bind keeps_passCheck fun _ => keeps_bind (keeps_passPrep fun _ => keeps_mdrainCheck) fun _ => keeps_bind
    keeps_acquired fun _ => keeps_bind keeps_getCore fun _ => keeps_bind keeps_entryGranules fun _ => keeps_bind keeps_get fun _
    => keeps_ite keeps_drainSelf (keeps_modify fun _ hs2 => State.Canonical.foldl hs2 fun _ _ hs3 => canonical_launchTaken hs3))
    hs

theorem lands_execMdrainWake (hs : s.Canonical) : Lands (execMdrainWake core fc s) := by
  unfold execMdrainWake
  refine lands_next ?_
  split
  · split
    · split
      · exact canonical_modCtx (canonical_ite (canonical_modCtx (canonical_at hs)) (canonical_launchTaken (canonical_at hs)))
      · exact hs
    · exact hs
  · exact hs

theorem keeps_rowParts {kind : Kind} {row : Nat} {l : List (Nat × Nat)} : Keeps (rowParts kind row ea l) := by
  induction l with
  | nil => exact keeps_pure _
  | cons p l ih =>
    obtain ⟨a, m⟩ := p
    unfold rowParts
    refine keeps_read fun s hs => keeps_bind (keeps_waitUntil _ _ _) fun _ => ?_
    dsimp only
    split
    · exact keeps_fault _ _ _
    · rename_i e
      refine keeps_bind (keeps_waitUntil _ _ _) fun _ => ?_
      split
      · exact keeps_bind (keeps_fault _ _ _) fun _ => keeps_bind ih fun _ => keeps_pure _
      · exact keeps_bind (keeps_write (canonical_translate hs e)) fun _ => keeps_bind ih fun _ => keeps_pure _

theorem keeps_allRows {kind : Kind} {base : Nat} {stride : Word} {r : Nat} : Keeps (allRows kind base stride n k r) := by
  induction k generalizing r with
  | zero => exact keeps_pure _
  | succ k ih => exact keeps_bind keeps_rowParts fun _ => keeps_bind ih fun _ => keeps_pure _

theorem keeps_rowAlign {a stride : Word} : Keeps (rowAlign a stride) :=
  keeps_bind (keeps_unlessFault _ _ _) fun _ => keeps_unlessFault _ _ _

theorem keeps_afterAccesses {seq : Nat} : Keeps (afterAccesses seq) := keeps_bind keeps_get fun _ => keeps_waitUntil _ _ _

theorem lands_execMload {o : TOps} (hs : s.Canonical) : Lands (execMload o s) :=
  lands_xslot (fun _ => keeps_srcW) (fun _ _ _ => keeps_bind keeps_rowAlign fun _ => keeps_pure _) (fun _ => keeps_bind
    keeps_getCtx fun _ => keeps_bind keeps_needTile fun _ => keeps_bind keeps_afterAccesses fun _ => keeps_bind keeps_allRows
    fun _ => keeps_bind keeps_entryGranules fun _ => keeps_bind keeps_takeFor fun _ => keeps_modify fun _ hs1 =>
    canonical_modHere hs1) hs

theorem lands_execMloadFillComplete {tile : Nat} (hs : s.Canonical) : Lands (execMloadFillComplete core tile s) := by
  refine lands_next ?_
  split
  · exact hs
  · split
    · exact canonical_modCore hs
    · extract_lets endFill k p s1
      have hs1 : s1.Canonical := hs
      split
      · exact hs1
      · exact canonical_modCore hs1
      · rename_i e
        have ht := canonical_touch hs1 e
        refine canonical_ite (canonical_modCore ?_) (canonical_modCore ?_)
        all_goals
          split
          · exact canonical_landRow (canonical_modCtxOf ht) _ _ _ _ _
          · exact canonical_modCtxOf ht

theorem keeps_mstoreCheck {h : Hd} {a stride : Word} : Keeps (mstoreCheck h a stride) :=
  keeps_bind keeps_rowAlign fun _ => keeps_bind keeps_needTile fun _ => keeps_bind keeps_tileError fun _ => keeps_bind
    keeps_tileReady fun _ => keeps_bind keeps_needPosted fun _ => keeps_bind keeps_takeEntries fun _ => keeps_pure _

theorem canonical_postRow {t : Tile} {parts : List Part} (hs : s.Canonical) : (s.postRow t id parts).Canonical := by
  unfold State.postRow
  dsimp only
  split
  · exact hs
  · exact canonical_launchTaken (State.Canonical.foldl hs fun _ _ hs1 => canonical_claimFor hs1)

theorem lands_execMstore {o : TOps} (hs : s.Canonical) : Lands (execMstore o s) :=
  lands_matrixEntry (fun _ _ _ => keeps_mstoreCheck) (fun _ => keeps_bind keeps_getCtx fun _ => keeps_bind (keeps_passPrep fun _
    => keeps_mstoreCheck) fun _ => keeps_bind keeps_needTile fun _ => keeps_bind keeps_afterAccesses fun _ => keeps_bind
    keeps_allRows fun _ => keeps_bind (keeps_waitUntil _ _ _) fun _ => keeps_bind keeps_entryGranules fun _ => keeps_bind
    keeps_tileSound fun _ => keeps_bind (keeps_modCore _) fun _ => keeps_bind keeps_getCtx fun _ => keeps_modify fun _ hs1 =>
    State.Canonical.foldl hs1 fun _ _ hs2 => canonical_postRow hs2) hs

theorem lands_execMstoreDrainComplete (hs : s.Canonical) : Lands (execMstoreDrainComplete core fc s) := by
  unfold execMstoreDrainComplete
  refine lands_next ?_
  split
  · split
    · split
      · exact canonical_modCtx (canonical_modHere (canonical_at hs))
      · exact hs
    · exact hs
  · exact hs

/-! ### Heliostat -/

theorem keeps_engineWhere {c : Cmd} {kind : Kind} : Keeps (engineWhere c kind ea) := by
  unfold engineWhere
  refine keeps_read fun s hs => keeps_bind (keeps_waitUntil _ _ _) fun _ => ?_
  split
  · exact keeps_pure _
  · rename_i e
    exact keeps_bind (keeps_waitUntil _ _ _) fun _ => keeps_bind (keeps_write (canonical_translate hs e)) fun _ => keeps_pure _

theorem keeps_engineTouch {c : Cmd} {kind : Kind} {f : Nat → Option Nat} : Keeps (engineTouch c kind ea n f) := by
  unfold engineTouch
  refine keeps_bind (keeps_unlessFault _ _ _) fun _ => keeps_bind keeps_engineWhere fun _ => ?_
  split
  · exact keeps_refuse _
  · refine keeps_read fun s hs => ?_
    split
    · exact keeps_refuse _
    · split
      · exact keeps_throw _
      · rename_i e1
        exact keeps_bind (keeps_write (canonical_touch hs e1)) fun _ => keeps_pure _

theorem keeps_engineRead {c : Cmd} : Keeps (engineRead c ea n) := keeps_bind keeps_engineTouch fun _ => keeps_pure _

theorem keeps_engineWrite {c : Cmd} {x : Nat} {later : List (Nat × Nat)} : Keeps (engineWrite c ea n x later) := by
  unfold engineWrite
  refine keeps_bind keeps_engineTouch fun _ => ?_
  dsimp only
  split
  · exact keeps_pure _
  · exact keeps_bind (keeps_modify fun _ hs => canonical_dropClaim hs) fun _ => keeps_pure _

theorem keeps_claimLine {c : Cmd} : Keeps (claimLine c ea) := by
  unfold claimLine
  refine keeps_bind keeps_engineWhere fun _ => ?_
  split
  · exact keeps_modify fun _ hs => canonical_claimFor hs
  · exact keeps_pure ()

theorem keeps_claimRanges {c : Cmd} {l : List (Nat × Nat)} : Keeps (claimRanges c l) :=
  keeps_forM (fun _ => keeps_ite (keeps_pure _) (keeps_forM (fun _ => keeps_claimLine) _)) _

theorem keeps_cmdTile {r : Reg} {ok : Tile → Bool} : Keeps (cmdTile r ok) :=
  keeps_bind keeps_needTile fun _ => keeps_bind (keeps_unlessFault _ _ _) fun _ => keeps_pure _

theorem keeps_queueCmd {i : Instr} {ch : Nat} {a b c dst : Word} {follow : Bool} : Keeps (queueCmd i ch a b c dst follow) := by
  unfold queueCmd
  refine keeps_bind keeps_get fun _ => keeps_bind (keeps_waitUntil _ _ _) fun x => keeps_bind keeps_newId fun _ => keeps_bind
    (keeps_modify fun _ hs1 => canonical_modCluster hs1) fun _ => ?_
  extract_lets -underBinder rest
  have hrest : ∀ x, Keeps (rest x) := by
    intro _
    dsimp -zeta only [rest]
    split
    · exact keeps_modCore _
    · exact keeps_pure ()
  exact keeps_bind (hrest _) fun _ => keeps_bind (hrest _) fun _ => keeps_bind keeps_get fun _ => keeps_claimRanges

theorem keeps_align16 {x : Word} : Keeps (align16 x) := keeps_unlessFault _ _ _

theorem keeps_align32 {x : Word} : Keeps (align32 x) := keeps_unlessFault _ _ _

theorem keeps_smoothCheck {t : Option Tile} {k : Word} : Keeps (smoothCheck t k) :=
  keeps_bind (keeps_unlessFault _ _ _) fun _ => keeps_bind keeps_getCore fun _ => keeps_unlessFault _ _ _

theorem lands_execHcopy {o : EOps} (hs : s.Canonical) : Lands (execHcopy o s) :=
  lands_issueNext (keeps_bind keeps_getCtx fun _ => keeps_ite (keeps_bind keeps_cmdTile fun _ => keeps_bind (keeps_unlessFault _
    _ _) fun _ => keeps_when keeps_smoothCheck fun _ => keeps_bind keeps_align16 fun _ => keeps_queueCmd) (keeps_bind
    (keeps_unlessFault _ _ _) fun _ => keeps_when keeps_smoothCheck fun _ => keeps_bind keeps_align16 fun _ => keeps_bind
    keeps_align16 fun _ => keeps_queueCmd)) hs

theorem lands_execHgath {o : EOps} (hs : s.Canonical) : Lands (execHgath o s) :=
  lands_issueNext (keeps_bind keeps_getCtx fun _ => keeps_bind keeps_cmdTile fun _ => keeps_bind (keeps_unlessFault _ _ _) fun _
    => keeps_bind keeps_align32 fun _ => keeps_queueCmd) hs

theorem lands_execHscat {o : EOps} (hs : s.Canonical) : Lands (execHscat o s) :=
  lands_issueNext (keeps_bind keeps_getCtx fun _ => keeps_bind keeps_cmdTile fun _ => keeps_bind (keeps_unlessFault _ _ _) fun _
    => keeps_bind keeps_align32 fun _ => keeps_queueCmd) hs

theorem lands_execHpack {o : EOps} (hs : s.Canonical) : Lands (execHpack o s) :=
  lands_issueNext (keeps_bind keeps_readGReg fun _ => keeps_bind keeps_cmdTile fun _ => keeps_bind keeps_align32 fun _ =>
    keeps_queueCmd) hs

theorem lands_execHunpk {o : EOps} (hs : s.Canonical) : Lands (execHunpk o s) :=
  lands_issueNext (keeps_bind keeps_readGReg fun _ => keeps_bind keeps_cmdTile fun _ => keeps_bind keeps_align32 fun _ =>
    keeps_queueCmd) hs

theorem lands_execHwait {o : EOps} (hs : s.Canonical) : Lands (execHwait o s) := by
  unfold execHwait
  refine lands_issueNext (keeps_bind keeps_get fun _ => ?_) hs
  dsimp only
  split
  · exact keeps_bind (keeps_waitUntil _ _ _) fun _ => keeps_bind (keeps_modCtx _) fun _ => keeps_writeD _ _
  · refine keeps_bind keeps_needTile fun _ => ?_
    split
    · exact keeps_bind (keeps_waitUntil _ _ _) fun _ => keeps_bind (keeps_modCtx _) fun _ => keeps_writeD _ _
    · exact keeps_writeD _ _

theorem lands_execHcancel {o : EOps} (hs : s.Canonical) : Lands (execHcancel o s) :=
  lands_issueNext (keeps_bind keeps_get fun _ => keeps_bind (keeps_modify fun _ hs2 => canonical_finishSaves
    (State.Canonical.foldl hs2 fun _ _ hs3 => canonical_cancelCmd hs3)) fun _ => keeps_writeD _ _) hs

theorem canonical_setCmd {c : Cmd} (hs : s.Canonical) : (s.setCmd c).Canonical := canonical_modCluster hs

theorem keeps_takeTiles {c : Cmd} : Keeps (takeTiles c) := by
  unfold takeTiles
  refine keeps_bind keeps_afterAccesses fun x => ?_
  extract_lets -underBinder rest
  have hrest : ∀ x, Keeps (rest x) := by
    intro _
    dsimp -zeta only [rest]
    split
    · exact keeps_bind keeps_needTile fun _ => keeps_bind keeps_tileError fun _ => keeps_bind (keeps_waitUntil _ _ _) fun _ =>
        keeps_modCore _
    · exact keeps_pure ()
  split
  · exact keeps_bind keeps_needTile fun _ => keeps_bind keeps_takeTile fun _ => hrest ()
  · exact hrest ()

theorem keeps_listRows {c : Cmd} {list base stride : Nat} : Keeps (listRows c list base stride n k) := by
  induction n generalizing k with
  | zero => exact keeps_pure _
  | succ n ih => exact keeps_bind keeps_engineRead fun _ => keeps_bind ih fun _ => keeps_pure _

theorem keeps_readDescriptor {c : Cmd} : Keeps (readDescriptor c) := by
  unfold readDescriptor
  extract_lets _ word4 gather pointers
  have hword4 : Keeps word4 := keeps_bind keeps_engineRead fun _ => keeps_bind keeps_engineRead fun _ =>
    keeps_bind keeps_engineRead fun _ => keeps_bind keeps_engineRead fun _ => keeps_pure _
  have hgather : Keeps gather := keeps_bind hword4 fun _ => keeps_bind (keeps_unlessFault _ _ _) fun _ =>
    keeps_bind (keeps_unlessFault _ _ _) fun _ => keeps_listRows
  have hpointers : Keeps pointers := keeps_bind hword4 fun _ => keeps_bind (keeps_unlessFault _ _ _) fun _ => keeps_pure _
  split
  · exact hgather
  · exact hgather
  · exact hpointers
  · exact hpointers
  · exact keeps_pure _

theorem canonical_failAddress {c : Cmd} {index : Nat} (hs : s.Canonical) : (s.failAddress c index).2.Canonical := by
  unfold State.failAddress
  split
  · exact hs
  · exact hs
  · dsimp only
    split <;> exact canonical_takeFresh hs
  · exact canonical_takeFresh hs

theorem canonical_failCmd {c : Cmd} {index cause : Nat} (hs : s.Canonical) : (s.failCmd c index cause).Canonical := by
  unfold State.failCmd
  refine canonical_setCmd ?_
  split
  · exact canonical_modCore (canonical_failAddress (canonical_releaseClaims (canonical_setTileState (canonical_setTileState
      hs))))
  · exact canonical_releaseClaims (canonical_setTileState (canonical_setTileState hs))

theorem canonical_startCmd {t : State} {c : Cmd} (hs : s.Canonical) (e : s.startCmd c = some t) : t.Canonical := by
  unfold State.startCmd at e
  dsimp only at e
  split at e
  · cases e
  · cases e
    exact canonical_setCmd (canonical_releaseClaims (canonical_at hs))
  · rename_i e1
    have h1 := keeps_takeTiles.ok (canonical_at hs) e1
    split at e
    · cases e
    · cases e
      exact canonical_failCmd (canonical_countWalk h1)
    · rename_i e2
      have h2 := keeps_readDescriptor.ok h1 e2
      split at e
      · rename_i e3
        cases e
        exact keeps_claimRanges.ok (canonical_setCmd h2) e3
      · cases e

theorem lands_execHeliostatCommandStart {cluster channel : Nat} (hs : s.Canonical) : Lands (execHeliostatCommandStart cluster
    channel s) := by
  unfold execHeliostatCommandStart
  refine lands_next ?_
  split
  · split
    · rename_i e1
      exact canonical_update (canonical_startCmd hs e1)
    · exact hs
  · exact hs

theorem keeps_divisorsReady {c : Cmd} {t : Tile} {row off : Nat} : Keeps (divisorsReady c t row off) :=
  keeps_bind keeps_get fun _ => keeps_bind (keeps_waitUntil _ _ _) fun _ => keeps_bind (keeps_unlessFault _ _ _) fun _ =>
    keeps_unlessFault _ _ _

theorem keeps_landUnit {c : Cmd} {row off x : Nat} : Keeps (landUnit c n row off x) := by
  unfold landUnit
  refine keeps_read fun s hs => ?_
  split
  · exact keeps_write (canonical_landRow hs _ _ _ _ _)
  · exact keeps_pure ()

theorem keeps_moved {c : Cmd} {ts flags : Nat} : Keeps (moved c ts flags) := keeps_modify fun _ hs => canonical_setCmd hs

theorem keeps_copyUnit {c : Cmd} {o : EOps} : Keeps (copyUnit c o) := by
  unfold copyUnit
  refine keeps_bind keeps_get fun _ => keeps_bind keeps_engineRead fun _ => ?_
  split
  · exact keeps_when keeps_divisorsReady fun _ => keeps_bind keeps_landUnit fun _ => keeps_moved
  · exact keeps_bind keeps_engineWrite fun _ => keeps_moved

theorem keeps_rowUnit {c : Cmd} : Keeps (rowUnit c) := by
  unfold rowUnit
  refine keeps_bind keeps_get fun _ => ?_
  split
  · split
    · dsimp only
      split
      · exact keeps_bind keeps_engineRead fun _ => keeps_bind keeps_landUnit fun _ => keeps_moved
      · exact keeps_bind (keeps_pure _) fun _ => keeps_bind keeps_landUnit fun _ => keeps_moved
    · exact keeps_moved
  · split
    · dsimp only
      split
      · exact keeps_bind keeps_engineWrite fun _ => keeps_moved
      · exact keeps_moved
    · exact keeps_moved
  · exact keeps_moved

theorem keeps_unpackRow {c : Cmd} {colidx values cols m j : Nat} {row : List Nat} : Keeps (unpackRow c colidx values n cols m j
    row) := by
  induction m generalizing j row with
  | zero => exact keeps_pure _
  | succ m ih =>
    exact keeps_bind keeps_engineRead fun _ =>
      keeps_ite ih (keeps_ite (keeps_pure _) (keeps_bind keeps_engineRead fun _ => ih))

theorem keeps_packRow {c : Cmd} {later : List (Nat × Nat)} {colidx values m j ts : Nat} {l : List (Nat × Nat)} : Keeps (packRow
    c later colidx values n m j l ts) := by
  induction m generalizing j l ts with
  | zero => exact keeps_pure _
  | succ m ih => exact keeps_bind keeps_engineWrite fun _ => keeps_bind keeps_engineWrite fun _ => ih

theorem keeps_rowRange {c : Cmd} {i : Nat} : Keeps (rowRange c i) :=
  keeps_bind keeps_engineRead fun _ => keeps_bind keeps_engineRead fun _ => keeps_bind (keeps_unlessFault _ _ _) fun _ =>
    keeps_pure _

theorem keeps_pointerRow {c : Cmd} : Keeps (pointerRow c) := by
  unfold pointerRow
  refine keeps_bind keeps_get fun _ => keeps_bind keeps_rowRange fun _ => ?_
  dsimp only
  split
  · split
    · refine keeps_bind keeps_unpackRow fun _ => ?_
      split
      · exact keeps_bind (keeps_modify fun _ hs1 => canonical_landRow hs1 _ _ _ _ _) fun _ => keeps_moved
      · exact keeps_fault _ _ _
    · exact keeps_moved
  · split
    · exact keeps_bind keeps_packRow fun _ => keeps_moved
    · exact keeps_moved
  · exact keeps_moved

theorem keeps_moveUnit {c : Cmd} : Keeps (moveUnit c) := by
  unfold moveUnit
  split
  · exact keeps_copyUnit
  · exact keeps_rowUnit
  · exact keeps_rowUnit
  · exact keeps_pointerRow

theorem keeps_followCheck {h : Hd} {f : Fmt} : Keeps (followCheck h f) := by
  unfold followCheck
  refine keeps_bind keeps_getCore fun _ => ?_
  dsimp only
  split
  · exact keeps_bind (keeps_fault _ _ _) fun _ => keeps_productTiles
  · exact keeps_productTiles

theorem canonical_failFollow {c : Cmd} {cause : Nat} (hs : s.Canonical) : (s.failFollow c cause).Canonical :=
  canonical_setCmd (canonical_modCore hs)

theorem canonical_holdTile {t : State} {c d : Cmd} (hs : s.Canonical) (e : s.holdTile c n = .ok (t, d)) : t.Canonical := by
  unfold State.holdTile at e
  split at e
  · split at e
    · cases e
    · split at e
      · cases e
        exact canonical_modCore hs
      · cases e
        exact hs
  · cases e
    exact hs

theorem canonical_holdTiles {c : Cmd} {h : Hd} (hs : s.Canonical) : (s.holdTiles c h).1.Canonical := by
  unfold State.holdTiles
  split
  · exact canonical_failFollow hs
  · rename_i e
    split
    · exact canonical_failFollow (canonical_holdTile hs e)
    · rename_i e1
      exact canonical_setCmd (canonical_holdTile (canonical_holdTile hs e) e1)

theorem canonical_checkFollow {c : Cmd} (hs : s.Canonical) : (s.checkFollow c).Canonical := by
  unfold State.checkFollow
  split
  · split
    · exact canonical_failFollow hs
    · exact hs
    · exact canonical_holdTiles hs
  · exact hs

theorem canonical_endData {c : Cmd} (hs : s.Canonical) : (s.endData c).Canonical :=
  canonical_checkFollow (canonical_setCmd (canonical_releaseClaims (canonical_setTileState (canonical_setTileState hs))))

theorem lands_execHeliostatCommandComplete {cmd : Nat} (hs : s.Canonical) : Lands (execHeliostatCommandComplete cmd s) := by
  unfold execHeliostatCommandComplete
  refine lands_next ?_
  split
  · exact hs
  · split
    · exact hs
    · split
      · exact canonical_endData hs
      · split
        · rename_i e2
          exact canonical_update (Keeps.ok keeps_moveUnit (canonical_at hs) e2)
        · exact canonical_failCmd (canonical_countWalk hs)
        · exact hs
    · exact canonical_ite (canonical_finishSaves (canonical_endCmd hs)) hs

theorem keeps_followProduct {c : Cmd} {o : TOps} {f : Fmt} {sparse : Bool} : Keeps (followProduct c o f sparse) :=
  keeps_bind (keeps_waitUntil _ _ _) fun _ => keeps_bind keeps_getCore fun _ => keeps_bind (keeps_waitUntil _ _ _) fun _ =>
    keeps_bind keeps_waitGranules fun _ => keeps_bind keeps_soundBytes fun _ => keeps_bind keeps_tileSound fun _ => keeps_bind
    keeps_tileSound fun _ => keeps_when keeps_sparseCheck fun _ => keeps_bind keeps_product fun _ => keeps_modCore _

theorem lands_execFollowOnProduct {cmd : Nat} (hs : s.Canonical) : Lands (execFollowOnProduct cmd s) := by
  unfold execFollowOnProduct
  refine lands_next ?_
  split
  · split
    · split
      · exact canonical_checkFollow hs
      · dsimp only
        split
        · exact canonical_holdTiles hs
        · split
          · rename_i e3
            exact canonical_setCmd (canonical_update (Keeps.ok keeps_followProduct (canonical_at (canonical_holdTiles hs)) e3))
          · exact canonical_failFollow (canonical_holdTiles hs)
          · exact canonical_holdTiles hs
    · exact hs
  · exact hs

/-! ### Sfu -/

theorem lands_special {i : Instr} {g : Sfu} {o : XOps} (hs : s.Canonical) : Lands (special i g o s) := lands_laneWise hs

theorem lands_execDiv {o : XOps} (hs : s.Canonical) : Lands (execDiv o s) := lands_laneWise hs

theorem lands_execSqrt {o : XOps} (hs : s.Canonical) : Lands (execSqrt o s) := lands_special hs

theorem lands_execRcp {o : XOps} (hs : s.Canonical) : Lands (execRcp o s) := lands_special hs

theorem lands_execRsq {o : XOps} (hs : s.Canonical) : Lands (execRsq o s) := lands_special hs

theorem lands_execExp {o : XOps} (hs : s.Canonical) : Lands (execExp o s) := lands_special hs

theorem lands_execExpB2 {o : XOps} (hs : s.Canonical) : Lands (execExpB2 o s) := lands_special hs

theorem lands_execLog {o : XOps} (hs : s.Canonical) : Lands (execLog o s) := lands_special hs

theorem lands_execLogB2 {o : XOps} (hs : s.Canonical) : Lands (execLogB2 o s) := lands_special hs

theorem lands_execSin {o : XOps} (hs : s.Canonical) : Lands (execSin o s) := lands_special hs

theorem lands_execCos {o : XOps} (hs : s.Canonical) : Lands (execCos o s) := lands_special hs

theorem lands_execTanh {o : XOps} (hs : s.Canonical) : Lands (execTanh o s) := lands_special hs

theorem lands_execTanhSig {o : XOps} (hs : s.Canonical) : Lands (execTanhSig o s) := lands_special hs

theorem lands_execErf {o : XOps} (hs : s.Canonical) : Lands (execErf o s) := lands_special hs

/-! ### Orrery -/

theorem keeps_writeImage {x : Nat} : Keeps (writeImage k n x) := keeps_modify fun _ hs => canonical_writeReg hs _ _ _ _

theorem keeps_graphActor : Keeps graphActor := by
  unfold graphActor
  refine keeps_bind keeps_get fun _ => ?_
  split
  · exact keeps_ite (keeps_pure _) (keeps_fault _ _ _)
  · exact keeps_fault _ _ _

theorem keeps_blockWords : Keeps (blockWords ea n) := keeps_bind (keeps_loadWords _ _) fun _ => keeps_pure _

theorem keeps_slotSound {g : Graph} {l : List Nat} : Keeps (slotSound g n l) := by
  unfold slotSound
  refine keeps_bind keeps_get fun _ => ?_
  split
  · exact keeps_fault _ _ _
  · exact keeps_pure ()

theorem keeps_graphForm {f : Fmt} {seq : Nat} : Keeps (graphForm f seq) := by
  unfold graphForm
  refine keeps_bind keeps_graphActor fun _ => keeps_bind keeps_afterAccesses fun _ => keeps_bind (keeps_loadWord _) fun _ =>
    keeps_bind (keeps_unlessFault _ _ _) fun _ => keeps_bind (keeps_unlessFault _ _ _) fun _ => keeps_bind keeps_get fun _ =>
    keeps_bind (keeps_waitUntil _ _ _) fun _ => keeps_bind keeps_slotSound fun _ => ?_
  split
  · exact keeps_fault _ _ _
  · exact keeps_pure _

theorem keeps_readSlots {g : Graph} {skip : Nat} : Keeps (readSlots g skip) :=
  keeps_bind keeps_get fun _ => keeps_bind keeps_slotSound fun _ => keeps_pure _

theorem keeps_outSlotAt {g : Graph} {f : Fmt} {e : Word} : Keeps (outSlotAt g f e) :=
  keeps_bind (keeps_unlessFault _ _ _) fun _ => keeps_bind keeps_blockWords fun _ => keeps_bind (keeps_unlessFault _ _ _) fun _
    => keeps_bind (keeps_unlessFault _ _ _) fun _ => keeps_pure _

theorem keeps_spanCheck {l : List (Reg × Nat)} : Keeps (spanCheck l) :=
  keeps_bind keeps_viewCheck fun _ => keeps_bind keeps_getCtx fun _ => keeps_unlessFault _ _ _

theorem keeps_spanPassCheck {l : List (Reg × Nat)} : Keeps (spanPassCheck l) :=
  keeps_bind keeps_passCheck fun _ => keeps_bind keeps_getCtx fun _ => keeps_unlessFault _ _ _

theorem lands_graphEntry {i : Instr} {o : XOps} {reads writes : Bool → Hd → List (Reg × Nat)} {run : Hd → XEntry → Act Unit}
    (hrun : ∀ (a : Hd) (a_1 : XEntry), Keeps (run a a_1)) (hs : s.Canonical) : Lands (graphEntry i o reads writes run s) :=
  lands_xslot (fun _ => keeps_srcW) (fun _ _ _ => keeps_bind keeps_get fun _ => keeps_bind keeps_spanCheck fun _ => keeps_pure
    _) (fun _ => keeps_bind keeps_getCtx fun _ => keeps_bind keeps_get fun _ => keeps_bind keeps_spanPassCheck fun _ =>
    keeps_bind keeps_getCore fun _ => keeps_bind keeps_entryGranules fun _ => hrun _ _) hs

theorem keeps_sumVariable {g : Graph} {f : Fmt} {rm skip : Nat} : Keeps (sumVariable g f rm skip) :=
  keeps_bind keeps_readSlots fun _ => keeps_bind keeps_blockWords fun _ => keeps_pure _

theorem keeps_sumFactor {g : Graph} {f : Fmt} {rm skip : Nat} : Keeps (sumFactor g f rm skip) :=
  keeps_bind keeps_readSlots fun _ => keeps_bind keeps_blockWords fun _ => keeps_ite_bind (keeps_loadWord _) (keeps_pure _) fun
    _ => keeps_pure _

theorem keeps_drifted {g : Graph} {f : Fmt} {l : List (Nat × Nat)} : Keeps (drifted g f l) := by
  induction l with
  | nil => exact keeps_pure _
  | cons p l ih => exact keeps_bind keeps_blockWords fun _ => keeps_bind ih fun _ => keeps_pure _

theorem lands_execGbel {o : XOps} (hs : s.Canonical) : Lands (execGbel o s) :=
  lands_graphEntry (fun _ _ => keeps_bind keeps_graphActor fun _ => keeps_bind (keeps_unlessFault _ _ _) fun _ => keeps_bind
    keeps_graphForm fun _ => keeps_bind (keeps_unlessFault _ _ _) fun _ => keeps_bind keeps_sumVariable fun _ => keeps_bind
    keeps_trapRequest fun _ => keeps_bind keeps_writeImage fun _ => keeps_bind (keeps_storeWords _ _) fun _ => keeps_raiseFlags)
    hs

theorem lands_execGcomb {o : XOps} (hs : s.Canonical) : Lands (execGcomb o s) := by
  unfold execGcomb
  refine lands_graphEntry (fun _ _ => keeps_bind keeps_graphActor fun _ => keeps_bind (keeps_unlessFault _ _ _) fun _ =>
    keeps_bind keeps_graphForm fun _ => ?_) hs
  dsimp only
  split
  · exact keeps_bind (keeps_unlessFault _ _ _) fun _ => keeps_bind keeps_sumVariable fun _ => keeps_bind keeps_trapRequest fun _
      => keeps_bind keeps_writeImage fun _ => keeps_raiseFlags
  · exact keeps_bind (keeps_unlessFault _ _ _) fun _ => keeps_bind keeps_sumFactor fun _ => keeps_bind keeps_trapRequest fun _
      => keeps_ite (keeps_bind (keeps_pure _) fun _ => keeps_bind keeps_writeImage fun _ => keeps_ite (keeps_bind
      (keeps_loadWord _) fun _ => keeps_bind (keeps_storeWord _ _) fun _ => keeps_raiseFlags) keeps_raiseFlags) (keeps_bind
      keeps_readSlots fun _ => keeps_bind keeps_drifted fun _ => keeps_bind keeps_writeImage fun _ => keeps_ite (keeps_bind
      (keeps_loadWord _) fun _ => keeps_bind (keeps_storeWord _ _) fun _ => keeps_raiseFlags) keeps_raiseFlags)

theorem lands_execGmarg {o : XOps} (hs : s.Canonical) : Lands (execGmarg o s) :=
  lands_graphEntry (fun _ _ => keeps_bind keeps_graphForm fun _ => keeps_bind (keeps_unlessFault _ _ _) fun _ => keeps_bind
    (keeps_unlessFault _ _ _) fun _ => keeps_bind keeps_get fun _ => keeps_bind (keeps_unlessFault _ _ _) fun _ => keeps_bind
    keeps_trapRequest fun _ => keeps_bind keeps_writeImage fun _ => keeps_raiseFlags) hs

theorem keeps_messageOperand {f : Fmt} {d : Nat} {tval : Word} : Keeps (messageOperand f d k tval) :=
  keeps_bind keeps_get fun _ => keeps_bind (keeps_unlessFault _ _ _) fun _ => keeps_pure _

theorem lands_execGdamp {o : XOps} (hs : s.Canonical) : Lands (execGdamp o s) :=
  lands_graphEntry (fun _ _ => keeps_bind keeps_graphForm fun _ => keeps_bind keeps_outSlotAt fun _ => keeps_bind
    keeps_messageOperand fun _ => keeps_bind keeps_trapRequest fun _ => keeps_bind keeps_writeImage fun _ => keeps_raiseFlags)
    hs

theorem lands_execGres {o : XOps} (hs : s.Canonical) : Lands (execGres o s) :=
  lands_graphEntry (fun _ _ => keeps_bind keeps_graphForm fun _ => keeps_bind keeps_outSlotAt fun _ => keeps_bind
    keeps_messageOperand fun _ => keeps_bind (keeps_resolve _ _ _) fun _ => keeps_bind keeps_writeNow fun _ => keeps_bind
    keeps_writeResult fun _ => keeps_modify fun _ hs1 => canonical_modHere hs1) hs

theorem lands_execGsend {o : XOps} (hs : s.Canonical) : Lands (execGsend o s) :=
  lands_graphEntry (fun _ _ => keeps_bind keeps_graphForm fun _ => keeps_bind keeps_outSlotAt fun _ => keeps_bind
    keeps_messageOperand fun _ => keeps_ite (keeps_pure ()) (keeps_bind keeps_get fun _ => keeps_bind (keeps_waitUntil _ _ _)
    fun _ => keeps_bind (keeps_waitUntil _ _ _) fun _ => keeps_bind (keeps_storeWords _ _) fun _ => keeps_ite (keeps_modify fun
    _ hs2 => canonical_arrive hs2) (keeps_bind keeps_needPosted fun _ => keeps_bind (keeps_modify fun _ hs2 => canonical_launch
    hs2) fun _ => keeps_ite (keeps_modCore _) (keeps_pure ())))) hs

theorem lands_execGmean {o : XOps} (hs : s.Canonical) : Lands (execGmean o s) :=
  lands_graphEntry (fun _ _ => keeps_bind keeps_graphForm fun _ => keeps_bind keeps_get fun _ => keeps_bind (keeps_unlessFault _
    _ _) fun _ => keeps_bind keeps_trapRequest fun _ => keeps_bind keeps_writeImage fun _ => keeps_raiseFlags) hs

theorem canonical_pokeSlot {img : Nat} (hs : s.Canonical) : (s.pokeSlot core rcb ea img).Canonical :=
  State.Canonical.foldl hs fun _ _ hs1 => canonical_pokeVirt hs1 _ _ _ _ _

theorem canonical_attach {r : EdgeRec} {x : Ends} (hs : s.Canonical) : (s.attach rcb r x).Canonical := by
  unfold State.attach
  refine canonical_raiseDebt (canonical_raiseDebt (canonical_pokeSlot (canonical_pokeSlot (canonical_wrNat (canonical_wrNat ?_ _
    _ _) _ _ _))))
  split
  · exact canonical_ite (canonical_record hs) (canonical_ite (canonical_record hs) hs)
  · exact hs

theorem canonical_detach {r : EdgeRec} {x : Ends} (hs : s.Canonical) : (s.detach rcb r x).Canonical :=
  canonical_pokeVirt (canonical_pokeVirt (canonical_wrNat (canonical_wrNat hs _ _ _) _ _ _) _ _ _ _ _) _ _ _ _ _

theorem lands_edgeForm {i : Instr} {o : XOps} {attach : Bool} (hs : s.Canonical) : Lands (edgeForm i o attach s) := by
  unfold edgeForm
  refine lands_issueNext (keeps_bind keeps_readGReg fun _ => keeps_bind (keeps_unlessFault _ _ _) fun _ => keeps_bind
    (keeps_loadWords _ _) fun _ => keeps_bind keeps_get fun _ => ?_) hs
  dsimp only
  split
  · exact keeps_bind (keeps_waitUntil _ _ _) fun _ => keeps_bind (keeps_modify fun _ hs2 => canonical_ite (canonical_attach hs2)
      (canonical_detach hs2)) fun _ => keeps_writeD _ _
  · exact keeps_writeD _ _

theorem lands_execGatt {o : XOps} (hs : s.Canonical) : Lands (execGatt o s) := lands_edgeForm hs

theorem lands_execGdet {o : XOps} (hs : s.Canonical) : Lands (execGdet o s) := lands_edgeForm hs

theorem canonical_startCut {name : Nat} (hs : s.Canonical) : (s.startCut rcb name).Canonical :=
  State.Canonical.foldl (canonical_modRegion (canonical_poke hs _ _ _)) fun _ _ hs1 => canonical_update hs1

theorem lands_execGcut {o : XOps} (hs : s.Canonical) : Lands (execGcut o s) :=
  lands_issueNext (keeps_bind keeps_readGReg fun _ => keeps_bind (keeps_unlessFault _ _ _) fun _ => keeps_bind keeps_get fun _
    => keeps_ite (keeps_writeD _ _) (keeps_ite (keeps_writeD _ _) (keeps_bind (keeps_modify fun _ hs2 => canonical_startCut hs2)
    fun _ => keeps_writeD _ _))) hs

theorem keeps_resolveBlocks : Keeps (resolveBlocks ea n) := by
  induction n generalizing ea with
  | zero => exact keeps_pure _
  | succ n ih => exact keeps_bind (keeps_resolve _ _ _) fun _ => keeps_bind ih fun _ => keeps_pure _

theorem lands_execGcutrd {o : XOps} (hs : s.Canonical) : Lands (execGcutrd o s) := by
  unfold execGcutrd
  refine lands_issue (keeps_movePieces (keeps_bind keeps_graphActor fun _ => keeps_bind keeps_readGReg fun _ => keeps_bind
    keeps_readGReg fun _ => keeps_bind keeps_get fun _ => ?_)) hs
  split
  · exact keeps_fault _ _ _
  · exact keeps_ite (keeps_bind (keeps_unlessFault _ _ _) fun _ => keeps_bind keeps_resolveBlocks fun _ => keeps_bind
      keeps_ownRanges fun _ => keeps_pure _) (keeps_pure _)

theorem lands_execCvrd {o : XOps} (hs : s.Canonical) : Lands (execCvrd o s) :=
  lands_issueNext (keeps_bind keeps_graphActor fun _ => keeps_bind keeps_get fun _ => keeps_when (keeps_modCore _) fun _ =>
    keeps_writeD _ _) hs

theorem lands_execCutStartArrival {event : Nat} (hs : s.Canonical) : Lands (execCutStartArrival event s) := by
  unfold execCutStartArrival
  refine lands_next ?_
  split
  · exact canonical_ite hs (canonical_cutStart (canonical_update hs))
  · exact hs

theorem lands_execMarkerArrival {event : Nat} (hs : s.Canonical) : Lands (execMarkerArrival event s) := by
  unfold execMarkerArrival
  refine lands_next ?_
  split
  · exact canonical_performMarker hs
  · exact hs

theorem lands_execAlmanacQuietPass (hs : s.Canonical) : Lands (execAlmanacQuietPass rcb s) := by
  unfold execAlmanacQuietPass
  refine lands_next ?_
  split
  · exact hs
  · exact canonical_ite (canonical_poke (canonical_modRegion hs) _ _ _) (canonical_ite (canonical_poke (canonical_modRegion hs)
      _ _ _) (canonical_modRegion hs))

/-! ### Scalar -/

theorem lands_scalar1 {i : Instr} {o : AOps} {f : Word → Word} (hs : s.Canonical) : Lands (scalar1 i o f s) :=
  lands_issueNext (keeps_bind keeps_src fun _ => keeps_writeD _ _) hs

theorem lands_scalar2 {i : Instr} {o : AOps} {f : Word → Word → Word} (hs : s.Canonical) : Lands (scalar2 i o f s) :=
  lands_issueNext (keeps_bind keeps_src fun _ => keeps_bind keeps_src fun _ => keeps_writeD _ _) hs

theorem lands_divide {i : Instr} {o : AOps} {f : Word → Word → Word} (hs : s.Canonical) : Lands (divide i o f s) :=
  lands_issueNext (keeps_bind keeps_src fun _ => keeps_bind keeps_src fun _ => keeps_bind (keeps_unlessFault _ _ _) fun _ =>
    keeps_writeD _ _) hs

theorem lands_execAdd {o : AOps} (hs : s.Canonical) : Lands (execAdd o s) := lands_scalar2 hs

theorem lands_execSub {o : AOps} (hs : s.Canonical) : Lands (execSub o s) := lands_scalar2 hs

theorem lands_execMul {o : AOps} (hs : s.Canonical) : Lands (execMul o s) := lands_scalar2 hs

theorem lands_execMulhI64 {o : AOps} (hs : s.Canonical) : Lands (execMulhI64 o s) := lands_scalar2 hs

theorem lands_execMulhN64 {o : AOps} (hs : s.Canonical) : Lands (execMulhN64 o s) := lands_scalar2 hs

theorem lands_execQuoI64 {o : AOps} (hs : s.Canonical) : Lands (execQuoI64 o s) := lands_divide hs

theorem lands_execQuoN64 {o : AOps} (hs : s.Canonical) : Lands (execQuoN64 o s) := lands_divide hs

theorem lands_execRemI64 {o : AOps} (hs : s.Canonical) : Lands (execRemI64 o s) := lands_divide hs

theorem lands_execRemN64 {o : AOps} (hs : s.Canonical) : Lands (execRemN64 o s) := lands_divide hs

theorem lands_execAndBits {o : AOps} (hs : s.Canonical) : Lands (execAndBits o s) := lands_scalar2 hs

theorem lands_execOrBits {o : AOps} (hs : s.Canonical) : Lands (execOrBits o s) := lands_scalar2 hs

theorem lands_execXorBits {o : AOps} (hs : s.Canonical) : Lands (execXorBits o s) := lands_scalar2 hs

theorem lands_execAndn {o : AOps} (hs : s.Canonical) : Lands (execAndn o s) := lands_scalar2 hs

theorem lands_execShl {o : AOps} (hs : s.Canonical) : Lands (execShl o s) := lands_scalar2 hs

theorem lands_execShr {o : AOps} (hs : s.Canonical) : Lands (execShr o s) := lands_scalar2 hs

theorem lands_execSra {o : AOps} (hs : s.Canonical) : Lands (execSra o s) := lands_scalar2 hs

theorem lands_execRot {o : AOps} (hs : s.Canonical) : Lands (execRot o s) := lands_scalar2 hs

theorem lands_execClz {o : AOps} (hs : s.Canonical) : Lands (execClz o s) := lands_scalar1 hs

theorem lands_execCtz {o : AOps} (hs : s.Canonical) : Lands (execCtz o s) := lands_scalar1 hs

theorem lands_execPopc {o : AOps} (hs : s.Canonical) : Lands (execPopc o s) := lands_scalar1 hs

theorem lands_execMinI64 {o : AOps} (hs : s.Canonical) : Lands (execMinI64 o s) := lands_scalar2 hs

theorem lands_execMinN64 {o : AOps} (hs : s.Canonical) : Lands (execMinN64 o s) := lands_scalar2 hs

theorem lands_execMaxI64 {o : AOps} (hs : s.Canonical) : Lands (execMaxI64 o s) := lands_scalar2 hs

theorem lands_execMaxN64 {o : AOps} (hs : s.Canonical) : Lands (execMaxN64 o s) := lands_scalar2 hs

theorem lands_execMov {o : AOps} (hs : s.Canonical) : Lands (execMov o s) := lands_scalar1 hs

theorem lands_execCmp {o : AOps} (hs : s.Canonical) : Lands (execCmp o s) :=
  lands_issueNext (keeps_bind keeps_src fun _ => keeps_bind keeps_src fun _ => keeps_writePReg) hs

theorem lands_execSel {o : AOps} (hs : s.Canonical) : Lands (execSel o s) :=
  lands_issueNext (keeps_bind keeps_readPReg fun _ => keeps_bind keeps_src fun _ => keeps_bind keeps_src fun _ => keeps_writeD _
    _) hs

theorem lands_execLea {o : AOps} (hs : s.Canonical) : Lands (execLea o s) :=
  lands_issueNext (keeps_bind keeps_src fun _ => keeps_bind keeps_src fun _ => keeps_bind keeps_src fun _ => keeps_bind
    (keeps_unlessFault _ _ _) fun _ => keeps_writeD _ _) hs

theorem lands_execGaddr {o : AOps} (hs : s.Canonical) : Lands (execGaddr o s) := by
  unfold execGaddr
  refine lands_issueNext (keeps_bind keeps_src fun _ => keeps_bind keeps_src fun _ => keeps_bind keeps_src fun _ => ?_) hs
  split
  · exact keeps_fault _ _ _
  · exact keeps_writeD _ _

theorem lands_bitField {i : Instr} {o : AOps} {f : Word → Nat → Nat → Word} (hs : s.Canonical) : Lands (bitField i o f s) := by
  unfold bitField
  refine lands_issueNext (keeps_bind keeps_src fun _ => keeps_bind keeps_src fun _ => ?_) hs
  split
  · exact keeps_fault _ _ _
  · exact keeps_writeD _ _

theorem lands_execBfxI64 {o : AOps} (hs : s.Canonical) : Lands (execBfxI64 o s) := lands_bitField hs

theorem lands_execBfxN64 {o : AOps} (hs : s.Canonical) : Lands (execBfxN64 o s) := lands_bitField hs

theorem lands_execBfi {o : AOps} (hs : s.Canonical) : Lands (execBfi o s) := by
  unfold execBfi
  refine lands_issueNext (keeps_bind keeps_src fun _ => keeps_bind keeps_src fun _ => keeps_bind keeps_src fun _ => ?_) hs
  split
  · exact keeps_fault _ _ _
  · exact keeps_writeD _ _

/-! ### Streams -/

theorem lands_execQpop {o : AOps} (hs : s.Canonical) : Lands (execQpop o s) :=
  lands_issueNext (keeps_bind keeps_popQ1 fun _ => keeps_writeD _ _) hs

theorem lands_execQcnt {o : AOps} (hs : s.Canonical) : Lands (execQcnt o s) :=
  lands_issueNext (keeps_bind (keeps_unlessFault _ _ _) fun _ => keeps_bind keeps_getCtx fun _ => keeps_writeD _ _) hs

theorem lands_execStreamBind {o : AOps} (hs : s.Canonical) : Lands (execStreamBind o s) := by
  unfold execStreamBind
  refine lands_issueNext (keeps_bind keeps_getCtx fun _ => keeps_bind (keeps_unlessFault _ _ _) fun _ => keeps_bind
    (keeps_unlessFault _ _ _) fun _ => keeps_bind (keeps_loadWords _ _) fun _ => ?_) hs
  split
  · exact keeps_fault _ _ _
  · exact keeps_modCtx _

theorem lands_execStreamEnd {o : AOps} (hs : s.Canonical) : Lands (execStreamEnd o s) := by
  unfold execStreamEnd
  refine lands_issueNext (keeps_bind keeps_getCtx fun _ => ?_) hs
  dsimp only
  split
  · exact keeps_pure ()
  · split
    · refine keeps_bind (keeps_waitUntil _ _ _) fun _ => ?_
      split
      · exact keeps_bind (keeps_raiseTrap _) fun _ => keeps_modCtx _
      · exact keeps_modCtx _
    · exact keeps_modCtx _

theorem keeps_streamFetch {q : Nat} : Keeps (streamFetch q) := by
  unfold streamFetch
  refine keeps_bind keeps_getCtx fun _ => ?_
  dsimp only
  split
  · exact keeps_pure ()
  · exact keeps_bind (keeps_resolveAs _ _ _ _) fun _ => keeps_bind (keeps_gateLoad _ _) fun _ => keeps_bind keeps_newId fun _ =>
      keeps_bind (keeps_modCtx _) fun _ => keeps_ite keeps_engineLoad keeps_startLoad

theorem keeps_streamStore {q : Nat} : Keeps (streamStore q) := by
  unfold streamStore
  refine keeps_bind keeps_getCtx fun _ => ?_
  dsimp only
  split
  · exact keeps_bind (keeps_resolveAs _ _ _ _) fun _ => keeps_bind (keeps_gate _) fun _ => keeps_bind keeps_newId fun _ =>
      keeps_bind keeps_get fun _ => keeps_bind (keeps_modify fun _ hs1 => canonical_claimFor hs1) fun _ => keeps_bind
      keeps_engineStore fun _ => keeps_modCtx _
  · exact keeps_pure ()

theorem lands_execStreamReadFetch {queue : Nat} (hs : s.Canonical) : Lands (execStreamReadFetch core fc queue s) := by
  unfold execStreamReadFetch
  refine lands_next ?_
  split
  · split
    · rename_i e1
      exact Keeps.ok keeps_streamFetch (canonical_at hs) e1
    · exact canonical_at hs
    · dsimp only
      refine canonical_modCtx (canonical_update ?_)
      split
      · exact canonical_at hs
      · exact canonical_takeFresh (canonical_at hs)
  · exact canonical_at hs

theorem lands_execStreamWriteStore {queue : Nat} (hs : s.Canonical) : Lands (execStreamWriteStore core fc queue s) := by
  unfold execStreamWriteStore
  refine lands_next ?_
  split
  · split
    · rename_i e1
      exact Keeps.ok keeps_streamStore (canonical_at hs) e1
    · exact canonical_at hs
    · dsimp only
      refine canonical_modCtx ?_
      split
      · exact canonical_at hs
      · exact canonical_takeFresh (canonical_at hs)
  · exact canonical_at hs

/-! ### Dispatch -/

theorem lands_exec {i : Instr} (hs : s.Canonical) : Lands (exec i s) := by
  cases i with
  | nop => exact lands_execNop hs
  | trapc => exact lands_execTrapc hs
  | trapret => exact lands_execTrapret hs
  | rgnNew => exact lands_execRgnNew hs
  | rgnSet => exact lands_execRgnSet hs
  | rgnKill => exact lands_execRgnKill hs
  | bind => exact lands_execBind hs
  | preemptFiring => exact lands_execPreemptFiring hs
  | preemptRegion => exact lands_execPreemptRegion hs
  | preemptResume => exact lands_execPreemptResume hs
  | add => exact lands_execAdd hs
  | sub => exact lands_execSub hs
  | mul => exact lands_execMul hs
  | mulhI64 => exact lands_execMulhI64 hs
  | mulhN64 => exact lands_execMulhN64 hs
  | quoI64 => exact lands_execQuoI64 hs
  | quoN64 => exact lands_execQuoN64 hs
  | remI64 => exact lands_execRemI64 hs
  | remN64 => exact lands_execRemN64 hs
  | andBits => exact lands_execAndBits hs
  | orBits => exact lands_execOrBits hs
  | xorBits => exact lands_execXorBits hs
  | andn => exact lands_execAndn hs
  | shl => exact lands_execShl hs
  | shr => exact lands_execShr hs
  | sra => exact lands_execSra hs
  | rot => exact lands_execRot hs
  | clz => exact lands_execClz hs
  | ctz => exact lands_execCtz hs
  | popc => exact lands_execPopc hs
  | cmp => exact lands_execCmp hs
  | sel => exact lands_execSel hs
  | minI64 => exact lands_execMinI64 hs
  | minN64 => exact lands_execMinN64 hs
  | maxI64 => exact lands_execMaxI64 hs
  | maxN64 => exact lands_execMaxN64 hs
  | mov => exact lands_execMov hs
  | lea => exact lands_execLea hs
  | gaddr => exact lands_execGaddr hs
  | bfxI64 => exact lands_execBfxI64 hs
  | bfxN64 => exact lands_execBfxN64 hs
  | bfi => exact lands_execBfi hs
  | br => exact lands_execBr hs
  | brl => exact lands_execBrl hs
  | jmp => exact lands_execJmp hs
  | jmpl => exact lands_execJmpl hs
  | ret => exact lands_execRet hs
  | loop => exact lands_execLoop hs
  | pand => exact lands_execPand hs
  | por => exact lands_execPor hs
  | pxor => exact lands_execPxor hs
  | pnot => exact lands_execPnot hs
  | phead => exact lands_execPhead hs
  | ptail => exact lands_execPtail hs
  | pcnt => exact lands_execPcnt hs
  | endFiring => exact lands_execEndFiring hs
  | yield => exact lands_execYield hs
  | idem => exact lands_execIdem hs
  | xloop => exact lands_execXloop hs
  | ld => exact lands_execLd hs
  | st => exact lands_execSt hs
  | ldm => exact lands_execLdm hs
  | stm => exact lands_execStm hs
  | ldc => exact lands_execLdc hs
  | pref => exact lands_execPref hs
  | flush => exact lands_execFlush hs
  | inv => exact lands_execInv hs
  | iget => exact lands_execIget hs
  | iput => exact lands_execIput hs
  | scnt => exact lands_execScnt hs
  | handover => exact lands_execHandover hs
  | reclass => exact lands_execReclass hs
  | fence => exact lands_execFence hs
  | amoAdd => exact lands_execAmoAdd hs
  | amoAnd => exact lands_execAmoAnd hs
  | amoOr => exact lands_execAmoOr hs
  | amoXor => exact lands_execAmoXor hs
  | amoMin => exact lands_execAmoMin hs
  | amoMax => exact lands_execAmoMax hs
  | amoUmin => exact lands_execAmoUmin hs
  | amoUmax => exact lands_execAmoUmax hs
  | amoSwap => exact lands_execAmoSwap hs
  | amoFadd => exact lands_execAmoFadd hs
  | amofAdd => exact lands_execAmofAdd hs
  | amofAnd => exact lands_execAmofAnd hs
  | amofOr => exact lands_execAmofOr hs
  | amofXor => exact lands_execAmofXor hs
  | amofMin => exact lands_execAmofMin hs
  | amofMax => exact lands_execAmofMax hs
  | amofUmin => exact lands_execAmofUmin hs
  | amofUmax => exact lands_execAmofUmax hs
  | amofSwap => exact lands_execAmofSwap hs
  | amofFadd => exact lands_execAmofFadd hs
  | amoUAdd => exact lands_execAmoUAdd hs
  | amoUAnd => exact lands_execAmoUAnd hs
  | amoUOr => exact lands_execAmoUOr hs
  | amoUXor => exact lands_execAmoUXor hs
  | amoUMin => exact lands_execAmoUMin hs
  | amoUMax => exact lands_execAmoUMax hs
  | amoUUmin => exact lands_execAmoUUmin hs
  | amoUUmax => exact lands_execAmoUUmax hs
  | amoUFadd => exact lands_execAmoUFadd hs
  | cas => exact lands_execCas hs
  | casw => exact lands_execCasw hs
  | bari => exact lands_execBari hs
  | bar => exact lands_execBar hs
  | barw => exact lands_execBarw hs
  | dmclose => exact lands_execDmclose hs
  | tlbi => exact lands_execTlbi hs
  | fork => exact lands_execFork hs
  | join => exact lands_execJoin hs
  | dqcnt => exact lands_execDqcnt hs
  | futNew => exact lands_execFutNew hs
  | futSet => exact lands_execFutSet hs
  | futGet => exact lands_execFutGet hs
  | futFree => exact lands_execFutFree hs
  | mbxBind => exact lands_execMbxBind hs
  | mbxFree => exact lands_execMbxFree hs
  | mbxrd => exact lands_execMbxrd hs
  | send => exact lands_execSend hs
  | evt => exact lands_execEvt hs
  | wfe => exact lands_execWfe hs
  | gangOn => exact lands_execGangOn hs
  | gangOff => exact lands_execGangOff hs
  | rfork => exact lands_execRfork hs
  | launch => exact lands_execLaunch hs
  | poolset => exact lands_execPoolset hs
  | poolsetWait => exact lands_execPoolsetWait hs
  | poolrd => exact lands_execPoolrd hs
  | hwmSet => exact lands_execHwmSet hs
  | viewSet => exact lands_execViewSet hs
  | viewClr => exact lands_execViewClr hs
  | tset => exact lands_execTset hs
  | tstat => exact lands_execTstat hs
  | tclr => exact lands_execTclr hs
  | qpop => exact lands_execQpop hs
  | qcnt => exact lands_execQcnt hs
  | streamBind => exact lands_execStreamBind hs
  | streamEnd => exact lands_execStreamEnd hs
  | winSet => exact lands_execWinSet hs
  | srd => exact lands_execSrd hs
  | swr => exact lands_execSwr hs
  | logrd => exact lands_execLogrd hs
  | logext => exact lands_execLogext hs
  | vadd => exact lands_execVadd hs
  | vsub => exact lands_execVsub hs
  | vmul => exact lands_execVmul hs
  | vmin => exact lands_execVmin hs
  | vmax => exact lands_execVmax hs
  | vabs => exact lands_execVabs hs
  | vneg => exact lands_execVneg hs
  | vfma => exact lands_execVfma hs
  | vfms => exact lands_execVfms hs
  | vfnma => exact lands_execVfnma hs
  | vcmp => exact lands_execVcmp hs
  | vsel => exact lands_execVsel hs
  | vclass => exact lands_execVclass hs
  | vcvt => exact lands_execVcvt hs
  | vrsum => exact lands_execVrsum hs
  | vrmax => exact lands_execVrmax hs
  | vrmin => exact lands_execVrmin hs
  | vand => exact lands_execVand hs
  | vor => exact lands_execVor hs
  | vxor => exact lands_execVxor hs
  | vandn => exact lands_execVandn hs
  | vshl => exact lands_execVshl hs
  | vshr => exact lands_execVshr hs
  | vsra => exact lands_execVsra hs
  | vadds => exact lands_execVadds hs
  | vsubs => exact lands_execVsubs hs
  | vmulh => exact lands_execVmulh hs
  | vperm => exact lands_execVperm hs
  | vbcast => exact lands_execVbcast hs
  | vrot => exact lands_execVrot hs
  | vzip => exact lands_execVzip hs
  | vunzip => exact lands_execVunzip hs
  | vcomp => exact lands_execVcomp hs
  | vext => exact lands_execVext hs
  | vins => exact lands_execVins hs
  | vmov => exact lands_execVmov hs
  | vsign => exact lands_execVsign hs
  | vrand => exact lands_execVrand hs
  | div => exact lands_execDiv hs
  | sqrt => exact lands_execSqrt hs
  | rcp => exact lands_execRcp hs
  | rsq => exact lands_execRsq hs
  | exp => exact lands_execExp hs
  | expB2 => exact lands_execExpB2 hs
  | log => exact lands_execLog hs
  | logB2 => exact lands_execLogB2 hs
  | sin => exact lands_execSin hs
  | cos => exact lands_execCos hs
  | tanh => exact lands_execTanh hs
  | tanhSig => exact lands_execTanhSig hs
  | erf => exact lands_execErf hs
  | mma => exact lands_execMma hs
  | mmaS => exact lands_execMmaS hs
  | dmma => exact lands_execDmma hs
  | mscale => exact lands_execMscale hs
  | mzero => exact lands_execMzero hs
  | mflags => exact lands_execMflags hs
  | mdrain => exact lands_execMdrain hs
  | mload => exact lands_execMload hs
  | mstore => exact lands_execMstore hs
  | mxpose => exact lands_execMxpose hs
  | mcvt => exact lands_execMcvt hs
  | gatt => exact lands_execGatt hs
  | gdet => exact lands_execGdet hs
  | gbel => exact lands_execGbel hs
  | gcomb => exact lands_execGcomb hs
  | gmarg => exact lands_execGmarg hs
  | gdamp => exact lands_execGdamp hs
  | gsend => exact lands_execGsend hs
  | gres => exact lands_execGres hs
  | gmean => exact lands_execGmean hs
  | gcut => exact lands_execGcut hs
  | gcutrd => exact lands_execGcutrd hs
  | cvrd => exact lands_execCvrd hs
  | cdef => exact lands_execCdef hs
  | cswap => exact lands_execCswap hs
  | cstat => exact lands_execCstat hs
  | cins => exact lands_execCins hs
  | cdel => exact lands_execCdel hs
  | cprobe => exact lands_execCprobe hs
  | clook => exact lands_execClook hs
  | crehash => exact lands_execCrehash hs
  | cfence => exact lands_execCfence hs
  | hcopy => exact lands_execHcopy hs
  | hgath => exact lands_execHgath hs
  | hscat => exact lands_execHscat hs
  | hpack => exact lands_execHpack hs
  | hunpk => exact lands_execHunpk hs
  | hwait => exact lands_execHwait hs
  | hcancel => exact lands_execHcancel hs
  | viewRegisterWrite => exact lands_execViewRegisterWrite hs
  | sclbaseWrite => exact lands_execSclbaseWrite hs
  | flagRegisterWrite => exact lands_execFlagRegisterWrite hs
  | linkEnable => exact lands_execLinkEnable hs
  | linkDisable => exact lands_execLinkDisable hs
  | linkRetrain => exact lands_execLinkRetrain hs
  | lineFetch => exact lands_execLineFetch hs
  | lineRefetch => exact lands_execLineRefetch hs
  | trapEntry => exact lands_execTrapEntry hs
  | firingStart => exact lands_execFiringStart hs
  | regionDiscard => exact lands_execRegionDiscard hs
  | wholeSave => exact lands_execWholeSave hs
  | portForward => exact lands_execPortForward hs
  | loadDataReturn => exact lands_execLoadDataReturn hs
  | streamReadFetch => exact lands_execStreamReadFetch hs
  | streamWriteStore => exact lands_execStreamWriteStore hs
  | xloopPass => exact lands_execXloopPass hs
  | storeAck => exact lands_execStoreAck hs
  | remoteAccessPerform => exact lands_execRemoteAccessPerform hs
  | poolMoveRecheck => exact lands_execPoolMoveRecheck hs
  | poolMoveDone => exact lands_execPoolMoveDone hs
  | matrixEntryComplete => exact lands_execMatrixEntryComplete hs
  | followOnProduct => exact lands_execFollowOnProduct hs
  | heliostatCommandStart => exact lands_execHeliostatCommandStart hs
  | heliostatCommandComplete => exact lands_execHeliostatCommandComplete hs
  | mloadFillComplete => exact lands_execMloadFillComplete hs
  | mstoreDrainComplete => exact lands_execMstoreDrainComplete hs
  | mdrainWake => exact lands_execMdrainWake hs
  | coreRetentionEntry => exact lands_execCoreRetentionEntry hs
  | coreWake => exact lands_execCoreWake hs
  | ctsAdvance => exact lands_execCtsAdvance hs
  | cacheFillComplete => exact lands_execCacheFillComplete hs
  | homeRequest => exact lands_execHomeRequest hs
  | hcExclusiveGrant => exact lands_execHcExclusiveGrant hs
  | hcRecall => exact lands_execHcRecall hs
  | uGrant => exact lands_execUGrant hs
  | uRecall => exact lands_execURecall hs
  | owHandoverAtHome => exact lands_execOwHandoverAtHome hs
  | owGrant => exact lands_execOwGrant hs
  | reclassTlbsConfirmed => exact lands_execReclassTlbsConfirmed hs
  | reclassDrained => exact lands_execReclassDrained hs
  | mailboxEntryArrival => exact lands_execMailboxEntryArrival hs
  | mailboxHeldAppend => exact lands_execMailboxHeldAppend hs
  | eventDelivery => exact lands_execEventDelivery hs
  | wfeTimeout => exact lands_execWfeTimeout hs
  | stealRequest => exact lands_execStealRequest hs
  | gsendArrival => exact lands_execGsendArrival hs
  | cutStartArrival => exact lands_execCutStartArrival hs
  | markerArrival => exact lands_execMarkerArrival hs
  | almanacQuietPass => exact lands_execAlmanacQuietPass hs
  | catalogueUpdateApply => exact lands_execCatalogueUpdateApply hs
  | pageWalk => exact lands_execPageWalk hs
  | tlbiTarget => exact lands_execTlbiTarget hs
  | launchFirmwareReply => exact lands_execLaunchFirmwareReply hs
  | launchNofirmTimeout => exact lands_execLaunchNofirmTimeout hs
  | bindOpcBind => exact lands_execBindOpcBind hs
  | unbind => exact lands_execUnbind hs
  | hold => exact lands_execHold hs
  | release => exact lands_execRelease hs
  | mergeEntryArrival => exact lands_execMergeEntryArrival hs
  | dmRoundComplete => exact lands_execDmRoundComplete hs
  | powerUp => exact lands_execPowerUp hs
  | thermalThrottle => exact lands_execThermalThrottle hs
  | powerThrottle => exact lands_execPowerThrottle hs
  | thermalShutdown => exact lands_execThermalShutdown hs
  | dramCrcRetry => exact lands_execDramCrcRetry hs
  | dramScrub => exact lands_execDramScrub hs
  | writebackUe => exact lands_execWritebackUe hs
  | linkAnResolved => exact lands_execLinkAnResolved hs
  | linkAnTimeout => exact lands_execLinkAnTimeout hs
  | linkTrainDone => exact lands_execLinkTrainDone hs
  | linkTrainTimeout => exact lands_execLinkTrainTimeout hs
  | linkLock => exact lands_execLinkLock hs
  | linkLockTimeout => exact lands_execLinkLockTimeout hs
  | linkAssocDone => exact lands_execLinkAssocDone hs
  | linkAssocRefused => exact lands_execLinkAssocRefused hs
  | linkAssocTimeout => exact lands_execLinkAssocTimeout hs
  | linkFail => exact lands_execLinkFail hs
  | linkFailedRetry => exact lands_execLinkFailedRetry hs
  | fabricPacketArrival => exact lands_execFabricPacketArrival hs
  | fabricResend => exact lands_execFabricResend hs
  | fabricTimeout => exact lands_execFabricTimeout hs
  | hostQueueMessage => exact lands_execHostQueueMessage hs
  | hostQueueLaunch => exact lands_execHostQueueLaunch hs
  | hostQueueFirmware => exact lands_execHostQueueFirmware hs
  | outboundAppend => exact lands_execOutboundAppend hs
  | hostWindowRead => exact lands_execHostWindowRead hs
  | hostWindowWrite => exact lands_execHostWindowWrite hs
  | catalogueCommandAnswer => exact lands_execCatalogueCommandAnswer hs

/-! ### Agents -/

theorem lands_run {e : Event} (hs : s.Canonical) : Lands (e.run s) := by
  cases e with
  | linkEnable => exact lands_execLinkEnable hs
  | linkDisable => exact lands_execLinkDisable hs
  | linkRetrain => exact lands_execLinkRetrain hs
  | lineFetch => exact lands_execLineFetch hs
  | lineRefetch => exact lands_execLineRefetch hs
  | trapEntry => exact lands_execTrapEntry hs
  | firingStart => exact lands_execFiringStart hs
  | regionDiscard => exact lands_execRegionDiscard hs
  | wholeSave => exact lands_execWholeSave hs
  | portForward => exact lands_execPortForward hs
  | loadDataReturn => exact lands_execLoadDataReturn hs
  | streamReadFetch => exact lands_execStreamReadFetch hs
  | streamWriteStore => exact lands_execStreamWriteStore hs
  | xloopPass => exact lands_execXloopPass hs
  | storeAck => exact lands_execStoreAck hs
  | remoteAccessPerform => exact lands_execRemoteAccessPerform hs
  | poolMoveRecheck => exact lands_execPoolMoveRecheck hs
  | poolMoveDone => exact lands_execPoolMoveDone hs
  | matrixEntryComplete => exact lands_execMatrixEntryComplete hs
  | followOnProduct => exact lands_execFollowOnProduct hs
  | heliostatCommandStart => exact lands_execHeliostatCommandStart hs
  | heliostatCommandComplete => exact lands_execHeliostatCommandComplete hs
  | mloadFillComplete => exact lands_execMloadFillComplete hs
  | mstoreDrainComplete => exact lands_execMstoreDrainComplete hs
  | mdrainWake => exact lands_execMdrainWake hs
  | coreRetentionEntry => exact lands_execCoreRetentionEntry hs
  | coreWake => exact lands_execCoreWake hs
  | ctsAdvance => exact lands_execCtsAdvance hs
  | cacheFillComplete => exact lands_execCacheFillComplete hs
  | homeRequest => exact lands_execHomeRequest hs
  | hcExclusiveGrant => exact lands_execHcExclusiveGrant hs
  | hcRecall => exact lands_execHcRecall hs
  | uGrant => exact lands_execUGrant hs
  | uRecall => exact lands_execURecall hs
  | owHandoverAtHome => exact lands_execOwHandoverAtHome hs
  | owGrant => exact lands_execOwGrant hs
  | reclassTlbsConfirmed => exact lands_execReclassTlbsConfirmed hs
  | reclassDrained => exact lands_execReclassDrained hs
  | mailboxEntryArrival => exact lands_execMailboxEntryArrival hs
  | mailboxHeldAppend => exact lands_execMailboxHeldAppend hs
  | eventDelivery => exact lands_execEventDelivery hs
  | wfeTimeout => exact lands_execWfeTimeout hs
  | stealRequest => exact lands_execStealRequest hs
  | gsendArrival => exact lands_execGsendArrival hs
  | cutStartArrival => exact lands_execCutStartArrival hs
  | markerArrival => exact lands_execMarkerArrival hs
  | almanacQuietPass => exact lands_execAlmanacQuietPass hs
  | catalogueUpdateApply => exact lands_execCatalogueUpdateApply hs
  | tlbiTarget => exact lands_execTlbiTarget hs
  | launchFirmwareReply => exact lands_execLaunchFirmwareReply hs
  | launchNofirmTimeout => exact lands_execLaunchNofirmTimeout hs
  | mergeEntryArrival => exact lands_execMergeEntryArrival hs
  | dmRoundComplete => exact lands_execDmRoundComplete hs
  | linkAnResolved => exact lands_execLinkAnResolved hs
  | linkAnTimeout => exact lands_execLinkAnTimeout hs
  | linkTrainDone => exact lands_execLinkTrainDone hs
  | linkTrainTimeout => exact lands_execLinkTrainTimeout hs
  | linkLock => exact lands_execLinkLock hs
  | linkLockTimeout => exact lands_execLinkLockTimeout hs
  | linkAssocDone => exact lands_execLinkAssocDone hs
  | linkAssocRefused => exact lands_execLinkAssocRefused hs
  | linkAssocTimeout => exact lands_execLinkAssocTimeout hs
  | linkFail => exact lands_execLinkFail hs
  | linkFailedRetry => exact lands_execLinkFailedRetry hs
  | fabricPacketArrival => exact lands_execFabricPacketArrival hs
  | fabricResend => exact lands_execFabricResend hs
  | fabricTimeout => exact lands_execFabricTimeout hs
  | outboundAppend => exact lands_execOutboundAppend hs
  | catalogueCommandAnswer => exact lands_execCatalogueCommandAnswer hs

theorem lands_issueSlot (hs : s.Canonical) : Lands (issueSlot s k fc) := by
  unfold issueSlot
  dsimp only
  split
  · exact lands_next (canonical_at hs)
  · split
    · exact lands_next (canonical_takeTrapA (canonical_at hs))
    · exact lands_exec (canonical_at hs)

theorem lands_issueFrom {l : List Nat} (hs : s.Canonical) : Lands (issueFrom k l s) := by
  induction l generalizing s with
  | nil => exact lands_next hs
  | cons fc l ih =>
    unfold issueFrom
    refine lands_ite ?_ (ih hs)
    have hi := lands_issueSlot (k := k) (fc := fc) hs
    split
    · rename_i e
      exact lands_ite (ih (hi _ e)) (lands_next (canonical_modCore (hi _ e)))
    · exact hi

theorem lands_runFrom {l : List Nat} (hs : s.Canonical) : Lands (runFrom k l s) := by
  induction l generalizing s with
  | nil => exact lands_next hs
  | cons fc l ih =>
    unfold runFrom
    dsimp only
    split
    · exact ih hs
    · rename_i e _
      have hi := lands_exec (i := e.i) (canonical_at (core := k) (fc := fc) (half := true) hs)
      split
      · rename_i e1
        exact lands_ite (lands_next (canonical_modCore (hi _ e1))) (ih hs)
      · exact hi

theorem lands_perform {a : Agent} (hs : s.Canonical) : Lands (s.perform a) := by
  unfold State.perform
  split
  · exact lands_issueFrom hs
  · exact lands_runFrom hs
  · exact lands_run hs
  · split
    · exact lands_ite (lands_exec (canonical_update hs)) (lands_next (canonical_update hs))
    · exact lands_next hs
  · exact lands_next (canonical_softError hs)
  · exact lands_next (canonical_reportNext hs)

/-! ### Step -/

theorem canonical_tickOn (hs : s.Canonical) : s.tickOn.Canonical := hs.of_mem (State.tickOn_mem _)

theorem lands_step (hs : s.Canonical) : Lands (step s) := by
  unfold step
  split
  · exact lands_ite (lands_issueSlot (canonical_tickOn hs)) (lands_next (canonical_tickOn hs))
  · split
    · exact lands_next (canonical_tickOn hs)
    · exact lands_perform (canonical_tickOn hs)
    · exact lands_perform (canonical_tickOn hs)

end

end Sys2Proof.Machine

/-- Settles O59: whatever agent acts, its outcome keeps the form (`lands_step`). -/
theorem stepKeepsMemory : Obligations.StepKeepsMemory :=
  fun _ t hs h => Sys2Proof.Machine.lands_step hs t h
end

section
/-! SUPPORT. What the privilege check and the predicate check of a slot do, whatever the slot's effect. -/

namespace Sys2Proof.Machine

/-! ### The slots that issue -/

/-- Every instruction that has a word and is not of the X stream makes the checks of `slotAct` before its effect,
whatever the effect is (R60, R73). -/
theorem exec_eq_issue {i : Instr} {h : Hd} (hd : i.hd = some h) (hx : i.stream ≠ .x) :
    ∃ body, ∀ s, exec i s = issue i h body s := by
  cases i with
  | nop | trapc | trapret | rgnNew | rgnSet | rgnKill | bind | preemptFiring | preemptRegion | preemptResume | add
  | sub | mul | mulhI64 | mulhN64 | quoI64 | quoN64 | remI64 | remN64 | andBits | orBits | xorBits | andn | shl | shr
  | sra | rot | clz | ctz | popc | cmp | sel | minI64 | minN64 | maxI64 | maxN64 | mov | lea | gaddr | bfxI64 | bfxN64
  | bfi | br | brl | jmp | jmpl | ret | loop | pand | por | pxor | pnot | phead | ptail | pcnt | endFiring | yield
  | idem | ld | st | ldm | stm | ldc | pref | flush | inv | iget | iput | scnt | handover | reclass | fence | amoAdd
  | amoAnd | amoOr | amoXor | amoMin | amoMax | amoUmin | amoUmax | amoSwap | amoFadd | amofAdd | amofAnd | amofOr
  | amofXor | amofMin | amofMax | amofUmin | amofUmax | amofSwap | amofFadd | amoUAdd | amoUAnd | amoUOr | amoUXor
  | amoUMin | amoUMax | amoUUmin | amoUUmax | amoUFadd | cas | casw | bari | bar | barw | dmclose | tlbi | fork | join
  | dqcnt | futNew | futSet | futGet | futFree | mbxBind | mbxFree | mbxrd | send | evt | wfe | gangOn | gangOff
  | rfork | launch | poolset | poolsetWait | poolrd | hwmSet | viewSet | viewClr | tset | tstat | tclr | qpop | qcnt
  | streamBind | streamEnd | winSet | srd | swr | logrd | logext | gatt | gdet | gcut | gcutrd | cvrd | cdef | cswap
  | cstat | cins | cdel | cprobe | clook | crehash | cfence | hcopy | hgath | hscat | hpack | hunpk | hwait | hcancel
  | viewRegisterWrite | sclbaseWrite | flagRegisterWrite =>
    cases hd
    exact ⟨_, fun _ => rfl⟩
  | xloop | vadd | vsub | vmul | vmin | vmax | vabs | vneg | vfma | vfms | vfnma | vcmp | vsel | vclass | vcvt | vrsum
  | vrmax | vrmin | vand | vor | vxor | vandn | vshl | vshr | vsra | vadds | vsubs | vmulh | vperm | vbcast | vrot
  | vzip | vunzip | vcomp | vext | vins | vmov | vsign | vrand | div | sqrt | rcp | rsq | exp | expB2 | log | logB2
  | sin | cos | tanh | tanhSig | erf | mma | mmaS | dmma | mscale | mzero | mflags | mdrain | mload | mstore | mxpose
  | mcvt | gbel | gcomb | gmarg | gdamp | gsend | gres | gmean =>
    exact absurd rfl hx
  | _ => cases hd

/-- A privileged instruction has a word and is not of the X stream. -/
theorem privileged_slot {i : Instr} (hp : i.privileged = true) : (∃ h, i.hd = some h) ∧ i.stream ≠ .x := by
  cases i with
  | trapret | rgnNew | rgnSet | rgnKill | bind | preemptFiring | preemptRegion | preemptResume | reclass | tlbi
  | logext =>
    exact ⟨⟨_, rfl⟩, nofun⟩
  | _ => cases hp

/-! ### A false predicate -/

section
variable {i : Instr} {h : Hd} {s : State}

/-- The predicate comes before the mode, the registers and the effect, so none of these is met (R73). -/
theorem slotAct_false (hg : s.ctx.rp h.pg.toNat = false) (hp : (i.privileged && s.ctx.mode == .u) = false)
    (body : Act Flow) : (slotAct i h body).run s = .ok ((), (s.modCtx Ctx.advance).modHere (·.count 1)) := by
  unfold slotAct
  rw [act_bind_ok (act_getCtx s)]
  simp only [hp, hg, Bool.not_false, Bool.false_eq_true, ↓reduceIte]
  rfl

theorem issue_false (hc : s.ctx.canIssue = true) (hg : s.ctx.rp h.pg.toNat = false)
    (hp : (i.privileged && s.ctx.mode == .u) = false) (body : Act Flow) :
    issue i h body s = .next ((s.modCtx Ctx.advance).modHere (·.count 1)) := by
  unfold issue
  rw [if_pos hc, slotAct_false hg hp]
  rfl

/-- XLOOP makes the checks of an A slot, though it is of the X stream (R78). -/
theorem execXloop_false {o : AOps} (hc : s.ctx.canIssue = true) (hg : s.ctx.rp o.h.pg.toNat = false) :
    execXloop o s = .next ((s.modCtx Ctx.advance).modHere (·.count 1)) := by
  unfold execXloop
  rw [if_pos hc, slotAct_false hg rfl]
  rfl

end

end Sys2Proof.Machine

open Sys2Proof.Machine in
/-- Settles O11: the privilege check is the first that a slot meets (`issue_priv`). -/
theorem privilege : Obligations.Privilege := by
  intro i s hp hc hm
  obtain ⟨⟨h, hd⟩, hx⟩ := privileged_slot hp
  obtain ⟨body, he⟩ := exec_eq_issue hd hx
  rw [he, issue_priv hc hp hm]

open Sys2Proof.Machine in
/-- Settles O12: an A or E slot and an XLOOP alike go through `slotAct`, which leaves at a false predicate. -/
theorem falsePredicate : Obligations.FalsePredicate := by
  rintro i h s hd hc hg (hx | ⟨o, rfl⟩) hp
  · obtain ⟨body, he⟩ := exec_eq_issue hd hx
    rw [he, issue_false hc hg hp]
  · cases hd
    exact execXloop_false hc hg
end

section
/-! SUPPORT. The instruction word field by field: what the decoder reads is what the encoder writes, and the opcode map
read in both directions (R47 to R60). -/

namespace Sys2Proof

/-! ### Codes of formats and registers -/

theorem Fmt.code_ofCode (c : BitVec 4) : (Fmt.ofCode c).code = c := by
  revert c
  decide

/-- A register code that is not reserved is the code of the register it names (R48). -/
theorem Reg.code_of_ofCode {c : BitVec 10} {r : Reg} (h : Reg.ofCode c = some r) : r.code = c := by
  have := c.isLt
  apply BitVec.eq_of_toNat_eq
  simp only [Reg.ofCode] at h
  split_ifs at h <;> cases h <;> simp only [Reg.code, BitVec.toNat_ofNat, BitVec.reduceToNat] <;> omega

/-! ### The EXT of the records read from a raw word -/

theorem ext_toM {b : Raw} (h : b.ext.getLsbD 24 = false) : (Body.m b.toM).ext = b.ext := by
  have := b.ext.isLt
  rw [flag_toNat, decide_eq_false_iff_not] at h
  apply BitVec.eq_of_toNat_eq
  rw [extM_toNat]
  simp only [Raw.toM, Fmt.code_ofCode, field_toNat, BitVec.getLsbD, Nat.toNat_testBit]
  omega

theorem ext_toX (b : Raw) : (Body.x b.toX).ext = b.ext := by
  have := b.ext.isLt
  apply BitVec.eq_of_toNat_eq
  rw [extX_toNat]
  simp only [Raw.toX, Fmt.code_ofCode, field_toNat, BitVec.getLsbD, Nat.toNat_testBit]
  omega

theorem ext_toT (b : Raw) : (Body.t b.toT).ext = b.ext := by
  have := b.ext.isLt
  apply BitVec.eq_of_toNat_eq
  rw [extT_toNat]
  simp only [Raw.toT, Fmt.code_ofCode, field_toNat]
  omega

theorem ext_toE (b : Raw) : (Body.e b.toE).ext = b.ext := by
  have := b.ext.isLt
  apply BitVec.eq_of_toNat_eq
  rw [extE_toNat]
  simp only [Raw.toE, Fmt.code_ofCode, field_toNat, BitVec.getLsbD, Nat.toNat_testBit]
  omega

theorem ext_toF (b : Raw) : (Body.f b.toF).ext = b.ext := by
  have := b.ext.isLt
  apply BitVec.eq_of_toNat_eq
  rw [extF_toNat]
  simp only [Raw.toF, field_toNat]
  omega

/-! ### The opcode map -/

/-- The operand record of one of the classes, read from a raw word. -/
inductive Body.ReadFrom (b : Raw) : Body → Prop
  | a : Body.ReadFrom b (.a b.toA)
  | m : Body.ReadFrom b (.m b.toM)
  | x : Body.ReadFrom b (.x b.toX)
  | t : Body.ReadFrom b (.t b.toT)
  | e : Body.ReadFrom b (.e b.toE)
  | f : Body.ReadFrom b (.f b.toF)

theorem Body.ReadFrom.hd_eq {b : Raw} {body : Body} (h : body.ReadFrom b) : body.hd = b.h := by
  cases h <;> rfl

/-- Reading a word loses nothing of its EXT but class M's reserved bit (R54). -/
theorem Body.ReadFrom.ext_eq {b : Raw} {body : Body} (h : body.ReadFrom b)
    (hm : ∀ o, body = .m o → b.ext.getLsbD 24 = false) : body.ext = b.ext := by
  cases h with
  | a => rfl
  | m => exact ext_toM (hm _ rfl)
  | x => exact ext_toX b
  | t => exact ext_toT b
  | e => exact ext_toE b
  | f => exact ext_toF b

/-- The instruction has this OP and FN, which its word can hold and which are not those of the permanently illegal words,
and its operands are those of the raw word (R47, R59, R60). -/
def Instr.MappedAt (i : Instr) (b : Raw) (op fn : Nat) : Prop :=
  op < 0xFF ∧ fn < 64 ∧ ∃ body, i.parts = some (op, fn, body) ∧ body.ReadFrom b

theorem decodeOp00_mapped {b : Raw} {fn : Nat} {i : Instr} (h : decodeOp00 b fn = some i) : i.MappedAt b 0x00 fn := by
  unfold decodeOp00 at h
  split at h
  case h_8 =>
    split_ifs at h <;> cases h <;> exact ⟨by decide, by decide, _, rfl, .e⟩
  all_goals
    cases h <;> exact ⟨by decide, by decide, _, rfl, by constructor⟩

theorem decodeOp74_mapped {b : Raw} {fn : Nat} {i : Instr} (h : decodeOp74 b fn = some i) : i.MappedAt b 0x74 fn := by
  unfold decodeOp74 at h
  split at h
  case h_3 =>
    split at h <;> cases h <;> exact ⟨by decide, by decide, _, rfl, .a⟩
  all_goals
    cases h <;> exact ⟨by decide, by decide, _, rfl, .a⟩

/-- The opcode map gives each pair an instruction of that pair (R59). -/
theorem decodePair_mapped {b : Raw} {op fn : Nat} {i : Instr} (h : decodePair b op fn = some i) : i.MappedAt b op fn := by
  unfold decodePair at h
  split at h
  case h_1 => exact decodeOp00_mapped h
  case h_31 => exact decodeOp74_mapped h
  case h_62 => cases h
  all_goals
    delta decodeOp01 decodeOp02 decodeOp03 decodeOp20 decodeOp30 decodeOp31 decodeOp32 decodeOp33 decodeOp34
      decodeOp40 decodeOp41 decodeOp42 decodeOp43 decodeOp50 decodeOp51 decodeOp52 decodeOp53 decodeOp54
      decodeOp55 decodeOp56 decodeOp60 decodeOp61 decodeOp62 decodeOp63 decodeOp64 decodeOp70 decodeOp71
      decodeOp72 decodeOp73 decodeOp80 decodeOp81 decodeOp82 decodeOp83 decodeOp84 decodeOpA0 decodeOpA1
      decodeOpA2 decodeOpA3 decodeOpB0 decodeOpB1 decodeOpB2 decodeOpB3 decodeOpB4 decodeOpC0 decodeOpC1
      decodeOpC2 decodeOpC3 decodeOpD0 decodeOpD1 decodeOpD2 decodeOpD3 decodeOpE0 decodeOpE1 decodeOpE2
      decodeOpE3 decodeOpE8 decodeOpE9 decodeOpEA decodeOpEB at h
    split at h <;> cases h <;> exact ⟨by decide, by decide, _, rfl, by constructor⟩

/-- The opcode map read back, for every instruction (R59, R60). -/
theorem decodePair_parts (i : Instr) : Laws.Pair.Statement i :=
  open Laws.Pair in
  @Instr.rec Statement
    nop trapc trapret rgnNew rgnSet rgnKill bind preemptFiring preemptRegion preemptResume add sub mul mulhI64
    mulhN64 quoI64 quoN64 remI64 remN64 andBits orBits xorBits andn shl shr sra rot clz ctz popc cmp sel minI64
    minN64 maxI64 maxN64 mov lea gaddr bfxI64 bfxN64 bfi br brl jmp jmpl ret loop pand por pxor pnot phead ptail
    pcnt endFiring yield idem xloop ld st ldm stm ldc pref flush inv iget iput scnt handover reclass fence amoAdd
    amoAnd amoOr amoXor amoMin amoMax amoUmin amoUmax amoSwap amoFadd amofAdd amofAnd amofOr amofXor amofMin amofMax
    amofUmin amofUmax amofSwap amofFadd amoUAdd amoUAnd amoUOr amoUXor amoUMin amoUMax amoUUmin amoUUmax amoUFadd
    cas casw bari bar barw dmclose tlbi fork join dqcnt futNew futSet futGet futFree mbxBind mbxFree mbxrd send evt
    wfe gangOn gangOff rfork launch poolset poolsetWait poolrd hwmSet viewSet viewClr tset tstat tclr qpop qcnt
    streamBind streamEnd winSet srd swr logrd logext vadd vsub vmul vmin vmax vabs vneg vfma vfms vfnma vcmp vsel
    vclass vcvt vrsum vrmax vrmin vand vor vxor vandn vshl vshr vsra vadds vsubs vmulh vperm vbcast vrot vzip vunzip
    vcomp vext vins vmov vsign vrand div sqrt rcp rsq exp expB2 log logB2 sin cos tanh tanhSig erf mma mmaS dmma
    mscale mzero mflags mdrain mload mstore mxpose mcvt gatt gdet gbel gcomb gmarg gdamp gsend gres gmean gcut
    gcutrd cvrd cdef cswap cstat cins cdel cprobe clook crehash cfence hcopy hgath hscat hpack hunpk hwait hcancel
    viewRegisterWrite sclbaseWrite flagRegisterWrite linkEnable linkDisable linkRetrain lineFetch lineRefetch
    trapEntry firingStart regionDiscard wholeSave portForward loadDataReturn streamReadFetch streamWriteStore
    xloopPass storeAck remoteAccessPerform poolMoveRecheck poolMoveDone matrixEntryComplete followOnProduct
    heliostatCommandStart heliostatCommandComplete mloadFillComplete mstoreDrainComplete mdrainWake
    coreRetentionEntry coreWake ctsAdvance cacheFillComplete homeRequest hcExclusiveGrant hcRecall uGrant uRecall
    owHandoverAtHome owGrant reclassTlbsConfirmed reclassDrained mailboxEntryArrival mailboxHeldAppend eventDelivery
    wfeTimeout stealRequest gsendArrival cutStartArrival markerArrival almanacQuietPass catalogueUpdateApply
    pageWalk tlbiTarget launchFirmwareReply launchNofirmTimeout bindOpcBind unbind hold release mergeEntryArrival
    dmRoundComplete powerUp thermalThrottle powerThrottle thermalShutdown dramCrcRetry dramScrub writebackUe
    linkAnResolved linkAnTimeout linkTrainDone linkTrainTimeout linkLock linkLockTimeout linkAssocDone
    linkAssocRefused linkAssocTimeout linkFail linkFailedRetry fabricPacketArrival fabricResend fabricTimeout
    hostQueueMessage hostQueueLaunch hostQueueFirmware outboundAppend hostWindowRead hostWindowWrite
    catalogueCommandAnswer i

/-- Only instructions have words that pass the decode checks: the machine's own acts have none (R34). -/
theorem parts_of_legal {i : Instr} (h : i.legal = true) : ∃ op fn body, i.parts = some (op, fn, body) := by
  cases i with
  | linkEnable | linkDisable | linkRetrain | lineFetch | lineRefetch | trapEntry | firingStart | regionDiscard |
  wholeSave | portForward | loadDataReturn | streamReadFetch | streamWriteStore | xloopPass | storeAck |
  remoteAccessPerform | poolMoveRecheck | poolMoveDone | matrixEntryComplete | followOnProduct |
  heliostatCommandStart | heliostatCommandComplete | mloadFillComplete | mstoreDrainComplete | mdrainWake |
  coreRetentionEntry | coreWake | ctsAdvance | cacheFillComplete | homeRequest | hcExclusiveGrant | hcRecall |
  uGrant | uRecall | owHandoverAtHome | owGrant | reclassTlbsConfirmed | reclassDrained | mailboxEntryArrival |
  mailboxHeldAppend | eventDelivery | wfeTimeout | stealRequest | gsendArrival | cutStartArrival | markerArrival
  | almanacQuietPass | catalogueUpdateApply | pageWalk | tlbiTarget | launchFirmwareReply | launchNofirmTimeout
  | bindOpcBind | unbind | hold | release | mergeEntryArrival | dmRoundComplete | powerUp | thermalThrottle |
  powerThrottle | thermalShutdown | dramCrcRetry | dramScrub | writebackUe | linkAnResolved | linkAnTimeout |
  linkTrainDone | linkTrainTimeout | linkLock | linkLockTimeout | linkAssocDone | linkAssocRefused |
  linkAssocTimeout | linkFail | linkFailedRetry | fabricPacketArrival | fabricResend | fabricTimeout |
  hostQueueMessage | hostQueueLaunch | hostQueueFirmware | outboundAppend | hostWindowRead | hostWindowWrite |
  catalogueCommandAnswer =>
    cases h
  | _ => exact ⟨_, _, _, rfl⟩

/-! ### Words -/

/-- What the fields of a word hold (R47). -/
structure WordHolds (w : BitVec 96) (op fn : Nat) (h : Hd) (ext : BitVec 36) : Prop where
  op : (w.extractLsb' 88 8).toNat = op
  fn : (w.extractLsb' 82 6).toNat = fn
  rm : w.extractLsb' 79 3 = h.rm
  pg : w.extractLsb' 76 3 = h.pg
  d : w.extractLsb' 66 10 = h.d.code
  s1 : w.extractLsb' 56 10 = h.s1.code
  s2 : w.extractLsb' 46 10 = h.s2.code
  s3 : w.extractLsb' 36 10 = h.s3.code
  ext : w.extractLsb' 0 36 = ext

/-- Words that agree below a field and in it agree up to its end. -/
theorem agree_through {n lo k : Nat} {w w' : BitVec n} (h : w.toNat % 2 ^ lo = w'.toNat % 2 ^ lo)
    (e : w.extractLsb' lo k = w'.extractLsb' lo k) : w.toNat % 2 ^ (lo + k) = w'.toNat % 2 ^ (lo + k) := by
  have e' : w.toNat / 2 ^ lo % 2 ^ k = w'.toNat / 2 ^ lo % 2 ^ k := by rw [← field_toNat, ← field_toNat, e]
  rw [pow_add, Nat.mod_mul, Nat.mod_mul, h, e']

/-- The fields fill the word, from EXT up to OP: two words that hold the same are one. -/
theorem WordHolds.unique {w w' : BitVec 96} {op fn : Nat} {h : Hd} {ext : BitVec 36} (a : WordHolds w op fn h ext)
    (b : WordHolds w' op fn h ext) : w = w' := by
  have bottom : w.toNat % 2 ^ 0 = w'.toNat % 2 ^ 0 := by rw [pow_zero, Nat.mod_one, Nat.mod_one]
  have ext := agree_through bottom (a.ext.trans b.ext.symm)
  have s3 := agree_through ext (a.s3.trans b.s3.symm)
  have s2 := agree_through s3 (a.s2.trans b.s2.symm)
  have s1 := agree_through s2 (a.s1.trans b.s1.symm)
  have d := agree_through s1 (a.d.trans b.d.symm)
  have pg := agree_through d (a.pg.trans b.pg.symm)
  have rm := agree_through pg (a.rm.trans b.rm.symm)
  have fn := agree_through rm (BitVec.eq_of_toNat_eq (a.fn.trans b.fn.symm))
  have op := agree_through fn (BitVec.eq_of_toNat_eq (a.op.trans b.op.symm))
  apply BitVec.eq_of_toNat_eq
  rwa [Nat.mod_eq_of_lt w.isLt, Nat.mod_eq_of_lt w'.isLt] at op

/-- The word of an instruction as a number (R47). -/
theorem encode_toNat {i : Instr} {op fn : Nat} {b : Body} (hp : i.parts = some (op, fn, b)) : (encode i).toNat =
    op % 2 ^ 8 * 2 ^ 88 + fn % 2 ^ 6 * 2 ^ 82 + b.hd.rm.toNat * 2 ^ 79 + b.hd.pg.toNat * 2 ^ 76 + b.hd.d.code.toNat * 2 ^ 66 +
      b.hd.s1.code.toNat * 2 ^ 56 + b.hd.s2.code.toNat * 2 ^ 46 + b.hd.s3.code.toNat * 2 ^ 36 + b.ext.toNat := by
  have h : (encode i).toNat = (((((BitVec.ofNat 8 op ++ BitVec.ofNat 6 fn) ++ (b.hd.rm ++ b.hd.pg)) ++
      ((b.hd.d.code ++ b.hd.s1.code) ++ (b.hd.s2.code ++ b.hd.s3.code))) ++ b.ext) :
        BitVec (8 + 6 + (3 + 3) + (10 + 10 + (10 + 10)) + 36)).toNat := by
    unfold encode
    rw [hp]
  rw [h]
  simp only [append_toNat, BitVec.toNat_ofNat]
  omega

theorem encode_holds {i : Instr} {op fn : Nat} {b : Body} (hp : i.parts = some (op, fn, b)) (ho : op < 0xFF)
    (hf : fn < 64) : WordHolds (encode i) op fn b.hd b.ext := by
  have e := encode_toNat hp
  rw [Nat.mod_eq_of_lt (by omega : op < 2 ^ 8), Nat.mod_eq_of_lt (by omega : fn < 2 ^ 6)] at e
  have := b.hd.rm.isLt; have := b.hd.pg.isLt; have := b.hd.d.code.isLt; have := b.hd.s1.code.isLt
  have := b.hd.s2.code.isLt; have := b.hd.s3.code.isLt; have := b.ext.isLt
  constructor
  case op | fn => rw [field_toNat, e]; omega
  all_goals
    apply BitVec.eq_of_toNat_eq
    rw [field_toNat, e]
    omega

theorem usesClassM_of_parts {i : Instr} {op fn : Nat} {o : MOps} (hp : i.parts = some (op, fn, .m o)) :
    i.usesClassM = true := by
  unfold Instr.usesClassM
  rw [hp]

/-- EXT[24] of class M is zero in the words of instructions (R54). -/
theorem reserved_of_parts {i : Instr} {op fn : Nat} {b : Body} (hp : i.parts = some (op, fn, b))
    (hm : i.usesClassM = true) : b.ext.getLsbD 24 = false := by
  unfold Instr.usesClassM at hm
  rw [hp] at hm
  cases b with
  | m o => exact extM_reserved o
  | _ => cases hm

/-- The decoder accepts a word when its register codes are not reserved, the opcode map has its pair, and the fields pass
the checks of R60. -/
theorem decode_ok_iff {w : BitVec 96} {i : Instr} : decode w = .ok i ↔
    ∃ op fn h ext, WordHolds w op fn h ext ∧ op ≠ 0xFF ∧
    decodePair ⟨h, ext⟩ op fn = some i ∧ i.legal = true ∧ (i.usesClassM = true → ext.getLsbD 24 = false) := by
  have e24 : (w.extractLsb' 0 36).getLsbD 24 = w.getLsbD 24 := by
    rw [flag_toNat, flag_toNat, field_toNat]
    congr 1
    apply propext
    omega
  constructor
  · intro hd
    unfold decode at hd
    split_ifs at hd with hff
    split at hd
    case h_2 => cases hd
    case h_1 d s1 s2 s3 hcd hc1 hc2 hc3 =>
    dsimp only at hd
    split at hd
    case h_1 => cases hd
    case h_2 j hj =>
    split_ifs at hd with hl
    cases hd
    rw [Bool.and_eq_true, Bool.not_eq_true', Bool.and_eq_false_imp] at hl
    refine ⟨_, _, _, _, ⟨rfl, rfl, rfl, rfl, (Reg.code_of_ofCode hcd).symm, (Reg.code_of_ofCode hc1).symm,
      (Reg.code_of_ofCode hc2).symm, (Reg.code_of_ofCode hc3).symm, rfl⟩, fun h => hff (BitVec.eq_of_toNat_eq h), hj,
      hl.1, fun hm => e24.trans (hl.2 hm)⟩
  · rintro ⟨op, fn, h, ext, ⟨rfl, rfl, hrm, hpg, hd, h1, h2, h3, rfl⟩, hff, hj, hl, hm⟩
    unfold decode
    rw [if_neg (fun h => hff (by rw [h]; rfl)), hd, h1, h2, h3, hrm, hpg]
    simp only [Reg.ofCode_code, hj]
    refine if_pos ?_
    rw [hl, Bool.true_and, Bool.not_eq_true', Bool.and_eq_false_imp, ← e24]
    exact hm

/-- Every well-formed instruction is what the decoder reads from its word. -/
theorem decode_encode {i : Instr} (hl : i.legal = true) : decode (encode i) = .ok i := by
  obtain ⟨op, fn, body, hp⟩ := parts_of_legal hl
  have hj := decodePair_parts i hl op fn body hp
  obtain ⟨ho, hf, -⟩ := decodePair_mapped hj
  exact decode_ok_iff.mpr ⟨op, fn, body.hd, body.ext, encode_holds hp ho hf, ho.ne, hj, hl, reserved_of_parts hp⟩

/-- Every word that the decoder accepts is the word of a well-formed instruction. -/
theorem encode_decode {w : BitVec 96} {i : Instr} (h : decode w = .ok i) : i.legal = true ∧ encode i = w := by
  obtain ⟨op, fn, hd, ext, hw, -, hj, hl, hm⟩ := decode_ok_iff.mp h
  obtain ⟨ho, hf, body, hp, hr⟩ := decodePair_mapped hj
  have hext : body.ext = ext := hr.ext_eq (by rintro o rfl; exact hm (usesClassM_of_parts hp))
  have he := encode_holds hp ho hf
  rw [hr.hd_eq, hext] at he
  exact ⟨hl, he.unique hw⟩

end Sys2Proof

open Sys2Proof in
/-- Settles O56: the opcode map is read back for every instruction (`decode_encode`), and a word is determined by its
fields (`encode_decode`). -/
theorem decodeEncode : Obligations.DecodeEncode :=
  ⟨fun _ => decode_encode, fun _ _ => encode_decode⟩
end

section
/-! SUPPORT. CMP, SEL and the predicate instructions (R52, R73, R166). -/

namespace Sys2Proof.Machine

/-- The six conditions by their codes (R52). -/
theorem condW_eq (rm : BitVec 3) (a b : Word) : condW rm a b =
    if rm = 0 then a == b else if rm = 1 then a != b else if rm = 2 then a.slt b
    else if rm = 3 then !a.slt b else if rm = 4 then a.ult b else !a.ult b := by
  unfold condW
  match rm with
  | 0 | 1 | 2 | 3 | 4 | 5 | 6 | 7 => rfl

variable {o : AOps} {s sa sb : State} {a b : Word}

theorem exec_cmp (hi : Issues (.cmp o) o.h s) (ha : (o.src o.h.s1).run s = .ok (a, sa))
    (hb : (o.src o.h.s2).run sa = .ok (b, sb)) :
    exec (.cmp o) s = .next ((sb.modCtx (·.wp o.h.d.index (condW o.h.rm a b))).retired (.cmp o)) :=
  issueNext_ok hi (by rw [act_bind_ok ha, act_bind_ok hb, act_writePReg])

theorem exec_sel (hi : Issues (.sel o) o.h s) (ha : (o.src o.h.s2).run s = .ok (a, sa))
    (hb : (o.src o.h.s3).run sa = .ok (b, sb)) :
    exec (.sel o) s = .next ((sb.modCtx (·.wg o.h.d.index
      (if s.ctx.rp o.h.s1.index == (o.h.rm == 0) then a else b))).retired (.sel o)) :=
  issueNext_ok hi (by rw [act_bind_ok (act_readPReg _ _), act_bind_ok ha, act_bind_ok hb, act_writeD])

/-- A predicate instruction of two sources writes the function of the two (R73). -/
theorem predicate2_ok {i : Instr} (hi : Issues i o.h s) (f : Bool → Bool → Bool) : predicate2 i o f s =
    .next ((s.modCtx (·.wp o.h.d.index (f (s.ctx.rp o.h.s1.index) (s.ctx.rp o.h.s2.index)))).retired i) :=
  issueNext_ok hi (by rw [act_bind_ok (act_readPReg _ _), act_bind_ok (act_readPReg _ _), act_writePReg])

theorem exec_pnot (hi : Issues (.pnot o) o.h s) : exec (.pnot o) s =
    .next ((s.modCtx (·.wp o.h.d.index (!s.ctx.rp o.h.s1.index))).retired (.pnot o)) :=
  issueNext_ok hi (by rw [act_bind_ok (act_readPReg _ _), act_writePReg])

end Sys2Proof.Machine

open Sys2Proof.Machine in
/-- Settles O6: each form reads its sources in order and writes its D once (`exec_cmp`, `exec_sel`, `predicate2_ok`). -/
theorem comparesAndPredicates : Obligations.ComparesAndPredicates := by
  refine ⟨fun o s sa sb a b => ⟨fun hi ha hb => ?_, fun hi ha hb => ?_⟩, fun o s =>
    ⟨(predicate2_ok · _), (predicate2_ok · _), (predicate2_ok · _), exec_pnot⟩⟩
  · rw [exec_cmp hi ha hb, condW_eq]
  · rw [exec_sel hi ha hb]
    simp only [beq_eq_decide, decide_eq_true_eq]
end

section
/-! SUPPORT. The acts of a core's own machinery: what a started firing finds, how a line arrives, and each event when it is
due (R45, R67, R78, R116, R125, R260, R274, R356). -/

namespace Sys2Proof.Machine

/-! ### What a change of a core leaves alone -/

section
variable {s t : State} {j k fc slot : Nat}

theorem ctxOf_modCore {f : Core → Core} (hf : ∀ c, (f c).ctx = c.ctx) : (s.modCore k f).ctxOf j fc = s.ctxOf j fc := by
  by_cases h : j = k
  · subst h
    simp only [State.ctxOf, State.coreAt_modCore, Core.ctxAt, hf]
  · simp only [State.ctxOf, State.coreAt_modCore_other s h]

@[simp] theorem ctxOf_setBound (f : Bound → Bound) : (s.setBound k slot f).ctxOf j fc = s.ctxOf j fc :=
  ctxOf_modCore (fun c => by split <;> rfl)

/-- A bound actor that is changed is found as changed. -/
theorem binds_setBound {b : Bound} (f : Bound → Bound) (h : tfind (s.coreAt k).binds slot = some b) :
    tfind ((s.setBound k slot f).coreAt k).binds slot = some (f b) := by
  simp only [State.setBound, State.coreAt_modCore, h, tfind_tset, ↓reduceIte]

theorem page_modCore {f : Core → Core} (hf : ∀ c, (f c).page = c.page) :
    ((s.modCore k f).coreAt k).page = (s.coreAt k).page := by
  rw [State.coreAt_modCore, hf]

theorem page_setBound (f : Bound → Bound) : ((s.setBound k slot f).coreAt k).page = (s.coreAt k).page :=
  page_modCore (fun c => by split <;> rfl)

theorem ctxOf_queueRelin : (s.queueRelin k slot).ctxOf j fc = s.ctxOf j fc := by
  unfold State.queueRelin
  split
  · rfl
  · split
    · rw [ctxOf_setBound]
      exact ctxOf_modCore (fun _ => rfl)
    · rw [ctxOf_setBound]

theorem ctxOf_dequeRoom : (s.dequeRoom k).ctxOf j fc = s.ctxOf j fc := by
  unfold State.dequeRoom
  split
  · exact ctxOf_queueRelin
  · rfl

/-- A context the scheduler takes has no unacknowledged store (R356). -/
theorem unacked_of_free (h : s.freeContext k = some fc) : (s.ctxOf k fc).unacked = 0 := by
  have hf := List.find?_some h
  simp only [Ctx.isFree, Bool.and_eq_true, beq_iff_eq] at hf
  exact hf.2

end

/-! ### The start state -/

/-- Nothing of an earlier firing is left in a context, and its idempotent region starts at the pc (R67, R79). -/
def StartsFresh (c : Ctx) : Prop :=
  c.mode = .u ∧ c.fflags = 0 ∧ c.evlatch = 0 ∧ c.q0 = [] ∧ c.q1 = [] ∧ c.xseq = [] ∧ c.xbusy = false ∧
    (∀ q, (c.stream q).pat = none) ∧ c.unacked = 0 ∧ c.idem.start = true ∧ c.idem.entry = c.pc ∧ c.idem.committed = false

/-- The bound actor whose launch gives a firing its window bases (R67). -/
def State.boundOf (s : State) (core : Nat) (f : Firing) : Option Bound :=
  if f.act.isSome then tfind (s.coreAt core).binds f.slot else none

section
variable {s t : State} {core : Nat} {f : Firing} {b b' : Bound}

/-- The page of a launch is found in the packages under the actor's region and argument base, or is the core's own (R8). -/
theorem pageOf_boundOf (ha : f.act.isSome = true) (hb : tfind (t.coreAt core).binds f.slot = some b')
    (hr : b'.rcb = b.rcb) (hab : b'.abase = b.abase) (hp : t.packages = s.packages)
    (hk : (t.coreAt core).page = (s.coreAt core).page) : t.pageOf core (t.boundOf core f) = s.pageOf core (some b) := by
  simp only [State.boundOf, ha, ↓reduceIte, hb, State.pageOf, Option.bind_some, State.regionAt, State.regionPkg,
    State.pkgAt, hr, hab, hp, hk]

end

section
variable (s : State) (core fc : Nat) (f : Firing) (pc : Word) (g : Vector Word 32) (p : Vector Bool 8) (stream : Nat)

/-- The context of a started firing, up to its clock, its transfer's address and its random stream. -/
theorem startCtx_ctxOf : ∃ cts w rng, (s.startCtx core fc f pc g p stream).ctxOf core fc =
    { (s.ctxOf core fc).freed with
      cts := cts, firing := some f, pc := pc, g := g, p := p, win := (s.pageOf core (s.boundOf core f)).wins, rngstr := rng,
      catErr := none, xfer := some w,
      idem := { Idem.reset with
        entry := pc, start := true, startG := g, startWin := (s.pageOf core (s.boundOf core f)).wins, preds := p } } :=
  ⟨_, _, _, State.ctxOf_modCtxOf _ _ _ _⟩

variable {s core fc}

theorem startCtx_fresh (hu : (s.ctxOf core fc).unacked = 0) :
    StartsFresh ((s.startCtx core fc f pc g p stream).ctxOf core fc) := by
  obtain ⟨cts, w, rng, h⟩ := startCtx_ctxOf s core fc f pc g p stream
  rw [h]
  refine ⟨rfl, rfl, rfl, rfl, rfl, rfl, rfl, fun q => ?_, hu, rfl, rfl, rfl⟩
  simp only [Ctx.stream, Ctx.freed, Ctx.reset, Vector.getElem_replicate]
  rfl

variable (s core fc)

theorem startCtx_pc : ((s.startCtx core fc f pc g p stream).ctxOf core fc).pc = pc := by
  obtain ⟨cts, w, rng, h⟩ := startCtx_ctxOf s core fc f pc g p stream
  rw [h]

theorem startCtx_win : ((s.startCtx core fc f pc g p stream).ctxOf core fc).win = (s.pageOf core (s.boundOf core f)).wins := by
  obtain ⟨cts, w, rng, h⟩ := startCtx_ctxOf s core fc f pc g p stream
  rw [h]

theorem startCtx_rg {j : Nat} (h0 : 0 < j) (hj : j < 32) :
    ((s.startCtx core fc f pc g p stream).ctxOf core fc).rg j = g[j] := by
  obtain ⟨cts, w, rng, h⟩ := startCtx_ctxOf s core fc f pc g p stream
  rw [h]
  simp only [Ctx.rg, Nat.mod_eq_of_lt hj, h0.ne', ↓reduceIte]

theorem startCtx_rp {j : Nat} (h0 : 0 < j) (hj : j < 8) :
    ((s.startCtx core fc f pc g p stream).ctxOf core fc).rp j = p[j] := by
  obtain ⟨cts, w, rng, h⟩ := startCtx_ctxOf s core fc f pc g p stream
  rw [h]
  simp only [Ctx.rp, Nat.mod_eq_of_lt hj, h0.ne', ↓reduceIte]

end

/-! ### A started actor -/

section
variable {s : State} {core fc slot : Nat} {b : Bound}

/-- g2 to g9 hold the eight words of a message (R309). -/
def loadMessage (g : Vector Word 32) (m : List Word) : Vector Word 32 :=
  (List.range 8).foldl (fun g k => g.set! (2 + k) (m.getD k 0)) g

theorem loadMessage_get (g : Vector Word 32) (m : List Word) {i : Nat} (hi : i < 32) :
    (loadMessage g m)[i] = if 2 ≤ i ∧ i < 10 then m.getD (i - 2) 0 else g[i] := by
  have upTo (n : Nat) : ((List.range n).foldl (fun g k => g.set! (2 + k) (m.getD k 0)) g)[i] =
      if 2 ≤ i ∧ i < 2 + n then m.getD (i - 2) 0 else g[i] := by
    induction n with
    | zero => rw [if_neg (by omega)]; rfl
    | succ n ih =>
      rw [List.range_succ, List.foldl_concat, Vector.set!_eq_setIfInBounds, Vector.getElem_setIfInBounds]
      by_cases h : 2 + n = i
      · subst h
        rw [if_pos rfl, if_pos (by omega), Nat.add_sub_cancel_left]
      · rw [if_neg h, ih]
        exact if_congr (by omega) rfl rfl
  exact upTo 8

/-- The registers of a started actor: g1 is STATE, and g2 to g9 of a handler its oldest message (R67, R309). -/
def State.actorRegs (s : State) (core : Nat) (b : Bound) : Vector Word 32 :=
  let g1 := (Vector.replicate 32 (0 : Word)).set 1 b.d.state
  match b.isHandler, b.mailbox with
  | true, some n =>
    loadMessage g1 (match tfind (s.coreAt core).mailboxes n with | some m => m.msgs.headD [] | none => [])
  | _, _ => g1

theorem actorRegs_state : (s.actorRegs core b)[1] = b.d.state := by
  unfold State.actorRegs
  split
  · rw [loadMessage_get _ _ (by omega), if_neg (by omega)]
    rfl
  · rfl

theorem firstRegs_zero (x : Word) {j : Nat} (h1 : 1 < j) (hj : j < 32) :
    ((Vector.replicate 32 (0 : Word)).set 1 x)[j] = 0 := by
  rw [Vector.getElem_set_ne _ _ h1.ne, Vector.getElem_replicate]

theorem actorRegs_high {j : Nat} (h : 10 ≤ j) (hj : j < 32) : (s.actorRegs core b)[j] = 0 := by
  unfold State.actorRegs
  split
  · rw [loadMessage_get _ _ hj, if_neg (by omega), firstRegs_zero _ (by omega) hj]
  · exact firstRegs_zero _ (by omega) hj

theorem actorRegs_plain (hb : b.isHandler = false) {j : Nat} (h : 2 ≤ j) (hj : j < 32) : (s.actorRegs core b)[j] = 0 := by
  simp only [State.actorRegs, hb]
  exact firstRegs_zero _ h hj

theorem actorRegs_message {n : Nat} {m : Mailbox} (hb : b.isHandler = true) (hn : b.mailbox = some n)
    (hm : tfind (s.coreAt core).mailboxes n = some m) {j : Nat} (hj : j < 8) :
    (s.actorRegs core b)[2 + j] = (m.msgs.headD []).getD j 0 := by
  simp only [State.actorRegs, hb, hn, hm]
  rw [loadMessage_get _ _ (by omega), if_pos (by omega), Nat.add_sub_cancel_left]

/-- A bound actor's firing starts at ENTRY with its registers and no predicate, on the context as it was, and finds the
page of its own launch (R66, R67). -/
theorem startActor_eq (h : tfind (s.coreAt core).binds slot = some b) : ∃ t f g rs,
    s.startActor core fc slot b = State.startCtx t core fc f b.d.entry g (Vector.replicate 8 false) rs ∧
    g = s.actorRegs core b ∧ t.ctxOf core fc = s.ctxOf core fc ∧
    t.pageOf core (t.boundOf core f) = s.pageOf core (some b) := by
  unfold State.startActor
  split
  case h_1 n hb hn =>
    refine ⟨_, _, _, _, rfl, ?_, ?_, pageOf_boundOf rfl (binds_setBound _ (b := b) ?_) rfl rfl rfl ?_⟩
    · simp only [State.actorRegs, hb, hn, State.coreAt_modCore]
      rfl
    · exact (ctxOf_setBound _).trans ((ctxOf_modCore (fun c => by split <;> rfl)).trans (ctxOf_modCore (fun _ => rfl)))
    · rw [State.coreAt_modCore, State.coreAt_modCore]
      split <;> exact h
    · exact (page_setBound _).trans ((page_modCore (fun c => by split <;> rfl)).trans (page_modCore (fun _ => rfl)))
  case h_2 hother =>
    refine ⟨_, _, _, _, rfl, ?_, ?_, pageOf_boundOf rfl (binds_setBound _ (b := b) ?_) rfl rfl rfl ?_⟩
    · unfold State.actorRegs
      split
      case h_1 hb hn => exact absurd hn (fun hn => hother _ hb hn)
      case h_2 => rfl
    · exact (ctxOf_setBound _).trans (ctxOf_modCore (fun _ => rfl))
    · rw [State.coreAt_modCore]
      exact h
    · exact (page_setBound _).trans (page_modCore (fun _ => rfl))

/-- The scheduler's choice of a bound actor starts it (R356). -/
theorem startFiring_actor (hf : s.freeContext core = some fc) (hc : s.choose core = some (.actor slot))
    (hb : tfind (s.coreAt core).binds slot = some b) : s.startFiring core = s.startActor core fc slot b := by
  simp only [State.startFiring, hf, hc, hb]

/-- A firing of an actor starts in the state of R67: with ENTRY, STATE and the window bases of its launch, and a handler
with its message. -/
theorem startFiring_actor_ctx {c : Ctx} (hs : (s.startFiring core).ctxOf core fc = c) (hf : s.freeContext core = some fc)
    (hc : s.choose core = some (.actor slot)) (hb : tfind (s.coreAt core).binds slot = some b) :
    StartsFresh c ∧ c.pc = b.d.entry ∧ c.win = (s.pageOf core (some b)).wins ∧ (∀ j, 0 < j → j < 8 → c.rp j = false) ∧
      ∀ j, 0 < j → (hj : j < 32) → c.rg j = (s.actorRegs core b)[j] := by
  obtain ⟨t, f, g, rs, ht, rfl, hctx, hpage⟩ := startActor_eq (fc := fc) hb
  rw [startFiring_actor hf hc hb, ht] at hs
  subst hs
  refine ⟨startCtx_fresh _ _ _ _ _ ?_, startCtx_pc .., ?_, fun j h0 hj => ?_,
    fun j h0 hj => startCtx_rg (h0 := h0) (hj := hj) ..⟩
  · rw [hctx]
    exact unacked_of_free hf
  · rw [startCtx_win, hpage]
  · rw [startCtx_rp (h0 := h0) (hj := hj) .., Vector.getElem_replicate]

end

/-! ### A started task -/

section
variable {s : State} {core fc : Nat} {t : Task}

theorem predsOf_get (x : BitVec 7) {j : Nat} (h0 : 0 < j) (hj : j < 8) : (predsOf x)[j] = x.getLsbD (j - 1) := by
  match j with
  | 1 | 2 | 3 | 4 | 5 | 6 | 7 => rfl

theorem startTask_eq : ∃ u f rs, s.startTask core fc t =
      State.startCtx u core fc f t.pc (t.g.set 31 0) (predsOf t.preds) rs ∧ u.ctxOf core fc = s.ctxOf core fc := by
  refine ⟨_, _, _, rfl, ?_⟩
  split
  · exact ctxOf_modCore (fun _ => rfl)
  · rfl

/-- The scheduler's choice of the deque takes its newest record (R301, R356). -/
theorem startFiring_task (hf : s.freeContext core = some fc) (hc : s.choose core = some .task)
    (ht : (s.coreAt core).deque.getLast? = some t) : s.startFiring core =
      ((s.modCore core (fun c => { c with deque := c.deque.dropLast })).startTask core fc t).dequeRoom core := by
  simp only [State.startFiring, hf, hc, ht]

/-- A task starts with the pc, registers and predicates of its record (R305). -/
theorem startFiring_task_ctx {c : Ctx} (hs : (s.startFiring core).ctxOf core fc = c) (hf : s.freeContext core = some fc)
    (hc : s.choose core = some .task) (ht : (s.coreAt core).deque.getLast? = some t) :
    StartsFresh c ∧ c.pc = t.pc ∧ (∀ j, 0 < j → (hj : j < 32) → c.rg j = (t.g.set 31 0)[j]) ∧
      ∀ j, 0 < j → j < 8 → c.rp j = t.preds.getLsbD (j - 1) := by
  obtain ⟨u, f, rs, hu, hctx⟩ := startTask_eq (s := s.modCore core (fun c => { c with deque := c.deque.dropLast }))
    (core := core) (fc := fc) (t := t)
  rw [startFiring_task hf hc ht, ctxOf_dequeRoom, hu] at hs
  subst hs
  refine ⟨startCtx_fresh _ _ _ _ _ ?_, startCtx_pc .., fun j h0 hj => startCtx_rg (h0 := h0) (hj := hj) .., fun j h0 hj => ?_⟩
  · rw [hctx.trans (ctxOf_modCore (fun _ => rfl))]
    exact unacked_of_free hf
  · rw [startCtx_rp (h0 := h0) (hj := hj) .., predsOf_get _ h0 hj]

end

/-! ### The arrival of a line -/

/-- Nothing keeps back or refuses the line of the current context's pc: it is read at p, and the lookup leaves t (R44, R45,
R363, R376, R386). -/
structure LineReached (s t : State) (p : Phys) : Prop where
  inSpace : s.ctx.pc.toNat < 2 ^ 56
  atSlot : bits s.ctx.pc.toNat 5 3 = 0
  slotFits : s.ctx.pc.toNat % 8 < 5
  walked : s.walkWaits (.core s.core) (s.effPtroot s.ctx.rcb) (s.ctx.pc.toNat / 64 * 64) = false
  found : translate s (.core s.core) (s.effPtroot s.ctx.rcb) .x (s.ctx.pc.toNat / 64 * 64) = .ok (p, t)
  settled : p.inReclass t = false
  unheld : gaSpace p.ga = 0 → t.lineHeld p.ga = false
  allowed : p.check t s.ctx.mode s.core .x = .ok ()
  sound : t.bad p.ga 64 = false

section
variable {s t : State} {p : Phys}

/-- The state once the home slice has been filled from DRAM. -/
def State.lineRead (t : State) (p : Phys) : State := if p.isDram then t.sliceFill p.ga 64 else t

/-- The line as it arrives, some of its bits flipped. -/
def State.lineOfPc (s t : State) (p : Phys) (flips : BitVec 512) : Line :=
  ⟨word (s.ctx.pc.toNat / 64 * 64), BitVec.ofNat 512 ((t.lineRead p).peek p.ga 64) ^^^ flips⟩

/-- A line that arrives is kept when its parity is right, fetched again when it is wrong for the first time, and raises
MACHINE_FETCH when it is wrong again (R45). -/
theorem fetchLine_reached (h : LineReached s t p) (flips : BitVec 512) : s.fetchLine flips =
    if (s.lineOfPc t p flips).parityOk then
      (t.lineRead p).modCtx (fun c => { c with line := some (s.lineOfPc t p flips), refetch := false })
    else if !s.ctx.refetch then ((t.lineRead p).modCtx (fun c => { c with refetch := true })).modHere (·.count 6)
    else ((t.lineRead p).modCtx (fun c => { c with refetch := false })).takeTrapA
      (s.ctx.fetchTrap cMACHINE_FETCH (word (s.ctx.pc.toNat / 64 * 64)) none) := by
  have target : ¬ (2 ^ 56 ≤ s.ctx.pc.toNat ∨ bits s.ctx.pc.toNat 5 3 ≠ 0 ∨ 5 ≤ s.ctx.pc.toNat % 8) := by
    rintro (h1 | h2 | h3)
    · exact absurd h.inSpace h1.not_gt
    · exact h2 h.atSlot
    · exact absurd h.slotFits h3.not_gt
  have unheld : (gaSpace p.ga == 0 && t.lineHeld p.ga) = false := by
    rw [Bool.and_eq_false_imp, beq_iff_eq]
    exact h.unheld
  unfold State.fetchLine
  simp only [if_neg target, h.walked, h.found, h.settled, unheld, h.allowed, h.sound, Bool.or_self, Bool.false_eq_true,
    ↓reduceIte]
  rfl

end

/-! ### Events that are due -/

section
variable {s : State} {core fc : Nat}

theorem exec_lineFetch (flips : BitVec 512) (hn : (s.at core fc).ctx.needsLine = true)
    (hr : (s.at core fc).ctx.refetch = false) (ho : (s.pkgAt (corePkg core)).off = false) :
    exec (.lineFetch core fc flips) s = .next ((s.at core fc).fetchLine flips) := by
  change Host.Outcome.next (if _ then _ else _) = _
  simp only [hn, hr, ho, Bool.not_false, Bool.and_self, ↓reduceIte]

theorem exec_lineRefetch (flips : BitVec 512) (hn : (s.at core fc).ctx.needsLine = true)
    (hr : (s.at core fc).ctx.refetch = true) (ho : (s.pkgAt (corePkg core)).off = false) :
    exec (.lineRefetch core fc flips) s = .next ((s.at core fc).fetchLine flips) := by
  change Host.Outcome.next (if _ then _ else _) = _
  simp only [hn, hr, ho, Bool.not_false, Bool.and_self, ↓reduceIte]

theorem exec_trapEntry (h : (s.ctxOf core fc).trapReady = true) :
    exec (.trapEntry core fc) s = .next (s.enterTrap core (fc % 4)) :=
  congrArg _ (if_pos h)

theorem exec_firingStart (hc : s.canStart core = true) (hb : s.startsBad core = false) :
    exec (.firingStart core) s = .next (s.startFiring core) := by
  change Host.Outcome.next (if _ then _ else _) = _
  rw [if_pos hc, hb]
  cases s.freeContext core <;> rfl

theorem exec_firingStart_bad (hc : s.canStart core = true) (hb : s.startsBad core = true)
    (hf : s.freeContext core = some fc) : exec (.firingStart core) s =
      .next (((s.startFiring core).at core fc).takeTrapA { cause := cMACHINE_UE }) := by
  change Host.Outcome.next (if _ then _ else _) = _
  rw [if_pos hc, hb, hf]

theorem exec_xloopPass (hd : (s.ctxOf core fc).passDue = true) (hb : (s.ctxOf core fc).xbusy = false)
    (hx : (s.ctxOf core fc).xfrozen = false) :
    exec (.xloopPass core fc) s = .next (s.modCtxOf core fc Ctx.nextPass) := by
  change Host.Outcome.next (if _ then _ else _) = _
  simp only [hd, hb, hx, Bool.not_false, Bool.and_self, ↓reduceIte]

theorem exec_coreRetentionEntry (h : s.canSleep core = true) (hd : (s.coreAt core).depth ≠ 3) :
    exec (.coreRetentionEntry core) s = .next (s.modCore core (fun c => { c with cur := c.depth })) := by
  change Host.Outcome.next (if _ then _ else _) = _
  simp only [h, ↓reduceIte, beq_eq_false_iff_ne.mpr hd, Bool.false_eq_true]

/-- Depth 3 writes back and invalidates the CCH role first (R125). -/
theorem exec_coreRetentionEntry_deep (h : s.canSleep core = true) (hd : (s.coreAt core).depth = 3) :
    exec (.coreRetentionEntry core) s = .next ((s.flushAll core).modCore core (fun c => { c with cur := c.depth })) := by
  change Host.Outcome.next (if _ then _ else _) = _
  simp only [h, ↓reduceIte, hd, beq_self_eq_true]

theorem exec_coreWake (h : s.canWake core = true) :
    exec (.coreWake core) s = .next (s.modCore core (fun c => { c with cur := 0, quietSince := s.now })) :=
  congrArg _ (if_pos h)

theorem exec_ctsAdvance (h : (s.coreAt core).ctsAt + max 1 (s.coreAt core).ladv.toNat ≤ s.now) :
    exec (.ctsAdvance core) s = .next (s.modCore core (fun c => { c with
      ctsAt := c.ctsAt + max 1 c.ladv.toNat, ctx := c.ctx.map (fun x => { x with cts := x.cts + 1 }) })) :=
  congrArg _ (if_pos (decide_eq_true h))

/-- A recheck of a POOLSET.wait that waits for the pool is the instruction again (R116). -/
theorem exec_poolMoveRecheck {st : Stall} {o : AOps} (hs : (s.at core fc).ctx.stall = some st) (hw : st.why = .pool)
    (hc : (s.at core fc).ctx.current = some (.poolsetWait o)) :
    exec (.poolMoveRecheck core fc) s = exec (.poolsetWait o) (s.at core fc) := by
  change execPoolMoveRecheck core fc s = execPoolsetWait o (s.at core fc)
  simp only [execPoolMoveRecheck, hs, hc, hw, beq_self_eq_true, ↓reduceIte]

end

/-! ### POOLSET.wait -/

/-- The code of the checks of a POOLSET of the current context (R111, R113). -/
def State.poolsetCode (s : State) (o : AOps) : Nat :=
  s.poolCheck s.core s.ctx.rcb s.ownBound (roleField o.ext.toNat 9) (roleField o.ext.toNat 6) (bits o.ext.toNat 5 0)

section
variable {s : State} {o : AOps}

/-- When the checks pass, the move begins and the instruction waits for its end (R114). -/
theorem exec_poolsetWait_begins (hi : Issues (.poolsetWait o) o.h s) (hc : s.poolsetCode o = 0) :
    exec (.poolsetWait o) s = .next (((({ s with fresh := s.fresh + 1 } : State).modHere (fun c => { c with
      move := some ⟨roleField o.ext.toNat 9, roleField o.ext.toNat 6, bits o.ext.toNat 5 0, s.fc % 4⟩ })).modCtx
        (fun c => { c with awaited := some (.poolMove o.h.d), stall := none })).stayed (.poolsetWait o)) := by
  refine issue_stay hi ?_
  unfold State.poolsetCode at hc
  unfold poolset
  rw [act_bind_ok (act_get s), act_bind_ok (act_modify _ s)]
  simp only [hc, ne_eq, not_true_eq_false, Nat.reduceBEq, Bool.or_self, Bool.and_false, Bool.false_eq_true, ↓reduceIte]
  rfl

/-- A code that is neither IN_PROGRESS nor BUSY_FILL is the answer (R113, R116). -/
theorem exec_poolsetWait_answers (hi : Issues (.poolsetWait o) o.h s) (h0 : s.poolsetCode o ≠ 0)
    (h1 : s.poolsetCode o ≠ 1) (h7 : s.poolsetCode o ≠ 7) : exec (.poolsetWait o) s = .next
      ((({ s with fresh := s.fresh + 1 } : State).modCtx (·.wg o.h.d.index (word (s.poolsetCode o)))).retired
        (.poolsetWait o)) := by
  refine issue_next hi ?_
  unfold State.poolsetCode at *
  unfold poolset
  rw [act_bind_ok (act_get s), act_bind_ok (act_modify _ s)]
  simp only [beq_eq_false_iff_ne.mpr h1, beq_eq_false_iff_ne.mpr h7, Bool.or_self, Bool.and_false, Bool.false_eq_true,
    if_pos h0, ↓reduceIte]
  rfl

end

end Sys2Proof.Machine

open Sys2Proof.Machine in
/-- Settles O15: each event that is due has its effect, a started firing the state of R67, and a line that arrives the
outcome its parity gives it. -/
theorem coreEvents : Obligations.CoreEvents := by
  refine ⟨fun s core fc flips => ⟨exec_trapEntry, exec_firingStart, fun k hc hb hf => exec_firingStart_bad hc hb hf,
    fun k hf => ⟨fun slot b hc hb => ?_, fun t hc ht => ?_⟩, exec_lineFetch flips, exec_lineRefetch flips, exec_xloopPass,
    fun st o => exec_poolMoveRecheck, fun st o hs hw hc hi => ⟨fun h0 => ?_, fun h0 h1 h7 => ?_⟩, exec_coreRetentionEntry,
    exec_coreRetentionEntry_deep, exec_coreWake, exec_ctsAdvance⟩,
    fun s t flips p h1 h2 h3 h4 h5 h6 h7 h8 h9 => ⟨fun hp => ?_, fun hp hr => ?_, fun hp hr => ?_⟩⟩
  · obtain ⟨fresh, hpc, hwin, hrp, hrg⟩ := startFiring_actor_ctx rfl hf hc hb
    refine ⟨fresh, hpc, (hrg 1 (by omega) (by omega)).trans actorRegs_state, hwin, hrp, fun j h hj => ?_,
      fun hn j h hj => ?_, fun n m hh hn hm j hj => ?_⟩
    · rw [hrg j (by omega) hj, actorRegs_high h hj]
    · rw [hrg j (by omega) (by omega), actorRegs_plain hn h (by omega)]
    · rw [hrg (2 + j) (by omega) (by omega), actorRegs_message hh hn hm hj]
  · obtain ⟨fresh, hpc, hrg, hrp⟩ := startFiring_task_ctx rfl hf hc ht
    refine ⟨fresh, hpc, ?_, fun j h0 hj => ?_, hrp⟩
    · rw [hrg 31 (by omega) (by omega), Vector.getElem_set_self]
    · rw [hrg j h0 (by omega), Vector.getElem_set_ne _ _ (by omega)]
  · rw [exec_poolMoveRecheck hs hw hc, exec_poolsetWait_begins hi h0]
    rfl
  · rw [exec_poolMoveRecheck hs hw hc, exec_poolsetWait_answers hi h0 h1 h7]
    rfl
  all_goals have reached : LineReached s t p := ⟨h1, h2, h3, h4, h5, h6, h7, h8, h9⟩
  · exact (fetchLine_reached reached flips).trans (if_pos hp)
  · have wrong : (s.lineOfPc t p flips).parityOk = false := hp
    refine (fetchLine_reached reached flips).trans ?_
    rw [if_neg (by rw [wrong]; exact Bool.false_ne_true), if_pos (by rw [hr]; rfl)]
    rfl
  · have wrong : (s.lineOfPc t p flips).parityOk = false := hp
    refine ⟨s.ctx.xfer.or none, (fetchLine_reached reached flips).trans ?_⟩
    rw [if_neg (by rw [wrong]; exact Bool.false_ne_true), if_neg (by rw [hr]; exact Bool.false_ne_true)]
    rfl
end

section
/-! SUPPORT. Words that the spec writes out (R59, R77, R166, R264, R298, R377). -/

namespace Sys2Proof

theorem decode_of_encode {w : BitVec 96} {i : Instr} (hl : i.legal = true) (he : encode i = w) : decode w = .ok i := by
  rw [← he, decode_encode hl]

end Sys2Proof

open Sys2Proof in
/-- Settles O57: each instruction is well-formed and has the word the spec gives, so the decoder reads it back
(`decode_encode`). -/
theorem decodedWords : Obligations.DecodedWords := by
  refine ⟨?_, ?_, ?_, ?_, ?_, ?_, ?_, ?_, ?_, ?_, ?_, ?_, ?_, ?_, ?_, ?_, ?_, ?_⟩ <;>
    exact decode_of_encode (by decide) (by decide)
end

section
/-! SUPPORT. What stands at a slot, and what issuing it does (R38, R40, R44, R60, R88). -/

namespace Sys2Proof.Machine

/-! ### The slot at the pc -/

/-- The slot at the pc is looked at: a transfer's target test passes, the line word's reserved bits are zero, and the
template has the slot as a place of this kind (R36, R38, R44). -/
structure SlotReached (c : Ctx) (l : Line) (kind : SlotKind) : Prop where
  target : c.xfer = none ∨ l.targetOk c.pc = true
  reserved : bits l.lineWord 21 16 = 0
  place : l.template[c.pc.toNat % 8]? = some kind

section
variable {c : Ctx} {l : Line} {kind : SlotKind} {i : Instr}

theorem SlotReached.passes (h : SlotReached c l kind) : (c.xfer.isSome && !l.targetOk c.pc) = false := by
  rcases h.target with ht | ht <;> simp [ht]

/-- A word that decodes to a command without follow-on, in a place of its stream that is no pair of the E stream, is the
instruction (R40, R60). -/
theorem slotAt_ok (h : SlotReached c l kind) (hd : decode (l.slot (c.pc.toNat % 8)) = .ok i)
    (hs : i.stream = kind.stream) (hf : hasFollow i = false) (he : kind ≠ .pairE) (hx : kind ≠ .followX) :
    slotAt c l = .ok i := by
  unfold slotAt
  simp only [h.passes, h.reserved, pcSlot, h.place, Line.instr, hd, hs, bne_self_eq_false, Bool.false_eq_true, ↓reduceIte,
    ne_eq, not_true_eq_false]
  cases kind with
  | pairE => exact absurd rfl he
  | followX => exact absurd rfl hx
  | a | x | e | pairX => exact if_neg (by rw [hf]; exact Bool.false_ne_true)

/-- A word that decodes to nothing is illegal (R60). -/
theorem slotAt_undecoded (h : SlotReached c l kind) {e : DecodeError} (hd : decode (l.slot (c.pc.toNat % 8)) = .error e) :
    slotAt c l = .error (illegalOp (l.slot (c.pc.toNat % 8))) := by
  unfold slotAt
  simp only [h.passes, h.reserved, pcSlot, h.place, Line.instr, hd, Bool.false_eq_true, ↓reduceIte, ne_eq,
    not_true_eq_false]

/-- An instruction in a place of another stream is illegal (R38, R60). -/
theorem slotAt_otherStream (h : SlotReached c l kind) (hd : decode (l.slot (c.pc.toNat % 8)) = .ok i)
    (hs : i.stream ≠ kind.stream) : slotAt c l = .error (illegalOp (l.slot (c.pc.toNat % 8))) := by
  unfold slotAt
  simp only [h.passes, h.reserved, pcSlot, h.place, Line.instr, hd, bne_iff_ne.mpr hs, Bool.false_eq_true, ↓reduceIte,
    ne_eq, not_true_eq_false]

end

/-! ### Issuing it -/

section
variable {s : State} {k fc : Nat} {l : Line}

theorem ctx_at (s : State) (k fc : Nat) : (s.at k fc).ctx = s.ctxOf k fc := by
  simp only [State.ctx, State.ctxOf, State.at, State.coreAt, Core.ctxAt, Nat.mod_mod]

/-- A slot that is an instruction has its meaning. -/
theorem issueSlot_ok {i : Instr} (hl : (s.ctxOf k fc).line = some l) (hi : slotAt (s.ctxOf k fc) l = .ok i) :
    issueSlot s k fc = exec i (s.at k fc) := by
  unfold issueSlot
  simp only [ctx_at, hl, hi]

/-- A slot that is none raises its trap. -/
theorem issueSlot_error {t : Trap} (hl : (s.ctxOf k fc).line = some l) (ht : slotAt (s.ctxOf k fc) l = .error t) :
    issueSlot s k fc = .next ((s.at k fc).takeTrapA t) := by
  unfold issueSlot
  simp only [ctx_at, hl, ht]

/-- The context whose turn it is issues, after time has passed. -/
theorem step_turn (ht : s.turn = some (k, fc)) (hi : s.issuable k fc = true) : step s = issueSlot s.tickOn k fc := by
  unfold step
  rw [ht]
  exact if_pos hi

/-- The context the pointer names comes first in the rotation (R88). -/
theorem rotation_eq (p : BitVec 2) : rotation p = p.toNat :: (rotation p).tail := by
  revert p
  decide

/-- The A-half issues from the context that stands first in the rotation when that one can, and the rotation then points
behind it (R88). -/
theorem perform_issue_first {t : State} (hp : (s.coreAt k).aptr.toNat = fc) (hi : s.issuable k fc = true)
    (hn : issueSlot s k fc = .next t) (hw : t.waits k fc = false) : s.perform (.issue k) =
      .next (t.modCore k (fun c => { c with aptr := BitVec.ofNat 2 (fc + 1), quietSince := t.now })) := by
  subst hp
  change issueFrom k (rotation (s.coreAt k).aptr) s = _
  rw [rotation_eq]
  unfold issueFrom
  simp only [hi, hn, hw, Bool.false_eq_true, ↓reduceIte]

end

end Sys2Proof.Machine

open Sys2Proof.Machine in
/-- Settles O58: what `slotAt` finds decides what `issueSlot` does, and a step or the A-half issues that slot. -/
theorem stepRunsDecoded : Obligations.StepRunsDecoded := by
  intro s k fc l kind i c w hl ht hr hk
  have reached : SlotReached c l kind := ⟨ht, hr, hk⟩
  refine ⟨fun hd hs hf he hx => ?_, fun e hd => issueSlot_error hl (slotAt_undecoded reached hd),
    fun hd hs => issueSlot_error hl (slotAt_otherStream reached hd hs)⟩
  have hi := slotAt_ok reached hd hs hf he hx
  refine ⟨issueSlot_ok hl hi, fun hturn hcan => ?_, fun t hp hcan hn hw => ?_⟩
  · have hc : s.tickOn.ctxOf k fc = c := s.tickOn_ctxOf k fc
    rw [step_turn hturn hcan, issueSlot_ok (hc ▸ hl) (hc ▸ hi)]
  · exact perform_issue_first hp hcan ((issueSlot_ok hl hi).trans hn) hw
end

section
/-! SUPPORT. Where each branch goes (R43, R75). -/

namespace Sys2Proof.Machine

section
variable {o : AOps} {s : State}

theorem exec_br (hi : Issues (.br o) o.h s) :
    exec (.br o) s = .next (s.jumped (.br o) (directTarget s.ctx.pc o.ext)) :=
  issue_jump hi (by rw [act_bind_ok (act_getCtx s)]; rfl)

/-- The link is the sequential successor (R75). -/
theorem exec_brl (hi : Issues (.brl o) o.h s) : exec (.brl o) s = .next
    ((s.modCtx (·.wg o.h.d.index s.ctx.successor)).jumped (.brl o) (directTarget s.ctx.pc o.ext)) :=
  issue_jump hi (by rw [act_bind_ok (act_getCtx s), act_bind_ok (act_writeD _ _ _)]; rfl)

theorem exec_jmp (hi : Issues (.jmp o) o.h s) :
    exec (.jmp o) s = .next (s.jumped (.jmp o) (s.ctx.rg o.h.s1.index)) :=
  issue_jump hi (by rw [act_bind_ok (act_readGReg _ _)]; rfl)

/-- The target is read before the link is written (R75). -/
theorem exec_jmpl (hi : Issues (.jmpl o) o.h s) : exec (.jmpl o) s = .next
    ((s.modCtx (·.wg o.h.d.index s.ctx.successor)).jumped (.jmpl o) (s.ctx.rg o.h.s1.index)) :=
  issue_jump hi (by
    rw [act_bind_ok (act_readGReg _ _), act_bind_ok (act_getCtx s), act_bind_ok (act_writeD _ _ _)]; rfl)

theorem exec_ret (hi : Issues (.ret o) o.h s) : exec (.ret o) s = .next (s.jumped (.ret o) (s.ctx.rg 31)) :=
  issue_jump hi (by rw [act_bind_ok (act_readG _ _)]; rfl)

/-- LOOP goes on when its count has become zero, and else transfers (R75). -/
theorem exec_loop_ends (hi : Issues (.loop o) o.h s) (hn : s.ctx.rg o.h.d.index - 1 = 0) : exec (.loop o) s =
    .next ((s.modCtx (·.wg o.h.d.index (s.ctx.rg o.h.d.index - 1))).retired (.loop o)) :=
  issue_next hi (by rw [act_bind_ok (act_getCtx s), act_bind_ok (act_writeD _ _ _), if_pos hn]; rfl)

theorem exec_loop_again (hi : Issues (.loop o) o.h s) (hn : s.ctx.rg o.h.d.index - 1 ≠ 0) : exec (.loop o) s =
    .next ((s.modCtx (·.wg o.h.d.index (s.ctx.rg o.h.d.index - 1))).jumped (.loop o) (directTarget s.ctx.pc o.ext)) :=
  issue_jump hi (by rw [act_bind_ok (act_getCtx s), act_bind_ok (act_writeD _ _ _), if_neg hn]; rfl)

end

end Sys2Proof.Machine

open Sys2Proof.Machine in
/-- Settles O5: each branch has its own lemma, and LOOP one for either outcome of its count. -/
theorem branches : Obligations.Branches := by
  intro o s
  refine ⟨exec_br, exec_brl, exec_jmp, exec_jmpl, exec_ret, fun hi => ?_⟩
  dsimp only
  split
  case isTrue hn => exact exec_loop_ends hi hn
  case isFalse hn => exact exec_loop_again hi hn
end

section
/-! SUPPORT. NOP, IDEM and XLOOP (R59, R77, R79, R80). -/

namespace Sys2Proof.Machine

section
variable {o : AOps} {s : State}

theorem exec_nop (hi : Issues (.nop o) o.h s) : exec (.nop o) s = .next (s.retired (.nop o)) :=
  issueNext_ok hi (act_pure () s)

/-- The idempotent region that an IDEM at the pc opens (R79, R80). -/
def Ctx.openRegion (c : Ctx) (gmask : BitVec 32) : Ctx :=
  { c with idem := { c.idem with entry := c.pc, gmask := gmask, preds := c.p, committed := false,
                                 serial := c.idem.serial + 1, start := false } }

theorem exec_idem (hi : Issues (.idem o) o.h s) (hb : s.ctx.bodyOpen = false) :
    exec (.idem o) s = .next ((s.modCtx (·.openRegion (o.ext.setWidth 32))).retired (.idem o)) :=
  issueNext_ok hi (by rw [act_bind_ok (act_getCtx s), act_bind_ok (act_unlessFault (by simp [hb]) _ _ _)]; rfl)

/-- The loop that an XLOOP adds: its count is read at dispatch, and it belongs to the region of that moment (R77, R79). -/
def xloopAdded (o : AOps) (c : Ctx) : XLoop where
  region := c.idem.serial
  n := bits o.ext.toNat 35 32 + 1
  count := (c.rg o.h.s1.index).toNat
  sd := stride o.ext.toNat 28
  s1 := stride o.ext.toNat 24
  s2 := stride o.ext.toNat 20
  s3 := stride o.ext.toNat 16
  body := []
  pass := 0
  idx := 0

theorem act_roomInSequencer {c : Ctx} (h : c.xcount < 16) (s : State) : (roomInSequencer c).run s = .ok ((), s) :=
  act_waitUntil (decide_eq_true h) _ _ _

theorem exec_xloop (hi : Issues (.xloop o) o.h s) (hs : s.ctx.xskip = false) (hb : s.ctx.bodyOpen = false)
    (hr : s.ctx.xcount < 16) : exec (.xloop o) s = .next
      ((s.modCtx (fun c => { c with xseq := c.xseq ++ [.loop (xloopAdded o s.ctx)] })).retired (.xloop o)) := by
  have run : (xloopAct o).run s =
      .ok (.next, s.modCtx (fun c => { c with xseq := c.xseq ++ [.loop (xloopAdded o s.ctx)] })) := by
    unfold xloopAct
    rw [act_bind_ok (act_getCtx s)]
    simp only [hs, Bool.false_eq_true, ↓reduceIte]
    rw [act_bind_ok (act_unlessFault (by simp [hb]) _ _ _), act_bind_ok (act_roomInSequencer hr s),
      act_bind_ok (act_readGReg _ _)]
    rfl
  change Host.Outcome.next (if _ then _ else _) = _
  rw [if_pos hi.can, slotAct_ok hi run, issued_next]
  rfl

end

end Sys2Proof.Machine

open Sys2Proof.Machine in
/-- Settles O7: each form with nothing in its way has its one effect (`exec_nop`, `exec_idem`, `exec_xloop`). -/
theorem regionAndLoop : Obligations.RegionAndLoop := fun _ _ => ⟨exec_nop, exec_idem, exec_xloop⟩
end

section
/-! SUPPORT. What the port instructions read, and what PORT_FORWARD moves (R63, R71, R72, R229). -/

namespace Sys2Proof.Machine

/-! ### The actor's own ports -/

theorem act_portOf {rings : List Ring} {k : Nat} {r : Ring} (h : rings[k]? = some r) (s : State) :
    (portOf rings k).run s = .ok (r, s) := by
  unfold portOf
  rw [h]
  rfl

section
variable {o : AOps} {s : State} {b : Bound} {r : Ring}

/-- A port instruction whose K is below the rate writes the address of entry K, from the oldest entry or from the tail
(R72). -/
theorem portEntry_ok {i : Instr} (hi : Issues i o.h s) (hb : s.ownBound = some b) (out : Bool)
    (hr : (if out then b.outs else b.ins)[o.ext.toNat % 8]? = some r) (hk : bits o.ext.toNat 11 4 < r.rate) :
    portEntry i o out s =
      .next ((s.modCtx (·.wg o.h.d.index (word (ringEntry s.core r
        (r.head + (if out then r.count else 0) + bits o.ext.toNat 11 4))))).retired i) := by
  refine issueNext_ok hi ?_
  rw [act_bind_ok (act_get s)]
  simp only [hb]
  rw [act_bind_ok (act_portOf hr s), act_bind_ok (act_unlessFault (decide_eq_true hk) _ _ _), act_writeD]

theorem exec_pcnt (hi : Issues (.pcnt o) o.h s) (hb : s.ownBound = some b)
    (hr : (if bit o.ext.toNat 3 then b.outs else b.ins)[o.ext.toNat % 8]? = some r) : exec (.pcnt o) s =
      .next ((s.modCtx (·.wg o.h.d.index (word (if bit o.ext.toNat 3 then r.depth - r.count else r.count)))).retired
        (.pcnt o)) := by
  refine issueNext_ok hi ?_
  rw [act_bind_ok (act_get s)]
  simp only [hb]
  rw [act_bind_ok (act_portOf hr s), act_writeD]

end

/-! ### Forwarding -/

section
variable {s : State} {core slot port tcore tslot : Nat} {b : Bound} {r q : Ring}

/-- The entry's bytes and the errors among them are copied, before either ring counts it (R63, R386). -/
def State.entryMoved (s : State) (src dst n : Nat) : State :=
  { s with
    mem := Memory.copy s.mem src dst n
    errs := errsAfter s.errs dst n ++
      (s.errs.filter (fun k => decide (src ≤ k ∧ k < src + n))).map (fun k => k - src + dst) }

/-- An entry that can be forwarded is copied, counted in the in ring, and freed in the out ring (R63). -/
theorem exec_portForward (h : s.forwardable core slot port = some (b, r, tcore, tslot, q)) :
    exec (.portForward core slot port) s = .next (
      let t := s.entryMoved (ringEntry core r r.head) (ringEntry tcore q (q.head + q.count)) r.size
      (((t.setBound tcore tslot (fun x => { x with
          ins := x.ins.modify r.tport (fun q => { q with count := q.count + 1 }) })).setBound
        core slot (fun x => { x with outs := x.outs.modify port (fun r =>
          { r with head := (r.head + 1) % max r.depth 1, count := r.count - 1 }) })).refresh tcore tslot).refresh
        core slot) := by
  change execPortForward core slot port s = _
  simp only [execPortForward, h, State.entryMoved, Bool.decide_and]

end

end Sys2Proof.Machine

open Sys2Proof.Machine in
/-- Settles O8: PHEAD and PTAIL are one meaning (`portEntry_ok`), PCNT and PORT_FORWARD each their own. -/
theorem ports : Obligations.Ports := by
  refine ⟨fun o s b r hb => ⟨fun hi hr hk => ?_, fun hi hr hk => portEntry_ok hi hb true hr hk,
    fun hi hr => exec_pcnt hi hb hr⟩, fun s core slot port tcore tslot b r q h => exec_portForward h⟩
  exact portEntry_ok hi hb false hr hk
end

section
/-! SUPPORT. A trap of the X-half that no handler takes (R258, R262). -/

namespace Sys2Proof.Machine

/-- A plain actor's firing in the region whose RCB is at address 0. -/
def plainFiring : Firing where
  kind := .actor
  act := some 0
  slot := 0
  rcb := 0
  entry := 0x400
  stateBlock := 0
  cls := 0
  prio := 1
  trapped := false
  msg := []

/-- A VADD.f32 of v2 and v3 into v1, dispatched from the slot at 0x400. -/
def vaddEntry : XEntry where
  i := .vadd ⟨⟨0, 0, .v 1, .v 2, .v 3, .lit⟩, 0, 0, 0, .f32, .f32, false, false, 0⟩
  pc := 0x400
  live := true
  s1 := 0
  s2 := 0
  s3 := 0
  region := 0
  scales := []
  taken := []
  held := []
  refused := false
  seq := 0

/-- After reset: a firing whose X-half has one entry, on a core with TVEC.EN = 0 in a region without a fault mailbox. -/
def unhandled : State :=
  State.reset.modCtx (fun c => { c with firing := some plainFiring, xseq := [.entry vaddEntry] })

/-- The default action of the fault abandons the firing at once, and with it the frozen entry. -/
theorem unhandled_takeTrapX_xseq :
    (unhandled.takeTrapX 0x400 { cause := cVIEW_RANGE, tval := some 2 }).ctx.xseq = [] := by
  decide

end Sys2Proof.Machine

open Sys2Proof.Machine in
/-- Refutes O9: with TVEC.EN = 0, no fault mailbox and no write outstanding, a trap of an entry of the X-half takes the
default action and abandons the firing at once (R262), so the sequencer is empty instead of frozen with the entry. -/
theorem not_trapEntry : ¬ Obligations.TrapEntry := by
  intro h
  obtain ⟨⟨hx, -⟩, -⟩ := h
  obtain ⟨⟨-, kept, -⟩, -⟩ := hx unhandled plainFiring { cause := cVIEW_RANGE, tval := some 2 } 2 0x400
    (by decide) (by decide) (by decide) rfl rfl rfl
  rw [unhandled_takeTrapX_xseq] at kept
  exact absurd kept (by decide)
end

section
/-! SUPPORT. How a firing ends: the waits of END and YIELD, and what an actor is left with (R66, R69, R70). -/

namespace Sys2Proof.Machine

/-! ### The waits -/

section
variable {s : State}

/-- Nothing is left to wait for (R69, R100, R174). -/
theorem act_quietWaits (h : Claims.Quiet s) : quietWaits.run s = .ok ((), s) := by
  obtain ⟨drained, idle, returned, written⟩ := h
  have drained : (s.ctx.mode == .s || s.ctx.xseq.isEmpty) = true := by
    rcases drained with h | h <;> simp [h]
  unfold quietWaits
  rw [act_bind_ok (act_get s), act_bind_ok (act_waitUntil drained _ _ _), act_bind_ok (act_waitUntil (by simp [idle]) _ _ _),
    act_bind_ok (act_waitUntil (by simp [returned]) _ _ _), act_waitUntil written]

theorem act_storeCheck (h : s.ctx.storeErr = none) : storeCheck.run s = .ok ((), s) := by
  unfold storeCheck
  rw [act_bind_ok (act_getCtx s), h]
  rfl

theorem streamError_none {c : Ctx} (h : ∀ q, (c.stream q).err = none) : c.streamError = none := by
  simp [Ctx.streamError, h]

/-- The tests and waits of END and YIELD let a firing with nothing left go on (R69, R70). -/
theorem act_endWaits (h : Claims.Ends s) : endWaits.run s = .ok ((), s) := by
  obtain ⟨closed, quiet, streamed, loaded, accepted⟩ := h
  unfold endWaits
  rw [act_bind_ok (act_getCtx s), act_bind_ok (act_unlessFault (by simp [closed]) _ _ _),
    act_bind_ok (act_quietWaits quiet), act_bind_ok (act_getCtx s)]
  simp only [streamError_none streamed, loaded]
  exact act_storeCheck accepted

/-! ### The end -/

variable {o : AOps} {f : Firing}

/-- A firing that is no share, or a handler's, has no cell to count down (R358). -/
theorem act_endShare (hf : s.ctx.firing = some f) (h : (∀ c j, f.kind ≠ .share c j) ∨ s.ctx.mode = .s) :
    endShare.run s = .ok ((), s) := by
  unfold endShare
  rw [act_bind_ok (act_get s)]
  simp only [hf]
  split
  case h_1 c j hk =>
    have hm := h.resolve_left (fun hn => hn c j hk)
    simp only [hm, reduceCtorEq, beq_iff_eq, ↓reduceIte]
    rfl
  case h_2 => rfl

theorem exec_endFiring (hf : s.ctx.firing = some f) (he : Claims.Ends s) (hi : Issues (.endFiring o) o.h s)
    (h : (∀ c j, f.kind ≠ .share c j) ∨ s.ctx.mode = .s) :
    exec (.endFiring o) s = .next (s.endFiring.stayed (.endFiring o)) := by
  refine issue_stay hi ?_
  have run : endNow.run s = .ok ((), s.endFiring) := by
    unfold endNow
    rw [act_bind_ok (act_endWaits he), act_bind_ok (act_endShare hf h), act_modify]
  rw [act_bind_ok run]
  rfl

theorem endFiring_user (hf : s.ctx.firing = some f) (hm : s.ctx.mode = .u) :
    s.endFiring = ((s.freeCtx s.core s.fc).endActor s.core f true).finishSaves := by
  simp [State.endFiring, hf, hm]

theorem endFiring_handler (hf : s.ctx.firing = some f) (hm : s.ctx.mode = .s) :
    s.endFiring = s.abandon s.core s.fc := by
  simp [State.endFiring, hf, hm]

theorem exec_yield (hf : s.ctx.firing = some f) (he : Claims.Ends s) (hi : Issues (.yield o) o.h s)
    (hm : s.ctx.mode = .u) (hk : f.kind = .actor) (hc : f.cls ≠ 4) : exec (.yield o) s =
      .next ((((s.freeCtx s.core s.fc).yieldActor s.core f).finishSaves).stayed (.yield o)) := by
  have yields : f.yields = true := by simp [Firing.yields, hk, hc]
  refine issue_stay hi ?_
  rw [act_bind_ok (act_getCtx s), act_bind_ok (act_unlessFault (by simp [hm, hf, yields]) _ _ _),
    act_bind_ok (act_endWaits he), act_bind_ok (act_modify _ s), hf]
  rfl

end

/-! ### The actor's side -/

section
variable {s : State} {core slot : Nat} {b : Bound}

/-- The relinearisation task of a factor is due or queued afterwards at most: its life and its rings stay (R254). -/
theorem binds_afterFactor (h : tfind (s.coreAt core).binds slot = some b) : ∃ relin due,
    tfind ((s.afterFactor core slot).coreAt core).binds slot = some { b with relin := relin, relinDue := due } := by
  unfold State.afterFactor
  simp only [h]
  split
  case isFalse => exact ⟨_, _, h⟩
  case isTrue =>
    unfold State.queueRelin
    simp only [h]
    split
    · exact ⟨_, _, binds_setBound _ (by rw [State.pushTask, State.coreAt_modCore]; exact h)⟩
    · exact ⟨_, _, binds_setBound _ h⟩

/-- An idle actor becomes ready where its condition holds (R66). -/
theorem binds_refresh_idle (h : tfind (s.coreAt core).binds slot = some b) (hl : b.life = .idle) : ∃ b',
    tfind ((s.refresh core slot).coreAt core).binds slot = some b' ∧ (b'.life = .idle ∨ b'.life = .ready) ∧
      b'.ins = b.ins ∧ b'.outs = b.outs := by
  unfold State.refresh
  simp only [h]
  split
  · exact ⟨_, binds_setBound _ h, Or.inr rfl, rfl, rfl⟩
  · exact ⟨b, h, Or.inl hl, rfl, rfl⟩

theorem refresh_of_not_idle (h : tfind (s.coreAt core).binds slot = some b) (hl : b.life ≠ .idle) :
    s.refresh core slot = s := by
  unfold State.refresh
  simp [h, hl]

variable {f : Firing} {commit : Bool}

/-- What the end of a firing makes of its actor (R66, R69). -/
def Bound.fired (b : Bound) (commit : Bool) : Bound :=
  if b.d.cls == 4 then { b with life := .done }
  else if commit then { b.commit with life := .idle } else { b with life := .held }

theorem endActor_actor (hk : f.kind = .actor) : s.endActor core f commit =
    ((s.setBound core f.slot (·.fired commit)).afterFactor core f.slot).refresh core f.slot := by
  unfold State.endActor
  simp only [hk]
  rfl

theorem fired_task (hc : b.d.cls = 4) : b.fired commit = { b with life := .done } := if_pos (beq_iff_eq.mpr hc)

theorem fired_commit (hc : b.d.cls ≠ 4) : b.fired true = { b.commit with life := .idle } :=
  if_neg (by simpa using hc)

/-- A task is done, and has no ports to commit (R66). -/
theorem binds_endActor_task (hk : f.kind = .actor) (hb : tfind (s.coreAt core).binds f.slot = some b)
    (hc : b.d.cls = 4) : ∃ b', tfind ((s.endActor core f commit).coreAt core).binds f.slot = some b' ∧
      b'.life = .done ∧ b'.ins = b.ins ∧ b'.outs = b.outs := by
  obtain ⟨relin, due, h⟩ := binds_afterFactor (binds_setBound (·.fired commit) hb)
  rw [fired_task hc] at h
  rw [endActor_actor hk, refresh_of_not_idle h (by simp)]
  exact ⟨_, h, rfl, rfl, rfl⟩

/-- An actor's firing that ends commits its ports at once, and the actor is idle or ready (R66, R69). -/
theorem binds_endActor_commit (hk : f.kind = .actor) (hb : tfind (s.coreAt core).binds f.slot = some b)
    (hc : b.d.cls ≠ 4) : ∃ b', tfind ((s.endActor core f true).coreAt core).binds f.slot = some b' ∧
      (b'.life = .idle ∨ b'.life = .ready) ∧ b'.ins = b.commit.ins ∧ b'.outs = b.commit.outs := by
  obtain ⟨relin, due, h⟩ := binds_afterFactor (binds_setBound (·.fired true) hb)
  rw [fired_commit hc] at h
  obtain ⟨b', hb', life, ins, outs⟩ := binds_refresh_idle h rfl
  rw [endActor_actor hk]
  exact ⟨b', hb', life, ins, outs⟩

end

end Sys2Proof.Machine

open Sys2Proof.Machine in
/-- Settles O14: the commit is of the bound actor (`binds_endActor_commit`), and END and YIELD end the firing once
`act_endWaits` lets them. -/
theorem endOfFiring : Obligations.EndOfFiring := by
  refine ⟨fun s core f b hk hb => ?_, fun o s f hf he =>
    ⟨fun hi hs hm => ?_, fun hi hm => ?_, fun hi hm hk hc => exec_yield hf he hi hm hk hc⟩⟩
  · by_cases hc : b.d.cls = 4
    · obtain ⟨b', h, done⟩ := binds_endActor_task hk hb hc
      exact ⟨b', h, fun _ => done, fun hn => absurd hc hn⟩
    · obtain ⟨b', h, life, ins, outs⟩ := binds_endActor_commit hk hb hc
      exact ⟨b', h, fun hn => absurd hn hc, fun _ => ⟨life, ins, outs⟩⟩
  · rw [exec_endFiring hf he hi (Or.inl hs), endFiring_user hf hm]
  · rw [exec_endFiring hf he hi (Or.inr hm), endFiring_handler hf hm]
end

section
/-! SUPPORT. What an operand of a vector entry reads and writes, and the fields of a pass (R78, R90, R102, R190 to R196). -/

namespace Sys2Proof.Machine

/-! ### Scalars at dispatch -/

/-- A code made of an integer is that integer modulo 2^64. -/
theorem word_wrapInt (x : Int) : word (wrapInt 64 x) = BitVec.ofInt 64 x := by
  apply BitVec.eq_of_toNat_eq
  simp only [word, wrapInt, BitVec.toNat_ofNat, BitVec.toNat_ofInt]
  omega

theorem act_srcW_g (f : BitVec 20) (signed : Bool) (k : BitVec 5) (s : State) :
    (srcW f signed (.g k)).run s = .ok (s.ctx.rg k.toNat, s) := rfl

/-- A literal is extended from bit 19 (R56). -/
theorem act_srcW_lit (f : BitVec 20) (s : State) :
    (srcW f true .lit).run s = .ok (BitVec.ofInt 64 (sintOf 20 f.toNat), s) := by
  rw [← word_wrapInt]
  rfl

/-! ### Sources -/

section
variable {s : State} {g : BitVec 2} {k : Nat}

/-- The core whose v register a source with gang offset g names (R195). -/
def State.sourceCore (s : State) (g : BitVec 2) : Nat := if g = 0 then s.core else gangCore s.core g

/-- Where v register k of that core lies (R102). -/
def State.sourceKey (s : State) (g : BitVec 2) (k : Nat) : Nat :=
  regSpaceKey (s.sourceCore g) ((s.coreAt (s.sourceCore g)).vOff k)

/-- A v register in its core's view is the 32 bytes at its place (R102, R195, R196). -/
theorem act_readVector (hv : g = 0 ∨ k < (s.coreAt (s.sourceCore g)).vwv.count)
    (hb : s.bad (s.sourceKey g k) 32 = false) : (readVector g k).run s = .ok (BitVec.ofNat 256 (s.rdNat (s.sourceKey g k) 32), s) := by
  have inView : (g == 0 || decide (k < (s.coreAt (s.sourceCore g)).vwv.count)) = true := by simpa using hv
  unfold readVector
  rw [act_bind_ok (act_get s)]
  exact (act_bind_ok (act_unlessFault inView _ _ s) _).trans
    (act_bind_ok (act_unlessFault (Bool.not_eq_true' _ |>.mpr hb) _ _ s) _)

/-- An uncorrectable error among them is raised where they are read (R386). -/
theorem act_readVector_bad (hv : g = 0 ∨ k < (s.coreAt (s.sourceCore g)).vwv.count)
    (hb : s.bad (s.sourceKey g k) 32 = true) : (readVector g k).run s = .error (.trap { cause := cMACHINE_UE }) := by
  have inView : (g == 0 || decide (k < (s.coreAt (s.sourceCore g)).vwv.count)) = true := by simpa using hv
  unfold readVector
  rw [act_bind_ok (act_get s)]
  exact (act_bind_ok (act_unlessFault inView _ _ s) _).trans
    (act_bind_error (act_unlessFault_false (Bool.not_eq_false' _ |>.mpr hb) _ _ s) _)

/-- A gang source outside the other core's view is refused (R196). -/
theorem act_readVector_outside (hg : g ≠ 0) (hv : (s.coreAt (s.sourceCore g)).vwv.count ≤ k) :
    (readVector g k).run s = .error (.trap { cause := cVIEW_RANGE, tval := some (word k) }) := by
  have outside : (g == 0 || decide (k < (s.coreAt (s.sourceCore g)).vwv.count)) = false := by simpa [hv] using hg
  unfold readVector
  rw [act_bind_ok (act_get s)]
  exact act_bind_error (act_unlessFault_false outside _ _ s) _

theorem sourceKey_own (s : State) (k : Nat) :
    s.sourceKey 0 k = regSpaceKey s.core (32 * s.here.vwv.base + 32 * k) := rfl

theorem sourceCore_gang (s : State) (hg : g ≠ 0) : s.sourceCore g = s.core / 4 * 4 + (s.core + g.toNat) % 4 := if_neg hg

end

section
variable {s : State}

/-- q0 gives its oldest entry once its data has landed (R90, R91). -/
theorem act_popX_q0 {e : QEntry} {rest : List QEntry} (hq : s.ctx.q0 = e :: rest) (hn : e.need = 0) (he : e.err = none) :
    (popX 0).run s = .ok (e.v, s.modCtx (fun c => { c with q0 := rest })) := by
  unfold popX
  rw [act_bind_ok (act_getCtx s)]
  simp only [hq, ↓reduceIte]
  rw [act_bind_ok (act_waitUntil (beq_iff_eq.mpr hn) _ _ s)]
  simp only [he]
  rfl

theorem act_popX_q0_waits {e : QEntry} {rest : List QEntry} (hq : s.ctx.q0 = e :: rest) (hn : e.need ≠ 0) :
    (popX 0).run s = .error (.wait .queue true) := by
  unfold popX
  rw [act_bind_ok (act_getCtx s)]
  simp only [hq, ↓reduceIte]
  exact act_bind_error (act_waitUntil_false (beq_eq_false_iff_ne.mpr hn) _ _ s) _

/-! ### Destinations -/

/-- q1 takes one more entry while it has room (R90, R92). -/
theorem act_pushX_q1 (h : s.ctx.q1.length < 16) (v : V256) :
    (pushX 1 v).run s = .ok ((), s.modCtx (fun c => { c with q1 := c.q1 ++ [v] })) := by
  unfold pushX
  rw [act_bind_ok (act_getCtx s)]
  exact act_bind_ok (act_waitUntil (decide_eq_true h) _ _ s) _

theorem act_pushX_q1_full (h : 16 ≤ s.ctx.q1.length) (v : V256) :
    (pushX 1 v).run s = .error (.wait .queue true) := by
  unfold pushX
  rw [act_bind_ok (act_getCtx s)]
  exact act_bind_error (act_waitUntil_false (decide_eq_false h.not_gt) _ _ s) _

/-! ### The fields of a pass -/

/-- On a core without tiles and busy granules nothing in its register space holds an entry back (R120, R217). -/
theorem act_waitGranules_free (hb : s.here.busyBytes = []) (ht : s.here.tiles = []) (reads writes : List (Nat × Nat))
    (own : List Nat) : (waitGranules reads writes own).run s = .ok ((), s) := by
  have free (off n : Nat) (store : Bool) (own : List Nat) : s.here.poolWaits 0 off n store own = false := by
    simp [Core.poolWaits, ht]
  exact act_waitGranules (by simp [hb]) (fun _ _ => free ..) own (fun _ _ => free ..)

/-- An entry whose pass passes its view check runs on the fields of that pass (R78, R104). -/
theorem act_passFields {o : XOps} (hb : s.here.busyBytes = []) (ht : s.here.tiles = [])
    (hc : (passCheck (o.local (s.ctx.passHd o.h))).run s = .ok ((), s)) :
    (passFields o).run s = .ok (s.ctx.passHd o.h, s) := by
  unfold passFields
  rw [act_bind_ok (act_getCtx s), act_bind_ok hc, act_bind_ok (act_getCore s), act_bind_ok (act_getCtx s)]
  exact act_bind_ok (act_waitGranules_free hb ht _ _ _) _

/-- A pass whose check fails ends the entry there (R104). -/
theorem act_passFields_stop {o : XOps} {e : Stop} (hc : (passCheck (o.local (s.ctx.passHd o.h))).run s = .error e) :
    (passFields o).run s = .error e := by
  unfold passFields
  rw [act_bind_ok (act_getCtx s), act_bind_error hc]

theorem act_passCheck_flat (h : s.ctx.inLoop = false) (l : List Reg) : (passCheck l).run s = .ok ((), s) := by
  unfold passCheck
  rw [act_bind_ok (act_getCtx s), h]
  rfl

theorem passHd_flat {c : Ctx} (h : c.inLoop = false) (hd : Hd) : c.passHd hd = hd := by
  unfold Ctx.inLoop at h
  unfold Ctx.passHd
  split
  case h_1 hx => rw [hx] at h; exact absurd h (by simp)
  case h_2 => rfl

theorem passHd_loop {c : Ctx} {x : XLoop} {rest : List XItem} (h : c.xseq = .loop x :: rest) (hd : Hd) :
    c.passHd hd = Hd.moved hd (x.pass * x.sd) (x.pass * x.s1) (x.pass * x.s2) (x.pass * x.s3) := by
  unfold Ctx.passHd
  rw [h]

section
variable {x : XLoop} {rest : List XItem} {l : List Reg} (h : s.ctx.xseq = .loop x :: rest)
include h

theorem inLoop_loop : s.ctx.inLoop = true := by
  unfold Ctx.inLoop
  rw [h]

theorem act_passCheck_loop (hv : s.here.outOfView l = none) : (passCheck l).run s = .ok ((), s) := by
  unfold passCheck
  rw [act_bind_ok (act_getCtx s), inLoop_loop h]
  simp only [↓reduceIte]
  rw [act_bind_ok (act_getCore s), hv]
  rfl

/-- A pass that leaves a view faults with its number (R104). -/
theorem act_passCheck_outside {k : Nat} (hv : s.here.outOfView l = some k) :
    (passCheck l).run s = .error (.trap { cause := cVIEW_RANGE, tval := some (word x.pass) }) := by
  have pass : s.ctx.headPass = x.pass := by
    unfold Ctx.headPass
    rw [h]
  unfold passCheck
  rw [act_bind_ok (act_getCtx s), inLoop_loop h]
  simp only [↓reduceIte]
  rw [act_bind_ok (act_getCore s), hv, ← pass]
  rfl

end

end

end Sys2Proof.Machine

open Sys2Proof.Machine in
/-- Settles O31: each kind of source and destination has its own lemma, and an entry's fields are those of its pass
(`act_passFields`). -/
theorem vectorOperands : Obligations.VectorOperands := by
  intro s w x v
  refine ⟨fun k f => ⟨act_srcW_g f true k s, act_srcW_lit f s⟩, fun k => ⟨fun hb => ?_, fun hb => ?_⟩, fun r hr => ?_,
    fun g k hg => ?_, fun e rest hq hn he => act_popX_q0 hq hn he, fun e rest hq hn => act_popX_q0_waits hq hn,
    fun k => rfl, fun h => act_pushX_q1 h v, fun h => act_pushX_q1_full h v, fun o hb ht hl => ?_,
    fun o l rest hb ht hx => ?_⟩
  · exact act_readVector (Or.inl rfl) hb
  · exact act_readVector_bad (Or.inl rfl) hb
  · rcases hr with rfl | rfl | ⟨k, rfl⟩ <;> rfl
  · dsimp only
    rw [← sourceCore_gang s hg]
    exact ⟨fun hk hb => act_readVector (Or.inr hk) hb, fun hk => act_readVector_outside hg hk⟩
  · rw [act_passFields hb ht (act_passCheck_flat hl _), passHd_flat hl]
  · dsimp only
    rw [← passHd_loop hx]
    exact ⟨fun hv => act_passFields hb ht (act_passCheck_loop hx hv),
      fun k hk => act_passFields_stop (act_passCheck_outside hx hk)⟩
end

section
/-! SUPPORT. Launches and their replies, pre-emption of a firing and of a region, the saves, and the Logbook (R83, R84, R352,
R360, R361, R382, R383). -/

namespace Sys2Proof.Machine

/-! ### Launches -/

section
variable {o : EOps} {s : State}

/-- The record that a LAUNCH of the current context gives the firmware (R352). -/
def State.launchRecord (s : State) (o : EOps) : Launch where
  rcb := s.ctx.rcb
  core := some (s.core, s.fc % 4)
  cluster := clusterOf s.core
  host := none
  gl := (s.ctx.rg o.h.s1.index).toNat
  since := s.now

theorem exec_launch (hi : Issues (.launch o) o.h s) (ha : s.acqOut = false) : exec (.launch o) s = .next
    (((({ s with nextId := s.nextId + 1 } : State).modPkg (corePkg s.core) (fun p =>
      { p with launches := tset p.launches s.nextId (s.launchRecord o) })).modCtx (fun c =>
        { c with awaited := some (.launch s.nextId o.h.d) })).stayed (.launch o)) := by
  refine issue_stay hi ?_
  rw [act_bind_ok (act_get s), act_bind_ok (act_waitUntil (Bool.not_eq_true' _ |>.mpr ha) _ _ s), act_bind_ok (act_newId s),
    act_bind_ok (act_get _)]
  rfl

variable {id pkg k fc : Nat} {l : Launch}

/-- A reply that fails its checks, which is a free choice (R352; log entry 15). -/
theorem exec_launchFirmwareReply_bad (hl : s.findLaunch id = some (pkg, l)) (hc : l.core = some (k, fc))
    (hb : Config.choice s.fresh = false) : exec (.launchFirmwareReply id) s =
      .next (({ s with fresh := s.fresh + 1 } : State).badReply pkg id k fc l.cluster) := by
  change execLaunchFirmwareReply id s = _
  simp only [execLaunchFirmwareReply, hl, hc, hb, Bool.not_false, ↓reduceIte]

/-- A reply to a context that passes its checks (R352). -/
theorem exec_launchFirmwareReply_context (hl : s.findLaunch id = some (pkg, l)) (hc : l.core = some (k, fc))
    (hb : Config.choice s.fresh = true) : exec (.launchFirmwareReply id) s = .next
      (let done := ({ s with fresh := s.fresh + 1 } : State).doLaunch (some (k, l.rcb)) k l.rcb l.gl id
      done.2.answerLaunch pkg id l done.1) := by
  change execLaunchFirmwareReply id s = _
  simp only [execLaunchFirmwareReply, hl, hc, hb, Bool.not_true, Bool.false_eq_true, ↓reduceIte]

/-- A reply to a host queue (R352). -/
theorem exec_launchFirmwareReply_host (hl : s.findLaunch id = some (pkg, l)) (hc : l.core = none) :
    exec (.launchFirmwareReply id) s = .next
      (let done := ({ s with fresh := s.fresh + 1 } : State).doLaunch none (pkg * 2 ^ 14) l.rcb l.gl id
      done.2.answerLaunch pkg id l done.1) := by
  change execLaunchFirmwareReply id s = _
  simp only [execLaunchFirmwareReply, hl, hc]

theorem exec_launchNofirmTimeout (hl : s.findLaunch id = some (pkg, l)) (ht : 2 ^ 20 ≤ s.now - l.since) :
    exec (.launchNofirmTimeout id) s = .next (s.answerLaunch pkg id l 7) := by
  change execLaunchNofirmTimeout id s = _
  simp only [execLaunchNofirmTimeout, hl, if_pos ht]

end

/-! ### Requests of a pre-emption -/

section
variable {i : Instr} {h : Hd} {s : State} {d : Reg} {v : Word}

/-- An instruction whose effect is to write a code into its D goes on. -/
theorem issue_writes {body : Act Flow} (hi : Issues i h s)
    (hb : body.run s = (do writeD d v; return .next : Act Flow).run s) :
    issue i h body s = .next ((s.modCtx (·.wg d.index v)).retired i) :=
  issue_next hi (hb.trans (act_bind_ok (act_writeD d v s) _))

theorem issueNext_writes {body : Act Unit} (hi : Issues i h s) (hb : body.run s = (writeD d v).run s) :
    issueNext i h body s = .next ((s.modCtx (·.wg d.index v)).retired i) :=
  issueNext_ok hi (hb.trans (act_writeD d v s))

end

section
variable {o : EOps} {s : State}

/-- The core and the context that the operand of a PREEMPT of mode 0 names (R360). -/
def State.preemptCore (s : State) (o : EOps) : Nat :=
  corePkg s.core * 2 ^ 14 + bits (s.ctx.rg o.h.s1.index).toNat 13 0
def State.preemptFc (s : State) (o : EOps) : Nat := bits (s.ctx.rg o.h.s1.index).toNat 17 16

/-- The frames of a core with the requests that will need one (R360; log entry 76). -/
def Core.framesAsked (c : Core) : Nat :=
  c.frames.length + (c.ctx.toList.filter (fun x => x.preempt == some true)).length

theorem exec_preemptFiring_none (hi : Issues (.preemptFiring o) o.h s)
    (hf : (s.ctxOf (s.preemptCore o) (s.preemptFc o)).firing = none) :
    exec (.preemptFiring o) s = .next ((s.modCtx (·.wg o.h.d.index 1)).retired (.preemptFiring o)) := by
  refine issue_writes hi ?_
  rw [act_bind_ok (act_get s)]
  exact congrArg (StateT.run · s) (if_pos (Option.isNone_iff_eq_none.mpr hf))

theorem exec_preemptFiring_full (hi : Issues (.preemptFiring o) o.h s)
    (hf : (s.ctxOf (s.preemptCore o) (s.preemptFc o)).firing ≠ none) (hn : 8 ≤ (s.coreAt (s.preemptCore o)).framesAsked) :
    exec (.preemptFiring o) s = .next ((s.modCtx (·.wg o.h.d.index 2)).retired (.preemptFiring o)) := by
  refine issue_writes hi ?_
  rw [act_bind_ok (act_get s)]
  exact congrArg (StateT.run · s) ((if_neg (hf ∘ Option.isNone_iff_eq_none.mp)).trans (if_pos hn))

/-- The target is asked to save its firing, and the issuer waits for the answer (R360). -/
theorem exec_preemptFiring_asks (hi : Issues (.preemptFiring o) o.h s)
    (hf : (s.ctxOf (s.preemptCore o) (s.preemptFc o)).firing ≠ none)
    (hn : ¬ 8 ≤ (s.coreAt (s.preemptCore o)).framesAsked) : exec (.preemptFiring o) s = .next
      (((s.modCtxOf (s.preemptCore o) (s.preemptFc o) (fun x => { x with preempt := some true })).modCtx (fun x =>
        { x with awaited := some (.preempt o.h.d (s.preemptCore o) (s.preemptFc o)) })).stayed (.preemptFiring o)) := by
  refine issue_stay hi ?_
  rw [act_bind_ok (act_get s)]
  exact congrArg (StateT.run · s) ((if_neg (hf ∘ Option.isNone_iff_eq_none.mp)).trans (if_neg hn))

variable {a : Nat} (ha : (s.ctx.rg o.h.s1.index).toNat = a)
include ha

theorem exec_preemptRegion_dead (hi : Issues (.preemptRegion o) o.h s) (hl : s.isLive a = false) :
    exec (.preemptRegion o) s = .next ((s.modCtx (·.wg o.h.d.index 1)).retired (.preemptRegion o)) := by
  subst ha
  refine issue_writes hi ?_
  rw [act_bind_ok (act_get s)]
  exact congrArg (StateT.run · s) (if_pos (Bool.not_eq_true' _ |>.mpr hl))

theorem exec_preemptRegion_badArea (hi : Issues (.preemptRegion o) o.h s) (hl : s.isLive a = true)
    (hs : s.saveOk a = false) :
    exec (.preemptRegion o) s = .next ((s.modCtx (·.wg o.h.d.index 3)).retired (.preemptRegion o)) := by
  subst ha
  refine issue_writes hi ?_
  rw [act_bind_ok (act_get s)]
  exact congrArg (StateT.run · s) ((if_neg (by simp [hl])).trans (if_pos (Bool.not_eq_true' _ |>.mpr hs)))

/-- The switch begins, unless a DMCLOSE of the region waits (R361, R377). -/
theorem exec_preemptRegion_begins (hi : Issues (.preemptRegion o) o.h s) (hl : s.isLive a = true)
    (hs : s.saveOk a = true) (hd : s.effDm a = false ∨ s.dmWaiting a = false) : exec (.preemptRegion o) s = .next
      ((((s.modCtx (fun c => { c with awaited := some (.regionSave o.h.d a) })).beginSave a).finishSaves).stayed
        (.preemptRegion o)) := by
  subst ha
  have noRound : (!(s.effDm (s.ctx.rg o.h.s1.index).toNat && s.dmWaiting (s.ctx.rg o.h.s1.index).toNat)) = true := by
    rcases hd with h | h <;> simp [h]
  refine issue_stay hi ?_
  rw [act_bind_ok (act_get s)]
  refine (congrArg (StateT.run · s) ((if_neg (by simp [hl])).trans (if_neg (by simp [hs])))).trans ?_
  rw [act_bind_ok (act_waitUntil noRound _ _ s)]
  rfl

theorem exec_preemptResume_unsaved (hi : Issues (.preemptResume o) o.h s)
    (hr : s.regionAt (s.regionPkg a) a = none ∨ s.rcbState a ≠ 2) :
    exec (.preemptResume o) s = .next ((s.modCtx (·.wg o.h.d.index 1)).retired (.preemptResume o)) := by
  subst ha
  refine issueNext_writes hi ?_
  rw [act_bind_ok (act_get s)]
  exact congrArg (StateT.run · s) (if_pos (by simpa using hr))

theorem exec_preemptResume_badArea (hi : Issues (.preemptResume o) o.h s) (hr : s.regionAt (s.regionPkg a) a ≠ none)
    (h2 : s.rcbState a = 2) (hs : s.saveOk a = false) :
    exec (.preemptResume o) s = .next ((s.modCtx (·.wg o.h.d.index 3)).retired (.preemptResume o)) := by
  subst ha
  refine issueNext_writes hi ?_
  rw [act_bind_ok (act_get s)]
  exact congrArg (StateT.run · s) ((if_neg (by simp [hr, h2])).trans (if_pos (Bool.not_eq_true' _ |>.mpr hs)))

theorem exec_preemptResume_resumes (hi : Issues (.preemptResume o) o.h s) (hr : s.regionAt (s.regionPkg a) a ≠ none)
    (h2 : s.rcbState a = 2) (hs : s.saveOk a = true) : exec (.preemptResume o) s =
      .next (((s.resumeRegion a).modCtx (·.wg o.h.d.index 0)).retired (.preemptResume o)) := by
  subst ha
  refine issueNext_ok hi ?_
  rw [act_bind_ok (act_get s)]
  exact congrArg (StateT.run · s) ((if_neg (by simp [hr, h2])).trans (if_neg (by simp [hs])))

end

/-! ### The saves -/

section
variable {s : State} {core fc : Nat}

theorem preemptNow_saves (h : (s.ctxOf core fc).landedError = none) (whole : Bool) :
    s.preemptNow core fc whole = s.saveFiring core fc whole := by
  unfold State.preemptNow
  rw [h]

/-- A load's error that has landed is raised before its firing is saved (R174; log entry 79). -/
theorem preemptNow_raises {e : DataError} {l : List Clear} (h : (s.ctxOf core fc).landedError = some (e, l)) (whole : Bool) :
    s.preemptNow core fc whole = (s.at core fc).takeTrapA (e.trap true l) := by
  unfold State.preemptNow
  rw [h]

theorem exec_regionDiscard (h : s.canDiscard core fc = true) :
    exec (.regionDiscard core fc) s = .next (s.preemptNow core fc false) := congrArg _ (if_pos h)

theorem exec_wholeSave (h : s.canSave core fc = true) :
    exec (.wholeSave core fc) s = .next (s.preemptNow core fc true) := congrArg _ (if_pos h)

/-- A discarded firing keeps the g registers that its IDEM names (R83). -/
theorem discarded_rg {c : Ctx} (h : c.idem.start = false) (k : Nat) :
    c.discarded.rg k = if c.idem.gmask.getLsbD (k % 32) then c.rg k else 0 := by
  unfold Ctx.rg Ctx.discarded
  by_cases hk : k % 32 = 0
  · simp [hk]
  · simp only [if_neg hk, h, Vector.getElem_ofFn, Bool.false_eq_true, ↓reduceIte]
    rfl

end

/-! ### The Logbook -/

section
variable {q : AOps} {s s1 : State} {idx : Word} {r : Region} {rcb : Nat}

/-- An index above 0x48 names no word of a manifest (R382). -/
theorem exec_logrd_outside (hi : Issues (.logrd q) q.h s) (hm : q.h.s2.isZero = true ∨ s.ctx.mode = .s)
    (hx : (q.src q.h.s1).run s = .ok (idx, s1)) (h : 0x48 < idx.toNat) :
    exec (.logrd q) s = .next (s.takeTrapA { cause := cILLEGAL_OPERAND, tval := some idx }) := by
  refine issueNext_trap hi ?_
  rw [act_bind_ok (act_getCtx s), act_bind_ok (act_unlessFault (by simpa using hm) _ _ s), act_bind_ok hx,
    act_bind_error (act_unlessFault_false (decide_eq_false h.not_ge) _ _ s1)]

/-- The state once a word of the signature has been asked for: the manifest is signed over (R381). -/
def State.signed (s : State) (rcb idx : Nat) : State :=
  if 0x30 ≤ idx ∧ idx ≤ 0x3B then s.modRegion rcb (fun r => { r with signedOver := some r.digest }) else s

/-- LOGRD of a word of a manifest (R381, R382). -/
theorem exec_logrd_word (hi : Issues (.logrd q) q.h s) (hm : q.h.s2.isZero = true ∨ s.ctx.mode = .s)
    (hx : (q.src q.h.s1).run s = .ok (idx, s1)) (h : idx.toNat ≤ 0x48) (hr : rcbOperand s.ctx q.h.s2 = rcb) {u : State}
    (hu : s1.signed rcb idx.toNat = u) (hf : u.regionAt (u.regionPkg rcb) rcb = some r) : exec (.logrd q) s =
      .next ((u.modCtx (·.wg q.h.d.index (r.logWord (deviceKey (u.regionPkg rcb)) idx.toNat))).retired (.logrd q)) := by
  refine issueNext_ok hi ?_
  rw [act_bind_ok (act_getCtx s), act_bind_ok (act_unlessFault (by simpa using hm) _ _ s), act_bind_ok hx,
    act_bind_ok (act_unlessFault (decide_eq_true h) _ _ s1)]
  dsimp only
  rw [hr]
  by_cases hs : 0x30 ≤ idx.toNat ∧ idx.toNat ≤ 0x3B
  · rw [State.signed, if_pos hs] at hu
    rw [if_pos hs, act_bind_ok (act_modify _ s1), act_bind_ok (act_get _), hu]
    simp only [hf, act_writeD]
  · rw [State.signed, if_neg hs] at hu
    rw [if_neg hs, act_bind_ok (act_get _), hu]
    simp only [hf, act_writeD]

/-! LOGEXT: its refusals, and its two effects (R383). -/

section
variable {n k len : Nat} (hr : rcbOperand s.ctx q.h.s3 = rcb) (hk : bits (s.ctx.rg q.h.s2.index).toNat 63 56 = k)
  (hlen : bits (s.ctx.rg q.h.s2.index).toNat 47 0 = len)
include hr

theorem exec_logext_dead (hi : Issues (.logext q) q.h s) (hl : s.isLive rcb = false) :
    exec (.logext q) s = .next ((s.modCtx (·.wg q.h.d.index 1)).retired (.logext q)) := by
  subst hr
  refine issueNext_writes hi ?_
  rw [act_bind_ok (act_get s)]
  exact congrArg (StateT.run · s) (if_pos (Bool.not_eq_true' _ |>.mpr hl))

include hk

theorem exec_logext_noComponent (hi : Issues (.logext q) q.h s) (hl : s.isLive rcb = true)
    (hn : k ≠ 0 ∧ k ≠ 2 ∧ k ≠ 6) :
    exec (.logext q) s = .next ((s.modCtx (·.wg q.h.d.index 2)).retired (.logext q)) := by
  subst hr hk
  refine issueNext_writes hi ?_
  rw [act_bind_ok (act_get s)]
  exact congrArg (StateT.run · s) ((if_neg (by simp [hl])).trans (if_pos hn))

include hlen

theorem exec_logext_badLength (hi : Issues (.logext q) q.h s) (hl : s.isLive rcb = true)
    (hc : k = 0 ∨ k = 2 ∨ k = 6) (hb : len = 0 ∨ 2 ^ 32 < len ∨ (k = 6 ∧ len ≠ 48)) :
    exec (.logext q) s = .next ((s.modCtx (·.wg q.h.d.index 3)).retired (.logext q)) := by
  subst hr hk hlen
  refine issueNext_writes hi ?_
  rw [act_bind_ok (act_get s)]
  exact congrArg (StateT.run · s) ((if_neg (by simp [hl])).trans ((if_neg (by omega)).trans (if_pos hb)))

/-- The challenge is set, or the component extended, with the bytes that are read (R380, R383). -/
theorem exec_logext_extends {data : List Byte} (hi : Issues (.logext q) q.h s) (hl : s.isLive rcb = true)
    (hc : k = 0 ∨ k = 2 ∨ k = 6) (hb : ¬ (len = 0 ∨ 2 ^ 32 < len ∨ (k = 6 ∧ len ≠ 48)))
    (hd : (loadBytes (s.ctx.rg q.h.s1.index).toNat len).run s = .ok (data, s1)) :
    exec (.logext q) s = .next (((if k = 6 then s1.modRegion rcb (fun r => { r with chal := data })
      else s1.extend rcb k 0 data).modCtx (·.wg q.h.d.index 0)).retired (.logext q)) := by
  subst hr hk hlen
  refine issueNext_ok hi ?_
  rw [act_bind_ok (act_get s)]
  refine (congrArg (StateT.run · s) ((if_neg (by simp [hl])).trans ((if_neg (by omega)).trans (if_neg hb)))).trans ?_
  rw [act_bind_ok hd]
  split
  · rw [act_bind_ok (act_modify _ s1), act_writeD]
  · rw [act_bind_ok (act_modify _ s1), act_writeD]

end

end

end Sys2Proof.Machine

open Sys2Proof.Machine in
/-- Settles O45: each request, reply, save and Logbook access has a lemma for each of its outcomes. -/
theorem launchesAndPreemption : Obligations.LaunchesAndPreemption := by
  intro o q s s1
  refine ⟨exec_launch, fun id pkg l hl => ⟨fun k fc hc hb => exec_launchFirmwareReply_bad hl hc hb,
      fun k fc hc hb => exec_launchFirmwareReply_context hl hc hb, fun hc => exec_launchFirmwareReply_host hl hc,
      fun ht => exec_launchNofirmTimeout hl ht⟩, fun k hk hi => ?_, fun hi => ?_, fun hi => ?_, fun core fc => ?_,
    fun idx r hi hm hx => ?_, fun data hi => ?_⟩
  · subst hk
    exact ⟨exec_preemptFiring_none hi, exec_preemptFiring_full hi, exec_preemptFiring_asks hi⟩
  · exact ⟨exec_preemptRegion_dead rfl hi, exec_preemptRegion_badArea rfl hi, exec_preemptRegion_begins rfl hi⟩
  · exact ⟨exec_preemptResume_unsaved rfl hi, exec_preemptResume_badArea rfl hi, exec_preemptResume_resumes rfl hi⟩
  · refine ⟨fun hc hn => ?_, fun hc hn => ?_, fun e l he => ⟨fun hc => ?_, fun hc => ?_⟩,
      fun k hs => ⟨rfl, rfl, rfl, discarded_rg hs k⟩, rfl, rfl, rfl, rfl⟩
    · rw [exec_regionDiscard hc, preemptNow_saves hn]
    · rw [exec_wholeSave hc, preemptNow_saves hn]
    · rw [exec_regionDiscard hc, preemptNow_raises he]
    · rw [exec_wholeSave hc, preemptNow_raises he]
  · refine ⟨exec_logrd_outside hi hm hx, fun h hn hf => ?_, fun h1 h2 hf => ?_⟩
    · exact exec_logrd_word hi hm hx h rfl (if_neg (by omega)) hf
    · exact exec_logrd_word hi hm hx (by omega) rfl (if_pos ⟨h1, h2⟩) hf
  · refine ⟨exec_logext_dead rfl hi, fun hl h0 h2 h6 => exec_logext_noComponent rfl rfl hi hl ⟨h0, h2, h6⟩,
      fun hl hc => ⟨exec_logext_badLength rfl rfl rfl hi hl hc, fun h0 h32 h6 hd => ?_⟩⟩
    exact exec_logext_extends rfl rfl rfl hi hl hc (by omega) hd
end

section
/-! SUPPORT. What the numbered ranges of system registers hold, and the state after reset (R102, R108, R123, R124, R245, R257,
R281, R327, R355, R387, R394, R399). -/

namespace Sys2Proof.Machine

section
variable (s : State) (w : Word) {n : Nat}

theorem sysValue_trapRegister (h1 : 0x030 ≤ n) (h2 : n ≤ 0x037) (h : n ≠ 0x036) :
    s.sysValue n w = s.ctx.trapRegister n := by
  simp only [State.sysValue]
  repeat rw [if_neg (by omega)]
  exact if_pos ⟨h1, h2⟩

theorem sysValue_hashFamily (h1 : 0x060 ≤ n) (h2 : n ≤ 0x06F) :
    s.sysValue n w = word ((s.clusterAt (clusterOf s.core)).fam (n - 0x060)).config := by
  simp only [State.sysValue]
  repeat rw [if_neg (by omega)]
  exact if_pos ⟨h1, h2⟩

/-- EVSEL of a counter, in the field layout of R387. -/
def Counter.selection (e : Counter) : Word := word (natOfBool e.en * 2 ^ 63 + e.src.toNat)

theorem sysValue_coreSelection (h1 : 0x100 ≤ n) (h2 : n ≤ 0x107) :
    s.sysValue n w = (s.here.counter (n - 0x100)).selection := by
  simp only [State.sysValue]
  repeat rw [if_neg (by omega)]
  exact if_pos ⟨h1, h2⟩

theorem sysValue_coreCount (h1 : 0x108 ≤ n) (h2 : n ≤ 0x10F) :
    s.sysValue n w = (s.here.counter (n - 0x108)).read false s.now w := by
  simp only [State.sysValue]
  repeat rw [if_neg (by omega)]
  exact if_pos ⟨h1, h2⟩

theorem sysValue_quadSelection (h1 : 0x110 ≤ n) (h2 : n ≤ 0x11F) :
    s.sysValue n w = ((s.quadAt (quadOf s.core)).counter (n - 0x110)).selection := by
  simp only [State.sysValue]
  repeat rw [if_neg (by omega)]
  exact if_pos ⟨h1, h2⟩

theorem sysValue_quadCount (h1 : 0x120 ≤ n) (h2 : n ≤ 0x12F) :
    s.sysValue n w = ((s.quadAt (quadOf s.core)).counter (n - 0x120)).read true s.now w := by
  simp only [State.sysValue]
  repeat rw [if_neg (by omega)]
  exact if_pos ⟨h1, h2⟩

theorem sysValue_linkStatus (h1 : 0x140 ≤ n) (h2 : n ≤ 0x15F) :
    s.sysValue n w = word ((s.pkgAt (corePkg s.core)).port (n - 0x140)).status := by
  simp only [State.sysValue]
  repeat rw [if_neg (by omega)]
  exact if_pos ⟨h1, h2⟩

theorem sysValue_linkEnable (h1 : 0x160 ≤ n) (h2 : n ≤ 0x17F) :
    s.sysValue n w = word (natOfBool ((s.pkgAt (corePkg s.core)).port (n - 0x160)).en) := by
  simp only [State.sysValue]
  repeat rw [if_neg (by omega)]
  exact if_pos ⟨h1, h2⟩

end

/-! ### Reset -/

theorem trapRegister_reset (n : Nat) : Ctx.reset.trapRegister n = 0 := by
  unfold Ctx.trapRegister
  split <;> rfl

theorem ctx_reset : State.reset.ctx = Ctx.reset := rfl

theorem coreCounter_reset (k : Nat) : State.reset.here.counter k = Counter.reset := Vector.getElem_replicate _

theorem quadCounter_reset (q k : Nat) : (State.reset.quadAt q).counter k = Counter.reset := Vector.getElem_replicate _

theorem port_reset (p k : Nat) : (State.reset.pkgAt p).port k = Port.reset := Vector.getElem_replicate _

theorem fam_reset (k j : Nat) : (State.reset.clusterAt k).fam j = Family.reset := Vector.getElem_replicate _

/-- No trap register holds anything after reset, nor do TVEC and TSCRATCH (R257). -/
theorem sysValue_reset_trap (w : Word) {n : Nat} (h1 : 0x030 ≤ n) (h2 : n ≤ 0x037) : State.reset.sysValue n w = 0 := by
  by_cases h : n = 0x036
  · subst h
    rfl
  · rw [sysValue_trapRegister _ _ h1 h2 h, ctx_reset, trapRegister_reset]

/-- No event counter selects a source or holds a count after reset (R387). -/
theorem sysValue_reset_counter (w : Word) {n : Nat} (h1 : 0x100 ≤ n) (h2 : n ≤ 0x12F) :
    State.reset.sysValue n w = 0 := by
  rcases (by omega : n ≤ 0x107 ∨ 0x108 ≤ n ∧ n ≤ 0x10F ∨ 0x110 ≤ n ∧ n ≤ 0x11F ∨ 0x120 ≤ n) with h | ⟨h, h'⟩ | ⟨h, h'⟩ | h
  · rw [sysValue_coreSelection _ _ h1 h, coreCounter_reset]
    rfl
  · rw [sysValue_coreCount _ _ h h', coreCounter_reset]
    rfl
  · rw [sysValue_quadSelection _ _ h h', quadCounter_reset]
    rfl
  · rw [sysValue_quadCount _ _ h h2, quadCounter_reset]
    rfl

end Sys2Proof.Machine

open Sys2Proof.Machine in
/-- Settles O29: single registers are read off the reset records, and each numbered range through its own lemma. -/
theorem resetRegisters : Obligations.ResetRegisters := by
  refine fun w => ⟨rfl, rfl, rfl, rfl, rfl, rfl, rfl, rfl, rfl, fun n h1 h2 => ?_, fun n h1 h2 => ?_, ?_,
    fun n => sysValue_reset_trap w, fun n h1 h2 => ?_, fun n => sysValue_reset_counter w, rfl, fun _ => rfl⟩
  · exact (sysValue_linkEnable _ _ h1 h2).trans (by rw [port_reset]; rfl)
  · exact (sysValue_linkStatus _ _ h1 h2).trans (by rw [port_reset]; rfl)
  · simp only [List.forall_mem_cons]
    exact ⟨rfl, rfl, rfl, rfl, rfl, rfl, rfl, rfl, rfl, rfl, rfl, rfl, rfl, rfl, rfl, rfl, rfl, rfl, nofun⟩
  · exact (sysValue_hashFamily _ _ h1 h2).trans (by rw [fam_reset]; rfl)
end

section
/-! SUPPORT. The moves of the pool's boundary: what the four instructions answer, and what the end of a move leaves (R109 to
R114, R116). -/

namespace Sys2Proof.Machine

/-! ### What leaves the bank counts alone -/

/-- Every core holds the same banks in t as in s. -/
structure SameBanks (s t : State) : Prop where
  banks : ∀ k, (t.coreAt k).banks = (s.coreAt k).banks

section
variable {s t u : State}

theorem SameBanks.refl (s : State) : SameBanks s s := ⟨fun _ => rfl⟩

theorem SameBanks.trans (h : SameBanks s t) (h' : SameBanks t u) : SameBanks s u :=
  ⟨fun k => (h'.banks k).trans (h.banks k)⟩

theorem SameBanks.of_cores (h : t.cores = s.cores) : SameBanks s t :=
  ⟨fun k => by rw [State.coreAt, State.coreAt, h]⟩

theorem sameBanks_modCore (s : State) (k : Nat) {f : Core → Core} (hf : ∀ c, (f c).banks = c.banks) :
    SameBanks s (s.modCore k f) := by
  refine ⟨fun j => ?_⟩
  by_cases h : j = k
  · rw [h, State.coreAt_modCore, hf]
  · rw [State.coreAt_modCore_other s h]

theorem sameBanks_foldl {α : Type} {f : State → α → State} (hf : ∀ s a, SameBanks s (f s a)) (l : List α) (s : State) :
    SameBanks s (l.foldl f s) := by
  induction l generalizing s with
  | nil => exact .refl s
  | cons a l ih => exact (hf s a).trans (ih (f s a))

theorem SameBanks.bankCount (h : SameBanks s t) (k : Nat) (r : Role) :
    (t.coreAt k).bankCount r = (s.coreAt k).bankCount r := by
  simp only [Core.bankCount, h.banks k]

end

theorem sameBanks_setBound (s : State) (core slot : Nat) (f : Bound → Bound) : SameBanks s (s.setBound core slot f) :=
  sameBanks_modCore s core (fun c => by split <;> rfl)

theorem sameBanks_moveRings (s : State) (core : Nat) (l : List (RingAt × Ring)) : SameBanks s (s.moveRings core l) := by
  unfold State.moveRings
  refine sameBanks_foldl (fun t x => ?_) l s
  obtain ⟨⟨slot, out, k, r⟩, q⟩ := x
  refine SameBanks.trans ?_ (sameBanks_setBound _ core slot _)
  exact .of_cores rfl

theorem sameBanks_relocate (s : State) (core : Nat) (dep : Nat × Nat) : SameBanks s (s.relocate core dep) := by
  unfold State.relocate
  dsimp only
  split
  · exact sameBanks_moveRings s core _
  · split
    · exact sameBanks_moveRings s core _
    · exact .refl s

theorem sameBanks_writeSectors (s : State) (line : Nat) (data : BitVec 512) (mask : BitVec 4) :
    SameBanks s (s.writeSectors line data mask) :=
  sameBanks_foldl (fun s k => by split <;> exact .of_cores rfl) _ s

theorem sameBanks_writeBack (s : State) (core line : Nat) : SameBanks s (s.writeBack core line) := by
  unfold State.writeBack
  split
  · dsimp only
    split <;> exact .of_cores rfl
  case h_2 l _ =>
    have lost : SameBanks s (s.loseBad core l).2 := .of_cores rfl
    have sectors : SameBanks s ((s.loseBad core l).2.writeSectors line l.data (s.loseBad core l).1) :=
      lost.trans (sameBanks_writeSectors ..)
    refine SameBanks.trans ?_ (sameBanks_modCore _ core (fun _ => rfl))
    split
    · exact sectors.trans (.of_cores rfl)
    · exact sectors

theorem sameBanks_keepReplica (s : State) (quad : Nat) (l : CchLine) : SameBanks s (s.keepReplica quad l) := by
  unfold State.keepReplica
  dsimp only
  split
  · exact .of_cores rfl
  · split <;> exact .of_cores rfl

theorem sameBanks_evict (s : State) (core : Nat) (l : CchLine) : SameBanks s (s.evict core l) := by
  have dropped : SameBanks s ((s.writeBack core l.addr).modCore core (·.dropLine l.addr)) :=
    (sameBanks_writeBack s core l.addr).trans (sameBanks_modCore _ core (fun _ => rfl))
  unfold State.evict
  dsimp only
  split
  · exact dropped.trans (sameBanks_keepReplica ..)
  · exact dropped

theorem sameBanks_mergeDelta (s : State) (core line : Nat) : SameBanks s (s.mergeDelta core line) := by
  unfold State.mergeDelta
  split
  · exact .refl s
  · refine SameBanks.trans (sameBanks_foldl (fun s d => ?_) _ s) (sameBanks_modCore _ core (fun _ => rfl))
    exact .of_cores rfl

theorem sameBanks_evictU (s : State) (core line : Nat) : SameBanks s (s.evictU core line) :=
  (sameBanks_mergeDelta s core line).trans (.of_cores rfl)

theorem sameBanks_dropDeparting (s : State) (core n : Nat) : SameBanks s (s.dropDeparting core n) := by
  refine SameBanks.trans (sameBanks_foldl (fun s l => ?_) _ s) (.of_cores rfl)
  split
  · split
    · exact sameBanks_evict ..
    · exact .refl s
  · exact sameBanks_evictU ..

theorem sameBanks_freeWords (s : State) (key n : Nat) : SameBanks s (s.freeWords key n) := by
  refine SameBanks.trans (sameBanks_foldl (fun t k => ?_) _ s) (.of_cores rfl)
  exact .of_cores rfl

/-! ### The end of a move -/

theorem read_clear (m : List Host.Cell) {a n x : Nat} (h1 : a ≤ x) (h2 : x < a + n) :
    Memory.read (Memory.clear m a n) x = 0 := by
  unfold Memory.read Memory.clear tget
  induction m with
  | nil => rfl
  | cons p m ih =>
    obtain ⟨k, b⟩ := p
    simp only [List.filter_cons]
    split
    case isTrue hk =>
      have apart : ¬ x = k := by rintro rfl; simp [h1, h2] at hk
      rw [tfind, if_neg apart]
      exact ih
    case isFalse => exact ih

/-- The bytes of the departing banks are saved: the lines of CCH go home, the rings of MSG move (R114). -/
def State.saveDeparting (s : State) (core : Nat) (m : Move) : State :=
  match m.give with
  | .cch => s.dropDeparting core m.n
  | .msg => s.relocate core ((s.coreAt core).departing m.give m.n)
  | _ => s

/-- The departing banks are cleared. -/
def State.clearDeparting (s t : State) (core : Nat) (m : Move) : State :=
  match roleKey core m.give with
  | some k => t.zero (k + ((s.coreAt core).departing m.give m.n).1) ((s.coreAt core).departing m.give m.n).2
  | none => t

/-- The gained banks hold zeros, or in MSG free values (R114). -/
def State.fillGained (s t : State) (core : Nat) (m : Move) : State :=
  match m.gain, roleKey core m.gain with
  | .msg, some k => t.freeWords (k + (s.coreAt core).bankCount .msg * 0x2000) (m.n * 0x400)
  | _, some k => t.zero (k + (s.coreAt core).bankCount m.gain * 0x2000) (m.n * 0x2000)
  | _, none => t

section
variable {s t : State} {core : Nat} {m : Move}

theorem sameBanks_saveDeparting : SameBanks s (s.saveDeparting core m) := by
  unfold State.saveDeparting
  split
  · exact sameBanks_dropDeparting ..
  · exact sameBanks_relocate ..
  · exact .refl s

theorem sameBanks_clearDeparting : SameBanks t (s.clearDeparting t core m) := by
  unfold State.clearDeparting
  split
  · exact .of_cores rfl
  · exact .refl t

theorem sameBanks_fillGained : SameBanks t (s.fillGained t core m) := by
  unfold State.fillGained
  split
  · exact sameBanks_freeWords ..
  · exact .of_cores rfl
  · exact .refl t

/-- The state of a core's pool as the handshake changes its counts. -/
def State.movedMemory (s : State) (core : Nat) (m : Move) : State :=
  s.fillGained (s.clearDeparting (s.saveDeparting core m) core m) core m

theorem sameBanks_movedMemory : SameBanks s (s.movedMemory core m) :=
  (sameBanks_saveDeparting.trans sameBanks_clearDeparting).trans sameBanks_fillGained

/-- A gained bank of REG, MAT or SCR reads as zero (R114). -/
theorem read_movedMemory {k x : Nat} (hk : roleKey core m.gain = some k) (hm : m.gain ≠ .msg)
    (h1 : k + (s.coreAt core).bankCount m.gain * 0x2000 ≤ x)
    (h2 : x < k + ((s.coreAt core).bankCount m.gain + m.n) * 0x2000) :
    Memory.read (s.movedMemory core m).mem x = 0 := by
  unfold State.movedMemory State.fillGained
  split
  case h_1 hg _ => exact absurd hg hm
  case h_2 k' hk' _ =>
    obtain rfl : k = k' := Option.some.inj (hk.symm.trans hk')
    exact read_clear _ h1 (by omega)
  case h_3 _ hk' => exact absurd (hk.symm.trans hk') nofun

end

theorem Core.bankCount_setBanks_same (c : Core) (r : Role) (n : Nat) : (c.setBanks r n).bankCount r = n := by
  simp only [Core.bankCount, Core.setBanks, Vector.getElem_set_self]

theorem Core.bankCount_setBanks_other (c : Core) {r q : Role} (h : q ≠ r) (n : Nat) :
    (c.setBanks r n).bankCount q = c.bankCount q := by
  have codes : r.code % 5 ≠ q.code % 5 := by
    revert h
    cases r <;> cases q <;> decide
  simp only [Core.bankCount, Core.setBanks, Vector.getElem_set_ne _ _ codes]


/-- The core whose move has ended: the tiles in the departing banks are invalid, the counts have changed, and the context
that asked for the move goes on (R114 to R116). -/
def Core.endedMove (m : Move) (dep : Nat × Nat) (c : Core) : Core :=
  let gone (n : Nat) : Bool := match tfind c.tiles n with | some t => t.inRange m.give dep | none => false
  let c := { c with
    tiles := c.tiles.filter (fun t => !t.2.inRange m.give dep)
    ctx := c.ctx.map (fun x => Ctx.loseTiles x gone)
    move := none }
  let c := (c.setBanks m.give (c.bankCount m.give - m.n)).setBanks m.gain (c.bankCount m.gain + m.n)
  match (c.ctxAt m.fc).awaited with
  | some (.poolMove d) => c.setCtx m.fc ((c.ctxAt m.fc).answer d 0)
  | _ => c

section
variable {s : State} {core : Nat} {m : Move}

theorem endMove_eq (h : (s.coreAt core).move = some m) : s.endMove core = (s.movedMemory core m).modCore core
    (Core.endedMove m ((s.coreAt core).departing m.give m.n)) := by
  unfold State.endMove
  rw [h]
  rfl

theorem endedMove_move (dep : Nat × Nat) (c : Core) : (c.endedMove m dep).move = none := by
  unfold Core.endedMove
  dsimp only
  split <;> rfl

theorem endedMove_banks (dep : Nat × Nat) (c : Core) : (c.endedMove m dep).banks =
    ((c.setBanks m.give (c.bankCount m.give - m.n)).setBanks m.gain (c.bankCount m.gain + m.n)).banks := by
  unfold Core.endedMove
  dsimp only
  split <;> rfl

theorem endedMove_gain (dep : Nat × Nat) (c : Core) :
    (c.endedMove m dep).bankCount m.gain = c.bankCount m.gain + m.n := by
  rw [Core.bankCount, endedMove_banks]
  exact Core.bankCount_setBanks_same ..

theorem endedMove_give (hg : m.gain ≠ m.give) (dep : Nat × Nat) (c : Core) :
    (c.endedMove m dep).bankCount m.give = c.bankCount m.give - m.n := by
  rw [Core.bankCount, endedMove_banks]
  exact (Core.bankCount_setBanks_other _ hg.symm _).trans (Core.bankCount_setBanks_same ..)

end

/-! ### POOLSET, POOLRD and HWM.SET -/

section
variable {s sa : State} {o : AOps} {a : Word}

/-- The state of a POOLSET whose move has begun: its context waits for the end of the move (R114). -/
def State.poolsetBegun (s : State) (o : AOps) : State :=
  (({ s with fresh := s.fresh + 1 } : State).modHere (fun c => { c with
    move := some ⟨roleField o.ext.toNat 9, roleField o.ext.toNat 6, bits o.ext.toNat 5 0, s.fc % 4⟩ })).modCtx
      (fun c => { c with awaited := some (.poolMove o.h.d), stall := none })

/-- POOLSET.wait alone waits, and on the codes IN_PROGRESS and BUSY_FILL (R113, R116). -/
theorem act_poolset_waits (hc : s.poolsetCode o = 1 ∨ s.poolsetCode o = 7) :
    (poolset o true).run s = .error (.wait .pool true) := by
  unfold State.poolsetCode at hc
  unfold poolset
  rw [act_bind_ok (act_get s), act_bind_ok (act_modify _ s), if_pos]
  · rfl
  · rcases hc with hc | hc <;> simp [hc]

theorem act_poolset_begins (hc : s.poolsetCode o = 0) (wait : Bool) :
    (poolset o wait).run s = .ok (.stay, s.poolsetBegun o) := by
  unfold State.poolsetCode at hc
  unfold poolset
  rw [act_bind_ok (act_get s), act_bind_ok (act_modify _ s), if_neg (by simp [hc]), if_neg (not_not.mpr hc)]
  rfl

theorem act_poolset_answers (hc : s.poolsetCode o ≠ 0) {wait : Bool}
    (hw : wait = true → s.poolsetCode o ≠ 1 ∧ s.poolsetCode o ≠ 7) : (poolset o wait).run s = .ok (.next,
      ({ s with fresh := s.fresh + 1 } : State).modCtx (·.wg o.h.d.index (word (s.poolsetCode o)))) := by
  unfold State.poolsetCode at *
  unfold poolset
  rw [act_bind_ok (act_get s), act_bind_ok (act_modify _ s), if_neg ?_, if_pos hc]
  · rfl
  · cases wait with
    | false => simp
    | true => simp [hw rfl]

theorem exec_poolsetWait_waits (hi : Issues (.poolsetWait o) o.h s) (hc : s.poolsetCode o = 1 ∨ s.poolsetCode o = 7) :
    exec (.poolsetWait o) s = .next (s.modCtx (·.stallOn .pool true s.now)) :=
  issue_stop hi (act_poolset_waits hc)

theorem exec_poolrd (hi : Issues (.poolrd o) o.h s) : exec (.poolrd o) s =
    .next ((s.modCtx (·.wg o.h.d.index (word (s.here.bankCount (roleField o.ext.toNat 9))))).retired (.poolrd o)) :=
  issueNext_ok hi (by rw [act_bind_ok (act_getCore s), act_writeD])

/-- HWM.SET of a value the SCR role holds (R109). -/
theorem exec_hwmSet (hi : Issues (.hwmSet o) o.h s) (ha : (o.src o.h.s1).run s = .ok (a, sa)) (h1 : a.toNat ≤ 0x80000)
    (h2 : ceilDiv a.toNat 0x2000 ≤ sa.here.bankCount .scr) :
    exec (.hwmSet o) s = .next ((sa.modHere (fun c => { c with scrhwm := a.toNat })).retired (.hwmSet o)) :=
  issueNext_ok hi (by
    rw [act_bind_ok ha, act_bind_ok (act_getCore sa), act_bind_ok (act_unlessFault (by simp [h1, h2]) _ _ _), act_modCore])

theorem exec_hwmSet_refused (hi : Issues (.hwmSet o) o.h s) (ha : (o.src o.h.s1).run s = .ok (a, sa))
    (h : 0x80000 < a.toNat ∨ sa.here.bankCount .scr < ceilDiv a.toNat 0x2000) :
    exec (.hwmSet o) s = .next (s.takeTrapA { cause := cILLEGAL_OPERAND }) :=
  issueNext_trap hi (by
    rw [act_bind_ok ha, act_bind_ok (act_getCore sa), act_bind_error (act_unlessFault_false ?_ _ _ _)]
    simp only [Bool.and_eq_false_iff, decide_eq_false_iff_not]
    omega)

end

end Sys2Proof.Machine

open Sys2Proof.Machine in
/-- Settles O26: what `poolset` does by its code, and the end of a move by what it writes to memory (`read_movedMemory`) and
to the core (`endedMove_gain`, `endedMove_give`). -/
theorem poolMoves : Obligations.PoolMoves := by
  intro o s sa a
  refine ⟨fun hi hc => issue_next hi (act_poolset_answers hc nofun), fun hi hc => issue_stay hi (act_poolset_begins hc _),
    exec_poolsetWait_waits, fun hi h0 h1 h7 => issue_next hi (act_poolset_answers h0 fun _ => ⟨h1, h7⟩),
    fun hi hc => issue_stay hi (act_poolset_begins hc _), fun core m hm hg => ?_, exec_poolrd, exec_hwmSet,
    exec_hwmSet_refused⟩
  have counts := sameBanks_movedMemory (s := s) (core := core) (m := m)
  refine ⟨s.endMove core, rfl, ?_, ?_, ?_, fun k x hk hr h1 h2 => ?_⟩ <;> rw [endMove_eq hm]
  · rw [State.coreAt_modCore, endedMove_move]
  · rw [State.coreAt_modCore, endedMove_gain, counts.bankCount]
  · rw [State.coreAt_modCore, endedMove_give hg, counts.bankCount]
  · exact read_movedMemory hk hr h1 h2
end

section
/-! SUPPORT. What a change of a view and the four tile instructions do (R101 to R103, R106, R115, R117, R118). -/

namespace Sys2Proof.Machine

/-! ### Views -/

/-- Changes of the current core that agree on it are one change. -/
theorem modHere_congr {s : State} {f g : Core → Core} (h : f s.here = g s.here) : s.modHere f = s.modHere g := by
  unfold State.modHere State.modCore
  exact congrArg _ h

/-- The core after a change of a view: the new one is set, or the old one loses its COUNT (R103). -/
def Core.changedView (old : View) (which : Nat) (v : View) (c : Core) : Core :=
  let c := c.setView which (if v.count = 0 then { old with count := 0 } else v)
  if which = 1 then c.mapTiles old v else c

/-- What is left of a change of a view once nothing holds it back: the checks of its place, and the change (R103). -/
def placeView (c : Core) (which : Nat) (v : View) : Act Unit :=
  if v.count = 0 then modCore (Core.changedView (c.view which) which v)
  else do
    unlessFault (c.regSpaceHas (viewBytes which v).1 (viewBytes which v).2 &&
      (which == 0 || decide (0x40000 ≤ (viewBytes which v).1))) cVIEW_RANGE (some (word v.value))
    unlessFault (decide (regFootprint (c.setView which v).views + 1 ≤ c.bankCount .reg)) cVIEW_RANGE (some (word v.value))
    modCore (Core.changedView (c.view which) which v)

section
variable {s : State} {which : Nat} {v : View}

theorem act_changeView_free (hf : Claims.ViewFree s.here which v.count) :
    (changeView which v).run s = (placeView s.here which v).run s := by
  unfold changeView
  rw [act_bind_ok (act_getCore s), act_bind_ok (act_waitUntil hf.still _ _ _),
    act_bind_ok (act_waitUntil (by simp [hf.unnamed]) _ _ _)]
  dsimp only
  by_cases h : which = 1
  · subst h
    have idle : s.here.busyTile (max (s.here.view 1).count v.count) = none := hf.empty rfl
    rw [if_pos rfl, idle]
    rfl
  · rw [if_neg h]
    rfl

/-- A view without entries maps no tile, whatever its BASE and SHAPE. -/
theorem mapTiles_none {c : Core} {old v u : View} (hv : v.count = 0) (hu : u.count = 0) :
    c.mapTiles old v = c.mapTiles old u := by
  simp only [Core.mapTiles, hv, hu, List.range_zero, List.foldl_nil]

theorem changedView_set (hv : v.count ≠ 0) (c : Core) :
    Core.changedView (c.view which) which v c = Claims.viewed c which v := by
  unfold Core.changedView Claims.viewed
  rw [if_neg hv]
  split
  case isTrue h =>
    subst h
    rfl
  case isFalse => rfl

theorem changedView_clear (hv : v.count = 0) (c : Core) :
    Core.changedView (c.view which) which v c = Claims.viewed c which { c.view which with count := 0 } := by
  unfold Core.changedView Claims.viewed
  rw [if_pos hv]
  split
  case isTrue h =>
    subst h
    exact mapTiles_none hv rfl
  case isFalse => rfl

/-- A view that lies in its banks is set (R103). -/
theorem act_changeView_sets (hf : Claims.ViewFree s.here which v.count) (hv : v.count ≠ 0)
    (hp : Claims.viewPlaced s.here which v) :
    (changeView which v).run s = .ok ((), s.modHere (Claims.viewed · which v)) := by
  obtain ⟨inBanks, inMat, reserve⟩ := hp
  have place : (which == 0 || decide (0x40000 ≤ (viewBytes which v).1)) = true := by
    by_cases h : which = 0
    · simp [h]
    · simp [inMat h]
  rw [act_changeView_free hf, placeView, if_neg hv, act_bind_ok (act_unlessFault (by rw [inBanks, place]; rfl) _ _ _),
    act_bind_ok (act_unlessFault (decide_eq_true reserve) _ _ _), act_modCore]
  exact congrArg (fun t => Except.ok ((), t)) (modHere_congr (changedView_set hv s.here))

/-- One that does not raises VIEW_RANGE with the view as TVAL (R103, R106). -/
theorem act_changeView_refused (hf : Claims.ViewFree s.here which v.count) (hv : v.count ≠ 0)
    (hp : ¬ Claims.viewPlaced s.here which v) : (changeView which v).run s =
      .error (.trap { cause := cVIEW_RANGE, tval := some (word v.value) }) := by
  rw [act_changeView_free hf, placeView, if_neg hv]
  by_cases place : (s.here.regSpaceHas (viewBytes which v).1 (viewBytes which v).2 &&
      (which == 0 || decide (0x40000 ≤ (viewBytes which v).1))) = true
  · rw [act_bind_ok (act_unlessFault place _ _ _), act_bind_error (act_unlessFault_false (decide_eq_false fun reserve => ?_) _ _ _)]
    simp only [Bool.and_eq_true, Bool.or_eq_true, beq_iff_eq, decide_eq_true_eq] at place
    exact hp ⟨place.1, fun h => place.2.resolve_left h, reserve⟩
  · rw [act_bind_error (act_unlessFault_false (Bool.eq_false_iff.mpr place) _ _ _)]

/-- COUNT 0 clears the view (R103). -/
theorem act_changeView_clears (hf : Claims.ViewFree s.here which v.count) (hv : v.count = 0) :
    (changeView which v).run s =
      .ok ((), s.modHere (fun c => Claims.viewed c which { c.view which with count := 0 })) := by
  rw [act_changeView_free hf, placeView, if_pos hv, act_modCore]
  exact congrArg (fun t => Except.ok ((), t)) (modHere_congr (changedView_clear hv s.here))

end

/-! ### Tiles -/

section
variable {s : State} {r : Reg} {t : Tile}

/-- The entry a field names, once its banks do not move (R115). -/
theorem act_tileEntry_some (ht : tfind s.here.tiles r.index = some t) (hm : s.here.tileMoving t = false)
    (tval : Option Word) : (tileEntry r tval).run s = .ok (some t, s) := by
  unfold tileEntry
  rw [act_bind_ok (act_get s)]
  simp only [ht]
  rw [act_bind_ok (act_waitUntil (by simp [hm]) _ _ _)]
  rfl

/-- The model's test for an entry that waited and was lost is the claim's (R115). -/
theorem waited_iff : (if s.half then (match s.ctx.xhead with | some e => e.lost | none => false)
    else match s.ctx.stall with | some st => st.why == .tileMove r.index | none => false) = true ↔ Claims.waited s r := by
  unfold Claims.waited
  cases s.half with
  | true => cases s.ctx.xhead <;> simp
  | false => cases s.ctx.stall <;> simp

/-- An invalid entry is no entry, unless the use has waited for it (R115). -/
theorem act_tileEntry_none (ht : tfind s.here.tiles r.index = none) (hw : ¬ Claims.waited s r) (tval : Option Word) :
    (tileEntry r tval).run s = .ok (none, s) := by
  unfold tileEntry
  rw [act_bind_ok (act_get s)]
  simp only [ht]
  rw [act_bind_ok (act_unlessFault ?_ _ _ _)]
  · rfl
  · rw [← waited_iff, Bool.not_eq_true] at hw
    exact (Bool.not_eq_true' _).mpr hw

theorem act_tileEntry_lost (ht : tfind s.here.tiles r.index = none) (hw : Claims.waited s r) (tval : Option Word) :
    (tileEntry r tval).run s = .error (.trap { cause := cTILE_RANGE, tval := tval }) := by
  unfold tileEntry
  rw [act_bind_ok (act_get s)]
  simp only [ht]
  rw [act_bind_error (act_unlessFault_false ?_ _ _ _)]
  exact (Bool.not_eq_false' _).mpr (waited_iff.mpr hw)

end

/-! ### The instructions -/

section
variable {s : State} {o : AOps} {t : Tile}

theorem exec_viewSet {which : Nat} {v : View} (hw : bits o.ext.toNat 35 34 = which) (hv : Claims.viewOf o = v)
    (hi : Issues (.viewSet o) o.h s) (h0 : v.count ≠ 0) (hf : Claims.ViewFree s.here which v.count)
    (hp : Claims.viewPlaced s.here which v) :
    exec (.viewSet o) s = .next ((s.modHere (Claims.viewed · which v)).retired (.viewSet o)) := by
  subst hw hv
  exact issueNext_ok hi (act_changeView_sets hf h0 hp)

theorem exec_viewSet_refused {which : Nat} {v : View} (hw : bits o.ext.toNat 35 34 = which) (hv : Claims.viewOf o = v)
    (hi : Issues (.viewSet o) o.h s) (h0 : v.count ≠ 0) (hf : Claims.ViewFree s.here which v.count)
    (hp : ¬ Claims.viewPlaced s.here which v) :
    exec (.viewSet o) s = .next (s.takeTrapA { cause := cVIEW_RANGE, tval := some (word v.value) }) := by
  subst hw hv
  exact issueNext_trap hi (act_changeView_refused hf h0 hp)

theorem exec_viewClr {which : Nat} (hw : bits o.ext.toNat 35 34 = which) (hi : Issues (.viewClr o) o.h s)
    (hf : Claims.ViewFree s.here which 0) : exec (.viewClr o) s = .next
      ((s.modHere (fun c => Claims.viewed c which { c.view which with count := 0 })).retired (.viewClr o)) := by
  subst hw
  exact issueNext_ok hi (act_changeView_clears hf rfl)

/-- The checks and the effect of a TSET, once the entry that stands there is known (R118). -/
def tsetOver (o : AOps) (c : Core) (n : Tile) (old : Option Tile) : Act Unit := do
  match old with
  | some old => unlessFault (old.state == .empty) cTILE_STATE
  | none => pure ()
  waitUntil (!c.tileMoving n) .pool
  unlessFault (c.tileFits n) cTILE_RANGE
  modCore (fun c => { c with tiles := Sys2Proof.Machine.tset c.tiles o.h.d.index n })

/-- The effect of a TSET (R118). -/
def tsetAct (o : AOps) : Act Unit := do
  let b ← readGReg o.h.s1
  let c ← getCore
  unlessFault (decide (c.vwt.count ≤ o.h.d.index)) cILLEGAL_OPERAND
  let old ← tileEntry o.h.d
  tsetOver o c (Claims.tileOf o b) old

theorem tileRole_eq (n : Nat) : tileRole n = if n = 0 then .mat else if n = 1 then .scr else .csm := by
  match n with
  | 0 | 1 | _ + 2 => rfl

theorem exec_tset_eq : exec (.tset o) s = issueNext (.tset o) o.h (tsetAct o) s := by
  unfold tsetAct Claims.tileOf
  simp only [← tileRole_eq]
  rfl

theorem act_tset_over {old : Option Tile} (hv : s.here.vwt.count ≤ o.h.d.index)
    (he : (tileEntry o.h.d).run s = .ok (old, s)) :
    (tsetAct o).run s = (tsetOver o s.here (Claims.tileOf o (s.ctx.rg o.h.s1.index)) old).run s := by
  unfold tsetAct
  rw [act_bind_ok (act_readGReg _ s), act_bind_ok (act_getCore s), act_bind_ok (act_unlessFault (decide_eq_true hv) _ _ s),
    act_bind_ok he]

variable {n : Tile} {old : Option Tile}

/-- Over no entry or an EMPTY one, the checks of the new entry's banks decide (R118). -/
theorem act_tsetOver_free (hold : ∀ t ∈ old, t.state = .empty) (hm : s.here.tileMoving n = false) :
    (tsetOver o s.here n old).run s = (do
      unlessFault (s.here.tileFits n) cTILE_RANGE
      modCore (fun c => { c with tiles := Sys2Proof.Machine.tset c.tiles o.h.d.index n }) : Act Unit).run s := by
  have still := act_waitUntil (c := !s.here.tileMoving n) (by rw [hm]; rfl) .pool false s
  unfold tsetOver
  cases old with
  | none => exact act_bind_ok still _
  | some old =>
    dsimp only
    rw [act_bind_ok (act_unlessFault (by simp [hold old rfl]) _ _ s), act_bind_ok still]

theorem act_tsetOver_busy {t : Tile} (ht : t.state ≠ .empty) :
    (tsetOver o s.here n (some t)).run s = .error (.trap { cause := cTILE_STATE }) :=
  act_bind_error (act_unlessFault_false (beq_eq_false_iff_ne.mpr ht) _ _ s) _

/-- TSET of an entry that is invalid or EMPTY (R118). -/
theorem exec_tset_free (hi : Issues (.tset o) o.h s) (hv : s.here.vwt.count ≤ o.h.d.index)
    (he : (tileEntry o.h.d).run s = .ok (old, s)) (hold : ∀ t ∈ old, t.state = .empty)
    (hn : Claims.tileOf o (s.ctx.rg o.h.s1.index) = n) (hm : s.here.tileMoving n = false) :
    (s.here.tileFits n = true → exec (.tset o) s = .next ((s.modHere (fun c =>
      { c with tiles := Sys2Proof.Machine.tset c.tiles o.h.d.index n })).retired (.tset o))) ∧
    (s.here.tileFits n = false → exec (.tset o) s = .next (s.takeTrapA { cause := cTILE_RANGE })) := by
  have run := act_tset_over (o := o) hv he
  rw [hn, act_tsetOver_free hold hm] at run
  rw [exec_tset_eq]
  refine ⟨fun hf => issueNext_ok hi ?_, fun hf => issueNext_trap hi ?_⟩
  · rw [run, act_bind_ok (act_unlessFault hf _ _ s), act_modCore]
  · rw [run, act_bind_error (act_unlessFault_false hf _ _ s)]

theorem exec_tset_busy (hi : Issues (.tset o) o.h s) (hv : s.here.vwt.count ≤ o.h.d.index)
    (ht : tfind s.here.tiles o.h.d.index = some t) (hm : s.here.tileMoving t = false) (hs : t.state ≠ .empty) :
    exec (.tset o) s = .next (s.takeTrapA { cause := cTILE_STATE }) := by
  rw [exec_tset_eq]
  exact issueNext_trap hi ((act_tset_over hv (act_tileEntry_some ht hm none)).trans (act_tsetOver_busy hs))

theorem exec_tstat_none (hi : Issues (.tstat o) o.h s) (ht : tfind s.here.tiles o.h.s1.index = none)
    (hw : ¬ Claims.waited s o.h.s1) :
    exec (.tstat o) s = .next ((s.modCtx (·.wg o.h.d.index 0)).retired (.tstat o)) :=
  issueNext_ok hi (by rw [act_bind_ok (act_tileEntry_none ht hw none), act_writeD])

theorem exec_tstat_some (hi : Issues (.tstat o) o.h s) (ht : tfind s.here.tiles o.h.s1.index = some t)
    (hm : s.here.tileMoving t = false) :
    exec (.tstat o) s = .next ((s.modCtx (·.wg o.h.d.index (word t.stat))).retired (.tstat o)) :=
  issueNext_ok hi (by rw [act_bind_ok (act_tileEntry_some ht hm none), act_writeD])

theorem exec_tstat_lost (hi : Issues (.tstat o) o.h s) (ht : tfind s.here.tiles o.h.s1.index = none)
    (hw : Claims.waited s o.h.s1) : exec (.tstat o) s = .next (s.takeTrapA { cause := cTILE_RANGE }) :=
  issueNext_trap hi (act_bind_error (act_tileEntry_lost ht hw none) _)

theorem natOfBool_mul (b : Bool) (n : Nat) : natOfBool b * n = if b then n else 0 := by
  cases b <;> simp [natOfBool]

/-- The word of TSTAT, its fields in the order of their places from the lowest (R118). -/
theorem stat_eq (t : Tile) : t.stat = t.state.code + t.readers * 2 ^ 8 + t.base * 2 ^ 32 +
    (if t.err.isSome then 2 ^ 52 else 0) + 2 ^ 53 + (if t.inVwt then 2 ^ 54 else 0) + (if t.wide then 2 ^ 55 else 0) +
    t.fmt.code.toNat * 2 ^ 56 + t.role.code * 2 ^ 60 := by
  simp only [Tile.stat, natOfBool_mul]
  omega

/-- TCLR of an invalid entry, waited for or not, raises TILE_RANGE (R115, R118). -/
theorem exec_tclr_none (hi : Issues (.tclr o) o.h s) (ht : tfind s.here.tiles o.h.s1.index = none) :
    exec (.tclr o) s = .next (s.takeTrapA { cause := cTILE_RANGE }) := by
  refine issueNext_trap hi ?_
  by_cases hw : Claims.waited s o.h.s1
  · exact act_bind_error (act_tileEntry_lost ht hw none) _
  · exact act_bind_ok (act_tileEntry_none ht hw none) _

/-- A tile that is filled, drained or read is busy (R118). -/
theorem exec_tclr_busy (hi : Issues (.tclr o) o.h s) (ht : tfind s.here.tiles o.h.s1.index = some t)
    (hm : s.here.tileMoving t = false) (hb : t.state = .filling ∨ t.state = .draining ∨ 0 < t.readers) :
    exec (.tclr o) s = .next ((s.modCtx (·.wg o.h.d.index 3)).retired (.tclr o)) := by
  refine issueNext_ok hi ?_
  rw [act_bind_ok (act_tileEntry_some ht hm none)]
  exact congrArg (StateT.run · s) (if_pos (by simpa [or_assoc] using hb))

theorem exec_tclr_idle (hi : Issues (.tclr o) o.h s) (ht : tfind s.here.tiles o.h.s1.index = some t)
    (hm : s.here.tileMoving t = false) (h1 : t.state ≠ .filling) (h2 : t.state ≠ .draining) (h3 : t.readers = 0) :
    exec (.tclr o) s = .next (((s.modHere (·.setTile o.h.s1.index (fun t => { t with state := .empty }))).modCtx
      (·.wg o.h.d.index 0)).retired (.tclr o)) := by
  refine issueNext_ok hi ?_
  rw [act_bind_ok (act_tileEntry_some ht hm none)]
  exact congrArg (StateT.run · s) (if_neg (by simp [h1, h2, h3]))

end

end Sys2Proof.Machine

open Sys2Proof.Machine in
/-- Settles O27: each instruction's outcome by the entry it finds, and a change of a view by its place
(`act_changeView_sets`, `act_changeView_refused`, `act_changeView_clears`). -/
theorem viewsAndTiles : Obligations.ViewsAndTiles := by
  intro o s t
  refine ⟨fun hi _ => exec_viewSet rfl rfl hi, fun hi _ => exec_viewSet_refused rfl rfl hi, fun hi _ => exec_viewClr rfl hi,
    fun hi hv => ?_, exec_tset_busy, exec_tstat_none, fun hi ht hm => ?_, exec_tstat_lost, exec_tclr_none,
    fun hi ht hm => ⟨exec_tclr_busy hi ht hm, exec_tclr_idle hi ht hm⟩⟩
  · rintro n (⟨ht, hw⟩ | ⟨ht, he, hm⟩)
    · exact exec_tset_free hi hv (act_tileEntry_none ht hw none) nofun rfl
    · exact exec_tset_free hi hv (act_tileEntry_some ht hm none) (fun u hu => Option.some.inj hu ▸ he) rfl
  · rw [exec_tstat_some hi ht hm, stat_eq]
    rfl
end

section
/-! SUPPORT. Fields of words: what a mask keeps of a word, field by field. -/

namespace Sys2Proof.Machine

/-- A mask cut at a place keeps the bits above and below it apart. -/
theorem and_cut (x hi : Nat) {lo k : Nat} (h : lo < 2 ^ k) :
    x &&& (2 ^ k * hi + lo) = 2 ^ k * (x / 2 ^ k &&& hi) + (x % 2 ^ k &&& lo) := by
  have low : x % 2 ^ k &&& lo < 2 ^ k := Nat.and_lt_two_pow _ h
  refine Nat.eq_of_testBit_eq fun i => ?_
  rw [Nat.testBit_and, Nat.testBit_two_pow_mul_add _ h, Nat.testBit_two_pow_mul_add _ low]
  split
  case isTrue hi => simp [hi]
  case isFalse hi =>
    rw [Nat.testBit_and, Nat.testBit_div_two_pow, Nat.sub_add_cancel (by omega)]

theorem natOfBool_bit (x n : Nat) : natOfBool (bit x n) = x / 2 ^ n % 2 := by
  unfold bit natOfBool
  rw [Nat.shiftRight_eq_div_pow]
  rcases Nat.mod_two_eq_zero_or_one (x / 2 ^ n) with h | h <;> rw [h] <;> rfl

theorem bit_eq_testBit (x n : Nat) : bit x n = x.testBit n := by
  rw [bit, Nat.shiftRight_eq_div_pow, Nat.testBit_eq_decide_div_mod_eq]
  rfl

theorem bits_eq (x hi lo : Nat) : bits x hi lo = x / 2 ^ lo % 2 ^ (hi + 1 - lo) := by
  rw [bits, Nat.shiftRight_eq_div_pow]

theorem toNat_extract (x : Word) (lo n : Nat) : (x.extractLsb' lo n).toNat = x.toNat / 2 ^ lo % 2 ^ n := by
  rw [BitVec.extractLsb'_toNat, Nat.shiftRight_eq_div_pow]

theorem toNat_word {n : Nat} (h : n < 2 ^ 64) : (word n).toNat = n := by
  rw [word, BitVec.toNat_ofNat, Nat.mod_eq_of_lt h]

/-! Masks of one field, from the lowest bit. -/

section
variable (a : Word)

theorem word_mod {k : Nat} {m : Word} (hm : m.toNat = 2 ^ k - 1) : word (a.toNat % 2 ^ k) = a &&& m := by
  refine BitVec.eq_of_toNat_eq ?_
  have := Nat.mod_le a.toNat (2 ^ k)
  rw [BitVec.toNat_and, hm, Nat.and_two_pow_sub_one_eq_mod, toNat_word (by omega)]

theorem field20 : word (bits a.toNat 19 0) = a &&& 0xFFFFF := word_mod a (k := 20) rfl

theorem field1 : word (natOfBool (bit a.toNat 0)) = a &&& 1 := by
  rw [natOfBool_bit, Nat.pow_zero, Nat.div_one]
  exact word_mod a (k := 1) rfl

theorem field32 : (a.setWidth 32).setWidth 64 = a &&& 0xFFFFFFFF := by
  rw [← word_mod a (k := 32) rfl]
  refine BitVec.eq_of_toNat_eq ?_
  rw [BitVec.toNat_setWidth, BitVec.toNat_setWidth, word, BitVec.toNat_ofNat]

/-- REPEN, LADV and LEASE of HCCTL (R281). -/
theorem field_hcctl : word (natOfBool (bit a.toNat 32) * 2 ^ 32 + (a.extractLsb' 16 16).toNat * 2 ^ 16 +
    (a.setWidth 16).toNat) = a &&& 0x1FFFFFFFF := by
  rw [← word_mod a (k := 33) rfl, natOfBool_bit, toNat_extract, BitVec.toNat_setWidth]
  congr 1
  omega

/-- STEAL and AGELIM (R355). -/
theorem field_agelim : word (natOfBool (bit a.toNat 32) * 2 ^ 32 + (a.setWidth 32).toNat) = a &&& 0x1FFFFFFFF := by
  rw [← word_mod a (k := 33) rfl, natOfBool_bit, BitVec.toNat_setWidth]
  congr 1
  omega

/-- MAXSH and GRAIN of RFCTL (R355). -/
theorem field_rfctl : word ((a.extractLsb' 32 16).toNat * 2 ^ 32 + (a.setWidth 32).toNat) = a &&& 0xFFFFFFFFFFFF := by
  rw [← word_mod a (k := 48) rfl, toNat_extract, BitVec.toNat_setWidth]
  congr 1
  omega

/-! Masks with a gap. -/

/-- EN and SRC of an event counter (R387). -/
theorem field_selection : word (natOfBool (bit a.toNat 63) * 2 ^ 63 + (a.setWidth 16).toNat) = a &&& 0x800000000000FFFF := by
  refine BitVec.eq_of_toNat_eq ?_
  have cut : a.toNat &&& 0x800000000000FFFF = _ := and_cut a.toNat 1 (lo := 0xFFFF) (k := 63) (by decide)
  have en : a.toNat / 2 ^ 63 &&& 1 = _ := Nat.and_two_pow_sub_one_eq_mod (a.toNat / 2 ^ 63) 1
  have src : a.toNat % 2 ^ 63 &&& 0xFFFF = _ := Nat.and_two_pow_sub_one_eq_mod (a.toNat % 2 ^ 63) 16
  rw [natOfBool_bit, word, BitVec.toNat_ofNat, BitVec.toNat_setWidth, BitVec.toNat_and]
  change _ = a.toNat &&& 0x800000000000FFFF
  rw [cut, en, src]
  omega

/-- EN, line address and slot of TVEC (R257). -/
theorem field_tvec : word (natOfBool (bit a.toNat 63) * 2 ^ 63 + (word (bits a.toNat 55 6 * 2 ^ 6 + bits a.toNat 2 0)).toNat) =
    a &&& 0x80FFFFFFFFFFFFC7 := by
  refine BitVec.eq_of_toNat_eq ?_
  have cut : a.toNat &&& 0x80FFFFFFFFFFFFC7 = _ := and_cut a.toNat 1 (lo := 0xFFFFFFFFFFFFC7) (k := 63) (by decide)
  have en : a.toNat / 2 ^ 63 &&& 1 = _ := Nat.and_two_pow_sub_one_eq_mod (a.toNat / 2 ^ 63) 1
  have cut' : a.toNat % 2 ^ 63 &&& 0xFFFFFFFFFFFFC7 = _ :=
    and_cut (a.toNat % 2 ^ 63) (2 ^ 50 - 1) (lo := 7) (k := 6) (by decide)
  have line := Nat.and_two_pow_sub_one_eq_mod (a.toNat % 2 ^ 63 / 2 ^ 6) 50
  have slot : a.toNat % 2 ^ 63 % 2 ^ 6 &&& 7 = _ := Nat.and_two_pow_sub_one_eq_mod (a.toNat % 2 ^ 63 % 2 ^ 6) 3
  rw [natOfBool_bit, bits_eq, bits_eq, word, word, BitVec.toNat_ofNat, BitVec.toNat_ofNat, BitVec.toNat_and]
  change _ = a.toNat &&& 0x80FFFFFFFFFFFFC7
  rw [cut, en, cut', line, slot]
  omega

/-! Masks beside fields that keep their value. -/

/-- LIMIT and DEPTH of PWRCTL are written, CUR keeps its value (R124). -/
theorem field_pwrctl {cur : BitVec 2} {limit : BitVec 10} {depth : BitVec 2} {y : Nat}
    (hy : y = cur.toNat * 2 ^ 18 + limit.toNat * 2 ^ 8 + depth.toNat) :
    word (cur.toNat * 2 ^ 18 + (a.extractLsb' 8 10).toNat * 2 ^ 8 + (a.setWidth 2).toNat) =
      (a &&& 0x3FF03) ||| (word y &&& 0xC0000) := by
  refine BitVec.eq_of_toNat_eq ?_
  have cut : a.toNat &&& 0x3FF03 = _ := and_cut a.toNat 0x3FF (lo := 3) (k := 8) (by decide)
  have high : a.toNat / 2 ^ 8 &&& 0x3FF = _ := Nat.and_two_pow_sub_one_eq_mod (a.toNat / 2 ^ 8) 10
  have low : a.toNat % 2 ^ 8 &&& 3 = _ := Nat.and_two_pow_sub_one_eq_mod (a.toNat % 2 ^ 8) 2
  have cut' : y &&& 0xC0000 = _ := and_cut y 3 (lo := 0) (k := 18) (by decide)
  have kept : y / 2 ^ 18 &&& 3 = _ := Nat.and_two_pow_sub_one_eq_mod (y / 2 ^ 18) 2
  have join := Nat.two_pow_add_eq_or_of_lt (i := 18)
    (b := 2 ^ 8 * (a.toNat / 2 ^ 8 % 2 ^ 10) + a.toNat % 2 ^ 8 % 2 ^ 2) (by omega) (y / 2 ^ 18 % 2 ^ 2)
  rw [BitVec.toNat_or, BitVec.toNat_and, BitVec.toNat_and, toNat_word (n := y) (by omega), toNat_extract,
    BitVec.toNat_setWidth, toNat_word (by omega)]
  change _ = (a.toNat &&& 0x3FF03) ||| (y &&& 0xC0000)
  rw [cut, high, low, cut', kept, Nat.and_zero, Nat.add_zero, Nat.or_comm, ← join]
  omega

/-- REGN and SKIP of TSTAT are written, SW and ORIGIN keep their value (R257). -/
theorem field_tstat {regn skip sw : Bool} {origin : BitVec 2} {y : Nat}
    (hy : y = natOfBool regn * 16 + natOfBool skip * 8 + natOfBool sw * 4 + origin.toNat) :
    word (natOfBool (bit a.toNat 4) * 16 + natOfBool (bit a.toNat 3) * 8 + natOfBool sw * 4 + origin.toNat) =
      (a &&& 0x18) ||| (word y &&& 7) := by
  refine BitVec.eq_of_toNat_eq ?_
  have bound (b : Bool) : natOfBool b < 2 := by cases b <;> decide
  have b1 := bound regn
  have b2 := bound skip
  have b3 := bound sw
  have cut : a.toNat &&& 0x18 = _ := and_cut a.toNat 3 (lo := 0) (k := 3) (by decide)
  have high : a.toNat / 2 ^ 3 &&& 3 = _ := Nat.and_two_pow_sub_one_eq_mod (a.toNat / 2 ^ 3) 2
  have kept : y &&& 7 = _ := Nat.and_two_pow_sub_one_eq_mod y 3
  have join := Nat.two_pow_add_eq_or_of_lt (i := 3) (b := y % 2 ^ 3) (by omega) (a.toNat / 2 ^ 3 % 2 ^ 2)
  rw [BitVec.toNat_or, BitVec.toNat_and, BitVec.toNat_and, toNat_word (n := y) (by omega), natOfBool_bit, natOfBool_bit,
    toNat_word (by omega)]
  change _ = (a.toNat &&& 0x18) ||| (y &&& 7)
  rw [cut, high, kept, Nat.and_zero, Nat.add_zero, ← join]
  omega

end

end Sys2Proof.Machine
end

section
/-! SUPPORT. What a write of a system register leaves in it, and in the others (R123). -/

namespace Sys2Proof.Machine

/-! ### Registers no write reaches -/

/-- Two contexts hold the same in every system register of a context (R123, R154, R199, R255, R257, R281). -/
structure SameRegisters (c d : Ctx) : Prop where
  fflags : d.fflags = c.fflags
  rngstr : d.rngstr = c.rngstr
  rngctr : d.rngctr = c.rngctr
  vsat : d.vsat = c.vsat
  evlatch : d.evlatch = c.evlatch
  cts : d.cts = c.cts
  trap : ∀ n, d.trapRegister n = c.trapRegister n

theorem SameRegisters.of_eq {c d : Ctx} (h : d = c) : SameRegisters c d := by
  subst h
  exact ⟨rfl, rfl, rfl, rfl, rfl, rfl, fun _ => rfl⟩

theorem sameRegisters_advance (c : Ctx) : SameRegisters c c.advance := ⟨rfl, rfl, rfl, rfl, rfl, rfl, fun _ => rfl⟩

theorem sameRegisters_commitRegion (c : Ctx) (i : Instr) : SameRegisters c (c.commitRegion i) := by
  unfold Ctx.commitRegion
  split <;> exact ⟨rfl, rfl, rfl, rfl, rfl, rfl, fun _ => rfl⟩

theorem ctx_modHere_of {f : Core → Core} (h : ∀ c, (f c).ctx = c.ctx) (s : State) : (s.modHere f).ctx = s.ctx := by
  rw [State.ctx_modHere]
  simp only [Core.ctxAt, h]
  rfl

section
variable {s : State} {n : Nat} {v : Word}

theorem sysValue_modCtx {f : Ctx → Ctx} (h : SameRegisters s.ctx (f s.ctx)) :
    (s.modCtx f).sysValue n v = s.sysValue n v := by
  simp only [State.sysValue, State.ctx_modCtx, State.here_modCtx, h.fflags, h.rngstr, h.rngctr, h.vsat, h.evlatch, h.cts,
    h.trap]
  rfl

theorem sysValue_modHere {f : Core → Core} (h : f s.here = s.here) : (s.modHere f).sysValue n v = s.sysValue n v := by
  have hc : (s.modHere f).ctx = s.ctx := by
    rw [State.ctx_modHere, h]
    rfl
  simp only [State.sysValue, State.here_modHere, h, hc]
  rfl

@[simp] theorem quadAt_modQuad (s : State) (q : Nat) (f : Quad → Quad) : (s.modQuad q f).quadAt q = f (s.quadAt q) :=
  tget_tset_same ..

@[simp] theorem pkgAt_modPkg (s : State) (p : Nat) (f : Package → Package) : (s.modPkg p f).pkgAt p = f (s.pkgAt p) :=
  tget_tset_same ..

theorem sysValue_modQuad {f : Quad → Quad} (h : f (s.quadAt (quadOf s.core)) = s.quadAt (quadOf s.core)) :
    (s.modQuad (quadOf s.core) f).sysValue n v = s.sysValue n v := by
  have hq : (s.modQuad (quadOf s.core) f).quadAt (quadOf s.core) = s.quadAt (quadOf s.core) :=
    (quadAt_modQuad ..).trans h
  unfold State.sysValue
  rw [State.modQuad_core, hq]
  rfl

theorem sysValue_modPkg {f : Package → Package} (h : f (s.pkgAt (corePkg s.core)) = s.pkgAt (corePkg s.core)) :
    (s.modPkg (corePkg s.core) f).sysValue n v = s.sysValue n v := by
  have hp : (s.modPkg (corePkg s.core) f).pkgAt (corePkg s.core) = s.pkgAt (corePkg s.core) :=
    (pkgAt_modPkg ..).trans h
  unfold State.sysValue
  rw [State.modPkg_core, hp]
  rfl

/-- A change of the core's event counters leaves every other register (R387). -/
theorem sysValue_modHere_ev {f : Core → Core} (hf : ∀ c, ∃ ev, f c = { c with ev := ev })
    (h1 : ¬ (0x100 ≤ n ∧ n ≤ 0x107)) (h2 : ¬ (0x108 ≤ n ∧ n ≤ 0x10F)) : (s.modHere f).sysValue n v = s.sysValue n v := by
  obtain ⟨ev, he⟩ := hf s.here
  have ctx : (s.modHere f).ctx = s.ctx := by
    rw [State.ctx_modHere, he]
    rfl
  simp only [State.sysValue, State.here_modHere, he, ctx, h1, h2, ↓reduceIte]
  rfl

theorem selection_count (c : Core) (k src : Nat) : ((c.count src).counter k).selection = (c.counter k).selection := by
  simp only [Core.counter, Core.count, Vector.getElem_map]
  split <;> rfl

/-- An event changes no register but the counts (R387). -/
theorem sysValue_count (h : ¬ Claims.counts n) (src : Nat) : (s.modHere (·.count src)).sysValue n v = s.sysValue n v := by
  by_cases hs : 0x100 ≤ n ∧ n ≤ 0x107
  · rw [sysValue_coreSelection _ _ hs.1 hs.2, sysValue_coreSelection _ _ hs.1 hs.2, State.here_modHere, selection_count]
  · exact sysValue_modHere_ev (f := (·.count src)) (fun _ => ⟨_, rfl⟩) hs (fun hc => h (Or.inl hc))

/-- What follows the effect of an instruction that goes on changes no register but the counts. -/
theorem sysValue_retired (h : ¬ Claims.counts n) (i : Instr) : (s.retired i).sysValue n v = s.sysValue n v := by
  rw [State.retired, sysValue_count h, sysValue_modCtx (f := Ctx.advance) (sameRegisters_advance _),
    sysValue_modCtx (f := (·.commitRegion i)) (sameRegisters_commitRegion _ i)]

end

/-! ### The core's registers -/

/-- The core's registers of one value that an SWR writes in S mode, but for the event counters (R123). -/
def coreWritten : List Nat := [0x011, 0x015, 0x017, 0x01C, 0x01D, 0x01E, 0x020, 0x036, 0x040, 0x050, 0x051]

section
variable {s : State} {n m now : Nat} {a v free : Word}

theorem coreWrite_select (h : 0x100 ≤ m ∧ m ≤ 0x107) (c : Core) : c.sysWrite now m free a =
    c.setCounter (m - 0x100) ((c.counter (m - 0x100)).select false now free a) := by
  unfold Core.sysWrite
  repeat rw [if_neg (by omega)]
  exact if_pos h

theorem coreWrite_load (h : 0x108 ≤ m ∧ m ≤ 0x10F) (c : Core) : c.sysWrite now m free a =
    c.setCounter (m - 0x108) ((c.counter (m - 0x108)).load now a) := by
  unfold Core.sysWrite
  repeat rw [if_neg (by omega)]
  exact if_pos h

theorem coreWrite_none (h : m ∉ coreWritten) (h1 : ¬ (0x100 ≤ m ∧ m ≤ 0x107)) (h2 : ¬ (0x108 ≤ m ∧ m ≤ 0x10F)) (c : Core) :
    c.sysWrite now m free a = c := by
  simp only [coreWritten, List.mem_cons, List.not_mem_nil, or_false, not_or] at h
  unfold Core.sysWrite
  repeat rw [if_neg (by omega)]

/-- A write of the core changes none of its contexts. -/
theorem ctx_coreWrite (c : Core) : (c.sysWrite now m free a).ctx = c.ctx := by
  by_cases h1 : 0x100 ≤ m ∧ m ≤ 0x107
  · rw [coreWrite_select h1]
    rfl
  · by_cases h2 : 0x108 ≤ m ∧ m ≤ 0x10F
    · rw [coreWrite_load h2]
      rfl
    · by_cases h : m ∈ coreWritten
      · simp only [coreWritten, List.mem_cons, List.not_mem_nil, or_false] at h
        rcases h with rfl | rfl | rfl | rfl | rfl | rfl | rfl | rfl | rfl | rfl | rfl <;> rfl
      · rw [coreWrite_none h h1 h2]

theorem counter_setCounter_same (c : Core) (k : Nat) (e : Counter) : (c.setCounter k e).counter k = e :=
  Vector.getElem_set_self _

theorem counter_setCounter_other (c : Core) {j k : Nat} (h : j % 8 ≠ k % 8) (e : Counter) :
    (c.setCounter j e).counter k = c.counter k := Vector.getElem_set_ne (Nat.mod_lt _ (by decide)) (Nat.mod_lt _ (by decide)) h

/-- A write of another register leaves what a counter selects (R387). -/
theorem selection_coreWrite (hn : 0x100 ≤ n ∧ n ≤ 0x107) (h : n ≠ m) (c : Core) :
    ((c.sysWrite now m free a).counter (n - 0x100)).selection = (c.counter (n - 0x100)).selection := by
  by_cases h1 : 0x100 ≤ m ∧ m ≤ 0x107
  · rw [coreWrite_select h1, counter_setCounter_other _ (by omega)]
  · by_cases h2 : 0x108 ≤ m ∧ m ≤ 0x10F
    · rw [coreWrite_load h2]
      by_cases hk : m - 0x108 = n - 0x100
      · rw [hk, counter_setCounter_same]
        rfl
      · rw [counter_setCounter_other _ (by omega)]
    · by_cases hm : m ∈ coreWritten
      · simp only [coreWritten, List.mem_cons, List.not_mem_nil, or_false] at hm
        rcases hm with rfl | rfl | rfl | rfl | rfl | rfl | rfl | rfl | rfl | rfl | rfl <;> rfl
      · rw [coreWrite_none hm h1 h2]

theorem sysValue_coreWrite_other (h : n ≠ m) (hn : ¬ Claims.counts n) :
    (s.modHere (·.sysWrite now m free a)).sysValue n v = s.sysValue n v := by
  by_cases hs : 0x100 ≤ n ∧ n ≤ 0x107
  · rw [sysValue_coreSelection _ _ hs.1 hs.2, sysValue_coreSelection _ _ hs.1 hs.2, State.here_modHere,
      selection_coreWrite hs h]
  have apart : ¬ (0x108 ≤ n ∧ n ≤ 0x10F) := fun hc => hn (Or.inl hc)
  by_cases h1 : 0x100 ≤ m ∧ m ≤ 0x107
  · exact sysValue_modHere_ev (fun c => ⟨_, coreWrite_select h1 c⟩) hs apart
  by_cases h2 : 0x108 ≤ m ∧ m ≤ 0x10F
  · exact sysValue_modHere_ev (fun c => ⟨_, coreWrite_load h2 c⟩) hs apart
  by_cases hm : m ∈ coreWritten
  · have ctx : (s.modHere (·.sysWrite now m free a)).ctx = s.ctx := ctx_modHere_of ctx_coreWrite s
    simp only [State.sysValue, State.here_modHere, ctx, hs, apart, ↓reduceIte]
    simp only [coreWritten, List.mem_cons, List.not_mem_nil, or_false] at hm
    rcases hm with rfl | rfl | rfl | rfl | rfl | rfl | rfl | rfl | rfl | rfl | rfl <;>
      (simp only [h, ↓reduceIte]; rfl)
  · exact sysValue_modHere (coreWrite_none hm h1 h2 s.here)

end

/-! ### The registers of a context -/

section
variable {s : State} {n m : Nat} {a v : Word}

theorem ctxWrite_none (h1 : m ≠ 0x034) (h2 : m ≠ 0x037) (h3 : m ≠ 0x038) (c : Ctx) : c.sysWrite m a = c := by
  unfold Ctx.sysWrite
  rw [if_neg h1, if_neg h2, if_neg h3]

theorem trapRegister_ctxWrite (h : n ≠ m) (h1 : 0x030 ≤ n) (h2 : n ≤ 0x037) (h3 : n ≠ 0x036) (c : Ctx) :
    (c.sysWrite m a).trapRegister n = c.trapRegister n := by
  by_cases hm : m = 0x034 ∨ m = 0x037 ∨ m = 0x038
  · obtain rfl | rfl | rfl | rfl | rfl | rfl | rfl : n = 0x030 ∨ n = 0x031 ∨ n = 0x032 ∨ n = 0x033 ∨ n = 0x034 ∨
        n = 0x035 ∨ n = 0x037 := by omega
    all_goals rcases hm with rfl | rfl | rfl
    all_goals solve | rfl | exact absurd rfl h
  · rw [ctxWrite_none (fun e => hm (.inl e)) (fun e => hm (.inr (.inl e))) (fun e => hm (.inr (.inr e)))]

theorem sysValue_ctxWrite_other (h : n ≠ m) : (s.modCtx (·.sysWrite m a)).sysValue n v = s.sysValue n v := by
  by_cases h36 : n = 0x036
  · subst h36
    simp only [State.sysValue, State.here_modCtx, ↓reduceIte]
    rfl
  by_cases ht : 0x030 ≤ n ∧ n ≤ 0x037
  · rw [sysValue_trapRegister _ _ ht.1 ht.2 h36, sysValue_trapRegister _ _ ht.1 ht.2 h36, State.ctx_modCtx,
      trapRegister_ctxWrite h ht.1 ht.2 h36]
  by_cases hm : m = 0x034 ∨ m = 0x037 ∨ m = 0x038
  · simp only [State.sysValue, State.ctx_modCtx, State.here_modCtx, ht, ↓reduceIte]
    rcases hm with rfl | rfl | rfl
    · rfl
    · rfl
    · simp only [h, ↓reduceIte]
      rfl
  · exact sysValue_modCtx (.of_eq (ctxWrite_none (fun e => hm (.inl e)) (fun e => hm (.inr (.inl e)))
      (fun e => hm (.inr (.inr e))) _))

end

/-! ### The registers of a quad -/

section
variable {s : State} {n m now : Nat} {a v free : Word}

theorem quadWrite_select (h : 0x110 ≤ m ∧ m ≤ 0x11F) (q : Quad) : q.sysWrite now m free a =
    q.setCounter (m - 0x110) ((q.counter (m - 0x110)).select true now free a) := if_pos h

theorem quadWrite_load (h : 0x120 ≤ m ∧ m ≤ 0x12F) (q : Quad) : q.sysWrite now m free a =
    q.setCounter (m - 0x120) ((q.counter (m - 0x120)).load now a) := (if_neg (by omega)).trans (if_pos h)

theorem quadWrite_none (h1 : ¬ (0x110 ≤ m ∧ m ≤ 0x11F)) (h2 : ¬ (0x120 ≤ m ∧ m ≤ 0x12F)) (q : Quad) :
    q.sysWrite now m free a = q := (if_neg h1).trans (if_neg h2)

theorem quadCounter_setCounter_same (q : Quad) (k : Nat) (e : Counter) : (q.setCounter k e).counter k = e :=
  Vector.getElem_set_self _

theorem quadCounter_setCounter_other (q : Quad) {j k : Nat} (h : j % 16 ≠ k % 16) (e : Counter) :
    (q.setCounter j e).counter k = q.counter k :=
  Vector.getElem_set_ne (Nat.mod_lt _ (by decide)) (Nat.mod_lt _ (by decide)) h

theorem selection_quadWrite (hn : 0x110 ≤ n ∧ n ≤ 0x11F) (h : n ≠ m) (q : Quad) :
    ((q.sysWrite now m free a).counter (n - 0x110)).selection = (q.counter (n - 0x110)).selection := by
  by_cases h1 : 0x110 ≤ m ∧ m ≤ 0x11F
  · rw [quadWrite_select h1, quadCounter_setCounter_other _ (by omega)]
  by_cases h2 : 0x120 ≤ m ∧ m ≤ 0x12F
  · rw [quadWrite_load h2]
    by_cases hk : m - 0x120 = n - 0x110
    · rw [hk, quadCounter_setCounter_same]
      rfl
    · rw [quadCounter_setCounter_other _ (by omega)]
  · rw [quadWrite_none h1 h2]

theorem sysValue_quadWrite_other (h : n ≠ m) (hn : ¬ Claims.counts n) :
    (s.modQuad (quadOf s.core) (·.sysWrite now m free a)).sysValue n v = s.sysValue n v := by
  by_cases hs : 0x110 ≤ n ∧ n ≤ 0x11F
  · rw [sysValue_quadSelection _ _ hs.1 hs.2, sysValue_quadSelection _ _ hs.1 hs.2, State.modQuad_core, quadAt_modQuad,
      selection_quadWrite hs h]
  · have apart : ¬ (0x120 ≤ n ∧ n ≤ 0x12F) := fun hc => hn (Or.inr hc)
    simp only [State.sysValue, hs, apart, ↓reduceIte]
    rfl

end

/-! ### The registers of a package -/

section
variable {s : State} {n m now : Nat} {a v : Word}

theorem packageWrite_control (h : 0x160 ≤ m ∧ m ≤ 0x17F) (p : Package) : p.sysWrite now m a =
    p.setPort (m - 0x160) ((p.port (m - 0x160)).control now a) := (if_neg (by omega)).trans (if_pos h)

theorem packageWrite_none (h1 : m ≠ 0x180) (h2 : ¬ (0x160 ≤ m ∧ m ≤ 0x17F)) (p : Package) : p.sysWrite now m a = p :=
  (if_neg h1).trans (if_neg h2)

theorem port_setPort_same (p : Package) (k : Nat) (x : Port) : (p.setPort k x).port k = x := Vector.getElem_set_self _

theorem port_setPort_other (p : Package) {j k : Nat} (h : j % 32 ≠ k % 32) (x : Port) : (p.setPort j x).port k = p.port k :=
  Vector.getElem_set_ne (Nat.mod_lt _ (by decide)) (Nat.mod_lt _ (by decide)) h

/-- A write of LINKCTLn can change LINKSTn, and no other register (R394). -/
theorem sysValue_packageWrite_other (h : n ≠ m) (hl : ¬ (0x160 ≤ m ∧ m ≤ 0x17F ∧ 0x140 ≤ n ∧ n ≤ 0x15F)) :
    (s.modPkg (corePkg s.core) (·.sysWrite now m a)).sysValue n v = s.sysValue n v := by
  by_cases hm : 0x160 ≤ m ∧ m ≤ 0x17F
  · have apart : ¬ (0x140 ≤ n ∧ n ≤ 0x15F) := fun hn => hl ⟨hm.1, hm.2, hn⟩
    by_cases hn : 0x160 ≤ n ∧ n ≤ 0x17F
    · rw [sysValue_linkEnable _ _ hn.1 hn.2, sysValue_linkEnable _ _ hn.1 hn.2, State.modPkg_core, pkgAt_modPkg,
        packageWrite_control hm, port_setPort_other _ (by omega)]
    · have pkg : (s.modPkg (corePkg s.core) (·.sysWrite now m a)).pkgAt (corePkg s.core) =
          (s.pkgAt (corePkg s.core)).setPort (m - 0x160) (((s.pkgAt (corePkg s.core)).port (m - 0x160)).control now a) :=
        (pkgAt_modPkg ..).trans (packageWrite_control hm _)
      dsimp only [State.sysValue]
      rw [State.modPkg_core, pkg, if_neg apart, if_neg hn, if_neg apart, if_neg hn]
      rfl
  by_cases h180 : m = 0x180
  · subst h180
    have pkg : (s.modPkg (corePkg s.core) (·.sysWrite now 0x180 a)).pkgAt (corePkg s.core) =
        { s.pkgAt (corePkg s.core) with tmo := a.setWidth 32 } := pkgAt_modPkg ..
    dsimp only [State.sysValue]
    rw [State.modPkg_core, pkg, if_neg h, if_neg h]
    rfl
  · exact sysValue_modPkg (packageWrite_none h180 hm _)

end

/-! ### The register that is written -/

/-- What an SWR of a leaves in register m: the RW fields of a, and the RO fields of the old value (R123). -/
def sysMerged (m : Nat) (a old : Word) : Word := (a &&& Claims.writable m) ||| (old &&& Claims.readOnly m)

/-- A register whose fields are all written, or none of whose bits is RO, holds what its mask keeps. -/
theorem masked_all (x y : Word) : x = x ||| (y &&& 0) := by
  simp

/-- A register that no write reaches keeps its value. -/
theorem masked_none (x y : Word) : (x &&& 0) ||| (y &&& BitVec.allOnes 64) = y := by
  rw [BitVec.and_allOnes]
  simp

section
variable {s : State} {m now : Nat} {a v free : Word}

theorem sysValue_coreWrite_same (hm : m ∈ coreWritten) : (s.modHere (·.sysWrite now m free a)).sysValue m v =
    sysMerged m a (s.sysValue m v) := by
  simp only [coreWritten, List.mem_cons, List.not_mem_nil, or_false] at hm
  rcases hm with rfl | rfl | rfl | rfl | rfl | rfl | rfl | rfl | rfl | rfl | rfl <;>
    simp only [State.sysValue, Nat.reduceEqDiff, ↓reduceIte, State.here_modHere]
  · exact (field20 a).trans (masked_all _ _)
  · exact field_pwrctl a rfl
  · exact BitVec.and_allOnes.symm.trans (masked_all _ _)
  · exact (field32 a).trans (masked_all _ _)
  · exact (field32 a).trans (masked_all _ _)
  · exact (field32 a).trans (masked_all _ _)
  · exact (field32 a).trans (masked_all _ _)
  · exact (field_tvec a).trans (masked_all _ _)
  · exact (field_hcctl a).trans (masked_all _ _)
  · exact (field_agelim a).trans (masked_all _ _)
  · exact (field_rfctl a).trans (masked_all _ _)

/-- The registers of a range whose mask is one word and that have no RO field. -/
theorem readOnly_of_writable (h1 : m ≠ 0x015) (h2 : m ≠ 0x034) (h3 : Claims.writable m ≠ 0) : Claims.readOnly m = 0 := by
  unfold Claims.readOnly
  rw [if_neg h1, if_neg h2, if_neg h3]

theorem writable_selection (h : 0x100 ≤ m ∧ m ≤ 0x107 ∨ 0x110 ≤ m ∧ m ≤ 0x11F) :
    Claims.writable m = 0x800000000000FFFF := by
  unfold Claims.writable
  repeat rw [if_neg (by omega)]
  exact if_pos h

theorem writable_linkEnable (h : 0x160 ≤ m ∧ m ≤ 0x17F) : Claims.writable m = 1 := by
  unfold Claims.writable
  repeat rw [if_neg (by omega)]
  exact if_pos h

theorem selection_select (e : Counter) (quad : Bool) : (e.select quad now free a).selection = a &&& 0x800000000000FFFF :=
  field_selection a

theorem sysValue_coreSelect_same (hm : 0x100 ≤ m ∧ m ≤ 0x107) : (s.modHere (·.sysWrite now m free a)).sysValue m v =
    sysMerged m a (s.sysValue m v) := by
  have mask := writable_selection (.inl hm)
  rw [sysValue_coreSelection _ _ hm.1 hm.2, State.here_modHere, coreWrite_select hm, counter_setCounter_same,
    selection_select, sysMerged, readOnly_of_writable (by omega) (by omega) (by rw [mask]; decide), mask]
  exact masked_all _ _

theorem sysValue_ctxWrite_same (hm : m = 0x034 ∨ m = 0x037 ∨ m = 0x038) : (s.modCtx (·.sysWrite m a)).sysValue m v =
    sysMerged m a (s.sysValue m v) := by
  rcases hm with rfl | rfl | rfl
  · rw [sysValue_trapRegister _ _ (by omega) (by omega) (by omega), sysValue_trapRegister _ _ (by omega) (by omega) (by omega),
      State.ctx_modCtx]
    exact field_tstat a rfl
  · rw [sysValue_trapRegister _ _ (by omega) (by omega) (by omega), State.ctx_modCtx]
    exact BitVec.and_allOnes.symm.trans (masked_all _ _)
  · simp only [State.sysValue, Nat.reduceEqDiff, ↓reduceIte, State.ctx_modCtx]
    exact (field32 a).trans (masked_all _ _)

theorem sysValue_quadSelect_same (hm : 0x110 ≤ m ∧ m ≤ 0x11F) :
    (s.modQuad (quadOf s.core) (·.sysWrite now m free a)).sysValue m v =
      sysMerged m a (s.sysValue m v) := by
  have mask := writable_selection (.inr hm)
  rw [sysValue_quadSelection _ _ hm.1 hm.2, State.modQuad_core, quadAt_modQuad, quadWrite_select hm,
    quadCounter_setCounter_same, selection_select, sysMerged, readOnly_of_writable (by omega) (by omega) (by rw [mask]; decide), mask]
  exact masked_all _ _

theorem sysValue_packageWrite_same (hm : 0x160 ≤ m ∧ m ≤ 0x17F ∨ m = 0x180) :
    (s.modPkg (corePkg s.core) (·.sysWrite now m a)).sysValue m v =
      sysMerged m a (s.sysValue m v) := by
  rcases hm with hm | rfl
  · have mask := writable_linkEnable hm
    rw [sysValue_linkEnable _ _ hm.1 hm.2, State.modPkg_core, pkgAt_modPkg, packageWrite_control hm, port_setPort_same,
      sysMerged, readOnly_of_writable (by omega) (by omega) (by rw [mask]; decide), mask]
    exact (field1 a).trans (masked_all _ _)
  · simp only [State.sysValue, Nat.reduceEqDiff, Nat.reduceLeDiff, and_false, ↓reduceIte, State.modPkg_core,
      pkgAt_modPkg]
    exact (field32 a).trans (masked_all _ _)

/-! ### The write of an SWR -/

/-- The four parts of the state in which an SWR in S mode writes a register's fields (R123). -/
def State.sysWritten (s : State) (m : Nat) (a : Word) : State :=
  let free := Config.freeValue s.fresh
  let s : State := { s with fresh := s.fresh + 1 }
  (((s.modCtx (·.sysWrite m a)).modHere (·.sysWrite s.now m free a)).modQuad (quadOf s.core)
    (·.sysWrite s.now m free a)).modPkg (corePkg s.core) (·.sysWrite s.now m a)

/-- No write reaches the register in any of the four parts. -/
theorem writable_none (h1 : m ∉ coreWritten) (h2 : ¬ (m = 0x034 ∨ m = 0x037 ∨ m = 0x038))
    (h3 : ¬ (0x100 ≤ m ∧ m ≤ 0x107 ∨ 0x110 ≤ m ∧ m ≤ 0x11F)) (h4 : ¬ (0x160 ≤ m ∧ m ≤ 0x17F ∨ m = 0x180)) :
    Claims.writable m = 0 ∧ Claims.readOnly m = BitVec.allOnes 64 := by
  simp only [coreWritten, List.mem_cons, List.not_mem_nil, or_false, not_or] at h1
  have none : Claims.writable m = 0 := by
    unfold Claims.writable
    repeat rw [if_neg (by omega)]
  refine ⟨none, ?_⟩
  unfold Claims.readOnly
  rw [if_neg (by omega), if_neg (by omega), if_pos none]

/-- Every other register than the written one and the counts reads as before; but LINKSTn can change with LINKCTLn. -/
theorem sysValue_sysWritten_other {n : Nat} (h : n ≠ m) (hn : ¬ Claims.counts n)
    (hl : ¬ (0x160 ≤ m ∧ m ≤ 0x17F ∧ 0x140 ≤ n ∧ n ≤ 0x15F)) : (s.sysWritten m a).sysValue n v = s.sysValue n v :=
  calc (s.sysWritten m a).sysValue n v
    _ = _ := sysValue_packageWrite_other h hl
    _ = _ := sysValue_quadWrite_other h hn
    _ = _ := sysValue_coreWrite_other h hn
    _ = _ := sysValue_ctxWrite_other h

theorem sysValue_ctxWrite_none {n : Nat} (h : ¬ (m = 0x034 ∨ m = 0x037 ∨ m = 0x038)) :
    (s.modCtx (·.sysWrite m a)).sysValue n v = s.sysValue n v :=
  sysValue_modCtx (.of_eq (ctxWrite_none (by omega) (by omega) (by omega) _))

theorem sysValue_quadWrite_none {n : Nat} (h : ¬ (0x110 ≤ m ∧ m ≤ 0x12F)) :
    (s.modQuad (quadOf s.core) (·.sysWrite now m free a)).sysValue n v = s.sysValue n v :=
  sysValue_modQuad (quadWrite_none (by omega) (by omega) _)

theorem sysValue_packageWrite_none {n : Nat} (h : ¬ (0x160 ≤ m ∧ m ≤ 0x17F ∨ m = 0x180)) :
    (s.modPkg (corePkg s.core) (·.sysWrite now m a)).sysValue n v = s.sysValue n v :=
  sysValue_modPkg (packageWrite_none (by omega) (by omega) _)

theorem sysValue_coreWrite_none {n : Nat} (h : m ∉ coreWritten) (h' : ¬ (0x100 ≤ m ∧ m ≤ 0x10F)) :
    (s.modHere (·.sysWrite now m free a)).sysValue n v = s.sysValue n v :=
  sysValue_modHere (coreWrite_none h (by omega) (by omega) _)

/-- The core's writable registers of one value are none of a context, a quad or a package. -/
theorem bounds_of_coreWritten (h : m ∈ coreWritten) :
    m < 0x100 ∧ ¬ (m = 0x034 ∨ m = 0x037 ∨ m = 0x038) := by
  simp only [coreWritten, List.mem_cons, List.not_mem_nil, or_false] at h
  omega

/-- The written register holds its RW fields from the operand and its RO fields from before (R123). -/
theorem sysValue_sysWritten_same (hn : ¬ Claims.counts m) : (s.sysWritten m a).sysValue m v =
    sysMerged m a (s.sysValue m v) := by
  have noLoad : ¬ (0x108 ≤ m ∧ m ≤ 0x10F) := fun h => hn (.inl h)
  have noQuadLoad : ¬ (0x120 ≤ m ∧ m ≤ 0x12F) := fun h => hn (.inr h)
  by_cases hpkg : 0x160 ≤ m ∧ m ≤ 0x17F ∨ m = 0x180
  · have hw : m ∉ coreWritten := fun h => by have := bounds_of_coreWritten h; omega
    calc (s.sysWritten m a).sysValue m v
      _ = sysMerged m a _ := sysValue_packageWrite_same hpkg
      _ = sysMerged m a _ := congrArg _ (sysValue_quadWrite_none (by omega))
      _ = sysMerged m a _ := congrArg _ (sysValue_coreWrite_none hw (by omega))
      _ = sysMerged m a _ := congrArg _ (sysValue_ctxWrite_none (by omega))
  refine (sysValue_packageWrite_none hpkg).trans ?_
  by_cases hquad : 0x110 ≤ m ∧ m ≤ 0x11F
  · have hw : m ∉ coreWritten := fun h => by have := bounds_of_coreWritten h; omega
    calc _
      _ = sysMerged m a _ := sysValue_quadSelect_same hquad
      _ = sysMerged m a _ := congrArg _ (sysValue_coreWrite_none hw (by omega))
      _ = sysMerged m a _ := congrArg _ (sysValue_ctxWrite_none (by omega))
  refine (sysValue_quadWrite_none (by omega)).trans ?_
  by_cases hctx : m = 0x034 ∨ m = 0x037 ∨ m = 0x038
  · have hw : m ∉ coreWritten := fun h => (bounds_of_coreWritten h).2 hctx
    exact (sysValue_coreWrite_none hw (by omega)).trans (sysValue_ctxWrite_same hctx)
  by_cases hsel : 0x100 ≤ m ∧ m ≤ 0x107
  · exact (sysValue_coreSelect_same hsel).trans (congrArg _ (sysValue_ctxWrite_none hctx))
  by_cases hw : m ∈ coreWritten
  · exact (sysValue_coreWrite_same hw).trans (congrArg _ (sysValue_ctxWrite_none hctx))
  · obtain ⟨hwr, hro⟩ := writable_none hw hctx (by omega) hpkg
    rw [sysMerged, hwr, hro, masked_none]
    exact (sysValue_coreWrite_none hw (by omega)).trans (sysValue_ctxWrite_none hctx)

/-! ### Counts -/

theorem Counter.read_off {e : Counter} (h : e.en = false) (quad : Bool) : e.read quad now v = e.count :=
  if_pos (by rw [h]; rfl)

/-- A counter that is off counts no event (R387). -/
theorem counter_count_off {c : Core} {k : Nat} (h : (c.counter k).en = false) (src : Nat) :
    (c.count src).counter k = c.counter k := by
  have off : (c.ev[k % 8]'(Nat.mod_lt _ (by decide))).en = false := h
  simp only [Core.counter, Core.count, Vector.getElem_map, off, Bool.false_and, Bool.false_eq_true, ↓reduceIte]

theorem counter_retired_off {k : Nat} (h : (s.here.counter k).en = false) (i : Instr) :
    (s.retired i).here.counter k = s.here.counter k := by
  rw [State.retired, State.here_modHere, counter_count_off]
  · rw [State.here_modCtx, State.here_modCtx]
    rfl
  · rw [State.here_modCtx, State.here_modCtx]
    exact h

/-- The count of a core's counter that does not run holds the value written (R387). -/
theorem sysValue_coreLoad (h1 : 0x108 ≤ m) (h2 : m ≤ 0x10F) (hoff : (s.here.counter (m - 0x108)).en = false) (i : Instr) :
    ((s.sysWritten m a).retired i).sysValue m v = a := by
  have loaded : (s.sysWritten m a).here.counter (m - 0x108) = (s.here.counter (m - 0x108)).load s.now a := by
    have here : (s.sysWritten m a).here =
        (s.here.setCtx s.fc (s.ctx.sysWrite m a)).sysWrite s.now m (Config.freeValue s.fresh) a := by
      change ((State.modCtx _ (·.sysWrite m a)).modHere (·.sysWrite s.now m (Config.freeValue s.fresh) a)).here = _
      rw [State.here_modHere, State.here_modCtx]
      rfl
    rw [here, coreWrite_load ⟨h1, h2⟩, counter_setCounter_same]
    rfl
  have off : ((s.sysWritten m a).here.counter (m - 0x108)).en = false := by
    rw [loaded]
    exact hoff
  rw [sysValue_coreCount _ _ h1 h2, counter_retired_off off, Counter.read_off off, loaded]
  rfl

theorem sysValue_quadLoad (h1 : 0x120 ≤ m) (h2 : m ≤ 0x12F)
    (hoff : ((s.quadAt (quadOf s.core)).counter (m - 0x120)).en = false) (i : Instr) :
    ((s.sysWritten m a).retired i).sysValue m v = a := by
  have loaded : (((s.sysWritten m a).retired i).quadAt (quadOf s.core)).counter (m - 0x120) =
      ((s.quadAt (quadOf s.core)).counter (m - 0x120)).load s.now a := by
    have quad : ((s.sysWritten m a).retired i).quadAt (quadOf s.core) =
        (s.quadAt (quadOf s.core)).sysWrite s.now m (Config.freeValue s.fresh) a := by
      change (State.modQuad (State.modHere _ _) _ (·.sysWrite s.now m (Config.freeValue s.fresh) a)).quadAt _ = _
      rw [quadAt_modQuad]
      rfl
    rw [quad, quadWrite_load ⟨h1, h2⟩, quadCounter_setCounter_same]
  rw [sysValue_quadCount _ _ h1 h2]
  change ((((s.sysWritten m a).retired i).quadAt (quadOf s.core)).counter (m - 0x120)).read _ _ _ = a
  rw [loaded]
  exact Counter.read_off (e := ((s.quadAt (quadOf s.core)).counter (m - 0x120)).load s.now a) hoff true

end

/-! ### The instructions -/

section
variable {o : AOps} {s sa : State} {a : Word}

/-- Whether a base is one that WIN.SET takes: a doubleword of the 56-bit space, for a window below 7 (R9, R121). -/
theorem winSet_legal (w : Nat) (b : Word) : (w != 7 && b.toNat % 8 == 0 && bits b.toNat 63 56 == 0) = true ↔
    w ≠ 7 ∧ b.toNat % 8 = 0 ∧ b.toNat < 2 ^ 56 := by
  have : bits b.toNat 63 56 = 0 ↔ b.toNat < 2 ^ 56 := by
    rw [bits_eq]
    omega
  simp only [Bool.and_eq_true, bne_iff_ne, beq_iff_eq, this, and_assoc]

theorem exec_winSet {w : Nat} (hw : o.ext.toNat % 8 = w) (hi : Issues (.winSet o) o.h s)
    (h : w ≠ 7 ∧ (s.ctx.rg o.h.s1.index).toNat % 8 = 0 ∧ (s.ctx.rg o.h.s1.index).toNat < 2 ^ 56) :
    exec (.winSet o) s = .next ((s.modCtx (fun c => { c with
      win := c.win.set (w % 7) (s.ctx.rg o.h.s1.index) (Nat.mod_lt _ (by decide)),
      constCache := c.constCache.filter (fun x => x.1 / 2 ^ 17 != w) })).retired (.winSet o)) := by
  subst hw
  refine issueNext_ok hi ?_
  rw [act_bind_ok (act_readGReg _ s), act_bind_ok (act_unlessFault ((winSet_legal _ _).mpr h) _ _ s), act_modCtx]

theorem exec_winSet_refused (hi : Issues (.winSet o) o.h s) (h : ¬ (o.ext.toNat % 8 ≠ 7 ∧
    (s.ctx.rg o.h.s1.index).toNat % 8 = 0 ∧ (s.ctx.rg o.h.s1.index).toNat < 2 ^ 56)) :
    exec (.winSet o) s = .next (s.takeTrapA { cause := cILLEGAL_OPERAND }) := by
  refine issueNext_trap hi ?_
  rw [act_bind_ok (act_readGReg _ s), act_bind_error (act_unlessFault_false ?_ _ _ s)]
  exact Bool.eq_false_iff.mpr (mt (winSet_legal _ _).mp h)

theorem sysDenied_false {mode : Mode} {n : Nat} (h : mode = .s ∨ (n < 0x030 ∨ 0x035 < n) ∧ n ≠ 0x037) :
    sysDenied mode n = false := by
  rcases h with rfl | ⟨h1, h2⟩
  · rfl
  · have : ¬ (0x030 ≤ n ∧ n ≤ 0x035) := by omega
    simp [sysDenied, this, h2]

theorem sysDenied_user {n : Nat} (h : (0x030 ≤ n ∧ n ≤ 0x035) ∨ n = 0x037) : sysDenied .u n = true := by
  rcases h with h | h <;> simp [sysDenied, h]

theorem act_entriesDone (h1 : s.ctx.xseq = []) (h2 : s.ctx.xbusy = false) : entriesDone.run s = .ok ((), s) := by
  unfold entriesDone
  rw [act_bind_ok (act_getCtx s), act_waitUntil (by rw [h1, h2]; rfl)]

theorem exec_srd {n : Nat} (hn : o.h.s1.index = n) (hi : Issues (.srd o) o.h s)
    (hm : s.ctx.mode = .s ∨ (n < 0x030 ∨ 0x035 < n) ∧ n ≠ 0x037) (hs : Claims.settled s.ctx n) :
    exec (.srd o) s = .next ((({ s with fresh := s.fresh + 1 } : State).modCtx (·.wg o.h.d.index
      (({ s with fresh := s.fresh + 1 } : State).sysValue n (Config.freeValue s.fresh)))).retired (.srd o)) := by
  subst hn
  refine issueNext_ok hi ?_
  rw [act_bind_ok (act_getCtx s), act_bind_ok (act_unlessFault (by rw [sysDenied_false hm]; rfl) _ _ s)]
  dsimp only
  split
  case isTrue h =>
    have listed : o.h.s1.index ∈ [0x016, 0x018, 0x019, 0x01A, 0x017] := by
      simp only [afterEntries, Bool.or_eq_true, beq_iff_eq] at h
      simp only [List.mem_cons, List.not_mem_nil, or_false]
      omega
    obtain ⟨h1, h2⟩ := hs listed
    rw [act_bind_ok (act_entriesDone h1 h2), act_bind_ok (act_freeWord s), act_bind_ok (act_get _), act_writeD]
  case isFalse => rw [act_bind_ok (act_freeWord s), act_bind_ok (act_get _), act_writeD]

theorem exec_srd_denied {n : Nat} (hn : o.h.s1.index = n) (hi : Issues (.srd o) o.h s) (hm : s.ctx.mode = .u)
    (h : (0x030 ≤ n ∧ n ≤ 0x035) ∨ n = 0x037) :
    exec (.srd o) s = .next (s.takeTrapA { cause := cSYSREG_ACCESS, tval := some (word n) }) := by
  subst hn
  refine issueNext_trap hi ?_
  rw [act_bind_ok (act_getCtx s), act_bind_error (act_unlessFault_false ?_ _ _ s)]
  rw [hm, sysDenied_user h]
  rfl

/-- SWR in S mode (R123). -/
theorem exec_swr (hi : Issues (.swr o) o.h s) (hm : s.ctx.mode = .s) (ha : (o.src o.h.s1).run s = .ok (a, sa)) :
    exec (.swr o) s = .next ((sa.sysWritten o.h.d.index a).retired (.swr o)) := by
  refine issueNext_ok hi ?_
  rw [act_bind_ok (act_getCtx s), act_bind_ok (act_unlessFault (by rw [sysDenied_false (.inl hm)]; rfl) _ _ s),
    act_bind_ok ha, if_neg (by rw [hm]; decide), act_bind_ok (act_freeWord sa), act_modify]
  rfl

/-- No field of those registers is RW in U mode (R123). -/
theorem exec_swr_user (hi : Issues (.swr o) o.h s) (hm : s.ctx.mode = .u)
    (h : (o.h.d.index < 0x030 ∨ 0x035 < o.h.d.index) ∧ o.h.d.index ≠ 0x037) (ha : (o.src o.h.s1).run s = .ok (a, sa)) :
    exec (.swr o) s = .next (sa.retired (.swr o)) := by
  refine issueNext_ok hi ?_
  rw [act_bind_ok (act_getCtx s), act_bind_ok (act_unlessFault (by rw [sysDenied_false (.inr h)]; rfl) _ _ s),
    act_bind_ok ha, if_pos (by rw [hm]; rfl), act_pure]

theorem exec_sclbaseWrite (hi : Issues (.sclbaseWrite o) o.h s) (ha : (o.src o.h.s1).run s = .ok (a, sa))
    (hr : sa.here.scaleReaders = false) : exec (.sclbaseWrite o) s =
      .next ((sa.modHere (fun c => { c with sclbase := a.setWidth 6 })).retired (.sclbaseWrite o)) := by
  refine issueNext_ok hi ?_
  rw [act_bind_ok ha, act_bind_ok (act_getCore sa), act_bind_ok (act_waitUntil (by rw [hr]; rfl) _ _ sa), act_modCore]

/-- SWR of a flag register, in either mode (R154, R199). -/
theorem exec_flagRegisterWrite (hi : Issues (.flagRegisterWrite o) o.h s) (ha : (o.src o.h.s1).run s = .ok (a, sa))
    (h1 : sa.ctx.xseq = []) (h2 : sa.ctx.xbusy = false) : exec (.flagRegisterWrite o) s = .next ((sa.modCtx (fun c =>
      if o.h.d.index = 0x016 then { c with fflags := a.setWidth 5 }
      else if o.h.d.index = 0x018 then { c with rngstr := a }
      else if o.h.d.index = 0x019 then { c with rngctr := a }
      else { c with vsat := bit a.toNat 0 })).retired (.flagRegisterWrite o)) := by
  refine issueNext_ok hi ?_
  rw [act_bind_ok ha, act_bind_ok (act_entriesDone h1 h2), act_modCtx]

theorem exec_viewRegisterWrite_user (hi : Issues (.viewRegisterWrite o) o.h s) (ha : (o.src o.h.s1).run s = .ok (a, sa))
    (hm : sa.ctx.mode = .u) : exec (.viewRegisterWrite o) s = .next (sa.retired (.viewRegisterWrite o)) := by
  refine issueNext_ok hi ?_
  rw [act_bind_ok ha, act_bind_ok (act_getCtx sa), if_pos (by rw [hm]; rfl), act_pure]

/-- The view that the word of a view register names (R102). -/
def viewOfWord (x : Word) : View := ⟨bits x.toNat 13 0, bits x.toNat 24 16, bits x.toNat 31 28⟩

/-- SWR of a view register in S mode sets a legal view that lies in its banks (R103; log entry 49). -/
theorem exec_viewRegisterWrite_sets {which : Nat} {v : View} (hw : o.h.d.index - 0x012 = which) (hv : viewOfWord a = v)
    (hi : Issues (.viewRegisterWrite o) o.h s) (ha : (o.src o.h.s1).run s = .ok (a, sa)) (hm : sa.ctx.mode = .s)
    (hf : Claims.ViewFree sa.here which v.count) (h0 : v.count ≠ 0) (hl : viewLegal which v.shape v.count v.base = true)
    (hp : Claims.viewPlaced sa.here which v) : exec (.viewRegisterWrite o) s =
      .next ((sa.modHere (Claims.viewed · which v)).retired (.viewRegisterWrite o)) := by
  subst hw hv
  refine issueNext_ok hi ?_
  rw [act_bind_ok ha, act_bind_ok (act_getCtx sa), if_neg (by rw [hm]; decide)]
  refine (congrArg (StateT.run · sa) (if_neg ?_)).trans ?_
  · rw [Bool.and_eq_true, not_and, Bool.not_eq_true']
    exact fun _ illegal => Bool.noConfusion (hl.symm.trans illegal)
  · exact (act_bind_ok (act_changeView_sets hf h0 hp) _).trans (congrArg (StateT.run · _) (if_neg h0))

/-- With COUNT 0 it clears the view, and sets BASE and SHAPE (log entry 49). -/
theorem exec_viewRegisterWrite_clears {which : Nat} {v : View} (hw : o.h.d.index - 0x012 = which) (hv : viewOfWord a = v)
    (hi : Issues (.viewRegisterWrite o) o.h s) (ha : (o.src o.h.s1).run s = .ok (a, sa)) (hm : sa.ctx.mode = .s)
    (hf : Claims.ViewFree sa.here which v.count) (h0 : v.count = 0) : exec (.viewRegisterWrite o) s =
      .next (((sa.modHere (fun c => Claims.viewed c which { c.view which with count := 0 })).modHere
        (fun c => c.setView which v)).retired (.viewRegisterWrite o)) := by
  subst hw hv
  refine issueNext_ok hi ?_
  rw [act_bind_ok ha, act_bind_ok (act_getCtx sa), if_neg (by rw [hm]; decide)]
  refine (congrArg (StateT.run · sa) (if_neg ?_)).trans ?_
  · rw [Bool.and_eq_true, not_and]
    exact fun h => absurd h0 (of_decide_eq_true h)
  · exact (act_bind_ok (act_changeView_clears hf h0) _).trans (congrArg (StateT.run · _) (if_pos h0))

end

end Sys2Proof.Machine

open Sys2Proof.Machine in
/-- Settles O28: an SWR reads back through `sysValue_sysWritten_same` and leaves the others by `sysValue_sysWritten_other`;
the other clauses are one lemma each. -/
theorem systemRegisters : Obligations.SystemRegisters := by
  intro o s sa a
  refine ⟨fun hi h7 h8 hb => exec_winSet rfl hi ⟨h7, h8, hb⟩, fun hi h => exec_winSet_refused hi (by omega),
    exec_srd rfl, exec_srd_denied rfl, fun hi hm ha _ => exec_swr hi hm ha,
    fun v hi hm ha _ => ⟨_, exec_swr hi hm ha, fun hn => ?_, fun h1 h2 hoff => sysValue_coreLoad h1 h2 hoff _,
      fun h1 h2 hoff => sysValue_quadLoad h1 h2 hoff _, fun k hk hn hl => ?_⟩,
    exec_swr_user, fun hi ha h1 h2 _ => ?_, exec_sclbaseWrite, fun hi _ ha hm => exec_viewRegisterWrite_user hi ha hm,
    fun hi _ ha hm _ _ hf => ⟨fun h0 hl hp => exec_viewRegisterWrite_sets rfl rfl hi ha hm hf h0 hl hp,
      exec_viewRegisterWrite_clears rfl rfl hi ha hm hf⟩⟩
  · rw [sysValue_retired hn, sysValue_sysWritten_same hn]
    rfl
  · rw [sysValue_retired hn, sysValue_sysWritten_other hk hn]
    omega
  · rw [exec_flagRegisterWrite hi ha h1 h2, bit_eq_testBit]
    rfl
end

section
/-! SUPPORT. What the queue and stream forms and the transfers of a stream do (R90 to R99). -/

namespace Sys2Proof.Machine

/-- QPOP's body takes the oldest q1 entry (R93). -/
theorem act_popQ1 {s : State} {v : V256} {rest : List V256} (h : s.ctx.q1 = v :: rest) :
    popQ1.run s = .ok (v, s.modCtx (fun c => { c with q1 := rest })) := by
  unfold popQ1
  rw [act_bind_ok (act_getCtx s), h]
  rfl

theorem exec_qpop {o : AOps} {s : State} {v : V256} {rest : List V256} (hi : Issues (.qpop o) o.h s)
    (h : s.ctx.q1 = v :: rest) : exec (.qpop o) s = .next
      (((s.modCtx (fun c => { c with q1 := rest })).modCtx (·.wg o.h.d.index (v.setWidth 64))).retired (.qpop o)) :=
  issueNext_ok hi (by rw [act_bind_ok (act_popQ1 h)]; rfl)

theorem exec_qcnt {o : AOps} {s : State} (hi : Issues (.qcnt o) o.h s) (hq : o.h.s1.index < 6) :
    exec (.qcnt o) s = .next
      ((s.modCtx (·.wg o.h.d.index (BitVec.ofNat 64 (s.ctx.queueCount o.h.s1.index)))).retired (.qcnt o)) := by
  refine issueNext_ok hi ?_
  rw [act_bind_ok (act_unlessFault (by simpa using hq) _ _ _)]
  rfl

/-- A legal record binds an unbound head at its first entry (R95). -/
theorem exec_streamBind {o : AOps} {s s1 : State} {w : List Nat} {pat : Pattern} (hi : Issues (.streamBind o) o.h s)
    (hfree : (s.ctx.stream o.h.d.index).pat = none)
    (hea : wrapInt 64 ((s.ctx.rg o.h.s1.index).toNat + sintOf 24 (o.ext.toNat % 2 ^ 24)) % 64 = 0)
    (hload : (loadWords (wrapInt 64 ((s.ctx.rg o.h.s1.index).toNat + sintOf 24 (o.ext.toNat % 2 ^ 24))) 8).run s =
      .ok (w, s1)) (hpat : patternOf w = some pat) :
    exec (.streamBind o) s = .next
      ((s1.modCtx (fun c => c.setStream o.h.d.index { Stream.reset with pat := some pat })).retired (.streamBind o)) := by
  refine issueNext_ok hi ?_
  rw [act_bind_ok (act_getCtx s), act_bind_ok (act_unlessFault (by simp [hfree]) _ _ _),
    act_bind_ok (act_unlessFault (beq_iff_eq.2 hea) _ _ _), act_bind_ok hload, hpat]
  rfl

/-- A read head, or a write head with nothing left to store, to acknowledge or to report, is unbound (R97, R99). -/
theorem exec_streamEnd {o : AOps} {s : State} {pat : Pattern} (hi : Issues (.streamEnd o) o.h s)
    (hp : (s.ctx.stream o.h.d.index).pat = some pat)
    (hw : pat.write = true → (s.ctx.stream o.h.d.index).wr = [] ∧ (s.ctx.stream o.h.d.index).unacked = [] ∧
      (s.ctx.stream o.h.d.index).err = none) : exec (.streamEnd o) s = .next
      ((s.modCtx (fun c => c.setStream o.h.d.index Stream.reset)).retired (.streamEnd o)) := by
  refine issueNext_ok hi ?_
  rw [act_bind_ok (act_getCtx s)]
  simp only [hp]
  by_cases h : pat.write = true
  · obtain ⟨hwr, hun, herr⟩ := hw h
    rw [if_pos h, act_bind_ok (act_waitUntil (by simp [hwr, hun]) _ _ _)]
    simp only [herr]
    rfl
  · rw [if_neg h]
    rfl

/-! ### The transfers of a stream -/

/-- A new identifier and a change of the context leave the core's own pool as it was. -/
theorem own_modCtx {s : State} {p : Phys} {n : Nat} {write : Bool} (h : Claims.Own s p n write) (f : Ctx → Ctx) :
    Claims.Own (({ s with nextId := s.nextId + 1 } : State).modCtx f) p n write := by
  have hh : (({ s with nextId := s.nextId + 1 } : State).modCtx f).here = s.here.setCtx s.fc (f s.ctx) :=
    State.here_modCtx _ _
  exact ⟨h.own, by rw [hh]; exact h.still, by rw [hh]; exact h.inRole, h.sound⟩

theorem act_streamFetch_own {s s1 : State} {q : Nat} {pat : Pattern} {pa : Phys}
    (hp : (s.ctx.stream q).pat = some pat)
    (hr : (resolveAs .u .r (pat.addr (s.ctx.stream q).moved) 32).run s = .ok (pa, s1))
    (hc : Claims.Clear s1 pa 32) (ho : Claims.Own s1 pa 32 false) :
    (streamFetch q).run s = .ok ((),
      let s2 : State := ({ s1 with nextId := s1.nextId + 1 } : State).modCtx (fun c => c.setStream q
        { s.ctx.stream q with
          rd := (s.ctx.stream q).rd ++ [⟨s1.nextId, 1, 0, none⟩]
          moved := (s.ctx.stream q).moved + 1 })
      s2.modCtx (fun c => c.land (.stream q s1.nextId) none (s2.rdNat pa.ga 32))) := by
  unfold streamFetch
  rw [act_bind_ok (act_getCtx s)]
  simp only [hp]
  rw [act_bind_ok hr, act_bind_ok (act_gateLoad hc), act_bind_ok (act_newId s1), act_bind_ok (act_modCtx _ _),
    if_neg (by simp [notDram_of_isOwn ho.own])]
  exact startLoad_own (own_modCtx ho _) false _

/-- An engine's write to the core's own pool claims no line. -/
theorem claimFor_own {s : State} {p : Phys} (h : s.isOwn p = true) (id : Nat) : s.claimFor id p = s := by
  simp [State.claimFor, notDram_of_isOwn h]

theorem act_streamStore_own {s s1 : State} {q : Nat} {pat : Pattern} {pa : Phys} {v : V256} {rest : List V256}
    (hp : (s.ctx.stream q).pat = some pat) (hw : (s.ctx.stream q).wr = v :: rest)
    (hr : (resolveAs .u .w (pat.addr (s.ctx.stream q).moved) 32).run s = .ok (pa, s1))
    (hc : Claims.Clear s1 pa 32) (ho : Claims.Own s1 pa 32 true) :
    (streamStore q).run s = .ok ((), (({ s1 with nextId := s1.nextId + 1 } : State).wrNat pa.ga 32 v.toNat).modCtx
      (fun c => c.setStream q { c.stream q with
        wr := rest
        moved := (c.stream q).moved + 1 })) := by
  have hown : ({ s1 with nextId := s1.nextId + 1 } : State).isOwn pa = true := ho.own
  have hstore : (engineStore s1.nextId pa 32 v.toNat).run { s1 with nextId := s1.nextId + 1 } =
      .ok ((), ({ s1 with nextId := s1.nextId + 1 } : State).wrNat pa.ga 32 v.toNat) := by
    unfold engineStore
    rw [act_bind_ok (act_get _), if_pos hown, ← startStore_isOwn hown]
    exact startStore_own (s := { s1 with nextId := s1.nextId + 1 })
      ⟨ho.own, ho.still, ho.inRole, ho.sound⟩ hc.pending _
  unfold streamStore
  rw [act_bind_ok (act_getCtx s)]
  simp only [hp, hw]
  rw [act_bind_ok hr, act_bind_ok (act_gate hc), act_bind_ok (act_newId s1), act_bind_ok (act_get _),
    act_bind_ok (act_modify _ _), claimFor_own hown, act_bind_ok hstore, hown]
  rfl

end Sys2Proof.Machine

open Sys2Proof.Machine in
/-- Settles O25: each form and each transfer does what its lemma above says. -/
theorem queues : Obligations.Queues := by
  unfold Obligations.Queues
  intro o s s1 core fc q
  refine ⟨fun _ _ => exec_qpop, exec_qcnt, fun _ _ => exec_streamBind, fun _ => exec_streamEnd, ?fetch, ?store⟩
  case fetch =>
    intro pat pa hcan hp hr hc ho
    show Host.Outcome.next _ = _
    rw [if_pos hcan, act_streamFetch_own hp hr hc ho]
  case store =>
    intro pat pa v rest hcan hp hw hr hc ho
    show Host.Outcome.next _ = _
    rw [if_pos hcan, act_streamStore_own hp hw hr hc ho]

end

section
/-! SUPPORT. What the dispatch of a vector slot does (R87, R104, R191, R193). -/

namespace Sys2Proof.Machine

/-! ### The context a dispatch leaves -/

theorem pendOf_setPend {k : Nat} (hk : k % 32 ≠ 0) (c : Ctx) (v : Pend) : (c.setPend k v).pendOf k = v := by
  unfold Ctx.setPend Ctx.pendOf
  rw [if_neg hk, if_neg hk]
  exact Vector.getElem_set_self _

/-- Where no loop stands last, an entry is put at the end (R78). -/
theorem pushEntry_last {c : Ctx} (h : ∀ l, c.xseq.getLast? ≠ some (.loop l)) (e : XEntry) :
    c.pushEntry e = { c with xseq := c.xseq ++ [.entry e] } := by
  unfold Ctx.pushEntry
  split
  · rename_i l hl
    exact absurd hl (h l)
  · rfl

/-- The context whose slot with destination d has entered the sequencer (R191). -/
def Ctx.entered (c : Ctx) (d : Reg) (e : XEntry) : Ctx :=
  match d with
  | .g k => (c.pushEntry e).setPend k.toNat .xhalf
  | _ => c.pushEntry e

/-- Context d is c after it dispatched the entry e with destination r: the entry is last in the sequencer, a g destination
waits for it, the context stands at the next slot, and its registers and queues are as before (R87, R191). -/
structure Dispatched (r : Reg) (e : XEntry) (c d : Ctx) : Prop where
  xseq : d.xseq = c.xseq ++ [.entry e]
  pc : d.pc = c.successor
  g : d.g = c.g
  p : d.p = c.p
  q0 : d.q0 = c.q0
  q1 : d.q1 = c.q1
  fflags : d.fflags = c.fflags
  waits : ∀ k : BitVec 5, k ≠ 0 → r = .g k → d.pendOf k.toNat = .xhalf

theorem toNat_mod_of_ne_zero {k : BitVec 5} (h : k ≠ 0) : k.toNat % 32 ≠ 0 := by
  have : k.toNat ≠ 0 := fun h0 => h (BitVec.eq_of_toNat_eq h0)
  omega

theorem commitRegion_eq (c : Ctx) (i : Instr) : ∃ d, c.commitRegion i = { c with idem := d } := by
  unfold Ctx.commitRegion
  split
  · exact ⟨_, rfl⟩
  · exact ⟨c.idem, rfl⟩

/-- The commit of a region and the step to the next slot change none of it. -/
theorem dispatched_entered {c : Ctx} (h : ∀ l, c.xseq.getLast? ≠ some (.loop l)) (r : Reg) (e : XEntry) (i : Instr) :
    Dispatched r e c ((c.entered r e).commitRegion i).advance := by
  obtain ⟨d, hd⟩ := commitRegion_eq (c.entered r e) i
  rw [hd]
  unfold Ctx.entered
  rw [pushEntry_last h]
  cases r with
  | g k =>
    refine ⟨Ctx.setPend_xseq .., ?_, Ctx.setPend_g .., Ctx.setPend_p .., Ctx.setPend_q0 .., Ctx.setPend_q1 ..,
      Ctx.setPend_fflags .., fun j hj hr => ?_⟩
    · simp [Ctx.advance, Ctx.goto, Ctx.successor]
    · obtain rfl : k = j := Reg.g.inj hr
      exact pendOf_setPend (toNat_mod_of_ne_zero hj) { c with xseq := c.xseq ++ [.entry e] } .xhalf
  | _ => exact ⟨rfl, rfl, rfl, rfl, rfl, rfl, rfl, nofun⟩

theorem ctx_dispatch (s : State) (i : Instr) (h : Hd) (x y z : Word) :
    (s.dispatch i h x y z {}).ctx = ((s.ctx.entered h.d (dispatched i s x y z {} s.nextId)).commitRegion i).advance := by
  have hctx : (s.modHere (·.addReaders [])).ctx = s.ctx := ctx_modHere_of (fun _ => rfl) s
  have he : dispatched i (s.modHere (·.addReaders [])) x y z {} s.nextId = dispatched i s x y z {} s.nextId := by
    unfold dispatched
    rw [hctx]
  calc
    _ = (((s.modHere (·.addReaders [])).ctx.entered h.d
          (dispatched i (s.modHere (·.addReaders [])) x y z {} s.nextId)).commitRegion i).advance := by
        unfold State.dispatch
        simp only [State.ctx_modCtx]
        unfold Ctx.entered
        cases h.d <;> rfl
    _ = _ := by rw [hctx, he]

/-! ### The checks of a vector slot -/

section
variable {s : State} (hopen : s.ctx.bodyOpen = false)
include hopen

theorem act_viewCheck {l : List Reg} (h : s.here.outOfView l = none) : (viewCheck l).run s = .ok ((), s) := by
  unfold viewCheck
  rw [act_bind_ok (act_getCtx s), if_neg (by simp [hopen]), act_bind_ok (act_getCore s), h]
  rfl

theorem act_viewCheck_outside {l : List Reg} {k : Nat} (h : s.here.outOfView l = some k) :
    (viewCheck l).run s = .error (.trap { cause := cVIEW_RANGE, tval := some (word k) }) := by
  unfold viewCheck
  rw [act_bind_ok (act_getCtx s), if_neg (by simp [hopen]), act_bind_ok (act_getCore s), h]
  rfl

/-- With local sources, the checks of a vector slot are those of its views (R104, R195). -/
theorem act_vectorCheck {o : XOps} (h1 : o.g1 = 0) (h2 : o.g2 = 0) (h3 : o.g3 = 0)
    (h : s.here.outOfView (o.local o.h) = none) : (vectorCheck o).run s = .ok ({}, s) := by
  unfold vectorCheck
  rw [act_bind_ok (act_get s), act_bind_ok (act_unlessFault (by simp [XOps.sources, h1, h2, h3]) _ _ _),
    act_bind_ok (act_viewCheck hopen h)]
  rfl

theorem act_vectorCheck_outside {o : XOps} (h1 : o.g1 = 0) (h2 : o.g2 = 0) (h3 : o.g3 = 0) {k : Nat}
    (h : s.here.outOfView (o.local o.h) = some k) :
    (vectorCheck o).run s = .error (.trap { cause := cVIEW_RANGE, tval := some (word k) }) := by
  unfold vectorCheck
  rw [act_bind_ok (act_get s), act_bind_ok (act_unlessFault (by simp [XOps.sources, h1, h2, h3]) _ _ _),
    act_bind_error (act_viewCheck_outside hopen h)]

end

/-- A slot whose checks stop, once its scalars are read, stops with them. -/
theorem dispatchAct_stop {i : Instr} {h : Hd} {s sa sb sc : State} {x y z : Word} {e : Stop} {scalar : Reg → Act Word}
    {ck : Word → Word → Word → Act Prep} (hd : Claims.Dispatches i h s) (hx : (scalar h.s1).run s = .ok (x, sa))
    (hy : (scalar h.s2).run sa = .ok (y, sb)) (hz : (scalar h.s3).run sb = .ok (z, sc))
    (hc : (ck x y z).run sc = .error e) : (dispatchAct i h scalar ck).run s = .error e := by
  have hroom : (roomInSequencer s.ctx).run s = .ok ((), s) := act_waitUntil (by simpa using hd.room) _ _ _
  unfold dispatchAct
  rw [act_bind_ok (act_getCtx s), act_bind_ok (act_modeCheck (Or.inl hd.user) s)]
  simp only [hd.pred, dispatches_closed hd, hd.unskipped, Bool.not_true, Bool.false_and, Bool.and_false, Bool.false_eq_true,
    ↓reduceIte]
  rw [act_bind_ok hroom, act_bind_ok (act_pendingSource hd.sources s), act_bind_ok (act_pendingCheck hd.regs s),
    act_bind_ok hx, act_bind_ok hy, act_bind_ok hz]
  refine (congrArg (StateT.run · sc) (if_pos ?_)).trans (act_bind_error hc _)
  split
  · rename_i l hl
    exact absurd hl (dispatches_last hd l)
  · rfl

theorem xslotWith_dispatch_trap {i : Instr} {h : Hd} {s sa sb sc : State} {x y z : Word} {t : Trap}
    {scalar : Reg → Act Word} {ck : Word → Word → Word → Act Prep} (hd : Claims.Dispatches i h s)
    (hx : (scalar h.s1).run s = .ok (x, sa)) (hy : (scalar h.s2).run sa = .ok (y, sb))
    (hz : (scalar h.s3).run sb = .ok (z, sc)) (hc : (ck x y z).run sc = .error (.trap t)) (complete : Bool)
    (body : XEntry → Act Unit) : xslotWith complete i h scalar ck body s = .next (s.takeTrapD t) := by
  unfold xslotWith
  simp only [hd.half, hd.can, Bool.false_eq_true, ↓reduceIte]
  rw [dispatchAct_stop hd hx hy hz hc]
  rfl

/-! ### The vector slots -/

/-- Every vector and special-function instruction is a vector entry (R193, R210). -/
theorem exec_vector {i : Instr} {o : XOps} (h : Claims.vector i = some o) :
    ∃ run, ∀ s, exec i s = vector i o run s := by
  cases i with
  | vadd | vsub | vmul | vmin | vmax | vabs | vneg | vfma | vfms | vfnma | vcmp | vsel | vclass | vcvt | vrsum | vrmax
  | vrmin | vand | vor | vxor | vandn | vshl | vshr | vsra | vadds | vsubs | vmulh | vperm | vbcast | vrot | vzip | vunzip
  | vcomp | vext | vins | vmov | vsign | vrand | div | sqrt | rcp | rsq | exp | expB2 | log | logB2 | sin | cos | tanh
  | tanhSig | erf =>
    obtain rfl := Option.some.inj h
    exact ⟨_, fun _ => rfl⟩
  | _ => nomatch h

/-- What a dispatch needs: nothing holds the slot up, its scalars are read, and its sources are local. -/
structure VectorReady (i : Instr) (o : XOps) (s sc : State) (x y z : Word) : Prop where
  vector : Claims.vector i = some o
  dispatches : Claims.Dispatches i o.h s
  scalars : ∃ sa sb, (srcW o.w true o.h.s1).run s = .ok (x, sa) ∧ (srcW o.w true o.h.s2).run sa = .ok (y, sb) ∧
    (srcW o.w true o.h.s3).run sb = .ok (z, sc)
  local1 : o.g1 = 0
  local2 : o.g2 = 0
  local3 : o.g3 = 0
  xseq : sc.ctx.xseq = s.ctx.xseq

section
variable {i : Instr} {o : XOps} {s sc : State} {x y z : Word} (h : VectorReady i o s sc x y z)
include h

theorem VectorReady.last (l : XLoop) : sc.ctx.xseq.getLast? ≠ some (.loop l) :=
  h.xseq ▸ dispatches_last h.dispatches l

theorem VectorReady.closed : sc.ctx.bodyOpen = false := by
  unfold Ctx.bodyOpen
  split
  · rename_i l hl
    exact absurd hl (h.last l)
  · rfl

theorem exec_vector_enters (hin : sc.here.outOfView (o.local o.h) = none) :
    exec i s = .next (sc.dispatch i o.h x y z {}) := by
  obtain ⟨run, hrun⟩ := exec_vector h.vector
  obtain ⟨sa, sb, hx, hy, hz⟩ := h.scalars
  rw [hrun]
  exact xslotWith_dispatch h.dispatches hx hy hz (act_vectorCheck h.closed h.local1 h.local2 h.local3 hin) _ _

/-- The index outside its view is the TVAL (R104; log entry 57). -/
theorem exec_vector_outside {k : Nat} (hout : sc.here.outOfView (o.local o.h) = some k) :
    exec i s = .next (s.takeTrapD { cause := cVIEW_RANGE, tval := some (BitVec.ofNat 64 k) }) := by
  obtain ⟨run, hrun⟩ := exec_vector h.vector
  obtain ⟨sa, sb, hx, hy, hz⟩ := h.scalars
  rw [hrun]
  exact xslotWith_dispatch_trap h.dispatches hx hy hz
    (act_vectorCheck_outside h.closed h.local1 h.local2 h.local3 hout) _ _

end

end Sys2Proof.Machine

open Sys2Proof.Machine in
/-- Settles O30: the checks of a vector slot with local sources are those of its views, and a slot that passes them is
dispatched. -/
theorem vectorDispatch : Obligations.VectorDispatch := by
  unfold Obligations.VectorDispatch
  intro i o s sa sb sc x y z hv hd h1 h2 h3 hx hy hz hseq
  have h : VectorReady i o s sc x y z := ⟨hv, hd, ⟨sa, sb, hx, hy, hz⟩, h1, h2, h3, hseq⟩
  refine ⟨fun hin => ?_, fun k hout => exec_vector_outside h hout⟩
  have hd' := dispatched_entered h.last o.h.d (dispatched i sc x y z {} sc.nextId) i
  rw [← ctx_dispatch] at hd'
  exact ⟨_, _, exec_vector_enters h hin, hseq ▸ hd'.xseq, rfl, rfl, rfl, rfl, rfl, rfl, hd'.pc, hd'.g, hd'.p, hd'.q0,
    hd'.q1, hd'.fflags, rfl, rfl, hd'.waits⟩

end

section
/-! SUPPORT. When a matrix entry starts (R119, R216, R217, R219 to R226). -/

namespace Sys2Proof.Machine

/-! ### The checks of a start outside a loop -/

/-- An entry outside a loop that has kept what its dispatch took, or took nothing, makes its checks no second time
(R78, R213). -/
theorem act_passPrep_flat {e : XEntry} {s : State} (hflat : s.ctx.inLoop = false) (hhead : s.ctx.xhead = some e)
    (hkept : preps e.i = true → e.held ≠ [] ∨ e.taken ≠ []) (check : Option (List Nat) → Act Prep) :
    (passPrep check).run s = .ok ((), s) := by
  have hagain : (preps e.i && e.held.isEmpty && e.taken.isEmpty) = false := by
    cases hp : preps e.i with
    | false => rfl
    | true => rcases hkept hp with h | h <;> simp [h]
  unfold passPrep
  rw [act_bind_ok (act_getCtx s)]
  simp only [hflat, hhead, hagain, Bool.false_and, Bool.or_self, Bool.false_eq_true, ↓reduceIte]
  rfl

theorem act_free {s : State} {reads writes : List (Nat × Nat)} (h : Claims.free s reads writes) :
    (entryGranules reads writes).run s = .ok ((), s) := by
  obtain ⟨busy, read, write, sound⟩ := h
  exact act_entryGranules busy read write sound

theorem acc_eq_zSpan (s : State) (k : Nat) : Claims.acc s k = s.here.zSpan k := rfl

/-- A stream with counters left lets a rounding form go on (R144). -/
theorem act_streamHas {s : State} {rm : BitVec 3} {n steps e w : Nat} (h : Claims.stream s rm n)
    (hn : steps * ceilDiv (e * w) 256 = n) : (streamHas rm.toNat steps e w).run s = .ok ((), s) := by
  unfold streamHas
  rw [act_bind_ok (act_getCtx s), act_unlessFault]
  rw [hn, Bool.or_eq_true, bne_iff_ne, decide_eq_true_eq]
  by_cases h5 : rm = 5
  · have := h h5
    omega
  · exact .inl fun hr => h5 (BitVec.eq_of_toNat_eq hr)

theorem act_tileSound {s : State} {r : Reg} (h : s.tileBad r.index = false) : (tileSound r).run s = .ok ((), s) := by
  unfold tileSound
  rw [act_bind_ok (act_get s), act_unlessFault (by simp [h])]

theorem act_needTile {s : State} {r : Reg} {t : Tile} (ht : tfind s.here.tiles r.index = some t)
    (hm : s.here.tileMoving t = false) : (needTile r).run s = .ok (t, s) := by
  unfold needTile
  rw [act_bind_ok (act_tileEntry_some ht hm _)]
  rfl

/-- A tile that can be taken is FILLING (R119). -/
theorem act_takeFor {s : State} {n : Nat} {t : Tile} {e : XEntry}
    (h : Claims.Takes s (some (s.fc % 4)) n t e.seq) : (takeFor n e).run s = .ok ((), Claims.filling s n) := by
  have idle : (t.state == .empty || (t.state == .ready && t.readers == 0)) = true := by
    rcases h.idle with h | ⟨h, hr⟩ <;> simp [*]
  have first : (!(s.writers s.core (some (s.fc % 4))).any (fun w => w.1 == n && decide (w.2 < e.seq))) = true := by
    simp only [Bool.not_eq_true', List.any_eq_false, Bool.and_eq_true, beq_iff_eq, decide_eq_true_eq, not_and, not_lt]
    exact h.first
  unfold takeFor
  rw [act_bind_ok (act_get s)]
  unfold takeTile
  rw [act_bind_ok (act_get s)]
  simp only [h.valid]
  rw [act_bind_ok (act_waitUntil idle _ _ _), act_bind_ok (act_waitUntil first _ _ _)]
  rfl

/-! ### The products -/

/-- The counter values a product of format f draws (R140, R144). -/
theorem product_counters (f : Fmt) : (if !(f == .f32 || f == .f64) then 1 else 32) *
    ceilDiv ((if f = .f64 then 1024 else 2048) * (if f = .f64 then 64 else 32)) 256 =
      if f = .f32 ∨ f = .f64 then 8192 else 256 := by
  cases f <;> rfl

/-- What the start of a product waits for and checks (R216 to R219). -/
structure ProductReady (i : Instr) (o : TOps) (f : Fmt) (sparse : Bool) (e : XEntry) (s : State) : Prop where
  fmt : productFmt i = f
  starts : Claims.Starts i e s
  array : s.here.arrayBusy = false
  free : Claims.free s (Claims.acc s o.h.d.index ++ s.here.tileSpan o.h.s1.index) (Claims.acc s o.h.d.index)
  soundA : s.tileBad o.h.s1.index = false
  soundB : s.tileBad o.h.s2.index = false
  stream : Claims.stream s o.h.rm (if f = .f32 ∨ f = .f64 then 8192 else 256)
  pattern : sparse = true → o.opt.getLsbD 0 = false → (sparseCheck o.h f e.scales).run s = .ok ((), s)

theorem act_startProduct {i : Instr} {o : TOps} {f : Fmt} {sparse : Bool} {e : XEntry} {s : State}
    (h : ProductReady i o f sparse e s) : (startProduct i o sparse).run s = .ok ((), s) := by
  have hf := h.free
  rw [acc_eq_zSpan] at hf
  unfold startProduct
  rw [act_bind_ok (act_getCtx s)]
  simp only [passHd_flat h.starts.flat, h.fmt]
  rw [act_bind_ok (act_passCheck_flat h.starts.flat _),
    act_bind_ok (act_passPrep_flat h.starts.flat h.starts.head (fun _ => h.starts.kept) _),
    act_bind_ok (act_getCore s), act_bind_ok (act_waitUntil (by simp [h.array]) _ _ _),
    act_bind_ok (act_free hf), act_bind_ok (act_tileSound h.soundA), act_bind_ok (act_tileSound h.soundB),
    act_bind_ok (act_streamHas h.stream (product_counters f))]
  by_cases hs : (sparse && !o.opt.getLsbD 0) = true
  · rw [if_pos hs, act_bind_ok (act_getCtx s), h.starts.head]
    simp only [Bool.and_eq_true, Bool.not_eq_true'] at hs
    exact h.pattern hs.1 hs.2
  · rw [if_neg hs]
    rfl

theorem exec_product {o : TOps} {e : XEntry} {s : State} {i : Instr} {f : Fmt}
    (hi : (i = .mma o ∧ f = o.fmt1) ∨ (i = .mmaS o ∧ f = o.fmt1) ∨ (i = .dmma o ∧ f = .f64))
    (hs : Claims.Starts i e s) (ha : s.here.arrayBusy = false)
    (hf : Claims.free s (Claims.acc s o.h.d.index ++ s.here.tileSpan o.h.s1.index) (Claims.acc s o.h.d.index))
    (hA : s.tileBad o.h.s1.index = false) (hB : s.tileBad o.h.s2.index = false)
    (hr : Claims.stream s o.h.rm (if f = .f32 ∨ f = .f64 then 8192 else 256))
    (hp : i = .mmaS o → o.opt.getLsbD 0 = false → (sparseCheck o.h f e.scales).run s = .ok ((), s)) :
    exec i s = .next (Claims.started s) := by
  rcases hi with ⟨rfl, rfl⟩ | ⟨rfl, rfl⟩ | ⟨rfl, rfl⟩
  · exact matrixEntry_started hs.toRuns (act_startProduct (sparse := false) ⟨rfl, hs, ha, hf, hA, hB, hr, nofun⟩)
  · exact matrixEntry_started hs.toRuns
      (act_startProduct (sparse := true) ⟨rfl, hs, ha, hf, hA, hB, hr, fun _ => hp rfl⟩)
  · exact matrixEntry_started hs.toRuns (act_startProduct (sparse := false) ⟨rfl, hs, ha, hf, hA, hB, hr, nofun⟩)

/-! ### The other forms -/

section
variable {o : TOps} {e : XEntry} {s : State}

theorem exec_mscale_started (h : Claims.Runs (.mscale o) e s) (hflat : s.ctx.inLoop = false)
    (hf : Claims.free s (Claims.acc s o.h.s1.index ++ if o.opt.getLsbD 1 then [] else Claims.acc s o.h.d.index)
      (Claims.acc s o.h.d.index)) (hr : Claims.stream s o.h.rm 256) :
    exec (.mscale o) s = .next (Claims.started s) := by
  simp only [acc_eq_zSpan] at hf
  refine matrixEntry_started h ?_
  have hprep : preps e.i = true → e.held ≠ [] ∨ e.taken ≠ [] := by simp [h.same, preps]
  rw [act_bind_ok (act_getCtx s)]
  simp only [passHd_flat hflat]
  rw [act_bind_ok (act_passCheck_flat hflat _), act_bind_ok (act_passPrep_flat hflat h.head hprep _),
    act_bind_ok (act_getCore s), act_bind_ok (act_free hf)]
  exact act_streamHas hr rfl

theorem exec_mzero_started (h : Claims.Runs (.mzero o) e s) (hflat : s.ctx.inLoop = false)
    (hf : Claims.free s [] (Claims.acc s o.h.d.index)) : exec (.mzero o) s = .next (Claims.started s) := by
  refine matrixEntry_started h ?_
  rw [act_bind_ok (act_getCtx s)]
  simp only [passHd_flat hflat]
  rw [act_bind_ok (act_passCheck_flat hflat _), act_bind_ok (act_getCore s)]
  exact act_free hf

theorem exec_mflags_started (h : Claims.Runs (.mflags o) e s) (hflat : s.ctx.inLoop = false)
    (hf : Claims.free s [] (Claims.acc s o.h.d.index)) (hq : o.opt.getLsbD 0 = true → s.ctx.q1.length < 16) :
    exec (.mflags o) s = .next (Claims.started s) := by
  simp only [acc_eq_zSpan] at hf
  refine matrixEntry_started h ?_
  have hroom : (!o.opt.getLsbD 0 || decide (s.ctx.q1.length < 16)) = true := by
    cases ho : o.opt.getLsbD 0 with
    | false => rfl
    | true => simp [hq ho]
  rw [act_bind_ok (act_getCtx s)]
  simp only [passHd_flat hflat]
  rw [act_bind_ok (act_passCheck_flat hflat _), act_bind_ok (act_getCore s), act_bind_ok (act_free hf)]
  exact act_waitUntil hroom _ _ _

theorem exec_mxpose_started {t d : Tile} (h : Claims.Starts (.mxpose o) e s)
    (ht : tfind s.here.tiles o.h.s1.index = some t) (hm : s.here.tileMoving t = false)
    (hd : Claims.Takes s (some (s.fc % 4)) o.h.d.index d e.seq) (hrole : d.role ≠ .csm) (hwide : d.wide = false)
    (hfmt : d.fmt = t.fmt) (hf : Claims.free s t.span d.span) (hb : s.tileBad o.h.s1.index = false) :
    exec (.mxpose o) s = .next (Claims.started (Claims.filling s o.h.d.index)) := by
  refine matrixEntry_started h.toRuns ?_
  rw [act_bind_ok (act_getCtx s)]
  simp only [passHd_flat h.flat]
  rw [act_bind_ok (act_passPrep_flat h.flat h.head (fun _ => h.kept) _), act_bind_ok (act_needTile ht hm),
    act_bind_ok (act_tileEntry_some hd.valid hd.still _)]
  dsimp only
  rw [act_bind_ok (act_unlessFault (by simp [hrole, hwide, hfmt]) _ _ _), act_bind_ok (act_free hf),
    act_bind_ok (act_tileSound hb)]
  exact act_takeFor hd

/-- The elements MCVT converts (R226). -/
theorem mcvt_counters (c : Core) (d : Tile) (w : Nat) :
    1 * ceilDiv ((if (decide (c.vwz.shape = 0) && (d.role == .csm || d.wide)) = true then 2048 else 1024) * w) 256 =
      ((if c.vwz.shape = 0 ∧ (d.role = .csm ∨ d.wide = true) then 2048 else 1024) * w + 255) / 256 := by
  simp [ceilDiv]

theorem exec_mcvt_started {d : Tile} {p : List ((Nat × Nat) × (Nat × Nat))} (h : Claims.Runs (.mcvt o) e s)
    (hflat : s.ctx.inLoop = false) (hd : Claims.Takes s (some (s.fc % 4)) o.h.d.index d e.seq) (hfmt : d.fmt = o.fmt1)
    (hp : mcvtPlan s.here.vwz.shape (if o.opt.getLsbD 0 then 1 else 0) d = some p)
    (hf : Claims.free s (Claims.acc s o.h.s1.index) d.span)
    (hr : Claims.stream s o.h.rm (((if s.here.vwz.shape = 0 ∧ (d.role = .csm ∨ d.wide = true) then 2048 else 1024) *
      o.fmt1.width + 255) / 256)) :
    exec (.mcvt o) s = .next (Claims.started (Claims.filling s o.h.d.index)) := by
  simp only [acc_eq_zSpan] at hf
  refine matrixEntry_started h ?_
  have hprep : preps e.i = true → e.held ≠ [] ∨ e.taken ≠ [] := by simp [h.same, preps]
  have hplan : (mcvtPlan s.here.vwz.shape (TOps.half o) d).isSome = true :=
    Option.isSome_iff_exists.mpr ⟨p, hp⟩
  rw [act_bind_ok (act_getCtx s)]
  simp only [passHd_flat hflat]
  rw [act_bind_ok (act_passCheck_flat hflat _), act_bind_ok (act_passPrep_flat hflat h.head hprep _),
    act_bind_ok (act_needTile hd.valid hd.still), act_bind_ok (act_getCore s),
    act_bind_ok (act_unlessFault (by simp [hfmt, hplan]) _ _ _), act_bind_ok (act_free hf),
    act_bind_ok (act_streamHas hr (mcvt_counters _ _ _))]
  exact act_takeFor hd

/-- The start of an MDRAIN that no acquire and no granule holds back: its rows are written in the core's own pool, or
posted under the table entries it took (R223). -/
theorem exec_mdrain_started {u : State} (h : Claims.Starts (.mdrain o) e s) (ha : s.acqOut = false)
    (hf : Claims.free s (Claims.acc s o.h.s1.index) [])
    (hu : gaCore e.s2.toNat = s.core ∧ (drainSelf o.h.s1.index e.s2.toNat 32).run s = .ok ((), u) ∨
      gaCore e.s2.toNat ≠ s.core ∧ u = (e.taken.take 32).zipIdx.foldl (fun s p => s.launchTaken p.1
        (newTxn s (.store (s.zRow o.h.s1.index p.2)) .pool (e.s2.toNat + 256 * p.2) 256)
        (countFor s.core (e.s2.toNat + 256 * p.2))) s) :
    exec (.mdrain o) s = .next (Claims.started u) := by
  simp only [acc_eq_zSpan] at hf
  refine matrixEntry_started h.toRuns ?_
  rw [act_bind_ok (act_getCtx s)]
  simp only [passHd_flat h.flat]
  rw [act_bind_ok (act_passCheck_flat h.flat _),
    act_bind_ok (act_passPrep_flat h.flat h.head (fun _ => h.kept) _), act_bind_ok (act_acquired ha),
    act_bind_ok (act_getCore s), act_bind_ok (act_free hf), act_bind_ok (act_get s)]
  rcases hu with ⟨hself, hrun⟩ | ⟨hfar, rfl⟩
  · rw [if_pos hself]
    exact hrun
  · rw [if_neg hfar, h.head]
    rfl

end

end Sys2Proof.Machine

open Sys2Proof.Machine in
/-- Settles O35: each form's start makes its checks in turn, which the hypotheses let pass. -/
theorem matrixStart : Obligations.MatrixStart := by
  unfold Obligations.MatrixStart
  intro o e s t d
  exact ⟨fun _ _ => exec_product, exec_mscale_started, exec_mzero_started, exec_mflags_started, exec_mxpose_started,
    fun _ => exec_mcvt_started, fun u h ha hf => ⟨fun hself hrun => exec_mdrain_started h ha hf (.inl ⟨hself, hrun⟩),
      fun hfar => exec_mdrain_started h ha hf (.inr ⟨hfar, rfl⟩)⟩⟩

end

section
/-! SUPPORT. What lands when a grant, a value or an acknowledgement arrives (R91, R174, R178, R179, R269, R275, R290). -/

namespace Sys2Proof.Machine

theorem withTxn_some {s : State} {id : Nat} {t : Txn} (h : tfind s.txns id = some t) (f : Txn → State) :
    s.withTxn id f = f t := by
  unfold State.withTxn
  rw [h]

/-- Changes of a core that agree on it are one change. -/
theorem modCore_congr {s : State} {k : Nat} {f g : Core → Core} (h : f (s.coreAt k) = g (s.coreAt k)) :
    s.modCore k f = s.modCore k g := congrArg (s.setCore k) h

/-! ### Grants of a line -/

theorem lineOp_load {l : CchLine} (h : l.excl = false) (cts ga size : Nat) :
    lineOp l cts ga size .load = (l, l.get ga size, max cts l.wts, false) := by
  simp [lineOp, TxnOp.stores, TxnOp.isLoad, h]

/-- A store to an HC line takes its place above the line's RTS (R275). -/
theorem lineOp_store {l : CchLine} (h : l.cls = .hc) (cts ga size : Nat) (data : List Byte) :
    lineOp l cts ga size (.store data) =
      ({ l.put ga size (natOfBytes data) with wts := max cts (l.rts + 1), rts := max cts (l.rts + 1) },
        l.get ga size, max cts (l.rts + 1), false) := by
  have hp : (l.put ga size (natOfBytes data)).cls = .hc := h
  simp only [lineOp, TxnOp.stores, hp, beq_self_eq_true, ↓reduceIte]
  rfl

section
variable {s : State} {id : Nat} {t : Txn}

/-- The line a load was granted is placed clean, with its lease (R269). -/
theorem landLine_load {cls : Cls} (hop : t.op = .load) (hmiss : (s.coreAt t.core).findLine (lineOf t.ga) = none)
    (how : cls = .ow → s.holds t.core t.page = true) :
    let l : CchLine := ⟨lineOf t.ga, BitVec.ofNat 512 (natOfBytes t.value), 0, cls, t.lease.1, t.lease.2, false⟩
    s.landLine id t cls false = (s.install t.core l).setTxn id { t with
      stage := .done
      value := bytesOf t.size (l.get t.ga t.size)
      cts := if cls = .hc then max t.cts l.wts else t.cts } := by
  have hkeep : (cls == Cls.ow && TxnOp.load.isLoad && !s.holds t.core t.page) = false := by
    cases cls <;> simp_all
  unfold State.landLine
  simp only [Bool.false_eq_true, ↓reduceIte, hmiss, hop, lineOp_load, hkeep, beq_iff_eq]
  rfl

/-- The line a store was granted EXCLUSIVE is placed with the store in it, and the core owns it (R275). -/
theorem landLine_store {data : List Byte} (hop : t.op = .store data)
    (hmiss : (s.coreAt t.core).findLine (lineOf t.ga) = none) :
    let h := s.homeAt (lineOf t.ga)
    let l : CchLine := ⟨lineOf t.ga, s.homeData (lineOf t.ga), 0, .hc, h.wts, h.rts, true⟩
    let stamp := max t.cts (h.rts + 1)
    s.landLine id t .hc true = ((s.setHome (lineOf t.ga) { h with owner := some t.core }).install t.core
      { l.put t.ga t.size (natOfBytes data) with wts := stamp, rts := stamp }).setTxn id
        { t with stage := .done, value := bytesOf t.size (l.get t.ga t.size), cts := stamp } := by
  intro h l stamp
  have hmiss' : ((s.setHome (lineOf t.ga) { h with owner := some t.core }).coreAt t.core).findLine (lineOf t.ga) = none :=
    hmiss
  unfold State.landLine
  simp only [↓reduceIte, hop]
  rw [hmiss']
  simp only [lineOp_store]
  rfl

/-! ### A grant of U -/

/-- A first update starts from the identity of its operation (R290). -/
theorem addDelta_first {op : AmoOp} {f : Fmt} {v : Word} {core ga : Nat}
    (hnone : (s.coreAt core).ulines.find? (·.addr == lineOf ga) = none)
    (hroom : (s.coreAt core).lines.length + (s.coreAt core).ulines.length < (s.coreAt core).cchRoom) :
    s.addDelta core ga op f (valOf f v) = s.modCore core (fun c => { c with
      ulines := ⟨lineOf ga, op, f, [(ga - lineOf ga, Claims.amoNew op f 0 (amoIdentity op f) v)]⟩ ::
        c.ulines.filter (·.addr != lineOf ga) }) := by
  have hfits : s.makeRoom core (lineOf ga) = s := by
    unfold State.makeRoom
    refine if_pos (lt_of_le_of_lt ?_ hroom)
    exact Nat.add_le_add (List.length_filter_le ..) (List.length_filter_le ..)
  unfold State.addDelta
  dsimp only
  rw [hfits, ite_self]
  refine modCore_congr ?_
  simp only [hnone]
  rfl

/-- An update that was granted U, of a line the core holds no delta of, where the CCH role has room: the core's delta
starts with it, the core's copy of the line goes, and the home lists the core (R290). -/
theorem landU_first {cls : Cls} {op : AmoOp} {f : Fmt} {v : Word} (ht : t.target = .dram cls) (hop : t.op = .amoU op f v)
    (hnone : (s.coreAt t.core).ulines.find? (·.addr == lineOf t.ga) = none)
    (hroom : (s.coreAt t.core).lines.length + (s.coreAt t.core).ulines.length < (s.coreAt t.core).cchRoom) :
    let h := s.homeAt (lineOf t.ga)
    s.landU id t = ((s.modCore t.core (fun c => { c with
      lines := c.lines.filter (·.addr != lineOf t.ga)
      ulines := ⟨lineOf t.ga, op, f, [(t.ga - lineOf t.ga, Claims.amoNew op f 0 (amoIdentity op f) v)]⟩ ::
        c.ulines.filter (·.addr != lineOf t.ga) })).setHome (lineOf t.ga) { h with
          us := if h.us.contains t.core then h.us else h.us ++ [t.core] }).setTxn id { t with
            stage := .done
            cts := if cls = .hc then max t.cts (h.rts + 1) else t.cts } := by
  intro h
  let u := s.modCore t.core (·.dropLine (lineOf t.ga))
  have hu : u.coreAt t.core = (s.coreAt t.core).dropLine (lineOf t.ga) := State.coreAt_modCore ..
  have hsettle : u.settleU t.core t.ga op f = u := by
    unfold State.settleU
    rw [hu]
    dsimp only [Core.dropLine]
    rw [hnone]
  have hdelta := addDelta_first (s := u) (core := t.core) (ga := t.ga) (op := op) (f := f) (v := v)
    (by rw [hu]; exact hnone)
    (by rw [hu]; exact lt_of_le_of_lt (Nat.add_le_add_right (List.length_filter_le ..) _) hroom)
  unfold State.landU
  rw [hop, ht]
  dsimp only
  rw [if_neg (by omega), hsettle, hdelta, State.modCore_modCore]
  simp only [beq_iff_eq]
  rfl

/-! ### A value that returns -/

/-- A load raises no conditions. -/
theorem load_raises_nothing (c : Ctx) (old : Nat) : { c with fflags := c.fflags ||| TxnOp.load.flags old } = c := by
  simp [TxnOp.flags]

section
variable (hop : t.op = .load) (hc : t.target ≠ .dram .hc)
include hop hc

theorem returnLoad_done (hst : t.stage = .done) : s.returnLoad id t =
    (s.dropTxn id).modCtxOf t.core t.fc (fun c => c.land t.dest none (natOfBytes t.value)) := by
  unfold State.returnLoad
  simp only [beq_iff_eq, hc, ↓reduceIte, hop, load_raises_nothing, ite_self, hst]

/-- A refused load leaves its error at its destination (R173, R174; log entry 107). -/
theorem returnLoad_failed {cause : Nat} (hst : t.stage = .failed cause) : s.returnLoad id t =
    (s.dropTxn id).modCtxOf t.core t.fc (fun c => c.land t.dest
      (some ⟨cause, word (if cause = cPERM_DENIED then t.ea else t.ga), t.dest.pc t.pc⟩) (natOfBytes t.value)) := by
  unfold State.returnLoad
  simp only [beq_iff_eq, hc, ↓reduceIte, hop, load_raises_nothing, ite_self, hst]
  rfl

end

end

/-! ### Acknowledgements -/

theorem addCount_posted (c : Ctx) (k : Count) (n : Int) : (c.addCount k n).posted = c.posted := by cases k <;> rfl
theorem addCount_storeErr (c : Ctx) (k : Count) (n : Int) : (c.addCount k n).storeErr = c.storeErr := by cases k <;> rfl
theorem addCount_firing (c : Ctx) (k : Count) (n : Int) : (c.addCount k n).firing = c.firing := by cases k <;> rfl

/-- The context whose posted entry id no longer counts (R178). -/
def Ctx.uncounted (id : Nat) (c : Ctx) : Ctx :=
  match c.posted.find? (·.id == id) with
  | some e => c.addCount e.count (-1)
  | none => c

section
variable (id : Nat) (c : Ctx)

theorem uncounted_posted : (c.uncounted id).posted = c.posted := by
  unfold Ctx.uncounted
  split
  · exact addCount_posted ..
  · rfl

theorem uncounted_storeErr : (c.uncounted id).storeErr = c.storeErr := by
  unfold Ctx.uncounted
  split
  · exact addCount_storeErr ..
  · rfl

theorem uncounted_firing : (c.uncounted id).firing = c.firing := by
  unfold Ctx.uncounted
  split
  · exact addCount_firing ..
  · rfl

end

/-- The address a refusal reports: that of a message's posted entry, or of the access (R179). -/
def Ctx.refusedAt (c : Ctx) (id : Nat) (t : Txn) : Nat :=
  match c.posted.find? (·.id == id), t.op with
  | some e, .message _ => e.ga
  | _, _ => t.ga

/-- What a refusal changes besides the store-error record: the posted entry is freed, and the entry of the sequencer that
made the write and the stream learn of it (R97, R178, R223). -/
def Ctx.refusedWrite (id : Nat) (t : Txn) (cause : Nat) (c : Ctx) : Ctx :=
  let d := Ctx.uncounted id { c with xseq := c.xseq.map (XItem.refuse id) }
  { d with
    posted := d.posted.filter (·.id != id)
    streams := d.streams.map (fun q => { q with
      unacked := q.unacked.filter (· != id)
      err := if q.unacked.contains id then q.err.or (some ⟨cause, word (c.refusedAt id t), none⟩) else q.err }) }

/-- The context whose posted write was refused (R179). -/
def Ctx.refused (id : Nat) (t : Txn) (cause : Nat) (c : Ctx) : Ctx :=
  if (c.refusedWrite id t cause).storeErr.isNone && (c.refusedWrite id t cause).firing.isSome then
    { c.refusedWrite id t cause with storeErr := some (word (c.refusedAt id t), cause) }
  else c.refusedWrite id t cause

section
variable (id : Nat) (t : Txn) (cause : Nat) (c : Ctx)

theorem refusedWrite_posted : (c.refusedWrite id t cause).posted = c.posted.filter (·.id != id) := by
  unfold Ctx.refusedWrite
  exact congrArg _ (uncounted_posted ..)

theorem refusedWrite_storeErr : (c.refusedWrite id t cause).storeErr = c.storeErr := uncounted_storeErr ..

theorem refusedWrite_firing : (c.refusedWrite id t cause).firing = c.firing := uncounted_firing ..

theorem refused_posted : (c.refused id t cause).posted = c.posted.filter (·.id != id) := by
  unfold Ctx.refused
  split <;> exact refusedWrite_posted id t cause c

end

section
variable {id cause : Nat} {t : Txn} {c : Ctx}

/-- The record was clear, and holds the refusal (R179). -/
theorem refused_storeErr (hop : ∀ e, t.op ≠ .message e) (hclear : c.storeErr = none) (hf : c.firing.isSome = true) :
    (c.refused id t cause).storeErr = some (word t.ga, cause) := by
  have hat : c.refusedAt id t = t.ga := by
    unfold Ctx.refusedAt
    split
    · rename_i h
      exact absurd h (hop _)
    · rfl
  unfold Ctx.refused
  rw [if_pos (by simp [refusedWrite_storeErr, refusedWrite_firing, hclear, hf]), hat]

/-- A record that stands is kept (R179). -/
theorem refused_storeErr_kept {r : Word × Nat} (h : c.storeErr = some r) :
    (c.refused id t cause).storeErr = some r := by
  unfold Ctx.refused
  rw [if_neg (by simp [refusedWrite_storeErr, h])]
  exact (refusedWrite_storeErr ..).trans h

end

section
variable {s : State} {id : Nat} {t : Txn}

/-- An acknowledged write of several pieces sends its next one (R224). -/
theorem ackStore_next {r : Rest} {rs : List Rest} (hst : t.stage = .done) (hrest : t.rest = r :: rs) :
    s.ackStore id t = s.setTxn id { t with
      op := .store r.data
      ga := r.ga
      size := r.data.length
      page := r.page
      target := r.target
      rest := rs
      stage := .travelling
      sent := s.now } := by
  unfold State.ackStore
  rw [hst, hrest]

section
variable (heng : t.engine = false) (hc : t.target ≠ .dram .hc) (hop : ∀ r a n m b, t.op ≠ .slot r a n m b)
include heng hc hop

theorem ackStore_done (hst : t.stage = .done) (hrest : t.rest = []) :
    s.ackStore id t = (s.dropTxn id).modCtxOf t.core t.fc (Claims.acked id) := by
  unfold State.ackStore
  rw [hst, hrest]
  simp only [heng, Bool.false_eq_true, ↓reduceIte, beq_iff_eq, hc, Option.or_none, ite_self]
  rfl

/-- The refusal of a posted write (R179). -/
theorem ackStore_failed {cause : Nat} (hst : t.stage = .failed cause) :
    s.ackStore id t = (s.dropTxn id).modCtxOf t.core t.fc (Ctx.refused id t cause) := by
  unfold State.ackStore
  rw [hst]
  simp only [heng, Bool.false_eq_true, ↓reduceIte, beq_iff_eq, hc]
  rfl

end

/-! ### The events -/

theorem exec_cacheFillComplete {cls : Cls} (h : tfind s.txns id = some t) (hst : t.stage = .granted)
    (ht : t.target = .dram cls) (hop : t.op = .load) :
    exec (.cacheFillComplete id) s = .next (s.landLine id t cls false) := by
  show Host.Outcome.next _ = _
  rw [withTxn_some h, if_pos (by simp [hst, Txn.wantsExclusive, Txn.isU, hop, TxnOp.isLoad])]
  simp only [Txn.cls, ht]

theorem exec_hcExclusiveGrant {data : List Byte} (h : tfind s.txns id = some t) (hst : t.stage = .granted)
    (ht : t.target = .dram .hc) (hop : t.op = .store data) :
    exec (.hcExclusiveGrant id) s = .next (s.landLine id t .hc true) := by
  show Host.Outcome.next _ = _
  rw [withTxn_some h, if_pos (by simp [hst, Txn.wantsExclusive, Txn.cls, ht, Txn.isU, hop, TxnOp.isLoad])]

theorem exec_uGrant {op : AmoOp} {f : Fmt} {v : Word} (h : tfind s.txns id = some t) (hst : t.stage = .granted)
    (hop : t.op = .amoU op f v) : exec (.uGrant id) s = .next (s.landU id t) := by
  show Host.Outcome.next _ = _
  rw [withTxn_some h, if_pos (by simp [hst, Txn.isU, hop])]

/-- An access that has been answered: it is performed, or it failed. -/
def Txn.answered (t : Txn) : Prop := t.stage = .done ∨ ∃ cause, t.stage = .failed cause

theorem exec_loadDataReturn (h : tfind s.txns id = some t) (hst : t.answered) (hp : s.answerPath t = true)
    (hn : t.count = none) : exec (.loadDataReturn id) s = .next (s.returnLoad id t) := by
  show Host.Outcome.next _ = _
  rw [withTxn_some h]
  rcases hst with hst | ⟨cause, hst⟩ <;> simp [hst, hn, hp]

theorem exec_storeAck (h : tfind s.txns id = some t) (hst : t.answered) (hp : s.answerPath t = true)
    (hn : t.count.isSome = true) : exec (.storeAck id) s = .next (s.ackStore id t).finishKills.finishSaves := by
  show Host.Outcome.next _ = _
  rw [withTxn_some h]
  rcases hst with hst | ⟨cause, hst⟩ <;> simp [hst, hn, hp]

/-- An access on its way brings no answer yet. -/
theorem exec_answers_travelling (h : tfind s.txns id = some t) (hst : t.stage = .travelling) :
    exec (.loadDataReturn id) s = .next s ∧ exec (.storeAck id) s = .next s := by
  constructor <;>
  · show Host.Outcome.next _ = _
    rw [withTxn_some h, hst]

end

end Sys2Proof.Machine

open Sys2Proof.Machine in
/-- Settles O52: each event does to its access what the lemmas above say. -/
theorem accessesReturn : Obligations.AccessesReturn := by
  unfold Obligations.AccessesReturn
  intro s id t h
  refine ⟨?fill, ?exclusive, ?update, ?load, ?ack, exec_answers_travelling h⟩
  case fill =>
    intro cls hst ht hop hmiss how
    exact (exec_cacheFillComplete h hst ht hop).trans (congrArg _ (landLine_load hop hmiss how))
  case exclusive =>
    intro data hst ht hop hmiss
    exact (exec_hcExclusiveGrant h hst ht hop).trans (congrArg _ (landLine_store hop hmiss))
  case update =>
    intro cls op f v hst ht hop hnone hroom
    exact (exec_uGrant h hst hop).trans (congrArg _ (landU_first ht hop hnone hroom))
  case load =>
    intro hp hn hc hop
    refine ⟨fun hst => ?_, fun cause hst => ?_⟩
    · exact (exec_loadDataReturn h (.inl hst) hp hn).trans (congrArg _ (returnLoad_done hop hc hst))
    · exact (exec_loadDataReturn h (.inr ⟨cause, hst⟩) hp hn).trans (congrArg _ (returnLoad_failed hop hc hst))
  case ack =>
    intro hp heng hn hc hop
    refine ⟨fun hst hrest => ?_, fun r rs hst hrest => ?_, fun cause hst => ?_⟩
    · rw [exec_storeAck h (.inl hst) hp hn, ackStore_done heng hc hop hst hrest]
    · rw [exec_storeAck h (.inl hst) hp hn, ackStore_next hst hrest]
    · refine ⟨_, exec_storeAck h (.inr ⟨cause, hst⟩) hp hn, ?_⟩
      rw [ackStore_failed heng hc hop hst, State.ctxOf_modCtxOf]
      exact ⟨rfl, rfl, refused_posted .., fun hm => refused_storeErr hm, fun r => refused_storeErr_kept⟩

end

section
/-! SUPPORT. What a vector entry does when the X-half runs it: its lanes, its conditions, and its traps (R148, R151, R155,
R197 to R203, R209 to R211). -/

namespace Sys2Proof.Machine

/-! ### Trap requests and random bits -/

/-- A condition that the slot asked to trap: FP_NV before FP_DZ, with the mask of the lanes as TVAL (R155). -/
theorem act_trapRequest_stop {o : XOps} {r : List (Nat × Flags)} (h : ¬ Claims.quiet o (r.map (·.2))) (s : State) :
    ∃ cause, (trapRequest o.tz o.tv (r.map (·.2))).run s = .error (.trap { cause := cause, tval := some (BitVec.ofNat 64
        (laneMask 0 (r.map (fun x => (o.tv && x.2.getLsbD 4) || (o.tz && x.2.getLsbD 3))))) }) ∧
      ((∃ x ∈ r, o.tv = true ∧ x.2.getLsbD 4 = true) → cause = cFP_NV) ∧
      ((∀ x ∈ r, o.tv = true → x.2.getLsbD 4 = false) → cause = cFP_DZ) := by
  unfold trapRequest
  simp only [List.map_map, List.any_map]
  by_cases hv : ∃ x ∈ r, o.tv = true ∧ x.2.getLsbD 4 = true
  · refine ⟨cFP_NV, ?_, fun _ => rfl, fun hno => ?_⟩
    · have invalid : r.any (id ∘ (fun f => o.tv && f.getLsbD 4) ∘ (·.2)) = true := by simpa using hv
      rw [if_pos invalid]
      rfl
    · obtain ⟨x, hx, ht, hb⟩ := hv
      exact absurd ((hno x hx ht).symm.trans hb) nofun
  · have valid : ¬ r.any (id ∘ (fun f => o.tv && f.getLsbD 4) ∘ (·.2)) = true := by simpa using hv
    have divided : r.any (id ∘ (fun f => o.tz && f.getLsbD 3) ∘ (·.2)) = true := by
      by_contra hz
      refine h (List.forall_mem_map.mpr fun x hx => ⟨fun ht => ?_, fun ht => ?_⟩)
      · exact Bool.eq_false_iff.mpr fun hb => hv ⟨x, hx, ht, hb⟩
      · exact Bool.eq_false_iff.mpr fun hb => hz (List.any_eq_true.mpr ⟨x, hx, Bool.and_eq_true _ _ ▸ ⟨ht, hb⟩⟩)
    refine ⟨cFP_DZ, ?_, fun hex => absurd hex hv, fun _ => rfl⟩
    rw [if_neg valid, if_pos divided]
    rfl

theorem act_raiseFlags (f : Flags) (s : State) :
    (raiseFlags f).run s = .ok ((), s.modCtx (fun c => { c with fflags := c.fflags ||| f })) := rfl

theorem act_raiseSat (b : Bool) (s : State) :
    (raiseSat b).run s = .ok ((), s.modCtx (fun c => { c with vsat := c.vsat || b })) := rfl

/-- A stream that is not spent gives its next block (R144). -/
theorem act_takeCounters_one {s : State} (h : s.ctx.rngctr.toNat + 1 < 2 ^ 64) :
    (takeCounters 1).run s = .ok (s.ctx.rngctr.toNat, s.modCtx (fun c => { c with rngctr := s.ctx.rngctr + 1 })) := by
  have next : word (s.ctx.rngctr.toNat + 1) = s.ctx.rngctr + 1 := by
    rw [word, BitVec.ofNat_add, BitVec.ofNat_toNat, BitVec.setWidth_eq]
    rfl
  unfold takeCounters
  rw [act_bind_ok (act_getCtx s)]
  dsimp only
  rw [next, act_bind_ok (act_unlessFault (by simp; omega) _ _ s), act_bind_ok (act_modCtx _ s)]
  rfl

/-- A stream at its last counter value is spent (R144). -/
theorem act_takeCounters_spent {s : State} (h : s.ctx.rngctr.toNat + 1 = 2 ^ 64) :
    (takeCounters 1).run s = .error (.trap { cause := cRNG_WRAP }) := by
  unfold takeCounters
  rw [act_bind_ok (act_getCtx s)]
  exact act_bind_error (act_unlessFault_false (by simp; omega) _ _ s) _

/-! ### The run of a vector entry -/

section
variable {i : Instr} {o : XOps} {e : XEntry} {h : Hd} {s : State} (hr : Claims.Runs i e s)
  (hp : (passFields o).run s = .ok (h, s)) {run : Hd → XEntry → Act Unit}
include hr hp

theorem vector_ended {s' : State} (hb : (run h e).run s = .ok ((), s')) :
    vector i o run s = .next (Claims.ended e s') :=
  xslot_ended hr ((act_bind_ok hp _).trans hb)

/-- A fault leaves the state of before the run (R258). -/
theorem vector_trap {t : Trap} (hb : (run h e).run s = .error (.trap t)) :
    vector i o run s = .next ((s.releaseHead e).takeTrapX e.pc t) :=
  xslotWith_trap hr ((act_bind_ok hp _).trans hb)

end

/-! ### Lane by lane -/

section
variable {i : Instr} {o : XOps} {f : Nat → Nat → Nat → Nat → Nat × Flags} {e : XEntry} {h : Hd} {s sa sb sc sd : State}
  {a b c : V256} {u : Nat → Nat} (hr : Claims.Runs i e s) (hp : (passFields o).run s = .ok (h, s))
  (ha : (laneSource o.g1 h.s1 e.s1 o.fmt1.width).run s = .ok (a, sa))
  (hb : (laneSource o.g2 h.s2 e.s2 o.fmt1.width).run sa = .ok (b, sb))
  (hc : (laneSource o.g3 h.s3 e.s3 o.fmt1.width).run sb = .ok (c, sc))
  (hu : (drawStep o.h.rm.toNat (laneCount o.fmt1.width) o.fmt1.width).run sc = .ok (u, sd))

/-- What each lane of three vectors gives: its code and its conditions. -/
def laneResults (f : Nat → Nat → Nat → Nat → Nat × Flags) (w : Nat) (u : Nat → Nat) (a b c : V256) :
    List (Nat × Flags) :=
  (List.range (laneCount w)).map (fun k => f (u k) (lane a w k) (lane b w k) (lane c w k))

include hr hp ha hb hc hu

theorem laneWise_ended {se : State} (hq : Claims.quiet o ((laneResults f o.fmt1.width u a b c).map (·.2)))
    (hw : (writeVector h.d (ofLanes o.fmt1.width ((laneResults f o.fmt1.width u a b c).map (·.1)))).run sd = .ok ((), se)) :
    laneWise i o f s = .next (Claims.ended e (se.modCtx (fun x =>
      { x with fflags := x.fflags ||| orFlags ((laneResults f o.fmt1.width u a b c).map (·.2)) }))) := by
  refine vector_ended hr hp ?_
  rw [act_bind_ok ha, act_bind_ok hb, act_bind_ok hc, act_bind_ok hu]
  exact (act_bind_ok (act_trapRequest hq sd) _).trans (act_bind_ok hw _)

theorem laneWise_trap {t : Trap}
    (ht : (trapRequest o.tz o.tv ((laneResults f o.fmt1.width u a b c).map (·.2))).run sd = .error (.trap t)) :
    laneWise i o f s = .next ((s.releaseHead e).takeTrapX e.pc t) := by
  refine vector_trap hr hp ?_
  rw [act_bind_ok ha, act_bind_ok hb, act_bind_ok hc, act_bind_ok hu]
  exact act_bind_error ht _

end

/-- The lower of two integer lanes (R197). -/
theorem vminLane_eq (f : Fmt) : vminLane f = fun _ a b _ => if f.isF then minmaxF f false a b
    else (if f.isSigned then (if sintOf f.width b < sintOf f.width a then b else a) else min a b, 0) := by
  funext _ a b _
  unfold vminLane laneLess
  cases f.isSigned
  · simp only [Bool.false_eq_true, decide_eq_true_eq, ↓reduceIte]
    rw [min_comm, min_def_lt]
  · simp only [decide_eq_true_eq, ↓reduceIte]

/-- The higher of two integer lanes (R197). -/
theorem vmaxLane_eq (f : Fmt) : vmaxLane f = fun _ a b _ => if f.isF then minmaxF f true a b
    else (if f.isSigned then (if sintOf f.width a < sintOf f.width b then b else a) else max a b, 0) := by
  funext _ a b _
  unfold vmaxLane laneLess
  cases f.isSigned
  · simp only [Bool.false_eq_true, decide_eq_true_eq, ↓reduceIte]
    rw [max_def_lt]
  · simp only [decide_eq_true_eq, ↓reduceIte]

/-- Each lane-wise instruction that may round is its lane function on every lane (R197, R198, R210). -/
theorem exec_lanes {i : Instr} {o : XOps} {f : Nat → Nat → Nat → Nat → Nat × Flags} (hi : Claims.lanes i = some (o, f))
    (s : State) : exec i s = laneWise i o f s := by
  unfold Claims.lanes at hi
  split at hi
  -- VMIN and VMAX compare by `laneLess`
  case h_4 => obtain ⟨rfl, rfl⟩ := hi; rw [← vminLane_eq]; rfl
  case h_5 => obtain ⟨rfl, rfl⟩ := hi; rw [← vmaxLane_eq]; rfl
  case h_22 => cases hi
  all_goals
    obtain ⟨rfl, rfl⟩ := hi
    rfl

end Sys2Proof.Machine

open Sys2Proof.Machine in
/-- Settles O32: each instruction is `laneWise` of its lane function (`exec_lanes`), which ends or traps by its conditions. -/
theorem vectorLanes : Obligations.VectorLanes := by
  unfold Obligations.VectorLanes
  intro i o f e h s sa sb sc sd a b c u hi hr hp w ha hb hc hu r
  rw [exec_lanes hi]
  refine ⟨fun se hq hw => laneWise_ended hr hp ha hb hc hu hq hw, fun hn => ?_⟩
  obtain ⟨cause, ht, hnv, hdz⟩ := act_trapRequest_stop hn sd
  exact ⟨cause, laneWise_trap hr hp ha hb hc hu ht, hnv, hdz⟩
end

section
/-! SUPPORT. The vector forms that compare, convert, reduce, clamp or draw (R148, R198 to R203, R209). -/

namespace Sys2Proof.Machine

/-! ### Comparison and conversion -/

/-- What VCMP finds of each pair of lanes: whether the condition holds, and what the comparison raises (R200). -/
def compareResults (o : XOps) (a b : V256) : List (Bool × Flags) :=
  (List.range (laneCount o.fmt1.width)).map (fun k =>
    vcmpLane o.fmt1 o.h.rm.toNat (lane a o.fmt1.width k) (lane b o.fmt1.width k))

/-- What VCVT makes of each element of a part: its code, its conditions, and whether it was clamped (R202). -/
def convertResults (o : XOps) (n part : Nat) (u : Nat → Nat) (a : V256) : List (Nat × Flags × Bool) :=
  (List.range n).map (fun k => vcvtElem o.fmt1 o.fmt2 o.h.rm.toNat (u k)
    (lane a o.fmt2.width (if o.fmt2.width < o.fmt1.width then part * n + k else k)))

section
variable {o : XOps} {e : XEntry} {h : Hd} {s sa sb t : State} {a b : V256} (hp : (passFields o).run s = .ok (h, s))
include hp

theorem exec_vcmp_ended (hr : Claims.Runs (.vcmp o) e s) (ha : (laneSource o.g1 h.s1 e.s1 o.fmt1.width).run s = .ok (a, sa))
    (hb : (laneSource o.g2 h.s2 e.s2 o.fmt1.width).run sa = .ok (b, sb))
    (hq : Claims.quiet o ((compareResults o a b).map (·.2)))
    (hw : (writeVector h.d (ofLanes o.fmt1.width ((compareResults o a b).map (fun x =>
      if x.1 then 2 ^ o.fmt1.width - 1 else 0)))).run sb = .ok ((), t)) :
    exec (.vcmp o) s = .next (Claims.ended e (t.modCtx (fun c =>
      { c with fflags := c.fflags ||| orFlags ((compareResults o a b).map (·.2)) }))) := by
  refine vector_ended hr hp ?_
  rw [act_bind_ok ha, act_bind_ok hb]
  exact (act_bind_ok (act_trapRequest hq sb) _).trans (act_bind_ok hw _)

/-- A part that the wider format does not have is refused (R202). -/
theorem exec_vcvt_refused (hr : Claims.Runs (.vcvt o) e s)
    (hpart : max o.fmt1.width o.fmt2.width / min o.fmt1.width o.fmt2.width ≤ e.s2.toNat) :
    exec (.vcvt o) s = .next ((s.releaseHead e).takeTrapX e.pc { cause := cILLEGAL_OPERAND, tval := some e.s2 }) :=
  vector_trap hr hp (act_bind_error (act_unlessFault_false (decide_eq_false hpart.not_gt) _ _ s) _)

theorem exec_vcvt_ended {u : Nat → Nat} (hr : Claims.Runs (.vcvt o) e s)
    (hpart : e.s2.toNat < max o.fmt1.width o.fmt2.width / min o.fmt1.width o.fmt2.width)
    (ha : (laneSource o.g1 h.s1 e.s1 o.fmt2.width).run s = .ok (a, sa)) {n : Nat}
    (hn : n = laneCount (max o.fmt1.width o.fmt2.width))
    (hu : (drawStep o.h.rm.toNat n o.fmt1.width).run sa = .ok (u, sb)) {r : List (Nat × Flags × Bool)}
    (hres : r = convertResults o n e.s2.toNat u a) (hq : Claims.quiet o (r.map (·.2.1)))
    (hw : (writeVector h.d (ofLanes o.fmt1.width (List.replicate (if o.fmt1.width < o.fmt2.width then e.s2.toNat * n else 0) 0 ++
      r.map (·.1)))).run sb = .ok ((), t)) :
    exec (.vcvt o) s = .next (Claims.ended e ((t.modCtx (fun c =>
      { c with fflags := c.fflags ||| orFlags (r.map (·.2.1)) })).modCtx (fun c =>
        { c with vsat := c.vsat || r.any (·.2.2) }))) := by
  subst hn hres
  refine vector_ended hr hp ?_
  rw [act_bind_ok (act_unlessFault (decide_eq_true hpart) _ _ s), act_bind_ok ha, act_bind_ok hu]
  exact (act_bind_ok (act_trapRequest hq sb) _).trans ((act_bind_ok hw _).trans (act_bind_ok (act_raiseFlags _ t) _))

/-! ### Reductions -/

/-- A reduction whose tree ends in one node writes its value to lane 0, with the conditions of that node (R148, R203). -/
theorem reduction_ended {i : Instr} {f : Nat → Nat → Nat → Nat × Flags} {x : Nat} {fl : List Flags}
    (hr : Claims.Runs i e s) (ha : (laneSource o.g1 h.s1 e.s1 o.fmt1.width).run s = .ok (a, sa))
    (htree : (reduceTree o.h.rm.toNat o.fmt1.width f 5 ((List.range (laneCount o.fmt1.width)).map (fun k =>
      (lane a o.fmt1.width k, [0])))).run sa = .ok ([(x, fl)], sb))
    (hq : Claims.quiet o fl) (hw : (writeVector h.d (ofLanes o.fmt1.width [x])).run sb = .ok ((), t)) :
    reduction i o f s = .next (Claims.ended e (t.modCtx (fun c => { c with fflags := c.fflags ||| orFlags fl }))) := by
  refine vector_ended hr hp ?_
  rw [act_bind_ok ha, act_bind_ok htree]
  exact (act_bind_ok (act_trapRequest hq sb) _).trans (act_bind_ok hw _)

/-! ### Saturating forms -/

/-- A saturating form sets VSAT when a lane clamped (R198, R199). -/
theorem saturating_ended {i : Instr} {g : Int → Int → Int} (hr : Claims.Runs i e s)
    (ha : (laneSource o.g1 h.s1 e.s1 o.fmt1.width).run s = .ok (a, sa))
    (hb : (laneSource o.g2 h.s2 e.s2 o.fmt1.width).run sa = .ok (b, sb)) {r : List (Nat × Bool)}
    (hres : r = (List.range (laneCount o.fmt1.width)).map (fun k =>
      clampInt o.fmt1 (g (laneInt o.fmt1 (lane a o.fmt1.width k)) (laneInt o.fmt1 (lane b o.fmt1.width k)))))
    (hw : (writeVector h.d (ofLanes o.fmt1.width (r.map (·.1)))).run sb = .ok ((), t)) :
    saturating i o g s = .next (Claims.ended e (t.modCtx (fun c => { c with vsat := c.vsat || r.any (·.2) }))) := by
  subst hres
  refine vector_ended hr hp ?_
  rw [act_bind_ok ha, act_bind_ok hb]
  exact act_bind_ok hw _

/-! ### Random draws -/

/-- VRAND writes the lanes of the block at the counter, which moves on by one (R209). -/
theorem exec_vrand_ended {sc : State} (hr : Claims.Runs (.vrand o) e s) (hctr : s.ctx.rngctr.toNat + 1 < 2 ^ 64)
    (hsc : sc = s.modCtx (fun c => { c with rngctr := s.ctx.rngctr + 1 }))
    (hw : (writeVector h.d (randLanes o.fmt1 (randBlock s.ctx.rngctr.toNat (sc.effSeed sc.ctx.rcb) sc.here.lcore
      sc.ctx.rngstr.toNat))).run sc = .ok ((), t)) : exec (.vrand o) s = .next (Claims.ended e t) := by
  subst hsc
  refine vector_ended hr hp ?_
  rw [act_bind_ok (act_takeCounters_one hctr), act_bind_ok (act_get _)]
  exact hw

theorem exec_vrand_spent (hr : Claims.Runs (.vrand o) e s) (hctr : s.ctx.rngctr.toNat + 1 = 2 ^ 64) :
    exec (.vrand o) s = .next ((s.releaseHead e).takeTrapX e.pc { cause := cRNG_WRAP }) :=
  vector_trap hr hp (act_bind_error (act_takeCounters_spent hctr) _)

end

end Sys2Proof.Machine

open Sys2Proof.Machine in
/-- Settles O34: each form has its own lemma, and the three reductions and the two saturating forms one each. -/
theorem vectorConversions : Obligations.VectorConversions := by
  unfold Obligations.VectorConversions
  intro o e h s sa sb sc t a b u hp
  refine ⟨exec_vcmp_ended hp,
    fun hr => ⟨exec_vcvt_refused hp hr, fun hpart ha hu => exec_vcvt_ended hp hr hpart ha rfl hu rfl⟩,
    ?reductions, ?saturating, exec_vrand_ended hp, exec_vrand_spent hp⟩
  case reductions =>
    intro i f hi x fl hr ha htree hq hw
    have ended := reduction_ended hp hr ha htree hq hw
    rcases hi with ⟨rfl, rfl⟩ | ⟨rfl, rfl⟩ | ⟨rfl, rfl⟩ <;> exact ended
  case saturating =>
    intro i g hi r hr ha hb hw
    have ended := saturating_ended hp hr ha hb rfl hw
    rcases hi with ⟨rfl, rfl⟩ | ⟨rfl, rfl⟩ <;> exact ended
end

section
/-! SUPPORT. What a matrix entry writes when it completes (R145, R146, R153, R217 to R226). -/

namespace Sys2Proof.Machine

/-! ### The completion of a started entry -/

/-- A started entry that nothing holds back writes its results and leaves (R213, R217). -/
theorem exec_matrixEntryComplete {e : XEntry} {s t v : State} {core fc : Nat} (ht : t = s.at core fc true)
    (hc : Claims.Completes e t) (hw : t.resultWaits e = false) (hi : completesAlone e.i = true)
    (hv : (matrixResult e).run t = .ok ((), v)) :
    exec (.matrixEntryComplete core fc) s = .next (Claims.left e v) := by
  subst ht
  have done : (s.at core fc true).ctx.matrixDone = true := by
    unfold Ctx.matrixDone
    rw [hc.busy, hc.head]
    exact hi
  show execMatrixEntryComplete core fc s = _
  unfold execMatrixEntryComplete
  simp only [done, hc.head, hw, hv, Bool.false_eq_true, ↓reduceIte]
  rfl

/-! ### Accumulators -/

theorem act_writeAccumulator (k cols : Nat) (r : List (Nat × Flags)) (s : State) :
    (writeAccumulator k cols r).run s = .ok ((), Claims.accumulated s k cols r) := rfl

/-- A list made of the first numbers, numbered again. -/
theorem map_zipIdx_map_range {α β : Type} (n : Nat) (f : Nat → α) (g : α × Nat → β) :
    (((List.range n).map f).zipIdx).map g = (List.range n).map (fun k => g (f k, k)) := by
  apply List.ext_getElem <;> simp

/-- The narrow products element by element, in row-major order (R145). -/
theorem exactProduct_eq (rm : Nat) (u : Nat → Nat) (a b : List (List FV)) (z : Nat → Nat → Nat) :
    exactProduct rm u a b z = (List.range 2048).map (fun n => roundSum .f32 rm (u n)
      ((decodeF .f32 (z (n / 64) (n % 64))).term :: List.zipWith mulFV (a.getD (n / 64) []) (b.getD (n % 64) []))) :=
  map_zipIdx_map_range 2048 _ _

/-! ### The results of the products -/

section
variable {h : Hd} {f : Fmt} {half : Nat} {scales : List Nat} {t v : State} {a b : Tile}
  (ha : tfind t.here.tiles h.s1.index = some a) (hb : tfind t.here.tiles h.s2.index = some b)
include ha hb

theorem act_product_narrow {u : Nat → Nat} (h32 : f ≠ .f32) (h64 : f ≠ .f64)
    (hu : (drawStep h.rm.toNat 2048 32).run t = .ok (u, v)) :
    (product h f half scales).run t = .ok ((), Claims.accumulated v h.d.index 64 (exactProduct h.rm.toNat u
      (lineValues t t.core a f scales 32 0) (lineValues t t.core b f (scales.drop 32) 64 0) (t.readZ t.core h.d.index))) := by
  unfold product
  rw [act_bind_ok (act_get t)]
  simp only [ha, hb, h32, h64, or_self, ↓reduceIte]
  exact act_bind_ok hu _

theorem act_product_wide {r : List (Nat × Flags)} {cols : Nat} (hf : f = .f32 ∧ half = 0 ∨ f = .f64)
    (hcols : cols = if f = .f64 then 32 else 64)
    (hr : (fusedProduct f h.rm.toNat cols (lineValues t t.core a f scales 32 0)
      (lineValues t t.core b f (scales.drop 32) cols (32 * half)) 32 0
      ((rowMajor 32 cols).map (fun p => (t.readZ t.core h.d.index p.1 p.2, 0)))).run t = .ok (r, v)) :
    (product h f half scales).run t = .ok ((), Claims.accumulated v h.d.index cols r) := by
  subst hcols
  unfold product
  rw [act_bind_ok (act_get t)]
  rcases hf with ⟨rfl, rfl⟩ | rfl
  · simp only [ha, hb, true_or, reduceCtorEq, ↓reduceIte]
    exact act_bind_ok hr _
  · simp only [ha, hb, or_true, ↓reduceIte]
    exact act_bind_ok hr _

end

/-! ### The result of MXPOSE -/

@[simp] theorem writeTileLine_core (s : State) (core : Nat) (t : Tile) (r e x : Nat) :
    (s.writeTileLine core t r e x).core = s.core := by
  unfold State.writeTileLine
  split <;> rfl

@[simp] theorem writeTile_core (s : State) (core : Nat) (t : Tile) (r c x : Nat) :
    (s.writeTile core t r c x).core = s.core := by
  unfold State.writeTile
  split <;> simp

/-- Writes to a tile of the current core are all to the core they began with. -/
theorem foldl_writeTile_core {α : Type} (d : Tile) (row col val : α → Nat) (l : List α) (s : State) :
    l.foldl (fun s x => s.writeTile s.core d (row x) (col x) (val x)) s =
      l.foldl (fun s' x => s'.writeTile s.core d (row x) (col x) (val x)) s := by
  induction l generalizing s with
  | nil => simp only [List.foldl_nil]
  | cons x xs ih =>
    simp only [List.foldl_cons]
    rw [ih, writeTile_core]

/-- Element (j, i) of the source goes to element (i, j) of the destination, which then is READY (R225). -/
theorem act_transposeTile {h : Hd} {t : State} {a b : Tile} (ha : tfind t.here.tiles h.s1.index = some a)
    (hb : tfind t.here.tiles h.d.index = some b) :
    (transposeTile h).run t = .ok ((), (((List.range 1024).map (fun n =>
      (n / 32, n % 32, t.readTile t.core a (n % 32) (n / 32)))).foldl
        (fun s x => s.writeTile t.core b x.1 x.2.1 x.2.2) t).modHere
          (·.setTile h.d.index (fun t => { t with state := .ready }))) := by
  have square : rowMajor 32 32 = (List.range 1024).map (fun n => (n / 32, n % 32)) := rfl
  unfold transposeTile
  rw [act_bind_ok (act_get t)]
  simp only [ha, hb]
  rw [act_modify]
  simp only [square, List.map_map, List.foldl_map, Function.comp_apply, foldl_writeTile_core]

/-! ### The results of each form, outside a loop -/

section
variable {o : TOps} {e : XEntry} {t : State} (hflat : t.ctx.inLoop = false)
include hflat

theorem act_matrixResult_mma (hi : e.i = .mma o ∨ e.i = .mmaS o) :
    (matrixResult e).run t = (product o.h o.fmt1 0 e.scales).run t := by
  unfold matrixResult
  rw [act_bind_ok (act_getCtx t)]
  rcases hi with hi | hi <;> simp only [hi, passHd_flat hflat]

theorem act_matrixResult_dmma (hi : e.i = .dmma o) :
    (matrixResult e).run t = (product o.h .f64 (if o.opt.getLsbD 0 then 1 else 0) []).run t := by
  unfold matrixResult
  rw [act_bind_ok (act_getCtx t)]
  simp only [hi, passHd_flat hflat]
  rfl

theorem act_matrixResult_mscale (hi : e.i = .mscale o) :
    (matrixResult e).run t = (scaleAccumulator o o.h e).run t := by
  unfold matrixResult
  rw [act_bind_ok (act_getCtx t)]
  simp only [hi, passHd_flat hflat]

theorem act_matrixResult_mcvt (hi : e.i = .mcvt o) : (matrixResult e).run t = (convertAccumulator o o.h).run t := by
  unfold matrixResult
  rw [act_bind_ok (act_getCtx t)]
  simp only [hi, passHd_flat hflat]

/-- MZERO writes zeros, and clears the accumulator's entry of ZFLAGS (R221). -/
theorem act_matrixResult_mzero (hi : e.i = .mzero o) {cols : Nat} (hcols : cols = if t.here.vwz.shape = 0 then 64 else 32) :
    (matrixResult e).run t = .ok ((), (Claims.accumulated t o.h.d.index cols
      (List.replicate (32 * cols) (0, 0))).modHere (·.setZEntry o.h.d.index 0)) := by
  have zeros : (rowMajor 32 cols).map (fun _ => ((0, 0) : Nat × Flags)) = List.replicate (32 * cols) (0, 0) := by
    simp [rowMajor, Function.comp_def, List.map_const']
  subst hcols
  unfold matrixResult
  rw [act_bind_ok (act_getCtx t)]
  simp only [hi, passHd_flat hflat]
  rw [act_bind_ok (act_getCore t), zeros]
  exact act_bind_ok (act_writeAccumulator ..) _

/-- MFLAGS pushes the entry of ZFLAGS when asked, and clears the bits of its mask in it (R222). -/
theorem act_matrixResult_mflags (hi : e.i = .mflags o) (hroom : t.ctx.q1.length < 16) {old : Nat}
    (hold : old = t.here.zEntry o.h.d.index) :
    (matrixResult e).run t = .ok ((), (if o.opt.getLsbD 0 then t.modCtx (fun c => { c with q1 := c.q1 ++ [BitVec.ofNat 256 old] })
      else t).modHere (·.setZEntry o.h.d.index (Nat.land old (15 - o.w.toNat % 16)))) := by
  subst hold
  unfold matrixResult
  rw [act_bind_ok (act_getCtx t)]
  simp only [hi, passHd_flat hflat]
  rw [act_bind_ok (act_getCore t)]
  cases o.opt.getLsbD 0 with
  | false => exact act_modCore _ t
  | true => exact (act_bind_ok (act_pushX_q1 hroom _) _).trans (act_modCore _ _)

theorem act_matrixResult_mxpose (hi : e.i = .mxpose o) : (matrixResult e).run t = (transposeTile o.h).run t := by
  unfold matrixResult
  rw [act_bind_ok (act_getCtx t)]
  simp only [hi, passHd_flat hflat]

end

end Sys2Proof.Machine

open Sys2Proof.Machine in
/-- Settles O36: an entry that completes writes its form's result (`exec_matrixEntryComplete`), which
has a lemma for each form. -/
theorem matrixComplete : Obligations.MatrixComplete := by
  unfold Obligations.MatrixComplete
  intro o e s t core fc a b u v ht hc hw k complete
  have written {v : State} := exec_matrixEntryComplete (v := v) ht hc hw
  refine ⟨?narrow, ?wide, ?mscale, ?mzero, ?mflags, ?mcvt, ?mxpose⟩
  case narrow =>
    intro hi h32 h64 ha hb hu A B
    refine written ?_ ?_
    · rcases hi with hi | hi <;> rw [hi] <;> rfl
    · rw [act_matrixResult_mma hc.flat hi, act_product_narrow ha hb h32 h64 hu, exactProduct_eq]
  case wide =>
    intro f half r hi ha hb cols hr
    refine written ?_ ?_
    · rcases hi with ⟨hi | hi, _⟩ | ⟨hi, _⟩ <;> rw [hi] <;> rfl
    · rcases hi with ⟨hi, hf, rfl, h32⟩ | ⟨hi, rfl, rfl⟩
      · subst h32
        rw [act_matrixResult_mma hc.flat hi, ← hf]
        exact act_product_wide ha hb (.inl ⟨rfl, rfl⟩) rfl hr
      · rw [act_matrixResult_dmma hc.flat hi]
        exact act_product_wide ha hb (.inr rfl) rfl hr
  case mscale =>
    intro hi hv
    exact written (by rw [hi]; rfl) ((act_matrixResult_mscale hc.flat hi).trans hv)
  case mzero =>
    intro hi
    exact written (by rw [hi]; rfl) (act_matrixResult_mzero hc.flat hi rfl)
  case mflags =>
    intro hi hroom old pushed
    exact written (by rw [hi]; rfl) (act_matrixResult_mflags hc.flat hi hroom rfl)
  case mcvt =>
    intro hi hv
    exact written (by rw [hi]; rfl) ((act_matrixResult_mcvt hc.flat hi).trans hv)
  case mxpose =>
    intro hi ha hb
    exact written (by rw [hi]; rfl) ((act_matrixResult_mxpose hc.flat hi).trans (act_transposeTile ha hb))
end

section
/-! SUPPORT. The vector forms that select, permute or move lanes: none rounds and none raises (R129, R197, R198, R201, R204
to R208). -/

namespace Sys2Proof.Machine

/-! ### The acts of a lane move -/

/-- A result goes to its g register at once when no loop holds it back for the last pass (R191). -/
theorem act_writeResult_flat {s : State} (hflat : s.ctx.inLoop = false) (r : Reg) (v : Word) :
    (writeResult r v).run s = .ok ((), s.modCtx (·.wg r.index v)) := by
  have last : s.ctx.lastPass = true := by
    unfold Ctx.inLoop at hflat
    unfold Ctx.lastPass
    split at hflat
    · cases hflat
    · rfl
  unfold writeResult
  rw [act_bind_ok (act_getCtx s), if_pos last]
  exact act_writeD r v s

theorem act_halfOf {x : Word} (hx : x.toNat ≤ 1) (s : State) : (halfOf x).run s = .ok (x.toNat, s) :=
  act_bind_ok (act_unlessFault (decide_eq_true hx) _ _ s) _

/-- A selector that names neither half is refused (R206). -/
theorem act_halfOf_refused {x : Word} (hx : 1 < x.toNat) (s : State) :
    (halfOf x).run s = .error (.trap { cause := cILLEGAL_OPERAND, tval := some x }) :=
  act_bind_error (act_unlessFault_false (decide_eq_false hx.not_ge) _ _ s) _

/-! ### What the forms of two vectors run -/

/-- The run of an entry that reads two sources in lanes of w bits and writes a function of them. -/
def pairRun (o : XOps) (w : Nat) (f : XEntry → Hd → V256 → V256 → V256) (h : Hd) (e : XEntry) : Act Unit := do
  let a ← laneSource o.g1 h.s1 e.s1 w
  let b ← laneSource o.g2 h.s2 e.s2 w
  writeVector h.d (f e h a b)

theorem act_pairRun {o : XOps} {w : Nat} {f : XEntry → Hd → V256 → V256 → V256} {e : XEntry} {h : Hd}
    {s sa sb t : State} {a b : V256}
    (ha : (laneSource o.g1 h.s1 e.s1 w).run s = .ok (a, sa)) (hb : (laneSource o.g2 h.s2 e.s2 w).run sa = .ok (b, sb))
    (hw : (writeVector h.d (f e h a b)).run sb = .ok ((), t)) : (pairRun o w f h e).run s = .ok ((), t) := by
  unfold pairRun
  rw [act_bind_ok ha, act_bind_ok hb]
  exact hw

/-- The same under a selector of 0 or 1, which is checked before the sources are read (R206). -/
def halvesRun (o : XOps) (f : Nat → V256 → V256 → V256) (h : Hd) (e : XEntry) : Act Unit := do
  let x ← halfOf e.s3
  pairRun o o.fmt1.width (fun _ _ => f x) h e

/-- VZIP alternates the lanes of half x of a and of b (R206). -/
def zipLanes (w x : Nat) (a b : V256) : V256 :=
  ofLanes w ((List.range (laneCount w)).map (fun k =>
    lane (if k % 2 = 0 then a else b) w (x * (laneCount w / 2) + k / 2)))

/-- VUNZIP takes the even lanes or the odd ones of a, then of b (R206). -/
def unzipLanes (w x : Nat) (a b : V256) : V256 :=
  ofLanes w ((List.range (laneCount w)).map (fun k =>
    lane (if k < laneCount w / 2 then a else b) w (2 * (k % (laneCount w / 2)) + x)))

theorem exec_vzip (o : XOps) (s : State) :
    exec (.vzip o) s = vector (.vzip o) o (halvesRun o (zipLanes o.fmt1.width)) s := rfl

theorem exec_vunzip (o : XOps) (s : State) :
    exec (.vunzip o) s = vector (.vunzip o) o (halvesRun o (unzipLanes o.fmt1.width)) s := rfl

/-- The count of a shift is a lane when the source is no scalar (R192, R204). -/
theorem laneShift_eq (i : Instr) (o : XOps) (f : Nat → Nat → Nat) (s : State) :
    laneShift i o f s = vector i o (pairRun o o.fmt1.width (Claims.pairs.shifted o f)) s := by
  unfold laneShift
  simp only [Bool.not_eq_true', ← Bool.not_eq_true, ite_not]
  rfl

/-- VPERM takes its indices from the lanes of its second source (R205). -/
theorem execVperm_eq (o : XOps) (s : State) :
    execVperm o s = vector (.vperm o) o (pairRun o o.fmt1.width (fun _ _ a b =>
      ofLanes o.fmt1.width ((List.range (laneCount o.fmt1.width)).map (fun k =>
        if lane b o.fmt1.width k < laneCount o.fmt1.width then lane a o.fmt1.width (lane b o.fmt1.width k) else 0)))) s := by
  unfold execVperm lanesOf
  simp only [List.map_map, Function.comp_def]
  rfl

/-- Each form of two vectors is its function on them (R204 to R206). -/
theorem exec_pairs {i : Instr} {o : XOps} {w : Nat} {f : XEntry → Hd → V256 → V256 → V256}
    (hi : Claims.pairs i = some (o, w, f)) (s : State) : exec i s = vector i o (pairRun o w f) s := by
  unfold Claims.pairs at hi
  split at hi
  -- VSHL, VSHR and VSRA, whose count may be a scalar
  case h_5 | h_6 | h_7 => obtain ⟨rfl, rfl, rfl⟩ := hi; exact laneShift_eq ..
  -- VPERM
  case h_8 => obtain ⟨rfl, rfl, rfl⟩ := hi; exact execVperm_eq ..
  case h_10 => cases hi
  all_goals
    obtain ⟨rfl, rfl, rfl⟩ := hi
    rfl

/-- Each lane-wise form that neither rounds nor raises is its lane function on every lane (R129, R197, R198, R201). -/
theorem exec_maps {i : Instr} {o : XOps} {f : Nat → Nat → Nat → Nat} (hi : Claims.maps i = some (o, f)) (s : State) :
    exec i s = laneMap i o f s := by
  unfold Claims.maps at hi
  split at hi
  case h_6 => cases hi
  all_goals
    obtain ⟨rfl, rfl⟩ := hi
    rfl

section
variable {i : Instr} {o : XOps} {e : XEntry} {h : Hd} {s sa sb sc t : State} {a b c : V256}
  (hp : (passFields o).run s = .ok (h, s))
include hp

/-! ### Lane-wise forms and forms of two vectors -/

theorem laneMap_ended {f : Nat → Nat → Nat → Nat} (hr : Claims.Runs i e s)
    (ha : (laneSource o.g1 h.s1 e.s1 o.fmt1.width).run s = .ok (a, sa))
    (hb : (laneSource o.g2 h.s2 e.s2 o.fmt1.width).run sa = .ok (b, sb))
    (hc : (laneSource o.g3 h.s3 e.s3 o.fmt1.width).run sb = .ok (c, sc))
    (hw : (writeVector h.d (ofLanes o.fmt1.width ((List.range (laneCount o.fmt1.width)).map (fun k =>
      f (lane a o.fmt1.width k) (lane b o.fmt1.width k) (lane c o.fmt1.width k))))).run sc = .ok ((), t)) :
    laneMap i o f s = .next (Claims.ended e t) := by
  refine vector_ended hr hp ?_
  rw [act_bind_ok ha, act_bind_ok hb, act_bind_ok hc]
  exact hw

theorem halves_ended {f : Nat → V256 → V256 → V256} (hr : Claims.Runs i e s) (hx : e.s3.toNat ≤ 1)
    (ha : (laneSource o.g1 h.s1 e.s1 o.fmt1.width).run s = .ok (a, sa))
    (hb : (laneSource o.g2 h.s2 e.s2 o.fmt1.width).run sa = .ok (b, sb))
    (hw : (writeVector h.d (f e.s3.toNat a b)).run sb = .ok ((), t)) :
    vector i o (halvesRun o f) s = .next (Claims.ended e t) :=
  vector_ended hr hp ((act_bind_ok (act_halfOf hx s) _).trans (act_pairRun ha hb hw))

theorem halves_refused {f : Nat → V256 → V256 → V256} (hr : Claims.Runs i e s) (hx : 1 < e.s3.toNat) :
    vector i o (halvesRun o f) s =
      .next ((s.releaseHead e).takeTrapX e.pc { cause := cILLEGAL_OPERAND, tval := some e.s3 }) :=
  vector_trap hr hp (act_bind_error (act_halfOf_refused hx s) _)

/-! ### Broadcast, rotation and copy -/

theorem exec_vbcast_lane (hr : Claims.Runs (.vbcast o) e s)
    (ha : (laneSource o.g1 h.s1 e.s1 o.fmt1.width).run s = .ok (a, sa)) (hv : h.s1.isV = true ∨ h.s1.isQ = true)
    (hk : e.s2.toNat < laneCount o.fmt1.width)
    (hw : (writeVector h.d (ofLanes o.fmt1.width (List.replicate (laneCount o.fmt1.width)
      (lane a o.fmt1.width e.s2.toNat)))).run sa = .ok ((), t)) :
    exec (.vbcast o) s = .next (Claims.ended e t) := by
  refine vector_ended hr hp ?_
  rw [act_bind_ok ha, if_pos (Bool.or_eq_true _ _ ▸ hv), act_bind_ok (act_unlessFault (decide_eq_true hk) _ _ sa)]
  exact hw

/-- A lane that the vector does not have is refused, with no stated TVAL (R205). -/
theorem exec_vbcast_refused (hr : Claims.Runs (.vbcast o) e s)
    (ha : (laneSource o.g1 h.s1 e.s1 o.fmt1.width).run s = .ok (a, sa)) (hv : h.s1.isV = true ∨ h.s1.isQ = true)
    (hk : laneCount o.fmt1.width ≤ e.s2.toNat) :
    exec (.vbcast o) s = .next ((s.releaseHead e).takeTrapX e.pc { cause := cILLEGAL_OPERAND }) := by
  refine vector_trap hr hp ?_
  rw [act_bind_ok ha, if_pos (Bool.or_eq_true _ _ ▸ hv)]
  exact act_bind_error (act_unlessFault_false (decide_eq_false hk.not_gt) _ _ sa) _

theorem exec_vbcast_scalar (hr : Claims.Runs (.vbcast o) e s)
    (ha : (laneSource o.g1 h.s1 e.s1 o.fmt1.width).run s = .ok (a, sa)) (hv : h.s1.isV = false) (hq : h.s1.isQ = false)
    (hw : (writeVector h.d a).run sa = .ok ((), t)) : exec (.vbcast o) s = .next (Claims.ended e t) := by
  have scalar : ¬ (h.s1.isV || h.s1.isQ) = true := by simp [hv, hq]
  refine vector_ended hr hp ?_
  rw [act_bind_ok ha, if_neg scalar]
  exact hw

theorem exec_vrot_ended (hr : Claims.Runs (.vrot o) e s)
    (ha : (laneSource o.g1 h.s1 e.s1 o.fmt1.width).run s = .ok (a, sa))
    (hw : (writeVector h.d (ofLanes o.fmt1.width ((List.range (laneCount o.fmt1.width)).map (fun j =>
      lane a o.fmt1.width ((j + e.s2.toNat) % laneCount o.fmt1.width))))).run sa = .ok ((), t)) :
    exec (.vrot o) s = .next (Claims.ended e t) :=
  vector_ended hr hp ((act_bind_ok ha _).trans hw)

theorem exec_vmov_ended (hr : Claims.Runs (.vmov o) e s) (ha : (laneSource o.g1 h.s1 e.s1 64).run s = .ok (a, sa))
    (hw : (writeVector h.d a).run sa = .ok ((), t)) : exec (.vmov o) s = .next (Claims.ended e t) :=
  vector_ended hr hp ((act_bind_ok ha _).trans hw)

/-! ### One lane, and the sign bits -/

/-- VINS reads its destination first, which keeps its other lanes (R207). -/
theorem exec_vins_ended (hr : Claims.Runs (.vins o) e s) (hk : e.s2.toNat < laneCount o.fmt1.width)
    (hb : s.bad (regSpaceKey s.core (s.here.vOff h.d.index)) 32 = false)
    (hw : (writeVector h.d (BitVec.ofNat 256 (putBits (s.readV s.core h.d.index).toNat (o.fmt1.width * e.s2.toNat)
      o.fmt1.width (e.s1.toNat % 2 ^ o.fmt1.width)))).run s = .ok ((), t)) :
    exec (.vins o) s = .next (Claims.ended e t) := by
  have old : (readVector 0 h.d.index).run s = .ok (s.readV s.core h.d.index, s) := act_readVector (.inl rfl) hb
  refine vector_ended hr hp ?_
  rw [act_bind_ok (act_unlessFault (decide_eq_true hk) _ _ s), act_bind_ok old]
  exact hw

theorem exec_vext_ended (hr : Claims.Runs (.vext o) e s) (hk : e.s2.toNat < laneCount o.fmt1.width)
    (ha : (laneSource o.g1 h.s1 e.s1 o.fmt1.width).run s = .ok (a, sa)) (hflat : sa.ctx.inLoop = false) :
    exec (.vext o) s = .next (Claims.ended e (sa.modCtx (·.wg h.d.index
      (BitVec.ofInt 64 (laneInt o.fmt1 (lane a o.fmt1.width e.s2.toNat)))))) := by
  refine vector_ended hr hp ?_
  rw [act_bind_ok (act_unlessFault (decide_eq_true hk) _ _ s), act_bind_ok ha, word_wrapInt]
  exact act_writeResult_flat hflat _ _

/-- A lane that the vector does not have is refused by VINS and VEXT, with the index as TVAL (R207). -/
theorem exec_lane_refused (hi : i = .vins o ∨ i = .vext o) (hr : Claims.Runs i e s)
    (hk : laneCount o.fmt1.width ≤ e.s2.toNat) :
    exec i s = .next ((s.releaseHead e).takeTrapX e.pc { cause := cILLEGAL_OPERAND, tval := some e.s2 }) := by
  have outside := act_unlessFault_false (decide_eq_false hk.not_gt) cILLEGAL_OPERAND (some e.s2) s
  rcases hi with rfl | rfl <;> exact vector_trap hr hp (act_bind_error outside _)

theorem exec_vsign_ended (hr : Claims.Runs (.vsign o) e s)
    (ha : (laneSource o.g1 h.s1 e.s1 o.fmt1.width).run s = .ok (a, sa)) (hflat : sa.ctx.inLoop = false) :
    exec (.vsign o) s = .next (Claims.ended e (sa.modCtx (·.wg h.d.index (BitVec.ofNat 64 (packLanes 1
      ((List.range (laneCount o.fmt1.width)).map (fun j => lane a o.fmt1.width j / 2 ^ (o.fmt1.width - 1)))))))) := by
  have signs : (lanesOf a o.fmt1.width).map (fun x => x / 2 ^ (o.fmt1.width - 1)) =
      (List.range (laneCount o.fmt1.width)).map (fun j => lane a o.fmt1.width j / 2 ^ (o.fmt1.width - 1)) := List.map_map
  refine vector_ended hr hp ?_
  rw [act_bind_ok ha, signs]
  exact act_writeResult_flat hflat _ _

end

end Sys2Proof.Machine

open Sys2Proof.Machine in
/-- Settles O33: the lane-wise forms and the forms of two vectors are one family each (`exec_maps`, `exec_pairs`), as VZIP
and VUNZIP are by their selector; each of the others has its own lemma. -/
theorem vectorMoves : Obligations.VectorMoves := by
  unfold Obligations.VectorMoves
  intro e h s sa sb sc t a b c
  refine ⟨?maps, ?pairs, ?halves, fun o hp => ⟨?vbcast, exec_vrot_ended hp, exec_vmov_ended hp, ?vins, ?vext,
    exec_vsign_ended hp⟩⟩
  case maps =>
    intro i o f hi hr hp w ha hb hc hw
    exact (exec_maps hi s).trans (laneMap_ended hp hr ha hb hc hw)
  case pairs =>
    intro i o w f hi hr hp ha hb hw
    exact (exec_pairs hi s).trans (vector_ended hr hp (act_pairRun ha hb hw))
  case halves =>
    intro i o hi hr hp w n
    rcases hi with rfl | rfl
    · rw [exec_vzip]
      refine ⟨halves_refused hp hr, fun hx ha hb hw => halves_ended hp hr hx ha hb ?_⟩
      simp only [↓reduceIte] at hw
      exact hw
    · rw [exec_vunzip]
      refine ⟨halves_refused hp hr, fun hx ha hb hw => halves_ended hp hr hx ha hb ?_⟩
      simp only [reduceCtorEq, ↓reduceIte] at hw
      exact hw
  case vbcast =>
    exact fun hr ha => ⟨exec_vbcast_lane hp hr ha, exec_vbcast_refused hp hr ha, exec_vbcast_scalar hp hr ha⟩
  case vins => exact fun hr => ⟨hr.same ▸ exec_lane_refused hp (.inl rfl) hr, exec_vins_ended hp hr⟩
  case vext => exact fun hr _ => ⟨hr.same ▸ exec_lane_refused hp (.inr rfl) hr, exec_vext_ended hp hr⟩
end

section
/-! SUPPORT. The tile transfers of a core and the wake of its MDRAIN (R119, R223, R224). -/

namespace Sys2Proof.Machine

/-! ### Contexts that a change of a tile leaves alone -/

theorem Core.setTile_ctx (c : Core) (n : Nat) (f : Tile → Tile) : (c.setTile n f).ctx = c.ctx := by
  unfold Core.setTile
  split <;> rfl

theorem ctx_modHere_setTile (s : State) (n : Nat) (f : Tile → Tile) : (s.modHere (·.setTile n f)).ctx = s.ctx := by
  rw [State.ctx_modHere]
  unfold Core.ctxAt
  simp only [Core.setTile_ctx]
  rfl

/-! ### MLOAD and MSTORE as they start -/

section
variable {o : TOps} {e : XEntry} {s s1 : State} {t : Tile} {rows : List (List Part)}

theorem exec_mload_ended (h : Claims.Runs (.mload o) e s) (hflat : s.ctx.inLoop = false)
    (ht : tfind s.here.tiles o.h.d.index = some t) (hm : s.here.tileMoving t = false)
    (ha : (afterAccesses e.seq).run s = .ok ((), s))
    (hrows : (allRows .r e.s1.toNat e.s2 t.memRow 32 0).run s = .ok (rows, s1)) (hf : Claims.free s1 [] t.span)
    (hd : Claims.Takes s1 (some (s1.fc % 4)) o.h.d.index t e.seq) :
    exec (.mload o) s = .next (Claims.ended e ((Claims.filling s1 o.h.d.index).modHere (fun c => { c with
      fills := c.fills ++ [⟨e.seq, o.h.d.index, s1.fc % 4, s1.ctx.rcb, rows.flatten, s1.ctx.cts⟩] }))) := by
  have kept : (Claims.filling s1 o.h.d.index).ctx = s1.ctx := ctx_modHere_setTile _ _ _
  refine xslot_ended h ?_
  rw [act_bind_ok (act_getCtx s)]
  simp only [passHd_flat hflat]
  rw [act_bind_ok (act_needTile ht hm), act_bind_ok ha, act_bind_ok hrows, act_bind_ok (act_free hf),
    act_bind_ok (act_takeFor hd), act_modify, kept]
  rfl

theorem exec_mstore_started (h : Claims.Starts (.mstore o) e s) (ht : tfind s.here.tiles o.h.s3.index = some t)
    (hm : s.here.tileMoving t = false) (ha : (afterAccesses e.seq).run s = .ok ((), s))
    (hrows : (allRows .w e.s1.toNat e.s2 t.memRow 32 0).run s = .ok (rows, s1)) (hhead : s1.ctx.xhead = some e)
    (hready : t.state = .ready) (hf : Claims.free s1 t.span []) (hb : s1.tileBad o.h.s3.index = false) :
    exec (.mstore o) s = .next (Claims.started ((e.taken.zip rows).foldl (fun s p => s.postRow t p.1 p.2)
      (s1.modHere (·.setTile o.h.s3.index (fun t => { t with state := .draining }))))) := by
  refine matrixEntry_started h.toRuns ?_
  rw [act_bind_ok (act_getCtx s)]
  simp only [passHd_flat h.flat]
  rw [act_bind_ok (act_passPrep_flat h.flat h.head (fun _ => h.kept) _), act_bind_ok (act_needTile ht hm), act_bind_ok ha,
    act_bind_ok hrows, act_bind_ok (act_waitUntil (by simp [hready]) _ _ _), act_bind_ok (act_free hf),
    act_bind_ok (act_tileSound hb), act_bind_ok (act_modCore _ _), act_bind_ok (act_getCtx _), ctx_modHere_setTile, hhead]
  exact act_modify _ _

end

/-! ### The rows of an MLOAD as they land -/

/-- The fill of tile n of a core has ended, and g is made of the tile. -/
def State.fillEnded (s : State) (core n : Nat) (g : Tile → Tile) : State :=
  s.modCore core (fun c => ({ c with fills := c.fills.filter (·.tile != n) } : Core).setTile n g)

section
variable {s s1 : State} {core n : Nat} {f : Fill} (hfill : (s.coreAt core).fills.find? (·.tile == n) = some f)
include hfill

theorem exec_mloadFillComplete_empty (htodo : f.todo = []) :
    exec (.mloadFillComplete core n) s = .next (s.fillEnded core n (fun t => { t with state := .ready })) := by
  show execMloadFillComplete core n s = _
  unfold execMloadFillComplete
  simp only [hfill, htodo]
  rfl

variable {p : Part} (htodo : f.todo = [p])
include htodo

/-- The last row lands in its tile, which turns READY (R224). -/
theorem exec_mloadFillComplete_last {t : Tile} {x : Nat} {cts : Option Nat}
    (hp : ({ s with fresh := s.fresh + 1 } : State).touch ⟨f.id, core, f.fc⟩ f.rcb f.cts p.phys p.size (fun _ => none) =
      .ok (s1, x, cts))
    (ht : tfind ((s1.modCtxOf core f.fc (fun c => { c with cts := max c.cts (cts.getD 0) })).coreAt core).tiles n = some t) :
    exec (.mloadFillComplete core n) s = .next (((s1.modCtxOf core f.fc
      (fun c => { c with cts := max c.cts (cts.getD 0) })).landRow core t p.row p.off (bytesOf p.size x)).fillEnded core n
        (fun t => { t with state := .ready })) := by
  show execMloadFillComplete core n s = _
  unfold execMloadFillComplete
  simp only [hfill, htodo, List.length_singleton, Nat.mod_one, List.getD_cons_zero, hp, ht, List.eraseIdx_zero, List.tail_cons,
    List.isEmpty_nil, ↓reduceIte]
  rfl

/-- A data error ends the fill: its tile is EMPTY and keeps the cause and the row's address (R224). -/
theorem exec_mloadFillComplete_error {tr : Trap}
    (hp : ({ s with fresh := s.fresh + 1 } : State).touch ⟨f.id, core, f.fc⟩ f.rcb f.cts p.phys p.size (fun _ => none) =
      .error (.trap tr)) :
    exec (.mloadFillComplete core n) s = .next (({ s with fresh := s.fresh + 1 } : State).fillEnded core n
      (fun t => { t with state := .empty, err := some (tr.cause, BitVec.ofNat 64 p.ea) })) := by
  show execMloadFillComplete core n s = _
  unfold execMloadFillComplete
  simp only [hfill, htodo, List.length_singleton, Nat.mod_one, List.getD_cons_zero, hp]
  rfl

end

/-! ### The ends of MSTORE and MDRAIN -/

/-- The current context of a state at a core and context. -/
theorem ctxOf_at (s : State) (core fc : Nat) (half : Bool) : (s.at core fc half).ctxOf core fc = (s.at core fc half).ctx := by
  simp [State.ctx, State.ctxOf, State.at, Core.ctxAt]

section
variable {o : TOps} {e : XEntry} {s : State} {core fc : Nat} (h : Claims.Completes e (s.at core fc true))
include h

theorem exec_mstoreDrainComplete (hi : e.i = .mstore o) : exec (.mstoreDrainComplete core fc) s = .next
    (((s.at core fc true).modHere (fun c => (c.dropReaders e.held).setTile o.h.s3.index
      (fun t => { t with state := .ready }))).modCtx Ctx.popEntry) := by
  have storing : (s.at core fc true).ctx.storing = true := by
    unfold Ctx.storing
    simp only [h.busy, h.head, hi, Bool.and_self]
  show execMstoreDrainComplete core fc s = _
  unfold execMstoreDrainComplete
  simp only [storing, h.head, hi, passHd_flat h.flat, ↓reduceIte]

variable (hi : e.i = .mdrain o) (hdone : ∀ id ∈ e.taken, tfind s.txns id = none)
include hi hdone

/-- The rows of an MDRAIN whose writes are all acknowledged. -/
theorem drainDone_at : (s.at core fc true).drainDone core fc = true := by
  unfold State.drainDone
  simp only [ctxOf_at, h.busy, h.head, hi, State.at_txns, Bool.true_and, List.all_eq_true]
  exact fun id hid => by rw [hdone id hid]; rfl

theorem exec_mdrainWake_refused (hr : e.refused = true) : exec (.mdrainWake core fc) s =
    .next (((s.at core fc true).modCtx (·.releaseTaken [e.taken.getLastD 0])).modCtx Ctx.popEntry) := by
  show execMdrainWake core fc s = _
  unfold execMdrainWake
  simp only [drainDone_at h hi hdone, h.head, hi, hr, ↓reduceIte]

theorem exec_mdrainWake_sent (hr : e.refused = false) {t : State} (ht : t = s.at core fc true) {m z name : Nat}
    (hm : m = o.w.toNat % 32) (hz : z = Nat.lor (t.here.zEntry o.h.s1.index) (o.h.s1.index * 2 ^ 4 + t.here.vwz.shape * 2 ^ 8))
    (hname : name = poolAddr 2 (gaCore e.s2.toNat) m) :
    exec (.mdrainWake core fc) s = .next ((t.launchTaken (e.taken.getLastD 0) (newTxn t (.message (messageEntry
      (entryWord0 t.core t.fc 2 m) [e.s2, BitVec.ofNat 64 z])) .mailbox name 64) (countFor t.core name)).modCtx
        Ctx.popEntry) := by
  subst ht hm hz hname
  show execMdrainWake core fc s = _
  unfold execMdrainWake
  simp only [drainDone_at h hi hdone, h.head, hi, hr, passHd_flat h.flat, Bool.false_eq_true, ↓reduceIte]
  rfl

end

end Sys2Proof.Machine

open Sys2Proof.Machine in
/-- Settles O37: the start of each transfer makes its checks in turn, which the hypotheses let pass, and each end has a
lemma for each way it goes. -/
theorem tileTransfers : Obligations.TileTransfers := by
  unfold Obligations.TileTransfers
  intro o e s s1 t rows core fc n
  refine ⟨exec_mload_ended, exec_mstore_started, fun f hfill => ⟨?empty, ?last, ?error⟩, exec_mstoreDrainComplete, ?wake⟩
  case empty => exact exec_mloadFillComplete_empty hfill
  case last => exact fun p x cts htodo hp ht => exec_mloadFillComplete_last hfill htodo hp ht
  case error => exact fun p tr htodo hp => exec_mloadFillComplete_error hfill htodo hp
  case wake =>
    exact fun h hi hdone => ⟨exec_mdrainWake_refused h hi hdone,
      fun hr => exec_mdrainWake_sent h hi hdone hr rfl rfl rfl rfl⟩

end

section
/-! SUPPORT. The progress of a Heliostat command: its start, its units, its end, and its follow-on product (R119, R224, R227,
R315, R318 to R321). -/

namespace Sys2Proof.Machine

/-! ### What a command's start takes -/

section
variable {s : State} {c : Cmd} {n : Nat} {tile : Tile}

theorem act_takeTile {own : Option Nat} {seq : Nat} (h : Claims.Takes s own n tile seq) :
    (takeTile n seq own).run s = .ok ((), Claims.filling s n) := by
  have idle : (tile.state == .empty || (tile.state == .ready && tile.readers == 0)) = true := by
    rcases h.idle with h | ⟨h, hr⟩ <;> simp [*]
  have first : (!(s.writers s.core own).any (fun w => w.1 == n && decide (w.2 < seq))) = true := by
    simp only [Bool.not_eq_true', List.any_eq_false, Bool.and_eq_true, beq_iff_eq, decide_eq_true_eq, not_and, not_lt]
    exact h.first
  unfold takeTile
  rw [act_bind_ok (act_get s)]
  simp only [h.valid]
  rw [act_bind_ok (act_waitUntil idle _ _ _), act_bind_ok (act_waitUntil first _ _ _)]
  exact act_modCore _ s

/-- The tile register of number n, below 64, names tile n. -/
theorem index_tileReg (hn : n < 64) : (Reg.t (BitVec.ofNat 6 n)).index = n := by
  simp [Reg.index, Nat.mod_eq_of_lt hn]

theorem act_needTile_number (hn : n < 64) (h : Claims.named s n tile) :
    (needTile (.t (BitVec.ofNat 6 n))).run s = .ok (tile, s) :=
  act_needTile ((index_tileReg hn).symm ▸ h.1) h.2

theorem act_tileError_none (herr : tile.err = none) (s : State) : (tileError tile).run s = .ok ((), s) := by
  unfold tileError
  rw [herr]
  rfl

variable (ha : (afterAccesses c.id).run s = .ok ((), s))
include ha

theorem act_takeTiles_dest (hd : cmdDest c.i = some n) (hs : cmdSource c.i = none) (hn : n < 64)
    (h : Claims.Takes s none n tile c.id) : (takeTiles c).run s = .ok ((), Claims.filling s n) := by
  unfold takeTiles
  rw [act_bind_ok ha]
  simp only [hd, hs]
  rw [act_bind_ok (act_needTile_number hn ⟨h.valid, h.still⟩), act_bind_ok (act_takeTile h)]
  rfl

theorem act_takeTiles_none (hd : cmdDest c.i = none) (hs : cmdSource c.i = none) : (takeTiles c).run s = .ok ((), s) := by
  unfold takeTiles
  rw [act_bind_ok ha]
  simp only [hd, hs]
  rfl

section
variable (hd : cmdDest c.i = none) (hs : cmdSource c.i = some n) (hn : n < 64) (h : Claims.named s n tile)
  (herr : tile.err = none)
include hd hs hn h herr

theorem act_takeTiles_source (hready : tile.state = .ready) : (takeTiles c).run s = .ok ((),
    s.modHere (·.setTile n (fun t => { t with state := .draining }))) := by
  unfold takeTiles
  rw [act_bind_ok ha]
  simp only [hd, hs]
  rw [act_bind_ok (act_needTile_number hn h), act_bind_ok (act_tileError_none herr s),
    act_bind_ok (act_waitUntil (by simp [hready]) _ _ _)]
  exact act_modCore _ s

theorem act_takeTiles_unready (hready : tile.state ≠ .ready) : (takeTiles c).run s = .error (.wait .tile false) := by
  unfold takeTiles
  rw [act_bind_ok ha]
  simp only [hd, hs]
  rw [act_bind_ok (act_needTile_number hn h), act_bind_ok (act_tileError_none herr s),
    act_bind_error (act_waitUntil_false (by simp [hready]) _ _ _)]

end

end

/-- A command that fills a tile writes no memory. -/
theorem cmdDests_dest {s : State} {c : Cmd} {n : Nat} (hd : cmdDest c.i = some n) (hs : cmdSource c.i = none) (pos : Nat) :
    s.cmdDests c pos = [] := by
  unfold State.cmdDests
  simp only [hd, hs, Option.bind_none, Option.isSome_some, ↓reduceIte]
  split
  case h_1 => rfl
  case h_2 hnone => cases hnone
  case h_3 hnone => cases hnone
  case h_4 => rfl

theorem cmdDests_memory {c : Cmd} {o : EOps} (hi : c.i = .hcopy o) (hT : o.h.d.isT = false) (s : State) :
    s.cmdDests c 0 = [(c.dst.toNat, c.b.toNat)] := by
  unfold State.cmdDests
  simp [hi, cmdDest, hT]

section
variable {s s1 s2 u : State} {cl ch : Nat} {c c' : Cmd} {rows : List Word}
  (hnext : nextCmd ((s.clusterAt cl).chan ch) = some c)
include hnext

/-- A command that takes its tiles, reads its descriptor and claims its lines is running. -/
theorem exec_heliostatCommandStart_running (hc : c' = { c with stage := .running, rows := rows })
    (ht : (takeTiles c).run (s.at c.core c.fc) = .ok ((), u)) (hr : (readDescriptor c).run u = .ok (rows, s1))
    (hclaim : (claimRanges c' (s1.cmdDests c' 0)).run (s1.setCmd c') = .ok ((), s2)) :
    exec (.heliostatCommandStart cl ch) s = .next { s2 with core := s.core, fc := s.fc } := by
  subst hc
  show execHeliostatCommandStart cl ch s = _
  unfold execHeliostatCommandStart State.startCmd
  simp only [hnext, ht, hr, hclaim]

theorem exec_heliostatCommandStart_waits {w : StallWhy} {p : Bool}
    (ht : (takeTiles c).run (s.at c.core c.fc) = .error (.wait w p)) :
    exec (.heliostatCommandStart cl ch) s = .next s := by
  show execHeliostatCommandStart cl ch s = _
  unfold execHeliostatCommandStart State.startCmd
  simp only [hnext, ht]

end

/-! ### The acts of a command -/

section
variable {s : State} {cl id : Nat} {c : Cmd} {head : Bool} (hfind : s.findCmd id = some (cl, c, head))
include hfind

section
variable (hrun : c.stage = .running)
include hrun

/-- After its last unit a command without a follow-on has only its record to come. -/
theorem exec_heliostatCommandComplete_last (hu : s.cmdUnits c ≤ c.pos) (hfollow : c.follow = none) :
    exec (.heliostatCommandComplete id) s = .next
      ((((s.setTileState c.core (cmdDest c.i) .ready).setTileState c.core (cmdSource c.i) .ready).releaseClaims c.id).setCmd
        { c with stage := .moved }) := by
  show execHeliostatCommandComplete id s = _
  unfold execHeliostatCommandComplete State.endData State.checkFollow
  simp only [hfind, hrun, hu, hfollow, Option.bind_none, ↓reduceIte]

variable (hu : c.pos < s.cmdUnits c)
include hu

/-- The act of a command with units left moves one, fails or waits. -/
theorem exec_heliostatCommandComplete_unit :
    (∀ u, (moveUnit c).run (s.at c.core c.fc) = .ok ((), u) → exec (.heliostatCommandComplete id) s = .next
      { u with core := s.core, fc := s.fc, half := s.half }) ∧
    (∀ x, (moveUnit c).run (s.at c.core c.fc) = .error (.trap x) → exec (.heliostatCommandComplete id) s = .next
      ((s.countWalk c.via (s.effPtroot c.rcb) x.cause x.tval).failCmd c (s.cmdIndex c) x.cause)) ∧
    (∀ w p, (moveUnit c).run (s.at c.core c.fc) = .error (.wait w p) → exec (.heliostatCommandComplete id) s =
      .next s) := by
  have act : exec (.heliostatCommandComplete id) s = execHeliostatCommandComplete id s := rfl
  simp only [act, execHeliostatCommandComplete, hfind, hrun, hu.not_ge, ↓reduceIte]
  exact ⟨fun u hm => by rw [hm], fun x hm => by rw [hm], fun w p hm => by rw [hm]⟩

end

/-- A command whose units have moved, and which has no product to make, ends when it heads its channel. -/
theorem exec_heliostatCommandComplete_moved (hst : c.stage = .moved ∨ c.stage = .made) (hfollow : c.follow = none) :
    exec (.heliostatCommandComplete id) s = .next (if head then (s.endCmd cl c c.status).finishSaves else s) := by
  show execHeliostatCommandComplete id s = _
  unfold execHeliostatCommandComplete
  rcases hst with hst | hst <;> simp only [hfind, hst, hfollow, Option.isNone_none, Bool.true_and]

end

/-! ### One unit -/

/-- The command after a unit, with the timestamp and the conditions it gained (R289, R318). -/
def Cmd.next (c : Cmd) (ts flags : Nat) : Cmd :=
  { c with pos := c.pos + 1, ts := ts, status := BitVec.ofNat 64 (Nat.lor c.status.toNat (flags * 2 ^ 9)) }

theorem act_moved (c : Cmd) (ts flags : Nat) (s : State) : (moved c ts flags).run s = .ok ((), s.setCmd (c.next ts flags)) := rfl

/-- No conditions leave the status as it was. -/
theorem next_quiet (c : Cmd) (ts : Nat) : c.next ts 0 = { c with pos := c.pos + 1, ts := ts } := by
  have same : BitVec.ofNat 64 (Nat.lor c.status.toNat (0 * 2 ^ 9)) = c.status := by
    rw [Nat.zero_mul]
    exact (congrArg _ (Nat.or_zero _)).trans (BitVec.eq_of_toNat_eq (by simp))
  unfold Cmd.next
  rw [same]

/-- TRUNC enters the status when a row has more elements than its range (R318, R321). -/
theorem next_trunc (c : Cmd) (ts : Nat) (p : Prop) [Decidable p] : c.next ts (natOfBool (decide p)) = { c with
    pos := c.pos + 1
    ts := ts
    status := if p then BitVec.ofNat 64 (Nat.lor c.status.toNat (2 ^ 9)) else c.status } := by
  by_cases h : p
  · simp only [h, decide_true, ↓reduceIte]
    rfl
  · simp only [h, decide_false, ↓reduceIte]
    exact next_quiet c ts

section
variable {c : Cmd} {t s1 s2 : State} {tile : Tile} {o : EOps} {x : Nat}

theorem act_landUnit {n : Nat} (h : tfind (t.coreAt c.core).tiles n = some tile) (row off x : Nat) :
    (landUnit c n row off x).run t = .ok ((), t.landRow c.core tile row off (bytesOf 16 x)) := by
  unfold landUnit
  rw [act_bind_ok (act_get t)]
  simp only [h]
  rfl

/-- The divisors of a unit: a memory row of a CSM tile has one (R319). -/
theorem unitDivisors_eq (row off : Nat) : unitDivisors tile row off =
    (if tile.role = .csm then row else off * 8 / Fmt.width tile.fmt, if tile.role = .csm then 1 else 128 / Fmt.width tile.fmt) := by
  unfold unitDivisors
  by_cases h : tile.role = .csm <;> simp [h]

/-- The fold of a unit: each element is the rounded product with the divisor of its K index (R319). -/
theorem smoothUnit_eq {rm row off width first m : Nat} {r : List (Nat × Flags)} (hw : width = Fmt.width tile.fmt)
    (hf : first = if tile.role = .csm then row else off * 8 / width) (hm : m = if tile.role = .csm then 1 else 128 / width)
    (hr : r = (List.range (128 / width)).map (fun e => roundSum tile.fmt rm 0
      [mulFV (decodeF tile.fmt (bits x (width * e + width - 1) (width * e)))
        (decodeF .f32 (t.rdNat (poolAddr 1 c.core (c.c.toNat + 4 * (first + e % m))) 4))])) :
    smoothUnit t c tile rm row off x = (((r.zipIdx).map (fun p => p.1.1 * 2 ^ (width * p.2))).sum, orFlags (r.map (·.2))) := by
  subst hw hf hm hr
  unfold smoothUnit
  rw [unitDivisors_eq]

theorem moveUnit_copyUnit (hi : c.i = .hcopy o) : moveUnit c = copyUnit c o := by
  unfold moveUnit
  rw [hi]

theorem moveUnit_rowUnit (hi : c.i = .hgath o ∨ c.i = .hscat o) : moveUnit c = rowUnit c := by
  unfold moveUnit
  rcases hi with hi | hi <;> rw [hi]

section
variable (hi : c.i = .hcopy o) (hx : (engineRead c (c.a.toNat + 16 * c.pos) 16).run t = .ok (x, s1))
include hi hx

section
variable (hT : o.h.d.isT = true) (ht : tfind (t.coreAt c.core).tiles o.h.d.index = some tile)
  (ht1 : tfind (s1.coreAt c.core).tiles o.h.d.index = some tile)
include hT ht ht1

theorem act_moveUnit_hcopy_tile (hs : o.opt.getLsbD 0 = false) : (moveUnit c).run t = .ok ((),
    (s1.landRow c.core tile (c.pos / tileUnits tile) (16 * (c.pos % tileUnits tile)) (bytesOf 16 x)).setCmd
      { c with pos := c.pos + 1 }) := by
  have named : (cmdDest c.i).bind (tfind (t.coreAt c.core).tiles) = some tile := by simp [hi, cmdDest, hT, ht]
  rw [moveUnit_copyUnit hi]
  unfold copyUnit
  rw [act_bind_ok (act_get t), act_bind_ok hx]
  simp only [named, hs, Bool.false_eq_true, ↓reduceIte]
  rw [act_bind_ok (act_landUnit ht1 _ _ _), act_moved]
  exact congrArg (fun d => Except.ok ((), State.setCmd _ d)) (next_quiet c c.ts)

/-- With SMOOTH the unit that lands is folded, and its conditions enter the status (R319). -/
theorem act_moveUnit_hcopy_smooth (hs : o.opt.getLsbD 0 = true)
    (hd : (divisorsReady c tile (c.pos / tileUnits tile) (16 * (c.pos % tileUnits tile))).run s1 = .ok ((), s1)) :
    let r := smoothUnit t c tile o.h.rm.toNat (c.pos / tileUnits tile) (16 * (c.pos % tileUnits tile)) x
    (moveUnit c).run t = .ok ((), (s1.landRow c.core tile (c.pos / tileUnits tile) (16 * (c.pos % tileUnits tile))
      (bytesOf 16 r.1)).setCmd (c.next c.ts (2 * zBits r.2))) := by
  have named : (cmdDest c.i).bind (tfind (t.coreAt c.core).tiles) = some tile := by simp [hi, cmdDest, hT, ht]
  intro r
  rw [moveUnit_copyUnit hi]
  unfold copyUnit
  rw [act_bind_ok (act_get t), act_bind_ok hx]
  simp only [named, hs, ↓reduceIte]
  rw [act_bind_ok hd, act_bind_ok (act_landUnit ht1 _ _ _), act_moved]

end

theorem act_moveUnit_hcopy_memory {ts : Nat} (hT : o.h.d.isT = false)
    (hw : (engineWrite c (c.dst.toNat + 16 * c.pos) 16 x (t.cmdDests c (c.pos + 1))).run s1 = .ok (ts, s2)) :
    (moveUnit c).run t = .ok ((), s2.setCmd { c with pos := c.pos + 1, ts := ts }) := by
  have nameless : (cmdDest c.i).bind (tfind (t.coreAt c.core).tiles) = none := by simp [hi, cmdDest, hT]
  rw [moveUnit_copyUnit hi]
  unfold copyUnit
  rw [act_bind_ok (act_get t), act_bind_ok hx]
  simp only [nameless]
  rw [act_bind_ok hw, act_moved, next_quiet]

end

section
variable (hi : c.i = .hgath o) (ht : tfind (t.coreAt c.core).tiles o.h.d.index = some tile)
include hi ht

theorem act_moveUnit_hgath {a : Word} (ha : c.rows[c.pos / tileUnits tile]? = some a)
    (hread : (engineRead c (a.toNat + 16 * (c.pos % tileUnits tile)) 16).run t = .ok (x, s1))
    (ht1 : tfind (s1.coreAt c.core).tiles o.h.d.index = some tile) : (moveUnit c).run t = .ok ((),
      (s1.landRow c.core tile (c.pos / tileUnits tile) (16 * (c.pos % tileUnits tile)) (bytesOf 16 x)).setCmd
        { c with pos := c.pos + 1 }) := by
  have dest : cmdDest c.i = some o.h.d.index := by rw [hi]; rfl
  rw [moveUnit_rowUnit (.inl hi)]
  unfold rowUnit
  rw [act_bind_ok (act_get t)]
  simp only [dest, ht, ha]
  rw [act_bind_ok hread, act_bind_ok (act_landUnit ht1 _ _ _), act_moved, next_quiet]

/-- Beyond its list a gather fills with zeros (R320). -/
theorem act_moveUnit_hgath_beyond (hnone : c.rows[c.pos / tileUnits tile]? = none) : (moveUnit c).run t = .ok ((),
    (t.landRow c.core tile (c.pos / tileUnits tile) (16 * (c.pos % tileUnits tile)) (bytesOf 16 0)).setCmd
      { c with pos := c.pos + 1 }) := by
  have dest : cmdDest c.i = some o.h.d.index := by rw [hi]; rfl
  rw [moveUnit_rowUnit (.inl hi)]
  unfold rowUnit
  rw [act_bind_ok (act_get t)]
  simp only [dest, ht, hnone]
  rw [act_bind_ok (act_pure 0 t), act_bind_ok (act_landUnit ht _ _ _), act_moved, next_quiet]

end

theorem act_moveUnit_hscat {a : Word} {ts : Nat} (hi : c.i = .hscat o)
    (ht : tfind (t.coreAt c.core).tiles o.h.s3.index = some tile) (ha : c.rows[c.pos / tileUnits tile]? = some a)
    (hw : (engineWrite c (a.toNat + 16 * (c.pos % tileUnits tile)) 16
      (natOfBytes (t.tileRow c.core tile (c.pos / tileUnits tile) (16 * (c.pos % tileUnits tile)) 16))
      (t.cmdDests c (c.pos + 1))).run t = .ok (ts, s1)) :
    (moveUnit c).run t = .ok ((), s1.setCmd { c with pos := c.pos + 1, ts := ts }) := by
  have dest : cmdDest c.i = none := by rw [hi]; rfl
  have source : cmdSource c.i = some o.h.s3.index := by rw [hi]; rfl
  rw [moveUnit_rowUnit (.inr hi)]
  unfold rowUnit
  rw [act_bind_ok (act_get t)]
  simp only [dest, source, ht, ha]
  rw [act_bind_ok hw, act_moved, next_quiet]

end

/-! ### One row of HUNPK or HPACK -/

section
variable {c : Cmd} {t s1 s2 u : State} {tile : Tile} {o : EOps} {a b : Nat}

theorem moveUnit_pointerRow (hi : c.i = .hunpk o ∨ c.i = .hpack o) : moveUnit c = pointerRow c := by
  unfold moveUnit
  rcases hi with hi | hi <;> rw [hi]

variable (ha : (engineRead c ((c.rows.getD 0 0).toNat + 4 * c.pos) 4).run t = .ok (a, s1))
  (hb : (engineRead c ((c.rows.getD 0 0).toNat + 4 * (c.pos + 1)) 4).run s1 = .ok (b, s2))
include ha hb

theorem act_rowRange (hab : a ≤ b) : (rowRange c c.pos).run t = .ok ((a, b), s2) := by
  unfold rowRange
  rw [act_bind_ok ha, act_bind_ok hb, act_bind_ok (act_unlessFault (decide_eq_true hab) _ _ _)]
  rfl

/-- A range that falls is refused (R321). -/
theorem act_rowRange_falls (hab : b < a) :
    (rowRange c c.pos).run t = .error (.trap { cause := cSPARSE_ROWPTR, tval := none }) := by
  unfold rowRange
  rw [act_bind_ok ha, act_bind_ok hb, act_bind_error (act_unlessFault_false (decide_eq_false hab.not_ge) _ _ _)]

theorem act_moveUnit_falls (hi : c.i = .hunpk o ∨ c.i = .hpack o) (hab : b < a) :
    (moveUnit c).run t = .error (.trap { cause := cSPARSE_ROWPTR, tval := none }) := by
  rw [moveUnit_pointerRow hi]
  unfold pointerRow
  rw [act_bind_ok (act_get t), act_bind_error (act_rowRange_falls ha hb hab)]

variable (hab : a ≤ b)
include hab

section
variable (hi : c.i = .hunpk o) (ht : tfind (t.coreAt c.core).tiles o.h.d.index = some tile)
include hi ht

theorem act_moveUnit_hunpk {line : List Nat}
    (hl : (unpackRow c (c.rows.getD 1 0).toNat (c.rows.getD 2 0).toNat (Fmt.width tile.fmt / 8) tile.cols (b - a) a
      (List.replicate tile.cols 0)).run s2 = .ok (some line, u)) :
    (moveUnit c).run t = .ok ((), (u.landRow c.core tile c.pos 0 (line.flatMap (bytesOf (Fmt.width tile.fmt / 8)))).setCmd
      { c with pos := c.pos + 1 }) := by
  have dest : cmdDest c.i = some o.h.d.index := by rw [hi]; rfl
  rw [moveUnit_pointerRow (.inl hi)]
  unfold pointerRow
  rw [act_bind_ok (act_get t), act_bind_ok (act_rowRange ha hb hab)]
  simp only [dest, ht]
  rw [act_bind_ok hl]
  dsimp only
  rw [act_bind_ok (act_modify _ _), act_moved, next_quiet]

theorem act_moveUnit_hunpk_outside
    (hl : (unpackRow c (c.rows.getD 1 0).toNat (c.rows.getD 2 0).toNat (Fmt.width tile.fmt / 8) tile.cols (b - a) a
      (List.replicate tile.cols 0)).run s2 = .ok (none, u)) :
    (moveUnit c).run t = .error (.trap { cause := cSPARSE_ROWPTR, tval := none }) := by
  have dest : cmdDest c.i = some o.h.d.index := by rw [hi]; rfl
  rw [moveUnit_pointerRow (.inl hi)]
  unfold pointerRow
  rw [act_bind_ok (act_get t), act_bind_ok (act_rowRange ha hb hab)]
  simp only [dest, ht]
  rw [act_bind_ok hl]
  exact act_fault _ _ _ _

end

/-- The elements of row i of a tile that are not zero, with their columns (R321). -/
def rowElements (t : State) (core : Nat) (tile : Tile) (i : Nat) : List (Nat × Nat) :=
  ((List.range tile.cols).map (fun k => (k, t.readTile core tile i k))).filter (fun e =>
    !(if tile.fmt.isFloat then e.2 % 2 ^ (Fmt.width tile.fmt - 1) == 0 else e.2 == 0))

theorem act_moveUnit_hpack {ts : Nat} (hi : c.i = .hpack o) (ht : tfind (t.coreAt c.core).tiles o.h.s3.index = some tile)
    (hw : (packRow c (t.cmdDests c (c.pos + 1)) (c.rows.getD 1 0).toNat (c.rows.getD 2 0).toNat (Fmt.width tile.fmt / 8)
      (b - a) a ((rowElements t c.core tile c.pos).take (b - a)) c.ts).run s2 = .ok (ts, u)) :
    (moveUnit c).run t = .ok ((), u.setCmd { c with
      pos := c.pos + 1
      ts := ts
      status := if b - a < (rowElements t c.core tile c.pos).length then BitVec.ofNat 64 (Nat.lor c.status.toNat (2 ^ 9))
        else c.status }) := by
  have dest : cmdDest c.i = none := by rw [hi]; rfl
  have source : cmdSource c.i = some o.h.s3.index := by rw [hi]; rfl
  rw [moveUnit_pointerRow (.inr hi)]
  unfold pointerRow
  rw [act_bind_ok (act_get t), act_bind_ok (act_rowRange ha hb hab)]
  simp only [dest, source, ht]
  unfold rowElements at hw ⊢
  rw [act_bind_ok hw, act_moved, next_trunc]

end

/-! ### The elements of a row -/

section
variable {c : Cmd} {t u s1 s2 : State} {colidx values n cols m j k v ts ts1 ts2 : Nat} {row : List Nat}
  {later l : List (Nat × Nat)}

section
variable (hk : (engineRead c (colidx + 2 * j) 2).run t = .ok (k, u))
include hk

/-- An index of 0xFFFF names no column (R321). -/
theorem act_unpackRow_filler (h : k = 0xFFFF) : (unpackRow c colidx values n cols (m + 1) j row).run t =
    (unpackRow c colidx values n cols m (j + 1) row).run u := by
  rw [unpackRow, act_bind_ok hk, if_pos h]

theorem act_unpackRow_outside (h : k ≠ 0xFFFF) (hc : cols ≤ k) :
    (unpackRow c colidx values n cols (m + 1) j row).run t = .ok (none, u) := by
  rw [unpackRow, act_bind_ok hk, if_neg h, if_pos hc, act_pure]

theorem act_unpackRow_element (h : k ≠ 0xFFFF) (hc : k < cols) (hv : (engineRead c (values + n * j) n).run u = .ok (v, s1)) :
    (unpackRow c colidx values n cols (m + 1) j row).run t =
      (unpackRow c colidx values n cols m (j + 1) (row.set k v)).run s1 := by
  rw [unpackRow, act_bind_ok hk, if_neg h, if_neg hc.not_ge, act_bind_ok hv]

end

/-- An element is packed by the writes of its column and of its value, or of a filler's (R321). -/
theorem act_packRow_element
    (h1 : (engineWrite { c with ts := ts } (colidx + 2 * j) 2 (l.headD (0xFFFF, 0)).1 later).run t = .ok (ts1, s1))
    (h2 : (engineWrite { c with ts := ts1 } (values + n * j) n (l.headD (0xFFFF, 0)).2 later).run s1 = .ok (ts2, s2)) :
    (packRow c later colidx values n (m + 1) j l ts).run t =
      (packRow c later colidx values n m (j + 1) (l.drop 1) ts2).run s2 := by
  rw [packRow]
  dsimp only
  rw [act_bind_ok h1, act_bind_ok h2]

end

/-! ### The follow-on product -/

/-- A follow-on that holds both its tiles takes hold of no more. -/
theorem holdTiles_held {s : State} {c : Cmd} {h : Hd} (h1 : h.s1.index ∈ c.held) (h2 : h.s2.index ∈ c.held) :
    s.holdTiles c h = (s.setCmd c, c) := by
  have held {n : Nat} (h : n ∈ c.held) : s.holdTile c n = .ok (s, c) := by
    unfold State.holdTile
    rw [if_pos (List.contains_iff_mem.mpr h)]
  unfold State.holdTiles
  simp only [held h1, held h2]

section
variable {s : State} {cl id : Nat} {c : Cmd} {head : Bool} {i : Instr} {o : TOps} {f : Fmt} {sparse : Bool}
  (hfind : s.findCmd id = some (cl, c, head)) (hst : c.stage = .moved) (hfollow : c.follow = some i)
  (hparts : followParts i = some (o, f, sparse))
include hfind hst hfollow hparts

theorem exec_followOnProduct_unchecked (hc : c.checked = false) : exec (.followOnProduct id) s = .next (s.checkFollow c) := by
  show execFollowOnProduct id s = _
  unfold execFollowOnProduct
  simp only [hfind, hst, hfollow, Option.bind_some, hparts, hc, Bool.not_false, ↓reduceIte]

variable (hc : c.checked = true) (h1 : o.h.s1.index ∈ c.held) (h2 : o.h.s2.index ∈ c.held)
include hc h1 h2

/-- A follow-on that holds both its tiles is made, fails or waits as its product does. -/
theorem exec_followOnProduct_held : let w := s.setCmd c
    (∀ u, (followProduct c o f sparse).run (w.at c.core c.fc) = .ok ((), u) → exec (.followOnProduct id) s = .next
      (({ u with core := s.core, fc := s.fc, half := s.half } : State).setCmd
        { c with stage := .made, follow := none, held := [] })) ∧
    (∀ x, (followProduct c o f sparse).run (w.at c.core c.fc) = .error (.trap x) → exec (.followOnProduct id) s = .next
      (w.failFollow c x.cause)) ∧
    (∀ y p, (followProduct c o f sparse).run (w.at c.core c.fc) = .error (.wait y p) → exec (.followOnProduct id) s =
      .next w) := by
  have act : exec (.followOnProduct id) s = execFollowOnProduct id s := rfl
  simp only [act, execFollowOnProduct, hfind, hst, hfollow, Option.bind_some, hparts, hc, holdTiles_held h1 h2,
    Bool.not_true, Option.isNone_some, Bool.false_eq_true, ↓reduceIte]
  exact ⟨fun u hp => by rw [hp], fun x hp => by rw [hp], fun y p hp => by rw [hp]⟩

end

end Sys2Proof.Machine

open Sys2Proof.Machine in
/-- Settles O50: a start takes its tiles, reads its descriptor and claims its lines; each unit is a lemma of its form; and
each act of a running command, of one that has moved and of a follow-on goes one of the ways that have a lemma each. -/
theorem heliostatProgress : Obligations.HeliostatProgress := by
  unfold Obligations.HeliostatProgress
  intro s s1 s2 cl ch id c head tile rows t own mover
  refine ⟨fun hnext ha => ⟨?dest, ?source, ?copy⟩, fun hfind hrun => ⟨?last, ?unit⟩,
    fun o x hi hx => ⟨?tile, ?smooth, ?memory⟩, fun o x hi ht => ⟨?gathered, ?beyond⟩, ?scattered, ?pointers, ?unpack, ?pack,
    fun hfind hst hfollow => ⟨?heads, ?behind⟩, fun i o f sparse hfind hst hfollow hparts => ⟨?unchecked, ?product⟩⟩
  case dest =>
    intro n hd hs hn h hr
    refine exec_heliostatCommandStart_running hnext rfl (act_takeTiles_dest ha hd hs hn h) hr ?_
    rw [cmdDests_dest (c := { c with stage := .running, rows := rows }) hd hs]
    rfl
  case source =>
    intro n hd hs hn h herr
    exact ⟨fun hst => exec_heliostatCommandStart_waits hnext (act_takeTiles_unready ha hd hs hn h herr hst),
      fun hst hr hclaim => exec_heliostatCommandStart_running hnext rfl (act_takeTiles_source ha hd hs hn h herr hst) hr hclaim⟩
  case copy =>
    intro o hi hT hrows hclaim
    have hd : cmdDest c.i = none := by simp [hi, cmdDest, hT]
    have hs : cmdSource c.i = none := by rw [hi]; rfl
    have hr : (readDescriptor c).run t = .ok (rows, t) := by
      unfold readDescriptor
      rw [hi, hrows]
      rfl
    refine exec_heliostatCommandStart_running hnext rfl (act_takeTiles_none ha hd hs) hr ?_
    rw [cmdDests_memory (c := { c with stage := .running, rows := rows }) hi hT]
    exact hclaim
  case last => exact exec_heliostatCommandComplete_last hfind hrun
  case unit => exact exec_heliostatCommandComplete_unit hfind hrun
  case tile => exact act_moveUnit_hcopy_tile hi hx
  case smooth =>
    intro hT ht ht1 hs width row off first m a r kind hd _ _
    have run := act_moveUnit_hcopy_smooth hi hx hT ht ht1 hs hd
    rw [smoothUnit_eq (first := first) (m := m) (r := r) rfl rfl rfl rfl] at run
    exact run
  case memory => exact fun ts => act_moveUnit_hcopy_memory hi hx
  case gathered => exact fun a => act_moveUnit_hgath hi ht
  case beyond => exact act_moveUnit_hgath_beyond hi ht
  case scattered => exact fun o a ts hi ht ha hw => act_moveUnit_hscat hi ht ha hw
  case pointers =>
    intro o a b hi p cols vals n ha hb
    exact ⟨act_moveUnit_falls ha hb hi, fun line u hab hi ht hl => act_moveUnit_hunpk ha hb hab hi ht hl,
      fun u hab hi ht hl => act_moveUnit_hunpk_outside ha hb hab hi ht hl,
      fun ts u hab hi ht hw => act_moveUnit_hpack ha hb hab hi ht hw⟩
  case unpack =>
    intro colidx values n cols m j row k v u
    exact ⟨rfl, fun hk => ⟨act_unpackRow_filler hk, act_unpackRow_outside hk, act_unpackRow_element hk⟩⟩
  case pack => exact fun later colidx values n m j l ts u v => ⟨rfl, act_packRow_element⟩
  case heads =>
    intro hh
    rw [exec_heliostatCommandComplete_moved hfind hst hfollow, hh]
    rfl
  case behind =>
    intro hh
    rw [exec_heliostatCommandComplete_moved hfind hst hfollow, hh]
    rfl
  case unchecked => exact exec_followOnProduct_unchecked hfind hst hfollow hparts
  case product => exact exec_followOnProduct_held hfind hst hfollow hparts

end

section
/-! SUPPORT. What the X-half does with an entry of a graph actor: its granules, its actor, and the forms that combine,
marginalise, damp and solve (R217, R233, R237 to R240, R243). -/

namespace Sys2Proof.Machine

/-! ### Entries of graph actors -/

theorem act_spanPassCheck_flat {s : State} (h : s.ctx.inLoop = false) (l : List (Reg × Nat)) :
    (spanPassCheck l).run s = .ok ((), s) := by
  unfold spanPassCheck
  rw [act_bind_ok (act_passCheck_flat h _), act_bind_ok (act_getCtx s)]
  exact act_unlessFault (by simp [h]) _ _ s

/-- An entry whose effect answers ends: outside a loop its fields stand as written, and its granules are free. -/
theorem graphEntry_ended {i : Instr} {o : XOps} {reads writes : Bool → Hd → List (Reg × Nat)}
    {run : Hd → XEntry → Act Unit} {e : XEntry} {s s' : State} {b : Bound} {rs ws : List (Reg × Nat)} (hb : s.ownBound = some b)
    (h : Claims.GraphRuns i e s rs ws) (hrs : reads (b.d.cls == 2) o.h = rs) (hws : writes (b.d.cls == 2) o.h = ws)
    (hrun : (run o.h e).run s = .ok ((), s')) : graphEntry i o reads writes run s = .next (Claims.ended e s') := by
  have hfree := h.free
  subst hrs hws
  refine xslot_ended h.toRuns ?_
  rw [act_bind_ok (act_getCtx s), passHd_flat h.flat, act_bind_ok (act_get s)]
  simp only [hb]
  rw [act_bind_ok (act_spanPassCheck_flat h.flat _), act_bind_ok (act_getCore s)]
  exact (act_bind_ok (act_free hfree) _).trans hrun

theorem act_graphActor {s : State} {b : Bound} (hb : s.ownBound = some b) (hg : b.isGraph = true) :
    graphActor.run s = .ok (b, s) := by
  unfold graphActor
  rw [act_bind_ok (act_get s), hb]
  simp only [hg, ↓reduceIte]
  rfl

theorem act_writeImage (k n x : Nat) (s : State) : (writeImage k n x).run s = .ok ((), Claims.toV s k n x) := rfl

theorem act_raiseFlags_raised (l : List (Nat × Flags)) (s : State) :
    (raiseFlags (orFlags (l.map (·.2)))).run s = .ok ((), Claims.raised s l) := rfl

/-- The end of every form that computes elements: conditions that do not trap, an image written, and the
conditions raised. -/
theorem act_writeElems {o : XOps} {l : List (Nat × Flags)} (hq : Claims.quiet o (l.map (·.2))) (k n x : Nat) (s : State) :
    (do trapRequest o.tz o.tv (l.map (·.2)); writeImage k n x; raiseFlags (orFlags (l.map (·.2))) : Act Unit).run s =
      .ok ((), Claims.raised (Claims.toV s k n x) l) := by
  rw [act_bind_ok (act_trapRequest hq s), act_bind_ok (act_writeImage k n x s)]
  exact act_raiseFlags_raised l _

theorem act_messageOperand {f : Fmt} {d k : Nat} {s : State} (h : imageFits f d (s.readImage k 128) = true) (v : Word) :
    (messageOperand f d k v).run s = .ok (s.readImage k 128, s) := by
  unfold messageOperand
  rw [act_bind_ok (act_get s), act_bind_ok (act_unlessFault h _ _ s)]
  rfl

/-! ### The forms -/

/-- The dimension of a belief that GMEAN takes: the variable's, or that of a position of the factor (R243). -/
theorem meanDim_ok {g : Graph} {d : Nat} (hvar : g.isVar = true → d = g.dim 0)
    (hfac : g.isVar = false → ∃ k < g.arity, g.dim k = d) :
    (if g.isVar then d == g.dim 0 else (List.range g.arity).any (fun k => g.dim k == d)) = true := by
  split
  case isTrue hv => simp [hvar hv]
  case isFalse hv => simpa using hfac (by simpa using hv)

section
variable {o : XOps} {e : XEntry} {s s1 s2 t : State} {b : Bound} {g : Graph} {acc : List (Nat × Flags)}
  (hb : s.ownBound = some b) (hg : b.isGraph = true) (hform : (graphForm o.fmt1 e.seq).run s = .ok (g, s1))
include hb hform

section
include hg

theorem exec_gbel_ended (h : Claims.GraphRuns (.gbel o) e s [] [(o.h.d, 4)]) (hst : e.s1 = b.d.state) (hv : g.isVar = true)
    (hsum : (sumVariable g o.fmt1 o.h.rm.toNat 256).run s1 = .ok (acc, s2)) (hq : Claims.quiet o (acc.map (·.2)))
    {img : Nat} (himg : img = mkImage o.fmt1 (g.dim 0) (acc.map (·.1)))
    (hstore : (storeWords (g.st + 0xC0) ((List.range 16).map (fun k => bits img (64 * k + 63) (64 * k)))).run
      (Claims.toV s2 o.h.d.index 128 img) = .ok ((), t)) :
    exec (.gbel o) s = .next (Claims.ended e (Claims.raised t acc)) := by
  subst himg
  show execGbel o s = _
  unfold execGbel
  refine graphEntry_ended hb h rfl rfl ?_
  rw [act_bind_ok (act_graphActor hb hg), act_bind_ok (act_unlessFault (by simp [hst]) _ _ s), act_bind_ok hform,
    act_bind_ok (act_unlessFault hv _ _ s1), act_bind_ok hsum, act_bind_ok (act_trapRequest hq s2),
    act_bind_ok (act_writeImage _ _ _ s2), act_bind_ok hstore]
  exact act_raiseFlags_raised acc t

theorem exec_gcomb_variable (h : Claims.GraphRuns (.gcomb o) e s [] [(o.h.d, 4)]) (hcls : b.d.cls = 1)
    (hst : e.s1 = b.d.state) (hv : g.isVar = true) (hk : o.w.toNat < g.slots)
    (hsum : (sumVariable g o.fmt1 o.h.rm.toNat o.w.toNat).run s1 = .ok (acc, s2)) (hq : Claims.quiet o (acc.map (·.2))) :
    exec (.gcomb o) s = .next (Claims.ended e (Claims.raised (Claims.toV s2 o.h.d.index 128
      (mkImage o.fmt1 (g.dim 0) (acc.map (·.1)))) acc)) := by
  show execGcomb o s = _
  unfold execGcomb
  refine graphEntry_ended hb h rfl (by simp [hcls]) ?_
  rw [act_bind_ok (act_graphActor hb hg), act_bind_ok (act_unlessFault (by simp [hst]) _ _ s), act_bind_ok hform]
  simp only [hv, ↓reduceIte]
  rw [act_bind_ok (act_unlessFault (by simp [hk]) _ _ s1), act_bind_ok hsum]
  exact act_writeElems hq _ _ _ s2

/-- Without a RELIN threshold no drift is tested (R254). -/
theorem exec_gcomb_factor (h : Claims.GraphRuns (.gcomb o) e s [] [(o.h.d, 16)]) (hcls : b.d.cls = 2)
    (hst : e.s1 = b.d.state) (hv : g.isVar = false) (hk : o.w.toNat < g.slots ∨ o.w.toNat = 255) (hrelin : g.t2 % 2 ^ 56 = 0)
    (hsum : (sumFactor g o.fmt1 o.h.rm.toNat o.w.toNat).run s1 = .ok (acc, s2)) (hq : Claims.quiet o (acc.map (·.2))) :
    exec (.gcomb o) s = .next (Claims.ended e (Claims.raised (Claims.toV s2 o.h.d.index 512
      (mkImage o.fmt1 g.joint (acc.map (·.1)))) acc)) := by
  show execGcomb o s = _
  unfold execGcomb
  refine graphEntry_ended hb h rfl (by simp [hcls]) ?_
  rw [act_bind_ok (act_graphActor hb hg), act_bind_ok (act_unlessFault (by simp [hst]) _ _ s), act_bind_ok hform]
  simp only [hv, hrelin, Bool.false_eq_true, ↓reduceIte]
  rw [act_bind_ok (act_unlessFault (by simpa using hk) _ _ s1), act_bind_ok hsum,
    act_bind_ok (act_trapRequest hq s2), act_bind_ok (act_pure false s2), act_bind_ok (act_writeImage _ _ _ s2)]
  exact act_raiseFlags_raised acc _

end

theorem exec_gmarg_ended (h : Claims.GraphRuns (.gmarg o) e s [(o.h.s1, 16)] [(o.h.d, 4)]) (hv : g.isVar = false)
    (hk : o.w.toNat < g.slots) (hfits : imageFits o.fmt1 g.joint (s1.readImage o.h.s1.index 512) = true) {r : Elems × Bool}
    (hr : r = eliminateAll o.fmt1 o.h.rm.toNat g.joint
      ((List.range g.joint).filter (fun i => decide (i < fttOff g.t0 o.w.toNat) ||
        decide (fttOff g.t0 o.w.toNat + g.dim o.w.toNat ≤ i))) (List.range g.joint)
      ((imageElems o.fmt1.width g.joint (s1.readImage o.h.s1.index 512)).map (fun x => (x, 0))))
    (hq : Claims.quiet o (r.1.map (·.2))) :
    exec (.gmarg o) s = .next (Claims.ended e (Claims.raised (Claims.toV s1 o.h.d.index 128 (mkImage o.fmt1 (g.dim o.w.toNat)
      (if r.2 then blockOf g.joint (fttOff g.t0 o.w.toNat) (g.dim o.w.toNat) r.1
        else List.replicate (elemCount (g.dim o.w.toNat)) 0))) r.1)) := by
  subst hr
  show execGmarg o s = _
  unfold execGmarg
  refine graphEntry_ended hb h rfl rfl ?_
  rw [act_bind_ok hform, act_bind_ok (act_unlessFault (by simp [hv]) _ _ s1),
    act_bind_ok (act_unlessFault (by simp [hk]) _ _ s1), act_bind_ok (act_get s1),
    act_bind_ok (act_unlessFault hfits _ _ s1)]
  exact act_writeElems hq _ _ _ s1

/-- A damped element: the message's own when β is zero, else β × (old − new) + new, rounded at each step (R240). -/
def dampElem (f : Fmt) (rm beta old new c : Nat) : Nat × Flags :=
  let v := imageElem f.width new c
  if beta % 2 ^ (f.width - 1) = 0 then (v, (0 : Flags))
  else
    let t := subF f rm 0 (imageElem f.width old c) v
    let x := fmaF f rm 0 false false beta t.1 v
    (x.1, t.2 ||| x.2)

theorem exec_gdamp_ended {k old : Nat} (h : Claims.GraphRuns (.gdamp o) e s [(o.h.s1, 4)] [(o.h.d, 4)])
    (hout : (outSlotAt g o.fmt1 e.s2).run s1 = .ok ((k, old), s2))
    (hfits : imageFits o.fmt1 (g.dim k) (s2.readImage o.h.s1.index 128) = true) {r : List (Nat × Flags)}
    (hr : r = (List.range (elemCount (g.dim k))).map
      (dampElem o.fmt1 o.h.rm.toNat (g.beta o.fmt1) old (s2.readImage o.h.s1.index 128)))
    (hq : Claims.quiet o (r.map (·.2))) :
    exec (.gdamp o) s = .next (Claims.ended e (Claims.raised (Claims.toV s2 o.h.d.index 128
      (mkImage o.fmt1 (g.dim k) (r.map (·.1)))) r)) := by
  subst hr
  show execGdamp o s = _
  unfold execGdamp
  refine graphEntry_ended hb h rfl rfl ?_
  rw [act_bind_ok hform, act_bind_ok hout]
  dsimp only
  rw [act_bind_ok (act_messageOperand hfits _)]
  exact act_writeElems hq _ _ _ s2

theorem exec_gmean_ended (h : Claims.GraphRuns (.gmean o) e s [(o.h.s1, 4)] [(o.h.d, 4)]) {img : Nat}
    (himg : img = s1.readImage o.h.s1.index 128) (hfits : imageFits o.fmt1 (hdrDim img) img = true)
    (hvar : g.isVar = true → hdrDim img = g.dim 0) (hfac : g.isVar = false → ∃ k < g.arity, g.dim k = hdrDim img) {r : Elems}
    (hr : r = meanOf o.fmt1 o.h.rm.toNat (hdrDim img) ((imageElems o.fmt1.width (hdrDim img) img).map (fun x => (x, 0))))
    (hq : Claims.quiet o (r.map (·.2))) :
    exec (.gmean o) s = .next (Claims.ended e (Claims.raised (Claims.toV s1 o.h.d.index 128
      (mkImage o.fmt1 (hdrDim img) (r.map (·.1)))) r)) := by
  subst hr
  have hdim := meanDim_ok hvar hfac
  show execGmean o s = _
  unfold execGmean
  refine graphEntry_ended hb h rfl rfl ?_
  rw [act_bind_ok hform, act_bind_ok (act_get s1)]
  simp only [← himg]
  rw [act_bind_ok (act_unlessFault (Bool.and_eq_true_iff.mpr ⟨hfits, hdim⟩) _ _ s1)]
  exact act_writeElems hq _ _ _ s1

end

end Sys2Proof.Machine

open Sys2Proof.Machine in
/-- Settles O38: the X-half reaches each form's own act, whose steps the hypotheses let pass one after another. -/
theorem graphBeliefs : Obligations.GraphBeliefs := by
  unfold Obligations.GraphBeliefs
  intro o e s s1 s2 t b g acc f hb hg hform
  refine ⟨?belief, exec_gcomb_variable hb hg hform, exec_gcomb_factor hb hg hform, ?marginal, ?damped, ?mean⟩
  case belief => exact fun h hst hv hsum hq => exec_gbel_ended hb hg hform h hst hv hsum hq rfl
  case marginal => exact fun h hv hk hfits hq => exec_gmarg_ended hb hform h hv hk hfits rfl hq
  case damped => exact fun k old h hout hfits hq => exec_gdamp_ended hb hform h hout hfits rfl hq
  case mean => exact fun h hfits hvar hfac hq => exec_gmean_ended hb hform h rfl hfits hvar hfac rfl hq
end

section
/-! SUPPORT. The residual, the sending and the arrival of a message (R236, R241, R242, R246). -/

namespace Sys2Proof.Machine

/-- A field of a field is a field. -/
theorem bits_bits (x : Nat) {hi lo h l : Nat} (hle : lo + h ≤ hi) :
    bits (bits x hi lo) h l = bits x (lo + h) (lo + l) := by
  apply Nat.eq_of_testBit_eq
  intro i
  have hwidth : lo + h + 1 - (lo + l) = h + 1 - l := by omega
  simp only [bits, Nat.testBit_mod_two_pow, Nat.testBit_shiftRight]
  rw [hwidth, Nat.add_assoc lo l i]
  by_cases hin : i < h + 1 - l
  · simp [hin, show l + i < hi + 1 - lo by omega]
  · simp [hin]

theorem act_needPosted_room {s : State} (h : s.ctx.posted.length + 1 ≤ 64) : needPosted.run s = .ok ((), s) := by
  unfold needPosted
  rw [act_bind_ok (act_getCtx s)]
  exact act_waitUntil (by simpa using h) _ _ s

/-! ### A message that leaves its core -/

/-- A message that leaves its core, under way as a posted write, and INFL with it when its residual exceeds EPS. -/
def State.sendSlot (s : State) (rcb act slot : Nat) (msg : List Byte) (above : Bool) (core : Nat) (count : Count) : State :=
  let u := s.launch { newTxn s (.slot rcb act slot msg above) .pool (poolAddr 2 core 0) 120 with count := some count }
  if above then u.modHere (fun c => { c with infl := c.infl + 1 }) else u

theorem act_sendSlot {s : State} (hroom : s.ctx.posted.length + 1 ≤ 64) (rcb act slot : Nat) (msg : List Byte) (above : Bool)
    (core : Nat) (count : Count) :
    (do needPosted
        modify (fun s => s.launch { newTxn s (.slot rcb act slot msg above) .pool (poolAddr 2 core 0) 120 with
          count := some count })
        if above then modCore (fun c => { c with infl := c.infl + 1 }) : Act Unit).run s =
      .ok ((), s.sendSlot rcb act slot msg above core count) := by
  rw [act_bind_ok (act_needPosted_room hroom), act_bind_ok (act_modify _ s)]
  cases above with
  | false => rfl
  | true => rfl

/-! ### GRES and GSEND -/

section
variable {o : XOps} {e : XEntry} {s s1 s2 s3 s4 : State} {b : Bound} {g : Graph} {k old : Nat}
  (hb : s.ownBound = some b) (hform : (graphForm o.fmt1 e.seq).run s = .ok (g, s1))
include hb hform

theorem exec_gres_ended {p : Phys} (h : Claims.GraphRuns (.gres o) e s [(o.h.s1, 4)] [])
    (hout : (outSlotAt g o.fmt1 e.s2).run s1 = .ok ((k, old), s2))
    (hfits : imageFits o.fmt1 (g.dim k) (s2.readImage o.h.s1.index 128) = true) {r : Nat}
    (hr : r = residual o.fmt1 (g.dim k) (s2.readImage o.h.s1.index 128) old)
    (hp : (resolve .w (e.s2.toNat + 116) 4).run s2 = .ok (p, s3)) (hw : (writeNow p 4 r).run s3 = .ok ((), s4))
    (hflat : s4.ctx.inLoop = false) :
    exec (.gres o) s = .next (Claims.ended e ((s4.modCtx (·.wg o.h.d.index (BitVec.ofNat 64 r))).modHere
      (·.aboveEps r s4.now))) := by
  subst hr
  show execGres o s = _
  unfold execGres
  refine graphEntry_ended hb h rfl rfl ?_
  rw [act_bind_ok hform, act_bind_ok hout]
  dsimp only
  rw [act_bind_ok (act_messageOperand hfits _), act_bind_ok hp, act_bind_ok hw, act_bind_ok (act_writeResult_flat hflat _ _)]
  exact act_modify _ _

variable (h : Claims.GraphRuns (.gsend o) e s [(o.h.s2, 4)] [])
  (hout : (outSlotAt g o.fmt1 e.s1).run s1 = .ok ((k, old), s2))
  (hfits : imageFits o.fmt1 (g.dim k) (s2.readImage o.h.s2.index 128) = true)
include h hout hfits

theorem exec_gsend_closed (hclosed : bit old 37 = true) : exec (.gsend o) s = .next (Claims.ended e s2) := by
  have closed : hdrClosed old = true := hclosed
  show execGsend o s = _
  unfold execGsend
  refine graphEntry_ended hb h rfl rfl ?_
  rw [act_bind_ok hform, act_bind_ok hout]
  dsimp only
  rw [act_bind_ok (act_messageOperand hfits _), if_pos closed]
  rfl

variable (hopen : bit old 37 = false) {img act slot : Nat}
  (himg : img = sentImage o.fmt1 (g.dim k) old (s2.readImage o.h.s2.index 128))
  (hact : act = bits old 1015 992) (hslot : slot = bits old 967 960)
  (hidle : s2.edgeBusy s2.nextId g.b.rcb act slot = false)
  (hstore : (storeWords e.s1.toNat ((List.range 15).map (fun k => bits img (64 * k + 63) (64 * k)))).run s2 = .ok ((), s3))
include hopen himg hact hslot hidle hstore

/-- The receiver is bound on the sender's core: the message is in its slot at once. -/
theorem exec_gsend_arrives {n : Nat} {r : Bound} (hfind : s2.findActor g.b.rcb act = some (s2.core, n, r))
    (hwait : s2.arrivalWaits s2.core r slot = false) :
    exec (.gsend o) s = .next (Claims.ended e (s3.arrive g.b.rcb act slot (bytesOf 120 img))) := by
  have notClosed : ¬ hdrClosed old = true := by simpa [hdrClosed] using hopen
  show execGsend o s = _
  unfold execGsend
  refine graphEntry_ended hb h rfl rfl ?_
  rw [act_bind_ok hform, act_bind_ok hout]
  dsimp only
  rw [act_bind_ok (act_messageOperand hfits _), if_neg notClosed]
  simp only [bits_bits, Nat.reduceAdd, Nat.reduceLeDiff, ← himg, ← hact, ← hslot]
  rw [act_bind_ok (act_get s2), hfind]
  simp only [↓reduceIte, Option.isSome_some]
  rw [act_bind_ok (act_waitUntil (by simp [hidle]) _ _ s2), act_bind_ok (act_waitUntil (by simp [hwait]) _ _ s2),
    act_bind_ok hstore]
  exact act_modify _ s3

theorem exec_gsend_posts {core : Nat} {count : Count}
    (hfar : (∃ x, s2.findActor g.b.rcb act = some (core, x) ∧ core ≠ s2.core ∧
        count = countFor s2.core (poolAddr 2 core 0)) ∨
      s2.findActor g.b.rcb act = none ∧ core = s2.core ∧ count = .pkg) (hroom : s3.ctx.posted.length + 1 ≤ 64) :
    exec (.gsend o) s = .next (Claims.ended e (s3.sendSlot g.b.rcb act slot (bytesOf 120 img)
      (exceeds (bits img 959 928) s2.here.cveps.toNat) core count)) := by
  have notClosed : ¬ hdrClosed old = true := by simpa [hdrClosed] using hopen
  show execGsend o s = _
  unfold execGsend
  refine graphEntry_ended hb h rfl rfl ?_
  rw [act_bind_ok hform, act_bind_ok hout]
  dsimp only
  rw [act_bind_ok (act_messageOperand hfits _), if_neg notClosed]
  simp only [bits_bits, Nat.reduceAdd, Nat.reduceLeDiff, ← himg, ← hact, ← hslot]
  rw [act_bind_ok (act_get s2), act_bind_ok (act_waitUntil (by simp [hidle]) _ _ s2)]
  rcases hfar with ⟨x, hfind, hcore, rfl⟩ | ⟨hfind, rfl, rfl⟩
  · simp only [hfind, hcore, ↓reduceIte, Option.isSome_none, Option.isSome_some, Bool.false_eq_true]
    rw [act_bind_ok (act_waitUntil rfl _ _ s2), act_bind_ok hstore]
    exact act_sendSlot hroom _ _ _ _ _ _ _
  · simp only [hfind, ↓reduceIte, Option.isSome_none, Bool.false_eq_true]
    rw [act_bind_ok (act_waitUntil rfl _ _ s2), act_bind_ok hstore]
    exact act_sendSlot hroom _ _ _ _ _ _ _

end

/-! ### Arrival -/

section
variable {s : State} {id : Nat} {x : Txn} {rcb act slot : Nat} {msg : List Byte} {above : Bool}
  (hx : tfind s.txns id = some x) (hst : x.stage = .travelling) (hop : x.op = .slot rcb act slot msg above)
  (hidle : s.edgeBusy id rcb act slot = false)
include hx hst hop hidle

theorem exec_gsendArrival_bound {core n : Nat} {b : Bound} (hfind : s.findActor rcb act = some (core, n, b))
    (hwait : s.arrivalWaits core b slot = false) :
    exec (.gsendArrival id) s = .next ((s.arrive rcb act slot msg).setTxn id { x with stage := .done }) := by
  show execGsendArrival id s = _
  unfold execGsendArrival State.performSlot
  simp only [withTxn_some hx, hst, beq_self_eq_true, ↓reduceIte, hop, hidle, Bool.false_eq_true, hfind, hwait]

theorem exec_gsendArrival_unbound (hfind : s.findActor rcb act = none) : exec (.gsendArrival id) s = .next
    (if s.isGone rcb then s.setTxn id { x with stage := .failed cPERM_DENIED } else s) := by
  show execGsendArrival id s = _
  unfold execGsendArrival State.performSlot
  simp only [withTxn_some hx, hst, beq_self_eq_true, ↓reduceIte, hop, hidle, Bool.false_eq_true, hfind]

end

section
variable {s : State} {rcb act slot core n : Nat} {t : Bound} {msg : List Byte}
  (hfind : s.findActor rcb act = some (core, n, t)) {h : Nat} (hh : h = s.rdNat (t.slotAt core slot) 8)
include hfind hh

/-- A message that its slot takes: its bytes, PRES and the firing debt, and the age when its RES exceeds EPS (R236, R246). -/
theorem arrive_accepted (hg : t.isGraph = true) (hslot : slot < t.depth) (hlive : bit h 38 = true) (hopen : bit h 37 = false)
    (hedge : bits h 15 0 = bits (natOfBytes (msg.take 8)) 15 0) {res : Nat} (hres : res = natOfBytes ((msg.drop 116).take 4))
    {u : State} (hu : u = ((s.wrBytes (t.slotAt core slot) (msg.take 120)).setBound core n (fun b =>
      { b with pres := (minmaxF .f32 true b.pres res).1 })).raiseDebt core n) :
    s.arrive rcb act slot msg =
      if exceeds res (u.coreAt core).cveps.toNat then u.modCore core (·.ageReset u.now) else u := by
  unfold State.arrive
  simp only [hfind, ← hh, hdrLive, hdrClosed, hdrEdge, hg, hslot, hlive, hopen, hedge, ← hres, ← hu, decide_true,
    Bool.not_false, Bool.and_self, beq_self_eq_true, ↓reduceIte]

/-- A message to a slot without an edge, to a closed one, or of another edge is counted in DISC (R236). -/
theorem arrive_discarded (hbad : bit h 38 = false ∨ bit h 37 = true ∨
    bits h 15 0 ≠ bits (natOfBytes (msg.take 8)) 15 0) :
    s.arrive rcb act slot msg = s.pokeVirt core t.rcb (t.d.state.toNat + 0x10) 4
      (min (s.peekVirt core t.rcb (t.d.state.toNat + 0x10) % 2 ^ 32 + 1) 0xFFFFFFFF) := by
  have refused : (t.isGraph && decide (slot < t.depth) && hdrLive h && !hdrClosed h &&
      hdrEdge h == hdrEdge (natOfBytes (msg.take 8))) = false := by
    unfold hdrLive hdrClosed hdrEdge
    rcases hbad with hbad | hbad | hbad
    · simp [hbad]
    · simp [hbad]
    · simp [beq_false_of_ne hbad]
  unfold State.arrive
  simp only [hfind, ← hh, refused, Bool.false_eq_true, ↓reduceIte]

end

end Sys2Proof.Machine

open Sys2Proof.Machine in
/-- Settles O39: GRES and GSEND run their acts step by step, and an arrival has a lemma for each way it goes. -/
theorem graphMessages : Obligations.GraphMessages := by
  unfold Obligations.GraphMessages
  intro o e s s1 s2 s3 s4 b g k old f hb hg hform
  refine ⟨?residual, fun h hout hfits => ⟨exec_gsend_closed hb hform h hout hfits,
    fun hopen hidle hstore => ⟨?here, ?far⟩⟩, ?arrival, ?slot⟩
  case residual => exact fun p h hout hfits hp hw hflat => exec_gres_ended hb hform h hout hfits rfl hp hw hflat
  case here =>
    exact fun x hfind hwait => exec_gsend_arrives hb hform h hout hfits hopen rfl rfl rfl hidle hstore hfind hwait
  case far =>
    exact fun core count hfar hroom => exec_gsend_posts hb hform h hout hfits hopen rfl rfl rfl hidle hstore hfar hroom
  case arrival =>
    exact fun id x rcb act slot msg above hx hst hop hidle => ⟨fun core n b => exec_gsendArrival_bound hx hst hop hidle,
      exec_gsendArrival_unbound hx hst hop hidle⟩
  case slot =>
    exact fun rcb act slot core n t msg hfind hgraph hslot => ⟨fun hlive hopen hedge =>
      ⟨_, arrive_accepted hfind rfl hgraph hslot hlive hopen hedge rfl rfl, rfl⟩, arrive_discarded hfind rfl⟩
end

section
/-! SUPPORT. The instructions of edges, cuts and convergence, and the acts of cuts and quiet passes (R235, R237, R247, R248,
R250, R251, R253). -/

namespace Sys2Proof.Machine

/-! ### GATT and GDET -/

section
variable {o : XOps} {s s1 : State} {i : Instr} {a : Bool} (hi : Issues i o.h s)
include hi

theorem edgeForm_misaligned (hgr : (s.ctx.rg o.h.s1.index).toNat % 8 ≠ 0) :
    edgeForm i o a s = .next (s.takeTrapA { cause := cMISALIGNED, tval := some (s.ctx.rg o.h.s1.index) }) := by
  refine issueNext_trap hi ?_
  rw [act_bind_ok (act_readGReg _ s)]
  exact act_bind_error (act_unlessFault_false (by simpa using hgr) _ _ s) _

variable {w : List Nat} {code : Nat} (hgr : (s.ctx.rg o.h.s1.index).toNat % 8 = 0)
  (hload : (loadWords (s.ctx.rg o.h.s1.index).toNat 4).run s = .ok (w, s1))
include hgr hload

theorem edgeForm_refused (hcheck : s1.edgeCheck s1.ctx.rcb (edgeRec w) a = (code, none)) :
    edgeForm i o a s = .next ((s1.modCtx (·.wg o.h.d.index (BitVec.ofNat 64 code))).retired i) := by
  refine issueNext_ok hi ?_
  rw [act_bind_ok (act_readGReg _ s), act_bind_ok (act_unlessFault (by simpa using hgr) _ _ s), act_bind_ok hload,
    act_bind_ok (act_get s1)]
  simp only [hcheck]
  exact act_writeD _ _ s1

theorem edgeForm_done {x : Ends} (hcheck : s1.edgeCheck s1.ctx.rcb (edgeRec w) a = (code, some x))
    (hv : s1.arrivalWaits x.v.1 x.v.2.2 (edgeRec w).vslot = false)
    (hf : s1.arrivalWaits x.f.1 x.f.2.2 (edgeRec w).pos = false) :
    edgeForm i o a s = .next (((if a then s1.attach s1.ctx.rcb (edgeRec w) x else s1.detach s1.ctx.rcb (edgeRec w) x).modCtx
      (·.wg o.h.d.index (BitVec.ofNat 64 code))).retired i) := by
  refine issueNext_ok hi ?_
  rw [act_bind_ok (act_readGReg _ s), act_bind_ok (act_unlessFault (by simpa using hgr) _ _ s), act_bind_ok hload,
    act_bind_ok (act_get s1)]
  simp only [hcheck]
  rw [act_bind_ok (act_waitUntil (by simp [hv, hf]) _ _ s1), act_bind_ok (act_modify _ s1)]
  exact act_writeD _ _ _

end

theorem exec_eq_edgeForm {i : Instr} {o : XOps} {a : Bool} (h : (i = .gatt o ∧ a = true) ∨ (i = .gdet o ∧ a = false))
    (s : State) :
    exec i s = edgeForm i o a s := by
  rcases h with ⟨rfl, rfl⟩ | ⟨rfl, rfl⟩
  · rfl
  · rfl

/-! ### GCUT -/

section
variable {o : XOps} {s : State} (hi : Issues (.gcut o) o.h s) (hcell : bits (s.ctx.rg o.h.s1.index).toNat 51 48 = 1)
include hi hcell

theorem exec_gcut_active (hactive : bit (s.rcut s.ctx.rcb) 8 = true) : exec (.gcut o) s = .next
    ((s.modCtx (·.wg o.h.d.index (BitVec.ofNat 64 (bits (s.rcut s.ctx.rcb) 7 0 * 256 + 1)))).retired (.gcut o)) := by
  refine issueNext_writes hi ?_
  rw [act_bind_ok (act_readGReg _ s), act_bind_ok (act_unlessFault (by simp [hcell]) _ _ s), act_bind_ok (act_get s),
    if_pos hactive]
  rfl

variable (hrest : bit (s.rcut s.ctx.rcb) 8 = false)
include hrest

theorem exec_gcut_alone (hnone : s.graphActors s.ctx.rcb = 0) : exec (.gcut o) s = .next
    ((s.modCtx (·.wg o.h.d.index (BitVec.ofNat 64 (bits (s.rcut s.ctx.rcb) 7 0 * 256 + 2)))).retired (.gcut o)) := by
  refine issueNext_writes hi ?_
  rw [act_bind_ok (act_readGReg _ s), act_bind_ok (act_unlessFault (by simp [hcell]) _ _ s), act_bind_ok (act_get s),
    if_neg (by simp [hrest]), if_pos hnone]
  rfl

theorem exec_gcut_starts (hsome : s.graphActors s.ctx.rcb ≠ 0) : exec (.gcut o) s = .next
    (((s.startCut s.ctx.rcb (poolAddr 2 (gaCore (s.ctx.rg o.h.s1.index).toNat) (o.w.toNat % 32))).modCtx
      (·.wg o.h.d.index (BitVec.ofNat 64 ((bits (s.rcut s.ctx.rcb) 7 0 + 1) % 256 * 256)))).retired (.gcut o)) := by
  refine issueNext_ok hi ?_
  rw [act_bind_ok (act_readGReg _ s), act_bind_ok (act_unlessFault (by simp [hcell]) _ _ s), act_bind_ok (act_get s),
    if_neg (by simp [hrest]), if_neg hsome, act_bind_ok (act_modify _ s)]
  exact act_writeD _ _ _

end

/-! ### Instructions of several accesses -/

section
variable {i : Instr} {h : Hd} {s s1 : State} {start : Act (List Piece)} (hi : Issues i h s) (hbegun : s.ctx.moving = [])
include hi hbegun

/-- The accesses that an instruction names are made as far as none waits; the rest are left for later acts (R182). -/
theorem issue_movePieces {ps : List Piece} (hstart : start.run s = .ok (ps, s1)) {r : List Piece × State}
    (hr : r = runPieces ps s1) :
    issue i h (movePieces start) s = .next (if r.1 = [] then (Claims.whole r.2).retired i
      else (r.2.modCtx (fun c => { c with moving := r.1 })).modCtx (·.stallOn .memory false r.2.now)) := by
  subst hr
  have body : (movePieces start).run s = (do
      set ((runPieces ps s1).2.modCtx (fun c => { c with moving := (runPieces ps s1).1 }))
      if (runPieces ps s1).1.isEmpty then return .next
      modCtx (·.stallOn .memory false (runPieces ps s1).2.now)
      return .hold : Act Flow).run s1 := by
    unfold movePieces
    rw [act_bind_ok (act_getCtx s)]
    simp only [hbegun, List.isEmpty_nil, ↓reduceIte]
    rw [act_bind_ok hstart, act_bind_ok (act_get s1)]
  split
  case isTrue hdone =>
    refine issue_next hi ?_
    rw [body, act_bind_ok (act_set _ s1), hdone]
    rfl
  case isFalse hleft =>
    refine issue_hold hi ?_
    rw [body, act_bind_ok (act_set _ s1), if_neg (by simpa using hleft)]
    rfl

theorem issue_movePieces_trap {t : Trap} (hstart : start.run s = .error (.trap t)) :
    issue i h (movePieces start) s = .next (s.takeTrapA t) := by
  refine issue_stop hi (e := .trap t) ?_
  unfold movePieces
  rw [act_bind_ok (act_getCtx s)]
  simp only [hbegun, List.isEmpty_nil, ↓reduceIte]
  exact act_bind_error hstart _

/-- An instruction that names no access but its result. -/
theorem issue_movePieces_result {d : Reg} {v : Word} (hstart : start.run s = .ok ([.result d v], s)) :
    issue i h (movePieces start) s = .next ((Claims.whole (s.modCtx (·.wg d.index v))).retired i) :=
  issue_movePieces hi hbegun hstart rfl

end

/-! ### GCUTRD -/

section
variable {o : XOps} {s s1 : State} {own b : Bound} {core : Nat} (hi : Issues (.gcutrd o) o.h s)
  (hown : s.ownBound = some own) (hg : own.isGraph = true)
  (hactor : s.actorAt s.ctx.rcb (s.ctx.rg o.h.s1.index) = some (core, b)) (hbegun : s.ctx.moving = [])
include hi hown hg hactor hbegun

/-- An actor that has not recorded answers 2, and a recorded factor 1. -/
theorem exec_gcutrd_answers {n : Nat}
    (hn : bit (s.ghdr core b) 32 = false ∧ n = 2 ∨ bit (s.ghdr core b) 32 = true ∧ b.d.cls ≠ 1 ∧ n = 1) :
    exec (.gcutrd o) s = .next ((Claims.whole (s.modCtx (·.wg o.h.d.index
      (BitVec.ofNat 64 (bits (s.ghdr core b) 31 24 * 256 + n))))).retired (.gcutrd o)) := by
  refine issue_movePieces_result hi hbegun ?_
  rw [act_bind_ok (act_graphActor hown hg), act_bind_ok (act_readGReg _ s), act_bind_ok (act_readGReg _ s),
    act_bind_ok (act_get s), hactor]
  rcases hn with ⟨hrec, rfl⟩ | ⟨hrec, hcls, rfl⟩
  · simp only [hrec, Bool.not_false, ↓reduceIte, OfNat.ofNat_ne_zero]
    rfl
  · simp only [hrec, hcls, Bool.not_true, Bool.false_eq_true, ↓reduceIte, one_ne_zero]
    rfl

variable (hrec : bit (s.ghdr core b) 32 = true) (hcls : b.d.cls = 1)
include hrec hcls

theorem exec_gcutrd_misaligned (hx : (s.ctx.rg o.h.s2.index).toNat % 32 ≠ 0) : exec (.gcutrd o) s =
    .next (s.takeTrapA { cause := cMISALIGNED, tval := some (s.ctx.rg o.h.s2.index) }) := by
  refine issue_movePieces_trap hi hbegun ?_
  rw [act_bind_ok (act_graphActor hown hg), act_bind_ok (act_readGReg _ s), act_bind_ok (act_readGReg _ s),
    act_bind_ok (act_get s), hactor]
  simp only [hrec, hcls, Bool.not_true, Bool.false_eq_true, ↓reduceIte]
  exact act_bind_error (act_unlessFault_false (by simpa using hx) _ _ s) _

/-- The snapshot of a recorded variable is stored block by block, and then gD is written. -/
theorem exec_gcutrd_stores (hx : (s.ctx.rg o.h.s2.index).toNat % 32 = 0) {ps : List Phys}
    (hps : (resolveBlocks (s.ctx.rg o.h.s2.index).toNat 4).run s = .ok (ps, s1))
    (hranges : (ownRanges 32 ps).run s1 = .ok ((), s1)) {snap : Nat}
    (hsnap : snap = packLanes 64
      ((List.range 16).map (fun k => s.peekVirt core b.rcb (b.d.state.toNat + 0x140 + 8 * k))))
    {r : List Piece × State} (hr : r = runPieces
      (ps.mapIdx (fun k p => .store p 32 (bits snap (256 * k + 255) (256 * k)) none) ++
        [.result o.h.d (BitVec.ofNat 64 (bits (s.ghdr core b) 31 24 * 256))]) s1) :
    exec (.gcutrd o) s = .next (if r.1 = [] then (Claims.whole r.2).retired (.gcutrd o)
      else (r.2.modCtx (fun c => { c with moving := r.1 })).modCtx (·.stallOn .memory false r.2.now)) := by
  refine issue_movePieces hi hbegun ?_ hr
  rw [act_bind_ok (act_graphActor hown hg), act_bind_ok (act_readGReg _ s), act_bind_ok (act_readGReg _ s),
    act_bind_ok (act_get s), hactor]
  simp only [hrec, hcls, Bool.not_true, Bool.false_eq_true, ↓reduceIte, ← hsnap, Nat.add_zero]
  rw [act_bind_ok (act_unlessFault (by simpa using hx) _ _ s), act_bind_ok hps, act_bind_ok hranges]
  exact act_pure _ s1

end

/-! ### CVRD -/

/-- The word of convergence that CVRD chooses by its option (R248). -/
def State.convWord (s : State) (n : Nat) : Word :=
  if n = 0 then s.here.cvmax.setWidth 64
  else if n = 1 then s.here.cvcnt.setWidth 64
  else if n = 2 then BitVec.ofNat 64 (s.here.epoch * 2 ^ 41 + s.here.infl * 2 ^ 32 + s.age s.here)
  else BitVec.ofNat 64 (s.peek (s.ctx.rcb + 0x90) 8)

theorem convWord_zero (s : State) : s.convWord 0 = s.here.cvmax.setWidth 64 := by simp [State.convWord]
theorem convWord_one (s : State) : s.convWord 1 = s.here.cvcnt.setWidth 64 := by simp [State.convWord]
theorem convWord_two (s : State) : s.convWord 2 = s.sysValue 0x01F 0 := by simp [State.sysValue, State.convWord, word]
theorem convWord_three (s : State) : s.convWord 3 = word (s.peek (s.ctx.rcb + 0x90) 8) := by simp [State.convWord, word]

theorem exec_cvrd {o : XOps} {s : State} {own : Bound} (hi : Issues (.cvrd o) o.h s) (hown : s.ownBound = some own)
    (hg : own.isGraph = true) : exec (.cvrd o) s = .next
      (((if bit o.w.toNat 2 then s.modHere (fun c => { c with cvmax := 0, cvcnt := 0 }) else s).modCtx
        (·.wg o.h.d.index (s.convWord (o.w.toNat % 4)))).retired (.cvrd o)) := by
  have cleared : ∀ v, (do
      if bit o.w.toNat 2 then modCore (fun c => { c with cvmax := 0, cvcnt := 0 })
      writeD o.h.d v : Act Unit).run s = .ok ((),
        (if bit o.w.toNat 2 then s.modHere (fun c => { c with cvmax := 0, cvcnt := 0 }) else s).modCtx
          (·.wg o.h.d.index v)) := by
    intro v
    cases bit o.w.toNat 2 with
    | false => rfl
    | true => rfl
  refine issueNext_ok hi ?_
  rw [act_bind_ok (act_graphActor hown hg), act_bind_ok (act_get s)]
  have hn : o.w.toNat % 4 = 0 ∨ o.w.toNat % 4 = 1 ∨ o.w.toNat % 4 = 2 ∨ o.w.toNat % 4 = 3 := by omega
  rcases hn with hn | hn | hn | hn
  · simp only [hn, convWord_zero]
    exact cleared _
  · simp only [hn, convWord_one]
    exact cleared _
  · simp only [hn, convWord_two]
    exact cleared _
  · simp only [hn, convWord_three]
    exact cleared _

/-! ### Cut starts and markers -/

theorem exec_cutStartArrival_marks {s : State} {n core rcb id : Nat} (hx : tfind s.flights n = some (.cutStart core rcb id))
    (hwait : ∀ b ∈ (s.coreAt core).binds, b.2.rcb = rcb → b.2.isGraph = true → s.arrivalWaits core b.2 0 = false) :
    exec (.cutStartArrival n) s = .next
      ((s.coreAt core).binds.foldl (fun s b => if b.2.rcb == rcb then s.marker core b.1 id else s)
        { s with flights := tdel s.flights n }) := by
  have free : ¬ ((s.coreAt core).binds.any (fun b => b.2.rcb == rcb && b.2.isGraph && s.arrivalWaits core b.2 0)) = true := by
    simp only [List.any_eq_true, Bool.and_eq_true, beq_iff_eq, not_exists, not_and, Bool.not_eq_true]
    exact fun b hb ⟨hrcb, hg⟩ => hwait b hb hrcb hg
  show execCutStartArrival n s = _
  unfold execCutStartArrival
  simp only [hx]
  rw [if_neg free]
  rfl

section
variable {s : State} {n rcb act slot id : Nat} (hx : tfind s.flights n = some (.marker rcb act slot id))
  (hidle : s.edgeBusy n rcb act slot = false)
include hx hidle

theorem exec_markerArrival_bound {core k : Nat} {b : Bound} (hfind : s.findActor rcb act = some (core, k, b))
    (hwait : s.arrivalWaits core b slot = false) :
    exec (.markerArrival n) s = .next (({ s with flights := tdel s.flights n } : State).marker core k id) := by
  show execMarkerArrival n s = _
  unfold execMarkerArrival State.performMarker
  simp only [hx, hidle, hfind, hwait, Bool.false_eq_true, ↓reduceIte]

theorem exec_markerArrival_unbound (hfind : s.findActor rcb act = none) : exec (.markerArrival n) s = .next
    (if s.isGone rcb then ({ s with flights := tdel s.flights n } : State) else s) := by
  show execMarkerArrival n s = _
  unfold execMarkerArrival State.performMarker
  simp only [hx, hidle, hfind, Bool.false_eq_true, ↓reduceIte]

end

/-! ### Quiet passes -/

section
variable {s : State} {rcb : Nat} {r : Region} (hr : s.regionAt (s.regionPkg rcb) rcb = some r) {cores : Table Core}
  (hcores : cores = s.cores.filter (fun c => c.2.region == some rcb))
include hr hcores

theorem exec_almanacQuietPass_busy (hbusy : ∃ c ∈ cores, s.quietCore c.2 = false) : exec (.almanacQuietPass rcb) s = .next
    ((s.modRegion rcb (fun r => { r with quietPass := none })).poke (rcb + 0x90) 8
      (putBits (s.peek (rcb + 0x90) 8) 0 1 0)) := by
  have notQuiet : cores.all (fun c => s.quietCore c.2) = false := by
    simpa only [List.all_eq_false, Bool.not_eq_true] using hbusy
  show execAlmanacQuietPass rcb s = _
  unfold execAlmanacQuietPass
  simp only [hr, ← hcores, notQuiet, Bool.not_false, ↓reduceIte]

variable (hquiet : ∀ c ∈ cores, s.quietCore c.2 = true) {epochs : List (Nat × Nat)}
  (hepochs : epochs = cores.map (fun c => (c.1, c.2.epoch)))
include hquiet hepochs

/-- The second quiet pass with the same EPOCHs sets CONV and counts it (R247). -/
theorem exec_almanacQuietPass_converged (hsame : r.quietPass = some epochs) (hconv : bit (s.peek (rcb + 0x90) 8) 0 = false) :
    exec (.almanacQuietPass rcb) s = .next ((s.modRegion rcb (fun r => { r with quietPass := some epochs })).poke (rcb + 0x90) 8
      (((bits (s.peek (rcb + 0x90) 8) 31 8 + 1) % 2 ^ 24) * 2 ^ 8 + 1)) := by
  have allQuiet : cores.all (fun c => s.quietCore c.2) = true := List.all_eq_true.mpr hquiet
  show execAlmanacQuietPass rcb s = _
  unfold execAlmanacQuietPass
  simp only [hr, ← hcores, allQuiet, ← hepochs, hsame, hconv, Bool.not_true, Bool.not_false, beq_self_eq_true, Bool.and_self,
    Bool.false_eq_true, ↓reduceIte]

/-- A quiet pass that does not converge is only remembered. -/
theorem exec_almanacQuietPass_quiet (hother : r.quietPass ≠ some epochs ∨ bit (s.peek (rcb + 0x90) 8) 0 = true) :
    exec (.almanacQuietPass rcb) s = .next (s.modRegion rcb (fun r => { r with quietPass := some epochs })) := by
  have allQuiet : cores.all (fun c => s.quietCore c.2) = true := List.all_eq_true.mpr hquiet
  have notYet : (r.quietPass == some epochs && !bit (s.peek (rcb + 0x90) 8) 0) = false := by
    rcases hother with h | h
    · simp [beq_false_of_ne h]
    · simp [h]
  show execAlmanacQuietPass rcb s = _
  unfold execAlmanacQuietPass
  simp only [hr, ← hcores, allQuiet, ← hepochs, notYet, Bool.not_true, Bool.false_eq_true, ↓reduceIte]

end

end Sys2Proof.Machine

open Sys2Proof.Machine in
/-- Settles O40: each instruction and each act has a lemma for each way it goes. -/
theorem graphEdges : Obligations.GraphEdges := by
  unfold Obligations.GraphEdges
  intro o s s1 w gr
  refine ⟨?edges, ?cut, ?read, ?conv, ?start, ?marker, ?quiet⟩
  case edges =>
    intro i a hia hi
    rw [exec_eq_edgeForm hia s]
    exact ⟨edgeForm_misaligned hi, fun hgr hload => ⟨fun code => edgeForm_refused hi hgr hload,
      fun code x => edgeForm_done hi hgr hload⟩⟩
  case cut =>
    exact fun hi hcell => ⟨exec_gcut_active hi hcell, exec_gcut_alone hi hcell, exec_gcut_starts hi hcell⟩
  case read =>
    intro own core b hi hown hg hactor g x snap answer hbegun
    exact ⟨fun hrec => exec_gcutrd_answers hi hown hg hactor hbegun (.inl ⟨hrec, rfl⟩),
      fun hrec hcls => exec_gcutrd_answers hi hown hg hactor hbegun (.inr ⟨hrec, hcls, rfl⟩),
      exec_gcutrd_misaligned hi hown hg hactor hbegun,
      fun ps hrec hcls hx hps hranges =>
        exec_gcutrd_stores hi hown hg hactor hbegun hrec hcls hx hps hranges rfl rfl⟩
  case conv =>
    intro own hi hown hg v
    have run := exec_cvrd hi hown hg
    exact ⟨fun hkeep => by rw [run, hkeep]; rfl, fun hclear => by rw [run, hclear]; rfl⟩
  case start => exact fun n core rcb id => exec_cutStartArrival_marks
  case marker =>
    exact fun n rcb act slot id hx hidle => ⟨fun core k b => exec_markerArrival_bound hx hidle,
      exec_markerArrival_unbound hx hidle⟩
  case quiet =>
    exact fun rcb r hr => ⟨exec_almanacQuietPass_busy hr rfl, fun hq => exec_almanacQuietPass_converged hr rfl hq rfl,
      fun hq => exec_almanacQuietPass_quiet hr rfl hq rfl⟩
end

section
/-! SUPPORT. The trap that software chooses, and the return from a trap (R263 to R265). -/

namespace Sys2Proof.Machine

/-! ### TRAPC -/

section
variable {o : AOps} {s : State} (hi : Issues (.trapc o) o.h s)
include hi

/-- A cause that software may name is the cause of the trap (R264). -/
theorem exec_trapc_named (hn : causeReserved (o.ext.toNat % 128) = false ∧ o.ext.toNat % 128 < 88) :
    exec (.trapc o) s = .next
      (s.takeTrapA { cause := o.ext.toNat % 128, tval := some (s.ctx.rg o.h.s1.index), sw := true }) := by
  refine issue_stop hi (e := .trap _) ?_
  rw [act_bind_ok (act_readGReg _ s), act_bind_ok (act_unlessFault (by simp [hn]) _ _ s)]
  rfl

/-- Any other cause is the value of ILLEGAL_OPERAND (R264). -/
theorem exec_trapc_refused (hn : ¬ (causeReserved (o.ext.toNat % 128) = false ∧ o.ext.toNat % 128 < 88)) :
    exec (.trapc o) s = .next
      (s.takeTrapA { cause := cILLEGAL_OPERAND, tval := some (BitVec.ofNat 64 (o.ext.toNat % 128)) }) := by
  refine issue_stop hi (e := .trap _) ?_
  rw [act_bind_ok (act_readGReg _ s)]
  exact act_bind_error (act_unlessFault_false (by simpa using hn) _ _ s) _

end

/-! ### TRAPRET -/

/-- Changes of the current context that agree on it are one change. -/
theorem modCtx_congr {s : State} {f g : Ctx → Ctx} (h : f s.ctx = g s.ctx) : s.modCtx f = s.modCtx g :=
  congrArg (fun c => s.setCore s.core (s.here.setCtx s.fc c)) h


/-- The context of a firing that is back from its handler, but for the pc (R83, R263). -/
def Ctx.returned (c : Ctx) (f : Firing) : Ctx :=
  { c with mode := .u, tskip := false, tregn := false, stall := none, xfer := none, refetch := false,
           preemptDue := c.preempt.isSome, firing := some { f with trapped := false } }

/-- The actor of a firing that is back from its handler runs again (R263). -/
def State.runsAgain (s : State) (f : Firing) : State :=
  if f.act.isSome then s.setBound s.core f.slot (fun b => { b with life := .running }) else s

section
variable {o : AOps} {s : State} {f : Firing} (hi : Issues (.trapret o) o.h s) (hf : s.ctx.firing = some f)
include hi hf

/-- A trap of the A-half goes back to its slot (R263). -/
theorem exec_trapret_slot (ho : s.ctx.torigin = 0) (hr : s.ctx.tregn = false) : exec (.trapret o) s =
    .next (((s.modCtx (fun c => { c.returned f with pc := c.tpc })).runsAgain f).stayed (.trapret o)) := by
  refine issue_stay hi ?_
  unfold trapReturn
  rw [act_bind_ok (act_getCtx s)]
  simp only [ho, hr, hf]
  rfl

/-- A trap of the X-half goes back to the next slot of the A-half, and the frozen entries resume (R263). -/
theorem exec_trapret_entry (ho : s.ctx.torigin = 1) (hr : s.ctx.tregn = false) (hk : s.ctx.tskip = false) :
    exec (.trapret o) s =
      .next (((s.modCtx (fun c => { c.returned f with pc := c.tnext, xfrozen := false })).runsAgain f).stayed (.trapret o)) := by
  refine issue_stay hi ?_
  unfold trapReturn
  rw [act_bind_ok (act_getCtx s)]
  simp only [ho, hr, hk, hf]
  rfl

/-- With REGN an uncommitted region begins again at its entry, with the predicates of its snapshot (R263). The sequencer is empty,
so no entry of the region is left to discard. -/
theorem exec_trapret_region (ho : s.ctx.torigin ≠ 2) (hr : s.ctx.tregn = true) (hc : s.ctx.idem.committed = false)
    (hx : s.ctx.xseq = []) : exec (.trapret o) s =
      .next (((s.modCtx (fun c => { c.returned f with
        pc := c.idem.entry, p := c.idem.preds, xfrozen := false, xskip := false, xseq := [] })).runsAgain f).stayed
          (.trapret o)) := by
  refine issue_stay hi ?_
  unfold trapReturn
  rw [act_bind_ok (act_getCtx s)]
  simp only [ho, hr, hc, hf, hx, Ctx.entries, decide_false, Bool.and_false, Bool.or_self, Bool.false_eq_true, ↓reduceIte,
    List.flatMap_nil, List.filter_nil, List.foldl_nil]
  rw [act_bind_ok (act_get s), act_bind_ok (act_set _ s)]
  refine congrArg (fun t => Except.ok (Flow.stay, State.runsAgain t f)) (modCtx_congr ?_)
  simp only [hx, List.filterMap_nil]
  rfl

/-- After a load's data error, or with REGN in a committed region, the firing is abandoned as END in S mode does (R263). -/
theorem exec_trapret_abandons (ho : s.ctx.torigin = 2 ∨ s.ctx.tregn = true ∧ s.ctx.idem.committed = true)
    (hq : Claims.Quiet s) : exec (.trapret o) s = .next ((s.abandon s.core s.fc).stayed (.trapret o)) := by
  have abandons : (decide (s.ctx.torigin = 2) || (s.ctx.tregn && s.ctx.idem.committed)) = true := by simpa using ho
  refine issue_stay hi ?_
  unfold trapReturn
  rw [act_bind_ok (act_getCtx s)]
  simp only [abandons, hf, ↓reduceIte]
  rw [act_bind_ok (act_quietWaits hq)]
  rfl

end

end Sys2Proof.Machine

open Sys2Proof.Machine in
/-- Settles O10: `causeReserved` and the bound of 88 decide between the two lemmas of TRAPC. -/
theorem trapcTraps : Obligations.TrapcTraps := by
  intro o s hi
  dsimp only
  split
  case isTrue hn => exact exec_trapc_named hi hn
  case isFalse hn => exact exec_trapc_refused hi hn

open Sys2Proof.Machine in
/-- Settles O13: TRAPRET has a lemma for each place it goes back to, and one for the end of the firing. -/
theorem trapReturn : Obligations.TrapReturn :=
  fun _ _ _ hi hf => ⟨exec_trapret_slot hi hf, exec_trapret_entry hi hf, exec_trapret_region hi hf,
    exec_trapret_abandons hi hf⟩
end

section
/-! SUPPORT. Mailboxes and their messages, events, WFE and gangs (R256, R309 to R314). -/

namespace Sys2Proof.Machine

/-! ### MBX.BIND -/

section
variable {o : EOps} {s : State} (hi : Issues (.mbxBind o) o.h s)
include hi

theorem exec_mbxBind_nobody (hb : s.boundAt (s.ctx.rg o.h.s1.index) = none) :
    exec (.mbxBind o) s = .next ((s.modCtx (·.wg o.h.d.index 3)).retired (.mbxBind o)) := by
  refine issueNext_writes hi ?_
  rw [act_bind_ok (act_get s)]
  simp only [hb]

variable {slot : Nat} {b : Bound} (hb : s.boundAt (s.ctx.rg o.h.s1.index) = some (slot, b))
include hb

theorem exec_mbxBind_other (hn : b.isHandler = false ∨ b.rcb ≠ s.ctx.rcb) :
    exec (.mbxBind o) s = .next ((s.modCtx (·.wg o.h.d.index 3)).retired (.mbxBind o)) := by
  refine issueNext_writes hi ?_
  rw [act_bind_ok (act_get s)]
  simp only [hb]
  rw [if_pos (by simpa using hn)]

variable (hh : b.isHandler = true) (hr : b.rcb = s.ctx.rcb)
include hh hr

theorem exec_mbxBind_inUse (hu : (tfind s.here.mailboxes (bits o.w.toNat 4 0)).isSome ∨ b.mailbox.isSome) :
    exec (.mbxBind o) s = .next ((s.modCtx (·.wg o.h.d.index 1)).retired (.mbxBind o)) := by
  refine issueNext_writes hi ?_
  rw [act_bind_ok (act_get s)]
  simp only [hb]
  rw [if_neg (by simp [hh, hr]), if_pos (by simpa using hu)]

variable (hm : tfind s.here.mailboxes (bits o.w.toNat 4 0) = none) (hf : b.mailbox = none)
include hm hf

theorem exec_mbxBind_full (hs : 256 < s.here.storeUsed + bits o.w.toNat 12 5) :
    exec (.mbxBind o) s = .next ((s.modCtx (·.wg o.h.d.index 2)).retired (.mbxBind o)) := by
  refine issueNext_writes hi ?_
  rw [act_bind_ok (act_get s)]
  simp only [hb]
  rw [if_neg (by simp [hh, hr]), if_neg (by simp [hm, hf]), if_pos hs]

theorem exec_mbxBind_binds (hs : s.here.storeUsed + bits o.w.toNat 12 5 ≤ 256) :
    exec (.mbxBind o) s = .next ((((s.modHere (fun c => { c with
      mailboxes := tset c.mailboxes (bits o.w.toNat 4 0) ⟨slot, bits o.w.toNat 12 5, [], [], false, false⟩ })).setBound s.core slot
        (fun b => { b with mailbox := some (bits o.w.toNat 4 0) })).modCtx (·.wg o.h.d.index 0)).retired (.mbxBind o)) := by
  refine issueNext_ok hi ?_
  rw [act_bind_ok (act_get s)]
  simp only [hb]
  rw [if_neg (by simp [hh, hr]), if_neg (by simp [hm, hf]), if_neg (by omega), act_bind_ok (act_modCore _ s),
    act_bind_ok (act_modify _ _)]
  exact act_writeD _ _ _

end

/-! ### MBX.FREE and MBXRD -/

section
variable {o : EOps} {s : State} (hi : Issues (.mbxFree o) o.h s)
include hi

theorem exec_mbxFree_unbound (hm : tfind s.here.mailboxes (bits o.w.toNat 4 0) = none) :
    exec (.mbxFree o) s = .next ((s.modCtx (·.wg o.h.d.index 0)).retired (.mbxFree o)) := by
  refine issueNext_writes hi ?_
  rw [act_bind_ok (act_getCore s)]
  simp only [hm]

variable {b : Mailbox} (hm : tfind s.here.mailboxes (bits o.w.toNat 4 0) = some b)
include hm

theorem exec_mbxFree_busy (hb : b.taken = true ∨ b.msgs ≠ []) :
    exec (.mbxFree o) s = .next ((s.modCtx (·.wg o.h.d.index 1)).retired (.mbxFree o)) := by
  refine issueNext_writes hi ?_
  rw [act_bind_ok (act_getCore s)]
  simp only [hm]
  rw [if_pos (by simpa using hb)]

theorem exec_mbxFree_frees (ht : b.taken = false) (he : b.msgs = []) : exec (.mbxFree o) s =
    .next ((((s.dropMailbox s.core (bits o.w.toNat 4 0)).setBound s.core b.slot
      (fun b => { b with mailbox := none })).modCtx (·.wg o.h.d.index 0)).retired (.mbxFree o)) := by
  refine issueNext_ok hi ?_
  rw [act_bind_ok (act_getCore s)]
  simp only [hm]
  rw [if_neg (by simp [ht, he]), act_bind_ok (act_modify _ s)]
  exact act_writeD _ _ _

end

/-- A handler's firing keeps the words of the message that launched it (R311). -/
theorem exec_mbxrd {o : EOps} {s : State} {f : Firing} {k : Nat} (hi : Issues (.mbxrd o) o.h s) (hf : s.ctx.firing = some f)
    (hk : f.kind = .handler k) :
    exec (.mbxrd o) s = .next ((s.modCtx (·.wg o.h.d.index (f.msg.getD o.w.toNat 0))).retired (.mbxrd o)) := by
  refine issueNext_writes hi ?_
  rw [act_bind_ok (act_getCtx s)]
  simp only [hf, hk]

/-! ### SEND -/

/-- Nothing is tested on the way to a target of the core's own package (R397). -/
theorem act_reachCheck_own {s : State} {ga : Word} (h : gaPkg ga.toNat = corePkg s.core) :
    (reachCheck ga).run s = .ok ((), s) := by
  unfold reachCheck
  rw [act_bind_ok (act_get s)]
  dsimp only
  rw [if_neg (not_not_intro h)]
  rfl

section
variable {o : EOps} {s : State} (hi : Issues (.send o) o.h s) (hs : Claims.FencedTo s o.scope.toNat)
include hi hs

theorem exec_send_illegal (hm : mailboxName (s.ctx.rg o.h.s1.index).toNat = none)
    (hq : hostQueueName (s.ctx.rg o.h.s1.index).toNat = none) : exec (.send o) s =
      .next (s.takeTrapA { cause := cILLEGAL_OPERAND, tval := some (s.ctx.rg o.h.s1.index) }) := by
  refine issueNext_trap hi ?_
  rw [act_bind_ok (act_getCtx s), act_bind_ok (act_fence hs), act_bind_ok (act_get s)]
  simp only [hm, hq]
  exact act_fault _ _ _ s

variable (hp : gaPkg (s.ctx.rg o.h.s1.index).toNat = corePkg s.core) (hroom : s.ctx.posted.length + 1 ≤ 64)
  {payload : List Word} (hw : payload = (spanOf o.h.s2.index o.h.s3.index).map s.ctx.rg)
include hp hroom hw

theorem exec_send_mailbox {k n : Nat} (hm : mailboxName (s.ctx.rg o.h.s1.index).toNat = some (k, n)) :
    exec (.send o) s = .next ((s.launch { newTxn s (.message (messageEntry (entryWord0 s.core s.fc payload.length n) payload))
      .mailbox (s.ctx.rg o.h.s1.index).toNat 64 with
        count := some (countFor s.core (s.ctx.rg o.h.s1.index).toNat) }).retired (.send o)) := by
  refine issueNext_ok hi ?_
  rw [act_bind_ok (act_getCtx s), act_bind_ok (act_fence hs), act_bind_ok (act_get s)]
  simp only [hm, ← hw]
  rw [act_bind_ok (act_reachCheck_own hp)]
  exact act_post hroom _ _ _ _ _

theorem exec_send_hostQueue {q : Nat} (hm : mailboxName (s.ctx.rg o.h.s1.index).toNat = none)
    (hq : hostQueueName (s.ctx.rg o.h.s1.index).toNat = some q) :
    exec (.send o) s = .next ((s.launch { newTxn s (.hostMessage (messageEntry (entryWord0 s.core s.fc payload.length 0) payload))
      .host (s.ctx.rg o.h.s1.index).toNat 64 with
        count := some (countFor s.core (s.ctx.rg o.h.s1.index).toNat) }).retired (.send o)) := by
  refine issueNext_ok hi ?_
  rw [act_bind_ok (act_getCtx s), act_bind_ok (act_fence hs), act_bind_ok (act_get s)]
  simp only [hm, hq, ← hw]
  rw [act_bind_ok (act_reachCheck_own hp)]
  exact act_post hroom _ _ _ _ _

end

/-! ### Events -/

theorem exec_evt {o : EOps} {s : State} (hi : Issues (.evt o) o.h s) {x : Word} (hx : x = s.ctx.rg o.h.s1.index)
    (hhigh : bits x.toNat 51 48 = 0) (hlow : bits x.toNat 33 4 = 0) (hcoord : coordOk (bits x.toNat 47 34) = true) :
    exec (.evt o) s = .next ((s.addFlight (.event (gaCore x.toNat) (x.setWidth 4))).retired (.evt o)) := by
  subst hx
  refine issueNext_ok hi ?_
  rw [act_bind_ok (act_readGReg _ s), act_bind_ok (act_unlessFault (by simp [hhigh, hlow, hcoord]) _ _ s)]
  exact act_modify _ s

theorem exec_eventDelivery {s : State} {n core : Nat} {mask : BitVec 4} (hx : tfind s.flights n = some (.event core mask)) :
    exec (.eventDelivery n) s = .next
      ((List.range 4).foldl (fun s k => if mask.getLsbD k then s.modCtxOf core k Ctx.event else s)
        { s with flights := tdel s.flights n }) := by
  show execEventDelivery n s = _
  unfold execEventDelivery
  simp only [hx]

/-! ### WFE -/

section
variable {o : EOps} {s : State} (hi : Issues (.wfe o) o.h s)
include hi

/-- A WFE whose latch has changed writes it, whatever its limit (R256). -/
theorem exec_wfe_changed (hx : s.ctx.evlatch ≠ (s.ctx.rg o.h.s1.index).setWidth 32) : exec (.wfe o) s =
    .next ((s.modCtx (·.wg o.h.d.index (s.ctx.evlatch.setWidth 64))).retired (.wfe o)) := by
  refine issueNext_writes hi ?_
  unfold wfe
  rw [act_bind_ok (act_get s)]
  dsimp only
  rw [act_bind_ok (act_waitUntil (by simp [hx]) _ _ s)]

/-- The limit counts from the cycle the wait began (R256). -/
theorem exec_wfe_waits (hx : s.ctx.evlatch = (s.ctx.rg o.h.s1.index).setWidth 32) (hs : s.ctx.stall = none) :
    exec (.wfe o) s = .next (s.modCtx (·.stallOn .wfe true s.now)) := by
  refine issueNext_wait hi ?_
  unfold wfe
  rw [act_bind_ok (act_get s)]
  dsimp only
  exact act_bind_error (act_waitUntil_false (by simp [hx, hs]) _ _ s) _

end

theorem stall_of_waitingAt {s : State} {core fc : Nat} {why : StallWhy} {i : Instr} (h : s.waitingAt core fc why = some i) :
    ∃ st, (s.ctxOf core fc).stall = some st ∧ st.why = why := by
  unfold State.waitingAt at h
  dsimp only at h
  split at h
  case h_1 st l hs hl =>
    refine ⟨st, hs, ?_⟩
    split at h
    case isTrue hw => simp only [Bool.and_eq_true, beq_iff_eq] at hw; exact hw.1
    case isFalse => cases h
  case h_2 => cases h

theorem exec_wfeTimeout {s : State} {core fc : Nat} {o : EOps} (hw : s.waitingAt core fc .wfe = some (.wfe o))
    (ho : s.wfeOver core fc = true) (hi : Issues (.wfe o) o.h (s.at core fc)) :
    exec (.wfeTimeout core fc) s = .next (((s.at core fc).modCtx (·.wg o.h.d.index
      ((s.at core fc).ctx.evlatch.setWidth 64))).retired (.wfe o)) := by
  obtain ⟨st, hs, hwhy⟩ := stall_of_waitingAt hw
  have past : ((s.ctxOf core fc).rg o.h.s2.index).toNat ≠ 0 ∧
      ((s.ctxOf core fc).rg o.h.s2.index).toNat ≤ s.now - st.since := by
    simpa [State.wfeOver, hw, hs] using ho
  show execWfeTimeout core fc s = _
  unfold execWfeTimeout
  simp only [hw, ho, ↓reduceIte]
  refine issueNext_writes hi ?_
  unfold wfe
  rw [act_bind_ok (act_get _)]
  simp only [ctx_at, hs, hwhy]
  rw [act_bind_ok (act_waitUntil (by simp [past]) _ _ _)]

/-! ### Gangs -/

section
variable {o : EOps} {s : State}

theorem exec_gangOn_joins (hi : Issues (.gangOn o) o.h s) (hg : s.here.gang = none ∨ s.here.gang = some (s.fc % 4)) {t : State}
    (ht : t = s.modHere (fun c => { c with gang := some (s.fc % 4) })) : exec (.gangOn o) s =
      .next ((t.modCtx (·.wg o.h.d.index (BitVec.ofNat 64 (t.gangMask * 2 ^ 8)))).retired (.gangOn o)) := by
  subst ht
  have free : (s.here.gang.isNone || s.here.gang == some (s.fc % 4)) = true := by simpa using hg
  refine issueNext_ok hi ?_
  rw [act_bind_ok (act_get s)]
  simp only [free, Bool.not_true, natOfBool, Bool.false_eq_true, ↓reduceIte, Nat.add_zero]
  rw [act_bind_ok (act_modCore _ s), act_bind_ok (act_get _)]
  exact act_writeD _ _ _

theorem exec_gangOn_refused (hi : Issues (.gangOn o) o.h s) (hn : s.here.gang ≠ none) (hg : s.here.gang ≠ some (s.fc % 4)) :
    exec (.gangOn o) s =
      .next ((s.modCtx (·.wg o.h.d.index (BitVec.ofNat 64 (s.gangMask * 2 ^ 8 + 1)))).retired (.gangOn o)) := by
  have taken : (s.here.gang.isNone || s.here.gang == some (s.fc % 4)) = false := by
    simp [hg, Option.isSome_iff_ne_none.mpr hn]
  refine issueNext_writes hi ?_
  rw [act_bind_ok (act_get s)]
  simp only [taken, Bool.not_false, natOfBool, Bool.false_eq_true, ↓reduceIte]
  rw [act_bind_ok (act_get s)]
  rfl

theorem exec_gangOff_leaves (hi : Issues (.gangOff o) o.h s) (hg : s.here.gang = some (s.fc % 4)) {t : State}
    (ht : t = s.modHere (fun c => { c with gang := none })) : exec (.gangOff o) s =
      .next ((t.modCtx (·.wg o.h.d.index (BitVec.ofNat 64 (t.gangMask * 2 ^ 8)))).retired (.gangOff o)) := by
  subst ht
  refine issueNext_ok hi ?_
  rw [act_bind_ok (act_get s)]
  simp only [hg, beq_self_eq_true, Bool.not_true, natOfBool, Bool.false_eq_true, ↓reduceIte, Nat.add_zero]
  rw [act_bind_ok (act_modCore _ s), act_bind_ok (act_get _)]
  exact act_writeD _ _ _

theorem exec_gangOff_refused (hi : Issues (.gangOff o) o.h s) (hg : s.here.gang ≠ some (s.fc % 4)) : exec (.gangOff o) s =
    .next ((s.modCtx (·.wg o.h.d.index (BitVec.ofNat 64 (s.gangMask * 2 ^ 8 + 1)))).retired (.gangOff o)) := by
  refine issueNext_writes hi ?_
  rw [act_bind_ok (act_get s)]
  simp only [beq_false_of_ne hg, Bool.not_false, natOfBool, Bool.false_eq_true, ↓reduceIte]
  rw [act_bind_ok (act_get s)]
  rfl

end

/-! ### Messages -/

section
variable {s : State} {k n : Nat} {b : Mailbox} {e : List Word} {txn : Option Nat}

/-- A message goes to no number that is not bound, KILLED or not (R351). -/
theorem deliver_unbound (hm : tfind (s.coreAt k).mailboxes n = none) : s.deliver k n e txn = (.refused, s) := by
  unfold State.deliver
  simp only [hm, ite_self]

variable (hlive : ∀ r, (s.coreAt k).region = some r → s.rcbState r ≠ 4) (hm : tfind (s.coreAt k).mailboxes n = some b)
include hlive hm

/-- In a region that is not KILLED a mailbox takes the entry, or holds it behind the entries it already has (R312, R351). -/
theorem deliver_bound : s.deliver k n e txn =
    if b.msgs.length < b.depth ∧ b.held.isEmpty then
      (.appended, s.modCore k (fun x => ({ x with
        mailboxes := tset x.mailboxes n { b with msgs := b.msgs ++ [e] } } : Core).wakeHandler
          { b with msgs := b.msgs ++ [e] } s.now))
    else (.held, s.modCore k (fun x => { x with
      mailboxes := tset x.mailboxes n { b with held := b.held ++ [⟨txn, e⟩] } })) := by
  unfold State.deliver
  cases hr : (s.coreAt k).region with
  | none =>
    simp only [State.modCore, hr, hm, Bool.false_eq_true, ↓reduceIte]
  | some r =>
    simp only [State.modCore, hr, hm, beq_false_of_ne (hlive r hr), Bool.false_eq_true, ↓reduceIte]

end

/-- What the delivery of its entry makes of a transaction (R312). -/
def Delivery.stage : Delivery → TxnStage
  | .refused => .failed cMBX_UNBOUND
  | .appended => .done
  | .held => .held

/-- An entry under way to a mailbox of its own package is delivered when it is the first of its context to it (R312). -/
theorem exec_mailboxEntryArrival {s u : State} {id k n : Nat} {t : Txn} {e : List Word} {d : Delivery}
    (ht : tfind s.txns id = some t) (hst : t.stage = .travelling) (hnear : t.near = true) (htarget : t.target = .mailbox)
    (hop : t.op = .message e) (hname : mailboxName t.ga = some (k, n)) (hpkg : corePkg k = t.source)
    (hfirst : s.entryBehind id t = false) (hd : s.deliver k n e (some id) = (d, u)) :
    exec (.mailboxEntryArrival id) s = .next (u.setTxn id { t with stage := d.stage }) := by
  have here : s.performAt id t = s.performMessage id t := by
    unfold State.performAt
    rw [htarget]
  have lands : s.performMessage id t = u.setTxn id { t with stage := d.stage } := by
    unfold State.performMessage
    rw [hfirst, hop, hname]
    simp only [hpkg, ne_eq, not_true_eq_false, decide_false, Bool.false_eq_true, ↓reduceIte, hd]
    cases d with
    | refused | appended | held => rfl
  show execMailboxEntryArrival id s = _
  unfold execMailboxEntryArrival
  rw [withTxn_some ht, if_pos (by simp [hst, hnear, htarget]), here, lands]

/-! ### Held messages -/

@[simp] theorem Core.wakeHandler_mailboxes (c : Core) (b : Mailbox) (now : Nat) :
    (c.wakeHandler b now).mailboxes = c.mailboxes := by
  unfold Core.wakeHandler
  split
  case h_1 => split <;> rfl
  case h_2 => rfl

/-- The oldest held entry becomes the newest message, and the transaction that brought it changes no core (R312). -/
theorem mailboxes_appendHeld {s : State} {core n : Nat} {b : Mailbox} {h : HeldMsg} {rest : List HeldMsg}
    (hm : tfind (s.coreAt core).mailboxes n = some b) (hh : b.held = h :: rest) (hroom : b.msgs.length < b.depth) :
    tfind ((s.appendHeld core n).coreAt core).mailboxes n = some { b with msgs := b.msgs ++ [h.entry], held := rest } := by
  have appended : ((s.appendHeld core n).coreAt core).mailboxes =
      tset (s.coreAt core).mailboxes n { b with msgs := b.msgs ++ [h.entry], held := rest } := by
    have kept : ∀ (u : State) (id : Nat) (t : Txn), (u.setTxn id t).coreAt core = u.coreAt core := fun _ _ _ => rfl
    unfold State.appendHeld
    simp only [hm, hh, hroom, ↓reduceIte]
    split
    · split <;> simp [kept]
    · simp
  rw [appended, tfind_tset, if_pos rfl]

end Sys2Proof.Machine

open Sys2Proof.Machine in
/-- Settles O43: each instruction and each event has a lemma for each way it goes, and an entry that arrives goes as
`State.deliver` says. -/
theorem mailboxesAndEvents : Obligations.MailboxesAndEvents := by
  intro o s m depth x answers
  refine ⟨?bind, ?free, fun f k => exec_mbxrd, ?send, fun hi => exec_evt hi rfl, fun n core mask => exec_eventDelivery,
    exec_wfe_changed, exec_wfe_waits, fun core fc => exec_wfeTimeout, ?join, ?leave, ?arrival, ?append⟩
  case bind =>
    exact fun hi => ⟨exec_mbxBind_nobody hi, fun slot b hb => ⟨exec_mbxBind_other hi hb, fun hh hr =>
      ⟨exec_mbxBind_inUse hi hb hh hr, fun hm hf => ⟨exec_mbxBind_full hi hb hh hr hm hf, exec_mbxBind_binds hi hb hh hr hm hf⟩⟩⟩⟩
  case free =>
    exact fun hi => ⟨exec_mbxFree_unbound hi, fun b hm => ⟨exec_mbxFree_busy hi hm, exec_mbxFree_frees hi hm⟩⟩
  case send =>
    exact fun hi hs hp hroom => ⟨fun k n => exec_send_mailbox hi hs hp hroom rfl, fun q => exec_send_hostQueue hi hs hp hroom rfl,
      exec_send_illegal hi hs⟩
  case join => exact fun hi => ⟨fun hg => exec_gangOn_joins hi hg rfl, exec_gangOn_refused hi⟩
  case leave => exact fun hi => ⟨fun hg => exec_gangOff_leaves hi hg rfl, exec_gangOff_refused hi⟩
  case arrival =>
    intro id t e k n b ht hst hnear htarget hop hname hpkg hfirst hlive
    have arrives {d : Delivery} {u : State} := exec_mailboxEntryArrival (d := d) (u := u) ht hst hnear htarget hop hname hpkg hfirst
    refine ⟨fun hm => arrives (deliver_unbound hm), fun hm hroom hheld => arrives (d := .appended) ?_,
      fun hm hfull => arrives (d := .held) ?_⟩
    · rw [deliver_bound hlive hm, if_pos ⟨hroom, by simp [hheld]⟩]
    · rw [deliver_bound hlive hm, if_neg fun h => absurd h.1 (by omega)]
  case append =>
    exact fun core n b h rest hm hh hroom => ⟨rfl, _, mailboxes_appendHeld hm hh hroom, rfl, rfl⟩
end

section
/-! SUPPORT. What an atomic does: on a cell of the own pool, sent to its target, on a line held for updates, and posted to a merge
unit (R290, R294 to R296, R373, R374). -/

namespace Sys2Proof.Machine

/-! ### The forms -/

/-- The AMO instructions are one meaning by their operation (R294). -/
theorem exec_amo {i : Instr} {o : MOps} {op : AmoOp} (hi : Claims.amo i = some (o, op)) (s : State) :
    exec i s = amo i op o s := by
  unfold Claims.amo at hi
  split at hi
  case h_11 => cases hi
  all_goals
    obtain ⟨rfl, rfl⟩ := hi
    rfl

theorem exec_amof {i : Instr} {o : MOps} {op : AmoOp} (hi : Claims.amof i = some (o, op)) (s : State) :
    exec i s = amof i op o s := by
  unfold Claims.amof at hi
  split at hi
  case h_11 => cases hi
  all_goals
    obtain ⟨rfl, rfl⟩ := hi
    rfl

theorem exec_amoU {i : Instr} {o : MOps} {op : AmoOp} (hi : Claims.amoU i = some (o, op)) (s : State) :
    exec i s = amoU i op o s := by
  unfold Claims.amoU at hi
  split at hi
  case h_10 => cases hi
  all_goals
    obtain ⟨rfl, rfl⟩ := hi
    rfl

/-! ### One atomic -/

/-- A release waits for its scope, and any other order for nothing (R176). -/
theorem act_releaseFence {s : State} {ord : BitVec 2} {scope : Nat} (h : ord = 2 → Claims.FencedTo s scope)
    (k : Unit → Act Unit) :
    (if ord == 2 then fence scope >>= k else k ()).run s = (k ()).run s := by
  by_cases ho : ord = 2
  · rw [if_pos (by simp [ho]), act_bind_ok (act_fence (h ho))]
  · rw [if_neg (by simpa using ho)]

@[simp] theorem State.applyOp_old (s : State) (key size : Nat) (op : TxnOp) :
    (s.applyOp key size op).2.1 = s.rdNat key size := by
  unfold State.applyOp
  dsimp only
  cases op.stores (s.rdNat key size) with
  | none | some => rfl

/-- An operation that is no AMO with zero-fire sends no wake (R298). -/
theorem State.applyOp_fired {s : State} {key size : Nat} {op : TxnOp} (h : ∀ o f rm v, op ≠ .amo o f rm v true) :
    (s.applyOp key size op).2.2 = false := by
  unfold State.applyOp
  dsimp only
  cases op.stores (s.rdNat key size) with
  | none => rfl
  | some new =>
    cases op with
    | amo o f rm v zf =>
      cases zf with
      | false => rfl
      | true => exact absurd rfl (h o f rm v)
    | _ => rfl

section
variable {s : State} {p : Phys} {n : Nat} {op : TxnOp} (hc : Claims.Clear s p n)
include hc

/-- An atomic on a cell of the own pool is made at issue, and its old value lands (R294, R295). -/
theorem startAtomic_own (ho : Claims.Own s p n true) (hb : s.bad p.ga n = false) (hf : ∀ o f rm v, op ≠ .amo o f rm v true)
    (acq : Bool) (d : Dest) :
    (startAtomic op p n acq d).run s = (landNow op d none (s.rdNat p.ga n)).run (s.applyOp p.ga n op).1 := by
  have sound : s.ownError d p.ga n = none := by simp [State.ownError, ho.inRole, hb]
  unfold startAtomic
  rw [act_bind_ok (act_gate hc), act_bind_ok (act_get s)]
  simp only [notDram_of_isOwn ho.own, ho.own, Bool.false_eq_true, ↓reduceIte]
  rw [act_bind_ok (act_waitUntil (by simp [ho.still]) _ _ _), act_bind_ok (act_waitUntil (by simp [hc.pending]) _ _ _)]
  simp only [sound, State.applyOp_old, State.applyOp_fired hf, Bool.false_eq_true, ↓reduceIte]
  rw [act_bind_ok (act_set _ _), act_bind]
  rfl

/-- An atomic without a destination, of another core's pool or of a line that the core may not write on, is posted (R296). -/
theorem startAtomic_posted (hfar : Claims.FarStore s p) (hcls : p.isDram = true → p.cls = .hc ∨ p.cls = .sc)
    (hroom : (Claims.missed s p).ctx.posted.length + 1 ≤ 64) (acq : Bool) :
    (startAtomic op p n acq .none).run s = .ok ((), (Claims.missed s p).launch
      { newTxn (Claims.missed s p) op (Claims.target p) p.ga n p.pageGa with
        count := some (countFor (Claims.missed s p).core p.ga) }) := by
  unfold startAtomic
  rw [act_bind_ok (act_gate hc), act_bind_ok (act_get s)]
  cases hd : p.isDram with
  | true =>
    simp only [Claims.FarStore, Claims.missed, hd, ↓reduceIte] at hfar hroom ⊢
    have class' : (p.cls == .hc || p.cls == .sc) = true := by simpa using hcls hd
    simp only [class', hfar, ↓reduceIte, Claims.target, hd]
    rw [act_bind_ok (act_modCore _ _)]
    exact act_post hroom _ _ _ _ _
  | false =>
    simp only [Claims.FarStore, Claims.missed, hd, ↓reduceIte, Bool.false_eq_true] at hfar hroom ⊢
    simp only [hfar, Bool.false_eq_true, ↓reduceIte, Claims.target, hd]
    exact act_post hroom _ _ _ _ _

/-- An atomic with a destination is sent there, and its destination waits (R296). -/
theorem startAtomic_asked (hfar : Claims.FarStore s p) (hcls : p.isDram = true → p.cls = .hc ∨ p.cls = .sc) (acq : Bool)
    {d : Dest} (hd : d ≠ .none) : (startAtomic op p n acq d).run s = .ok ((), Claims.asked s p op n acq d) := by
  unfold startAtomic
  rw [act_bind_ok (act_gate hc), act_bind_ok (act_get s)]
  cases hdram : p.isDram with
  | true =>
    simp only [Claims.FarStore, hdram, ↓reduceIte] at hfar ⊢
    have class' : (p.cls == .hc || p.cls == .sc) = true := by simpa using hcls hdram
    simp only [class', hfar, ↓reduceIte, beq_false_of_ne hd, Bool.false_eq_true]
    rw [act_bind_ok (act_modCore _ _), act_modify]
    simp only [Claims.asked, Claims.missed, Claims.target, hdram, ↓reduceIte]
  | false =>
    simp only [Claims.FarStore, hdram, ↓reduceIte, Bool.false_eq_true] at hfar ⊢
    simp only [hfar, beq_false_of_ne hd, Bool.false_eq_true, ↓reduceIte]
    rw [act_modify]
    simp only [Claims.asked, Claims.missed, Claims.target, hdram, Bool.false_eq_true, ↓reduceIte]

/-- An atomic of a deterministic page is posted to its merge unit with the key of its core, whose CNT rises (R373, R374). -/
theorem startDm_posts {op : AmoOp} {f : Fmt} {rm : BitVec 3} {v : Word} (hcnt : s.here.cnt ≠ 0xFFFFFFFF)
    (hroom : s.ctx.posted.length + 1 ≤ 64) : (startDm op f rm v p).run s = .ok ((), (s.launch
      { newTxn s (.dm ⟨s.here.lcore, s.here.cnt.toNat, p.ga, op, f, rm, v, false, false⟩) .merge p.ga (f.width / 8) p.pageGa with
        count := some (countFor s.core p.ga) }).modHere (fun c => ({ c with cnt := c.cnt + 1 } : Core).count 0x009)) := by
  unfold startDm
  rw [act_bind_ok (act_gate hc), act_bind_ok (act_get s), act_bind_ok (act_unlessFault (by simpa using hcnt) _ _ _)]
  exact act_bind_ok (act_post hroom _ _ _ _ _) _

end

/-! ### AMO, AMOF and AMO.U -/

section
variable {i : Instr} {o : MOps} {op : AmoOp} {s s1 t : State} {p : Phys}

/-- An AMO with its address resolved goes on as its one atomic does (R296). -/
theorem exec_amo_goes (hi : Issues i o.h s) (ha : Claims.amo i = some (o, op))
    (hr : (resolveAtomic (o.ea s.ctx) o.size).run s = .ok (p, s1))
    (hz : o.zf = false) (hf : o.ord = 2 → Claims.FencedTo s1 o.scope.toNat)
    (hb : (if p.dm then startDm op o.fmt o.h.rm (s.ctx.rg o.h.s3.index) p
      else startAtomic (.amo op o.fmt o.h.rm (s.ctx.rg o.h.s3.index) o.zf) p o.size false .none).run s1 = .ok ((), t)) :
    exec i s = .next (t.retired i) := by
  rw [exec_amo ha]
  refine issueNext_ok hi ?_
  rw [act_bind_ok (act_getCtx s), act_bind_ok hr, act_bind_ok (act_unlessFault (by simp [hz]) _ _ _)]
  exact (act_releaseFence hf _).trans hb

theorem exec_amof_goes (hi : Issues i o.h s) (ha : Claims.amof i = some (o, op))
    (hr : (resolveAtomic (o.ea s.ctx) o.size).run s = .ok (p, s1))
    (hdm : p.dm = false) (hf : o.ord = 2 → Claims.FencedTo s1 o.scope.toNat)
    (hb : (startAtomic (.amo op o.fmt o.h.rm (s.ctx.rg o.h.s3.index) false) p o.size (o.ord == 1) (.g o.h.d.index o.fmt)).run s1 =
      .ok ((), t)) : exec i s = .next (t.retired i) := by
  rw [exec_amof ha]
  refine issueNext_ok hi ?_
  rw [act_bind_ok (act_getCtx s), act_bind_ok hr, act_bind_ok (act_unlessFault (by simp [hdm]) _ _ _)]
  exact (act_releaseFence hf _).trans hb

/-- An AMO.U outside the HC and SC classes goes on as its one atomic does (R292). -/
theorem exec_amoU_goes (hi : Issues i o.h s) (ha : Claims.amoU i = some (o, op))
    (hr : (resolveAtomic (o.ea s.ctx) o.size (· != .ow)).run s = .ok (p, s1)) (hd : p.dm = true ∨ p.isDram = false)
    (hb : (if p.dm then startDm op o.fmt o.h.rm (s.ctx.rg o.h.s3.index) p
      else startAtomic (.amo op o.fmt 0 (s.ctx.rg o.h.s3.index) false) p o.size false .none).run s1 = .ok ((), t)) :
    exec i s = .next (t.retired i) := by
  rw [exec_amoU ha]
  refine issueNext_ok hi ?_
  rw [act_bind_ok (act_getCtx s), act_bind_ok hr, ← hb]
  rcases hd with hd | hd
  · simp only [hd, ↓reduceIte]
    rfl
  · simp only [hd, Bool.false_and, Bool.false_eq_true, ↓reduceIte]
    rfl

/-- An AMO.U of an HC or SC line that the core holds in U for its operation is added to the delta, and the context's time
moves past every lease of the home (R290, R297; log entry 146). -/
theorem exec_amoU_delta (hi : Issues i o.h s) (ha : Claims.amoU i = some (o, op))
    (hr : (resolveAtomic (o.ea s.ctx) o.size (· != .ow)).run s = .ok (p, s1)) (hc : Claims.Clear s1 p o.size)
    (hdm : p.dm = false) (hd : p.isDram = true) (hcls : p.cls = .hc ∨ p.cls = .sc)
    (hu : s1.here.ulines.any (fun u => u.addr == lineOf p.ga && u.op == op && u.fmt == o.fmt) = true)
    (hh : (s1.homeAt (lineOf p.ga)).us.contains s1.core = true) : exec i s = .next
      (((s1.addDelta s1.core p.ga op o.fmt (valOf o.fmt (s.ctx.rg o.h.s3.index))).modCtx (fun c => { c with
        cts := max c.cts (if s1.inHcOrder p then (s1.homeAt (lineOf p.ga)).rts + 1 else 0) })).retired i) := by
  have class' : (p.isDram && (p.cls == .hc || p.cls == .sc)) = true := by simpa [hd] using hcls
  rw [exec_amoU ha]
  refine issueNext_ok hi ?_
  rw [act_bind_ok (act_getCtx s), act_bind_ok hr]
  simp only [hdm, class', Bool.false_eq_true, ↓reduceIte]
  rw [act_bind_ok (act_gate hc), act_bind_ok (act_get s1),
    act_bind_ok (act_waitUntil (by simp [hc.posted, hc.pending]) _ _ _)]
  simp only [hu, hh, Bool.and_self, ↓reduceIte]
  exact act_modify _ _

theorem exec_cas_goes (hi : Issues (.cas o) o.h s) (hr : (resolveAtomic (o.ea s.ctx) o.size).run s = .ok (p, s1))
    (hdm : p.dm = false) (hf : o.ord = 2 → Claims.FencedTo s1 o.scope.toNat)
    (hb : (startAtomic (.cas o.fmt (s.ctx.rg o.h.d.index) (s.ctx.rg o.h.s3.index)) p o.size
      (o.ord == 1) (.g o.h.d.index o.fmt)).run s1 = .ok ((), t)) : exec (.cas o) s = .next (t.retired (.cas o)) := by
  refine issueNext_ok hi ?_
  rw [act_bind_ok (act_getCtx s), act_bind_ok hr, act_bind_ok (act_unlessFault (by simp [hdm]) _ _ _)]
  exact (act_releaseFence hf _).trans hb

theorem exec_casw_goes (hi : Issues (.casw o) o.h s) (hr : (resolveAtomic (o.ea s.ctx) 16).run s = .ok (p, s1))
    (hdm : p.dm = false) (hf : o.ord = 2 → Claims.FencedTo s1 o.scope.toNat)
    (hb : (startAtomic (.casw (s.ctx.rg o.h.d.index, s.ctx.rg (o.h.d.index + 1))
      (s.ctx.rg o.h.s3.index, s.ctx.rg (o.h.s3.index + 1))) p 16 (o.ord == 1) (.pair o.h.d.index)).run s1 = .ok ((), t)) :
    exec (.casw o) s = .next (t.retired (.casw o)) := by
  refine issueNext_ok hi ?_
  rw [act_bind_ok (act_getCtx s), act_bind_ok hr, act_bind_ok (act_unlessFault (by simp [hdm]) _ _ _)]
  exact (act_releaseFence hf _).trans hb

/-- A deterministic page refuses the forms that return a value (R296, R374). -/
theorem exec_amof_deterministic (hi : Issues i o.h s) (ha : Claims.amof i = some (o, op) ∨ i = .cas o)
    (hr : (resolveAtomic (o.ea s.ctx) o.size).run s = .ok (p, s1)) (hdm : p.dm = true) :
    exec i s = .next (s.takeTrapA { cause := cAMO_CLASS }) := by
  have refused (f : Unit → Act Unit) : (unlessFault (!p.dm) cAMO_CLASS >>= f).run s1 = .error (.trap { cause := cAMO_CLASS }) :=
    act_bind_error (act_unlessFault_false (by simp [hdm]) _ _ _) _
  rcases ha with ha | rfl
  · rw [exec_amof ha]
    refine issueNext_trap hi ?_
    rw [act_bind_ok (act_getCtx s), act_bind_ok hr, refused]
  · refine issueNext_trap hi ?_
    rw [act_bind_ok (act_getCtx s), act_bind_ok hr, refused]

end

/-- An atomic of the own pool that returns nothing leaves the cell's new value (R294, R296). -/
theorem startAtomic_ownAmo {s : State} {p : Phys} {n : Nat} {i : Instr} (hc : Claims.Clear s p n) (ho : Claims.Own s p n true)
    (hb : s.bad p.ga n = false) (op : AmoOp) (f : Fmt) (rm : BitVec 3) (v : Word) : ∃ t,
    (startAtomic (.amo op f rm v false) p n false .none).run s = .ok ((), t) ∧
      t.retired i = (s.wrNat p.ga n (Claims.amoNew op f rm (s.rdNat p.ga n) v)).retired i := by
  refine ⟨_, startAtomic_own hc ho hb (by simp) false .none, ?_⟩
  show ((State.wrNat _ _ _ _).modCtx id).retired i = _
  simp only [State.retired, State.modCtx_modCtx]
  rfl

end Sys2Proof.Machine

open Sys2Proof.Machine in
/-- Settles O22: an AMO is one atomic (`exec_amo_goes`), made at issue on the own pool and else posted; an AMO.U of an HC or
SC line in U adds to its delta (`exec_amoU_delta`). -/
theorem amoCompletes : Obligations.AmoCompletes := by
  intro i o op s s1 p hi hc hdm
  refine ⟨fun ha hr hz hf => ⟨?own, ?pool, ?line⟩, fun ha hr => ⟨?ownU, exec_amoU_delta hi ha hr hc hdm⟩⟩
  case own =>
    intro ho hb
    obtain ⟨t, ht, same⟩ := startAtomic_ownAmo (i := i) hc ho hb op o.fmt o.h.rm (s.ctx.rg o.h.s3.index)
    exact (exec_amo_goes hi ha hr hz hf (t := t) (by simpa [hdm, hz] using ht)).trans (congrArg _ same)
  case pool =>
    intro hd hown hroom
    refine exec_amo_goes hi ha hr hz hf ?_
    have sent := startAtomic_posted hc (op := .amo op o.fmt o.h.rm (s.ctx.rg o.h.s3.index) false)
      (by simpa [Claims.FarStore, hd] using hown) (by simp [hd]) (by simpa [Claims.missed, hd] using hroom) false
    simpa [hdm, hz, Claims.missed, Claims.target, hd] using sent
  case line =>
    intro hd hcls hcopy hroom
    refine exec_amo_goes hi ha hr hz hf ?_
    have sent := startAtomic_posted hc (op := .amo op o.fmt o.h.rm (s.ctx.rg o.h.s3.index) false)
      (by simpa [Claims.FarStore, hd] using hcopy) (fun _ => hcls) hroom false
    simpa [hdm, hz, Claims.target, hd] using sent
  case ownU =>
    intro ho hb
    obtain ⟨t, ht, same⟩ := startAtomic_ownAmo (i := i) hc ho hb op o.fmt 0 (s.ctx.rg o.h.s3.index)
    exact (exec_amoU_goes hi ha hr (.inr (notDram_of_isOwn ho.own)) (t := t) (by simpa [hdm] using ht)).trans (congrArg _ same)

open Sys2Proof.Machine in
/-- Settles O23: each form is one atomic with a destination, made at issue on the own pool (`startAtomic_own`) and else sent
(`startAtomic_asked`). -/
theorem amofCompletes : Obligations.AmofCompletes := by
  intro s s1 p
  refine ⟨fun i o op ha hi hr hc hdm hf => ⟨fun ho hb => ?_, fun hfar hcls => ?_⟩,
    fun o hi hr hc hdm hf => ⟨fun hfar hcls => ?_, fun ho hb => ?_⟩,
    fun o hi hr hc hdm hf => ⟨fun hfar hcls => ?_, fun ho hb => ?_⟩⟩
  · exact exec_amof_goes hi ha hr hdm hf (startAtomic_own hc ho hb (by simp) _ _)
  · exact exec_amof_goes hi ha hr hdm hf (startAtomic_asked hc hfar hcls _ (by simp))
  · exact exec_cas_goes hi hr hdm hf (startAtomic_asked hc hfar hcls _ (by simp))
  · exact exec_cas_goes hi hr hdm hf (startAtomic_own hc ho hb (by simp) _ _)
  · exact exec_casw_goes hi hr hdm hf (startAtomic_asked hc hfar hcls _ (by simp))
  · exact exec_casw_goes hi hr hdm hf (startAtomic_own hc ho hb (by simp) _ _)

open Sys2Proof.Machine in
/-- Settles O24: AMO and AMO.U of a deterministic page are `startDm` (`startDm_posts`); the forms that return a value are
refused there. -/
theorem deterministicAtomics : Obligations.DeterministicAtomics := by
  intro i o op s s1 p hi hdm
  refine ⟨fun h hc hcnt hroom => ?_, fun h hr => ?_⟩
  · have posts := startDm_posts hc (op := op) (f := o.fmt) (rm := o.h.rm) (v := s.ctx.rg o.h.s3.index) hcnt hroom
    rcases h with ⟨ha, hr, hz, hf⟩ | ⟨ha, hr⟩
    · exact exec_amo_goes hi ha hr hz hf (by simpa only [hdm, ↓reduceIte] using posts)
    · exact exec_amoU_goes hi ha hr (.inl hdm) (by simpa only [hdm, ↓reduceIte] using posts)
  · exact exec_amof_deterministic hi h hr hdm
end

section
/-! SUPPORT. Cells of the own pool that are read or changed whole, and BARI, BAR and BARW (R171, R295, R300). -/

namespace Sys2Proof.Machine

/-- What a store need not wait for in the pool, a load need not either (R116). -/
theorem Core.poolWaits_load {c : Core} {space off n : Nat} (h : c.poolWaits space off n true = false) :
    c.poolWaits space off n false = false := by
  unfold Core.poolWaits at h ⊢
  simp only [Bool.or_eq_false_iff, List.any_eq_false, Bool.and_eq_true, Bool.or_eq_true, not_and, not_or, Bool.true_and,
    Bool.false_and, Bool.false_eq_true, not_false_eq_true, and_true] at h ⊢
  exact ⟨h.1, fun t ht hcov => (h.2 t ht hcov).1⟩

section
variable {s : State} {p : Phys} {n : Nat} (hc : Claims.Cell s p n)
include hc

/-- A change of a cell made whole (R171, R295). -/
theorem touchNow_cell (f : Nat → Option Nat) : (touchNow p n f).run s =
    .ok (s.rdNat p.ga n, s.wrNat p.ga n ((f (s.rdNat p.ga n)).getD (s.rdNat p.ga n))) :=
  touchNow_own hc.clear hc.own hc.pool hc.here hc.sound

/-- A cell of the own pool read whole is left as it is (R171). -/
theorem readNow_cell : (readNow p n).run s = .ok (s.rdNat p.ga n, s) := by
  have near : p.isDram = false := notDram_of_isOwn hc.own.own
  have core : gaCore p.ga = s.core := by
    have := hc.own.own
    unfold State.isOwn at this
    simp only [Bool.and_eq_true, beq_iff_eq] at this
    exact this.2
  have goes : s.stopsNow p.ga ⟨s.nextId, s.core, s.fc % 4⟩ = none := by
    simp [State.stopsNow, State.farOpen, hc.here, hc.pool]
  have still : (s.coreAt s.core).poolWaits (gaSpace p.ga) (gaOff p.ga) n false = false := Core.poolWaits_load hc.own.still
  have inside : (s.coreAt s.core).inRole (gaSpace p.ga) (gaOff p.ga) n = true := hc.own.inRole
  have touched : s.touch ⟨s.nextId, s.core, s.fc % 4⟩ s.ctx.rcb s.ctx.cts p n (fun _ => none) =
      .ok (s, s.rdNat p.ga n, none) := by
    unfold State.touch
    simp only [goes, hc.pool, and_self, ↓reduceIte, core, ne_eq, not_true_eq_false, false_and, Option.isSome_none, still,
      inside, hc.sound, Bool.not_true, Bool.not_false, Bool.and_true, Bool.false_eq_true]
  unfold readNow
  rw [act_bind_ok (act_gateLoad hc.clear), act_bind_ok (act_get s)]
  simp only [near, Bool.false_eq_true, ↓reduceIte, Bool.not_false, Bool.or_true, touched]
  rfl

theorem readCell_own : (readCell p n).run s = .ok (s.rdNat p.ga n, s) := by
  unfold readCell
  simp only [notDram_of_isOwn hc.own.own, Bool.false_and, Bool.false_eq_true, ↓reduceIte]
  exact readNow_cell hc

end

theorem act_cellAt {s s1 : State} {p : Phys} {ea n : Nat} (hr : Claims.cell s ea n p s1) (hc : Claims.Cell s1 p n) :
    (cellAt ea n).run s = .ok (p, s1) := by
  unfold cellAt
  rw [act_bind_ok hr, act_bind_ok (act_unlessFault (by simp [hc.plain]) _ _ _), act_bind_ok (act_gate hc.clear)]
  rfl

section
variable {s : State} {p : Phys} {f : Nat → Option Nat} (hc : Claims.Cell s p 16)
include hc

theorem barChange_goes {x : Nat} (h : f (s.rdNat p.ga 16) = some x) :
    (barChange p f).run s = .ok (s.rdNat p.ga 16, s.wrNat p.ga 16 x) := by
  unfold barChange
  rw [act_bind_ok (touchNow_cell hc f), act_bind_ok (act_unlessFault (by simp [h]) _ _ _), h]
  rfl

theorem barChange_refused (h : f (s.rdNat p.ga 16) = none) : (barChange p f).run s =
    .error (.trap { cause := cBAR_STATE, tval := some (word p.ga) }) := by
  unfold barChange
  rw [act_bind_ok (touchNow_cell hc f), act_bind_error (act_unlessFault_false (by simp [h]) _ _ _)]

end

section
variable {o : MOps} {s s1 : State} {p : Phys} (hr : Claims.cell s (o.ea s.ctx) 16 p s1) (hc : Claims.Cell s1 p 16)
include hr hc

theorem exec_bari_writes {x : Nat} (hi : Issues (.bari o) o.h s)
    (hx : barInit (s.ctx.rg o.h.s3.index).toNat (s1.rdNat p.ga 16) = some x) :
    exec (.bari o) s = .next ((s1.wrNat p.ga 16 x).retired (.bari o)) := by
  refine issueNext_ok hi ?_
  rw [act_bind_ok (act_getCtx s), act_bind_ok (act_cellAt hr hc), act_bind_ok (barChange_goes hc hx)]
  rfl

theorem exec_bari_refused (hi : Issues (.bari o) o.h s)
    (hx : barInit (s.ctx.rg o.h.s3.index).toNat (s1.rdNat p.ga 16) = none) :
    exec (.bari o) s = .next (s.takeTrapA { cause := cBAR_STATE, tval := some (word p.ga) }) := by
  refine issueNext_trap hi ?_
  rw [act_bind_ok (act_getCtx s), act_bind_ok (act_cellAt hr hc), act_bind_error (barChange_refused hc hx)]

section
variable (hi : Issues (.bar o) o.h s) (hx : s.ctx.xseq = []) (hb : s.ctx.xbusy = false)
  (hf : Claims.FencedTo s1 o.scope.toNat)
include hi hx hb hf

theorem exec_bar_writes {x : Nat} (ha : barArrive (s1.rdNat p.ga 16) = some x) : exec (.bar o) s =
    .next (((s1.wrNat p.ga 16 x).modCtx (·.wg o.h.d.index (word (barGen (s1.rdNat p.ga 16))))).retired (.bar o)) := by
  refine issueNext_ok hi ?_
  rw [act_bind_ok (act_getCtx s), act_bind_ok (act_waitUntil (by simp [hx, hb]) _ _ _), act_bind_ok (act_cellAt hr hc),
    act_bind_ok (act_fence hf), act_bind_ok (barChange_goes hc ha)]
  exact act_writeD _ _ _

theorem exec_bar_refused (ha : barArrive (s1.rdNat p.ga 16) = none) :
    exec (.bar o) s = .next (s.takeTrapA { cause := cBAR_STATE, tval := some (word p.ga) }) := by
  refine issueNext_trap hi ?_
  rw [act_bind_ok (act_getCtx s), act_bind_ok (act_waitUntil (by simp [hx, hb]) _ _ _), act_bind_ok (act_cellAt hr hc),
    act_bind_ok (act_fence hf), act_bind_error (barChange_refused hc ha)]

end

section
variable (hi : Issues (.barw o) o.h s)
include hi

theorem exec_barw_goes (hg : barGen (s1.rdNat p.ga 16) ≠ (s.ctx.rg o.h.s3.index).toNat % 2 ^ 32) :
    exec (.barw o) s = .next (s1.retired (.barw o)) := by
  refine issueNext_ok hi ?_
  rw [act_bind_ok (act_getCtx s), act_bind_ok (act_cellAt hr hc), act_bind_ok (readCell_own hc),
    act_waitUntil (by simpa using hg)]

theorem exec_barw_waits (hg : barGen (s1.rdNat p.ga 16) = (s.ctx.rg o.h.s3.index).toNat % 2 ^ 32) :
    exec (.barw o) s = .next (s.modCtx (·.stallOn .barrier true s.now)) := by
  refine issueNext_wait hi ?_
  rw [act_bind_ok (act_getCtx s), act_bind_ok (act_cellAt hr hc), act_bind_ok (readCell_own hc),
    act_waitUntil_false (by simpa using hg)]

end
end

/-! ### The cell's next value -/

theorem barInit_fresh {n old : Nat} (ha : barArr old = 0) (h0 : 0 < n) (hn : n < 2 ^ 32) :
    barInit n old = some (barCell 0 0 n) := if_neg (by omega)

theorem barInit_none {n old : Nat} (h : barArr old ≠ 0 ∨ n = 0 ∨ 2 ^ 32 ≤ n) : barInit n old = none := if_pos h

theorem barArrive_waits {old : Nat} (h : barArr old + 1 < barN old) :
    barArrive old = some (barCell (barGen old) (barArr old + 1) (barN old)) := by
  unfold barArrive
  rw [if_neg (by omega), if_neg (by omega)]

theorem barArrive_last {old : Nat} (h : barArr old + 1 = barN old) :
    barArrive old = some (barCell (barGen old + 1) 0 (barN old)) := by
  unfold barArrive
  rw [if_neg (by omega), if_pos h]

theorem barArrive_none {old : Nat} (h : barN old ≤ barArr old) : barArrive old = none := if_pos (.inr h)

end Sys2Proof.Machine

open Sys2Proof.Machine in
/-- Settles O41: each instruction changes or reads its cell whole, and the cell's fields decide between its lemmas. -/
theorem barriers : Obligations.Barriers := by
  intro o s s1 p hr hc b n bad
  refine ⟨fun hi ha h0 hn => exec_bari_writes hr hc hi (barInit_fresh ha h0 hn),
    fun hi h => exec_bari_refused hr hc hi (barInit_none h), fun hi hx hb hf => ⟨fun h => ?waits, fun h => ?last, fun h => ?none⟩,
    exec_barw_goes hr hc, exec_barw_waits hr hc⟩
  case waits => exact exec_bar_writes hr hc hi hx hb hf (barArrive_waits h)
  case last => exact exec_bar_writes hr hc hi hx hb hf (barArrive_last h)
  case none => exact exec_bar_refused hr hc hi hx hb hf (barArrive_none h)
end

section
/-! SUPPORT. Tasks, joins, range forks, steals and futures (R302 to R308, R357 to R359). -/

namespace Sys2Proof.Machine

/-! ### FORK and JOIN -/

section
variable {f : FOps} {s s1 : State} {p : Phys}

theorem exec_fork_pushes (hi : Issues (.fork f) f.h s) (ha : (s.ctx.rg f.h.s1.index).toNat % 8 = 0)
    (hr : s.dequeFits s.core s.ctx.rcb = true) : exec (.fork f) s = .next ((s.pushTask s.core {
      kind := .forkTask, prio := s.ctx.prio, pc := fieldTarget s.ctx.pc f.t1, preds := predBits s.ctx.p, rcb := s.ctx.rcb,
      g := taskRegs s.ctx (s.ctx.rg f.h.s1.index) }).retired (.fork f)) := by
  refine issueNext_ok hi ?_
  rw [act_bind_ok (act_get s), act_bind_ok (act_unlessFault (by simp [ha]) _ _ _), act_bind_ok (act_unlessFault hr _ _ _)]
  exact act_modify _ _

theorem exec_fork_full (hi : Issues (.fork f) f.h s) (ha : (s.ctx.rg f.h.s1.index).toNat % 8 = 0)
    (hr : s.dequeFits s.core s.ctx.rcb = false) :
    exec (.fork f) s = .next (s.takeTrapA { cause := cDEQUE_FULL, tval := some (s.ctx.rg f.h.s1.index) }) := by
  refine issueNext_trap hi ?_
  rw [act_bind_ok (act_get s), act_bind_ok (act_unlessFault (by simp [ha]) _ _ _),
    act_bind_error (act_unlessFault_false hr _ _ _)]

/-- A JOIN that has decremented its counter ends its firing (R304). -/
theorem exec_join_ends {x : Firing} (hi : Issues (.join f) f.h s) (hj : s.ctx.hasJoined = true)
    (hf : s.ctx.firing = some x) (hk : ∀ c n, x.kind ≠ .share c n) (he : Claims.Ends s) :
    exec (.join f) s = .next s.endFiring := by
  refine issue_hold hi ?_
  have run : endNow.run s = .ok ((), s.endFiring) := by
    unfold endNow
    rw [act_bind_ok (act_endWaits he), act_bind_ok (act_endShare hf (.inl hk)), act_modify]
  rw [act_bind_ok (act_get s)]
  simp only [hj, ↓reduceIte]
  rw [act_bind_ok run]
  rfl

section
variable (hi : Issues (.join f) f.h s) (hj : s.ctx.hasJoined = false) (ha : (s.ctx.rg f.h.s1.index).toNat % 8 = 0)
  (hr : Claims.cell s (s.ctx.rg f.h.s1.index).toNat 8 p s1) (hc : Claims.Cell s1 p 8) (hf : Claims.FencedTo s1 4)
include hi hj ha hr hc hf

theorem exec_join_decrements (hn : 1 < s1.rdNat p.ga 8) : exec (.join f) s = .next
    (((s1.wrNat p.ga 8 (s1.rdNat p.ga 8 - 1)).modCtx (fun c => { c with joined := some c.pc })).stayed (.join f)) := by
  have some' : s1.rdNat p.ga 8 ≠ 0 := by omega
  refine issue_stay hi ?_
  rw [act_bind_ok (act_get s)]
  simp only [hj, Bool.false_eq_true, ↓reduceIte]
  rw [act_bind_ok (act_unlessFault (by simp [ha]) _ _ _), act_bind_ok (act_cellAt hr hc), act_bind_ok (act_fence hf),
    act_bind_ok (touchNow_cell hc _), act_bind_ok (act_unlessFault (by simp [some']) _ _ _)]
  simp only [some', show s1.rdNat p.ga 8 ≠ 1 by omega, ↓reduceIte, Option.getD_some]
  exact act_bind_ok (act_modCtx _ _) _

theorem exec_join_last (hn : s1.rdNat p.ga 8 = 1) : exec (.join f) s =
    .next ((s1.wrNat p.ga 8 0).jumped (.join f) (fieldTarget s.ctx.pc f.t1)) := by
  refine issue_jump hi ?_
  rw [act_bind_ok (act_get s)]
  simp only [hj, Bool.false_eq_true, ↓reduceIte]
  rw [act_bind_ok (act_unlessFault (by simp [ha]) _ _ _), act_bind_ok (act_cellAt hr hc), act_bind_ok (act_fence hf),
    act_bind_ok (touchNow_cell hc _), act_bind_ok (act_unlessFault (by simp [hn]) _ _ _), hn]
  rfl

theorem exec_join_refused (hn : s1.rdNat p.ga 8 = 0) : exec (.join f) s =
    .next (s.takeTrapA { cause := cJOIN_CELL, tval := some (s.ctx.rg f.h.s1.index) }) := by
  rw [show exec (.join f) s = issue (.join f) f.h _ s from rfl, issue_stop hi (e := .trap _)]
  · rfl
  · rw [act_bind_ok (act_get s)]
    simp only [hj, Bool.false_eq_true, ↓reduceIte]
    rw [act_bind_ok (act_unlessFault (by simp [ha]) _ _ _), act_bind_ok (act_cellAt hr hc), act_bind_ok (act_fence hf),
      act_bind_ok (touchNow_cell hc _), act_bind_error (act_unlessFault_false (by simp [hn]) _ _ _)]

end

/-! ### RFORK and steals -/

/-- A range fork stores its join cell and puts one share on the deque of each core it chose (R358). -/
theorem exec_rfork {t : State} (hi : Issues (.rfork f) f.h s) (ha : (s.ctx.rg f.h.s1.index).toNat % 256 = 0)
    (hr : (resolveAtomic (s.ctx.rg f.h.s1.index).toNat 8 (fun x => x == .hc || x == .sc)).run s = .ok (p, s1))
    (hdm : p.dm = false) (hfits : s.dequeFits s.core s.ctx.rcb = true) (hc : Claims.Clear s1 p 8)
    (hf : Claims.FencedTo s1 4) :
    let cores := s.shareCores s.ctx.rcb (s.ctx.rg f.h.s2.index).toNat
    (∀ x ∈ cores, s.dequeTakes x s.ctx.rcb (cores.count x) = true) → cores ≠ [] →
    (storeWords (s.ctx.rg f.h.s1.index).toNat
      (shareCell s.ctx cores.length (fieldTarget s.ctx.pc f.t2) (s.ctx.rg f.h.s2.index))).run s1 = .ok ((), t) →
    exec (.rfork f) s = .next (((List.range cores.length).foldl (fun (s' : State) i =>
      let x := cores.getD i s'.core
      (s'.modCore x (fun d => { d with claimed := d.claimed || x != s'.core })).pushTask x
        { shareTask s.ctx s'.core (fieldTarget s.ctx.pc f.t1) (s.ctx.rg f.h.s1.index) (s.ctx.rg f.h.s2.index).toNat
            cores.length i with claim := if x = s'.core then none else some x })
      { t with fresh := t.fresh + t.cores.length }).retired (.rfork f)) := by
  intro cores htakes hne hstore
  have some' : cores.length ≠ 0 := by simpa using hne
  refine issueNext_ok hi ?_
  rw [act_bind_ok (act_get s), act_bind_ok (act_unlessFault (by simp [ha]) _ _ _), act_bind_ok hr,
    act_bind_ok (act_unlessFault (by simp [hdm]) _ _ _), act_bind_ok (act_unlessFault hfits _ _ _), act_bind_ok (act_gate hc),
    act_bind_ok (act_fence hf), act_bind_ok (act_waitUntil (by simpa using htakes) _ _ _), act_bind_ok hstore,
    act_bind_ok (act_modify _ t), act_bind_ok (act_modify _ _), if_neg some']
  rfl

/-- A steal takes the oldest task of the core it asks when that task is of the thief's region (R303, R357). -/
theorem exec_stealRequest {core : Nat} {t : Task} {rest : List Task} (hs : s.steals core = true) :
    let victim := (stealOrder core).getD ((s.coreAt core).stealPos % max (stealOrder core).length 1) core
    let s2 := s.modCore core (·.count 8)
    (s2.coreAt victim).deque = t :: rest → (s.coreAt core).region = some t.rcb → s2.effDm t.rcb = false → victim ≠ core →
    exec (.stealRequest core) s = .next ((((s2.modCore victim (fun v => { v with deque := rest })).dequeRoom victim).modCore core
      (fun c => { c with stealPos := 0 })).pushTask core t) := by
  intro victim s2 ht hregion hdm hother
  show execStealRequest core s = _
  unfold execStealRequest
  have goes : ((s.coreAt core).region == some t.rcb && !s2.effDm t.rcb && victim != core) = true := by
    simp [hregion, hdm, hother]
  simp only [hs, Bool.not_true, Bool.false_eq_true, ↓reduceIte]
  simp only [victim, s2] at ht goes ⊢
  simp only [ht, goes, ↓reduceIte]

end

/-! ### Futures -/

section
variable {o : EOps} {s : State}

/-- FUT.NEW looks for a FREE entry from a free place on (R307, R308). -/
theorem exec_futNew_takes {i : Nat} (hi : Issues (.futNew o) o.h s) :
    let s2 : State := { s with fresh := s.fresh + 1 }
    let cl := clusterOf s.core
    let e := tget Future.reset (s2.clusterAt cl).futures i
    s2.futureFits cl s2.ctx.rcb = true →
    freeFuture (s2.clusterAt cl).futures 65536 (Config.freeValue s.fresh).toNat = some i →
    exec (.futNew o) s = .next (((s2.setFuture cl i ⟨e.gen, .pending, 0, s2.ctx.rcb, []⟩).modCtx (·.wg o.h.d.index
      (word (futHandle e.gen (clusterNo s.core) i)))).retired (.futNew o)) := by
  intro s2 cl e hfits hfree
  refine issueNext_ok hi ?_
  rw [act_bind_ok (act_freeWord s), act_bind_ok (act_get s2)]
  simp only [show s2.futureFits (clusterOf s2.core) s2.ctx.rcb = true from hfits, ↓reduceIte,
    show freeFuture (s2.clusterAt (clusterOf s2.core)).futures 65536 (Config.freeValue s.fresh).toNat = some i from hfree]
  rw [act_bind_ok (act_modify _ s2)]
  exact act_writeD _ _ _

theorem exec_futNew_full (hi : Issues (.futNew o) o.h s) :
    let s2 : State := { s with fresh := s.fresh + 1 }
    s2.futureFits (clusterOf s.core) s2.ctx.rcb = false →
    exec (.futNew o) s = .next ((s2.modCtx (·.wg o.h.d.index 0)).retired (.futNew o)) := by
  intro s2 hfits
  refine issueNext_ok hi ?_
  rw [act_bind_ok (act_freeWord s), act_bind_ok (act_get s2)]
  simp only [show s2.futureFits (clusterOf s2.core) s2.ctx.rcb = false from hfits, Bool.false_eq_true, ↓reduceIte]
  exact act_writeD _ _ _

/-- A handle that no entry answers to is stale (R306). -/
theorem act_future_stale {h : Word} (hs : s.futureOf s.ctx.rcb h.toNat = none) :
    (future h).run s = .error (.trap { cause := cFUT_STALE, tval := some h }) := by
  unfold future
  rw [act_bind_ok (act_get s), hs]
  rfl

theorem exec_futFree_stale (hi : Issues (.futFree o) o.h s)
    (hs : s.futureOf s.ctx.rcb (s.ctx.rg o.h.s1.index).toNat = none) :
    exec (.futFree o) s = .next (s.takeTrapA { cause := cFUT_STALE, tval := some (s.ctx.rg o.h.s1.index) }) := by
  refine issueNext_trap hi ?_
  rw [act_bind_ok (act_readGReg _ s), act_bind_error (act_future_stale hs)]

theorem exec_futGet_stale (hi : Issues (.futGet o) o.h s)
    (hs : s.futureOf s.ctx.rcb (s.ctx.rg o.h.s1.index).toNat = none) :
    exec (.futGet o) s = .next (s.takeTrapA { cause := cFUT_STALE, tval := some (s.ctx.rg o.h.s1.index) }) := by
  rw [show exec (.futGet o) s = issue (.futGet o) o.h _ s from rfl, issue_stop hi (e := .trap _)]
  · rfl
  · rw [act_bind_ok (act_get s), act_bind_error (act_future_stale hs)]

section
variable {cl n : Nat} {e : Future} (hs : s.futureOf s.ctx.rcb (s.ctx.rg o.h.s1.index).toNat = some (cl, n, e))
include hs

theorem act_future : (future (s.ctx.rg o.h.s1.index)).run s = .ok ((cl, n, e), s) := by
  unfold future
  rw [act_bind_ok (act_get s), hs]
  rfl

theorem exec_futSet_resolves (hi : Issues (.futSet o) o.h s) (hf : Claims.FencedTo s 4) (hp : e.st = .pending) :
    exec (.futSet o) s = .next ((e.waiters.foldl (fun u w => u.answerFuture (s.ctx.rg o.h.s2.index) w)
      (s.setFuture cl n { e with st := .resolved, val := s.ctx.rg o.h.s2.index, waiters := [] })).retired (.futSet o)) := by
  refine issueNext_ok hi ?_
  rw [act_bind_ok (act_getCtx s), act_bind_ok (act_fence hf), act_bind_ok (act_future hs),
    act_bind_ok (act_unlessFault (by simp [hp]) _ _ _)]
  exact act_modify _ s

theorem exec_futSet_refused (hi : Issues (.futSet o) o.h s) (hf : Claims.FencedTo s 4) (hp : e.st ≠ .pending) :
    exec (.futSet o) s = .next (s.takeTrapA { cause := cFUT_STATE }) := by
  refine issueNext_trap hi ?_
  rw [act_bind_ok (act_getCtx s), act_bind_ok (act_fence hf), act_bind_ok (act_future hs),
    act_bind_error (act_unlessFault_false (by simp [hp]) _ _ _)]

theorem exec_futGet_resolved (hi : Issues (.futGet o) o.h s) (ha : s.acqOut = false) (hp : e.st = .resolved) :
    exec (.futGet o) s = .next ((s.modCtx (·.wg o.h.d.index e.val)).retired (.futGet o)) := by
  refine issue_next hi ?_
  rw [act_bind_ok (act_get s), act_bind_ok (act_future hs), act_bind_ok (act_waitUntil (by simp [ha]) _ _ _)]
  simp only [hp, beq_self_eq_true, ↓reduceIte]
  exact act_bind_ok (act_writeD _ _ _) _

theorem exec_futGet_joins (hi : Issues (.futGet o) o.h s) (ha : s.acqOut = false) (hp : e.st ≠ .resolved)
    (hw : (s.core, s.fc % 4, o.h.d) ∉ e.waiters) : exec (.futGet o) s = .next
      ((s.setFuture cl n { e with waiters := e.waiters ++ [(s.core, s.fc % 4, o.h.d)] }).modCtx
        (·.stallOn (.future (s.ctx.rg o.h.s1.index)) true s.now)) := by
  refine issue_hold hi ?_
  rw [act_bind_ok (act_get s), act_bind_ok (act_future hs), act_bind_ok (act_waitUntil (by simp [ha]) _ _ _)]
  simp only [beq_false_of_ne hp, Bool.false_eq_true, ↓reduceIte]
  rw [act_bind_ok (act_waitUntil (by simpa using hw) _ _ _)]
  exact act_bind_ok (act_modify _ s) _

theorem exec_futFree_frees (hi : Issues (.futFree o) o.h s) (hp : e.st = .resolved ∨ e.waiters = []) :
    exec (.futFree o) s = .next
      ((s.setFuture cl n { e with gen := e.gen % 255 + 1, st := .free, waiters := [] }).retired (.futFree o)) := by
  refine issueNext_ok hi ?_
  rw [act_bind_ok (act_readGReg _ s), act_bind_ok (act_future hs), act_bind_ok (act_unlessFault (by simpa using hp) _ _ _)]
  exact act_modify _ s

end
end

end Sys2Proof.Machine

open Sys2Proof.Machine in
/-- Settles O42: each instruction, and a steal, has a lemma for each way it goes. -/
theorem tasksAndFutures : Obligations.TasksAndFutures := by
  intro f o s s1 p j
  refine ⟨exec_fork_pushes, exec_fork_full, fun hi hj ha hr hc hf => ⟨exec_join_decrements hi hj ha hr hc hf,
    exec_join_last hi hj ha hr hc hf, exec_join_refused hi hj ha hr hc hf⟩, fun x hi hj hm hf hk he => ?ends, fun hi => ?count,
    fun t hi ha hr hdm hfits hc hf => exec_rfork hi ha hr hdm hfits hc hf,
    fun core t rest hs => exec_stealRequest hs, fun hi => ⟨fun i => exec_futNew_takes hi, exec_futNew_full hi⟩,
    fun hs i hi' hi => ?stale, fun cl n e hs => ⟨exec_futSet_resolves hs, exec_futSet_refused hs, exec_futGet_resolved hs,
      exec_futGet_joins hs, exec_futFree_frees hs⟩⟩
  case ends => exact (exec_join_ends hi hj hf hk he).trans (congrArg _ (endFiring_user hf hm))
  case count => exact issueNext_writes hi (act_bind_ok (act_getCore s) _)
  case stale =>
    rcases hi' with rfl | rfl
    · exact exec_futFree_stale hi hs
    · exact exec_futGet_stale hi hs
end

section
/-! SUPPORT. The rows of R393's table, and what LINKCTL does to a port (R393, R394). -/

namespace Sys2Proof.Machine

/-- A port that is not UP counts no flap when it goes on (R394). -/
theorem Port.goTo_of_ne_up {p : Port} (h : p.st ≠ .up) (st : LinkState) (lanes now : Nat) :
    p.goTo st lanes now = { p with st := st, lanes := lanes, since := now } := by
  simp [Port.goTo, beq_false_of_ne h]

/-- A port that leaves UP counts a flap, and any other none (R394). -/
theorem Port.goTo_flaps {p : Port} {st : LinkState} (h : st ≠ .up) (lanes now : Nat) : p.goTo st lanes now =
    { p with st := st, lanes := lanes, since := now, flaps := if p.st = .up then min (p.flaps + 1) 0xFFFF else p.flaps } := by
  simp [Port.goTo, bne_iff_ne.mpr h]

section
variable {s : State} {pkg n : Nat} {st : LinkState} {when' : Nat → Bool}

/-- A row acts on a port in its state, in its time (R393). -/
theorem State.linkRow_acts (hl : Claims.Linked s pkg n) (hst : (s.port pkg n).st = st)
    (hw : when' (s.now - (s.port pkg n).since) = true) (f : Port → Port) :
    s.linkRow pkg n st when' f = s.setPortOf pkg n (f (s.port pkg n)) := by
  obtain ⟨runs, enabled, steady⟩ := hl
  simp [State.linkRow, runs, enabled, steady, hst, hw]

/-- A row does nothing in another state (R393). -/
theorem State.linkRow_idle (hst : (s.port pkg n).st ≠ st) (f : Port → Port) : s.linkRow pkg n st when' f = s := by
  simp [State.linkRow, hst]

section
variable (hl : Claims.Linked s pkg n) (hst : (s.port pkg n).st = st) (hw : when' (s.now - (s.port pkg n).since) = true)
include hl hst hw

/-- A row that brings a port below UP to its next state (R393). -/
theorem State.linkRow_goes (hup : st ≠ .up) (next : LinkState) (lanes : Nat) :
    s.linkRow pkg n st when' (·.goTo next lanes s.now) = Claims.port s pkg n next lanes := by
  rw [State.linkRow_acts hl hst hw, Port.goTo_of_ne_up (by rwa [hst])]
  rfl

/-- A row that fails a port below UP (R393). -/
theorem State.linkRow_fails (hup : st ≠ .up) (cause lanes : Nat) :
    s.linkRow pkg n st when' (·.fail cause lanes s.now) = Claims.failed s pkg n lanes cause := by
  rw [State.linkRow_acts hl hst hw, Port.fail, Port.goTo_of_ne_up (by rwa [hst])]
  rfl

end

/-- A free value taken leaves LINKCTL and the state of every port. -/
theorem linked_counted (hl : Claims.Linked s pkg n) (k : Nat) : Claims.Linked (Claims.counted s k) pkg n :=
  ⟨hl.runs, hl.enabled, hl.steady⟩

/-- An UP port that fails counts a flap (R393, R394). -/
theorem exec_linkFail (hl : Claims.Linked s pkg n) (hst : (s.port pkg n).st = .up) :
    exec (.linkFail pkg n) s = .next ((Claims.counted s 1).setPortOf pkg n { s.port pkg n with
      st := .failed, lanes := (Config.freeValue s.fresh).toNat % 16, since := s.now, cause := 4,
      flaps := min ((s.port pkg n).flaps + 1) 0xFFFF }) := by
  have acts := State.linkRow_acts (when' := fun _ => true) (linked_counted hl 1) hst rfl
    (·.fail 4 ((Config.freeValue s.fresh).toNat % 16) s.now)
  refine (congrArg _ acts).trans ?_
  have upNow : ((Claims.counted s 1).port pkg n).st = .up := hst
  simp only [Port.fail, Port.goTo_flaps (show LinkState.failed ≠ .up by decide), upNow, ↓reduceIte]
  rfl

theorem exec_linkDisable (hr : s.pkgRuns pkg = true) (he : (s.port pkg n).en = false) (hst : (s.port pkg n).st ≠ .disabled) :
    exec (.linkDisable pkg n) s = .next (s.setPortOf pkg n { s.port pkg n with
      st := .disabled, lanes := 0, since := s.now, cause := 8,
      flaps := if (s.port pkg n).st = .up then min ((s.port pkg n).flaps + 1) 0xFFFF else (s.port pkg n).flaps }) := by
  refine (congrArg Host.Outcome.next (if_pos (by simp [hr, he, hst]))).trans ?_
  simp only [Port.disable, Port.goTo_flaps (show LinkState.disabled ≠ .up by decide)]

theorem exec_linkRetrain (hr : s.pkgRuns pkg = true) (ht : (s.port pkg n).retrain = true)
    (hst : (s.port pkg n).st ≠ .disabled) : exec (.linkRetrain pkg n) s = .next (s.setPortOf pkg n { s.port pkg n with
      st := .an, lanes := 0, since := s.now, retrain := false,
      flaps := if (s.port pkg n).st = .up then min ((s.port pkg n).flaps + 1) 0xFFFF else (s.port pkg n).flaps }) := by
  refine (congrArg Host.Outcome.next (if_pos (by simp [hr, ht]))).trans ?_
  simp only [beq_false_of_ne hst, Bool.false_eq_true, ↓reduceIte, Port.goTo_flaps (show LinkState.an ≠ .up by decide)]

theorem exec_linkRetrain_disabled (hr : s.pkgRuns pkg = true) (ht : (s.port pkg n).retrain = true)
    (hst : (s.port pkg n).st = .disabled) :
    exec (.linkRetrain pkg n) s = .next (s.setPortOf pkg n { s.port pkg n with retrain := false }) := by
  refine (congrArg Host.Outcome.next (if_pos (by simp [hr, ht]))).trans ?_
  simp only [hst, beq_self_eq_true, ↓reduceIte]

end

end Sys2Proof.Machine

open Sys2Proof.Machine in
/-- Settles O53: each row is `State.linkRow`, which goes on, fails or does nothing by the port's state and its time. -/
theorem links : Obligations.Links := by
  intro s pkg n p up flaps lanes
  refine ⟨fun hl => ⟨?enable, ?resolved, ?anTimeout, ?trained, ?trainTimeout, ?lock, ?lockTimeout, ?done, ?refused,
    ?assocTimeout, exec_linkFail hl, ?retry, ?notDisabled, ?notFailed⟩, exec_linkDisable, exec_linkRetrain,
    exec_linkRetrain_disabled⟩
  case enable => exact fun h => congrArg _ (State.linkRow_goes hl h rfl (by decide) _ _)
  case resolved => exact fun h t => congrArg _ (State.linkRow_goes hl h (decide_eq_true t) (by decide) _ _)
  case trained => exact fun h t => congrArg _ (State.linkRow_goes hl h (decide_eq_true t) (by decide) _ _)
  case lock => exact fun h t => congrArg _ (State.linkRow_goes hl h (decide_eq_true t) (by decide) _ _)
  case done => exact fun h t => congrArg _ (State.linkRow_goes hl h (decide_eq_true t) (by decide) _ _)
  case retry => exact fun h t => congrArg _ (State.linkRow_goes hl h (decide_eq_true t) (by decide) _ _)
  case trainTimeout => exact fun h t => congrArg _ (State.linkRow_fails hl h (decide_eq_true t) (by decide) _ _)
  case anTimeout => exact fun h t => congrArg _ (State.linkRow_fails (linked_counted hl 1) h (decide_eq_true t) (by decide) _ _)
  case lockTimeout => exact fun h t => congrArg _ (State.linkRow_fails (linked_counted hl 1) h (decide_eq_true t) (by decide) _ _)
  case refused => exact fun h t => congrArg _ (State.linkRow_fails (linked_counted hl 1) h (decide_eq_true t) (by decide) _ _)
  case assocTimeout => exact fun h t => congrArg _ (State.linkRow_fails (linked_counted hl 1) h (decide_eq_true t) (by decide) _ _)
  case notDisabled => exact fun h => congrArg _ (State.linkRow_idle h _)
  case notFailed => exact fun h => congrArg _ (State.linkRow_idle h _)
end

section
/-! SUPPORT. Packets between packages, and what a host's queues and windows do (R392, R395, R399, R401 to R403, R405, R409). -/

namespace Sys2Proof.Machine

/-! ### Packets -/

section
variable {s : State} {id : Nat} {t : Txn} (ht : tfind s.txns id = some t)
include ht

theorem exec_fabricPacketArrival_performs (hst : t.stage = .travelling) (hnear : t.near = false)
    (hr : s.pkgRuns (gaPkg t.ga) = true) (hp : s.pathOpen t.source (gaPkg t.ga) = true)
    (hs : s.sourceOk (gaPkg t.ga) t.source = true) :
    exec (.fabricPacketArrival id) s = .next (s.performAt id t) := by
  show execFabricPacketArrival id s = _
  unfold execFabricPacketArrival
  rw [withTxn_some ht, if_pos (by simp [hst, hnear, hr, hp, hs])]

/-- A packet without a way, or of a source the target does not name, stays on its way (R395, R409). -/
theorem exec_fabricPacketArrival_waits
    (h : s.pathOpen t.source (gaPkg t.ga) = false ∨ s.sourceOk (gaPkg t.ga) t.source = false) :
    exec (.fabricPacketArrival id) s = .next s := by
  show execFabricPacketArrival id s = _
  unfold execFabricPacketArrival
  rw [withTxn_some ht, if_neg (by rcases h with h | h <;> simp [h])]

theorem exec_fabricResend : exec (.fabricResend id) s = .next (s.setTxn id t) := by
  show execFabricResend id s = _
  unfold execFabricResend
  rw [withTxn_some ht]

/-- A packet that is not refused yet fails at the fabric limit (R399). -/
theorem exec_fabricTimeout_fails (hnear : t.near = false) (hl : (s.pkgAt t.source).limit ≤ s.now - t.sent)
    (hst : t.stage = .travelling ∨ t.stage = .done) :
    exec (.fabricTimeout id) s = .next (s.setTxn id { t with stage := .failed cFABRIC_TIMEOUT }) := by
  show execFabricTimeout id s = _
  unfold execFabricTimeout
  rw [withTxn_some ht]
  rcases hst with hst | hst <;> simp only [hst, hnear, decide_eq_true hl, Bool.not_false, Bool.and_self, ↓reduceIte]

theorem exec_fabricTimeout_early (hl : s.now - t.sent < (s.pkgAt t.source).limit) :
    exec (.fabricTimeout id) s = .next s := by
  show execFabricTimeout id s = _
  unfold execFabricTimeout
  rw [withTxn_some ht, if_neg]
  simp only [decide_eq_false (by omega : ¬ (s.pkgAt t.source).limit ≤ s.now - t.sent), Bool.and_false, Bool.false_eq_true,
    not_false_eq_true]

end

/-! ### Inbound entries -/

section
variable {s : State} {pkg q endpoint : Nat} {entry : List Word}

theorem exec_hostQueueMessage_delivers (hq : s.queueTakes pkg q 0 endpoint entry = true) {k m : Nat}
    (hm : mailboxName (s.queueWord pkg q 1) = some (k, m)) :
    let n := bits (entry.headD 0).toNat 27 24
    exec (.hostQueueMessage pkg q endpoint entry) s = .next (s.deliver k m (messageEntry
      (pkg * 2 ^ 52 + 0x3FFF * 2 ^ 34 + n * 2 ^ 24 + m) ((entry.drop 1).take n)) none).2 := by
  show execHostQueueMessage pkg q endpoint entry s = _
  unfold execHostQueueMessage
  rw [if_pos hq, hm]

theorem exec_hostQueueLaunch_asks (hq : s.queueTakes pkg q 1 endpoint entry = true) :
    exec (.hostQueueLaunch pkg q endpoint entry) s = .next (({ s with nextId := s.nextId + 1 } : State).modPkg pkg (fun p =>
      { p with launches := tset p.launches s.nextId ⟨s.queueWord pkg q 1, none, pkg * 96, some (q, entry.getD 2 0),
          (entry.getD 1 0).toNat, s.now⟩ })) :=
  congrArg Host.Outcome.next (if_pos hq)

/-- An entry that the queue does not take is dropped (R401). -/
theorem exec_hostQueue_drops :
    (s.queueTakes pkg q 0 endpoint entry = false → exec (.hostQueueMessage pkg q endpoint entry) s = .next s) ∧
    (s.queueTakes pkg q 1 endpoint entry = false → exec (.hostQueueLaunch pkg q endpoint entry) s = .next s) ∧
    (s.queueTakes pkg q 2 endpoint entry = false → exec (.hostQueueFirmware pkg q endpoint entry) s = .next s) := by
  refine ⟨fun h => congrArg Host.Outcome.next (if_neg ?_), fun h => congrArg Host.Outcome.next (if_neg ?_),
    fun h => congrArg Host.Outcome.next (if_neg ?_)⟩ <;> simp [h]

/-- A record handed to the firmware is answered with the code of its verification (R405). -/
theorem exec_hostQueueFirmware (hq : s.queueTakes pkg q 2 endpoint entry = true) {code : Nat} {u : State}
    (hr : s.takeRecord pkg (s.peekBytes (entry.getD 1 0).toNat (entry.getD 2 0).toNat) = (code, u)) :
    exec (.hostQueueFirmware pkg q endpoint entry) s = .next (u.postResult pkg q (entry.getD 1 0) (word code)) := by
  show execHostQueueFirmware pkg q endpoint entry s = _
  unfold execHostQueueFirmware
  rw [if_pos hq]
  simp only [hr]

end

/-! ### Firmware records -/

section
variable {s : State} {pkg : Nat} {r : List Byte}

theorem takeRecord_malformed (hf : recordFormat r = false) : s.takeRecord pkg r = (1, s) := by
  simp [State.takeRecord, hf]

theorem takeRecord_unsigned (hf : recordFormat r = true) (hs : recordSigned r = false) : s.takeRecord pkg r = (2, s) := by
  simp [State.takeRecord, hf, hs]

section
variable (hf : recordFormat r = true) (hs : recordSigned r = true)
include hf hs

theorem takeRecord_older
    (hv : (byteWord r 1).toNat < ((tfind (s.pkgAt pkg).flash (bits (byteWord r 0).toNat 15 0)).map (·.svn)).getD 0) :
    s.takeRecord pkg r = (3, s) := by
  unfold State.takeRecord
  dsimp only
  generalize tfind (s.pkgAt pkg).flash (bits (byteWord r 0).toNat 15 0) = inFlash at hv ⊢
  cases inFlash with
  | none => exact absurd hv (Nat.not_lt_zero _)
  | some f =>
    simp only [Option.map_some, Option.getD_some] at hv
    simp only [hf, hs, hv, Bool.not_true, Bool.false_eq_true, ↓reduceIte]

/-- A sound record is written to flash, or its write fails (R405; log entry 92). -/
theorem takeRecord_written
    (hv : ((tfind (s.pkgAt pkg).flash (bits (byteWord r 0).toNat 15 0)).map (·.svn)).getD 0 ≤ (byteWord r 1).toNat) :
    s.takeRecord pkg r = if Config.choice s.fresh then (4, Claims.counted s 1) else
      (0, (Claims.counted s 1).modPkg pkg (fun p => { p with
        flash := tset p.flash (bits (byteWord r 0).toNat 15 0) ⟨(byteWord r 1).toNat,
          (r.drop 64).take (bits (byteWord r 0).toNat 63 32), r⟩ })) := by
  unfold State.takeRecord
  dsimp only
  generalize tfind (s.pkgAt pkg).flash (bits (byteWord r 0).toNat 15 0) = inFlash at hv ⊢
  cases inFlash with
  | none =>
    simp only [hf, hs, Nat.not_lt_zero, Bool.not_true, Bool.false_eq_true, ↓reduceIte]
    rfl
  | some f =>
    simp only [Option.map_some, Option.getD_some] at hv
    simp only [hf, hs, Nat.not_lt.mpr hv, Bool.not_true, Bool.false_eq_true, ↓reduceIte]
    rfl

end
end

/-! ### Outbound entries -/

section
variable {s : State} {pkg q : Nat}

theorem exec_outboundAppend_none (hq : tget [] (s.pkgAt pkg).outq q = []) : exec (.outboundAppend pkg q) s = .next s := by
  show execOutboundAppend pkg q s = _
  unfold execOutboundAppend
  rw [hq]

section
variable {e : HeldMsg} {rest : List HeldMsg} (hq : tget [] (s.pkgAt pkg).outq q = e :: rest)
include hq

/-- A full ring takes no entry (R402). -/
theorem exec_outboundAppend_full
    (hf : (s.peek (s.queueWord pkg q 2) 8 + 2 ^ 64 - s.peek (s.queueWord pkg q 2 + 8) 8) % 2 ^ 32 = bits (s.queueWord pkg q 0) 7 0) :
    exec (.outboundAppend pkg q) s = .next s := by
  show execOutboundAppend pkg q s = _
  unfold execOutboundAppend
  rw [hq]
  simp only [hf, decide_true, Bool.or_true, Bool.true_or, ↓reduceIte]

/-- An entry is written to a ring with room, TAIL counts it, and its transaction is done (R402). -/
theorem exec_outboundAppend_appends (hr : s.pkgRuns pkg = true) :
    let base := s.queueWord pkg q 2
    let depth := bits (s.queueWord pkg q 0) 7 0
    let tail := s.peek base 8
    let slot := base + 64 * (tail % max depth 1 + 1)
    let x := ((s.pokeData State.poke slot 2 (e.entry.flatMap (fun w => bytesOf 8 w.toNat))).poke base 8
      ((tail + 1) % 2 ^ 64)).modPkg pkg (fun p => { p with outq := tset p.outq q rest })
    (tail + 2 ^ 64 - s.peek (base + 8) 8) % 2 ^ 32 ≠ depth → s.linesFree base 8 = true → s.linesFree slot 64 = true →
    (e.txn = none → exec (.outboundAppend pkg q) s = .next x) ∧
    (∀ id t, e.txn = some id → tfind x.txns id = some t →
      exec (.outboundAppend pkg q) s = .next (x.setTxn id { t with stage := .done })) := by
  intro base depth tail slot x hroom hbase hslot
  have goes : (!s.pkgRuns pkg || decide ((tail + 2 ^ 64 - s.peek (base + 8) 8) % 2 ^ 32 = depth) || !s.linesFree base 8 ||
      !s.linesFree slot 64) = false := by simp only [hr, hroom, hbase, hslot, decide_false, Bool.not_true, Bool.or_self]
  have appends : exec (.outboundAppend pkg q) s = .next (match e.txn with
      | some id => match tfind x.txns id with
        | some t => x.setTxn id { t with stage := .done }
        | none => x
      | none => x) := by
    show execOutboundAppend pkg q s = _
    unfold execOutboundAppend
    rw [hq]
    exact congrArg Host.Outcome.next (if_neg (Bool.not_eq_true _ ▸ goes))
  exact ⟨fun he => by rw [appends, he], fun id t he ht => by rw [appends, he]; simp only [ht]⟩

end
end

/-! ### Host windows -/

section
variable {s : State} {pkg w endpoint off : Nat}

/-- Of the lines from that of ga on, an access that stays within a line touches the first alone. -/
theorem foldl_firstLine {ga len : Nat} (hn : 0 < len) (hl : len ≤ 64 - ga % 64) (f : State → Nat → State) (n : Nat) (s : State) :
    (List.range (n + 1)).foldl (fun s k => if lineOf ga + 64 * k < ga + len then f s (lineOf ga + 64 * k) else s) s =
      f s (lineOf ga) := by
  have first : lineOf ga ≤ ga ∧ ga + len ≤ lineOf ga + 64 := by unfold lineOf; omega
  have others : ∀ (l : List Nat) (u : State), l.foldl (fun u k =>
      if lineOf ga + 64 * (k + 1) < ga + len then f u (lineOf ga + 64 * (k + 1)) else u) u = u := by
    intro l
    induction l with
    | nil => exact fun u => rfl
    | cons k l ih =>
      intro u
      rw [List.foldl_cons, if_neg (by omega), ih]
  rw [List.range_succ_eq_map, List.foldl_cons, List.foldl_map, if_pos (by omega)]
  exact others _ _

theorem exec_hostWindowRead_serves {len : Nat} (hs : s.windowServes pkg w endpoint off len false = true) :
    let ga := s.windowWord pkg w 1 + off
    s.linesFree ga len = true → len ≤ 64 - ga % 64 → 0 < len →
    exec (.hostWindowRead pkg w endpoint off len) s = .next (s.settleLine (lineOf ga)) := by
  intro ga hfree hlen hpos
  refine (congrArg Host.Outcome.next (if_pos (by simp only [hs, ga, hfree, Bool.and_self]))).trans ?_
  exact congrArg Host.Outcome.next (foldl_firstLine hpos hlen State.settleLine (len / 64 + 1) s)

theorem exec_hostWindowWrite_serves {data : List Byte}
    (hs : s.windowServes pkg w endpoint off data.length true = true) :
    let ga := s.windowWord pkg w 1 + off
    s.linesFree ga data.length = true → data ≠ [] → data.length ≤ 64 - ga % 64 →
    exec (.hostWindowWrite pkg w endpoint off data) s = .next (s.pokeHome ga data.length (natOfBytes data)) := by
  intro ga hfree hne hlen
  refine (congrArg Host.Outcome.next (if_pos (by simp only [hs, ga, hfree, Bool.and_self]))).trans ?_
  have whole : data.take (64 - ga % 64) = data := List.take_of_length_le hlen
  have rest : data.drop (64 - ga % 64) = [] := List.drop_eq_nil_of_le hlen
  obtain ⟨b, bs, rfl⟩ := List.exists_cons_of_ne_nil hne
  unfold State.pokeData
  dsimp only
  rw [whole, rest]
  unfold State.pokeData
  cases (b :: bs).length / 64 + 1 with
  | zero | succ n => rfl

theorem exec_hostWindow_refused :
    (∀ len, s.windowServes pkg w endpoint off len false = false →
      exec (.hostWindowRead pkg w endpoint off len) s = .next s) ∧
    (∀ data : List Byte, s.windowServes pkg w endpoint off data.length true = false →
      exec (.hostWindowWrite pkg w endpoint off data) s = .next s) := by
  refine ⟨fun len h => congrArg Host.Outcome.next (if_neg ?_), fun data h => congrArg Host.Outcome.next (if_neg ?_)⟩ <;> simp [h]

end

end Sys2Proof.Machine

open Sys2Proof.Machine in
/-- Settles O54: each event has a lemma for each way it goes, and a firmware record goes as `State.takeRecord` says. -/
theorem packetsAndHosts : Obligations.PacketsAndHosts := by
  intro s
  refine ⟨fun id t ht hnear => ⟨?arrives, ?waits, exec_fabricResend ht, exec_fabricTimeout_fails ht hnear,
    exec_fabricTimeout_early ht⟩, fun pkg q endpoint entry => ⟨?message, exec_hostQueue_drops.1, exec_hostQueueLaunch_asks,
    exec_hostQueue_drops.2.1, ?firmware, exec_hostQueue_drops.2.2, ?outbound, exec_outboundAppend_none⟩,
    fun pkg w endpoint off len data => ⟨exec_hostWindowRead_serves, exec_hostWindow_refused.1 len,
      exec_hostWindowWrite_serves, exec_hostWindow_refused.2 data⟩⟩
  case arrives => exact fun hst hr hp hs => exec_fabricPacketArrival_performs ht hst hnear hr hp hs
  case waits => exact fun _ => exec_fabricPacketArrival_waits ht
  case message => exact fun hq k m hm => exec_hostQueueMessage_delivers hq hm
  case firmware =>
    intro hq record len target signed held svn
    refine ⟨fun hf => exec_hostQueueFirmware hq (takeRecord_malformed hf),
      fun hf hs => exec_hostQueueFirmware hq (takeRecord_unsigned hf hs),
      fun hf hs hv => exec_hostQueueFirmware hq (takeRecord_older hf hs hv), fun hf hs hv => ?_⟩
    have written := takeRecord_written hf hs hv
    split
    case isTrue hc => exact exec_hostQueueFirmware hq (written.trans (if_pos hc))
    case isFalse hc => exact exec_hostQueueFirmware hq (written.trans (if_neg hc))
  case outbound =>
    exact fun e rest hq hr => ⟨exec_outboundAppend_full hq, exec_outboundAppend_appends hq hr⟩
end

section
/-! SUPPORT. Power-up and its records, throttles, DRAM errors, and a dirty sector lost at its write-back (R370, R384 to R386). -/

namespace Sys2Proof.Machine

/-! ### Tables without some keys -/

theorem tfind_filter {α : Type} (t : Table α) (p : Nat → Bool) (n : Nat) :
    tfind (t.filter (fun c => p c.1)) n = if p n then tfind t n else none := by
  induction t with
  | nil => simp [tfind]
  | cons c t ih =>
    obtain ⟨k, v⟩ := c
    rw [List.filter_cons]
    by_cases hn : n = k
    · subst hn
      cases hp : p n <;> simp [hp, tfind, ih]
    · cases hp : p k <;> simp [tfind, hn, ih]

/-- A byte of a key that goes reads as zero, and any other as before. -/
theorem read_filter (m : List Host.Cell) (p : Nat → Bool) (a : Nat) :
    Memory.read (m.filter (fun c => p c.1)) a = if p a then Memory.read m a else 0 := by
  unfold Memory.read tget
  rw [tfind_filter]
  split <;> rfl

/-! ### Power-up -/

/-- Everything of a package but its flash is gone (R384). -/
def State.emptied (s : State) (pkg : Nat) : State := { s with
  fresh := s.fresh + 2
  mem := s.mem.filter (fun c => keyPkg c.1 != pkg)
  errs := s.errs.filter (fun k => keyPkg k != pkg)
  cores := s.cores.filter (fun c => corePkg c.1 != pkg)
  quads := s.quads.filter (fun q => q.1 / 2 ^ 12 != pkg)
  clusters := s.clusters.filter (fun c => c.1 / 96 != pkg)
  txns := s.txns.filter (fun t => corePkg t.2.core != pkg)
  flights := s.flights.filter (fun f => f.2.pkg != pkg)
  ues := s.ues.filter (fun u => corePkg u.1 != pkg) }

/-- The package that comes up (R384, R394, R399). -/
def Package.powered (p : Package) (pkg : Nat) (table : List Byte) : Package := { Package.reset with
  on := true
  pkgid := BitVec.ofNat 12 pkg
  flash := p.flash
  endpoints := table }

theorem foldl_modCluster (key : Nat → Nat) (f : Cluster → Cluster) (l : List Nat) (s : State) :
    ∃ c, l.foldl (fun s k => s.modCluster (key k) f) s = { s with clusters := c } := by
  induction l generalizing s with
  | nil => exact ⟨s.clusters, rfl⟩
  | cons k l ih => exact ih (s.modCluster (key k) f)

section
variable {s : State} {pkg : Nat}

theorem exec_powerUp_running (hr : s.pkgRuns pkg = true) : exec (.powerUp pkg) s = .next s := by
  show execPowerUp pkg s = _
  unfold execPowerUp
  simp only [hr, ↓reduceIte]

variable (hr : s.pkgRuns pkg = false)
include hr

theorem exec_powerUp_fails (h : (s.pkgAt pkg).flashOk = false ∨ Config.choice s.fresh = true) : exec (.powerUp pkg) s =
    .next ((Claims.counted s 1).modPkg pkg (fun p => { p with off := true, firmwareFault := true })) := by
  have fails : (!(s.pkgAt pkg).flashOk || Config.choice s.fresh) = true := by rcases h with h | h <;> simp [h]
  show execPowerUp pkg s = _
  unfold execPowerUp
  simp only [hr, fails, Bool.false_eq_true, ↓reduceIte]
  rfl

/-- A package whose flash verifies comes up empty, with CATSP of its clusters free (R384). -/
theorem exec_powerUp_starts (hf : (s.pkgAt pkg).flashOk = true) (hc : Config.choice s.fresh = false) :
    ∃ clusters, exec (.powerUp pkg) s =
      .next (({ s.emptied pkg with clusters := clusters } : State).modPkg pkg
        (·.powered pkg (((tfind (s.pkgAt pkg).flash 4).map (·.payload)).getD []))) := by
  obtain ⟨clusters, sized⟩ := foldl_modCluster (fun k => pkg * 96 + k)
    (fun c => { c with catsp := (word ((Config.freeValue (s.fresh + 1)).toNat % 2 ^ 48 / 2 ^ 20 * 2 ^ 20)).toNat })
    (List.range 96) (s.emptied pkg)
  refine ⟨clusters, ?_⟩
  rw [← sized]
  show execPowerUp pkg s = _
  unfold execPowerUp
  simp only [hr, hf, hc, Bool.not_true, Bool.or_self, Bool.false_eq_true, ↓reduceIte]
  cases tfind (s.pkgAt pkg).flash 4 <;> rfl

end

/-! ### Errors of DRAM -/

section
variable {s : State} {pkg site : Nat}

theorem exec_dramCrcRetry_corrects (hr : s.pkgRuns pkg = true) (hc : Config.choice s.fresh = false) :
    exec (.dramCrcRetry pkg site) s = .next (Claims.counted s 2) := by
  show execDramCrcRetry pkg site s = _
  unfold execDramCrcRetry
  simp only [hr, hc, Bool.and_false, Bool.not_false, ↓reduceIte]
  rfl

/-- A transfer of the site that no retry corrects is uncorrectable (R370, R386). -/
theorem exec_dramCrcRetry_spoils (hr : s.pkgRuns pkg = true) (hc : Config.choice s.fresh = true) :
    let w := (Config.freeValue (s.fresh + 1)).toNat
    let a := w % 2 ^ 42 / 64 * 64
    bit w 63 = false → siteOf a = site → inSpillLog a = false →
    exec (.dramCrcRetry pkg site) s = .next ((Claims.counted s 2).spoil (pkg * 2 ^ 52 + a) 8) := by
  intro w a hw ha hlog
  show execDramCrcRetry pkg site s = _
  unfold execDramCrcRetry
  simp only [w, a] at hw ha hlog ⊢
  simp only [hr, hc, hw, ha, hlog, Bool.and_self, Bool.not_true, Bool.not_false, beq_self_eq_true, Bool.false_eq_true, ↓reduceIte]
  rfl

end

/-! ### Slices of memory and of lines -/

theorem readNat_add (m : List Host.Cell) (a k n : Nat) :
    Memory.readNat m a (k + n) = Memory.readNat m a k + 256 ^ k * Memory.readNat m (a + k) n := by
  induction k generalizing a with
  | zero => simp [Memory.readNat, Memory.readBytes, natOfBytes]
  | succ k ih =>
    have step : ∀ j, Memory.readNat m a (j + 1) = (Memory.read m a).toNat + 256 * Memory.readNat m (a + 1) j := fun j => rfl
    rw [show k + 1 + n = k + n + 1 by omega, step, step, ih, show a + 1 + k = a + (k + 1) by omega]
    ring

theorem readNat_lt (m : List Host.Cell) (a n : Nat) : Memory.readNat m a n < 2 ^ (8 * n) := by
  rw [pow_mul]
  induction n generalizing a with
  | zero => simp [Memory.readNat, Memory.readBytes, natOfBytes]
  | succ n ih =>
    have step : Memory.readNat m a (n + 1) = (Memory.read m a).toNat + 256 * Memory.readNat m (a + 1) n := rfl
    have := ih (a + 1)
    have := (Memory.read m a).isLt
    rw [step, pow_succ]
    omega

/-- The k-th 16 bytes of a line at its home (R269). -/
theorem bits_homeData (s : State) (line : Nat) {k : Nat} (hk : k < 4) :
    bits (s.homeData line).toNat (128 * k + 127) (128 * k) = s.rdNat (line + 16 * k) 16 := by
  have power : ∀ n, 256 ^ n = 2 ^ (8 * n) := fun n => (pow_mul 2 8 n).symm
  have whole : (s.homeData line).toNat = Memory.readNat s.mem line 64 :=
    (BitVec.toNat_ofNat ..).trans (Nat.mod_eq_of_lt (readNat_lt s.mem line 64))
  have before : Memory.readNat s.mem line 64 = Memory.readNat s.mem line (16 * k) +
      2 ^ (128 * k) * Memory.readNat s.mem (line + 16 * k) (16 + (48 - 16 * k)) := by
    rw [show 64 = 16 * k + (16 + (48 - 16 * k)) by omega, readNat_add, power, show 8 * (16 * k) = 128 * k by omega]
  have low : Memory.readNat s.mem line (16 * k) < 2 ^ (128 * k) :=
    (readNat_lt s.mem line (16 * k)).trans_eq (by rw [show 8 * (16 * k) = 128 * k by omega])
  have one : Memory.readNat s.mem (line + 16 * k) 16 < 2 ^ 128 := readNat_lt s.mem _ 16
  rw [whole, before, bits_eq, Nat.add_mul_div_left _ _ (Nat.two_pow_pos _), Nat.div_eq_of_lt low, Nat.zero_add, readNat_add,
    show 128 * k + 127 + 1 - 128 * k = 128 by omega, power 16, Nat.add_mul_mod_self_left, Nat.mod_eq_of_lt one]
  rfl

/-- A field just put is the field read. -/
theorem bits_putBits (x y : Nat) {lo w : Nat} (hw : 0 < w) : bits (putBits x lo w y) (lo + w - 1) lo = y % 2 ^ w := by
  have width : lo + w - 1 + 1 - lo = w := by omega
  have parts : x = x % 2 ^ lo + 2 ^ lo * (x / 2 ^ lo % 2 ^ w + 2 ^ w * (x / 2 ^ lo / 2 ^ w)) := by
    rw [Nat.mod_add_div, Nat.mod_add_div]
  have put : putBits x lo w y = x % 2 ^ lo + 2 ^ lo * (y % 2 ^ w + 2 ^ w * (x / 2 ^ lo / 2 ^ w)) := by
    rw [putBits, bits_eq, width, Nat.mul_comm (x / 2 ^ lo % 2 ^ w)]
    conv_lhs => lhs; lhs; rw [parts]
    rw [Nat.mul_add, Nat.mul_add]
    rw [Nat.mul_comm (y % 2 ^ w)]
    omega
  rw [put, bits_eq, width, Nat.add_mul_div_left _ _ (Nat.two_pow_pos _), Nat.div_eq_of_lt (Nat.mod_lt _ (Nat.two_pow_pos _)),
    Nat.zero_add, Nat.add_mul_mod_self_left, Nat.mod_mod]

/-! ### A dirty sector that is lost at its write-back (R386) -/

/-- The line with its sector k clean and taken from the home. -/
def CchLine.restored (l : CchLine) (k old : Nat) : CchLine := { l with
  dirty := l.dirty &&& ~~~(1#4 <<< k)
  data := BitVec.ofNat 512 (putBits l.data.toNat (128 * k) 128 old) }

theorem dirty_restored (d : BitVec 4) {k j : Nat} (hj : j < 4) :
    (d &&& ~~~(1#4 <<< k)).getLsbD j = (d.getLsbD j && decide (j ≠ k)) := by
  have apart : (j < k ∨ ¬j - k = 0) ↔ j ≠ k := by omega
  have shifted : (decide (j < k) || !decide (j - k = 0)) = decide (j ≠ k) := by
    rw [← decide_not, ← Bool.decide_or]
    exact decide_eq_decide.2 apart
  simp [hj, shifted]

theorem get_restored (l : CchLine) {k old : Nat} (hk : k < 4) (hold : old < 2 ^ 128) :
    (l.restored k old).get (l.addr + 16 * k) 16 = old := by
  show bits (BitVec.ofNat 512 (putBits l.data.toNat (128 * k) 128 old)).toNat
    (8 * (l.addr + 16 * k - l.addr) + 8 * 16 - 1) (8 * (l.addr + 16 * k - l.addr)) = old
  have low : ∀ x, bits (x % 2 ^ 512) (128 * k + 128 - 1) (128 * k) = bits x (128 * k + 128 - 1) (128 * k) := by
    intro x
    have := bits_bits x (hi := 511) (lo := 0) (h := 128 * k + 128 - 1) (l := 128 * k) (by omega)
    rw [Nat.zero_add, Nat.zero_add] at this
    rw [← this]
    congr 1
  rw [show 8 * (l.addr + 16 * k - l.addr) = 128 * k by omega, BitVec.toNat_ofNat, show 8 * 16 = 128 from rfl, low,
    bits_putBits _ _ (by omega), Nat.mod_eq_of_lt hold]

theorem findLine_putLine (c : Core) (l : CchLine) : (c.putLine l).findLine l.addr = some l := by
  simp [Core.findLine, Core.putLine]

theorem addr_of_findLine {c : Core} {a : Nat} {l : CchLine} (h : c.findLine a = some l) : l.addr = a := by
  simpa using List.find?_some h

section
variable {s : State} {core line sector : Nat} {l : CchLine}

theorem exec_writebackUe_none (h : (s.coreAt core).findLine line = none) : exec (.writebackUe core line sector) s = .next s := by
  show execWritebackUe core line sector s = _
  unfold execWritebackUe
  rw [h]

theorem exec_writebackUe_clean (h : (s.coreAt core).findLine line = some l)
    (hd : l.dirty.getLsbD (sector % 4) = false ∨ s.lives (corePkg core) = false) :
    exec (.writebackUe core line sector) s = .next s := by
  have skip : (s.lives (corePkg core) && l.dirty.getLsbD (sector % 4)) = false := by rcases hd with hd | hd <;> simp [hd]
  show execWritebackUe core line sector s = _
  unfold execWritebackUe
  rw [h]
  simp only [skip, Bool.false_eq_true, ↓reduceIte]

theorem exec_writebackUe_dirty (h : (s.coreAt core).findLine line = some l) (hd : l.dirty.getLsbD (sector % 4) = true)
    (hl : s.lives (corePkg core) = true) : exec (.writebackUe core line sector) s =
      .next ((s.modCore core (·.putLine (l.restored (sector % 4) (s.rdNat (line + 16 * (sector % 4)) 16)))).reportUe
        core (line + 16 * (sector % 4))) := by
  show execWritebackUe core line sector s = _
  unfold execWritebackUe
  rw [h]
  simp only [hl, hd, Bool.and_self, ↓reduceIte, bits_homeData s line (Nat.mod_lt sector (by decide : 0 < 4))]
  rfl

end

/-- The first word of a fault record: MACHINE_UE, and no core in its context field (R262, R386). -/
theorem ueWord_fields (a : Nat) :
    let w := word (cMACHINE_UE + a % 4 * 2 ^ 8 + a / 4 % 4 * 2 ^ 16 + 0xFFFFFF * 2 ^ 32)
    w.toNat % 2 ^ 7 = 89 ∧ w.toNat / 2 ^ 32 = 0xFFFFFF := by
  have : a % 4 < 4 := Nat.mod_lt _ (by decide)
  have : a / 4 % 4 < 4 := Nat.mod_lt _ (by decide)
  intro w
  have value : w.toNat = 89 + a % 4 * 2 ^ 8 + a / 4 % 4 * 2 ^ 16 + 0xFFFFFF * 2 ^ 32 :=
    toNat_word (by simp only [cMACHINE_UE]; omega)
  rw [value]
  omega

theorem reportUe_none {s : State} {core ga : Nat} (h : (s.coreAt core).region = none) : s.reportUe core ga = s := by
  rw [State.reportUe, h]

theorem reportUe_some {s : State} {core ga : Nat} {r : Nat} (h : (s.coreAt core).region = some r) :
    ∃ w0 w1 w3 : Word, w0.toNat % 2 ^ 7 = 89 ∧ w0.toNat / 2 ^ 32 = 0xFFFFFF ∧
      let x : State := { s with fresh := s.fresh + 3 }
      let v := x.notify core 0 (x.effFmbx r) [w0, w1, BitVec.ofNat 64 ga, w3]
      s.reportUe core ga = if v.effPolicy r = 1 then v.kill r else v := by
  obtain ⟨cause, nowhere⟩ := ueWord_fields (Config.freeValue s.fresh).toNat
  refine ⟨_, Config.freeValue (s.fresh + 1), Config.freeValue (s.fresh + 2), cause, nowhere, ?_⟩
  rw [State.reportUe, h]
  rfl

end Sys2Proof.Machine

open Sys2Proof.Machine in
/-- Settles O55: a package comes up from its flash over cleared stores, a failed one stops, the throttles and the scrub
only pass time, a retry that fails spoils one transfer, and a sector lost at its write-back is told to the region. -/
theorem powerAndErrors : Obligations.PowerAndErrors := by
  unfold Obligations.PowerAndErrors
  intro s pkg
  dsimp only
  refine ⟨fun hr hf hc => ?_, exec_powerUp_fails, exec_powerUp_running, fun hr die hdie => ⟨?_, ?_, ?_⟩,
    fun hr site hsite => ⟨?_, exec_dramCrcRetry_corrects hr, exec_dramCrcRetry_spoils hr⟩,
    fun core line sector l hl => ⟨exec_writebackUe_clean hl, fun hd hlive => ?_⟩, fun core line sector => exec_writebackUe_none⟩
  · obtain ⟨clusters, starts⟩ := exec_powerUp_starts hr hf hc
    have gone : ∀ {k : Nat}, (k != pkg) = true → k ≠ pkg := fun h => by simpa using h
    refine ⟨_, starts, fun a => ?_, fun k hk => gone (List.mem_filter.1 hk).2, fun c hk => gone (List.mem_filter.1 hk).2,
      fun x hk => gone (List.mem_filter.1 hk).2, fun f hk => gone (List.mem_filter.1 hk).2,
      fun u hk => gone (List.mem_filter.1 hk).2, ?_⟩
    · refine (read_filter s.mem (fun k => keyPkg k != pkg) a).trans ?_
      by_cases h : keyPkg a = pkg <;> simp [h]
    · have up := pkgAt_modPkg ({ s.emptied pkg with clusters := clusters } : State) pkg
        (·.powered pkg (((tfind (s.pkgAt pkg).flash 4).map (·.payload)).getD []))
      refine ⟨by rw [up]; rfl, by rw [up]; rfl, by rw [up]; rfl, by rw [up]; rfl, by rw [up]; rfl, by rw [up]; rfl,
        fun n => ?_⟩
      rw [State.port, up]
      simp [Package.port, Package.powered, Package.reset, Port.reset]
  · exact congrArg Host.Outcome.next (if_pos (by simp [hr, hdie]))
  · exact congrArg Host.Outcome.next (if_pos (by simp [hr, hdie]))
  · exact congrArg Host.Outcome.next (if_pos (by simp [hr, hdie]))
  · exact congrArg Host.Outcome.next (if_pos (by simp [hr, hsite]))
  · obtain rfl := addr_of_findLine hl
    have hk : sector % 4 < 4 := Nat.mod_lt _ (by decide)
    let l' := l.restored (sector % 4) (s.rdNat (l.addr + 16 * (sector % 4)) 16)
    have reg : ((s.modCore core (·.putLine l')).coreAt core).region = (s.coreAt core).region := by
      rw [State.coreAt_modCore]; rfl
    refine ⟨s.modCore core (·.putLine l'), l', fun hn => ?_, fun r hsome => ?_, rfl, rfl, ?_, ?_, ?_, fun j hj hne => ?_⟩
    · rw [exec_writebackUe_dirty hl hd hlive, reportUe_none (reg.trans hn)]
    · obtain ⟨w0, w1, w3, cause, nowhere, told⟩ := reportUe_some (ga := l.addr + 16 * (sector % 4)) (reg.trans hsome)
      exact ⟨w0, w1, w3, cause, nowhere, (exec_writebackUe_dirty hl hd hlive).trans (congrArg Host.Outcome.next told)⟩
    · rw [State.coreAt_modCore]
      exact findLine_putLine _ l'
    · exact (dirty_restored l.dirty hk).trans (by simp)
    · exact get_restored l hk (readNat_lt s.mem _ 16)
    · exact (dirty_restored l.dirty hj).trans (by simp [hne])
end

section
/-! SUPPORT. Engine commands of the Heliostat at issue: their queueing and their refusals, HWAIT and HCANCEL (R315 to
R323). -/

namespace Sys2Proof.Machine

/-! ### Queueing a command -/

section
variable {s : State} {i : Instr} {ch : Nat} {a b c dst : Word} {follow : Bool}

/-- With room in its channel a command is queued, and what is left is to claim the lines it will write (R288, R315). -/
theorem queueCmd_queued (h : ((s.clusterAt (clusterOf s.core)).chan ch).length < 64) :
    (queueCmd i ch a b c dst follow).run s =
      (claimRanges (Claims.command s i a b c dst follow)
        ((Claims.queued s i ch a b c dst follow).cmdDests (Claims.command s i a b c dst follow) 0)).run
        (Claims.queued s i ch a b c dst follow) := by
  unfold queueCmd Claims.queued Claims.ticket
  rw [act_bind_ok (act_get s), act_bind_ok (act_waitUntil (by simpa using h) _ _ _), act_bind_ok (act_newId s)]
  cases cmdDest i <;> cases cmdSource i <;> rfl

/-- 64 commands fill a channel (R315). -/
theorem queueCmd_full (h : 64 ≤ ((s.clusterAt (clusterOf s.core)).chan ch).length) :
    (queueCmd i ch a b c dst follow).run s = .error (.wait .answer false) := by
  unfold queueCmd
  rw [act_bind_ok (act_get s), act_bind_error (act_waitUntil_false (by simpa using h) _ _ _)]

/-- The command takes its place in the channel and claims its lines, or waits for a place (R288, R315). -/
def Takes (s : State) (i : Instr) (ch : Nat) (a b c dst : Word) (follow : Bool) : Prop :=
  let q := Claims.queued s i ch a b c dst follow
  let cmd := Claims.command s i a b c dst follow
  (∀ u, ((s.clusterAt (clusterOf s.core)).chan ch).length < 64 →
    (claimRanges cmd (q.cmdDests cmd 0)).run q = .ok ((), u) → exec i s = .next (u.retired i)) ∧
  (q.cmdDests cmd 0 = [] → (claimRanges cmd (q.cmdDests cmd 0)).run q = .ok ((), q)) ∧
  (64 ≤ ((s.clusterAt (clusterOf s.core)).chan ch).length → exec i s = .next (s.modCtx (·.stallOn .answer false s.now)))

theorem takes_of_body {hd : Hd} {body : Act Unit} (he : exec i s = issueNext i hd body s) (hi : Issues i hd s)
    (hb : body.run s = (queueCmd i ch a b c dst follow).run s) : Takes s i ch a b c dst follow := by
  refine ⟨fun u hroom hclaim => ?_, fun hnone => ?_, fun hfull => ?_⟩
  · rw [he]
    exact issueNext_ok hi (hb.trans ((queueCmd_queued hroom).trans hclaim))
  · rw [hnone]
    rfl
  · rw [he]
    exact issueNext_wait hi (hb.trans (queueCmd_full hfull))

end

/-! ### The checks of a command -/

section
variable {s : State} {r : Reg} {t : Tile}

theorem act_cmdTile {ok : Tile → Bool} (ht : Claims.named s r.index t) (hok : ok t = true) : (cmdTile r ok).run s = .ok (t, s) := by
  unfold cmdTile
  rw [act_bind_ok (act_needTile ht.1 ht.2), act_bind_ok (act_unlessFault hok _ _ _)]
  rfl

/-- SMOOTH of a tile that can be smoothed, with divisors within the scratch banks (R317, R319). -/
theorem act_smoothing {k : Word} {smooth : Bool} (h : smooth = true → t.smooths = true ∧ k.toNat % 128 = 0 ∧
    k.toNat + 128 ≤ s.here.bankCount .scr * 0x2000) (rest : Unit → Act Unit) :
    (if smooth then smoothCheck (some t) k >>= rest else rest ()).run s = (rest ()).run s := by
  cases smooth with
  | false => rfl
  | true =>
    obtain ⟨fits, line, room⟩ := h rfl
    have check : (smoothCheck (some t) k).run s = .ok ((), s) := by
      unfold smoothCheck
      rw [act_bind_ok (act_unlessFault fits _ _ _), act_bind_ok (act_getCore s), act_unlessFault (by simp [line, room])]
    exact act_bind_ok check rest

theorem act_align16 {x : Word} (h : x.toNat % 16 = 0) : (align16 x).run s = .ok ((), s) := act_unlessFault (by simp [h]) _ _ _

theorem act_align32 {x : Word} (h : x.toNat % 32 = 0) : (align32 x).run s = .ok ((), s) := act_unlessFault (by simp [h]) _ _ _

theorem act_align32_refused {x : Word} (h : x.toNat % 32 ≠ 0) :
    (align32 x).run s = .error (.trap { cause := cMISALIGNED, tval := some x }) := act_unlessFault_false (by simp [h]) _ _ _

theorem Tile.isRows_of_role (h : t.role ≠ .csm) : t.isRows = true := by simpa [Tile.isRows] using h

theorem Tile.isPlain_of_role (h : t.role ≠ .csm) (hf : t.fmt ≠ .m4) : t.isPlain = true := by
  simp [Tile.isPlain, Tile.isRows, h, hf]

end

/-! ### HCOPY -/

section
variable {o : EOps} {s : State} {t : Tile}

theorem exec_hcopy_length (hi : Issues (.hcopy o) o.h s) (hd : o.h.d.isT = true) (ht : Claims.named s o.h.d.index t)
    (hn : (s.ctx.rg o.h.s2.index).toNat ≠ t.bytes) : exec (.hcopy o) s =
      .next (s.takeTrapA { cause := cILLEGAL_OPERAND, tval := some (s.ctx.rg o.h.s2.index) }) := by
  refine issueNext_trap hi ?_
  rw [act_bind_ok (act_getCtx s), if_pos hd, act_bind_ok (act_cmdTile ht rfl),
    act_bind_error (act_unlessFault_false (by simpa using hn) _ _ _)]

theorem exec_hcopy_source (hi : Issues (.hcopy o) o.h s) (hd : o.h.d.isT = true) (ht : Claims.named s o.h.d.index t)
    (hn : (s.ctx.rg o.h.s2.index).toNat = t.bytes)
    (hs : o.opt.getLsbD 0 = true → t.smooths = true ∧ (s.ctx.rg o.h.s3.index).toNat % 128 = 0 ∧
      (s.ctx.rg o.h.s3.index).toNat + 128 ≤ s.here.bankCount .scr * 0x2000)
    (ha : (s.ctx.rg o.h.s1.index).toNat % 16 ≠ 0) : exec (.hcopy o) s =
      .next (s.takeTrapA { cause := cMISALIGNED, tval := some (s.ctx.rg o.h.s1.index) }) := by
  refine issueNext_trap hi ?_
  rw [act_bind_ok (act_getCtx s), if_pos hd, act_bind_ok (act_cmdTile ht rfl),
    act_bind_ok (act_unlessFault (by simpa using hn) _ _ _)]
  exact (act_smoothing hs _).trans (act_bind_error (act_unlessFault_false (by simp [ha]) _ _ _) _)

/-- The body of HCOPY to a tile, once its checks have passed (R317). -/
theorem exec_hcopy_tile (hi : Issues (.hcopy o) o.h s) (hd : o.h.d.isT = true) (ht : Claims.named s o.h.d.index t)
    (hn : (s.ctx.rg o.h.s2.index).toNat = t.bytes)
    (hs : o.opt.getLsbD 0 = true → t.smooths = true ∧ (s.ctx.rg o.h.s3.index).toNat % 128 = 0 ∧
      (s.ctx.rg o.h.s3.index).toNat + 128 ≤ s.here.bankCount .scr * 0x2000)
    (ha : (s.ctx.rg o.h.s1.index).toNat % 16 = 0) :
    Takes s (.hcopy o) o.ch.toNat (s.ctx.rg o.h.s1.index) (s.ctx.rg o.h.s2.index) (s.ctx.rg o.h.s3.index) 0 o.f := by
  refine takes_of_body rfl hi ?_
  rw [act_bind_ok (act_getCtx s), if_pos hd, act_bind_ok (act_cmdTile ht rfl),
    act_bind_ok (act_unlessFault (by simpa using hn) _ _ _)]
  exact (act_smoothing hs _).trans (act_bind_ok (act_align16 ha) _)

theorem exec_hcopy_odd (hi : Issues (.hcopy o) o.h s) (hd : o.h.d.isT = false)
    (hn : (s.ctx.rg o.h.s2.index).toNat % 16 ≠ 0) : exec (.hcopy o) s =
      .next (s.takeTrapA { cause := cILLEGAL_OPERAND, tval := some (s.ctx.rg o.h.s2.index) }) := by
  refine issueNext_trap hi ?_
  rw [act_bind_ok (act_getCtx s), if_neg (by simp [hd]), act_bind_error (act_unlessFault_false (by simp [hn]) _ _ _)]

theorem exec_hcopy_memory (hi : Issues (.hcopy o) o.h s) (hd : o.h.d.isT = false) (hs : o.opt.getLsbD 0 = false)
    (hn : (s.ctx.rg o.h.s2.index).toNat % 16 = 0) (ha : (s.ctx.rg o.h.s1.index).toNat % 16 = 0)
    (hdst : (s.ctx.rg o.h.d.index).toNat % 16 = 0) : Takes s (.hcopy o) o.ch.toNat (s.ctx.rg o.h.s1.index)
      (s.ctx.rg o.h.s2.index) (s.ctx.rg o.h.s3.index) (s.ctx.rg o.h.d.index) false := by
  refine takes_of_body rfl hi ?_
  rw [act_bind_ok (act_getCtx s), if_neg (by simp [hd]), act_bind_ok (act_unlessFault (by simp [hn]) _ _ _)]
  simp only [hs, Bool.false_eq_true, ↓reduceIte]
  rw [act_bind_ok (act_align16 ha), act_bind_ok (act_align16 hdst)]

end

/-! ### The commands of rows -/

section
variable {s : State} {r : Reg} {t : Tile} {ok : Tile → Bool} {n l : Word} {queue : Act Unit}
variable (ht : Claims.named s r.index t) (hok : ok t = true)
include ht hok

/-- A list names at most 32 rows (R317, R320). -/
theorem act_listChecks_long (hn : 32 < n.toNat) : (do
    let _ ← cmdTile r ok
    unlessFault (decide (n.toNat ≤ 32)) cILLEGAL_OPERAND (some n)
    align32 l
    queue).run s = .error (.trap { cause := cILLEGAL_OPERAND, tval := some n }) := by
  rw [act_bind_ok (act_cmdTile ht hok), act_bind_error (act_unlessFault_false (by simpa using hn) _ _ _)]

theorem act_listChecks_misaligned (hn : n.toNat ≤ 32) (hl : l.toNat % 32 ≠ 0) : (do
    let _ ← cmdTile r ok
    unlessFault (decide (n.toNat ≤ 32)) cILLEGAL_OPERAND (some n)
    align32 l
    queue).run s = .error (.trap { cause := cMISALIGNED, tval := some l }) := by
  rw [act_bind_ok (act_cmdTile ht hok), act_bind_ok (act_unlessFault (by simpa using hn) _ _ _),
    act_bind_error (act_align32_refused hl)]

theorem act_listChecks (hn : n.toNat ≤ 32) (hl : l.toNat % 32 = 0) : (do
    let _ ← cmdTile r ok
    unlessFault (decide (n.toNat ≤ 32)) cILLEGAL_OPERAND (some n)
    align32 l
    queue).run s = queue.run s := by
  rw [act_bind_ok (act_cmdTile ht hok), act_bind_ok (act_unlessFault (by simpa using hn) _ _ _), act_bind_ok (act_align32 hl)]

/-- A descriptor is 32-byte aligned (R317, R321). -/
theorem act_rowChecks_misaligned (hl : l.toNat % 32 ≠ 0) : (do
    let _ ← cmdTile r ok
    align32 l
    queue).run s = .error (.trap { cause := cMISALIGNED, tval := some l }) := by
  rw [act_bind_ok (act_cmdTile ht hok), act_bind_error (act_align32_refused hl)]

theorem act_rowChecks (hl : l.toNat % 32 = 0) : (do
    let _ ← cmdTile r ok
    align32 l
    queue).run s = queue.run s := by
  rw [act_bind_ok (act_cmdTile ht hok), act_bind_ok (act_align32 hl)]

end

/-! ### HWAIT and HCANCEL -/

section
variable {o : EOps} {s : State} {t : Tile} {id : Nat}

theorem exec_hwait_channelWaits (hi : Issues (.hwait o) o.h s) (ho : o.opt.getLsbD 0 = true)
    (hc : ∃ c ∈ (s.clusterAt (clusterOf s.core)).chan o.ch.toNat, c.core = s.core ∧ c.fc = s.fc % 4) :
    exec (.hwait o) s = .next (s.modCtx (·.stallOn .answer false s.now)) := by
  refine issueNext_wait hi ?_
  rw [act_bind_ok (act_get s), if_pos ho, act_bind_error (act_waitUntil_false (by simpa using hc) _ _ _)]

theorem exec_hwait_channelEnded (hi : Issues (.hwait o) o.h s) (ho : o.opt.getLsbD 0 = true)
    (hc : ∀ c ∈ (s.clusterAt (clusterOf s.core)).chan o.ch.toNat, ¬ (c.core = s.core ∧ c.fc = s.fc % 4)) :
    let r := tget (0, 0) s.ctx.channels o.ch.toNat
    exec (.hwait o) s = .next (((s.modCtx (fun c => { c with cts := max c.cts r.2 })).modCtx
      (·.wg o.h.d.index r.1)).retired (.hwait o)) := by
  refine issueNext_ok hi ?_
  rw [act_bind_ok (act_get s), if_pos ho, act_bind_ok (act_waitUntil (by simpa using hc) _ _ _)]
  rfl

theorem exec_hwait_free (hi : Issues (.hwait o) o.h s) (ho : o.opt.getLsbD 0 = false) (ht : Claims.named s o.h.s1.index t)
    (hn : t.ticket = none) : exec (.hwait o) s = .next ((s.modCtx (·.wg o.h.d.index 0)).retired (.hwait o)) := by
  refine issueNext_writes hi ?_
  rw [act_bind_ok (act_get s), if_neg (Bool.eq_false_iff.1 ho), act_bind_ok (act_needTile ht.1 ht.2), hn]

theorem exec_hwait_tileWaits (hi : Issues (.hwait o) o.h s) (ho : o.opt.getLsbD 0 = false) (ht : Claims.named s o.h.s1.index t)
    (hid : t.ticket = some id) (hc : ∃ c ∈ s.pendingCmds (clusterOf s.core), c.id = id) :
    exec (.hwait o) s = .next (s.modCtx (·.stallOn .tile true s.now)) := by
  refine issueNext_wait hi ?_
  rw [act_bind_ok (act_get s), if_neg (Bool.eq_false_iff.1 ho), act_bind_ok (act_needTile ht.1 ht.2), hid]
  exact act_bind_error (act_waitUntil_false (by simpa using hc) _ _ _) _

theorem exec_hwait_tileEnded (hi : Issues (.hwait o) o.h s) (ho : o.opt.getLsbD 0 = false) (ht : Claims.named s o.h.s1.index t)
    (hid : t.ticket = some id) (hc : ∀ c ∈ s.pendingCmds (clusterOf s.core), c.id ≠ id) :
    exec (.hwait o) s = .next (((s.modCtx (fun c => { c with cts := max c.cts t.statusTs })).modCtx
      (·.wg o.h.d.index t.status)).retired (.hwait o)) := by
  refine issueNext_ok hi ?_
  rw [act_bind_ok (act_get s), if_neg (Bool.eq_false_iff.1 ho), act_bind_ok (act_needTile ht.1 ht.2), hid]
  exact act_bind_ok (act_waitUntil (by simpa using hc) _ _ _) _

theorem deliver_core (s : State) (k m : Nat) (e : List Word) (txn : Option Nat) : (s.deliver k m e txn).2.core = s.core := by
  unfold State.deliver
  dsimp only
  split
  · rfl
  · split <;> rfl

theorem notify_core (s : State) (k fc name : Nat) (payload : List Word) : (s.notify k fc name payload).core = s.core := by
  unfold State.notify
  split
  · exact deliver_core ..
  · rfl

theorem endCmd_core (s : State) (cl : Nat) (c : Cmd) (status : Word) : (s.endCmd cl c status).core = s.core := by
  have recorded : ∀ s : State, (s.recordStatus c status).core = s.core := fun s => by
    unfold State.recordStatus
    cases cmdDest c.i <;> cases cmdSource c.i <;> rfl
  have target : ∀ s : State, (s.cmdTarget c).2.core = s.core := fun s => by
    unfold State.cmdTarget
    split <;> rfl
  unfold State.endCmd
  dsimp only
  split
  · exact (notify_core ..).trans ((target _).trans (recorded _))
  · exact recorded _

theorem setTileState_core (s : State) (k : Nat) (n : Option Nat) (st : TileState) : (s.setTileState k n st).core = s.core := by
  cases n <;> rfl

theorem clearFillError_core (s : State) (c : Cmd) : (s.clearFillError c).core = s.core := by
  unfold State.clearFillError
  split <;> rfl

/-- Cancelling a command leaves whose turn it is (R323). -/
theorem cancelCmd_core (s : State) (cl : Nat) (c : Cmd) : (s.cancelCmd cl c).core = s.core := by
  unfold State.cancelCmd
  dsimp only
  split
  · exact (endCmd_core ..).trans ((setTileState_core ..).trans (setTileState_core ..))
  · split
    · exact endCmd_core ..
    · split
      · exact (endCmd_core ..).trans (clearFillError_core ..)
      · exact endCmd_core ..

theorem foldl_cancelCmd (l : List Cmd) {s : State} {k : Nat} (h : s.core = k) :
    l.foldl (fun s c => s.cancelCmd (clusterOf k) c) s = l.foldl (fun s c => s.cancelCmd (clusterOf s.core) c) s := by
  induction l generalizing s with
  | nil => rfl
  | cons c l ih =>
    rw [List.foldl_cons, List.foldl_cons, ih ((cancelCmd_core ..).trans h), h]

theorem exec_hcancel (hi : Issues (.hcancel o) o.h s) :
    let mine := ((s.clusterAt (clusterOf s.core)).chan o.ch.toNat).filter
      (fun c => c.core == s.core && c.fc == s.fc % 4 && c.stage != .made)
    exec (.hcancel o) s = .next ((((mine.foldl (fun s c => s.cancelCmd (clusterOf s.core) c) s).finishSaves).modCtx
      (·.wg o.h.d.index (BitVec.ofNat 64 mine.length))).retired (.hcancel o)) := by
  refine issueNext_ok hi ?_
  rw [act_bind_ok (act_get s), act_bind_ok (act_modify _ s)]
  rw [act_writeD, word, foldl_cancelCmd _ rfl]

end

end Sys2Proof.Machine

open Sys2Proof.Machine in
/-- Settles O49: each command's checks lead to its cause, or to its place in the channel; HWAIT reads the status of what has
ended and HCANCEL counts what it cancels. -/
theorem heliostatCommands : Obligations.HeliostatCommands := by
  unfold Obligations.HeliostatCommands
  intro o s t
  dsimp only
  refine ⟨fun hi hd ht => ⟨exec_hcopy_length hi hd ht, fun hn hs => ⟨exec_hcopy_source hi hd ht hn hs, exec_hcopy_tile hi hd ht hn hs⟩⟩,
    fun hi hd hs => ⟨exec_hcopy_odd hi hd, exec_hcopy_memory hi hd hs⟩, fun hi ht hr => ?_, fun hi ht hr => ?_,
    fun hi ht hr hf => ?_, fun hi ht hr hf => ?_, fun hi ho => ⟨exec_hwait_channelWaits hi ho, exec_hwait_channelEnded hi ho⟩,
    fun hi ho ht => ⟨exec_hwait_free hi ho ht, fun id hid => ⟨exec_hwait_tileWaits hi ho ht hid, exec_hwait_tileEnded hi ho ht hid⟩⟩,
    fun hi => exec_hcancel hi⟩
  · have rows := Tile.isRows_of_role hr
    exact ⟨fun hn => issueNext_trap hi ((act_bind_ok (act_getCtx s) _).trans (act_listChecks_long ht rows hn)),
      fun hn hl => issueNext_trap hi ((act_bind_ok (act_getCtx s) _).trans (act_listChecks_misaligned ht rows hn hl)),
      fun hn hl => takes_of_body rfl hi ((act_bind_ok (act_getCtx s) _).trans (act_listChecks ht rows hn hl))⟩
  · have rows := Tile.isRows_of_role hr
    exact ⟨fun hn => issueNext_trap hi ((act_bind_ok (act_getCtx s) _).trans (act_listChecks_long ht rows hn)),
      fun hn hl => issueNext_trap hi ((act_bind_ok (act_getCtx s) _).trans (act_listChecks_misaligned ht rows hn hl)),
      fun hn hl => takes_of_body rfl hi ((act_bind_ok (act_getCtx s) _).trans (act_listChecks ht rows hn hl))⟩
  · have plain := Tile.isPlain_of_role hr hf
    exact ⟨fun hl => issueNext_trap hi ((act_bind_ok (act_readGReg _ s) _).trans (act_rowChecks_misaligned ht plain hl)),
      fun hl => takes_of_body rfl hi ((act_bind_ok (act_readGReg _ s) _).trans (act_rowChecks ht plain hl))⟩
  · have plain := Tile.isPlain_of_role hr hf
    exact ⟨fun hl => issueNext_trap hi ((act_bind_ok (act_readGReg _ s) _).trans (act_rowChecks_misaligned ht plain hl)),
      fun hl => takes_of_body rfl hi ((act_bind_ok (act_readGReg _ s) _).trans (act_rowChecks ht plain hl))⟩
end

section
/-! SUPPORT. Catalogue commands and CFENCE at issue: their checks, their refusals, and their place in the unit's queue (R326,
R332, R335 to R340). -/

namespace Sys2Proof.Machine

/-! ### What a command of the Catalogue Unit waits for, and its acceptance -/

section
variable {s : State} {i : Instr} {d : Reg} {cat : Nat} {a b : Word} {words : List Nat}

theorem act_catGate (h : Claims.Accepts s) : catGate.run s = .ok ((), s) := by
  unfold catGate
  rw [act_bind_ok (act_acquired h.acquired), act_bind_ok (act_get s)]
  refine act_waitUntil ?_ _ _ _
  rw [Bool.not_eq_true']
  refine List.any_eq_false.2 fun q hq => ?_
  by_cases hc : q.core = s.core
  · have exchanged := h.exchanged q hq hc
    split
    · exact absurd ‹q.i = _› (exchanged _)
    · simp
  · simp [hc]

/-- An update waits for a place among the 32 of its context; another command needs none (R332, R335). -/
theorem act_accept (h : (∃ o, i = .cins o ∨ i = .cdel o) → s.ctx.updates < 32) :
    (accept i d cat a b words).run s = .ok ((), Claims.accepted s i d cat a b words) := by
  unfold accept
  rw [act_bind_ok (act_get s)]
  cases i with
  | cins o => exact act_bind_ok (act_waitUntil (decide_eq_true (h ⟨o, .inl rfl⟩)) _ _ _) _
  | cdel o => exact act_bind_ok (act_waitUntil (decide_eq_true (h ⟨o, .inr rfl⟩)) _ _ _) _
  | _ => rfl

theorem act_accept_full (hi : ∃ o, i = .cins o ∨ i = .cdel o) (h : 32 ≤ s.ctx.updates) :
    (accept i d cat a b words).run s = .error (.wait .answer false) := by
  have full : decide (s.ctx.updates < 32) = false := by simpa using h
  have wait : (waitUntil (decide (s.ctx.updates < 32)) .answer).run s = .error (.wait .answer false) :=
    act_waitUntil_false full _ _ _
  unfold accept
  rw [act_bind_ok (act_get s)]
  obtain ⟨o, rfl | rfl⟩ := hi
  · exact act_bind_error wait _
  · exact act_bind_error wait _

theorem act_accept_asked (h : ∀ o, i ≠ .cins o ∧ i ≠ .cdel o) :
    (accept i d cat a b words).run s = .ok ((), Claims.accepted s i d cat a b words) :=
  act_accept fun ⟨o, hi⟩ => (hi.elim (h o).1 (h o).2).elim

end

/-! ### The checks -/

section
variable {s : State} {n : Nat} {c : Catalogue}

theorem act_catOf (h : s.ownCat (clusterOf s.core) s.ctx.rcb n = some c) : (catOf n).run s = .ok (c, s) := by
  unfold catOf
  rw [act_bind_ok (act_get s), h]
  rfl

theorem act_catOf_none (h : s.ownCat (clusterOf s.core) s.ctx.rcb n = none) :
    (catOf n).run s = .error (.trap { cause := cCAT_UNDEF, tval := some (BitVec.ofNat 64 n) }) := by
  unfold catOf
  rw [act_bind_ok (act_get s), h]
  rfl

variable {i : Instr} {o : EOps} {key value : Word}

theorem act_updateCheck {ins : Bool} (hins : ins = true → i = .cins o) (h : Claims.updateFits c i key value) :
    (updateCheck c key value ins).run s = .ok ((), s) := by
  unfold updateCheck
  unfold Claims.updateFits at h
  cases hl : c.lsh
  · rw [hl, if_neg Bool.false_ne_true] at h
    cases ins with
    | false => rfl
    | true => exact act_unlessFault (by simpa using h o (hins rfl)) _ _ _
  · rw [hl, if_pos rfl] at h
    rw [if_pos rfl, act_bind_ok (act_unlessFault (by simpa using h.1) _ _ _)]
    exact act_unlessFault (by simpa using h.2) _ _ _

theorem act_updateCheck_value (hl : c.lsh = true) (hv : 2 ^ 28 ≤ value.toNat) (ins : Bool) :
    (updateCheck c key value ins).run s = .error (.trap { cause := cILLEGAL_OPERAND, tval := some value }) := by
  unfold updateCheck
  rw [if_pos hl, act_bind_error (act_unlessFault_false (by simpa using hv) _ _ _)]

theorem act_updateCheck_key (hl : c.lsh = true) (hv : value.toNat < 2 ^ 28) (hk : 2 ^ (c.k * c.l) ≤ key.toNat) (ins : Bool) :
    (updateCheck c key value ins).run s = .error (.trap { cause := cILLEGAL_OPERAND, tval := some key }) := by
  unfold updateCheck
  rw [if_pos hl, act_bind_ok (act_unlessFault (by simpa using hv) _ _ _)]
  exact act_unlessFault_false (by simpa using hk) _ _ _

theorem act_updateCheck_exact (hl : c.lsh = false) (hv : 2 ^ 32 ≤ value.toNat) :
    (updateCheck c key value true).run s = .error (.trap { cause := cILLEGAL_OPERAND, tval := some value }) := by
  unfold updateCheck
  rw [if_neg (Bool.eq_false_iff.1 hl), if_pos rfl, act_unlessFault_false (by simpa using hv)]

end

/-! ### The commands -/

section
variable {o : EOps} {s : State} {c : Catalogue} {i : Instr}

/-- CINS and CDEL are one form at issue (R332). -/
theorem exec_update (hi : i = .cins o ∨ i = .cdel o) : ∃ ins, (ins = true → i = .cins o) ∧
    exec i s = issueNext i o.h (issueUpdate i o ins) s := by
  rcases hi with rfl | rfl
  · exact ⟨true, fun _ => rfl, rfl⟩
  · exact ⟨false, fun h => absurd h Bool.false_ne_true, rfl⟩

variable (hg : Claims.Accepts s)
include hg

/-- A command whose number no catalogue of the region holds (R332). -/
theorem exec_catalogue_undefined (hm : i ∈ [Instr.cswap o, .cstat o, .cins o, .cdel o, .clook o]) (hi : Issues i o.h s)
    (hn : s.ownCat (clusterOf s.core) s.ctx.rcb o.ch.toNat = none) :
    exec i s = .next (s.takeTrapA { cause := cCAT_UNDEF, tval := some (BitVec.ofNat 64 o.ch.toNat) }) := by
  simp only [List.mem_cons, List.not_mem_nil, or_false] at hm
  have gate := act_catGate hg
  have undefined := act_catOf_none hn
  rcases hm with rfl | rfl | rfl | rfl | rfl
  · refine issueNext_trap hi ?_
    rw [act_bind_ok gate, act_bind_ok (act_get s), act_bind_error undefined]
  · refine issueNext_trap hi ?_
    rw [act_bind_ok gate, act_bind_error undefined]
  · refine issueNext_trap hi ?_
    rw [issueUpdate, act_bind_ok gate, act_bind_ok (act_getCtx s), act_bind_error undefined]
  · refine issueNext_trap hi ?_
    rw [issueUpdate, act_bind_ok gate, act_bind_ok (act_getCtx s), act_bind_error undefined]
  · refine issueNext_trap hi ?_
    rw [act_bind_ok gate, act_bind_error undefined]

theorem exec_cdef {w : List Nat} {s1 : State} (hi : Issues (.cdef o) o.h s)
    (hr : (readRecord (s.ctx.rg o.h.s1.index).toNat).run s = .ok (w, s1)) : exec (.cdef o) s =
      .next ((Claims.accepted s1 (.cdef o) o.h.d o.ch.toNat (s.ctx.rg o.h.s1.index) 0 w).retired (.cdef o)) := by
  refine issueNext_ok hi ?_
  rw [act_bind_ok (act_catGate hg), act_bind_ok (act_readGReg _ s), act_bind_ok hr]
  exact act_accept_asked (by simp)

variable (hc : s.ownCat (clusterOf s.core) s.ctx.rcb o.ch.toNat = some c)
include hc

theorem exec_cswap (hi : Issues (.cswap o) o.h s)
    (hd : ∀ d, tfind (s.clusterAt (clusterOf s.core)).cats (o.w.toNat % 16) = some d → d.rcb = s.ctx.rcb) :
    exec (.cswap o) s = .next
      ((Claims.accepted s (.cswap o) o.h.d o.ch.toNat (BitVec.ofNat 64 (o.w.toNat % 16)) 0 []).retired (.cswap o)) := by
  refine issueNext_ok hi ?_
  rw [act_bind_ok (act_catGate hg), act_bind_ok (act_get s), act_bind_ok (act_catOf hc)]
  dsimp only
  have accepted := act_accept_asked (i := .cswap o) (s := s) (d := o.h.d) (cat := o.ch.toNat) (a := word (o.w.toNat % 16))
    (b := 0) (words := []) (by simp)
  split
  · exact (act_bind_ok (act_unlessFault (by simpa using hd _ ‹_›) _ _ _) _).trans accepted
  · exact accepted

theorem exec_cstat (hi : Issues (.cstat o) o.h s) :
    exec (.cstat o) s = .next ((Claims.accepted s (.cstat o) o.h.d o.ch.toNat 0 0 []).retired (.cstat o)) := by
  refine issueNext_ok hi ?_
  rw [act_bind_ok (act_catGate hg), act_bind_ok (act_catOf hc)]
  exact act_accept_asked (by simp)

theorem exec_update_goes (hu : i = .cins o ∨ i = .cdel o) (hi : Issues i o.h s)
    (hf : Claims.updateFits c i (s.ctx.rg o.h.s1.index) (s.ctx.rg o.h.s2.index)) (hr : s.ctx.updates < 32) : exec i s = .next
      ((Claims.accepted s i o.h.d o.ch.toNat (s.ctx.rg o.h.s1.index) (s.ctx.rg o.h.s2.index) []).retired i) := by
  obtain ⟨ins, hins, form⟩ := exec_update (s := s) hu
  rw [form]
  refine issueNext_ok hi ?_
  rw [issueUpdate, act_bind_ok (act_catGate hg), act_bind_ok (act_getCtx s), act_bind_ok (act_catOf hc),
    act_bind_ok (act_updateCheck hins hf)]
  exact act_accept fun _ => hr

theorem exec_update_waits (hu : i = .cins o ∨ i = .cdel o) (hi : Issues i o.h s)
    (hf : Claims.updateFits c i (s.ctx.rg o.h.s1.index) (s.ctx.rg o.h.s2.index)) (hr : 32 ≤ s.ctx.updates) :
    exec i s = .next (s.modCtx (·.stallOn .answer false s.now)) := by
  obtain ⟨ins, hins, form⟩ := exec_update (s := s) hu
  rw [form]
  refine issueNext_wait hi ?_
  rw [issueUpdate, act_bind_ok (act_catGate hg), act_bind_ok (act_getCtx s), act_bind_ok (act_catOf hc),
    act_bind_ok (act_updateCheck hins hf)]
  exact act_accept_full ⟨o, hu⟩ hr

/-- An update whose words are out of range (R332). -/
theorem exec_update_refused {v : Word} (hu : i = .cins o ∨ i = .cdel o) (hi : Issues i o.h s)
    (hf : ∀ ins, (ins = false → i ≠ .cins o) →
      (updateCheck c (s.ctx.rg o.h.s1.index) (s.ctx.rg o.h.s2.index) ins).run s =
        .error (.trap { cause := cILLEGAL_OPERAND, tval := some v })) :
    exec i s = .next (s.takeTrapA { cause := cILLEGAL_OPERAND, tval := some v }) := by
  obtain ⟨ins, hins, form⟩ : ∃ ins, (ins = false → i ≠ .cins o) ∧ exec i s = issueNext i o.h (issueUpdate i o ins) s := by
    rcases hu with rfl | rfl
    · exact ⟨true, by simp, rfl⟩
    · exact ⟨false, by simp, rfl⟩
  rw [form]
  refine issueNext_trap hi ?_
  rw [issueUpdate, act_bind_ok (act_catGate hg), act_bind_ok (act_getCtx s), act_bind_ok (act_catOf hc),
    act_bind_error (hf ins hins)]

theorem exec_clook (hi : Issues (.clook o) o.h s) (hl : c.lsh = false) : exec (.clook o) s =
    .next ((Claims.accepted s (.clook o) o.h.d o.ch.toNat (s.ctx.rg o.h.s1.index) 0 []).retired (.clook o)) := by
  refine issueNext_ok hi ?_
  rw [act_bind_ok (act_catGate hg), act_bind_ok (act_catOf hc), act_bind_ok (act_unlessFault (by simp [hl]) _ _ _),
    act_bind_ok (act_readGReg _ s)]
  exact act_accept_asked (by simp)

theorem exec_clook_mode (hi : Issues (.clook o) o.h s) (hl : c.lsh = true) : exec (.clook o) s =
    .next (s.takeTrapA { cause := cCAT_MODE, tval := some (BitVec.ofNat 64 o.ch.toNat) }) := by
  refine issueNext_trap hi ?_
  rw [act_bind_ok (act_catGate hg), act_bind_ok (act_catOf hc), act_bind_error (act_unlessFault_false (by simp [hl]) _ _ _)]
  rfl

theorem exec_crehash_count (hi : Issues (.crehash o) o.h s)
    (ha : s.ctx.rg o.h.s1.index = 0 ∨ 2 ^ 24 < (s.ctx.rg o.h.s1.index).toNat) : exec (.crehash o) s =
    .next (s.takeTrapA { cause := cILLEGAL_OPERAND, tval := some (s.ctx.rg o.h.s1.index) }) := by
  have refused : (s.ctx.rg o.h.s1.index != 0 && decide ((s.ctx.rg o.h.s1.index).toNat ≤ 2 ^ 24)) = false := by
    rcases ha with ha | ha
    · simp [ha]
    · simp only [Bool.and_eq_false_iff, decide_eq_false_iff_not]
      exact .inr (by omega)
  refine issueNext_trap hi ?_
  rw [act_bind_ok (act_catGate hg), act_bind_ok (act_getCtx s), act_bind_ok (act_catOf hc),
    act_bind_error (act_unlessFault_false refused _ _ _)]

variable (h0 : s.ctx.rg o.h.s1.index ≠ 0) (ha : (s.ctx.rg o.h.s1.index).toNat ≤ 2 ^ 24)
include h0 ha

/-- With S2 naming g0 it is a step (R338). -/
theorem exec_crehash_step (hi : Issues (.crehash o) o.h s) (hz : o.h.s2.isZero = true) : exec (.crehash o) s =
    .next ((Claims.accepted s (.crehash o) o.h.d o.ch.toNat (s.ctx.rg o.h.s1.index) (s.ctx.rg o.h.s2.index) []).retired
      (.crehash o)) := by
  refine issueNext_ok hi ?_
  rw [act_bind_ok (act_catGate hg), act_bind_ok (act_getCtx s), act_bind_ok (act_catOf hc),
    act_bind_ok (act_unlessFault (by simpa using ⟨h0, ha⟩) _ _ _)]
  dsimp only
  rw [if_pos hz, act_bind_ok (act_pure [] s)]
  exact act_accept_asked (by simp)

/-- Else it begins, with the new record (R326, R338). -/
theorem exec_crehash_begins {w : List Nat} {s1 : State} (hi : Issues (.crehash o) o.h s) (hz : o.h.s2.isZero = false)
    (hr : (readRecord (s.ctx.rg o.h.s2.index).toNat).run s = .ok (w, s1)) : exec (.crehash o) s =
    .next ((Claims.accepted s1 (.crehash o) o.h.d o.ch.toNat (s.ctx.rg o.h.s1.index) (s.ctx.rg o.h.s2.index) w).retired
      (.crehash o)) := by
  refine issueNext_ok hi ?_
  rw [act_bind_ok (act_catGate hg), act_bind_ok (act_getCtx s), act_bind_ok (act_catOf hc),
    act_bind_ok (act_unlessFault (by simpa using ⟨h0, ha⟩) _ _ _)]
  dsimp only
  rw [if_neg (Bool.eq_false_iff.1 hz), act_bind_ok hr]
  exact act_accept_asked (by simp)

end

/-! ### CPROBE and CFENCE -/

section
variable {o : EOps} {s u v s1 s2 : State} {list w3 : Nat} {c : Catalogue}

/-- A probe whose descriptor is read and keeps R336 goes on to its catalogue. -/
theorem act_probeDescriptor (hg : Claims.Accepts s)
    (hr : (catAddress .r (s.ctx.rg o.h.s2.index).toNat 32).run s = .ok ((), u))
    (hw : (catAddress .w (s.ctx.rg o.h.s2.index).toNat 32).run u = .ok ((), v))
    (hl : (loadWord (s.ctx.rg o.h.s2.index).toNat).run v = .ok (list, s1))
    (h3 : (loadWord ((s.ctx.rg o.h.s2.index).toNat + 24)).run s1 = .ok (w3, s2))
    (hlist : listOk s2 list (bits w3 15 8) = true) (hhigh : bits w3 31 16 = 0) (hlow : bits w3 7 4 = 0)
    (hmax : bits w3 15 8 ≠ 0) : ∃ body, exec (.cprobe o) s = issueNext (.cprobe o) o.h body s ∧ body.run s = (do
      let c ← catOf (bits w3 3 0)
      unlessFault c.lsh cCAT_MODE (some (word (bits w3 3 0)))
      accept (.cprobe o) o.h.d (bits w3 3 0) (s.ctx.rg o.h.s1.index) (s.ctx.rg o.h.s2.index) [list, w3]).run s2 := by
  refine ⟨_, rfl, ?_⟩
  rw [act_bind_ok (act_catGate hg), act_bind_ok (act_getCtx s), act_bind_ok hr, act_bind_ok hw, act_bind_ok hl,
    act_bind_ok h3, act_bind_ok (act_get s2), act_bind_ok (act_unlessFault hlist _ _ _),
    act_bind_ok (act_unlessFault (by simpa [hhigh, hlow] using hmax) _ _ _)]

theorem exec_cfence_waits (hi : Issues (.cfence o) o.h s) (ha : s.acqOut = false)
    (hq : ∃ q ∈ (s.clusterAt (clusterOf s.core)).catq, q.core = s.core ∧ ((∃ x, q.i = .cins x) ∨ ∃ x, q.i = .cdel x)) :
    exec (.cfence o) s = .next (s.modCtx (·.stallOn .fence false s.now)) := by
  obtain ⟨q, hm, hk, hu⟩ := hq
  have update : q.isUpdate = true := by
    rcases hu with ⟨x, hx⟩ | ⟨x, hx⟩ <;> simp [CatCmd.isUpdate, hx]
  refine issueNext_wait hi ?_
  rw [act_bind_ok (act_acquired ha), act_bind_ok (act_get s), act_bind_error (act_waitUntil_false ?_ _ _ _)]
  rw [Bool.not_eq_false']
  exact List.any_eq_true.2 ⟨q, hm, by simp [hk, update]⟩

theorem act_cfence (ha : s.acqOut = false) (hq : ∀ q ∈ (s.clusterAt (clusterOf s.core)).catq,
      ¬ (q.core = s.core ∧ ((∃ x, q.i = .cins x) ∨ ∃ x, q.i = .cdel x))) : ∃ body,
    exec (.cfence o) s = issueNext (.cfence o) o.h body s ∧
    (s.ctx.catErr = none → body.run s = .ok ((), s)) ∧
    (∀ cause n, s.ctx.catErr = some (cause, n) → body.run s =
      .error (.trap { cause := cause, tval := some (BitVec.ofNat 64 n), clears := [.catErr] })) := by
  have none : (!(s.clusterAt (clusterOf s.core)).catq.any (fun c => c.core == s.core && c.isUpdate)) = true := by
    rw [Bool.not_eq_true']
    refine List.any_eq_false.2 fun q hm => ?_
    by_cases hk : q.core = s.core
    · have other := hq q hm
      unfold CatCmd.isUpdate
      split
      · exact absurd ⟨hk, .inl ⟨_, ‹_›⟩⟩ other
      · exact absurd ⟨hk, .inr ⟨_, ‹_›⟩⟩ other
      · simp
    · simp [hk]
  refine ⟨_, rfl, fun he => ?_, fun cause n he => ?_⟩
  · rw [act_bind_ok (act_acquired ha), act_bind_ok (act_get s), act_bind_ok (act_waitUntil none _ _ _), he]
    rfl
  · rw [act_bind_ok (act_acquired ha), act_bind_ok (act_get s), act_bind_ok (act_waitUntil none _ _ _), he]
    rfl

end

end Sys2Proof.Machine

open Sys2Proof.Machine in
/-- Settles O47: each command's checks lead to its cause, or to its place in the unit's queue; CFENCE waits for the core's
updates. -/
theorem catalogueCommands : Obligations.CatalogueCommands := by
  unfold Obligations.CatalogueCommands
  intro o s
  dsimp only
  refine ⟨fun hg => ⟨fun w s1 hi hr => exec_cdef hg hi hr, fun i hm hi hn => exec_catalogue_undefined hg hm hi hn,
    fun c hc => ⟨exec_cswap hg hc, exec_cstat hg hc, fun i hu hi hf hr => exec_update_goes hg hc hu hi hf hr,
      fun i hu hi hf hr => exec_update_waits hg hc hu hi hf hr,
      fun i hu hi hl hv => exec_update_refused hg hc hu hi fun ins _ => act_updateCheck_value hl hv ins,
      fun i hu hi hl hv hk => exec_update_refused hg hc hu hi fun ins _ => act_updateCheck_key hl hv hk ins,
      fun hi hl hv => exec_update_refused hg hc (.inl rfl) hi fun ins hins => ?_, exec_clook hg hc, exec_clook_mode hg hc,
      exec_crehash_count hg hc, fun hi h0 ha hz => exec_crehash_step hg hc h0 ha hi hz,
      fun w s1 hi h0 ha hz hr => exec_crehash_begins hg hc h0 ha hi hz hr⟩,
    fun list w3 u v s1 s2 hi hr hw hl h3 hlist hhigh hlow hmax => ?_⟩, fun hi ha => ⟨exec_cfence_waits hi ha, fun hq => ?_⟩⟩
  · cases ins with
    | false => exact absurd rfl (hins rfl)
    | true => exact act_updateCheck_exact hl hv
  · obtain ⟨body, form, run⟩ := act_probeDescriptor (o := o) hg hr hw hl h3 hlist hhigh hlow hmax
    rw [form]
    refine ⟨fun c hc hl => issueNext_ok hi (run.trans ?_), fun c hc hl => issueNext_trap hi (run.trans ?_),
      fun hn => issueNext_trap hi (run.trans ?_)⟩
    · rw [act_bind_ok (act_catOf hc), act_bind_ok (act_unlessFault hl _ _ _)]
      exact act_accept_asked (by simp)
    · rw [act_bind_ok (act_catOf hc), act_bind_error (act_unlessFault_false hl _ _ _)]
      rfl
    · rw [act_bind_error (act_catOf_none hn)]
  · obtain ⟨body, form, goes, raises⟩ := act_cfence (o := o) ha hq
    rw [form]
    exact ⟨fun he => issueNext_ok hi (goes he), fun cause n he => issueNext_trap hi (raises cause n he)⟩
end

section
/-! SUPPORT. TLBI and its targets, page walks, DMCLOSE, a round's completion, and entries that arrive at a merge unit (R363,
R364, R374 to R378). -/

namespace Sys2Proof.Machine

/-! ### TLBI (R364) -/

theorem exec_tlbi {o : EOps} {s s1 : State} {p : Phys} (hi : Issues (.tlbi o) o.h s)
    (ha : bits (s.ctx.rg o.h.s1.index).toNat 63 56 = 0) (hgc : (s.ctx.rg o.h.s3.index).toNat % 8 = 0)
    (hr : Claims.cell s (s.ctx.rg o.h.s3.index).toNat 8 p s1) (hc : Claims.Cell s1 p 8) (hf : Claims.FencedTo s1 4) :
    let quads := scopeQuads s1.core o.scope.toNat
    exec (.tlbi o) s = .next ((quads.foldl (fun t q => t.addFlight (.tlbi q (t.effPtroot t.ctx.rcb)
      (s.ctx.rg o.h.s1.index).toNat (s.ctx.rg o.h.s2.index).toNat p.ga))
      (s1.wrNat p.ga 8 ((s1.rdNat p.ga 8 + quads.length) % 2 ^ 64))).retired (.tlbi o)) := by
  refine issueNext_ok hi ?_
  rw [act_bind_ok (act_getCtx s), act_bind_ok (act_unlessFault (by simp [ha, hgc]) _ _ _), act_bind_ok (act_cellAt hr hc),
    act_bind_ok (act_fence hf), act_bind_ok (act_get s1), act_bind_ok (touchNow_cell hc _)]
  exact act_modify _ _

theorem foldl_modCore (f : Core → Core) (l : List Nat) (s : State) :
    ∃ c, l.foldl (fun s k => s.modCore k f) s = { s with cores := c } := by
  induction l generalizing s with
  | nil => exact ⟨s.cores, rfl⟩
  | cons k l ih => exact ih (s.modCore k f)

/-- What a change makes of every core it is made to, it leaves true at the others (R364). -/
theorem coreAt_foldl_modCore {f : Core → Core} {P : Core → Prop} (hf : ∀ c, P (f c)) {l : List Nat} {j : Nat} {s : State}
    (h : P (s.coreAt j) ∨ j ∈ l) : P ((l.foldl (fun s k => s.modCore k f) s).coreAt j) := by
  induction l generalizing s with
  | nil => exact h.resolve_right (by simp)
  | cons k l ih =>
    refine ih ?_
    by_cases hj : j = k
    · subst hj
      exact .inl (by rw [State.coreAt_modCore]; exact hf _)
    · rw [State.coreAt_modCore_other s hj]
      simpa [hj] using h

/-- A cached translation list without those of a range. -/
def flushTlb (root va len : Nat) (l : List Tlb) : List Tlb := l.filter (fun t => !t.dropped root va len)

theorem dropped_of_mem_flushTlb {root va len : Nat} {l : List Tlb} : ∀ t ∈ flushTlb root va len l, t.dropped root va len = false :=
  fun _ ht => by simpa using (List.mem_filter.1 ht).2

/-- A quad and its cores without the translations of a range (R364). -/
def State.flushed (s : State) (quad root va len : Nat) : State :=
  ((List.range 4).map (fun i => quad * 4 + i)).foldl
    (fun s k => s.modCore k (fun c => { c with utlb := flushTlb root va len c.utlb }))
    (s.modQuad quad (fun q => { q with tlb := flushTlb root va len q.tlb }))

section
variable {s : State} {n quad root va len gc : Nat}

theorem exec_tlbiTarget (hn : tfind s.flights n = some (.tlbi quad root va len gc))
    (hbusy : s.pagesBusy quad ((((s.quadAt quad).tlb ++ ((List.range 4).map (fun i => quad * 4 + i)).flatMap
      (fun k => (s.coreAt k).utlb)).filter (·.dropped root va len)).map (·.pageGa)) = false) (hfree : s.cellFree gc = true) :
    let u : State := { s.flushed quad root va len with flights := tdel s.flights n }
    exec (.tlbiTarget n) s = .next (u.poke gc 8 ((u.peek gc 8 + 2 ^ 64 - 1) % 2 ^ 64)) := by
  show execTlbiTarget n s = _
  unfold execTlbiTarget
  rw [hn]
  have flights : (s.flushed quad root va len).flights = s.flights := by
    obtain ⟨cores, flushed⟩ := foldl_modCore (fun c => { c with utlb := flushTlb root va len c.utlb })
      ((List.range 4).map (fun i => quad * 4 + i)) (s.modQuad quad (fun q => { q with tlb := flushTlb root va len q.tlb }))
    rw [State.flushed, flushed]
    rfl
  simp only [hbusy, hfree, Bool.not_true, Bool.or_self, Bool.false_eq_true, ↓reduceIte]
  rw [← flights]
  rfl

theorem flushed_frame : ∃ cores, s.flushed quad root va len =
    { s.modQuad quad (fun q => { q with tlb := flushTlb root va len q.tlb }) with cores := cores } :=
  foldl_modCore ..

theorem flushed_quad : ∀ t ∈ ((s.flushed quad root va len).quadAt quad).tlb, t.dropped root va len = false := by
  obtain ⟨cores, flushed⟩ := flushed_frame (s := s) (quad := quad) (root := root) (va := va) (len := len)
  have tlb : ((s.flushed quad root va len).quadAt quad).tlb = flushTlb root va len (s.quadAt quad).tlb := by
    rw [flushed]
    exact congrArg Quad.tlb (quadAt_modQuad s quad (fun q => { q with tlb := flushTlb root va len q.tlb }))
  rw [tlb]
  exact dropped_of_mem_flushTlb

theorem flushed_cores {k : Nat} (hk : k ∈ (List.range 4).map (fun i => quad * 4 + i)) :
    ∀ t ∈ ((s.flushed quad root va len).coreAt k).utlb, t.dropped root va len = false :=
  coreAt_foldl_modCore (P := fun c => ∀ t ∈ c.utlb, t.dropped root va len = false) (fun _ => dropped_of_mem_flushTlb) (.inr hk)

end

/-! ### Page walks (R363, R387) -/

/-- Two states that differ in what slices hold and count. -/
structure SlicesOnly (s t : State) : Prop where
  mem : t.mem = s.mem
  cores : t.cores = s.cores
  tlb : ∀ k, (t.quadAt k).tlb = (s.quadAt k).tlb

theorem SlicesOnly.trans {s t u : State} (h : SlicesOnly s t) (h' : SlicesOnly t u) : SlicesOnly s u :=
  ⟨h'.mem.trans h.mem, h'.cores.trans h.cores, fun k => (h'.tlb k).trans (h.tlb k)⟩

theorem SlicesOnly.of_quad {s t : State} {n : Nat} {q : Quad} (hq : t.quads = tset s.quads n q) (hm : t.mem = s.mem)
    (hc : t.cores = s.cores) (ht : q.tlb = (s.quadAt n).tlb) : SlicesOnly s t := by
  refine ⟨hm, hc, fun k => ?_⟩
  unfold State.quadAt at ht ⊢
  rw [hq]
  by_cases hk : k = n
  · subst hk
    rw [tget_tset_same, ht]
  · rw [tget_tset_other _ _ _ hk]

theorem tlb_dropNth (q : Quad) (set k : Nat) : (q.dropNth set k).tlb = q.tlb := by
  unfold Quad.dropNth
  dsimp only
  split <;> rfl

theorem slicesOnly_sliceFill (s : State) (ga n : Nat) : SlicesOnly s (s.sliceFill ga n) := by
  unfold State.sliceFill
  dsimp only
  split
  · split
    · exact SlicesOnly.of_quad rfl rfl rfl rfl
    · exact SlicesOnly.of_quad rfl rfl rfl rfl
  · have kept : (if (s.quadAt (homeQuad (lineOf ga))).inSet (sliceSet (lineOf ga)) < 16 then
          (s.quadAt (homeQuad (lineOf ga)), 0)
        else ((s.quadAt (homeQuad (lineOf ga))).dropNth (sliceSet (lineOf ga)) (Config.victim 16 s.fresh % 16), 1)).1.tlb =
        (s.quadAt (homeQuad (lineOf ga))).tlb := by
      split
      · rfl
      · exact tlb_dropNth ..
    exact SlicesOnly.of_quad rfl rfl rfl kept

theorem slicesOnly_walked (s : State) (v : Via) (root ea : Nat) : SlicesOnly s (s.walked v root ea) := by
  have fills : ∀ (l : List Nat) (s : State), SlicesOnly s (l.foldl (fun s p => s.sliceFill p 16) s) := by
    intro l
    induction l with
    | nil => exact fun s => ⟨rfl, rfl, fun _ => rfl⟩
    | cons p l ih => exact fun s => (slicesOnly_sliceFill s p 16).trans (ih _)
  have counted : SlicesOnly s (s.modQuad v.quadKey (·.count 0x104)) := SlicesOnly.of_quad rfl rfl rfl rfl
  exact counted.trans (fills _ _)

section
variable {s : State} {quad root ea : Nat}

theorem exec_pageWalk_finds {t : Tlb} (hw : s.canWalk quad root ea = true) (ht : walk s (quad / 2 ^ 12) root ea = .ok t) :
    exec (.pageWalk quad root ea) s = .next ((s.walked (.quad quad) root ea).fillTlb (.quad quad) t) := by
  show execPageWalk quad root ea s = _
  unfold execPageWalk
  rw [hw, ht]
  rfl

theorem exec_pageWalk_misses {e : WalkEnd} (hw : s.canWalk quad root ea = true) (ht : walk s (quad / 2 ^ 12) root ea = .error e) :
    exec (.pageWalk quad root ea) s = .next (s.walked (.quad quad) root ea) := by
  show execPageWalk quad root ea s = _
  unfold execPageWalk
  rw [hw, ht]
  rfl

theorem exec_pageWalk_skips (hw : s.canWalk quad root ea = false) : exec (.pageWalk quad root ea) s = .next s := by
  show execPageWalk quad root ea s = _
  unfold execPageWalk
  rw [hw]
  rfl

theorem mem_fillTlb (s : State) (quad : Nat) (t : Tlb) : t ∈ ((s.fillTlb (.quad quad) t).quadAt quad).tlb := by
  have filled : (s.fillTlb (.quad quad) t).quadAt quad = if (s.quadAt quad).tlb.contains t then s.quadAt quad
      else { s.quadAt quad with tlb := (t :: (s.quadAt quad).tlb).take 1024 } := quadAt_modQuad ..
  rw [filled]
  split
  next h => simpa using h
  next => simp

end

/-! ### Deterministic rounds (R377, R378) -/

section
variable {o : EOps} {s : State} {r : Region}

theorem exec_dmclose_outside (hi : Issues (.dmclose o) o.h s) (hd : s.effDm s.ctx.rcb = false) : exec (.dmclose o) s =
    .next (s.takeTrapA { cause := cDM_OUTSIDE, tval := some (BitVec.ofNat 64 (bits (s.peek s.ctx.rcb 8) 11 0)) }) := by
  rw [show exec (.dmclose o) s = issue (.dmclose o) o.h _ s from rfl, issue_stop hi (e := .trap _)]
  · rfl
  · rw [act_bind_ok (act_get s), act_bind_error (act_unlessFault_false hd _ _ _)]
    rfl

theorem exec_dmclose_arrives (hi : Issues (.dmclose o) o.h s) (hd : s.effDm s.ctx.rcb = true) (hf : Claims.FencedTo s 3)
    (hr : s.regionAt (s.regionPkg s.ctx.rcb) s.ctx.rcb = some r) (hn : s.here.lcore ∉ r.arrived) : exec (.dmclose o) s =
    .next (((s.modRegion s.ctx.rcb (fun r => { r with arrived := r.arrived ++ [s.here.lcore] })).modCtx (fun c =>
      { c with awaited := some (.dmclose o.h.d) })).stayed (.dmclose o)) := by
  refine issue_stay hi ?_
  rw [act_bind_ok (act_get s), act_bind_ok (act_unlessFault hd _ _ _), act_bind_ok (act_fence hf)]
  dsimp only
  rw [hr]
  exact act_bind_ok (act_waitUntil (by simpa using hn) _ _ _) _

end

section
variable {rcb : Nat} {s : State} {r : Region} (hr : s.regionAt (s.regionPkg rcb) rcb = some r)
include hr

theorem roundFull_eq : s.roundFull rcb = decide (∀ k < s.effLcount rcb, k ∈ r.arrived) := by
  unfold State.roundFull
  rw [hr]
  rw [Bool.eq_iff_iff]
  simp

theorem exec_dmRoundComplete_waits (hk : ∃ k < s.effLcount rcb, k ∉ r.arrived) : exec (.dmRoundComplete rcb) s = .next s := by
  have short : s.roundFull rcb = false := by
    rw [roundFull_eq hr, decide_eq_false_iff_not]
    obtain ⟨k, hlt, hn⟩ := hk
    exact fun h => hn (h k hlt)
  show execDmRoundComplete rcb s = _
  unfold execDmRoundComplete
  rw [hr]
  simp only [short, Bool.false_eq_true, ↓reduceIte]

theorem exec_dmRoundComplete (hk : ∀ k < s.effLcount rcb, k ∈ r.arrived)
    (hbad : ∀ e ∈ r.entries, s.bad (lineOf e.ga) 64 = false ∧ e.bad = false) :
    let u := ((r.entries.map (fun e => lineOf e.ga)).dedup.foldl (fun s l => s.applyRound r.entries l) s).modRegion rcb
      (fun r => { r with entries := [], arrived := [], refused := false, round := r.round + 1 })
    exec (.dmRoundComplete rcb) s = .next ((u.coresOf rcb).foldl (fun s k => (List.range 4).foldl
      (fun s fc => s.closeRound k fc r none) (s.modCore k (fun c => { c with round := c.round + 1, cnt := 0 }))) u) := by
  have full : s.roundFull rcb = true := by rw [roundFull_eq hr, decide_eq_true_eq]; exact hk
  have sound : ∀ l ∈ (r.entries.map (fun e => lineOf e.ga)).dedup,
      (s.bad l 64 || r.entries.any (fun e => lineOf e.ga == l && e.bad)) = false := by
    intro l hl
    obtain ⟨e, he, rfl⟩ := List.mem_map.1 (List.mem_dedup.1 hl)
    rw [(hbad e he).1, Bool.false_or]
    exact List.any_eq_false.2 fun x hx => by simp [(hbad x hx).2]
  have none : (r.entries.map (fun e => lineOf e.ga)).dedup.find? (fun l =>
      s.bad l 64 || r.entries.any (fun e => lineOf e.ga == l && e.bad)) = none :=
    List.find?_eq_none.2 fun l hl => by simp [sound l hl]
  have all : (r.entries.map (fun e => lineOf e.ga)).dedup.filter (fun l =>
      !(s.bad l 64 || r.entries.any (fun e => lineOf e.ga == l && e.bad))) = (r.entries.map (fun e => lineOf e.ga)).dedup :=
    List.filter_eq_self.2 fun l hl => by rw [sound l hl]; rfl
  show execDmRoundComplete rcb s = _
  unfold execDmRoundComplete
  rw [hr]
  dsimp only
  rw [if_pos full, none, all]

end

section
variable {id : Nat} {s : State} {t : Txn} {e : DmEntry} {r : Region}

theorem performMerge_entry (hop : t.op = .dm e) (hr : s.regionAt (gaPkg t.ga) t.rcb = some r) :
    let m := mergeEntry ((s.pkgAt (gaPkg t.ga)).regions.map (fun x => x.2.entries)) r.entries e
    s.performMerge id t = (s.modRegion t.rcb (fun r =>
      { r with entries := m.1, refused := r.refused || !m.2 })).setTxn id
        { t with stage := if m.2 then .done else .failed cAMO_CLASS } := by
  unfold State.performMerge
  rw [hop]
  dsimp only
  rw [hr]

theorem exec_mergeEntryArrival (ht : tfind s.txns id = some t) (hst : t.stage = .travelling) (htg : t.target = .merge) :
    exec (.mergeEntryArrival id) s = .next (s.performMerge id t) := by
  have target : s.performAt id t = s.performMerge id t := by
    unfold State.performAt
    rw [htg]
  show execMergeEntryArrival id s = _
  unfold execMergeEntryArrival
  rw [withTxn_some ht, if_pos (by simp [hst, htg]), target]

end

end Sys2Proof.Machine

open Sys2Proof.Machine in
/-- Settles O46: TLBI reaches the quads of its scope, a target drops the range, a walk fills the quad's TLB, and a round is
closed when every core has arrived. -/
theorem translationAndRounds : Obligations.TranslationAndRounds := by
  unfold Obligations.TranslationAndRounds
  intro o s s1 p
  dsimp only
  refine ⟨fun hi ha hgc hr hc hf => exec_tlbi hi ha hgc hr hc hf, fun n quad root va len gc hn hbusy hfree => ?_,
    fun quad root ea => ⟨fun t hw ht => ?_, fun e hw he => ?_, exec_pageWalk_skips⟩,
    fun hi => ⟨exec_dmclose_outside hi, fun r hd hf hr hn => exec_dmclose_arrives hi hd hf hr hn⟩,
    fun rcb r hr hk hbad => ⟨_, exec_dmRoundComplete hr hk hbad, rfl⟩, fun rcb r hr hk => exec_dmRoundComplete_waits hr hk,
    fun id t e r ht hst htg hop hr => (exec_mergeEntryArrival ht hst htg).trans (congrArg _ (performMerge_entry hop hr))⟩
  · obtain ⟨cores, flushed⟩ := flushed_frame (s := s) (quad := quad) (root := root) (va := va) (len := len)
    have mem : (s.flushed quad root va len).mem = s.mem := by rw [flushed]; rfl
    exact ⟨_, exec_tlbiTarget hn hbusy hfree, flushed_quad, fun k hk => flushed_cores hk, rfl, mem⟩
  · obtain ⟨mem, cores, tlb⟩ := slicesOnly_walked s (.quad quad) root ea
    exact ⟨_, exec_pageWalk_finds hw ht, rfl, mem_fillTlb _ quad t, mem, cores⟩
  · obtain ⟨mem, cores, tlb⟩ := slicesOnly_walked s (.quad quad) root ea
    exact ⟨exec_pageWalk_misses hw he, tlb quad, mem⟩
end

section
/-! SUPPORT. RGN.NEW, RGN.SET and RGN.KILL (R346 to R351). -/

namespace Sys2Proof.Machine

/-! ### RGN.NEW -/

/-- Making a change that a part of a region does not see leaves that part of every region. -/
theorem regionAt_modRegion_map {α : Type} {g : Region → α} {f : Region → Region} (hf : ∀ r, g (f r) = g r) (s : State)
    (a p b : Nat) : ((s.modRegion a f).regionAt p b).map g = (s.regionAt p b).map g := by
  unfold State.modRegion
  dsimp only
  split
  case h_2 => rfl
  case h_1 r hr =>
    by_cases hp : p = s.regionPkg a
    · subst hp
      unfold State.regionAt at hr ⊢
      rw [pkgAt_modPkg, tfind_tset]
      split
      case isTrue hb =>
        subst hb
        rw [hr, Option.map_some, Option.map_some, hf]
      case isFalse => rfl
    · unfold State.regionAt
      rw [show (s.modPkg (s.regionPkg a) _).pkgAt p = s.pkgAt p from tget_tset_other _ _ _ hp]

/-- What a manifest extension leaves of a region (R380). -/
def Region.kept (r : Region) : Nat × Nat × Bool × List DmEntry := (r.rnum, r.depth, r.doomed, r.entries)

/-- The manifest extensions of a creation (R380). -/
def State.extendNew (s : State) (rcb : Nat) : State := (((s.extendMode rcb).extendSeeds rcb).extendTree rcb false).extendLcount rcb

theorem kept_extend (s : State) (rcb k src : Nat) (data : List Byte) (p b : Nat) :
    ((s.extend rcb k src data).regionAt p b).map Region.kept = (s.regionAt p b).map Region.kept :=
  regionAt_modRegion_map (g := Region.kept) (fun _ => by rfl) s rcb p b

theorem kept_extendTree (s : State) (rcb : Nat) (kill : Bool) (p b : Nat) :
    ((s.extendTree rcb kill).regionAt p b).map Region.kept = (s.regionAt p b).map Region.kept := by
  have all : ∀ (l : List Nat) (data : List Byte) (s : State),
      ((l.foldl (fun s a => s.extend a 4 1 data) s).regionAt p b).map Region.kept = (s.regionAt p b).map Region.kept := by
    intro l data
    induction l with
    | nil => exact fun _ => rfl
    | cons a l ih => exact fun s => (ih _).trans (kept_extend ..)
  unfold State.extendTree
  split
  · rfl
  · exact all ..

theorem kept_extendNew (s : State) (rcb p b : Nat) :
    ((s.extendNew rcb).regionAt p b).map Region.kept = (s.regionAt p b).map Region.kept :=
  (kept_extend ..).trans ((kept_extendTree ..).trans ((kept_extend ..).trans (kept_extend ..)))

/-- The checks of a template (R349). -/
def State.badTemplate (s : State) (root : Bool) (rcb : Nat) : Bool :=
  let w (k : Nat) := s.peek (rcb + 8 * k) 8
  let set (f : Nat) : Bool := bit (w 0) (24 + f)
  let v (f : Nat) := rcbField f (w (rcbFieldOff f / 8))
  rcb % 256 ≠ 0 || gaSpace rcb ≠ 0 || !zeroBitsOk w || (List.range 16).any (fun f => set f && !rcbFieldOk f (v f)) ||
    (root && !(List.range 16).all set) || (s.regionAt (s.regionPkg rcb) rcb).isSome

theorem badTemplate_iff (s : State) (root : Bool) (rcb : Nat) : s.badTemplate root rcb = false ↔ Claims.Template s root rcb := by
  unfold State.badTemplate
  simp only [ne_eq, decide_not, Bool.or_eq_false_iff, Bool.not_eq_false', decide_eq_true_eq, List.any_eq_false,
    List.mem_range, Bool.and_eq_true, Bool.not_eq_true', not_and, Bool.not_eq_false, Bool.and_eq_false_imp, List.all_eq_true,
    bit_eq_testBit, Option.isSome_eq_false_iff, Option.isNone_iff_eq_none]
  constructor
  · rintro ⟨⟨⟨⟨⟨aligned, dram⟩, zeros⟩, ranges⟩, whole⟩, unused⟩
    exact ⟨aligned, dram, zeros, ranges, whole, unused⟩
  · rintro ⟨aligned, dram, zeros, ranges, whole, unused⟩
    exact ⟨⟨⟨⟨⟨aligned, dram⟩, zeros⟩, ranges⟩, whole⟩, unused⟩

/-- A budget that the template sets is above the parent's (R349). -/
def State.overBudget (s : State) (root : Bool) (parent rcb : Nat) : Bool :=
  !root && (List.range 5).any (fun k => bit (s.peek (rcb + 8 * 0) 8) (24 + (11 + k)) &&
    !budgetLe (11 + k) (rcbField (11 + k) (s.peek (rcb + 8 * (rcbFieldOff (11 + k) / 8)) 8))
      (s.eff parent (11 + k) (rcbFieldOff (11 + k))))

theorem overBudget_iff (s : State) (root : Bool) (parent rcb : Nat) :
    s.overBudget root parent rcb = false ↔ Claims.Affords s root parent rcb := by
  unfold State.overBudget Claims.Affords
  simp only [Bool.and_eq_false_imp, Bool.not_eq_true', List.any_eq_false, List.mem_range, Bool.and_eq_true, not_and,
    Bool.not_eq_false, bit_eq_testBit]
  rw [← Bool.not_eq_true, ← or_iff_not_imp_left]
  rfl

/-- The region that RGN.NEW makes, before its manifest extensions (R349). -/
def State.madeRegion (s : State) (pkg : Nat) (root : Bool) (parent rcb n : Nat) : State :=
  let up := if root then none else s.regionAt (s.regionPkg parent) parent
  let new := Region.fresh n ((up.map (fun p => p.depth + 1)).getD 0) ((up.map (·.made)).getD 0)
  ((if root then s else s.modRegion parent (fun p => { p with made := p.made + 1 })).writeNewRcb rcb
    (if root then 0 else parent) n).modPkg pkg (fun p => { p with regions := tset p.regions rcb new })

section
variable {s : State} {pkg : Nat} {root : Bool} {parent rcb n : Nat}

theorem newRegion_parent (h : root = false) (hl : s.isLive parent = false) : s.newRegion pkg root parent rcb = (1, s) := by
  unfold State.newRegion
  simp only [h, hl, Bool.not_false, Bool.and_self, ↓reduceIte]

variable (hp : root = true ∨ s.isLive parent = true)
include hp

theorem newRegion_eq : s.newRegion pkg root parent rcb =
    if s.badTemplate root rcb then (2, s)
    else match (s.pkgAt pkg).freeRnum with
      | none => (3, s)
      | some n => if s.overBudget root parent rcb then (4, s) else
          (n * 2 ^ 8, (s.madeRegion pkg root parent rcb n).extendNew rcb) := by
  have up : ∀ {α β : Type} (x : Option α) (f : α → β) (d : β),
      (match x with | some p => f p | none => d) = (x.map f).getD d :=
    fun x f d => by cases x <;> rfl
  unfold State.newRegion
  dsimp only
  rw [if_neg (by rcases hp with h | h <;> simp [h])]
  refine if_congr Iff.rfl rfl ?_
  cases (s.pkgAt pkg).freeRnum with
  | none => rfl
  | some n =>
    refine if_congr Iff.rfl rfl ?_
    unfold State.madeRegion
    cases root <;> cases s.regionAt (s.regionPkg parent) parent <;> rfl

theorem newRegion_template (ht : ¬ Claims.Template s root rcb) : s.newRegion pkg root parent rcb = (2, s) := by
  rw [newRegion_eq hp, if_pos]
  rwa [← badTemplate_iff, Bool.not_eq_false] at ht

variable (ht : Claims.Template s root rcb)
include ht

theorem newRegion_full (hn : (s.pkgAt pkg).freeRnum = none) : s.newRegion pkg root parent rcb = (3, s) := by
  rw [newRegion_eq hp, (badTemplate_iff ..).2 ht, hn]
  rfl

variable (hn : (s.pkgAt pkg).freeRnum = some n)
include hn

theorem newRegion_budget (ha : ¬ Claims.Affords s root parent rcb) : s.newRegion pkg root parent rcb = (4, s) := by
  rw [newRegion_eq hp, (badTemplate_iff ..).2 ht, hn]
  rw [← overBudget_iff, Bool.not_eq_false] at ha
  exact if_pos ha

theorem newRegion_makes (ha : Claims.Affords s root parent rcb) : s.newRegion pkg root parent rcb =
    (n * 2 ^ 8, (s.madeRegion pkg root parent rcb n).extendNew rcb) := by
  rw [newRegion_eq hp, (badTemplate_iff ..).2 ht, hn]
  exact if_neg (Bool.eq_false_iff.1 ((overBudget_iff ..).2 ha))

end

theorem regionAt_extendNew (s : State) (pkg : Nat) (root : Bool) (parent rcb n : Nat) :
    ∃ r, ((s.madeRegion pkg root parent rcb n).extendNew rcb).regionAt pkg rcb = some r ∧ r.rnum = n ∧
      r.depth = (((if root then none else s.regionAt (s.regionPkg parent) parent).map (fun p => p.depth + 1)).getD 0) ∧
      r.doomed = false ∧ r.entries = [] := by
  have made : ∃ m, (s.madeRegion pkg root parent rcb n).regionAt pkg rcb = some (Region.fresh n
      (((if root then none else s.regionAt (s.regionPkg parent) parent).map (fun p => p.depth + 1)).getD 0) m) := by
    unfold State.madeRegion State.regionAt
    rw [pkgAt_modPkg, tfind_tset, if_pos rfl]
    exact ⟨_, rfl⟩
  obtain ⟨m, made⟩ := made
  have kept := kept_extendNew (s.madeRegion pkg root parent rcb n) rcb pkg rcb
  rw [made] at kept
  obtain ⟨r, hr, hk⟩ := Option.map_eq_some_iff.1 kept
  simp only [Region.kept, Region.fresh, Prod.mk.injEq] at hk
  exact ⟨r, hr, hk⟩

theorem exec_rgnNew {o : EOps} {s t : State} {n : Nat} (hi : Issues (.rgnNew o) o.h s)
    (h : s.newRegion (corePkg s.core) o.h.s1.isZero (s.ctx.rg o.h.s1.index).toNat (s.ctx.rg o.h.s2.index).toNat = (n, t)) :
    exec (.rgnNew o) s = .next ((t.modCtx (·.wg o.h.d.index (BitVec.ofNat 64 n))).retired (.rgnNew o)) := by
  refine issueNext_ok hi ?_
  rw [act_bind_ok (act_get s)]
  dsimp only
  rw [h, act_bind_ok (act_set t s)]
  rfl

/-! ### RGN.SET -/

/-- The charge of CORES or MSGB that a change of its budget makes or ends (R350). -/
def State.recharge (s : State) (rcb f cores msg : Nat) : State :=
  if f = 12 then s.poke (rcb + 0x88) 8 (putBits (s.peek (rcb + 0x88) 8) 0 14 cores)
  else if f = 13 then s.poke (rcb + 0x88) 8 (putBits (s.peek (rcb + 0x88) 8) 16 40 msg)
  else s

section
variable {s : State} {a f v : Nat} {clr : Bool}

theorem setField_unknown (h : ¬ (s.regionAt (s.regionPkg a) a ≠ none ∧ (s.rcbState a = 0 ∨ s.rcbState a = 2))) :
    s.setField a f v clr = (1, s) := by
  unfold State.setField
  refine if_pos ?_
  rw [not_and_or, not_not, not_or] at h
  rcases h with h | ⟨h0, h2⟩
  · simp [h]
  · simp [h0, h2]

variable (hk : s.regionAt (s.regionPkg a) a ≠ none ∧ (s.rcbState a = 0 ∨ s.rcbState a = 2))
include hk

theorem setField_known :
    ¬ ((!(s.regionAt (s.regionPkg a) a).isSome || decide (s.rcbState a ≠ 0) && decide (s.rcbState a ≠ 2)) = true) := by
  obtain ⟨r, hr⟩ := Option.ne_none_iff_exists'.1 hk.1
  rcases hk.2 with h | h <;> simp [hr, h]

theorem setField_root (hc : clr = true) (hp : s.peek (a + 8) 8 = 0) : s.setField a f v clr = (2, s) := by
  unfold State.setField
  dsimp only
  rw [if_neg (by simpa using setField_known hk), if_pos hc, if_pos hp]

theorem setField_clears (hc : clr = true) (hp : s.peek (a + 8) 8 ≠ 0) : s.setField a f v clr =
    (0, ((s.poke a 8 (putBits (s.peek a 8) (24 + f) 1 0)).recharge a f 0 0).extendField a f) := by
  unfold State.setField
  dsimp only
  rw [if_neg (by simpa using setField_known hk), if_pos hc, if_neg hp]
  rfl

theorem setField_range (hc : clr = false) (hv : rcbFieldOk f v = false) : s.setField a f v clr = (2, s) := by
  unfold State.setField
  dsimp only
  rw [if_neg (by simpa using setField_known hk), if_neg (Bool.eq_false_iff.1 hc), if_pos (by rw [hv]; rfl)]

/-- The RCB with the field set to a value (R350). -/
def State.withField (s : State) (a f v : Nat) : State :=
  (s.poke a 8 (putBits (s.peek a 8) (24 + f) 1 1)).poke (a + rcbFieldOff f) 8
    (putRcbField f (s.peek (a + rcbFieldOff f) 8) v)

/-- A budget value is above what is charged to it and within the parent's (R347, R350). -/
def Fits (s : State) (a f v : Nat) : Prop :=
  f < 11 ∨ ((s.withField a f v).chargeFits a f v = true ∧
    (s.peek (a + 8) 8 = 0 ∨ budgetLe f v (s.eff (s.peek (a + 8) 8) f (rcbFieldOff f)) = true))

omit hk in
theorem fits_iff : Fits s a f v ↔ ¬ ((decide (11 ≤ f) && (!(s.withField a f v).chargeFits a f v ||
    (decide (s.peek (a + 8) 8 ≠ 0) && !budgetLe f v (s.eff (s.peek (a + 8) 8) f (rcbFieldOff f))))) = true) := by
  unfold Fits
  simp only [Bool.and_eq_true, Bool.or_eq_true, decide_eq_true_eq, Bool.not_eq_true', not_and, not_or, Bool.not_eq_false,
    ne_eq, ← not_lt, ← or_iff_not_imp_left]

theorem setField_budget (hc : clr = false) (hv : rcbFieldOk f v = true) (hf : ¬ Fits s a f v) :
    s.setField a f v clr = (3, s) := by
  unfold State.setField
  dsimp only
  rw [if_neg (by simpa using setField_known hk), if_neg (Bool.eq_false_iff.1 hc), if_neg (by simp [hv])]
  exact if_pos (not_not.1 (mt fits_iff.2 hf))

theorem setField_sets (hc : clr = false) (hv : rcbFieldOk f v = true) (hf : Fits s a f v) : s.setField a f v clr =
    (0, ((s.withField a f v).recharge a f ((s.withField a f v).coreCharge a) ((s.withField a f v).msgCharge a)).extendField a f) := by
  unfold State.setField
  dsimp only
  rw [if_neg (by simpa using setField_known hk), if_neg (Bool.eq_false_iff.1 hc), if_neg (by simp [hv])]
  exact if_neg (fits_iff.1 hf)

end

theorem exec_rgnSet {o : EOps} {s t : State} {n : Nat} (hi : Issues (.rgnSet o) o.h s)
    (h : s.setField (s.ctx.rg o.h.s1.index).toNat (o.w.toNat % 16) (s.ctx.rg o.h.s2.index).toNat (o.opt.getLsbD 0) = (n, t)) :
    exec (.rgnSet o) s = .next ((t.modCtx (·.wg o.h.d.index (BitVec.ofNat 64 n))).retired (.rgnSet o)) := by
  refine issueNext_ok hi ?_
  rw [act_bind_ok (act_get s)]
  dsimp only
  rw [h, act_bind_ok (act_set t s)]
  rfl

/-! ### RGN.KILL -/

section
variable {o : EOps} {s : State}

theorem exec_rgnKill_refused (hi : Issues (.rgnKill o) o.h s) (h : s.regionAt (s.regionPkg (s.ctx.rg o.h.s1.index).toNat)
      (s.ctx.rg o.h.s1.index).toNat = none ∨ s.rcbState (s.ctx.rg o.h.s1.index).toNat = 4) :
    exec (.rgnKill o) s = .next ((s.modCtx (·.wg o.h.d.index (BitVec.ofNat 64 1))).retired (.rgnKill o)) := by
  refine issue_next hi ?_
  rw [act_bind_ok (act_get s)]
  dsimp only
  rw [if_pos (by rcases h with h | h <;> simp [h])]
  rfl

theorem exec_rgnKill_begins (hi : Issues (.rgnKill o) o.h s) (hr : s.regionAt (s.regionPkg (s.ctx.rg o.h.s1.index).toNat)
      (s.ctx.rg o.h.s1.index).toNat ≠ none) (hs : s.rcbState (s.ctx.rg o.h.s1.index).toNat ≠ 4) :
    exec (.rgnKill o) s = .next (((s.modCtx (fun c => { c with awaited := some (.regionKill o.h.d
      (s.ctx.rg o.h.s1.index).toNat) })).kill (s.ctx.rg o.h.s1.index).toNat).stayed (.rgnKill o)) := by
  obtain ⟨r, hr⟩ := Option.ne_none_iff_exists'.1 hr
  refine issue_stay hi ?_
  rw [act_bind_ok (act_get s)]
  dsimp only
  rw [if_neg (by simp [hr, hs])]
  rfl

end

end Sys2Proof.Machine
end

section
/-! SUPPORT. Bind operations: their records, and the slot that an UNBIND frees (R66, R252, R353). -/

namespace Sys2Proof.Machine

/-! ### What leaves the bind slots of cores in order, and binds nothing -/

/-- The bind tables that are in order in s are so in t, and a slot that is free in s is free in t. -/
structure KeepsBinds (s t : State) : Prop where
  rising : ∀ k, Rising (s.coreAt k).binds → Rising (t.coreAt k).binds
  free : ∀ k n, tfind (s.coreAt k).binds n = none → tfind (t.coreAt k).binds n = none

section
variable {s t u : State}

theorem KeepsBinds.refl (s : State) : KeepsBinds s s := ⟨fun _ => id, fun _ _ => id⟩

theorem KeepsBinds.trans (h : KeepsBinds s t) (h' : KeepsBinds t u) : KeepsBinds s u :=
  ⟨fun k hr => h'.rising k (h.rising k hr), fun k n hn => h'.free k n (h.free k n hn)⟩

theorem KeepsBinds.of_cores (h : t.cores = s.cores) : KeepsBinds s t := by
  have same : ∀ k, t.coreAt k = s.coreAt k := fun k => by rw [State.coreAt, State.coreAt, h]
  exact ⟨fun k => by rw [same]; exact id, fun k n => by rw [same]; exact id⟩

theorem keepsBinds_foldl {α : Type} {f : State → α → State} (hf : ∀ s a, KeepsBinds s (f s a)) (l : List α) (s : State) :
    KeepsBinds s (l.foldl f s) := by
  induction l generalizing s with
  | nil => exact .refl s
  | cons a l ih => exact (hf s a).trans (ih (f s a))

end

/-- A change of a core that leaves its bind table in order and binds nothing. -/
structure Core.KeepsBinds (c d : Core) : Prop where
  rising : Rising c.binds → Rising d.binds
  free : ∀ n, tfind c.binds n = none → tfind d.binds n = none

theorem Core.KeepsBinds.of_binds {c d : Core} (h : d.binds = c.binds) : Core.KeepsBinds c d :=
  ⟨by rw [h]; exact id, fun n => by rw [h]; exact id⟩

theorem Core.KeepsBinds.trans {c d e : Core} (h : Core.KeepsBinds c d) (h' : Core.KeepsBinds d e) : Core.KeepsBinds c e :=
  ⟨fun hr => h'.rising (h.rising hr), fun n hn => h'.free n (h.free n hn)⟩

/-- A bound actor's record changes. -/
theorem Core.keepsBinds_tset {c d : Core} {n : Nat} {b x : Bound} (hb : tfind c.binds n = some b)
    (hd : d.binds = tset c.binds n x) : Core.KeepsBinds c d := by
  refine ⟨fun hr => by rw [hd]; exact hr.tset n x, fun m hm => ?_⟩
  rw [hd, tfind_tset, if_neg (by rintro rfl; rw [hm] at hb; cases hb)]
  exact hm

theorem keepsBinds_setCore {s : State} {k : Nat} {d : Core} (h : Core.KeepsBinds (s.coreAt k) d) : KeepsBinds s (s.setCore k d) := by
  have same : (s.setCore k d).coreAt k = d := tget_tset_same ..
  have other : ∀ {j}, j ≠ k → (s.setCore k d).coreAt j = s.coreAt j := fun hj => tget_tset_other _ _ _ hj
  refine ⟨fun j => ?_, fun j n => ?_⟩ <;> by_cases hj : j = k
  · subst hj; rw [same]; exact h.rising
  · rw [other hj]; exact id
  · subst hj; rw [same]; exact h.free n
  · rw [other hj]; exact id

theorem keepsBinds_modCore (s : State) (k : Nat) {f : Core → Core} (hf : ∀ c, (f c).binds = c.binds) :
    KeepsBinds s (s.modCore k f) := keepsBinds_setCore (.of_binds (hf _))

theorem keepsBinds_modCtxOf (s : State) (k fc : Nat) (f : Ctx → Ctx) : KeepsBinds s (s.modCtxOf k fc f) :=
  keepsBinds_modCore s k (fun _ => rfl)

theorem keepsBinds_ite {c : Prop} [Decidable c] {s t : State} (h : KeepsBinds s t) : KeepsBinds s (if c then t else s) := by
  split
  · exact h
  · exact .refl s

theorem keepsBinds_modRegion (s : State) (rcb : Nat) (f : Region → Region) : KeepsBinds s (s.modRegion rcb f) := by
  unfold State.modRegion
  dsimp only
  split <;> exact .of_cores rfl

/-! ### Lines, homes and words -/

theorem keepsBinds_writeSectors (s : State) (line : Nat) (data : BitVec 512) (mask : BitVec 4) :
    KeepsBinds s (s.writeSectors line data mask) :=
  keepsBinds_foldl (fun s k => by split <;> exact .of_cores rfl) _ s

theorem keepsBinds_writeBack (s : State) (core line : Nat) : KeepsBinds s (s.writeBack core line) := by
  unfold State.writeBack
  split
  · dsimp only
    split <;> exact .of_cores rfl
  case h_2 l _ =>
    have lost : KeepsBinds s (s.loseBad core l).2 := .of_cores rfl
    have sectors := lost.trans (keepsBinds_writeSectors _ line l.data (s.loseBad core l).1)
    refine KeepsBinds.trans ?_ (keepsBinds_modCore _ core (fun _ => rfl))
    split
    · exact sectors.trans (.of_cores rfl)
    · exact sectors

theorem keepsBinds_keepReplica (s : State) (quad : Nat) (l : CchLine) : KeepsBinds s (s.keepReplica quad l) := by
  unfold State.keepReplica
  dsimp only
  split
  · exact .of_cores rfl
  · split <;> exact .of_cores rfl

theorem keepsBinds_evict (s : State) (core : Nat) (l : CchLine) : KeepsBinds s (s.evict core l) := by
  have dropped : KeepsBinds s ((s.writeBack core l.addr).modCore core (·.dropLine l.addr)) :=
    (keepsBinds_writeBack s core l.addr).trans (keepsBinds_modCore _ core (fun _ => rfl))
  unfold State.evict
  dsimp only
  split
  · exact dropped.trans (keepsBinds_keepReplica ..)
  · exact dropped

theorem keepsBinds_mergeDelta (s : State) (core line : Nat) : KeepsBinds s (s.mergeDelta core line) := by
  unfold State.mergeDelta
  split
  · exact .refl s
  · refine KeepsBinds.trans (keepsBinds_foldl (fun s d => ?_) _ s) (keepsBinds_modCore _ core (fun _ => rfl))
    exact .of_cores rfl

theorem keepsBinds_evictU (s : State) (core line : Nat) : KeepsBinds s (s.evictU core line) :=
  (keepsBinds_mergeDelta s core line).trans (.of_cores rfl)

theorem keepsBinds_recallOneU (s : State) (line : Nat) : KeepsBinds s (s.recallOneU line) := by
  unfold State.recallOneU
  dsimp only
  split
  · exact .refl s
  · exact (keepsBinds_mergeDelta s _ line).trans (.of_cores rfl)

theorem keepsBinds_settleLine (s : State) (line : Nat) : KeepsBinds s (s.settleLine line) := by
  have recalled : KeepsBinds s (s.recallHc line) := by
    unfold State.recallHc
    split
    · exact keepsBinds_writeBack ..
    · exact .refl s
  exact recalled.trans (keepsBinds_foldl (fun s _ => keepsBinds_recallOneU s line) _ _)

theorem keepsBinds_refreshOwn (s : State) (core line : Nat) : KeepsBinds s (s.refreshOwn core line) := by
  unfold State.refreshOwn
  split
  · split <;> exact keepsBinds_modCore s core (fun _ => rfl)
  · exact .refl s

theorem keepsBinds_poke (s : State) (ga n x : Nat) : KeepsBinds s (s.poke ga n x) := by
  have home : KeepsBinds s (s.pokeHome ga n x) := (keepsBinds_settleLine s (lineOf ga)).trans (.of_cores rfl)
  unfold State.poke
  split
  · exact .of_cores rfl
  · dsimp only
    split
    · exact keepsBinds_modCore s _ (fun _ => rfl)
    · exact home.trans (keepsBinds_refreshOwn ..)

theorem keepsBinds_pokeVirt (s : State) (core rcb ea n x : Nat) : KeepsBinds s (s.pokeVirt core rcb ea n x) := by
  unfold State.pokeVirt
  split
  · exact (keepsBinds_poke ..).trans (keepsBinds_refreshOwn ..)
  · exact .refl s

/-! ### Messages and cuts -/

theorem Core.keepsBinds_wakeHandler (c : Core) (mb : Mailbox) (now : Nat) : Core.KeepsBinds c (c.wakeHandler mb now) := by
  unfold Core.wakeHandler
  split
  · split
    · exact Core.keepsBinds_tset ‹_› rfl
    · exact .of_binds rfl
  · exact .of_binds rfl

theorem keepsBinds_deliver (s : State) (k m : Nat) (e : List Word) (txn : Option Nat) : KeepsBinds s (s.deliver k m e txn).2 := by
  unfold State.deliver
  dsimp only
  split
  · exact .refl s
  · split
    · refine keepsBinds_setCore (Core.KeepsBinds.trans ?_ (Core.keepsBinds_wakeHandler ..))
      exact .of_binds rfl
    · exact keepsBinds_setCore (.of_binds rfl)

theorem keepsBinds_notify (s : State) (k fc name : Nat) (payload : List Word) : KeepsBinds s (s.notify k fc name payload) := by
  unfold State.notify
  split
  · exact keepsBinds_deliver ..
  · exact .refl s

theorem keepsBinds_countRecorded (s : State) (core rcb : Nat) : KeepsBinds s (s.countRecorded core rcb) := by
  unfold State.countRecorded
  dsimp only
  split
  · split
    · exact (keepsBinds_poke ..).trans (keepsBinds_notify ..)
    · exact keepsBinds_poke ..
  · exact keepsBinds_poke ..

theorem keepsBinds_record (s : State) (core slot id : Nat) (counts copies : Bool) :
    KeepsBinds s (s.record core slot id counts copies) := by
  unfold State.record
  split
  · exact .refl s
  case h_2 b _ =>
    dsimp only
    have marked : ∀ u, KeepsBinds s u → KeepsBinds s ((u.edges core b).foldl (fun s e => s.sendMarker b.rcb e.1 e.2 id) u) :=
      fun u hu => hu.trans
        (keepsBinds_foldl (f := fun s (e : Nat × Nat) => s.sendMarker b.rcb e.1 e.2 id) (fun s e => .of_cores rfl) _ u)
    have copied : ∀ u, KeepsBinds s u → KeepsBinds s (u.pokeVirt core b.rcb b.d.state.toNat 8
        (putBits (putBits (u.ghdr core b) 24 8 id) 32 1 1)) := fun u hu => hu.trans (keepsBinds_pokeVirt ..)
    have counted : ∀ u, KeepsBinds s u → KeepsBinds s (if counts then u.countRecorded core b.rcb else u) := fun u hu => by
      split
      · exact hu.trans (keepsBinds_countRecorded ..)
      · exact hu
    refine counted _ (marked _ (copied _ ?_))
    split
    · exact keepsBinds_foldl (fun s k => keepsBinds_pokeVirt ..) _ s
    · exact .refl s

theorem keepsBinds_recordLast (s : State) (core slot : Nat) (b : Bound) : KeepsBinds s (s.recordLast core slot b) := by
  unfold State.recordLast
  split
  · split
    · exact keepsBinds_record ..
    · exact .refl s
  · exact .refl s

/-! ### Firings that are discarded -/

theorem binds_setTile (c : Core) (n : Nat) (f : Tile → Tile) : (c.setTile n f).binds = c.binds := by
  unfold Core.setTile
  split <;> rfl

theorem binds_dropReaders (c : Core) (l : List Nat) : (c.dropReaders l).binds = c.binds := by
  unfold Core.dropReaders
  induction l generalizing c with
  | nil => rfl
  | cons n l ih => exact (ih _).trans (binds_setTile ..)

theorem keepsBinds_dropEntry (s : State) (core fc : Nat) (e : XEntry) (started : Bool) :
    KeepsBinds s (s.dropEntry core fc e started) := by
  have released := keepsBinds_modCore s core (f := (·.dropReaders e.held)) (fun c => binds_dropReaders c _)
  unfold State.dropEntry
  refine KeepsBinds.trans ?_ (keepsBinds_modCtxOf _ core fc _)
  split
  · split
    · exact released.trans (keepsBinds_modCore _ core (fun c => binds_setTile ..))
    · exact released.trans (keepsBinds_modCore _ core (fun c => binds_setTile ..))
    · exact released
  · exact released

theorem keepsBinds_freeCtx (s : State) (core fc : Nat) : KeepsBinds s (s.freeCtx core fc) := by
  have kept : KeepsBinds s (s.keepCts (s.ctxOf core fc)) := by
    unfold State.keepCts
    split
    · split
      · exact keepsBinds_modRegion ..
      · exact .refl s
    · exact .refl s
  have dropped : ∀ u : State, KeepsBinds u (u.dropSequencer core fc) := fun u => by
    unfold State.dropSequencer
    exact KeepsBinds.trans (keepsBinds_foldl (fun s e => keepsBinds_dropEntry ..) _ u) (keepsBinds_modCtxOf ..)
  have left : ∀ u : State, KeepsBinds u ((u.orphan core fc).leaveFutures core fc) := fun u => .of_cores rfl
  unfold State.freeCtx
  refine KeepsBinds.trans ?_ (keepsBinds_modCore _ core (fun _ => rfl))
  exact (kept.trans ((dropped _).trans (left _))).trans (keepsBinds_modCtxOf ..)

theorem keepsBinds_discardSlot (s : State) (core slot : Nat) : KeepsBinds s (s.discardSlot core slot) := by
  unfold State.discardSlot
  refine keepsBinds_foldl (fun s k => ?_) _ s
  refine KeepsBinds.trans ?_ (keepsBinds_modCore _ k.1 (fun _ => rfl))
  exact keepsBinds_foldl (fun s fc => keepsBinds_ite (keepsBinds_freeCtx ..)) _ s

theorem keepsBinds_dropMailbox (s : State) (core m : Nat) : KeepsBinds s (s.dropMailbox core m) := by
  unfold State.dropMailbox
  split
  · exact .refl s
  · refine KeepsBinds.trans (keepsBinds_foldl (fun s h => ?_) _ s) (keepsBinds_modCore _ core (fun _ => rfl))
    split
    · split
      · exact .of_cores rfl
      · exact .refl s
    · exact .refl s

theorem keepsBinds_storeStateBlock (s : State) (core : Nat) (b : Bound) : KeepsBinds s (s.storeStateBlock core b) := by
  unfold State.storeStateBlock
  split
  · refine keepsBinds_foldl (fun s l => ?_) _ s
    unfold State.settleOwn
    split
    · split
      · exact keepsBinds_writeBack ..
      · exact .refl s
    · exact .refl s
  · exact .refl s

/-! ### Charges, and a core that is freed -/

theorem keepsBinds_chargeMsg (s : State) (rcb : Nat) (n : Int) : KeepsBinds s (s.chargeMsg rcb n) := by
  unfold State.chargeMsg
  exact keepsBinds_foldl (fun _ _ => keepsBinds_poke ..) _ s

theorem keepsBinds_flushAll (s : State) (core : Nat) : KeepsBinds s (s.flushAll core) := by
  refine KeepsBinds.trans (keepsBinds_foldl (fun s l => ?_) _ s) (keepsBinds_foldl (fun s u => keepsBinds_evictU ..) _ _)
  split
  · exact keepsBinds_evict ..
  · exact .refl s

theorem keepsBinds_freeCore (s : State) (core rcb : Nat) : KeepsBinds s (s.freeCore core rcb) := by
  have firings : KeepsBinds s ((List.range 4).foldl
      (fun s fc => if (s.ctxOf core fc).firing.isSome then s.freeCtx core fc else s) s) :=
    keepsBinds_foldl (fun s fc => keepsBinds_ite (keepsBinds_freeCtx ..)) _ s
  have mailboxes : ∀ u : State, KeepsBinds u
      ((u.coreAt core).mailboxes.foldl (fun s (m : Nat × Mailbox) => s.dropMailbox core m.1) u) :=
    fun u => keepsBinds_foldl (fun s (m : Nat × Mailbox) => keepsBinds_dropMailbox s core m.1) _ u
  have charged : ∀ u : State, KeepsBinds u (u.chargeCores rcb (-1)) := fun u => by
    unfold State.chargeCores
    exact keepsBinds_foldl (fun _ _ => keepsBinds_poke ..) _ u
  unfold State.freeCore
  refine KeepsBinds.trans ?_ (charged _)
  refine KeepsBinds.trans ?_ (keepsBinds_modCore _ core (fun _ => rfl))
  exact firings.trans ((mailboxes _).trans (keepsBinds_flushAll ..))

/-! ### UNBIND -/

/-- An UNBIND up to the slot's end (R65, R66, R252). -/
def State.unbindStart (s : State) (core slot : Nat) (b : Bound) : State :=
  let s := s.recordLast core slot b
  let s := s.discardSlot core slot
  let s := match b.mailbox with | some m => s.dropMailbox core m | none => s
  let s := s.storeStateBlock core b
  if b.life == .done then s.modRegion b.rcb (fun r => { r with doneActs := b.act :: r.doneActs }) else s

theorem keepsBinds_unbindStart (s : State) (core slot : Nat) (b : Bound) : KeepsBinds s (s.unbindStart core slot b) := by
  have discarded := (keepsBinds_recordLast s core slot b).trans (keepsBinds_discardSlot _ core slot)
  have mailbox : ∀ u : State, KeepsBinds u (match b.mailbox with | some m => u.dropMailbox core m | none => u) := fun u => by
    split
    · exact keepsBinds_dropMailbox ..
    · exact .refl u
  have stored := (discarded.trans (mailbox _)).trans (keepsBinds_storeStateBlock _ core b)
  unfold State.unbindStart
  dsimp only
  split
  · exact stored.trans (keepsBinds_modRegion ..)
  · exact stored

/-- The slot of an UNBIND is free (R353). -/
theorem unbindActor_free {s : State} {core slot : Nat} (hr : Rising (s.coreAt core).binds) :
    tfind ((s.unbindActor core slot).coreAt core).binds slot = none := by
  cases hb : tfind (s.coreAt core).binds slot with
  | none =>
    have kept : s.unbindActor core slot = s := by rw [State.unbindActor, hb]
    rw [kept, hb]
  | some b =>
    let u := (s.unbindStart core slot b).modCore core (fun c => { c with binds := tdel c.binds slot })
    have gone : tfind (u.coreAt core).binds slot = none := by
      rw [State.coreAt_modCore]
      exact (tfind_tdel ((keepsBinds_unbindStart s core slot b).rising core hr) slot slot).trans (if_pos rfl)
    let v := u.chargeMsg b.rcb (-((((b.ins ++ b.outs).map ringBytes).sum : Nat) : Int))
    have charged : tfind (v.coreAt core).binds slot = none := (keepsBinds_chargeMsg u _ _).free core slot gone
    have ends : s.unbindActor core slot = if (v.coreAt core).binds.isEmpty then v.freeCore core b.rcb else v := by
      rw [State.unbindActor, hb]
      rfl
    rw [ends]
    split
    · exact (keepsBinds_freeCore v core b.rcb).free core slot charged
    · exact charged

/-! ### Bind records -/

/-- A record with a non-zero zero field, an operation beyond RELEASE or a logical number beyond 14 bits (R353). -/
theorem bindOp_badRecord {s : State} {who : Issuer} {at0 : Option Nat} {core : Nat} {w : List Nat}
    (h : bits (w.getD 0 0) 63 56 ≠ 0 ∨ bits (w.getD 0 0) 31 13 ≠ 0 ∨ bits (w.getD 0 0) 7 3 ≠ 0 ∨
      4 ≤ bits (w.getD 0 0) 2 0 ∨ 2 ^ 14 ≤ w.getD 3 0) : s.bindOp who at0 core w = (1, s) := by
  unfold State.bindOp
  refine if_pos ?_
  simp only [Bool.or_eq_true, decide_eq_true_eq]
  tauto

/-- The fields of a record of UNBIND, HOLD or RELEASE (R353). -/
theorem record_fields {act slot opc : Nat} (ha : act < 2 ^ 24) (hs : slot < 32) (ho : opc < 4) :
    let w := act * 2 ^ 32 + slot * 2 ^ 8 + opc
    bits w 2 0 = opc ∧ bits w 55 32 = act ∧ bits w 12 8 = slot ∧ bits w 63 56 = 0 ∧ bits w 31 13 = 0 ∧ bits w 7 3 = 0 := by
  simp only [bits_eq]
  omega

section
variable {s : State} {core act slot rcb : Nat} {x : Bound}

/-- An operation of an actor that the slot holds reaches its effect (R353). -/
theorem bindOp_held (who : Issuer) (at0 : Option Nat) {opc : Nat} (ho : 0 < opc) (ho4 : opc < 4) (hs : slot < 32) (ha : act < 2 ^ 24)
    (hr : (s.coreAt core).region = some rcb) (hst : s.rcbState rcb = 0) (hreg : (s.regionAt (corePkg core) rcb).isSome = true)
    (hl : 0 < s.effLcount rcb) (hx : tfind (s.coreAt core).binds slot = some x) (hact : x.act = act) :
    s.bindOp who at0 core (Claims.record opc act slot) =
      if opc = 1 then (0, (s.unbindActor core slot).rouse core)
      else if opc = 2 then
        if (x.life == .idle || x.life == .ready) && decide (x.d.cls < 3) then
          (0, (s.setBound core slot (fun b => { b with life := .held })).rouse core)
        else (6, s)
      else if x.life == .held then (0, (s.releaseActor core slot).rouse core) else (6, s) := by
  obtain ⟨opcode, actor, place, high, mid, low⟩ := record_fields ha hs ho4
  have word0 : (Claims.record opc act slot).getD 0 0 = act * 2 ^ 32 + slot * 2 ^ 8 + opc := rfl
  have word3 : (Claims.record opc act slot).getD 3 0 = 0 := rfl
  have rest : ((Claims.record opc act slot).drop 5).any (· ≠ 0) = false := rfl
  have nonzero : opc ≠ 0 := by omega
  unfold State.bindOp
  dsimp only
  simp only [word0, word3, rest, opcode, actor, place, high, mid, low, nonzero, hr, hreg, hst, hx, hact, Option.getD_some,
    if_false]
  rw [if_neg (by simp; omega), if_neg (by simp), if_neg (by simp)]
  obtain rfl | rfl | rfl : opc = 1 ∨ opc = 2 ∨ opc = 3 := by omega
  · rfl
  · rfl
  · rfl

end

/-! ### BIND, and the records of the Almanac -/

section
variable {o : EOps} {s s1 : State} {w : List Nat}

theorem exec_bind (hi : Issues (.bind o) o.h s) (hz : bits (s.ctx.rg o.h.s1.index).toNat 63 14 = 0)
    (hc : coordOk (s.ctx.rg o.h.s1.index).toNat = true) (hw : (loadWords (s.ctx.rg o.h.s2.index).toNat 8).run s = .ok (w, s1)) :
    let done := s1.bindOp (some (s1.core, s.ctx.rcb)) none (corePkg s1.core * 2 ^ 14 + (s.ctx.rg o.h.s1.index).toNat) w
    exec (.bind o) s = .next ((done.2.finishSaves.modCtx (·.wg o.h.d.index (BitVec.ofNat 64 done.1))).retired (.bind o)) := by
  refine issueNext_ok hi ?_
  rw [act_bind_ok (act_getCtx s), act_bind_ok (act_unlessFault (by simp [hz, hc]) _ _ _), act_bind_ok hw,
    act_bind_ok (act_get s1)]
  rfl

theorem exec_bind_refused (hi : Issues (.bind o) o.h s) (h : bits (s.ctx.rg o.h.s1.index).toNat 63 14 ≠ 0 ∨
      coordOk (s.ctx.rg o.h.s1.index).toNat = false) :
    exec (.bind o) s = .next (s.takeTrapA { cause := cILLEGAL_OPERAND, tval := none }) := by
  refine issueNext_trap hi ?_
  rw [act_bind_ok (act_getCtx s), act_bind_error (act_unlessFault_false (by rcases h with h | h <;> simp [h]) _ _ _)]

theorem almanacBind_goes {core opc : Nat} {r : List Word} (hl : s.lives (corePkg core) = true)
    (hc : coordOk (coreCoord core) = true) (ho : bits (r.getD 0 0).toNat 2 0 = opc) :
    let w := (List.range 8).map (fun k => (r.getD k 0).toNat)
    s.almanacBind core opc r = (s.bindOp (some (core, (s.readDesc (w.getD 1 0)).rcb)) none core w).2.finishSaves := by
  have first : bits (((List.range 8).map (fun k => (r.getD k 0).toNat)).headD 0) 2 0 = opc := ho
  unfold State.almanacBind
  dsimp only
  rw [if_pos (by simp only [hl, hc, first, beq_self_eq_true, Bool.and_self])]

end

end Sys2Proof.Machine

open Sys2Proof.Machine in
/-- Settles O44: RGN.NEW, RGN.SET and RGN.KILL by their refusals in order, the bind operations by the fields of their
records, and the slot of an UNBIND by what the parts of an unbind leave of a bind table. -/
theorem regions : Obligations.Regions := by
  unfold Obligations.Regions
  intro o s s1 w
  dsimp only
  refine ⟨fun hi => ⟨fun hroot hl => exec_rgnNew hi (newRegion_parent hroot hl),
      fun hp ht => exec_rgnNew hi (newRegion_template hp ht), fun hp ht hn => exec_rgnNew hi (newRegion_full hp ht hn),
      fun n hp ht hn => ⟨fun ha => exec_rgnNew hi (newRegion_budget hp ht hn ha),
        fun ha => ⟨exec_rgnNew hi (newRegion_makes hp ht hn ha), regionAt_extendNew ..⟩⟩⟩,
    fun hi => ⟨fun hk => exec_rgnSet hi (setField_unknown hk), fun hk hc hp => exec_rgnSet hi (setField_root hk hc hp),
      fun hk hc hp => exec_rgnSet hi (setField_clears hk hc hp), fun hk hc hv => exec_rgnSet hi (setField_range hk hc hv),
      fun hk hc hv => ⟨fun hf => exec_rgnSet hi (setField_budget hk hc hv hf),
        fun hf => exec_rgnSet hi (setField_sets hk hc hv hf)⟩⟩,
    fun hi => ⟨exec_rgnKill_refused hi, exec_rgnKill_begins hi⟩, fun hi hz hc hw => exec_bind hi hz hc hw,
    fun hi h => exec_bind_refused hi h, fun core opc r hl hc ho => ?_, fun who at0 core h => bindOp_badRecord h,
    fun who at0 core act slot rcb x hs ha hr hst hreg hl hx hact => ?_⟩
  · have goes := almanacBind_goes hl hc ho
    refine ⟨?_, ?_, ?_, ?_⟩
    · rintro rfl
      exact congrArg Host.Outcome.next goes
    · rintro rfl
      exact congrArg Host.Outcome.next goes
    · rintro rfl
      exact congrArg Host.Outcome.next goes
    · rintro rfl
      exact congrArg Host.Outcome.next goes
  · have held : ∀ {opc : Nat}, 0 < opc → opc < 4 → _ := fun ho ho4 =>
      bindOp_held who at0 ho ho4 hs ha hr hst hreg hl hx hact
    refine ⟨held (by decide) (by decide), fun hp => unbindActor_free (List.pairwise_map.1 hp), fun hlife hcls => ?_,
      fun hno => ?_, fun hlife => ?_, fun hlife => ?_⟩
    · rw [held (by decide) (by decide), if_neg (by decide), if_pos rfl]
      refine if_pos ?_
      rcases hlife with h | h <;> simp [h, hcls]
    · rw [held (by decide) (by decide), if_neg (by decide), if_pos rfl]
      refine if_neg ?_
      rcases hno with ⟨h1, h2⟩ | h
      · simp [h1, h2]
      · simp [Nat.not_lt.2 h]
    · rw [held (by decide) (by decide), if_neg (by decide), if_neg (by decide)]
      exact if_pos (by simp [hlife])
    · rw [held (by decide) (by decide), if_neg (by decide), if_neg (by decide)]
      exact if_neg (by simp [hlife])
end

section
/-! SUPPORT. The acts of the Catalogue Unit: which command acts, how it is answered, and the work of each kind on the tables
(R328 to R341). -/

namespace Sys2Proof.Machine

/-! ### The act of a cluster's unit -/

theorem clusterAt_modCluster (s : State) (k : Nat) (f : Cluster → Cluster) :
    (s.modCluster k f).clusterAt k = f (s.clusterAt k) := tget_tset_same ..

section
variable {cl n : Nat} {s : State} {q : CatCmd} (ha : (s.clusterAt cl).applicable q.posted = [n])
  (hq : (s.clusterAt cl).catq[n]? = some q)
include ha hq

/-- With one command to act on, the unit acts on it. -/
theorem catalogueAct_one : s.catalogueAct cl q.posted = match (s.takeCat cl n).applyCat cl q with
    | .error _ => s
    | .ok (.more w, t) => t.returnCat cl n { q with work := w }
    | .ok (.answer v ts, t) => t.answerCat cl q v ts := by
  unfold State.catalogueAct
  rw [ha]
  dsimp only
  rw [List.length_singleton, Nat.mod_one, List.getD_cons_zero, List.isEmpty_cons]
  simp only [Bool.false_eq_true, ↓reduceIte, hq]
  rfl

theorem exec_catalogueAct : exec (if q.posted then .catalogueUpdateApply cl else .catalogueCommandAnswer cl) s =
    .next (match (s.takeCat cl n).applyCat cl q with
    | .error _ => s
    | .ok (.more w, t) => t.returnCat cl n { q with work := w }
    | .ok (.answer v ts, t) => t.answerCat cl q v ts) := by
  rw [← catalogueAct_one ha hq]
  cases q.posted <;> rfl

end

/-! ### Answers -/

section
variable {cl v ts : Nat} {s : State} {q : CatCmd}

theorem answerCat_live {h : Hd} (hp : q.posted = false) (hh : q.i.hd = some h) (hl : q.live = true) :
    s.answerCat cl q v ts = s.modCtxOf q.core q.fc (fun c => ({ (if q.isUpdate then c.updateDone else c) with
      cts := max c.cts ts } : Ctx).wg h.d.index (BitVec.ofNat 64 v)) := by
  have same : ∀ c : Ctx, (if q.isUpdate then c.updateDone else c).cts = c.cts := fun c => by split <;> rfl
  unfold State.answerCat
  simp only [hp, hh, hl, Bool.false_eq_true, ↓reduceIte, same]
  rfl

theorem answerCat_orphan (hp : q.posted = false) (hl : q.live = false) :
    s.answerCat cl q v ts = s.modCtxOf q.core q.fc (fun c => if q.isUpdate then c.updateDone else c) := by
  unfold State.answerCat
  simp only [hp, hl, Bool.false_eq_true, ↓reduceIte]

theorem answerCat_applied (hp : q.posted = true) (hv : v < 2 ^ 63) :
    s.answerCat cl q v ts = s.modCtxOf q.core q.fc Ctx.updateDone := by
  have fine : decide (2 ^ 63 ≤ v) = false := decide_eq_false (Nat.not_le.2 hv)
  unfold State.answerCat
  simp only [hp, fine, Bool.false_and, Bool.false_eq_true, ↓reduceIte]
  cases s.ownCat cl q.rcb q.cat <;> rfl

/-- The catalogue that a posted update failed on counts it (R341). -/
def State.countFailure (s : State) (cl : Nat) (q : CatCmd) : State :=
  match s.ownCat cl q.rcb q.cat with
  | some c => s.setCat cl q.cat { c with errs := satAdd c.errs 1 }
  | none => s

theorem answerCat_failed (hp : q.posted = true) (hv : 2 ^ 63 ≤ v) : ∃ m, s.answerCat cl q v ts =
    (s.countFailure cl q).modCtxOf q.core q.fc (fun c =>
      { c.updateDone with catErr := c.catErr.or (some (v - 2 ^ 63, m)) }) := by
  have fails : decide (2 ^ 63 ≤ v) = true := decide_eq_true hv
  have kept : ∀ (c : Ctx) (m : Nat), (if c.updateDone.catErr.isNone then { c.updateDone with catErr := some (v - 2 ^ 63, m) }
      else c.updateDone) = { c.updateDone with catErr := c.catErr.or (some (v - 2 ^ 63, m)) } := fun c m => by
    have same : c.updateDone.catErr = c.catErr := rfl
    rw [same]
    cases h : c.catErr with
    | none => rfl
    | some e =>
      rw [if_neg (by simp), Option.some_or, ← h]
      rfl
  unfold State.answerCat
  simp only [hp, fails, Bool.true_and, ↓reduceIte, kept]
  exact ⟨_, rfl⟩

end

/-! ### CDEF -/

theorem read_clear_outside (m : List Host.Cell) {a n x : Nat} (h : x < a ∨ a + n ≤ x) :
    Memory.read (Memory.clear m a n) x = Memory.read m x := by
  refine (read_filter m (fun k => !(decide (a ≤ k) && decide (k < a + n))) x).trans (if_pos ?_)
  rcases h with h | h <;> simp [h]

/-- The catalogue that a record defines (R326, R333). -/
def definedCat (rcb : Nat) (w : List Nat) : Catalogue := {
  rcb := rcb, lsh := recordMode w == 1, l := recordL w, k := recordK w, family := recordFamily w, policy := recordPolicy w,
  geo := recordGeo w, migrating := none, record := [], cur := 0, entries := 0, inserts := 0, drops := 0, evicts := 0,
  truncs := 0, errs := 0 }

/-- The state with the catalogue over a zeroed area (R333). -/
def State.defined (u : State) (cl n rcb : Nat) (w : List Nat) : State :=
  ((u.zeroArea cl (areaOf (recordL w) (recordGeo w))).setCat cl n (definedCat rcb w)).modCluster cl
    (fun x => x.setFamily (recordFamily w) (familyOf (definedCat rcb w)))

section
variable {u : State} {cl n rcb : Nat} {w : List Nat}

/-- What CDEF answers to a record that defines (R333). -/
theorem define_eq (hm : recordMode w = 1 ∨ recordMode w = 2) : u.define cl n rcb w =
    if !recordValid w then (2, u)
    else if (tfind (u.clusterAt cl).cats n).isSome then (1, u)
    else if (u.clusterAt cl).cats.any (fun c => c.2.family == recordFamily w) then (3, u)
    else if !(u.clusterAt cl).spaceFor (areaOf (recordL w) (recordGeo w)) then (4, u)
    else if !u.bucketsFit cl rcb (recordL w * 2 ^ (recordGeo w).b) then (5, u)
    else (0, u.defined cl n rcb w) := by
  unfold State.define
  exact if_neg (by omega)

variable (hm : recordMode w = 1 ∨ recordMode w = 2)
include hm

theorem define_invalid (hv : recordValid w = false) : u.define cl n rcb w = (2, u) := by
  rw [define_eq hm, if_pos (by rw [hv]; rfl)]

variable (hv : recordValid w = true)
include hv

theorem define_taken (hn : (tfind (u.clusterAt cl).cats n).isSome = true) : u.define cl n rcb w = (1, u) := by
  rw [define_eq hm, if_neg (by rw [hv]; decide), if_pos hn]

variable (hn : tfind (u.clusterAt cl).cats n = none)
include hn

theorem define_family (hf : ∃ c ∈ (u.clusterAt cl).cats, c.2.family = recordFamily w) : u.define cl n rcb w = (3, u) := by
  rw [define_eq hm, if_neg (by rw [hv]; decide), if_neg (by rw [hn]; decide), if_pos (by simpa using hf)]

/-- With its number and its family free, a record is judged by its area and its budget (R333). -/
theorem define_area (hf : ∀ c ∈ (u.clusterAt cl).cats, c.2.family ≠ recordFamily w) : u.define cl n rcb w =
    if !(u.clusterAt cl).spaceFor (areaOf (recordL w) (recordGeo w)) then (4, u)
    else if !u.bucketsFit cl rcb (recordL w * 2 ^ (recordGeo w).b) then (5, u)
    else (0, u.defined cl n rcb w) := by
  have free : ¬ (u.clusterAt cl).cats.any (fun c => c.2.family == recordFamily w) = true := by simpa using hf
  rw [define_eq hm, if_neg (by rw [hv]; decide), if_neg (by rw [hn]; decide), if_neg free]

end

theorem tfind_defined (u : State) (cl n rcb : Nat) (w : List Nat) :
    tfind ((u.defined cl n rcb w).clusterAt cl).cats n = some (definedCat rcb w) := by
  rw [State.defined, clusterAt_modCluster, State.setCat, clusterAt_modCluster]
  exact (tfind_tset ..).trans (if_pos rfl)

theorem counter_definedCat (rcb : Nat) (w : List Nat) : ∀ k < 6, (definedCat rcb w).counter k = 0 := by
  intro k hk
  interval_cases k <;> rfl

section
variable {u : State} {cl : Nat} {q : CatCmd}

theorem applyCat_cdef {o : EOps} (hi : q.i = .cdef o) : u.applyCat cl q =
    .ok (.answer (u.define cl q.cat q.rcb q.words).1 0, if (u.define cl q.cat q.rcb q.words).1 = 0 then
      (u.define cl q.cat q.rcb q.words).2.extendTables q.rcb q.words else (u.define cl q.cat q.rcb q.words).2) := by
  unfold State.applyCat
  rw [hi]

theorem applyCat_cdef_refused {o : EOps} (hi : q.i = .cdef o) {v : Nat} (hv : v ≠ 0)
    (h : u.define cl q.cat q.rcb q.words = (v, u)) : u.applyCat cl q = .ok (.answer v 0, u) := by
  rw [applyCat_cdef hi, h, if_neg hv]

theorem applyCat_undefined (hi : ∀ o, q.i ≠ .cdef o) (hc : u.ownCat cl q.rcb q.cat = none) :
    u.applyCat cl q = .ok (.failed cCAT_UNDEF, u) := by
  unfold State.applyCat
  split
  · exact absurd ‹q.i = _› (hi _)
  · rw [hc]

variable {c : Catalogue} (hc : u.ownCat cl q.rcb q.cat = some c) {o : EOps}
include hc

theorem applyCat_cstat (hi : q.i = .cstat o) : u.applyCat cl q = .ok (.answer (c.counter (bits o.w.toNat 2 0)) 0,
    if o.opt.getLsbD 0 then u.setCat cl q.cat (c.clear (bits o.w.toNat 2 0)) else u) := by
  unfold State.applyCat
  rw [hi]
  dsimp only
  rw [hc]

theorem applyCat_clook (hi : q.i = .clook o) (hl : c.lsh = false) : u.applyCat cl q =
    if c.meetsError u cl q then .ok (.failed cMACHINE_UE, u) else .ok (.answer (u.lookKey cl c q.a.toNat) 0, u) := by
  unfold State.applyCat
  rw [hi]
  dsimp only
  rw [hc]
  dsimp only
  rw [if_neg (Bool.eq_false_iff.1 hl)]

theorem applyCat_cins (hi : q.i = .cins o) : u.applyCat cl q = .ok (u.updateTable cl c q true) := by
  unfold State.applyCat
  rw [hi]
  dsimp only
  rw [hc]

theorem applyCat_cdel (hi : q.i = .cdel o) : u.applyCat cl q = .ok (u.updateTable cl c q false) := by
  unfold State.applyCat
  rw [hi]
  dsimp only
  rw [hc]

theorem applyCat_cprobe (hi : q.i = .cprobe o) (hl : c.lsh = true) : u.applyCat cl q = u.probeTable cl q c := by
  unfold State.applyCat
  rw [hi]
  dsimp only
  rw [hc]
  exact if_pos hl

theorem applyCat_cswap (hi : q.i = .cswap o)
    (hd : ∀ d, tfind (u.clusterAt cl).cats q.a.toNat = some d → d.rcb = q.rcb) : u.applyCat cl q =
    .ok (.answer (u.exchange cl q.rcb q.cat q.a.toNat).1 0, (u.exchange cl q.rcb q.cat q.a.toNat).2) := by
  unfold State.applyCat
  rw [hi]
  dsimp only
  rw [hc]
  dsimp only
  split
  · exact if_pos (hd _ ‹_›)
  · rfl

theorem applyCat_crehash (hi : q.i = .crehash o) : u.applyCat cl q =
    .ok (u.rehash cl q c (if o.h.s2.isZero then none else some q.words)) := by
  unfold State.applyCat
  rw [hi]
  dsimp only
  rw [hc]

end

/-! ### CLOOK -/

section
variable {u : State} {cl x : Nat} {c : Catalogue}

theorem lookKey_absent (h : ∀ i ∈ c.searched u cl (c.geometry 0 x) 0 x, ∀ e ∈ (u.bucket cl false (c.geometry 0 x) 0 i).ents,
    e.1 ≠ x) : u.lookKey cl c x = 0 := by
  have none : (c.searched u cl (c.geometry 0 x) 0 x).findSome?
      (fun i => (u.bucket cl false (c.geometry 0 x) 0 i).ents.find? (·.1 == x)) = none :=
    List.findSome?_eq_none_iff.2 fun i hi => List.find?_eq_none.2 fun e he => by simpa using h i hi e he
  unfold State.lookKey
  dsimp only
  rw [none]

theorem lookKey_present (h : ∃ i ∈ c.searched u cl (c.geometry 0 x) 0 x, ∃ e ∈ (u.bucket cl false (c.geometry 0 x) 0 i).ents,
    e.1 = x) : ∃ i ∈ c.searched u cl (c.geometry 0 x) 0 x, ∃ e ∈ (u.bucket cl false (c.geometry 0 x) 0 i).ents,
      e.1 = x ∧ u.lookKey cl c x = 2 ^ 32 + e.2 := by
  cases hs : (c.searched u cl (c.geometry 0 x) 0 x).findSome?
      (fun i => (u.bucket cl false (c.geometry 0 x) 0 i).ents.find? (·.1 == x)) with
  | none =>
    obtain ⟨i, hi, e, he, hx⟩ := h
    exact absurd hx (by simpa using List.find?_eq_none.1 (List.findSome?_eq_none_iff.1 hs i hi) e he)
  | some e =>
    obtain ⟨i, hi, hf⟩ := List.exists_of_findSome?_eq_some hs
    refine ⟨i, hi, e, List.mem_of_find?_eq_some hf, by simpa using List.find?_some hf, ?_⟩
    unfold State.lookKey
    dsimp only
    rw [hs]

end

/-! ### CINS and CDEL in one table (R334) -/

section
variable {u z : State} {cl : Nat} {q : CatCmd} {c : Catalogue} {r : Outcome}

theorem updateTable_insert (he : c.meetsError u cl q = false) (h : u.insertAt cl c
      (c.geometry q.work.done (c.sig q.a.toNat q.work.done)) q.work.done (c.sig q.a.toNat q.work.done) q.b.toNat = (r, z)) :
    u.updateTable cl c q true = Claims.tableDone z cl q (c.tally r) (r.mask q.work.done) true r.grows := by
  unfold State.updateTable
  dsimp only
  rw [if_neg (Bool.eq_false_iff.1 he), if_pos rfl, h]
  rfl

theorem updateTable_delete (he : c.meetsError u cl q = false) (h : u.deleteAt cl c
      (c.geometry q.work.done (c.sig q.a.toNat q.work.done)) q.work.done (c.sig q.a.toNat q.work.done) q.b.toNat = (r, z)) :
    u.updateTable cl c q false = Claims.tableDone z cl q (c.tally r) (r.mask q.work.done) false r.grows := by
  unfold State.updateTable
  dsimp only
  rw [if_neg (Bool.eq_false_iff.1 he), if_neg Bool.false_ne_true, h]
  rfl

variable {g : Geometry} {t x v i n : Nat}

theorem insertAt_present (hf : (c.searched u cl g t x).find? (fun i => (u.bucket cl c.lsh g t i).holdsEntry c.lsh x v) = some i) :
    u.insertAt cl c g t x v = (.present, if c.lsh then u else u.setBucket cl c.lsh g t i { u.bucket cl c.lsh g t i with
      ents := (u.bucket cl c.lsh g t i).ents.map (fun e => if e.1 == x then (x, v) else e) }) := by
  unfold State.insertAt
  dsimp only
  rw [hf]
  dsimp only
  split <;> rfl

theorem deleteAt_removed (hf : (c.searched u cl g t x).find? (fun i => (u.bucket cl c.lsh g t i).holdsEntry c.lsh x v) = some i) :
    u.deleteAt cl c g t x v = (.removed, u.setBucket cl c.lsh g t i { u.bucket cl c.lsh g t i with
      ents := (u.bucket cl c.lsh g t i).ents.eraseIdx
        (((u.bucket cl c.lsh g t i).ents.findIdx? (fun e => if c.lsh then e.1 == v else e.1 == x)).getD 0) }) := by
  unfold State.deleteAt
  dsimp only
  rw [hf]

variable (hf : (c.searched u cl g t x).find? (fun i => (u.bucket cl c.lsh g t i).holdsEntry c.lsh x v) = none)
include hf

theorem deleteAt_absent : u.deleteAt cl c g t x v = (.absent, u) := by
  unfold State.deleteAt
  dsimp only
  rw [hf]

theorem insertAt_appended (ht : (c.tried g t x).findIdx? (fun i => (u.bucket cl c.lsh g t i).takes c.lsh x) = some n) :
    let w := if c.policy = 2 then ((c.tried g t x).take n).foldl (fun s i =>
      s.setBucket cl c.lsh g t i { s.bucket cl c.lsh g t i with more := true }) u else u
    let i := (c.tried g t x).getD n 0
    u.insertAt cl c g t x v = (.appended, w.setBucket cl c.lsh g t i ((w.bucket cl c.lsh g t i).append c.lsh x v)) := by
  unfold State.insertAt
  dsimp only
  rw [hf]
  dsimp only
  rw [ht]

variable (ht : (c.tried g t x).findIdx? (fun i => (u.bucket cl c.lsh g t i).takes c.lsh x) = none)
include ht

theorem insertAt_dropped (hp : c.policy ≠ 1) : u.insertAt cl c g t x v = (.dropped, u) := by
  unfold State.insertAt
  dsimp only
  rw [hf]
  dsimp only
  rw [ht]
  exact if_pos hp

theorem insertAt_evicted (hp : c.policy = 1) :
    let b := u.bucket cl c.lsh g t (g.primary t x)
    let kept := if c.lsh then (if b.hits true x then dropOldest b.ents else []) else b.ents.drop 1
    u.insertAt cl c g t x v = (.evicted (b.ents.length - kept.length),
      u.setBucket cl c.lsh g t (g.primary t x) (({ b with ents := kept } : Bucket).append c.lsh x v)) := by
  unfold State.insertAt
  dsimp only
  rw [hf]
  dsimp only
  rw [ht]
  exact if_neg (not_not.2 hp)

end

/-! ### CPROBE (R336) -/

section
variable {u : State} {cl : Nat} {q : CatCmd} {c : Catalogue} {rows : List Nat}

theorem probeTable_more (he : c.meetsError u cl q = false) (ht : q.work.done + 1 < c.l) : u.probeTable cl q c =
    .ok (.more { q.work with
      done := q.work.done + 1
      rows := q.work.rows ++ u.candidateRows cl c q.a.toNat q.work.done }, u) := by
  unfold State.probeTable
  dsimp only
  rw [if_neg (Bool.eq_false_iff.1 he), if_pos ht]

theorem probeTable_last (he : c.meetsError u cl q = false) (ht : c.l ≤ q.work.done + 1) : u.probeTable cl q c =
    u.answerProbe cl q c (sortedRows (q.work.rows ++ u.candidateRows cl c q.a.toNat q.work.done)) := by
  unfold State.probeTable
  dsimp only
  rw [if_neg (Bool.eq_false_iff.1 he), if_neg (Nat.not_lt.2 ht)]

theorem answerProbe_range
    (hr : (u.coreAt q.core).inRole 1 (gaOff (q.words.getD 0 0)) (4 * bits (q.words.getD 1 0) 15 8) = false) :
    u.answerProbe cl q c rows = .ok (.failed cPOOL_RANGE, u) := by
  unfold State.answerProbe
  dsimp only
  rw [if_pos (by rw [hr]; rfl)]

/-- The rows and word 3 of a probe are written, and OVF counts (R336, R341). -/
theorem answerProbe_writes {p : Phys} {w z : State} {old : Nat} {ts : Option Nat}
    (hr : (u.coreAt q.core).inRole 1 (gaOff (q.words.getD 0 0)) (4 * bits (q.words.getD 1 0) 15 8) = true)
    (hp : (u.coreAt q.core).poolWaits 1 (gaOff (q.words.getD 0 0)) (4 * bits (q.words.getD 1 0) 15 8) true = false)
    (hw : u.walkWaits (.core q.core) (u.effPtroot q.rcb) (q.b.toNat + 28) = false)
    (hl : locate (((rows.take (min rows.length (bits (q.words.getD 1 0) 15 8))).zipIdx).foldl
      (fun s r => s.wrNat (q.words.getD 0 0 + 4 * r.2) 4 r.1) u) (.core q.core) q.mode q.core (u.effPtroot q.rcb) .w
      (q.b.toNat + 28) = .ok (p, w)) (hc : p.inReclass w = false)
    (ht : w.touch ⟨q.id, q.core, q.fc⟩ q.rcb (w.ctxOf q.core q.fc).cts p 4 (fun _ => some (min rows.length 0xFFFF +
      (if bits (q.words.getD 1 0) 15 8 < rows.length then 2 ^ 16 else 0) + (if c.migrating.isSome then 2 ^ 17 else 0))) =
      .ok (z, old, ts)) :
    u.answerProbe cl q c rows = .ok (.answer (min rows.length (bits (q.words.getD 1 0) 15 8)) (ts.getD 0),
      if bits (q.words.getD 1 0) 15 8 < rows.length then z.setCat cl q.cat { c with truncs := satAdd c.truncs 1 } else z) := by
  have flag : ∀ (b : Bool) (n : Nat), natOfBool b * n = if b then n else 0 := fun b n => by cases b <;> simp [natOfBool]
  unfold State.answerProbe
  dsimp only
  rw [if_neg (by rw [hr]; decide), if_neg (by rw [hp, hw]; decide), hl]
  dsimp only
  rw [if_neg (by simp [hc])]
  simp only [flag, decide_eq_true_eq]
  rw [ht]

end

/-! ### CSWAP (R340) -/

theorem clusterAt_extend (s : State) (rcb k src : Nat) (data : List Byte) (cl : Nat) :
    (s.extend rcb k src data).clusterAt cl = s.clusterAt cl := by
  unfold State.extend State.modRegion
  dsimp only
  split <;> rfl

theorem mem_extend (s : State) (rcb k src : Nat) (data : List Byte) : (s.extend rcb k src data).mem = s.mem := by
  unfold State.extend State.modRegion
  dsimp only
  split <;> rfl

theorem tfind_of_ownCat {u : State} {cl rcb n : Nat} {c : Catalogue} (h : u.ownCat cl rcb n = some c) :
    tfind (u.clusterAt cl).cats n = some c := (Option.filter_eq_some_iff.1 h).1

section
variable {u : State} {cl rcb a b : Nat} {c : Catalogue} (hc : tfind (u.clusterAt cl).cats a = some c)
include hc

theorem exchange_migrating (h : c.migrating.isSome = true ∨
    ∃ x, tfind (u.clusterAt cl).cats b = some x ∧ x.migrating.isSome = true) : u.exchange cl rcb a b = (6, u) := by
  unfold State.exchange
  dsimp only
  rw [hc]
  refine if_pos ?_
  rcases h with h | ⟨x, hx, h⟩
  · simp [h]
  · simp [hx, h]

theorem exchange_swaps (hm : c.migrating = none) (hd : ∀ x, tfind (u.clusterAt cl).cats b = some x → x.migrating = none) :
    ∃ z : State, u.exchange cl rcb a b = (0, z) ∧ z.mem = u.mem ∧ tfind (z.clusterAt cl).cats b = some c ∧
      ((tfind (u.clusterAt cl).cats b).isSome = true → b ≠ a → tfind (z.clusterAt cl).cats a = tfind (u.clusterAt cl).cats b) ∧
      (z.clusterAt cl).catq.map (·.cat) = (u.clusterAt cl).catq.map (fun e =>
        if e.cat = a then b else if e.cat = b then a else e.cat) := by
  unfold State.exchange
  dsimp only
  rw [hc]
  refine ⟨_, if_neg ?_, ?_, ?_, ?_, ?_⟩
  · cases hx : tfind (u.clusterAt cl).cats b with
    | none => simp [hm]
    | some x => simp [hm, hd x hx]
  · exact mem_extend ..
  · rw [clusterAt_modCluster, clusterAt_extend]
    dsimp only
    rw [tfind_tset, if_pos rfl]
  · intro hs hne
    obtain ⟨x, hx⟩ := Option.isSome_iff_exists.1 hs
    rw [clusterAt_modCluster, clusterAt_extend]
    dsimp only
    rw [hx]
    dsimp only
    rw [tfind_tset, if_neg (Ne.symm hne), tfind_tset, if_pos rfl]
  · rw [clusterAt_modCluster, clusterAt_extend]
    dsimp only
    rw [List.map_map]
    rfl

end

/-! ### CREHASH (R338) -/

/-- What a migration leaves of a catalogue: its place, its tables and its old geometry. -/
def Catalogue.frame (c : Catalogue) : Nat × Nat × Geometry := (c.cur, c.l, c.geo)

theorem frame_tally (c : Catalogue) (r : Outcome) : (c.tally r).frame = c.frame := by
  cases r <;> rfl

theorem foldl_keeps {α β γ : Type} {f : β → α → β} {g : β → γ} (h : ∀ r e, g (f r e) = g r) (l : List α) (r : β) :
    g (l.foldl f r) = g r := by
  induction l generalizing r with
  | nil => rfl
  | cons a l ih => exact (ih _).trans (h r a)

/-- One primary moves CUR on (R338). -/
theorem migrateOne_frame (w : State) (cl : Nat) (d : Catalogue) (new : Geometry) :
    (w.migrateOne cl d new).2.1.frame = (d.cur + 1, d.l, d.geo) := by
  have moved : ∀ x : Catalogue, x.frame = d.frame → ({ x with cur := d.cur + 1 } : Catalogue).frame = (d.cur + 1, d.l, d.geo) :=
    fun x h => congrArg (fun f : Nat × Nat × Geometry => (d.cur + 1, f.2)) h
  unfold State.migrateOne
  refine moved _ (foldl_keeps (g := fun r : Bool × Catalogue × State => r.2.1.frame) (fun r e => ?_) _ _)
  exact frame_tally ..

section
variable {w : State} {cl : Nat} {q : CatCmd} {d : Catalogue} {new : Geometry} {m : Bool × Catalogue × State}
variable (hf : q.work.done ≠ 0 ∨ w.migrationFails cl d new q.a.toNat = false) (hm : w.migrateOne cl d new = m)
include hf hm

theorem rehashOne_eq : w.rehashOne cl q d new =
    if m.2.1.l * 2 ^ m.2.1.geo.b ≤ m.2.1.cur then
      let y := { m.2.1 with geo := new, migrating := none, record := [] }
      (.answer (m.2.1.cur * 2 ^ 16 + 2 ^ 8) 0, ((m.2.2.setCat cl q.cat y).modCluster cl
        (fun x => x.setFamily m.2.1.family (familyOf y))).extendTables m.2.1.rcb m.2.1.record)
    else if q.a.toNat ≤ q.work.done + 1 then (.answer (m.2.1.cur * 2 ^ 16) 0, m.2.2.setCat cl q.cat m.2.1)
    else (.more { q.work with done := q.work.done + 1 }, m.2.2.setCat cl q.cat m.2.1) := by
  unfold State.rehashOne
  rw [if_neg (by rcases hf with h | h <;> simp [h]), hm]

theorem rehashOne_ends (hl : m.2.1.l * 2 ^ m.2.1.geo.b ≤ m.2.1.cur) : ∃ z : State,
    w.rehashOne cl q d new = (.answer (m.2.1.cur * 2 ^ 16 + 2 ^ 8) 0, z) ∧ z.mem = m.2.2.mem ∧
      ∃ y, tfind (z.clusterAt cl).cats q.cat = some y ∧ y.geo = new ∧ y.migrating = none := by
  rw [rehashOne_eq hf hm, if_pos hl]
  refine ⟨_, rfl, mem_extend .., { m.2.1 with geo := new, migrating := none, record := [] }, ?_, rfl, rfl⟩
  rw [State.extendTables, clusterAt_extend, clusterAt_modCluster, State.setCat, clusterAt_modCluster]
  exact (tfind_tset ..).trans (if_pos rfl)

theorem rehashOne_counted (hl : m.2.1.cur < m.2.1.l * 2 ^ m.2.1.geo.b) (hn : q.a.toNat ≤ q.work.done + 1) :
    w.rehashOne cl q d new = (.answer (m.2.1.cur * 2 ^ 16) 0, m.2.2.setCat cl q.cat m.2.1) := by
  rw [rehashOne_eq hf hm, if_neg (Nat.not_le.2 hl), if_pos hn]

theorem rehashOne_more (hl : m.2.1.cur < m.2.1.l * 2 ^ m.2.1.geo.b) (hn : q.work.done + 1 < q.a.toNat) :
    w.rehashOne cl q d new = (.more { q.work with done := q.work.done + 1 }, m.2.2.setCat cl q.cat m.2.1) := by
  rw [rehashOne_eq hf hm, if_neg (Nat.not_le.2 hl), if_neg (Nat.not_le.2 hn)]

/-- An act of a migration that met no error is no failure. -/
theorem rehashOne_works : (w.rehashOne cl q d new).1 ≠ .failed cMACHINE_UE := by
  rw [rehashOne_eq hf hm]
  unfold CatStep.failed catFailure cMACHINE_UE
  split
  · intro h
    have := (CatStep.answer.inj h).1
    omega
  · split
    · intro h
      have := (CatStep.answer.inj h).1
      omega
    · exact nofun

end

/-- A record that may begin a migration of a catalogue (R338). -/
def SameKind (c : Catalogue) (words : List Nat) : Prop :=
  recordValid words = true ∧ (recordMode words = 1 ↔ c.lsh = true) ∧ recordPolicy words = c.policy ∧
    recordFamily words = c.family ∧ recordK words = c.k ∧ recordL words = c.l

theorem sameKind_iff (c : Catalogue) (words : List Nat) : SameKind c words ↔
    (!recordValid words || (recordMode words == 1) != c.lsh || recordPolicy words != c.policy ||
      recordFamily words != c.family || recordK words != c.k || recordL words != c.l) = false := by
  have mode : ((recordMode words == 1) = c.lsh) ↔ (recordMode words = 1 ↔ c.lsh = true) := by
    rw [Bool.eq_iff_iff, beq_iff_eq]
  unfold SameKind
  simp only [Bool.or_eq_false_iff, Bool.not_eq_false', bne_eq_false_iff_eq, mode, and_assoc]

section
variable {u : State} {cl : Nat} {q : CatCmd} {c : Catalogue}

theorem rehash_step (h : c.migrating = none) : u.rehash cl q c none = (.answer 7 0, u) := by
  unfold State.rehash
  rw [h]
  rfl

theorem rehash_migrating {new : Geometry} {start : Option (List Nat)} (h : c.migrating = some new)
    (hs : start = none ∨ q.work.done ≠ 0) : u.rehash cl q c start = u.rehashOne cl q c new := by
  unfold State.rehash
  rw [h]
  cases start with
  | none => rfl
  | some words => exact if_neg (hs.resolve_left nofun)

theorem rehash_again {words : List Nat} (h : c.migrating.isSome = true) (ht : q.work.done = 0) :
    u.rehash cl q c (some words) = (.answer (c.cur * 2 ^ 16 + 6) 0, u) := by
  obtain ⟨new, hn⟩ := Option.isSome_iff_exists.1 h
  unfold State.rehash
  rw [hn]
  exact if_pos ht

variable {words : List Nat} (hm : c.migrating = none)
include hm

theorem rehash_record (hk : ¬ SameKind c words) : u.rehash cl q c (some words) = (.answer 2 0, u) := by
  rw [sameKind_iff, Bool.not_eq_false] at hk
  unfold State.rehash
  rw [hm]
  exact if_pos hk

variable (hk : SameKind c words)
include hk

theorem rehash_space (hs : (u.clusterAt cl).spaceFor (areaOf c.l (recordGeo words)) = false) :
    u.rehash cl q c (some words) = (.answer 4 0, u) := by
  unfold State.rehash
  rw [hm]
  exact (if_neg (Bool.eq_false_iff.1 ((sameKind_iff ..).1 hk))).trans (if_pos (by rw [hs]; rfl))

variable (hs : (u.clusterAt cl).spaceFor (areaOf c.l (recordGeo words)) = true)
include hs

theorem rehash_budget (hb : u.bucketsFit cl c.rcb (c.l * 2 ^ (recordGeo words).b) = false) :
    u.rehash cl q c (some words) = (.answer 5 0, u) := by
  unfold State.rehash
  rw [hm]
  exact (if_neg (Bool.eq_false_iff.1 ((sameKind_iff ..).1 hk))).trans
    ((if_neg (by rw [hs]; decide)).trans (if_pos (by rw [hb]; rfl)))

theorem rehash_begins (hb : u.bucketsFit cl c.rcb (c.l * 2 ^ (recordGeo words).b) = true)
    (hw : ((u.zeroArea cl (areaOf c.l (recordGeo words))).rehashOne cl q
      { c with migrating := some (recordGeo words), record := words, cur := 0 } (recordGeo words)).1 ≠ .failed cMACHINE_UE) :
    u.rehash cl q c (some words) = (u.zeroArea cl (areaOf c.l (recordGeo words))).rehashOne cl q
      { c with migrating := some (recordGeo words), record := words, cur := 0 } (recordGeo words) := by
  unfold State.rehash
  rw [hm]
  exact (if_neg (Bool.eq_false_iff.1 ((sameKind_iff ..).1 hk))).trans
    ((if_neg (by rw [hs]; decide)).trans ((if_neg (by rw [hb]; decide)).trans (if_neg hw)))

end

end Sys2Proof.Machine

open Sys2Proof.Machine in
/-- Settles O48: one command acts and is answered, a command of each kind by what it does to its catalogue, and a migration by
what one primary leaves of the catalogue's frame. -/
theorem catalogueAnswers : Obligations.CatalogueAnswers := by
  unfold Obligations.CatalogueAnswers
  refine ⟨fun cl n s q ha hq => ?_, fun cl u q c hc => ?_⟩
  · dsimp only
    have act := exec_catalogueAct ha hq
    refine ⟨fun w t h => by rw [act, h], fun e h => by rw [act, h], fun v ts t h => ?_, fun o hi hm => ?_, ?_, fun c hc => ?_⟩
    · rw [act, h]
      refine ⟨fun hd hp hh hl => congrArg Host.Outcome.next (answerCat_live hp hh hl),
        fun hp hl => congrArg Host.Outcome.next (answerCat_orphan hp hl),
        fun hp hv => congrArg Host.Outcome.next (answerCat_applied hp hv), fun hp hv => ?_⟩
      obtain ⟨m, failed⟩ := answerCat_failed (cl := cl) (ts := ts) (s := t) hp hv
      refine ⟨t.countFailure cl q, m, congrArg Host.Outcome.next failed, fun hn => ?_, fun c hc => ?_⟩
      · rw [State.countFailure, hn]
      · rw [State.countFailure, hc]
    · refine ⟨fun hv => applyCat_cdef_refused hi (by decide) (define_invalid hm hv),
        fun hv hn => applyCat_cdef_refused hi (by decide) (define_taken hm hv hn), fun hv hn =>
          ⟨fun hf => applyCat_cdef_refused hi (by decide) (define_family hm hv hn hf), fun hf => ?_⟩⟩
      have area := define_area (u := s.takeCat cl n) (rcb := q.rcb) hm hv hn hf
      refine ⟨fun hs => applyCat_cdef_refused hi (by decide) (area.trans (if_pos (by rw [hs]; rfl))),
        fun hs hb => applyCat_cdef_refused hi (by decide)
          (area.trans ((if_neg (by rw [hs]; decide)).trans (if_pos (by rw [hb]; rfl)))), fun hs hb => ?_⟩
      have defines := area.trans ((if_neg (by rw [hs]; decide)).trans (if_neg (by rw [hb]; decide)))
      refine ⟨(s.takeCat cl n).defined cl q.cat q.rcb q.words, definedCat q.rcb q.words, ?_, tfind_defined .., rfl, rfl, rfl, rfl,
        rfl, rfl, rfl, rfl, counter_definedCat _ _, fun a h1 h2 => read_clear _ h1 h2, fun a h => read_clear_outside _ h⟩
      rw [applyCat_cdef hi, defines, if_pos rfl]
    · exact fun hi hn => applyCat_undefined hi hn
    · refine ⟨fun o hi => applyCat_cstat hc hi, fun o hi hl he => ?_, fun o hi hl he => ⟨fun hn => ?_, fun hx => ?_⟩⟩
      · rw [applyCat_clook hc hi hl, if_pos he]
        rfl
      · rw [applyCat_clook hc hi hl, if_neg (Bool.eq_false_iff.1 he), lookKey_absent hn]
      · obtain ⟨i, hi', e, hmem, hk, found⟩ := lookKey_present hx
        refine ⟨i, hi', e, hmem, hk, ?_⟩
        rw [applyCat_clook hc hi hl, if_neg (Bool.eq_false_iff.1 he), found]
  · dsimp only
    refine ⟨fun o hi he => ⟨fun i hf => ?_, fun n hf ht => ?_, fun hf ht hp => ?_, fun hf ht hp => ?_⟩,
      fun o hi he => ⟨fun hf => ?_, fun i hf => ?_⟩, fun o hi hl he => ⟨fun ht => ?_, fun ht => ⟨fun hr => ?_, ?_⟩⟩,
      fun o hi hd => ⟨fun hm => ?_, fun hm hn => ?_⟩, fun o hi => ?_⟩
    · exact (applyCat_cins hc hi).trans (congrArg Except.ok (updateTable_insert he (insertAt_present hf)))
    · exact (applyCat_cins hc hi).trans (congrArg Except.ok (updateTable_insert he (insertAt_appended hf ht)))
    · exact (applyCat_cins hc hi).trans (congrArg Except.ok (updateTable_insert he (insertAt_dropped hf ht hp)))
    · exact (applyCat_cins hc hi).trans (congrArg Except.ok (updateTable_insert he (insertAt_evicted hf ht hp)))
    · exact (applyCat_cdel hc hi).trans (congrArg Except.ok (updateTable_delete he (deleteAt_absent hf)))
    · exact (applyCat_cdel hc hi).trans (congrArg Except.ok (updateTable_delete he (deleteAt_removed hf)))
    · exact (applyCat_cprobe hc hi hl).trans (probeTable_more he ht)
    · exact (applyCat_cprobe hc hi hl).trans ((probeTable_last he ht).trans (answerProbe_range hr))
    · exact fun p w z old ts hr hp hw hloc hre htouch =>
        (applyCat_cprobe hc hi hl).trans ((probeTable_last he ht).trans (answerProbe_writes hr hp hw hloc hre htouch))
    · rw [applyCat_cswap hc hi hd, exchange_migrating (tfind_of_ownCat hc) hm]
    · obtain ⟨z, swaps, mem, there, here, queue⟩ := exchange_swaps (rcb := q.rcb) (tfind_of_ownCat hc) hm hn
      refine ⟨z, ?_, mem, there, here, queue⟩
      rw [applyCat_cswap hc hi hd, swaps]
    · have idle : c.migrating = none → ∀ n, (if c.migrating.isSome then c.cur * 2 ^ 16 else 0) + n = n := fun h n => by simp [h]
      have begins : o.h.s2.isZero = false → (if o.h.s2.isZero then none else some q.words) = some q.words := fun h => by
        rw [h]; rfl
      refine ⟨fun hm hz => ?_, fun hm hz ht => ?_, fun hm hz hk => ?_, fun hm hz hk hs => ?_, fun hm hz hk hs hb => ?_,
        fun new w m d hcase hfails hmig => ?_⟩
      · rw [idle hm, applyCat_crehash hc hi, hz]
        exact congrArg Except.ok (rehash_step hm)
      · rw [applyCat_crehash hc hi, begins hz, rehash_again hm ht, if_pos hm]
      · rw [idle hm, applyCat_crehash hc hi, begins hz]
        exact congrArg Except.ok (rehash_record hm hk)
      · rw [idle hm, applyCat_crehash hc hi, begins hz]
        exact congrArg Except.ok (rehash_space hm hk hs)
      · rw [idle hm, applyCat_crehash hc hi, begins hz]
        exact congrArg Except.ok (rehash_budget hm hk hs hb)
      · have works : u.applyCat cl q = .ok (w.rehashOne cl q d new) := by
          rw [applyCat_crehash hc hi]
          rcases hcase with ⟨hm, hstart, rfl, rfl⟩ | ⟨hm, hz, hk, hs, hb, rfl, rfl, rfl⟩
          · refine congrArg Except.ok (rehash_migrating hm ?_)
            exact hstart.imp (fun hz => by rw [hz]; rfl) id
          · rw [begins hz]
            exact congrArg Except.ok (rehash_begins hm hk hs hb (rehashOne_works hfails rfl))
        have place : d.l = c.l ∧ d.geo = c.geo := by
          rcases hcase with ⟨-, -, -, rfl⟩ | ⟨-, -, -, -, -, -, -, rfl⟩
          · exact ⟨rfl, rfl⟩
          · exact ⟨rfl, rfl⟩
        have frame := migrateOne_frame w cl d new
        rw [hmig] at frame
        simp only [Catalogue.frame, Prod.mk.injEq] at frame
        obtain ⟨cur, tables, geo⟩ := frame
        rw [works, ← place.1, ← place.2, ← tables, ← geo, ← cur]
        refine ⟨rfl, rfl, rfl, fun hl => ?_, fun hl hn => ?_, fun hl hn => ?_⟩
        · obtain ⟨z, ends, mem, named⟩ := rehashOne_ends hfails hmig hl
          exact ⟨z, congrArg Except.ok ends, mem, named⟩
        · exact congrArg Except.ok (rehashOne_counted hfails hmig hl hn)
        · exact congrArg Except.ok (rehashOne_more hfails hmig hl hn)
end

section
/-! SUPPORT. The scalar instructions of registers: their shapes, their results, and what they leave alone (R161 to R169). -/

namespace Sys2Proof.Machine

section
variable {i : Instr} {o : AOps} {s sa sb sc : State} {a b c : Word}

/-! ### Shapes -/

theorem scalar1_ok (hi : Issues i o.h s) (ha : (o.src o.h.s1).run s = .ok (a, sa)) (f : Word → Word) :
    scalar1 i o f s = .next ((sa.modCtx (·.wg o.h.d.index (f a))).retired i) :=
  issueNext_ok hi (by rw [act_bind_ok ha, act_writeD])

theorem scalar2_ok (hi : Issues i o.h s) (ha : (o.src o.h.s1).run s = .ok (a, sa)) (hb : (o.src o.h.s2).run sa = .ok (b, sb))
    (f : Word → Word → Word) : scalar2 i o f s = .next ((sb.modCtx (·.wg o.h.d.index (f a b))).retired i) :=
  issueNext_ok hi (by rw [act_bind_ok ha, act_bind_ok hb, act_writeD])

theorem divide_ok (hi : Issues i o.h s) (ha : (o.src o.h.s1).run s = .ok (a, sa)) (hb : (o.src o.h.s2).run sa = .ok (b, sb))
    (h0 : b ≠ 0) (f : Word → Word → Word) : divide i o f s = .next ((sb.modCtx (·.wg o.h.d.index (f a b))).retired i) :=
  issueNext_ok hi (by
    rw [act_bind_ok ha, act_bind_ok hb, act_bind_ok (act_unlessFault (by simpa using h0) _ _ _), act_writeD])

/-- A zero divisor raises INT_DIVZERO with the dividend in TVAL (R164). -/
theorem divide_zero (hi : Issues i o.h s) (ha : (o.src o.h.s1).run s = .ok (a, sa)) (hb : (o.src o.h.s2).run sa = .ok (b, sb))
    (h0 : b = 0) (f : Word → Word → Word) :
    divide i o f s = .next (s.takeTrapA { cause := cINT_DIVZERO, tval := some a }) :=
  issueNext_trap hi (by
    rw [act_bind_ok ha, act_bind_ok hb, act_bind_error (act_unlessFault_false (by simpa using h0) _ _ _)])

/-! ### The forms -/

variable {f : Word → Word → Word}

theorem exec_two (h : Claims.two i = some (o, f)) (s : State) : exec i s = scalar2 i o f s := by
  cases i with
  | add | sub | mul | mulhI64 | mulhN64 | andBits | orBits | xorBits | andn | minI64 | minN64 | maxI64 | maxN64 =>
    cases h
    rfl
  | _ => cases h

theorem exec_shift (h : Claims.shift i = some (o, f)) (s : State) : exec i s = scalar2 i o f s := by
  cases i with
  | shl | shr | sra | rot =>
    cases h
    rfl
  | _ => cases h

theorem exec_one {f : Word → Word} (h : Claims.one i = some (o, f)) (s : State) : exec i s = scalar1 i o f s := by
  cases i with
  | clz | ctz | popc | mov =>
    cases h
    rfl
  | _ => cases h

theorem exec_division (h : Claims.division i = some (o, f)) (s : State) : exec i s = divide i o f s := by
  cases i with
  | quoI64 | quoN64 | remI64 | remN64 =>
    cases h
    rfl
  | _ => cases h

/-! ### Addresses and bit fields -/

theorem bitField_ok (hi : Issues i o.h s) (ha : (o.src o.h.s1).run s = .ok (a, sa)) (hb : (o.src o.h.s2).run sa = .ok (b, sb))
    {pos len : Nat} (hf : fieldOf b = some (pos, len)) (f : Word → Nat → Nat → Word) :
    bitField i o f s = .next ((sb.modCtx (·.wg o.h.d.index (f a pos len))).retired i) :=
  issueNext_ok hi (by rw [act_bind_ok ha, act_bind_ok hb, hf]; exact act_writeD _ _ _)

theorem bitField_illegal (hi : Issues i o.h s) (ha : (o.src o.h.s1).run s = .ok (a, sa))
    (hb : (o.src o.h.s2).run sa = .ok (b, sb)) (hf : fieldOf b = none) (f : Word → Nat → Nat → Word) :
    bitField i o f s = .next (s.takeTrapA { cause := cILLEGAL_OPERAND, tval := some b }) :=
  issueNext_trap hi (by rw [act_bind_ok ha, act_bind_ok hb, hf]; exact act_fault _ _ _ _)

variable (ha : (o.src o.h.s1).run s = .ok (a, sa)) (hb : (o.src o.h.s2).run sa = .ok (b, sb))
  (hc : (o.src o.h.s3).run sb = .ok (c, sc))
include ha hb hc

theorem exec_lea (hi : Issues (.lea o) o.h s) (h : c.toNat ≤ 63) :
    exec (.lea o) s = .next ((sc.modCtx (·.wg o.h.d.index (a + b <<< c.toNat))).retired (.lea o)) :=
  issueNext_ok hi (by
    rw [act_bind_ok ha, act_bind_ok hb, act_bind_ok hc, act_bind_ok (act_unlessFault (by simpa using h) _ _ _), act_writeD,
      shlW, if_pos (by omega)])

theorem exec_lea_illegal (hi : Issues (.lea o) o.h s) (h : ¬ c.toNat ≤ 63) :
    exec (.lea o) s = .next (s.takeTrapA { cause := cILLEGAL_OPERAND, tval := some c }) :=
  issueNext_trap hi (by
    rw [act_bind_ok ha, act_bind_ok hb, act_bind_ok hc, act_bind_error (act_unlessFault_false (by simpa using h) _ _ _)])

theorem exec_gaddr (hi : Issues (.gaddr o) o.h s) (h : gaddrBad a b c = none) :
    exec (.gaddr o) s = .next ((sc.modCtx (·.wg o.h.d.index (gaddrW a b c))).retired (.gaddr o)) :=
  issueNext_ok hi (by rw [act_bind_ok ha, act_bind_ok hb, act_bind_ok hc, h]; exact act_writeD _ _ _)

theorem exec_gaddr_illegal (hi : Issues (.gaddr o) o.h s) {x : Word} (h : gaddrBad a b c = some x) :
    exec (.gaddr o) s = .next (s.takeTrapA { cause := cILLEGAL_OPERAND, tval := some x }) :=
  issueNext_trap hi (by rw [act_bind_ok ha, act_bind_ok hb, act_bind_ok hc, h]; exact act_fault _ _ _ _)

theorem exec_bfi (hi : Issues (.bfi o) o.h s) {pos len : Nat} (h : fieldOf c = some (pos, len)) :
    exec (.bfi o) s = .next ((sc.modCtx (·.wg o.h.d.index (bfiW a b pos len))).retired (.bfi o)) :=
  issueNext_ok hi (by rw [act_bind_ok ha, act_bind_ok hb, act_bind_ok hc, h]; exact act_writeD _ _ _)

theorem exec_bfi_illegal (hi : Issues (.bfi o) o.h s) (h : fieldOf c = none) :
    exec (.bfi o) s = .next (s.takeTrapA { cause := cILLEGAL_OPERAND, tval := some c }) :=
  issueNext_trap hi (by rw [act_bind_ok ha, act_bind_ok hb, act_bind_ok hc, h]; exact act_fault _ _ _ _)

end

/-! ### A trap that waits while an instruction makes its accesses -/

/-- ADD g1, g2, g3. -/
def addG1 : AOps := ⟨⟨0, 0, .g 1, .g 2, .g 3, .g 0⟩, 0⟩

/-- A trap of the X-half that waits for its entry, with TNEXT at address 0. -/
def waitingTrap : PendingTrap where
  cause := cVIEW_RANGE
  tval := 2
  tval2 := 0
  tpc := 0x400
  tnext := 0
  origin := 0
  sw := false
  source := 0x400
  clears := []
  acting := false
  leaving := false

/-- After reset: a firing with a trap of its X-half recorded, and an access that it has begun still to make. -/
def trappedMoving : State :=
  State.reset.modCtx (fun c => { c with firing := some plainFiring, trap := some waitingTrap, moving := [.result (.g 4) 0] })

theorem issues_trappedMoving : Issues (.add addG1) addG1.h trappedMoving :=
  ⟨by decide, by decide, by decide, .inl (by decide), by decide⟩

/-- The slot goes on, and TNEXT of the trap follows it (R258). -/
theorem trappedMoving_add_trap : ∀ t, exec (.add addG1) trappedMoving = .next t →
    t.ctx.trap = some { waitingTrap with tnext := 1 } := by
  intro t h
  rw [← Host.Outcome.next.inj h]
  decide

end Sys2Proof.Machine

open Sys2Proof.Machine in
/-- Settles O1: a shift is an instruction of two sources (`exec_shift`, `scalar2_ok`). -/
theorem shifts : Obligations.Shifts := by
  intro i o f s sa sb a b h hi ha hb
  rw [exec_shift h, scalar2_ok hi ha hb]

open Sys2Proof.Machine in
/-- Settles O2: the instructions of two sources (`scalar2_ok`) and those of one (`scalar1_ok`). -/
theorem scalarResults : Obligations.ScalarResults := by
  refine ⟨fun i o f s sa sb a b h hi ha hb => ?_, fun i o f s sa a h hi ha => ?_⟩
  · rw [exec_two h, scalar2_ok hi ha hb]
  · rw [exec_one h, scalar1_ok hi ha]

open Sys2Proof.Machine in
/-- Settles O3: a divisor other than zero (`divide_ok`), and zero (`divide_zero`). -/
theorem division : Obligations.Division := by
  intro i o f s sa sb a b h hi ha hb
  rw [exec_division h]
  exact ⟨fun h0 => divide_ok hi ha hb h0 f, fun h0 => divide_zero hi ha hb h0 f⟩

open Sys2Proof.Machine in
/-- Settles O4: each form has a lemma for a legal operand and one for its trap. -/
theorem addressForms : Obligations.AddressForms := by
  intro o s sa sb sc a b c ha hb hc
  refine ⟨fun hi => ?lea, fun hi => ?gaddr, fun hi => ?bfxS, fun hi => ?bfxU, fun hi => ?bfi⟩
  case lea =>
    split
    · rw [exec_lea ha hb hc hi ‹_›]
    · rw [exec_lea_illegal ha hb hc hi ‹_›]
  case gaddr =>
    split
    · exact exec_gaddr ha hb hc hi ‹_›
    · exact exec_gaddr_illegal ha hb hc hi ‹_›
  case bfxS =>
    split
    · rw [← word_wrapInt]
      exact bitField_ok hi ha hb ‹_› bfxS
    · exact bitField_illegal hi ha hb ‹_› bfxS
  case bfxU =>
    split
    · exact bitField_ok hi ha hb ‹_› bfxU
    · exact bitField_illegal hi ha hb ‹_› bfxU
  case bfi =>
    split
    · exact exec_bfi ha hb hc hi ‹_›
    · exact exec_bfi_illegal ha hb hc hi ‹_›

open Sys2Proof.Machine in
/-- Refutes O60: an instruction that issues while its context has begun accesses moves TNEXT of a recorded trap of the X-half to
its successor (R258), so `trap` is not as before. -/
theorem not_scalarFrame : ¬ Obligations.ScalarFrame := by
  intro h
  obtain ⟨t, ht, -, -, -, -, -, -, -, -, -, -, -, -, -, -, -, -, -, trap, -⟩ :=
    h (.add addG1) addG1 _ trappedMoving 2 3 rfl issues_trappedMoving rfl rfl
  rw [trappedMoving_add_trap t ht] at trap
  exact absurd trap (by decide)
end

section
/-! SUPPORT. One load or store of a context: what its address leaves alone, LD and ST, and the frame of a store of the own pool
(R162, R171, R174 to R178, R275). -/

namespace Sys2Proof.Machine

/-! ### What a translation leaves alone -/

/-- Filling a slice changes a quad, and draws a victim (R269). -/
theorem sliceFill_eq (s : State) (ga n : Nat) : ∃ quads fresh, s.sliceFill ga n = { s with quads := quads, fresh := fresh } := by
  unfold State.sliceFill
  dsimp only
  split
  · split <;> exact ⟨_, _, rfl⟩
  · exact ⟨_, _, rfl⟩

theorem walked_eq (s : State) (v : Via) (root ea : Nat) :
    ∃ quads fresh, s.walked v root ea = { s with quads := quads, fresh := fresh } := by
  have fills (l : List Nat) (u : State) :
      ∃ quads fresh, l.foldl (fun s p => s.sliceFill p 16) u = { u with quads := quads, fresh := fresh } := by
    induction l generalizing u with
    | nil => exact ⟨_, _, rfl⟩
    | cons p l ih =>
      obtain ⟨quads, fresh, he⟩ := sliceFill_eq u p 16
      rw [List.foldl_cons, he]
      exact ih _
  exact fills _ _

@[simp] theorem ctx_walked (s : State) (v : Via) (root ea : Nat) : (s.walked v root ea).ctx = s.ctx := by
  obtain ⟨quads, fresh, he⟩ := walked_eq s v root ea
  rw [he]
  rfl

@[simp] theorem ctx_fillMicro (s : State) (v : Via) (t : Tlb) : (s.fillMicro v t).ctx = s.ctx := by
  cases v with
  | core k => exact ctxOf_modCore (fun _ => rfl)
  | quad q => rfl

@[simp] theorem ctx_fillTlb (s : State) (v : Via) (t : Tlb) : (s.fillTlb v t).ctx = s.ctx := ctx_fillMicro s v t

section
variable {s s1 : State} {v : Via} {root ea n : Nat} {kind : Kind} {mode : Mode} {p : Phys}

theorem lookup_ctx {t : Tlb} (h : lookup s v root ea = .ok (t, s1)) : s1.ctx = s.ctx := by
  unfold lookup at h
  split at h
  · cases h
    rw [apply_ite State.ctx, ctx_fillMicro, ite_self]
  · split at h
    · cases h
      rw [ctx_fillTlb, ctx_walked]
    · cases h

/-- A translation fills TLBs and slices, and no register. -/
theorem translate_ctx (h : translate s v root kind ea = .ok (p, s1)) : s1.ctx = s.ctx := by
  unfold translate at h
  dsimp only at h
  split at h
  · split at h
    · cases h
    · cases h
      rfl
  · split at h
    · split at h
      · cases h
      · cases h
      · cases h
        exact lookup_ctx ‹_›
    · cases h

/-- An act that answers was followed by a rest that answers. -/
theorem act_bind_inv {α β : Type} {a : Act α} {f : α → Act β} {s s2 : State} {y : β} (h : (a >>= f).run s = .ok (y, s2)) :
    ∃ x s1, a.run s = .ok (x, s1) ∧ (f x).run s1 = .ok (y, s2) := by
  rw [act_bind] at h
  split at h
  · exact ⟨_, _, ‹_›, h⟩
  · cases h

theorem act_waitUntil_inv {c : Bool} {w : StallWhy} {b : Bool} {x : Unit} (h : (waitUntil c w b).run s = .ok (x, s1)) : s1 = s := by
  cases c with
  | false => cases h
  | true =>
    cases h
    rfl

theorem whereTo_ctx (h : (whereTo kind ea).run s = .ok (p, s1)) : s1.ctx = s.ctx := by
  unfold whereTo at h
  rw [act_bind_ok (act_get s)] at h
  obtain ⟨_, s2, h2, h⟩ := act_bind_inv h
  cases act_waitUntil_inv h2
  split at h
  · cases h
  · rename_i ht
    obtain ⟨_, s3, h3, h⟩ := act_bind_inv h
    cases act_waitUntil_inv h3
    cases h
    exact translate_ctx ht

theorem checked_inv {x : Unit} (h : (checked mode kind p).run s = .ok (x, s1)) : s1 = s := by
  unfold checked at h
  rw [act_bind_ok (act_get s)] at h
  split at h
  · cases h
  · cases h
    rfl

/-- A resolved operand has changed no register (R170, R363). -/
theorem resolve_ctx (h : (resolve kind ea n).run s = .ok (p, s1)) : s1.ctx = s.ctx := by
  unfold resolve resolveAs at h
  rw [act_bind_ok (act_getCtx s)] at h
  split at h
  · cases h
  · obtain ⟨q, s2, h2, h⟩ := act_bind_inv h
    obtain ⟨_, s3, h3, h⟩ := act_bind_inv h
    cases checked_inv h3
    cases h
    exact whereTo_ctx h2

end

/-! ### Queue operands -/

theorem act_queueExists_g (k : BitVec 5) (s : State) : (queueExists (.g k)).run s = .ok ((), s) := rfl

theorem act_queueExists_q {k : BitVec 3} (h : k.toNat < 6) (s : State) : (queueExists (.q k)).run s = .ok ((), s) :=
  act_unlessFault (by simpa using h) _ _ s

/-- The state in which q0 has one more entry, of a number of elements that have not landed (R91). -/
def State.reserving (s : State) (need : Nat) : State :=
  ({ s with nextId := s.nextId + 1 } : State).modCtx (fun c => { c with q0 := c.q0 ++ [⟨s.nextId, need, 0, none⟩] })

theorem act_reserveQ0 {s : State} (h : s.ctx.q0.length < 32) (need : Nat) :
    (reserveQ0 need).run s = .ok (s.nextId, s.reserving need) := by
  unfold reserveQ0
  rw [act_bind_ok (act_getCtx s), act_bind_ok (act_waitUntil (by simpa using h) _ _ _), act_bind_ok (act_newId s),
    act_bind_ok (act_modCtx _ _)]
  rfl

/-! ### LD -/

section
variable {o : MOps} {s s1 t : State} {p : Phys}

/-- An LD with its address resolved goes on as its one load does (R174). -/
theorem exec_ld_goes (hi : Issues (.ld o) o.h s) (hd : (∃ k, o.h.d = .g k) ∨ o.h.d = .q 0)
    (hr : (resolve .r (o.ea s.ctx) o.size).run s = .ok (p, s1)) (hc : Claims.Clear s1 p o.size)
    (hroom : o.h.d = .q 0 → s1.ctx.q0.length < 32)
    (hb : (startLoad p o.size (o.ord == 1) (Claims.into o s1).1).run (Claims.into o s1).2 = .ok ((), t)) :
    exec (.ld o) s = .next (t.retired (.ld o)) := by
  refine issueNext_ok hi ?_
  rcases hd with ⟨k, hk⟩ | hq
  · simp only [Claims.into, hk, reduceCtorEq, ↓reduceIte] at hb ⊢
    rw [act_bind_ok (act_queueExists_g k s), act_bind_ok (act_getCtx s), act_bind_ok hr, act_bind_ok (act_gateLoad hc)]
    exact hb
  · simp only [Claims.into, hq, ↓reduceIte] at hb ⊢
    rw [act_bind_ok (act_queueExists_q (by decide) s), act_bind_ok (act_getCtx s), act_bind_ok hr,
      act_bind_ok (act_gateLoad hc), act_bind_ok (act_reserveQ0 (hroom hq) 1)]
    exact hb

/-- A load served by a copy lands the copy's bytes, or its error (R275, R386). -/
theorem startLoad_copy {l : CchLine} {replica acq : Bool} (hd : p.isDram = true) (h : s.loadCopy p acq = some (l, replica))
    (n : Nat) (d : Dest) : (startLoad p n acq d).run s = .ok ((), (s.loadHit p l replica).modCtx
      (fun c => c.land d (s.copyError d p.ga n replica) (l.get p.ga n))) := by
  unfold startLoad
  rw [act_bind_ok (act_get s)]
  simp only [hd, h, ↓reduceIte]
  exact act_modify _ s

theorem startLoad_sent {acq : Bool} (h : Claims.Far s p acq) (n : Nat) (d : Dest) : (startLoad p n acq d).run s = .ok ((),
    ((Claims.missed s p).launch { newTxn (Claims.missed s p) .load (Claims.target p) p.ga n p.pageGa with
      ea := p.ea
      dest := d
      acq := acq }).modCtx (·.expect d)) := by
  cases hd : p.isDram with
  | true =>
    simp only [Claims.Far, hd, ↓reduceIte] at h
    simpa only [Claims.target, hd, ↓reduceIte] using startLoad_home hd h n d
  | false =>
    simp only [Claims.Far, hd, Bool.false_eq_true, ↓reduceIte] at h
    simpa only [Claims.target, Claims.missed, hd, Bool.false_eq_true, ↓reduceIte] using startLoad_far hd h n acq d

end

/-! ### A value that lands in a register -/

section
variable {c : Ctx} {k j : Nat}

theorem pendOf_wg_same (h : k % 32 ≠ 0) (v : Word) : (c.wg k v).pendOf k = .ready := by
  simp [Ctx.pendOf, Ctx.wg, h]

theorem pendOf_wg_other (h : j % 32 ≠ k % 32) (v : Word) : (c.wg k v).pendOf j = c.pendOf j := by
  unfold Ctx.pendOf Ctx.wg
  split
  · rfl
  · split
    · rfl
    · simp [Ne.symm h]

theorem land_g (c : Ctx) (k : Nat) (f : Fmt) (x : Nat) : c.land (.g k f) none x =
    c.wg k (if f.isSigned then BitVec.ofInt 64 (sintOf f.width x) else BitVec.ofNat 64 x) := by
  rw [← word_wrapInt]
  rfl

end

/-! ### ST -/

section
variable {o : MOps} {s s1 t u : State} {p : Phys} {v : Nat}

/-- The context waits for the accesses a release follows (R176). -/
theorem fencedTo_of_released (h : Claims.Released s) : Claims.FencedTo s 4 := by
  obtain ⟨loads, unacked, clear⟩ := h
  exact ⟨loads, by simpa [Ctx.fenced] using unacked, clear⟩

/-- An ST with its address resolved goes on as its one store does (R174). -/
theorem exec_st_goes (hi : Issues (.st o) o.h s) (hr : (resolve .w (o.ea s.ctx) o.size).run s = .ok (p, s1))
    (hc : Claims.Clear s1 p o.size) (hf : o.ord = 2 → Claims.Released s1) (hv : Claims.Gives o s1 v t)
    (hb : (startStore p o.size (v % 2 ^ (8 * o.size))).run t = .ok ((), u)) :
    exec (.st o) s = .next (u.retired (.st o)) := by
  have queue : (queueExists o.h.s3).run s = .ok ((), s) := by
    rcases hv with ⟨k, hk, -⟩ | ⟨x, rest, hq, -⟩
    · rw [hk, act_queueExists_g]
    · rw [hq, act_queueExists_q (by decide)]
  refine issueNext_ok hi ?_
  rw [act_bind_ok queue, act_bind_ok (act_getCtx s), act_bind_ok hr]
  refine (act_releaseFence (fun ho => fencedTo_of_released (hf ho)) _).trans ?_
  rw [act_bind_ok (act_gate hc)]
  rcases hv with ⟨k, hk, rfl, rfl⟩ | ⟨x, rest, hq, h1, rfl, rfl⟩
  · simp only [hk]
    rw [resolve_ctx hr] at hb
    exact hb
  · simp only [hq]
    rw [act_bind_ok (act_popQ1 h1)]
    exact hb

/-- Popping q1 changes nothing that the accesses of the context wait for. -/
theorem ownPending_gives (hv : Claims.Gives o s v t) (ga n : Nat) : t.ownPending ga n = s.ownPending ga n := by
  rcases hv with ⟨k, -, -, rfl⟩ | ⟨x, rest, -, -, -, rfl⟩ <;> rfl

theorem startStore_copy {l : CchLine} {n x : Nat} (hd : p.isDram = true) (h : s.storeCopy p = some l)
    (hp : s.ownPending p.ga n = false) : let w := lineOp l s.ctx.cts p.ga n (.store (bytesOf n x))
    (startStore p n x).run s = .ok ((),
      (s.storeHit w.1 p.ga n).modCtx (fun c => { c with cts := if p.isHc then w.2.2.1 else c.cts })) := by
  intro w
  unfold startStore
  rw [act_bind_ok (act_get s)]
  simp only [hd, h, ↓reduceIte]
  rw [act_bind_ok (act_waitUntil (by simp [hp]) _ _ _), act_bind_ok (act_modify _ _)]
  exact act_modCtx _ _

theorem startStore_sent {n x : Nat} (h : Claims.FarStore s p) (hroom : (Claims.missed s p).ctx.posted.length + 1 ≤ 64) :
    (startStore p n x).run s = .ok ((), (Claims.missed s p).launch
      { newTxn (Claims.missed s p) (.store (bytesOf n x)) (Claims.target p) p.ga n p.pageGa with
        count := some (countFor (Claims.missed s p).core p.ga) }) := by
  cases hd : p.isDram with
  | true =>
    simp only [Claims.FarStore, hd, ↓reduceIte] at h
    have sent := startStore_home hd h n x hroom
    simpa only [Claims.target, Claims.missed, hd, ↓reduceIte, State.modHere_core] using sent
  | false =>
    simp only [Claims.FarStore, hd, Bool.false_eq_true, ↓reduceIte] at h
    simp only [Claims.missed, hd, Bool.false_eq_true, ↓reduceIte] at hroom ⊢
    simpa only [Claims.target, hd, Bool.false_eq_true, ↓reduceIte] using startStore_far hd h n x hroom

end

/-! ### The frame of a slot that retires -/

/-- What the end of an A slot changes of its context: the pc, what hangs on it, and whether its region is committed (R81). -/
theorem ctx_retired (s : State) (i : Instr) : (s.retired i).ctx = (s.ctx.commitRegion i).advance := by
  unfold State.retired
  rw [ctx_modHere_of (f := (·.count 1)) (fun _ => rfl), State.ctx_modCtx, State.ctx_modCtx]

theorem coreAt_modHere_other {s : State} {j : Nat} (h : j ≠ s.core) (f : Core → Core) :
    (s.modHere f).coreAt j = s.coreAt j := State.coreAt_modCore_other s h f

theorem coreAt_modCtx_other {s : State} {j : Nat} (h : j ≠ s.core) (f : Ctx → Ctx) :
    (s.modCtx f).coreAt j = s.coreAt j := State.coreAt_modCore_other s h _

theorem coreAt_retired {s : State} {j : Nat} (h : j ≠ s.core) (i : Instr) : (s.retired i).coreAt j = s.coreAt j :=
  calc (s.retired i).coreAt j
    _ = ((s.modCtx (·.commitRegion i)).modCtx Ctx.advance).coreAt j := coreAt_modHere_other (by exact h) _
    _ = (s.modCtx (·.commitRegion i)).coreAt j := coreAt_modCtx_other (by exact h) _
    _ = s.coreAt j := coreAt_modCtx_other h _

end Sys2Proof.Machine

open Sys2Proof.Machine in
/-- Settles O16: LD is one load (`exec_ld_goes`), made at issue on the own pool, served by a copy, or sent. -/
theorem loadCompletes : Obligations.LoadCompletes := by
  refine ⟨fun o s s1 p hi hd hr hc hroom => ⟨fun ho => ?own, fun l replica hdram hl => ?copy, fun hf => ?sent⟩,
    fun c k j f x hk => ⟨?value, ?ready, fun hj => ⟨?kept, ?waits⟩⟩⟩
  case own => exact exec_ld_goes hi hd hr hc hroom (startLoad_own ho _ _)
  case copy => exact exec_ld_goes hi hd hr hc hroom (startLoad_copy hdram hl _ _)
  case sent => exact exec_ld_goes hi hd hr hc hroom (startLoad_sent hf _ _)
  case value => rw [land_g, Ctx.rg_wg_same _ hk]
  case ready => rw [land_g, pendOf_wg_same hk]
  case kept => rw [land_g, Ctx.rg_wg_other _ hj]
  case waits => rw [land_g, pendOf_wg_other hj]

open Sys2Proof.Machine in
/-- Settles O17: ST is one store (`exec_st_goes`), made at issue on the own pool or on a held line, or posted. -/
theorem storeCompletes : Obligations.StoreCompletes := by
  intro o s s1 t p v hi hr hc hf hv
  have goes {u : State} := exec_st_goes (u := u) hi hr hc hf hv
  have pending : t.ownPending p.ga o.size = false := (ownPending_gives hv _ _).trans hc.pending
  refine ⟨fun ho => ?own, fun l hd hl => ?copy, fun hfar hroom => ?sent⟩
  case own => exact goes (startStore_own ho pending _)
  case copy => exact goes (startStore_copy hd hl pending)
  case sent => exact goes (startStore_sent hfar hroom)

open Sys2Proof.Machine in
/-- Settles O18: the store is `State.wrNat` on the own pool, and the end of the slot touches no register. -/
theorem storeFrame : Obligations.StoreFrame := by
  intro o s s1 t p k hi hord hk hr hc ho hwf ht
  have done := exec_st_goes hi hr hc (fun h => absurd h hord) (.inl ⟨k, hk, rfl, rfl⟩) (startStore_own ho hc.pending _)
  rw [resolve_ctx hr] at done
  obtain rfl := Host.Outcome.next.inj (ht.symm.trans done)
  obtain ⟨idem, hidem⟩ := commitRegion_eq s1.ctx (.st o)
  have ctx (x : Nat) : ((s1.wrNat p.ga o.size x).retired (.st o)).ctx = ({ s1.ctx with idem := idem } : Ctx).advance := by
    rw [ctx_retired, ← hidem]
    rfl
  rw [ctx]
  refine ⟨fun a ha => ?_, Memory.readNat_writeNat hwf _ _ _, Memory.wf_writeNat hwf _ _ _, rfl, rfl, rfl, rfl, rfl, rfl,
    fun j hj => (coreAt_retired hj _).trans rfl⟩
  refine (Memory.read_writeBytes hwf _ _ _).trans (if_neg ?_)
  rw [bytesOf_length]
  omega
end

section
/-! SUPPORT. Instructions of several accesses: what one access of the own pool leaves for the next, and LDM, STM, LDC, IGET and
IPUT (R182, R183, R186, R288). -/

namespace Sys2Proof.Machine

/-! ### States that answer an access of the own pool alike -/

/-- An access of the current context to its core's own pool waits in t for nothing that it does not wait for in s, and meets
the same roles and no new error. -/
structure SameWaits (s t : State) : Prop where
  core : t.core = s.core
  fc : t.fc = s.fc
  txns : t.txns = s.txns
  posted : t.ctx.posted = s.ctx.posted
  pool : ∀ space off n store, t.here.poolWaits space off n store = s.here.poolWaits space off n store
  role : ∀ space off n, t.here.inRole space off n = s.here.inRole space off n
  errs : t.errs ⊆ s.errs

namespace SameWaits
variable {s t u : State} {p : Phys} {n : Nat} {write : Bool}

theorem refl (s : State) : SameWaits s s := ⟨rfl, rfl, rfl, rfl, fun _ _ _ _ => rfl, fun _ _ _ => rfl, fun _ h => h⟩

theorem trans (h : SameWaits s t) (h' : SameWaits t u) : SameWaits s u where
  core := h'.core.trans h.core
  fc := h'.fc.trans h.fc
  txns := h'.txns.trans h.txns
  posted := h'.posted.trans h.posted
  pool := fun _ _ _ _ => (h'.pool ..).trans (h.pool ..)
  role := fun _ _ _ => (h'.role ..).trans (h.role ..)
  errs := fun _ hk => h.errs (h'.errs hk)

theorem clear (h : SameWaits s t) (hc : Claims.Clear s p n) : Claims.Clear t p n := by
  have own (k fc : Nat) : t.ownTxns k fc = s.ownTxns k fc := by
    unfold State.ownTxns
    rw [h.txns]
  obtain ⟨acquired, ordered, posted, pending⟩ := hc
  refine ⟨?_, ?_, ?_, ?_⟩
  · simpa only [State.acqOut, own, h.core, h.fc] using acquired
  · simpa only [State.inHcOrder, State.hcOut, own, h.core, h.fc] using ordered
  · simpa only [Ctx.postedOverlap, h.posted] using posted
  · simpa only [State.ownPending, own, h.core, h.fc] using pending

theorem own (h : SameWaits s t) (ho : Claims.Own s p n write) : Claims.Own t p n write := by
  obtain ⟨own, still, inRole, sound⟩ := ho
  refine ⟨?_, (h.pool ..).trans still, (h.role ..).trans inRole, fun hw => ?_⟩
  · simpa only [State.isOwn, h.core] using own
  · have sound := sound hw
    simp only [State.bad, List.any_eq_false] at sound ⊢
    exact fun k hk => sound k (h.errs hk)

theorem modCtx {f : Ctx → Ctx} (hf : (f s.ctx).posted = s.ctx.posted) : SameWaits s (s.modCtx f) where
  core := rfl
  fc := rfl
  txns := rfl
  posted := by rw [State.ctx_modCtx, hf]
  pool := fun _ _ _ _ => by
    rw [State.here_modCtx]
    rfl
  role := fun _ _ _ => by
    rw [State.here_modCtx]
    rfl
  errs := fun _ hk => hk

theorem wrNat (s : State) (a n x : Nat) : SameWaits s (s.wrNat a n x) :=
  ⟨rfl, rfl, rfl, rfl, fun _ _ _ _ => rfl, fun _ _ _ => rfl, List.filter_subset_self _⟩

theorem numbered (s : State) (n : Nat) : SameWaits s { s with nextId := n } :=
  ⟨rfl, rfl, rfl, rfl, fun _ _ _ _ => rfl, fun _ _ _ => rfl, fun _ h => h⟩

end SameWaits

theorem land_posted (c : Ctx) (d : Dest) (x : Nat) : (c.land d none x).posted = c.posted := by
  cases d with
  | g k f => exact Ctx.wg_posted ..
  | pair k => exact (Ctx.wg_posted ..).trans (Ctx.wg_posted ..)
  | none | q0 | stream => rfl

/-! ### One access -/

section
variable {s : State} {p : Phys} {n : Nat} (hc : Claims.Clear s p n)
include hc

theorem runPiece_load_own (ho : Claims.Own s p n false) (engine : Bool) (d : Dest) : (runPiece (.load p n engine d)).run s =
    .ok ((), s.modCtx (fun c => c.land d none (s.rdNat p.ga n))) := by
  unfold runPiece
  rw [act_bind_ok (act_gateLoad hc)]
  cases engine with
  | false => exact startLoad_own ho false d
  | true =>
    simp only [↓reduceIte]
    unfold engineLoad
    rw [act_bind_ok (act_get s), if_pos ho.own, ← startLoad_isOwn ho.own n false d]
    exact startLoad_own ho false d

theorem runPiece_store_own (ho : Claims.Own s p n true) (x : Nat) (claim : Option Nat) :
    (runPiece (.store p n x claim)).run s = .ok ((), s.wrNat p.ga n x) := by
  unfold runPiece
  rw [act_bind_ok (act_gate hc)]
  cases claim with
  | none => exact startStore_own ho hc.pending x
  | some id =>
    dsimp only
    unfold engineStore
    rw [act_bind_ok (act_get s), if_pos ho.own, ← startStore_isOwn ho.own n x]
    exact startStore_own ho hc.pending x

end

theorem runPieces_cons {p : Piece} {s t : State} (h : (runPiece p).run s = .ok ((), t)) (ps : List Piece) :
    runPieces (p :: ps) s = runPieces ps t := by
  rw [runPieces, h]

/-! ### Loads and stores one after the other -/

/-- Loads of n bytes each land in their destinations, in order. -/
def landEach (n : Nat) : List (Phys × Dest) → State → State
  | [], s => s
  | x :: xs, s => landEach n xs (s.modCtx (fun c => c.land x.2 none (s.rdNat x.1.ga n)))

/-- Values of n bytes each go to their addresses, in order. -/
def storeEach (n : Nat) : List (Phys × Nat) → State → State
  | [], s => s
  | x :: xs, s => storeEach n xs (s.wrNat x.1.ga n x.2)

theorem runPieces_loads {n : Nat} (engine : Bool) {l : List (Phys × Dest)} {s : State}
    (h : ∀ p ∈ l.map (·.1), Claims.Clear s p n ∧ Claims.Own s p n false) :
    runPieces (l.map (fun x => .load x.1 n engine x.2)) s = ([], landEach n l s) := by
  induction l generalizing s with
  | nil => rfl
  | cons x xs ih =>
    obtain ⟨⟨hc, ho⟩, rest⟩ := List.forall_mem_cons.1 h
    rw [List.map_cons, runPieces_cons (runPiece_load_own hc ho engine x.2)]
    have same : SameWaits s (s.modCtx (fun c => c.land x.2 none (s.rdNat x.1.ga n))) := .modCtx (land_posted ..)
    exact ih fun y hy => ⟨same.clear (rest y hy).1, same.own (rest y hy).2⟩

theorem runPieces_stores {n : Nat} {l : List ((Phys × Nat) × Option Nat)} {s : State}
    (h : ∀ p ∈ l.map (·.1.1), Claims.Clear s p n ∧ Claims.Own s p n true) :
    runPieces (l.map (fun x => .store x.1.1 n x.1.2 x.2)) s = ([], storeEach n (l.map (·.1)) s) := by
  induction l generalizing s with
  | nil => rfl
  | cons x xs ih =>
    obtain ⟨⟨hc, ho⟩, rest⟩ := List.forall_mem_cons.1 h
    rw [List.map_cons, runPieces_cons (runPiece_store_own hc ho x.1.2 x.2)]
    have same := SameWaits.wrNat s x.1.1.ga n x.1.2
    exact ih fun y hy => ⟨same.clear (rest y hy).1, same.own (rest y hy).2⟩

theorem map_mapIdx {α β γ : Type} (g : β → γ) (f : Nat → α → β) (l : List α) :
    (l.mapIdx f).map g = l.mapIdx (fun k a => g (f k a)) := by
  simp only [List.mapIdx_eq_zipIdx_map, List.map_map]
  rfl

theorem fst_mapIdx {α β : Type} (f : Nat → α → β) (l : List α) : (l.mapIdx (fun k a => (a, f k a))).map (·.1) = l := by
  induction l generalizing f with
  | nil => rfl
  | cons a l ih =>
    rw [List.mapIdx_cons, List.map_cons, ih fun k => f (k + 1)]

theorem runPieces_stores_of {n : Nat} {ps : List Phys} {l : List (Phys × Nat)} {pieces : List Piece} {s : State}
    (hps : l.map (·.1) = ps) (h : ∀ p ∈ ps, Claims.Clear s p n ∧ Claims.Own s p n true)
    (hl : l.map (fun x => .store x.1 n x.2 none) = pieces) : runPieces pieces s = ([], storeEach n l s) := by
  subst hps hl
  have all := runPieces_stores (n := n) (l := l.map (·, none)) (s := s) (by simpa only [List.map_map, Function.comp_def] using h)
  simpa only [List.map_map, Function.comp_def, List.map_id'] using all

theorem landed_eq (f : Nat) (ps : List Phys) (s : State) :
    Claims.landed f ps s = landEach 8 (ps.mapIdx (fun k p => (p, .g (f + k) .n64))) s := by
  induction ps generalizing f s with
  | nil => rfl
  | cons p ps ih =>
    rw [List.mapIdx_cons, Claims.landed, landEach, ih]
    simp only [Nat.add_zero, Nat.add_assoc, Nat.add_comm 1]

theorem gathered_eq (id n k : Nat) (ps : List Phys) (s : State) :
    Claims.gathered id n k ps s = landEach n (ps.mapIdx (fun j p => (p, .q0 id (n * (k + j)) n))) s := by
  induction ps generalizing k s with
  | nil => rfl
  | cons p ps ih =>
    rw [List.mapIdx_cons, Claims.gathered, landEach, ih]
    simp only [Nat.add_zero, Nat.add_assoc, Nat.add_comm 1]

theorem gatheredV_eq (l : List (Nat × Phys)) (s : State) :
    Claims.gatheredV l s = landEach 32 (l.map (fun x => (x.2, .q0 x.1 0 32))) s := by
  induction l generalizing s with
  | nil => rfl
  | cons x xs ih => exact ih _

theorem stored_eq (c : Ctx) (f : Nat) (ps : List Phys) (s : State) :
    Claims.stored c f ps s = storeEach 8 (ps.mapIdx (fun k p => (p, (c.rg (f + k)).toNat))) s := by
  induction ps generalizing f s with
  | nil => rfl
  | cons p ps ih =>
    rw [List.mapIdx_cons, Claims.stored, storeEach, ih]
    simp only [Nat.add_zero, Nat.add_assoc, Nat.add_comm 1]

theorem scattered_eq (v n k : Nat) (ps : List Phys) (s : State) : Claims.scattered v n k ps s =
    storeEach n (ps.mapIdx (fun j p => (p, bits v (8 * n * (k + j) + 8 * n - 1) (8 * n * (k + j))))) s := by
  induction ps generalizing k s with
  | nil => rfl
  | cons p ps ih =>
    rw [List.mapIdx_cons, Claims.scattered, storeEach, ih]
    simp only [Nat.add_zero, Nat.add_assoc, Nat.add_comm 1]

theorem scatteredV_eq (l : List (Phys × V256)) (s : State) :
    Claims.scatteredV l s = storeEach 32 (l.map (fun x => (x.1, x.2.toNat))) s := by
  induction l generalizing s with
  | nil => rfl
  | cons x xs ih => exact ih _

/-! ### The acts before the accesses -/

section
variable {s t : State} {n m : Nat}

theorem act_ownRanges {ps : List Phys} (h : ∀ p ∈ ps, s.here.inRole (gaSpace p.ga) (gaOff p.ga) n = true) :
    (ownRanges n ps).run s = .ok ((), s) := by
  induction ps with
  | nil => rfl
  | cons p ps ih =>
    obtain ⟨hp, rest⟩ := List.forall_mem_cons.1 h
    unfold ownRanges
    rw [act_bind_ok (act_ownRange hp)]
    exact ih rest

theorem indexed_length {kind : Kind} {b z gx k : Nat} {ps : List Phys}
    (h : (indexed kind b z gx m k).run s = .ok (ps, t)) : ps.length = m := by
  induction m generalizing k s ps t with
  | zero =>
    cases h
    rfl
  | succ m ih =>
    unfold indexed at h
    obtain ⟨_, _, -, h⟩ := act_bind_inv h
    obtain ⟨_, _, -, h⟩ := act_bind_inv h
    obtain ⟨_, _, -, h⟩ := act_bind_inv h
    obtain ⟨_, _, hl, h⟩ := act_bind_inv h
    cases h
    exact congrArg (· + 1) (ih hl)

theorem reserveQ0_sameWaits {need id : Nat} (h : (reserveQ0 need).run s = .ok (id, t)) : SameWaits s t := by
  unfold reserveQ0 at h
  rw [act_bind_ok (act_getCtx s)] at h
  obtain ⟨_, _, hw, h⟩ := act_bind_inv h
  cases act_waitUntil_inv hw
  rw [act_bind_ok (act_newId s), act_bind_ok (act_modCtx _ _)] at h
  cases h
  exact (SameWaits.numbered s _).trans (.modCtx rfl)

theorem reserveAll_sameWaits {ids : List Nat} (h : (reserveAll m).run s = .ok (ids, t)) : SameWaits s t := by
  induction m generalizing s ids t with
  | zero =>
    cases h
    exact .refl s
  | succ m ih =>
    unfold reserveAll at h
    obtain ⟨_, _, hq, h⟩ := act_bind_inv h
    obtain ⟨_, _, hl, h⟩ := act_bind_inv h
    cases h
    exact (reserveQ0_sameWaits hq).trans (ih hl)

/-- Entries popped one after the other leave q1 as one change does. -/
theorem act_popAll_modCtx (vs rest : List V256) (s : State) :
    (popAll vs.length).run (s.modCtx (fun c => { c with q1 := vs ++ rest })) =
      .ok (vs, s.modCtx (fun c => { c with q1 := rest })) := by
  induction vs with
  | nil => rfl
  | cons v vs ih =>
    rw [List.length_cons, popAll, act_bind_ok (act_popQ1 (v := v) (rest := vs ++ rest) (by simp)), State.modCtx_modCtx,
      act_bind_ok ih]
    rfl

theorem act_popAll {vs rest : List V256} (h : s.ctx.q1 = vs ++ rest) (hm : vs.length = m + 1) :
    (popAll (m + 1)).run s = .ok (vs, s.modCtx (fun c => { c with q1 := rest })) := by
  cases vs with
  | nil => cases hm
  | cons v vs =>
    obtain rfl : vs.length = m := Nat.succ.inj hm
    rw [popAll, act_bind_ok (act_popQ1 (rest := vs ++ rest) h), act_bind_ok (act_popAll_modCtx vs rest s)]
    rfl

/-- A store of the pool claims no line (R288). -/
theorem claimFor_pool {p : Phys} (h : p.isDram = false) (id : Nat) : s.claimFor id p = s := by
  unfold State.claimFor
  simp only [h, Bool.not_false, Bool.true_or, ↓reduceIte]

/-- Stores of the own pool take a number each, and claim nothing (R288). -/
theorem act_claimAll {l : List (Phys × Nat)} (h : ∀ x ∈ l, x.1.isDram = false) : ∃ r : List ((Phys × Nat) × Option Nat),
    r.map (·.1) = l ∧ (claimAll n l).run s =
      .ok (r.map (fun x => .store x.1.1 n x.1.2 x.2), { s with nextId := s.nextId + l.length }) := by
  induction l generalizing s with
  | nil => exact ⟨[], rfl, rfl⟩
  | cons x xs ih =>
    obtain ⟨hx, rest⟩ := List.forall_mem_cons.1 h
    obtain ⟨r, rfl, hr⟩ := ih (s := { s with nextId := s.nextId + 1 }) rest
    refine ⟨(x, some s.nextId) :: r, rfl, ?_⟩
    unfold claimAll
    rw [act_bind_ok (act_newId s), act_bind_ok (act_modify _ _), claimFor_pool hx, act_bind_ok hr]
    simp only [List.length_cons, Nat.add_assoc, Nat.add_comm 1]
    rfl

end

/-- Stores of the own pool that take a number each make their values' bytes one after the other (R288). -/
theorem claimed_stores {n : Nat} {l : List (Phys × Nat)} (h : ∀ p ∈ l.map (·.1), Claims.Clear s p n ∧ Claims.Own s p n true) :
    ∃ pieces, (claimAll n l).run s = .ok (pieces, { s with nextId := s.nextId + l.length }) ∧
      runPieces pieces { s with nextId := s.nextId + l.length } =
        ([], storeEach n l { s with nextId := s.nextId + l.length }) := by
  obtain ⟨r, rfl, hr⟩ := act_claimAll (s := s) (n := n) (l := l)
    (fun x hx => notDram_of_isOwn (h x.1 (List.mem_map_of_mem hx)).2.own)
  have same := SameWaits.numbered s (s.nextId + (r.map (·.1)).length)
  refine ⟨_, hr, runPieces_stores fun p hp => ?_⟩
  have hp := h p (by simpa only [List.map_map, Function.comp_def] using hp)
  exact ⟨same.clear hp.1, same.own hp.2⟩

/-! ### The instructions -/

section
variable {i : Instr} {h : Hd} {s s1 t : State} {start : Act (List Piece)} {ps : List Piece}

/-- An instruction none of whose accesses waits makes them all at once. -/
theorem issue_movePieces_all (hi : Issues i h s) (hbegun : s.ctx.moving = []) (hstart : start.run s = .ok (ps, s1))
    (hall : runPieces ps s1 = ([], t)) : issue i h (movePieces start) s = .next ((Claims.whole t).retired i) :=
  issue_movePieces hi hbegun hstart hall.symm

theorem exec_several {o : MOps} (hs : Claims.several i = some o) :
    ∃ start, ∀ s, exec i s = issue i o.h (movePieces start) s := by
  cases i with
  | ldm | stm | iget | iput | flush | inv =>
    cases hs
    exact ⟨_, fun _ => rfl⟩
  | _ => cases hs

theorem several_not_idem {o : MOps} (hs : Claims.several i = some o) (a : AOps) : i ≠ .idem a := by
  rintro rfl
  cases hs

/-- An instruction that has begun makes the accesses that are left, and names none anew (R182). -/
theorem exec_several_continues {o : MOps} (hs : Claims.several i = some o) (hc : Claims.Continues i o.h s)
    {r : List Piece × State} (hr : runPieces s.ctx.moving s = r) :
    exec i s = .next (if r.1 = [] then (Claims.whole r.2).retired i
      else (r.2.modCtx (fun c => { c with moving := r.1 })).modCtx (·.stallOn .memory false r.2.now)) := by
  obtain ⟨start, hexec⟩ := exec_several hs
  obtain ⟨can, allowed, pred, mode, begun⟩ := hc
  subst hr
  have body : (movePieces start).run s = (do
      set ((runPieces s.ctx.moving s).2.modCtx (fun c => { c with moving := (runPieces s.ctx.moving s).1 }))
      if (runPieces s.ctx.moving s).1.isEmpty then return .next
      modCtx (·.stallOn .memory false (runPieces s.ctx.moving s).2.now)
      return .hold : Act Flow).run s := by
    unfold movePieces
    rw [act_bind_ok (act_getCtx s)]
    simp only [List.isEmpty_iff, begun, ↓reduceIte]
    rw [act_bind_ok (act_pure _ s), act_bind_ok (act_get s)]
  have slot : (slotAct i o.h (movePieces start)).run s = ((movePieces start) >>= issued i).run s := by
    unfold slotAct
    rw [act_bind_ok (act_getCtx s)]
    simp only [allowed, pred, Bool.not_true, Bool.false_eq_true, ↓reduceIte, List.isEmpty_iff, begun]
    rw [act_bind_ok (act_modeCheck (mode.imp id fun ⟨hx, hq⟩ => ⟨hx, hq, several_not_idem hs⟩) s), act_bind_ok (act_pendingCheck (by simp) s)]
  rw [hexec, issue, if_pos can, slot, act_bind, body]
  by_cases hdone : (runPieces s.ctx.moving s).1 = []
  · rw [act_bind_ok (act_set _ s), if_pos hdone, hdone]
    rfl
  · rw [act_bind_ok (act_set _ s), if_neg hdone, if_neg (by simpa using hdone)]
    rfl

end

section
variable {s s1 : State} {ps : List Phys}

section
variable {o : MOps} (hbegun : s.ctx.moving = [])
include hbegun

theorem exec_ldm_own (hi : Issues (.ldm o) o.h s)
    (hps : (resolveWords .r (o.base s.ctx) (o.h.s2.index + 1 - o.h.d.index)).run s = .ok (ps, s1))
    (hown : ∀ p ∈ ps, Claims.Clear s1 p 8 ∧ Claims.Own s1 p 8 false) :
    exec (.ldm o) s = .next ((Claims.whole (Claims.landed o.h.d.index ps s1)).retired (.ldm o)) := by
  refine issue_movePieces_all hi hbegun ((act_bind_ok (act_getCtx s) _).trans (act_bind_ok hps _)) ?_
  rw [landed_eq, ← runPieces_loads false (by rwa [fst_mapIdx]), map_mapIdx]

theorem exec_stm_own (hi : Issues (.stm o) o.h s)
    (hps : (resolveWords .w (o.base s.ctx) (o.h.s2.index + 1 - o.h.s3.index)).run s = .ok (ps, s1))
    (hown : ∀ p ∈ ps, Claims.Clear s1 p 8 ∧ Claims.Own s1 p 8 true) :
    exec (.stm o) s = .next ((Claims.whole (Claims.stored s.ctx o.h.s3.index ps s1)).retired (.stm o)) := by
  refine issue_movePieces_all hi hbegun ((act_bind_ok (act_getCtx s) _).trans ((act_bind_ok hps _).trans
    (act_bind_ok (act_ownRanges fun p hp => (hown p hp).2.inRole) _))) ?_
  rw [stored_eq]
  exact runPieces_stores_of (fst_mapIdx ..) hown (map_mapIdx ..)

section
variable (hi : Issues (.iget o) o.h s) (hd : o.h.d = .q 0)
  (hps : (indexed .r (o.base s.ctx) o.size (s.ctx.rg o.h.s2.index).toNat (if o.v then 8 else 32 / o.size) 0).run s = .ok (ps, s1))
  (hown : ∀ p ∈ ps, Claims.Clear s1 p o.size ∧ Claims.Own s1 p o.size false)
include hi hd hps hown

theorem exec_iget_elements (hv : o.v = false) (hroom : s1.ctx.q0.length < 32) : exec (.iget o) s = .next
    ((Claims.whole (Claims.gathered s1.nextId o.size 0 ps (s1.reserving (32 / o.size)))).retired (.iget o)) := by
  refine issue_movePieces_all hi hbegun (s1 := s1.reserving (32 / o.size))
    (ps := ps.mapIdx (fun k p => .load p o.size true (.q0 s1.nextId (o.size * k) o.size))) ?names ?makes
  case names =>
    rw [hd, act_bind_ok (act_queueExists_q (by decide) s), act_bind_ok (act_getCtx s), act_bind_ok hps]
    simp only [hv, Bool.false_eq_true, ↓reduceIte]
    exact act_bind_ok (act_reserveQ0 hroom _) _
  case makes =>
    have same := reserveQ0_sameWaits (act_reserveQ0 hroom (32 / o.size))
    simp only [gathered_eq, Nat.zero_add]
    rw [← runPieces_loads true, map_mapIdx]
    rw [fst_mapIdx]
    exact fun p hp => ⟨same.clear (hown p hp).1, same.own (hown p hp).2⟩

theorem exec_iget_entries {ids : List Nat} {t : State} (hv : o.v = true) (h32 : o.size = 32)
    (hids : (reserveAll 8).run s1 = .ok (ids, t)) :
    exec (.iget o) s = .next ((Claims.whole (Claims.gatheredV (ids.zip ps) t)).retired (.iget o)) := by
  refine issue_movePieces_all hi hbegun (s1 := t)
    (ps := (ids.zip ps).map (fun x => .load x.2 32 true (.q0 x.1 0 32))) ?names ?makes
  case names =>
    rw [hd, act_bind_ok (act_queueExists_q (by decide) s), act_bind_ok (act_getCtx s), act_bind_ok hps]
    simp only [hv, ↓reduceIte]
    exact act_bind_ok hids _
  case makes =>
    have same := reserveAll_sameWaits hids
    rw [h32] at hown
    rw [gatheredV_eq, ← runPieces_loads true, List.map_map]
    · rfl
    · intro p hp
      simp only [List.map_map, List.mem_map] at hp
      obtain ⟨x, hx, rfl⟩ := hp
      have hx := hown x.2 (List.of_mem_zip hx).2
      exact ⟨same.clear hx.1, same.own hx.2⟩

end

section
variable (hi : Issues (.iput o) o.h s) (hd : o.h.s3 = .q 1)
  (hps : (indexed .w (o.base s.ctx) o.size (s.ctx.rg o.h.s2.index).toNat (if o.v then 8 else 32 / o.size) 0).run s = .ok (ps, s1))
  (hown : ∀ p ∈ ps, Claims.Clear s1 p o.size ∧ Claims.Own s1 p o.size true)
include hi hd hps hown

/-- IPUT pops what it stores, and stores it at its addresses (R186). -/
theorem exec_iput_own {rest : List V256} {l : List (Phys × Nat)} (hl : l.map (·.1) = ps)
    (hpop : (if o.v then do
        let vs ← popAll 8
        claimAll o.size (ps.zip (vs.map (·.toNat)))
      else do
        let v ← popQ1
        claimAll o.size (ps.mapIdx (fun k p =>
          (p, bits v.toNat (8 * o.size * k + 8 * o.size - 1) (8 * o.size * k)))) : Act (List Piece)).run s1 =
      (claimAll o.size l).run (s1.modCtx (fun c => { c with q1 := rest }))) :
    exec (.iput o) s = .next ((Claims.whole (storeEach o.size l
      (({ s1 with nextId := s1.nextId + ps.length } : State).modCtx (fun c => { c with q1 := rest })))).retired (.iput o)) := by
  have same : SameWaits s1 (s1.modCtx (fun c => { c with q1 := rest })) := .modCtx rfl
  obtain ⟨pieces, hnames, hmakes⟩ := claimed_stores (n := o.size) (l := l) (s := s1.modCtx (fun c => { c with q1 := rest }))
    (by rw [hl]; exact fun p hp => ⟨same.clear (hown p hp).1, same.own (hown p hp).2⟩)
  have length : l.length = ps.length := by rw [← hl, List.length_map]
  refine issue_movePieces_all hi hbegun (ps := pieces) ?names (hmakes.trans ?makes)
  case names =>
    rw [hd, act_bind_ok (act_queueExists_q (by decide) s), act_bind_ok (act_getCtx s), act_bind_ok hps,
      act_bind_ok (act_ownRanges fun p hp => (hown p hp).2.inRole)]
    exact hpop.trans hnames
  case makes =>
    rw [length]
    rfl

theorem exec_iput_elements {v : V256} {rest : List V256} (hv : o.v = false) (hq : s1.ctx.q1 = v :: rest) :
    exec (.iput o) s = .next ((Claims.whole (Claims.scattered v.toNat o.size 0 ps
      (({ s1 with nextId := s1.nextId + ps.length } : State).modCtx (fun c => { c with q1 := rest })))).retired (.iput o)) := by
  simp only [scattered_eq, Nat.zero_add]
  refine exec_iput_own hbegun hi hd hps hown (fst_mapIdx ..) ?_
  simp only [hv, Bool.false_eq_true, ↓reduceIte]
  exact act_bind_ok (act_popQ1 hq) _

theorem exec_iput_entries {vs rest : List V256} (hv : o.v = true) (h32 : o.size = 32) (hq : s1.ctx.q1 = vs ++ rest)
    (h8 : vs.length = 8) : exec (.iput o) s = .next ((Claims.whole (Claims.scatteredV (ps.zip vs)
      (({ s1 with nextId := s1.nextId + ps.length } : State).modCtx (fun c => { c with q1 := rest })))).retired (.iput o)) := by
  have length : ps.length = 8 := by simpa [hv] using indexed_length hps
  rw [scatteredV_eq]
  have stores := exec_iput_own hbegun hi hd hps hown (rest := rest) (l := ps.zip (vs.map (·.toNat)))
    (by rw [List.map_fst_zip]; simp [length, h8])
    (by simp only [hv, ↓reduceIte]; exact act_bind_ok (act_popAll hq h8) _)
  rw [h32, List.zip_map_right] at stores
  exact stores

end

end

/-- LDC writes D with the word of the window at W plus the index register (R183). -/
theorem exec_ldc {o : AOps} {v : Word} (hi : Issues (.ldc o) o.h s)
    (hx : bits o.ext.toNat 16 0 + (s.ctx.rg o.h.s2.index).toNat ≤ 0x1FFFF)
    (hr : (readWindow (bits o.ext.toNat 19 17) (bits o.ext.toNat 16 0 + (s.ctx.rg o.h.s2.index).toNat)).run s = .ok (v, s1)) :
    exec (.ldc o) s = .next ((s1.modCtx (·.wg o.h.d.index v)).retired (.ldc o)) := by
  refine issueNext_ok hi ?_
  rw [act_bind_ok (act_readGReg _ s), act_bind_ok (act_unlessFault (by simpa using hx) _ _ s), act_bind_ok hr, act_writeD]

end

end Sys2Proof.Machine

open Sys2Proof.Machine in
/-- Settles O19: each instruction names its accesses, of which none waits on the own pool (`issue_movePieces_all`), and one that
has begun goes on with those that are left (`exec_several_continues`). -/
theorem multipleWords : Obligations.MultipleWords := by
  refine ⟨fun s s1 ps => ⟨fun o hi hb hps hown => exec_ldm_own hb hi hps hown,
    fun o hi hb hps hown => exec_stm_own hb hi hps hown, fun o v => exec_ldc,
    fun i o hs hc => exec_several_continues hs hc rfl⟩, fun o s s1 ps hb => ⟨fun hi hd hps hown => ⟨?_, ?_⟩,
    fun hi hd hps hown => ⟨?_, ?_⟩⟩⟩
  · exact fun hv hroom => exec_iget_elements hb hi hd hps hown hv hroom
  · exact fun ids t hv h32 hids => exec_iget_entries hb hi hd hps hown hv h32 hids
  · exact fun v rest hv hq => exec_iput_elements hb hi hd hps hown hv hq
  · exact fun vs rest hv h32 hq h8 => exec_iput_entries hb hi hd hps hown hv h32 hq h8
end

section
/-! SUPPORT. SCNT, FENCE, PREF, FLUSH and INV (R179 to R181, R184, R185). -/

namespace Sys2Proof.Machine

/-! ### SCNT and FENCE -/

section
variable {o : MOps} {s : State}

theorem exec_scnt (hi : Issues (.scnt o) o.h s) : exec (.scnt o) s = .next ((s.modCtx (·.wg o.h.d.index (BitVec.ofNat 64
    (s.ctx.countSys * 2 ^ 32 + s.ctx.countPkg * 2 ^ 16 + s.ctx.countClu)))).retired (.scnt o)) :=
  issueNext_ok hi (by rw [act_bind_ok (act_getCtx s), act_writeD]; rfl)

/-- An earlier load that has not returned holds a fence back (R181). -/
theorem act_fence_loads (h : s.loadsOut = true) (n : Nat) : (fence n).run s = .error (.wait .fence false) := by
  unfold fence
  rw [act_bind_ok (act_get s), act_bind_error (act_waitUntil_false (by simp [h]) _ _ _)]

end

/-! ### Addresses that may lead nowhere -/

section
variable {s s1 : State} {kind : Kind} {ea : Nat} {p : Phys}
  (hwalk : s.walkWaits (.core s.core) (s.effPtroot s.ctx.rcb) ea = false)
include hwalk

theorem act_whereIn (ht : translate s (.core s.core) (s.effPtroot s.ctx.rcb) kind ea = .ok (p, s1))
    (hr : p.inReclass s1 = false) : (whereIn kind ea).run s = .ok (some p, s1) := by
  unfold whereIn
  rw [act_bind_ok (act_get s), act_bind_ok (act_waitUntil (by simp [hwalk]) _ _ _)]
  simp only [ht]
  rw [act_bind_ok (act_waitUntil (by simp [hr]) _ _ _)]
  rfl

/-- An address that does not translate leads nowhere, and its walk is counted (R184, R387). -/
theorem act_whereIn_nowhere {e : Refused} (ht : translate s (.core s.core) (s.effPtroot s.ctx.rcb) kind ea = .error e) :
    (whereIn kind ea).run s = .ok (none,
      if walkRefused e.1 ea then s.walked (.core s.core) (s.effPtroot s.ctx.rcb) ea else s) := by
  unfold whereIn
  rw [act_bind_ok (act_get s), act_bind_ok (act_waitUntil (by simp [hwalk]) _ _ _)]
  simp only [ht]
  split <;> rfl

end

/-! ### PREF -/

section
variable {o : MOps} {s s1 : State} {p : Phys} (hi : Issues (.pref o) o.h s) (hacq : s.acqOut = false)
  (hwalk : s.walkWaits (.core s.core) (s.effPtroot s.ctx.rcb) (o.ea s.ctx) = false)
include hi hacq hwalk

theorem exec_pref_nowhere {e : Refused}
    (ht : translate s (.core s.core) (s.effPtroot s.ctx.rcb) .r (o.ea s.ctx) = .error e) : exec (.pref o) s = .next
      ((if walkRefused e.1 (o.ea s.ctx) then s.walked (.core s.core) (s.effPtroot s.ctx.rcb) (o.ea s.ctx) else s).retired
        (.pref o)) := by
  refine issueNext_ok hi ?_
  rw [act_bind_ok (act_acquired hacq), act_bind_ok (act_get s), act_bind_ok (act_whereIn_nowhere hwalk ht)]
  rfl

/-- A line that the core may load and cache, and does not hold, is sent for (R184). -/
theorem exec_pref_fills {t : Tlb} (ht : translate s (.core s.core) (s.effPtroot s.ctx.rcb) .r (o.ea s.ctx) = .ok (p, s1))
    (hr : p.inReclass s1 = false) (hp : p.page = some t) (hsp : gaSpace p.ga = 0)
    (hcheck : pageCheck s1 s1.ctx.mode s1.core .r t = .ok ()) (hcache : s1.caches s1.core p.cls p.ga p.pageGa = true)
    (hmiss : s1.here.findLine (lineOf p.ga) = none) : exec (.pref o) s = .next
      ((s1.launch (newTxn s1 .fill (.dram p.cls) (lineOf p.ga) 64 p.pageGa)).retired (.pref o)) := by
  refine issueNext_ok hi ?_
  rw [act_bind_ok (act_acquired hacq), act_bind_ok (act_get s), act_bind_ok (act_whereIn hwalk ht hr)]
  dsimp only
  rw [act_bind_ok (act_get s1)]
  simp only [hsp, hp, Option.map_some, hcheck, hcache, hmiss, beq_self_eq_true, Bool.and_self, Option.isNone_none, ↓reduceIte]
  exact act_modify _ s1

end

/-! ### FLUSH and INV -/

section
variable {i : Instr} {o : MOps} {s s1 u : State} {kind : Kind} {p : Phys} {t : Tlb} {a n : Nat}

/-- The lines of a chunk that the core holds (R185). -/
theorem act_cacheChunk (hwalk : s.walkWaits (.core s.core) (s.effPtroot s.ctx.rcb) (a % 2 ^ 64) = false)
    (ht : translate s (.core s.core) (s.effPtroot s.ctx.rcb) kind (a % 2 ^ 64) = .ok (p, s1)) (hr : p.inReclass s1 = false)
    (hp : p.page = some t) (hperm : t.permits s1.ctx.mode kind = true) (inv : Bool) :
    (cacheChunk inv kind a n).run s = .ok
      ((s1.here.lines.filter (fun l => overlap l.addr 64 p.ga n)).map (fun l => .flush l.addr t.pageGa inv), s1) := by
  unfold cacheChunk
  rw [act_bind_ok (act_whereIn hwalk ht hr)]
  simp only [hp]
  rw [act_bind_ok (act_getCtx s1), act_bind_ok (act_unlessFault hperm _ _ _), act_bind_ok (act_getCore s1)]
  rfl

/-- A scan of one chunk whose lines are all dealt with goes on. -/
theorem issue_cacheScan (hi : Issues i o.h s) (hbegun : s.ctx.moving = []) (hacq : s.acqOut = false)
    (hchunk : chunks (o.ea s.ctx) (s.ctx.rg o.h.s3.index).toNat = [(a, n)])
    (hwalk : s.walkWaits (.core s.core) (s.effPtroot s.ctx.rcb) (a % 2 ^ 64) = false)
    (ht : translate s (.core s.core) (s.effPtroot s.ctx.rcb) kind (a % 2 ^ 64) = .ok (p, s1)) (hr : p.inReclass s1 = false)
    (hp : p.page = some t) (hperm : t.permits s1.ctx.mode kind = true) {inv : Bool} {held : List CchLine}
    (hheld : s1.here.lines.filter (fun l => overlap l.addr 64 p.ga n) = held)
    (hall : runPieces (held.map (fun l => .flush l.addr t.pageGa inv)) s1 = ([], u)) :
    issue i o.h (cacheScan inv kind o) s = .next ((Claims.whole u).retired i) := by
  subst hheld
  refine issue_movePieces_all hi hbegun ?_ hall
  rw [act_bind_ok (act_acquired hacq), act_bind_ok (act_getCtx s), hchunk]
  unfold cacheChunks
  have last : (cacheChunks inv kind []).run s1 = .ok ([], s1) := rfl
  rw [act_bind_ok (act_cacheChunk hwalk ht hr hp hperm inv), act_bind_ok last, List.append_nil]
  rfl

variable {l : CchLine} {page : Nat} (hl : s.here.findLine l.addr = some l)
include hl

theorem runPiece_flush_clean (hd : l.dirty = 0) : (runPiece (.flush l.addr page false)).run s = .ok ((), s) := by
  unfold runPiece
  rw [act_bind_ok (act_getCore s)]
  simp only [hl, hd, bne_self_eq_false, Bool.false_eq_true, ↓reduceIte]
  rfl

theorem runPiece_inv_clean (hd : l.dirty = 0) :
    (runPiece (.flush l.addr page true)).run s = .ok ((), s.evict s.core l) := by
  unfold runPiece
  rw [act_bind_ok (act_getCore s)]
  simp only [hl, hd, bne_self_eq_false, Bool.false_eq_true, ↓reduceIte]
  exact act_modify _ s

/-- A dirty line's write-back is posted and counted (R185). -/
theorem runPiece_flush_dirty (hd : l.dirty ≠ 0) (hroom : s.ctx.posted.length + 1 ≤ 64) (inv : Bool) :
    (runPiece (.flush l.addr page inv)).run s = .ok ((), s.launch { newTxn s (.flush inv) (.dram l.cls) l.addr 64 page with
      count := some (countFor s.core l.addr) }) := by
  unfold runPiece
  rw [act_bind_ok (act_getCore s)]
  simp only [hl, bne_iff_ne.2 hd, ↓reduceIte]
  exact act_post hroom _ _ _ _ _

end

end Sys2Proof.Machine

open Sys2Proof.Machine in
/-- Settles O20: a fence by what it waits for, PREF by where its address leads, and FLUSH and INV by the one line they find
(`issue_cacheScan`). -/
theorem fencesAndCaches : Obligations.FencesAndCaches := by
  refine ⟨fun o s => ⟨exec_scnt, fun hi h1 h2 h3 => issueNext_ok hi (act_fence ⟨h1, h2, h3⟩),
    fun hi h => issueNext_wait hi (act_fence_loads h _), fun ga cause hi h1 h2 h3 => issueNext_trap hi (act_fence_error h1 h2 h3)⟩,
    fun o s s1 p t a n l hacq => ⟨fun e hi hw ht => exec_pref_nowhere hi hacq hw ht,
      fun hi hw ht hr hp hsp hc hcache hm => exec_pref_fills hi hacq hw ht hr hp hsp hc hcache hm,
      fun hb hchunk hw hp hr => ⟨fun hi ht hperm => ?flush, fun hi ht hperm => ?inv⟩⟩⟩
  case flush =>
    have scan {u : State} {held : List CchLine} := issue_cacheScan (u := u) (held := held) (inv := false) hi hb hacq hchunk hw
      ht hr hp hperm
    exact ⟨fun h => scan h rfl, fun h hl hd => scan h (runPieces_cons (runPiece_flush_clean hl hd) []),
      fun h hl hd hroom => scan h (runPieces_cons (runPiece_flush_dirty hl hd hroom false) [])⟩
  case inv =>
    have scan {u : State} {held : List CchLine} := issue_cacheScan (u := u) (held := held) (inv := true) hi hb hacq hchunk hw
      ht hr hp hperm
    exact ⟨fun h => scan h rfl, fun h hl hd => scan h (runPieces_cons (runPiece_inv_clean hl hd) []),
      fun h hl hd hroom => scan h (runPieces_cons (runPiece_flush_dirty hl hd hroom true) [])⟩
end

section
/-! SUPPORT. An access performed at its pool or decided at its line's home, and the recalls of a line (R171, R270, R275, R276,
R282, R288, R291). -/

namespace Sys2Proof.Machine

/-! ### At a pool -/

section
variable {s : State} {id : Nat} {t : Txn}

theorem exec_remoteAccessPerform (h : Claims.Travels s id t) (htarget : t.target = .pool)
    (hslot : ∀ r a n m b, t.op ≠ .slot r a n m b) : exec (.remoteAccessPerform id) s = .next (s.performPool id t) := by
  show Host.Outcome.next _ = _
  rw [withTxn_some h.known, if_pos ?guard, State.performAt, htarget]
  case guard =>
    simp [h.travelling, h.near, htarget]
  simp only [h.first, Bool.false_eq_true, ↓reduceIte]

theorem performPool_denied (h : s.poolAllowed t.core t.rcb (gaCore t.ga) = false) :
    s.performPool id t = s.setTxn id { t with stage := .failed cPERM_DENIED } := by
  simp only [State.performPool, h, Bool.not_false, ↓reduceIte]

section
variable (hallowed : s.poolAllowed t.core t.rcb (gaCore t.ga) = true)
include hallowed

theorem performPool_waits
    (h : (s.coreAt (gaCore t.ga)).poolWaits (gaSpace t.ga) (gaOff t.ga) t.size (!t.op.isLoad) = true) :
    s.performPool id t = s := by
  simp only [State.performPool, hallowed, h, Bool.not_true, Bool.false_eq_true, ↓reduceIte]

variable (hstill : (s.coreAt (gaCore t.ga)).poolWaits (gaSpace t.ga) (gaOff t.ga) t.size (!t.op.isLoad) = false)
include hstill

theorem performPool_outside (h : (s.coreAt (gaCore t.ga)).inRole (gaSpace t.ga) (gaOff t.ga) t.size = false) :
    s.performPool id t = s.setTxn id { t with stage := .failed cPOOL_RANGE } := by
  simp only [State.performPool, hallowed, hstill, h, Bool.not_true, Bool.not_false, Bool.false_eq_true, ↓reduceIte]

variable (hin : (s.coreAt (gaCore t.ga)).inRole (gaSpace t.ga) (gaOff t.ga) t.size = true)
include hin

/-- A load of uncorrectable data is refused (R386). -/
theorem performPool_unsound (hop : t.op = .load) (hbad : s.bad t.ga t.size = true) :
    s.performPool id t = s.setTxn id { t with stage := .failed cMACHINE_UE } := by
  rw [hop] at hstill
  simp only [State.performPool, hallowed, hstill, hin, hop, hbad, Bool.not_true, Bool.not_false, Bool.and_self,
    Bool.false_eq_true, ↓reduceIte]

/-- An operation that sends no wake is made, and the access is done (R171). -/
theorem performPool_done {u : State} {old : Nat} (hbad : s.bad t.ga t.size = false)
    (hop : s.applyOp t.ga t.size t.op = (u, old, false)) :
    s.performPool id t = u.setTxn id { t with value := bytesOf t.size old, stage := .done } := by
  simp only [State.performPool, hallowed, hstill, hin, hop, hbad, Bool.not_true, Bool.false_and, Bool.false_eq_true, ↓reduceIte,
    State.performed]

end

theorem applyOp_load (s : State) (key size : Nat) : s.applyOp key size .load = (s, s.rdNat key size, false) := rfl

/-- An operation that stores a value, and is no zero-fire, writes it and sends no wake (R294). -/
theorem applyOp_newValue {op : TxnOp} {key size x : Nat} (h : Claims.newValue op (s.rdNat key size) = some x) :
    s.applyOp key size op = (s.wrNat key size x, s.rdNat key size, false) := by
  have stores : op.stores (s.rdNat key size) = some x := by
    unfold Claims.newValue at h
    split at h
    · exact h
    · exact h
    · exact h
    · cases h
  have quiet : ∀ o f rm v, op ≠ .amo o f rm v true := by
    rintro o f rm v rfl
    cases h
  have state : (s.applyOp key size op).1 = s.wrNat key size x := by
    unfold State.applyOp
    simp only [stores]
  exact Prod.ext state (Prod.ext (State.applyOp_old ..) (State.applyOp_fired quiet))

end

/-! ### At a home -/

section
variable (s : State) (ga n : Nat)

@[simp] theorem homeAt_sliceFill (line : Nat) : (s.sliceFill ga n).homeAt line = s.homeAt line := by
  obtain ⟨quads, fresh, he⟩ := sliceFill_eq s ga n
  rw [he]
  rfl

@[simp] theorem coreAt_sliceFill (k : Nat) : (s.sliceFill ga n).coreAt k = s.coreAt k := by
  obtain ⟨quads, fresh, he⟩ := sliceFill_eq s ga n
  rw [he]
  rfl

@[simp] theorem bad_sliceFill (a m : Nat) : (s.sliceFill ga n).bad a m = s.bad a m := by
  obtain ⟨quads, fresh, he⟩ := sliceFill_eq s ga n
  rw [he]
  rfl

@[simp] theorem rdNat_sliceFill (a m : Nat) : (s.sliceFill ga n).rdNat a m = s.rdNat a m := by
  unfold State.rdNat
  rw [sliceFill_mem]

@[simp] theorem rdNat_setHome (line : Nat) (h : Home) : (s.setHome line h).rdNat ga n = s.rdNat ga n := rfl

@[simp] theorem rdNat_renewed (line : Nat) (hc : Bool) : (s.renewed line hc).rdNat ga n = s.rdNat ga n := by
  cases hc <;> rfl

end

section
variable {s : State} {id : Nat} {t : Txn} {cls : Cls}

theorem exec_homeRequest (h : Claims.Travels s id t) (htarget : t.target = .dram cls) (hflush : ∀ b, t.op ≠ .flush b) :
    exec (.homeRequest id) s = .next (s.homeDecide id t cls) := by
  show Host.Outcome.next _ = _
  rw [withTxn_some h.known, if_pos (by simp only [h.travelling, h.near, htarget, beq_self_eq_true, Bool.and_self]),
    State.performAt, htarget]
  dsimp only
  split
  · exact absurd ‹_› (hflush _)
  · rfl

/-- A claim, a held line or a copy to recall leaves a request waiting (R270, R276, R288). -/
theorem homeDecide_waits (h : s.claimed (lineOf t.ga) ⟨id, t.core, t.fc⟩ = true ∨ s.lineHeld (lineOf t.ga) = true ∨
    s.needsRecall t = true) : s.homeDecide id t cls = s := by
  refine if_pos ?_
  rcases h with h | h | h <;> simp [h]

/-- A command that has no claim on a line ends none. -/
theorem dropClaim_none {line : Nat} (h : ∀ c ∈ (s.homeAt line).claims, c.id ≠ id) : s.dropClaim line id = s :=
  if_neg (by simpa using h)

/-- The slice at the home after it has served an access of a core's own (R269): of a line that the core caches, the whole. -/
def State.homeServed (s : State) (t : Txn) (cls : Cls) : State :=
  s.sliceFill (if s.caches t.core cls t.ga t.page then lineOf t.ga else t.ga)
    (if s.caches t.core cls t.ga t.page then 64 else t.size)

/-- An access of no engine that nothing holds back at the home passes its checks (R270). -/
structure HomeServes (s : State) (id : Nat) (t : Txn) : Prop where
  waits : (s.claimed (lineOf t.ga) ⟨id, t.core, t.fc⟩ || s.lineHeld (lineOf t.ga) || s.needsRecall t || s.recallAhead id t ||
    s.grantPending t.core (lineOf t.ga) id || s.earlierPending id t) = false
  cached : ∀ cls, (!t.engine && s.caches t.core cls t.ga t.page && !s.bad (lineOf t.ga) 64) = s.caches t.core cls t.ga t.page
  claimless : s.dropClaim (lineOf t.ga) id = s
  near : decide (gaPkg t.ga ≠ corePkg t.core) = false

theorem homeServes (h : Claims.AtHome s id t cls) : HomeServes s id t where
  waits := by
    simp only [h.unclaimed, h.unheld, h.alone, h.ordered, h.landed, h.first, Bool.or_self]
  cached := fun cls => by
    simp only [h.core, h.good, Bool.not_false, Bool.true_and, Bool.and_true]
  claimless := dropClaim_none h.claimless
  near := by simp [h.own]

variable (h : Claims.AtHome s id t cls)
include h

theorem homeDecide_load (hop : t.op = .load) :
    let line := lineOf t.ga
    let h := s.homeAt line
    let cached := s.caches t.core cls t.ga t.page
    let lease := max 1 (s.coreAt t.core).lease.toNat
    let h' : Home := if cls = .hc then { h with rts := max h.rts (max (t.cts + lease) (h.wts + lease)) } else h
    let read : Txn := { t with cts := if cls = .hc then max t.cts h'.wts else t.cts }
    s.homeDecide id t cls = (((s.homeServed t cls).setHome line h').renewed line (cls == .hc)).setTxn id
      (if cached then { read with stage := .granted, value := bytesOf 64 (s.rdNat line 64), lease := (h'.wts, h'.rts) }
       else { read with stage := .done, value := bytesOf t.size (s.rdNat t.ga t.size) }) := by
  obtain ⟨waits, cached, claimless, near⟩ := homeServes h
  unfold State.homeDecide
  simp only [waits, cached, claimless, near, hop, homeAt_sliceFill, coreAt_sliceFill, bad_sliceFill, rdNat_sliceFill, h.bytes,
    Bool.false_eq_true, ↓reduceIte, Bool.not_false, Bool.and_true, Bool.and_false, TxnOp.isLoad, rdNat_setHome, rdNat_renewed,
    beq_iff_eq, Core.leaseOf, State.homeServed]
  split <;> rfl

section
variable {data : List Byte} (hop : t.op = .store data)
include hop

/-- A store of an HC line that the core caches is granted EXCLUSIVE (R275). -/
theorem homeDecide_store_granted (hcached : s.caches t.core cls t.ga t.page = true) (hcls : cls = .hc) :
    s.homeDecide id t cls =
      ((s.homeServed t cls).setHome (lineOf t.ga) { s.homeAt (lineOf t.ga) with owner := some t.core }).setTxn id
        { t with stage := .granted, value := bytesOf 64 (s.rdNat (lineOf t.ga) 64) } := by
  obtain ⟨waits, cached, claimless, -⟩ := homeServes h
  subst hcls
  have owned : (Cls.hc != Cls.sc) = true := rfl
  unfold State.homeDecide
  simp only [waits, cached, claimless, hop, homeAt_sliceFill, rdNat_sliceFill, Bool.false_eq_true, ↓reduceIte,
    Bool.false_and, TxnOp.isLoad, State.homeServed]
  simp only [hcached, owned, Bool.true_and, beq_self_eq_true, ↓reduceIte]

/-- Any other store is performed at the home, above every lease of an HC line (R282). -/
theorem homeDecide_store_home (hcached : s.caches t.core cls t.ga t.page = false ∨ cls = .sc) :
    s.homeDecide id t cls =
      let stamp := max t.cts ((s.homeAt (lineOf t.ga)).rts + 1)
      let w := if cls = .hc then (s.homeServed t cls).setHome (lineOf t.ga)
        { s.homeAt (lineOf t.ga) with wts := stamp, rts := stamp } else s.homeServed t cls
      ((w.wrNat t.ga t.size (natOfBytes data)).updateCopy t.core t.ga t.size).setTxn id { t with
        stage := .done
        value := bytesOf t.size (s.rdNat t.ga t.size)
        cts := if cls = .hc then stamp else t.cts } := by
  obtain ⟨waits, cached, claimless, near⟩ := homeServes h
  have served : (s.caches t.core cls t.ga t.page && cls != .sc) = false := by
    rcases hcached with hcached | rfl
    · simp [hcached]
    · simp
  have old : ∀ u : State, (u.applyOp t.ga t.size (.store data)) = (u.wrNat t.ga t.size (natOfBytes data), u.rdNat t.ga t.size, false) :=
    fun u => applyOp_newValue rfl
  unfold State.homeDecide
  simp only [waits, cached, claimless, near, hop, homeAt_sliceFill, rdNat_sliceFill, Bool.false_eq_true, ↓reduceIte,
    Bool.false_and, TxnOp.isLoad, State.homeServed, old, Bool.not_false, Bool.and_true]
  simp only [served, h.core, Bool.false_eq_true, ↓reduceIte, State.performed, beq_iff_eq, storeStamp]
  split
  · rw [rdNat_setHome, rdNat_sliceFill]
  · rw [rdNat_sliceFill]

end

end

/-! ### Recalls -/

section
variable {s : State} {line : Nat}

theorem exec_recalls (hw : s.recallWanted line = true) (hl : s.grantLanding line = false) :
    exec (.hcRecall line) s = .next (s.recallHc line) ∧ exec (.uRecall line) s = .next (s.recallOneU line) := by
  constructor
  · show execHcRecall line s = _
    rw [execHcRecall, if_pos (by simp [hw, hl])]
  · show execURecall line s = _
    rw [execURecall, if_pos (by simp [hw, hl])]

/-- Without a request that needs it, or with a grant on its way, nothing is recalled (R276). -/
theorem exec_recalls_idle (h : s.recallWanted line = false ∨ s.grantLanding line = true) :
    exec (.hcRecall line) s = .next s ∧ exec (.uRecall line) s = .next s := by
  have idle : ¬ (s.recallWanted line && !s.grantLanding line) = true := by
    rcases h with h | h <;> simp [h]
  constructor
  · show execHcRecall line s = _
    rw [execHcRecall, if_neg idle]
  · show execURecall line s = _
    rw [execURecall, if_neg idle]

theorem recallHc_owner {k : Nat} (h : (s.homeAt line).owner = some k) : s.recallHc line = s.writeBack k line := by
  simp only [State.recallHc, h]

theorem recallHc_none (h : (s.homeAt line).owner = none) : s.recallHc line = s := by
  simp only [State.recallHc, h]

theorem recallOneU_none (h : (s.homeAt line).us = []) : s.recallOneU line = s := by
  simp only [State.recallOneU, h, List.getElem?_nil]

@[simp] theorem homeAt_setHome (s : State) (line : Nat) (h : Home) : (s.setHome line h).homeAt line = h := by
  simp [State.homeAt, State.setHome]

/-- The delta of one of the U copies comes home (R291). -/
theorem recallOneU_some (h : (s.homeAt line).us ≠ []) : ∃ k ∈ (s.homeAt line).us, s.recallOneU line =
    { ((s.mergeDelta k line).setHome line { s.homeAt line with
        us := (s.homeAt line).us.erase k
        wts := (s.homeAt line).rts + 1
        rts := (s.homeAt line).rts + 1 }) with
      fresh := (s.mergeDelta k line).fresh + 1 } := by
  have length : 0 < (s.homeAt line).us.length := List.length_pos_iff.2 h
  have place := Nat.mod_lt (Config.victim (s.homeAt line).us.length s.fresh) length
  refine ⟨_, List.getElem_mem place, ?_⟩
  simp only [State.recallOneU, List.getElem?_eq_getElem place]

end

end Sys2Proof.Machine

open Sys2Proof.Machine in
/-- Settles O51: an access of a pool is `State.performPool`, one of memory `State.homeDecide`, and a recall brings the owner's
line or one core's delta home. -/
theorem accessesPerform : Obligations.AccessesPerform := by
  intro s id t
  refine ⟨fun h htarget hslot => ?pool, fun cls h => ?home, fun cls h htarget hflush hw => ?waits, fun line hw hl => ?brings,
    fun line => exec_recalls_idle⟩
  case pool =>
    rw [exec_remoteAccessPerform h htarget hslot]
    refine ⟨fun hd => congrArg _ (performPool_denied hd), fun ha => ⟨fun hp => congrArg _ (performPool_waits ha hp),
      fun hp => ⟨fun hr => congrArg _ (performPool_outside ha hp hr),
        fun hr hop hb => congrArg _ (performPool_unsound ha hp hr hop hb),
        fun hr hop hb => congrArg _ (performPool_done ha hp hr hb (hop ▸ applyOp_load ..)),
        fun x hr hb hx => congrArg _ (performPool_done ha hp hr hb (applyOp_newValue hx))⟩⟩⟩
  case home =>
    refine ⟨fun hop => ?load, fun data hop => ?store⟩
    case load =>
      rw [exec_homeRequest h.toTravels h.target (by simp [hop]), homeDecide_load h hop]
      rfl
    case store =>
      rw [exec_homeRequest h.toTravels h.target (by simp [hop])]
      refine ⟨fun hc hcls => congrArg _ (homeDecide_store_granted h hop hc hcls), fun hc hcls => ?_, fun hcls => ?_⟩
      · rw [homeDecide_store_home h hop (.inl hc)]
        subst hcls
        rfl
      · rw [homeDecide_store_home h hop (.inr hcls)]
        subst hcls
        rfl
  case waits => rw [exec_homeRequest h htarget hflush, homeDecide_waits hw]
  case brings =>
    obtain ⟨hc, u⟩ := exec_recalls hw hl
    rw [hc, u]
    refine ⟨fun k hk => congrArg _ (recallHc_owner hk), fun hn => congrArg _ (recallHc_none hn),
      fun hn => congrArg _ (recallOneU_none hn), fun k hk => ?one, fun hne => ?some⟩
    case one =>
      obtain ⟨j, hj, he⟩ := recallOneU_some (s := s) (line := line) (by simp [hk])
      obtain rfl : j = k := by simpa [hk] using hj
      rw [he, hk, List.erase_cons_head]
    case some =>
      obtain ⟨k, hk, he⟩ := recallOneU_some hne
      exact ⟨k, hk, _, rfl, by rw [he]; exact congrArg Home.us (homeAt_setHome ..)⟩
end

section
/-! SUPPORT. HANDOVER and RECLASS, and the events that finish them (R187, R188, R285, R286). -/

namespace Sys2Proof.Machine

/-! ### The capability -/

section
variable {o : MOps} {s s1 : State} {p : Phys} {t : Tlb}

/-- The core named by a HANDOVER is one of the system's (R187). -/
structure HandoverOperand (n : Nat) : Prop where
  high : bits n 63 26 = 0
  cluster : bits n 9 6 ≤ 11
  core : bits n 5 2 ≤ 11

/-- Nothing of the core's own is under way on a page that it hands over (R187, R285). -/
structure PagePerformed (s : State) (page size : Nat) : Prop where
  still : s.here.movingTo page size = false
  stored : s.txns.any (fun x => x.2.core == s.core && !x.2.op.isLoad &&
    ((x.2.page == page && x.2.target == .dram .ow) || x.2.rest.any (·.page == page))) = false
  accepted : s.ctx.storeErr = none

theorem exec_handover (hi : Issues (.handover o) o.h s) (hp : (resolvePage (o.ea s.ctx)).run s = .ok (p, s1))
    (ht : p.page = some t) (hcls : p.cls = .ow) (hn : HandoverOperand (s.ctx.rg o.h.s3.index).toNat)
    (hcap : s1.holds s1.core p.pageGa = true) (hdone : PagePerformed s1 p.pageGa (2 ^ leafBits t.level)) :
    exec (.handover o) s = .next (
      (((s1.here.linesOf p.pageGa (2 ^ leafBits t.level)).foldl
        (fun s l => (s.writeBack s.core l.addr).modHere (·.dropLine l.addr)) (s1.settleGrants s1.core p.pageGa)).modPkg
          (gaPkg p.pageGa) (fun x =>
            { x with caps := tset x.caps p.pageGa ⟨none, some (s.ctx.rg o.h.s3.index).toNat, false⟩ })).retired (.handover o)) := by
  obtain ⟨high, cluster, core⟩ := hn
  obtain ⟨still, stored, accepted⟩ := hdone
  refine issueNext_ok hi ?_
  rw [act_bind_ok (act_getCtx s), act_bind_ok hp, act_bind_ok (act_unlessFault (by simp [ht, hcls, high, cluster, core]) _ _ _),
    act_bind_ok (act_get s1), act_bind_ok (act_unlessFault hcap _ _ _), ht, act_bind_ok (act_waitUntil (by simp [still]) _ _ _),
    act_bind_ok (act_waitUntil (by rw [stored]; rfl) _ _ _), act_bind_ok (act_storeCheck accepted), act_modify]
  rfl

end

/-- At its grant the core that the word heads for holds the capability (R285). -/
theorem exec_owGrant {s : State} {page k : Nat} (h : tfind (s.pkgAt (gaPkg page)).caps page = some ⟨none, some k, true⟩) :
    exec (.owGrant page) s = .next
      ((s.modPkg (gaPkg page) (fun x => { x with caps := tset x.caps page ⟨some k, none, false⟩ })).modCore k
        (fun c => { c with ctx := c.ctx.map Ctx.event })) := by
  show execOwGrant page s = _
  rw [execOwGrant, h]

/-! ### The class -/

@[simp] theorem pkgAt_stayed (s : State) (i : Instr) (n : Nat) : (s.stayed i).pkgAt n = s.pkgAt n := rfl

@[simp] theorem mem_stayed (s : State) (i : Instr) : (s.stayed i).mem = s.mem := rfl

theorem ctx_stayed (s : State) (i : Instr) : (s.stayed i).ctx = s.ctx.commitRegion i := by
  rw [State.stayed, ctx_modHere_of (f := (·.count 1)) fun _ => rfl, State.ctx_modCtx]

/-- The mark of a class change under way. -/
def State.reclassMark (s : State) (ea : Nat) (t : Tlb) (new : Cls) : Reclass where
  size := 2 ^ leafBits t.level
  newCls := new
  oldCls := t.cls
  core := s.core
  fc := s.fc % 4
  pte := leafFrom s ea t.root [(55, 43), (42, 30), (29, 21), (20, 16)]
  draining := false
  seq := s.nextId

/-- A page is marked for a new class, and the context waits for the change. -/
def State.marked (s : State) (ea : Nat) (t : Tlb) (new : Cls) : State :=
  (s.modPkg (gaPkg t.pageGa) (fun x => { x with reclass := tset x.reclass t.pageGa (s.reclassMark ea t new) })).modCtx
    (fun c => { c with awaited := some (.reclass t.pageGa), stall := none })

theorem tfind_reclass_marked (s : State) (ea : Nat) (t : Tlb) (new : Cls) :
    tfind ((s.marked ea t new).pkgAt (gaPkg t.pageGa)).reclass t.pageGa = some (s.reclassMark ea t new) := by
  have marked : (s.marked ea t new).pkgAt (gaPkg t.pageGa) = (s.modPkg (gaPkg t.pageGa) (fun x =>
      { x with reclass := tset x.reclass t.pageGa (s.reclassMark ea t new) })).pkgAt (gaPkg t.pageGa) := rfl
  rw [marked, pkgAt_modPkg, tfind_tset, if_pos rfl]

section
variable {o : MOps} {s s1 : State} {p : Phys} {t : Tlb} (hi : Issues (.reclass o) o.h s)
  (hk : (s.ctx.rg o.h.s3.index).toNat < 4) (hp : (resolvePage (o.ea s.ctx)).run s = .ok (p, s1)) (ht : p.page = some t)
include hi hk hp ht

theorem exec_reclass_same (h : t.cls = Cls.ofCode (s.ctx.rg o.h.s3.index).toNat) :
    exec (.reclass o) s = .next (s1.retired (.reclass o)) := by
  refine issue_next hi ?_
  rw [act_bind_ok (act_getCtx s), act_bind_ok (act_unlessFault (decide_eq_true hk) _ _ _), act_bind_ok hp, ht]
  dsimp only
  rw [if_pos (beq_iff_eq.2 h), act_pure]

theorem exec_reclass_other (h : t.cls ≠ Cls.ofCode (s.ctx.rg o.h.s3.index).toNat) :
    exec (.reclass o) s = .next ((s1.marked (o.ea s.ctx) t (Cls.ofCode (s.ctx.rg o.h.s3.index).toNat)).stayed (.reclass o)) := by
  refine issue_stay hi ?_
  rw [act_bind_ok (act_getCtx s), act_bind_ok (act_unlessFault (decide_eq_true hk) _ _ _), act_bind_ok hp, ht]
  dsimp only
  rw [if_neg (by simpa using h), act_bind_ok (act_modify _ _), act_pure]
  rfl

end

section
variable {s : State} {page : Nat} {r : Reclass} (h : tfind (s.pkgAt (gaPkg page)).reclass page = some r)
include h

theorem exec_reclassTlbsConfirmed (hd : r.draining = false) : exec (.reclassTlbsConfirmed page) s = .next
    ((s.modPkg (gaPkg page) (fun x => { x with reclass := tset x.reclass page { r with draining := true } })).oldClassStep
      page r) := by
  show execReclassTlbsConfirmed page s = _
  simp only [execReclassTlbsConfirmed, h, hd, Bool.false_eq_true, ↓reduceIte]

theorem exec_reclassDrained (hd : r.draining = true) (hp : s.pageDrained page r = true) :
    exec (.reclassDrained page) s = .next
      (((s.newClassStep page r).modPkg (gaPkg page) (fun x => { x with reclass := tdel x.reclass page })).modCtxOf r.core r.fc
        (fun c => match c.awaited with
          | some (.reclass q) => if q = page then c.resume else c
          | _ => c)) := by
  show execReclassDrained page s = _
  rw [execReclassDrained, h]
  dsimp only
  exact congrArg _ (if_pos (by rw [hd, hp, Bool.and_self]))

end

end Sys2Proof.Machine

open Sys2Proof.Machine in
/-- Settles O21: a HANDOVER whose checks pass and that waits for nothing makes its effect, a RECLASS marks the page or goes on,
and the events find the word or the mark that they finish. -/
theorem capabilityAndClass : Obligations.CapabilityAndClass := by
  intro o s s1 p t page k r
  refine ⟨?handover, fun _ => rfl, exec_owGrant, ?reclass, exec_reclassTlbsConfirmed, exec_reclassDrained⟩
  case handover =>
    intro n hi hp ht hcls high cluster core hcap still stored accepted
    exact exec_handover hi hp ht hcls ⟨high, cluster, core⟩ hcap ⟨still, stored, accepted⟩
  case reclass =>
    intro hi hk hp ht
    refine ⟨exec_reclass_same hi hk hp ht, fun h => ⟨_, exec_reclass_other hi hk hp ht h, ?_, ?_, rfl, _,
      tfind_reclass_marked .., rfl, rfl, rfl⟩⟩
    all_goals
      obtain ⟨d, hd⟩ := commitRegion_eq (s1.marked (o.ea s.ctx) t (Cls.ofCode (s.ctx.rg o.h.s3.index).toNat)).ctx (.reclass o)
      rw [ctx_stayed, hd, State.marked, State.ctx_modCtx]
    · rfl
end
